-- ==== Sys2Proof/Word.lean ====
section
/-! DEFINITION. The words of the GSM-4180: bytes, 32-bit registers (R5), 64-bit quantities, and the
bounded indexes a command names (tenant, queue, engine, Rein port, ETH port, AP link, chip). -/
namespace Sys2Proof

/-- One byte of memory, of a packet or of a record. -/
abbrev Byte := BitVec 8
/-- One register: every register is 32 bits wide (R5). -/
abbrev Word := BitVec 32
/-- A 64-bit quantity: two consecutive registers, or a device address (R5, R13). -/
abbrev DWord := BitVec 64
/-- A tenant T0 to T15 (R399); tenant t is reached through PF0 (t = 0) or VF t. -/
abbrev Tenant := Fin 16
/-- A command queue of one tenant (chapter 06). -/
abbrev Queue := Fin 8
/-- A movement engine ME0 to ME31 (Table 1.1). -/
abbrev Engine := Fin 32
/-- A Rein link RL0 to RL11 (Table 1.1). -/
abbrev Port := Fin 12
/-- An ETH port (Table 1.1). -/
abbrev EthPort := Fin 2
/-- An accelerator-port link (R393). -/
abbrev ApLink := Fin 4
/-- A chip ID of the rack domain (Table 0.5). -/
abbrev Chip := Fin 64
/-- A control core of CF (Table 1.1). -/
abbrev CoreIx := Fin 4

end Sys2Proof
end

