-- ==== Sys2Proof/Syntax.lean ====
section
/-! DEFINITION. The commands of the block: one constructor per row of the opcode table, in the table's order, with the operands
this model gives it (log entry 3), and the types of those operands. -/
namespace Sys2Proof

/-- A PTP message as CF sees it (log entry 14): IEEE 1588 message type, the time stamp it carries, the rack time of its arrival
(R42), and the data set an Announce carries: priority1, clockClass, accuracy, variance, priority2, identity, steps removed. -/
structure PtpMsg where
  kind : Nat
  /-- a Sync whose time stamp follows in a Follow_Up -/
  twoStep : Bool
  origin : Nat
  rx : Nat
  dataset : List Nat
  deriving DecidableEq, Repr

/-- A request present at an arbiter's edge: the requester (its place in Table 9.1's list for the arbiter), its rank (1, 2,
3; Table 9.2), the tick of an admitted TICKED transfer, the locked sequence whose mark it carries, since when it has been
asserted, its virtual channel at a Rein egress, the offset its access names (Tables 3.1 and 3.7), and whether it is first
present at an edge inside the beat that is ending (R269). -/
structure ArbReq where
  who : Nat
  rank : Nat
  tick : Nat
  seq : Option Nat
  since : Nat
  vc : Nat
  off : Nat
  mid : Bool
  deriving DecidableEq, Repr

/-- A Rein message (Tables 12.3 to 12.5). -/
structure Msg where
  vc : Nat
  mop : Nat
  src : Nat
  dest : Nat
  rank : Nat
  lock : Bool
  tick : Nat
  tenant : Nat
  ackReq : Bool
  cmdLast : Bool
  cmdTag : Nat
  eseq : Nat
  epoch : Nat
  status : Nat
  da : Nat
  win : Nat
  gen : Nat
  rtag : Nat
  operand : Nat
  extra : List (BitVec 8)
  data : List (BitVec 8)
  deriving DecidableEq, Repr

/-- What the I3C target is asked (R485): a common command with its code and data, or a private read of the register at an
index (Table 17.9). -/
inductive I3cOp where
  | ccc (code : Nat) (data : List (BitVec 8))
  | read (index : Nat)
  deriving DecidableEq, Repr

/-- What a debugger does through the D2 access port (Table 16.10): halt, resume, step and register access of a core (0 to 3 control
cores, 4 and 5 Loupe cores), and reads and writes of a device address. -/
inductive DbgOp where
  | halt (core : Nat)
  | resume (core : Nat)
  | step (core : Nat)
  | coreRead (core reg : Nat)
  | coreWrite (core reg value : Nat)
  | read (da n : Nat)
  | write (da : Nat) (data : List (BitVec 8))
  deriving DecidableEq, Repr

/-- The commands. -/
inductive Instr where
  /-- REGISTER_WRITE (R552): A write to a register that has no row of its own: range, reserved-bit and lifecycle checks,
  then the value is stored or the whole word is discarded with the block's CFG flag. With `hi` the access has 64 bits, and `hi`
  is its high word (R5). -/
  | registerWrite (fn : Tenant) (off : BitVec 25) (v : Word) (hi : Option Word) (poisoned secure : Bool)
  /-- INVALID_REGISTER_ACCESS (R6): A narrow, misaligned or unmapped register access reads zero, discards its write and sets
  GLB_ERR.ACCESS, and the PCIe access completes normally. `v` is the data of a write of 32 or 64 bits. -/
  | invalidRegisterAccess (fn : Tenant) (off : BitVec 25) (size : Fin 65) (v : DWord) (read secure : Bool)
  /-- RC_READ (R8): A read of an RC field returns its value and clears it, or restarts a highest-since-last-read field from
  the current value. A `wide` read has 64 bits (R5). -/
  | rcRead (fn : Tenant) (off : BitVec 25) (wide secure : Bool)
  /-- STICKY_FLAG_CLEAR (R21): A W1C write of 1 clears a sticky flag and its count, unless a setting event falls in the same
  cycle. -/
  | stickyFlagClear (fn : Tenant) (off : BitVec 25) (v : Word) (same : Nat) (secure : Bool)
  /-- CAD_TIME_LO_READ (R5): A 32-bit read of CAD_TIME_LO returns bits 31:0 of rack time and latches bits 63:32 for the next
  CAD_TIME_HI read by the same function. -/
  | cadTimeLoRead (fn : Tenant)
  /-- CADENCE_ENABLE (R50): A write of 1 to CAD_CTRL.EN on the domain master starts the cadence, or is refused with
  CAD_CFG.CFG for an out-of-range period or a future epoch. -/
  | cadenceEnable
  /-- CADENCE_DISABLE (R48): A write of 0 to CAD_CTRL.EN on the domain master stops the cadence and is distributed to
  followers. -/
  | cadenceDisable
  /-- SWITCH_ARM (R51): A write of 1 to CAD_CTRL.SWITCH_ARM arms a period switch at CAD_SWITCH_TICK, or is refused with
  CAD_CFG.CFG. -/
  | switchArm
  /-- SET_TIME (R37): A write of 1 to CAD_CTRL.SET_TIME on the master with EN at 0 steps rack time to CAD_TIME_SET;
  elsewhere it loads nothing and sets CAD_CFG.CFG. -/
  | setTime
  /-- ACCEPT_SRC (R39): A write of 1 to CAD_CTRL.ACCEPT_SRC makes the device use an out-of-limit time source and slew to it. -/
  | acceptSrc
  /-- TICK_EDGE (R49): Rack time reaches the next tick edge: CAD_TICK advances, TICK_OUT rises, commands of the new tick
  become eligible and the admission window moves. `arm` says that a write of 1 to SWITCH_ARM falls in its cycle (R12). -/
  | tickEdge (arm : Bool)
  /-- TICK_OUT_FALL (R52): The TICK_OUT pulse width expires and the pin returns to its idle level. -/
  | tickOutFall
  /-- PPS_OUT_RISE (R53): Rack time reaches a whole multiple of 10^9 ns and PPS_OUT rises. -/
  | ppsOutRise
  /-- PPS_OUT_FALL (R53): The PPS_OUT width of CAD_PPS_OUT.WIDTH µs expires and the pin falls. -/
  | ppsOutFall
  /-- PPS_IN_EDGE (R53): A rising edge on PPS_IN is timestamped into CAD_PPS_IN_TS and serves the phase lock when PPS is the
  source. -/
  | ppsInEdge (at_ : Nat)
  /-- PPS_IN_TIMEOUT (R53): No PPS_IN edge arrives within 1.001 s while PPS is the source: PPSIN is set and the next source
  is taken. -/
  | ppsInTimeout
  /-- PTP_MESSAGE (R41): A PTP event or general message is received and timestamped, and CF runs the protocol, best master
  clock algorithm and servo on it. -/
  | ptpMessage (p : EthPort) (m : PtpMsg)
  /-- PTP_SOURCE_LOST (R38): The PTP source is lost and the master falls to PPS_IN or HOLDOVER, setting CAD_SRC.SRC. -/
  | ptpSourceLost (p : EthPort)
  /-- HOLDOVER_RECORD (R67): Each second while locked, CF records the oscillator's frequency offset and temperature for the
  holdover model. -/
  | holdoverRecord (freq temp : Int)
  /-- RACK_TIME_STORE (R40): Every 900 s of rack time, rack time is written to the monotonic store. -/
  | rackTimeStore
  /-- JOIN_HOLD_RELEASE (R47): A joining follower that held its rack time finds the master's rack time has reached it and
  starts following the master. -/
  | joinHoldRelease
  /-- MASTER_LOSS (R46): The domain master fails or leaves and a new master is elected within 5 ms while followers run on
  holdover. -/
  | masterLoss
  /-- TIMED_LAUNCH (R63): Local rack time reaches a TIMED command's launch time and the command starts on its engine, taking
  it from unticked work if admitted. -/
  | timedLaunch (id : Nat)
  /-- SCRUB_STEP (R80): The SRAM and staging scrub reads, corrects and writes back the next word at MEM_SCRUB_POS. -/
  | scrubStep
  /-- HBM_SCRUB_STEP (R81): The HBM scrub reads and corrects the next HBM granule at MEM_HBM_SCRUB_POS. -/
  | hbmScrubStep
  /-- HBM_READY (R76): HBM finishes training and clearing after a state exit and MEM_STATUS.HBM_READY is set. -/
  | hbmReady
  /-- WC_RESIZE (R86): A write of MEM_WC.SIZE is checked and, if accepted, starts a weight-cache resize with WC_RESIZE_BUSY
  set. -/
  | wcResize (v : Fin 8)
  /-- WC_RESIZE_COMPLETE (R86): In-flight fills complete, the cache is invalidated, the new size applies and WC_RESIZE_BUSY
  clears. -/
  | wcResizeComplete
  /-- WC_PIN_ENABLE (R89): A write of MEM_WC_PINk.EN enables a pin range, or is refused with MEM_CFG.CFG when pins would
  exceed half the cache. -/
  | wcPinEnable (k : Fin 4) (w : Word)
  /-- WC_FILL_COMPLETE (R87): A weight-cache sector fill from HBM lands and releases every read waiting on it. -/
  | wcFillComplete (line : Nat) (sector : Fin 16)
  /-- FACET_REGISTER_WRITE (R97): T0 writes MEM_FACET_t_k, which is discarded with MEM_CFG.CFG when A, W and Y break R95. -/
  | facetRegisterWrite (t : Tenant) (k : Fin 4) (w : Word)
  /-- BAR2_READ (R93): A host read through the BAR2 SRAM aperture passes Bridle and returns data, zeros for device-internal
  bytes, or poisoned data on an uncorrectable word. -/
  | bar2Read (off : BitVec 30) (n : Fin 4097) (secure : Bool)
  /-- BAR2_WRITE (R93): A host write through the BAR2 aperture passes Bridle and commits granule by granule in PCIe order. -/
  | bar2Write (off : BitVec 30) (data : List Byte) (poisoned secure : Bool)
  /-- NOP (R191): NOP completes with DONE when decoded or started. -/
  | nop (t : Tenant) (q : Queue) (p : List Byte)
  /-- FENCE (R191): FENCE completes once every earlier write of its queue is committed, or with FAULT_LINK if its flushing
  read fails. -/
  | fence (t : Tenant) (q : Queue) (p : List Byte) (fails : Bool)
  /-- HELLO (R175): HELLO negotiates the tenant's packet format, returning DONE, REJ_COMPAT or REJ_BUSY. -/
  | hello (t : Tenant) (q : Queue) (p : List Byte)
  /-- WIN_CREATE (R193): T0 creates an allocation window in local SRAM or HBM and receives its window ID. -/
  | winCreate (t : Tenant) (q : Queue) (p : List Byte)
  /-- WIN_REVOKE (R194): T0 advances a window's generation, optionally changing owner and permissions, invalidating
  descriptors of the old generation. -/
  | winRevoke (t : Tenant) (q : Queue) (p : List Byte)
  /-- WIN_DESTROY (R194): T0 destroys a window, advancing its generation and freeing its range. -/
  | winDestroy (t : Tenant) (q : Queue) (p : List Byte)
  /-- WINDOW_DRAIN_COMPLETE (R404): Every command and landing that passed the old generation check has completed, and the
  revocation or destruction record is written. -/
  | windowDrainComplete (id : Nat)
  /-- DESC_CREATE (R195): CF validates and stores a batch of 1 to 64 storage descriptors, echoing handles and reporting the
  count created. -/
  | descCreate (t : Tenant) (q : Queue) (p : List Byte) (fails : Bool)
  /-- WIN_QUERY_TIMEOUT (R104): A remote window query goes unanswered for 100 µs and the descriptor creation completes with
  FAULT_LINK. -/
  | winQueryTimeout (id : Nat)
  /-- DESC_DESTROY (R196): CF checks 1 to 9 handles and destroys all of them, or none with REJ_HANDLE. -/
  | descDestroy (t : Tenant) (q : Queue) (p : List Byte)
  /-- MOVE (R121): A MOVE with a view is checked, admitted if TICKED and dispatched to an engine. -/
  | move (t : Tenant) (q : Queue) (p : List Byte) (fails : Bool)
  /-- MOVE_PLAIN (R122): A MOVE without a view copies a descriptor to one of the same shape under the implied identity view. -/
  | movePlain (t : Tenant) (q : Queue) (p : List Byte) (fails : Bool)
  /-- GATHER_PAGES (R123): A move whose outermost source dimension is selected by a page list is checked and dispatched. -/
  | gatherPages (t : Tenant) (q : Queue) (p : List Byte) (fails : Bool)
  /-- SCATTER_PAGES (R123): A move whose outermost destination dimension is placed by a page list is checked and dispatched. -/
  | scatterPages (t : Tenant) (q : Queue) (p : List Byte) (fails : Bool)
  /-- CHAIN (R204): A stitched chain of 2 to 6 stages is read from its stage table, checked and dispatched, with hand-overs
  in staging. -/
  | chain (t : Tenant) (q : Queue) (p : List Byte) (fails : Bool)
  /-- METADATA_READ_COMPLETE (R202): The front end's read of a page list or stage table completes and the command's checks
  proceed on the copy, or it fails with FAULT_LINK or FAULT_ECC. -/
  | metadataReadComplete (id : Nat) (fails : Bool)
  /-- SHORT_WRITE (R206): An inline write of up to 48 bytes is checked and queued on the Awl path. -/
  | shortWrite (t : Tenant) (q : Queue) (p : List Byte) (fails : Bool)
  /-- SHORT_COPY (R207): A copy of up to 256 bytes is checked and queued on the Awl path. -/
  | shortCopy (t : Tenant) (q : Queue) (p : List Byte) (fails : Bool)
  /-- AWL_OPERATION (R254): The Awl path performs its next pending operation, highest rank first, committing each granule
  whole. -/
  | awlOperation (fails : Bool)
  /-- SIGNAL (R209): SIGNAL issues up to four signal specs in order to counters, flags or interrupt vectors. -/
  | signal (t : Tenant) (q : Queue) (p : List Byte) (fails : Bool)
  /-- WAIT (R210): WAIT starts and holds its queue until one or two counter conditions hold at one instant, optionally
  consuming. -/
  | wait (t : Tenant) (q : Queue) (p : List Byte) (fails : Bool)
  /-- WAIT_TIMEOUT (R289): A WAIT's TIMEOUT expires and it completes with ABORT_TIMEOUT, consuming nothing. -/
  | waitTimeout (id : Nat)
  /-- BARRIER_ARRIVE (R298): An arrival is counted at the barrier's home, completing the phase when ARRIVE reaches PARTS. -/
  | barrierArrive (t : Tenant) (q : Queue) (p : List Byte) (fails : Bool)
  /-- BARRIER_WAIT_TIMEOUT (R211): A waiting BARRIER_ARRIVE's TIMEOUT expires and it completes with ABORT_TIMEOUT, its
  arrival still counted. -/
  | barrierWaitTimeout (id : Nat)
  /-- LOCK_ACQUIRE (R212): LOCK_ACQUIRE takes a local lock and, for a remote home, requests the home's lock, opening a
  locked sequence. -/
  | lockAcquire (t : Tenant) (q : Queue) (p : List Byte) (fails : Bool)
  /-- LOCK_RELEASE (R212): LOCK_RELEASE closes the locked sequence and releases the home and local locks behind the
  sequence's writes. -/
  | lockRelease (t : Tenant) (q : Queue) (p : List Byte) (fails : Bool)
  /-- LOCK_ACQUIRE_TIMEOUT (R277): A LOCK_ACQUIRE's TIMEOUT expires; held locks are released and the sequence completes with
  ABORT_TIMEOUT. -/
  | lockAcquireTimeout (id : Nat)
  /-- LOCK_WAIT_EXPIRY (R275): A queued remote lock request waits LOCK_WAIT at the home and the home answers LOCK_BUSY. -/
  | lockWaitExpiry (t : Tenant) (l : Nat)
  /-- LOCK_BACKOFF_EXPIRY (R276): A requester's random backoff after a busy answer ends and it retries from local
  acquisition. -/
  | lockBackoffExpiry (id : Nat)
  /-- LOCK_REAP (R306): A home frees a lock held by a remote chip for more than 10 µs, marks it BROKEN and sets SYN_LREAP. -/
  | lockReap (t : Tenant) (l : Nat)
  /-- FLAG_SET (R214): FLAG_SET sets the masked event flags of one word atomically. -/
  | flagSet (t : Tenant) (q : Queue) (p : List Byte) (fails : Bool)
  /-- FLAG_CLEAR (R214): FLAG_CLEAR clears the masked event flags of one word atomically. -/
  | flagClear (t : Tenant) (q : Queue) (p : List Byte) (fails : Bool)
  /-- RING (R215): RING writes a tail value to one of the tenant's doorbells, completing with REJ_BOUNDS if the doorbell is
  refused. -/
  | ring (t : Tenant) (q : Queue) (p : List Byte) (fails : Bool)
  /-- GRAPH_LOAD (R314): CF reads and checks a node table and loads a graph into the tenant's node slots. -/
  | graphLoad (t : Tenant) (q : Queue) (p : List Byte) (fails : Bool)
  /-- GRAPH_LAUNCH (R321): A graph launch reserves CQ and TIMED slots, admits its TICKED nodes as a unit and releases the
  graph now or at LAUNCH. -/
  | graphLaunch (t : Tenant) (q : Queue) (p : List Byte) (fails : Bool)
  /-- GRAPH_RELEASE (R321): A graph launched for a later time is released: INIT_MASK is set and its nodes are armed in slot
  order. -/
  | graphRelease (t : Tenant) (graph : Byte)
  /-- GRAPH_UNLOAD (R218): GRAPH_UNLOAD frees a loaded graph's node slots. -/
  | graphUnload (t : Tenant) (q : Queue) (p : List Byte)
  /-- PWR_REQUEST (R469): T0 requests a power state; the device checks the refusal conditions and starts the entry sequence. -/
  | pwrRequest (t : Tenant) (q : Queue) (p : List Byte)
  /-- CAL_RUN (R509): T0 starts calibration of the selected scopes. -/
  | calRun (t : Tenant) (q : Queue) (p : List Byte)
  /-- CAL_RUN_COMPLETE (R509): A calibration run ends, keeping or replacing each scope's values and completing with DONE or
  FAULT_INTERNAL. -/
  | calRunComplete (failed : BitVec 6) (ports settled : Bool)
  /-- CAL_SAVE (R510): The values in force are written as a new user calibration record into the older copy and read back. -/
  | calSave (t : Tenant) (q : Queue) (p : List Byte)
  /-- RESTORE_FACTORY (R511): Both user calibration copies are erased and the factory record becomes the source of every
  scope. -/
  | restoreFactory (t : Tenant) (q : Queue) (p : List Byte)
  /-- ATTEST_QUOTE (R446): The device writes signed quote evidence naming the issuing tenant, nonce and measurements. -/
  | attestQuote (t : Tenant) (q : Queue) (p : List Byte) (fails : Bool)
  /-- FW_BEGIN (R223): An update session opens on the non-booted slot, making it INVALID. -/
  | fwBegin (t : Tenant) (q : Queue) (p : List Byte)
  /-- FW_DATA (R223): A chunk of firmware image is read from its source and programmed into the open slot at the next
  offset. -/
  | fwData (t : Tenant) (q : Queue) (p : List Byte) (fails : Bool)
  /-- FW_COMMIT (R224): The received image is verified and the slot becomes CANDIDATE, or INVALID with REJ_PERM, REJ_COMPAT
  or REJ_BOUNDS. -/
  | fwCommit (t : Tenant) (q : Queue) (p : List Byte)
  /-- FW_ABORT (R223): The open update session is discarded. -/
  | fwAbort (t : Tenant) (q : Queue) (p : List Byte)
  /-- SAFE_CONFIG (R414): CF checks a safety configuration table and passes it to the Loupe, which applies it whole between
  evaluations. -/
  | safeConfig (t : Tenant) (q : Queue) (p : List Byte) (fails : Bool)
  /-- SAFE_HEARTBEAT (R424): SAFE_HEARTBEAT refreshes one of the tenant's age watchers. -/
  | safeHeartbeat (t : Tenant) (q : Queue) (p : List Byte) (fails : Bool)
  /-- QUEUE_ENABLE (R153): A write of 1 to TP_Qq_CTRL.EN enables a queue if its ring configuration and CQ pass, zeroing HEAD
  and TAIL. -/
  | queueEnable (t : Tenant) (q : Queue)
  /-- QUEUE_DISABLE (R154): A write of 0 to TP_Qq_CTRL.EN stops fetching; shadowed commands run and unfetched packets are
  dropped. -/
  | queueDisable (t : Tenant) (q : Queue)
  /-- QUEUE_RESUME (R160): A write of 1 to TP_Qq_CTRL.RESUME restarts fetching of a halted queue from HEAD. -/
  | queueResume (t : Tenant) (q : Queue)
  /-- QUEUE_WIN_WRITE (R153): A write of TP_Qq_WIN while the queue is halted rebinds the ring to a new window generation,
  keeping HEAD, TAIL and the shadow. -/
  | queueWinWrite (t : Tenant) (q : Queue) (v : Word)
  /-- CQ_ENABLE (R151): A write of 1 to TP_CQ_CTRL.EN enables the completion queue if its ring passes the checks. -/
  | cqEnable (t : Tenant)
  /-- CQ_DISABLE (R153): A write of 0 to TP_CQ_CTRL.EN disables the CQ, or is refused while a queue is enabled. -/
  | cqDisable (t : Tenant)
  /-- CQ_RESUME (R173): A write of 1 to TP_CQ_CTRL.RESUME rewrites the pending records of a halted CQ in order. -/
  | cqResume (t : Tenant)
  /-- CQ_WIN_WRITE (R153): A write of TP_CQ_WIN while the CQ is halted rebinds it to a new window generation. -/
  | cqWinWrite (t : Tenant) (v : Word)
  /-- DOORBELL (R155): A write to TP_Qq_TAIL advances TAIL, or is discarded with QOVR when it would overfill the ring or
  move backwards. -/
  | doorbell (t : Tenant) (q : Queue) (v : Word)
  /-- CQ_DOORBELL (R167): A write to TP_CQ_HEAD reports consumed records, or is discarded with CQOVR; freed space resumes
  decoding. -/
  | cqDoorbell (t : Tenant) (v : Word)
  /-- CMQ_STOP_WRITE (R182): A write of CMQ_STOP stops or resumes fetching for each tenant. -/
  | cmqStopWrite (v : BitVec 16)
  /-- QUEUE_FETCH (R156): The front end samples TAIL and fetches a burst of whole packets into the queue's shadow, advancing
  HEAD. `same` says that a write of 1 to RESUME falls in its cycle (R12). -/
  | queueFetch (t : Tenant) (q : Queue) (same : Bool)
  /-- QUEUE_FETCH_FAIL (R157): A ring read fails or finds a stale window and the queue halts with CAUSE FETCH. -/
  | queueFetchFail (t : Tenant) (q : Queue)
  /-- PACKET_DECODE (R161): The front end decodes the next shadowed packet, applying the sequence, header, opcode and body
  checks. -/
  | packetDecode (t : Tenant) (q : Queue) (fails : Bool)
  /-- DEFERRED_DISPATCH (R236): A command waiting in the front end because every engine in its mask was offline or full is
  dispatched once one frees. -/
  | deferredDispatch (id : Nat)
  /-- CF_WORK_START (R30): CF takes its next item in rank order: TICKED plan computations, other plans, then firmware-path
  commands. -/
  | cfWorkStart (fails : Bool)
  /-- PLAN_COMPUTE_COMPLETE (R144): CF finishes a prism plan, writes the cache entry if possible and loads the waiting
  engines' latches. -/
  | planComputeComplete
  /-- PRI_PART_WRITE (R148): T0 repartitions the plan cache for a tenant, invalidating unpinned entries of changed
  partitions, or is refused. -/
  | priPartWrite (t : Tenant) (w : Word)
  /-- PRI_INVAL (R147): A write of PRI_INVAL invalidates the selected tenants' unpinned plan entries. -/
  | priInval (w : Word)
  /-- COMMAND_START (R189): A dispatched command's start condition (DEP, FENCE, WAIT, tick edge) comes to hold and it
  starts. -/
  | commandStart (id : Nat) (fails : Bool)
  /-- COMMAND_ACTIVATE (R229): A run-list command's staging reservation fits and it enters the engine's active set. -/
  | commandActivate (id : Nat)
  /-- ENGINE_CHUNK_DECISION (R241): At the last beat of a chunk the engine chooses the next command by rank, regime and
  stream and serves it. `fails` says that the outside refuses a read of the chunk, `cut` after how many beats of 16 an admitted
  TICKED transfer takes the engine from unticked work (R33). -/
  | engineChunkDecision (e : Engine) (fails : Bool) (cut : Fin 17)
  /-- STARVE_TIMEOUT (R246): An unticked command receives no chunk for ENG_STARVE_US and ENG_STARVE is set. -/
  | starveTimeout (id : Nat)
  /-- SIG_AFTER_SEND (R165): Once every byte of a command's data is committed (or acknowledged remotely) the announcing
  signal is sent. -/
  | sigAfterSend (id : Nat)
  /-- COMMAND_COMPLETE (R170): A command ends and its completion record is written in submission order with status, warnings
  and bytes. -/
  | commandComplete (id : Nat)
  /-- IRQ_MODERATION_TIMER (R180): The oldest pending record has waited TP_IRQ.TIME µs and vector 0 is sent. -/
  | irqModerationTimer (t : Tenant)
  /-- ENGINE_RESET (R259): A write of 1 to ENG_ECTRLn.RESET releases grants, aborts the engine's commands with ABORT_RESET
  and breaks its locks. -/
  | engineReset (e : Engine)
  /-- ENGINE_RESET_COMPLETE (R259): Every tag of a reset engine has returned or timed out; RESET clears and the engine takes
  commands again. `same` says that a write of 1 to RESET falls in its cycle (R12). -/
  | engineResetComplete (e : Engine) (same : Bool)
  /-- ENGINE_OFFLINE (R260): A write of ENG_ECTRLn.OFFLINE stops or resumes dispatch to the engine. -/
  | engineOffline (e : Engine) (v : Bool)
  /-- ENG_SPART_WRITE (R261): T0 sets a tenant's stream partition, zeroing dry-times of changed entries, or is refused. -/
  | engSpartWrite (t : Tenant) (w : Word)
  /-- ARBITER_DECISION (R266): During a grant's last beat, or on an idle lane, an arbiter picks the next holder by rank and
  tie order. -/
  | arbiterDecision (lane : Nat) (idle : Bool) (reqs : List ArbReq)
  /-- LOCKED_BOUND_EXPIRY (R271): A locked sequence reaches 2 µs or 64 beats on a lane and is ended with ABORT_TIMEOUT, its
  lock marked BROKEN. `q` is a queue, or 8 + the chip of a sequence of another chip (R273). -/
  | lockedBoundExpiry (t : Tenant) (q : Fin 72) (beats : Bool)
  /-- COUNTER_SET (R283): A write to TP_CNT_i sets the counter's value. -/
  | counterSet (t : Tenant) (i : Nat) (v : Word)
  /-- COUNTER_ADD (R283): A write to TP_CNT_ADD_i adds to the counter, saturating with OVF. -/
  | counterAdd (t : Tenant) (i : Nat) (v : Word)
  /-- COUNTER_SUB (R283): A write to TP_CNT_SUB_i subtracts from the counter, saturating with UNF. -/
  | counterSub (t : Tenant) (i : Nat) (v : Word)
  /-- BARRIER_ENABLE (R297): A write of 1 to TP_BAR_b.EN enables a barrier with SENSE 0, or is refused with TP_CFG.CFG. -/
  | barrierEnable (t : Tenant) (b a : Nat)
  /-- BARRIER_DISABLE (R297): A write of 0 to TP_BAR_b.EN disables a barrier, or is refused while waiting arrivals are held. -/
  | barrierDisable (t : Tenant) (b a : Nat)
  /-- SYN_PARTITION_WRITE (R282): T0 repartitions counters, barriers or locks for a tenant, resetting objects that change
  owner, or is refused. -/
  | synPartitionWrite (k : Fin 3) (t : Tenant) (w : Word)
  /-- EVF_SET_WRITE (R316): A write to TP_EVF_SET_w sets event flags and readiness is evaluated. -/
  | evfSetWrite (t : Tenant) (w : Fin 16) (h : Fin 2) (v : Word)
  /-- EVF_CLR_WRITE (R316): A write to TP_EVF_CLR_w clears event flags. -/
  | evfClrWrite (t : Tenant) (w : Fin 16) (h : Fin 2) (v : Word)
  /-- NODE_DISPATCH (R323): Every 2 ECLK the scheduler dispatches the first dispatchable ready node of the next tenant in
  round robin. -/
  | nodeDispatch
  /-- HELD_SET_APPLY (R326): Once no node is held, flag sets and launches held by back-pressure take effect in arrival
  order. -/
  | heldSetApply (t : Tenant)
  /-- NODE_TIMEOUT (R325): A node not ready within its TIMEOUT is retired with an ABORT_TIMEOUT record and FAIL_MASK set. -/
  | nodeTimeout (t : Tenant) (graph : Byte) (i : Nat)
  /-- SCH_PART_WRITE (R311): T0 sets a tenant's node-slot partition, refused when it overlaps or a graph is loaded. -/
  | schPartWrite (t : Tenant) (w : Word)
  /-- PORT_ENABLE (R333): A write of REI_Pn_CTRL.EN starts training of a Rein port, or disables it. -/
  | portEnable (p : Port) (en : Bool)
  /-- TRAINING_STATE_ADVANCE (R333): A Rein port meets the exit condition of its training state and advances towards ACTIVE. -/
  | trainingStateAdvance (p : Port) (half : Bool)
  /-- PARAM_EXCHANGE (R334): Ports exchange serial, chip ID, version and credits, going ACTIVE or DOWN with a recorded
  cause. -/
  | paramExchange (p : Port) (serial : DWord) (chip : Chip) (port : Port) (major : Byte) (width : Bool)
  /-- DOWN_RETRY (R333): Every 100 ms a port in DOWN retries full training. -/
  | downRetry (p : Port)
  /-- RETRAIN_TRIGGER (R335): Lock loss, 16 NAKs in 10 µs or four replays of one LSEQ move an ACTIVE port to RETRAIN. -/
  | retrainTrigger (p : Port)
  /-- RETRAIN_ATTEMPT_END (R335): A retrain attempt ends, resuming traffic on success or after three failures sending the
  port DOWN. -/
  | retrainAttemptEnd (p : Port) (ok half : Bool)
  /-- FLIT_RECEIVE (R338): A flit arrives, is checked for CRC and LSEQ, acknowledged, credited and routed or delivered, or
  discarded with NAK. -/
  | flitReceive (p : Port) (b : List Byte)
  /-- NAK_RECEIVED (R338): A NAK arrives and the sender replays every flit after LACK of every VC in order. -/
  | nakReceived (p : Port) (lack : Fin 4096)
  /-- IDLE_FLIT_SEND (R338): A receiver with nothing to send and an acknowledgement over 100 ns old sends an IDLE flit. -/
  | idleFlitSend (p : Port)
  /-- READ_REQ (R274): A remote read request is served without waiting on egress other than VC2 and answered with READ_CPL. -/
  | readReq (p : Port) (m : Msg)
  /-- WIN_QUERY (R104): A remote chip asks for a window's range, owner, permissions and generation and is answered with
  WIN_ANSWER. -/
  | winQuery (m : Msg)
  /-- LOCK_REQ (R275): A remote lock request is granted at once, queued for LOCK_WAIT, or answered busy. -/
  | lockReq (p : Port) (m : Msg)
  /-- WRITE (R347): A VC1 posted write is applied in ESEQ order after window, Bridle and epoch checks, or refused. -/
  | write (p : Port) (m : Msg)
  /-- REIN_SIGNAL (R292): A VC1 signal is applied to the target counter or flag after every earlier VC1 write of its pair. -/
  | reinSignal (p : Port) (m : Msg)
  /-- BAR_ARRIVE (R298): A remote barrier arrival reaches the home and is counted and acknowledged. -/
  | barArrive (p : Port) (m : Msg)
  /-- PHASE_DONE (R298): A phase-done message releases the waiting arrivals of its sense on the issuing chip. -/
  | phaseDone (p : Port) (m : Msg)
  /-- REIN_LOCK_RELEASE (R275): A VC1 lock release frees the home's lock behind the sequence's writes, or is discarded after
  a reap. -/
  | reinLockRelease (p : Port) (m : Msg)
  /-- EPOCH_OPEN (R351): A destination accepts a new VC1 epoch from a source, expects ESEQ 0 and sets LINK_EPOCH. -/
  | epochOpen (p : Port) (m : Msg)
  /-- STALE_NOTICE (R294): A stale notice marks a counter STALE with its value unchanged. -/
  | staleNotice (p : Port) (m : Msg)
  /-- READ_CPL (R340): A read completion lands in the reserved read tags and is consumed at once. -/
  | readCpl (m : Msg)
  /-- WIN_ANSWER (R104): A window answer lets CF validate a remote descriptor creation. -/
  | winAnswer (m : Msg)
  /-- LOCK_GRANT (R275): The home grants a remote lock and the requester's locked sequence opens. -/
  | lockGrant (m : Msg)
  /-- LOCK_BUSY (R276): A busy answer makes the requester release and back off if its chip ID is higher, or request again if
  lower. -/
  | lockBusy (m : Msg)
  /-- BAR_ACK (R298): The home's acknowledgement completes a BARRIER_ARRIVE without WAIT or registers its sense. -/
  | barAck (m : Msg)
  /-- E2E_ACK (R348): An end-to-end acknowledgement retires VC1 messages up to an ESEQ and satisfies fences and cross-chip
  signals. -/
  | e2eAck (m : Msg)
  /-- E2E_ACK_TIMER (R348): A commit has gone unacknowledged for 4 µs and the destination sends E2E_ACK. -/
  | e2eAckTimer (d : Chip)
  /-- REFUSE (R346): A refusal ends the issuing command with its status and later messages of that command are discarded. -/
  | refuse (m : Msg)
  /-- PATH_LOST (R350): A PATH_LOST report makes the source raise the pair's epoch. -/
  | pathLost (m : Msg)
  /-- GAP_NAK (R347): A gap report makes the source raise the pair's epoch. -/
  | gapNak (m : Msg)
  /-- E2E_TIMEOUT (R350): The oldest unacknowledged VC1 message exceeds REI_E2E.TIMEOUT_US and the epoch is raised. -/
  | e2eTimeout (d : Chip)
  /-- REQUEST_TIMEOUT (R344): A VC0 request receives no answer within REI_REQ.TIMEOUT_US and its command completes with
  FAULT_LINK. -/
  | requestTimeout (tag : Nat)
  /-- DOMAIN (R352): A domain announcement is received and the master and upstream port are re-elected. -/
  | domain (p : Port) (m : Msg)
  /-- DOMAIN_ANNOUNCE (R352): Once per millisecond each device sends DOMAIN on every ACTIVE port. -/
  | domainAnnounce
  /-- TIME_EXCHANGE_START (R354): Once per millisecond the upstream device sends TIME_SYNC and TIME_FOLLOW on each link. -/
  | timeExchangeStart (p : Port)
  /-- TIME_SYNC (R354): The downstream device records t2 on the arrival of TIME_SYNC. -/
  | timeSync (p : Port)
  /-- TIME_FOLLOW (R354): TIME_FOLLOW delivers t1 and the downstream device sends TIME_DREQ at t3. -/
  | timeFollow (p : Port) (t1 : DWord)
  /-- TIME_DREQ (R354): The upstream device records t4 and returns it in TIME_DRESP. -/
  | timeDreq (p : Port)
  /-- TIME_DRESP (R354): The follower computes delay and offset and slews, discarding the exchange if any flit was replayed. -/
  | timeDresp (p : Port) (t4 : DWord)
  /-- UPSTREAM_RESELECT (R355): No exchange completes on the upstream port for 20 ms and the upstream port is chosen again. -/
  | upstreamReselect
  /-- CONFIG (R356): A follower applies and forwards a CONFIG with a higher generation. -/
  | config (p : Port) (m : Msg)
  /-- CONFIG_SEND (R356): The master sends CONFIG once per millisecond and on every change. -/
  | configSend
  /-- GIRTH_REQUEST_TIMER (R477): Every 25 ms a device sends GIRTH_REQ for its wanted tokens and floor. -/
  | girthRequestTimer
  /-- GIRTH_REQ (R478): The master grants tokens against the rack pool, or CF forwards the request towards the master. -/
  | girthReq (p : Port) (m : Msg)
  /-- GIRTH_GRANT (R357): A device receives a lease of tokens with an expiry and raises its limit, or forwards the grant. -/
  | girthGrant (m : Msg)
  /-- GIRTH_RET (R357): Returned tokens are credited back to the master's pool. -/
  | girthRet (m : Msg)
  /-- LEASE_EXPIRY (R358): A girth lease expires and the device's limit falls to its floor. -/
  | leaseExpiry
  /-- MASTER_GRACE_END (R358): A new master's first 100 ms in office end and it may grant beyond floors. -/
  | masterGraceEnd
  /-- ROUTING_ENTRY_WRITE (R345): A routing-entry write applies to flits routed afterwards. -/
  | routingEntryWrite (n : Fin 13) (e : Fin 64) (w : Fin 2) (v : Word)
  /-- ETH_FRAME_RECEIVE (R369): A frame on ETH0 or ETH1 runs the KTD check order and enters the ingest buffer or is dropped
  with a reason. -/
  | ethFrameReceive (p : EthPort) (f : List Byte)
  /-- PFC_REPEAT (R378): Every 50 µs while occupancy stays above XON the pause is repeated. -/
  | pfcRepeat (p : EthPort)
  /-- DATAGRAM_LANDING (R375): The landing writer takes the next buffered datagram and lands it in three committed steps,
  updating the presence record. -/
  | datagramLanding (p : EthPort)
  /-- ARP_REQUEST (R360): An ARP request for the port's IPv4 address is answered in hardware. -/
  | arpRequest (p : EthPort) (f : List Byte)
  /-- NEIGHBOUR_SOLICITATION (R360): An IPv6 Neighbour Solicitation for the port's address is answered in hardware. -/
  | neighbourSolicitation (p : EthPort) (f : List Byte)
  /-- MKA_FRAME (R368): An MKA frame is passed to CF, which runs MKA and distributes SAKs. -/
  | mkaFrame (p : EthPort) (f : List Byte)
  /-- MKA_REKEY (R368): CF rekeys a secure channel before its packet number is exhausted. -/
  | mkaRekey (p : EthPort) (c : Fin 512)
  /-- SA_INSTALL (R368): A write of ETH_MSC_p_s.SA.INSTALL installs the written static key under an association number. -/
  | saInstall (p : EthPort) (c : Fin 512) (an : Fin 4)
  /-- CAM_INSERT (R364): ETH_CAM_CMD INSERT writes an enrolled-camera entry, or refuses a duplicate with DUP and CAMDUP. -/
  | camInsert
  /-- CAM_DELETE (R364): ETH_CAM_CMD DELETE invalidates the selected enrolled-camera slot. -/
  | camDelete
  /-- CAM_READ (R364): ETH_CAM_CMD READ copies the selected entry into ETH_CAM_DATA and its drop count into ETH_CAM_DROPS. -/
  | camRead
  /-- STEERING_RULE_WRITE (R371): T0 writes a steering rule, refused with ETH_CFG.CFG when a field is invalid. -/
  | steeringRuleWrite (r : Fin 256) (j : Fin 12) (v : Word)
  /-- ETH_LINK_CHANGE (R360): An ETH port links up or down after auto-negotiation and training. -/
  | ethLinkChange (p : EthPort) (up : Bool)
  /-- HOST_WINDOW_WRITE (R392): A tenant writes a host window, refused when it overlaps another valid window. -/
  | hostWindowWrite (t : Tenant) (k : Fin 16) (j : Fin 5) (v : Word)
  /-- P2P_WINDOW_WRITE (R394): T0 grants a P2P window, refused when it overlaps another of the same tenant. -/
  | p2pWindowWrite (w : Fin 64) (j : Fin 5) (v : Word)
  /-- APERTURE_WRITE (R395): T0 writes an inbound aperture, refused when it overlaps another on the same link. -/
  | apertureWrite (i : Fin 64) (j : Fin 7) (v : Word)
  /-- APCFG_MAILBOX (R393): A GO write to TEN_APCFG performs a configuration access in the root-port hierarchy and reports
  DONE and status. -/
  | apcfgMailbox (w2 : Word) (answer : Option Word)
  /-- AP_INBOUND_REQUEST (R395): An accelerator request is checked against its aperture, window generation and Bridle, then
  performed or refused. -/
  | apInboundRequest (l : ApLink) (addr : DWord) (n : Fin 4097) (read : Bool) (data : List Byte) (poisoned secure : Bool)
  /-- AP_PERST_ASSERT (R533): In endpoint mode an assertion of AP_PERST_Nk resets only AP link k. -/
  | apPerstAssert (k : ApLink)
  /-- CONFIG_REQUEST (R390): A PCIe configuration request is answered, with Configuration Request Retry Status until
  command-ready or reset completion. -/
  | configRequest (f : Tenant) (reg : Fin 1024) (w : Option Word)
  /-- FLR (R405): A function-level reset of a function starts a context reset of its tenant, or of all tenants for PF0. -/
  | flr (f : Tenant)
  /-- VF_ENABLE_CLEAR (R405): Clearing VF Enable starts context resets of T1 to T15. -/
  | vfEnableClear
  /-- HOST_RESET (R390): PERST_N, hot reset or HP link loss resets HP configuration space and context-resets all tenants
  without records. -/
  | hostReset (cause : Fin 3)
  /-- BUS_MASTER_ENABLE_CLEAR (R391): A function's Bus Master Enable is cleared; its host requests stop and its MSI-X
  messages are held pending. -/
  | busMasterEnableClear (f : Tenant)
  /-- ATS_INVALIDATE (R388): An ATS Invalidate removes translations and completes after every TLP that used them is sent. `r` and `w`
  say which accesses the host's next translation of the page will allow. -/
  | atsInvalidate (f : Tenant) (page : BitVec 52) (r w : Bool)
  /-- PME_TURN_OFF (R472): The device answers PME_Turn_Off with PME_TO_Ack and will take the HP link to L2 on S4 entry. -/
  | pmeTurnOff
  /-- CONTEXT_RESET (R406): A write of 1 to a TEN_CTXRST bit starts a tenant context reset: stop, abort, drain, clear and
  optional wipe. -/
  | contextReset (t : Tenant)
  /-- CONTEXT_RESET_COMPLETE (R406): The drain of a context reset ends, its clearing and wipe finish and BUSY clears. `same`
  says that a write of 1 to the tenant's TEN_CTXRST bit falls in its cycle (R12). -/
  | contextResetComplete (t : Tenant) (same : Bool)
  /-- BRD_REGION_WRITE (R403): T0 writes a Bridle region, applying to accesses checked afterwards. -/
  | brdRegionWrite (f : Fin 3) (r : Fin 256) (j : Fin 4) (v : Word)
  /-- BRD_SYNC (R403): A write of 1 to BRD_SYNC starts tracking every command decoded before it. -/
  | brdSync
  /-- BRD_SYNC_COMPLETE (R403): Every command decoded before the BRD_SYNC write has completed and BRD_SYNC clears. `same` says that a write of 1 to BRD_SYNC falls in its cycle (R12). -/
  | brdSyncComplete (same : Bool)
  /-- SUMMARY_EVALUATE (R417): The Loupe takes a summary from its queue and judges it against every rule, pair and watcher
  that concerns it. -/
  | summaryEvaluate
  /-- MIRROR_WINDOW_EXPIRY (R420): A MIRROR summary waits longer than WINDOW_US for its partner and the pair fails with
  MISSING. -/
  | mirrorWindowExpiry (i : Fin 64)
  /-- GATED_VERDICT (R419): The verdict for a gated command arrives and its signal, flag update and record proceed or it
  completes with ABORT_SAFETY. -/
  | gatedVerdict (id : Nat)
  /-- WATCHER_EXPIRY (R422): An age watcher passes its deadline and holds its action, writing an event record. -/
  | watcherExpiry (w : Fin 256)
  /-- PATTERN_HOLD_EXPIRY (R426): An alarm pattern's HOLD_MS ends after its last source released it and SAFE_OUT changes. -/
  | patternHoldExpiry (p : Fin 15)
  /-- TRIPWIRE_RECORD (R428): The Loupe takes a tripwire record and raises its zone's pattern, or loses it when the queue is
  full. -/
  | tripwireRecord
  /-- SAFE_ENABLE (R416): A write of LPE_CTRL.SAFE_EN arms or disarms the Loupe. -/
  | safeEnable (v : Word)
  /-- FAULT_CLEAR (R427): A write of 1 to LPE_FAULT_CLR clears the fault latch unless its cause still holds. -/
  | faultClear (v : Word)
  /-- ALARM_CLEAR (R426): A write to LPE_ALARM_CLR clears latched alarm patterns. -/
  | alarmClear (v : Word)
  /-- LPE_RESET (R432): A write of the key to LPE_RESET clears both latches, disarms the Loupe and restarts LF. -/
  | lpeReset (v : Word)
  /-- LOCKSTEP_MISMATCH (R432): The two Loupe cores disagree and the hardware fault latch sets. -/
  | lockstepMismatch
  /-- LOUPE_CLOCK_FAULT (R432): The Loupe clock leaves ±5 % and the hardware fault latch sets. -/
  | loupeClockFault
  /-- LOUPE_EXCEPTION (R431): A Loupe core takes an exception, restarting the Loupe, or latching a hardware fault if on the
  fault stack. -/
  | loupeException (onFaultStack spValid : Bool)
  /-- LF_WATCHDOG_EXPIRY (R431): The 1 ms LF window watchdog is missed and the Loupe restarts. -/
  | lfWatchdogExpiry
  /-- LOUPE_SRAM_UE (R431): An uncorrectable word in Loupe SRAM restarts the Loupe. -/
  | loupeSramUe
  /-- LOUPE_RESTART_COMPLETE (R433): LF runs again and checks its configuration, continuing or disarming, and sets the fault
  latch and SELF. -/
  | loupeRestartComplete (ok : Bool)
  /-- LP_STATUS_FRAME (R429): The LP port sends a STATUS frame every PERIOD_MS, or every 10 ms outside RUNNING. -/
  | lpStatusFrame
  /-- LP_FRAME_RECEIVED (R429): A frame received on the LP port is discarded. -/
  | lpFrameReceived (frame : List Byte)
  /-- EVENT_RING_FLUSH (R436): The Loupe writes its kept event records into the LPE event ring once room returns. -/
  | eventRingFlush
  /-- KEY_INSTALL (R447): The key mailbox stores an MKA CAK in a vault slot and hands it to MKA. -/
  | keyInstall (slot : Fin 32) (fails : Bool)
  /-- KEY_ERASE (R447): The key mailbox erases a vault slot. -/
  | keyErase (slot : Fin 32)
  /-- LP_KEY (R447): The key mailbox writes the LP HMAC key and stores it in the vault. -/
  | lpKey (fails : Bool)
  /-- CRED_INSTALL (R451): A tenant credential is checked and, if accepted, replaces the tenant's previous one in the vault. -/
  | credInstall (fails : Bool)
  /-- CRED_REVOKE (R453): CRED_EPOCH advances and credentials of lower epoch become invalid. -/
  | credRevoke (arg : BitVec 16)
  /-- AUTH_SET (R447): The site or debug authority hash fuse is blown once, in BLANK or PROVISIONED. -/
  | authSet (arg : BitVec 16) (fails : Bool)
  /-- LC_ADVANCE (R454): The lifecycle moves forward to the named state if its precondition holds. -/
  | lcAdvance (arg : BitVec 16)
  /-- DBG_TOKEN (R459): A debug token is verified and raises the debug level, or is refused with DBGREF; a new challenge is
  drawn. -/
  | dbgToken (jtag : Option (List Byte)) (fails : Bool)
  /-- D2_UNLOCK_COMPLETE (R460): The D2 wipe ends, LEVEL becomes 2, a DEBUG record is written and DBG_AP opens. -/
  | d2UnlockComplete
  /-- SVN_ADVANCE (R443): CF_SVN and LF_SVN advance to the running images and listed ROTPK revocation bits are blown. -/
  | svnAdvance
  /-- CREDENTIAL_EVALUATE (R452): Once per second every credential's validity is evaluated and lapsed tenants' fetching is
  stopped. -/
  | credentialEvaluate
  /-- DEBUG_LEVEL_WRITE (R458): A write of SEC_DBG.LEVEL lowers or sets the level as the lifecycle allows. -/
  | debugLevelWrite (v : Word) (jtag : Bool)
  /-- DBG_CHAL (R459): The JTAG DBG_CHAL instruction returns the debug challenge in force. -/
  | dbgChal
  /-- IDCODE (R457): The JTAG IDCODE instruction returns the device identification. -/
  | idcode
  /-- BYPASS (R457): The JTAG BYPASS instruction selects the bypass register. -/
  | bypass
  /-- SAMPLE_PRELOAD (R457): The JTAG SAMPLE/PRELOAD instruction samples or preloads the boundary register. -/
  | samplePreload (data : List Bool)
  /-- EXTEST (R457): The JTAG EXTEST instruction drives the boundary register in BLANK and DECOMMISSIONED, and acts as
  BYPASS elsewhere. -/
  | extest
  /-- CLAMP (R457): The JTAG CLAMP instruction holds outputs from the boundary register where allowed. -/
  | clamp
  /-- HIGHZ (R457): The JTAG HIGHZ instruction floats outputs where allowed. -/
  | highz
  /-- DBG_TRACE (R457): The JTAG DBG_TRACE instruction reads the trace buffer and TRC registers at D1 and above. -/
  | dbgTrace (reg : Bool) (i : Fin 131072)
  /-- DBG_AP (R457): The JTAG DBG_AP instruction halts, steps and accesses control cores and every DA space at D2. -/
  | dbgAp (op : DbgOp)
  /-- DEBUGGER_ATTACH (R457): A debugger opens the D2 access port, ATTACHED reads 1 and a DEBUG record is written. -/
  | debuggerAttach
  /-- DEBUGGER_DETACH (R457): The debugger closes the access port and ATTACHED clears. -/
  | debuggerDetach
  /-- TRST_N_ASSERT (R544): TRST_N held low for 100 ns resets the TAP to Test-Logic-Reset. -/
  | trstNAssert
  /-- TRC_USER (R465): A write of the fourth TRC_USER word emits a USER trace record. -/
  | trcUser (v : Word)
  /-- DRAIN_COMPLETE (R470): The entry drain ends, the PWR_REQUEST record is written and the device prepares and retains the
  requested state. -/
  | drainComplete
  /-- DRAIN_TIMEOUT (R470): The drain exceeds PWR_ENTRY.DRAIN_US; PWR_REQUEST completes with REJ_BUSY and fetching resumes. -/
  | drainTimeout
  /-- WAKE_EVENT (R473): A wake source fires in S1 to S4, abandoning an entry in progress or starting exit to S0. -/
  | wakeEvent (code : Fin 11)
  /-- WAKE_TIME_REACHED (R473): Rack time reaches PWR_WAKE_AT and wakes the device. -/
  | wakeTimeReached
  /-- I3C_WAKE (R473): A write of 0xA5 to the I3C WAKE register wakes the device. -/
  | i3cWake (v : Byte)
  /-- STATE_EXIT_COMPLETE (R474): Exit from a power state completes and fetching, landing and the blocks the state stopped
  resume. -/
  | stateExitComplete
  /-- AUTO_HOLD_ENTRY (R475): With AUTO_HOLD set, the drain condition has held for IDLE_US and the device enters S1. -/
  | autoHoldEntry
  /-- AUTO_HOLD_EXIT (R475): LEAD µs before a tick edge or TIMED launch the device leaves an automatic S1. -/
  | autoHoldExit
  /-- POWER_SAMPLE (R476): Every 10 µs the device measures its power and updates the 1 ms average against the limit L. -/
  | powerSample (mw : Nat)
  /-- THERMAL_SAMPLE (R483): A junction temperature reading adjusts the thermal limit and triggers the responses of Table
  17.6. -/
  | thermalSample (tj : Byte)
  /-- THERMAL_RESUME (R483): Tj stays below RESUME for 1 s and a held thermal restart continues. -/
  | thermalResume
  /-- I3C_CAP_WRITE (R479): A write of the I3C CAP register sets the power cap within 100 µs, or is refused with CAP_REFUSED
  and an IBI. -/
  | i3cCapWrite (w : BitVec 16)
  /-- I3C_STATUS_READ (R485): A read of the I3C STATUS register returns it and clears CAP_REFUSED. -/
  | i3cStatusRead
  /-- I3C_CCC (R485): An I3C common command such as SETDASA or ENTDAA is answered by the target. -/
  | i3cCcc (op : I3cOp)
  /-- POR_N_ASSERT (R487): POR_N held low for 10 µs or more makes a cold boot of any state or reset in progress. -/
  | porNAssert
  /-- COLD_BOOT (R489): POR_N deasserts and the boot stages run: fuses, boot ROM, image choice, verification, DICE, CF and
  LF start. -/
  | coldBoot (vaultGood testEn : Bool)
  /-- COMMAND_READY (R488): The device reaches command-ready and FW_STATUS.CMD_READY reads 1. -/
  | commandReady
  /-- FW_CONFIRM (R497): A write of 1 to FW_CTRL.CONFIRM makes the TRIAL slot GOOD and PREF, or is discarded without one. -/
  | fwConfirm
  /-- AUTO_CONFIRM (R497): The device has run AUTO_S seconds since command-ready with a FULL pairing and confirms the TRIAL
  slot. -/
  | autoConfirm
  /-- FW_REBOOT (R498): In RECOVERY a write of 1 to FW_CTRL.REBOOT performs an S4 entry and immediate exit. -/
  | fwReboot
  /-- FW_RESTART (R501): A write of the key to FW_RESTART by T0 triggers a safe-state restart. -/
  | fwRestart (v : Word)
  /-- CONTROL_CORE_EXCEPTION (R505): A control core takes an exception, logs it and starts a safe-state restart, or halts on
  a double fault. -/
  | controlCoreException (c : CoreIx) (kind : Fin 5) (pc : DWord) (sp : Word) (onFault : Bool)
  /-- CONTROL_CORE_WATCHDOG (R506): A control-core watchdog expires, recording WATCHDOG and starting a safe-state restart. -/
  | controlCoreWatchdog (c : CoreIx)
  /-- PLL_UNLOCK (R501): The ECLK or control-core PLL loses lock and a safe-state restart starts. -/
  | pllUnlock
  /-- SAFE_STATE_RESTART (R502): A restart trigger resets the main complex, keeping memory, the Loupe and links, and
  reverifies the CF image. -/
  | safeStateRestart (code : Fin 6) (memOk : Bool)
  /-- RESTART_COMPLETE (R520): After a restart CF writes every tenant's pre-restart ABORT_RESET records, raises epochs and
  sends vector 9. -/
  | restartComplete
  /-- TCXO_LOSS (R539): TCXO_IN is lost and rack time and the Loupe move to the internal oscillator without a step. -/
  | tcxoLoss
  /-- TCXO_RETURN (R539): TCXO_IN has been stable for 1 s and the device moves back to it. -/
  | tcxoReturn
  /-- SYSCLK_LOSS (R539): SYSCLK is lost, starting a safe-state restart with Rein ports DOWN and ETH links dropped. -/
  | sysclkLoss
  /-- SYSCLK_RETURN (R539): SYSCLK has been stable for 1 ms and a held restart continues. -/
  | sysclkReturn
  /-- REFCLK_LOSS (R539): REFCLK is lost, dropping the HP link as a host reset. -/
  | refclkLoss
  /-- RAIL_UNDERVOLTAGE (R535): A main rail falls below its threshold, acting as POR_N low until every rail is back for 1
  ms. -/
  | railUndervoltage
  /-- VDD_LPE_UNDERVOLTAGE (R535): VDD_LPE falls below its threshold and the Loupe is held in reset until it returns. -/
  | vddLpeUndervoltage
  /-- VDD_AO_LOSS (R535): VDD_AO falls below its threshold and everything is lost, the last-words record included. -/
  | vddAoLoss
  /-- TEST_EN_HIGH (R533): While TEST_EN is high the device holds itself in reset. -/
  | testEnHigh
  /-- PTP_TRANSMIT_INTERVAL (R43): As a time transmitter, or as a receiver using delay requests, CF sends its periodic PTP
  messages on a port, advertising clockClass by its source state. CF sends a Sync in one or in two steps, and measures the delay
by request and response or between peers (Table 2.2; the operands say which). -/
  | ptpTransmitInterval (p : EthPort) (twoStep peer : Bool)
  /-- TRAINING_BOUND_EXPIRY (R333): A Rein port stays in EQUALISE, ALIGN, FEC_LOCK or PARAM beyond its bound and goes to
  DOWN with CAUSE training failed. -/
  | trainingBoundExpiry (p : Port)
  /-- SPDM_REQUEST (R445): An SPDM 1.2 request, or an IDE_KM message in a session, arrives over the DOE mailbox and is
  answered or refused with UnsupportedRequest. -/
  | spdmRequest (code : Byte) (session : Option (Fin 4)) (req : List Byte)
  /-- PERST_N_DEASSERT (R390): PERST_N deasserts, WAKE_N is released and the HP link begins training while the device
  answers with CRS until its context resets complete. -/
  | perstNDeassert
  /-- HP_LINK_UP (R390): The HP link finishes training, after PERST_N deasserts or REFCLK returns, and the CRS bound of R390
  starts running from this moment. It trained at a speed (a code of Table 14.6) and a number of lanes. -/
  | hpLinkUp (speed : Fin 7) (width : Fin 17)
  /-- AP_LINK_CHANGE (R393): An AP link trains up or goes down, updating TEN_APL_l with its negotiated speed, width and UP
  state. -/
  | apLinkChange (l : ApLink) (speed : Fin 7) (width : Fin 17) (up : Bool)
  /-- AP_PERST_RELEASE (R533): In root-port mode the device releases AP_PERST_Nk 100 ms after AP_REFCLKk is stable and bit k
  of TEN_AP.EN is set. -/
  | apPerstRelease (k : ApLink)
  /-- VDD_LPE_RETURN (R535): VDD_LPE returns to tolerance, the Loupe leaves reset and a Loupe restart begins. -/
  | vddLpeReturn
  /-- DECOMMISSION_COMPLETE (R456): The decommissioning wipe of SRAM, staging and HBM ends, UDS_KILL and the LIFECYCLE fuse
  are blown and the lifecycle reads DECOMMISSIONED. -/
  | decommissionComplete
  deriving DecidableEq, Repr

end Sys2Proof
end

