-- ==== Sys2Proof/Decode.lean ====
section
/-! DEFINITION. The decoder of table words. The opcode table of this block gives no row any bits: its commands come from outside, so no
word spells one. -/
namespace Sys2Proof

/-- The command a word of the table's bits spells: none, for no row gives bits. -/
def decodeTableWord (_nbits _w : Nat) : Option Instr := none

end Sys2Proof
end

