-- ==== Sys2Proof/Config.lean ====
section
/-! DEFINITION. What one device fixes and what the spec leaves open: constants without a body (no proof can see their
value), and the free values a step draws by its counter (log entry 4). -/
namespace Sys2Proof.Config

/-- True on the GSM-4180-16C, false on the GSM-4180-14E (Table 0.7). -/
opaque is16C : Bool
/-- The fused serial number shown in REI_SERIAL (chapter 12). -/
opaque serial : BitVec 64
/-- The fused MAC address of ETH port p, 48 bits (chapter 13). -/
opaque mac : Nat → BitVec 48
/-- The fused MAC address of the LP port (R429). -/
opaque lpMac : BitVec 48
/-- A value the spec leaves open, number `n` of the run (log entry 4). -/
opaque freeValue : Nat → BitVec 64
/-- A byte of host memory (space 0) or of the memory behind AP link l (space l + 1) that neither the block nor a
command of the environment has written (log entry 7). -/
opaque outsideByte : Nat → Nat → BitVec 8
/-- The holdover model of R67, fitted to the records of frequency offset and temperature: the frequency offset it predicts at a
temperature after `ns` of holdover (0.001 ppb), and its bound on the time error then, in ns, for an oscillator class
(true for an OCXO; log entry 13). -/
opaque holdOffset (records : List (Int × Int)) (temp : Int) (ns : Nat) : Int
opaque holdBound (ocxo : Bool) (records : List (Int × Int)) (ns : Nat) : Nat
/-- The payload bits below the quiet bit of a NaN a cast produces in type `dt` from source code `src`
(Table 4.6 fixes quiet and the sign only; log entry 11). -/
opaque nanPayload (dt src : Nat) : Nat
/-- What PCIe configuration register `reg` of function `fn` reads as before the host writes it, where chapter 14 gives no
value (log entry 22). -/
opaque cfgReset (fn reg : Nat) : BitVec 32
/-- Index of the first register of the SR-IOV capability of PF0, and of the ATS, PCI Express and MSI-X capabilities of a function
(log entry 22). -/
opaque sriovCap : Nat
opaque atsCap : Nat
opaque pcieCap : Nat
opaque msixCap : Nat
/-- Whether the address association of selective IDE stream `n` of a port (0 the HP, l + 1 AP link l) holds an address (R389, log
entry 91). -/
opaque ideAssoc (port n a : Nat) : Bool
/-- SHA-384 of a byte string, 48 bytes (log entry 8). -/
opaque sha384 : List (BitVec 8) → List (BitVec 8)
/-- Whether `sig` is an ECDSA P-384 signature of `msg` under public key `key` (log entry 8). -/
opaque ecdsaVerify (key msg sig : List (BitVec 8)) : Bool
/-- The ECDSA P-384 signature, 96 bytes, of `msg` under the Alias key derived from `cdi` (log entry 8). -/
opaque ecdsaSign (cdi msg : List (BitVec 8)) : List (BitVec 8)
/-- The digest of the boot ROM and of the factory calibration record (Table 16.4; log entry 8). -/
opaque romDigest : List (BitVec 8)
opaque factoryCal : List (BitVec 8)
/-- The factory calibration record's CRC holds (R508). -/
opaque factoryCalOk : Bool
/-- The certificate chain of the device with the Alias certificate of `cdi` (R444; log entry 8). -/
opaque certChain (cdi : List (BitVec 8)) : List (BitVec 8)
/-- What the I3C target answers to a common command whose values the spec does not give (R485; log entry 39). -/
opaque i3cAnswer (code : Nat) (data : List (BitVec 8)) : List (BitVec 8)
/-- The IDCODE of the TAP (log entry 8). -/
opaque idcode : BitVec 32
/-- What flash region `k` holds at manufacture (Table 18.3: 0 CF of slot A, 1 LF of A, 2 CF of B, 3 LF of B; log entry 30). -/
opaque shipped (k : Nat) : List (BitVec 8)
/-- SHA-384 of the image-signing public keys the fuses hold (Table 16.1). -/
opaque rotpk (k : Nat) : List (BitVec 8)
/-- The pairing table of a CF image: entries (major, minor), at most 32 of which count (R499; log entry 30). -/
opaque pairing (image : List (BitVec 8)) : List (Nat × Nat)
/-- HMAC-SHA-256 of `msg` under `key`, 32 bytes (log entry 8). -/
opaque hmac256 (key msg : List (BitVec 8)) : List (BitVec 8)
/-- The MKA secure association key CF distributes under a CAK for message number `n` (log entry 8). -/
opaque mkaSak (cak : List (BitVec 8)) (n : Nat) : List (BitVec 8)
/-- Whether a MACsec frame's integrity check value holds under a key (log entry 8). -/
opaque macsecValid (key frame : List (BitVec 8)) : Bool
/-- The plain frame inside a valid MACsec frame (log entry 8). -/
opaque macsecOpen (key frame : List (BitVec 8)) : List (BitVec 8)
/-- A frame protected under a secure association's key and packet number (log entry 8). -/
opaque macsecSeal (key : List (BitVec 8)) (pn : Nat) (frame : List (BitVec 8)) : List (BitVec 8)
/-- The certificate or measurement bytes an SPDM request of code `c` is answered with (log entry 8). -/
opaque spdmAnswer (c : Nat) (req : List (BitVec 8)) : List (BitVec 8)
/-- Whether the proofs an SPDM request carries hold (log entry 8). -/
opaque spdmOk (c : Nat) (req : List (BitVec 8)) : Bool
/-- CDI of R444: HMAC-SHA-384 under the UDS of a message (log entry 8). -/
opaque diceCdi (msg : List (BitVec 8)) : List (BitVec 8)

end Sys2Proof.Config
end

