-- ==== Sys2Proof/Machine/Bits.lean ====
section
/-! DEFINITION. Plain helpers the meanings share: bit fields of a number, little-endian byte lists (R4, Table 0.2:
"Little-endian throughout"), saturating counts, and association lists kept in one canonical form. -/
namespace Sys2Proof.Machine

/-- The field of `n` bits at bit `lo` of `w`. -/
def bitsOf (w lo n : Nat) : Nat := w / 2 ^ lo % 2 ^ n

/-- `w` with its field of `n` bits at bit `lo` replaced by `v` modulo `2 ^ n`. -/
def putBits (w lo n v : Nat) : Nat :=
  w / 2 ^ (lo + n) * 2 ^ (lo + n) + (v % 2 ^ n) * 2 ^ lo + w % 2 ^ lo

/-- Bit `i` of `w`. -/
def bit (w i : Nat) : Bool := bitsOf w i 1 == 1

/-- A Bool as a one-bit field. -/
def b2n (b : Bool) : Nat := if b then 1 else 0

/-- `w` with bit `i` set to `b`. -/
def putBit (w i : Nat) (b : Bool) : Nat := putBits w i 1 (b2n b)

/-- `n` bytes of `v`, lowest byte first (Table 0.2). -/
def leBytes : Nat → Nat → List (BitVec 8)
  | 0, _ => []
  | n + 1, v => BitVec.ofNat 8 v :: leBytes n (v / 256)

/-- The number a list of bytes spells, lowest byte first. -/
def ofLE : List (BitVec 8) → Nat
  | [] => 0
  | b :: t => b.toNat + 256 * ofLE t

/-- The number a list of bytes spells, highest byte first (network order of Ethernet headers). -/
def ofBE (l : List (BitVec 8)) : Nat := l.foldl (fun a b => 256 * a + b.toNat) 0

/-- The `n` bytes of `p` from byte `i`, missing bytes read as zero. -/
def slice (p : List (BitVec 8)) (i n : Nat) : List (BitVec 8) :=
  (List.range n).map fun k => p.getD (i + k) 0

/-- The `n`-byte little-endian number at byte `i` of `p`. -/
def leAt (p : List (BitVec 8)) (i n : Nat) : Nat := ofLE ((p.drop i).take n)

/-- Counts that saturate at `m`. -/
def satAdd (m a b : Nat) : Nat := if a + b ≤ m then a + b else m

/-- The least `k ≥ 0` with `2 ^ k ≥ n`, for `n ≥ 1`. -/
def log2Up (n : Nat) : Nat := if n ≤ 1 then 0 else Nat.log2 (n - 1) + 1

/-- `a / b` rounded up; 0 when `b` is 0. -/
def ceilDiv (a b : Nat) : Nat := if b = 0 then 0 else (a + b - 1) / b

/-- The signed value of an `n`-bit two's-complement number. -/
def signed (n v : Nat) : Int := if v % 2 ^ n < 2 ^ (n - 1) then (v % 2 ^ n : Nat) else ((v % 2 ^ n : Nat) : Int) - (2 ^ n : Nat)

/-- The `n`-bit two's-complement number of a signed value. -/
def unsigned (n : Nat) (v : Int) : Nat := (v % ((2 ^ n : Nat) : Int)).toNat

/-! Association lists: the first pair of a key is its value. -/

/-- The value of key `k`, if any. -/
def kvFind {α : Type} (l : List (Nat × α)) (k : Nat) : Option α := (l.find? (fun p => p.1 == k)).map (·.2)

/-- The list without key `k`. -/
def kvDel {α : Type} (l : List (Nat × α)) (k : Nat) : List (Nat × α) := l.filter (fun p => p.1 != k)

/-- The list with `(k, v)` at the place the rising order of keys gives it. -/
def kvIns {α : Type} (k : Nat) (v : α) : List (Nat × α) → List (Nat × α)
  | [] => [(k, v)]
  | p :: t => if k < p.1 then (k, v) :: p :: t else if k = p.1 then (k, v) :: t else p :: kvIns k v t

/-! Sparse maps with a value `d k` for every key that is not listed. -/

/-- What the map reads at `k`. -/
def spGet {α : Type} (d : Nat → α) (l : List (Nat × α)) (k : Nat) : α :=
  match l with
  | [] => d k
  | p :: t => if k = p.1 then p.2 else spGet d t k

/-- The map with `v` at `k`; a key whose value is `d k` is not listed. -/
def spSet {α : Type} [DecidableEq α] (d : Nat → α) (l : List (Nat × α)) (k : Nat) (v : α) : List (Nat × α) :=
  if v = d k then kvDel l k else kvIns k v l

/-- The canonical form: keys strictly rising above `lo`, and no entry equal to what an unlisted key reads as. -/
def spWfFrom {α : Type} [DecidableEq α] (d : Nat → α) (lo : Nat) : List (Nat × α) → Bool
  | [] => true
  | p :: t => decide (lo ≤ p.1) && decide (p.2 ≠ d p.1) && spWfFrom d (p.1 + 1) t

/-- The canonical form of a sparse map. -/
def spWf {α : Type} [DecidableEq α] (d : Nat → α) (l : List (Nat × α)) : Bool := spWfFrom d 0 l

/-- Apply `f` to element `i` of a list. -/
def modNth {α : Type} (f : α → α) : Nat → List α → List α
  | _, [] => []
  | 0, a :: t => f a :: t
  | n + 1, a :: t => a :: modNth f n t

end Sys2Proof.Machine
end

