-- ==== Sys2Proof/Machine/Element.lean ====
section
/-! DEFINITION. Elements and casts: Table 4.3, Table 4.6, R107, R125 to R128. A value is held exactly, as a signed
dyadic number, an infinity or a NaN, so that every cast rounds once, at its end. -/
namespace Sys2Proof.Machine

/-- The exact value of an element (R125): NaN, an infinity, or `± mant * 2 ^ exp`. -/
inductive Val where
  | nan (neg : Bool)
  | inf (neg : Bool)
  | fin (neg : Bool) (mant : Nat) (exp : Int)
  deriving DecidableEq, Repr

/-- Bits of one element of type `dt` (Table 4.3). -/
def elemBits : Nat → Nat
  | 0x0 => 8 | 0x1 => 8 | 0x2 => 4 | 0x3 => 4 | 0x4 => 8 | 0x5 => 8 | 0x6 => 6 | 0x7 => 6
  | 0x8 => 16 | 0x9 => 16 | 0xA => 32 | 0xB => 16 | 0xC => 32 | 0xD => 8 | 0xE => 4 | _ => 8

/-- 4-bit types: U4, I4, MXFP4. -/
def is4bit (dt : Nat) : Bool := dt == 0x2 || dt == 0x3 || dt == 0xE
/-- FP6 types. -/
def isFP6 (dt : Nat) : Bool := dt == 0x6 || dt == 0x7
/-- MX types (Table 4.3). -/
def isMX (dt : Nat) : Bool := dt == 0xD || dt == 0xE || dt == 0xF
/-- Integer types. -/
def isInt (dt : Nat) : Bool := dt == 0x0 || dt == 0x1 || dt == 0x2 || dt == 0x3 || dt == 0xB || dt == 0xC
/-- Signed integer types. -/
def isSInt (dt : Nat) : Bool := dt == 0x1 || dt == 0x3 || dt == 0xB || dt == 0xC
/-- Bytes of an element, a sub-byte element rounded up to a byte (R110, R120). -/
def elemBytes (dt : Nat) : Nat := (elemBits dt + 7) / 8
/-- Elements that share one packed unit of the destination (R108, R109): 2 nibbles, 4 FP6 elements, 32 of an MX block. -/
def unitLen (dt : Nat) : Nat := if isMX dt then 32 else if isFP6 dt then 4 else if is4bit dt then 2 else 1

/-- A binary format: exponent bits, mantissa bits, bias. -/
structure Fmt where
  eb : Nat
  mb : Nat
  bias : Nat
  deriving DecidableEq, Repr

/-- The format of a floating-point type, or of an MX type's elements (R107, R109). -/
def fmtOf : Nat → Fmt
  | 0x4 => ⟨4, 3, 7⟩ | 0x5 => ⟨5, 2, 15⟩ | 0x6 => ⟨3, 2, 3⟩ | 0x7 => ⟨2, 3, 1⟩
  | 0x8 => ⟨5, 10, 15⟩ | 0x9 => ⟨8, 7, 127⟩ | 0xA => ⟨8, 23, 127⟩ | 0xD => ⟨4, 3, 7⟩ | _ => ⟨2, 1, 1⟩

/-- Formats with IEEE infinities and NaNs: FP8 E5M2, FP16, BF16, FP32 (Table 4.3). -/
def hasInf (dt : Nat) : Bool := dt == 0x5 || dt == 0x8 || dt == 0x9 || dt == 0xA
/-- Formats whose only NaN is S.1111.111: E4M3, also as an MX element (Table 4.3, R128). -/
def isE4M3 (dt : Nat) : Bool := dt == 0x4 || dt == 0xD

/-- The value of a floating-point code of type `dt`. -/
def decodeFloat (dt code : Nat) : Val :=
  let f := fmtOf dt
  let m := bitsOf code 0 f.mb
  let e := bitsOf code f.mb f.eb
  let neg := bit code (f.mb + f.eb)
  if hasInf dt && e == 2 ^ f.eb - 1 then (if m = 0 then .inf neg else .nan neg)
  else if isE4M3 dt && e == 15 && m == 7 then .nan neg
  else if e = 0 then .fin neg m (1 - (f.bias : Int) - f.mb)
  else .fin neg (m + 2 ^ f.mb) ((e : Int) - f.bias - f.mb)

/-- The value of an element code of a type without a scale plane, or of an MX element at scale 2^0. -/
def decodeElem (dt code : Nat) : Val :=
  if isInt dt then
    if isSInt dt then
      let v := signed (elemBits dt) code
      .fin (decide (v < 0)) v.natAbs 0
    else .fin false (code % 2 ^ elemBits dt) 0
  else if dt == 0xF then
    let v := signed 8 code
    .fin (decide (v < 0)) v.natAbs (-6)
  else decodeFloat dt code

/-- A value times `2 ^ k`. -/
def Val.scale (k : Int) : Val → Val
  | .fin n m e => .fin n m (e + k)
  | v => v

/-- The value of an MX element under its block's E8M0 scale (R109, R128). -/
def decodeMX (dt code sc : Nat) : Val :=
  if sc = 0xFF then .nan false else (decodeElem dt code).scale ((sc : Int) - 127)

/-- Rounding modes (Table 4.5). -/
inductive Rnd where
  | rne | rz | sr (r : Nat)
  deriving DecidableEq, Repr

/-- `mant * 2 ^ exp` in units of `2 ^ q`, rounded (R126), and whether the rounding truncated the magnitude as R125 says it: RZ always
does, and SR wherever it does not round up. -/
def roundTo (rm : Rnd) (mant : Nat) (exp q : Int) : Nat × Bool :=
  if q ≤ exp then (mant * 2 ^ (exp - q).toNat, match rm with | .rne => false | _ => true)
  else
    let s := (q - exp).toNat
    let n := mant / 2 ^ s
    let rem := mant % 2 ^ s
    match rm with
    | .rz => (n, true)
    | .rne => if 2 ^ s < 2 * rem || (2 * rem == 2 ^ s && n % 2 == 1) then (n + 1, false) else (n, false)
    | .sr r => if 2 ^ (32 + s) ≤ rem * 2 ^ 32 + r * 2 ^ s then (n + 1, false) else (n, true)

/-- ⌊log2 (mant * 2 ^ exp)⌋ for a mantissa above 0. -/
def ilog2 (mant : Nat) (exp : Int) : Int := (Nat.log2 mant : Int) + exp

/-- `a * 2 ^ p` compared with `b * 2 ^ q`: whether the first is greater. -/
def dyGt (a : Nat) (p : Int) (b : Nat) (q : Int) : Bool :=
  if p ≤ q then decide (b * 2 ^ (q - p).toNat < a) else decide (b < a * 2 ^ (p - q).toNat)

/-- The largest finite magnitude of a floating-point type, as mantissa and exponent (Table 4.3). -/
def maxFin (dt : Nat) : Nat × Int :=
  let f := fmtOf dt
  if hasInf dt then (2 ^ (f.mb + 1) - 1, (2 ^ f.eb - 2 : Nat) - (f.bias : Int) - f.mb)
  else if isE4M3 dt then (14, 8 - 3)
  else (2 ^ (f.mb + 1) - 1, (2 ^ f.eb - 1 : Nat) - (f.bias : Int) - f.mb)

/-- The code of sign `neg` and magnitude `n * 2 ^ q`, which the type represents. -/
def codeOf (dt : Nat) (neg : Bool) (n : Nat) (q : Int) : Nat :=
  let f := fmtOf dt
  let s := b2n neg * 2 ^ (f.mb + f.eb)
  if n = 0 then s
  else
    let e := ilog2 n q
    let emin := 1 - (f.bias : Int)
    if e < emin then s + (if q ≤ emin - f.mb then n / 2 ^ (emin - f.mb - q).toNat else n * 2 ^ (q - (emin - f.mb)).toNat)
    else
      let sh := e - f.mb - q
      let m := if 0 ≤ sh then n / 2 ^ sh.toNat else n * 2 ^ (-sh).toNat
      s + (e + f.bias).toNat * 2 ^ f.mb + (m - 2 ^ f.mb)

/-- The code of ± the largest finite value. -/
def maxCode (dt : Nat) (neg : Bool) : Nat := codeOf dt neg (maxFin dt).1 (maxFin dt).2

/-- The code of ±Inf of a type that has one, or the NaN of E4M3 (Table 4.6). -/
def infCode (dt : Nat) (neg : Bool) : Nat :=
  let f := fmtOf dt
  b2n neg * 2 ^ (f.mb + f.eb) + (if isE4M3 dt then 0x7F else (2 ^ f.eb - 1) * 2 ^ f.mb)

/-- The code of a NaN: quiet, sign kept; its payload below the quiet bit is open (Table 4.6, log entry 11). -/
def nanCode (dt : Nat) (neg : Bool) (src : Nat) : Nat :=
  let f := fmtOf dt
  if isE4M3 dt then b2n neg * 128 + 0x7F
  else b2n neg * 2 ^ (f.mb + f.eb) + (2 ^ f.eb - 1) * 2 ^ f.mb + 2 ^ (f.mb - 1)
    + Config.nanPayload dt src % 2 ^ (f.mb - 1)

/-- Encode a value as a floating-point type without a scale plane: its code, and whether it was clamped or turned from
NaN into 0 (R125, Table 4.6). `ieee` is OVF; what IEEE rounding leaves at the largest finite value is rounded, not clamped
(DEDUCED, log entry 42). -/
def encodeFloat (dt : Nat) (rm : Rnd) (ieee : Bool) (src : Nat) : Val → Nat × Bool
  | .nan neg => if isFP6 dt then (0, true) else (nanCode dt neg src, false)
  | .inf neg => if isFP6 dt || !ieee then (maxCode dt neg, true) else (infCode dt neg, false)
  | .fin neg m e =>
    if m = 0 then (codeOf dt neg 0 0, false)
    else
      let f := fmtOf dt
      let q := max (ilog2 m e - f.mb) (1 - (f.bias : Int) - f.mb)
      let (n, trunc) := roundTo rm m e q
      if dyGt n q (maxFin dt).1 (maxFin dt).2 then
        if isFP6 dt || !ieee then (maxCode dt neg, true) else (if trunc then maxCode dt neg else infCode dt neg, false)
      else (codeOf dt neg n q, false)

/-- The least and the largest value of an integer type. -/
def intRange (dt : Nat) : Int × Int :=
  if isSInt dt then (-(2 ^ (elemBits dt - 1) : Nat), (2 ^ (elemBits dt - 1) : Nat) - 1)
  else (0, (2 ^ elemBits dt : Nat) - 1)

/-- A signed value clamped to a range: the value and whether it was clamped. -/
def clampInt (r : Int × Int) (v : Int) : Int × Bool :=
  if v < r.1 then (r.1, true) else if r.2 < v then (r.2, true) else (v, false)

/-- A signed integer from a sign and a magnitude. -/
def sgn (neg : Bool) (n : Nat) : Int := if neg then -(n : Int) else n

/-- Encode a value as an integer type (Table 4.6). -/
def encodeInt (dt : Nat) (rm : Rnd) : Val → Nat × Bool
  | .nan _ => (0, true)
  | .inf neg => (unsigned (elemBits dt) (if neg then (intRange dt).1 else (intRange dt).2), true)
  | .fin neg m e =>
    let c := clampInt (intRange dt) (sgn neg (roundTo rm m e 0).1)
    (unsigned (elemBits dt) c.1, c.2)

/-- Encode a value as a type without a scale plane (R125). -/
def encodeElem (dt : Nat) (rm : Rnd) (ieee : Bool) (src : Nat) (v : Val) : Nat × Bool :=
  if isInt dt then encodeInt dt rm v else encodeFloat dt rm ieee src v

/-- The random value of stochastic rounding for destination element `m` (R126, `sr_random`). -/
def srRandom (seed m : Nat) : Nat :=
  let x0 : BitVec 32 := BitVec.ofNat 32 seed + BitVec.ofNat 32 m * 0x9E3779B9 + BitVec.ofNat 32 (m / 2 ^ 32) * 0x85EBCA6B
  let x1 := x0 ^^^ (x0 <<< 13)
  let x2 := x1 ^^^ (x1 >>> 17)
  (x2 ^^^ (x2 <<< 5)).toNat

/-- The rounding of one element: 0 RNE, 1 RZ, 2 SR (Table 4.5, R126). -/
def rndOf (round seed m : Nat) : Rnd :=
  match round with
  | 0 => .rne
  | 1 => .rz
  | _ => .sr (srRandom seed m)

/-- A finite magnitude for the MX block maximum: ±Inf counts as the largest finite FP32 value (R127 step 2). -/
def Val.mag : Val → Nat × Int
  | .fin _ m e => (m, e)
  | _ => maxFin 0xA

/-- The greater of two magnitudes. -/
def maxMag (a b : Nat × Int) : Nat × Int := if dyGt b.1 b.2 a.1 a.2 then b else a

/-- emax of R127 step 3. -/
def mxEmax : Nat → Int
  | 0xD => 8 | 0xE => 2 | _ => 0

/-- One element of an MX block: `x / 2 ^ e`, rounded and clamped to the element type (R127 step 4). -/
def encodeMXElem (dt : Nat) (rm : Rnd) (e : Int) (v : Val) : Nat × Bool :=
  let go (neg : Bool) (m : Nat) (x : Int) : Nat × Bool :=
    if dt == 0xF then
      let c := clampInt (-128, 127) (sgn neg (roundTo rm m x (-6)).1)
      (unsigned 8 c.1, c.2)
    else if m = 0 then (codeOf dt neg 0 0, false)
    else
      let f := fmtOf dt
      let q := max (ilog2 m x - f.mb) (1 - (f.bias : Int) - f.mb)
      let n := (roundTo rm m x q).1
      if dyGt n q (maxFin dt).1 (maxFin dt).2 then (maxCode dt neg, true) else (codeOf dt neg n q, false)
  match v with
  | .fin neg m x => go neg m (x - e)
  | .inf neg => go neg (maxFin 0xA).1 ((maxFin 0xA).2 - e)
  | .nan _ => (0, true)

/-- Encode one MX block: its scale byte, its element codes, and how many were clamped (R127). The elements of a block of scale 0xFF
read as NaN (R128), so none of them was turned into 0. `rm i` is the rounding
of element `i` of the block. -/
def encodeMXBlock (dt : Nat) (rm : Nat → Rnd) (ieee : Bool) (vs : List Val) : Nat × List Nat × Nat :=
  let isNan := vs.any fun v => match v with | .nan _ => true | .inf _ => ieee | .fin _ _ _ => false
  if isNan then (0xFF, vs.map fun _ => 0, 0)
  else
    let amax := vs.foldl (fun a v => maxMag a v.mag) (0, 0)
    if amax.1 = 0 then (0x7F, vs.map fun _ => 0, 0)
    else
      let e := max (-127) (min 127 (ilog2 amax.1 amax.2 - mxEmax dt))
      let r := (List.range vs.length).map fun i => encodeMXElem dt (rm i) e (vs.getD i (.fin false 0 0))
      ((e + 127).toNat, r.map (·.1), r.countP (·.2))

end Sys2Proof.Machine
end

