-- ==== Sys2Proof/Machine/RegTable.lean ====
section
/-! DEFINITION. The register map of BAR0 of PF0, from the register tables of chapters 02 to 19: for each field its
BAR0 byte address, its bits, its access code (Table 0.3), its reset value and, where a table or a rule gives one, the
range of values a write may carry (R552). A field constant names the field as the tables do, with its index letters as
parameters; tenant-page fields take the tenant first. -/
namespace Sys2Proof.Machine

/-- A register field: its BAR0 byte address, its lowest bit and its width. -/
structure Fld where
  addr : Nat
  lo : Nat
  n : Nat
  deriving DecidableEq, Repr

/-- The access codes of Table 0.3. -/
inductive Access
  | rw | ro | wo | w1c | w1s | rc | rwl
  deriving DecidableEq, Repr

/-- One field of a register table; `dims` gives the count and the stride of each index, outermost first, and `slope`
is what the reset value gains per step of the first index. -/
structure RegRow where
  base : Nat
  dims : List (Nat × Nat)
  lo : Nat
  n : Nat
  acc : Access
  reset : Nat
  slope : Nat
  range : Option (Nat × Nat)
  deriving DecidableEq, Repr

/-! The fields by name. -/

def F.CAD_CTRL_EN : Fld := ⟨0x240000, 0, 1⟩
def F.CAD_CTRL_SWITCH_ARM : Fld := ⟨0x240000, 1, 1⟩
def F.CAD_CTRL_SET_TIME : Fld := ⟨0x240000, 2, 1⟩
def F.CAD_CTRL_ACCEPT_SRC : Fld := ⟨0x240000, 3, 1⟩
def F.CAD_CTRL_PPS_IN_EN : Fld := ⟨0x240000, 4, 1⟩
def F.CAD_CTRL_ETH0_ROLE : Fld := ⟨0x240000, 5, 2⟩
def F.CAD_CTRL_ETH1_ROLE : Fld := ⟨0x240000, 7, 2⟩
def F.CAD_CTRL_PROFILE : Fld := ⟨0x240000, 9, 1⟩
def F.CAD_CTRL_FIT_PART : Fld := ⟨0x240000, 10, 1⟩
def F.CAD_STATUS_SOURCE : Fld := ⟨0x240004, 0, 3⟩
def F.CAD_STATUS_MASTER : Fld := ⟨0x240004, 3, 1⟩
def F.CAD_STATUS_ALIGNED : Fld := ⟨0x240004, 4, 1⟩
def F.CAD_STATUS_SLEWING : Fld := ⟨0x240004, 5, 1⟩
def F.CAD_STATUS_HOLD_IN_SPEC : Fld := ⟨0x240004, 6, 1⟩
def F.CAD_STATUS_SWITCH_PENDING : Fld := ⟨0x240004, 7, 1⟩
def F.CAD_STATUS_MASTER_ID : Fld := ⟨0x240004, 8, 6⟩
def F.CAD_TIME_LO : Fld := ⟨0x240008, 0, 32⟩
def F.CAD_TIME_HI : Fld := ⟨0x24000C, 0, 32⟩
def F.CAD_TIME_SET_LO : Fld := ⟨0x240010, 0, 32⟩
def F.CAD_TIME_SET_HI : Fld := ⟨0x240014, 0, 32⟩
def F.CAD_EPOCH_LO : Fld := ⟨0x240018, 0, 32⟩
def F.CAD_EPOCH_HI : Fld := ⟨0x24001C, 0, 32⟩
def F.CAD_PERIOD : Fld := ⟨0x240020, 0, 30⟩
def F.CAD_NEXT_PERIOD : Fld := ⟨0x240024, 0, 30⟩
def F.CAD_TICK_LO : Fld := ⟨0x240028, 0, 32⟩
def F.CAD_TICK_HI : Fld := ⟨0x24002C, 0, 16⟩
def F.CAD_SWITCH_TICK_LO : Fld := ⟨0x240030, 0, 32⟩
def F.CAD_SWITCH_TICK_HI : Fld := ⟨0x240034, 0, 16⟩
def F.CAD_FIT_SHARE : Fld := ⟨0x240038, 0, 7⟩
def F.CAD_FIT_CF_SHARE : Fld := ⟨0x240038, 8, 7⟩
def F.CAD_FIT_HORIZON : Fld := ⟨0x240038, 16, 5⟩
def F.CAD_FIT_GUARD : Fld := ⟨0x240038, 24, 8⟩
def F.CAD_LAUNCH_LEAD_US : Fld := ⟨0x24003C, 0, 8⟩
def F.CAD_TICK_OUT_WIDTH : Fld := ⟨0x240040, 0, 16⟩
def F.CAD_TICK_OUT_COMP : Fld := ⟨0x240040, 16, 8⟩
def F.CAD_TICK_OUT_POL : Fld := ⟨0x240040, 24, 1⟩
def F.CAD_TICK_OUT_OE : Fld := ⟨0x240040, 25, 1⟩
def F.CAD_PPS_OUT_WIDTH : Fld := ⟨0x240044, 0, 20⟩
def F.CAD_PPS_OUT_OE : Fld := ⟨0x240044, 20, 1⟩
def F.CAD_SLEW_MAX_PPM : Fld := ⟨0x240048, 0, 10⟩
def F.CAD_SANE_LIMIT : Fld := ⟨0x24004C, 0, 32⟩
def F.CAD_DOM_PRIO : Fld := ⟨0x240050, 0, 8⟩
def F.CAD_PPS_IN_TS_LO : Fld := ⟨0x240058, 0, 32⟩
def F.CAD_PPS_IN_TS_HI : Fld := ⟨0x24005C, 0, 32⟩
def F.CAD_HOLD_ERR : Fld := ⟨0x240060, 0, 32⟩
def F.CAD_HOLD_LEARN_HOURS : Fld := ⟨0x240064, 0, 16⟩
def F.CAD_HOLD_OSC : Fld := ⟨0x240064, 16, 1⟩
def F.CAD_OFFLINE : Fld := ⟨0x240068, 0, 32⟩
def F.CAD_OFFLINE_CFG_BOOT_CHARGE : Fld := ⟨0x24006C, 0, 8⟩
def F.CAD_RATE_ADJ : Fld := ⟨0x240070, 0, 32⟩
def F.CAD_LATE_LATE : Fld := ⟨0x240080, 0, 1⟩
def F.CAD_LATE_LATE_CNT : Fld := ⟨0x240080, 8, 8⟩
def F.CAD_CFG_CFG : Fld := ⟨0x240084, 0, 1⟩
def F.CAD_CFG_CFG_CNT : Fld := ⟨0x240084, 8, 8⟩
def F.CAD_SRC_SRC : Fld := ⟨0x240088, 0, 1⟩
def F.CAD_SRC_SRC_CNT : Fld := ⟨0x240088, 8, 8⟩
def F.CAD_ALIGN_ALIGN : Fld := ⟨0x24008C, 0, 1⟩
def F.CAD_ALIGN_ALIGN_CNT : Fld := ⟨0x24008C, 8, 8⟩
def F.CAD_PPSIN_PPSIN : Fld := ⟨0x240090, 0, 1⟩
def F.CAD_PPSIN_PPSIN_CNT : Fld := ⟨0x240090, 8, 8⟩
def F.CAD_LLATE_LLATE : Fld := ⟨0x240094, 0, 1⟩
def F.CAD_LLATE_LLATE_CNT : Fld := ⟨0x240094, 8, 8⟩
def F.CAD_FIT_TEN_SHARE (t : Nat) : Fld := ⟨0x2400C0 + 0x4 * t, 0, 7⟩
def F.MEM_CTRL_SCRUB_EN : Fld := ⟨0xC0000, 0, 1⟩
def F.MEM_CTRL_HBM_SCRUB_EN : Fld := ⟨0xC0000, 1, 1⟩
def F.MEM_SCRUB_PERIOD : Fld := ⟨0xC0004, 0, 8⟩
def F.MEM_SCRUB_HBM_PERIOD : Fld := ⟨0xC0004, 8, 8⟩
def F.MEM_SCRUB_POS : Fld := ⟨0xC0008, 0, 26⟩
def F.MEM_HBM_SCRUB_POS : Fld := ⟨0xC000C, 0, 30⟩
def F.MEM_WC_SIZE : Fld := ⟨0xC0010, 0, 3⟩
def F.MEM_WC_HIT : Fld := ⟨0xC0014, 0, 32⟩
def F.MEM_WC_MISS : Fld := ⟨0xC0018, 0, 32⟩
def F.MEM_STATUS_HBM_READY : Fld := ⟨0xC001C, 0, 1⟩
def F.MEM_STATUS_WC_RESIZE_BUSY : Fld := ⟨0xC001C, 1, 1⟩
def F.MEM_INGEST_BASE : Fld := ⟨0xC0020, 0, 4⟩
def F.MEM_WC_PIN_BASE (k : Nat) : Fld := ⟨0xC0030 + 0x8 * k, 0, 26⟩
def F.MEM_WC_PIN_EN (k : Nat) : Fld := ⟨0xC0030 + 0x8 * k, 31, 1⟩
def F.MEM_WC_PIN_LIMIT (k : Nat) : Fld := ⟨0xC0034 + 0x8 * k, 0, 26⟩
def F.MEM_CE_COUNT : Fld := ⟨0xC0050, 0, 32⟩
def F.MEM_HBM_CE_COUNT : Fld := ⟨0xC0054, 0, 32⟩
def F.MEM_UE_ADDR_LO : Fld := ⟨0xC0058, 0, 32⟩
def F.MEM_UE_ADDR_HI : Fld := ⟨0xC005C, 0, 32⟩
def F.MEM_UE_INFO_IID : Fld := ⟨0xC0060, 0, 12⟩
def F.MEM_UE_INFO_SCRUB : Fld := ⟨0xC0060, 16, 1⟩
def F.MEM_CE_CE : Fld := ⟨0xC0080, 0, 1⟩
def F.MEM_CE_CE_CNT : Fld := ⟨0xC0080, 8, 8⟩
def F.MEM_UE_UE : Fld := ⟨0xC0084, 0, 1⟩
def F.MEM_UE_UE_CNT : Fld := ⟨0xC0084, 8, 8⟩
def F.MEM_WCUE_WCUE : Fld := ⟨0xC0088, 0, 1⟩
def F.MEM_WCUE_WCUE_CNT : Fld := ⟨0xC0088, 8, 8⟩
def F.MEM_WC_BYP_BYP : Fld := ⟨0xC008C, 0, 1⟩
def F.MEM_WC_BYP_BYP_CNT : Fld := ⟨0xC008C, 8, 8⟩
def F.MEM_RSVD_RSVD : Fld := ⟨0xC0090, 0, 1⟩
def F.MEM_RSVD_RSVD_CNT : Fld := ⟨0xC0090, 8, 8⟩
def F.MEM_CFG_CFG : Fld := ⟨0xC0094, 0, 1⟩
def F.MEM_CFG_CFG_CNT : Fld := ⟨0xC0094, 8, 8⟩
def F.MEM_FACET_A (t k : Nat) : Fld := ⟨0xC0100 + 0x10 * t + 0x4 * k, 0, 4⟩
def F.MEM_FACET_W (t k : Nat) : Fld := ⟨0xC0100 + 0x10 * t + 0x4 * k, 8, 3⟩
def F.MEM_FACET_Y (t k : Nat) : Fld := ⟨0xC0100 + 0x10 * t + 0x4 * k, 16, 5⟩
def F.MEM_FACET_VALID (t k : Nat) : Fld := ⟨0xC0100 + 0x10 * t + 0x4 * k, 31, 1⟩
def F.PRI_PART_BASE (t : Nat) : Fld := ⟨0x100000 + 0x4 * t, 0, 9⟩
def F.PRI_PART_COUNT (t : Nat) : Fld := ⟨0x100000 + 0x4 * t, 16, 9⟩
def F.PRI_HIT (t : Nat) : Fld := ⟨0x100040 + 0x8 * t, 0, 32⟩
def F.PRI_MISS (t : Nat) : Fld := ⟨0x100044 + 0x8 * t, 0, 32⟩
def F.PRI_PINNED (t : Nat) : Fld := ⟨0x1000C0 + 0x4 * t, 0, 13⟩
def F.PRI_INVAL : Fld := ⟨0x100100, 0, 16⟩
def F.PRI_CFG_CFG : Fld := ⟨0x100180, 0, 1⟩
def F.PRI_CFG_CFG_CNT : Fld := ⟨0x100180, 8, 8⟩
def F.PRI_PINFULL_PINFULL : Fld := ⟨0x100184, 0, 1⟩
def F.PRI_PINFULL_PINFULL_CNT : Fld := ⟨0x100184, 8, 8⟩
def F.PRI_PLANUE_PLANUE : Fld := ⟨0x100188, 0, 1⟩
def F.PRI_PLANUE_PLANUE_CNT : Fld := ⟨0x100188, 8, 8⟩
def F.TP_Q_BASE_LO (t q : Nat) : Fld := ⟨0x1000000 + 0x100000 * t + 0x80 * q, 0, 32⟩
def F.TP_Q_BASE_HI (t q : Nat) : Fld := ⟨0x1000004 + 0x100000 * t + 0x80 * q, 0, 32⟩
def F.TP_Q_CFG_SIZE (t q : Nat) : Fld := ⟨0x1000008 + 0x100000 * t + 0x80 * q, 0, 5⟩
def F.TP_Q_CFG_QOUT (t q : Nat) : Fld := ⟨0x1000008 + 0x100000 * t + 0x80 * q, 16, 10⟩
def F.TP_Q_WIN_ID (t q : Nat) : Fld := ⟨0x100000C + 0x100000 * t + 0x80 * q, 0, 16⟩
def F.TP_Q_WIN_GEN (t q : Nat) : Fld := ⟨0x100000C + 0x100000 * t + 0x80 * q, 16, 16⟩
def F.TP_Q_SEQ_INIT (t q : Nat) : Fld := ⟨0x1000010 + 0x100000 * t + 0x80 * q, 0, 32⟩
def F.TP_Q_HEAD (t q : Nat) : Fld := ⟨0x1000014 + 0x100000 * t + 0x80 * q, 0, 32⟩
def F.TP_Q_CTRL_EN (t q : Nat) : Fld := ⟨0x1000018 + 0x100000 * t + 0x80 * q, 0, 1⟩
def F.TP_Q_CTRL_RESUME (t q : Nat) : Fld := ⟨0x1000018 + 0x100000 * t + 0x80 * q, 1, 1⟩
def F.TP_Q_STATUS_IDLE (t q : Nat) : Fld := ⟨0x100001C + 0x100000 * t + 0x80 * q, 0, 1⟩
def F.TP_Q_STATUS_HALT (t q : Nat) : Fld := ⟨0x100001C + 0x100000 * t + 0x80 * q, 1, 1⟩
def F.TP_Q_STATUS_CAUSE (t q : Nat) : Fld := ⟨0x100001C + 0x100000 * t + 0x80 * q, 2, 2⟩
def F.TP_Q_STATUS_SHADOW (t q : Nat) : Fld := ⟨0x100001C + 0x100000 * t + 0x80 * q, 16, 9⟩
def F.TP_Q_SEQ_NEXT (t q : Nat) : Fld := ⟨0x1000020 + 0x100000 * t + 0x80 * q, 0, 32⟩
def F.TP_Q_TAIL (t q : Nat) : Fld := ⟨0x1001000 + 0x100000 * t + 0x1000 * q, 0, 32⟩
def F.TP_CQ_HEAD (t : Nat) : Fld := ⟨0x1009000 + 0x100000 * t, 0, 32⟩
def F.TP_CQ_BASE_LO (t : Nat) : Fld := ⟨0x100A000 + 0x100000 * t, 0, 32⟩
def F.TP_CQ_BASE_HI (t : Nat) : Fld := ⟨0x100A004 + 0x100000 * t, 0, 32⟩
def F.TP_CQ_CFG_SIZE (t : Nat) : Fld := ⟨0x100A008 + 0x100000 * t, 0, 5⟩
def F.TP_CQ_WIN_ID (t : Nat) : Fld := ⟨0x100A00C + 0x100000 * t, 0, 16⟩
def F.TP_CQ_WIN_GEN (t : Nat) : Fld := ⟨0x100A00C + 0x100000 * t, 16, 16⟩
def F.TP_CQ_TAIL (t : Nat) : Fld := ⟨0x100A010 + 0x100000 * t, 0, 32⟩
def F.TP_CQ_RESERVED (t : Nat) : Fld := ⟨0x100A014 + 0x100000 * t, 0, 17⟩
def F.TP_CQ_CTRL_EN (t : Nat) : Fld := ⟨0x100A018 + 0x100000 * t, 0, 1⟩
def F.TP_CQ_CTRL_RESUME (t : Nat) : Fld := ⟨0x100A018 + 0x100000 * t, 1, 1⟩
def F.TP_CQ_STATUS_HALT (t : Nat) : Fld := ⟨0x100A01C + 0x100000 * t, 0, 1⟩
def F.TP_IRQ_COUNT (t : Nat) : Fld := ⟨0x100B000 + 0x100000 * t, 0, 8⟩
def F.TP_IRQ_TIME (t : Nat) : Fld := ⟨0x100B000 + 0x100000 * t, 16, 10⟩
def F.TP_FMT_MINOR (t : Nat) : Fld := ⟨0x100B004 + 0x100000 * t, 0, 8⟩
def F.TP_FMT_MAJOR (t : Nat) : Fld := ⟨0x100B004 + 0x100000 * t, 8, 8⟩
def F.TP_FMT_SET (t : Nat) : Fld := ⟨0x100B004 + 0x100000 * t, 16, 1⟩
def F.TP_QOVR_QOVR (t : Nat) : Fld := ⟨0x100B010 + 0x100000 * t, 0, 1⟩
def F.TP_QOVR_QOVR_CNT (t : Nat) : Fld := ⟨0x100B010 + 0x100000 * t, 8, 8⟩
def F.TP_CQOVR_CQOVR (t : Nat) : Fld := ⟨0x100B014 + 0x100000 * t, 0, 1⟩
def F.TP_CQOVR_CQOVR_CNT (t : Nat) : Fld := ⟨0x100B014 + 0x100000 * t, 8, 8⟩
def F.TP_CQFULL_CQFULL (t : Nat) : Fld := ⟨0x100B018 + 0x100000 * t, 0, 1⟩
def F.TP_CQFULL_CQFULL_CNT (t : Nat) : Fld := ⟨0x100B018 + 0x100000 * t, 8, 8⟩
def F.TP_CFG_CFG (t : Nat) : Fld := ⟨0x100B01C + 0x100000 * t, 0, 1⟩
def F.TP_CFG_CFG_CNT (t : Nat) : Fld := ⟨0x100B01C + 0x100000 * t, 8, 8⟩
def F.TP_HALT_HALT (t : Nat) : Fld := ⟨0x100B020 + 0x100000 * t, 0, 1⟩
def F.TP_HALT_HALT_CNT (t : Nat) : Fld := ⟨0x100B020 + 0x100000 * t, 8, 8⟩
def F.TP_PRI_HIT (t : Nat) : Fld := ⟨0x100C000 + 0x100000 * t, 0, 32⟩
def F.TP_PRI_MISS (t : Nat) : Fld := ⟨0x100C004 + 0x100000 * t, 0, 32⟩
def F.CMQ_FWQ_DEPTH : Fld := ⟨0x80000, 0, 9⟩
def F.CMQ_FWQ_PEAK : Fld := ⟨0x80004, 0, 9⟩
def F.CMQ_STOP : Fld := ⟨0x80008, 0, 16⟩
def F.CMQ_HALTED : Fld := ⟨0x8000C, 0, 16⟩
def F.CMQ_FMT_SET : Fld := ⟨0x80010, 0, 16⟩
def F.CMQ_BUSY_BUSY : Fld := ⟨0x80014, 0, 1⟩
def F.CMQ_BUSY_BUSY_CNT : Fld := ⟨0x80014, 8, 8⟩
def F.ENG_CTRL_TRES : Fld := ⟨0x140000, 0, 9⟩
def F.ENG_SPLIT_READ : Fld := ⟨0x140004, 0, 7⟩
def F.ENG_SPLIT_WRITE : Fld := ⟨0x140004, 8, 7⟩
def F.ENG_SPLIT_REMOTE : Fld := ⟨0x140004, 16, 7⟩
def F.ENG_DL_HORIZON_US : Fld := ⟨0x140008, 0, 16⟩
def F.ENG_STARVE_US : Fld := ⟨0x14000C, 0, 24⟩
def F.ENG_ECTRL_REGIME (n : Nat) : Fld := ⟨0x140040 + 0x4 * n, 0, 1⟩
def F.ENG_ECTRL_OFFLINE (n : Nat) : Fld := ⟨0x140040 + 0x4 * n, 1, 1⟩
def F.ENG_ECTRL_RESET (n : Nat) : Fld := ⟨0x140040 + 0x4 * n, 2, 1⟩
def F.ENG_ESTAT_ACTIVE (n : Nat) : Fld := ⟨0x1400C0 + 0x4 * n, 0, 5⟩
def F.ENG_ESTAT_RUNLIST (n : Nat) : Fld := ⟨0x1400C0 + 0x4 * n, 8, 7⟩
def F.ENG_ESTAT_TAGS (n : Nat) : Fld := ⟨0x1400C0 + 0x4 * n, 16, 10⟩
def F.ENG_CFG_CFG : Fld := ⟨0x140180, 0, 1⟩
def F.ENG_CFG_CFG_CNT : Fld := ⟨0x140180, 8, 8⟩
def F.ENG_STARVE_STARVE : Fld := ⟨0x140184, 0, 1⟩
def F.ENG_STARVE_STARVE_CNT : Fld := ⟨0x140184, 8, 8⟩
def F.ENG_DLMISS_DLMISS : Fld := ⟨0x140188, 0, 1⟩
def F.ENG_DLMISS_DLMISS_CNT : Fld := ⟨0x140188, 8, 8⟩
def F.ENG_SPART_BASE (t : Nat) : Fld := ⟨0x140200 + 0x4 * t, 0, 6⟩
def F.ENG_SPART_COUNT (t : Nat) : Fld := ⟨0x140200 + 0x4 * t, 16, 7⟩
def F.ENG_QMASK (t q : Nat) : Fld := ⟨0x141000 + 0x20 * t + 0x4 * q, 0, 32⟩
def F.ENG_QDEF_DSTREAM (t q : Nat) : Fld := ⟨0x141200 + 0x20 * t + 0x4 * q, 0, 12⟩
def F.ENG_QDEF_HOME (t q : Nat) : Fld := ⟨0x141200 + 0x20 * t + 0x4 * q, 16, 2⟩
def F.ENG_STRM_RATE (s : Nat) : Fld := ⟨0x144000 + 0x8 * s, 0, 24⟩
def F.ENG_STRM_LEAD_US (s : Nat) : Fld := ⟨0x144004 + 0x8 * s, 0, 16⟩
def F.ARB_LOCK_WAIT_US : Fld := ⟨0x180000, 0, 7⟩
def F.ARB_SYSW_HP : Fld := ⟨0x180004, 0, 4⟩
def F.ARB_SYSW_AP : Fld := ⟨0x180004, 4, 4⟩
def F.ARB_SYSW_REIN : Fld := ⟨0x180004, 8, 4⟩
def F.ARB_SYSW_ETH : Fld := ⟨0x180004, 12, 4⟩
def F.ARB_SYSW_AWL : Fld := ⟨0x180004, 16, 4⟩
def F.ARB_SYSW_CF : Fld := ⟨0x180004, 20, 4⟩
def F.ARB_SYSW_TRC : Fld := ⟨0x180004, 24, 4⟩
def F.ARB_PREEMPT : Fld := ⟨0x180010, 0, 32⟩
def F.ARB_LOVR_INFO_LANE : Fld := ⟨0x180020, 0, 8⟩
def F.ARB_LOVR_INFO_TENANT : Fld := ⟨0x180020, 8, 4⟩
def F.ARB_LOVR_INFO_QUEUE : Fld := ⟨0x180020, 12, 3⟩
def F.ARB_LOVR_INFO_BEATS : Fld := ⟨0x180020, 15, 1⟩
def F.ARB_LOVR_LOVR : Fld := ⟨0x180080, 0, 1⟩
def F.ARB_LOVR_LOVR_CNT : Fld := ⟨0x180080, 8, 8⟩
def F.ARB_LRETRY_LRETRY : Fld := ⟨0x180084, 0, 1⟩
def F.ARB_LRETRY_LRETRY_CNT : Fld := ⟨0x180084, 8, 8⟩
def F.ARB_BROKEN_BROKEN : Fld := ⟨0x180088, 0, 1⟩
def F.ARB_BROKEN_BROKEN_CNT : Fld := ⟨0x180088, 8, 8⟩
def F.ARB_CFG_CFG : Fld := ⟨0x18008C, 0, 1⟩
def F.ARB_CFG_CFG_CNT : Fld := ⟨0x18008C, 8, 8⟩
def F.SYN_PART_BASE (t : Nat) : Fld := ⟨0x1C0000 + 0x4 * t, 0, 8⟩
def F.SYN_PART_COUNT (t : Nat) : Fld := ⟨0x1C0000 + 0x4 * t, 16, 9⟩
def F.SYN_BPART_BASE (t : Nat) : Fld := ⟨0x1C0040 + 0x4 * t, 0, 6⟩
def F.SYN_BPART_COUNT (t : Nat) : Fld := ⟨0x1C0040 + 0x4 * t, 16, 7⟩
def F.SYN_LPART_BASE (t : Nat) : Fld := ⟨0x1C0080 + 0x4 * t, 0, 4⟩
def F.SYN_LPART_COUNT (t : Nat) : Fld := ⟨0x1C0080 + 0x4 * t, 16, 5⟩
def F.SYN_RIDX_INFO_INDEX : Fld := ⟨0x1C0100, 0, 16⟩
def F.SYN_RIDX_INFO_TENANT : Fld := ⟨0x1C0100, 16, 4⟩
def F.SYN_RIDX_INFO_SRC_CHIP : Fld := ⟨0x1C0100, 24, 6⟩
def F.SYN_CFG_CFG : Fld := ⟨0x1C0180, 0, 1⟩
def F.SYN_CFG_CFG_CNT : Fld := ⟨0x1C0180, 8, 8⟩
def F.SYN_RIDX_RIDX : Fld := ⟨0x1C0184, 0, 1⟩
def F.SYN_RIDX_RIDX_CNT : Fld := ⟨0x1C0184, 8, 8⟩
def F.SYN_LREAP_LREAP : Fld := ⟨0x1C0188, 0, 1⟩
def F.SYN_LREAP_LREAP_CNT : Fld := ⟨0x1C0188, 8, 8⟩
def F.TP_CNT (t i : Nat) : Fld := ⟨0x1010000 + 0x100000 * t + 0x4 * i, 0, 32⟩
def F.TP_CNT_ADD (t i : Nat) : Fld := ⟨0x1020000 + 0x100000 * t + 0x4 * i, 0, 32⟩
def F.TP_CNT_SUB (t i : Nat) : Fld := ⟨0x1030000 + 0x100000 * t + 0x4 * i, 0, 32⟩
def F.TP_CST_OVF_CNT (t i : Nat) : Fld := ⟨0x1040000 + 0x100000 * t + 0x4 * i, 0, 8⟩
def F.TP_CST_UNF_CNT (t i : Nat) : Fld := ⟨0x1040000 + 0x100000 * t + 0x4 * i, 8, 8⟩
def F.TP_CST_STALE_CNT (t i : Nat) : Fld := ⟨0x1040000 + 0x100000 * t + 0x4 * i, 16, 8⟩
def F.TP_CST_OVF (t i : Nat) : Fld := ⟨0x1040000 + 0x100000 * t + 0x4 * i, 24, 1⟩
def F.TP_CST_UNF (t i : Nat) : Fld := ⟨0x1040000 + 0x100000 * t + 0x4 * i, 25, 1⟩
def F.TP_CST_STALE (t i : Nat) : Fld := ⟨0x1040000 + 0x100000 * t + 0x4 * i, 26, 1⟩
def F.TP_BAR_ARRIVE_IDX (t b : Nat) : Fld := ⟨0x1050000 + 0x100000 * t + 0x20 * b, 0, 14⟩
def F.TP_BAR_EN (t b : Nat) : Fld := ⟨0x1050000 + 0x100000 * t + 0x20 * b, 31, 1⟩
def F.TP_BAR_PHASE_IDX (t b : Nat) : Fld := ⟨0x1050004 + 0x100000 * t + 0x20 * b, 0, 14⟩
def F.TP_BAR_PARTS (t b : Nat) : Fld := ⟨0x1050004 + 0x100000 * t + 0x20 * b, 16, 13⟩
def F.TP_BAR_NOTIFY_LO (t b : Nat) : Fld := ⟨0x1050008 + 0x100000 * t + 0x20 * b, 0, 32⟩
def F.TP_BAR_NOTIFY_HI (t b : Nat) : Fld := ⟨0x105000C + 0x100000 * t + 0x20 * b, 0, 32⟩
def F.TP_BAR_NOTIFY_IDX (t b : Nat) : Fld := ⟨0x1050010 + 0x100000 * t + 0x20 * b, 0, 14⟩
def F.TP_BAR_SENSE (t b : Nat) : Fld := ⟨0x1050014 + 0x100000 * t + 0x20 * b, 0, 1⟩
def F.TP_LOCK_HELD (t l : Nat) : Fld := ⟨0x1060000 + 0x100000 * t + 0x4 * l, 0, 1⟩
def F.TP_LOCK_BROKEN (t l : Nat) : Fld := ⟨0x1060000 + 0x100000 * t + 0x4 * l, 1, 1⟩
def F.TP_LOCK_HOLDER_Q (t l : Nat) : Fld := ⟨0x1060000 + 0x100000 * t + 0x4 * l, 4, 3⟩
def F.TP_LOCK_HOLDER_CHIP (t l : Nat) : Fld := ⟨0x1060000 + 0x100000 * t + 0x4 * l, 8, 6⟩
def F.TP_SYNOVF_OVF (t : Nat) : Fld := ⟨0x1070000 + 0x100000 * t, 0, 1⟩
def F.TP_SYNOVF_OVF_CNT (t : Nat) : Fld := ⟨0x1070000 + 0x100000 * t, 8, 8⟩
def F.TP_SYNUNF_UNF (t : Nat) : Fld := ⟨0x1070004 + 0x100000 * t, 0, 1⟩
def F.TP_SYNUNF_UNF_CNT (t : Nat) : Fld := ⟨0x1070004 + 0x100000 * t, 8, 8⟩
def F.TP_SYNSTALE_STALE (t : Nat) : Fld := ⟨0x1070008 + 0x100000 * t, 0, 1⟩
def F.TP_SYNSTALE_STALE_CNT (t : Nat) : Fld := ⟨0x1070008 + 0x100000 * t, 8, 8⟩
def F.SCH_PART_BASE (t : Nat) : Fld := ⟨0x200000 + 0x4 * t, 0, 8⟩
def F.SCH_PART_COUNT (t : Nat) : Fld := ⟨0x200000 + 0x4 * t, 16, 9⟩
def F.SCH_CFG_CFG : Fld := ⟨0x200080, 0, 1⟩
def F.SCH_CFG_CFG_CNT : Fld := ⟨0x200080, 8, 8⟩
def F.TP_EVF_SET_LO (t w : Nat) : Fld := ⟨0x1080000 + 0x100000 * t + 0x8 * w, 0, 32⟩
def F.TP_EVF_SET_HI (t w : Nat) : Fld := ⟨0x1080004 + 0x100000 * t + 0x8 * w, 0, 32⟩
def F.TP_EVF_CLR_LO (t w : Nat) : Fld := ⟨0x1080100 + 0x100000 * t + 0x8 * w, 0, 32⟩
def F.TP_EVF_CLR_HI (t w : Nat) : Fld := ⟨0x1080104 + 0x100000 * t + 0x8 * w, 0, 32⟩
def F.TP_GLOADED (t k : Nat) : Fld := ⟨0x1080200 + 0x100000 * t + 0x4 * k, 0, 32⟩
def F.TP_GERR_NODE (t : Nat) : Fld := ⟨0x1080300 + 0x100000 * t, 0, 12⟩
def F.TP_GERR_OFFSET (t : Nat) : Fld := ⟨0x1080300 + 0x100000 * t, 16, 9⟩
def F.TP_GERR_VALID (t : Nat) : Fld := ⟨0x1080300 + 0x100000 * t, 31, 1⟩
def F.REI_ID_CHIP : Fld := ⟨0x280000, 0, 6⟩
def F.REI_ID_VALID : Fld := ⟨0x280000, 8, 1⟩
def F.REI_SERIAL_LO : Fld := ⟨0x280008, 0, 32⟩
def F.REI_SERIAL_HI : Fld := ⟨0x28000C, 0, 32⟩
def F.REI_CTRL_MAXHOPS : Fld := ⟨0x280010, 0, 4⟩
def F.REI_E2E_TIMEOUT_US : Fld := ⟨0x280014, 0, 16⟩
def F.REI_REQ_TIMEOUT_US : Fld := ⟨0x280018, 0, 16⟩
def F.REI_P_CTRL_EN (n : Nat) : Fld := ⟨0x280040 + 0x4 * n, 0, 1⟩
def F.REI_P_CTRL_HALF_OK (n : Nat) : Fld := ⟨0x280040 + 0x4 * n, 1, 1⟩
def F.REI_P_CTRL_TIME_EN (n : Nat) : Fld := ⟨0x280040 + 0x4 * n, 2, 1⟩
def F.REI_P_STATUS_STATE (n : Nat) : Fld := ⟨0x280080 + 0x4 * n, 0, 4⟩
def F.REI_P_STATUS_WIDTH (n : Nat) : Fld := ⟨0x280080 + 0x4 * n, 4, 2⟩
def F.REI_P_STATUS_PEER_CHIP (n : Nat) : Fld := ⟨0x280080 + 0x4 * n, 8, 6⟩
def F.REI_P_STATUS_PEER_PORT (n : Nat) : Fld := ⟨0x280080 + 0x4 * n, 16, 4⟩
def F.REI_P_STATUS_UPSTREAM (n : Nat) : Fld := ⟨0x280080 + 0x4 * n, 20, 1⟩
def F.REI_P_STATUS_CAUSE (n : Nat) : Fld := ⟨0x280080 + 0x4 * n, 24, 4⟩
def F.REI_P_RETRY (n : Nat) : Fld := ⟨0x2800C0 + 0x4 * n, 0, 32⟩
def F.REI_P_TASYM (n : Nat) : Fld := ⟨0x280100 + 0x4 * n, 0, 16⟩
def F.REI_P_CRCERR (n : Nat) : Fld := ⟨0x280140 + 0x4 * n, 0, 32⟩
def F.REI_MISR_INFO_SRC : Fld := ⟨0x280200, 0, 6⟩
def F.REI_MISR_INFO_DEST : Fld := ⟨0x280200, 8, 6⟩
def F.REI_MISR_INFO_PORT : Fld := ⟨0x280200, 16, 4⟩
def F.REI_MISR_INFO_VC : Fld := ⟨0x280200, 20, 2⟩
def F.REI_MISR_INFO_CAUSE : Fld := ⟨0x280200, 24, 2⟩
def F.REI_EPOCH_INFO_SRC : Fld := ⟨0x280204, 0, 6⟩
def F.REI_EPOCH_INFO_EPOCH : Fld := ⟨0x280204, 8, 8⟩
def F.REI_MULTI_MULTI : Fld := ⟨0x280280, 0, 1⟩
def F.REI_MULTI_MULTI_CNT : Fld := ⟨0x280280, 8, 8⟩
def F.REI_MISR_MISR : Fld := ⟨0x280284, 0, 1⟩
def F.REI_MISR_MISR_CNT : Fld := ⟨0x280284, 8, 8⟩
def F.REI_LINK_EPOCH_LINK_EPOCH : Fld := ⟨0x280288, 0, 1⟩
def F.REI_LINK_EPOCH_LINK_EPOCH_CNT : Fld := ⟨0x280288, 8, 8⟩
def F.REI_OLD_OLD : Fld := ⟨0x28028C, 0, 1⟩
def F.REI_OLD_OLD_CNT : Fld := ⟨0x28028C, 8, 8⟩
def F.REI_RETRAIN_RETRAIN : Fld := ⟨0x280290, 0, 1⟩
def F.REI_RETRAIN_RETRAIN_CNT : Fld := ⟨0x280290, 8, 8⟩
def F.REI_DOWN_DOWN : Fld := ⟨0x280294, 0, 1⟩
def F.REI_DOWN_DOWN_CNT : Fld := ⟨0x280294, 8, 8⟩
def F.REI_DUPID_DUPID : Fld := ⟨0x280298, 0, 1⟩
def F.REI_DUPID_DUPID_CNT : Fld := ⟨0x280298, 8, 8⟩
def F.REI_PROTO_PROTO : Fld := ⟨0x28029C, 0, 1⟩
def F.REI_PROTO_PROTO_CNT : Fld := ⟨0x28029C, 8, 8⟩
def F.REI_CFG_CFG : Fld := ⟨0x2802A0, 0, 1⟩
def F.REI_CFG_CFG_CNT : Fld := ⟨0x2802A0, 8, 8⟩
def F.REI_TXE_EPOCH (d : Nat) : Fld := ⟨0x280300 + 0x4 * d, 0, 8⟩
def F.REI_TXE_UNACKED (d : Nat) : Fld := ⟨0x280300 + 0x4 * d, 16, 11⟩
def F.REI_ROUTE0 (n e : Nat) : Fld := ⟨0x281000 + 0x200 * n + 0x8 * e, 0, 32⟩
def F.REI_ROUTE1 (n e : Nat) : Fld := ⟨0x281004 + 0x200 * n + 0x8 * e, 0, 12⟩
def F.ETH_CTRL_EN : Fld := ⟨0x2C0000, 0, 2⟩
def F.ETH_CTRL_LAND_EN : Fld := ⟨0x2C0000, 2, 1⟩
def F.ETH_CTRL_MSEC_REQ : Fld := ⟨0x2C0000, 3, 2⟩
def F.ETH_CTRL_MKA : Fld := ⟨0x2C0000, 5, 2⟩
def F.ETH_CTRL_PFC : Fld := ⟨0x2C0000, 7, 2⟩
def F.ETH_CTRL_PFC_PRIO : Fld := ⟨0x2C0000, 9, 3⟩
def F.ETH_CTRL_MTU : Fld := ⟨0x2C0000, 16, 14⟩
def F.ETH_KTD_PORT : Fld := ⟨0x2C0004, 0, 16⟩
def F.ETH_PFC_XOFF : Fld := ⟨0x2C0008, 0, 8⟩
def F.ETH_PFC_XON : Fld := ⟨0x2C0008, 8, 8⟩
def F.ETH_IP_V6 (p j : Nat) : Fld := ⟨0x2C0010 + 0x20 * p + 0x4 * j, 0, 32⟩
def F.ETH_IP_V4 (p : Nat) : Fld := ⟨0x2C0020 + 0x20 * p, 0, 32⟩
def F.ETH_IP_EN (p : Nat) : Fld := ⟨0x2C0024 + 0x20 * p, 0, 2⟩
def F.ETH_MAC (p j : Nat) : Fld := ⟨0x2C0060 + 0x8 * p + 0x4 * j, 0, 32⟩
def F.ETH_CAM_SEL : Fld := ⟨0x2C0100, 0, 13⟩
def F.ETH_CAM_CMD : Fld := ⟨0x2C0104, 0, 2⟩
def F.ETH_CAM_STATUS : Fld := ⟨0x2C0108, 0, 3⟩
def F.ETH_CAM_COUNT : Fld := ⟨0x2C010C, 0, 14⟩
def F.ETH_CAM_DROPS : Fld := ⟨0x2C0110, 0, 32⟩
def F.ETH_CAM_DATA (k : Nat) : Fld := ⟨0x2C0120 + 0x4 * k, 0, 32⟩
def F.ETH_STRLOG (e j : Nat) : Fld := ⟨0x2C0200 + 0x20 * e + 0x4 * j, 0, 32⟩
def F.ETH_STRLOG_HEAD : Fld := ⟨0x2C0400, 0, 4⟩
def F.ETH_LANDED (p : Nat) : Fld := ⟨0x2C0600 + 0x40 * p, 0, 32⟩
def F.ETH_DROP (p c : Nat) : Fld := ⟨0x2C0600 + 0x40 * p + 0x4 * c, 0, 32⟩
def F.ETH_CAMDUP_CAMDUP : Fld := ⟨0x2C0700, 0, 1⟩
def F.ETH_CAMDUP_CAMDUP_CNT : Fld := ⟨0x2C0700, 8, 8⟩
def F.ETH_STRANGER_STRANGER : Fld := ⟨0x2C0704, 0, 1⟩
def F.ETH_STRANGER_STRANGER_CNT : Fld := ⟨0x2C0704, 8, 8⟩
def F.ETH_BUFOVF_BUFOVF : Fld := ⟨0x2C0708, 0, 1⟩
def F.ETH_BUFOVF_BUFOVF_CNT : Fld := ⟨0x2C0708, 8, 8⟩
def F.ETH_WINERR_WINERR : Fld := ⟨0x2C070C, 0, 1⟩
def F.ETH_WINERR_WINERR_CNT : Fld := ⟨0x2C070C, 8, 8⟩
def F.ETH_MULTI_MULTI : Fld := ⟨0x2C0710, 0, 1⟩
def F.ETH_MULTI_MULTI_CNT : Fld := ⟨0x2C0710, 8, 8⟩
def F.ETH_TRIPDROP_TRIPDROP : Fld := ⟨0x2C0714, 0, 1⟩
def F.ETH_TRIPDROP_TRIPDROP_CNT : Fld := ⟨0x2C0714, 8, 8⟩
def F.ETH_CFG_CFG : Fld := ⟨0x2C0718, 0, 1⟩
def F.ETH_CFG_CFG_CNT : Fld := ⟨0x2C0718, 8, 8⟩
def F.ETH_RULE (r j : Nat) : Fld := ⟨0x2C1000 + 0x40 * r + 0x4 * j, 0, 32⟩
def F.ETH_MSC_SCI (p s j : Nat) : Fld := ⟨0x2E0000 + 0x8000 * p + 0x40 * s + 0x4 * j, 0, 32⟩
def F.ETH_MSC_CTRL_EN (p s : Nat) : Fld := ⟨0x2E0008 + 0x8000 * p + 0x40 * s, 0, 1⟩
def F.ETH_MSC_CTRL_XPN (p s : Nat) : Fld := ⟨0x2E0008 + 0x8000 * p + 0x40 * s, 1, 1⟩
def F.ETH_MSC_CTRL_WINDOW (p s : Nat) : Fld := ⟨0x2E0008 + 0x8000 * p + 0x40 * s, 8, 24⟩
def F.ETH_MSC_SA_AN (p s : Nat) : Fld := ⟨0x2E000C + 0x8000 * p + 0x40 * s, 0, 2⟩
def F.ETH_MSC_SA_INSTALL (p s : Nat) : Fld := ⟨0x2E000C + 0x8000 * p + 0x40 * s, 2, 1⟩
def F.ETH_MSC_KEY (p s j : Nat) : Fld := ⟨0x2E0010 + 0x8000 * p + 0x40 * s + 0x4 * j, 0, 32⟩
def F.ETH_MSC_SALT (p s j : Nat) : Fld := ⟨0x2E0030 + 0x8000 * p + 0x40 * s + 0x4 * j, 0, 32⟩
def F.ETH_MSC_SSCI (p s : Nat) : Fld := ⟨0x2E003C + 0x8000 * p + 0x40 * s, 0, 32⟩
def F.TEN_ACTIVE : Fld := ⟨0x300000, 0, 16⟩
def F.TEN_CTXRST : Fld := ⟨0x300004, 0, 16⟩
def F.TEN_CTXRST_OPT_WIPE : Fld := ⟨0x300008, 0, 16⟩
def F.TEN_HP_IDE_REQ : Fld := ⟨0x300010, 0, 1⟩
def F.TEN_QUOTA_DESC (t : Nat) : Fld := ⟨0x300040 + 0x4 * t, 0, 17⟩
def F.TEN_DESC_USED (t : Nat) : Fld := ⟨0x300080 + 0x4 * t, 0, 17⟩
def F.TEN_AP_MODE : Fld := ⟨0x300100, 0, 1⟩
def F.TEN_AP_BIF : Fld := ⟨0x300100, 1, 2⟩
def F.TEN_AP_EN : Fld := ⟨0x300100, 4, 4⟩
def F.TEN_AP_IDE_REQ : Fld := ⟨0x300100, 8, 4⟩
def F.TEN_AP_BAR0_SIZE : Fld := ⟨0x300100, 16, 7⟩
def F.TEN_APL_SPEED (l : Nat) : Fld := ⟨0x300110 + 0x4 * l, 0, 4⟩
def F.TEN_APL_WIDTH (l : Nat) : Fld := ⟨0x300110 + 0x4 * l, 4, 5⟩
def F.TEN_APL_UP (l : Nat) : Fld := ⟨0x300110 + 0x4 * l, 12, 1⟩
def F.TEN_APCFG (j : Nat) : Fld := ⟨0x300120 + 0x4 * j, 0, 32⟩
def F.TEN_P2P_VALID (w : Nat) : Fld := ⟨0x300200 + 0x20 * w, 0, 1⟩
def F.TEN_P2P_R (w : Nat) : Fld := ⟨0x300200 + 0x20 * w, 1, 1⟩
def F.TEN_P2P_W (w : Nat) : Fld := ⟨0x300200 + 0x20 * w, 2, 1⟩
def F.TEN_P2P_RO (w : Nat) : Fld := ⟨0x300200 + 0x20 * w, 3, 1⟩
def F.TEN_P2P_NS (w : Nat) : Fld := ⟨0x300200 + 0x20 * w, 4, 1⟩
def F.TEN_P2P_LINK (w : Nat) : Fld := ⟨0x300200 + 0x20 * w, 5, 3⟩
def F.TEN_P2P_TENANT (w : Nat) : Fld := ⟨0x300200 + 0x20 * w, 8, 4⟩
def F.TEN_P2P_OFFSET (w : Nat) : Fld := ⟨0x300204 + 0x20 * w, 0, 32⟩
def F.TEN_P2P_SIZE (w : Nat) : Fld := ⟨0x300208 + 0x20 * w, 0, 32⟩
def F.TEN_P2P_PADDR (w j : Nat) : Fld := ⟨0x30020C + 0x20 * w + 0x4 * j, 0, 32⟩
def F.TEN_APIN_VALID (i : Nat) : Fld := ⟨0x301000 + 0x20 * i, 0, 1⟩
def F.TEN_APIN_KIND (i : Nat) : Fld := ⟨0x301000 + 0x20 * i, 1, 1⟩
def F.TEN_APIN_R (i : Nat) : Fld := ⟨0x301000 + 0x20 * i, 2, 1⟩
def F.TEN_APIN_W (i : Nat) : Fld := ⟨0x301000 + 0x20 * i, 3, 1⟩
def F.TEN_APIN_LINK (i : Nat) : Fld := ⟨0x301000 + 0x20 * i, 4, 3⟩
def F.TEN_APIN_TENANT (i : Nat) : Fld := ⟨0x301000 + 0x20 * i, 8, 4⟩
def F.TEN_APIN_PBASE (i j : Nat) : Fld := ⟨0x301004 + 0x20 * i + 0x4 * j, 0, 32⟩
def F.TEN_APIN_SIZE (i : Nat) : Fld := ⟨0x30100C + 0x20 * i, 0, 32⟩
def F.TEN_APIN_TARGET (i j : Nat) : Fld := ⟨0x301010 + 0x20 * i + 0x4 * j, 0, 32⟩
def F.TEN_APIN_WIN (i : Nat) : Fld := ⟨0x301018 + 0x20 * i, 0, 16⟩
def F.TEN_APIN_GEN (i : Nat) : Fld := ⟨0x301018 + 0x20 * i, 16, 16⟩
def F.TEN_APDENY_INFO_LINK : Fld := ⟨0x302000, 0, 2⟩
def F.TEN_APDENY_INFO_APERTURE : Fld := ⟨0x302000, 2, 6⟩
def F.TEN_APDENY_INFO_CAUSE : Fld := ⟨0x302000, 8, 4⟩
def F.TEN_APDENY_APDENY : Fld := ⟨0x302080, 0, 1⟩
def F.TEN_APDENY_APDENY_CNT : Fld := ⟨0x302080, 8, 8⟩
def F.TEN_POISON_POISON : Fld := ⟨0x302084, 0, 1⟩
def F.TEN_POISON_POISON_CNT : Fld := ⟨0x302084, 8, 8⟩
def F.TEN_IDEDROP_IDEDROP : Fld := ⟨0x302088, 0, 1⟩
def F.TEN_IDEDROP_IDEDROP_CNT : Fld := ⟨0x302088, 8, 8⟩
def F.TEN_CFG_CFG : Fld := ⟨0x30208C, 0, 1⟩
def F.TEN_CFG_CFG_CNT : Fld := ⟨0x30208C, 8, 8⟩
def F.BRD_REG (f r j : Nat) : Fld := ⟨0x340000 + 0x1000 * f + 0x10 * r + 0x4 * j, 0, 32⟩
def F.BRD_SYNC : Fld := ⟨0x343000, 0, 1⟩
def F.BRD_DENY_INFO_IID : Fld := ⟨0x343004, 0, 12⟩
def F.BRD_DENY_INFO_FIREWALL : Fld := ⟨0x343004, 12, 2⟩
def F.BRD_DENY_INFO_UNIT : Fld := ⟨0x343008, 0, 32⟩
def F.BRD_MULTI_MULTI (f : Nat) : Fld := ⟨0x343080 + 0x4 * f, 0, 1⟩
def F.BRD_MULTI_MULTI_CNT (f : Nat) : Fld := ⟨0x343080 + 0x4 * f, 8, 8⟩
def F.BRD_DENY_DENY : Fld := ⟨0x343090, 0, 1⟩
def F.BRD_DENY_DENY_CNT : Fld := ⟨0x343090, 8, 8⟩
def F.BRD_CFG_CFG : Fld := ⟨0x343094, 0, 1⟩
def F.BRD_CFG_CFG_CNT : Fld := ⟨0x343094, 8, 8⟩
def F.TP_HWIN_VALID (t k : Nat) : Fld := ⟨0x1090000 + 0x100000 * t + 0x20 * k, 0, 1⟩
def F.TP_HWIN_R (t k : Nat) : Fld := ⟨0x1090000 + 0x100000 * t + 0x20 * k, 1, 1⟩
def F.TP_HWIN_W (t k : Nat) : Fld := ⟨0x1090000 + 0x100000 * t + 0x20 * k, 2, 1⟩
def F.TP_HWIN_NS (t k : Nat) : Fld := ⟨0x1090000 + 0x100000 * t + 0x20 * k, 3, 1⟩
def F.TP_HWIN_OFFSET (t k : Nat) : Fld := ⟨0x1090004 + 0x100000 * t + 0x20 * k, 0, 32⟩
def F.TP_HWIN_SIZE (t k : Nat) : Fld := ⟨0x1090008 + 0x100000 * t + 0x20 * k, 0, 32⟩
def F.TP_HWIN_PADDR (t k j : Nat) : Fld := ⟨0x109000C + 0x100000 * t + 0x20 * k + 0x4 * j, 0, 32⟩
def F.TP_CTX_BUSY (t : Nat) : Fld := ⟨0x1090400 + 0x100000 * t, 0, 1⟩
def F.TP_DESC_QUOTA (t : Nat) : Fld := ⟨0x1090404 + 0x100000 * t, 0, 17⟩
def F.LPE_CTRL_SAFE_EN : Fld := ⟨0x380000, 0, 1⟩
def F.LPE_CTRL_RESTART_AUTO : Fld := ⟨0x380000, 1, 1⟩
def F.LPE_CTRL_LP_EN : Fld := ⟨0x380000, 2, 1⟩
def F.LPE_CTRL_LP_AUTH : Fld := ⟨0x380000, 3, 1⟩
def F.LPE_CTRL_LP_MODE : Fld := ⟨0x380000, 4, 1⟩
def F.LPE_STATUS_STATE : Fld := ⟨0x380004, 0, 3⟩
def F.LPE_STATUS_ARMED : Fld := ⟨0x380004, 3, 1⟩
def F.LPE_STATUS_SAFE_READY : Fld := ⟨0x380004, 4, 1⟩
def F.LPE_STATUS_FAULT_N : Fld := ⟨0x380004, 5, 1⟩
def F.LPE_STATUS_LATCH : Fld := ⟨0x380004, 6, 1⟩
def F.LPE_STATUS_PATTERN : Fld := ⟨0x380004, 8, 4⟩
def F.LPE_CFG_CRC : Fld := ⟨0x380008, 0, 32⟩
def F.LPE_FAULT_CLR : Fld := ⟨0x38000C, 0, 1⟩
def F.LPE_ALARM_ACTIVE : Fld := ⟨0x380010, 0, 15⟩
def F.LPE_ALARM_CLR : Fld := ⟨0x380014, 2, 13⟩
def F.LPE_HWPAT : Fld := ⟨0x380018, 0, 4⟩
def F.LPE_RESET : Fld := ⟨0x38001C, 0, 32⟩
def F.LPE_LP_PERIOD_MS : Fld := ⟨0x380020, 0, 16⟩
def F.LPE_LP_DMAC_LO : Fld := ⟨0x380024, 0, 32⟩
def F.LPE_LP_DMAC_HI : Fld := ⟨0x380028, 0, 16⟩
def F.LPE_LP_KEY (k : Nat) : Fld := ⟨0x380040 + 0x4 * k, 0, 32⟩
def F.LPE_ELOG_BASE_LO : Fld := ⟨0x380080, 0, 32⟩
def F.LPE_ELOG_BASE_HI : Fld := ⟨0x380084, 0, 32⟩
def F.LPE_ELOG_SIZE : Fld := ⟨0x380088, 0, 5⟩
def F.LPE_ELOG_WIN_ID : Fld := ⟨0x38008C, 0, 16⟩
def F.LPE_ELOG_WIN_GEN : Fld := ⟨0x38008C, 16, 16⟩
def F.LPE_ELOG_TAIL : Fld := ⟨0x380090, 0, 32⟩
def F.LPE_ELOG_HEAD : Fld := ⟨0x380094, 0, 32⟩
def F.LPE_WAGE_AGE (w : Nat) : Fld := ⟨0x380200 + 0x4 * w, 0, 31⟩
def F.LPE_WAGE_EXPIRED (w : Nat) : Fld := ⟨0x380200 + 0x4 * w, 31, 1⟩
def F.LPE_SUMCNT : Fld := ⟨0x380600, 0, 32⟩
def F.LPE_FAIL_FAIL : Fld := ⟨0x380700, 0, 1⟩
def F.LPE_FAIL_FAIL_CNT : Fld := ⟨0x380700, 8, 8⟩
def F.LPE_AGE_AGE : Fld := ⟨0x380704, 0, 1⟩
def F.LPE_AGE_AGE_CNT : Fld := ⟨0x380704, 8, 8⟩
def F.LPE_MIRR_MIRR : Fld := ⟨0x380708, 0, 1⟩
def F.LPE_MIRR_MIRR_CNT : Fld := ⟨0x380708, 8, 8⟩
def F.LPE_SUMLOST_SUMLOST : Fld := ⟨0x38070C, 0, 1⟩
def F.LPE_SUMLOST_SUMLOST_CNT : Fld := ⟨0x38070C, 8, 8⟩
def F.LPE_NOCHAN_NOCHAN : Fld := ⟨0x380710, 0, 1⟩
def F.LPE_NOCHAN_NOCHAN_CNT : Fld := ⟨0x380710, 8, 8⟩
def F.LPE_SELF_SELF : Fld := ⟨0x380714, 0, 1⟩
def F.LPE_SELF_SELF_CNT : Fld := ⟨0x380714, 8, 8⟩
def F.LPE_TRIPLOST_TRIPLOST : Fld := ⟨0x380718, 0, 1⟩
def F.LPE_TRIPLOST_TRIPLOST_CNT : Fld := ⟨0x380718, 8, 8⟩
def F.LPE_ELOGDROP_ELOGDROP : Fld := ⟨0x38071C, 0, 1⟩
def F.LPE_ELOGDROP_ELOGDROP_CNT : Fld := ⟨0x38071C, 8, 8⟩
def F.LPE_CFG_CFG : Fld := ⟨0x380720, 0, 1⟩
def F.LPE_CFG_CFG_CNT : Fld := ⟨0x380720, 8, 8⟩
def F.SEC_LC_STATE : Fld := ⟨0x3C0000, 0, 2⟩
def F.SEC_CTRL_CRED_REQ : Fld := ⟨0x3C0004, 0, 1⟩
def F.SEC_DBG_LEVEL : Fld := ⟨0x3C0008, 0, 2⟩
def F.SEC_DBG_ATTACHED : Fld := ⟨0x3C0008, 2, 1⟩
def F.SEC_DBG_DBG_PWR_OVERRIDE : Fld := ⟨0x3C0008, 3, 1⟩
def F.SEC_DBG_CHAL (j : Nat) : Fld := ⟨0x3C0020 + 0x4 * j, 0, 32⟩
def F.SEC_MC (k j : Nat) : Fld := ⟨0x3C0040 + 0x8 * k + 0x4 * j, 0, 32⟩
def F.SEC_KMB_BUF (j : Nat) : Fld := ⟨0x3C0080 + 0x4 * j, 0, 32⟩
def F.SEC_KMB_WIN_ID : Fld := ⟨0x3C0088, 0, 16⟩
def F.SEC_KMB_WIN_GEN : Fld := ⟨0x3C0088, 16, 16⟩
def F.SEC_KMB_CMD_CMD : Fld := ⟨0x3C008C, 0, 4⟩
def F.SEC_KMB_CMD_SLOT : Fld := ⟨0x3C008C, 8, 5⟩
def F.SEC_KMB_CMD_ARG : Fld := ⟨0x3C008C, 16, 16⟩
def F.SEC_KMB_STATUS_BUSY : Fld := ⟨0x3C0090, 0, 1⟩
def F.SEC_KMB_STATUS_CODE : Fld := ⟨0x3C0090, 8, 8⟩
def F.SEC_CRED_END (t : Nat) : Fld := ⟨0x3C00A0 + 0x4 * t, 0, 32⟩
def F.SEC_VAULT_VAULT : Fld := ⟨0x3C0100, 0, 1⟩
def F.SEC_VAULT_VAULT_CNT : Fld := ⟨0x3C0100, 8, 8⟩
def F.SEC_CREDEXP_CREDEXP : Fld := ⟨0x3C0104, 0, 1⟩
def F.SEC_CREDEXP_CREDEXP_CNT : Fld := ⟨0x3C0104, 8, 8⟩
def F.SEC_DBGREF_DBGREF : Fld := ⟨0x3C0108, 0, 1⟩
def F.SEC_DBGREF_DBGREF_CNT : Fld := ⟨0x3C0108, 8, 8⟩
def F.SEC_CFG_CFG : Fld := ⟨0x3C010C, 0, 1⟩
def F.SEC_CFG_CFG_CNT : Fld := ⟨0x3C010C, 8, 8⟩
def F.TRC_CTRL_EN : Fld := ⟨0x480000, 0, 1⟩
def F.TRC_CTRL_MODE : Fld := ⟨0x480000, 1, 1⟩
def F.TRC_TYPEMASK : Fld := ⟨0x480004, 1, 12⟩
def F.TRC_TENMASK : Fld := ⟨0x480008, 0, 16⟩
def F.TRC_WPTR : Fld := ⟨0x480010, 0, 32⟩
def F.TRC_RPTR : Fld := ⟨0x480014, 0, 32⟩
def F.TRC_LOST : Fld := ⟨0x480018, 0, 32⟩
def F.TRC_WRAPS : Fld := ⟨0x48001C, 0, 32⟩
def F.TRC_RD_PAGE : Fld := ⟨0x480020, 0, 10⟩
def F.TRC_USER (j : Nat) : Fld := ⟨0x480030 + 0x4 * j, 0, 32⟩
def F.TRC_OVF_OVF : Fld := ⟨0x480080, 0, 1⟩
def F.TRC_OVF_OVF_CNT : Fld := ⟨0x480080, 8, 8⟩
def F.TRC_CFG_CFG : Fld := ⟨0x480084, 0, 1⟩
def F.TRC_CFG_CFG_CNT : Fld := ⟨0x480084, 8, 8⟩
def F.TRC_WINDOW (j : Nat) : Fld := ⟨0x481000 + 0x4 * j, 0, 32⟩
def F.PWR_CTRL_AUTO_HOLD : Fld := ⟨0x400000, 0, 1⟩
def F.PWR_STATUS_STATE : Fld := ⟨0x400004, 0, 3⟩
def F.PWR_STATUS_LIMIT_SRC : Fld := ⟨0x400004, 4, 3⟩
def F.PWR_STATUS_STEP : Fld := ⟨0x400004, 8, 3⟩
def F.PWR_STATUS_ECLK_MHZ : Fld := ⟨0x400004, 16, 11⟩
def F.PWR_MEAS : Fld := ⟨0x400008, 0, 16⟩
def F.PWR_LIMIT : Fld := ⟨0x40000C, 0, 16⟩
def F.PWR_FLOOR : Fld := ⟨0x400010, 0, 16⟩
def F.PWR_LOCAL_CAP : Fld := ⟨0x400014, 0, 16⟩
def F.PWR_MARGIN : Fld := ⟨0x400018, 0, 8⟩
def F.PWR_LEASE_TOKENS : Fld := ⟨0x40001C, 0, 16⟩
def F.PWR_THROT_FIT_F : Fld := ⟨0x400020, 0, 7⟩
def F.PWR_THROT_UNT_DUTY : Fld := ⟨0x400020, 8, 7⟩
def F.PWR_THROT_TCK_DUTY : Fld := ⟨0x400020, 16, 7⟩
def F.PWR_TJ_NOW : Fld := ⟨0x400024, 0, 8⟩
def F.PWR_TJ_PEAK : Fld := ⟨0x400024, 8, 8⟩
def F.PWR_THERM_THROTTLE : Fld := ⟨0x400028, 0, 8⟩
def F.PWR_THERM_RESUME : Fld := ⟨0x400028, 8, 8⟩
def F.PWR_ENTRY_DRAIN_US : Fld := ⟨0x400030, 0, 16⟩
def F.PWR_HOLD_IDLE_US : Fld := ⟨0x400034, 0, 8⟩
def F.PWR_HOLD_LEAD : Fld := ⟨0x400034, 8, 8⟩
def F.PWR_WAKE_AT_LO : Fld := ⟨0x400038, 0, 32⟩
def F.PWR_WAKE_AT_HI : Fld := ⟨0x40003C, 0, 32⟩
def F.PWR_WAKE_EN : Fld := ⟨0x400040, 0, 3⟩
def F.PWR_WAKE_CAUSE : Fld := ⟨0x400044, 0, 4⟩
def F.PWR_RACK_POOL : Fld := ⟨0x400080, 0, 20⟩
def F.PWR_RACK_MEMBERS_LO : Fld := ⟨0x400088, 0, 32⟩
def F.PWR_RACK_MEMBERS_HI : Fld := ⟨0x40008C, 0, 32⟩
def F.PWR_RACK_GRANTED : Fld := ⟨0x400090, 0, 20⟩
def F.PWR_CAPLOW_CAPLOW : Fld := ⟨0x400100, 0, 1⟩
def F.PWR_CAPLOW_CAPLOW_CNT : Fld := ⟨0x400100, 8, 8⟩
def F.PWR_HOT_HOT : Fld := ⟨0x400104, 0, 1⟩
def F.PWR_HOT_HOT_CNT : Fld := ⟨0x400104, 8, 8⟩
def F.PWR_TRIP_TRIP : Fld := ⟨0x400108, 0, 1⟩
def F.PWR_TRIP_TRIP_CNT : Fld := ⟨0x400108, 8, 8⟩
def F.PWR_ABANDON_ABANDON : Fld := ⟨0x40010C, 0, 1⟩
def F.PWR_ABANDON_ABANDON_CNT : Fld := ⟨0x40010C, 8, 8⟩
def F.PWR_OVERCOMMIT_OVERCOMMIT : Fld := ⟨0x400110, 0, 1⟩
def F.PWR_OVERCOMMIT_OVERCOMMIT_CNT : Fld := ⟨0x400110, 8, 8⟩
def F.PWR_UNLISTED_UNLISTED : Fld := ⟨0x400114, 0, 1⟩
def F.PWR_UNLISTED_UNLISTED_CNT : Fld := ⟨0x400114, 8, 8⟩
def F.PWR_CFG_CFG : Fld := ⟨0x400118, 0, 1⟩
def F.PWR_CFG_CFG_CNT : Fld := ⟨0x400118, 8, 8⟩
def F.FW_STATUS_BOOT_SLOT : Fld := ⟨0x40000, 0, 2⟩
def F.FW_STATUS_LF_SLOT : Fld := ⟨0x40000, 2, 2⟩
def F.FW_STATUS_PAIRING : Fld := ⟨0x40000, 4, 3⟩
def F.FW_STATUS_TRIAL : Fld := ⟨0x40000, 7, 1⟩
def F.FW_STATUS_CMD_READY : Fld := ⟨0x40000, 11, 1⟩
def F.FW_STATUS_BOOT_KIND : Fld := ⟨0x40000, 8, 3⟩
def F.FW_STATUS_LAST_CAUSE : Fld := ⟨0x40000, 12, 4⟩
def F.FW_CF_VERSION : Fld := ⟨0x40004, 0, 32⟩
def F.FW_LF_VERSION : Fld := ⟨0x40008, 0, 32⟩
def F.FW_SLOT_STATE (s : Nat) : Fld := ⟨0x40010 + 0x10 * s, 0, 3⟩
def F.FW_SLOT_PREF (s : Nat) : Fld := ⟨0x40010 + 0x10 * s, 4, 1⟩
def F.FW_SLOT_CF_VERSION (s : Nat) : Fld := ⟨0x40014 + 0x10 * s, 0, 32⟩
def F.FW_SLOT_LF_VERSION (s : Nat) : Fld := ⟨0x40018 + 0x10 * s, 0, 32⟩
def F.FW_CTRL_CONFIRM : Fld := ⟨0x40034, 0, 1⟩
def F.FW_CTRL_REBOOT : Fld := ⟨0x40034, 1, 1⟩
def F.FW_CONFIRM_AUTO_S : Fld := ⟨0x40038, 0, 17⟩
def F.FW_RESTART : Fld := ⟨0x4003C, 0, 32⟩
def F.FW_RLIM_COUNT : Fld := ⟨0x40040, 0, 4⟩
def F.FW_RLIM_WINDOW_S : Fld := ⟨0x40040, 16, 16⟩
def F.FW_WDOG_PERIOD_US : Fld := ⟨0x40044, 0, 17⟩
def F.FW_RESTARTS : Fld := ⟨0x40048, 0, 32⟩
def F.FW_BOOT_MS : Fld := ⟨0x4004C, 0, 16⟩
def F.FW_SESSION_OPEN : Fld := ⟨0x40050, 0, 1⟩
def F.FW_SESSION_SLOT : Fld := ⟨0x40050, 1, 1⟩
def F.FW_SESSION_KIND : Fld := ⟨0x40050, 2, 1⟩
def F.FW_SESSION_BYTES : Fld := ⟨0x40054, 0, 32⟩
def F.FW_EXC_CAUSE (c : Nat) : Fld := ⟨0x40080 + 0x20 * c, 0, 8⟩
def F.FW_EXC_PC_LO (c : Nat) : Fld := ⟨0x40084 + 0x20 * c, 0, 32⟩
def F.FW_EXC_PC_HI (c : Nat) : Fld := ⟨0x40088 + 0x20 * c, 0, 32⟩
def F.FW_EXC_SP (c : Nat) : Fld := ⟨0x4008C + 0x20 * c, 0, 32⟩
def F.FW_EXC_TIME_LO (c : Nat) : Fld := ⟨0x40090 + 0x20 * c, 0, 32⟩
def F.FW_EXC_TIME_HI (c : Nat) : Fld := ⟨0x40094 + 0x20 * c, 0, 32⟩
def F.FW_STK_BASE (c : Nat) : Fld := ⟨0x40100 + 0x8 * c, 0, 32⟩
def F.FW_STK_LIMIT (c : Nat) : Fld := ⟨0x40104 + 0x8 * c, 0, 32⟩
def F.FW_FALLBACK_FALLBACK : Fld := ⟨0x40180, 0, 1⟩
def F.FW_FALLBACK_FALLBACK_CNT : Fld := ⟨0x40180, 8, 8⟩
def F.FW_TRIALFAIL_TRIALFAIL : Fld := ⟨0x40184, 0, 1⟩
def F.FW_TRIALFAIL_TRIALFAIL_CNT : Fld := ⟨0x40184, 8, 8⟩
def F.FW_CFAULT_CFAULT : Fld := ⟨0x40188, 0, 1⟩
def F.FW_CFAULT_CFAULT_CNT : Fld := ⟨0x40188, 8, 8⟩
def F.FW_CFG_CFG : Fld := ⟨0x4018C, 0, 1⟩
def F.FW_CFG_CFG_CNT : Fld := ⟨0x4018C, 8, 8⟩
def F.FW_PAIR_MINOR (k : Nat) : Fld := ⟨0x40200 + 0x4 * k, 0, 8⟩
def F.FW_PAIR_MAJOR (k : Nat) : Fld := ⟨0x40200 + 0x4 * k, 8, 8⟩
def F.FW_PAIR_VALID (k : Nat) : Fld := ⟨0x40200 + 0x4 * k, 31, 1⟩
def F.CAL_STATUS_BUSY : Fld := ⟨0x440000, 0, 1⟩
def F.CAL_STATUS_NOFIT : Fld := ⟨0x440000, 1, 1⟩
def F.CAL_STATUS_USER : Fld := ⟨0x440000, 8, 6⟩
def F.CAL_STATUS_RUN : Fld := ⟨0x440000, 16, 6⟩
def F.CAL_LAST_SCOPE : Fld := ⟨0x440004, 0, 6⟩
def F.CAL_LAST_SKIPPED : Fld := ⟨0x440004, 8, 6⟩
def F.CAL_LAST_FAILED : Fld := ⟨0x440004, 16, 6⟩
def F.CAL_USER_SEQ : Fld := ⟨0x440008, 0, 32⟩
def F.CAL_FAIL_FAIL : Fld := ⟨0x440080, 0, 1⟩
def F.CAL_FAIL_FAIL_CNT : Fld := ⟨0x440080, 8, 8⟩
def F.CAL_USERBAD_USERBAD : Fld := ⟨0x440084, 0, 1⟩
def F.CAL_USERBAD_USERBAD_CNT : Fld := ⟨0x440084, 8, 8⟩
def F.CAL_FACTBAD_FACTBAD : Fld := ⟨0x440088, 0, 1⟩
def F.CAL_FACTBAD_FACTBAD_CNT : Fld := ⟨0x440088, 8, 8⟩
def F.CAL_CFG_CFG : Fld := ⟨0x44008C, 0, 1⟩
def F.CAL_CFG_CFG_CNT : Fld := ⟨0x44008C, 8, 8⟩
def F.GLB_ID_STEPPING : Fld := ⟨0x0, 0, 8⟩
def F.GLB_ID_VARIANT : Fld := ⟨0x0, 8, 8⟩
def F.GLB_ID_PART : Fld := ⟨0x0, 16, 16⟩
def F.GLB_ERR_ACCESS : Fld := ⟨0x10, 0, 1⟩
def F.GLB_ERR_ACCESS_CNT : Fld := ⟨0x10, 8, 8⟩
def F.GLB_ERR_LOCKED : Fld := ⟨0x10, 16, 1⟩
def F.GLB_ERR_LOCKED_CNT : Fld := ⟨0x10, 24, 8⟩
def F.GLB_IRQ_EN : Fld := ⟨0x20, 0, 11⟩
def F.GLB_FLOG_HEAD : Fld := ⟨0x40, 0, 32⟩
def F.GLB_FLOG_TAIL : Fld := ⟨0x44, 0, 32⟩
def F.GLB_FLOG_SEL : Fld := ⟨0x48, 0, 32⟩
def F.GLB_FLOG_DATA (j : Nat) : Fld := ⟨0x80 + 0x4 * j, 0, 32⟩
def F.GLB_FLOGOVF_FLOGOVF : Fld := ⟨0xC0, 0, 1⟩
def F.GLB_FLOGOVF_FLOGOVF_CNT : Fld := ⟨0xC0, 8, 8⟩
def F.GLB_LW (j : Nat) : Fld := ⟨0x100 + 0x4 * j, 0, 32⟩

/-! The tables, block by block. -/

/-- Register fields of block CAD, part 0. -/
def rowsCAD0 : List RegRow :=
  [ ⟨0x240000, [], 0, 1, .rw, 0x0, 0, none⟩,
    ⟨0x240000, [], 1, 1, .w1s, 0x0, 0, none⟩,
    ⟨0x240000, [], 2, 1, .wo, 0x0, 0, none⟩,
    ⟨0x240000, [], 3, 1, .wo, 0x0, 0, none⟩,
    ⟨0x240000, [], 4, 1, .rw, 0x0, 0, none⟩,
    ⟨0x240000, [], 5, 2, .rw, 0x0, 0, none⟩,
    ⟨0x240000, [], 7, 2, .rw, 0x0, 0, none⟩,
    ⟨0x240000, [], 9, 1, .rw, 0x0, 0, none⟩,
    ⟨0x240000, [], 10, 1, .rw, 0x0, 0, none⟩,
    ⟨0x240004, [], 0, 3, .ro, 0x0, 0, none⟩,
    ⟨0x240004, [], 3, 1, .ro, 0x0, 0, none⟩,
    ⟨0x240004, [], 4, 1, .ro, 0x0, 0, none⟩,
    ⟨0x240004, [], 5, 1, .ro, 0x0, 0, none⟩,
    ⟨0x240004, [], 6, 1, .ro, 0x0, 0, none⟩,
    ⟨0x240004, [], 7, 1, .ro, 0x0, 0, none⟩,
    ⟨0x240004, [], 8, 6, .ro, 0x3F, 0, none⟩,
    ⟨0x240008, [], 0, 32, .ro, 0x0, 0, none⟩,
    ⟨0x24000C, [], 0, 32, .ro, 0x0, 0, none⟩,
    ⟨0x240010, [], 0, 32, .rw, 0x0, 0, none⟩,
    ⟨0x240014, [], 0, 32, .rw, 0x0, 0, none⟩,
    ⟨0x240018, [], 0, 32, .rw, 0x0, 0, none⟩,
    ⟨0x24001C, [], 0, 32, .rw, 0x0, 0, none⟩,
    ⟨0x240020, [], 0, 30, .rw, 0x989680, 0, none⟩,
    ⟨0x240024, [], 0, 30, .rw, 0x989680, 0, none⟩ ]

/-- Register fields of block CAD, part 1. -/
def rowsCAD1 : List RegRow :=
  [ ⟨0x240028, [], 0, 32, .ro, 0x0, 0, none⟩,
    ⟨0x24002C, [], 0, 16, .ro, 0x0, 0, none⟩,
    ⟨0x240030, [], 0, 32, .rw, 0x0, 0, none⟩,
    ⟨0x240034, [], 0, 16, .rw, 0x0, 0, none⟩,
    ⟨0x240038, [], 0, 7, .rw, 0x30, 0, some (0, 64)⟩,
    ⟨0x240038, [], 8, 7, .rw, 0x10, 0, some (0, 64)⟩,
    ⟨0x240038, [], 16, 5, .rw, 0x4, 0, some (1, 16)⟩,
    ⟨0x240038, [], 24, 8, .rw, 0x2, 0, none⟩,
    ⟨0x24003C, [], 0, 8, .rw, 0x2, 0, none⟩,
    ⟨0x240040, [], 0, 16, .rw, 0x7D, 0, none⟩,
    ⟨0x240040, [], 16, 8, .rw, 0x0, 0, none⟩,
    ⟨0x240040, [], 24, 1, .rw, 0x0, 0, none⟩,
    ⟨0x240040, [], 25, 1, .rw, 0x0, 0, none⟩,
    ⟨0x240044, [], 0, 20, .rw, 0x186A0, 0, none⟩,
    ⟨0x240044, [], 20, 1, .rw, 0x0, 0, none⟩,
    ⟨0x240048, [], 0, 10, .rw, 0x64, 0, some (1, 1000)⟩,
    ⟨0x24004C, [], 0, 32, .rw, 0x2710, 0, none⟩,
    ⟨0x240050, [], 0, 8, .rw, 0x80, 0, none⟩,
    ⟨0x240058, [], 0, 32, .ro, 0x0, 0, none⟩,
    ⟨0x24005C, [], 0, 32, .ro, 0x0, 0, none⟩,
    ⟨0x240060, [], 0, 32, .ro, 0x0, 0, none⟩,
    ⟨0x240064, [], 0, 16, .ro, 0x0, 0, none⟩,
    ⟨0x240064, [], 16, 1, .rw, 0x0, 0, none⟩,
    ⟨0x240068, [], 0, 32, .ro, 0x0, 0, none⟩ ]

/-- Register fields of block CAD, part 2. -/
def rowsCAD2 : List RegRow :=
  [ ⟨0x24006C, [], 0, 8, .rwl, 0x4, 0, none⟩,
    ⟨0x240070, [], 0, 32, .ro, 0x0, 0, none⟩,
    ⟨0x240080, [], 0, 1, .w1c, 0x0, 0, none⟩,
    ⟨0x240080, [], 8, 8, .ro, 0x0, 0, none⟩,
    ⟨0x240084, [], 0, 1, .w1c, 0x0, 0, none⟩,
    ⟨0x240084, [], 8, 8, .ro, 0x0, 0, none⟩,
    ⟨0x240088, [], 0, 1, .w1c, 0x0, 0, none⟩,
    ⟨0x240088, [], 8, 8, .ro, 0x0, 0, none⟩,
    ⟨0x24008C, [], 0, 1, .w1c, 0x0, 0, none⟩,
    ⟨0x24008C, [], 8, 8, .ro, 0x0, 0, none⟩,
    ⟨0x240090, [], 0, 1, .w1c, 0x0, 0, none⟩,
    ⟨0x240090, [], 8, 8, .ro, 0x0, 0, none⟩,
    ⟨0x240094, [], 0, 1, .w1c, 0x0, 0, none⟩,
    ⟨0x240094, [], 8, 8, .ro, 0x0, 0, none⟩,
    ⟨0x2400C0, [(16, 0x4)], 0, 7, .rw, 0x40, 0, some (0, 64)⟩ ]

/-- Register fields of block CAD. -/
def rowsCAD : List RegRow := rowsCAD0 ++ rowsCAD1 ++ rowsCAD2

/-- Register fields of block MEM, part 0. -/
def rowsMEM0 : List RegRow :=
  [ ⟨0xC0000, [], 0, 1, .rw, 0x1, 0, none⟩,
    ⟨0xC0000, [], 1, 1, .rw, 0x1, 0, none⟩,
    ⟨0xC0004, [], 0, 8, .rw, 0x18, 0, some (1, 168)⟩,
    ⟨0xC0004, [], 8, 8, .rw, 0x18, 0, some (1, 168)⟩,
    ⟨0xC0008, [], 0, 26, .ro, 0x0, 0, none⟩,
    ⟨0xC000C, [], 0, 30, .ro, 0x0, 0, none⟩,
    ⟨0xC0010, [], 0, 3, .rw, 0x2, 0, some (0, 4)⟩,
    ⟨0xC0014, [], 0, 32, .rc, 0x0, 0, none⟩,
    ⟨0xC0018, [], 0, 32, .rc, 0x0, 0, none⟩,
    ⟨0xC001C, [], 0, 1, .ro, 0x0, 0, none⟩,
    ⟨0xC001C, [], 1, 1, .ro, 0x0, 0, none⟩,
    ⟨0xC0020, [], 0, 4, .rw, 0x2, 0, some (2, 15)⟩,
    ⟨0xC0030, [(4, 0x8)], 0, 26, .rw, 0x0, 0, none⟩,
    ⟨0xC0030, [(4, 0x8)], 31, 1, .rw, 0x0, 0, none⟩,
    ⟨0xC0034, [(4, 0x8)], 0, 26, .rw, 0x0, 0, none⟩,
    ⟨0xC0050, [], 0, 32, .rc, 0x0, 0, none⟩,
    ⟨0xC0054, [], 0, 32, .rc, 0x0, 0, none⟩,
    ⟨0xC0058, [], 0, 32, .ro, 0x0, 0, none⟩,
    ⟨0xC005C, [], 0, 32, .ro, 0x0, 0, none⟩,
    ⟨0xC0060, [], 0, 12, .ro, 0x0, 0, none⟩,
    ⟨0xC0060, [], 16, 1, .ro, 0x0, 0, none⟩,
    ⟨0xC0080, [], 0, 1, .w1c, 0x0, 0, none⟩,
    ⟨0xC0080, [], 8, 8, .ro, 0x0, 0, none⟩,
    ⟨0xC0084, [], 0, 1, .w1c, 0x0, 0, none⟩ ]

/-- Register fields of block MEM, part 1. -/
def rowsMEM1 : List RegRow :=
  [ ⟨0xC0084, [], 8, 8, .ro, 0x0, 0, none⟩,
    ⟨0xC0088, [], 0, 1, .w1c, 0x0, 0, none⟩,
    ⟨0xC0088, [], 8, 8, .ro, 0x0, 0, none⟩,
    ⟨0xC008C, [], 0, 1, .w1c, 0x0, 0, none⟩,
    ⟨0xC008C, [], 8, 8, .ro, 0x0, 0, none⟩,
    ⟨0xC0090, [], 0, 1, .w1c, 0x0, 0, none⟩,
    ⟨0xC0090, [], 8, 8, .ro, 0x0, 0, none⟩,
    ⟨0xC0094, [], 0, 1, .w1c, 0x0, 0, none⟩,
    ⟨0xC0094, [], 8, 8, .ro, 0x0, 0, none⟩,
    ⟨0xC0100, [(16, 0x10), (4, 0x4)], 0, 4, .rw, 0x0, 0, none⟩,
    ⟨0xC0100, [(16, 0x10), (4, 0x4)], 8, 3, .rw, 0x0, 0, none⟩,
    ⟨0xC0100, [(16, 0x10), (4, 0x4)], 16, 5, .rw, 0x0, 0, none⟩,
    ⟨0xC0100, [(16, 0x10), (4, 0x4)], 31, 1, .rw, 0x0, 0, none⟩ ]

/-- Register fields of block MEM. -/
def rowsMEM : List RegRow := rowsMEM0 ++ rowsMEM1

/-- Register fields of block PRI, part 0. -/
def rowsPRI0 : List RegRow :=
  [ ⟨0x100000, [(16, 0x4)], 0, 9, .rw, 0x0, 16, none⟩,
    ⟨0x100000, [(16, 0x4)], 16, 9, .rw, 0x10, 0, some (0, 256)⟩,
    ⟨0x100040, [(16, 0x8)], 0, 32, .rc, 0x0, 0, none⟩,
    ⟨0x100044, [(16, 0x8)], 0, 32, .rc, 0x0, 0, none⟩,
    ⟨0x1000C0, [(16, 0x4)], 0, 13, .ro, 0x0, 0, none⟩,
    ⟨0x100100, [], 0, 16, .wo, 0x0, 0, none⟩,
    ⟨0x100180, [], 0, 1, .w1c, 0x0, 0, none⟩,
    ⟨0x100180, [], 8, 8, .ro, 0x0, 0, none⟩,
    ⟨0x100184, [], 0, 1, .w1c, 0x0, 0, none⟩,
    ⟨0x100184, [], 8, 8, .ro, 0x0, 0, none⟩,
    ⟨0x100188, [], 0, 1, .w1c, 0x0, 0, none⟩,
    ⟨0x100188, [], 8, 8, .ro, 0x0, 0, none⟩ ]

/-- Register fields of block PRI. -/
def rowsPRI : List RegRow := rowsPRI0

/-- Register fields of block PAGE, part 0. -/
def rowsPAGE0 : List RegRow :=
  [ ⟨0x1000000, [(16, 0x100000), (8, 0x80)], 0, 32, .rw, 0x0, 0, none⟩,
    ⟨0x1000004, [(16, 0x100000), (8, 0x80)], 0, 32, .rw, 0x0, 0, none⟩,
    ⟨0x1000008, [(16, 0x100000), (8, 0x80)], 0, 5, .rw, 0x6, 0, some (6, 16)⟩,
    ⟨0x1000008, [(16, 0x100000), (8, 0x80)], 16, 10, .rw, 0x200, 0, some (1, 512)⟩,
    ⟨0x100000C, [(16, 0x100000), (8, 0x80)], 0, 16, .rw, 0xFFFF, 0, none⟩,
    ⟨0x100000C, [(16, 0x100000), (8, 0x80)], 16, 16, .rw, 0x0, 0, none⟩,
    ⟨0x1000010, [(16, 0x100000), (8, 0x80)], 0, 32, .rw, 0x0, 0, none⟩,
    ⟨0x1000014, [(16, 0x100000), (8, 0x80)], 0, 32, .ro, 0x0, 0, none⟩,
    ⟨0x1000018, [(16, 0x100000), (8, 0x80)], 0, 1, .rw, 0x0, 0, none⟩,
    ⟨0x1000018, [(16, 0x100000), (8, 0x80)], 1, 1, .w1s, 0x0, 0, none⟩,
    ⟨0x100001C, [(16, 0x100000), (8, 0x80)], 0, 1, .ro, 0x1, 0, none⟩,
    ⟨0x100001C, [(16, 0x100000), (8, 0x80)], 1, 1, .ro, 0x0, 0, none⟩,
    ⟨0x100001C, [(16, 0x100000), (8, 0x80)], 2, 2, .ro, 0x0, 0, none⟩,
    ⟨0x100001C, [(16, 0x100000), (8, 0x80)], 16, 9, .ro, 0x0, 0, none⟩,
    ⟨0x1000020, [(16, 0x100000), (8, 0x80)], 0, 32, .ro, 0x0, 0, none⟩,
    ⟨0x1001000, [(16, 0x100000), (8, 0x1000)], 0, 32, .rw, 0x0, 0, none⟩,
    ⟨0x1009000, [(16, 0x100000)], 0, 32, .rw, 0x0, 0, none⟩,
    ⟨0x100A000, [(16, 0x100000)], 0, 32, .rw, 0x0, 0, none⟩,
    ⟨0x100A004, [(16, 0x100000)], 0, 32, .rw, 0x0, 0, none⟩,
    ⟨0x100A008, [(16, 0x100000)], 0, 5, .rw, 0x6, 0, some (6, 16)⟩,
    ⟨0x100A00C, [(16, 0x100000)], 0, 16, .rw, 0xFFFF, 0, none⟩,
    ⟨0x100A00C, [(16, 0x100000)], 16, 16, .rw, 0x0, 0, none⟩,
    ⟨0x100A010, [(16, 0x100000)], 0, 32, .ro, 0x0, 0, none⟩,
    ⟨0x100A014, [(16, 0x100000)], 0, 17, .ro, 0x0, 0, none⟩ ]

/-- Register fields of block PAGE, part 1. -/
def rowsPAGE1 : List RegRow :=
  [ ⟨0x100A018, [(16, 0x100000)], 0, 1, .rw, 0x0, 0, none⟩,
    ⟨0x100A018, [(16, 0x100000)], 1, 1, .w1s, 0x0, 0, none⟩,
    ⟨0x100A01C, [(16, 0x100000)], 0, 1, .ro, 0x0, 0, none⟩,
    ⟨0x100B000, [(16, 0x100000)], 0, 8, .rw, 0x1, 0, none⟩,
    ⟨0x100B000, [(16, 0x100000)], 16, 10, .rw, 0x0, 0, none⟩,
    ⟨0x100B004, [(16, 0x100000)], 0, 8, .ro, 0x0, 0, none⟩,
    ⟨0x100B004, [(16, 0x100000)], 8, 8, .ro, 0x0, 0, none⟩,
    ⟨0x100B004, [(16, 0x100000)], 16, 1, .ro, 0x0, 0, none⟩,
    ⟨0x100B010, [(16, 0x100000)], 0, 1, .w1c, 0x0, 0, none⟩,
    ⟨0x100B010, [(16, 0x100000)], 8, 8, .ro, 0x0, 0, none⟩,
    ⟨0x100B014, [(16, 0x100000)], 0, 1, .w1c, 0x0, 0, none⟩,
    ⟨0x100B014, [(16, 0x100000)], 8, 8, .ro, 0x0, 0, none⟩,
    ⟨0x100B018, [(16, 0x100000)], 0, 1, .w1c, 0x0, 0, none⟩,
    ⟨0x100B018, [(16, 0x100000)], 8, 8, .ro, 0x0, 0, none⟩,
    ⟨0x100B01C, [(16, 0x100000)], 0, 1, .w1c, 0x0, 0, none⟩,
    ⟨0x100B01C, [(16, 0x100000)], 8, 8, .ro, 0x0, 0, none⟩,
    ⟨0x100B020, [(16, 0x100000)], 0, 1, .w1c, 0x0, 0, none⟩,
    ⟨0x100B020, [(16, 0x100000)], 8, 8, .ro, 0x0, 0, none⟩,
    ⟨0x100C000, [(16, 0x100000)], 0, 32, .rc, 0x0, 0, none⟩,
    ⟨0x100C004, [(16, 0x100000)], 0, 32, .rc, 0x0, 0, none⟩,
    ⟨0x1010000, [(16, 0x100000), (16384, 0x4)], 0, 32, .rw, 0x0, 0, none⟩,
    ⟨0x1020000, [(16, 0x100000), (16384, 0x4)], 0, 32, .wo, 0x0, 0, none⟩,
    ⟨0x1030000, [(16, 0x100000), (16384, 0x4)], 0, 32, .wo, 0x0, 0, none⟩,
    ⟨0x1040000, [(16, 0x100000), (16384, 0x4)], 0, 8, .ro, 0x0, 0, none⟩ ]

/-- Register fields of block PAGE, part 2. -/
def rowsPAGE2 : List RegRow :=
  [ ⟨0x1040000, [(16, 0x100000), (16384, 0x4)], 8, 8, .ro, 0x0, 0, none⟩,
    ⟨0x1040000, [(16, 0x100000), (16384, 0x4)], 16, 8, .ro, 0x0, 0, none⟩,
    ⟨0x1040000, [(16, 0x100000), (16384, 0x4)], 24, 1, .w1c, 0x0, 0, none⟩,
    ⟨0x1040000, [(16, 0x100000), (16384, 0x4)], 25, 1, .w1c, 0x0, 0, none⟩,
    ⟨0x1040000, [(16, 0x100000), (16384, 0x4)], 26, 1, .w1c, 0x0, 0, none⟩,
    ⟨0x1050000, [(16, 0x100000), (1024, 0x20)], 0, 14, .rw, 0x0, 0, none⟩,
    ⟨0x1050000, [(16, 0x100000), (1024, 0x20)], 31, 1, .rw, 0x0, 0, none⟩,
    ⟨0x1050004, [(16, 0x100000), (1024, 0x20)], 0, 14, .rw, 0x0, 0, none⟩,
    ⟨0x1050004, [(16, 0x100000), (1024, 0x20)], 16, 13, .rw, 0x0, 0, none⟩,
    ⟨0x1050008, [(16, 0x100000), (1024, 0x20)], 0, 32, .rw, 0x0, 0, none⟩,
    ⟨0x105000C, [(16, 0x100000), (1024, 0x20)], 0, 32, .rw, 0x0, 0, none⟩,
    ⟨0x1050010, [(16, 0x100000), (1024, 0x20)], 0, 14, .rw, 0x0, 0, none⟩,
    ⟨0x1050014, [(16, 0x100000), (1024, 0x20)], 0, 1, .ro, 0x0, 0, none⟩,
    ⟨0x1060000, [(16, 0x100000), (256, 0x4)], 0, 1, .ro, 0x0, 0, none⟩,
    ⟨0x1060000, [(16, 0x100000), (256, 0x4)], 1, 1, .ro, 0x0, 0, none⟩,
    ⟨0x1060000, [(16, 0x100000), (256, 0x4)], 4, 3, .ro, 0x0, 0, none⟩,
    ⟨0x1060000, [(16, 0x100000), (256, 0x4)], 8, 6, .ro, 0x0, 0, none⟩,
    ⟨0x1070000, [(16, 0x100000)], 0, 1, .w1c, 0x0, 0, none⟩,
    ⟨0x1070000, [(16, 0x100000)], 8, 8, .ro, 0x0, 0, none⟩,
    ⟨0x1070004, [(16, 0x100000)], 0, 1, .w1c, 0x0, 0, none⟩,
    ⟨0x1070004, [(16, 0x100000)], 8, 8, .ro, 0x0, 0, none⟩,
    ⟨0x1070008, [(16, 0x100000)], 0, 1, .w1c, 0x0, 0, none⟩,
    ⟨0x1070008, [(16, 0x100000)], 8, 8, .ro, 0x0, 0, none⟩,
    ⟨0x1080000, [(16, 0x100000), (16, 0x8)], 0, 32, .wo, 0x0, 0, none⟩ ]

/-- Register fields of block PAGE, part 3. -/
def rowsPAGE3 : List RegRow :=
  [ ⟨0x1080004, [(16, 0x100000), (16, 0x8)], 0, 32, .wo, 0x0, 0, none⟩,
    ⟨0x1080100, [(16, 0x100000), (16, 0x8)], 0, 32, .wo, 0x0, 0, none⟩,
    ⟨0x1080104, [(16, 0x100000), (16, 0x8)], 0, 32, .wo, 0x0, 0, none⟩,
    ⟨0x1080200, [(16, 0x100000), (8, 0x4)], 0, 32, .ro, 0x0, 0, none⟩,
    ⟨0x1080300, [(16, 0x100000)], 0, 12, .ro, 0x0, 0, none⟩,
    ⟨0x1080300, [(16, 0x100000)], 16, 9, .ro, 0x0, 0, none⟩,
    ⟨0x1080300, [(16, 0x100000)], 31, 1, .ro, 0x0, 0, none⟩,
    ⟨0x1090000, [(16, 0x100000), (16, 0x20)], 0, 1, .rw, 0x0, 0, none⟩,
    ⟨0x1090000, [(16, 0x100000), (16, 0x20)], 1, 1, .rw, 0x0, 0, none⟩,
    ⟨0x1090000, [(16, 0x100000), (16, 0x20)], 2, 1, .rw, 0x0, 0, none⟩,
    ⟨0x1090000, [(16, 0x100000), (16, 0x20)], 3, 1, .rw, 0x0, 0, none⟩,
    ⟨0x1090004, [(16, 0x100000), (16, 0x20)], 0, 32, .rw, 0x0, 0, none⟩,
    ⟨0x1090008, [(16, 0x100000), (16, 0x20)], 0, 32, .rw, 0x0, 0, none⟩,
    ⟨0x109000C, [(16, 0x100000), (16, 0x20), (2, 0x4)], 0, 32, .rw, 0x0, 0, none⟩,
    ⟨0x1090400, [(16, 0x100000)], 0, 1, .ro, 0x0, 0, none⟩,
    ⟨0x1090404, [(16, 0x100000)], 0, 17, .ro, 0x1000, 0, none⟩ ]

/-- Register fields of block PAGE. -/
def rowsPAGE : List RegRow := rowsPAGE0 ++ rowsPAGE1 ++ rowsPAGE2 ++ rowsPAGE3

/-- Register fields of block CMQ, part 0. -/
def rowsCMQ0 : List RegRow :=
  [ ⟨0x80000, [], 0, 9, .ro, 0x0, 0, none⟩,
    ⟨0x80004, [], 0, 9, .rc, 0x0, 0, none⟩,
    ⟨0x80008, [], 0, 16, .rw, 0x0, 0, none⟩,
    ⟨0x8000C, [], 0, 16, .ro, 0x0, 0, none⟩,
    ⟨0x80010, [], 0, 16, .ro, 0x0, 0, none⟩,
    ⟨0x80014, [], 0, 1, .w1c, 0x0, 0, none⟩,
    ⟨0x80014, [], 8, 8, .ro, 0x0, 0, none⟩ ]

/-- Register fields of block CMQ. -/
def rowsCMQ : List RegRow := rowsCMQ0

/-- Register fields of block ENG, part 0. -/
def rowsENG0 : List RegRow :=
  [ ⟨0x140000, [], 0, 9, .rw, 0x80, 0, some (0, 256)⟩,
    ⟨0x140004, [], 0, 7, .rw, 0x20, 0, none⟩,
    ⟨0x140004, [], 8, 7, .rw, 0x10, 0, none⟩,
    ⟨0x140004, [], 16, 7, .rw, 0x10, 0, none⟩,
    ⟨0x140008, [], 0, 16, .rw, 0x32, 0, none⟩,
    ⟨0x14000C, [], 0, 24, .rw, 0x2710, 0, none⟩,
    ⟨0x140040, [(32, 0x4)], 0, 1, .rw, 0x0, 0, none⟩,
    ⟨0x140040, [(32, 0x4)], 1, 1, .rw, 0x0, 0, none⟩,
    ⟨0x140040, [(32, 0x4)], 2, 1, .w1s, 0x0, 0, none⟩,
    ⟨0x1400C0, [(32, 0x4)], 0, 5, .ro, 0x0, 0, none⟩,
    ⟨0x1400C0, [(32, 0x4)], 8, 7, .ro, 0x0, 0, none⟩,
    ⟨0x1400C0, [(32, 0x4)], 16, 10, .ro, 0x0, 0, none⟩,
    ⟨0x140180, [], 0, 1, .w1c, 0x0, 0, none⟩,
    ⟨0x140180, [], 8, 8, .ro, 0x0, 0, none⟩,
    ⟨0x140184, [], 0, 1, .w1c, 0x0, 0, none⟩,
    ⟨0x140184, [], 8, 8, .ro, 0x0, 0, none⟩,
    ⟨0x140188, [], 0, 1, .w1c, 0x0, 0, none⟩,
    ⟨0x140188, [], 8, 8, .ro, 0x0, 0, none⟩,
    ⟨0x140200, [(16, 0x4)], 0, 6, .rw, 0x0, 4, none⟩,
    ⟨0x140200, [(16, 0x4)], 16, 7, .rw, 0x4, 0, some (0, 64)⟩,
    ⟨0x141000, [(16, 0x20), (8, 0x4)], 0, 32, .rw, 0xFFFFFFFF, 0, none⟩,
    ⟨0x141200, [(16, 0x20), (8, 0x4)], 0, 12, .rw, 0x0, 0, none⟩,
    ⟨0x141200, [(16, 0x20), (8, 0x4)], 16, 2, .rw, 0x0, 0, none⟩,
    ⟨0x144000, [(4096, 0x8)], 0, 24, .rw, 0x0, 0, none⟩ ]

/-- Register fields of block ENG, part 1. -/
def rowsENG1 : List RegRow :=
  [ ⟨0x144004, [(4096, 0x8)], 0, 16, .rw, 0x14, 0, none⟩ ]

/-- Register fields of block ENG. -/
def rowsENG : List RegRow := rowsENG0 ++ rowsENG1

/-- Register fields of block ARB, part 0. -/
def rowsARB0 : List RegRow :=
  [ ⟨0x180000, [], 0, 7, .rw, 0x2, 0, some (1, 64)⟩,
    ⟨0x180004, [], 0, 4, .rw, 0x4, 0, some (1, 15)⟩,
    ⟨0x180004, [], 4, 4, .rw, 0x4, 0, some (1, 15)⟩,
    ⟨0x180004, [], 8, 4, .rw, 0x4, 0, some (1, 15)⟩,
    ⟨0x180004, [], 12, 4, .rw, 0x4, 0, some (1, 15)⟩,
    ⟨0x180004, [], 16, 4, .rw, 0x2, 0, some (1, 15)⟩,
    ⟨0x180004, [], 20, 4, .rw, 0x1, 0, some (1, 15)⟩,
    ⟨0x180004, [], 24, 4, .rw, 0x1, 0, some (1, 15)⟩,
    ⟨0x180010, [], 0, 32, .rc, 0x0, 0, none⟩,
    ⟨0x180020, [], 0, 8, .ro, 0x0, 0, none⟩,
    ⟨0x180020, [], 8, 4, .ro, 0x0, 0, none⟩,
    ⟨0x180020, [], 12, 3, .ro, 0x0, 0, none⟩,
    ⟨0x180020, [], 15, 1, .ro, 0x0, 0, none⟩,
    ⟨0x180080, [], 0, 1, .w1c, 0x0, 0, none⟩,
    ⟨0x180080, [], 8, 8, .ro, 0x0, 0, none⟩,
    ⟨0x180084, [], 0, 1, .w1c, 0x0, 0, none⟩,
    ⟨0x180084, [], 8, 8, .ro, 0x0, 0, none⟩,
    ⟨0x180088, [], 0, 1, .w1c, 0x0, 0, none⟩,
    ⟨0x180088, [], 8, 8, .ro, 0x0, 0, none⟩,
    ⟨0x18008C, [], 0, 1, .w1c, 0x0, 0, none⟩,
    ⟨0x18008C, [], 8, 8, .ro, 0x0, 0, none⟩ ]

/-- Register fields of block ARB. -/
def rowsARB : List RegRow := rowsARB0

/-- Register fields of block SYN, part 0. -/
def rowsSYN0 : List RegRow :=
  [ ⟨0x1C0000, [(16, 0x4)], 0, 8, .rw, 0x0, 16, none⟩,
    ⟨0x1C0000, [(16, 0x4)], 16, 9, .rw, 0x10, 0, some (0, 256)⟩,
    ⟨0x1C0040, [(16, 0x4)], 0, 6, .rw, 0x0, 4, none⟩,
    ⟨0x1C0040, [(16, 0x4)], 16, 7, .rw, 0x4, 0, some (0, 64)⟩,
    ⟨0x1C0080, [(16, 0x4)], 0, 4, .rw, 0x0, 1, none⟩,
    ⟨0x1C0080, [(16, 0x4)], 16, 5, .rw, 0x1, 0, some (0, 16)⟩,
    ⟨0x1C0100, [], 0, 16, .ro, 0x0, 0, none⟩,
    ⟨0x1C0100, [], 16, 4, .ro, 0x0, 0, none⟩,
    ⟨0x1C0100, [], 24, 6, .ro, 0x0, 0, none⟩,
    ⟨0x1C0180, [], 0, 1, .w1c, 0x0, 0, none⟩,
    ⟨0x1C0180, [], 8, 8, .ro, 0x0, 0, none⟩,
    ⟨0x1C0184, [], 0, 1, .w1c, 0x0, 0, none⟩,
    ⟨0x1C0184, [], 8, 8, .ro, 0x0, 0, none⟩,
    ⟨0x1C0188, [], 0, 1, .w1c, 0x0, 0, none⟩,
    ⟨0x1C0188, [], 8, 8, .ro, 0x0, 0, none⟩ ]

/-- Register fields of block SYN. -/
def rowsSYN : List RegRow := rowsSYN0

/-- Register fields of block SCH, part 0. -/
def rowsSCH0 : List RegRow :=
  [ ⟨0x200000, [(16, 0x4)], 0, 8, .rw, 0x0, 16, none⟩,
    ⟨0x200000, [(16, 0x4)], 16, 9, .rw, 0x10, 0, some (0, 256)⟩,
    ⟨0x200080, [], 0, 1, .w1c, 0x0, 0, none⟩,
    ⟨0x200080, [], 8, 8, .ro, 0x0, 0, none⟩ ]

/-- Register fields of block SCH. -/
def rowsSCH : List RegRow := rowsSCH0

/-- Register fields of block REI, part 0. -/
def rowsREI0 : List RegRow :=
  [ ⟨0x280000, [], 0, 6, .rw, 0x0, 0, none⟩,
    ⟨0x280000, [], 8, 1, .rw, 0x0, 0, none⟩,
    ⟨0x280008, [], 0, 32, .ro, 0x0, 0, none⟩,
    ⟨0x28000C, [], 0, 32, .ro, 0x0, 0, none⟩,
    ⟨0x280010, [], 0, 4, .rw, 0x8, 0, some (1, 15)⟩,
    ⟨0x280014, [], 0, 16, .rw, 0x1F4, 0, some (100, 60000)⟩,
    ⟨0x280018, [], 0, 16, .rw, 0x64, 0, some (10, 60000)⟩,
    ⟨0x280040, [(12, 0x4)], 0, 1, .rw, 0x0, 0, none⟩,
    ⟨0x280040, [(12, 0x4)], 1, 1, .rw, 0x0, 0, none⟩,
    ⟨0x280040, [(12, 0x4)], 2, 1, .rw, 0x1, 0, none⟩,
    ⟨0x280080, [(12, 0x4)], 0, 4, .ro, 0x0, 0, none⟩,
    ⟨0x280080, [(12, 0x4)], 4, 2, .ro, 0x0, 0, none⟩,
    ⟨0x280080, [(12, 0x4)], 8, 6, .ro, 0x0, 0, none⟩,
    ⟨0x280080, [(12, 0x4)], 16, 4, .ro, 0x0, 0, none⟩,
    ⟨0x280080, [(12, 0x4)], 20, 1, .ro, 0x0, 0, none⟩,
    ⟨0x280080, [(12, 0x4)], 24, 4, .ro, 0x0, 0, none⟩,
    ⟨0x2800C0, [(12, 0x4)], 0, 32, .rc, 0x0, 0, none⟩,
    ⟨0x280100, [(12, 0x4)], 0, 16, .rw, 0x0, 0, none⟩,
    ⟨0x280140, [(12, 0x4)], 0, 32, .rc, 0x0, 0, none⟩,
    ⟨0x280200, [], 0, 6, .ro, 0x0, 0, none⟩,
    ⟨0x280200, [], 8, 6, .ro, 0x0, 0, none⟩,
    ⟨0x280200, [], 16, 4, .ro, 0x0, 0, none⟩,
    ⟨0x280200, [], 20, 2, .ro, 0x0, 0, none⟩,
    ⟨0x280200, [], 24, 2, .ro, 0x0, 0, none⟩ ]

/-- Register fields of block REI, part 1. -/
def rowsREI1 : List RegRow :=
  [ ⟨0x280204, [], 0, 6, .ro, 0x0, 0, none⟩,
    ⟨0x280204, [], 8, 8, .ro, 0x0, 0, none⟩,
    ⟨0x280280, [], 0, 1, .w1c, 0x0, 0, none⟩,
    ⟨0x280280, [], 8, 8, .ro, 0x0, 0, none⟩,
    ⟨0x280284, [], 0, 1, .w1c, 0x0, 0, none⟩,
    ⟨0x280284, [], 8, 8, .ro, 0x0, 0, none⟩,
    ⟨0x280288, [], 0, 1, .w1c, 0x0, 0, none⟩,
    ⟨0x280288, [], 8, 8, .ro, 0x0, 0, none⟩,
    ⟨0x28028C, [], 0, 1, .w1c, 0x0, 0, none⟩,
    ⟨0x28028C, [], 8, 8, .ro, 0x0, 0, none⟩,
    ⟨0x280290, [], 0, 1, .w1c, 0x0, 0, none⟩,
    ⟨0x280290, [], 8, 8, .ro, 0x0, 0, none⟩,
    ⟨0x280294, [], 0, 1, .w1c, 0x0, 0, none⟩,
    ⟨0x280294, [], 8, 8, .ro, 0x0, 0, none⟩,
    ⟨0x280298, [], 0, 1, .w1c, 0x0, 0, none⟩,
    ⟨0x280298, [], 8, 8, .ro, 0x0, 0, none⟩,
    ⟨0x28029C, [], 0, 1, .w1c, 0x0, 0, none⟩,
    ⟨0x28029C, [], 8, 8, .ro, 0x0, 0, none⟩,
    ⟨0x2802A0, [], 0, 1, .w1c, 0x0, 0, none⟩,
    ⟨0x2802A0, [], 8, 8, .ro, 0x0, 0, none⟩,
    ⟨0x280300, [(64, 0x4)], 0, 8, .ro, 0x0, 0, none⟩,
    ⟨0x280300, [(64, 0x4)], 16, 11, .ro, 0x0, 0, none⟩,
    ⟨0x281000, [(13, 0x200), (64, 0x8)], 0, 32, .rw, 0x0, 0, none⟩,
    ⟨0x281004, [(13, 0x200), (64, 0x8)], 0, 12, .rw, 0x0, 0, none⟩ ]

/-- Register fields of block REI. -/
def rowsREI : List RegRow := rowsREI0 ++ rowsREI1

/-- Register fields of block ETH, part 0. -/
def rowsETH0 : List RegRow :=
  [ ⟨0x2C0000, [], 0, 2, .rw, 0x0, 0, none⟩,
    ⟨0x2C0000, [], 2, 1, .rw, 0x1, 0, none⟩,
    ⟨0x2C0000, [], 3, 2, .rw, 0x0, 0, none⟩,
    ⟨0x2C0000, [], 5, 2, .rw, 0x0, 0, none⟩,
    ⟨0x2C0000, [], 7, 2, .rw, 0x0, 0, none⟩,
    ⟨0x2C0000, [], 9, 3, .rw, 0x0, 0, none⟩,
    ⟨0x2C0000, [], 16, 14, .rw, 0x2400, 0, some (1518, 9216)⟩,
    ⟨0x2C0004, [], 0, 16, .rw, 0xB7FC, 0, none⟩,
    ⟨0x2C0008, [], 0, 8, .rw, 0x18, 0, none⟩,
    ⟨0x2C0008, [], 8, 8, .rw, 0x10, 0, none⟩,
    ⟨0x2C0010, [(2, 0x20), (4, 0x4)], 0, 32, .rw, 0x0, 0, none⟩,
    ⟨0x2C0020, [(2, 0x20)], 0, 32, .rw, 0x0, 0, none⟩,
    ⟨0x2C0024, [(2, 0x20)], 0, 2, .rw, 0x0, 0, none⟩,
    ⟨0x2C0060, [(2, 0x8), (2, 0x4)], 0, 32, .ro, 0x0, 0, none⟩,
    ⟨0x2C0100, [], 0, 13, .rw, 0x0, 0, none⟩,
    ⟨0x2C0104, [], 0, 2, .wo, 0x0, 0, none⟩,
    ⟨0x2C0108, [], 0, 3, .ro, 0x0, 0, none⟩,
    ⟨0x2C010C, [], 0, 14, .ro, 0x0, 0, none⟩,
    ⟨0x2C0110, [], 0, 32, .ro, 0x0, 0, none⟩,
    ⟨0x2C0120, [(8, 0x4)], 0, 32, .rw, 0x0, 0, none⟩,
    ⟨0x2C0200, [(16, 0x20), (8, 0x4)], 0, 32, .ro, 0x0, 0, none⟩,
    ⟨0x2C0400, [], 0, 4, .ro, 0x0, 0, none⟩,
    ⟨0x2C0600, [(2, 0x40)], 0, 32, .rc, 0x0, 0, none⟩,
    ⟨0x2C0600, [(2, 0x40), (15, 0x4)], 0, 32, .rc, 0x0, 0, none⟩ ]

/-- Register fields of block ETH, part 1. -/
def rowsETH1 : List RegRow :=
  [ ⟨0x2C0700, [], 0, 1, .w1c, 0x0, 0, none⟩,
    ⟨0x2C0700, [], 8, 8, .ro, 0x0, 0, none⟩,
    ⟨0x2C0704, [], 0, 1, .w1c, 0x0, 0, none⟩,
    ⟨0x2C0704, [], 8, 8, .ro, 0x0, 0, none⟩,
    ⟨0x2C0708, [], 0, 1, .w1c, 0x0, 0, none⟩,
    ⟨0x2C0708, [], 8, 8, .ro, 0x0, 0, none⟩,
    ⟨0x2C070C, [], 0, 1, .w1c, 0x0, 0, none⟩,
    ⟨0x2C070C, [], 8, 8, .ro, 0x0, 0, none⟩,
    ⟨0x2C0710, [], 0, 1, .w1c, 0x0, 0, none⟩,
    ⟨0x2C0710, [], 8, 8, .ro, 0x0, 0, none⟩,
    ⟨0x2C0714, [], 0, 1, .w1c, 0x0, 0, none⟩,
    ⟨0x2C0714, [], 8, 8, .ro, 0x0, 0, none⟩,
    ⟨0x2C0718, [], 0, 1, .w1c, 0x0, 0, none⟩,
    ⟨0x2C0718, [], 8, 8, .ro, 0x0, 0, none⟩,
    ⟨0x2C1000, [(256, 0x40), (12, 0x4)], 0, 32, .rw, 0x0, 0, none⟩,
    ⟨0x2E0000, [(2, 0x8000), (512, 0x40), (2, 0x4)], 0, 32, .rw, 0x0, 0, none⟩,
    ⟨0x2E0008, [(2, 0x8000), (512, 0x40)], 0, 1, .rw, 0x0, 0, none⟩,
    ⟨0x2E0008, [(2, 0x8000), (512, 0x40)], 1, 1, .rw, 0x0, 0, none⟩,
    ⟨0x2E0008, [(2, 0x8000), (512, 0x40)], 8, 24, .rw, 0x0, 0, none⟩,
    ⟨0x2E000C, [(2, 0x8000), (512, 0x40)], 0, 2, .rw, 0x0, 0, none⟩,
    ⟨0x2E000C, [(2, 0x8000), (512, 0x40)], 2, 1, .wo, 0x0, 0, none⟩,
    ⟨0x2E0010, [(2, 0x8000), (512, 0x40), (8, 0x4)], 0, 32, .wo, 0x0, 0, none⟩,
    ⟨0x2E0030, [(2, 0x8000), (512, 0x40), (3, 0x4)], 0, 32, .wo, 0x0, 0, none⟩,
    ⟨0x2E003C, [(2, 0x8000), (512, 0x40)], 0, 32, .rw, 0x0, 0, none⟩ ]

/-- Register fields of block ETH. -/
def rowsETH : List RegRow := rowsETH0 ++ rowsETH1

/-- Register fields of block TEN, part 0. -/
def rowsTEN0 : List RegRow :=
  [ ⟨0x300000, [], 0, 16, .ro, 0x1, 0, none⟩,
    ⟨0x300004, [], 0, 16, .w1s, 0x0, 0, none⟩,
    ⟨0x300008, [], 0, 16, .rw, 0x0, 0, none⟩,
    ⟨0x300010, [], 0, 1, .rw, 0x0, 0, none⟩,
    ⟨0x300040, [(16, 0x4)], 0, 17, .rw, 0x1000, 0, none⟩,
    ⟨0x300080, [(16, 0x4)], 0, 17, .ro, 0x0, 0, none⟩,
    ⟨0x300100, [], 0, 1, .rw, 0x0, 0, none⟩,
    ⟨0x300100, [], 1, 2, .rw, 0x0, 0, some (0, 2)⟩,
    ⟨0x300100, [], 4, 4, .rw, 0x0, 0, none⟩,
    ⟨0x300100, [], 8, 4, .rw, 0x0, 0, none⟩,
    ⟨0x300100, [], 16, 7, .rw, 0x1E, 0, some (30, 36)⟩,
    ⟨0x300110, [(4, 0x4)], 0, 4, .ro, 0x0, 0, none⟩,
    ⟨0x300110, [(4, 0x4)], 4, 5, .ro, 0x0, 0, none⟩,
    ⟨0x300110, [(4, 0x4)], 12, 1, .ro, 0x0, 0, none⟩,
    ⟨0x300120, [(4, 0x4)], 0, 32, .rw, 0x0, 0, none⟩,
    ⟨0x300200, [(64, 0x20)], 0, 1, .rw, 0x0, 0, none⟩,
    ⟨0x300200, [(64, 0x20)], 1, 1, .rw, 0x0, 0, none⟩,
    ⟨0x300200, [(64, 0x20)], 2, 1, .rw, 0x0, 0, none⟩,
    ⟨0x300200, [(64, 0x20)], 3, 1, .rw, 0x0, 0, none⟩,
    ⟨0x300200, [(64, 0x20)], 4, 1, .rw, 0x0, 0, none⟩,
    ⟨0x300200, [(64, 0x20)], 5, 3, .rw, 0x0, 0, none⟩,
    ⟨0x300200, [(64, 0x20)], 8, 4, .rw, 0x0, 0, none⟩,
    ⟨0x300204, [(64, 0x20)], 0, 32, .rw, 0x0, 0, none⟩,
    ⟨0x300208, [(64, 0x20)], 0, 32, .rw, 0x0, 0, none⟩ ]

/-- Register fields of block TEN, part 1. -/
def rowsTEN1 : List RegRow :=
  [ ⟨0x30020C, [(64, 0x20), (2, 0x4)], 0, 32, .rw, 0x0, 0, none⟩,
    ⟨0x301000, [(64, 0x20)], 0, 1, .rw, 0x0, 0, none⟩,
    ⟨0x301000, [(64, 0x20)], 1, 1, .rw, 0x0, 0, none⟩,
    ⟨0x301000, [(64, 0x20)], 2, 1, .rw, 0x0, 0, none⟩,
    ⟨0x301000, [(64, 0x20)], 3, 1, .rw, 0x0, 0, none⟩,
    ⟨0x301000, [(64, 0x20)], 4, 3, .rw, 0x0, 0, none⟩,
    ⟨0x301000, [(64, 0x20)], 8, 4, .rw, 0x0, 0, none⟩,
    ⟨0x301004, [(64, 0x20), (2, 0x4)], 0, 32, .rw, 0x0, 0, none⟩,
    ⟨0x30100C, [(64, 0x20)], 0, 32, .rw, 0x0, 0, none⟩,
    ⟨0x301010, [(64, 0x20), (2, 0x4)], 0, 32, .rw, 0x0, 0, none⟩,
    ⟨0x301018, [(64, 0x20)], 0, 16, .rw, 0x0, 0, none⟩,
    ⟨0x301018, [(64, 0x20)], 16, 16, .rw, 0x0, 0, none⟩,
    ⟨0x302000, [], 0, 2, .ro, 0x0, 0, none⟩,
    ⟨0x302000, [], 2, 6, .ro, 0x0, 0, none⟩,
    ⟨0x302000, [], 8, 4, .ro, 0x0, 0, none⟩,
    ⟨0x302080, [], 0, 1, .w1c, 0x0, 0, none⟩,
    ⟨0x302080, [], 8, 8, .ro, 0x0, 0, none⟩,
    ⟨0x302084, [], 0, 1, .w1c, 0x0, 0, none⟩,
    ⟨0x302084, [], 8, 8, .ro, 0x0, 0, none⟩,
    ⟨0x302088, [], 0, 1, .w1c, 0x0, 0, none⟩,
    ⟨0x302088, [], 8, 8, .ro, 0x0, 0, none⟩,
    ⟨0x30208C, [], 0, 1, .w1c, 0x0, 0, none⟩,
    ⟨0x30208C, [], 8, 8, .ro, 0x0, 0, none⟩ ]

/-- Register fields of block TEN. -/
def rowsTEN : List RegRow := rowsTEN0 ++ rowsTEN1

/-- Register fields of block BRD, part 0. -/
def rowsBRD0 : List RegRow :=
  [ ⟨0x340000, [(3, 0x1000), (256, 0x10), (4, 0x4)], 0, 32, .rw, 0x0, 0, none⟩,
    ⟨0x343000, [], 0, 1, .w1s, 0x0, 0, none⟩,
    ⟨0x343004, [], 0, 12, .ro, 0x0, 0, none⟩,
    ⟨0x343004, [], 12, 2, .ro, 0x0, 0, none⟩,
    ⟨0x343008, [], 0, 32, .ro, 0x0, 0, none⟩,
    ⟨0x343080, [(3, 0x4)], 0, 1, .w1c, 0x0, 0, none⟩,
    ⟨0x343080, [(3, 0x4)], 8, 8, .ro, 0x0, 0, none⟩,
    ⟨0x343090, [], 0, 1, .w1c, 0x0, 0, none⟩,
    ⟨0x343090, [], 8, 8, .ro, 0x0, 0, none⟩,
    ⟨0x343094, [], 0, 1, .w1c, 0x0, 0, none⟩,
    ⟨0x343094, [], 8, 8, .ro, 0x0, 0, none⟩ ]

/-- Register fields of block BRD. -/
def rowsBRD : List RegRow := rowsBRD0

/-- Register fields of block LPE, part 0. -/
def rowsLPE0 : List RegRow :=
  [ ⟨0x380000, [], 0, 1, .rw, 0x0, 0, none⟩,
    ⟨0x380000, [], 1, 1, .rw, 0x1, 0, none⟩,
    ⟨0x380000, [], 2, 1, .rw, 0x0, 0, none⟩,
    ⟨0x380000, [], 3, 1, .rw, 0x0, 0, none⟩,
    ⟨0x380000, [], 4, 1, .rw, 0x0, 0, none⟩,
    ⟨0x380004, [], 0, 3, .ro, 0x0, 0, none⟩,
    ⟨0x380004, [], 3, 1, .ro, 0x0, 0, none⟩,
    ⟨0x380004, [], 4, 1, .ro, 0x0, 0, none⟩,
    ⟨0x380004, [], 5, 1, .ro, 0x1, 0, none⟩,
    ⟨0x380004, [], 6, 1, .ro, 0x0, 0, none⟩,
    ⟨0x380004, [], 8, 4, .ro, 0xF, 0, none⟩,
    ⟨0x380008, [], 0, 32, .ro, 0x0, 0, none⟩,
    ⟨0x38000C, [], 0, 1, .wo, 0x0, 0, none⟩,
    ⟨0x380010, [], 0, 15, .ro, 0x0, 0, none⟩,
    ⟨0x380014, [], 2, 13, .wo, 0x0, 0, none⟩,
    ⟨0x380018, [], 0, 4, .rwl, 0x0, 0, none⟩,
    ⟨0x38001C, [], 0, 32, .wo, 0x0, 0, none⟩,
    ⟨0x380020, [], 0, 16, .rw, 0x64, 0, some (10, 10000)⟩,
    ⟨0x380024, [], 0, 32, .rw, 0xFFFFFFFF, 0, none⟩,
    ⟨0x380028, [], 0, 16, .rw, 0xFFFF, 0, none⟩,
    ⟨0x380040, [(8, 0x4)], 0, 32, .wo, 0x0, 0, none⟩,
    ⟨0x380080, [], 0, 32, .rw, 0x0, 0, none⟩,
    ⟨0x380084, [], 0, 32, .rw, 0x0, 0, none⟩,
    ⟨0x380088, [], 0, 5, .rw, 0x6, 0, some (6, 16)⟩ ]

/-- Register fields of block LPE, part 1. -/
def rowsLPE1 : List RegRow :=
  [ ⟨0x38008C, [], 0, 16, .rw, 0xFFFF, 0, none⟩,
    ⟨0x38008C, [], 16, 16, .rw, 0x0, 0, none⟩,
    ⟨0x380090, [], 0, 32, .ro, 0x0, 0, none⟩,
    ⟨0x380094, [], 0, 32, .rw, 0x0, 0, none⟩,
    ⟨0x380200, [(256, 0x4)], 0, 31, .ro, 0x0, 0, none⟩,
    ⟨0x380200, [(256, 0x4)], 31, 1, .ro, 0x0, 0, none⟩,
    ⟨0x380600, [], 0, 32, .rc, 0x0, 0, none⟩,
    ⟨0x380700, [], 0, 1, .w1c, 0x0, 0, none⟩,
    ⟨0x380700, [], 8, 8, .ro, 0x0, 0, none⟩,
    ⟨0x380704, [], 0, 1, .w1c, 0x0, 0, none⟩,
    ⟨0x380704, [], 8, 8, .ro, 0x0, 0, none⟩,
    ⟨0x380708, [], 0, 1, .w1c, 0x0, 0, none⟩,
    ⟨0x380708, [], 8, 8, .ro, 0x0, 0, none⟩,
    ⟨0x38070C, [], 0, 1, .w1c, 0x0, 0, none⟩,
    ⟨0x38070C, [], 8, 8, .ro, 0x0, 0, none⟩,
    ⟨0x380710, [], 0, 1, .w1c, 0x0, 0, none⟩,
    ⟨0x380710, [], 8, 8, .ro, 0x0, 0, none⟩,
    ⟨0x380714, [], 0, 1, .w1c, 0x0, 0, none⟩,
    ⟨0x380714, [], 8, 8, .ro, 0x0, 0, none⟩,
    ⟨0x380718, [], 0, 1, .w1c, 0x0, 0, none⟩,
    ⟨0x380718, [], 8, 8, .ro, 0x0, 0, none⟩,
    ⟨0x38071C, [], 0, 1, .w1c, 0x0, 0, none⟩,
    ⟨0x38071C, [], 8, 8, .ro, 0x0, 0, none⟩,
    ⟨0x380720, [], 0, 1, .w1c, 0x0, 0, none⟩ ]

/-- Register fields of block LPE, part 2. -/
def rowsLPE2 : List RegRow :=
  [ ⟨0x380720, [], 8, 8, .ro, 0x0, 0, none⟩ ]

/-- Register fields of block LPE. -/
def rowsLPE : List RegRow := rowsLPE0 ++ rowsLPE1 ++ rowsLPE2

/-- Register fields of block SEC, part 0. -/
def rowsSEC0 : List RegRow :=
  [ ⟨0x3C0000, [], 0, 2, .ro, 0x0, 0, none⟩,
    ⟨0x3C0004, [], 0, 1, .rwl, 0x0, 0, none⟩,
    ⟨0x3C0008, [], 0, 2, .rw, 0x0, 0, none⟩,
    ⟨0x3C0008, [], 2, 1, .ro, 0x0, 0, none⟩,
    ⟨0x3C0008, [], 3, 1, .rw, 0x0, 0, none⟩,
    ⟨0x3C0020, [(8, 0x4)], 0, 32, .ro, 0x0, 0, none⟩,
    ⟨0x3C0040, [(7, 0x8), (2, 0x4)], 0, 32, .ro, 0x0, 0, none⟩,
    ⟨0x3C0080, [(2, 0x4)], 0, 32, .rw, 0x0, 0, none⟩,
    ⟨0x3C0088, [], 0, 16, .rw, 0xFFFF, 0, none⟩,
    ⟨0x3C0088, [], 16, 16, .rw, 0x0, 0, none⟩,
    ⟨0x3C008C, [], 0, 4, .wo, 0x0, 0, none⟩,
    ⟨0x3C008C, [], 8, 5, .wo, 0x0, 0, none⟩,
    ⟨0x3C008C, [], 16, 16, .wo, 0x0, 0, none⟩,
    ⟨0x3C0090, [], 0, 1, .ro, 0x0, 0, none⟩,
    ⟨0x3C0090, [], 8, 8, .ro, 0x0, 0, none⟩,
    ⟨0x3C00A0, [(16, 0x4)], 0, 32, .ro, 0x0, 0, none⟩,
    ⟨0x3C0100, [], 0, 1, .w1c, 0x0, 0, none⟩,
    ⟨0x3C0100, [], 8, 8, .ro, 0x0, 0, none⟩,
    ⟨0x3C0104, [], 0, 1, .w1c, 0x0, 0, none⟩,
    ⟨0x3C0104, [], 8, 8, .ro, 0x0, 0, none⟩,
    ⟨0x3C0108, [], 0, 1, .w1c, 0x0, 0, none⟩,
    ⟨0x3C0108, [], 8, 8, .ro, 0x0, 0, none⟩,
    ⟨0x3C010C, [], 0, 1, .w1c, 0x0, 0, none⟩,
    ⟨0x3C010C, [], 8, 8, .ro, 0x0, 0, none⟩ ]

/-- Register fields of block SEC. -/
def rowsSEC : List RegRow := rowsSEC0

/-- Register fields of block TRC, part 0. -/
def rowsTRC0 : List RegRow :=
  [ ⟨0x480000, [], 0, 1, .rw, 0x1, 0, none⟩,
    ⟨0x480000, [], 1, 1, .rw, 0x0, 0, none⟩,
    ⟨0x480004, [], 1, 12, .rw, 0x1FFE, 0, none⟩,
    ⟨0x480008, [], 0, 16, .rw, 0xFFFF, 0, none⟩,
    ⟨0x480010, [], 0, 32, .ro, 0x0, 0, none⟩,
    ⟨0x480014, [], 0, 32, .rw, 0x0, 0, none⟩,
    ⟨0x480018, [], 0, 32, .rc, 0x0, 0, none⟩,
    ⟨0x48001C, [], 0, 32, .ro, 0x0, 0, none⟩,
    ⟨0x480020, [], 0, 10, .rw, 0x0, 0, none⟩,
    ⟨0x480030, [(4, 0x4)], 0, 32, .wo, 0x0, 0, none⟩,
    ⟨0x480080, [], 0, 1, .w1c, 0x0, 0, none⟩,
    ⟨0x480080, [], 8, 8, .ro, 0x0, 0, none⟩,
    ⟨0x480084, [], 0, 1, .w1c, 0x0, 0, none⟩,
    ⟨0x480084, [], 8, 8, .ro, 0x0, 0, none⟩,
    ⟨0x481000, [(1024, 0x4)], 0, 32, .ro, 0x0, 0, none⟩ ]

/-- Register fields of block TRC. -/
def rowsTRC : List RegRow := rowsTRC0

/-- Register fields of block PWR, part 0. -/
def rowsPWR0 : List RegRow :=
  [ ⟨0x400000, [], 0, 1, .rw, 0x0, 0, none⟩,
    ⟨0x400004, [], 0, 3, .ro, 0x0, 0, none⟩,
    ⟨0x400004, [], 4, 3, .ro, 0x0, 0, none⟩,
    ⟨0x400004, [], 8, 3, .ro, 0x0, 0, none⟩,
    ⟨0x400004, [], 16, 11, .ro, 0x640, 0, none⟩,
    ⟨0x400008, [], 0, 16, .ro, 0x0, 0, none⟩,
    ⟨0x40000C, [], 0, 16, .ro, 0x0, 0, none⟩,
    ⟨0x400010, [], 0, 16, .rw, 0x1E0, 0, some (160, 1360)⟩,
    ⟨0x400014, [], 0, 16, .rw, 0x0, 0, none⟩,
    ⟨0x400018, [], 0, 8, .rw, 0x28, 0, none⟩,
    ⟨0x40001C, [], 0, 16, .ro, 0x0, 0, none⟩,
    ⟨0x400020, [], 0, 7, .ro, 0x40, 0, none⟩,
    ⟨0x400020, [], 8, 7, .ro, 0x40, 0, none⟩,
    ⟨0x400020, [], 16, 7, .ro, 0x40, 0, none⟩,
    ⟨0x400024, [], 0, 8, .ro, 0x0, 0, none⟩,
    ⟨0x400024, [], 8, 8, .rc, 0x0, 0, none⟩,
    ⟨0x400028, [], 0, 8, .rw, 0x64, 0, some (85, 100)⟩,
    ⟨0x400028, [], 8, 8, .rw, 0x5F, 0, some (70, 95)⟩,
    ⟨0x400030, [], 0, 16, .rw, 0x3E8, 0, some (10, 60000)⟩,
    ⟨0x400034, [], 0, 8, .rw, 0x14, 0, some (1, 255)⟩,
    ⟨0x400034, [], 8, 8, .rw, 0x3, 0, some (2, 255)⟩,
    ⟨0x400038, [], 0, 32, .rw, 0x0, 0, none⟩,
    ⟨0x40003C, [], 0, 32, .rw, 0x0, 0, none⟩,
    ⟨0x400040, [], 0, 3, .rw, 0x7, 0, none⟩ ]

/-- Register fields of block PWR, part 1. -/
def rowsPWR1 : List RegRow :=
  [ ⟨0x400044, [], 0, 4, .ro, 0x0, 0, none⟩,
    ⟨0x400080, [], 0, 20, .rw, 0x927C0, 0, none⟩,
    ⟨0x400088, [], 0, 32, .rw, 0xFFFFFFFF, 0, none⟩,
    ⟨0x40008C, [], 0, 32, .rw, 0xFFFFFFFF, 0, none⟩,
    ⟨0x400090, [], 0, 20, .ro, 0x0, 0, none⟩,
    ⟨0x400100, [], 0, 1, .w1c, 0x0, 0, none⟩,
    ⟨0x400100, [], 8, 8, .ro, 0x0, 0, none⟩,
    ⟨0x400104, [], 0, 1, .w1c, 0x0, 0, none⟩,
    ⟨0x400104, [], 8, 8, .ro, 0x0, 0, none⟩,
    ⟨0x400108, [], 0, 1, .w1c, 0x0, 0, none⟩,
    ⟨0x400108, [], 8, 8, .ro, 0x0, 0, none⟩,
    ⟨0x40010C, [], 0, 1, .w1c, 0x0, 0, none⟩,
    ⟨0x40010C, [], 8, 8, .ro, 0x0, 0, none⟩,
    ⟨0x400110, [], 0, 1, .w1c, 0x0, 0, none⟩,
    ⟨0x400110, [], 8, 8, .ro, 0x0, 0, none⟩,
    ⟨0x400114, [], 0, 1, .w1c, 0x0, 0, none⟩,
    ⟨0x400114, [], 8, 8, .ro, 0x0, 0, none⟩,
    ⟨0x400118, [], 0, 1, .w1c, 0x0, 0, none⟩,
    ⟨0x400118, [], 8, 8, .ro, 0x0, 0, none⟩ ]

/-- Register fields of block PWR. -/
def rowsPWR : List RegRow := rowsPWR0 ++ rowsPWR1

/-- Register fields of block FW, part 0. -/
def rowsFW0 : List RegRow :=
  [ ⟨0x40000, [], 0, 2, .ro, 0x0, 0, none⟩,
    ⟨0x40000, [], 2, 2, .ro, 0x0, 0, none⟩,
    ⟨0x40000, [], 4, 3, .ro, 0x0, 0, none⟩,
    ⟨0x40000, [], 7, 1, .ro, 0x0, 0, none⟩,
    ⟨0x40000, [], 11, 1, .ro, 0x0, 0, none⟩,
    ⟨0x40000, [], 8, 3, .ro, 0x0, 0, none⟩,
    ⟨0x40000, [], 12, 4, .ro, 0x0, 0, none⟩,
    ⟨0x40004, [], 0, 32, .ro, 0x0, 0, none⟩,
    ⟨0x40008, [], 0, 32, .ro, 0x0, 0, none⟩,
    ⟨0x40010, [(2, 0x10)], 0, 3, .ro, 0x0, 0, none⟩,
    ⟨0x40010, [(2, 0x10)], 4, 1, .ro, 0x0, 0, none⟩,
    ⟨0x40014, [(2, 0x10)], 0, 32, .ro, 0x0, 0, none⟩,
    ⟨0x40018, [(2, 0x10)], 0, 32, .ro, 0x0, 0, none⟩,
    ⟨0x40034, [], 0, 1, .w1s, 0x0, 0, none⟩,
    ⟨0x40034, [], 1, 1, .w1s, 0x0, 0, none⟩,
    ⟨0x40038, [], 0, 17, .rw, 0x258, 0, some (0, 86400)⟩,
    ⟨0x4003C, [], 0, 32, .wo, 0x0, 0, none⟩,
    ⟨0x40040, [], 0, 4, .rw, 0x3, 0, some (1, 15)⟩,
    ⟨0x40040, [], 16, 16, .rw, 0x258, 0, some (60, 65535)⟩,
    ⟨0x40044, [], 0, 17, .rw, 0x3E8, 0, some (100, 100000)⟩,
    ⟨0x40048, [], 0, 32, .ro, 0x0, 0, none⟩,
    ⟨0x4004C, [], 0, 16, .ro, 0x0, 0, none⟩,
    ⟨0x40050, [], 0, 1, .ro, 0x0, 0, none⟩,
    ⟨0x40050, [], 1, 1, .ro, 0x0, 0, none⟩ ]

/-- Register fields of block FW, part 1. -/
def rowsFW1 : List RegRow :=
  [ ⟨0x40050, [], 2, 1, .ro, 0x0, 0, none⟩,
    ⟨0x40054, [], 0, 32, .ro, 0x0, 0, none⟩,
    ⟨0x40080, [(4, 0x20)], 0, 8, .ro, 0x0, 0, none⟩,
    ⟨0x40084, [(4, 0x20)], 0, 32, .ro, 0x0, 0, none⟩,
    ⟨0x40088, [(4, 0x20)], 0, 32, .ro, 0x0, 0, none⟩,
    ⟨0x4008C, [(4, 0x20)], 0, 32, .ro, 0x0, 0, none⟩,
    ⟨0x40090, [(4, 0x20)], 0, 32, .ro, 0x0, 0, none⟩,
    ⟨0x40094, [(4, 0x20)], 0, 32, .ro, 0x0, 0, none⟩,
    ⟨0x40100, [(4, 0x8)], 0, 32, .ro, 0x0, 0, none⟩,
    ⟨0x40104, [(4, 0x8)], 0, 32, .ro, 0x0, 0, none⟩,
    ⟨0x40180, [], 0, 1, .w1c, 0x0, 0, none⟩,
    ⟨0x40180, [], 8, 8, .ro, 0x0, 0, none⟩,
    ⟨0x40184, [], 0, 1, .w1c, 0x0, 0, none⟩,
    ⟨0x40184, [], 8, 8, .ro, 0x0, 0, none⟩,
    ⟨0x40188, [], 0, 1, .w1c, 0x0, 0, none⟩,
    ⟨0x40188, [], 8, 8, .ro, 0x0, 0, none⟩,
    ⟨0x4018C, [], 0, 1, .w1c, 0x0, 0, none⟩,
    ⟨0x4018C, [], 8, 8, .ro, 0x0, 0, none⟩,
    ⟨0x40200, [(32, 0x4)], 0, 8, .ro, 0x0, 0, none⟩,
    ⟨0x40200, [(32, 0x4)], 8, 8, .ro, 0x0, 0, none⟩,
    ⟨0x40200, [(32, 0x4)], 31, 1, .ro, 0x0, 0, none⟩ ]

/-- Register fields of block FW. -/
def rowsFW : List RegRow := rowsFW0 ++ rowsFW1

/-- Register fields of block CAL, part 0. -/
def rowsCAL0 : List RegRow :=
  [ ⟨0x440000, [], 0, 1, .ro, 0x0, 0, none⟩,
    ⟨0x440000, [], 1, 1, .ro, 0x0, 0, none⟩,
    ⟨0x440000, [], 8, 6, .ro, 0x0, 0, none⟩,
    ⟨0x440000, [], 16, 6, .ro, 0x0, 0, none⟩,
    ⟨0x440004, [], 0, 6, .ro, 0x0, 0, none⟩,
    ⟨0x440004, [], 8, 6, .ro, 0x0, 0, none⟩,
    ⟨0x440004, [], 16, 6, .ro, 0x0, 0, none⟩,
    ⟨0x440008, [], 0, 32, .ro, 0x0, 0, none⟩,
    ⟨0x440080, [], 0, 1, .w1c, 0x0, 0, none⟩,
    ⟨0x440080, [], 8, 8, .ro, 0x0, 0, none⟩,
    ⟨0x440084, [], 0, 1, .w1c, 0x0, 0, none⟩,
    ⟨0x440084, [], 8, 8, .ro, 0x0, 0, none⟩,
    ⟨0x440088, [], 0, 1, .w1c, 0x0, 0, none⟩,
    ⟨0x440088, [], 8, 8, .ro, 0x0, 0, none⟩,
    ⟨0x44008C, [], 0, 1, .w1c, 0x0, 0, none⟩,
    ⟨0x44008C, [], 8, 8, .ro, 0x0, 0, none⟩ ]

/-- Register fields of block CAL. -/
def rowsCAL : List RegRow := rowsCAL0

/-- Register fields of block GLB, part 0. -/
def rowsGLB0 : List RegRow :=
  [ ⟨0x0, [], 0, 8, .ro, 0xB0, 0, none⟩,
    ⟨0x0, [], 8, 8, .ro, 0x16, 0, none⟩,
    ⟨0x0, [], 16, 16, .ro, 0x4180, 0, none⟩,
    ⟨0x10, [], 0, 1, .w1c, 0x0, 0, none⟩,
    ⟨0x10, [], 8, 8, .ro, 0x0, 0, none⟩,
    ⟨0x10, [], 16, 1, .w1c, 0x0, 0, none⟩,
    ⟨0x10, [], 24, 8, .ro, 0x0, 0, none⟩,
    ⟨0x20, [], 0, 11, .rw, 0x7FF, 0, none⟩,
    ⟨0x40, [], 0, 32, .rw, 0x0, 0, none⟩,
    ⟨0x44, [], 0, 32, .ro, 0x0, 0, none⟩,
    ⟨0x48, [], 0, 32, .rw, 0x0, 0, none⟩,
    ⟨0x80, [(16, 0x4)], 0, 32, .ro, 0x0, 0, none⟩,
    ⟨0xC0, [], 0, 1, .w1c, 0x0, 0, none⟩,
    ⟨0xC0, [], 8, 8, .ro, 0x0, 0, none⟩,
    ⟨0x100, [(16, 0x4)], 0, 32, .ro, 0x0, 0, none⟩ ]

/-- Register fields of block GLB. -/
def rowsGLB : List RegRow := rowsGLB0

/-- The rows of the block a BAR0 address lies in (Table 0.4); tenant pages lie from 0x100_0000 on. -/
def blockRows (a : Nat) : List RegRow :=
  if 0x2000000 ≤ a then [] else if 0x1000000 ≤ a then rowsPAGE else
  match a / 0x40000 with
  | 0 => rowsGLB
  | 1 => rowsFW
  | 2 => rowsCMQ
  | 3 => rowsMEM
  | 4 => rowsPRI
  | 5 => rowsENG
  | 6 => rowsARB
  | 7 => rowsSYN
  | 8 => rowsSCH
  | 9 => rowsCAD
  | 10 => rowsREI
  | 11 => rowsETH
  | 12 => rowsTEN
  | 13 => rowsBRD
  | 14 => rowsLPE
  | 15 => rowsSEC
  | 16 => rowsPWR
  | 17 => rowsCAL
  | 18 => rowsTRC
  | _ => []

end Sys2Proof.Machine
end

