-- ==== Sys2Proof/Machine/State.lean ====
section
/-! DEFINITION. The machine state as plain data: one sub-record per unit of the device, holding every piece of state the
spec names; the reasons a step can stop; and the state right after reset. Registers live in `regs`, keyed by BAR0 byte
address, a register nothing has written being unlisted (it reads as its reset value). -/
namespace Sys2Proof.Machine

/-- Reasons a step stops with a fault. No meaning of this model raises one; the constructor is kept for the interface
(safe: the machine would stop where the hardware goes on). -/
inductive Fault where
  /-- Raised by nothing: every command of the block answers a next state. Safe. -/
  | none
  deriving DecidableEq, Repr

/-- Reasons a command is refused by the model. -/
inductive Refusal where
  /-- Raised by an arm of `exec` whose command has no meaning yet, with its mnemonic. Safe: nothing is claimed of it. -/
  | notModelled (mnemonic : String)
  deriving DecidableEq, Repr

/-! ### Chapter 02: cadence and rack time -/

/-- A resource with a ledger of its own (R55). -/
inductive Resource where
  | engine (n : Nat) | prism (q : Nat) | hbm | apLink (l : Nat) | hp | reinPort (p : Nat) | awl | cf
  deriving DecidableEq, Repr

/-- The load of one ledger: tick, resource, segment 0 to 15, tenant, and the admitted cost in picoseconds (R56). -/
structure LedgerEntry where
  tick : Nat
  res : Resource
  seg : Nat
  tenant : Nat
  load : Nat
  deriving DecidableEq, Repr

/-- What an ETH port holds of PTP (R41): whether the transmitter it hears can be used, the data set that transmitter announces
(empty where none has), the offset last measured, t1 and t2 of the last Sync, t3 and t4 of the last delay request, the
departure of the last peer delay request with the two time stamps of its answer, and the link delay peer delay measured. -/
structure PtpPort where
  usable : Bool
  dataset : List Nat
  offset : Int
  t1 : Nat
  t2 : Nat
  t3 : Nat
  t4 : Nat
  p1 : Nat
  p2 : Nat
  p4 : Nat
  link : Option Int
  deriving DecidableEq, Repr

/-- Rack time and its unit (chapter 02). Rack time is held in ns. -/
structure Cad where
  time : Nat
  /-- per function: bits 63:32 latched by a read of CAD_TIME_LO (Table 2.6) -/
  latches : List (Nat × Nat)
  /-- rack time in the monotonic store (R40) -/
  stored : Nat
  /-- rack time has been set since the last cold boot (R38) -/
  timeSet : Bool
  /-- the resumed rack time, where a stored time could be used at the last cold boot (R40, Table 2.1) -/
  resumed : Option Nat
  /-- a source has been acquired since the last cold boot (R37) -/
  acquired : Bool
  /-- CAD_CTRL.ACCEPT_SRC was written since the source was refused (R39) -/
  acceptSrc : Bool
  /-- a joining follower holds its rack time until the master's reaches it (R47) -/
  joinHold : Bool
  /-- from joining until ALIGNED first reads 1 (R47) -/
  joining : Bool
  /-- no exchange has completed since joining (R47) -/
  joinFirst : Bool
  /-- phase correction still to be slewed, ns, and the part of a ns, in 10⁻⁶, already worked off it (R37) -/
  slew : Int
  slewPart : Nat
  /-- tick and period of the switch that SWITCH_ARM accepted (R51) -/
  swTick : Nat
  swPeriod : Nat
  tickOut : Bool
  tickOutFall : Nat
  ppsOut : Bool
  ppsOutFall : Nat
  /-- rack time of the last PPS_IN edge, if one arrived since PPS became the source (R53) -/
  ppsIn : Option Nat
  ptp : List PtpPort
  ledger : List LedgerEntry
  /-- commands admitted per tick (R56 condition 4) -/
  admitted : List (Nat × Nat)
  /-- holdover records: frequency offset (0.001 ppb) and temperature (R67) -/
  model : List (Int × Int)
  /-- seconds of lock recorded (R67) -/
  lockSeconds : Nat
  /-- rack time at which HOLDOVER began (R69), and the last reading of the time-base temperature sensor (R67) -/
  holdSince : Nat
  temp : Int
  deriving DecidableEq, Repr

/-! ### Chapter 03: memories -/

/-- A weight-cache line: HBM line index, sectors present, and the time of its last use (Table 3.5). -/
structure WcLine where
  line : Nat
  sectors : Nat
  used : Nat
  deriving DecidableEq, Repr

/-- A weight-cache sector fill in flight (R87): HBM line and sector, and the rank of the reads that wait for it (1 for admitted
TICKED ones, whose earliest tick it carries, else 2; R264). -/
structure Fill where
  line : Nat
  sector : Nat
  rank : Nat
  tick : Nat
  deriving DecidableEq, Repr

/-- The memories of the device (chapter 03). A byte that is not listed reads as zero (R76). -/
structure Mem where
  sram : List Host.Cell
  hbm : List Host.Cell
  stage : List Host.Cell
  /-- words (space, 8-byte index) with a single-bit error (R77) -/
  ce : List (Nat × Nat)
  /-- words (space, 8-byte index) with an uncorrectable error (R78) -/
  ue : List (Nat × Nat)
  wc : List WcLine
  /-- sector fills in flight (R87) -/
  fills : List Fill
  /-- cached sectors (HBM line, sector) that show an uncorrectable error (R91) -/
  wcBad : List (Nat × Nat)
  /-- the size a resize in progress will apply (R86) -/
  resize : Option Nat
  /-- order counter of the least-recently-used rule -/
  useCount : Nat
  deriving DecidableEq, Repr

/-! ### Chapter 04: windows and descriptors -/

/-- A live allocation window (R100). -/
structure Window where
  space : Nat
  base : Nat
  size : Nat
  owner : Nat
  r : Bool
  w : Bool
  deriving DecidableEq, Repr

/-- A window slot: its generation and its window (R101). -/
structure WinSlot where
  gen : Nat
  win : Option Window
  deriving DecidableEq, Repr

/-- A storage descriptor as stored (Table 4.1), with its facet parameters copied at creation (R97). `hand` marks what no tenant
names: a chain's hand-over, whose base is its area's place in staging (R251, R252), or the data a SHORT_WRITE carries. -/
structure Desc where
  base : Nat
  dtype : Nat
  rank : Nat
  facet : Nat
  fA : Nat
  fW : Nat
  fY : Nat
  flags : Nat
  window : Nat
  gen : Nat
  size : List Nat
  stride : List Int
  scale : Nat
  len : Nat
  inj : Bool
  utag : Nat
  hand : Bool
  deriving DecidableEq, Repr

/-- A descriptor slot: its generation, and its owner and descriptor when in use (R113). -/
structure DescSlot where
  gen : Nat
  desc : Option (Nat × Desc)
  deriving DecidableEq, Repr

/-! ### Chapter 05: prism plans -/

/-- A plan-cache entry (R141, R143). -/
structure PlanEntry where
  index : Nat
  tenant : Nat
  sig : List Nat
  /-- ticks whose admitted commands pin the entry (R32) -/
  pins : List Nat
  used : Nat
  /-- the plan is written; an entry an admitted command has pinned may still await it (R145) -/
  ready : Bool
  deriving DecidableEq, Repr

/-- A plan latch of a Prism (R131): the engine it belongs to, the signature of the plan it holds, and when it was last used. -/
structure Latch where
  engine : Nat
  sig : List Nat
  used : Nat
  deriving DecidableEq, Repr

/-- A plan computation in CF (R143, R144). -/
structure PlanJob where
  tenant : Nat
  sig : List Nat
  ticked : Bool
  started : Bool
  /-- the tenant's partition was invalidated or changed since the miss (R147) -/
  stale : Bool
  waiters : List Nat
  deriving DecidableEq, Repr

/-! ### Chapters 04, 06 and 07: commands -/

/-- One dimension of a view (Table 4.5, Table 7.5). -/
structure Dim where
  soff : Nat
  scount : Nat
  doff : Nat
  sstep : Int
  padb : Nat
  pada : Nat
  dstep : Int
  deriving DecidableEq, Repr

/-- A view (Table 4.5). -/
structure View where
  perm : List Nat
  padMode : Nat
  round : Nat
  ovf : Nat
  padValue : Nat
  seed : Nat
  dims : List Dim
  deriving DecidableEq, Repr

/-- One move of an engine, or one stage of a chain: copies of its descriptors taken at decode (R115), with the rights their
allocation windows gave at the generation check (R102), its view and its page list. `listed` is 0 for none, 1 for a gather
list, 2 for a scatter list (R123). -/
structure Move where
  src : Desc
  dst : Desc
  srcRight : Bool
  dstRight : Bool
  view : View
  listed : Nat
  pages : List Nat
  engine : Nat
  sig : List Nat
  planReady : Bool
  deriving DecidableEq, Repr

/-- The in-flight summary of a move so far (R412): CRC-32C state, the destination's MX scale bytes (which the CRC takes
last), counts, and MIN, MAX and SUM. `blk` holds the values of the unfinished block of 64. MIN, MAX and an FP64 SUM
are FP64 codes; an I64 SUM is kept as the exact sum. -/
structure Summary where
  crc : Nat
  scales : List (BitVec 8)
  elems : Nat
  nan : Nat
  inf : Nat
  clamp : Nat
  satv : Nat
  minV : Option Nat
  maxV : Option Nat
  blk : List Nat
  sumF : Option Nat
  sumI : Int
  deriving DecidableEq, Repr

/-- Where a command stands. -/
inductive Phase where
  /-- decoded, its page list or stage table being read (R202) -/
  | metadata
  /-- admitted TIMED engine command past its launch that waits for a place in its engine's active set (R231) -/
  | entering
  /-- held in the front end: every engine of its mask offline or full, or the Awl path full (R236, R255) -/
  | deferred
  /-- passed to CF and awaiting acceptance (R28) -/
  | atCF
  /-- in the TIMED list (R65) -/
  | timed
  /-- in the run list of its engine (R227) -/
  | runList
  /-- in the active set of its engine (R227) -/
  | active
  /-- pending on the Awl path (R255) -/
  | awl
  /-- fast-path command of the front end, not started or waiting for its condition -/
  | front
  /-- its flag sets or its launch wait while the tenant has held nodes (R326) -/
  | held
  /-- accepted by CF and running on in another unit, or draining (R184, R102) -/
  | running
  /-- every byte of its data is committed or sent; its announcing signal and record are to come (R165) -/
  | drained
  /-- ended; its record waits for its turn (R170) -/
  | ended
  deriving DecidableEq, Repr

/-- The graph node a command runs for (R313, R322): graph, launch number, index within the graph, device slot. -/
structure NodeRef where
  graph : Nat
  launch : Nat
  index : Nat
  slot : Nat
  deriving DecidableEq, Repr

/-- Where a LOCK_ACQUIRE stands (R275, R276). -/
inductive LockTry where
  | none
  /-- waits for the local lock -/
  | localWait
  /-- holds the local lock and waits for the home -/
  | homeWait
  /-- released after a busy answer, until a rack time (R276) -/
  | backoff (until_ : Nat)
  deriving DecidableEq, Repr

/-- A host window (space 4) or P2P window (5) as it stood when a command was decoded (R392, R394): offset and size in 4 KiB
units, outside space, PCIe address. -/
structure ExtMap where
  space : Nat
  off : Nat
  size : Nat
  out : Nat
  addr : Nat
  deriving DecidableEq, Repr

/-- A decoded command whose record is not written. -/
structure Cmd where
  id : Nat
  tenant : Nat
  queue : Nat
  pkt : List (BitVec 8)
  node : Option NodeRef
  phase : Phase
  started : Bool
  startedAt : Nat
  /-- launch time of a TIMED command in rack time -/
  launch : Nat
  /-- its launch missed a condition of R64 -/
  late : Bool
  decodedAt : Nat
  /-- begin command of the locked sequence it belongs to (R163) -/
  seqId : Option Nat
  /-- engine stream number, or 4096 plus the queue number for an unnamed stream (R237) -/
  stream : Nat
  engine : Nat
  unit : Nat
  moves : List Move
  maps : List ExtMap
  stage : Nat
  /-- destination elements of the current stage already formed -/
  done : Nat
  /-- destination bytes formed and not committed, by offset in the destination's space -/
  staged : List Host.Cell
  /-- hand-over areas held, numbered 2 × engine + area: the one the current stage reads, and the one it writes (R251) -/
  inArea : Option Nat
  outArea : Option Nat
  /-- pool bytes reserved on its engine for the hold and the tile of the current stage (R228, R230) -/
  resv : Nat
  /-- it has been given its engine (R236) -/
  placed : Bool
  /-- source data held, by offset: what another chip has returned, and elements that later elements need again (R120) -/
  fetched : List Host.Cell
  /-- ranges asked of another chip (R274, R340) -/
  asked : List (Nat × Nat)
  /-- 256-byte source blocks for which a tag has been taken for what comes next, those still in flight, those the weight cache
  served, and the weight-cache fills waited for (R87, R227, R257) -/
  looked : List Nat
  tagged : List Nat
  hits : List Nat
  waitFills : List (Nat × Nat)
  summary : Summary
  bytes : Nat
  crc : Nat
  warn : Nat
  retry : Nat
  status : Nat
  result : Nat
  /-- the tick it was admitted into, and the rack time of that tick's end (R54, R60) -/
  admTick : Option Nat
  admEnd : Nat
  /-- rack time of the last chunk served, or of activation (R246) -/
  servedAt : Nat
  /-- order of its start, and of its entry into the active set (R231, R241, R287) -/
  startOrder : Nat
  activeOrder : Nat
  /-- time-out of a wait in rack time -/
  deadline : Option Nat
  lockTry : LockTry
  /-- the arrival of a BARRIER_ARRIVE has been counted, with this sense (R298) -/
  sense : Option Bool
  /-- position inside a batch, and handles created so far (R166) -/
  cursor : Nat
  handles : List Nat
  /-- its announcing signal has been sent (R165) -/
  signalled : Bool
  /-- its summary has gone to the Loupe and a GATE verdict is awaited (R419) -/
  gated : Bool
  /-- verdict of the Loupe, when it has come: pass or fail -/
  verdict : Option Bool
  /-- ids of the commands a window drain waits for (R102) -/
  drain : List Nat
  deriving DecidableEq, Repr

/-- A locked sequence of a queue (R163, R270), or of another chip at this one (R273; its `queue` is 8 + that chip, and it opens with
its first locked beat here): its begin command, when it opened, the lock object it acquired (home
chip, lock index), the beats it was granted per lane, the lane of its last locked beat, the lane its transfers last requested (0xFF
for none), and whether it has been ended by a bound
or a time-out, in which case its remaining commands complete with the status given (R213, R271). -/
structure LockSeq where
  id : Nat
  tenant : Nat
  queue : Nat
  openedAt : Option Nat
  lock : Option (Nat × Nat)
  lanes : List (Nat × Nat)
  lastLane : Nat
  lastAsked : Nat
  broken : Option Nat
  /-- its end command has been decoded -/
  endSeen : Bool
  deriving DecidableEq, Repr

/-- A queue's own state beside its registers (chapter 06). -/
structure QueueSt where
  tenant : Nat
  queue : Nat
  /-- whole packets in the shadow, oldest first -/
  shadow : List (List (BitVec 8))
  /-- ids of decoded commands in submission order, unrecorded -/
  order : List Nat
  lastEngine : Option Nat
  /-- begin command of the sequence open in decode order (R163) -/
  openSeq : Option Nat
  /-- outside spaces written since the last flushing read (R164) -/
  dirty : List Nat
  /-- recorded commands whose VC1 messages were unacknowledged (R164) -/
  loose : List Nat
  deriving DecidableEq, Repr

/-- A tenant's state beside its registers: its CQ's pending records (bytes without PHASE, the IRQ flag, and the queue, 8 for a graph
node) and its interrupt moderation (R173, R180). -/
structure TenantSt where
  tenant : Nat
  pendingRecs : List (List (BitVec 8) × Bool × Nat)
  irqCount : Nat
  irqOldest : Nat
  /-- decoding has stopped for want of a CQ slot (R169) -/
  cqFull : Bool
  deriving DecidableEq, Repr

/-! ### Chapter 08: engines and streams -/

/-- One engine's own state (R227, R241 to R245): engine bytes served per class, the classes with a ready chunk at the
last decision, the stream at which each round starts next (READ, WRITE, REMOTE, and the round of the DEADLINE regime), and
a reset in progress. -/
structure EngineSt where
  served : List Nat
  readyClasses : List Nat
  lastStream : List Nat
  resetting : Bool
  deriving DecidableEq, Repr

/-- A stream's dry-time in 1/256 ns (R244), and whether it had a ready chunk. -/
structure StreamSt where
  dry : Nat
  ready : Bool
  deriving DecidableEq, Repr

/-! ### Chapter 09: arbitration -/

/-- One grant lane (R266 to R270): the holder and its rank (0 locked, 1, 2, 3), beats granted, the locked sequence whose
locked grant it is, the requester last served, preempted or idle holders in order with the beats each had been granted (R268,
R269), and the beats each system-port requester has left in its weighted round (for a Rein egress: the beats since the last VC3
flit). `kept` are the holders that surrendered an idle grant, with their beats. -/
structure LaneSt where
  holder : Option Nat
  rank : Nat
  beats : Nat
  lockedBy : Option Nat
  last : Nat
  preempted : List (Nat × Nat)
  kept : List (Nat × Nat)
  credit : List Nat
  deriving DecidableEq, Repr

/-! ### Chapter 10: synchronisation -/

/-- A barrier object (R296, Table 10.3) with the chips registered in the waiter set of each sense. -/
structure Bar where
  en : Bool
  arriveIdx : Nat
  phaseIdx : Nat
  parts : Nat
  notify : Nat
  notifyIdx : Nat
  sense : Bool
  waiters : List (Bool × Nat)
  deriving DecidableEq, Repr

/-- A remote request that waits for a lock at its home: chip, tag, since (R275). -/
structure LockWaiter where
  chip : Nat
  tag : Nat
  queue : Nat
  since : Nat
  deriving DecidableEq, Repr

/-- A lock object (R305): holder chip and queue, the command or the tag that holds it, when it was granted, remote
requests queued oldest first, and chips whose late release is discarded (R306). -/
structure Lock where
  held : Bool
  broken : Bool
  holderQ : Nat
  holderChip : Nat
  holderTag : Nat
  grantedAt : Nat
  queue : List LockWaiter
  reaped : List Nat
  deriving DecidableEq, Repr

/-- The synchronisation pool (R281, R296, R305), by pool number, and the event flags (R316), one 64-bit word at key
16 × tenant + word. A counter's status word has the layout of TP_CST. -/
structure Sync where
  cnt : List (Nat × Nat)
  cst : List (Nat × Nat)
  bars : List (Nat × Bar)
  locks : List (Nat × Lock)
  flags : List (Nat × Nat)
  deriving DecidableEq, Repr

/-! ### Chapter 11: the graph scheduler -/

/-- Where a node of a launch stands (R318, R323, R326). -/
inductive NodeSt where
  | idle | armed | ready | heldReady | dispatched | recorded
  deriving DecidableEq, Repr

/-- A loaded node: its 320-byte entry, its affinity engine, and where it stands in the running launch. -/
structure Node where
  entry : List (BitVec 8)
  aff : Option Nat
  st : NodeSt
  readyAt : Nat
  deriving DecidableEq, Repr

/-- A launch of a graph that has not completed (R321): the queue and command that launched it, its base and admitted
tick, and when it was released. -/
structure Launch where
  queue : Nat
  cmd : Nat
  base : Nat
  admTick : Option Nat
  admEnd : Nat
  initWord : Nat
  initMask : Nat
  released : Option Nat
  deriving DecidableEq, Repr

/-- A loaded graph of a tenant (R216, R315). -/
structure Graph where
  tenant : Nat
  id : Nat
  first : Nat
  nodes : List Node
  launchNo : Nat
  launch : Option Launch
  deriving DecidableEq, Repr

/-! ### Chapter 12: Rein -/

/-- A flit of a message on its way: header fields that do not change per link, and its payload (R336, R337). -/
structure Flit where
  kind : Nat
  vc : Nat
  lock : Bool
  last : Bool
  dest : Nat
  rank : Nat
  src : Nat
  hops : Nat
  tick : Nat
  payload : List (BitVec 8)
  deriving DecidableEq, Repr

/-- One Rein port beside its registers (R335 to R339): next LSEQ to send, flits sent and not covered by a LACK, flits
that wait for credit, credits held per VC, next LSEQ expected, receive credits to return per VC, the VC whose turn it is
to return credits, when the last acknowledgement was sent, a NAK outstanding, the message being received per VC, recent
NAK times, the replay count of the oldest flit, retrain attempts, DOWN retries, and the peer data of PARAM; of the egress, the
message each VC has begun (VC, source, destination), and the beats sent since the last VC3 flit, at most 15 (R265, R337). -/
structure PortSt where
  txSeq : Nat
  replay : List (Nat × Flit)
  egress : List Flit
  begun : List (Nat × Nat × Nat)
  since3 : Nat
  credits : List Nat
  rxSeq : Nat
  owed : List Nat
  turn : Nat
  lackAt : Nat
  nakOut : Bool
  /-- flits received of messages not complete, per VC -/
  part : List (Nat × Flit)
  naks : List Nat
  replays : Nat
  replayedSeq : Nat
  attempts : Nat
  peerSerial : Nat
  /-- last announcement of the peer (R352): chip, serial, priority, resumed rack time, generation, master, master
  priority, hops -/
  dom : Option (List Nat)
  /-- time exchange (R354): t1, t2, t3, and whether a flit of it was replayed -/
  t1 : Nat
  t2 : Nat
  t3 : Nat
  spoilt : Bool
  doneAt : Nat
  deriving DecidableEq, Repr

/-- A VC1 message of the source side: the command it belongs to, and when it was sent. -/
structure TxMsg where
  msg : Msg
  cmd : Option Nat
  at_ : Nat
  deriving DecidableEq, Repr

/-- The source side towards one chip (R347 to R350): next ESEQ, messages unacknowledged,
messages that wait for the limit of 1,024 or for a path, whether the epoch's EPOCH_OPEN is unacknowledged or still to
be sent, and the lost operations whose STALE_NOTICE is due (tenant, counter index). -/
structure TxPair where
  nextEseq : Nat
  sent : List TxMsg
  waiting : List TxMsg
  opening : Bool
  openDue : Bool
  stale : List (Nat × Nat)
  /-- queues (tenant, queue) whose commands the last raise ended: their fences wait for the EPOCH_OPEN (R351) -/
  openQueues : List (Nat × Nat)
  deriving DecidableEq, Repr

/-- The destination side from one chip (R347, R351): epoch, expected ESEQ, a gap seen in this epoch, commits not yet
acknowledged since a time, and the command tags refused (R346). -/
structure RxPair where
  epoch : Nat
  expect : Nat
  gap : Bool
  owedSince : Option Nat
  refused : List Nat
  deriving DecidableEq, Repr

/-- A VC0 request without an answer (R340, R344): its tag, the command and the engine whose tag it holds (32 the Awl path, 33
none), chip, kind (MOP), offset and length asked for, and when it was sent. -/
structure Req where
  tag : Nat
  cmd : Nat
  engine : Nat
  chip : Nat
  mop : Nat
  off : Nat
  len : Nat
  at_ : Nat
  deriving DecidableEq, Repr

/-- A girth lease the master has granted: chip, tokens, expiry, floor (R357, R358). -/
structure Lease where
  chip : Nat
  tokens : Nat
  expiry : Nat
  floor : Nat
  /-- port on which the request came -/
  port : Nat
  deriving DecidableEq, Repr

/-- A remote command whose first request this chip has accepted and whose last it has not seen (R104, R404): source chip,
command tag, window and generation. -/
structure Accepted where
  chip : Nat
  tag : Nat
  win : Nat
  gen : Nat
  deriving DecidableEq, Repr

/-- A girth request the master holds (R357, R478): chip, tokens, floor, and the port it came on. -/
structure Ask where
  chip : Nat
  tokens : Nat
  floor : Nat
  port : Nat
  deriving DecidableEq, Repr

/-- The Rein unit beside its registers. -/
structure Rein where
  ports : List (Nat × PortSt)
  tx : List (Nat × TxPair)
  rx : List (Nat × RxPair)
  reqs : List Req
  nextTag : Nat
  /-- duplicate chip ID seen and this device has the higher serial: VC3 only (R353) -/
  vc3Only : Bool
  /-- chosen master: chip, priority, hops (R352) -/
  master : Nat
  masterPrio : Nat
  masterHops : Nat
  /-- configuration generation (R356) -/
  gen : Nat
  /-- rack time at which this device became master (R358) -/
  masterSince : Nat
  leases : List Lease
  /-- messages from other chips held while a tenant's context reset clears its counters (R308) -/
  held : List Msg
  accepted : List Accepted
  /-- this device's own lease: tokens, expiry (R357) -/
  lease : Option (Nat × Nat)
  /-- the latest girth request of each chip, and the ports forwarded requests came on (R357) -/
  asks : List Ask
  deriving DecidableEq, Repr

/-! ### Chapter 13: site ingest -/

/-- A secure association (R367, R368): port, channel (512 for the transmit channel), association number, key, salt, SSCI,
the next packet number expected or sent, and whether MKA installed it. -/
structure MacSa where
  port : Nat
  sc : Nat
  an : Nat
  key : List (BitVec 8)
  next : Nat
  mka : Bool
  deriving DecidableEq, Repr

/-- An enrolled camera (R364): its 32-byte entry, the highest accepted SEQ and the map of the 64 SEQs below and at it
(bit 0 = the highest), the rate bucket and the forward bucket in 10⁻⁹ tokens as of a rack time, and its drops. -/
structure Camera where
  entry : List (BitVec 8)
  high : Option Nat
  map : Nat
  level : Nat
  trip : Nat
  at_ : Nat
  drops : Nat
  deriving DecidableEq, Repr

/-- A datagram in the ingest buffer (R377): its port, header and tensor, the words of the steering rule it matched (R371),
and its camera's slot and window index. -/
structure Datagram where
  port : Nat
  hdr : List (BitVec 8)
  data : List (BitVec 8)
  rule : List Nat
  cam : Nat
  widx : Nat
  deriving DecidableEq, Repr

/-- A tripwire record on its way to the Loupe (R380). -/
structure TripRec where
  camera : Nat
  seq : Nat
  zone : Nat
  capture : Nat
  port : Nat
  at_ : Nat
  deriving DecidableEq, Repr

/-- Site ingest beside its registers (chapter 13). -/
structure Eth where
  /-- bit p: port p has link -/
  up : Nat
  sas : List MacSa
  cams : List (Nat × Camera)
  /-- oldest first -/
  buffer : List Datagram
  /-- bit p: port p has paused its partner (R378) -/
  paused : Nat
  /-- per port: second of rack time, and stranger records written in it (R365) -/
  strLog : List (Nat × Nat × Nat)
  /-- SAKs MKA has distributed so far -/
  sakNo : Nat
  deriving DecidableEq, Repr

/-! ### Chapter 15: the Loupe -/

/-- An unpaired MIRROR summary (R420): pair, side (true for B), the command, the record, whether its own rules passed, and
the rack time of its arrival. -/
structure Unpaired where
  pair : Nat
  side : Bool
  cmd : Nat
  rec' : List (BitVec 8)
  ok : Bool
  at_ : Nat
  deriving DecidableEq, Repr

/-- Why the Loupe is out of service for a time (R432, R433, R535): a Loupe restart, or LF starting after an LPE reset or the
device's boot. -/
inductive LoupeDown where
  | restart | start
  deriving DecidableEq, Repr

/-- The Loupe beside its registers (chapter 15). Configuration entries that are not listed are zero. -/
structure Loupe where
  /-- summaries that wait for judgement, oldest first: command and 80-byte record (R411) -/
  inbox : List (Nat × List (BitVec 8))
  /-- tripwire records that wait, oldest first (R428) -/
  trips : List TripRec
  rules : List (Nat × List (BitVec 8))
  watchers : List (Nat × List (BitVec 8))
  pairs : List (Nat × List (BitVec 8))
  /-- patterns at 0 to 14, zones at 256 to 511 (Table 15.7) -/
  pats : List (Nat × List (BitVec 8))
  unpaired : List Unpaired
  /-- pair, side and UTAG of MIRROR summaries lost before their partner came (R418, R420) -/
  lostMates : List (Nat × Bool × Nat)
  /-- verdicts on their way to gated commands (R419) -/
  verdicts : List (Nat × Bool)
  /-- per watcher: rack time and tick of its last refresh (R422) -/
  refreshed : List (Nat × Nat × Nat)
  expired : List Nat
  /-- alarm patterns that stay active until a rack time after their last source (R426) -/
  holds : List (Nat × Nat)
  /-- bit p: pattern p is latched active -/
  latched : Nat
  /-- an alarm pattern has been raised and is yet to wake the device (R473) -/
  raised : Bool
  /-- the watcher whose action set the fault latch, if it was one (R427) -/
  latchBy : Option Nat
  /-- the hardware fault latch (R432) -/
  hwLatch : Bool
  down : Option LoupeDown
  /-- VDD_LPE is below its limit (R535) -/
  unpowered : Bool
  /-- an LF image is loaded -/
  lf : Bool
  /-- CF's copy of LPE_CFG_CRC (R416) -/
  cfCrc : Option Nat
  /-- event records kept for the ring, oldest first (R436) -/
  kept : List (List (BitVec 8))
  /-- LP frames sent (Table 15.8) -/
  lpSeq : Nat
  deriving DecidableEq, Repr

/-! ### Chapter 18: start-up -/

/-- Where the main complex stands (R486): before a cold boot has run, in its boot stages, running, held in a safe-state
restart, or in the boot ROM's recovery monitor (R498). -/
inductive BootPhase where
  | off | boot | run | restart | recovery
  deriving DecidableEq, Repr

/-- A valid copy of the boot record (R493, R494): sequence number, PREF, and the states of slots A and B: 0 INVALID,
1 CANDIDATE, 2 TRIAL, 3 GOOD. -/
structure BootRec where
  seq : Nat
  pref : Nat
  stA : Nat
  stB : Nat
  deriving DecidableEq, Repr

/-- A user calibration record (R508): sequence, serial number, stepping, the scopes it holds and their values; a value is
a number that stands for the settings of its scope, 0 for those of the factory record. The time-base scope also holds the
learned holdover model and its seconds of lock. -/
structure CalRec where
  seq : Nat
  serial : Nat
  stepping : Nat
  scopes : Nat
  values : List Nat
  model : List (Int × Int)
  lockSeconds : Nat
  deriving DecidableEq, Repr

/-- The calibration command in progress (R509): its command, the scopes of a CAL_RUN, and what was in force before. -/
structure CalRun where
  cmd : Nat
  scope : Nat
  values : List Nat
  deriving DecidableEq, Repr

/-- The open update session (R223): region, IMAGE_SIZE, and the bytes programmed so far. -/
structure Session where
  region : Nat
  size : Nat
  data : List (BitVec 8)
  deriving DecidableEq, Repr

/-- Start-up beside the registers. -/
structure Boot where
  phase : BootPhase
  /-- flash regions written since manufacture (Table 18.3): 0 CF of slot A, 1 LF of A, 2 CF of B, 3 LF of B -/
  flash : List (Nat × List (BitVec 8))
  /-- the two copies of the boot record; none where a copy is not valid -/
  rec0 : Option BootRec
  rec1 : Option BootRec
  session : Option Session
  /-- manifest and image of the CF and the LF loaded; empty where none is -/
  cf : List (BitVec 8)
  lf : List (BitVec 8)
  /-- CDI of the running images (R444) -/
  cdi : List (BitVec 8)
  /-- rack times of the safe-state restarts that still count (R503) -/
  restarts : List Nat
  /-- rack time from which AUTO_S counts (R497) -/
  confirmFrom : Nat
  /-- rack time at which the boot or restart in progress began -/
  began : Nat
  /-- steps 2 and 3 of the restart in progress are done (R502) -/
  verified : Bool
  /-- cores that are halted: control cores 0 to 3 by a double fault (R505) or a debugger, Loupe cores 4 and 5 by a debugger (R457) -/
  halted : List Nat
  cal0 : Option CalRec
  cal1 : Option CalRec
  /-- values in force per calibration scope -/
  calVal : List Nat
  calRun : Option CalRun
  /-- a RESTORE_FACTORY waits to replace the learned holdover model (R511) -/
  calLater : Bool
  /-- the device is held in reset (POR_N low, a rail out of tolerance, TEST_EN high); SYSCLK and TCXO_IN lost (chapter 20) -/
  porLow : Bool
  sysLost : Bool
  tcxoLost : Bool
  deriving DecidableEq, Repr

/-! ### Chapter 16: security -/

/-- Security beside its registers. -/
structure Sec where
  /-- key slots of the vault: slot and the 80 bytes stored (R447) -/
  slots : List (Nat × List (BitVec 8))
  /-- credentials of the vault: tenant and the 256 bytes stored (R451) -/
  creds : List (Nat × List (BitVec 8))
  /-- the LP key of the vault -/
  lpKey : Option (List (BitVec 8))
  /-- ROTPK_REVOKE, SITE_AUTH_HASH, DBG_AUTH_HASH and UDS_KILL (Table 16.1) -/
  revoke : Nat
  siteHash : Option (List (BitVec 8))
  dbgHash : Option (List (BitVec 8))
  udsKill : Bool
  /-- bits of CMQ_STOP a lapse has set (R452) -/
  lapsed : Nat
  /-- a D2 unlock in progress: the level it started from (R460) -/
  unlock : Option Nat
  /-- a move to DECOMMISSIONED in progress (R456) -/
  decom : Bool
  /-- debug level at the last boot (R444) -/
  bootLevel : Nat
  /-- the TAP: instruction in force by its place in Table 16.10 (0 IDCODE, 1 BYPASS, 2 SAMPLE/PRELOAD, 3 EXTEST, 4 CLAMP,
  5 HIGHZ, 6 DBG_CHAL, 7 DBG_TOKEN, 8 DBG_TRACE, 9 DBG_AP), and the boundary register -/
  tap : Nat
  boundary : List Bool
  /-- open SPDM sessions (R445), and whether each is established -/
  sessions : List (Nat × Bool)
  deriving DecidableEq, Repr

/-! ### Chapter 17: power -/

/-- Power beside its registers. -/
structure Pwr where
  /-- the entry in progress: state asked for, and its command (none for an automatic S1) -/
  entry : Option (Nat × Option Nat)
  entryAt : Nat
  /-- an exit to S0 is in progress -/
  leaving : Bool
  /-- S1 was entered by AUTO_HOLD (R475) -/
  auto : Bool
  /-- the thermal limit in 10⁻⁶ tokens, and when it last moved (Table 17.6) -/
  thermal : Option Nat
  thermAt : Nat
  /-- a thermal trip is in force, and since when Tj has stayed below RESUME (R483) -/
  trip : Bool
  coolSince : Option Nat
  /-- I3C cap in watts, CAP_REFUSED, the register index last set, the dynamic address, and whether IBIs are enabled
  (R479, R485) -/
  cap : Nat
  capRefused : Bool
  i3cIndex : Nat
  i3cAddr : Option Nat
  ibiOn : Bool
  /-- power samples of the last 1 ms in mW, newest first, and the 1 ms averages of the last 100 ms with their times -/
  samples : List Nat
  avgs : List (Nat × Nat)
  /-- since when the average has stayed below 0.95 × L (R480) -/
  belowSince : Option Nat
  deriving DecidableEq, Repr

-- PART MARK

/-- What the block sends to the outside, in the order it sends it (log entry 10). -/
inductive Output where
  /-- data of a register read by function `fn` at offset `off` of its BAR0 -/
  | readData (fn off : Nat) (value : Nat)
  /-- completion of a memory read from the host (0) or over AP link l (l + 1) -/
  | readCompletion (from_ addr : Nat) (data : List (BitVec 8)) (poisoned : Bool)
  /-- a completion with Completer Abort, or Unsupported Request -/
  | completerAbort (from_ addr : Nat)
  /-- an MSI-X message of function `fn` (R179) -/
  | msix (fn vec : Nat)
  /-- a Rein message handed to the links (chapter 12) -/
  | rein (m : Msg)
  /-- a flit sent on a Rein port: its 272 bytes -/
  | flit (port : Nat) (bytes : List (BitVec 8))
  /-- an Ethernet frame sent on a port -/
  | ethFrame (port : Nat) (frame : List (BitVec 8))
  /-- a PFC pause (true) or resume on a port (R378) -/
  | pfc (port : Nat) (pause : Bool)
  /-- a PTP message sent on a port: kind, advertised clockClass (R43), and its time stamp (R42) -/
  | ptp (port kind clockClass stamp : Nat)
  /-- an edge of the TICK_OUT or the PPS_OUT pin: its level, and the rack time at the ball (R52, R53) -/
  | tickPin (level : Bool) (at_ : Nat)
  | ppsPin (level : Bool) (at_ : Nat)
  /-- a frame of the Loupe's LP port (R429) -/
  | lpFrame (frame : List (BitVec 8))
  /-- an I3C in-band interrupt or answer -/
  | i3c (kind : Nat) (data : List (BitVec 8))
  /-- an answer to a PCIe configuration request; `crs` is Configuration Request Retry Status -/
  | cfgAnswer (fn reg value : Nat) (crs : Bool)
  /-- data shifted out of the JTAG port -/
  | jtag (data : List (BitVec 8))
  /-- an SPDM answer over the DOE mailbox -/
  | spdm (data : List (BitVec 8))
  /-- PME_TO_Ack (R472) -/
  | pmeToAck
  /-- a Poisoned TLP Received error on the HP (0) or AP link l (l + 1) (R387) -/
  | poisonedTlp (from_ : Nat)
  /-- an ATS invalidation completion (R388) -/
  | atsDone (fn : Nat)
  /-- a configuration access in the hierarchy below an AP link (R393) -/
  | apConfig (link addr : Nat) (write : Bool) (value : Nat)
  deriving DecidableEq, Repr

/-- The host port and the functions (chapter 14). -/
structure Pcie where
  /-- bit f: Bus Master Enable of function f (R391) -/
  bme : Nat
  vfEnable : Bool
  numVfs : Nat
  /-- masked vectors, and vectors held pending (R181, R391) -/
  masked : List (Nat × Nat)
  pendingVec : List (Nat × Nat)
  hpUp : Bool
  /-- lanes in use and transfer rate (a speed code of Table 14.6) of the HP link (R55) -/
  hpWidth : Nat
  hpSpeed : Nat
  perst : Bool
  /-- configuration requests are answered with Configuration Request Retry Status (R390) -/
  crs : Bool
  /-- functions in a function-level reset -/
  flr : List Nat
  /-- cached address translations, the oldest first: function, 4 KiB page of PCIe addresses (R388) -/
  ats : List (Nat × Nat)
  /-- accesses the host's translations do not allow: function, 4 KiB page of PCIe addresses, whether it is a write (R388) -/
  atsRefused : List (Nat × Nat × Bool)
  pmeOff : Bool
  wakeN : Bool
  /-- functions' configuration words written by the host: function, register, value -/
  cfgRegs : List (Nat × Nat × Nat)
  /-- commands a BRD_SYNC tracks, while it is in progress (R403) -/
  brdSync : Option (List Nat)
  /-- context resets in progress: tenant and whether they wipe (R405, R406) -/
  ctxRst : List (Nat × Bool)
  /-- context resets that wait for command-ready: tenant and kind (R515) -/
  ctxLater : List (Nat × Nat)
  /-- counter writes of accelerators held during a context reset: tenant, page offset, value (R407) -/
  heldCnt : List (Nat × Nat × Nat)
  /-- the IDE link stream of the HP is Secure; bit l: that of AP link l (R389) -/
  ideHp : Bool
  ideAp : Nat
  /-- Secure selective IDE streams: port (0 the HP, l + 1 AP link l) and stream number from 1 (R385, R389) -/
  ideSel : List (Nat × Nat)
  /-- bit k: AP_PERST_Nk released in root-port mode (R533) -/
  apPerst : Nat
  deriving DecidableEq, Repr

/-- Error records beside the GLB registers (chapter 19). -/
structure Errs where
  /-- the fault log ring: slot and 64-byte record (R524) -/
  flog : List (Nat × List (BitVec 8))
  /-- rack time at which each device-wide vector was last sent (R526) -/
  vecSent : List (Nat × Nat)
  /-- trace records lost since the last record was written (R463) -/
  traceLost : Nat
  deriving DecidableEq, Repr

/-- The state of the block. -/
structure State where
  /-- the register file: BAR0 byte address and value, unlisted registers at their reset value -/
  regs : List (Nat × BitVec 32)
  cad : Cad
  mem : Mem
  wins : List (Nat × WinSlot)
  descs : List (Nat × DescSlot)
  plans : List PlanEntry
  planJobs : List PlanJob
  latches : List Latch
  /-- decoded commands without a record -/
  cmds : List Cmd
  /-- commands awaiting acceptance by CF, in arrival order (R30) -/
  cf : List Nat
  nextId : Nat
  /-- number of the next start or activation -/
  nextOrder : Nat
  queues : List QueueSt
  tenants : List TenantSt
  lockSeqs : List LockSeq
  engines : List (Nat × EngineSt)
  streams : List (Nat × StreamSt)
  lanes : List (Nat × LaneSt)
  sync : Sync
  graphs : List Graph
  /-- tenant last served by the graph scheduler (R323) -/
  lastGraphTenant : Nat
  rein : Rein
  pcie : Pcie
  errs : Errs
  lpe : Loupe
  eth : Eth
  boot : Boot
  sec : Sec
  pwr : Pwr
  /-- memory outside the block as far as it is known: key = address, plus 2^64 × (1 + AP link) (log entry 7) -/
  ext : List Host.Cell
  outbox : List Output
  /-- register writes through a CSR device address that the command at work still has to make: offset and value -/
  csrLater : List (Nat × Nat)
  /-- number of free values drawn so far (log entry 4) -/
  fresh : Nat
  /-- commands waiting, first in, first out -/
  pending : List Instr
  deriving DecidableEq, Repr

/-- The state right after reset, before the boot stages of COLD_BOOT run (log entry 5): every register at its Reset
column, every structure empty. -/
def State.reset : State where
  regs := []
  cad := { time := 0, latches := [], stored := 0, timeSet := false, resumed := none, acquired := false, acceptSrc := false,
           joinHold := false, joining := false, joinFirst := false, slew := 0, slewPart := 0, swTick := 0, swPeriod := 0, tickOut := false, tickOutFall := 0, ppsOut := false,
           ppsOutFall := 0, ppsIn := none, ptp := [], ledger := [], admitted := [], model := [], lockSeconds := 0,
           holdSince := 0, temp := 0 }
  mem := { sram := [], hbm := [], stage := [], ce := [], ue := [], wc := [], fills := [], wcBad := [], resize := none, useCount := 0 }
  wins := []
  descs := []
  plans := []
  planJobs := []
  latches := []
  cmds := []
  cf := []
  nextId := 0
  nextOrder := 0
  queues := []
  tenants := []
  lockSeqs := []
  engines := []
  streams := []
  lanes := []
  sync := { cnt := [], cst := [], bars := [], locks := [], flags := [] }
  graphs := []
  lastGraphTenant := 15
  rein := { ports := [], tx := [], rx := [], reqs := [], nextTag := 0, vc3Only := false, master := 63, masterPrio := 0,
            masterHops := 0, gen := 0, masterSince := 0, leases := [], held := [], accepted := [], lease := none, asks := [] }
  pcie := { bme := 1, vfEnable := false, numVfs := 0, masked := [], pendingVec := [], hpUp := false, hpWidth := 0, hpSpeed := 0, perst := true,
            crs := true, flr := [], ats := [], atsRefused := [], pmeOff := false, wakeN := false, cfgRegs := [],
            brdSync := none, ctxRst := [], ctxLater := [], heldCnt := [], ideHp := false, ideAp := 0, ideSel := [], apPerst := 0 }
  errs := { flog := [], vecSent := [], traceLost := 0 }
  lpe := { inbox := [], trips := [], rules := [], watchers := [], pairs := [], pats := [], unpaired := [], lostMates := [], verdicts := [],
           refreshed := [], expired := [], holds := [], latched := 0, raised := false, latchBy := none, hwLatch := false, down := some .start,
           unpowered := false, lf := false, cfCrc := some 0, kept := [], lpSeq := 0 }
  eth := { up := 0, sas := [], cams := [], buffer := [], paused := 0, strLog := [], sakNo := 0 }
  boot := { phase := .off, flash := [], rec0 := some ⟨0, 0, 3, 3⟩, rec1 := none, session := none, cf := [], lf := [], cdi := [],
            restarts := [], confirmFrom := 0, began := 0, verified := false, halted := [], cal0 := none,
            cal1 := none, calVal := [0, 0, 0, 0, 0, 0], calRun := none, calLater := false, porLow := false,
            sysLost := false, tcxoLost := false }
  sec := { slots := [], creds := [], lpKey := none, revoke := 0, siteHash := none, dbgHash := none, udsKill := false, lapsed := 0,
           unlock := none, decom := false, bootLevel := 2, tap := 0, boundary := [], sessions := [] }
  pwr := { entry := none, entryAt := 0, leaving := false, auto := false, thermal := none, thermAt := 0, trip := false,
           coolSince := none, cap := 0, capRefused := false, i3cIndex := 0, i3cAddr := none, ibiOn := true, samples := [],
           avgs := [], belowSince := none }
  ext := []
  outbox := []
  csrLater := []
  fresh := 0
  pending := []

end Sys2Proof.Machine
end

