-- ==== Sys2Proof/Machine/Ops.lean ====
section
/-! DEFINITION. The named operations every meaning uses: the register file, free values, outputs, MSI-X messages,
sticky flags, trace records, fault records, the last-words record, and the memories with their ECC rules. -/
namespace Sys2Proof.Machine

/-! ### The register file -/

/-- The indexes of address offset `off` in a family of registers, outermost first. -/
def dimIndex : List (Nat × Nat) → Nat → Option (List Nat)
  | [], off => if off = 0 then some [] else none
  | (c, st) :: t, off =>
    let i := off / st
    if i < c then (dimIndex t (off - i * st)).map (i :: ·) else none

/-- The indexes at which a table row holds the word at address `a`, if it does. -/
def RegRow.indexAt (r : RegRow) (a : Nat) : Option (List Nat) :=
  if r.base ≤ a then dimIndex r.dims (a - r.base) else none

/-- The table rows that hold fields of the word at address `a`. -/
def rowsAt (a : Nat) : List RegRow := (blockRows a).filter fun r => (r.indexAt a).isSome

/-- Whether a register exists at address `a` (R6). -/
def mapped (a : Nat) : Bool := !(rowsAt a).isEmpty

/-- The reset value of one field; the indexes are those of the row. Most are the Reset column; the others are the values
of Table 0.7, R403, the fused values, and the `q mod 4` of ENG_QDEF.HOME. -/
def rowReset (r : RegRow) (a : Nat) (ix : List Nat) : Nat :=
  if r.base = 0x141200 ∧ r.lo = 16 then ix.getD 1 0 % 4
  else if r.base = 0 ∧ r.lo = 8 then (if Config.is16C then 0x16 else 0x14)
  else if r.base = 0x400004 ∧ r.lo = 16 then (if Config.is16C then 1600 else 1400)
  else if r.base = 0x280008 then bitsOf Config.serial.toNat 0 32
  else if r.base = 0x28000C then bitsOf Config.serial.toNat 32 32
  else if r.base = 0x2C0060 then bitsOf (Config.mac (ix.getD 0 0)).toNat (32 * ix.getD 1 0) 32
  else if r.base = 0x340000 ∧ ix.getD 1 0 = 255 then
    match a / 4 % 4 with
    | 0 => 0 | 1 => 0xFFFFFFFF | 2 => 0x00010001 | _ => 0x800000FF
  else r.reset + r.slope * (if 0x1000000 ≤ r.base then 0 else ix.getD 0 0)

/-- The reset value of the register at address `a`: 0 where nothing is mapped. -/
def resetWord (a : Nat) : BitVec 32 :=
  BitVec.ofNat 32 ((blockRows a).foldl (fun w r =>
    match r.indexAt a with
    | some ix => putBits w r.lo r.n (rowReset r a ix)
    | none => w) 0)

/-- The register at address `a`. -/
def State.rd (s : State) (a : Nat) : Nat := (spGet resetWord s.regs a).toNat

/-- The state with the register at address `a` holding `v`. -/
def State.wr (s : State) (a v : Nat) : State := { s with regs := spSet resetWord s.regs a (BitVec.ofNat 32 v) }

/-- A register field. -/
def State.get (s : State) (f : Fld) : Nat := bitsOf (s.rd f.addr) f.lo f.n

/-- The state with a register field holding `v`. -/
def State.set (s : State) (f : Fld) (v : Nat) : State := s.wr f.addr (putBits (s.rd f.addr) f.lo f.n v)

/-- A one-bit register field. -/
def State.on (s : State) (f : Fld) : Bool := s.get f == 1

/-- A 64-bit quantity in two consecutive registers, low word first (R5). -/
def State.get64 (s : State) (lo : Fld) : Nat := s.rd lo.addr + 2 ^ 32 * s.rd (lo.addr + 4)

/-- Write a 64-bit quantity (R5). -/
def State.set64 (s : State) (lo : Fld) (v : Nat) : State :=
  (s.wr lo.addr (v % 2 ^ 32)).wr (lo.addr + 4) (v / 2 ^ 32 % 2 ^ 32)

/-- Add to a saturating count register field. -/
def State.bump (s : State) (f : Fld) (k : Nat) : State := s.set f (satAdd (2 ^ f.n - 1) (s.get f) k)

/-! ### Outputs and free values -/

/-- The bits of the word at `a` that its RW fields hold (R7: the others ignore a write). -/
def rwMask (a : Nat) : Nat :=
  (rowsAt a).foldl (fun m (r : RegRow) => if r.acc = .rw then m ||| ((2 ^ r.n - 1) <<< r.lo) else m) 0

/-- A plain write of `v` to the RW fields of the word at `a`. -/
def State.putRw (s : State) (a v : Nat) : State :=
  let m := rwMask a
  s.wr a ((s.rd a &&& (0xFFFFFFFF - m)) ||| (v &&& m))

/-- Send something to the outside. -/
def State.out (s : State) (o : Output) : State := { s with outbox := s.outbox ++ [o] }

/-- The next free value (log entry 4). -/
def State.freeVal (s : State) : BitVec 64 := Config.freeValue s.fresh

/-- The state after a free value was drawn. -/
def State.draw (s : State) : State := { s with fresh := s.fresh + 1 }

/-- The blocks behind BAR0 other than GLB, FW and LPE take host accesses: no restart holds them (R502). -/
def State.blockOpen (s : State) : Bool := s.boot.phase != BootPhase.restart

/-- A tenant's page takes no write while its context reset runs (R406). -/
def State.ctxBusy (s : State) (t : Nat) : Bool := s.pcie.ctxRst.any fun (x : Nat × Bool) => x.1 == t

/-- A tenant's page takes writes: no context reset of it runs and no restart holds it (R406, R502). -/
def State.pageOpen (s : State) (t : Nat) : Bool := !(s.ctxBusy t) && s.blockOpen

/-- Send MSI-X vector `vec` of function `fn`, or hold it pending while the vector is masked or the function's Bus Master
Enable is 0 (R181, R391). None is sent for a
function whose tenant is in a context reset (R406). -/
def State.msix (s : State) (fn vec : Nat) : State :=
  if s.pcie.ctxRst.any (fun (x : Nat × Bool) => x.1 == fn) then s
  else if bit s.pcie.bme fn && !(s.pcie.masked.contains (fn, vec)) then s.out (.msix fn vec)
  else if s.pcie.pendingVec.contains (fn, vec) then s
  else { s with pcie := { s.pcie with pendingVec := s.pcie.pendingVec ++ [(fn, vec)] } }

/-- Device-wide vector `vec` (8 to 18) on an event: sent while its bit of GLB_IRQ_EN is 1, at most once per 10 µs
(R526). -/
def State.irq (s : State) (vec : Nat) : State :=
  let recent := match kvFind s.errs.vecSent vec with
    | some t => decide (s.cad.time < t + 10000)
    | none => false
  if bit (s.get F.GLB_IRQ_EN) (vec - 8) && !recent then
    let s := { s with errs := { s.errs with vecSent := kvIns vec s.cad.time s.errs.vecSent } }
    s.msix 0 vec
  else s

/-! ### Sticky flags (R20 to R22) -/

/-- The occurrence count beside a sticky flag. -/
def Fld.cnt (f : Fld) : Fld := ⟨f.addr, f.lo + 8, 8⟩

/-- An event that sets sticky flag `f`: the flag becomes 1, its count one more, saturating at 0xFF (R20). -/
def State.stick (s : State) (f : Fld) : State :=
  (s.set f 1).set f.cnt (satAdd 255 (s.get f.cnt) 1)

/-- A W1C write of 1 to sticky flag `f`: the flag and its count become 0 (R21). -/
def State.unstick (s : State) (f : Fld) : State := (s.set f 0).set f.cnt 0

/-- An event that sets sticky flag `f` and counts for device-wide vector `vec` (Table 19.8). -/
def State.stickIrq (s : State) (f : Fld) (vec : Nat) : State := (s.stick f).irq vec

/-! ### CRC -/

/-- One bit step of a reflected CRC-32 with polynomial `poly`. -/
def crcBit (poly : BitVec 32) (c : BitVec 32) : BitVec 32 :=
  if c.getLsbD 0 then (c >>> 1) ^^^ poly else c >>> 1

/-- One byte step of a reflected CRC-32. -/
def crcByte (poly : BitVec 32) (c : BitVec 32) (b : BitVec 8) : BitVec 32 :=
  (List.range 8).foldl (fun c _ => crcBit poly c) (c ^^^ b.setWidth 32)

/-- CRC-32C (Castagnoli) of a byte string, continued from state `c` (0xFFFF_FFFF at the start). -/
def crc32cFrom (c : BitVec 32) (l : List (BitVec 8)) : BitVec 32 := l.foldl (crcByte 0x82F63B78) c

/-- CRC-32C of a byte string. -/
def crc32c (l : List (BitVec 8)) : Nat := (~~~ (crc32cFrom 0xFFFFFFFF l)).toNat

/-- CRC-32 of IEEE 802.3 of a byte string. -/
def crc32 (l : List (BitVec 8)) : Nat := (~~~ (l.foldl (crcByte 0xEDB88320) (0xFFFFFFFF : BitVec 32))).toNat

/-! ### The memories -/

/-- `n` bytes of `v`, highest byte first. -/
def beBytes (n v : Nat) : List (BitVec 8) := (leBytes n v).reverse

/-- A frame with its FCS, padded to 60 bytes before it (IEEE 802.3). -/
def withFcs (f : List (BitVec 8)) : List (BitVec 8) :=
  let f := f ++ List.replicate (60 - f.length) 0
  f ++ leBytes 4 (crc32 f)

/-- What a byte of device memory that nothing has written reads as: zero (R76). -/
def zeroByte (_ : Nat) : BitVec 8 := 0

/-- The size of a device memory: SRAM 1 GiB, HBM 144 GiB, STAGE 8 MiB (R14). -/
def spaceSize : Nat → Nat
  | 1 => 0x40000000
  | 2 => 144 * 0x40000000
  | 3 => 0x800000
  | _ => 0

/-- The cells of a device memory: 1 SRAM, 2 HBM, 3 STAGE. -/
def Mem.cells (m : Mem) : Nat → List Host.Cell
  | 1 => m.sram
  | 2 => m.hbm
  | _ => m.stage

/-- A device memory with other cells. -/
def Mem.setCells (m : Mem) (sp : Nat) (c : List Host.Cell) : Mem :=
  match sp with
  | 1 => { m with sram := c }
  | 2 => { m with hbm := c }
  | _ => { m with stage := c }

/-- The canonical form of the three memories: keys rising, no listed zero. -/
def Mem.wf (m : Mem) : Bool := spWf zeroByte m.sram && spWf zeroByte m.hbm && spWf zeroByte m.stage

/-- One byte of a device memory. -/
def Mem.byte (m : Mem) (sp a : Nat) : BitVec 8 := spGet zeroByte (m.cells sp) a

/-- Put one byte into a device memory. -/
def Mem.putByte (m : Mem) (sp a : Nat) (b : BitVec 8) : Mem := m.setCells sp (spSet zeroByte (m.cells sp) a b)

/-- Put cells into a device memory, one after the other. -/
def Mem.putCells (m : Mem) (sp : Nat) (l : List Host.Cell) : Mem := l.foldl (fun m c => m.putByte sp c.1 c.2) m

/-- The bytes `a` to `a + n − 1` of a device memory, without ECC effects. -/
def Mem.bytes (m : Mem) (sp a n : Nat) : List (BitVec 8) := (List.range n).map fun k => m.byte sp (a + k)

/-- Every byte of a range becomes zero (R76, R406). -/
def Mem.zeroRange (m : Mem) (sp a n : Nat) : Mem :=
  { m.setCells sp ((m.cells sp).filter fun c => !(a ≤ c.1 && c.1 < a + n)) with
    ce := m.ce.filter fun w => !(w.1 == sp && a ≤ 8 * w.2 && 8 * w.2 < a + n)
    ue := m.ue.filter fun w => !(w.1 == sp && a ≤ 8 * w.2 && 8 * w.2 < a + n) }

/-- The 8-byte words a list of addresses touches, each once. -/
def wordsOf (l : List Nat) : List Nat := (l.map (· / 8)).eraseDups

/-- Append a fault record of 64 bytes (Table 19.5), or fold it into the newest one of the same cause and unit within
1 ms; a record sends vector 8 (R524, R526). -/
def State.fault (s : State) (cls cause unit status iid da seq trigger : Nat) (detail : List (BitVec 8)) : State :=
  let tail := s.get F.GLB_FLOG_TAIL
  let newest := (kvFind s.errs.flog ((tail + 1023) % 1024)).getD []
  if 0 < tail && !newest.isEmpty && leAt newest 9 1 == cause && leAt newest 10 1 == unit
      && decide (s.cad.time < leAt newest 0 8 + 1000000) then
    let rec' := newest.take 14 ++ leBytes 2 (satAdd 0xFFFF (leAt newest 14 2) 1) ++ newest.drop 16
    { s with errs := { s.errs with flog := kvIns ((tail + 1023) % 1024) rec' s.errs.flog } }
  else
    let r := leBytes 8 s.cad.time ++ leBytes 1 cls ++ leBytes 1 cause ++ leBytes 1 unit ++ leBytes 1 status
      ++ leBytes 2 iid ++ leBytes 2 1 ++ leBytes 8 da ++ leBytes 4 seq ++ leBytes 4 trigger ++ slice detail 0 32
    let s := if 1024 ≤ (tail + 2 ^ 32 - s.get F.GLB_FLOG_HEAD) % 2 ^ 32 then s.stick F.GLB_FLOGOVF_FLOGOVF else s
    let s := { s with errs := { s.errs with flog := kvIns (tail % 1024) r s.errs.flog } }
    (s.set F.GLB_FLOG_TAIL ((tail + 1) % 2 ^ 32)).irq 8

/-- The unit of an agent of Table 14.3 as byte 9 of Table 16.13 gives it: engines, the Awl path, the ports as links, CF, and the
security unit for the debugger (log entry 41). -/
def agentUnit (a : Nat) : Nat :=
  if a < 0x20 then a
  else if a = 0x20 then 0x20
  else if 0x31 ≤ a ∧ a ≤ 0x34 then 0xE0 + (a - 0x31)
  else if a < 0x40 then 0xE0
  else if a < 0x50 then 0xE0 + (a - 0x40)
  else if a < 0x60 then 0x40 else 0xA0

/-- Cause and class of an uncorrectable word (Tables 19.1 and 19.6): in the device-reserved region of tier 0 a plan is class 2
(R146), the trace buffer class 3 and every other structure class 7, since it starts a restart (Table 18.6). -/
def ueKind (sp a : Nat) : Nat × Nat :=
  if sp = 1 ∧ 0x5000000 ≤ a ∧ a < 0x8000000 then
    (0x13, if a < 0x5400000 then 3 else if 0x7000000 ≤ a ∧ a < 0x7C00000 then 2 else 7)
  else (0x0F + sp, 3)

/-- An uncorrectable word found by a read: MEM_UE set, its address and initiator recorded, a fault record written with the status
and SEQ of the command concerned, or zeros (R78, R524). The recorded chip is 0x3F. -/
def State.logUE (s : State) (sp word iid : Nat) (scrub : Bool) (st seq : Nat) : State :=
  let da := sp * 2 ^ 56 + 63 * 2 ^ 50 + 8 * word
  let s := s.stickIrq F.MEM_UE_UE 11
  let s := s.set64 F.MEM_UE_ADDR_LO da
  let s := (s.set F.MEM_UE_INFO_IID iid).set F.MEM_UE_INFO_SCRUB (b2n scrub)
  let k := ueKind sp (8 * word)
  s.fault k.2 k.1 (if k.2 = 7 then 0x40 else agentUnit (iid % 256)) st iid da seq (if k.2 = 7 then 5 else 0) []

/-- The single-bit error of a word is corrected, counted and flagged (R77, R81). -/
def State.correct (s : State) (sp word : Nat) : State :=
  if s.mem.ce.contains (sp, word) then
    let s := { s with mem := { s.mem with ce := s.mem.ce.filter (· != (sp, word)) } }
    (s.bump (if sp = 2 then F.MEM_HBM_CE_COUNT else F.MEM_CE_COUNT) 1).stick F.MEM_CE_CE
  else s

/-- The first word of a list of words that is uncorrectable. -/
def Mem.badWord (m : Mem) (sp : Nat) (ws : List Nat) : Option Nat := ws.find? fun w => m.ue.contains (sp, w)

/-- The ECC effects of reading words: a single-bit error is corrected and counted (R77), an uncorrectable word is logged with the
status and SEQ of the command that reads, or zeros (R78). Every word is met, in address order, also where several are bad
(DESIGN CHOICE, log entry 81). -/
def State.readWords (s : State) (sp : Nat) (ws : List Nat) (iid st seq : Nat) : State :=
  ws.foldl (fun s w => if s.mem.ue.contains (sp, w) then s.logUE sp w iid false st seq else s.correct sp w) s

/-- Read `n` bytes of device memory with the ECC rules of R77 and R78: the bytes, or none where a word is uncorrectable. -/
def State.memRead (s : State) (sp a n iid st seq : Nat) : Option (List (BitVec 8)) × State :=
  let ws := wordsOf ((List.range n).map (a + ·))
  (if (s.mem.badWord sp ws).isSome then none else some (s.mem.bytes sp a n), s.readWords sp ws iid st seq)

/-- Read memory for a unit to which the spec gives no effect of an uncorrectable word beyond its log: the bytes read are then free. -/
def State.memReadFree (s : State) (sp a n iid : Nat) : List (BitVec 8) × State :=
  match s.memRead sp a n iid 0 0 with
  | (some b, s) => (b, s)
  | (none, s) => (((List.range (n / 8 + 1)).flatMap fun _ => leBytes 8 s.freeVal.toNat).take n, s.draw)

/-- Drop one sector of the weight cache, with the error it may show (R88, R91). -/
def Mem.wcDrop (m : Mem) (line sector : Nat) : Mem :=
  { m with
    wc := m.wc.map fun l => if l.line = line then { l with sectors := putBit l.sectors sector false } else l
    wcBad := m.wcBad.filter (· != (line, sector)) }

/-- Invalidate the weight-cache sector of an HBM address (R88). -/
def Mem.wcInvalidate (m : Mem) (a : Nat) : Mem := m.wcDrop (a / 4096) (a % 4096 / 256)

/-- Write the cells of one aligned 8-byte word: a whole word replaces it with valid ECC, a part of one merges, and a
part of an uncorrectable word is discarded (R77, R79). -/
def State.writeWord (s : State) (sp word : Nat) (cells : List Host.Cell) : State :=
  let whole := (List.range 8).all fun k => cells.any fun c => c.1 == 8 * word + k
  if whole then
    let m := { s.mem with ce := s.mem.ce.filter (· != (sp, word)), ue := s.mem.ue.filter (· != (sp, word)) }
    { s with mem := m.putCells sp cells }
  else if s.mem.ue.contains (sp, word) then s
  else
    let s := s.correct sp word
    { s with mem := s.mem.putCells sp cells }

/-- Commit cells to a device memory, with its ECC rules and, for HBM, the invalidation of weight-cache sectors
before the commit (R74, R77, R79, R88). Addresses beyond the space are not written. -/
def State.memWrite (s : State) (sp : Nat) (cells : List Host.Cell) : State :=
  let cells := cells.filter fun c => c.1 < spaceSize sp
  let s := if sp = 2 then { s with mem := cells.foldl (fun m c => m.wcInvalidate c.1) s.mem } else s
  (wordsOf (cells.map (·.1))).foldl (fun s w => s.writeWord sp w (cells.filter fun c => c.1 / 8 == w)) s

/-- Cells of consecutive bytes from address `a`. -/
def cellsAt (a : Nat) (l : List (BitVec 8)) : List Host.Cell := (List.range l.length).map fun k => (a + k, l.getD k 0)

/-! ### Memory outside the block (log entry 7) -/

/-- Key of outside memory: space 0 is the host, space l + 1 the memory behind AP link l. -/
def extKey (space a : Nat) : Nat := a % 2 ^ 64 + space * 2 ^ 64

/-- A byte of outside memory: what was last written there, else a free byte. -/
def State.extByte (s : State) (space a : Nat) : BitVec 8 :=
  (kvFind s.ext (extKey space a)).getD (Config.outsideByte space a)

/-- Put bytes into outside memory. -/
def State.extWrite (s : State) (space a : Nat) (l : List (BitVec 8)) : State :=
  { s with ext := (cellsAt a l).foldl (fun e c => kvIns (extKey space c.1) c.2 e) s.ext }

/-- Bytes of outside memory. -/
def State.extBytes (s : State) (space a n : Nat) : List (BitVec 8) := (List.range n).map fun k => s.extByte space (a + k)

/-! ### Trace records (R462 to R466) -/

/-- The trace unit's records of one pass through its buffer. -/
def traceSlots : Nat := 131072

/-- Write one 32-byte trace record into the buffer at its place, in whole words (R79), and count it (R462, R463). -/
def State.tracePut (s : State) (r : List (BitVec 8)) : State :=
  let w := s.get F.TRC_WPTR
  let s := s.memWrite 1 (cellsAt (0x5000000 + 32 * (w % traceSlots)) r)
  let s := s.set F.TRC_WPTR ((w + 1) % 2 ^ 32)
  if (w + 1) % traceSlots = 0 && !(s.on F.TRC_CTRL_MODE) then s.bump F.TRC_WRAPS 1 else s

/-- A trace record: TIME, TYPE, UNIT, tenant, queue, node, SEQ, payload (Table 16.13). -/
def traceRecord (time type unit ten seq : Nat) (payload : List (BitVec 8)) : List (BitVec 8) :=
  leBytes 8 time ++ leBytes 1 type ++ leBytes 1 unit ++ leBytes 1 ten ++ leBytes 1 0 ++ leBytes 4 seq ++ slice payload 0 16

/-- Trace records that T0 has not read. -/
def State.traceUsed (s : State) : Nat := (s.get F.TRC_WPTR + 2 ^ 32 - s.get F.TRC_RPTR) % 2 ^ 32

/-- An event is lost for want of space (R463). -/
def State.traceDrop (s : State) : State :=
  (({ s with errs := { s.errs with traceLost := s.errs.traceLost + 1 } } : State).bump F.TRC_LOST 1).stickIrq F.TRC_OVF_OVF 18

/-- The OVERFLOW record of the events lost, if any were (R463). -/
def State.traceOverflow (s : State) : State :=
  { s.tracePut (traceRecord s.cad.time 0x0B 0 0 0 (leBytes 4 (min s.errs.traceLost 0xFFFFFFFF))) with
    errs := { s.errs with traceLost := 0 } }

/-- In STOP mode no record is written while T0 has not read a whole buffer of them (R463). -/
def State.traceFull (s : State) : Bool := s.on F.TRC_CTRL_MODE && decide (traceSlots ≤ s.traceUsed)

/-- An event the filters let through: lost without space; an OVERFLOW record precedes the first record after a loss. -/
def State.traceEvent (s : State) (r : List (BitVec 8)) : State :=
  if s.traceFull then s.traceDrop
  else if s.errs.traceLost = 0 then s.tracePut r
  else if s.traceOverflow.traceFull then s.traceOverflow.traceDrop else s.traceOverflow.tracePut r

/-- An event for the trace unit, filtered by type and tenant before it is counted (R462, R463); the clock of the buffer is
stopped in S2 and S3 (R466). `ten` is byte 10 of the record. -/
def State.trace (s : State) (type unit ten seq : Nat) (payload : List (BitVec 8)) : State :=
  if !(s.on F.TRC_CTRL_EN) || decide (2 ≤ s.get F.PWR_STATUS_STATE) then s
  else if !(bit (s.rd F.TRC_TYPEMASK.addr) type) || !(bit (s.get F.TRC_TENMASK) (ten % 16)) then s
  else s.traceEvent (traceRecord s.cad.time type unit ten seq payload)

/-! ### The last-words record (R525) -/

/-- Rewrite the last-words record of the always-on island (Table 19.7). -/
def State.lastWords (s : State) (cause core pc sp : Nat) : State :=
  let writes := (s.rd 0x104 + 1) % 2 ^ 32
  let body := leBytes 2 0x4C57 ++ leBytes 1 1 ++ leBytes 1 cause ++ leBytes 4 writes ++ leBytes 8 s.cad.time
    ++ leBytes 4 (s.get F.FW_CF_VERSION) ++ leBytes 4 (s.get F.FW_LF_VERSION)
    ++ leBytes 1 (s.get F.PWR_STATUS_STATE) ++ leBytes 1 (s.get F.LPE_STATUS_STATE) ++ leBytes 1 (s.get F.PWR_TJ_NOW)
    ++ leBytes 1 core ++ leBytes 8 pc ++ leBytes 4 sp ++ leBytes 4 (s.get F.FW_RESTARTS)
    ++ leBytes 4 (s.get F.GLB_FLOG_TAIL) ++ leBytes 8 (s.get64 F.MEM_UE_ADDR_LO) ++ leBytes 4 0
  let all := body ++ leBytes 4 (crc32c body)
  (List.range 16).foldl (fun s k => s.wr (0x100 + 4 * k) (leAt all (4 * k) 4)) s

/-- A reset of any kind closes an open update session; its slot stays INVALID (R223). -/
def State.closeSession (s : State) : State :=
  ((({ s with boot := { s.boot with session := none } } : State).set F.FW_SESSION_OPEN 0).set F.FW_SESSION_SLOT 0).set F.FW_SESSION_KIND 0
    |>.set F.FW_SESSION_BYTES 0

/-! ### Rack time -/

/-- The 7-day bound of Table 2.5 in ns for the configured oscillator class. -/
def State.weekBound (s : State) : Nat := if s.on F.CAD_HOLD_OSC then 200000 else 2000000

/-- The error bound in HOLDOVER: the holdover model's for the time passed, saturating, and never less than shown before;
HOLD_IN_SPEC says whether it is within the 7-day bound (R69). The model's bound is an opaque function (log entry 13). While
TCXO_IN is lost no model applies and the bound is saturated (R539). -/
def State.holdRefresh (s : State) : State :=
  if s.get F.CAD_STATUS_SOURCE = 5 then
    let e := if s.boot.tcxoLost then 0xFFFFFFFF else max (s.get F.CAD_HOLD_ERR)
      (min 0xFFFFFFFF (Config.holdBound (s.on F.CAD_HOLD_OSC) s.cad.model (s.cad.time - s.cad.holdSince)))
    (s.set F.CAD_HOLD_ERR e).set F.CAD_STATUS_HOLD_IN_SPEC (b2n (decide (e ≤ s.weekBound)))
  else s

/-- Phase correction of `dt` ns of slewing at CAD_SLEW.MAX_PPM: what is left of it, and the part of a ns, in 10⁻⁶, worked off
beyond that (R37). -/
def Cad.slewBy (c : Cad) (dt ppm : Nat) : Int × Nat :=
  let room := c.slewPart + dt * ppm
  let whole : Int := ((room / 1000000 : Nat) : Int)
  let left : Int := if 0 ≤ c.slew then max 0 (c.slew - whole) else min 0 (c.slew + whole)
  (left, if left = 0 then 0 else room % 1000000)

/-- Rack time moves forward to `t`; it never decreases, and it pauses while a joining follower holds it (R36, R47).
A slew in progress is worked off at no more than CAD_SLEW.MAX_PPM (R37), and the bound of a holdover grows (R69). -/
def State.advance (s : State) (t : Nat) : State :=
  if s.cad.joinHold || t ≤ s.cad.time then s
  else
    let left := s.cad.slewBy (t - s.cad.time) (s.get F.CAD_SLEW_MAX_PPM)
    let s := { s with cad := { s.cad with time := t, slew := left.1, slewPart := left.2 } }
    (s.set F.CAD_STATUS_SLEWING (b2n (left.1 != 0))).holdRefresh

end Sys2Proof.Machine
end

