-- ==== Sys2Proof/Machine/Operands.lean ====
section
/-! DEFINITION. Operand forms: device addresses (R13, R14), chips and routing (R342), allocation, host and P2P windows
(R100, R392, R394), Bridle (R399 to R401), descriptors and facets (R94 to R112), handles (R113), views (R117 to R124),
and the packet header (Table 6.1). -/
namespace Sys2Proof.Machine

/-! ### Status codes (Table 6.6) -/

def stDONE : Nat := 0x00
def stDONE_WARN : Nat := 0x01
def stLATE : Nat := 0x02
def stREJ_FORMAT : Nat := 0x10
def stREJ_BOUNDS : Nat := 0x11
def stREJ_PERM : Nat := 0x12
def stREJ_QUOTA : Nat := 0x13
def stREJ_HANDLE : Nat := 0x14
def stREJ_FIT : Nat := 0x15
def stREJ_ALIAS : Nat := 0x16
def stREJ_COMPAT : Nat := 0x17
def stREJ_BUSY : Nat := 0x18
def stABORT_RESET : Nat := 0x20
def stABORT_TIMEOUT : Nat := 0x21
def stABORT_CTX : Nat := 0x22
def stABORT_SAFETY : Nat := 0x23
def stABORT_LINK : Nat := 0x24
def stFAULT_ECC : Nat := 0x30
def stFAULT_LINK : Nat := 0x31
def stFAULT_INTERNAL : Nat := 0x32

/-! ### Device addresses (Table 0.5) -/

/-- SPACE of a device address. -/
def daSpace (d : Nat) : Nat := bitsOf d 56 8
/-- CHIP of a device address. -/
def daChip (d : Nat) : Nat := bitsOf d 50 6
/-- OFFSET of a device address. -/
def daOff (d : Nat) : Nat := d % 2 ^ 50

/-- A chip field names this device: 0x3F, or its own chip ID (R13, R14). -/
def State.isLocal (s : State) (c : Nat) : Bool := c == 0x3F || c == s.get F.REI_ID_CHIP

/-- Word `w` of entry `e` of routing table `n` (12 is the origin table, Table 12.7). -/
def State.route (s : State) (n e w : Nat) : Nat := s.rd (0x281000 + 0x200 * n + 8 * e + 4 * w)

/-- A routing entry matches a destination: VALID, and DEST AND MASK = VALUE AND MASK (R342). -/
def routeHit (w0 dest : Nat) : Bool :=
  bit w0 31 && (dest &&& bitsOf w0 8 6) == (bitsOf w0 0 6 &&& bitsOf w0 8 6)

/-- Number of bits set among the low 6. -/
def pop6 (m : Nat) : Nat := ((List.range 6).filter fun i => bit m i).length

/-- The entry that applies to a destination: most MASK bits, lowest number among equals, and whether another entry
matches equally (R17, R342). -/
def State.routeFor (s : State) (n dest : Nat) : Option (Nat × Bool) :=
  let hits := (List.range 64).filter fun e => routeHit (s.route n e 0) dest
  let best := hits.foldl (fun b e => max b (pop6 (bitsOf (s.route n e 0) 8 6))) 0
  match hits.filter fun e => pop6 (bitsOf (s.route n e 0) 8 6) == best with
  | [] => none
  | e :: t => some (e, !t.isEmpty)

/-- A chip ID is absent from the rack domain's routing tables (R14). -/
def State.chipAbsent (s : State) (c : Nat) : Bool := !(s.isLocal c) && (s.routeFor 12 c).isNone

/-- The SPACE value is one of Table 0.5. -/
def spaceValid (sp : Nat) : Bool := 1 ≤ sp && sp ≤ 6

/-! ### Where an offset lies (R72, R82, R83) -/

/-- The place of an SRAM byte (Table 3.1). -/
structure SramPlace where
  tier : Nat
  row : Nat
  bank : Nat
  byte : Nat
  deriving DecidableEq, Repr

/-- R72: an SRAM offset decomposed. -/
def sramPlace (off : Nat) : SramPlace := ⟨bitsOf off 27 3, bitsOf off 13 14, bitsOf off 5 8, bitsOf off 0 5⟩

/-- The place of an HBM granule (R83). -/
structure HbmPlace where
  stack : Nat
  channel : Nat
  pseudo : Nat
  address : Nat
  deriving DecidableEq, Repr

/-- The pseudo-channel, 0 to 127, of an HBM offset: its granule index with every further 7-bit field folded in (R83). -/
def hbmPseudo (off : Nat) : Nat :=
  let g := off / 256
  (g ^^^ (g >>> 7) ^^^ (g >>> 14) ^^^ (g >>> 21) ^^^ (g >>> 28)) % 128

/-- R83: stack, channel, pseudo-channel within the channel, and address within the pseudo-channel of an HBM offset. -/
def hbmPlace (off : Nat) : HbmPlace :=
  let p := hbmPseudo off
  ⟨bitsOf p 5 2, bitsOf p 1 4, bitsOf p 0 1, off / 256 >>> 7⟩

/-- Number of 256-byte granules of HBM: 128 pseudo-channels of 4,718,592 (R83). -/
def hbmGranules : Nat := 128 * 4718592

/-- R82: the engine and the byte in its staging buffer that a STAGE offset names. -/
def stagePlace (off : Nat) : Nat × Nat := (bitsOf off 18 5, bitsOf off 0 18)

/-! ### Host windows and P2P windows -/

/-- The 4 KiB pages a byte range touches. -/
def pagesOf (off n : Nat) : List Nat := if n = 0 then [] else (List.range ((off + n - 1) / 4096 - off / 4096 + 1)).map (off / 4096 + ·)

/-- The host window of a tenant that maps HOST page `p` (R392). -/
def State.hwinAt (s : State) (t p : Nat) : Option Nat :=
  (List.range 16).find? fun k => s.on (F.TP_HWIN_VALID t k) &&
    decide (s.get (F.TP_HWIN_OFFSET t k) ≤ p) && decide (p < s.get (F.TP_HWIN_OFFSET t k) + s.get (F.TP_HWIN_SIZE t k))

/-- The P2P window of a tenant that maps APORT page `p` (R394). -/
def State.p2pAt (s : State) (t p : Nat) : Option Nat :=
  (List.range 64).find? fun w => s.on (F.TEN_P2P_VALID w) && s.get (F.TEN_P2P_TENANT w) == t &&
    decide (s.get (F.TEN_P2P_OFFSET w) ≤ p) && decide (p < s.get (F.TEN_P2P_OFFSET w) + s.get (F.TEN_P2P_SIZE w))

/-- Every byte of a HOST (4) or APORT (5) range lies in a valid window of the tenant (R14, R392, R394). -/
def State.extInside (s : State) (t sp off n : Nat) : Bool :=
  (pagesOf off n).all fun p => if sp = 4 then (s.hwinAt t p).isSome else (s.p2pAt t p).isSome

/-- Every window the range touches grants W (`wr`) or R. -/
def State.extGrants (s : State) (t sp off n : Nat) (wr : Bool) : Bool :=
  (pagesOf off n).all fun p =>
    if sp = 4 then
      match s.hwinAt t p with
      | some k => s.on (if wr then F.TP_HWIN_W t k else F.TP_HWIN_R t k)
      | none => false
    else
      match s.p2pAt t p with
      | some w => s.on (if wr then F.TEN_P2P_W w else F.TEN_P2P_R w)
      | none => false

/-- Where a HOST or APORT byte lies outside: outside space (0 host, l + 1 AP link l) and PCIe address. -/
def State.extAddr (s : State) (t sp off : Nat) : Option (Nat × Nat) :=
  if sp = 4 then
    (s.hwinAt t (off / 4096)).map fun k =>
      (0, s.get64 (F.TP_HWIN_PADDR t k 0) + (off - 4096 * s.get (F.TP_HWIN_OFFSET t k)))
  else
    (s.p2pAt t (off / 4096)).map fun w =>
      (s.get (F.TEN_P2P_LINK w) + 1, s.get64 (F.TEN_P2P_PADDR w 0) + (off - 4096 * s.get (F.TEN_P2P_OFFSET w)))

/-- What the host last wrote to a configuration register of a function, or its reset value (log entry 22). -/
def State.cfgKept (s : State) (f reg : Nat) : Nat :=
  match s.pcie.cfgRegs.find? fun (x : Nat × Nat × Nat) => x.1 == f && x.2.1 == reg with
  | some x => x.2.2
  | none => (Config.cfgReset f reg).toNat

/-- ATS is enabled on a function: Enable of the ATS Control register (PRESUMED from the PCIe base specification, log entry 91). -/
def State.atsOn (s : State) (f : Nat) : Bool := bit (s.cfgKept f (Config.atsCap + 1)) 31

/-- A Secure IDE stream of a port (0 the HP, l + 1 AP link l) covers a request to an address: the link stream, else a selective
stream whose address association holds it (R389, log entry 91). -/
def State.ideCovers (s : State) (port a : Nat) : Bool :=
  (if port = 0 then s.pcie.ideHp else bit s.pcie.ideAp (port - 1))
    || s.pcie.ideSel.any fun (x : Nat × Nat) => x.1 == port && Config.ideAssoc port x.2 a

/-- A request of a tenant to an outside place (0 the host, l + 1 AP link l, and an address) fails in a way the device sees: there is
none, the link is down, Bus Master Enable is 0, the translation does not allow it, or IDE is required and no Secure stream covers
it (R388, R389, R391, R393). -/
def State.outFails (s : State) (t : Nat) (wr : Bool) (p : Option (Nat × Nat)) : Bool :=
  match p with
  | none => true
  | some (0, a) => !(bit s.pcie.bme t) || !s.pcie.hpUp || (s.atsOn t && s.pcie.atsRefused.contains (t, a / 4096, wr))
      || (s.on F.TEN_HP_IDE_REQ && !(s.ideCovers 0 a))
  | some (l + 1, a) => !(s.on (F.TEN_APL_UP l)) || (bit (s.get F.TEN_AP_IDE_REQ) l && !(s.ideCovers (l + 1) a))

/-- A request of a tenant to a HOST or APORT offset, through the windows as they are, fails in a way the device sees. -/
def State.extFails (s : State) (t sp off : Nat) (wr : Bool) : Bool := s.outFails t wr (s.extAddr t sp off)

/-- The translations of the pages of host addresses that a function uses are in the cache of 1,024 (R385, R388). -/
def State.atsUse (s : State) (t : Nat) (as : List Nat) : State :=
  if s.atsOn t then
    let new := ((as.map (· / 4096)).eraseDups.map fun p => (t, p)).filter fun x => !(s.pcie.ats.contains x)
    { s with pcie := { s.pcie with ats := (s.pcie.ats ++ new).drop (s.pcie.ats.length + new.length - 1024) } }
  else s

/-! ### Bridle -/

/-- A class of agents (Table 14.3). -/
def clsENGINE : Nat := 0
def clsAWL : Nat := 1
def clsHOST : Nat := 2
def clsAPORT : Nat := 3
def clsINGEST : Nat := 4
def clsREIN : Nat := 5
def clsFIRMWARE : Nat := 6
def clsSYSTEM : Nat := 7

/-- Word `w` of region `r` of firewall `f` (Table 14.4). -/
def State.region (s : State) (f r w : Nat) : Nat := s.get (F.BRD_REG f r w)

/-- The region that decides a 4 KiB unit: highest PRIO, lowest number among equals, and whether another matches equally
(R17, R401). -/
def State.regionFor (s : State) (f u : Nat) : Option (Nat × Bool) :=
  let hits := (List.range 256).filter fun r =>
    bit (s.region f r 3) 31 && decide (s.region f r 0 ≤ u) && decide (u ≤ s.region f r 1)
  let best := hits.foldl (fun b r => max b (bitsOf (s.region f r 3) 8 8)) 0
  match hits.filter fun r => bitsOf (s.region f r 3) 8 8 == best with
  | [] => none
  | r :: t => some (r, !t.isEmpty)

/-- Whether firewall `f` allows tenant `t` with class `cls` to read or write unit `u` (R401). -/
def State.unitAllowed (s : State) (f u t cls : Nat) (wr : Bool) : Bool :=
  match s.regionFor f u with
  | none => false
  | some (r, _) => bit (bitsOf (s.region f r 2) (if wr then 16 else 0) 16) t && bit (s.region f r 3) cls

/-- The Bridle check of a list of units: whether all are allowed, with MULTI for equal matches and DENY for the first
denied unit (R401, R402). -/
def State.bridle (s : State) (f t agent cls : Nat) (wr : Bool) (units : List Nat) : Bool × State :=
  let multi := units.any fun u => match s.regionFor f u with | some (_, b) => b | none => false
  let s := if multi then s.stick (F.BRD_MULTI_MULTI f) else s
  match units.find? fun u => !(s.unitAllowed f u t cls wr) with
  | none => (true, s)
  | some u =>
    let s := s.stick F.BRD_DENY_DENY
    let s := (s.set F.BRD_DENY_INFO_IID (256 * t + agent)).set F.BRD_DENY_INFO_FIREWALL f
    (false, s.set F.BRD_DENY_INFO_UNIT u)

/-- The firewall of a space: BRD 0 SRAM, BRD 1 HBM, BRD 2 CSR; other spaces have none (R400). -/
def brdOf (sp : Nat) : Option Nat := if sp = 1 then some 0 else if sp = 2 then some 1 else if sp = 6 then some 2 else none

/-- The Bridle check of a byte range of a space. -/
def State.bridleRange (s : State) (sp t agent cls : Nat) (wr : Bool) (off n : Nat) : Bool × State :=
  match brdOf sp with
  | none => (true, s)
  | some f => s.bridle f t agent cls wr (pagesOf off n)

/-! ### Windows -/

/-- The ingest buffer: base and size (64 MiB units, Table 3.9). -/
def State.ingestRange (s : State) : Nat × Nat := (0x4000000 * s.get F.MEM_INGEST_BASE, 0x4000000)

/-- The weight cache's size in bytes for a value of MEM_WC.SIZE (Table 3.5). -/
def wcBytes : Nat → Nat
  | 1 => 0x2000000 | 2 => 0x4000000 | 3 => 0x8000000 | 4 => 0x10000000 | _ => 0

/-- Two byte ranges overlap. -/
def rangesMeet (a n b m : Nat) : Bool := 0 < n && 0 < m && a < b + m && b < a + n

/-- An SRAM range overlaps a device-internal range: the reserved region, the ingest buffer or the weight cache,
at its size in force and at the size a resize in progress will apply (R75, R86). -/
def State.internal (s : State) (a n : Nat) : Bool :=
  rangesMeet a n 0x5000000 0x3000000 || rangesMeet a n s.ingestRange.1 s.ingestRange.2
    || rangesMeet a n (0x40000000 - wcBytes (s.get F.MEM_WC_SIZE)) (wcBytes (s.get F.MEM_WC_SIZE))
    || rangesMeet a n (0x40000000 - wcBytes (s.mem.resize.getD 0)) (wcBytes (s.mem.resize.getD 0))

/-- The slot of a window ID; a slot nothing has used has generation 0 and no window. -/
def State.winSlot (s : State) (id : Nat) : WinSlot := (kvFind s.wins id).getD ⟨0, none⟩

/-- A live window under the generation named, owned by the tenant (R102, R111). -/
def State.window (s : State) (t id gen : Nat) : Option Window :=
  let sl := s.winSlot id
  match sl.win with
  | some w => if sl.gen == gen && w.owner == t then some w else none
  | none => none

/-- A byte range of a space lies within a window and outside every device-internal range (R111). -/
def State.insideWindow (s : State) (w : Window) (sp off n : Nat) : Bool :=
  w.space == sp && decide (w.base ≤ off) && decide (off + n ≤ w.base + w.size) && decide (off + n ≤ spaceSize sp)
    && !(sp == 1 && s.internal off n)

/-! ### Facets (Table 3.7) -/

/-- The parameters A, W, Y of a predefined facet code. -/
def facetTable : Nat → Nat × Nat × Nat
  | 0x01 => (4, 1, 7) | 0x02 => (4, 2, 7) | 0x03 => (4, 3, 7) | 0x04 => (4, 4, 8) | 0x05 => (5, 3, 8)
  | 0x06 => (5, 4, 9) | 0x07 => (5, 6, 11) | 0x08 => (6, 3, 9) | 0x09 => (6, 5, 13) | 0x0A => (2, 5, 7)
  | 0x0B => (1, 5, 6) | 0x0C => (0, 5, 5) | 0x0D => (4, 3, 10) | 0x0E => (4, 3, 11) | 0x0F => (8, 5, 13)
  | _ => (0, 0, 0)

/-- The facet parameters a code selects for a tenant, or none for a reserved code or a register without VALID
(R96, R97). -/
def State.facetOf (s : State) (t code : Nat) : Option (Nat × Nat × Nat) :=
  if code ≤ 0x0F then some (facetTable code)
  else if code ≤ 0x13 then
    let k := code - 0x10
    if s.on (F.MEM_FACET_VALID t k) then some (s.get (F.MEM_FACET_A t k), s.get (F.MEM_FACET_W t k), s.get (F.MEM_FACET_Y t k))
    else none
  else none

/-- The first three conditions of R95. -/
def facetParamsOk (a w y : Nat) : Bool :=
  decide (a ≤ 8) && decide (w ≤ 7) && decide (a + w ≤ y) && decide (y ≤ 24) && decide (a + w ≤ 13)
    && (decide (6 ≤ a) || decide (a + w ≤ 11))

/-- The key of the block of linear byte offset `l`: the bits that its atoms are exchanged by (R94, R132). -/
def facetKey (w y l : Nat) : Nat := (l % 2 ^ 64) >>> y % 2 ^ w

/-- R94: the placed offset of linear byte offset `l`, as a 64-bit two's-complement number. -/
def facetXor (a w y l : Nat) : Nat := if w = 0 then l % 2 ^ 64 else (l % 2 ^ 64) ^^^ (facetKey w y l <<< a)

/-- The placed byte offset, from the space's start, of linear byte offset `l` of a descriptor's elements (R94). -/
def Desc.place (d : Desc) (l : Int) : Nat := (daOff d.base + facetXor d.fA d.fW d.fY (unsigned 64 l)) % 2 ^ 50

/-! ### Descriptors (Table 4.1) -/

/-- The descriptor fields of 128 submitted bytes; the facet parameters are filled in at creation. -/
def parseDesc (b : List (BitVec 8)) : Desc where
  base := leAt b 0 8
  dtype := bitsOf (leAt b 8 1) 0 4
  rank := bitsOf (leAt b 9 1) 0 4
  facet := leAt b 10 1
  fA := 0
  fW := 0
  fY := 0
  flags := leAt b 11 1
  window := leAt b 12 2
  gen := leAt b 14 2
  size := (List.range 8).map fun k => leAt b (16 + 4 * k) 4
  stride := (List.range 8).map fun k => signed 48 (leAt b (48 + 6 * k) 6)
  scale := leAt b 96 8
  len := 0
  inj := false
  utag := leAt b 112 8
  hand := false

/-- A reserved field of a submitted descriptor is non-zero; EXTENT is ignored as submitted (R4, R106). -/
def descReserved (b : List (BitVec 8)) : Bool :=
  bitsOf (leAt b 8 1) 4 4 != 0 || bitsOf (leAt b 9 1) 4 4 != 0 || bitsOf (leAt b 11 1) 2 6 != 0 || leAt b 120 8 != 0

def Desc.sz (d : Desc) (k : Nat) : Nat := d.size.getD k 0
def Desc.st (d : Desc) (k : Nat) : Int := d.stride.getD k 0
def Desc.writable (d : Desc) : Bool := bit d.flags 0
def Desc.cacheHint (d : Desc) : Bool := bit d.flags 1

/-- The spaces whose descriptors name no allocation window (R103). -/
def windowless (sp : Nat) : Bool := sp == 3 || sp == 4 || sp == 5 || sp == 6

/-- Packing and MX rules and base alignment (R108 to R110). -/
def Desc.packingOk (d : Desc) : Bool :=
  let others (m : Int) := (List.range 8).all fun k => k == 0 || d.st k % m == 0
  (if isFP6 d.dtype then d.st 0 == 1 && d.sz 0 % 4 == 0 && others 4
   else if isMX d.dtype then d.st 0 == 1 && d.sz 0 % 32 == 0 && others 32 else true)
  && (isMX d.dtype || d.scale == 0)
  && (if elemBits d.dtype = 16 then daOff d.base % 2 == 0 else if elemBits d.dtype = 32 then daOff d.base % 4 == 0 else true)

/-- Step 1 of desc_create: the format checks in their order (R111). -/
def State.descFormatOk (s : State) (t : Nat) (b : List (BitVec 8)) (d : Desc) : Bool :=
  !(descReserved b) && decide (1 ≤ d.rank) && decide (d.rank ≤ 8)
  && ((List.range 8).all fun k => if k < d.rank then d.sz k != 0 else d.sz k == 0 && d.st k == 0)
  && d.packingOk
  && (match s.facetOf t d.facet with
      | none => false
      | some (a, w, y) =>
        d.facet == 0 || (facetParamsOk a w y && (decide (elemBits d.dtype < 8) || decide (elemBytes d.dtype ≤ 2 ^ a))
          && d.base % 2 ^ (a + w) == 0))
  && !(d.cacheHint && daSpace d.base != 2)
  && !(windowless (daSpace d.base) && (d.window != 0xFFFF || d.gen != 0))

/-- The least and the greatest element offset, and the number of elements; none where a span or the count is too large
(step 4 of desc_create). -/
def Desc.reach (d : Desc) : Option (Int × Int × Nat) :=
  (List.range d.rank).foldl (fun acc k =>
    match acc with
    | none => none
    | some (lo, hi, n) =>
      let span := d.st k * ((d.sz k : Int) - 1)
      if (2 ^ 50 : Nat) ≤ span.natAbs then none
      else
        let lo := if span < 0 then lo + span else lo
        let hi := if span < 0 then hi else hi + span
        if 2 ^ 48 ≤ n * d.sz k then none else some (lo, hi, n * d.sz k)) (some (0, 0, 1))

/-- The linear byte offset of the first byte of element offset `e` (R108): the FP6 group's first byte, the nibble's
byte. -/
def firstByte (dt : Nat) (e : Int) : Int :=
  if isFP6 dt then 3 * (e / 4) else if is4bit dt then e / 2 else e * (elemBytes dt : Nat)

/-- The linear byte offset of the last byte of element offset `e`. -/
def lastByte (dt : Nat) (e : Int) : Int :=
  if isFP6 dt then 3 * (e / 4) + 2 else if is4bit dt then e / 2 else e * (elemBytes dt : Nat) + (elemBytes dt : Nat) - 1

/-- A byte span rounded out to whole facet blocks (R99). -/
def Desc.blocks (d : Desc) (lo hi : Int) : Int × Int :=
  if d.facet = 0 then (lo, hi)
  else
    let b : Int := (2 ^ (d.fA + d.fW) : Nat)
    (lo / b * b, hi / b * b + b - 1)

/-- Insert by rising absolute stride. -/
def insByStride (x : Int × Nat) : List (Int × Nat) → List (Int × Nat)
  | [] => [x]
  | y :: t => if x.1.natAbs ≤ y.1.natAbs then x :: y :: t else y :: insByStride x t

/-- The injectivity test of the linear layout (R112). -/
def Desc.injective (d : Desc) : Bool :=
  let dims := (List.range d.rank).filterMap fun k => if 1 < d.sz k then some (d.st k, d.sz k) else none
  let r := (dims.foldl (fun l x => insByStride x l) []).foldl (fun (acc : Bool × Nat) x =>
    if x.1.natAbs ≤ acc.2 then (false, acc.2) else (acc.1, acc.2 + x.1.natAbs * (x.2 - 1))) (true, 0)
  r.1

/-- The range of a descriptor's extent inside its space: first byte and length; negative starts give none. -/
def extentRange (base : Nat) (lo hi : Int) : Option (Nat × Nat) :=
  let a : Int := (daOff base : Int) + lo
  if a < 0 then none else some (a.toNat, (hi - lo + 1).toNat)

/-- The `inside` of desc_create for one plane: within the window and the space and outside device-internal ranges, or
for HOST and APORT within windows of the tenant, for STAGE and CSR within the space (R14, R103, R111). -/
def State.insidePlane (s : State) (t : Nat) (w : Option Window) (base : Nat) (lo hi : Int) : Bool :=
  match extentRange base lo hi with
  | none => false
  | some (a, n) =>
    match daSpace base with
    | 4 => s.extInside t 4 a n
    | 5 => s.extInside t 5 a n
    | 3 => decide (a + n ≤ spaceSize 3) && daChip base == 0x3F
    | 6 => decide (a + n ≤ 0x2000000)
    | sp => match w with
      | some w => s.insideWindow w sp a n
      | none => false

/-- The 128 bytes of a descriptor with its computed EXTENT over the submitted bytes (R106). -/
def descBytes (b : List (BitVec 8)) (d : Desc) : List (BitVec 8) :=
  slice b 0 104 ++ leBytes 8 (d.len + (if d.inj then 2 ^ 63 else 0)) ++ slice b 112 16

/-! ### Handles (R113) -/

/-- The descriptor slot; one nothing has used has generation 0. -/
def State.descSlot (s : State) (i : Nat) : DescSlot := (kvFind s.descs i).getD ⟨0, none⟩

/-- The descriptor a handle names for a tenant, without the window's generation (R113, R196). -/
def State.handleAny (s : State) (t h : Nat) : Option Desc :=
  let sl := s.descSlot (h % 65536)
  match sl.desc with
  | some (o, d) => if o == t && sl.gen == h / 65536 % 65536 then some d else none
  | none => none

/-- The window of a local SRAM or HBM descriptor is current (R102); a remote one is checked at the named chip (R104). -/
def State.descCurrent (s : State) (t : Nat) (d : Desc) : Bool :=
  windowless (daSpace d.base) || !(s.isLocal (daChip d.base)) || (s.window t d.window d.gen).isSome

/-- The descriptor a valid handle names (R113). -/
def State.handle (s : State) (t h : Nat) : Option Desc :=
  match s.handleAny t h with
  | some d => if s.descCurrent t d then some d else none
  | none => none

/-! ### The packet header (Table 6.1) -/

abbrev Packet := List (BitVec 8)

def pOp (p : Packet) : Nat := leAt p 0 1
def pLen (p : Packet) : Nat := bitsOf (leAt p 1 1) 0 2
def pFlags (p : Packet) : Nat := leAt p 2 2
def pSeq (p : Packet) : Nat := leAt p 4 4
def pUtag (p : Packet) : Nat := leAt p 8 2
def pStream (p : Packet) : Nat := leAt p 10 2
def pLaunch (p : Packet) : Nat := leAt p 16 8

def flDEP (f : Nat) : Bool := bit f 0
def flFENCE (f : Nat) : Bool := bit f 1
def flTICKED (f : Nat) : Bool := bit f 2
def flTIMED (f : Nat) : Bool := bit f 3
def flMIRROR (f : Nat) : Bool := bit f 4
def flLOCK (f : Nat) : Nat := bitsOf f 5 2
def flSIG (f : Nat) : Bool := bit f 7
def flIRQ (f : Nat) : Bool := bit f 8

/-- Firmware-path opcodes (Table 7.1). -/
def isFirmware (op : Nat) : Bool :=
  [0x02, 0x08, 0x09, 0x0A, 0x0C, 0x0D, 0x28, 0x2A, 0x30, 0x34, 0x35, 0x36, 0x38, 0x3C, 0x3D, 0x3E, 0x3F, 0x40].contains op

/-- Engine commands (R232). -/
def isEngineOp (op : Nat) : Bool := 0x10 ≤ op && op ≤ 0x14
/-- Awl commands. -/
def isAwlOp (op : Nat) : Bool := op == 0x18 || op == 0x19
/-- Opcodes marked T0 (Table 7.1). -/
def isT0Op (op : Nat) : Bool :=
  [0x08, 0x09, 0x0A, 0x30, 0x34, 0x35, 0x36, 0x3C, 0x3D, 0x3E, 0x3F, 0x40].contains op
/-- Opcodes new in format 3 (Table 7.1). -/
def isNew3 (op : Nat) : Bool := [0x14, 0x27, 0x2A, 0x41].contains op

/-- The packet lengths of an opcode, as LEN values; none for an unassigned opcode (Table 7.1). -/
def lensOf : Nat → List Nat
  | 0x10 | 0x12 | 0x13 => [1, 2, 3]
  | 0x18 | 0x38 => [1]
  | 0x00 | 0x01 | 0x02 | 0x08 | 0x09 | 0x0A | 0x0C | 0x0D | 0x11 | 0x14 | 0x19 | 0x20 | 0x21 | 0x22 | 0x23 | 0x24
  | 0x25 | 0x26 | 0x27 | 0x28 | 0x29 | 0x2A | 0x30 | 0x34 | 0x35 | 0x36 | 0x3C | 0x3D | 0x3E | 0x3F | 0x40 | 0x41 => [0]
  | _ => []

/-- The mask of FLAGS an opcode accepts, LOCK apart (R183, Table 7.2). -/
def flagsOf (op : Nat) : Nat :=
  0x103 + (if isEngineOp op then 0x9C else if isAwlOp op then 0x8C
    else if op == 0x20 || op == 0x25 || op == 0x26 || op == 0x29 then 0x08 else 0)

/-- The LOCK values an opcode accepts (Table 7.2, R185). -/
def locksOf (op : Nat) : List Nat :=
  if (isEngineOp op && op != 0x14) || isAwlOp op || op == 0x20 then [0, 1, 2, 3]
  else if op == 0x23 then [1] else if op == 0x24 then [3] else [0]

/-! ### Body layouts: the bits of each byte that a layout names (R4, chapter 07) -/

/-- Byte `i` lies in one of the ranges (first byte, number of bytes). -/
def inRanges (i : Nat) (l : List (Nat × Nat)) : Bool := l.any fun r => r.1 ≤ i && i < r.1 + r.2

/-- Ranges of whole bytes an opcode's body names, for a packet of LEN `ln`. -/
def bodyRanges (op ln : Nat) : List (Nat × Nat) :=
  match op with
  | 0x02 => [(24, 2)]
  | 0x08 => [(24, 16)]
  | 0x09 | 0x0A => [(24, 4)]
  | 0x0C => [(24, 12), (36, 1), (40, 12)]
  | 0x0D => [(24, 1), (28, 36)]
  | 0x10 => [(24, 11), (36, 10), (48, 8), (56, if ln = 1 then 60 else if ln = 2 then 120 else 160)]
  | 0x11 => [(24, 18)]
  | 0x12 | 0x13 => [(24, 11), (36, 10), (48, 22), (72, if ln = 1 then 40 else if ln = 2 then 120 else 160)]
  | 0x14 => [(24, 1), (32, 14), (48, 8)]
  | 0x18 => [(24, 12), (36, 1), (40, 56)]
  | 0x19 => [(24, 26), (56, 8)]
  | 0x20 => [(24, 1), (32, 32)]
  | 0x21 => [(24, 1), (28, 28)]
  | 0x22 => [(24, 2), (28, 4)]
  | 0x23 => [(24, 1), (28, 4)]
  | 0x24 => [(24, 1)]
  | 0x25 | 0x26 => [(24, 1), (32, 8)]
  | 0x27 => [(24, 1), (28, 4)]
  | 0x28 => [(24, 1), (28, 6), (36, 12)]
  | 0x29 => [(24, 1), (28, 1), (32, 8)]
  | 0x2A => [(24, 1)]
  | 0x30 => [(24, 1)]
  | 0x34 => [(24, 1)]
  | 0x36 => [(24, 4)]
  | 0x38 => [(24, 46)]
  | 0x3C => [(24, 2), (28, 4)]
  | 0x3D => [(24, 20)]
  | 0x40 => [(24, 1), (26, 4), (32, 12)]
  | 0x41 => [(24, 2)]
  | _ => []

/-- Bytes of which a layout names only some bits: byte and mask. -/
def bodyPartial (op : Nat) : List (Nat × Nat) :=
  match op with
  | 0x08 => [(40, 0x0F), (41, 0x03)]
  | 0x09 => [(28, 0x0F), (29, 0x03)]
  | 0x0C => [(37, 0x01)]
  | 0x10 | 0x12 | 0x13 => [(35, 0x1F)]
  | 0x22 => [(26, 0x3F), (27, 0x01)]
  | 0x23 | 0x24 => [(25, 0x3F)]
  | 0x28 => [(25, 0x01)]
  | _ => []

/-- A byte reserved although its range is named: specs and conditions beyond COUNT, data beyond SIZE, handles beyond
COUNT, the reserved bits inside signal specs and condition blocks (R4, R187, R206, R209, R210). -/
def bodyExtra (op : Nat) (p : Packet) (i : Nat) : Nat :=
  let sigMask (b : Nat) : Nat := if i = b then 0x0F else if i = b + 1 then 0x3F else 0xFF
  match op with
  | 0x0D => if 28 + 4 * leAt p 24 1 ≤ i then 0 else 0xFF
  | 0x18 => if 48 + leAt p 36 1 ≤ i then 0 else sigMask 40
  | 0x19 => sigMask 56
  | 0x10 | 0x12 | 0x13 | 0x14 => sigMask 48
  | 0x11 => sigMask 32
  | 0x20 =>
    if 32 ≤ i then
      if leAt p 24 1 ≤ (i - 32) / 8 then 0 else if (i - 32) % 8 = 0 then 0x0F else if (i - 32) % 8 = 1 then 0x3F else 0xFF
    else 0xFF
  | 0x21 =>
    if 44 ≤ i && leAt p 24 1 == 1 then 0
    else if i = 33 || i = 45 then 0x01
    else if 40 ≤ i && i < 44 then 0 else if 52 ≤ i && i < 56 then 0 else 0xFF
  | _ => 0xFF

/-- The mask of bits that byte `i` of a body may carry. -/
def bodyMask (op : Nat) (p : Packet) (i : Nat) : Nat :=
  match (bodyPartial op).find? (·.1 == i) with
  | some m => m.2
  | none => if inRanges i (bodyRanges op (pLen p)) then bodyExtra op p i else 0

/-- The first byte of the body with a reserved bit set (R4). -/
def reservedByte (op : Nat) (p : Packet) : Option Nat :=
  ((List.range (64 * (pLen p + 1) - 24)).map (· + 24)).find? fun i =>
    (leAt p i 1 &&& (255 - bodyMask op p i)) != 0

/-! ### Signal specs (Table 7.3) -/

/-- A signal spec: OP, CHIP, INDEX, VALUE. -/
structure Sig where
  op : Nat
  chip : Nat
  index : Nat
  value : Nat
  deriving DecidableEq, Repr

/-- The signal spec at byte `b` of a packet. -/
def sigAt (p : Packet) (b : Nat) : Sig :=
  ⟨bitsOf (leAt p b 1) 0 4, bitsOf (leAt p (b + 1) 1) 0 6, leAt p (b + 2) 2, leAt p (b + 4) 4⟩

/-- The byte at which an opcode that accepts SIG_AFTER carries its signal spec. -/
def sigByte : Nat → Option Nat
  | 0x10 | 0x12 | 0x13 | 0x14 => some 48
  | 0x11 => some 32
  | 0x18 => some 40
  | 0x19 => some 56
  | _ => none

/-! ### Views (Table 4.5, Table 7.5) -/

/-- The dimension block at byte `b`. -/
def dimAt (p : Packet) (b : Nat) : Dim :=
  ⟨leAt p b 4, leAt p (b + 4) 4, leAt p (b + 8) 4, signed 16 (leAt p (b + 12) 2), leAt p (b + 14) 2, leAt p (b + 16) 2,
   signed 16 (leAt p (b + 18) 2)⟩

/-- A dimension block the packet does not hold (R198). -/
def dimZero : Dim := ⟨0, 0, 0, 0, 0, 0, 0⟩

/-- Dimension blocks a packet holds: 3, 6 or 8 for MOVE, 2, 6 or 8 for page lists (R198, R201). -/
def blocksHeld (op ln : Nat) : Nat :=
  if op == 0x10 then (if ln = 1 then 3 else if ln = 2 then 6 else 8) else (if ln = 1 then 2 else if ln = 2 then 6 else 8)

/-- The view of a MOVE, GATHER_PAGES or SCATTER_PAGES body (Table 7.4, R201). -/
def viewAt (op : Nat) (p : Packet) : View where
  perm := (List.range 8).map fun k => bitsOf (leAt p 32 3) (3 * k) 3
  padMode := bitsOf (leAt p 35 1) 0 2
  round := bitsOf (leAt p 35 1) 2 2
  ovf := bitsOf (leAt p 35 1) 4 1
  padValue := leAt p 36 4
  seed := leAt p 40 4
  dims := (List.range 8).map fun d => if d < blocksHeld op (pLen p) then dimAt p ((if op == 0x10 then 56 else 72) + 20 * d) else dimZero

/-- The implied view of the plain form (R122). -/
def plainView (d : Desc) : View where
  perm := List.range 8
  padMode := 0
  round := 0
  ovf := 0
  padValue := 0
  seed := 0
  dims := (List.range 8).map fun k => if k < d.rank then ⟨0, d.sz k, 0, 1, 0, 0, 1⟩ else dimZero

def View.dim (v : View) (d : Nat) : Dim := v.dims.getD d dimZero
def View.pm (v : View) (k : Nat) : Nat := v.perm.getD k 0
/-- The padded count of view dimension `d` (R118 step 2). -/
def Dim.padded (d : Dim) : Nat := d.padb + d.scount + d.pada
/-- The count of destination dimension `k` (R118 step 3). -/
def View.cnt (v : View) (k : Nat) : Nat := (v.dim (v.pm k)).padded

/-- The view rank (R117). -/
def Move.V (m : Move) : Nat := max m.src.rank m.dst.rank

/-- Number of destination elements (R118). -/
def Move.elems (m : Move) : Nat := (List.range m.V).foldl (fun n k => n * m.view.cnt k) 1

/-- Coordinates of destination element `i` in placement order, dimension 0 fastest. -/
def coords (cs : List Nat) (i : Nat) : List Nat :=
  (cs.foldl (fun (acc : List Nat × Nat) c => (acc.1 ++ [acc.2 % c], acc.2 / c)) ([], i)).1

def Move.coordsOf (m : Move) (i : Nat) : List Nat := coords ((List.range m.V).map m.view.cnt) i

/-- The view element a padded position reads in one dimension; none for a CONST pad (R119). -/
def padResolve (mode : Nat) (d : Dim) (pos : Nat) : Option Nat :=
  if d.padb ≤ pos ∧ pos < d.padb + d.scount then some (pos - d.padb)
  else if mode = 0 then none
  else if mode = 1 then some (if pos < d.padb then 0 else d.scount - 1)
  else if pos < d.padb then some (d.padb - pos)
  else some (2 * (d.scount - 1) - (pos - d.padb))

/-- The source index view element `k` of dimension `d` reads: through the page list for a listed gather dimension
(R118 step 1, R123). -/
def Move.srcIndex (m : Move) (d k : Nat) : Int :=
  if m.listed = 1 ∧ d + 1 = m.V then (m.pages.getD k 0 : Nat)
  else ((m.view.dim d).soff : Int) + k * (m.view.dim d).sstep

/-- The destination index of coordinate `c` of destination dimension `k` (R118 step 5, R123). -/
def Move.dstIndex (m : Move) (k c : Nat) : Int :=
  if m.listed = 2 ∧ k + 1 = m.V then (m.pages.getD c 0 : Nat)
  else ((m.view.dim k).doff : Int) + c * (m.view.dim k).dstep

/-- The source element offset of destination element `i`, in element units; none for a CONST pad (R118, R119). -/
def Move.srcElem (m : Move) (i : Nat) : Option Int :=
  let cs := m.coordsOf i
  (List.range m.V).foldl (fun acc k =>
    match acc, padResolve m.view.padMode (m.view.dim (m.view.pm k)) (cs.getD k 0) with
    | some e, some j => some (e + m.srcIndex (m.view.pm k) j * m.src.st (m.view.pm k))
    | _, _ => none) (some 0)

/-- The destination element offset of destination element `i`, in element units (R118 step 5). -/
def Move.dstElem (m : Move) (i : Nat) : Int :=
  let cs := m.coordsOf i
  (List.range m.V).foldl (fun e k => e + m.dstIndex k (cs.getD k 0) * m.dst.st k) 0

/-- The linear byte offsets an element occupies, and the bit of its first bit in the first byte (R108). -/
def elemSpan (dt : Nat) (e : Int) : List Int × Nat :=
  let b0 : Int := e * (elemBits dt : Nat)
  let f := b0 / 8
  let sh := (b0 % 8).toNat
  ((List.range ((sh + elemBits dt + 7) / 8)).map fun k => f + (k : Nat), sh)

/-- The offsets, inside the descriptor's space, of the bytes of element offset `e`. -/
def Desc.elemPlaces (d : Desc) (e : Int) : List Nat := (elemSpan d.dtype e).1.map d.place

/-- The offset of the scale byte of the block of element offset `e` (R109). -/
def Desc.scalePlace (d : Desc) (e : Int) : Nat := (((daOff d.scale : Int) + e / 32) % (2 ^ 50 : Nat)).toNat

/-- What view dimension `d` counts in the bytes read: its list length, 1 for a broadcast, else SCOUNT (R124). -/
def Move.readCount (m : Move) (d : Nat) : Nat :=
  if m.listed = 1 ∧ d + 1 = m.V then m.pages.length
  else if (m.view.dim d).sstep = 0 then 1 else (m.view.dim d).scount

/-- MX blocks of 32 that one run of view dimension 0 reads: those its source indices fall into (R109, R124). -/
def Move.blocksRead (m : Move) : Nat :=
  let x := m.view.dim 0
  if m.listed = 1 ∧ m.V = 1 then (m.pages.map (· / 32)).eraseDups.length
  else if 32 ≤ x.sstep.natAbs then x.scount
  else
    let last : Int := x.soff + ((x.scount : Int) - 1) * x.sstep
    (last / 32 - (x.soff : Int) / 32).natAbs + 1

/-- Bytes a move reads (R124). -/
def Move.bytesRead (m : Move) : Nat :=
  let outer := (List.range (m.V - 1)).foldl (fun n d => n * m.readCount (d + 1)) 1
  (outer * m.readCount 0 * elemBits m.src.dtype + 7) / 8 + (if isMX m.src.dtype then outer * m.blocksRead else 0)

/-- Bytes a move writes (R124). -/
def Move.bytesWritten (m : Move) : Nat :=
  (m.elems * elemBits m.dst.dtype + 7) / 8 + (if isMX m.dst.dtype then m.elems / 32 else 0)

end Sys2Proof.Machine
end

