-- ==== Sys2Proof/Machine/Fit.lean ====
section
/-! DEFINITION. Tick edges (R49, R51) and the admission fit test (R54 to R57, R62). Loads and costs are whole picoseconds,
a cost rounded up (log entry 12). -/
namespace Sys2Proof.Machine

def State.period (s : State) : Nat := s.get F.CAD_PERIOD
def State.epoch (s : State) : Nat := s.get64 F.CAD_EPOCH_LO
def State.tick (s : State) : Nat := s.get F.CAD_TICK_LO + 2 ^ 32 * s.get F.CAD_TICK_HI
def State.switchReg (s : State) : Nat := s.get F.CAD_SWITCH_TICK_LO + 2 ^ 32 * s.get F.CAD_SWITCH_TICK_HI
def State.setTick (s : State) (n : Nat) : State := (s.set F.CAD_TICK_LO (n % 2 ^ 32)).set F.CAD_TICK_HI (n / 2 ^ 32)

/-- The edge of tick `n` under the period in force (R49), modulo 2^64. -/
def State.edgeNow (s : State) (n : Nat) : Nat := (s.epoch + n * s.period) % 2 ^ 64

/-- A tick lies at or beyond a pending period switch. -/
def State.afterSwitch (s : State) (n : Nat) : Bool := s.on F.CAD_STATUS_SWITCH_PENDING && decide (s.cad.swTick ≤ n)

/-- The period of tick `n` (R51). -/
def State.periodOf (s : State) (n : Nat) : Nat := if s.afterSwitch n then s.cad.swPeriod else s.period

/-- The edge of tick `n`, a pending switch included (R51). -/
def State.edgeOf (s : State) (n : Nat) : Nat :=
  if s.afterSwitch n then s.edgeNow s.cad.swTick + (n - s.cad.swTick) * s.cad.swPeriod else s.edgeNow n

/-- The tick that contains a rack time (R54). After a switch to a longer period CAD_EPOCH may lie below 0 and has then wrapped (R51), so
that the time since the epoch is taken modulo 2^64; a time before tick 0 thereby lies beyond every horizon. -/
def State.tickAt (s : State) (time : Nat) : Nat :=
  if s.on F.CAD_STATUS_SWITCH_PENDING && decide (s.edgeNow s.cad.swTick ≤ time) then
    s.cad.swTick + (time - s.edgeNow s.cad.swTick) / max 1 s.cad.swPeriod
  else (time + 2 ^ 64 - s.epoch) % 2 ^ 64 / max 1 s.period

/-! ### Costs (R55, R140) -/

/-- Picoseconds for `bytes` at `rate` MB/s times `f` 64ths, rounded up; without a rate nothing fits. -/
def costPs (bytes rate f : Nat) : Nat := if rate * f = 0 then 2 ^ 64 else ceilDiv (bytes * 1000000 * 64) (rate * f)

/-- The throttle factor in force, in 64ths (R481). -/
def State.fitF (s : State) : Nat := s.get F.PWR_THROT_FIT_F

/-- ECLK in force and nominal, in MHz; ECLK-bound rates scale with it (R3, R481). -/
def State.eclk (s : State) : Nat × Nat := (s.get F.PWR_STATUS_ECLK_MHZ, if Config.is16C then 1600 else 1400)

/-- Cost on an engine: engine bytes at the model column of Table 5.4 for the move's run, plus 0.1 µs (R55, R140). -/
def State.costEngine (s : State) (bytes run : Nat) : Nat :=
  let base := (if Config.is16C then 375000 else 328125) * s.eclk.1
  let r := min 64 run
  (if base * r * s.fitF = 0 then 2 ^ 64 else ceilDiv (bytes * s.eclk.2 * 1000000 * 64 * 64) (base * r * s.fitF)) + 100000

/-- Cost on a Prism: carried lanes at 3.0 or 2.6 TB/s (R140). -/
def State.costPrism (s : State) (lanes : Nat) : Nat :=
  costPs (lanes * s.eclk.2) ((if Config.is16C then 3000000 else 2600000) * s.eclk.1) s.fitF

/-- Cost on HBM at its mixed sustained rate (Table 1.6, R90). -/
def State.costHbm (s : State) (bytes : Nat) : Nat := costPs bytes 4200000 s.fitF

/-- Transfer rate of a speed code, in tenths of GT/s (Table 14.6). -/
def speedGT : Nat → Nat
  | 1 => 25 | 2 => 50 | 3 => 80 | 4 => 160 | 5 => 320 | 6 => 640 | _ => 0

/-- Cost of a PCIe link of `wide` lanes, `lanes` in use at transfer rate `gt` (tenths of GT/s): 7 GB/s per lane of its configured width,
scaled by lanes in use and by the rate against 64 GT/s (Table 1.6, R55). -/
def State.costLink (s : State) (wide lanes gt bytes : Nat) : Nat :=
  let rate := 7000 * wide * min wide lanes * gt
  if rate * s.fitF = 0 then 2 ^ 64 else ceilDiv (bytes * 1000000 * 64 * wide * 640) (rate * s.fitF)

/-- Cost on the host port, a link of 16 lanes (R55). -/
def State.costHp (s : State) (bytes : Nat) : Nat := s.costLink 16 s.pcie.hpWidth (speedGT s.pcie.hpSpeed) bytes

/-- Cost on an AP link: the figure of its configured width, scaled by lanes in use and transfer rate (R55). -/
def State.costAp (s : State) (l bytes : Nat) : Nat :=
  let wide := s.get F.TEN_AP_BIF
  s.costLink (if wide = 0 then 16 else if wide = 1 then 8 else 4) (s.get (F.TEN_APL_WIDTH l)) (speedGT (s.get (F.TEN_APL_SPEED l))) bytes

/-- Cost on a Rein port's egress: 92 GB/s, or 46 GB/s at half width (R55). -/
def State.costRein (s : State) (p bytes : Nat) : Nat :=
  costPs bytes (if s.get (F.REI_P_STATUS_WIDTH p) = 1 then 46000 else 92000) s.fitF

/-- Cost of one Awl operation (Table 1.6, R254). -/
def State.costAwl (s : State) : Nat := costPs s.eclk.2 ((if Config.is16C then 64 else 56) * s.eclk.1) s.fitF

/-- CF time of a plan miss: 40 µs (R32). -/
def planMissPs : Nat := 40000000

/-! ### The ledgers -/

/-- The load of a resource in segments `j` to 15 of a tick; of one tenant only when `who` names it. -/
def State.loadFrom (s : State) (tick : Nat) (r : Resource) (j : Nat) (who : Option Nat) : Nat :=
  s.cad.ledger.foldl (fun a e =>
    if e.tick = tick ∧ e.res = r ∧ j ≤ e.seg ∧ (who = none ∨ who = some e.tenant) then a + e.load else a) 0

/-- Segment sums of a resource stay within `share` 64ths of `part` 64ths of the time left, with cost `c` added in
segments 0 to `seg` (R56 condition 1; condition 5 with `who` and the tenant's share). -/
def State.segOk (s : State) (tick : Nat) (r : Resource) (seg c share part : Nat) (who : Option Nat) : Bool :=
  (List.range 16).all fun j =>
    decide ((s.loadFrom tick r j who + (if j ≤ seg then c else 0)) * 65536 ≤ share * part * s.periodOf tick * (16 - j) * 1000)

/-- Commands admitted into a tick (R56 condition 4), of all tenants: the count of a tick is no ledger, and FIT_PART does not divide it
(DESIGN CHOICE, log entry 94). -/
def State.admittedIn (s : State) (tick : Nat) : Nat := (kvFind s.cad.admitted tick).getD 0

/-- The costs of a command with its CF cost among them: CF time is a resource with a ledger (R55). -/
def withCf (costs : List (Resource × Nat)) (cf : Nat) : List (Resource × Nat) :=
  costs ++ (if cf = 0 then [] else [(Resource.cf, cf)])

/-- The fit test of one command into one tick (R56, R62); nothing fits while a calibration sets NOFIT (R509). `costs`
excludes CF; `cf` is its CF cost, which conditions 1, 3 and 5 count as every resource's, and condition 2 against CF_SHARE. -/
def State.fits (s : State) (t tick seg : Nat) (timed : Option Nat) (costs : List (Resource × Nat)) (cf : Nat) : Bool :=
  let all := withCf costs cf
  let share := s.get F.CAD_FIT_SHARE
  let ten := s.get (F.CAD_FIT_TEN_SHARE t)
  let part := s.on F.CAD_CTRL_FIT_PART
  let p := s.periodOf tick
  (all.all fun rc => (part || s.segOk tick rc.1 seg rc.2 share 64 none) && s.segOk tick rc.1 seg rc.2 share ten (some t))
  && (if part then decide ((s.loadFrom tick .cf 0 (some t) + cf) * 4096 ≤ s.get F.CAD_FIT_CF_SHARE * ten * p * 1000)
      else decide ((s.loadFrom tick .cf 0 none + cf) * 64 ≤ s.get F.CAD_FIT_CF_SHARE * p * 1000))
  && (match timed with
      | some l => decide ((l - s.edgeOf tick) * 1000 + (all.map (·.2)).foldl max 0 + s.get F.CAD_FIT_GUARD * 1000000 ≤ p * 1000)
      | none => true)
  && decide (s.admittedIn tick < 65536) && !(s.on F.CAL_STATUS_NOFIT)

/-- Charge one admitted command to the ledgers of its tick (R55, R56). -/
def State.charge (s : State) (t tick seg : Nat) (costs : List (Resource × Nat)) (cf : Nat) : State :=
  let es := (withCf costs cf).map fun rc => (⟨tick, rc.1, seg, t, rc.2⟩ : LedgerEntry)
  { s with cad := { s.cad with
      ledger := s.cad.ledger ++ es
      admitted := kvIns tick (s.admittedIn tick + 1) s.cad.admitted } }

/-- The segment of a tick that contains a launch time. -/
def State.segOf (s : State) (tick launch : Nat) : Nat := min 15 ((launch - s.edgeOf tick) * 16 / max 1 (s.periodOf tick))

/-- The admission of a TICKED command: the admitted tick and the charged state, or none for REJ_FIT (R54, R56). A device
that is joining a domain, or whose cadence does not run, admits nothing (R47). -/
def State.admitCmd (s : State) (t : Nat) (timed : Option Nat) (costs : List (Resource × Nat)) (cf : Nat) : Option (Nat × State) :=
  if s.cad.joining || !(s.on F.CAD_CTRL_EN) then none
  else
    let now := s.tick
    let hz := s.get F.CAD_FIT_HORIZON
    match timed with
    | some l =>
      let n := s.tickAt l
      let seg := s.segOf n l
      if now < n && n ≤ now + hz && s.fits t n seg (some l) costs cf then some (n, s.charge t n seg costs cf) else none
    | none =>
      match ((List.range hz).map (now + 1 + ·)).find? fun n => s.fits t n 0 none costs cf with
      | some n => some (n, s.charge t n 0 costs cf)
      | none => none

end Sys2Proof.Machine
end

