-- ==== Sys2Proof/Machine/Memory.lean ====
section
/-! DEFINITION. Chapter 03: scrubbing, the weight cache, facet registers and the BAR2 aperture. -/
namespace Sys2Proof.Machine

abbrev Result := Host.Outcome State Fault Refusal

/-- Power states S0 and S1, in which the main complex and HBM run (R76, R80). -/
def State.memAwake (s : State) : Bool := decide (s.get F.PWR_STATUS_STATE ≤ 1)

/-! ### Scrub (R80, R81) -/

/-- One word met by the scrub: a single-bit error is corrected, an uncorrectable word is logged with SCRUB set and not
rewritten. The scrub's agent is 0x53 (Table 14.3). -/
def State.scrubWord (s : State) (sp w : Nat) : State :=
  if s.mem.ue.contains (sp, w) then s.logUE sp w 0x53 true 0 0 else s.correct sp w

/-- The space and first 8-byte word of scrub position `p` (Table 3.9): 32-byte SRAM bank words, then staging ones. -/
def scrubPlace (p : Nat) : Nat × Nat := if p < 0x2000000 then (1, 4 * p) else (3, 4 * (p - 0x2000000))

/-- The SRAM and staging scrub takes its next bank word; throttle step 2 pauses it (R480). -/
def State.scrubStep (s : State) : State :=
  if s.on F.MEM_CTRL_SCRUB_EN && s.memAwake && decide (s.get F.PWR_STATUS_STEP < 2) then
    let p := s.get F.MEM_SCRUB_POS
    let at_ := scrubPlace p
    let s := (List.range 4).foldl (fun s k => s.scrubWord at_.1 (at_.2 + k)) s
    s.set F.MEM_SCRUB_POS (if p + 1 < 0x2040000 then p + 1 else 0)
  else s


/-- The HBM scrub takes its next granule. -/
def State.hbmScrubStep (s : State) : State :=
  if s.on F.MEM_CTRL_HBM_SCRUB_EN && s.memAwake && decide (s.get F.PWR_STATUS_STEP < 2) && s.on F.MEM_STATUS_HBM_READY then
    let p := s.get F.MEM_HBM_SCRUB_POS
    let s := (List.range 32).foldl (fun s k => s.scrubWord 2 (32 * p + k)) s
    s.set F.MEM_HBM_SCRUB_POS (if p + 1 < hbmGranules then p + 1 else 0)
  else s

/-- SCRUB_STEP (R80). -/
def execScrubStep (s : State) : Result := .next s.scrubStep
/-- HBM_SCRUB_STEP (R81). -/
def execHbmScrubStep (s : State) : Result := .next s.hbmScrubStep

/-- HBM finishes training and clearing; before that the device is not in a state in which HBM runs (R76). -/
def State.hbmReady (s : State) : State := if s.memAwake then s.set F.MEM_STATUS_HBM_READY 1 else s

/-- HBM_READY (R76). -/
def execHbmReady (s : State) : Result := .next s.hbmReady

/-! ### The weight cache (R86 to R91) -/

/-- 4 KiB units of an enabled pin range. -/
def State.pinUnits (s : State) (k : Nat) : Nat :=
  if s.on (F.MEM_WC_PIN_EN k) then s.get (F.MEM_WC_PIN_LIMIT k) + 1 - s.get (F.MEM_WC_PIN_BASE k) else 0

/-- The least size the cache has until a resize in progress ends. -/
def State.wcLeast (s : State) : Nat :=
  min (wcBytes (s.get F.MEM_WC_SIZE)) (wcBytes (s.mem.resize.getD (s.get F.MEM_WC_SIZE)))

/-- 4 KiB units of every enabled pin range together. -/
def State.pinTotal (s : State) : Nat := (List.range 4).foldl (fun n k => n + s.pinUnits k) 0

/-- A new weight-cache range overlaps a live allocation window or the ingest buffer (R86). -/
def State.wcCollides (s : State) (size : Nat) : Bool :=
  let a := 0x40000000 - wcBytes size
  rangesMeet a (wcBytes size) s.ingestRange.1 s.ingestRange.2 ||
  s.wins.any fun p => match p.2.win with
    | some w => w.space == 1 && rangesMeet a (wcBytes size) w.base w.size
    | none => false

/-- A write of `v` to MEM_WC.SIZE (R86). Pins are tested against the size written. -/
def State.wcResize (s : State) (v : Nat) : State :=
  if 5 ≤ v || s.wcCollides v || decide (wcBytes v < 2 * (4096 * s.pinTotal)) then s.stick F.MEM_CFG_CFG
  else ({ s with mem := { s.mem with resize := some v } }).set F.MEM_STATUS_WC_RESIZE_BUSY 1

/-- WC_RESIZE: T0 writes MEM_WC.SIZE (R86). -/
def execWcResize (v : Fin 8) (s : State) : Result := .next (if s.blockOpen then s.wcResize v.val else s)

/-- The 8-byte HBM words of a sector. -/
def sectorWords (line sector : Nat) : List Nat := (List.range 32).map (512 * line + 32 * sector + ·)

/-- A fill of a sector is in flight. -/
def Mem.filling (m : Mem) (line sector : Nat) : Bool := m.fills.any fun f => f.line == line && f.sector == sector

/-- Reads that wait on a sector go on; `held` says that the cache now holds it, so that they meet no HBM word. -/
def Cmd.fillDone (c : Cmd) (line sector : Nat) (held : Bool) : Cmd :=
  if c.waitFills.contains (line, sector) then
    { c with waitFills := c.waitFills.filter (· != (line, sector)), hits := if held then c.hits ++ [16 * line + sector] else c.hits }
  else c

/-- The fill of a sector ends: every read waiting on it goes on (R87). The HBM words it read are corrected (R77); the sector is
present, and shows no error, unless one of them is uncorrectable, which the waiting reads then meet themselves (R84), or the
line has left the cache. -/
def State.wcFill (s : State) (line sector : Nat) : State :=
  let ws := sectorWords line sector
  let held := s.mem.filling line sector && (s.mem.badWord 2 ws).isNone
  let s := if s.mem.filling line sector then (ws.filter fun w => !(s.mem.ue.contains (2, w))).foldl (fun s w => s.correct 2 w) s else s
  let m := s.mem.wcDrop line sector
  let m := { m with
    fills := m.fills.filter fun f => !(f.line == line && f.sector == sector)
    wc := m.wc.map fun l => if held && l.line == line then { l with sectors := putBit l.sectors sector true } else l }
  { s with mem := m, cmds := s.cmds.map fun (c : Cmd) => c.fillDone line sector held }

/-- WC_FILL_COMPLETE: the fill of 256-byte sector `sector` of 4 KiB HBM line `line` lands (R87). -/
def execWcFillComplete (line : Nat) (sector : Fin 16) (s : State) : Result := .next (s.wcFill line sector.val)

/-- The end of a resize: fills in flight land, the cache is emptied, the size applies and WC_RESIZE_BUSY clears (R86). -/
def State.wcResizeEnd (s : State) : State :=
  match s.mem.resize with
  | none => s
  | some v =>
    let s := s.mem.fills.foldl (fun s f => s.wcFill f.line f.sector) s
    let s := { s with mem := { s.mem with wc := [], fills := [], wcBad := [], resize := none } }
    (s.set F.MEM_WC_SIZE v).set F.MEM_STATUS_WC_RESIZE_BUSY 0

/-- WC_RESIZE_COMPLETE (R86). -/
def execWcResizeComplete (s : State) : Result := .next s.wcResizeEnd

/-- A write of the BASE word of pin range `k`: an enable that would take the pin ranges above half the cache is refused
(R89). While a resize is in progress the cache has the size in force and the size it will have: the smaller one counts, so that
the pins never exceed half of either (DESIGN CHOICE, log entry 82). -/
def State.wcPinWrite (s : State) (k w : Nat) : State :=
  let s' := (s.set (F.MEM_WC_PIN_BASE k) w).set (F.MEM_WC_PIN_EN k) (w / 2 ^ 31)
  if s'.on (F.MEM_WC_PIN_EN k) && decide (s.wcLeast < 2 * (4096 * s'.pinTotal)) then s.stick F.MEM_CFG_CFG
  else s'

/-- WC_PIN_ENABLE: T0 writes the word that holds MEM_WC_PINk.EN and BASE (R89). -/
def execWcPinEnable (k : Fin 4) (w : Word) (s : State) : Result := .next (if s.blockOpen then s.wcPinWrite k.val w.toNat else s)

/-- An HBM line lies in an enabled pin range (R89). -/
def State.pinnedLine (s : State) (line : Nat) : Bool :=
  (List.range 4).any fun k => s.on (F.MEM_WC_PIN_EN k) && decide (s.get (F.MEM_WC_PIN_BASE k) ≤ line)
    && decide (line ≤ s.get (F.MEM_WC_PIN_LIMIT k))

/-- Number of sets of the cache: 16 ways of 4 KiB (Table 3.5). -/
def State.wcSets (s : State) : Nat := wcBytes (s.get F.MEM_WC_SIZE) / 65536

/-- The weight cache takes part in reads: it has a size and no resize is in progress (R86). -/
def State.wcServes (s : State) : Bool := s.get F.MEM_WC_SIZE != 0 && s.mem.resize.isNone

/-- A cached line. -/
def State.wcLine (s : State) (line : Nat) : Option WcLine := s.mem.wc.find? (·.line == line)

/-- The lines of the set of an HBM line; the set is chosen by the line index (DESIGN CHOICE, log entry 15). -/
def State.wcSet (s : State) (line : Nat) : List WcLine :=
  s.mem.wc.filter fun l => l.line % max 1 s.wcSets == line % max 1 s.wcSets

/-- A line leaves the cache: its fills find it no more, and no sector of it shows an error. -/
def Mem.wcEvict (m : Mem) (line : Nat) : Mem :=
  { m with
    wc := m.wc.filter (·.line != line)
    fills := m.fills.filter (·.line != line)
    wcBad := m.wcBad.filter (·.1 != line) }

/-- Make room for a line: the least recently used unpinned line of a full set goes; none where every way is pinned (R87,
R89). -/
def State.wcAllocate (s : State) (line : Nat) : Option State :=
  let s := { s with mem := { s.mem with useCount := s.mem.useCount + 1 } }
  let fresh : WcLine := ⟨line, 0, s.mem.useCount⟩
  let set := s.wcSet line
  if set.length < 16 then some { s with mem := { s.mem with wc := s.mem.wc ++ [fresh] } }
  else
    let free := set.filter fun l => !(s.pinnedLine l.line)
    match free with
    | [] => none
    | l :: t =>
      let old := t.foldl (fun (a b : WcLine) => if b.used < a.used then b else a) l
      let m := s.mem.wcEvict old.line
      some { s with mem := { m with wc := m.wc ++ [fresh] } }

/-- A weight-cache sector shows an uncorrectable error: it is invalidated, to be refetched, and WCUE is set (R91). -/
def State.wcUe (s : State) (line sector : Nat) : State :=
  ({ s with mem := s.mem.wcDrop line sector }).stick F.MEM_WCUE_WCUE

/-- A cached line is used now. -/
def State.wcTouch (s : State) (line : Nat) : State :=
  let use := s.mem.useCount + 1
  let m := { s.mem with
    useCount := use
    wc := s.mem.wc.map fun (x : WcLine) => if x.line = line then { x with used := use } else x }
  { s with mem := m }

/-- A read of rank `rank` (and, for rank 1, of a tick) comes to wait on a fill: the fill takes its rank where it is the higher
(R264). -/
def Fill.raise (f : Fill) (rank tick : Nat) : Fill :=
  if rank < f.rank || (rank == f.rank && decide (tick < f.tick)) then { f with rank := rank, tick := tick } else f

/-- A sector's fill starts at the rank of the read that missed; one in flight serves this read too (R87, R264). -/
def State.wcStartFill (s : State) (line sector rank tick : Nat) : State :=
  let m := if s.mem.filling line sector then
      { s.mem with fills := s.mem.fills.map fun (f : Fill) => if f.line == line && f.sector == sector then f.raise rank tick else f }
    else { s.mem with fills := s.mem.fills ++ [(⟨line, sector, rank, tick⟩ : Fill)] }
  { s with mem := m }

/-- What the weight cache answers to the read of a sector: the sector, a fill to wait for, or that the read goes to HBM. -/
inductive WcAnswer where
  | hit | fill | bypass
  deriving DecidableEq, Repr

/-- A sector of a cached line is looked up. One that is held and shows an uncorrectable error is invalidated and refetched
(R91). -/
def State.wcLook (s : State) (l : WcLine) (sector rank tick : Nat) : WcAnswer × State :=
  let s := s.wcTouch l.line
  let bad := bit l.sectors sector && s.mem.wcBad.contains (l.line, sector)
  if bit l.sectors sector && !bad then (.hit, s.bump F.MEM_WC_HIT 1)
  else
    let s := if bad then s.wcUe l.line sector else s
    (.fill, (s.wcStartFill l.line sector rank tick).bump F.MEM_WC_MISS 1)

/-- A cached read of one sector at a rank (R87). -/
def State.wcRead (s : State) (line sector rank tick : Nat) : WcAnswer × State :=
  if !s.wcServes then (.bypass, s)
  else
    match s.wcLine line with
    | some l => s.wcLook l sector rank tick
    | none =>
      match s.wcAllocate line with
      | none => (.bypass, (s.stick F.MEM_WC_BYP_BYP).bump F.MEM_WC_MISS 1)
      | some s => (.fill, (s.wcStartFill line sector rank tick).bump F.MEM_WC_MISS 1)

/-! ### Facet registers (R97) -/

/-- A write of MEM_FACET_t_k: discarded with CFG where A, W and Y break the first three conditions of R95. -/
def State.facetWrite (s : State) (t k w : Nat) : State :=
  if facetParamsOk (bitsOf w 0 4) (bitsOf w 8 3) (bitsOf w 16 5) then
    (((s.set (F.MEM_FACET_A t k) w).set (F.MEM_FACET_W t k) (w / 2 ^ 8)).set (F.MEM_FACET_Y t k) (w / 2 ^ 16)).set
      (F.MEM_FACET_VALID t k) (w / 2 ^ 31)
  else s.stick F.MEM_CFG_CFG

/-- FACET_REGISTER_WRITE: T0 writes MEM_FACET_t_k (R97). -/
def execFacetRegisterWrite (t : Tenant) (k : Fin 4) (w : Word) (s : State) : Result :=
  .next (if s.blockOpen then s.facetWrite t.val k.val w.toNat else s)

/-! ### The BAR2 aperture (R75, R79, R93) -/

/-- An SRAM byte lies in a device-internal range (R75). -/
def State.internalByte (s : State) (a : Nat) : Bool := s.internal a 1

/-- A BAR2 access touches a device-internal range: MEM_RSVD.RSVD is set. -/
def State.rsvd (s : State) (off n : Nat) : State := if s.internal off n then s.stick F.MEM_RSVD_RSVD else s

/-- The bytes of a BAR2 access that Bridle judges: those in SRAM outside the device-internal ranges. -/
def State.judged (s : State) (off n : Nat) : List Nat :=
  ((List.range n).map (off + ·)).filter fun a => decide (a < spaceSize 1) && !(s.internalByte a)

/-- A read of `n` bytes at BAR2 offset `off`; each uncorrectable word it meets is logged (R79, log entry 81). Outside a Secure IDE stream it is dropped where IDE is required, and during
a restart it reads zero (R389, R502). -/
def State.bar2Read (s : State) (off n : Nat) (secure : Bool) : State :=
  if !s.pcie.hpUp then s
  else if s.on F.TEN_HP_IDE_REQ && !secure then s.stick F.TEN_IDEDROP_IDEDROP
  else if s.boot.phase == BootPhase.restart then s.out (.readCompletion 0 off (List.replicate n 0) false)
  else
    let s := s.rsvd off n
    let js := s.judged off n
    let (ok, s) := s.bridle 0 0 0x30 clsHOST false ((js.map (· / 4096)).eraseDups)
    if !ok then s.out (.completerAbort 0 off)
    else
      let ws := wordsOf js
      let bad := s.mem.badWord 1 ws
      let s := s.readWords 1 ws 0x30 0 0
      let data := (List.range n).map fun k => if s.internalByte (off + k) then 0 else s.mem.byte 1 (off + k)
      s.out (.readCompletion 0 off data bad.isSome)

/-- A write of `data` at BAR2 offset `off`; a poisoned TLP is dropped, reported and sets TEN_POISON.POISON (R387). -/
def State.bar2Write (s : State) (off : Nat) (data : List (BitVec 8)) (poisoned secure : Bool) : State :=
  if !s.pcie.hpUp then s
  else if s.on F.TEN_HP_IDE_REQ && !secure then s.stick F.TEN_IDEDROP_IDEDROP
  else if poisoned then (s.stick F.TEN_POISON_POISON).out (.poisonedTlp 0)
  else if s.boot.phase == BootPhase.restart then s
  else
    let n := data.length
    let s := s.rsvd off n
    let js := s.judged off n
    let (ok, s) := s.bridle 0 0 0x30 clsHOST true ((js.map (· / 4096)).eraseDups)
    if !ok then s
    else s.memWrite 1 ((cellsAt off data).filter fun c => !(s.internalByte c.1))

end Sys2Proof.Machine
end

