-- ==== Sys2Proof/Machine/ReinTx.lean ====
section
/-! DEFINITION. Chapter 12, sending: flits and messages on the links (R336 to R339), routing of what this device
originates (R342, R343), and the VC1 source side (R347, R348). -/
namespace Sys2Proof.Machine

/-! ### Ports -/

/-- A port nothing has used. -/
def portIdle : PortSt where
  txSeq := 0
  replay := []
  egress := []
  begun := []
  since3 := 15
  credits := [0, 0, 0, 0]
  rxSeq := 0
  owed := [0, 0, 0, 0]
  turn := 0
  lackAt := 0
  nakOut := false
  part := []
  naks := []
  replays := 0
  replayedSeq := 0
  attempts := 0
  peerSerial := 0
  dom := none
  t1 := 0
  t2 := 0
  t3 := 0
  spoilt := false
  doneAt := 0

def State.port (s : State) (n : Nat) : PortSt := (kvFind s.rein.ports n).getD portIdle
def State.setPort (s : State) (n : Nat) (p : PortSt) : State :=
  { s with rein := { s.rein with ports := kvIns n p s.rein.ports } }

/-- REI_Pn_STATUS.STATE of Table 12.2. -/
def State.portState (s : State) (n : Nat) : Nat := s.get (F.REI_P_STATUS_STATE n)
def State.portActive (s : State) (n : Nat) : Bool := n < 12 && s.portState n == 6

/-- Initial credits of Table 12.6: 24 adaptive and 8 escape for VC0, 192, 192, 16. -/
def initialCredits : List Nat := [32, 192, 192, 16]

/-- Adaptive VC0 credits a port holds: those beyond the 8 of the escape channel. -/
def PortSt.adaptive (p : PortSt) : Nat := p.credits.getD 0 0 - 8

/-! ### Messages and flits -/

/-- A message with every field zero. -/
def msgZero : Msg where
  vc := 0
  mop := 0
  src := 0
  dest := 0
  rank := 0
  lock := false
  tick := 0
  tenant := 0
  ackReq := false
  cmdLast := false
  cmdTag := 0
  eseq := 0
  epoch := 0
  status := 0
  da := 0
  win := 0xFFFF
  gen := 0
  rtag := 0
  operand := 0
  extra := []
  data := []

/-- The virtual channel of a message operation (Table 12.5); none for a reserved code. -/
def mopVC (m : Nat) : Option Nat :=
  if 1 ≤ m && m ≤ 3 then some 0
  else if 0x10 ≤ m && m ≤ 0x16 then some 1
  else if 0x20 ≤ m && m ≤ 0x28 then some 2
  else if (0x30 ≤ m && m ≤ 0x35) || (0x38 ≤ m && m ≤ 0x3A) then some 3
  else none

/-- The 48-byte message header (Table 12.4). -/
def msgHeader (m : Msg) : List (BitVec 8) :=
  leBytes 1 m.mop ++ leBytes 1 (m.tenant % 16 + 16 * b2n m.ackReq + 32 * b2n m.cmdLast) ++ leBytes 2 m.cmdTag
  ++ leBytes 2 m.eseq ++ leBytes 1 m.epoch ++ leBytes 1 m.status ++ leBytes 8 m.da ++ leBytes 2 m.win ++ leBytes 2 m.gen
  ++ leBytes 2 m.data.length ++ leBytes 2 m.rtag ++ leBytes 8 m.operand ++ slice m.extra 0 16

/-- The flits of a message: one HEAD and up to 16 DATA flits of 256 bytes (R337). -/
def msgFlits (m : Msg) (hops : Nat) : List Flit :=
  let n := (m.data.length + 255) / 256
  let mk (kind : Nat) (last : Bool) (pl : List (BitVec 8)) : Flit :=
    { kind := kind, vc := m.vc, lock := m.lock, last := last, dest := m.dest, rank := m.rank, src := m.src, hops := hops,
      tick := m.tick, payload := slice pl 0 256 }
  mk 1 (n == 0) (msgHeader m) :: (List.range n).map fun k => mk 2 (k + 1 == n) ((m.data.drop (256 * k)).take 256)

/-- The message that complete flits spell. -/
def msgOfFlits (fs : List Flit) : Option Msg :=
  match fs with
  | [] => none
  | h :: t =>
    let p := h.payload
    some { vc := h.vc, mop := leAt p 0 1, src := h.src, dest := h.dest, rank := h.rank, lock := h.lock, tick := h.tick,
           tenant := bitsOf (leAt p 1 1) 0 4, ackReq := bit (leAt p 1 1) 4, cmdLast := bit (leAt p 1 1) 5,
           cmdTag := leAt p 2 2, eseq := leAt p 4 2, epoch := leAt p 6 1, status := leAt p 7 1, da := leAt p 8 8,
           win := leAt p 16 2, gen := leAt p 18 2, rtag := leAt p 22 2, operand := leAt p 24 8, extra := slice p 32 16,
           data := ((t.map (·.payload)).flatten).take (leAt p 20 2) }

/-- The 272 bytes of a flit (Table 12.3): header with LSEQ, LACK, NAK and returned credits, CRC, payload. -/
def flitBytes (f : Flit) (lseq lack : Nat) (nak : Bool) (cvc ccount : Nat) : List (BitVec 8) :=
  let h := leBytes 1 (f.kind % 16 + 16 * (f.vc % 4) + 64 * b2n f.lock + 128 * b2n f.last)
    ++ leBytes 1 (f.dest % 64 + 64 * (f.rank % 4)) ++ leBytes 1 (f.src % 64) ++ leBytes 1 (f.hops % 16)
    ++ leBytes 2 (lseq % 4096) ++ leBytes 2 (lack % 4096 + 4096 * b2n nak) ++ leBytes 1 (cvc % 4 + 4 * (ccount % 64))
    ++ leBytes 1 f.tick ++ leBytes 2 0
  h ++ leBytes 4 (crc32 (h ++ slice f.payload 0 256)) ++ slice f.payload 0 256

/-- The IDLE flit. -/
def flitIdle : Flit := ⟨0, 0, false, false, 0, 0, 0, 0, 0, []⟩

/-- LACK of a port: the last LSEQ received in order. -/
def PortSt.lack (p : PortSt) : Nat := (p.rxSeq + 4095) % 4096

/-- Put flit `f` with LSEQ `lseq` on the wire of port `n`: it carries LACK, NAK and the credits of the VC whose turn
it is (R338, R339). -/
def State.emitFlit (s : State) (n : Nat) (f : Flit) (lseq : Nat) (nak : Bool) : State :=
  let p := s.port n
  let c := min 63 (p.owed.getD p.turn 0)
  let s := s.out (.flit n (flitBytes f lseq p.lack nak p.turn c))
  s.setPort n { p with owed := modNth (· - c) p.turn p.owed, turn := (p.turn + 1) % 4, lackAt := s.cad.time }

/-- Send the first flit of a VC that waits at a port, if it holds a credit and the replay buffer has room (R338,
R339). -/
def State.sendFlit (s : State) (n : Nat) (f : Flit) : State :=
  let p := s.port n
  let s := s.setPort n { p with
    replay := p.replay ++ [(p.txSeq, f)]
    txSeq := (p.txSeq + 1) % 4096
    credits := modNth (· - 1) f.vc p.credits }
  s.emitFlit n f p.txSeq false

/-! ### The egress of a port (R263, R265, R337 to R339) -/

/-- The message stream of a flit: its VC, source and destination. -/
def Flit.stream (f : Flit) : Nat × Nat × Nat := (f.vc, f.src, f.dest)

/-- The first flit of each stream, in order; `seen` are the streams met before. -/
def streamHeads (seen : List (Nat × Nat × Nat)) : List Flit → List Flit
  | [] => []
  | f :: t => if seen.contains f.stream then streamHeads seen t else f :: streamHeads (f.stream :: seen) t

/-- A flit may be sent next: its VC holds a credit, and no other message of the VC is begun (R337, R339). -/
def PortSt.sendable (p : PortSt) (f : Flit) : Bool :=
  decide (0 < p.credits.getD f.vc 0) && p.begun.all fun x => x.1 != f.vc || x == f.stream

/-- Tick `a` is earlier than `b`: the signed 8-bit difference is negative (Table 12.3). -/
def tickEarlier (a b : Nat) : Bool := let d := (b % 256 + 256 - a % 256) % 256; decide (0 < d) && decide (d ≤ 128)

/-- Flit `a` is served before flit `b` that came before it: rank 1 first, of two of rank 1 the earlier tick, then the higher VC
(R263, R264, Table 9.1). -/
def Flit.before (a b : Flit) : Bool :=
  if (a.rank == 1) != (b.rank == 1) then a.rank == 1
  else if a.rank == 1 && a.tick % 256 != b.tick % 256 then tickEarlier a.tick b.tick
  else decide (b.vc < a.vc)

/-- The flit a port sends next. A VC3 flit comes first, at most one beat in 16 while others wait (R265). -/
def PortSt.nextFlit (p : PortSt) : Option Flit :=
  let l := (streamHeads [] p.egress).filter p.sendable
  let best (l : List Flit) : Option Flit :=
    l.foldl (fun b f => match b with | none => some f | some x => if f.before x then some f else b) none
  match l.find? (·.vc == 3) with
  | some f => if 15 ≤ p.since3 then some f else some ((best (l.filter (·.vc != 3))).getD f)
  | none => best l

/-- A port takes a flit from its egress. -/
def PortSt.take (p : PortSt) (f : Flit) : PortSt :=
  { p with egress := p.egress.erase f
           begun := p.begun.filter (· != f.stream) ++ (if f.last then [] else [f.stream])
           since3 := if f.vc = 3 then 0 else min 15 (p.since3 + 1) }

/-- Send up to `k` flits, as credits and replay buffer allow. -/
def State.pumpN : Nat → State → Nat → State
  | 0, s, _ => s
  | k + 1, s, n =>
    let p := s.port n
    if 512 ≤ p.replay.length then s
    else
      match p.nextFlit with
      | none => s
      | some f => State.pumpN k ((s.setPort n (p.take f)).sendFlit n f) n

/-- Send what a port's credits and replay buffer allow (R263, R265, R337 to R339). -/
def State.pump (s : State) (n : Nat) : State := if s.portActive n then s.pumpN (s.port n).egress.length n else s

/-- Queue the flits of a message at a port and send what can go. -/
def State.enqueue (s : State) (n : Nat) (fs : List Flit) : State :=
  let p := s.port n
  (s.setPort n { p with egress := p.egress ++ fs }).pump n

/-! ### Routing (R342, R343) -/

/-- The single-path port of table `n` for a destination: OUT while ACTIVE, else ALT while ACTIVE (R343). -/
def State.singlePath (s : State) (n dest : Nat) : Option Nat :=
  match s.routeFor n dest with
  | none => none
  | some (e, _) =>
    let w := s.route n e 0
    if s.portActive (bitsOf w 16 4) then some (bitsOf w 16 4)
    else if s.portActive (bitsOf w 20 4) then some (bitsOf w 20 4) else none

/-- The adaptive VC0 port of table `n` for a destination: most free adaptive credits, then the lowest port; the
single-path port where no candidate holds one (R343). -/
def State.adaptivePath (s : State) (n dest : Nat) : Option Nat :=
  match s.routeFor n dest with
  | none => none
  | some (e, _) =>
    let cand := (List.range 12).filter fun p => bit (s.route n e 1) p && s.portActive p && decide (0 < (s.port p).adaptive)
    match cand with
    | [] => s.singlePath n dest
    | p :: t => some (t.foldl (fun b q => if (s.port b).adaptive < (s.port q).adaptive then q else b) p)

/-- The egress port of a message or flit of a VC by table `n`. -/
def State.egressPort (s : State) (n vc dest : Nat) : Option Nat :=
  if vc = 0 then s.adaptivePath n dest else s.singlePath n dest

/-- REI_MULTI.MULTI where several entries match equally (R17, R342). -/
def State.routeMulti (s : State) (n dest : Nat) : State :=
  match s.routeFor n dest with
  | some (_, true) => s.stick F.REI_MULTI_MULTI
  | _ => s

/-- This device's chip ID. -/
def State.chip (s : State) : Nat := s.get F.REI_ID_CHIP

/-- Originate a message: route it by the origin table and hand its flits to the port. A message without a path is
dropped, except that VC1 messages are kept by their pair (R343). A device with a duplicate ID sends VC3 only (R353). -/
def State.originate (s : State) (m : Msg) : State :=
  if s.rein.vc3Only && m.vc != 3 then s
  else
    let s := s.routeMulti 12 m.dest
    let m := { m with src := s.chip }
    let s := s.out (.rein m)
    match s.egressPort 12 m.vc m.dest with
    | some p => s.enqueue p (msgFlits m (s.get F.REI_CTRL_MAXHOPS))
    | none => s

/-- Send a VC3 message on one port; only an ACTIVE port carries it (R335, Table 12.6). -/
def State.sendVc3 (s : State) (n : Nat) (m : Msg) : State :=
  if s.portActive n then
    let m := { m with vc := 3, src := s.chip, dest := s.get (F.REI_P_STATUS_PEER_CHIP n) }
    (s.out (.rein m)).enqueue n (msgFlits m 0)
  else s

/-! ### The VC1 source side (R347, R348) -/

/-- A pair nothing has used. -/
def txIdle : TxPair := ⟨0, [], [], false, false, [], []⟩

def State.txPair (s : State) (d : Nat) : TxPair := (kvFind s.rein.tx d).getD txIdle
/-- Put a pair; REI_TXE_d.UNACKED shows its unacknowledged messages. -/
def State.setTx (s : State) (d : Nat) (p : TxPair) : State :=
  ({ s with rein := { s.rein with tx := kvIns d p s.rein.tx } }).set (F.REI_TXE_UNACKED d) (min 1024 p.sent.length)

/-- VC1 traffic to a chip may leave: a path is ACTIVE, fewer than 1,024 messages are unacknowledged, and no EPOCH_OPEN
is still to be sent (R343, R348, R350). -/
def State.txReady (s : State) (d : Nat) : Bool :=
  (s.singlePath 12 d).isSome && decide ((s.txPair d).sent.length < 1024) && !(s.txPair d).openDue

/-- Number and send one VC1 message (R347). -/
def State.txSend (s : State) (d : Nat) (x : TxMsg) : State :=
  let p := s.txPair d
  let m := { x.msg with vc := 1, dest := d, src := s.chip, eseq := p.nextEseq, epoch := s.get (F.REI_TXE_EPOCH d) }
  let s := s.setTx d { p with nextEseq := (p.nextEseq + 1) % 65536, sent := p.sent ++ [(⟨m, x.cmd, s.cad.time⟩ : TxMsg)] }
  s.originate m

/-- Send the waiting VC1 messages of a pair that may leave, in order. -/
def State.txDrain (s : State) (d : Nat) : State :=
  (s.txPair d).waiting.foldl (fun s x =>
    if s.txReady d then
      let p := s.txPair d
      (s.setTx d { p with waiting := p.waiting.drop 1 }).txSend d x
    else s) s

/-- Hand a VC1 message to its pair: it leaves now, or waits behind what waits (R348). -/
def State.vc1 (s : State) (d : Nat) (m : Msg) (cmd : Option Nat) : State :=
  let p := s.txPair d
  (s.setTx d { p with waiting := p.waiting ++ [(⟨m, cmd, s.cad.time⟩ : TxMsg)] }).txDrain d

/-- VC1 messages of a command that are waiting or unacknowledged. -/
def State.vc1Open (s : State) (id : Nat) : List TxMsg :=
  s.rein.tx.flatMap fun p => (p.2.sent ++ p.2.waiting).filter fun x => x.cmd == some id

/-! ### VC0 requests (R340) -/

/-- The owner of the tags a command's requests hold: its engine, 32 for the Awl path, 33 for none (R227, R256). -/
def State.tagOwner (s : State) (cmd : Nat) : Nat :=
  match s.cmds.find? (·.id == cmd) with
  | some c => if isEngineOp (pOp c.pkt) then c.engine else if isAwlOp (pOp c.pkt) then 32 else 33
  | none => 33

/-- Send a VC0 request for a command and remember it until its answer. -/
def State.vc0 (s : State) (d : Nat) (m : Msg) (cmd off len : Nat) : State :=
  let tag := s.rein.nextTag
  let s := { s with rein := { s.rein with
    nextTag := (tag + 1) % 65536
    reqs := s.rein.reqs ++ [(⟨tag, cmd, s.tagOwner cmd, d, m.mop, off, len, s.cad.time⟩ : Req)] } }
  s.originate { m with vc := 0, dest := d, rtag := tag }

/-- VC0 requests of a command without an answer. -/
def State.vc0Open (s : State) (id : Nat) : List Req := s.rein.reqs.filter (·.cmd == id)

/-! ### CONFIG (R48, R356) -/

/-- The cadence values a CONFIG carries: EN and SWITCH_PENDING, EPOCH, PERIOD, NEXT_PERIOD, SWITCH_TICK, and the tick and period of an
accepted switch (R48, R51). The
layout of EXTRA and data is the model's (log entry 16). -/
def State.configMsg (s : State) : Msg :=
  { msgZero with vc := 3, mop := 0x35, operand := s.rein.gen,
                 data := leBytes 1 (b2n (s.on F.CAD_CTRL_EN) + 2 * b2n (s.on F.CAD_STATUS_SWITCH_PENDING))
                   ++ leBytes 8 (s.get64 F.CAD_EPOCH_LO) ++ leBytes 4 (s.get F.CAD_PERIOD)
                   ++ leBytes 4 (s.get F.CAD_NEXT_PERIOD) ++ leBytes 4 (s.get F.CAD_SWITCH_TICK_LO)
                   ++ leBytes 2 (s.get F.CAD_SWITCH_TICK_HI) ++ leBytes 6 s.cad.swTick ++ leBytes 4 s.cad.swPeriod }

/-- The master sends CONFIG on every ACTIVE port, with the next generation after a change (R356). -/
def State.configSend (s : State) : State :=
  let s := { s with rein := { s.rein with gen := s.rein.gen + 1 } }
  (List.range 12).foldl (fun s n => s.sendVc3 n s.configMsg) s

end Sys2Proof.Machine
end

