-- ==== Sys2Proof/Machine/Cadence.lean ====
section
/-! DEFINITION. Chapter 02: the cadence, rack time and its sources. -/
namespace Sys2Proof.Machine

/-- Domain-wide cadence registers may be written here: this device is the domain master (R44, R48). -/
def State.isMaster (s : State) : Bool := s.on F.CAD_STATUS_MASTER

/-! ### Reading rack time (R5, Table 2.6) -/

/-- CAD_TIME_LO: bits 31:0, and bits 63:32 latched for the next CAD_TIME_HI read of the same function; zero
during a restart (R502). -/
def execCadTimeLoRead (fn : Tenant) (s : State) : Result :=
  .next (if s.blockOpen then
      ({ s with cad := { s.cad with latches := kvIns fn.val (s.cad.time / 2 ^ 32 % 2 ^ 32) s.cad.latches } }).out
        (.readData fn.val 0x240008 (s.cad.time % 2 ^ 32))
    else s.out (.readData fn.val 0x240008 0))

/-- What a 32-bit read of CAD_TIME_HI gives a function: its latch, which it consumes, or the current bits. -/
def State.timeHi (s : State) (fn : Nat) : Nat × State :=
  match kvFind s.cad.latches fn with
  | some h => (h, { s with cad := { s.cad with latches := kvDel s.cad.latches fn } })
  | none => (s.cad.time / 2 ^ 32 % 2 ^ 32, s)

/-! ### CAD_CTRL (R48, R50, R51, R37, R39) -/

/-- CAD_PERIOD in force lies in the range of R50. -/
def periodOk (p : Nat) : Bool := 100000 ≤ p && p ≤ 1000000000

/-- CAD_TICK takes the number of the tick that contains rack time, while the cadence runs (R49). -/
def State.retick (s : State) : State := if s.on F.CAD_CTRL_EN then s.setTick (s.tickAt s.cad.time) else s

/-- A write of 1 to EN: refused on a follower that runs no cadence, for a period out of range and for a future epoch
(R48, R50); otherwise the cadence starts and CAD_TICK takes the number of the current tick (R49). -/
def State.cadEnable (s : State) : State :=
  if s.on F.CAD_CTRL_EN then s
  else if !s.isMaster || !(periodOk s.period) || decide (s.cad.time < s.epoch) then s.stick F.CAD_CFG_CFG
  else ((s.set F.CAD_CTRL_EN 1).retick).configSend

/-- A write of 0 to EN: refused on a follower of a running cadence (R48). A switch that is pending stays pending: R51 names no
effect of the disable on it (DESIGN CHOICE, log entry 77). -/
def State.cadDisable (s : State) : State :=
  if !(s.on F.CAD_CTRL_EN) then s
  else if !s.isMaster then s.stick F.CAD_CFG_CFG
  else (s.set F.CAD_CTRL_EN 0).configSend

/-- A write of 1 to SWITCH_ARM (R51): the tick and the period accepted are those of the two registers at the arm. R51 changes the
period while the cadence runs, so that an arm with EN 0 is refused (DESIGN CHOICE, log entry 77). -/
def State.switchArm (s : State) : State :=
  if s.isMaster && s.on F.CAD_CTRL_EN && !(s.on F.CAD_STATUS_SWITCH_PENDING) && periodOk (s.get F.CAD_NEXT_PERIOD)
      && decide (s.tick + s.get F.CAD_FIT_HORIZON < s.switchReg) then
    let c : Cad := { s.cad with swTick := s.switchReg, swPeriod := s.get F.CAD_NEXT_PERIOD }
    ((({ s with cad := c } : State).set F.CAD_CTRL_SWITCH_ARM 1).set F.CAD_STATUS_SWITCH_PENDING 1).configSend
  else s.stick F.CAD_CFG_CFG

/-- A phase correction of `off` ns is slewed away (R37). -/
def State.slewTo (s : State) (off : Int) : State :=
  ({ s with cad := { s.cad with slew := off, slewPart := 0 } } : State).set F.CAD_STATUS_SLEWING (b2n (off != 0))

/-- Rack time is stepped forward to `t`, or slewed towards an earlier `t` (R37). A forward step does not count into CAD_OFFLINE
(DESIGN CHOICE, log entry 78); CAD_TICK stays the number of the current tick. -/
def State.stepTime (s : State) (t : Nat) : State :=
  if s.cad.time ≤ t then
    let c : Cad := { s.cad with time := t, slew := 0, slewPart := 0, timeSet := true }
    (({ s with cad := c } : State).set F.CAD_STATUS_SLEWING 0).retick
  else ({ s with cad := { s.cad with timeSet := true } } : State).slewTo ((t : Int) - s.cad.time)

/-- A write of 1 to SET_TIME (R37). With no source SOURCE then still reads 0 FREE: Table 2.1 has no code for a time set by software
(DESIGN CHOICE, log entry 78). -/
def State.setTime (s : State) : State :=
  if s.isMaster && !(s.on F.CAD_CTRL_EN) then s.stepTime (s.get64 F.CAD_TIME_SET_LO) else s.stick F.CAD_CFG_CFG

/-! ### Sources (R38, R39) -/

/-- Phase of rack time against PPS_IN: the offset to the nearest whole second at the last edge. -/
def ppsOffset (t : Nat) : Int :=
  let p := t % 1000000000
  if p < 500000000 then -(p : Int) else (1000000000 - p : Nat)

/-- Lexicographic order of the announced data sets: priority1, clockClass, accuracy, variance, priority2, identity,
steps removed (IEEE 1588-2019; PRESUMED, log entry 14). -/
def lexLt : List Nat → List Nat → Bool
  | [], _ => false
  | _, [] => true
  | a :: x, b :: y => if a < b then true else if b < a then false else lexLt x y

/-- The candidates in the order of R38: SOURCE code and offset of the source from rack time. Of two usable PTP ports the one
comes first whose data set the best master clock algorithm prefers (log entry 14). -/
def State.sources (s : State) : List (Nat × Int) :=
  let ptp := (List.range 2).filterMap fun p =>
    match s.cad.ptp[p]? with
    | some x => if x.usable then some (x.dataset, (1 + p, x.offset)) else none
    | none => none
  let best := match ptp with
    | [a, b] => if lexLt b.1 a.1 then [b.2, a.2] else [a.2, b.2]
    | l => l.map (·.2)
  best ++ (match s.cad.ppsIn with
    | some t => if s.on F.CAD_CTRL_PPS_IN_EN && s.cad.timeSet then [(3, ppsOffset t)] else []
    | none => [])

/-- The correction in force is the frequency offset the holdover model predicts (R67). -/
def State.holdRate (s : State) : State :=
  s.set F.CAD_RATE_ADJ (unsigned 32 (-(Config.holdOffset s.cad.model s.cad.temp (s.cad.time - s.cad.holdSince))))

/-- Enter HOLDOVER: the model's prediction is applied and its error bound shown (R67, R69, log entry 13). -/
def State.enterHoldover (s : State) : State :=
  let s := { s with cad := { s.cad with holdSince := s.cad.time } }
  ((s.set F.CAD_STATUS_SOURCE 5).set F.CAD_HOLD_ERR 0).holdRate.holdRefresh

/-- A RESTORE_FACTORY that waited for a source replaces the learned holdover model by the factory seed (R511). -/
def State.factoryModel (s : State) : State :=
  if s.boot.calLater then
    let c : Cad := { s.cad with model := [], lockSeconds := 0 }
    ({ s with cad := c, boot := { s.boot with calLater := false } } : State).set F.CAD_HOLD_LEARN_HOURS 0
  else s

/-- In HOLDOVER and RESUMED a source is not used whose offset exceeds CAD_SANE.LIMIT (R39). -/
def State.beyondSane (s : State) (off : Int) : Bool :=
  (s.get F.CAD_STATUS_SOURCE == 5 || s.get F.CAD_STATUS_SOURCE == 6) && decide (s.get F.CAD_SANE_LIMIT * 1000 < off.natAbs)

/-- Take a source: with the cadence stopped rack time is stepped to the first one acquired since the cold boot, unless it lies
beyond the limit of R39; else the offset is slewed away (R37, R39). -/
def State.takeSource (s : State) (code : Nat) (off : Int) : State :=
  let step := !s.cad.acquired && !(s.on F.CAD_CTRL_EN) && decide (0 ≤ off) && !(s.beyondSane off)
  let s := ((s.set F.CAD_STATUS_SOURCE code).set F.CAD_HOLD_ERR 0).set F.CAD_STATUS_HOLD_IN_SPEC 0
  let s := { s.factoryModel with cad := { s.factoryModel.cad with acceptSrc := false, acquired := true, timeSet := true } }
  if step then s.stepTime ((s.cad.time : Int) + off).toNat else s.slewTo off

/-- The domain master selects its source (R38) when source `new` (a code of Table 2.1, 0 for none) has a new offset; in HOLDOVER
or RESUMED a source beyond CAD_SANE.LIMIT is not used and sets SRC, until T0 accepts it (R39). The offset of the source in use is
corrected when it is measured, and not again. A follower ignores its own sources. -/
def State.selectSource (s : State) (new : Nat) : State :=
  if !s.isMaster then s
  else
    let cur := s.get F.CAD_STATUS_SOURCE
    match s.sources with
    | [] => if 1 ≤ cur && cur ≤ 4 then s.enterHoldover else s
    | (code, off) :: _ =>
      if s.beyondSane off && !s.cad.acceptSrc then (if new == code then s.stickIrq F.CAD_SRC_SRC 15 else s)
      else if code == cur then (if new == code then s.slewTo off else s)
      else s.takeSource code off

/-- A write of 1 to ACCEPT_SRC (R39). Where no source is being refused it stays in force for the next one taken (DESIGN CHOICE, log
entry 79). -/
def State.acceptSource (s : State) : State := ({ s with cad := { s.cad with acceptSrc := true } }).selectSource 0

/-- A write of the whole word CAD_CTRL: the per-device fields apply as written, the domain-wide ones under R48. The fields that act
do so in bit order, EN, SWITCH_ARM, SET_TIME, ACCEPT_SRC (DESIGN CHOICE, log entry 77). -/
def State.cadCtrlWrite (s : State) (w : Nat) : State :=
  let old := s.rd 0x240000
  let s := s.wr 0x240000 (putBits old 4 7 (bitsOf w 4 7))
  let s := if bit w 0 then s.cadEnable else s.cadDisable
  let s := if bit w 1 then s.switchArm else s
  let s := if bit w 2 then s.setTime else s
  if bit w 3 then s.acceptSource else s

/-- CADENCE_ENABLE: T0 writes 1 to CAD_CTRL.EN (R50). -/
def execCadenceEnable (s : State) : Result := .next (if s.blockOpen then s.cadEnable else s)
/-- CADENCE_DISABLE: T0 writes 0 to CAD_CTRL.EN (R48). -/
def execCadenceDisable (s : State) : Result := .next (if s.blockOpen then s.cadDisable else s)
/-- SWITCH_ARM: T0 writes 1 to CAD_CTRL.SWITCH_ARM (R51). -/
def execSwitchArm (s : State) : Result := .next (if s.blockOpen then s.switchArm else s)
/-- SET_TIME: T0 writes 1 to CAD_CTRL.SET_TIME (R37). -/
def execSetTime (s : State) : Result := .next (if s.blockOpen then s.setTime else s)
/-- ACCEPT_SRC: T0 writes 1 to CAD_CTRL.ACCEPT_SRC (R39). -/
def execAcceptSrc (s : State) : Result := .next (if s.blockOpen then s.acceptSource else s)

/-- A write of CAD_PERIOD, CAD_EPOCH, CAD_NEXT_PERIOD or CAD_SWITCH_TICK: on the master only, PERIOD and EPOCH only
while EN is 0 (R48, R50). A value outside the field's width is its low bits (R7). -/
def State.cadDomainWrite (s : State) (a w : Nat) : State :=
  if !s.isMaster || (s.on F.CAD_CTRL_EN && (a == 0x240018 || a == 0x24001C || a == 0x240020)) then s.stick F.CAD_CFG_CFG
  else
    let keep := if a == 0x240020 || a == 0x240024 then 2 ^ 30 else if a == 0x240034 then 2 ^ 16 else 2 ^ 32
    (s.wr a (w % keep)).configSend

/-- A 64-bit write of CAD_EPOCH or CAD_SWITCH_TICK takes both words at once (R5). -/
def State.cadDomainWide (s : State) (a lo hi : Nat) : State :=
  if !s.isMaster || (s.on F.CAD_CTRL_EN && a == 0x240018) then (s.stick F.CAD_CFG_CFG).stick F.CAD_CFG_CFG
  else ((s.wr a lo).wr (a + 4) (hi % (if a == 0x240030 then 2 ^ 16 else 2 ^ 32))).configSend

/-! ### Edges (R49, R51 to R53) -/

/-- The period switch applies at its edge (R51). -/
def State.applySwitch (s : State) (edge : Nat) : State :=
  if s.on F.CAD_STATUS_SWITCH_PENDING && s.tick == s.cad.swTick then
    let np := s.cad.swPeriod
    let s := s.set F.CAD_PERIOD np
    let s := s.set64 F.CAD_EPOCH_LO ((edge + 2 ^ 64 * (s.tick + 1) - s.tick * np) % 2 ^ 64)
    let s := (s.set F.CAD_CTRL_SWITCH_ARM 0).set F.CAD_STATUS_SWITCH_PENDING 0
    if s.isMaster then s.configSend else s
  else s

/-- The level of TICK_OUT, where CAD_TICK_OUT.OE drives it; POL inverts it (R52). -/
def State.tickLevel (s : State) : Option Bool :=
  if s.on F.CAD_TICK_OUT_OE then some (s.cad.tickOut != s.on F.CAD_TICK_OUT_POL) else none

/-- The level of PPS_OUT, where CAD_PPS_OUT.OE drives it (R53). -/
def State.ppsLevel (s : State) : Option Bool := if s.on F.CAD_PPS_OUT_OE then some s.cad.ppsOut else none

/-- TICK_OUT changes for rack time `t`; the board sees the edge CAD_TICK_OUT.COMP ns earlier (R52). -/
def State.tickDrive (s : State) (b : Bool) (t : Nat) : State :=
  let s := { s with cad := { s.cad with tickOut := b } }
  match s.tickLevel with
  | some l => s.out (.tickPin l (t - s.get F.CAD_TICK_OUT_COMP))
  | none => s

/-- PPS_OUT changes at rack time `t` (R53). -/
def State.ppsDrive (s : State) (b : Bool) (t : Nat) : State :=
  let s := { s with cad := { s.cad with ppsOut := b } }
  match s.ppsLevel with
  | some l => s.out (.ppsPin l t)
  | none => s

/-- A write of 1 to SWITCH_ARM in the cycle in which the switch clears it: the arm is judged, and the bit ends as 1 (R12, R51; log
entry 76). -/
def State.armAgain (s : State) : State := s.switchArm.set F.CAD_CTRL_SWITCH_ARM 1

/-- TICK_EDGE: rack time reaches the edge of tick CAD_TICK + 1. The tick number advances, a pending switch at that tick
applies, TICK_OUT rises, the ledgers and pins of ended ticks go, and a TICK trace record is written. At the last tick number the
cadence stops: EN returns to 0 (DESIGN CHOICE, log entry 77). Without a running cadence nothing happens. -/
def execTickEdge (arm : Bool) (s : State) : Result :=
  if !(s.on F.CAD_CTRL_EN) || s.cad.joinHold then .next s
  else if s.tick = 2 ^ 48 - 1 then .next (s.set F.CAD_CTRL_EN 0)
  else
    let n := s.tick + 1
    let edge := s.edgeOf n
    let again := arm && s.on F.CAD_STATUS_SWITCH_PENDING && n == s.cad.swTick
    let s := s.advance edge
    let s := (s.setTick n).applySwitch edge
    let s := if again then s.armAgain else s
    let s := { s with
      cad := { s.cad with
        tickOutFall := edge + min (8 * s.get F.CAD_TICK_OUT_WIDTH) (s.period / 2)
        ledger := s.cad.ledger.filter fun e => decide (n ≤ e.tick)
        admitted := s.cad.admitted.filter fun p => decide (n ≤ p.1) }
      plans := s.plans.map fun (p : PlanEntry) => { p with pins := p.pins.filter fun k => decide (n ≤ k) } }
    .next ((s.tickDrive true edge).trace 0x04 0 0 0 (leBytes 6 n ++ leBytes 2 0 ++ leBytes 8 s.period))

/-- TICK_OUT_FALL: the pulse width expires and TICK_OUT returns to its idle level (R52). -/
def execTickOutFall (s : State) : Result :=
  .next (if s.cad.tickOut then (s.advance s.cad.tickOutFall).tickDrive false s.cad.tickOutFall else s)

/-- PPS_OUT_RISE: rack time reaches the next whole multiple of 10^9 ns (R53). -/
def execPpsOutRise (s : State) : Result :=
  let t := (s.cad.time / 1000000000 + 1) * 1000000000
  .next (if s.cad.joinHold then s
    else
      let s := s.advance t
      let c : Cad := { s.cad with ppsOutFall := t + 1000 * s.get F.CAD_PPS_OUT_WIDTH }
      ({ s with cad := c } : State).ppsDrive true t)

/-- PPS_OUT_FALL: CAD_PPS_OUT.WIDTH µs after its rise PPS_OUT falls (R53). -/
def execPpsOutFall (s : State) : Result :=
  .next (if s.cad.ppsOut then (s.advance s.cad.ppsOutFall).ppsDrive false s.cad.ppsOutFall else s)

/-- PPS_IN_EDGE: a rising edge on PPS_IN at rack time `at_` is timestamped; it serves the phase lock when PPS is the
source, and source selection (R38, R53). -/
def execPpsInEdge (at_ : Nat) (s : State) : Result :=
  let s := s.advance at_
  let s := s.set64 F.CAD_PPS_IN_TS_LO s.cad.time
  let s := { s with cad := { s.cad with ppsIn := some s.cad.time } }
  .next (s.selectSource 3)

/-- PPS_IN_TIMEOUT: 1.001 s without an edge while PPS is the source: PPSIN is set and the next source is taken (R53). -/
def execPpsInTimeout (s : State) : Result :=
  if s.get F.CAD_STATUS_SOURCE = 3 then
    let s := match s.cad.ppsIn with | some t => s.advance (t + 1001000000) | none => s
    let s := s.stick F.CAD_PPSIN_PPSIN
    .next (({ s with cad := { s.cad with ppsIn := none } } : State).selectSource 0)
  else .next s

/-! ### PTP (R41 to R43) -/

/-- The PTP state of an ETH port. -/
def State.ptpPort (s : State) (p : Nat) : PtpPort := s.cad.ptp.getD p ⟨false, [], 0, 0, 0, 0, 0, 0, 0, 0, none⟩

/-- Put the PTP state of an ETH port. -/
def State.setPtp (s : State) (p : Nat) (x : PtpPort) : State :=
  { s with cad := { s.cad with ptp := (List.range 2).map fun i => if i = p then x else s.ptpPort i } }

/-- The clockClass a data set announces. -/
def PtpPort.clockClass (x : PtpPort) : Nat := x.dataset.getD 1 248

/-- The role of a port: 0 disabled, 1 receiver, 2 transmitter, 3 chosen by the best master clock algorithm. -/
def State.ptpRole (s : State) (p : Nat) : Nat := s.get (if p = 0 then F.CAD_CTRL_ETH0_ROLE else F.CAD_CTRL_ETH1_ROLE)

/-- The data set this device itself would announce: the defaults of IEEE 1588-2019, its clockClass in holdover by R43 and 248
otherwise, and the MAC address of ETH0 (PRESUMED, log entry 14). -/
def State.ownSet (s : State) : List Nat :=
  let cls := if s.get F.CAD_STATUS_SOURCE = 5 then (if s.on F.CAD_STATUS_HOLD_IN_SPEC then 7 else 52) else 248
  [128, cls, 0xFE, 0xFFFF, 128, (Config.mac 0).toNat, 0]

/-- A port receives time: by its role, or, where the algorithm chooses, because what it hears is better than what this device
would announce (R41). -/
def State.ptpReceives (s : State) (p : Nat) : Bool :=
  s.ptpRole p == 1 || (s.ptpRole p == 3 && !(s.ptpPort p).dataset.isEmpty && lexLt (s.ptpPort p).dataset s.ownSet)

/-- A port transmits time: by its role, or because it does not receive where the algorithm chooses (R41). -/
def State.ptpTransmits (s : State) (p : Nat) : Bool := s.ptpRole p == 2 || (s.ptpRole p == 3 && !(s.ptpReceives p))

/-- A Sync is complete on a port that knows its link delay: the offset is that of one time stamp and the link delay, and the source is
usable (IEEE 1588-2019; log entry 14). -/
def State.ptpByLink (s : State) (p : Nat) : State :=
  let x := s.ptpPort p
  match x.link with
  | some d => (s.setPtp p { x with offset := (x.t1 : Int) + d - x.t2, usable := !x.dataset.isEmpty }).selectSource (1 + p)
  | none => s

/-- A PTP message of IEEE 1588 type `m.kind` arrives on a port at rack time `m.rx` (R41, R43, log entry 14). Under 802.1AS delay
requests are not used (Table 2.2). -/
def State.ptpIn (s : State) (p : Nat) (m : PtpMsg) : State :=
  let s := s.advance m.rx
  let x := s.ptpPort p
  let peer := s.on F.CAD_CTRL_PROFILE
  if s.ptpRole p = 0 then s
  else match m.kind with
    | 0x0B =>
      if s.ptpRole p != 2 && (x.dataset.isEmpty || lexLt m.dataset x.dataset || x.dataset.getD 5 0 == m.dataset.getD 5 0) then
        s.setPtp p { x with dataset := m.dataset }
      else s
    | 0x00 =>
      if !(s.ptpReceives p) then s
      else
        let s := s.setPtp p { x with t1 := m.origin, t2 := m.rx }
        if m.twoStep then s else s.ptpByLink p
    | 0x08 => if s.ptpReceives p then (s.setPtp p { x with t1 := m.origin }).ptpByLink p else s
    | 0x09 =>
      if !(s.ptpReceives p) || peer then s
      else
        let off : Int := (((x.t1 : Int) - x.t2) + ((m.origin : Int) - x.t3)) / 2
        (s.setPtp p { x with t4 := m.origin, usable := !x.dataset.isEmpty && x.t3 != 0 && x.t2 != 0, offset := off }).selectSource (1 + p)
    | 0x01 => if s.ptpTransmits p && !peer then s.out (.ptp p 0x09 0 m.rx) else s
    | 0x02 => (s.out (.ptp p 0x03 0 m.rx)).out (.ptp p 0x0A 0 s.cad.time)
    | 0x03 => s.setPtp p { x with p2 := m.origin, p4 := m.rx }
    | 0x0A => s.setPtp p { x with link := some ((((x.p4 : Int) - x.p1) - ((m.origin : Int) - x.p2)) / 2) }
    | _ => s

/-- PTP_MESSAGE: a PTP message of IEEE 1588 type `m.kind` arrives on a port, timestamped at rack time `m.rx`. Announce
takes part in the best master clock algorithm; Sync and Follow_Up give t1 and t2, Delay_Resp t4, and the servo then
takes the offset from four time stamps, or from a Sync and the link delay the peer delay messages give. A transmitter answers
Delay_Req with Delay_Resp, every port Pdelay_Req with Pdelay_Resp and its Follow_Up (R41, R42, log entry 14). -/
def execPtpMessage (p : EthPort) (m : PtpMsg) (s : State) : Result := .next (s.ptpIn p.val m)

/-- PTP_SOURCE_LOST: the source on a port is lost; SRC is set and the next source is taken (R38). -/
def execPtpSourceLost (p : EthPort) (s : State) : Result :=
  let s := s.setPtp p.val { s.ptpPort p.val with usable := false, dataset := [] }
  if s.isMaster && s.get F.CAD_STATUS_SOURCE == 1 + p.val then .next ((s.stickIrq F.CAD_SRC_SRC 15).selectSource 0)
  else .next s

/-- The clockClass a time transmitter advertises (R43); while locked to PPS or following a master R43 names none, and it
is a free value (log entry 13). -/
def State.clockClass (s : State) : Nat :=
  match s.get F.CAD_STATUS_SOURCE with
  | 1 => (s.ptpPort 0).clockClass
  | 2 => (s.ptpPort 1).clockClass
  | 5 => if s.on F.CAD_STATUS_HOLD_IN_SPEC then 7 else 52
  | 0 => 248
  | 6 => 248
  | _ => s.freeVal.toNat % 256

/-- PTP_TRANSMIT_INTERVAL: on a port that transmits time the device sends Announce and Sync with its clockClass, the Sync with its
departure, or in two steps with a Follow_Up that carries it; on a port that receives, a Delay_Req, whose departure is t3, or, under
802.1AS or where CF measures the delay between peers, a Pdelay_Req (R41 to R43). -/
def execPtpTransmitInterval (p : EthPort) (twoStep peer : Bool) (s : State) : Result :=
  let n := p.val
  let x := s.ptpPort n
  let c := s.clockClass
  let ask (s : State) : State := (s.setPtp n { x with p1 := s.cad.time }).out (.ptp n 0x02 0 s.cad.time)
  .next (if s.ptpTransmits n then
      let s := (s.out (.ptp n 0x0B c 0)).out (.ptp n 0x00 c (if twoStep then 0 else s.cad.time))
      let s := if twoStep then s.out (.ptp n 0x08 c s.cad.time) else s
      s.draw
    else if s.ptpReceives n then
      if peer || s.on F.CAD_CTRL_PROFILE then ask s
      else (s.setPtp n { x with t3 := s.cad.time }).out (.ptp n 0x01 0 s.cad.time)
    else s)

/-! ### Holdover, the monotonic store, joining (R40, R47, R67, R70) -/

/-- HOLDOVER_RECORD: each second CF reads the temperature of the time base. While the source is PTP or PPS it records it with the
oscillator's frequency offset, whose opposite is the correction applied, and LEARN_HOURS counts the hours of lock; in HOLDOVER
the model's prediction for that temperature is applied (R67). -/
def execHoldoverRecord (freq temp : Int) (s : State) : Result :=
  let src := s.get F.CAD_STATUS_SOURCE
  let s := { s with cad := { s.cad with temp := temp } }
  .next (if src = 1 ∨ src = 2 ∨ src = 3 then
      let s := { s with cad := { s.cad with model := s.cad.model ++ [(freq, temp)], lockSeconds := s.cad.lockSeconds + 1 } }
      (s.set F.CAD_HOLD_LEARN_HOURS (min 0xFFFF (s.cad.lockSeconds / 3600))).set F.CAD_RATE_ADJ (unsigned 32 (-freq))
    else if src = 5 then s.holdRate.holdRefresh
    else s)

/-- RACK_TIME_STORE: every 900 s of rack time, rack time goes to the monotonic store, and CAD_OFFLINE advances by one
unless a joining follower holds its time (R40, R47, R70). The counters show in SEC_MC_0 and SEC_MC_1 too. -/
def execRackTimeStore (s : State) : Result :=
  let q := 900000000000
  if s.cad.joinHold then .next s
  else
    let s := s.advance ((s.cad.time / q + 1) * q)
    let s := { s with cad := { s.cad with stored := max s.cad.stored s.cad.time } }
    .next (s.bump F.CAD_OFFLINE 1)

/-- JOIN_HOLD_RELEASE: the master's rack time has reached the value a joining follower holds (R47). -/
def execJoinHoldRelease (s : State) : Result :=
  .next { s with cad := { s.cad with joinHold := false, slew := 0, slewPart := 0 } }

/-- A step without a command: one nanosecond of rack time passes (log entry 1). -/
def State.idle (s : State) : State := s.advance (s.cad.time + 1)

end Sys2Proof.Machine
end

