-- ==== Sys2Proof/Machine/Lanes.lean ====
section
/-! DEFINITION. Chapter 09 §1: the arbiters of Table 9.1, their grant lanes and requesters (R262, R263), and what a reset of a
master leaves on the lanes (R278).

A lane is numbered by the codes of ARB_LOVR_INFO (Table 9.6), to which the model adds 0xE4 to 0xE7 for the Prism inputs and
0xE8 for the Awl path; lane `k` of an arbiter with several is code + 256 × k. A requester is named by the engine's number, and the
others by their place behind the engines in Table 9.1's list; at a system port and at the Awl path by their place in the list
(log entry 85). -/
namespace Sys2Proof.Machine

/-- Kinds of arbiter (Table 9.1). -/
inductive Arb where
  | quadPort | sysPort | hbm | rein | hp | ap | prism | awl | none
  deriving DecidableEq, Repr

/-- The arbiter a lane belongs to; none for a number that names no lane. -/
def arbOf (lane : Nat) : Arb :=
  let c := lane % 256
  let k := lane / 256
  if c < 0x28 then (if c % 5 = 4 then (if k < 2 then .sysPort else .none) else if k < 4 then .quadPort else .none)
  else if k != 0 then .none
  else if 0x40 ≤ c && c ≤ 0xBF then .hbm
  else if 0xC0 ≤ c && c ≤ 0xCB then .rein
  else if c = 0xDC then .hp
  else if 0xDD ≤ c && c ≤ 0xE0 then .ap
  else if 0xE4 ≤ c && c ≤ 0xE7 then .prism
  else if c = 0xE8 then .awl else .none

/-- Maximum grant in beats. -/
def Arb.maxGrant : Arb → Nat
  | .quadPort | .sysPort | .rein | .hp | .ap => 16
  | _ => 1

/-- The arbiter grants exclusively under a lock (Table 9.1; a Rein egress for VC0 to VC2). -/
def Arb.exclusive : Arb → Bool
  | .prism | .awl | .none => false
  | _ => true

/-- AP links there are: 1, 2 or 4 by TEN_AP.BIF. -/
def State.apLinks (s : State) : Nat := if s.get F.TEN_AP_BIF = 0 then 1 else if s.get F.TEN_AP_BIF = 1 then 2 else 4

/-- The lane exists: an AP egress arbiter only for a link of the configured bifurcation (Table 9.1). -/
def State.laneHere (s : State) (lane : Nat) : Bool :=
  match arbOf lane with
  | .none => false
  | .ap => decide (lane - 0xDD < s.apLinks)
  | _ => true

/-- The requester is listed for the arbiter of a lane (Table 9.1). Engines are 0 to 31. Behind them come, at HBM, the Awl path, HP,
AP and Rein inbound, weight-cache fills, CF and the HBM scrub; at a Rein egress the Awl path, CF, transit and VC2 completions; at the
HP egress the Awl path, CF and record and MSI-X writes; at an AP egress the Awl path and CF. -/
def Arb.lists (a : Arb) (lane who : Nat) : Bool :=
  match a with
  | .quadPort => who / 8 == lane % 256 % 5
  | .sysPort => decide (who < 8)
  | .hbm => decide (who < 39)
  | .rein => decide (who < 36)
  | .hp => decide (who < 35)
  | .ap => decide (who < 34)
  | .prism => who / 8 == lane % 256 - 0xE4
  | .awl => decide (who < 4)
  | .none => false

/-- The offset a request names lies behind this lane: in the tier of an SRAM port, in the pseudo-channel of an HBM arbiter (R72,
R83). -/
def offsetHere (a : Arb) (lane off : Nat) : Bool :=
  match a with
  | .quadPort | .sysPort => (sramPlace off).tier == lane % 256 / 5
  | .hbm => hbmPseudo off == lane % 256 - 0x40
  | _ => true

/-- The request is a scrub's: rank 3 (Table 9.2). -/
def Arb.scrub : Arb → Nat → Bool
  | .sysPort, 7 => true
  | .hbm, 38 => true
  | _, _ => false

/-- The rank and the tick a request has at an arbiter. Scrub has rank 3, and nothing else has; a weight-cache fill has the rank of
the reads that wait for it (R264, Table 9.2). -/
def State.rankAt (s : State) (a : Arb) (r : ArbReq) : Nat × Nat :=
  if a.scrub r.who then (3, 0)
  else if a == .hbm && r.who == 36 then
    match s.mem.fills.find? fun f => f.line == r.off / 4096 && f.sector == r.off / 256 % 16 with
    | some f => (f.rank, f.tick)
    | none => (2, 0)
  else if r.rank = 1 then (1, r.tick) else (2, 0)

/-- A lane nothing has used. -/
def laneIdle : LaneSt := ⟨none, 3, 0, none, 0, [], [], []⟩
def State.lane (s : State) (l : Nat) : LaneSt := (kvFind s.lanes l).getD laneIdle
def State.setLane (s : State) (l : Nat) (x : LaneSt) : State := { s with lanes := kvIns l x s.lanes }

/-- A lane without a holder. -/
def LaneSt.release (x : LaneSt) : LaneSt := { x with holder := none, beats := 0, lockedBy := none }

/-- A master that is reset loses its grant, its progress and its pending requests on a lane (R278). -/
def LaneSt.drop (x : LaneSt) (who : Nat) : LaneSt :=
  let x := { x with preempted := x.preempted.filter (·.1 != who), kept := x.kept.filter (·.1 != who) }
  if x.holder == some who then x.release else x

/-- An engine that is reset releases every grant it holds (R259, R278). System ports and the Awl path have no engine among their
requesters. -/
def State.dropGrants (s : State) (e : Nat) : State :=
  { s with lanes := s.lanes.map fun (p : Nat × LaneSt) =>
      if arbOf p.1 = .sysPort ∨ arbOf p.1 = .awl then p else (p.1, p.2.drop e) }

end Sys2Proof.Machine
end

