-- ==== Sys2Proof/Machine/Frames.lean ====
section
/-! DEFINITION. Chapter 05 §1 and §2: the exchange network of a Prism (R130), carried forms and nibble mode (R133, R134), the
frames of a move (R137), and the way of a move's elements through a frame (R129). The shape of a frame, the order of its lanes
and the setting CF chooses among those that serve are the model's (log entry 17). -/
namespace Sys2Proof.Machine

/-! ### The exchange network (R130) -/

/-- The lane-index bit on which stage `s` of a network over `2 ^ n` lanes pairs: `d(s)` of R130. -/
def stageBit (n s : Nat) : Nat := if s < n then n - 1 - s else s - (n - 1)

/-- The lower lane of switch `k` of a stage that pairs on bit `d`: the `k`-th lane whose bit `d` is 0. -/
def switchLane (d k : Nat) : Nat := k / 2 ^ d * 2 ^ (d + 1) + k % 2 ^ d

/-- The switch that lane `i` meets in a stage that pairs on bit `d`. -/
def laneSwitch (d i : Nat) : Nat := i / 2 ^ (d + 1) * 2 ^ d + i % 2 ^ d

/-- One stage with setting vector `v`: setting 0 passes straight through, setting 1 exchanges. -/
def exchange (d v i : Nat) : Nat := if bit v (laneSwitch d i) then i ^^^ 2 ^ d else i

/-- The lane on which a byte that enters on lane `i` leaves a network over `2 ^ n` lanes set by `plan`, one vector a stage. -/
def route (n : Nat) (plan : List Nat) (i : Nat) : Nat :=
  (List.range (2 * n - 1)).foldl (fun i s => exchange (stageBit n s) (plan.getD s 0) i) i

/-- The inverse of a lane map given as a list. -/
def invertMap (p : List Nat) : List Nat := (List.range p.length).foldl (fun q i => q.set (p.getD i 0) i) p

/-- The other lane of an outer switch of a network with halves of `h` lanes. -/
def otherLane (h i : Nat) : Nat := if i < h then i + h else i - h

/-- Follow one loop of a lane map: lane `i` goes to the lower half, its switch partner to the upper, and the lane that shares an
output switch with the partner to the lower again. `a` is the set of lanes decided and the set of those in the upper half. -/
def followLoop (h : Nat) (p q : List Nat) : Nat → Nat → Nat × Nat → Nat × Nat
  | 0, _, a => a
  | f + 1, i, a =>
    if bit a.1 i then a
    else
      let j := otherLane h i
      followLoop h p q f (q.getD (otherLane h (p.getD j 0)) 0) (a.1 + 2 ^ i + 2 ^ j, a.2 + 2 ^ j)

/-- The lanes that enter the upper half of a network with halves of `h` lanes. -/
def upperLanes (h : Nat) (p q : List Nat) : Nat :=
  ((List.range h).foldl (fun a k => if bit a.1 k then a else followLoop h p q (2 * h) k a) (0, 0)).2

/-- A setting of the network over `2 ^ n` lanes that realises lane map `p`: one of those R130 says exist. -/
def settingOf : Nat → List Nat → List Nat
  | 0, _ => []
  | 1, p => [b2n (p.getD 0 0 == 1)]
  | n + 2, p =>
    let h := 2 ^ (n + 1)
    let q := invertMap p
    let up := upperLanes h p q
    let half (b : Bool) : List Nat := (List.range h).map fun k => p.getD (if bit up k == b then k else k + h) 0 % h
    let first := (List.range h).foldl (fun v k => v + b2n (bit up k) * 2 ^ k) 0
    let last := (List.range h).foldl (fun v k => v + b2n (bit up (q.getD k 0)) * 2 ^ k) 0
    first :: (List.zipWith (fun a b => a + b * 2 ^ (h / 2)) (settingOf (n + 1) (half false)) (settingOf (n + 1) (half true))) ++ [last]

/-! ### Carried form (R133, R134, Table 5.2) -/

/-- Source dimension `d` advances by an even number of nibbles per step. -/
def Move.srcEven (m : Move) (d : Nat) : Bool :=
  decide ((m.view.dim d).scount ≤ 1) ||
    (if m.listed = 1 ∧ d + 1 = m.V then m.src.st d else (m.view.dim d).sstep * m.src.st d) % 2 == 0

/-- Destination dimension `k` advances by an even number of nibbles per step. -/
def Move.dstEven (m : Move) (k : Nat) : Bool :=
  decide (m.view.cnt k ≤ 1) ||
    (if m.listed = 2 ∧ k + 1 = m.V then m.dst.st k else (m.view.dim k).dstep * m.dst.st k) % 2 == 0

/-- The frame map separates or reverses no two nibbles of a byte: every condition of R133 holds. -/
def Move.nibblesKept (m : Move) : Bool :=
  let d0 := m.view.dim 0
  let s4 := is4bit m.src.dtype
  let t4 := is4bit m.dst.dtype
  m.view.pm 0 == 0 && d0.sstep == 1 && (m.view.padMode == 0 || (d0.padb == 0 && d0.pada == 0))
    && (!s4 || (d0.soff % 2 == 0 && (List.range m.V).all fun d => d == 0 || m.srcEven d))
    && (!t4 || (List.range m.V).all fun k => k == 0 || m.dstEven k)
    && (!(s4 && t4) || d0.padb % 2 == 0)

/-- FP6 groups are kept whole (Table 5.2). -/
def Move.groupsWhole (m : Move) : Bool :=
  let d0 := m.view.dim 0
  d0.sstep == 1 && m.view.pm 0 == 0 && d0.soff % 4 == 0 && d0.padb % 4 == 0

/-- Where the conversion stands: 0 none, 1 before the Prism, 2 after it, 3 MX encoding after it. -/
def Move.convAt (m : Move) : Nat :=
  if m.src.dtype = m.dst.dtype then (if isFP6 m.src.dtype && !m.groupsWhole then 1 else 0)
  else if isMX m.src.dtype then 2
  else if isMX m.dst.dtype then 3
  else if elemBits m.dst.dtype ≤ elemBits m.src.dtype then 1 else 2

/-- The type whose form the lanes carry; an MX source of another type has a form of its own. -/
def Move.carriedType (m : Move) : Nat :=
  if m.src.dtype = m.dst.dtype || isMX m.dst.dtype then m.src.dtype
  else if elemBits m.dst.dtype ≤ elemBits m.src.dtype then m.dst.dtype else m.src.dtype

/-- An MX source goes to another type: two lanes per element. -/
def Move.mxDecoded (m : Move) : Bool := isMX m.src.dtype && m.src.dtype != m.dst.dtype

/-- Nibble mode is in force (R133). -/
def Move.nibble (m : Move) : Bool := !m.mxDecoded && is4bit m.carriedType && !m.nibblesKept

/-- The carried form is unpacked FP6. -/
def Move.unpacked (m : Move) : Bool := !m.mxDecoded && isFP6 m.carriedType && !m.groupsWhole

/-- Lanes per element, in quarters (Table 5.2). -/
def Move.lanes4 (m : Move) : Nat :=
  if m.mxDecoded then 8
  else if is4bit m.carriedType then (if m.nibble then 4 else 2)
  else if isFP6 m.carriedType then (if m.unpacked then 4 else 3)
  else 4 * elemBytes m.carriedType

/-- Lanes a move carries, rounded up. -/
def Move.lanes (m : Move) : Nat := ceilDiv (m.elems * m.lanes4) 4

/-- Bits of one element in its carried form. -/
def Move.carriedBits (m : Move) : Nat := if m.mxDecoded then 16 else elemBits m.carriedType

/-- Elements that lie together in whole lanes, 2 nibbles of a byte or 4 of an FP6 group, and the lanes they take. -/
def Move.unit (m : Move) : Nat × Nat :=
  if m.lanes4 % 4 = 0 then (1, m.lanes4 / 4) else if m.lanes4 = 2 then (2, 1) else (4, 3)

/-! ### Frames (R137) -/

/-- The shape of the frames of a move, which is also what its frame map depends on: whether source dimension 0 goes elsewhere
than destination dimension 0, the lanes of a unit, the units along destination dimension 0, the rows (or, `turned`, the units
along the destination dimension that takes source dimension 0), and which of the two run backwards on each side. -/
structure Box where
  turned : Bool
  lanes : Nat
  inner : Nat
  outer : Nat
  revIn : Bool
  revOut : Bool
  backIn : Bool
  backOut : Bool
  deriving DecidableEq, Repr

/-- The destination dimension that takes source dimension 0. -/
def Move.turnDim (m : Move) : Nat := ((List.range m.V).find? fun k => m.view.pm k == 0).getD 0

/-- The frame shape of a move: rows of destination dimension 0, as many as fit 2,048 lanes, or a tile that takes at most 64 lanes
of destination dimension 0 (R137). -/
def Move.box (m : Move) : Box :=
  let u := m.unit
  let cap := 2048 / max 1 u.2
  let turned := m.view.pm 0 != 0
  let inner := if turned then min (m.view.cnt 0) (max 1 (64 / max 1 u.2)) else min (ceilDiv (m.view.cnt 0) u.1) cap
  let b := m.turnDim
  { turned := turned
    lanes := u.2
    inner := max 1 inner
    outer := max 1 (if turned then min (m.view.cnt b) (cap / max 1 inner) else cap / max 1 inner)
    revIn := u.1 == 1 && decide ((m.view.dim (m.view.pm 0)).sstep < 0)
    revOut := u.1 == 1 && decide ((m.view.dim 0).dstep < 0)
    backIn := turned && decide ((m.view.dim 0).sstep < 0)
    backOut := turned && decide ((m.view.dim b).dstep < 0) }

/-- Position `i` of `n`, counted from the other end where `rev`. -/
def flipAt (rev : Bool) (n i : Nat) : Nat := if rev then n - 1 - i else i

/-- The unit of a frame on which unit (`p` along destination dimension 0, row `r`) enters the Prism: in source order. -/
def Box.inPos (x : Box) (p r : Nat) : Nat :=
  if x.turned then flipAt x.revIn x.inner p * x.outer + flipAt x.backIn x.outer r
  else r * x.inner + flipAt x.revIn x.inner p

/-- The unit of a frame on which it leaves the Prism: in destination order. -/
def Box.outPos (x : Box) (p r : Nat) : Nat := flipAt x.backOut x.outer r * x.inner + flipAt x.revOut x.inner p

/-- The frame map: the lane on which the byte that enters on lane `l` leaves. Lanes beyond the frame's shape stay. -/
def Box.map (x : Box) (l : Nat) : Nat :=
  let q := l / x.lanes
  if q < x.inner * x.outer then
    let p := flipAt x.revIn x.inner (if x.turned then q / x.outer else q % x.inner)
    let r := if x.turned then flipAt x.backIn x.outer (q % x.outer) else q / x.inner
    x.lanes * x.outPos p r + l % x.lanes
  else l

/-- The plan of a frame map: 21 vectors of 1,024 settings (R141). -/
def Box.plan (x : Box) : List Nat := settingOf 11 ((List.range 2048).map x.map)

/-- Where destination element `i` of a move lies: its frame, its unit in the frame, and its place in the unit. -/
def Move.framePos (m : Move) (x : Box) (i : Nat) : List Nat × (Nat × Nat) × Nat :=
  if x.turned then
    let cs := m.coordsOf i
    let b := m.turnDim
    let c0 := cs.getD 0 0
    let cb := cs.getD b 0
    ((cs.set 0 (c0 / x.inner)).set b (cb / x.outer), (c0 % x.inner, cb % x.outer), 0)
  else
    let c0 := max 1 (m.view.cnt 0)
    let row := i / c0
    let u := i % c0 / m.unit.1
    ([row / x.outer, u / x.inner], (u % x.inner, row % x.outer), i % c0 % m.unit.1)

/-! ### A frame on its way (R129, R133, Table 5.1) -/

/-- A frame: the lanes that carry something, with their bytes. The other lanes are masked (R137) or marked empty (R136). -/
abbrev Lanes := List (Nat × Nat)

/-- The nibble packer: lanes 2m and 2m + 1 into bits 3:0 and 7:4 of byte m (R133). -/
def packNibbles (f : Lanes) : Lanes :=
  ((f.map fun x => x.1 / 2).eraseDups).map fun b =>
    (b, (f.foldl (fun v x => if x.1 = 2 * b then x.2 % 16 else v) 0)
      + 16 * (f.foldl (fun v x => if x.1 = 2 * b + 1 then x.2 % 16 else v) 0))

/-- The nibble pre-stage: nibble 2b + j of the input bytes into bits 3:0 of lane 2b + j (R133). -/
def splitNibbles (f : Lanes) : Lanes := f.flatMap fun x => [(2 * x.1, x.2 % 16), (2 * x.1 + 1, x.2 / 16 % 16)]

/-- A frame passes the columns between the facet columns and the packer: the pre-stage in nibble mode, then the exchange stages. -/
def passFrame (nibble : Bool) (plan : List Nat) (f : Lanes) : Lanes :=
  let f := if nibble then splitNibbles (packNibbles f) else f
  f.map fun x => (route 11 plan x.1, x.2)

/-- The byte of a lane; 0 on a masked one. -/
def laneOf (f : Lanes) (l : Nat) : Nat := f.foldl (fun v x => if x.1 = l then x.2 else v) 0

/-- Elements (index, carried code) as the lanes of their frame `key`, in source order. -/
def Move.assemble (m : Move) (x : Box) (key : List Nat) (items : List (Nat × Nat)) : Lanes :=
  let mine := (items.map fun it => (m.framePos x it.1, it.2)).filter fun it => it.1.1 == key
  let at_ (it : (List Nat × (Nat × Nat) × Nat) × Nat) : Nat := x.inPos it.1.2.1.1 it.1.2.1.2
  ((mine.map at_).eraseDups).flatMap fun q =>
    let w := (mine.filter fun it => at_ it == q).foldl (fun w it => putBits w (m.carriedBits * it.1.2.2) m.carriedBits it.2) 0
    (List.range x.lanes).map fun j => (q * x.lanes + j, bitsOf w (8 * j) 8)

/-- The carried code of element `i` in a frame that has left the Prism; in nibble mode from the packed bytes. -/
def Move.extract (m : Move) (x : Box) (f : Lanes) (i : Nat) : Nat :=
  let pos := m.framePos x i
  let q := x.outPos pos.2.1.1 pos.2.1.2
  if m.nibble then bitsOf (laneOf (packNibbles f) (q / 2)) (4 * (q % 2)) 4
  else bitsOf (ofLE ((List.range x.lanes).map fun j => BitVec.ofNat 8 (laneOf f (q * x.lanes + j)))) (m.carriedBits * pos.2.2) m.carriedBits

/-- Elements (index, carried code) carried through the Prism by a plan: each frame is assembled in source order, passes the
exchange stages, and is read in destination order (R129). -/
def Move.carry (m : Move) (plan : List Nat) (items : List (Nat × Nat)) : List (Nat × Nat) :=
  let x := m.box
  ((items.map fun it => (m.framePos x it.1).1).eraseDups).flatMap fun key =>
    let f := passFrame m.nibble plan (m.assemble x key items)
    (items.filter fun it => (m.framePos x it.1).1 == key).map fun it => (it.1, m.extract x f it.1)

/-! ### Held source data (R120, R136, R137) -/

/-- The engine keeps source elements for later: EDGE or MIRROR pads, a broadcast, or a transposition. -/
def Move.keeps (m : Move) : Bool :=
  m.view.pm 0 != 0 || (List.range m.V).any fun d =>
    let x := m.view.dim d
    (m.view.padMode != 0 && (x.padb != 0 || x.pada != 0)) || (x.sstep == 0 && !(m.listed == 1 && d + 1 == m.V))

/-- Elements of a transpose tile along destination dimension 0 and along the one that takes source dimension 0: at most 8 KiB of
source data, in segments of at least 64 bytes on both sides where the counts allow (R137). -/
def Move.tileShape (m : Move) : Nat × Nat :=
  let a := max 1 (min (m.view.cnt 0) 128)
  (a, max 1 (min (m.view.cnt m.turnDim) (65536 / (a * elemBits m.src.dtype))))

/-- The number of a destination element with given coordinates. -/
def Move.indexOf (m : Move) (cs : List Nat) : Nat :=
  ((List.range m.V).foldl (fun (acc : Nat × Nat) k => (acc.1 + cs.getD k 0 * acc.2, acc.2 * m.view.cnt k)) (0, 1)).1

/-- The destination elements of the transpose tile that holds element `i` (R137). -/
def Move.tileOf (m : Move) (i : Nat) : List Nat :=
  let cs := m.coordsOf i
  let t := m.tileShape
  let b := m.turnDim
  let lo0 := cs.getD 0 0 / t.1 * t.1
  let lob := cs.getD b 0 / t.2 * t.2
  (List.range (min t.2 (m.view.cnt b - lob))).flatMap fun j =>
    (List.range (min t.1 (m.view.cnt 0 - lo0))).map fun k => m.indexOf ((cs.set 0 (lo0 + k)).set b (lob + j))

end Sys2Proof.Machine
end

