-- ==== Sys2Proof/Machine/Fp64.lean ====
section
/-! DEFINITION. FP64 arithmetic of the summaries and of the Loupe (R412, Table 15.4). -/
namespace Sys2Proof.Machine

/-- The FP64 code of an exact value, rounded to nearest even. -/
def f64Of (neg : Bool) (m : Nat) (e : Int) : Nat :=
  let s := b2n neg * 2 ^ 63
  if m = 0 then s
  else
    let q := max (ilog2 m e - 52) (-1074)
    let n := (roundTo .rne m e q).1
    let (n, q) := if n = 2 ^ 53 then (2 ^ 52, q + 1) else (n, q)
    if n < 2 ^ 52 then s + n
    else if 972 ≤ q then s + 0x7FF * 2 ^ 52
    else s + (q + 1075).toNat * 2 ^ 52 + (n - 2 ^ 52)

/-- Sign, mantissa and exponent of a finite FP64 code. -/
def f64Parts (c : Nat) : Bool × Nat × Int :=
  let x := bitsOf c 52 11
  let f := c % 2 ^ 52
  (bit c 63, if x = 0 then f else f + 2 ^ 52, if x = 0 then -1074 else (x : Int) - 1075)

/-- A mantissa and exponent as a signed multiple of `2 ^ q`, for `q` at most the exponent. -/
def scaled (x : Bool × Nat × Int) (q : Int) : Int := sgn x.1 (x.2.1 * 2 ^ (x.2.2 - q).toNat)

/-- FP64 addition of finite values, rounded to nearest even; an exact zero of mixed signs is +0. -/
def f64Add (a b : Nat) : Nat :=
  let x := f64Parts a
  let y := f64Parts b
  let q := min x.2.2 y.2.2
  let v := scaled x q + scaled y q
  if v = 0 then f64Of (x.1 && y.1 && x.2.1 == 0 && y.2.1 == 0) 0 0 else f64Of (decide (v < 0)) v.natAbs q

/-- The order of finite FP64 values. -/
def f64Lt (a b : Nat) : Bool :=
  let x := f64Parts a
  let y := f64Parts b
  let q := min x.2.2 y.2.2
  decide (scaled x q < scaled y q)

/-- +Inf and −Inf of FP64. -/
def f64PosInf : Nat := 0x7FF * 2 ^ 52
def f64NegInf : Nat := 0xFFF * 2 ^ 52

/-- A NaN code. -/
def f64Nan (c : Nat) : Bool := bitsOf c 52 11 == 0x7FF && c % 2 ^ 52 != 0

/-- An infinity. -/
def f64Inf (c : Nat) : Bool := c % 2 ^ 63 == f64PosInf

/-- A key that orders FP64 codes other than NaN, infinities included; ±0 are equal. -/
def f64Key (c : Nat) : Int := if bit c 63 then -((c % 2 ^ 63 : Nat) : Int) else ((c % 2 ^ 63 : Nat) : Int)

/-- An exact value `v * 2 ^ e` divided by `n`, rounded to nearest even. -/
def f64Quot (v : Int) (e : Int) (n : Nat) : Nat :=
  let k := 64 + Nat.log2 (n + 1)
  let a := v.natAbs * 2 ^ k
  -- the quotient with a sticky bit below it
  let q := 2 * (a / n) + (if a % n = 0 then 0 else 1)
  f64Of (decide (v < 0)) q (e - k - 1)

end Sys2Proof.Machine
end

