-- ==== Sys2Proof/Machine/Flags.lean ====
section
/-! DEFINITION. Event flags and the readiness of graph nodes (R316 to R318, R326), counter flags (R283, R284), and the
status and warning bits of a completion (R60, R171, R172, Tables 6.4 and 6.6). -/
namespace Sys2Proof.Machine

/-! ### Node entries (Table 11.1) -/

def Node.waitMask (n : Node) : Nat := leAt n.entry 0 8
def Node.waitWord (n : Node) : Nat := bitsOf (leAt n.entry 8 1) 0 4
def Node.any (n : Node) : Bool := bit (leAt n.entry 8 1) 4
def Node.clr (n : Node) : Bool := bit (leAt n.entry 8 1) 5
def Node.doneWord (n : Node) : Nat := bitsOf (leAt n.entry 9 1) 0 4
def Node.failWord (n : Node) : Nat := bitsOf (leAt n.entry 9 1) 4 4
def Node.affHint (n : Node) : Option Nat := if bit (leAt n.entry 10 1) 7 then some (bitsOf (leAt n.entry 10 1) 0 5) else none
def Node.timeout (n : Node) : Nat := leAt n.entry 12 4
def Node.doneMask (n : Node) : Nat := leAt n.entry 16 8
def Node.failMask (n : Node) : Nat := leAt n.entry 24 8
def Node.packet (n : Node) : List (BitVec 8) := (n.entry.drop 64).take (64 * (bitsOf (leAt n.entry 65 1) 0 2 + 1))

/-! ### Event flags -/

/-- Word `w` of a tenant's event flags (R316). -/
def State.flagWord (s : State) (t w : Nat) : Nat := spGet (fun _ => 0) s.sync.flags (16 * t + w)

/-- Put a word of event flags. -/
def State.setFlagWord (s : State) (t w v : Nat) : State :=
  { s with sync := { s.sync with flags := spSet (fun _ => 0) s.sync.flags (16 * t + w) (v % 2 ^ 64) } }

/-- The node's condition holds on a flag word (R318). -/
def Node.holds (n : Node) (word : Nat) : Bool :=
  if n.any then (word &&& n.waitMask) != 0 else (word &&& n.waitMask) == n.waitMask

/-- Entries of a tenant's ready list in use (R323). -/
def State.readyCount (s : State) (t : Nat) : Nat :=
  s.graphs.foldl (fun a g => if g.tenant = t then a + g.nodes.countP (·.st == .ready) else a) 0

/-- A tenant has held nodes (R326). -/
def State.tenantHeld (s : State) (t : Nat) : Bool := s.graphs.any fun g => g.tenant == t && g.nodes.any (·.st == .heldReady)

/-- The device slots of a tenant's nodes in a state, rising. -/
def State.nodeSlots (s : State) (t : Nat) (f : Node → Bool) : List Nat :=
  (s.graphs.foldl (fun (l : List (Nat × Unit)) g =>
    if g.tenant = t then
      (List.range g.nodes.length).foldl (fun l i =>
        match g.nodes[i]? with
        | some n => if f n then kvIns (g.first + i) () l else l
        | none => l) l
    else l) []).map (·.1)

/-- Apply `f` to the node at slot `k` of a tenant's loaded graphs. -/
def State.modNode (s : State) (t k : Nat) (f : Node → Node) : State :=
  { s with graphs := s.graphs.map fun (g : Graph) =>
      if g.tenant == t && decide (g.first ≤ k) && decide (k < g.first + g.nodes.length) then
        { g with nodes := modNth f (k - g.first) g.nodes } else g }

/-- The node at a slot of a tenant. -/
def State.nodeAt (s : State) (t k : Nat) : Option Node :=
  match s.graphs.find? fun g => g.tenant == t && decide (g.first ≤ k) && decide (k < g.first + g.nodes.length) with
  | some g => g.nodes[k - g.first]?
  | none => none

/-- An armed node becomes ready: it takes a ready-list entry, or is held in its slot when the list is full (R318,
R326). -/
def State.makeReady (s : State) (t k : Nat) : State :=
  let st := if s.readyCount t < 512 then NodeSt.ready else NodeSt.heldReady
  s.modNode t k fun n => { n with st := st, readyAt := s.cad.time }

/-- Evaluate a tenant's armed nodes on word `w`: every node whose condition holds becomes ready, in slot order, and the
clears of CLR follow in the next update of the word (R317, R318). -/
def State.evalFlags (s : State) (t w : Nat) : State :=
  let word := s.flagWord t w
  let hits := s.nodeSlots t fun n => n.st == .armed && n.waitWord == w && n.holds word
  let clears := hits.foldl (fun m k =>
    match s.nodeAt t k with
    | some n => if n.clr then m ||| n.waitMask else m
    | none => m) 0
  let s := hits.foldl (fun s k => s.makeReady t k) s
  if clears = 0 then s else s.setFlagWord t w (s.flagWord t w &&& (2 ^ 64 - 1 - clears))

/-- One update of a flag word: a set wins over a clear on each bit, and readiness is evaluated on the result (R317). -/
def State.flagUpdate (s : State) (t w set clr : Nat) : State :=
  let old := s.flagWord t w
  (s.setFlagWord t w ((old &&& (2 ^ 64 - 1 - clr % 2 ^ 64)) ||| set % 2 ^ 64)).evalFlags t w

/-- Held nodes enter the ready list as entries free, lowest slot first (R326). -/
def State.refillReady (s : State) (t : Nat) : State :=
  (s.nodeSlots t (·.st == .heldReady)).foldl (fun s k =>
    if s.readyCount t < 512 then s.modNode t k fun n => { n with st := .ready } else s) s

/-! ### Counters (R281, R283, R284) -/

/-- The pool counter that index `i` of tenant `t` names; none beyond the tenant's range (R281). -/
def State.poolCnt (s : State) (t i : Nat) : Option Nat :=
  if i < 64 * s.get (F.SYN_PART_COUNT t) then some (64 * s.get (F.SYN_PART_BASE t) + i) else none

/-- Value of a pool counter. -/
def State.cntVal (s : State) (n : Nat) : Nat := spGet (fun _ => 0) s.sync.cnt n
/-- Status word of a pool counter, laid out as TP_CST_i. -/
def State.cntSt (s : State) (n : Nat) : Nat := spGet (fun _ => 0) s.sync.cst n

def State.setCntVal (s : State) (n v : Nat) : State :=
  { s with sync := { s.sync with cnt := spSet (fun _ => 0) s.sync.cnt n (v % 2 ^ 32) } }
def State.setCntSt (s : State) (n v : Nat) : State :=
  { s with sync := { s.sync with cst := spSet (fun _ => 0) s.sync.cst n (v % 2 ^ 32) } }

/-- An event that sets OVF (0), UNF (1) or STALE (2) of counter `n` of tenant `t`: flag and count, and the tenant summary
flag (R284, R294). -/
def State.cntFlag (s : State) (t n k : Nat) : State :=
  let w := s.cntSt n
  let w := putBit (putBits w (8 * k) 8 (satAdd 255 (bitsOf w (8 * k) 8) 1)) (24 + k) true
  (s.setCntSt n w).stick (if k = 0 then F.TP_SYNOVF_OVF t else if k = 1 then F.TP_SYNUNF_UNF t else F.TP_SYNSTALE_STALE t)

/-- ADD v (Table 10.1). -/
def State.cntAdd (s : State) (t n v : Nat) : State :=
  let c := s.cntVal n
  if c + v < 2 ^ 32 then s.setCntVal n (c + v) else (s.setCntVal n (2 ^ 32 - 1)).cntFlag t n 0

/-- SUB v (Table 10.1). -/
def State.cntSub (s : State) (t n v : Nat) : State :=
  let c := s.cntVal n
  if v ≤ c then s.setCntVal n (c - v) else (s.setCntVal n 0).cntFlag t n 1

/-- SET v (Table 10.1). -/
def State.cntSet (s : State) (n v : Nat) : State := s.setCntVal n v

/-- A counter carries OVF or UNF (R288). -/
def State.cntSaturated (s : State) (n : Nat) : Bool := bit (s.cntSt n) 24 || bit (s.cntSt n) 25

/-! ### Status and warnings -/

def wLAUNCH_LATE : Nat := 0
def wSAT_WAIT : Nat := 1
def wLOCK_RETRY : Nat := 2
def wLOCK_BROKEN : Nat := 3
def wPLAN_MISS : Nat := 4
def wCLAMP : Nat := 5
def wBYTES_LB : Nat := 6
def wOVERRUN_SAT : Nat := 7

/-- The status class of Table 6.6. -/
def isRej (st : Nat) : Bool := 0x10 ≤ st && st ≤ 0x18
def isAbortFault (st : Nat) : Bool := 0x20 ≤ st

/-- DONE, DONE_WARN or LATE. -/
def isGood (st : Nat) : Bool := st ≤ 2

/-- The overrun of an admitted command that completes now: ns since the end of its tick (R60). -/
def State.overrun (s : State) (c : Cmd) : Nat := if c.admTick.isSome then s.cad.time - c.admEnd else 0

/-- Status, RESULT and WARN of a command that ends with `st` (R60, R171, R172). -/
def State.outcome (s : State) (c : Cmd) (st result : Nat) : Nat × Nat × Nat :=
  if isAbortFault st then (st, result, putBit c.warn wBYTES_LB true)
  else if isRej st then (st, result, c.warn)
  else if flTICKED (pFlags c.pkt) && 0 < s.overrun c then
    let o := s.overrun c
    (stLATE, min o 0xFFFFFFFF, if 0xFFFFFFFF < o then putBit c.warn wOVERRUN_SAT true else c.warn)
  else if bitsOf c.warn 0 4 = 0 then (stDONE, result, c.warn) else (stDONE_WARN, result, c.warn)

/-! ### Fields of a command -/

def Cmd.op (c : Cmd) : Nat := pOp c.pkt
def Cmd.flags (c : Cmd) : Nat := pFlags c.pkt
def Cmd.ticked (c : Cmd) : Bool := flTICKED c.flags
def Cmd.timed (c : Cmd) : Bool := flTIMED c.flags
/-- SEQ of the record: the packet's, or that of a graph node (R322). -/
def Cmd.seqNo (c : Cmd) : Nat :=
  match c.node with
  | some n => n.index % 4096 + 65536 * (n.launch % 256) + 16777216 * (n.graph % 256)
  | none => pSeq c.pkt

end Sys2Proof.Machine
end

