-- ==== Sys2Proof/Machine/LoupeCore.lean ====
section
/-! DEFINITION. The core of the Loupe (chapter 15): its configuration entries, event records with the LP port and the event
ring, patterns and the fault latch, what LPE_STATUS shows, and the failure of a Mirror pair. -/
namespace Sys2Proof.Machine

/-! ### Configuration entries (Tables 15.4 to 15.7) -/

def State.lpeRule (s : State) (i : Nat) : List (BitVec 8) := (kvFind s.lpe.rules i).getD []
def State.lpeWatch (s : State) (i : Nat) : List (BitVec 8) := (kvFind s.lpe.watchers i).getD []
def State.lpePair (s : State) (i : Nat) : List (BitVec 8) := (kvFind s.lpe.pairs i).getD []
/-- Pattern `p`, or zone `z` at index 256 + z. -/
def State.lpePat (s : State) (i : Nat) : List (BitVec 8) := (kvFind s.lpe.pats i).getD []

/-- CHAN, TENANT, VALID and the action byte (PATTERN and FAULT) of a rule entry. -/
def rlChan (e : List (BitVec 8)) : Nat := bitsOf (leAt e 0 2) 0 10
def rlTen (e : List (BitVec 8)) : Nat := bitsOf (leAt e 2 1) 0 4
def rlValid (e : List (BitVec 8)) : Bool := bit (leAt e 2 1) 7
def rlAction (e : List (BitVec 8)) : Nat := bitsOf (leAt e 4 1) 0 5

/-- Fields of a watcher entry; CHAN, TENANT and VALID lie as in a rule. -/
def waTicks (e : List (BitVec 8)) : Bool := bit (leAt e 2 1) 4
def waAction (e : List (BitVec 8)) : Nat := bitsOf (leAt e 3 1) 0 5
def waLimit (e : List (BitVec 8)) : Nat := leAt e 4 4

/-- Fields of a pair entry. -/
def paChan (e : List (BitVec 8)) (side : Bool) : Nat := bitsOf (leAt e (if side then 2 else 0) 2) 0 10
def paTen (e : List (BitVec 8)) (side : Bool) : Nat := bitsOf (leAt e 4 1) (if side then 4 else 0) 4
def paTolerant (e : List (BitVec 8)) : Bool := bit (leAt e 5 1) 0
def paDiverse (e : List (BitVec 8)) : Bool := bit (leAt e 5 1) 1
def paValid (e : List (BitVec 8)) : Bool := bit (leAt e 5 1) 7
def paAction (e : List (BitVec 8)) : Nat := bitsOf (leAt e 6 1) 0 5
def paWindow (e : List (BitVec 8)) : Nat := leAt e 8 4
def paTol (e : List (BitVec 8)) : Nat := leAt e 16 8

/-- Fields of a pattern entry. -/
def ptLatch (e : List (BitVec 8)) : Bool := bit (leAt e 1 1) 0
def ptHold (e : List (BitVec 8)) : Nat := leAt e 2 2

/-- Fields of a summary record (Table 15.2). -/
def smChan (r : List (BitVec 8)) : Nat := bitsOf (leAt r 0 2) 0 10
def smTen (r : List (BitVec 8)) : Nat := bitsOf (leAt r 2 1) 0 4
def smMirror (r : List (BitVec 8)) : Bool := bit (leAt r 2 1) 4
def smGate (r : List (BitVec 8)) : Bool := bit (leAt r 2 1) 5
def smStatus (r : List (BitVec 8)) : Nat := leAt r 3 1
def smSeq (r : List (BitVec 8)) : Nat := leAt r 4 4
def smUtag (r : List (BitVec 8)) : Nat := leAt r 8 2
def smEngine (r : List (BitVec 8)) : Nat := bitsOf (leAt r 10 1) 0 5

/-! ### What the Loupe shows (R416, R426, R427) -/

/-- An expired watcher holds pattern `p`. -/
def State.patWatched (s : State) (p : Nat) : Bool := s.lpe.expired.any fun w => waAction (s.lpeWatch w) % 16 == p

/-- Pattern `p` is active (R426). -/
def State.patActive (s : State) (p : Nat) : Bool :=
  if p = 0 then s.on F.LPE_STATUS_ARMED
  else if p = 1 then s.boot.phase == BootPhase.restart
  else s.patWatched p || bit s.lpe.latched p || s.lpe.holds.any (fun (h : Nat × Nat) => h.1 == p)

/-- LPE_ALARM.ACTIVE. -/
def State.patMask (s : State) : Nat := (List.range 15).foldl (fun m p => if s.patActive p then m + 2 ^ p else m) 0

/-- The pattern SAFE_OUT shows: 15 for the hardware fault pattern, else the highest active one. -/
def State.patShown (s : State) : Nat :=
  if s.lpe.hwLatch || !(s.on F.LPE_STATUS_ARMED) then 15
  else (List.range 15).foldl (fun a p => if s.patActive p then p else a) 0

/-- The LINE codes of SAFE_OUT[3:0]: 0 low, 1 high, 2 toggling (Table 15.7, LPE_HWPAT). Undriven lines are low. -/
def State.safeOut (s : State) : List Nat :=
  let p := s.patShown
  if s.lpe.unpowered || decide (4 ≤ s.get F.PWR_STATUS_STATE) then [0, 0, 0, 0]
  else if p = 15 then (List.range 4).map fun k => bitsOf (s.get F.LPE_HWPAT) k 1
  else (List.range 4).map fun k => bitsOf (leAt (s.lpePat p) 0 1) (2 * k) 2

/-- LPE_STATUS.STATE (Table 15.16). -/
def State.lpeState (s : State) : Nat :=
  if s.lpe.hwLatch then 4
  else if s.lpe.down = some .restart then 3
  else if s.boot.phase = BootPhase.recovery then 6
  else if s.boot.phase = BootPhase.restart then 2
  else if s.boot.phase ≠ BootPhase.run then 0
  else if s.get F.FW_STATUS_PAIRING = 3 ∨ s.lpe.lf = false then 7
  else if s.get F.FW_STATUS_PAIRING = 1 then 5
  else if s.lpe.down.isSome then 0 else 1

/-- SAFE_READY apart from ARMED, which it brings about where it is not yet so (R416). The hardware fault latch keeps the
Loupe from becoming ARMED. -/
def State.safeReady (s : State) : Bool :=
  s.get F.FW_STATUS_PAIRING == 0 && s.on F.LPE_CTRL_SAFE_EN && s.lpe.lf && s.lpe.down.isNone && !s.lpe.hwLatch
    && !s.lpe.unpowered && s.boot.phase == BootPhase.run && s.lpe.cfCrc == some (s.get F.LPE_CFG_CRC)

/-- Conditions that end ARMED (R416). -/
def State.disarms (s : State) : Bool :=
  !(s.on F.LPE_CTRL_SAFE_EN) || s.lpe.down.isSome || s.lpe.hwLatch || s.lpe.unpowered

/-- FAULT_N is asserted (R427). -/
def State.faultN (s : State) : Bool :=
  !(s.on F.LPE_STATUS_ARMED) || s.on F.LPE_STATUS_LATCH || s.boot.phase == BootPhase.restart || s.lpe.down.isSome || s.lpe.hwLatch

/-! ### Event records, the LP port and the event ring (R429, R436) -/

/-- An event record (Table 15.9). -/
def State.eventRec (s : State) (kind action index ten detail chan seq utag : Nat) : List (BitVec 8) :=
  leBytes 1 kind ++ leBytes 1 action ++ leBytes 2 index ++ leBytes 1 ten ++ leBytes 1 detail ++ leBytes 2 chan
    ++ leBytes 8 s.cad.time ++ leBytes 4 seq ++ leBytes 2 utag ++ List.replicate 10 0

/-- An LP frame of a type with an event record, while LP_EN is 1 and the Loupe has power (Table 15.8). -/
def State.lpFrame (s : State) (type : Nat) (event : List (BitVec 8)) : State :=
  if s.on F.LPE_CTRL_LP_EN && !s.lpe.unpowered then
    let flags := s.get F.LPE_STATUS_PATTERN + 16 * s.get F.LPE_STATUS_FAULT_N + 32 * s.get F.LPE_STATUS_SAFE_READY
      + 64 * s.get F.LPE_STATUS_ARMED
    let body := leBytes 2 0x4C50 ++ leBytes 1 1 ++ leBytes 1 type ++ leBytes 8 Config.serial.toNat ++ leBytes 4 s.lpe.lpSeq
      ++ leBytes 8 s.cad.time ++ leBytes 1 (s.get F.LPE_STATUS_STATE) ++ leBytes 1 flags ++ leBytes 2 (s.get F.LPE_ALARM_ACTIVE)
      ++ slice event 0 32
    let key := (List.range 8).flatMap fun k => leBytes 4 (s.get (F.LPE_LP_KEY k))
    let tag := if s.on F.LPE_CTRL_LP_AUTH then slice (Config.hmac256 key body) 0 16 else List.replicate 16 0
    let dst := beBytes 6 (s.get F.LPE_LP_DMAC_HI * 2 ^ 32 + s.get F.LPE_LP_DMAC_LO)
    let s := { s with lpe := { s.lpe with lpSeq := (s.lpe.lpSeq + 1) % 2 ^ 32 } }
    s.out (.lpFrame (withFcs (dst ++ beBytes 6 Config.lpMac.toNat ++ ([0x88, 0xB5] : List (BitVec 8)) ++ body ++ tag)))
  else s

/-- Write one record at the tail of the event ring; the answer is false where the ring is full, the write is refused, or the
main complex does not run (R436). -/
def State.elogWrite (s : State) (r : List (BitVec 8)) : Bool × State :=
  let da := s.get64 F.LPE_ELOG_BASE_LO
  let k := s.get F.LPE_ELOG_SIZE
  let tail := s.get F.LPE_ELOG_TAIL
  let off := daOff da + 32 * (tail % 2 ^ k)
  if s.boot.phase == BootPhase.restart || decide (2 ≤ s.get F.PWR_STATUS_STATE)
      || decide (2 ^ k ≤ (tail + 2 ^ 32 - s.get F.LPE_ELOG_HEAD) % 2 ^ 32) || !(s.isLocal (daChip da)) then (false, s)
  else
    match s.window 0 (s.get F.LPE_ELOG_WIN_ID) (s.get F.LPE_ELOG_WIN_GEN) with
    | none => (false, s)
    | some w =>
      if w.w && s.insideWindow w (daSpace da) off 32 then
        match s.bridleRange (daSpace da) 0 0x60 clsSYSTEM true off 32 with
        | (true, s) => (true, (s.memWrite (daSpace da) (cellsAt off r)).set F.LPE_ELOG_TAIL ((tail + 1) % 2 ^ 32))
        | (false, s) => (false, s)
      else (false, s)

/-- The event ring is enabled. -/
def State.elogOn (s : State) : Bool := s.get F.LPE_ELOG_WIN_ID != 0xFFFF

/-- Keep a record for later; beyond 1,024 the oldest is dropped (R436). -/
def State.elogKeep (s : State) (r : List (BitVec 8)) : State :=
  if s.lpe.kept.length < 1024 then { s with lpe := { s.lpe with kept := s.lpe.kept ++ [r] } }
  else ({ s with lpe := { s.lpe with kept := s.lpe.kept.drop 1 ++ [r] } } : State).stick F.LPE_ELOGDROP_ELOGDROP

/-- An event record goes to the LP port and, in order, to the ring. -/
def State.event (s : State) (r : List (BitVec 8)) : State :=
  let s := s.lpFrame 2 r
  if !(s.elogOn) then s
  else if !s.lpe.kept.isEmpty then s.elogKeep r
  else
    match s.elogWrite r with
    | (true, s) => s
    | (false, s) => s.elogKeep r

/-- Bring LPE_STATUS, LPE_ALARM and the pins up to date after any change: a new state is a STATE event, and a change of
ARMED, SAFE_READY or FAULT_N counts for vector 10 (Table 19.8). -/
def State.lpeUpdate (s : State) : State :=
  let was := (s.get F.LPE_STATUS_ARMED, s.get F.LPE_STATUS_SAFE_READY, s.get F.LPE_STATUS_FAULT_N)
  let st := s.get F.LPE_STATUS_STATE
  let ready := s.safeReady
  let armed := ready || (s.on F.LPE_STATUS_ARMED && !(s.disarms))
  let s := (s.set F.LPE_STATUS_ARMED (b2n armed)).set F.LPE_STATUS_SAFE_READY (b2n ready)
  let s := s.set F.LPE_STATUS_FAULT_N (b2n s.faultN)
  let s := (s.set F.LPE_STATUS_PATTERN s.patShown).set F.LPE_ALARM_ACTIVE s.patMask
  let s := s.set F.LPE_STATUS_STATE s.lpeState
  let s := if s.get F.LPE_STATUS_STATE = st then s else s.event (s.eventRec 7 0 0 0 (s.get F.LPE_STATUS_STATE) 0 0 0)
  if was = (s.get F.LPE_STATUS_ARMED, s.get F.LPE_STATUS_SAFE_READY, s.get F.LPE_STATUS_FAULT_N) then s else s.irq 10

/-! ### Actions (R426, R427) -/

/-- Hold an alarm pattern active for its HOLD_MS from now. -/
def State.patHold (s : State) (p : Nat) : State :=
  let h := ptHold (s.lpePat p)
  if h = 0 then s
  else
    let t := s.cad.time + 1000000 * h
    let old := (kvFind s.lpe.holds p).getD 0
    { s with lpe := { s.lpe with holds := kvIns p (max t old) s.lpe.holds } }

/-- Raise an action: its alarm pattern for an instant, held and latched as the pattern says, and the fault latch; `by_` is
the watcher that raises it, if one does. -/
def State.raise (s : State) (action : Nat) (by_ : Option Nat) : State :=
  let p := action % 16
  let s := if 2 ≤ p ∧ p ≤ 14 then
      let s := { s with lpe := { s.lpe with raised := true } }
      let s := if by_.isSome then s else s.patHold p
      if ptLatch (s.lpePat p) then { s with lpe := { s.lpe with latched := putBit s.lpe.latched p true } } else s
    else s
  if bit action 4 then
    let s := if s.on F.LPE_STATUS_LATCH then s else { s with lpe := { s.lpe with latchBy := by_ } }
    s.set F.LPE_STATUS_LATCH 1
  else s

/-- The verdict for a gated command is on its way (R419). -/
def State.verdict (s : State) (id : Nat) (r : List (BitVec 8)) (pass : Bool) : State :=
  if smGate r then { s with lpe := { s.lpe with verdicts := s.lpe.verdicts ++ [(id, pass)] } } else s

/-- Pair `i` fails with a cause: its action, LPE_MIRR and a MIRROR_FAIL record of the summary `r` (R421, Table 15.9). -/
def State.pairFail (s : State) (i cause : Nat) (r : List (BitVec 8)) : State :=
  let a := paAction (s.lpePair i)
  let s := (s.raise a none).stick F.LPE_MIRR_MIRR
  s.event (s.eventRec 4 a i (smTen r) cause (smChan r) (smSeq r) (smUtag r))

/-- The valid pair a channel of a tenant is in, and its side. -/
def State.pairOf (s : State) (chan ten : Nat) : Option (Nat × Bool) :=
  s.lpe.pairs.findSome? fun (x : Nat × List (BitVec 8)) =>
    if paValid x.2 && paChan x.2 false == chan && paTen x.2 false == ten then some (x.1, false)
    else if paValid x.2 && paChan x.2 true == chan && paTen x.2 true == ten then some (x.1, true) else none

/-- An unpaired summary is missing its partner (R420). -/
def State.missing (s : State) (u : Unpaired) : State :=
  let s := { s with lpe := { s.lpe with unpaired := s.lpe.unpaired.erase u } }
  ((s.pairFail u.pair 1 u.rec').verdict u.cmd u.rec' false).lpeUpdate

/-- A summary that finds the queue full is lost: SUMLOST, an event record, and its partner, now or when it comes, is missing it
(R418, R420). -/
def State.summaryLost (s : State) (r : List (BitVec 8)) : State :=
  let s := s.stick F.LPE_SUMLOST_SUMLOST
  let s := s.event (s.eventRec 8 0 0 (smTen r) 0 (smChan r) (smSeq r) (smUtag r))
  if smMirror r then
    match s.pairOf (smChan r) (smTen r) with
    | none => s
    | some (i, side) =>
      match s.lpe.unpaired.find? (fun (u : Unpaired) => u.pair == i && u.side != side && smUtag u.rec' == smUtag r) with
      | some u => s.missing u
      | none => { s with lpe := { s.lpe with lostMates := s.lpe.lostMates ++ [(i, side, smUtag r)] } }
  else s

end Sys2Proof.Machine
end

