-- ==== Sys2Proof/Machine/Summary.lean ====
section
/-! DEFINITION. In-flight summaries (R410 to R413): FP64 sums, dense CRC-32C, counts, and the values of a block. -/
namespace Sys2Proof.Machine

/-! ### The sum of a block (R412) -/

/-- One level of the tree: values 2i and 2i + 1 added. -/
def pairSums : List Nat → List Nat
  | a :: b :: t => f64Add a b :: pairSums t
  | l => l

/-- A block of up to 64 values summed by six levels, padded with +0.0. -/
def blockSum (l : List Nat) : Nat :=
  let l := l ++ List.replicate (64 - l.length) 0
  ((pairSums (pairSums (pairSums (pairSums (pairSums (pairSums l)))))).headD 0)

/-! ### Elements -/

/-- SUM of a destination type is an exact integer (SUMKIND 1). -/
def sumInt (dt : Nat) : Bool := isInt dt

/-- An element encoding at a saturation value of the type (R412). -/
def satCode (dt code : Nat) : Bool :=
  if dt == 0xF then code == 127 || code == 128
  else if isInt dt then
    code == unsigned (elemBits dt) (intRange dt).2 || (isSInt dt && code == unsigned (elemBits dt) (intRange dt).1)
  else code == maxCode dt false || code == maxCode dt true

/-- The value of an element as FP64: +0.0 for a NaN or an infinity. -/
def Val.f64 : Val → Nat
  | .fin n m e => f64Of n m e
  | _ => 0

/-- Add to a count that saturates at 0xFFFF_FFFF. -/
def cnt32 (a b : Nat) : Nat := satAdd 0xFFFFFFFF a b

/-- One destination element joins the summary: its value after the cast and its code. -/
def Summary.addElem (y : Summary) (dt : Nat) (v : Val) (code : Nat) : Summary :=
  let f := v.f64
  let fin := match v with | .fin _ _ _ => true | _ => false
  let blk := y.blk ++ [f]
  let full := blk.length = 64
  { y with
    elems := cnt32 y.elems 1
    nan := cnt32 y.nan (match v with | .nan _ => 1 | _ => 0)
    inf := cnt32 y.inf (match v with | .inf _ => 1 | _ => 0)
    satv := cnt32 y.satv (b2n (satCode dt code))
    minV := if !fin then y.minV else match y.minV with | some a => some (if f64Lt f a then f else a) | none => some f
    maxV := if !fin then y.maxV else match y.maxV with | some a => some (if f64Lt a f then f else a) | none => some f
    blk := if sumInt dt then [] else if full then [] else blk
    sumF := if sumInt dt then none else if full then some (match y.sumF with | some a => f64Add a (blockSum blk) | none => blockSum blk)
      else y.sumF
    sumI := if sumInt dt then y.sumI + (match v with | .fin n m e => sgn n (m * 2 ^ e.toNat) | _ => 0) else y.sumI }

/-- Codes of `b` bits packed densely, little-endian (R108). -/
def packCodes (b : Nat) (cs : List Nat) : List (BitVec 8) :=
  leBytes ((cs.length * b + 7) / 8) ((cs.foldl (fun (a : Nat × Nat) c => (a.1 + c % 2 ^ b * 2 ^ a.2, a.2 + b)) (0, 0)).1)

/-- Dense bytes join the CRC. -/
def Summary.addBytes (y : Summary) (l : List (BitVec 8)) : Summary :=
  { y with crc := (crc32cFrom (BitVec.ofNat 32 y.crc) l).toNat }

/-- CRC of the whole: elements, then scale bytes in block order. -/
def Summary.crcOut (y : Summary) : Nat := (~~~ (crc32cFrom (BitVec.ofNat 32 y.crc) y.scales)).toNat

/-- SUM of the whole. -/
def Summary.sumOut (y : Summary) (dt : Nat) : Nat :=
  if sumInt dt then unsigned 64 (max (-(2 ^ 63 : Nat)) (min ((2 ^ 63 : Nat) - 1) y.sumI))
  else
    match y.sumF, y.blk with
    | some a, [] => a
    | some a, b => f64Add a (blockSum b)
    | none, [] => 0
    | none, b => blockSum b

/-- Bytes 32 to 79 of a summary record (Table 15.2). -/
def Summary.tail (y : Summary) (dt : Nat) : List (BitVec 8) :=
  leBytes 4 y.crcOut ++ leBytes 4 y.elems ++ leBytes 4 y.nan ++ leBytes 4 y.inf ++ leBytes 4 y.clamp ++ leBytes 4 y.satv
    ++ leBytes 8 (y.minV.getD f64PosInf) ++ leBytes 8 (y.maxV.getD f64NegInf) ++ leBytes 8 (y.sumOut dt)

/-- The 80-byte summary of a command that ends with a status (Table 15.2, R411, R413); `c.bytes` is as in the record. -/
def State.summaryRecord (s : State) (c : Cmd) (st : Nat) : List (BitVec 8) :=
  let dt := (c.moves.getLast?.map fun m => m.dst.dtype).getD 0
  let ch := match c.op with
    | 0x11 => leAt c.pkt 40 2
    | _ => leAt c.pkt 44 2
  leBytes 2 (bitsOf ch 0 10)
    ++ leBytes 1 (c.tenant + 16 * b2n (flMIRROR c.flags) + 32 * b2n (bit ch 15)) ++ leBytes 1 st ++ leBytes 4 c.seqNo
    ++ leBytes 2 (pUtag c.pkt) ++ leBytes 1 ((c.moves.getLast?.map fun m => m.engine).getD 0 % 32)
    ++ leBytes 1 (dt + 16 * b2n (sumInt dt)) ++ leBytes 6 (c.admTick.getD s.tick)
    ++ leBytes 6 (if isRej st then 0 else c.bytes) ++ leBytes 8 s.cad.time
    ++ (if isGood st then c.summary.tail dt else List.replicate 48 0)

/-- Byte offset of LCHAN in an engine command's packet; none for other opcodes. -/
def Cmd.lchan (c : Cmd) : Nat :=
  if c.op = 0x11 then leAt c.pkt 40 2 else if isEngineOp c.op then leAt c.pkt 44 2 else 0

/-- CHAN and GATE of a command (R410). -/
def Cmd.chan (c : Cmd) : Nat := bitsOf c.lchan 0 10
def Cmd.gate (c : Cmd) : Bool := bit c.lchan 15

/-- A summary goes to the Loupe's queue of 4,096; one that finds it full is lost (R411, R418). The answer says whether it
was taken. -/
def State.sendSummary (s : State) (c : Cmd) (st : Nat) : Bool × State :=
  let r := s.summaryRecord c st
  if s.lpe.inbox.length < 4096 then
    (true, ({ s with lpe := { s.lpe with inbox := s.lpe.inbox ++ [(c.id, r)] } }).bump F.LPE_SUMCNT 1)
  else (false, s.summaryLost r)

end Sys2Proof.Machine
end

