-- ==== Sys2Proof/Machine/Records.lean ====
section
/-! DEFINITION. Chapter 06: decoded commands, their end, completion records, interrupt moderation and MSI-X. -/
namespace Sys2Proof.Machine

/-! ### Commands, queues and tenants -/

def State.cmd? (s : State) (id : Nat) : Option Cmd := s.cmds.find? (·.id == id)
def State.setCmd (s : State) (c : Cmd) : State :=
  { s with cmds := s.cmds.map fun x => if x.id = c.id then c else x }
def State.modCmd (s : State) (id : Nat) (f : Cmd → Cmd) : State :=
  { s with cmds := s.cmds.map fun x => if x.id = id then f x else x }

/-- The state of a queue; one nothing has used is empty. -/
def State.queueSt (s : State) (t q : Nat) : QueueSt :=
  (s.queues.find? fun x => x.tenant == t && x.queue == q).getD ⟨t, q, [], [], none, none, [], []⟩
def State.setQueue (s : State) (x : QueueSt) : State :=
  { s with queues := s.queues.filter (fun y => !(y.tenant == x.tenant && y.queue == x.queue)) ++ [x] }

def State.tenantSt (s : State) (t : Nat) : TenantSt :=
  (s.tenants.find? (·.tenant == t)).getD ⟨t, [], 0, 0, false⟩
def State.setTenant (s : State) (x : TenantSt) : State :=
  { s with tenants := s.tenants.filter (·.tenant != x.tenant) ++ [x] }

/-- Byte 10 of a trace record: tenant, queue, node (Table 16.13). -/
def Cmd.traceTen (c : Cmd) : Nat := c.tenant + 16 * (if c.node.isSome then 0 else c.queue) + 128 * b2n c.node.isSome

/-- An empty summary (R412). -/
def summaryZero : Summary where
  crc := 0xFFFFFFFF
  scales := []
  elems := 0
  nan := 0
  inf := 0
  clamp := 0
  satv := 0
  minV := none
  maxV := none
  blk := []
  sumF := none
  sumI := 0

/-- The units of Table 6.3: 0 engine, 1 Awl path, 2 CF, 3 front end, 4 graph scheduler. -/
def unitOf (op : Nat) : Nat :=
  if isEngineOp op then 0 else if isAwlOp op then 1 else if isFirmware op then 2 else 3

/-- A command as decoded. -/
def State.freshCmd (s : State) (t q : Nat) (pkt : List (BitVec 8)) (node : Option NodeRef) : Cmd where
  id := s.nextId
  tenant := t
  queue := q
  pkt := pkt
  node := node
  phase := .front
  started := false
  startedAt := 0
  launch := pLaunch pkt
  late := false
  decodedAt := s.cad.time
  seqId := none
  stream := 4096
  engine := 0
  unit := unitOf (pOp pkt)
  moves := []
  maps := []
  stage := 0
  done := 0
  staged := []
  inArea := none
  outArea := none
  resv := 0
  placed := false
  fetched := []
  asked := []
  looked := []
  tagged := []
  hits := []
  waitFills := []
  summary := summaryZero
  bytes := 0
  crc := 0
  warn := 0
  retry := 0
  status := 0
  result := 0
  admTick := none
  admEnd := 0
  servedAt := 0
  startOrder := 0
  activeOrder := 0
  deadline := none
  lockTry := .none
  sense := none
  cursor := 0
  handles := []
  signalled := false
  gated := false
  verdict := none
  drain := []

/-- The CMD_DECODE trace record of a queue's command, by the front end of its home quadrant (R232, Table 16.14; R465: none for a
graph node). -/
def State.traceDecode (s : State) (c : Cmd) : State :=
  if c.node.isSome then s
  else s.trace 0x01 (32 * 3 + s.get (F.ENG_QDEF_HOME c.tenant c.queue)) c.traceTen c.seqNo (leBytes 1 c.op ++ leBytes 2 c.flags ++ leBytes 1 (pLen c.pkt)
      ++ leBytes 2 (pUtag c.pkt) ++ leBytes 2 (pStream c.pkt) ++ leBytes 6 (c.admTick.getD 0))

/-- Add a decoded command; a queue's command joins its submission order. Its CMD_DECODE record, which carries the admitted
tick, waits for the admission of a TICKED command. -/
def State.addCmd (s : State) (c : Cmd) : State :=
  let s := { s with cmds := s.cmds ++ [c], nextId := s.nextId + 1 }
  match c.node with
  | some _ => s
  | none =>
    let x := s.queueSt c.tenant c.queue
    let s := s.setQueue { x with order := x.order ++ [c.id] }
    if c.ticked then s else s.traceDecode c

/-- A command is admitted to a tick, whose end is the edge of the next one (R54, R60). -/
def State.admitted (s : State) (id tick : Nat) : State :=
  let s := s.modCmd id fun (c : Cmd) => { c with admTick := some tick, admEnd := s.edgeOf (tick + 1) }
  match s.cmd? id with
  | some c => s.traceDecode c
  | none => s

/-! ### The completion queue (R151, R167 to R169, R173) -/

def State.cqSize (s : State) (t : Nat) : Nat := 2 ^ s.get (F.TP_CQ_CFG_SIZE t)
def State.cqBase (s : State) (t : Nat) : Nat := s.get (F.TP_CQ_BASE_LO t) + 2 ^ 32 * s.get (F.TP_CQ_BASE_HI t)

/-- CQ slots reserved for commands that are decoded, for launched nodes, and for pending records (R169, R321). -/
def State.cqReserved (s : State) (t : Nat) : Nat :=
  (s.cmds.countP fun c => c.tenant == t && c.node.isNone) + (s.tenantSt t).pendingRecs.length
    + s.graphs.foldl (fun a g => if g.tenant == t && g.launch.isSome then a + g.nodes.countP (·.st != .recorded) else a) 0

/-- Records in the ring that the tenant has not consumed. -/
def State.cqUsed (s : State) (t : Nat) : Nat := (s.get (F.TP_CQ_TAIL t) + 2 ^ 32 - s.get (F.TP_CQ_HEAD t)) % 2 ^ 32

/-- Free CQ slots (R169). -/
def State.cqFree (s : State) (t : Nat) : Nat := s.cqSize t - s.cqUsed t - s.cqReserved t

/-- A write of the device into a HOST or SRAM area of a tenant; none where a page of it fails in a way the device sees. SRAM always
accepts the write (R173, R195). -/
def State.areaWrite (s : State) (t da : Nat) (l : List (BitVec 8)) : Option State :=
  if daSpace da = 4 then
    if !(s.extInside t 4 (daOff da) l.length) || (pagesOf (daOff da) l.length).any (fun p => s.extFails t 4 (4096 * p) true) then none
    else some ((List.range l.length).foldl (fun s k =>
      match s.extAddr t 4 (daOff da + k) with
      | some (sp, a) => s.extWrite sp a [l.getD k 0]
      | none => s) (s.atsUse t ((List.range l.length).filterMap fun k => (s.extAddr t 4 (daOff da + k)).map (·.2))))
  else some (s.memWrite 1 (cellsAt (daOff da) l))

/-- Byte 15 of a record with its PHASE bit (R168). -/
def withPhase (r : List (BitVec 8)) (idx size : Nat) : List (BitVec 8) :=
  r.take 15 ++ leBytes 1 ((r.getD 15 0).toNat % 128 + 128 * b2n (idx / size % 2 == 0)) ++ r.drop 16

/-- The tenant's interrupt moderation after a record is written (R180). -/
def State.irqRecord (s : State) (t : Nat) (irq : Bool) : State :=
  let x := s.tenantSt t
  let n := x.irqCount + 1
  if irq || s.get (F.TP_IRQ_COUNT t) ≤ n then (s.setTenant { x with irqCount := 0 }).msix t 0
  else s.setTenant { x with irqCount := n, irqOldest := if x.irqCount = 0 then s.cad.time else x.irqOldest }

/-- Write one record at TAIL; none where the write fails: a refused HOST write, or a stale window of an SRAM CQ (R167, R168, R173,
R181). -/
def State.cqPut (s : State) (t : Nat) (r : List (BitVec 8)) (irq : Bool) : Option State :=
  let tail := s.get (F.TP_CQ_TAIL t)
  let da := s.cqBase t + 32 * (tail % s.cqSize t)
  let stale := daSpace da != 4 && (s.window t (s.get (F.TP_CQ_WIN_ID t)) (s.get (F.TP_CQ_WIN_GEN t))).isNone
  match (if stale then none else s.areaWrite t da (withPhase r tail (s.cqSize t))) with
  | some s => some ((s.set (F.TP_CQ_TAIL t) ((tail + 1) % 2 ^ 32)).irqRecord t irq)
  | none => none

/-- A queue or the CQ of a tenant is halted: its bit of CMQ_HALTED (Table 6.10). -/
def State.tenantHalted (s : State) (t : Nat) : Bool :=
  s.on (F.TP_CQ_STATUS_HALT t) || (List.range 8).any fun q => s.on (F.TP_Q_STATUS_HALT t q)

/-- What every halt does beside its HALT bit: TP_HALT, vector 1, and vector 17 where the CMQ_HALTED bit rises
(`was` is the bit before; Tables 6.7 and 19.8). -/
def State.haltNote (s : State) (t : Nat) (was : Bool) : State :=
  let s := (s.stick (F.TP_HALT_HALT t)).msix t 1
  if was then s else s.irq 17

/-- The CQ halts (R173). -/
def State.haltCq (s : State) (t : Nat) : State := (s.set (F.TP_CQ_STATUS_HALT t) 1).haltNote t (s.tenantHalted t)

/-- Write a record of queue `q` (8: of a graph node), or keep it in order behind the records a halted CQ holds (R173). -/
def State.record (s : State) (t : Nat) (r : List (BitVec 8)) (irq : Bool) (q : Nat) : State :=
  let keep (s : State) : State :=
    let x := s.tenantSt t
    s.setTenant { x with pendingRecs := x.pendingRecs ++ [(r, irq, q)] }
  if s.on (F.TP_CQ_STATUS_HALT t) then keep s
  else
    match s.cqPut t r irq with
    | some s => s
    | none => (keep s).haltCq t

/-- RESUME of a halted CQ writes the pending records in order, from the one that failed (R173). -/
def State.cqResume (s : State) (t : Nat) : State :=
  let recs := (s.tenantSt t).pendingRecs
  let s := (s.set (F.TP_CQ_STATUS_HALT t) 0).setTenant { s.tenantSt t with pendingRecs := [] }
  recs.foldl (fun s r => s.record t r.1 r.2.1 r.2.2) s

/-! ### Records (Table 6.3) -/

/-- The 32 bytes of a command's record, PHASE apart. Under format 2.0 RESULT is 0 but for HELLO and creations (R177). -/
def State.recordOf (s : State) (c : Cmd) : List (BitVec 8) :=
  let fmt2 := s.get (F.TP_FMT_MAJOR c.tenant) == 2 && c.op != 0x02 && c.op != 0x08 && c.op != 0x0C
  let eng := if c.unit = 0 then c.engine else 0
  leBytes 4 c.seqNo ++ leBytes 1 c.status ++ leBytes 1 (eng % 32 + 32 * c.unit) ++ leBytes 2 c.warn
    ++ leBytes 6 (c.admTick.getD s.tick) ++ leBytes 1 (min 255 c.retry)
    ++ leBytes 1 (if c.node.isSome then 0 else c.queue) ++ leBytes 6 (if isRej c.status then 0 else c.bytes)
    ++ leBytes 2 (pUtag c.pkt) ++ leBytes 4 (if isRej c.status then 0 else c.crc) ++ leBytes 4 (if fmt2 then 0 else c.result)

/-- A launch whose nodes all have records completes: the launch number advances (R322). -/
def Graph.settle (g : Graph) : Graph :=
  match g.launch with
  | some l =>
    if l.released.isSome && g.nodes.all (·.st == .recorded) then
      { g with launch := none, launchNo := g.launchNo + 1,
               nodes := g.nodes.map fun (n : Node) => { n with st := .idle } }
    else g
  | none => g

/-- Mark a node recorded, and settle its launch. -/
def State.nodeRecorded (s : State) (t slot : Nat) : State :=
  let s := s.modNode t slot fun n => { n with st := .recorded }
  { s with graphs := s.graphs.map Graph.settle }

/-- A recorded command of a queue whose VC1 messages are still unacknowledged is remembered for the fences behind it (R164). -/
def State.noteLoose (s : State) (c : Cmd) : State :=
  let x := s.queueSt c.tenant c.queue
  let l := (x.loose ++ [c.id]).filter fun i => !(s.vc1Open i).isEmpty
  if l = x.loose then s else s.setQueue { x with loose := l }

/-- A command's end leaves the trace and its record (R170, Table 16.14). -/
def State.writeRecord (s : State) (c : Cmd) : State :=
  let s := s.trace 0x03 (32 * c.unit + (if c.unit = 0 then c.engine else 0)) c.traceTen c.seqNo
    (leBytes 1 c.status ++ leBytes 2 c.warn ++ leBytes 1 0 ++ leBytes 6 c.bytes)
  let s := s.record c.tenant (s.recordOf c) (flIRQ c.flags) (if c.node.isSome then 8 else c.queue)
  let s := if c.node.isNone then s.noteLoose c else s
  let s := { s with cmds := s.cmds.filter (·.id != c.id) }
  match c.node with
  | some n => s.nodeRecorded c.tenant n.slot
  | none => s

/-- Write the records of the ended commands that lead a queue's submission order (R170). -/
def State.flush (s : State) (t q : Nat) : State :=
  (s.queueSt t q).order.foldl (fun s id =>
    match s.cmd? id with
    | some c =>
      let x := s.queueSt t q
      if x.order.head? == some id && c.phase == .ended then (s.setQueue { x with order := x.order.drop 1 }).writeRecord c
      else s
    | none => s) s

/-! ### Ending a command -/

/-- The flag update of a node whose payload ended with `st`: DONE_MASK or FAIL_MASK (R319). -/
def State.nodeFlags (s : State) (t slot st : Nat) : State :=
  match s.nodeAt t slot with
  | some n =>
    if isGood st then (if n.doneMask = 0 then s else s.flagUpdate t n.doneWord n.doneMask 0)
    else if n.failMask = 0 then s else s.flagUpdate t n.failWord n.failMask 0
  | none => s

/-- The node's flag update would set a flag. -/
def State.nodeSets (s : State) (t slot st : Nat) : Bool :=
  match s.nodeAt t slot with
  | some n => if isGood st then n.doneMask != 0 else n.failMask != 0
  | none => false

/-- An ended node command: its flags, then its record; both wait while the tenant has held nodes (R319, R326). -/
def State.endNode (s : State) (c : Cmd) (slot : Nat) : State :=
  if s.tenantHeld c.tenant && s.nodeSets c.tenant slot c.status then s.setCmd { c with phase := .held }
  else ((s.setCmd c).nodeFlags c.tenant slot c.status).writeRecord c

/-- The command has not left the front end: a rejection or a failed read is then the front end's own, and its record names
it (Table 6.3). -/
def Cmd.inFrontEnd (c : Cmd) : Bool :=
  !c.started && (c.phase == .front || c.phase == .metadata || c.phase == .deferred || c.phase == .timed)

/-- RESULT of a command that ends with one: a batch of creations reports the number created, whatever ends it (R166). -/
def Cmd.resultOf (c : Cmd) (result : Nat) : Nat :=
  if c.op = 0x0C && decide (2 ≤ leAt c.pkt 36 1) && !c.handles.isEmpty then c.handles.length else result

/-- A begin that is rejected opens no sequence (R163). Its queue has decoded nothing behind it. -/
def State.seqUnopened (s : State) (c : Cmd) : State :=
  let s := { s with lockSeqs := s.lockSeqs.filter fun x => !(x.id == c.id) }
  let x := s.queueSt c.tenant c.queue
  if x.openSeq = some c.id then s.setQueue { x with openSeq := none } else s

/-- End a command with a status: warnings and precedence of R172, LATE with its flag (R60), LOVR and others being set by
who ends it; then its record in its turn (R170). -/
def State.finish (s : State) (id st result : Nat) : State :=
  match s.cmd? id with
  | none => s
  | some c =>
    if c.phase == .ended then s
    else
      let s := { s with cf := s.cf.filter (· != id) }
      let (st', res, w) := s.outcome c st (c.resultOf result)
      let s := if c.ticked && c.admTick.isNone then s.traceDecode c else s
      let s := if c.chan != 0 && !c.gated then (s.sendSummary c st').2 else s
      let s := if st' = stLATE then s.stickIrq F.CAD_LATE_LATE 15 else s
      let s := if flLOCK c.flags = 1 && c.phase == .metadata && isRej st' then s.seqUnopened c else s
      -- a CRC counts only where the data was written in full (Table 6.3)
      let c := { c with crc := if isAbortFault st' && c.phase != Phase.drained then 0 else c.crc }
      let c := { c with phase := .ended, status := st', result := res, warn := w, staged := [], inArea := none, outArea := none,
                        resv := 0, fetched := [], tagged := [], waitFills := [], lockTry := .none,
                        unit := if (isRej st' || st' = stFAULT_LINK || st' = stFAULT_ECC) && c.inFrontEnd then 3 else c.unit }
      -- an end mark closes its sequence (R270)
      let s := match c.seqId with
        | some q => if flLOCK c.flags = 3 then { s with lockSeqs := s.lockSeqs.filter (·.id != q) } else s
        | none => s
      match c.node with
      | some n => s.endNode c n.slot
      | none => (s.setCmd c).flush c.tenant c.queue

/-- End a command with REJ_FORMAT found in its packet at byte `i` (Table 6.5). -/
def State.rejFormat (s : State) (id i : Nat) : State := s.finish id stREJ_FORMAT (2 ^ 31 + i % 256)

/-- End a command with a status and RESULT 0. -/
def State.fail (s : State) (id st : Nat) : State := s.finish id st 0

/-- A command that has started fails inside the device: FAULT_INTERNAL, and the fault record of R524. -/
def State.internalFail (s : State) (id : Nat) : State :=
  let sq := match s.cmd? id with | some c => c.seqNo | none => 0
  (s.fault 3 0x50 0x40 stFAULT_INTERNAL 0x50 0 sq 0 []).fail id stFAULT_INTERNAL

/-! ### Wake (R471, R473) -/

/-- A POWER trace record (Table 16.14). -/
def State.powerTrace (s : State) (k n : Nat) : State := s.trace 0x05 0xC0 0 0 (leBytes 1 k ++ leBytes 1 n)

/-- Table 17.4: source `code` wakes the device from state `n`. -/
def State.wakes (s : State) (n code : Nat) : Bool :=
  let en := s.get F.PWR_WAKE_EN
  match code with
  | 1 => 1 ≤ n && n ≤ 3
  | 2 | 3 => 1 ≤ n && n ≤ 2
  | 4 | 5 | 6 => 1 ≤ n && n ≤ 4
  | 7 => n == 1 && bit en 0
  | 8 => 1 ≤ n && n ≤ 2 && bit en 1
  | 9 => 1 ≤ n && n ≤ 3 && bit en 2
  | 10 => n == 1
  | _ => false

/-- An entry in progress is abandoned: S0, fetching resumes, ABANDON is set, and the request's record is DONE (R471). -/
def State.abandon (s : State) (n : Nat) (id : Option Nat) : State :=
  let s := { s with pwr := { s.pwr with entry := none } }
  let s := match id with
    | some i => s.finish i stDONE 0
    | none => s
  (s.powerTrace 2 n).stick F.PWR_ABANDON_ABANDON

/-- A wake source fires (R471, R473). -/
def State.wake (s : State) (code : Nat) : State :=
  match s.pwr.entry with
  | some (n, id) => if s.wakes n code then s.abandon n id else s
  | none =>
    let n := s.get F.PWR_STATUS_STATE
    if s.pwr.leaving || !(s.wakes n code) then s
    else
      let s := { s.set F.PWR_WAKE_CAUSE code with pwr := { s.pwr with leaving := true } }
      if n = 4 then { s with pcie := { s.pcie with wakeN := s.pcie.wakeN || s.pcie.pmeOff } } else s

/-! ### Interrupt moderation by age (R180) -/

/-- The oldest pending record has waited TP_IRQ.TIME µs: vector 0 is sent. -/
def State.irqTimer (s : State) (t : Nat) : State :=
  let x := s.tenantSt t
  if s.get (F.TP_IRQ_TIME t) = 0 || x.irqCount = 0 then s
  else
    let s := s.advance (x.irqOldest + 1000 * s.get (F.TP_IRQ_TIME t))
    (s.setTenant { x with irqCount := 0 }).msix t 0

/-- IRQ_MODERATION_TIMER (R180). -/
def execIrqModerationTimer (t : Tenant) (s : State) : Host.Outcome State Fault Refusal := .next (s.irqTimer t.val)

end Sys2Proof.Machine
end

