-- ==== Sys2Proof/Machine/Prism.lean ====
section
/-! DEFINITION. Chapter 05: runs and engine bytes (R138, R139), signatures, plan latches, and the plan cache (R131, R141 to
R149). -/
namespace Sys2Proof.Machine

/-! ### Runs and engine bytes (R138, R139) -/

/-- One dimension of a side: count, step in elements, excluded, listed. -/
structure SideDim where
  count : Nat
  step : Int
  skip : Bool
  listed : Bool
  deriving DecidableEq, Repr

/-- The run of a side in bits: none started, growing, or ended (R138). -/
def sideRun (bits : Nat) : Option Nat → List SideDim → Nat
  | none, [] => bits
  | some r, [] => r
  | none, d :: t =>
    if d.listed then bits
    else if d.skip || d.count = 1 then sideRun bits none t
    else if d.step.natAbs = 1 then sideRun bits (some (bits * d.count)) t
    else bits
  | some r, d :: t =>
    if d.listed then r
    else if d.skip || d.count = 1 then sideRun bits (some r) t
    else if d.step * (bits : Int) = (r : Int) then sideRun bits (some (r * d.count)) t
    else r

/-- The cap of a facet on a run of `r` bits (R138). -/
def facetCap (a w r : Nat) : Nat :=
  if 6 ≤ a then min r (8 * 2 ^ a) else if r < 8 * 2 ^ (a + w) then min r (8 * 2 ^ a) else r

/-- The source run in bytes. -/
def Move.srcRun (m : Move) : Nat :=
  let ds := (List.range m.V).map fun d =>
    ({ count := (m.view.dim d).scount, step := (m.view.dim d).sstep * m.src.st d, skip := (m.view.dim d).sstep == 0 && !(m.listed == 1 && d + 1 == m.V),
       listed := m.listed == 1 && d + 1 == m.V } : SideDim)
  ceilDiv (facetCap m.src.fA m.src.fW (sideRun (elemBits m.src.dtype) none ds)) 8

/-- The destination run in bytes. -/
def Move.dstRun (m : Move) : Nat :=
  let ds := (List.range m.V).map fun k =>
    ({ count := m.view.cnt k, step := (m.view.dim k).dstep * m.dst.st k, skip := false,
       listed := m.listed == 2 && k + 1 == m.V } : SideDim)
  ceilDiv (facetCap m.dst.fA m.dst.fW (sideRun (elemBits m.dst.dtype) none ds)) 8

/-- The innermost run of a move (R138). -/
def Move.run (m : Move) : Nat := min m.srcRun m.dstRun

/-- Engine bytes of a move: the largest of bytes read, lanes carried and bytes written (R139). -/
def Move.engineBytes (m : Move) : Nat := max m.bytesRead (max m.lanes m.bytesWritten)

/-- Elements of one chunk of at most 4 KiB of engine bytes, a whole number of packed units of the destination
(chapter 08 §4). -/
def Move.chunkElems (m : Move) : Nat :=
  let u := unitLen m.dst.dtype
  max u (m.elems * 4096 / max 1 m.engineBytes / u * u)

/-- The hold of R120, in bytes. -/
def Move.hold (m : Move) : Nat :=
  (List.range m.V).foldl (fun a d =>
    let x := m.view.dim d
    if d = 0 || m.view.padMode = 0 || (x.padb = 0 && x.pada = 0) then a
    else
      let inner := (List.range d).foldl (fun n e => n * (m.view.dim e).padded) 1
      a + inner * elemBytes m.src.dtype * (if m.view.padMode = 1 then 1 else max x.padb x.pada)) 0

/-- The transpose tile of R137: 8 KiB where destination dimension 0 takes another source dimension. -/
def Move.tile (m : Move) : Nat := if m.view.pm 0 = 0 then 0 else 8192

/-! ### Signatures (R141, R142) -/

/-- The frame map is the identity: the straight plan serves (R142). -/
def Move.straight (m : Move) : Bool :=
  let d0 := m.view.dim 0
  m.view.pm 0 == 0 && d0.sstep == 1 && d0.dstep == 1 && d0.padb == 0 && d0.pada == 0 && !m.nibble && !m.unpacked

/-- Sign of a step: 0 zero, 1 positive, 2 negative. -/
def signOf (x : Int) : Nat := if x = 0 then 0 else if 0 < x then 1 else 2

/-- The frame's shape as the first eight entries of a signature. -/
def Box.sig (x : Box) : List Nat :=
  [b2n x.turned, x.lanes, x.inner, x.outer, b2n x.revIn, b2n x.revOut, b2n x.backIn, b2n x.backOut]

/-- The frame's shape that a signature names. -/
def boxOfSig (g : List Nat) : Box where
  turned := g.getD 0 0 == 1
  lanes := g.getD 1 1
  inner := g.getD 2 1
  outer := g.getD 3 1
  revIn := g.getD 4 0 == 1
  revOut := g.getD 5 0 == 1
  backIn := g.getD 6 0 == 1
  backOut := g.getD 7 0 == 1

/-- The frame signature (R141), as the list of what enters it: the sizes of the frame's dimensions, their order and the signs of
their steps, the carried form and nibble mode, PAD_MODE, and every PADB and PADA. -/
def Move.signature (m : Move) : List Nat :=
  let d0 := m.view.dim 0
  let d1 := m.view.dim (m.view.pm 0)
  m.box.sig ++ [m.convAt, m.carriedType, m.lanes4, b2n m.nibble, b2n m.mxDecoded, m.view.padMode, signOf d1.sstep, signOf d0.dstep,
    if m.view.pm 0 = 0 then 0 else signOf d0.sstep, if m.view.pm 0 = 0 then 0 else signOf (m.view.dim m.turnDim).dstep]
    ++ (List.range 8).flatMap fun d => [(m.view.dim d).padb, (m.view.dim d).pada]

/-- The plan of a signature: the 21 setting vectors of its frame map. -/
def planOf (g : List Nat) : List Nat := (boxOfSig g).plan

/-- The plan a move uses; the built-in straight plan exchanges nothing (R142). -/
def Move.planUsed (m : Move) : List Nat := if m.straight then [] else planOf m.sig

/-- Bytes 0 to 2,687 of the entry that holds the plan of a signature: stage s at bytes 128s, bit k for switch k (R141). -/
def planBytes (g : List Nat) : List (BitVec 8) := (List.range 21).flatMap fun s => leBytes 128 ((planOf g).getD s 0)

/-! ### The plan cache (R143 to R149) -/

/-- Entries a tenant's partition holds at most. -/
def State.planRoom (s : State) (t : Nat) : Nat := 16 * s.get (F.PRI_PART_COUNT t)
def State.planBase (s : State) (t : Nat) : Nat := 16 * s.get (F.PRI_PART_BASE t)

def State.plansOf (s : State) (t : Nat) : List PlanEntry := s.plans.filter (·.tenant == t)

/-- The entry of a signature in its tenant's partition. -/
def State.planAt (s : State) (t : Nat) (sig : List Nat) : Option PlanEntry :=
  s.plans.find? fun p => p.tenant == t && p.sig == sig

/-- SRAM bytes of an entry's plan (Table 3.3): 3 KiB entries from 0x0700_0000, of which 2,688 bytes are the plan. -/
def planAddr (i : Nat) : Nat := 0x7000000 + 3072 * i

/-- The first uncorrectable 8-byte word of an entry. -/
def State.planBad (s : State) (p : PlanEntry) : Option Nat :=
  ((List.range 336).map (planAddr p.index / 8 + ·)).find? fun w => s.mem.ue.contains (1, w)

/-- The lowest free index of a tenant's partition. -/
def State.planFree (s : State) (t : Nat) : Option Nat :=
  ((List.range (s.planRoom t)).map (s.planBase t + ·)).find? fun i => !(s.plans.any (·.index == i))

/-- The least recently used unpinned entry of a tenant. -/
def State.planVictim (s : State) (t : Nat) : Option PlanEntry :=
  ((s.plansOf t).filter (·.pins.isEmpty)).foldl (fun b p =>
    match b with
    | none => some p
    | some q => if p.used < q.used then some p else b) none

/-- The place a new entry of a tenant takes, and the state in which it is free; none where every entry is pinned or the
partition is empty (R143). -/
def State.planPlace (s : State) (t : Nat) : Option (Nat × State) :=
  match s.planFree t with
  | some i => some (i, s)
  | none =>
    match s.planVictim t with
    | some p => if p.index < s.planBase t + s.planRoom t ∧ s.planBase t ≤ p.index
        then some (p.index, { s with plans := s.plans.filter (·.index != p.index) }) else none
    | none => none

/-- Write the plan of a signature into entry `i`, whose words then have valid ECC (R141, R144). -/
def Mem.putPlan (m : Mem) (i : Nat) (sig : List Nat) : Mem :=
  (m.zeroRange 1 (planAddr i) 2688).putCells 1 (cellsAt (planAddr i) (planBytes sig))

/-- Write the plans of the ready entries of a list to their places. -/
def Mem.putPlans (m : Mem) (l : List PlanEntry) : Mem :=
  l.foldl (fun (m : Mem) p => if p.ready then m.putPlan p.index p.sig else m) m

/-- Put a plan entry, with its plan where it is `ready`. -/
def State.planPut (s : State) (t : Nat) (sig : List Nat) (pins : List Nat) (ready : Bool) : Option State :=
  match s.planPlace t with
  | none => none
  | some (i, s) =>
    some { s with
      plans := s.plans ++ [(⟨i, t, sig, pins, s.nextOrder, ready⟩ : PlanEntry)]
      nextOrder := s.nextOrder + 1
      mem := if ready then s.mem.putPlan i sig else s.mem }

/-- Use an entry now. -/
def State.planTouch (s : State) (i : Nat) : State :=
  { s with
    plans := s.plans.map fun (p : PlanEntry) => if p.index = i then { p with used := s.nextOrder } else p
    nextOrder := s.nextOrder + 1 }

/-- Signatures of a command's moves that need a plan. -/
def plansNeeded (ms : List Move) : List (List Nat) := ((ms.filter fun m => !m.straight).map (·.sig)).eraseDups

/-- CF time of a TICKED command: 40 µs for each plan not in the cache (R32). -/
def State.planCost (s : State) (t : Nat) (ms : List Move) : Nat :=
  planMissPs * ((plansNeeded ms).filter fun g => !((s.planAt t g).any (·.ready))).length

/-- Pin an entry for a tick. -/
def PlanEntry.pinAt (p : PlanEntry) (tick : Nat) : PlanEntry :=
  { p with pins := if p.pins.contains tick then p.pins else p.pins ++ [tick] }

/-- Pin for a tick the entries a tenant holds among some signatures. -/
def State.planPinHeld (s : State) (t tick : Nat) (gs : List (List Nat)) : State :=
  { s with plans := s.plans.map fun (p : PlanEntry) => if p.tenant == t && gs.contains p.sig then p.pinAt tick else p }

/-- Take a pinned entry for each plan that is absent; none where no entry can be pinned for it (R145). -/
def State.planPinNew (s : State) (t tick : Nat) : List (List Nat) → Option State
  | [] => some s
  | g :: r =>
    if (s.planAt t g).isSome then s.planPinNew t tick r
    else
      match s.planPut t g [tick] false with
      | some s => s.planPinNew t tick r
      | none => none

/-- Pin the plans of a TICKED command for its admitted tick: first those the partition holds, so that none of them makes room for
another, then an entry for each that is absent (R32, R145). -/
def State.planPin (s : State) (t tick : Nat) (gs : List (List Nat)) : Option State :=
  (s.planPinHeld t tick gs).planPinNew t tick gs

/-- A miss: the command joins the computation of its signature, or a new one (R143, R144). -/
def State.planMiss (s : State) (c : Cmd) (sig : List Nat) : State :=
  let s := (s.bump (F.PRI_MISS c.tenant) 1).bump (F.TP_PRI_MISS c.tenant) 1
  let adm := c.admTick.isSome
  if s.planJobs.any fun j => j.tenant == c.tenant && j.sig == sig && !j.stale then
    { s with planJobs := s.planJobs.map fun (j : PlanJob) =>
        if j.tenant == c.tenant && j.sig == sig && !j.stale then
          { j with waiters := j.waiters ++ [c.id], ticked := j.ticked || adm } else j }
  else { s with planJobs := s.planJobs ++ [(⟨c.tenant, sig, adm, false, false, [c.id]⟩ : PlanJob)] }

/-- Look up one plan of a command: whether it is present (a hit), with the counts of R149. An entry with an uncorrectable
word is invalidated and counts as a miss (R146). -/
def State.planLookup (s : State) (c : Cmd) (sig : List Nat) : Bool × State :=
  match s.planAt c.tenant sig with
  | none => (false, s.planMiss c sig)
  | some p =>
    if !p.ready then (false, s.planMiss c sig)
    else
      match s.planBad p with
      | some w =>
        let s := (s.stick F.PRI_PLANUE_PLANUE).logUE 1 w 0x51 false 0 0
        let s := { s with plans := s.plans.filterMap fun (x : PlanEntry) =>
          if x.index = p.index then (if x.pins.isEmpty then none else some { x with ready := false }) else some x }
        (false, s.planMiss c sig)
      | none =>
        -- single-bit errors met on the way into the latch are corrected (R77)
        let s := s.readWords 1 ((List.range 336).map (planAddr p.index / 8 + ·)) 0x51 0 0
        (true, ((s.planTouch p.index).bump (F.PRI_HIT c.tenant) 1).bump (F.TP_PRI_HIT c.tenant) 1)

/-- A move of a command has its plan. -/
def Move.hasPlan (present : List (List Nat)) (m : Move) : Move :=
  { m with planReady := m.planReady || m.straight || present.contains m.sig }

/-- Look up every plan of a command as it is dispatched; PLAN_MISS is set where one is waited for (Table 6.4). -/
def State.plansFor (s : State) (id : Nat) : State :=
  match s.cmd? id with
  | none => s
  | some c =>
    let r := (plansNeeded (c.moves.filter fun m => !m.planReady)).foldl (fun (a : List (List Nat) × State) g =>
      let (hit, s) := a.2.planLookup c g
      (if hit then a.1 ++ [g] else a.1, s)) ([], s)
    r.2.modCmd id fun c =>
      let ms := c.moves.map (Move.hasPlan r.1)
      { c with moves := ms, warn := if ms.all (·.planReady) then c.warn else putBit c.warn wPLAN_MISS true }

/-- A plan computation ends: the entry is written unless its partition was emptied or changed or has no room, and the
latches of every waiting command are loaded (R143, R144, R147). -/
def State.planDone (s : State) (j : PlanJob) : State :=
  let s := { s with planJobs := s.planJobs.erase j }
  let s :=
    if j.stale then s
    else
      match s.planAt j.tenant j.sig with
      | some p => { s with
          plans := s.plans.map fun (x : PlanEntry) => if x.index = p.index then { x with ready := true } else x
          mem := s.mem.putPlan p.index j.sig }
      | none =>
        match s.planPut j.tenant j.sig [] true with
        | some s => s
        | none => s
  j.waiters.foldl (fun s id => s.modCmd id fun c => { c with moves := c.moves.map (Move.hasPlan [j.sig]) }) s

/-- A frame of an engine names one of its two plan latches: the one that holds the plan, or the free or least recently used one,
into which the plan is loaded (R131). -/
def State.latchUse (s : State) (e : Nat) (sig : List Nat) : State :=
  let mine := s.latches.filter fun l => l.engine == e
  let now : Latch := ⟨e, sig, s.nextOrder⟩
  let gone := match mine with
    | a :: b :: _ => if a.sig == sig then a else if b.sig == sig then b else if b.used < a.used then b else a
    | [a] => a
    | [] => now
  let keep := if mine.length == 1 && gone.sig != sig then s.latches else s.latches.filter (· != gone)
  { s with latches := keep ++ [now], nextOrder := s.nextOrder + 1 }

/-- CF finishes the plan it computes. -/
def State.planComplete (s : State) : State :=
  match s.planJobs.find? (·.started) with
  | some j => s.planDone j
  | none => s

/-- PLAN_COMPUTE_COMPLETE (R144): CF finishes the plan computation it has started. -/
def execPlanComputeComplete (s : State) : Result := .next s.planComplete

/-! ### Partitions (R147, R148) -/

/-- Drop the entries of a tenant; only unpinned ones when `keepPinned`; computations for it write no entry (R147). -/
def State.planDrop (s : State) (t : Nat) (keepPinned : Bool) : State :=
  { s with
    plans := s.plans.filter fun p => p.tenant != t || (keepPinned && !p.pins.isEmpty)
    planJobs := s.planJobs.map fun (j : PlanJob) => if j.tenant = t then { j with stale := true } else j }

/-- Move the remaining entries of a tenant into its partition, in order, with the plans they hold. -/
def State.planRenumber (s : State) (t : Nat) : State :=
  let mine := s.plansOf t
  let moved := (List.range mine.length).filterMap fun i => mine[i]?.map fun (p : PlanEntry) => { p with index := s.planBase t + i }
  { s with plans := s.plans.filter (·.tenant != t) ++ moved, mem := s.mem.putPlans moved }

/-- Number of pinned entries of a tenant. -/
def State.planPinned (s : State) (t : Nat) : Nat := (s.plansOf t).countP fun p => !p.pins.isEmpty

/-- A write of PRI_PART_t (R148). -/
def State.priPartWrite (s : State) (t base count : Nat) : State :=
  let clash := (List.range 16).any fun u => u != t && rangesMeet base count (s.get (F.PRI_PART_BASE u)) (s.get (F.PRI_PART_COUNT u))
  if clash || decide (256 < base + count) || decide (16 * count < s.planPinned t) || decide (256 < count) then s.stick F.PRI_CFG_CFG
  else
    let changed := base != s.get (F.PRI_PART_BASE t) || count != s.get (F.PRI_PART_COUNT t)
    let s := (s.set (F.PRI_PART_BASE t) base).set (F.PRI_PART_COUNT t) count
    if changed then (s.planDrop t true).planRenumber t else s

/-- PRI_PART_WRITE: T0 writes the word PRI_PART_t (R148). -/
def execPriPartWrite (t : Tenant) (w : Word) (s : State) : Result :=
  .next (if s.blockOpen then s.priPartWrite t.val (bitsOf w.toNat 0 9) (bitsOf w.toNat 16 9) else s)

/-- PRI_INVAL: T0 writes the word PRI_INVAL; a 1 in bit t invalidates tenant t's unpinned entries (Table 5.8). -/
def State.priInval (s : State) (w : Nat) : State :=
  (List.range 16).foldl (fun s t => if bit w t then s.planDrop t true else s) s

def execPriInval (w : Word) (s : State) : Result := .next (if s.blockOpen then s.priInval w.toNat else s)

end Sys2Proof.Machine
end

