-- ==== Sys2Proof/Machine/Sync.lean ====
section
/-! DEFINITION. Chapter 10 and the locks of chapter 09: counters and waits, signals, barriers and lock objects. -/
namespace Sys2Proof.Machine

/-! ### Waits (R210, R287 to R289) -/

/-- A WAIT condition: COND, CONSUME, index, value (R210). -/
structure WaitCond where
  cond : Nat
  consume : Bool
  index : Nat
  value : Nat
  deriving DecidableEq, Repr

/-- The conditions of a WAIT body. -/
def waitConds (p : List (BitVec 8)) : List WaitCond :=
  (List.range (leAt p 24 1)).map fun k =>
    let b := 32 + 12 * k
    ⟨leAt p b 1, bit (leAt p (b + 1) 1) 0, leAt p (b + 2) 2, leAt p (b + 4) 4⟩

/-- One condition holds on the counters as they are. -/
def State.condHolds (s : State) (t : Nat) (w : WaitCond) : Bool :=
  match s.poolCnt t w.index with
  | none => false
  | some n =>
    let v := s.cntVal n
    if w.cond = 0 then decide (w.value ≤ v) else if w.cond = 1 then v == w.value else decide (v < w.value)

/-- CONSUME: subtract VALUE in the same atomic step (R210). Two conditions that consume more of one counter than it holds leave it as
SUB does, at 0 with UNF (R284; log entry 87). -/
def State.consume (s : State) (t : Nat) (w : WaitCond) : State :=
  match s.poolCnt t w.index with
  | some n => if w.consume then s.cntSub t n w.value else s
  | none => s

/-- A WAIT that has started and not completed. -/
def Cmd.waiting (c : Cmd) : Bool := c.op == 0x21 && c.started && c.phase == .front

/-- Every condition of a WAIT holds now (R210). -/
def State.waitHolds (s : State) (c : Cmd) : Bool := (waitConds c.pkt).all fun w => s.condHolds c.tenant w

/-- Complete a WAIT whose conditions hold, consuming, with SAT_WAIT where a named counter carries OVF or UNF (R288). -/
def State.endWait (s : State) (c : Cmd) : State :=
  let cs := waitConds c.pkt
  let sat := cs.any fun w => match s.poolCnt c.tenant w.index with | some n => s.cntSaturated n | none => false
  let s := cs.foldl (fun s w => s.consume c.tenant w) s
  let s := if sat then s.modCmd c.id fun c => { c with warn := putBit c.warn wSAT_WAIT true } else s
  s.fail c.id stDONE

/-- The first started WAIT of a tenant, in the order they started, whose conditions hold (R287). -/
def State.nextWait (s : State) (t : Nat) : Option Cmd :=
  (s.cmds.filter fun c => c.tenant == t && c.waiting && s.waitHolds c).foldl (fun b c =>
    match b with
    | none => some c
    | some d => if c.startOrder < d.startOrder then some c else b) none

/-- Complete every WAIT that an operation satisfies, one after another (R287). -/
def State.evalWaitsN : Nat → State → Nat → State
  | 0, s, _ => s
  | n + 1, s, t =>
    match s.nextWait t with
    | some c => State.evalWaitsN n (s.endWait c) t
    | none => s

def State.evalWaits (s : State) (t : Nat) : State := State.evalWaitsN s.cmds.length s t

/-- A counter operation of a signal spec on index `i` of a tenant, and the waits it satisfies: 1 ADD, 2 SUB, 3 SET. -/
def State.counterOp (s : State) (t op i v : Nat) : State :=
  match s.poolCnt t i with
  | none => s
  | some n =>
    (if op = 1 then s.cntAdd t n v else if op = 2 then s.cntSub t n v else s.cntSet n v).evalWaits t

/-- COUNTER_SET: a write of TP_CNT_i (R283); beyond the range it is unmapped (R285, R6). -/
def State.counterWrite (s : State) (t op i v : Nat) : State :=
  if (s.poolCnt t i).isSome then s.counterOp t op i v else s.stick F.GLB_ERR_ACCESS

def execCounterSet (t : Tenant) (i : Nat) (v : Word) (s : State) : Host.Outcome State Fault Refusal :=
  .next (if s.pageOpen t.val then s.counterWrite t.val 3 i v.toNat else s)
/-- COUNTER_ADD: a write of TP_CNT_ADD_i (R283). -/
def execCounterAdd (t : Tenant) (i : Nat) (v : Word) (s : State) : Host.Outcome State Fault Refusal :=
  .next (if s.pageOpen t.val then s.counterWrite t.val 1 i v.toNat else s)
/-- COUNTER_SUB: a write of TP_CNT_SUB_i (R283). -/
def execCounterSub (t : Tenant) (i : Nat) (v : Word) (s : State) : Host.Outcome State Fault Refusal :=
  .next (if s.pageOpen t.val then s.counterWrite t.val 2 i v.toNat else s)

/-- The TIMEOUT of a WAIT, from its start (R289): ABORT_TIMEOUT, nothing consumed. -/
def State.waitTimeout (s : State) (id : Nat) : State :=
  match s.cmd? id with
  | some c =>
    match c.deadline with
    | some d => if c.waiting then (s.advance d).fail id stABORT_TIMEOUT else s
    | none => s
  | none => s

/-- WAIT_TIMEOUT of command `id` (R289). -/
def execWaitTimeout (id : Nat) (s : State) : Host.Outcome State Fault Refusal := .next (s.waitTimeout id)

/-! ### Locked sequences (R163, R270) -/

/-- Put a locked sequence's state. -/
def State.modSeq (s : State) (id : Nat) (f : LockSeq → LockSeq) : State :=
  { s with lockSeqs := s.lockSeqs.map fun x => if x.id = id then f x else x }
def State.seq? (s : State) (id : Nat) : Option LockSeq := s.lockSeqs.find? (·.id == id)

/-- The locked sequence is open: it has opened and no bound has ended it. -/
def State.seqOpen (s : State) (q : Nat) : Bool := (s.seq? q).any fun x => x.openedAt.isSome && x.broken.isNone

/-- The locked sequence of a command is open: its transfers carry the lock mark (R270). -/
def State.inSeq (s : State) (c : Cmd) : Bool :=
  match c.seqId with
  | some q => s.seqOpen q
  | none => false

/-- RANK of the flits of a command (Table 12.3): 1 for an admitted TICKED one. -/
def Cmd.flitRank (c : Cmd) : Nat := b2n c.admTick.isSome

/-- A message of a command: its tenant and tag, its rank and tick, and its lock mark (R264, R270, Tables 12.3 and 12.4). -/
def State.stamp (s : State) (c : Cmd) (m : Msg) : Msg :=
  { m with tenant := c.tenant, cmdTag := c.id % 65536, rank := c.flitRank, tick := c.admTick.getD 0 % 256, lock := s.inSeq c }

/-! ### Signals (R187, R188, R290 to R293) -/

/-- The status with which a signal spec fails at decode, and its byte at fault (R186, R188, R14). -/
def State.sigCheck (s : State) (t : Nat) (g : Sig) : Option (Nat × Nat) :=
  if 7 ≤ g.op then some (stREJ_FORMAT, 0)
  else if (g.op == 0 || 4 ≤ g.op) && g.value != 0 then some (stREJ_FORMAT, 4)
  else if g.op = 0 then none
  else if s.chipAbsent g.chip then some (stREJ_BOUNDS, 1)
  else if g.op = 6 && g.chip != 0x3F then some (stREJ_BOUNDS, 1)
  else if g.op = 6 && !(2 ≤ g.index && g.index ≤ 7) then some (stREJ_BOUNDS, 2)
  else if 4 ≤ g.op && g.op ≤ 5 && decide (1024 ≤ g.index) then some (stREJ_BOUNDS, 2)
  else if g.op ≤ 3 && s.isLocal g.chip && (s.poolCnt t g.index).isNone then some (stREJ_BOUNDS, 2)
  else none

/-- A signal spec takes effect on this device. -/
def State.sigLocal (s : State) (t : Nat) (g : Sig) : State :=
  if g.op = 0 then s
  else if g.op ≤ 3 then s.counterOp t g.op g.index g.value
  else if g.op = 4 then s.flagUpdate t (g.index / 64) (2 ^ (g.index % 64)) 0
  else if g.op = 5 then s.flagUpdate t (g.index / 64) 0 (2 ^ (g.index % 64))
  else s.msix t g.index

/-- The 8 bytes of a signal spec as a number. -/
def Sig.operand (g : Sig) : Nat := g.op + 2 ^ 8 * g.chip + 2 ^ 16 * g.index + 2 ^ 32 * g.value

/-- The signal spec in an operand. -/
def sigOfOperand (n : Nat) : Sig := ⟨bitsOf n 0 4, bitsOf n 8 6, bitsOf n 16 16, bitsOf n 32 32⟩

/-- The VC1 message of a remote signal. -/
def sigMsg (t tag : Nat) (g : Sig) (last : Bool) : Msg :=
  { msgZero with mop := 0x11, tenant := t, cmdTag := tag % 65536, operand := g.operand, cmdLast := last, ackReq := last }

/-- Issue one signal spec of a command: here, or on VC1 to its chip (R188, R292). -/
def State.sigIssue (s : State) (c : Cmd) (g : Sig) (last : Bool) : State :=
  if g.op = 0 then s
  else if s.isLocal g.chip then s.sigLocal c.tenant g
  else s.vc1 g.chip (s.stamp c (sigMsg c.tenant c.id g last)) (some c.id)

/-- A discarded remote operation (R282): RIDX with index, tenant and source chip. -/
def State.ridx (s : State) (i t src : Nat) : State :=
  let s := s.stick F.SYN_RIDX_RIDX
  ((s.set F.SYN_RIDX_INFO_INDEX i).set F.SYN_RIDX_INFO_TENANT t).set F.SYN_RIDX_INFO_SRC_CHIP src

/-- A remote counter or flag operation reaches this device (R188). -/
def State.sigRemote (s : State) (t src : Nat) (g : Sig) : State :=
  if 1 ≤ g.op && g.op ≤ 3 && (s.poolCnt t g.index).isNone then s.ridx g.index t src
  else if 4 ≤ g.op && g.op ≤ 5 && decide (1024 ≤ g.index) then s.ridx g.index t src
  else if g.op = 6 then s
  else s.sigLocal t g

/-! ### Barriers (R296 to R304) -/

def barZero : Bar := ⟨false, 0, 0, 0, 0, 0, false, []⟩

/-- The pool barrier that index `b` of a tenant names. -/
def State.poolBar (s : State) (t b : Nat) : Option Nat :=
  if b < 16 * s.get (F.SYN_BPART_COUNT t) then some (16 * s.get (F.SYN_BPART_BASE t) + b) else none

def State.bar (s : State) (n : Nat) : Bar := spGet (fun _ => barZero) s.sync.bars n
def State.setBar (s : State) (n : Nat) (x : Bar) : State :=
  { s with sync := { s.sync with bars := spSet (fun _ => barZero) s.sync.bars n x } }

/-- BARRIER_ARRIVE body: barrier, home chip, WAIT, TIMEOUT (R211). -/
def baBarrier (p : List (BitVec 8)) : Nat := leAt p 24 2
def baChip (p : List (BitVec 8)) : Nat := bitsOf (leAt p 26 1) 0 6
def baWait (p : List (BitVec 8)) : Bool := bit (leAt p 27 1) 0
def baTimeout (p : List (BitVec 8)) : Nat := leAt p 28 4

/-- A BARRIER_ARRIVE that waits on this chip for sense `z` of barrier `b` homed at `home`. -/
def State.barWaiters (s : State) (t b home : Nat) (z : Bool) : List Cmd :=
  s.cmds.filter fun c => c.tenant == t && c.op == 0x22 && c.phase == .front && baWait c.pkt && c.sense == some z
    && baBarrier c.pkt == b && (baChip c.pkt == home || (s.isLocal home && s.isLocal (baChip c.pkt)))

/-- Release the waiting arrivals of a sense (R298, R300). -/
def State.releaseBar (s : State) (t b home : Nat) (z sat : Bool) : State :=
  (s.barWaiters t b home z).foldl (fun s c =>
    let s := if sat then s.modCmd c.id fun c => { c with warn := putBit c.warn wSAT_WAIT true } else s
    s.fail c.id stDONE) s

/-- OPERAND of barrier messages: barrier, sense, saturation, WAIT (log entry 16). -/
def barOperand (b : Nat) (z sat wait : Bool) : Nat := b + 2 ^ 16 * b2n z + 2 ^ 17 * b2n sat + 2 ^ 18 * b2n wait

/-- Completion of a phase: notifications and releases (R298 step 3, R301). -/
def State.barComplete (s : State) (t b n : Nat) : State :=
  let x := s.bar n
  let z := x.sense
  let s := match s.poolCnt t x.arriveIdx with | some a => s.cntSub t a x.parts | none => s
  let s := match s.poolCnt t x.phaseIdx with | some p => s.cntAdd t p 1 | none => s
  let sat := match s.poolCnt t x.phaseIdx with | some p => s.cntSaturated p | none => false
  let s := s.setBar n { x with sense := !z, waiters := x.waiters.filter (·.1 != z) }
  let s := s.releaseBar t b s.chip z sat
  let s := (List.range 64).foldl (fun s k =>
    if !(bit x.notify k) then s
    else if k = s.chip then
      match s.poolCnt t x.notifyIdx with
      | some m => s.cntAdd t m 1
      | none => s.ridx x.notifyIdx t k
    else s.vc1 k (sigMsg t 0 ⟨1, k, x.notifyIdx, 1⟩ true) none) s
  let s := ((x.waiters.filter (·.1 == z)).map (·.2)).eraseDups.foldl (fun s k =>
    s.vc1 k { msgZero with mop := 0x13, tenant := t, operand := barOperand b z sat false, ackReq := true } none) s
  s.evalWaits t

/-- The home handles one arrival; none where it refuses it (R298). The answer is the sense the arrival belongs to. -/
def State.barArrive (s : State) (t b : Nat) (remote : Option Nat) (wait : Bool) : Option (Bool × State) :=
  match s.poolBar t b with
  | none => none
  | some n =>
    let x := s.bar n
    if !x.en then none
    else
      let s := match s.poolCnt t x.arriveIdx with | some a => s.cntAdd t a 1 | none => s
      let x := match remote with
        | some k => if wait then { x with waiters := x.waiters ++ [(x.sense, k)] } else x
        | none => x
      let s := s.setBar n x
      let full := match s.poolCnt t x.arriveIdx with | some a => decide (x.parts ≤ s.cntVal a) | none => false
      some (x.sense, if full then s.barComplete t b n else s.evalWaits t)

/-- A BARRIER_ARRIVE starts: its arrival is counted at a local home, or sent on VC1 (R298, R303). -/
def State.startArrive (s : State) (c : Cmd) : State :=
  let p := c.pkt
  let s := s.modCmd c.id fun c =>
    { c with deadline := if baWait p then some (s.cad.time + 1000 * (baTimeout p + 1)) else none }
  if s.isLocal (baChip p) then
    -- the waiting command must carry its sense before the phase can complete in the same step
    let z := match s.poolBar c.tenant (baBarrier p) with | some n => (s.bar n).sense | none => false
    let s' := if baWait p then s.modCmd c.id fun c => { c with sense := some z } else s
    match s'.barArrive c.tenant (baBarrier p) none (baWait p) with
    | none => s.fail c.id stREJ_BOUNDS
    | some (_, s) => if baWait p then s else s.fail c.id stDONE
  else
    s.vc1 (baChip p) (s.stamp c { msgZero with mop := 0x12, cmdLast := true, ackReq := true, rtag := c.id % 65536,
                                               operand := barOperand (baBarrier p) false false (baWait p) }) (some c.id)

/-- A waiting arrival's TIMEOUT: ABORT_TIMEOUT, the arrival still counts (R211, R304). -/
def State.barTimeout (s : State) (id : Nat) : State :=
  match s.cmd? id with
  | some c =>
    match c.deadline with
    | some d => if c.op == 0x22 && c.started && c.phase == .front then (s.advance d).fail id stABORT_TIMEOUT else s
    | none => s
  | none => s

/-- BARRIER_WAIT_TIMEOUT of command `id` (R211). -/
def execBarrierWaitTimeout (id : Nat) (s : State) : Host.Outcome State Fault Refusal := .next (s.barTimeout id)

/-- A write of 1 to TP_BAR_b.EN with ARRIVE_IDX `a` in the same word (R297, R302). -/
def State.barEnable (s : State) (t b a : Nat) : State :=
  match s.poolBar t b with
  | none => s.stick F.GLB_ERR_ACCESS
  | some n =>
    let x := { s.bar n with arriveIdx := a }
    if !(s.bar n).en && 1 ≤ x.parts && x.parts ≤ 4096 && (s.poolCnt t x.arriveIdx).isSome && (s.poolCnt t x.phaseIdx).isSome
        && x.arriveIdx != x.phaseIdx && !(bit x.notify 63 && s.chip != 63) then
      s.setBar n { x with en := true, sense := false }
    else s.stick (F.TP_CFG_CFG t)

/-- Waiting arrivals for a barrier are held, here or on another chip (R297). -/
def State.barHeld (s : State) (t b n : Nat) : Bool :=
  !(s.bar n).waiters.isEmpty || !(s.barWaiters t b s.chip true).isEmpty || !(s.barWaiters t b s.chip false).isEmpty

/-- A write of 0 to TP_BAR_b.EN (R297). -/
def State.barDisable (s : State) (t b a : Nat) : State :=
  match s.poolBar t b with
  | none => s.stick F.GLB_ERR_ACCESS
  | some n =>
    if (s.bar n).en && s.barHeld t b n then s.stick (F.TP_CFG_CFG t)
    else s.setBar n { s.bar n with en := false, arriveIdx := a }

/-- BARRIER_ENABLE: the tenant writes word 0 of TP_BAR_b with EN 1 and ARRIVE_IDX `a` (R297). -/
def execBarrierEnable (t : Tenant) (b a : Nat) (s : State) : Host.Outcome State Fault Refusal :=
  .next (if s.pageOpen t.val then s.barEnable t.val b (a % 16384) else s)
/-- BARRIER_DISABLE: the tenant writes word 0 of TP_BAR_b with EN 0 (R297). -/
def execBarrierDisable (t : Tenant) (b a : Nat) (s : State) : Host.Outcome State Fault Refusal :=
  .next (if s.pageOpen t.val then s.barDisable t.val b (a % 16384) else s)

/-- A write of word `j` (1 to 4) of a barrier's configuration (R297, Table 10.6). -/
def State.barConfig (s : State) (t b j w : Nat) : State :=
  match s.poolBar t b with
  | none => s.stick F.GLB_ERR_ACCESS
  | some n =>
    let x := s.bar n
    if x.en then s.stick (F.TP_CFG_CFG t)
    else
      s.setBar n (match j with
        | 1 => { x with phaseIdx := bitsOf w 0 14, parts := bitsOf w 16 13 }
        | 2 => { x with notify := putBits x.notify 0 32 w }
        | 3 => { x with notify := putBits x.notify 32 32 w }
        | 4 => { x with notifyIdx := bitsOf w 0 14 }
        | _ => x)

/-! ### Lock objects (R275 to R279, R305, R306) -/

def lockZero : Lock := ⟨false, false, 0, 0, 0, 0, [], []⟩

/-- The pool lock that index `l` of a tenant names. -/
def State.poolLock (s : State) (t l : Nat) : Option Nat :=
  if l < 16 * s.get (F.SYN_LPART_COUNT t) then some (16 * s.get (F.SYN_LPART_BASE t) + l) else none

def State.lock (s : State) (n : Nat) : Lock := spGet (fun _ => lockZero) s.sync.locks n
def State.setLock (s : State) (n : Nat) (x : Lock) : State :=
  { s with sync := { s.sync with locks := spSet (fun _ => lockZero) s.sync.locks n x } }

/-- LOCK_ACQUIRE and LOCK_RELEASE body: lock, chip, TIMEOUT (R212). -/
def lkLock (p : List (BitVec 8)) : Nat := leAt p 24 1
def lkChip (p : List (BitVec 8)) : Nat := bitsOf (leAt p 25 1) 0 6
def lkTimeout (p : List (BitVec 8)) : Nat := leAt p 28 4

/-- A locked sequence opens (R270). -/
def State.openSeq (s : State) (id : Nat) (lock : Option (Nat × Nat)) : State :=
  s.modSeq id fun x => { x with openedAt := some s.cad.time, lock := lock }

/-- An acquire has its locks: the sequence opens and the acquire completes, with RETRY and LOCK_BROKEN (R212, R276,
R279). -/
def State.acquired (s : State) (c : Cmd) : State :=
  let s := s.openSeq c.id (some (lkChip c.pkt, lkLock c.pkt))
  let s := s.modCmd c.id fun c => { c with warn := if 0 < c.retry then putBit c.warn wLOCK_RETRY true else c.warn,
                                           lockTry := .none }
  s.fail c.id stDONE

/-- Take a FREE lock for a holder; the BROKEN mark clears, and the answer says whether it was there (R279, R305). -/
def State.takeLock (s : State) (n q chip tag : Nat) : Bool × State :=
  let x := s.lock n
  (x.broken, s.setLock n { x with held := true, broken := false, holderQ := q, holderChip := chip, holderTag := tag,
                                  grantedAt := s.cad.time })

/-- The local lock of an acquire is taken: a remote acquire now asks the home (R275), a local one has its lock. -/
def State.localTaken (s : State) (c : Cmd) (n : Nat) : State :=
  let (broken, s) := s.takeLock n c.queue s.chip c.id
  let c := if broken then { c with warn := putBit c.warn wLOCK_BROKEN true } else c
  if s.isLocal (lkChip c.pkt) then (s.setCmd c).acquired c
  else
    let s := s.setCmd { c with lockTry := .homeWait }
    s.vc0 (lkChip c.pkt) { msgZero with mop := 0x03, tenant := c.tenant, cmdTag := c.id % 65536,
                                        operand := lkLock c.pkt + 2 ^ 8 * c.queue } c.id 0 0

/-- The oldest local acquire that waits for a lock. -/
def State.localWaiter (s : State) (t l : Nat) : Option Cmd :=
  (s.cmds.filter fun c => c.tenant == t && c.op == 0x23 && c.phase == .front && c.lockTry == .localWait && lkLock c.pkt == l).foldl (fun b c =>
    match b with
    | none => some c
    | some d => if c.startOrder < d.startOrder then some c else b) none

/-- Grant a remote request that waits at this home. -/
def State.grantRemote (s : State) (t n l : Nat) (w : LockWaiter) : State :=
  let (broken, s) := s.takeLock n w.queue w.chip w.tag
  s.originate { msgZero with vc := 2, mop := 0x22, dest := w.chip, tenant := t, rtag := w.tag, operand := l + 2 ^ 8 * b2n broken }

/-- A lock has come free: the oldest of what waits for it is granted (R275, R305). -/
def State.lockFreed (s : State) (t l n : Nat) : State :=
  let x := s.lock n
  match s.localWaiter t l, x.queue with
  | none, [] => s
  | some c, [] => s.localTaken c n
  | none, w :: r => (s.setLock n { x with queue := r }).grantRemote t n l w
  | some c, w :: r =>
    if c.startedAt ≤ w.since then s.localTaken c n else (s.setLock n { x with queue := r }).grantRemote t n l w

/-- Release a lock of this device, marking it BROKEN or not. -/
def State.releaseLock (s : State) (t l : Nat) (broken : Bool) : State :=
  match s.poolLock t l with
  | none => s
  | some n =>
    let x := s.lock n
    (s.setLock n { x with held := false, broken := x.broken || broken }).lockFreed t l n

/-- Release the locks of a sequence at home `chip`: the home's behind the writes on VC1, with the lock mark where the sequence's own
end command releases it, then the local one (R270, R275). -/
def State.releaseBoth (s : State) (t q l chip : Nat) (broken : Bool) : State :=
  let s := if s.isLocal chip then s
    else s.vc1 chip { msgZero with mop := 0x14, tenant := t, lock := !broken, operand := l + 2 ^ 8 * b2n broken + 2 ^ 16 * q } none
  s.releaseLock t l broken

/-- A LOCK_ACQUIRE starts, or tries again from the local lock (R275, R305). -/
def State.tryAcquire (s : State) (c : Cmd) : State :=
  match s.poolLock c.tenant (lkLock c.pkt) with
  | none => s
  | some n => if (s.lock n).held then s.setCmd { c with lockTry := .localWait } else s.localTaken c n

/-- End a locked sequence early: its commands that have not ended complete with `st`, and so do those decoded later, up
to the end mark (R213, R271). Without one of its end decoded the sequence stays until it is. -/
def State.breakSeq (s : State) (id st : Nat) : State :=
  let s := s.modSeq id fun x => { x with broken := some st }
  let victims := (s.cmds.filter fun c => c.seqId == some id && c.phase != .ended).map (·.id)
  let s := victims.foldl (fun s v => s.fail v st) s
  { s with lockSeqs := s.lockSeqs.filter fun x => !(x.id == id && x.endSeen) }

/-- The lock object of a sequence is released and marked BROKEN (R271, R278). -/
def State.breakLock (s : State) (x : LockSeq) : State :=
  match x.lock with
  | some (chip, l) => s.releaseBoth x.tenant x.queue l chip true
  | none => s

/-- TIMEOUT of a LOCK_ACQUIRE, from its decode (R277). -/
def State.acquireTimeout (s : State) (id : Nat) : State :=
  match s.cmd? id with
  | none => s
  | some c =>
    if c.op == 0x23 && c.phase == .front then
      let s := s.advance (c.decodedAt + 1000 * lkTimeout c.pkt)
      let s := if c.lockTry == .homeWait then s.releaseLock c.tenant (lkLock c.pkt) false else s
      let s := { s with rein := { s.rein with reqs := s.rein.reqs.filter fun r => r.cmd != id } }
      s.breakSeq id stABORT_TIMEOUT
    else s

/-- LOCK_ACQUIRE_TIMEOUT of command `id` (R277). -/
def execLockAcquireTimeout (id : Nat) (s : State) : Host.Outcome State Fault Refusal := .next (s.acquireTimeout id)

/-- A queued remote request has waited LOCK_WAIT at this home: the oldest is answered busy (R275). -/
def State.lockWaitExpiry (s : State) (t l : Nat) : State :=
  match s.poolLock t l with
  | none => s
  | some n =>
    match (s.lock n).queue with
    | [] => s
    | w :: r =>
      let s := s.advance (w.since + 1000 * s.get F.ARB_LOCK_WAIT_US)
      (s.setLock n { s.lock n with queue := r }).originate
        { msgZero with vc := 2, mop := 0x23, dest := w.chip, tenant := t, rtag := w.tag, operand := l }

/-- LOCK_WAIT_EXPIRY at lock `l` of a tenant (R275). -/
def execLockWaitExpiry (t : Tenant) (l : Nat) (s : State) : Host.Outcome State Fault Refusal := .next (s.lockWaitExpiry t.val l)

/-- A requester's backoff ends and it retries from local acquisition (R276). -/
def State.backoffExpiry (s : State) (id : Nat) : State :=
  match s.cmd? id with
  | none => s
  | some c =>
    match c.lockTry with
    | .backoff u => (s.advance u).tryAcquire c
    | _ => s

/-- LOCK_BACKOFF_EXPIRY of command `id` (R276). -/
def execLockBackoffExpiry (id : Nat) (s : State) : Host.Outcome State Fault Refusal := .next (s.backoffExpiry id)

/-- A home frees a lock held by a remote chip for more than 10 µs (R306). -/
def State.lockReap (s : State) (t l : Nat) : State :=
  match s.poolLock t l with
  | none => s
  | some n =>
    let x := s.lock n
    if x.held && x.holderChip != s.chip then
      let s := s.advance (x.grantedAt + 10001)
      let s := (s.setLock n { x with held := false, broken := true, reaped := x.reaped ++ [x.holderChip] }).stick F.SYN_LREAP_LREAP
      s.lockFreed t l n
    else s

/-- LOCK_REAP of lock `l` of a tenant (R306). -/
def execLockReap (t : Tenant) (l : Nat) (s : State) : Host.Outcome State Fault Refusal := .next (s.lockReap t.val l)

/-! ### Partitions (R282) -/

/-- Register fields of the partitions: 0 counters, 1 barriers, 2 locks. -/
def partBase (k t : Nat) : Fld := if k = 0 then F.SYN_PART_BASE t else if k = 1 then F.SYN_BPART_BASE t else F.SYN_LPART_BASE t
def partCount (k t : Nat) : Fld := if k = 0 then F.SYN_PART_COUNT t else if k = 1 then F.SYN_BPART_COUNT t else F.SYN_LPART_COUNT t
/-- Objects of a pool and of one unit of its partitions. -/
def partTotal (k : Nat) : Nat := if k = 0 then 256 else if k = 1 then 64 else 16
def partUnit (k : Nat) : Nat := if k = 0 then 64 else 16

/-- Object `n` lies in a range of units. -/
def inPart (k base count n : Nat) : Bool := decide (partUnit k * base ≤ n) && decide (n < partUnit k * (base + count))

/-- A write of SYN_PART_t (0), SYN_BPART_t (1) or SYN_LPART_t (2) (R282). -/
def State.partWrite (s : State) (k t base count : Nat) : State :=
  let ob := s.get (partBase k t)
  let oc := s.get (partCount k t)
  let clash := (List.range 16).any fun u => u != t && rangesMeet base count (s.get (partBase k u)) (s.get (partCount k u))
  let queues := (List.range 8).any fun q => s.on (F.TP_Q_CTRL_EN t q)
  let busy (n : Nat) : Bool := inPart k ob oc n || inPart k base count n
  let inUse := (k == 1 && s.sync.bars.any fun p => p.2.en && busy p.1) || (k == 2 && s.sync.locks.any fun p => p.2.held && busy p.1)
  if clash || queues || inUse || decide (partTotal k < base + count) then s.stick F.SYN_CFG_CFG
  else
    let moved (n : Nat) : Bool := inPart k ob oc n != inPart k base count n
    let y := s.sync
    let y := if k = 0 then { y with cnt := y.cnt.filter fun p => !(moved p.1), cst := y.cst.filter fun p => !(moved p.1) }
      else if k = 1 then { y with bars := y.bars.filter fun p => !(moved p.1) }
      else { y with locks := y.locks.filter fun p => !(moved p.1) }
    (({ s with sync := y }).set (partBase k t) base).set (partCount k t) count

/-- SYN_PARTITION_WRITE: T0 writes the partition word of kind `k` of tenant `t` (R282). -/
def execSynPartitionWrite (k : Fin 3) (t : Tenant) (w : Word) (s : State) : Host.Outcome State Fault Refusal :=
  .next (if s.blockOpen then s.partWrite k.val t.val (bitsOf w.toNat 0 (partBase k.val t.val).n) (bitsOf w.toNat 16 (partCount k.val t.val).n) else s)

end Sys2Proof.Machine
end

