-- ==== Sys2Proof/Machine/Commands.lean ====
section
/-! DEFINITION. Chapter 07 §1: the checks of a command's body that every opcode shares (R184, R186, R190, R554, R4), body
areas, start conditions (R164, R189), and locked sequences at decode (R163). -/
namespace Sys2Proof.Machine

/-! ### Range checks (R186) -/

/-- A count-like field outside its range: REJ_FORMAT at its byte. -/
def inRange (v lo hi at_ : Nat) : Option (Nat × Nat) := if lo ≤ v ∧ v ≤ hi then none else some (stREJ_FORMAT, at_)

/-- A TIMEOUT: 0 is malformed, a value above the range is out of bounds (R186). -/
def timeoutCheck (v hi at_ : Nat) : Option (Nat × Nat) :=
  if v = 0 then some (stREJ_FORMAT, at_) else if hi < v then some (stREJ_BOUNDS, at_) else none

/-- A signal spec whose OP is a reserved code, at its byte (R186, Table 7.3). -/
def sigOpRange (p : Packet) (b : Nat) : Option (Nat × Nat) := inRange (leAt p b 1 % 16) 0 6 b

/-- The first field out of range, in byte order: status, and the byte for a REJ_FORMAT (R186). -/
def rangeCheck (op : Nat) (p : Packet) : Option (Nat × Nat) :=
  match op with
  | 0x0C => inRange (leAt p 36 1) 1 64 36
  | 0x0D => inRange (leAt p 24 1) 1 9 24
  | 0x10 =>
    ((inRange (bitsOf (leAt p 35 1) 0 2) 0 2 35).or (inRange (bitsOf (leAt p 35 1) 2 2) 0 2 35)).or (sigOpRange p 48)
  | 0x11 => sigOpRange p 32
  | 0x12 | 0x13 =>
    (((inRange (bitsOf (leAt p 35 1) 0 2) 0 2 35).or (inRange (bitsOf (leAt p 35 1) 2 2) 0 2 35)).or (sigOpRange p 48)).or
      (inRange (leAt p 64 2) 1 1024 64)
  | 0x14 => (inRange (leAt p 24 1) 2 6 24).or (sigOpRange p 48)
  | 0x18 => (inRange (leAt p 36 1) 1 48 36).or (sigOpRange p 40)
  | 0x19 => (inRange (leAt p 48 2) 1 256 48).or (sigOpRange p 56)
  | 0x20 => (inRange (leAt p 24 1) 1 4 24).or ((List.range (leAt p 24 1)).findSome? fun k => sigOpRange p (32 + 8 * k))
  | 0x21 =>
    (((inRange (leAt p 24 1) 1 2 24).or (timeoutCheck (leAt p 28 4) 60000000 28)).or (inRange (leAt p 32 1) 0 2 32)).or
      (if leAt p 24 1 = 2 then inRange (leAt p 44 1) 0 2 44 else none)
  | 0x22 => if bit (leAt p 27 1) 0 then timeoutCheck (leAt p 28 4) 60000000 28 else inRange (leAt p 28 4) 0 0 28
  | 0x23 => timeoutCheck (leAt p 28 4) 1000000 28
  | 0x25 | 0x26 => inRange (leAt p 24 1) 0 15 24
  | 0x27 => inRange (leAt p 24 1) 0 7 24
  | 0x28 => inRange (leAt p 32 2) 1 4096 32
  | 0x29 => inRange (leAt p 28 1) 0 15 28
  | 0x30 => inRange (leAt p 24 1) 1 4 24
  | 0x34 => inRange (leAt p 24 1) 1 63 24
  | 0x36 => inRange (leAt p 24 4) 0x46414354 0x46414354 24
  | 0x3C => (inRange (leAt p 24 1) 0 1 24).or (inRange (leAt p 25 1) 0 1 25)
  | 0x3D => inRange (leAt p 40 4) 1 65536 40
  | 0x40 => inRange (leAt p 24 1) 0 3 24
  | _ => none

/-! ### Body areas (R554) -/

/-- Bytes of DA, WIN and GEN of an opcode's body areas, in byte order. -/
def areasOf (op : Nat) : List (Nat × Nat × Nat) :=
  match op with
  | 0x0C => [(24, 32, 34), (40, 48, 50)]
  | 0x12 | 0x13 => [(56, 66, 68)]
  | 0x14 => [(32, 40, 42)]
  | 0x28 => [(36, 44, 46)]
  | 0x40 => [(32, 40, 42)]
  | 0x38 => [(56, 64, 66)]
  | 0x3D => [(24, 32, 34)]
  | _ => []

/-- R554 on one area: HOST, or the local SRAM; a HOST area names window 0xFFFF and generation 0. -/
def State.areaFormat (s : State) (p : Packet) (a : Nat × Nat × Nat) : Option (Nat × Nat) :=
  let da := leAt p a.1 8
  if !(daSpace da == 4 || daSpace da == 1) || !(s.isLocal (daChip da)) then some (stREJ_BOUNDS, 0)
  else if daSpace da = 4 then
    (inRange (leAt p a.2.1 2) 0xFFFF 0xFFFF a.2.1).or (inRange (leAt p a.2.2 2) 0 0 a.2.2)
  else none

/-- Every body area of a packet in byte order; an ECHO of 0 is none (R554). -/
def State.areasCheck (s : State) (op : Nat) (p : Packet) : Option (Nat × Nat) :=
  (areasOf op).foldl (fun acc a =>
    acc.or (if op = 0x0C ∧ a.1 = 40 ∧ leAt p 40 8 = 0 then none else s.areaFormat p a)) none

/-- The checks of an area by its own rule: bounds and permission of a host window, or window, permission, bounds and
Bridle in SRAM (R195, R400). CF is the agent, class FIRMWARE. -/
def State.areaCheck (s : State) (t da win gen n : Nat) (wr : Bool) : Option Nat × State :=
  if daSpace da = 4 then
    (if !(s.extInside t 4 (daOff da) n) then some stREJ_BOUNDS
     else if !(s.extGrants t 4 (daOff da) n wr) then some stREJ_PERM else none, s)
  else
    match s.window t win gen with
    | none => (some stREJ_HANDLE, s)
    | some w =>
      if !(if wr then w.w else w.r) then (some stREJ_PERM, s)
      else if !(s.insideWindow w 1 (daOff da) n) then (some stREJ_BOUNDS, s)
      else
        let (ok, s) := s.bridleRange 1 t 0x50 clsFIRMWARE wr (daOff da) n
        (if ok then none else some stREJ_PERM, s)

/-- Bytes of a HOST or SRAM area read for a command of a tenant with a SEQ, or the status of the failed read; `fails` says that the host refuses
the read or does not answer it (R195, R202). -/
def State.areaRead (s : State) (t seq da n : Nat) (fails : Bool) : Except Nat (List (BitVec 8)) × State :=
  if daSpace da = 4 then
    if fails || (pagesOf (daOff da) n).any (fun p => s.extFails t 4 (4096 * p) false) then (.error stFAULT_LINK, s)
    else (.ok ((List.range n).map fun k =>
      match s.extAddr t 4 (daOff da + k) with
      | some (sp, a) => s.extByte sp a
      | none => 0), s.atsUse t ((List.range n).filterMap fun k => (s.extAddr t 4 (daOff da + k)).map (·.2)))
  else
    match s.memRead 1 (daOff da) n (256 * t + 0x50) stFAULT_ECC seq with
    | (some l, s) => (.ok l, s)
    | (none, s) => (.error stFAULT_ECC, s)

/-! ### Mode and permission checks (R178, R184, R190) -/

/-- The byte of LCHAN in an opcode's body. -/
def lchanByte : Nat → Option Nat
  | 0x10 | 0x12 | 0x13 | 0x14 => some 44
  | 0x11 => some 40
  | _ => none

/-- LCHAN of a packet: channel in bits 9:0, GATE in bit 15 (R415). -/
def lchan (op : Nat) (p : Packet) : Nat := match lchanByte op with | some b => leAt p b 2 | none => 0

/-- The first non-zero byte of LCHAN. -/
def lchanByteSet (op : Nat) (p : Packet) : Nat :=
  let b := (lchanByte op).getD 0
  if leAt p b 1 = 0 then b + 1 else b

/-- A firmware-update opcode. -/
def isUpdateOp (op : Nat) : Bool := 0x3C ≤ op && op ≤ 0x3F

/-- The pairing mode withholds the command (R178, R190). -/
def State.withheld (s : State) (op : Nat) (p : Packet) : Bool :=
  let pairing := s.get F.FW_STATUS_PAIRING
  if pairing = 2 then op != 0x02 && !isUpdateOp op
  else (pairing == 1 || pairing == 3) && (op == 0x40 || op == 0x41 || flMIRROR (pFlags p) || lchan op p != 0)

/-- The checks of a packet's body that come before the opcode's own, in their order: R184, R178 and R190, R186, R554,
R4; the answer is a status and the RESULT byte of a REJ_FORMAT. -/
def State.bodyCheck (s : State) (t op : Nat) (p : Packet) : Option (Nat × Nat) :=
  if isT0Op op && t != 0 then some (stREJ_PERM, 0)
  else if s.withheld op p then some (stREJ_COMPAT, 0)
  else
    ((rangeCheck op p).or (s.areasCheck op p)).or
      (match reservedByte op p with
      | some i => some (stREJ_FORMAT, i)
      | none => if s.get (F.TP_FMT_MAJOR t) = 2 && lchan op p != 0 then some (stREJ_FORMAT, lchanByteSet op p) else none)

/-- End a command with a status of a check. -/
def State.reject (s : State) (id : Nat) (r : Nat × Nat) : State :=
  if r.1 = stREJ_FORMAT then s.rejFormat id r.2 else s.fail id r.1

/-- R188 on the signal spec of an opcode that accepts SIG_AFTER. -/
def State.sigAfterCheck (s : State) (t op : Nat) (p : Packet) : Option (Nat × Nat) :=
  match sigByte op with
  | none => none
  | some b =>
    let g := sigAt p b
    if (g.op != 0) != flSIG (pFlags p) then some (stREJ_FORMAT, b)
    else (s.sigCheck t g).map fun r => (r.1, b + r.2)

/-! ### Start conditions (R164, R189) -/

/-- Commands of the same queue before a command, in submission order, not recorded. -/
def State.earlier (s : State) (c : Cmd) : List Cmd :=
  if c.node.isSome then []
  else ((s.queueSt c.tenant c.queue).order.takeWhile (· != c.id)).filterMap s.cmd?

/-- The command has completed (its record may wait for its turn). -/
def Cmd.isEnded (c : Cmd) : Bool := c.phase == .ended

/-- Every write of the command is committed at its target, what it sent to other chips acknowledged (R164). -/
def State.writesDone (s : State) (c : Cmd) : Bool := (c.phase == .ended || c.phase == .drained) && (s.vc1Open c.id).isEmpty

/-- A packet that starts as one with DEP, or with FENCE: PWR_REQUEST and the FENCE opcode are such (R164, R191, R219). -/
def isDep (p : Packet) : Bool := flDEP (pFlags p) || pOp p == 0x30
def isFence (p : Packet) : Bool := flFENCE (pFlags p) || pOp p == 0x01

/-- Every write of the commands `es` that lead a fence of queue `q` is committed, and of those already recorded; the new epoch of a
pair they wrote to is acknowledged (R164, R351). -/
def State.fenced (s : State) (t q : Nat) (es : List Cmd) : Bool :=
  es.all s.writesDone && (s.queueSt t q).loose.all (fun i => (s.vc1Open i).isEmpty)
    && s.rein.tx.all fun p => !(p.2.opening && p.2.openQueues.contains (t, q))

/-- A WAIT, a waiting BARRIER_ARRIVE or a LOCK_ACQUIRE, which later commands of its queue wait out (R189). -/
def Cmd.holdsQueue (c : Cmd) : Bool := c.op == 0x21 || (c.op == 0x22 && bit (leAt c.pkt 27 1) 0) || c.op == 0x23

/-- The start condition of a command (R59, R164, R189): its own DEP and FENCE, the DEP and FENCE marks and the waits before
it, the tick edge of an admitted command, and a LOCK_RELEASE behind its sequence. -/
def State.startable (s : State) (c : Cmd) : Bool :=
  let es := s.earlier c
  (!(isDep c.pkt) || es.all Cmd.isEnded)
    && (!(isFence c.pkt) || s.fenced c.tenant c.queue es)
    && (es.all fun e => e.started || e.isEnded || !(isDep e.pkt || isFence e.pkt))
    && (es.all fun e => e.isEnded || !e.holdsQueue)
    && (c.op != 0x24 || es.all fun e => e.seqId != c.seqId || e.isEnded || e.phase == .drained)
    && (match c.admTick with | some n => decide (n ≤ s.tick) | none => true)

/-- A flushing read fails on a path the queue has written (R164, R191): Bus Master Enable is 0 or the link is down, or the
environment refuses it. -/
def State.flushFails (s : State) (t : Nat) (dirty : List Nat) (fails : Bool) : Bool :=
  !dirty.isEmpty && (fails || dirty.any fun sp => if sp = 0 then !(bit s.pcie.bme t) else !(s.on (F.TEN_APL_UP (sp - 1))))

/-- Opcodes whose row of Table 7.7 lists FAULT_LINK. -/
def faultsLink (op : Nat) : Bool :=
  op == 0x01 || op == 0x0C || isEngineOp op || isAwlOp op || op == 0x28 || op == 0x38 || isUpdateOp op

/-- The flushing reads of a fence are done: nothing of the queue is left unflushed. -/
def State.flushed (s : State) (t q : Nat) : State := s.setQueue { s.queueSt t q with dirty := [] }

/-! ### Locked sequences at decode (R163, R213, R271) -/

/-- Join a decoded command to the locked sequence its mark gives: a begin opens one in decode order, an end closes it. -/
def State.seqJoin (s : State) (id : Nat) : State :=
  match s.cmd? id with
  | none => s
  | some c =>
    let x := s.queueSt c.tenant c.queue
    match flLOCK c.flags with
    | 1 =>
      let s := { s with lockSeqs := s.lockSeqs ++
        [(⟨id, c.tenant, c.queue, none, none, [], 0, 0xFF, none, false⟩ : LockSeq)] }
      (s.setQueue { x with openSeq := some id }).modCmd id fun c => { c with seqId := some id }
    | 2 => s.modCmd id fun c => { c with seqId := x.openSeq }
    | 3 =>
      let s := match x.openSeq with | some q => s.modSeq q fun (y : LockSeq) => { y with endSeen := true } | none => s
      (s.setQueue { x with openSeq := none }).modCmd id fun c => { c with seqId := x.openSeq }
    | _ => s

/-- The status a decoded command of a broken sequence completes with. -/
def State.seqBroken (s : State) (c : Cmd) : Option Nat :=
  match c.seqId with
  | some q => (s.seq? q).bind (·.broken)
  | none => none

/-- Drop a sequence that was broken and whose end has been decoded. -/
def State.seqTrim (s : State) (q : Option Nat) : State :=
  match q with
  | some q => { s with lockSeqs := s.lockSeqs.filter fun x => !(x.id == q && x.endSeen && x.broken.isSome) }
  | none => s

/-- The last command of a sequence has ended: the sequence is gone (R270). -/
def State.seqClose (s : State) (q : Nat) : State := { s with lockSeqs := s.lockSeqs.filter (·.id != q) }

end Sys2Proof.Machine
end

