-- ==== Sys2Proof/Machine/Windows.lean ====
section
/-! DEFINITION. Chapter 04 §1 to §5: allocation windows and storage descriptors (WIN_CREATE, WIN_REVOKE, WIN_DESTROY,
WINDOW_DRAIN_COMPLETE, DESC_CREATE, DESC_DESTROY, WIN_QUERY_TIMEOUT, WIN_QUERY, WIN_ANSWER). -/
namespace Sys2Proof.Machine

/-! ### Windows (R100 to R102, R193, R194, R404) -/

def State.setWin (s : State) (id : Nat) (x : WinSlot) : State := { s with wins := kvIns id x s.wins }

/-- The lowest-numbered free slot that is not retired (R100, R101). -/
def State.freeWin (s : State) : Option Nat :=
  (List.range 4096).find? fun i => (s.winSlot i).win.isNone && (s.winSlot i).gen != 0xFFFF

/-- A range overlaps a live window of its space. -/
def State.winOverlap (s : State) (sp a n : Nat) : Bool :=
  s.wins.any fun p => match p.2.win with
    | some w => w.space == sp && rangesMeet a n w.base w.size
    | none => false

/-- The status with which WIN_CREATE fails (R193, R100), with the byte of a REJ_FORMAT. -/
def State.winCheck (s : State) (p : Packet) : Option (Nat × Nat) :=
  let da := leAt p 24 8
  let n := leAt p 32 8
  let sp := daSpace da
  if daOff da % 4096 != 0 then some (stREJ_FORMAT, 24)
  else if n % 4096 != 0 || n = 0 then some (stREJ_FORMAT, 32)
  else if daChip da != 0x3F || !(sp == 1 || sp == 2) || decide (spaceSize sp < daOff da + n)
      || s.winOverlap sp (daOff da) n || (sp == 1 && s.internal (daOff da) n) then some (stREJ_BOUNDS, 0)
  else if s.freeWin.isNone then some (stREJ_QUOTA, 0)
  else none

/-- CF accepts a WIN_CREATE. -/
def State.winCreate (s : State) (id : Nat) : State :=
  match s.cmd? id with
  | none => s
  | some c =>
    let p := c.pkt
    match s.winCheck p with
    | some r => s.reject id r
    | none =>
      match s.freeWin with
      | none => s
      | some i =>
        let w : Window := ⟨daSpace (leAt p 24 8), daOff (leAt p 24 8), leAt p 32 8, bitsOf (leAt p 40 1) 0 4,
          bit (leAt p 41 1) 0, bit (leAt p 41 1) 1⟩
        (s.setWin i ⟨(s.winSlot i).gen, some w⟩).finish id stDONE i

/-- A descriptor lies in window `i` of this device under generation `g`. -/
def State.descUses (s : State) (i g : Nat) (d : Desc) : Bool :=
  !(windowless (daSpace d.base)) && s.isLocal (daChip d.base) && d.window == i && d.gen == g

/-- A command that has passed the generation check of window `i` under `g` and has not completed (R102). -/
def State.cmdUses (s : State) (i g : Nat) (c : Cmd) : Bool :=
  let p := c.pkt
  let raw (da w : Nat) : Bool := !(windowless (daSpace (leAt p da 8))) && s.isLocal (daChip (leAt p da 8)) && leAt p w 2 == i && leAt p (w + 2) 2 == g
  c.phase != .ended && c.phase != .atCF &&
    ((c.moves.any fun m => s.descUses i g m.src || s.descUses i g m.dst)
      || (c.op == 0x18 && raw 24 32) || (c.op == 0x19 && (raw 24 40 || raw 32 44))
      || ((areasOf c.op).any fun a => daSpace (leAt p a.1 8) == 1 && leAt p a.2.1 2 == i && leAt p a.2.2 2 == g))

/-- CF accepts a WIN_REVOKE, or a WIN_DESTROY when `destroy` (R101, R102, R194): the generation advances at once and the
record waits for the drain. The command keeps the window in `handles` and the old generation in `cursor`. -/
def State.winRevoke (s : State) (id : Nat) (destroy : Bool) : State :=
  match s.cmd? id with
  | none => s
  | some c =>
    let p := c.pkt
    let i := leAt p 24 2
    let sl := s.winSlot i
    match sl.win with
    | none => s.fail id stREJ_HANDLE
    | some w =>
      if leAt p 26 2 != sl.gen || (!destroy && sl.gen == 0xFFFF) then s.fail id stREJ_HANDLE
      else
        let users := (s.cmds.filter fun x => x.id != id && s.cmdUses i sl.gen x).map (·.id)
        let w' : Option Window := if destroy then none
          else some { w with owner := bitsOf (leAt p 28 1) 0 4, r := bit (leAt p 29 1) 0, w := bit (leAt p 29 1) 1 }
        (s.setWin i ⟨min 0xFFFF (sl.gen + 1), w'⟩).setCmd
          { c with phase := .running, drain := users, handles := [i], cursor := sl.gen }

/-- The drain of a revocation or destruction is over (R404 step 3). -/
def State.drained (s : State) (c : Cmd) : Bool :=
  (c.drain.all fun i => (s.cmd? i).all Cmd.isEnded)
    && !(s.rein.accepted.any fun a => c.handles == [a.win] && a.gen == c.cursor)

/-- Everything that passed the old generation check has completed: the record is written. -/
def State.winDrained (s : State) (id : Nat) : State :=
  match s.cmd? id with
  | some c => if (c.op == 0x09 || c.op == 0x0A) && c.phase == .running && s.drained c then s.fail id stDONE else s
  | none => s

/-- WINDOW_DRAIN_COMPLETE of command `id` (R404). -/
def execWindowDrainComplete (id : Nat) (s : State) : Result := .next (s.winDrained id)

/-! ### Descriptors (R104 to R116) -/

def State.setDesc (s : State) (i : Nat) (x : DescSlot) : State := { s with descs := kvIns i x s.descs }

/-- Descriptors a tenant holds. -/
def State.descUsed (s : State) (t : Nat) : Nat :=
  s.descs.countP fun p => match p.2.desc with | some (o, _) => o == t | none => false

/-- A free descriptor slot that is not retired. Which one a creation takes is open: the search starts at a free value (log
entry 18). -/
def State.freeDesc (s : State) : Option Nat :=
  let start := s.freeVal.toNat % 65536
  ((List.range 65536).map fun k => (start + k) % 65536).find? fun i =>
    (s.descSlot i).desc.isNone && (s.descSlot i).gen != 0xFFFF

/-- `inside` of desc_create for a descriptor on another chip: its window's range, and the space. -/
def remotePlane (w : Option Window) (base : Nat) (lo hi : Int) : Bool :=
  match extentRange base lo hi with
  | none => false
  | some (a, n) =>
    if daSpace base = 6 then decide (a + n ≤ 0x2000000)
    else match w with
      | some w => w.space == daSpace base && decide (w.base ≤ a) && decide (a + n ≤ w.base + w.size)
          && decide (a + n ≤ spaceSize w.space)
      | none => false

/-- `inside` of desc_create, here or on the chip the base names. -/
def State.planeInside (s : State) (t : Nat) (w : Option Window) (base : Nat) (lo hi : Int) : Bool :=
  if s.isLocal (daChip base) then s.insidePlane t w base lo hi else remotePlane w base lo hi

/-- Two planes of a descriptor overlap in the same memory of the same chip, however this chip is named. -/
def State.planesMeet (s : State) (a : Nat) (alo ahi : Int) (b : Nat) (blo bhi : Int) : Bool :=
  daSpace a == daSpace b && (daChip a == daChip b || (s.isLocal (daChip a) && s.isLocal (daChip b)))
    && decide ((daOff a : Int) + alo ≤ daOff b + bhi) && decide ((daOff b : Int) + blo ≤ daOff a + ahi)

/-- A windowless descriptor's window permission (R103): every window touched grants W or R. -/
def State.planeGrants (s : State) (t base : Nat) (lo hi : Int) (wr : Bool) : Bool :=
  match extentRange base lo hi with
  | some (a, n) => s.extGrants t (daSpace base) a n wr
  | none => false

/-- Steps 2 to 6 of desc_create with the window found: `w` is the local or the answered window with its generation
(R111). The result is the completed descriptor. -/
def State.descRest (s : State) (t : Nat) (d : Desc) (w : Option (Window × Nat)) : Except Nat Desc :=
  let wl := windowless (daSpace d.base)
  if !wl && !(w.any fun x => x.1.owner == t && x.2 == d.gen) then .error stREJ_HANDLE
  else if (daSpace d.base == 6 || daSpace d.base == 3) && t != 0 then .error stREJ_PERM
  else if !wl && !(w.any fun x => if d.writable then x.1.w else x.1.r) then .error stREJ_PERM
  else
    match d.reach with
    | none => .error stREJ_BOUNDS
    | some (lo, hi, _) =>
      let b := d.blocks (firstByte d.dtype lo) (lastByte d.dtype hi)
      let win := w.map (·.1)
      let slo := lo / 32
      let shi := hi / 32
      let mx := isMX d.dtype
      if !(s.planeInside t win d.base b.1 b.2) then .error stREJ_BOUNDS
      else if mx && (!(s.planeInside t win d.scale slo shi) || daSpace d.scale != daSpace d.base
          || (daChip d.scale != daChip d.base && !(s.isLocal (daChip d.scale) && s.isLocal (daChip d.base)))) then .error stREJ_BOUNDS
      else if (daSpace d.base == 4 || daSpace d.base == 5)
          && !(s.planeGrants t d.base b.1 b.2 d.writable && (!mx || s.planeGrants t d.scale slo shi d.writable)) then .error stREJ_PERM
      else if d.writable && !d.injective then .error stREJ_ALIAS
      else if d.writable && mx && s.planesMeet d.base b.1 b.2 d.scale slo shi then .error stREJ_ALIAS
      else if s.get (F.TEN_QUOTA_DESC t) ≤ s.descUsed t || s.freeDesc.isNone then .error stREJ_QUOTA
      else .ok { d with inj := d.injective, len := (b.2 - b.1 + 1).toNat }

/-- The facet parameters copied into a descriptor (R97). -/
def State.withFacet (s : State) (t : Nat) (d : Desc) : Desc :=
  match s.facetOf t d.facet with
  | some (a, w, y) => { d with fA := a, fW := w, fY := y }
  | none => d

/-- Step 1 and the address checks of step 2 (R14, R346): before any window is sought. -/
def State.descFirst (s : State) (t : Nat) (b : List (BitVec 8)) (d : Desc) : Option Nat :=
  if !(s.descFormatOk t b d) then some stREJ_FORMAT
  else if !(spaceValid (daSpace d.base)) || s.chipAbsent (daChip d.base) then some stREJ_BOUNDS
  else if !(s.isLocal (daChip d.base)) && (daSpace d.base == 4 || daSpace d.base == 5) then some stREJ_BOUNDS
  else none

/-- Fields of a DESC_CREATE body (R195). -/
def dcTable (p : Packet) : Nat := leAt p 24 8
def dcCount (p : Packet) : Nat := leAt p 36 1
def dcBack (p : Packet) : Bool := bit (leAt p 37 1) 0
def dcEcho (p : Packet) : Nat := leAt p 40 8

/-- The end of a creation: RESULT is the handle of a single creation, or the number created (R166, R195). -/
def State.descEnd (s : State) (c : Cmd) (st : Nat) : State :=
  s.finish c.id st (if dcCount c.pkt = 1 then (if isGood st then c.handles.getD 0 0 else 0) else c.handles.length)

/-- Store a checked descriptor, write it back and echo its handle (R106, R166, R195): the command with its handle, and
whether both writes went out. -/
def State.descStore (s : State) (c : Cmd) (raw : List (BitVec 8)) (d : Desc) : Bool × State :=
  match s.freeDesc with
  | none => (false, s)
  | some i =>
    let s := s.draw
    let h := i + 65536 * (s.descSlot i).gen
    let s := s.setDesc i ⟨(s.descSlot i).gen, some (c.tenant, d)⟩
    let n := c.cursor
    let s := s.setCmd { c with cursor := n + 1, handles := c.handles ++ [h] }
    let p := c.pkt
    let back := if dcBack p then s.areaWrite c.tenant (dcTable p + 128 * n) (descBytes raw d) else some s
    match back with
    | none => (false, s)
    | some s =>
      if dcEcho p = 0 then (true, s)
      else
        match s.areaWrite c.tenant (dcEcho p + 4 * n) (leBytes 4 h) with
        | none => (false, s)
        | some s => (true, s)

/-- The window of a descriptor on this device, with its generation. -/
def State.localWin (s : State) (d : Desc) : Option (Window × Nat) := (s.winSlot d.window).win.map fun w => (w, (s.winSlot d.window).gen)

/-- Take the table entry at the command's cursor; true when the next entry may follow at once. `fails` says that the host does
not serve the table's reads. -/
def State.descEntry (s : State) (id : Nat) (fails : Bool) : Bool × State :=
  match s.cmd? id with
  | none => (false, s)
  | some c =>
    if dcCount c.pkt ≤ c.cursor then (false, s.descEnd c stDONE)
    else
      match s.areaRead c.tenant c.seqNo (dcTable c.pkt + 128 * c.cursor) 128 fails with
      | (.error st, s) => (false, s.descEnd c st)
      | (.ok raw, s) =>
        let d := s.withFacet c.tenant (parseDesc raw)
        match s.descFirst c.tenant raw d with
        | some st => (false, s.descEnd c st)
        | none =>
          if !(windowless (daSpace d.base)) && !(s.isLocal (daChip d.base)) then
            -- the entry as read is kept for the answer
            (false, (s.setCmd { c with phase := .running, fetched := cellsAt 0 raw }).vc0 (daChip d.base)
              { msgZero with mop := 0x02, tenant := c.tenant, cmdTag := id % 65536, win := d.window, gen := d.gen } id 0 0)
          else
            match s.descRest c.tenant d (s.localWin d) with
            | .error st => (false, s.descEnd c st)
            | .ok d =>
              match s.descStore c raw d with
              | (true, s) => (true, s)
              | (false, s) => match s.cmd? id with
                | some c => (false, s.descEnd c stFAULT_LINK)
                | none => (false, s)

/-- Take table entries until the table ends, an entry fails, or another chip's answer is needed (R104, R166). -/
def State.descRun (s : State) (id : Nat) (fails : Bool) : Nat → State
  | 0 => s
  | k + 1 =>
    match s.descEntry id fails with
    | (true, s) => s.descRun id fails k
    | (false, s) => s

/-- CF accepts a DESC_CREATE: its areas are checked, then its table is taken in order (R195). -/
def State.descCreate (s : State) (id : Nat) (fails : Bool) : State :=
  match s.cmd? id with
  | none => s
  | some c =>
    let p := c.pkt
    let n := 128 * dcCount p
    match s.areaCheck c.tenant (dcTable p) (leAt p 32 2) (leAt p 34 2) n false with
    | (some st, s) => s.finish id st 0
    | (none, s) =>
      match (if dcBack p then s.areaCheck c.tenant (dcTable p) (leAt p 32 2) (leAt p 34 2) n true else (none, s)) with
      | (some st, s) => s.finish id st 0
      | (none, s) =>
        match (if dcEcho p = 0 then (none, s) else s.areaCheck c.tenant (dcEcho p) (leAt p 48 2) (leAt p 50 2) (4 * dcCount p) true) with
        | (some st, s) => s.finish id st 0
        | (none, s) => (s.setCmd { c with phase := .running }).descRun id fails 65

/-- The window data of an answer: space, base, size, owner, permissions, generation, and whether the slot holds a window
(layout: log entry 16). -/
def winOfAnswer (m : Msg) : Option (Window × Nat) :=
  let x := m.extra
  if bit (leAt x 0 1) 7 then
    some (⟨bitsOf (leAt x 0 1) 0 2, daOff m.da, m.operand, bitsOf (leAt x 1 1) 0 4, bit (leAt x 1 1) 4, bit (leAt x 1 1) 5⟩, m.gen)
  else none

/-- The answer a chip gives to a WIN_QUERY: the same layout. -/
def State.winAnswer (s : State) (m : Msg) : Msg :=
  let sl := s.winSlot m.win
  let a := { msgZero with vc := 2, mop := 0x21, dest := m.src, tenant := m.tenant, cmdTag := m.cmdTag, rtag := m.rtag, win := m.win, gen := sl.gen }
  match sl.win with
  | some w => { a with da := w.base, operand := w.size,
                       extra := leBytes 1 (w.space + 128) ++ leBytes 1 (w.owner + 16 * b2n w.r + 32 * b2n w.w) ++ leBytes 14 0 }
  | none => a

/-- The table entry a command has read and keeps. -/
def Cmd.entryKept (c : Cmd) : List (BitVec 8) := (List.range 128).map fun k => (kvFind c.fetched k).getD 0

/-- A DESC_CREATE goes on with the answer of the named chip, for the entry it asked about (R104). -/
def State.descAnswer (s : State) (id : Nat) (w : Option (Window × Nat)) : State :=
  match s.cmd? id with
  | none => s
  | some c =>
    match s.descRest c.tenant (s.withFacet c.tenant (parseDesc c.entryKept)) w with
    | .error st => s.descEnd c st
    | .ok d =>
      match s.descStore c c.entryKept d with
      | (true, s) => s.descRun id false 65
      | (false, s) => match s.cmd? id with
        | some c => s.descEnd c stFAULT_LINK
        | none => s

/-- No answer within 100 µs: FAULT_LINK (R104). -/
def State.winQueryTimeout (s : State) (id : Nat) : State :=
  match s.rein.reqs.find? fun r => r.cmd == id && r.mop == 0x02 with
  | none => s
  | some r =>
    let s := s.advance (r.at_ + 100000)
    let s := { s with rein := { s.rein with reqs := s.rein.reqs.filter (·.tag != r.tag) } }
    match s.cmd? id with
    | some c => s.descEnd c stFAULT_LINK
    | none => s

/-- WIN_QUERY_TIMEOUT of command `id` (R104). -/
def execWinQueryTimeout (id : Nat) (s : State) : Result := .next (s.winQueryTimeout id)

/-- CF accepts a DESC_DESTROY: every handle is checked before any is destroyed (R113, R115, R196). -/
def State.descDestroy (s : State) (id : Nat) : State :=
  match s.cmd? id with
  | none => s
  | some c =>
    let hs := (List.range (leAt c.pkt 24 1)).map fun i => leAt c.pkt (28 + 4 * i) 4
    if (hs.any fun h => (s.handleAny c.tenant h).isNone) || decide (hs.eraseDups.length ≠ hs.length) then s.fail id stREJ_HANDLE
    else
      let s := hs.foldl (fun s h => s.setDesc (h % 65536) ⟨min 0xFFFF ((s.descSlot (h % 65536)).gen + 1), none⟩) s
      s.fail id stDONE

end Sys2Proof.Machine
end

