-- ==== Sys2Proof/Machine/Moves.lean ====
section
/-! DEFINITION. Moves at decode: the checks of R121, R123, R135, R198 to R205, admission (R54 to R57, R145), and dispatch to
an engine (R236, R237, R250). -/
namespace Sys2Proof.Machine

/-! ### Step 1b: the view against the descriptors (R117, R121, R123, R135, R201) -/

/-- The byte of the packet where dimension block `d` of an opcode starts. -/
def blockByte (op d : Nat) : Nat := (if op = 0x10 then 56 else 72) + 20 * d

/-- The first non-zero field of a dimension block, as an offset in the block. -/
def Dim.firstField (x : Dim) : Option Nat :=
  if x.soff != 0 then some 0 else if x.scount != 0 then some 4 else if x.doff != 0 then some 8
  else if x.sstep != 0 then some 12 else if x.padb != 0 then some 14 else if x.pada != 0 then some 16
  else if x.dstep != 0 then some 18 else none

/-- A PERM that permutes 0 to V − 1 and is the identity above. -/
def View.permOk (v : View) (n : Nat) : Bool :=
  ((List.range n).all fun k => decide (v.pm k < n) && ((List.range n).all fun j => j == k || v.pm j != v.pm k))
    && (List.range 8).all fun k => decide (k < n) || v.pm k == k

/-- A rule of a listed dimension that is broken: the byte at fault (R123, R201). -/
def Move.listedFault (m : Move) (op count : Nat) : Option Nat :=
  let d := m.V - 1
  let x := m.view.dim d
  if m.listed = 1 then
    if x.soff != 0 then some (blockByte op d)
    else if x.scount != count then some (blockByte op d + 4)
    else if x.sstep != 0 then some (blockByte op d + 12) else none
  else if m.listed = 2 then
    if m.view.cnt d != count then some (blockByte op (m.view.pm d) + 4)
    else if x.doff != 0 then some (blockByte op d + 8)
    else if x.dstep != 0 then some (blockByte op d + 18) else none
  else none

/-- R135: equal MX types move whole blocks in order. -/
def Move.mxWhole (m : Move) : Bool :=
  let x := m.view.dim 0
  !(isMX m.src.dtype && m.src.dtype == m.dst.dtype) ||
    (m.view.pm 0 == 0 && x.sstep == 1 && x.soff % 32 == 0 && x.scount % 32 == 0 && x.padb == 0 && x.pada == 0)

/-- The packing rules of a destination type: DOFF_0 and c_0 multiples of a packed unit, DSTEP_0 = 1. -/
def Move.destFault (m : Move) (op : Nat) : Option Nat :=
  let u := unitLen m.dst.dtype
  if u = 1 then none
  else if (m.view.dim 0).doff % u != 0 then some (blockByte op 0 + 8)
  else if m.view.cnt 0 % u != 0 then some (blockByte op (m.view.pm 0) + 4)
  else if (m.view.dim 0).dstep != 1 then some (blockByte op 0 + 18)
  else none

/-- Part 1b of R121: the byte at fault. `plain` moves have no view of their own to fault. -/
def Move.formatFault (m : Move) (op count : Nat) : Option Nat :=
  let above := ((List.range 8).filter fun d => decide (m.V ≤ d)).findSome? fun d =>
    (m.view.dim d).firstField.map (blockByte op d + ·)
  let zero := (List.range m.V).find? fun d => (m.view.dim d).scount == 0
  (((above.or (if m.view.permOk m.V then none else some 32)).or (zero.map fun d => blockByte op d + 4)).or
    (m.listedFault op count)).or ((if m.mxWhole then none else some 0).or (m.destFault op))

/-! ### Steps 3 to 5 -/

/-- The least and greatest element offset a side of a move touches. -/
def spanOf (ds : List (Int × Int × Int)) : Int × Int :=
  ds.foldl (fun a d =>
    let x := d.1 * d.2.1
    let y := d.1 * d.2.2
    (a.1 + min x y, a.2 + max x y)) (0, 0)

/-- First and last index of source dimension `d`: through the page list, or by offset and step. -/
def Move.srcEnds (m : Move) (d : Nat) : Int × Int :=
  if m.listed = 1 ∧ d + 1 = m.V then
    ((m.pages.foldl min (m.pages.headD 0) : Nat), (m.pages.foldl max 0 : Nat))
  else
    let x := m.view.dim d
    let a : Int := (x.soff : Int)
    let b : Int := a + ((x.scount : Int) - 1) * x.sstep
    (min a b, max a b)

/-- First and last index of destination dimension `k`. -/
def Move.dstEnds (m : Move) (k : Nat) : Int × Int :=
  if m.listed = 2 ∧ k + 1 = m.V then
    ((m.pages.foldl min (m.pages.headD 0) : Nat), (m.pages.foldl max 0 : Nat))
  else
    let x := m.view.dim k
    let a : Int := (x.doff : Int)
    let b : Int := a + ((m.view.cnt k : Int) - 1) * x.dstep
    (min a b, max a b)

/-- Size of a dimension; 1 beyond the rank (R118). -/
def Desc.sizeAt (d : Desc) (k : Nat) : Nat := if k < d.rank then d.sz k else 1

def Move.srcSpan (m : Move) : Int × Int := spanOf ((List.range m.V).map fun d => (m.src.st d, m.srcEnds d))
def Move.dstSpan (m : Move) : Int × Int := spanOf ((List.range m.V).map fun k => (m.dst.st k, m.dstEnds k))

/-- The byte ranges a side spans: elements, rounded out to facet blocks, and the scale plane: base DA, first, last. -/
def sideRanges (d : Desc) (sp : Int × Int) : List (Nat × Int × Int) :=
  (d.base, d.blocks (firstByte d.dtype sp.1) (lastByte d.dtype sp.2)) ::
    (if isMX d.dtype then [(d.scale, sp.1 / 32, sp.2 / 32)] else [])

/-- A hand-over, or the data of a SHORT_WRITE: no DA of a tenant names it (R252). -/
def Desc.isHand (d : Desc) : Bool := d.hand

/-- The right the allocation window of a side gives at its generation check: a revoke after it takes nothing away (R102). A side
without a window here has none to lack: R104 checks a remote one at the named chip. -/
def State.windowGives (s : State) (t : Nat) (d : Desc) (wr : Bool) : Bool :=
  d.isHand || windowless (daSpace d.base) || !(s.isLocal (daChip d.base)) ||
    match s.window t d.window d.gen with
    | some w => if wr then w.w else w.r
    | none => false

/-- Step 3 for one side: the descriptor's own right, the window's (`right`, as it stood at the generation check) or the host
window's, and Bridle over the extent (R121, R392, R400). -/
def State.sidePerm (s : State) (t : Nat) (d : Desc) (right wr : Bool) : Bool × State :=
  if d.isHand then (true, s)
  else if wr && !d.writable then (false, s)
  else
    match d.reach with
    | none => (false, s)
    | some (lo, hi, _) =>
      let planes := sideRanges d (lo, hi)
      let sp := daSpace d.base
      if sp = 4 ∨ sp = 5 then
        (planes.all fun r => match extentRange r.1 r.2.1 r.2.2 with
          | some (a, n) => !(s.extInside t sp a n) || s.extGrants t sp a n wr
          | none => false, s)
      else if !(s.isLocal (daChip d.base)) then (true, s)
      else
        if !right then (false, s)
        else
          planes.foldl (fun (acc : Bool × State) r =>
            if !acc.1 then acc
            else
              match extentRange r.1 r.2.1 r.2.2 with
              | some (a, n) => acc.2.bridleRange sp t 0x00 clsENGINE wr a n
              | none => (false, acc.2)) (true, s)

/-- A CSR side moves 4 or 8 bytes at a naturally aligned offset (R92). -/
def csrOk (d : Desc) (sp : Int × Int) (moved : Nat) : Bool :=
  daSpace d.base != 6 ||
    (let a := (daOff d.base : Int) + firstByte d.dtype sp.1
     let n := lastByte d.dtype sp.2 - firstByte d.dtype sp.1 + 1
     (n == 4 || n == 8) && a % n == 0 && (moved : Int) == n)

/-- R122: a plain move's descriptors have the same rank and sizes. -/
def plainShapes (a b : Desc) : Bool := a.rank == b.rank && (List.range 8).all fun k => a.sz k == b.sz k

/-- A HOST or APORT side lies in valid windows of the tenant at decode (R392, R394). -/
def State.sideMapped (s : State) (t : Nat) (d : Desc) : Bool :=
  let sp := daSpace d.base
  !(sp == 4 || sp == 5) ||
    match d.reach with
    | none => false
    | some (lo, hi, _) => (sideRanges d (lo, hi)).all fun r => match extentRange r.1 r.2.1 r.2.2 with
        | some (a, n) => s.extInside t sp a n
        | none => false

/-- Step 4 of R121 for one move. -/
def State.boundsOk (s : State) (t : Nat) (m : Move) : Bool :=
  ((List.range m.V).all fun d => decide (0 ≤ (m.srcEnds d).1) && decide ((m.srcEnds d).2 < m.src.sizeAt d))
    && ((List.range m.V).all fun k => decide (0 ≤ (m.dstEnds k).1) && decide ((m.dstEnds k).2 < m.dst.sizeAt k))
    && (m.view.padMode != 2 || (List.range m.V).all fun d =>
        decide ((m.view.dim d).padb + 1 ≤ (m.view.dim d).scount) && decide ((m.view.dim d).pada + 1 ≤ (m.view.dim d).scount))
    && decide (m.hold ≤ 131072) && decide (m.elems < 2 ^ 48)
    && s.sideMapped t m.src && s.sideMapped t m.dst
    && csrOk m.src m.srcSpan m.bytesRead && csrOk m.dst m.dstSpan m.bytesWritten

/-- Two ranges lie in the same memory of the same chip and overlap. -/
def State.sidesMeet (s : State) (a b : Nat × Int × Int) : Bool :=
  daSpace a.1 == daSpace b.1 && (daChip a.1 == daChip b.1 || (s.isLocal (daChip a.1) && s.isLocal (daChip b.1)))
    && decide ((daOff a.1 : Int) + a.2.1 ≤ daOff b.1 + b.2.2) && decide ((daOff b.1 : Int) + b.2.1 ≤ daOff a.1 + a.2.2)

/-- Step 5 of R121: a zero DSTEP, a scatter list with one index twice, or overlapping sides. -/
def State.aliasFree (s : State) (m : Move) : Bool :=
  ((List.range m.V).all fun k => (m.view.dim k).dstep != 0 || (m.listed == 2 && k + 1 == m.V))
    && (m.listed != 2 || m.pages.eraseDups.length == m.pages.length)
    && (m.src.isHand || m.dst.isHand || (sideRanges m.src m.srcSpan).all fun a =>
        (sideRanges m.dst m.dstSpan).all fun b => !(s.sidesMeet a b))

/-- A side names an HBM DA of this device while HBM is not ready (R76). -/
def State.hbmBusy (s : State) (d : Desc) : Bool :=
  daSpace d.base == 2 && s.isLocal (daChip d.base) && !(s.on F.MEM_STATUS_HBM_READY)

/-! ### Streams, classes and engines (R237, R242, R236, R250) -/

/-- The engine stream of a command: an entry number, or an unnamed stream of its queue; none beyond the partition
(R237). -/
def State.streamOf (s : State) (t q v : Nat) : Option Nat :=
  let base := 64 * s.get (F.ENG_SPART_BASE t)
  let n := 64 * s.get (F.ENG_SPART_COUNT t)
  if v = 0 then some (if n = 0 then 4096 + 8 * t + q else base + s.get (F.ENG_QDEF_DSTREAM t q))
  else if v < n then some (base + v) else none

/-- Commands in the run list of an engine. -/
def State.runList (s : State) (e : Nat) : List Cmd := s.cmds.filter fun c => c.phase == .runList && c.engine == e
def State.activeOn (s : State) (e : Nat) : List Cmd := s.cmds.filter fun c => c.phase == .active && c.engine == e

def State.engineSt (s : State) (e : Nat) : EngineSt := (kvFind s.engines e).getD ⟨[0, 0, 0], [], [0, 0, 0, 0], false⟩
def State.setEngine (s : State) (e : Nat) (x : EngineSt) : State := { s with engines := kvIns e x s.engines }

/-- An engine of the mask that takes dispatches: neither offline nor in a reset. -/
def State.engineOn (s : State) (mask e : Nat) : Bool := bit mask e && !(s.on (F.ENG_ECTRL_OFFLINE e)) && !(s.engineSt e).resetting

/-- Pick an engine: fewest run-list entries, then the preferred one, then the lowest (R236, R324). -/
def State.pickFrom (s : State) (es : List Nat) (pref : Option Nat) : Option Nat :=
  let best := es.foldl (fun b e => min b (s.runList e).length) 65
  let ties := es.filter fun e => (s.runList e).length == best
  match pref with
  | some p => if ties.contains p then some p else ties.head?
  | none => ties.head?

/-- The engine a command is dispatched to: among those of the mask that are on and have run-list room. -/
def State.pick (s : State) (mask : Nat) (pref : Option Nat) : Option Nat :=
  s.pickFrom ((List.range 32).filter fun e => s.engineOn mask e && decide ((s.runList e).length < 64)) pref

/-- The engine an admission charges: the one dispatch would take, ignoring run-list room where none has any (DESIGN
CHOICE, log entry 19). -/
def State.pickCharge (s : State) (mask : Nat) (pref : Option Nat) : Nat :=
  ((s.pick mask pref).or (s.pickFrom ((List.range 32).filter fun e => s.engineOn mask e) pref)).getD
    (((List.range 32).find? fun e => bit mask e).getD 0)

/-- The engines of a chain's stages: the quadrant's eligible engines in ascending order after stage 0's, wrapping
(R250). -/
def State.stageEngines (s : State) (mask e0 n : Nat) : List Nat :=
  let q := e0 / 8 * 8
  let el := (List.range 8).map (q + ·) |>.filter fun e => s.engineOn mask e
  let rot := (el.filter fun e => decide (e0 < e)) ++ el.filter fun e => decide (e ≤ e0)
  e0 :: (List.range (n - 1)).map fun i => rot.getD (i % max 1 rot.length) e0

/-- The mask and the preferred engine of a command. -/
def State.maskOf (s : State) (c : Cmd) : Nat := s.get (F.ENG_QMASK c.tenant c.queue)
def State.prefOf (s : State) (c : Cmd) : Option Nat :=
  match c.node with
  | some n => (s.nodeAt c.tenant n.slot).bind (·.aff)
  | none => (s.queueSt c.tenant c.queue).lastEngine

/-! ### Admission costs (R55, R205, R346) -/

/-- Sum costs of the same resource. -/
def mergeCosts (l : List (Resource × Nat)) : List (Resource × Nat) :=
  l.foldl (fun acc x =>
    if acc.any (·.1 == x.1) then acc.map fun y => if y.1 == x.1 then (y.1, y.2 + x.2) else y else acc ++ [x]) []

/-- The port cost of `n` bytes at a DA (R55). -/
def State.portCost (s : State) (t da first n : Nat) : List (Resource × Nat) :=
  if !(s.isLocal (daChip da)) then
    match s.singlePath 12 (daChip da) with
    | some p => [(.reinPort p, s.costRein p n)]
    | none => []
  else if daSpace da = 2 then [(.hbm, s.costHbm n)]
  else if daSpace da = 4 then [(.hp, s.costHp n)]
  else if daSpace da = 5 then
    match s.p2pAt t (first / 4096) with
    | some w => let l := s.get (F.TEN_P2P_LINK w); [(.apLink l, s.costAp l n)]
    | none => []
  else []

/-- The first byte offset of a side's elements in its space. -/
def sideFirst (d : Desc) (sp : Int × Int) : Nat := ((daOff d.base : Int) + firstByte d.dtype sp.1).toNat

/-- Costs of one stage on its engine, its Prism and its real ports. -/
def State.stageCosts (s : State) (t : Nat) (m : Move) : List (Resource × Nat) :=
  [(.engine m.engine, s.costEngine m.engineBytes m.run), (.prism (m.engine / 8), s.costPrism m.lanes)]
    ++ (if m.src.isHand then [] else s.portCost t m.src.base (sideFirst m.src m.srcSpan) m.bytesRead)
    ++ (if m.dst.isHand then [] else s.portCost t m.dst.base (sideFirst m.dst m.dstSpan) m.bytesWritten)

/-- Costs of a command's moves. -/
def State.moveCosts (s : State) (t : Nat) (ms : List Move) : List (Resource × Nat) := mergeCosts (ms.flatMap (s.stageCosts t))

/-! ### TIMED (R64, R65) -/

/-- TIMED commands that await launch, those the front end still holds among them, with the entries reserved for launched graphs (R65, R321). -/
def State.timedUsed (s : State) : Nat :=
  (s.cmds.countP fun c => c.phase == .timed || (c.phase == .deferred && c.timed && !c.started && decide (s.cad.time ≤ c.launch))
      || (c.op == 0x29 && c.timed && c.phase == .running))
    + s.graphs.foldl (fun a g => if g.launch.isSome then
        a + g.nodes.countP (fun n => flTIMED (pFlags n.packet) && n.st != .dispatched && n.st != .recorded) else a) 0

/-- The status with which R65 refuses a TIMED command; a node holds its reservation already. -/
def State.timedCheck (s : State) (c : Cmd) : Option Nat :=
  if !c.timed then none
  else if s.cad.time + 60000000000 < c.launch then some stREJ_BOUNDS
  else if c.node.isNone && c.launch ≥ s.cad.time && decide (4096 ≤ s.timedUsed) then some stREJ_BUSY
  else none

/-- A TIMED command misses its bound: LAUNCH_LATE and CAD_LLATE (R64). -/
def State.launchLate (s : State) (id : Nat) : State :=
  match s.cmd? id with
  | some c =>
    if c.late then s
    else (s.modCmd id fun c => { c with late := true, warn := putBit c.warn wLAUNCH_LATE true }).stick F.CAD_LLATE_LLATE
  | none => s

/-- The windows a command's HOST and APORT accesses go through: those in force at its decode (R392, R394). -/
def State.mapsOf (s : State) (t : Nat) : List ExtMap :=
  ((List.range 16).filterMap fun k =>
    if s.on (F.TP_HWIN_VALID t k) then
      some ⟨4, s.get (F.TP_HWIN_OFFSET t k), s.get (F.TP_HWIN_SIZE t k), 0, s.get64 (F.TP_HWIN_PADDR t k 0)⟩ else none)
  ++ (List.range 64).filterMap fun w =>
    if s.on (F.TEN_P2P_VALID w) && s.get (F.TEN_P2P_TENANT w) == t then
      some ⟨5, s.get (F.TEN_P2P_OFFSET w), s.get (F.TEN_P2P_SIZE w), s.get (F.TEN_P2P_LINK w) + 1, s.get64 (F.TEN_P2P_PADDR w 0)⟩
    else none

/-- The windows a command needs: none where it names neither HOST nor APORT. -/
def State.mapsFor (s : State) (t : Nat) (das : List Nat) : List ExtMap :=
  (s.mapsOf t).filter fun m => das.any fun d => daSpace d == m.space

/-! ### Dispatch (R236) -/

/-- Give a command's stages their engines and its place in the run list, or in the TIMED list until its launch. -/
def State.place (s : State) (id : Nat) (e : Nat) : State :=
  match s.cmd? id with
  | none => s
  | some c =>
    let es := s.stageEngines (s.maskOf c) e c.moves.length
    let ms := (List.range c.moves.length).filterMap fun i =>
      c.moves[i]?.map fun (m : Move) => { m with engine := es.getD i e }
    let past := c.timed && decide (c.launch < s.cad.time)
    let wait := c.timed && (!past || c.admTick.isSome)
    let s := s.setCmd { c with moves := ms, engine := e, placed := true, phase := if wait then .timed else .runList }
    let s := match c.node with
      | some n => s.modNode c.tenant n.slot fun x => { x with aff := some e }
      | none => s.setQueue { s.queueSt c.tenant c.queue with lastEngine := some e }
    if c.timed && past then s.launchLate id else s

/-- Dispatch a checked command: to the engine R236 picks, or it waits in the front end. Its plans are looked up. -/
def State.dispatch (s : State) (id : Nat) : State :=
  match s.cmd? id with
  | none => s
  | some c =>
    let s := s.plansFor id
    match s.pick (s.maskOf c) (s.prefOf c) with
    | some e => s.place id e
    | none => s.modCmd id fun c => { c with phase := .deferred }

/-- A command that has its engine joins that engine's run list, or waits in the front end while the 64 entries are taken (R227). -/
def State.joinRun (s : State) (id : Nat) : State :=
  match s.cmd? id with
  | some c => s.setCmd { c with phase := if (s.runList c.engine).length < 64 then .runList else .deferred }
  | none => s

/-- DEFERRED_DISPATCH of an engine command: dispatched once an engine of its mask is on and has room (R236); one that has its
engine joins the run list of it. -/
def State.deferredMove (s : State) (id : Nat) : State :=
  match s.cmd? id with
  | some c =>
    if c.phase == .deferred && isEngineOp c.op then
      if c.placed then s.joinRun id
      else
        match s.pick (s.maskOf c) (s.prefOf c) with
        | some e => s.place id e
        | none => s
    else s
  | none => s

/-! ### The rest of R121 once the moves are complete -/

/-- Steps 3 to 5 of one move, with the status of the first that fails; `fits` holds what else step 4 asks: a stream of the
tenant's partition (R237), and equal shapes of a plain move (R122). -/
def State.moveCheck (s : State) (t : Nat) (m : Move) (fits : Bool) : Option Nat × State :=
  let (r, s) := s.sidePerm t m.src m.srcRight false
  let (w, s) := if r then s.sidePerm t m.dst m.dstRight true else (false, s)
  (if !(r && w) then some stREJ_PERM
   else if !(fits && s.boundsOk t m) then some stREJ_BOUNDS
   else if !(s.aliasFree m) then some stREJ_ALIAS
   else none, s)

/-- What step 4 asks of a command beside its views. -/
def State.commandFits (s : State) (c : Cmd) (m : Move) : Bool :=
  (s.streamOf c.tenant c.queue (pStream c.pkt)).isSome && (c.op != 0x11 || plainShapes m.src m.dst)

/-- Steps 3 to 5 over the moves of a command. -/
def State.movesCheck (s : State) (c : Cmd) : List Move → Option Nat × State
  | [] => (none, s)
  | m :: r =>
    match s.moveCheck c.tenant m (s.commandFits c m) with
    | (some st, s) => (some st, s)
    | (none, s) => s.movesCheck c r

/-- Admission of a TICKED command, with its plans pinned (R54, R56, R145). -/
def State.admitMoves (s : State) (c : Cmd) (ms : List Move) : Option (Nat × State) :=
  match s.admitCmd c.tenant (if c.timed then some c.launch else none) (s.moveCosts c.tenant ms) (s.planCost c.tenant ms) with
  | none => none
  | some (n, s') =>
    match s'.planPin c.tenant n (plansNeeded ms) with
    | some s'' => some (n, s'')
    | none => none

/-- The refusal of an admission: REJ_FIT, with PINFULL where only the pins were missing (R58, R145). -/
def State.fitRefused (s : State) (c : Cmd) (ms : List Move) : State :=
  let s := match s.admitCmd c.tenant (if c.timed then some c.launch else none) (s.moveCosts c.tenant ms) (s.planCost c.tenant ms) with
    | some _ => s.stick F.PRI_PINFULL_PINFULL
    | none => s
  s.fail c.id stREJ_FIT

/-- Decode goes on with complete moves: steps 3 to 6 of R121, R65, R237, then dispatch. A node's admission was made at its
launch (R57). -/
def State.moveReady (s : State) (id : Nat) : State :=
  match s.cmd? id with
  | none => s
  | some c =>
    -- a chain's stages were checked as its table was read (R204)
    match (if c.op = 0x14 then (none, s) else s.movesCheck c c.moves) with
    | (some st, s) => s.fail id st
    | (none, s) =>
      match s.streamOf c.tenant c.queue (pStream c.pkt) with
      | none => s.fail id stREJ_BOUNDS
      | some str =>
        match s.timedCheck c with
        | some st => s.fail id st
        | none =>
          let mask := s.maskOf c
          let es := s.stageEngines mask (s.pickCharge mask (s.prefOf c)) c.moves.length
          let ms := (List.range c.moves.length).filterMap fun i =>
            c.moves[i]?.map fun (m : Move) => { m with engine := es.getD i 0, sig := m.signature }
          let c := { c with moves := ms, stream := str, maps := s.mapsFor c.tenant (ms.flatMap fun m => [m.src.base, m.dst.base]) }
          let s := s.setCmd c
          if c.ticked && c.node.isNone then
            match s.admitMoves c ms with
            | some (n, s) => (s.admitted id n).dispatch id
            | none => s.fitRefused c ms
          else s.dispatch id

/-! ### Decode of the five opcodes -/

/-- A move of an opcode's packet between two descriptors whose generations have been checked. -/
def State.moveOf (s : State) (t op : Nat) (p : Packet) (src dst : Desc) : Move where
  src := src
  dst := dst
  srcRight := s.windowGives t src false
  dstRight := s.windowGives t dst true
  view := if op = 0x11 then plainView src else viewAt op p
  listed := if op = 0x12 then 1 else if op = 0x13 then 2 else 0
  pages := []
  engine := 0
  sig := []
  planReady := false

/-- R410 and R199 on LCHAN: the byte at fault. -/
def lchanFault (op : Nat) (p : Packet) : Option Nat :=
  match lchanByte op with
  | none => none
  | some b =>
    let l := leAt p b 2
    if bitsOf l 10 5 != 0 || (bit l 15 && bitsOf l 0 10 == 0) then some (b + 1)
    else if flMIRROR (pFlags p) && l = 0 then some b else none

/-- MOVE (0x10), MOVE_PLAIN (0x11), GATHER_PAGES (0x12) and SCATTER_PAGES (0x13) at decode: parts 1a and 1b and step 2 of
R121; a page list is then read (R202), and the other checks follow. -/
def State.decodeMove (s : State) (id : Nat) : State :=
  match s.cmd? id with
  | none => s
  | some c =>
    let p := c.pkt
    let op := c.op
    match ((lchanFault op p).map fun b => (stREJ_FORMAT, b)).or (s.sigAfterCheck c.tenant op p) with
    | some r => s.reject id r
    | none =>
      match s.handle c.tenant (leAt p 24 4), s.handle c.tenant (leAt p 28 4) with
      | some a, some b =>
        let m := s.moveOf c.tenant op p a b
        if s.hbmBusy a || s.hbmBusy b then s.fail id stREJ_BUSY
        else
          match (if op = 0x11 then (if m.mxWhole then m.destFault 0x10 |>.map (fun _ => 0) else some 0) else m.formatFault op (leAt p 64 2)) with
          | some i => s.rejFormat id i
          | none =>
            -- the stream it names is protected from here on (R261)
            let s := s.setCmd { c with moves := [m], stream := (s.streamOf c.tenant c.queue (pStream p)).getD c.stream }
            if m.listed = 0 then s.moveReady id
            else
              match s.areaCheck c.tenant (leAt p 56 8) (leAt p 66 2) (leAt p 68 2) (4 * leAt p 64 2) false with
              | (some st, s) => s.fail id st
              | (none, s) => s.modCmd id fun c => { c with phase := .metadata }
      | _, _ => s.fail id stREJ_HANDLE

/-- CHAIN (0x14) at decode: its table's area is checked and its read starts (R203). -/
def State.decodeChain (s : State) (id : Nat) : State :=
  match s.cmd? id with
  | none => s
  | some c =>
    let p := c.pkt
    match ((lchanFault 0x14 p).map fun b => (stREJ_FORMAT, b)).or (s.sigAfterCheck c.tenant 0x14 p) with
    | some r => s.reject id r
    | none =>
      match s.areaCheck c.tenant (leAt p 32 8) (leAt p 40 2) (leAt p 42 2) (256 * leAt p 24 1) false with
      | (some st, s) => s.fail id st
      | (none, s) => s.modCmd id fun (x : Cmd) =>
        { x with phase := .metadata, stream := (s.streamOf c.tenant c.queue (pStream p)).getD c.stream }

/-- The page list a packet or stage record names: little-endian 32-bit entries (R201). -/
def pagesOfBytes (l : List (BitVec 8)) : List Nat := (List.range (l.length / 4)).map fun i => leAt l (4 * i) 4

/-- Read the list of a packet or stage record. -/
def State.readList (s : State) (t : Nat) (p : Packet) (fails : Bool) : Except Nat (List Nat) × State :=
  match s.areaRead t (pSeq p) (leAt p 56 8) (4 * leAt p 64 2) fails with
  | (.ok l, s) => (.ok (pagesOfBytes l), s)
  | (.error st, s) => (.error st, s)

/-! ### Stage tables (R203, R204) -/

/-- The hand-over handle. -/
def handOver : Nat := 0xFFFFFFFF

/-- The byte of HTYPE in a stage record. -/
def htypeByte (op : Nat) : Nat := if op = 0x10 then 216 else 232

/-- The first byte of stage record `i` of `n` that breaks the rules of the table (R203, R204). -/
def stageFault (r : Packet) (i n : Nat) : Option Nat :=
  let op := leAt r 0 1
  let last := i + 1 == n
  let hand := leAt r 28 4 == handOver
  if !(op == 0x10 || (op == 0x12 && i == 0) || (op == 0x13 && last)) then some 0
  else if leAt r 1 1 != 3 then some 1
  else
    match ((List.range 22).map (· + 2)).find? fun b => leAt r b 1 != 0 with
    | some b => some b
    | none =>
      if (leAt r 24 4 == handOver) != (i != 0) then some 24
      else if hand != !last then some 28
      else if leAt r 44 2 != 0 then some 44
      else if leAt r 48 8 != 0 then some 48
      else if hand && isMX (bitsOf (leAt r (htypeByte op) 1) 0 4) then some (htypeByte op)
      else if !hand && leAt r (htypeByte op) 1 != 0 then some (htypeByte op)
      else none

/-- Part 1a of R121 for a stage record: the byte with a reserved bit or with a reserved encoding. -/
def stageReserved (r : Packet) : Option Nat :=
  let op := leAt r 0 1
  let hand := leAt r 28 4 == handOver
  (((List.range 232).map (· + 24)).find? fun b =>
    (leAt r b 1 &&& (255 - (if hand && b == htypeByte op then 0x0F else bodyMask op r b))) != 0).or
  ((rangeCheck op r).map (·.2))

/-- Descriptor of a hand-over tensor: dense, linear, dimension 0 fastest (R204). Its base is the place of its area in staging,
set when its producing stage becomes active. -/
def handDesc (dt : Nat) (sizes : List Nat) : Desc where
  base := 3 * 2 ^ 56 + 63 * 2 ^ 50
  dtype := dt
  rank := sizes.length
  facet := 0
  fA := 0
  fW := 0
  fY := 0
  flags := 1
  window := 0xFFFF
  gen := 0
  size := (List.range 8).map fun k => sizes.getD k 0
  stride := (List.range 8).map fun k => if k < sizes.length then (((sizes.take k).foldl (· * ·) 1 : Nat) : Int) else 0
  scale := 0
  len := 0
  inj := true
  utag := 0
  hand := true

/-- Bytes of a hand-over tensor. -/
def Desc.handBytes (d : Desc) : Nat := ((List.range d.rank).foldl (fun n k => n * d.sz k) 1 * elemBits d.dtype + 7) / 8

/-- The view rank of a stage whose destination is a hand-over (R204). -/
def stageRank (v : View) (src : Desc) : Nat :=
  (List.range 8).foldl (fun n d => if (v.dim d).scount != 0 then max n (d + 1) else n) src.rank

/-- RESULT of a format fault in a stage record (Table 6.5). -/
def stageResult (i b : Nat) : Nat := 2 ^ 31 + 2 ^ 30 + 256 * (i % 8) + b % 256

/-- A stage's source and destination: real handles, or the hand-over before it and its own; none for an invalid handle. -/
def State.stageMove (s : State) (t : Nat) (r : Packet) (prev : Option Desc) : Option Move :=
  let op := leAt r 0 1
  let src := if leAt r 24 4 = handOver then prev else s.handle t (leAt r 24 4)
  match src with
  | none => none
  | some a =>
    if leAt r 28 4 = handOver then
      let v := viewAt op r
      let n := stageRank v a
      some (s.moveOf t op r a (handDesc (bitsOf (leAt r (htypeByte op) 1) 0 4) ((List.range n).map v.cnt)))
    else (s.handle t (leAt r 28 4)).map fun b => s.moveOf t op r a b

/-- Check the stages in order and read their page lists: the moves, or the status and RESULT of the first failure. Each stage
passes the checks of R121, parts 1a and 1b around step 2, before the next is looked at (R204); `fits` is what step 4 asks of the
command itself, met in stage 0. -/
def State.stages (s : State) (t : Nat) (recs : List Packet) (fails fits : Bool) :
    Nat → Option Desc → List Move → Except (Nat × Nat) (List Move) × State
  | i, prev, acc =>
    match recs with
    | [] => (.ok acc, s)
    | r :: rest =>
      let op := leAt r 0 1
      match stageReserved r with
      | some b => (.error (stREJ_FORMAT, stageResult i b), s)
      | none =>
        match s.stageMove t r prev with
        | none => (.error (stREJ_HANDLE, 0), s)
        | some m =>
          if s.hbmBusy m.src || s.hbmBusy m.dst then (.error (stREJ_BUSY, 0), s)
          else
            match m.formatFault op (leAt r 64 2) with
            | some b => (.error (stREJ_FORMAT, stageResult i b), s)
            | none =>
              match (if m.listed = 0 then none else s.areaFormat r (56, 66, 68)) with
              | some x => (.error (x.1, if x.1 = stREJ_FORMAT then stageResult i x.2 else 0), s)
              | none =>
                match (if m.listed = 0 then (none, s) else s.areaCheck t (leAt r 56 8) (leAt r 66 2) (leAt r 68 2) (4 * leAt r 64 2) false) with
                | (some st, s) => (.error (st, 0), s)
                | (none, s) =>
                  match (if m.listed = 0 then (.ok [], s) else s.readList t r fails) with
                  | (.error st, s) => (.error (st, 0), s)
                  | (.ok pages, s) =>
                    let m := { m with pages := pages }
                    let fits := fits && (!m.dst.isHand || decide (m.dst.handBytes ≤ 65536))
                    match s.moveCheck t m fits with
                    | (some st, s) => (.error (st, 0), s)
                    | (none, s) => s.stages t rest fails fits (i + 1) (some m.dst) (acc ++ [m])

/-- The stage records of a chain's table. -/
def recordsOf (l : List (BitVec 8)) (n : Nat) : List Packet := (List.range n).map fun i => slice l (256 * i) 256

/-- The read of a page list or of a stage table completes; `fails` says that the host does not serve it (R202, R203). -/
def State.metadataDone (s : State) (id : Nat) (fails : Bool) : State :=
  match s.cmd? id with
  | none => s
  | some c =>
    if c.phase != .metadata then s
    else
      let s := s.modCmd id fun c => { c with phase := .front }
      if c.op = 0x14 then
        match s.areaRead c.tenant c.seqNo (leAt c.pkt 32 8) (256 * leAt c.pkt 24 1) fails with
        | (.error st, s) => s.fail id st
        | (.ok l, s) =>
          let n := leAt c.pkt 24 1
          let recs := recordsOf l n
          match (List.range n).findSome? fun i => (stageFault (recs.getD i []) i n).map fun b => (i, b) with
          | some (i, b) => s.finish id stREJ_FORMAT (stageResult i b)
          | none =>
            match s.stages c.tenant recs fails (s.streamOf c.tenant c.queue (pStream c.pkt)).isSome 0 none [] with
            | (.error (st, res), s) => s.finish id st res
            | (.ok ms, s) => (s.modCmd id fun c => { c with moves := ms }).moveReady id
      else
        match s.readList c.tenant c.pkt fails with
        | (.error st, s) => s.fail id st
        | (.ok pages, s) =>
          (s.modCmd id fun c => { c with moves := c.moves.map fun (m : Move) => { m with pages := pages } }).moveReady id

end Sys2Proof.Machine
end

