-- ==== Sys2Proof/Machine/Engines.lean ====
section
/-! DEFINITION. Chapter 08: starts, the active set of an engine, TIMED launches, streams and classes, starvation, engine
reset and the partition of streams. Serving a chunk is in Serve.lean. -/
namespace Sys2Proof.Machine

/-! ### Resources of an engine (R227 to R230) -/

/-- The stage a command is in. -/
def Cmd.cur (c : Cmd) : Option Move := c.moves[c.stage]?

/-- Bytes of the hand-over the current stage writes. -/
def Cmd.handOutBytes (c : Cmd) : Nat :=
  match c.cur with
  | some m => if m.dst.isHand then m.dst.handBytes else 0
  | none => 0

/-- Pool bytes the current stage reserves for its hold and its tile (R228). -/
def Cmd.reserve (c : Cmd) : Nat :=
  match c.cur with
  | some m => m.hold + m.tile
  | none => 0

/-- Bytes of the hand-over a stage reads. -/
def Cmd.handInBytes (c : Cmd) : Nat :=
  match c.cur with
  | some m => if m.src.isHand then m.src.handBytes else 0
  | none => 0

/-- A hand-over area, numbered 2 × engine + area, lies on engine `e`. -/
def areaOn (e : Nat) (a : Option Nat) : Bool := a == some (2 * e) || a == some (2 * e + 1)

/-- Pool bytes in use on an engine: reservations, which last until their commands end, and hand-over areas, which last until the
consuming stage has read them (R230). -/
def State.poolUsed (s : State) (e : Nat) : Nat :=
  s.cmds.foldl (fun a c => a + (if c.engine = e then c.resv else 0)
    + (if areaOn e c.inArea then c.handInBytes else 0) + (if areaOn e c.outArea then c.handOutBytes else 0)) 0

/-- The pool of 240 KiB. -/
def poolBytes : Nat := 245760

/-- A hand-over area is free (R251). -/
def State.areaFree (s : State) (a : Nat) : Bool := !(s.cmds.any fun c => c.inArea == some a || c.outArea == some a)

/-- The free hand-over area of an engine with the lowest number; an engine has two (R251). -/
def State.freeArea (s : State) (e : Nat) : Option Nat := [2 * e, 2 * e + 1].find? s.areaFree

/-- The DA of a hand-over area: 64 KiB of its engine's staging buffer, from byte 128 KiB or 192 KiB (log entry 83). -/
def areaDa (a : Nat) : Nat := 3 * 2 ^ 56 + 63 * 2 ^ 50 + 0x40000 * (a / 2) + 0x20000 + 0x10000 * (a % 2)

/-- Tags a command has in use: reads in flight, fills it waits for, and reads of another chip (R227). -/
def State.tagsOf (s : State) (c : Cmd) : Nat := c.tagged.length + c.waitFills.length + (s.vc0Open c.id).length

/-- Tags in use on an engine, those whose commands a reset has ended among them (R259). -/
def State.tagsOn (s : State) (e : Nat) : Nat :=
  (s.activeOn e).foldl (fun a c => a + c.tagged.length + c.waitFills.length) 0 + s.rein.reqs.countP (·.engine == e)

/-- Rank of a command on its engine: 1 locked, 2 admitted TICKED, 3 unticked (R241). -/
def State.rankOf (s : State) (c : Cmd) : Nat := if s.inSeq c then 1 else if c.admTick.isSome then 2 else 3

/-- Tags a command may still take: the engine's 512 and its pool remainder, its queue's QOUT, and 512 − TRES for unticked
work (R228, R238, R240). -/
def State.tagRoom (s : State) (c : Cmd) : Nat :=
  let e := c.engine
  let engine := min 512 ((poolBytes - s.poolUsed e) / 256) - s.tagsOn e
  let queue := s.get (F.TP_Q_CFG_QOUT c.tenant c.queue)
    - (s.cmds.filter fun x => x.tenant == c.tenant && x.queue == c.queue && isEngineOp x.op).foldl (fun a x => a + s.tagsOf x) 0
  let tres := 512 - s.get F.ENG_CTRL_TRES
    - ((s.activeOn e).filter fun x => x.admTick.isNone).foldl (fun a x => a + s.tagsOf x) 0
  if c.admTick.isSome then min engine queue else min (min engine queue) tres

/-! ### Start and activation (R189, R229) -/

/-- A command starts: its time and order, and a CMD_START record for a queue command (R465). -/
def State.markStarted (s : State) (c : Cmd) : State :=
  let s := s.setCmd { c with started := true, startedAt := s.cad.time, startOrder := s.nextOrder, servedAt := s.cad.time }
  let s := { s with nextOrder := s.nextOrder + 1 }
  let s := if flLOCK c.flags = 1 && c.op != 0x23 && c.seqId == some c.id then s.openSeq c.id none else s
  if c.node.isSome then s
  else
    s.trace 0x02 (32 * c.unit + (if c.unit = 0 then c.engine else 0)) c.traceTen c.seqNo
      (leBytes 8 (if c.unit = 0 then c.engine else 0) ++ leBytes 8 (if c.timed then c.launch else 0))

/-- Place in the run list: commands returned to it lead, then dispatch order (R231). -/
def runBefore (a b : Cmd) : Bool :=
  if (a.activeOrder != 0) != (b.activeOrder != 0) then a.activeOrder != 0
  else if a.activeOrder != 0 then decide (b.activeOrder < a.activeOrder) else decide (a.id < b.id)

/-- Commands past their launch that wait for a place on an engine (R231). -/
def State.enteringOn (s : State) (e : Nat) : List Cmd := s.cmds.filter fun c => c.phase == .entering && c.engine == e

/-- The reservation fits: at least 32 KiB of the pool are left, and a hand-over area is free (R229, R251). A command that was
returned to the run list has kept what it had. -/
def State.poolFits (s : State) (c : Cmd) : Bool :=
  c.activeOrder != 0 || (decide (s.poolUsed c.engine + c.reserve + c.handOutBytes + 32768 ≤ poolBytes)
    && (c.handOutBytes == 0 || (s.freeArea c.engine).isSome))

/-- A waiting command of an engine precedes `c` in its rank, or would fit the place that is free (R229, R231). -/
def State.entersFirst (s : State) (c : Cmd) : Bool :=
  (s.enteringOn c.engine).any fun d => d.id != c.id &&
    (if c.phase == .entering then decide (d.launch < c.launch) || (d.launch == c.launch && decide (d.id < c.id))
     else s.rankOf d == s.rankOf c || s.poolFits d)

/-- A started run-list command is the first of its rank (R229). -/
def State.headOfRank (s : State) (c : Cmd) : Bool :=
  !((s.runList c.engine).any fun d => d.id != c.id && d.started && s.rankOf d == s.rankOf c && runBefore d c)

/-- The moves of a command whose stage `k` writes its hand-over at `da`, where the next stage reads it. -/
def handAt (ms : List Move) (k da : Nat) : List Move :=
  (List.range ms.length).filterMap fun i => ms[i]?.map fun (m : Move) =>
    if i = k then { m with dst := { m.dst with base := da } } else if i = k + 1 then { m with src := { m.src with base := da } } else m

/-- The command makes its reservation: pool bytes for the hold and the tile, and a hand-over area for a stage that writes one
(R228). -/
def State.reserved (s : State) (c : Cmd) : Cmd :=
  if c.activeOrder != 0 then c
  else
    match (if c.handOutBytes = 0 then none else s.freeArea c.engine) with
    | some a => { c with resv := c.reserve, outArea := some a, moves := handAt c.moves c.stage (areaDa a) }
    | none => { c with resv := c.reserve }

/-- A command enters the active set of its engine. -/
def State.enter (s : State) (id : Nat) : State :=
  match s.cmd? id with
  | some c =>
    let s' := s.setCmd { s.reserved c with phase := .active, activeOrder := s.nextOrder + 1 }
    { s' with nextOrder := s.nextOrder + 2 }
  | none => s

/-- A command may enter the active set now: a place is free, its reservation fits, and it is first of its rank (R229, R231). -/
def State.mayEnter (s : State) (c : Cmd) : Bool :=
  decide ((s.activeOn c.engine).length < 16) && s.poolFits c && !(s.entersFirst c)
    && (c.phase == .entering || (c.phase == .runList && c.started && s.headOfRank c))

/-- COMMAND_ACTIVATE of command `id` (R229, R231). -/
def State.activate (s : State) (id : Nat) : State :=
  match s.cmd? id with
  | some c => if s.mayEnter c then s.enter id else s
  | none => s

def execCommandActivate (id : Nat) (s : State) : Result := .next (s.activate id)

/-! ### TIMED launch (R63, R64, R231) -/

/-- The unticked command that entered the active set last. -/
def State.lastUnticked (s : State) (e : Nat) : Option Cmd :=
  ((s.activeOn e).filter fun c => s.rankOf c == 3).foldl (fun b c =>
    match b with
    | none => some c
    | some d => if d.activeOrder < c.activeOrder then some c else b) none

/-- An admitted TIMED command takes its engine: into the active set, for which the last unticked command leaves a full set with its
progress. Where all 16 are TICKED, or its reservation finds no room, it is late and waits for a place (R229, R231). -/
def State.takeEngine (s : State) (c : Cmd) : State :=
  let full := decide (16 ≤ (s.activeOn c.engine).length)
  match (if full then s.lastUnticked c.engine else none) with
  | some d =>
    if s.poolFits c then (s.modCmd d.id fun (x : Cmd) => { x with phase := .runList }).enter c.id
    else (s.launchLate c.id).modCmd c.id fun (x : Cmd) => { x with phase := .entering }
  | none =>
    if full || !(s.poolFits c) then (s.launchLate c.id).modCmd c.id fun (x : Cmd) => { x with phase := .entering }
    else s.enter c.id

/-- The conditions of R64 hold for a command at its launch. -/
def State.launchOk (s : State) (c : Cmd) : Bool :=
  decide (c.decodedAt + 1000 * s.get F.CAD_LAUNCH_LEAD_US ≤ c.launch) && !(bit c.warn wPLAN_MISS)
    && (c.admTick.isSome || ((s.activeOn c.engine).isEmpty && (s.runList c.engine).isEmpty))

/-- Rack time cannot reach a launch time while a joining follower holds it (R47, R63). -/
def State.launchHeld (s : State) (c : Cmd) : Bool := s.cad.joinHold && decide (s.cad.time < c.launch)

/-- Rack time reaches a TIMED command's launch time: it starts if its start condition holds, on its engine; one that
misses a condition of R64 is late. -/
def State.launchCmd (s : State) (id : Nat) : State :=
  match s.cmd? id with
  | none => s
  | some c =>
    if c.phase != .timed || s.launchHeld c then s
    else
      let s := s.advance c.launch
      let ok := s.launchOk c && s.startable c
      let s := if ok then s else s.launchLate id
      if !(s.startable c) then s.joinRun id
      else
        let s := match s.cmd? id with | some c => s.markStarted c | none => s
        if c.admTick.isSome then (match s.cmd? id with | some c => s.takeEngine c | none => s)
        else s.joinRun id

/-! ### Streams, classes and regimes (R242 to R246) -/

/-- Class of a command in the SPLIT regime: 0 READ, 1 WRITE, 2 REMOTE (R242). -/
def State.classOf (s : State) (c : Cmd) : Nat :=
  match c.moves.head?, c.moves.getLast? with
  | some a, some b =>
    if !(s.isLocal (daChip a.src.base)) || !(s.isLocal (daChip b.dst.base)) then 2
    else if (daSpace a.src.base == 4 || daSpace a.src.base == 5) && daSpace b.dst.base != 4 && daSpace b.dst.base != 5 then 1
    else 0
  | _, _ => 0

def State.shareOf (s : State) (cls : Nat) : Nat :=
  if cls = 0 then s.get F.ENG_SPLIT_READ else if cls = 1 then s.get F.ENG_SPLIT_WRITE else s.get F.ENG_SPLIT_REMOTE

/-- A class that becomes ready starts at the lowest count per share of the ready classes (R242). -/
def State.raiseClass (s : State) (x : EngineSt) (ready : List Nat) (k : Nat) : EngineSt :=
  if x.readyClasses.contains k then x
  else
    let olds := ready.filter fun j => x.readyClasses.contains j && 0 < s.shareOf j
    match olds with
    | [] => x
    | j :: t =>
      -- the class with the lowest served / share
      let lo := t.foldl (fun a b => if x.served.getD b 0 * s.shareOf a < x.served.getD a 0 * s.shareOf b then b else a) j
      let target := ceilDiv (x.served.getD lo 0 * s.shareOf k) (s.shareOf lo)
      { x with served := modNth (fun v => max v target) k x.served }

/-- The class served next: lowest served per share, ties READ, WRITE, REMOTE; share 0 only when no other is ready
(R242). -/
def State.pickClass (s : State) (x : EngineSt) (ready : List Nat) : Option Nat :=
  let pos := ready.filter fun k => 0 < s.shareOf k
  let cand := if pos.isEmpty then ready else pos
  match cand with
  | [] => none
  | k :: t =>
    some (t.foldl (fun a b =>
      if x.served.getD b 0 * max 1 (s.shareOf a) < x.served.getD a 0 * max 1 (s.shareOf b) then b else a) k)

/-- The lowest stream at or after `from_`, wrapping. -/
def roundRobin (streams : List Nat) (from_ : Nat) : Option Nat :=
  let lowest (l : List Nat) : Option Nat := l.foldl (fun b x => match b with | none => some x | some y => some (min x y)) none
  (lowest (streams.filter (from_ ≤ ·))).or (lowest streams)

/-- The oldest active command among some. -/
def oldestActive (l : List Cmd) : Option Cmd :=
  l.foldl (fun b c => match b with | none => some c | some d => if c.activeOrder < d.activeOrder then some c else b) none

def State.streamSt (s : State) (n : Nat) : StreamSt := (kvFind s.streams n).getD ⟨0, false⟩
def State.setStream (s : State) (n : Nat) (x : StreamSt) : State := { s with streams := kvIns n x s.streams }

/-- RATE of a stream; an unnamed stream has RATE 0 (R237). -/
def State.rateOf (s : State) (n : Nat) : Nat := if n < 4096 then s.get (F.ENG_STRM_RATE n) else 0

/-- A deadline stream with a ready chunk: one that had none gets max(dry, now + LEAD) (R244). -/
def State.streamReady (s : State) (n : Nat) : State :=
  if s.rateOf n = 0 || (s.streamSt n).ready then s
  else
    let x := s.streamSt n
    s.setStream n ⟨max x.dry (256 * (s.cad.time + 1000 * s.get (F.ENG_STRM_LEAD_US n))), true⟩

/-- Streams that have a ready chunk now; the others lose the mark. -/
def State.streamsReady (s : State) (now : List Nat) : State :=
  let s := { s with streams := s.streams.map fun p => (p.1, { p.2 with ready := p.2.ready && now.contains p.1 }) }
  now.foldl (fun s n => s.streamReady n) s

/-- A ready deadline stream whose dry-time has passed sets DLMISS (R246). -/
def State.dlMiss (s : State) (n : Nat) : State :=
  if s.rateOf n != 0 && decide ((s.streamSt n).dry < 256 * s.cad.time) then s.stick F.ENG_DLMISS_DLMISS else s

/-- The command served in a rank by the DEADLINE regime (R245). -/
def State.pickDeadline (s : State) (x : EngineSt) (l : List Cmd) : Option Cmd :=
  let ids := (l.map (·.stream)).eraseDups
  let urgent := ids.filter fun n => s.rateOf n != 0
    && decide ((s.streamSt n).dry ≤ 256 * (s.cad.time + 1000 * s.get F.ENG_DL_HORIZON_US))
  match urgent with
  | n :: t =>
    let best := t.foldl (fun a b =>
      let da := (s.streamSt a).dry
      let db := (s.streamSt b).dry
      if db < da || (db == da && b < a) then b else a) n
    oldestActive (l.filter (·.stream == best))
  | [] =>
    match roundRobin ids (x.lastStream.getD 3 0) with
    | some n => oldestActive (l.filter (·.stream == n))
    | none => none

/-- The classes of some commands, in the order READ, WRITE, REMOTE. -/
def State.classesOf (s : State) (l : List Cmd) : List Nat := [0, 1, 2].filter fun k => l.any fun c => s.classOf c == k

/-- The command served in a rank by the SPLIT regime (R242). -/
def State.pickSplit (s : State) (x : EngineSt) (l : List Cmd) : Option Cmd :=
  match s.pickClass x (s.classesOf l) with
  | none => none
  | some k =>
    let lk := l.filter fun c => s.classOf c == k
    match roundRobin ((lk.map (·.stream)).eraseDups) (x.lastStream.getD k 0) with
    | some n => oldestActive (lk.filter (·.stream == n))
    | none => none

/-- The command an engine serves next among those with a ready chunk (R241). -/
def State.pickChunk (s : State) (e : Nat) (x : EngineSt) (l : List Cmd) : Option Cmd :=
  let regime (l : List Cmd) : Option Cmd := if s.on (F.ENG_ECTRL_REGIME e) then s.pickDeadline x l else s.pickSplit x l
  match oldestActive (l.filter fun c => s.rankOf c == 1) with
  | some c => some c
  | none =>
    match (l.filter fun c => s.rankOf c == 2) with
    | c :: t =>
      let first := (c :: t).foldl (fun a d => min a (d.admTick.getD 0)) (c.admTick.getD 0)
      regime ((c :: t).filter fun d => d.admTick.getD 0 == first)
    | [] => regime l

/-- The books after `b` engine bytes for a command: class counts and rounds, and a deadline stream's dry-time
(R242, R244). -/
def State.served (s : State) (e : Nat) (c : Cmd) (b : Nat) : State :=
  let x := s.engineSt e
  if s.on (F.ENG_ECTRL_REGIME e) then
    let s := s.setEngine e { x with lastStream := modNth (fun _ => c.stream + 1) 3 x.lastStream }
    let r := s.rateOf c.stream
    if r = 0 then s
    else
      let y := s.streamSt c.stream
      s.setStream c.stream { y with dry := y.dry + b * 1000 * 256 / r }
  else
    let k := s.classOf c
    s.setEngine e { x with served := modNth (· + b) k x.served, lastStream := modNth (fun _ => c.stream + 1) k x.lastStream }

/-- A started unticked command, active or in the run list, has had no chunk for ENG_STARVE_US (R246). -/
def State.starve (s : State) (id : Nat) : State :=
  match s.cmd? id with
  | some c =>
    if (c.phase == .active || (c.phase == .runList && c.started)) && s.rankOf c == 3 then
      let s := s.advance (c.servedAt + 1000 * s.get F.ENG_STARVE_US)
      (s.modCmd id fun (c : Cmd) => { c with servedAt := s.cad.time }).stick F.ENG_STARVE_STARVE
    else s
  | none => s

/-- STARVE_TIMEOUT of command `id` (R246). -/
def execStarveTimeout (id : Nat) (s : State) : Result := .next (s.starve id)

/-! ### Engine reset, offline, partitions (R259 to R261) -/

/-- A command has a stage on an engine, and lies there or beyond it. -/
def Cmd.onEngine (c : Cmd) (e : Nat) : Bool :=
  (c.phase == .runList || c.phase == .active || c.phase == .entering || (c.phase == .deferred && c.placed)) && isEngineOp c.op
    && (c.engine == e || c.moves.any fun m => m.engine == e && decide (1 < c.moves.length))

/-- Data returning to a command's tags is discarded. -/
def State.dropReads (s : State) (id : Nat) : State :=
  { s with rein := { s.rein with reqs := s.rein.reqs.filter (·.cmd != id) } }

/-- VC1 messages of a command that have not left are dropped. -/
def State.dropWaiting (s : State) (id : Nat) : State :=
  { s with rein := { s.rein with tx := s.rein.tx.map fun p =>
      (p.1, { p.2 with waiting := p.2.waiting.filter fun x => x.cmd != some id }) } }

/-- The sequence of a command stopped by a reset: its lock is released and marked BROKEN, and it ends (R259, R271). -/
def State.breakSeqOf (s : State) (c : Cmd) (st : Nat) : State :=
  match c.seqId with
  | some q =>
    match s.seq? q with
    | some x => if x.openedAt.isSome && x.broken.isNone then ((s.breakLock x).breakSeq q st).stick F.ARB_BROKEN_BROKEN else s
    | none => s
  | none => s

/-- A write of 1 to ENG_ECTRLn.RESET (R259). -/
def State.engineReset (s : State) (e : Nat) : State :=
  if (s.engineSt e).resetting then s
  else
    let s := s.closeSession.trace 0x07 e 0 0 (leBytes 1 1 ++ leBytes 1 e)
    let s := s.set (F.ENG_ECTRL_RESET e) 1
    let s := (s.setEngine e { s.engineSt e with resetting := true }).dropGrants e
    let s := { s with latches := s.latches.filter (·.engine != e) }
    (s.cmds.filter (·.onEngine e)).foldl (fun s c =>
      let s := s.dropWaiting c.id
      let s := s.breakSeqOf c stABORT_RESET
      s.fail c.id stABORT_RESET) s

/-- ENGINE_RESET of engine `e` (R259). -/
def execEngineReset (e : Engine) (s : State) : Result := .next (if s.blockOpen then s.engineReset e.val else s)

/-- The reset of an engine ends once every tag of it has returned or timed out (R259). -/
def State.engineResetEnd (s : State) (e : Nat) : State :=
  if (s.engineSt e).resetting && s.rein.reqs.all (fun r => r.engine != e) then
    (s.setEngine e { s.engineSt e with resetting := false }).set (F.ENG_ECTRL_RESET e) 0
  else s

/-- ENGINE_RESET_COMPLETE of engine `e` (R259); a write of 1 to RESET in the same cycle leaves the bit at 1, and resets the
engine again (R12). -/
def execEngineResetComplete (e : Engine) (same : Bool) (s : State) : Result :=
  let s' := s.engineResetEnd e.val
  .next (if same && s.blockOpen then s'.engineReset e.val else s')

/-- ENGINE_OFFLINE: T0 writes ENG_ECTRLn.OFFLINE (R260). -/
def State.engineOffline (s : State) (e : Nat) (v : Bool) : State := s.set (F.ENG_ECTRL_OFFLINE e) (b2n v)

def execEngineOffline (e : Engine) (v : Bool) (s : State) : Result := .next (if s.blockOpen then s.engineOffline e.val v else s)

/-- A write of ENG_SPART_t (R261). -/
def State.spartWrite (s : State) (t base count : Nat) : State :=
  let ob := s.get (F.ENG_SPART_BASE t)
  let oc := s.get (F.ENG_SPART_COUNT t)
  let clash := (List.range 16).any fun u =>
    u != t && rangesMeet base count (s.get (F.ENG_SPART_BASE u)) (s.get (F.ENG_SPART_COUNT u))
  let inNew (n : Nat) : Bool := decide (64 * base ≤ n) && decide (n < 64 * (base + count))
  let inOld (n : Nat) : Bool := decide (64 * ob ≤ n) && decide (n < 64 * (ob + oc))
  let used := s.cmds.any fun c => c.tenant == t && isEngineOp c.op && c.phase != .ended && decide (c.stream < 4096) && !(inNew c.stream)
  if clash || used || decide (64 < base + count) || decide (64 < count) then s.stick F.ENG_CFG_CFG
  else
    let s := { s with streams := s.streams.filter fun p => inNew p.1 == inOld p.1 }
    (s.set (F.ENG_SPART_BASE t) base).set (F.ENG_SPART_COUNT t) count

/-- ENG_SPART_WRITE: T0 writes the word ENG_SPART_t (R261). -/
def execEngSpartWrite (t : Tenant) (w : Word) (s : State) : Result :=
  .next (if s.blockOpen then s.spartWrite t.val (bitsOf w.toNat 0 6) (bitsOf w.toNat 16 7) else s)

end Sys2Proof.Machine
end

