-- ==== Sys2Proof/Machine/Registers.lean ====
section
/-! DEFINITION. Register reads (R5 to R8, R11, R150, R553): what a word reads as, registers that show a quantity held
elsewhere, write-only bits, the clearing of read-clear fields, and the latch of CAD_TIME. Writes are in RegWrite.lean; a write
that a command makes through a CSR device address is noted here and made when the command's own effect is done. -/
namespace Sys2Proof.Machine

/-! ### Quantities that registers show -/

/-- A function is present: PF0, or VF k while VF Enable is set and k ≤ NumVFs (R384). -/
def State.fnPresent (s : State) (f : Nat) : Bool := f == 0 || (s.pcie.vfEnable && decide (f ≤ s.pcie.numVfs))

/-- TEN_ACTIVE: functions present with Bus Master Enable set (Table 14.6). -/
def State.tenActive (s : State) : Nat :=
  (List.range 16).foldl (fun m f => if s.fnPresent f && bit s.pcie.bme f then m + 2 ^ f else m) 0

/-- SEC_CRED_END_t: the CAD_OFFLINE value at which the tenant's credential lapses with the present CAD_HOLD_ERR (Table
16.5); 0 when there is none. -/
def State.credEnd (s : State) (t : Nat) : Nat :=
  match kvFind s.sec.creds t with
  | some c =>
    let days := 86400000000000 * leAt c 16 1
    let he := s.get F.CAD_HOLD_ERR
    if days < he then leAt c 12 4 else leAt c 12 4 + (days - he) / 900000000000 + 1
  | none => 0

/-- Slots held in a queue's shadow (Table 6.9). -/
def QueueSt.slots (x : QueueSt) : Nat := x.shadow.foldl (fun a p => a + p.length / 64) 0

/-- TP_Qq_STATUS.IDLE: nothing in the shadow, no command without a record, and no record of the queue kept for a halted CQ
(R154). -/
def State.queueIdle (s : State) (t q : Nat) : Bool :=
  let x := s.queueSt t q
  x.shadow.isEmpty && x.order.isEmpty && !((s.tenantSt t).pendingRecs.any fun r => r.2.2 == q)

/-- A mask of tenants for which a condition holds. -/
def tenantMask (f : Nat → Bool) : Nat := (List.range 16).foldl (fun m t => if f t then m + 2 ^ t else m) 0

/-- Word `j` of a barrier's configuration (Table 10.6). -/
def Bar.word (b : Bar) (j : Nat) : Nat :=
  if j = 0 then b.arriveIdx % 16384 + 2 ^ 31 * b2n b.en
  else if j = 1 then b.phaseIdx % 16384 + 65536 * (b.parts % 8192)
  else if j = 2 then b.notify % 2 ^ 32
  else if j = 3 then b.notify / 2 ^ 32 % 2 ^ 32
  else if j = 4 then b.notifyIdx % 16384
  else b2n b.sense

/-- LPE_WAGE_w: age in µs, saturating, and EXPIRED in bit 31 (Table 15.16). -/
def State.wage (s : State) (w : Nat) : Nat :=
  if rlValid (s.lpeWatch w) then
    let t := ((kvFind s.lpe.refreshed w).map (·.1)).getD s.cad.time
    min 0x7FFFFFFF ((s.cad.time - t) / 1000) + 2 ^ 31 * b2n (s.lpe.expired.contains w)
  else 0

/-- Pages of a tenant (Table 6.9, Table 10.6, Table 11.5, Table 14.6) at page offset `o` whose words show quantities held
elsewhere; none is an ordinary register, and an index beyond the tenant's range is unmapped (R285). -/
def State.pageView (s : State) (t o a : Nat) : Option Nat :=
  let plain := some (s.rd a)
  if o < 0x400 ∧ o % 0x80 = 0x1C then
    let q := o / 0x80
    some (putBits (putBits (s.rd a) 0 1 (b2n (s.queueIdle t q))) 16 9 (s.queueSt t q).slots)
  else if o = 0xA014 then some (s.cqReserved t)
  else if 0x10000 ≤ o ∧ o < 0x50000 then
    (s.poolCnt t (o % 0x10000 / 4)).map fun n => if o < 0x20000 then s.cntVal n else if o < 0x40000 then 0 else s.cntSt n
  else if 0x50000 ≤ o ∧ o < 0x60000 then
    (s.poolBar t ((o - 0x50000) / 0x20)).map fun n => (s.bar n).word (o % 0x20 / 4)
  else if 0x60000 ≤ o ∧ o < 0x70000 then
    (s.poolLock t ((o - 0x60000) / 4)).map fun n =>
      let l := s.lock n
      b2n l.held + 2 * b2n l.broken + 16 * (l.holderQ % 8) + 256 * (l.holderChip % 64)
  else if 0x80200 ≤ o ∧ o < 0x80220 then
    some ((List.range 32).foldl (fun m k => if s.graphs.any (fun (g : Graph) => g.tenant == t && g.id == 8 * (o - 0x80200) + k)
      then m + 2 ^ k else m) 0)
  else if o = 0x90404 then some (s.get (F.TEN_QUOTA_DESC t))
  else plain

/-- What the word at BAR0 address `a` shows, write-only bits apart; none where it is unmapped for want of the object it
would show. -/
def State.view (s : State) (a : Nat) : Option Nat :=
  if 0x1000000 ≤ a then s.pageView ((a - 0x1000000) / 0x100000) (a % 0x100000) a
  else if a = 0x240008 then some (s.cad.time % 2 ^ 32)
  else if a = 0x24000C then some (s.cad.time / 2 ^ 32 % 2 ^ 32)
  else if a = 0x80000 then some s.cf.length
  else if a = 0x8000C then some (tenantMask s.tenantHalted)
  else if a = 0x80010 then some (tenantMask fun t => s.on (F.TP_FMT_SET t))
  else if 0x1000C0 ≤ a ∧ a < 0x100100 then some (s.planPinned ((a - 0x1000C0) / 4))
  else if 0x1400C0 ≤ a ∧ a < 0x140140 then
    let e := (a - 0x1400C0) / 4
    some ((s.activeOn e).length + 256 * (s.runList e).length + 65536 * s.tagsOn e)
  else if a = 0x300000 then some s.tenActive
  else if 0x300080 ≤ a ∧ a < 0x3000C0 then some (s.descUsed ((a - 0x300080) / 4))
  else if 0x380200 ≤ a ∧ a < 0x380600 then some (s.wage ((a - 0x380200) / 4))
  else if 0x3C00A0 ≤ a ∧ a < 0x3C00E0 then some (s.credEnd ((a - 0x3C00A0) / 4))
  else if a = 0x3C0040 then some (s.get F.CAD_OFFLINE)
  else if a = 0x3C0048 then some (s.cad.stored % 2 ^ 32)
  else if a = 0x3C004C then some (s.cad.stored / 2 ^ 32 % 2 ^ 32)
  else if 0x481000 ≤ a ∧ a < 0x482000 then
    if s.get F.PWR_STATUS_STATE = 2 ∨ s.get F.PWR_STATUS_STATE = 3 then some 0
    else some (leAt (s.mem.bytes 1 (0x5000000 + 4096 * s.get F.TRC_RD_PAGE + (a - 0x481000)) 4) 0 4)
  else if 0x80 ≤ a ∧ a < 0xC0 then
    some (leAt ((kvFind s.errs.flog (s.get F.GLB_FLOG_SEL % 1024)).getD []) (a - 0x80) 4)
  else some (s.rd a)

/-- Bits of the word at `a` with an access code. -/
def accMask (p : Access → Bool) (a : Nat) : Nat :=
  (rowsAt a).foldl (fun m (r : RegRow) => if p r.acc then m ||| ((2 ^ r.n - 1) <<< r.lo) else m) 0

/-- Bits of the word at `a` that read as zero because they are write-only. -/
def woMask (a : Nat) : Nat := accMask (fun x => x == Access.wo) a

/-- The word at `a` as it reads; none where it is unmapped (R6). -/
def State.word (s : State) (a : Nat) : Option Nat :=
  if mapped a then (s.view a).map fun v => v &&& (0xFFFFFFFF - woMask a) else none

/-- A read clears the RC fields of a word; CMQ_FWQ_PEAK and PWR_TJ.PEAK restart from the quantity they track (R8, R553). -/
def State.readClear (s : State) (a : Nat) : State :=
  if a = 0x80004 then s.set F.CMQ_FWQ_PEAK s.cf.length
  else if a = 0x400024 then s.set F.PWR_TJ_PEAK (s.get F.PWR_TJ_NOW)
  else s.wr a (s.rd a &&& (0xFFFFFFFF - accMask (fun x => x == Access.rc) a))

/-- The function whose reads have side effects at `a`: the tenant of a page, and PF0 elsewhere (R150). -/
def ownerOf (a : Nat) : Nat := if 0x1000000 ≤ a then (a - 0x1000000) / 0x100000 % 16 else 0

/-- The BAR0 address of PF0 that offset `off` of a function's BAR0 is: VF t's BAR0 is the page of tenant t (R150, R386); none
outside the BAR. -/
def fnAddr (fn off : Nat) : Option Nat :=
  if fn = 0 then (if off < 0x2000000 then some off else none)
  else if off < 0x100000 then some (0x1000000 + 0x100000 * fn + off) else none

/-- A little-endian number read from memory by a unit of the device. -/
def State.leRead (s : State) (sp a n iid : Nat) : Nat × State :=
  match s.memReadFree sp a n iid with
  | (b, s) => (leAt b 0 n, s)

/-- A read of TRC_WINDOW at address `a`: the word of the buffer's page TRC_RD_PAGE, through its ECC (R77, R466). -/
def State.windowRead (s : State) (a : Nat) : Nat × State :=
  s.leRead 1 (0x5000000 + 4096 * s.get F.TRC_RD_PAGE + (a - 0x481000)) 4 0x52

/-- A read by function `fn` of the word at address `a`: its value, with the side effects of the read. An unmapped word reads
zero and sets GLB_ERR.ACCESS (R6). A read of the trace buffer meets its ECC (R77). -/
def State.csrRead (s : State) (fn a : Nat) : Nat × State :=
  match s.word a with
  | none => (0, s.stick F.GLB_ERR_ACCESS)
  | some v =>
    if a = 0x240008 then
      (v, { s with cad := { s.cad with latches := kvIns fn (s.cad.time / 2 ^ 32 % 2 ^ 32) s.cad.latches } })
    else if a = 0x24000C then s.timeHi fn
    else if 0x481000 ≤ a ∧ a < 0x482000 ∧ s.get F.PWR_STATUS_STATE ≠ 2 ∧ s.get F.PWR_STATUS_STATE ≠ 3 then s.windowRead a
    else (v, if fn = ownerOf a then s.readClear a else s)

/-- A write of a register through a CSR device address is noted; `csrSettle` makes it. -/
def State.csrWrite (s : State) (_fn a v : Nat) : State := { s with csrLater := s.csrLater ++ [(a, v)] }

end Sys2Proof.Machine
end

