-- ==== Sys2Proof/Machine/Serve.lean ====
section
/-! DEFINITION. Chapter 08 and 04: a chunk of a move is read, cast, placed and committed (R74, R108, R109, R118 to R128,
R241, R257), and the end of a command's data (R165, R205, R411). -/
namespace Sys2Proof.Machine

/-! ### Element values (R108, R109, R118 to R128) -/

/-- Bytes by offset; an absent byte is zero. -/
def cellOf (l : List Host.Cell) (a : Nat) : BitVec 8 := (kvFind l a).getD 0

/-- Put cells over others. -/
def overlay (l new : List Host.Cell) : List Host.Cell := new.foldl (fun l c => kvIns c.1 c.2 l) l

/-- Offsets of the source bytes of destination elements `i` to `i + n − 1`, MX scale bytes included. -/
def Move.srcOffsets (m : Move) (i n : Nat) : List Nat :=
  ((List.range n).flatMap fun k =>
    match m.srcElem (i + k) with
    | some e => m.src.elemPlaces e ++ (if isMX m.src.dtype then [m.src.scalePlace e] else [])
    | none => []).eraseDups

/-- The code of source element offset `e`. -/
def Move.srcCode (m : Move) (src : List Host.Cell) (e : Int) : Nat :=
  let (offs, sh) := elemSpan m.src.dtype e
  ofLE (offs.map fun l => cellOf src (m.src.place l)) / 2 ^ sh % 2 ^ elemBits m.src.dtype

/-- The value of source element offset `e`. -/
def Move.srcVal (m : Move) (src : List Host.Cell) (e : Int) : Val :=
  let c := m.srcCode src e
  if isMX m.src.dtype then decodeMX m.src.dtype c (cellOf src (m.src.scalePlace e)).toNat else decodeElem m.src.dtype c

/-- A formed destination element: its index, code, value after the cast, and whether it was clamped. -/
structure OutElem where
  idx : Nat
  code : Nat
  val : Val
  clamped : Bool
  deriving DecidableEq, Repr

/-- Rounding of destination element `i`. -/
def Move.rnd (m : Move) (i : Nat) : Rnd := rndOf m.view.round m.view.seed i

/-- What the engine hands to the Prism for destination element `i`: its carried code, cast before the Prism where Table 5.2 says
so, and whether that cast clamped it; none for a CONST pad, whose lanes travel empty (R134, R136). -/
def Move.castIn (m : Move) (src : List Host.Cell) (i : Nat) : Option (Nat × Bool) :=
  (m.srcElem i).map fun e =>
    let c := m.srcCode src e
    if m.mxDecoded then (c + 256 * (cellOf src (m.src.scalePlace e)).toNat, false)
    else if m.src.dtype != m.dst.dtype && m.convAt == 1 then encodeElem m.dst.dtype (m.rnd i) (m.view.ovf == 1) c (m.srcVal src e)
    else (c, false)

/-- The value of a carried code that is cast after the Prism. -/
def Move.carriedVal (m : Move) (c : Nat) : Val :=
  if m.mxDecoded then decodeMX m.src.dtype (c % 256) (c / 256) else decodeElem m.src.dtype c

/-- What a range of destination elements is once it has passed the Prism: carried codes by index, and the indexes clamped before. -/
structure Carried where
  codes : List (Nat × Nat)
  clamped : List Nat
  deriving DecidableEq, Repr

/-- Elements `i` to `i + n − 1` on their way through the Prism of the engine's quadrant, under the plan the move uses (R129). -/
def Move.throughPrism (m : Move) (src : List Host.Cell) (i n : Nat) : Carried :=
  let ins := (List.range n).filterMap fun k => (m.castIn src (i + k)).map fun c => (i + k, c)
  { codes := m.carry m.planUsed (ins.map fun x => (x.1, x.2.1)), clamped := (ins.filter (·.2.2)).map (·.1) }

/-- Destination element `i` of a type without scale plane; a CONST pad is filled with PAD_VALUE after any cast (R136). -/
def Move.outElem (m : Move) (x : Carried) (i : Nat) : OutElem :=
  let dt := m.dst.dtype
  match kvFind x.codes i with
  | none =>
    let c := m.view.padValue % 2 ^ elemBits dt
    ⟨i, c, decodeElem dt c, false⟩
  | some c =>
    if m.convAt = 2 then
      let r := encodeElem dt (m.rnd i) (m.view.ovf == 1) c (m.carriedVal c)
      ⟨i, r.1, decodeElem dt r.1, r.2⟩
    else ⟨i, c, decodeElem dt c, x.clamped.contains i⟩

/-- Value of destination element `i` before an MX encoding: PAD_VALUE is FP32 (Table 4.5). -/
def Move.mxVal (m : Move) (x : Carried) (i : Nat) : Val :=
  match kvFind x.codes i with
  | some c => m.carriedVal c
  | none => decodeElem 0xA m.view.padValue

/-- The block of 32 destination elements from `i`: elements, scale byte, and how many were clamped (R127, R135). Between equal MX
types the scales travel on the engine's scale path. -/
def Move.outBlock (m : Move) (src : List Host.Cell) (x : Carried) (i : Nat) : List OutElem × Nat × Nat :=
  let dt := m.dst.dtype
  match m.src.dtype == dt, m.srcElem i with
  | true, some e0 =>
    let sc := (cellOf src (m.src.scalePlace e0)).toNat
    ((List.range 32).map fun k =>
      let c := (kvFind x.codes (i + k)).getD 0
      (⟨i + k, c, decodeMX dt c sc, false⟩ : OutElem), sc, 0)
  | _, _ =>
    let vs := (List.range 32).map fun k => m.mxVal x (i + k)
    let (sc, codes, clamps) := encodeMXBlock dt (fun k => m.rnd (i + k)) (m.view.ovf == 1) vs
    ((List.range 32).map fun k => (⟨i + k, codes.getD k 0, decodeMX dt (codes.getD k 0) sc, false⟩ : OutElem), sc, clamps)

/-- Elements `i` to `i + n − 1` of the destination, the scale bytes of their blocks (first index, byte), and how many were
clamped. -/
def Move.outRange (m : Move) (src : List Host.Cell) (i n : Nat) : List OutElem × List (Nat × Nat) × Nat :=
  let x := m.throughPrism src i n
  if isMX m.dst.dtype then
    (List.range (n / 32)).foldl (fun acc b =>
      let r := m.outBlock src x (i + 32 * b)
      (acc.1 ++ r.1, acc.2.1 ++ [(i + 32 * b, r.2.1)], acc.2.2 + r.2.2)) ([], [], 0)
  else
    let l := (List.range n).map fun k => m.outElem x (i + k)
    (l, [], l.countP (·.clamped))

/-- Lay elements over the destination bytes staged so far; `old a` is the byte at offset `a` before (R108). -/
def Move.layElem (m : Move) (old : Nat → BitVec 8) (acc : List Host.Cell) (x : OutElem) : List Host.Cell :=
  let (offs, sh) := elemSpan m.dst.dtype (m.dstElem x.idx)
  let places := offs.map m.dst.place
  let w := ofLE (places.map fun a => (kvFind acc a).getD (old a))
  overlay acc (places.zip (leBytes places.length (putBits w sh (elemBits m.dst.dtype) x.code)))

def Move.lay (m : Move) (old : Nat → BitVec 8) (acc : List Host.Cell) (l : List OutElem) (scales : List (Nat × Nat)) :
    List Host.Cell :=
  let acc := l.foldl (m.layElem old) acc
  scales.foldl (fun acc p => overlay acc [(m.dst.scalePlace (m.dstElem p.1), BitVec.ofNat 8 p.2)]) acc

/-- A chunk joins the summary (R412). -/
def Summary.addChunk (y : Summary) (dt : Nat) (l : List OutElem) (scales : List (Nat × Nat)) (clamps : Nat) : Summary :=
  let y := l.foldl (fun (y : Summary) x => y.addElem dt x.val x.code) y
  let y := y.addBytes (packCodes (elemBits dt) (l.map (·.code)))
  { y with scales := y.scales ++ scales.map (fun p => BitVec.ofNat 8 p.2), clamp := cnt32 y.clamp clamps }

/-! ### Reads (R227, R257, R340) -/

/-- Where an offset of HOST or APORT lies outside, by the windows a command took at decode. -/
def Cmd.extPlace (c : Cmd) (sp off : Nat) : Option (Nat × Nat) :=
  (c.maps.find? fun m => m.space == sp && decide (4096 * m.off ≤ off) && decide (off < 4096 * (m.off + m.size))).map fun m =>
    (m.out, m.addr + (off - 4096 * m.off))

/-- The host addresses among a command's HOST offsets. -/
def Cmd.hostAddrs (c : Cmd) (sp : Nat) (offs : List Nat) : List Nat :=
  if sp = 4 then offs.filterMap fun a => (c.extPlace sp a).map (·.2) else []

/-- The source lies on another chip. -/
def State.srcRemote (s : State) (m : Move) : Bool := !m.src.isHand && !(s.isLocal (daChip m.src.base))
def State.dstRemote (s : State) (m : Move) : Bool := !m.dst.isHand && !(s.isLocal (daChip m.dst.base))

/-- The READ_REQ for a range of another chip's memory; `last` marks the last request of its command there (R104, R340). -/
def readReqMsg (t tag rank tick : Nat) (d : Desc) (off len : Nat) (last : Bool) : Msg :=
  { msgZero with mop := 0x01, tenant := t, cmdTag := tag % 65536, rank := rank, tick := tick % 256, cmdLast := last,
                 da := d.base / 2 ^ 50 * 2 ^ 50 + off, win := d.window, gen := d.gen, operand := len }

/-- Ranges of at most 256 bytes, one per 256-byte block, that cover the offsets not asked for. -/
def askRanges (asked : List (Nat × Nat)) (offs : List Nat) : List (Nat × Nat) :=
  let need := offs.filter fun a => !(asked.any fun r => r.1 ≤ a && decide (a < r.1 + r.2))
  ((need.map (· / 256)).eraseDups).map fun b =>
    let l := need.filter (· / 256 == b)
    let lo := l.foldl min (l.headD 0)
    (lo, l.foldl max 0 + 1 - lo)

/-- Send one read of a command to another chip if it has a tag. -/
def State.askRange (s : State) (id : Nat) (m : Move) (r : Nat × Nat) (last : Bool) : State :=
  match s.cmd? id with
  | none => s
  | some c =>
    if s.tagRoom c = 0 then s
    else
      let s := s.setCmd { c with asked := c.asked ++ [r] }
      s.vc0 (daChip m.src.base)
        { readReqMsg c.tenant c.id c.flitRank (c.admTick.getD 0) m.src r.1 r.2 last with lock := s.inSeq c } c.id r.1 r.2

/-- Look up one weight-cache sector for a command's next chunk: a hit needs no HBM word, a miss waits for the fill, and a bypass is
a read of HBM (R87, R257). -/
def State.lookSector (s : State) (id : Nat) (b : Nat) : State :=
  match s.cmd? id with
  | none => s
  | some c =>
    let r := s.wcRead (b / 16) (b % 16) (if c.admTick.isSome then 1 else 2) (c.admTick.getD 0)
    r.2.modCmd id fun (c : Cmd) =>
      match r.1 with
      | .hit => { c with looked := c.looked ++ [b], hits := c.hits ++ [b] }
      | .fill => { c with looked := c.looked ++ [b], waitFills := c.waitFills ++ [(b / 16, b % 16)] }
      | .bypass => { c with looked := c.looked ++ [b], tagged := c.tagged ++ [b] }

/-- Read one 256-byte block of HBM, HOST or APORT for a command's next chunk if it has a tag (R227, R228, R238, R240). -/
def State.takeBlock (s : State) (id : Nat) (cached : Bool) (b : Nat) : State :=
  match s.cmd? id with
  | none => s
  | some c =>
    if c.looked.contains b || s.tagRoom c = 0 then s
    else if cached then s.lookSector id b
    else s.setCmd { c with looked := c.looked ++ [b], tagged := c.tagged ++ [b] }

/-- Elements of a command's next chunk. -/
def Cmd.chunk (c : Cmd) (m : Move) : Nat := min m.chunkElems (m.elems - c.done)

/-- A local HBM source read with CACHE_HINT (§8). -/
def State.cached (s : State) (m : Move) : Bool := m.src.cacheHint && daSpace m.src.base == 2 && !(s.srcRemote m)

/-- Reads of the source hold a tag per 256 bytes: local HBM, HOST and APORT (R227); reads of other chips are counted by their
requests. -/
def State.taggedSrc (s : State) (m : Move) : Bool :=
  !m.src.isHand && !(s.srcRemote m) && [2, 4, 5].contains (daSpace m.src.base)

/-- Source offsets that destination elements `i` to `i + n − 1` need: with a transposition, those of the whole tiles they lie in
(R137). -/
def Move.readSet (m : Move) (i n : Nat) : List Nat :=
  if m.view.pm 0 = 0 then m.srcOffsets i n
  else ((((List.range n).map (i + ·)).foldl (fun (l : List Nat) k => if l.contains k then l else l ++ m.tileOf k) []).flatMap
    fun k => m.srcOffsets k 1).eraseDups

/-- Source offsets of a command's next chunk that are not held yet. -/
def Cmd.wanted (c : Cmd) (m : Move) (n : Nat) : List Nat :=
  (m.readSet c.done n).filter fun a => (kvFind c.fetched a).isNone

/-- No later message of the command goes to the chip its source lies on: the last request there carries CMD_LAST (R104). -/
def State.lastRead (s : State) (c : Cmd) (m : Move) : Bool :=
  let chip := daChip m.src.base
  decide (m.elems ≤ c.done + c.chunk m)
    && !((c.moves.drop (c.stage + 1)).any fun x => s.srcRemote x && daChip x.src.base == chip)
    && !((c.moves.drop c.stage).any fun x => s.dstRemote x && daChip x.dst.base == chip)

/-- Issue the reads of an active command's next chunk that need a tag. -/
def State.issueReads (s : State) (id : Nat) : State :=
  match s.cmd? id with
  | none => s
  | some c =>
    match c.cur with
    | none => s
    | some m =>
      let offs := c.wanted m (c.chunk m)
      if s.srcRemote m then
        let rs := askRanges c.asked offs
        (List.range rs.length).foldl (fun s i =>
          match rs[i]? with
          | some r => s.askRange id m r (i + 1 == rs.length && s.lastRead c m)
          | none => s) s
      else if s.taggedSrc m then ((offs.map (· / 256)).eraseDups).foldl (fun s b => s.takeBlock id (s.cached m) b) s
      else s

/-- Every read of an active command's next chunk has been issued, those of other chips and fills have returned, and its plan is at
hand (R241). -/
def State.chunkAt (s : State) (c : Cmd) : Bool :=
  match c.cur with
  | none => false
  | some m =>
    let offs := c.wanted m (c.chunk m)
    c.phase == .active && m.planReady && c.waitFills.isEmpty && decide (c.done < m.elems)
      && (!(s.srcRemote m) || offs.isEmpty)
      && (!(s.taggedSrc m) || offs.all fun a => c.looked.contains (a / 256))

/-- The next chunk of an active command is ready: its data has landed too. What a decision of the engine asks for has landed at its
next one (DESIGN CHOICE, log entry 84). -/
def State.chunkReady (s : State) (c : Cmd) : Bool := s.chunkAt c && c.tagged.isEmpty

/-- The source bytes of a chunk, or the status with which the command ends: what is held, and the rest read now. HBM words the
weight cache served are not looked at (R84). -/
def State.gatherSrc (s : State) (c : Cmd) (m : Move) (all : List Nat) (fails : Bool) : Except Nat (List Host.Cell) × State :=
  let sp := daSpace m.src.base
  let offs := all.filter fun a => (kvFind c.fetched a).isNone
  if s.srcRemote m || offs.isEmpty then (.ok c.fetched, s)
  else if sp = 4 ∨ sp = 5 then
    if fails || offs.any fun a => s.outFails c.tenant false (c.extPlace sp a) then (.error stFAULT_LINK, s)
    else (.ok (overlay c.fetched (offs.map fun a => (a, match c.extPlace sp a with | some (o, x) => s.extByte o x | none => 0))),
      s.atsUse c.tenant (c.hostAddrs sp offs))
  else if sp = 6 then
    let lo := offs.foldl min (offs.headD 0)
    let r := ((List.range (ceilDiv offs.length 4)).foldl (fun (acc : List Host.Cell × State) k =>
      let (v, s) := acc.2.csrRead 0 (lo + 4 * k)
      (acc.1 ++ cellsAt (lo + 4 * k) (leBytes 4 v), s)) ([], s))
    (.ok (overlay c.fetched r.1), r.2)
  else
    let ws := wordsOf (if sp = 2 then offs.filter fun a => !(c.hits.contains (a / 256)) else offs)
    let s' := s.readWords sp ws (256 * c.tenant + c.engine) stFAULT_ECC c.seqNo
    if (s.mem.badWord sp ws).isSome then (.error stFAULT_ECC, s')
    else (.ok (overlay c.fetched (offs.map fun a => (a, s.mem.byte sp a))), s')

/-! ### Commits (R74, R164, R347) -/

/-- Runs of consecutive offsets among cells in rising order, none of which crosses a multiple of 4,096: no granule is split, and
none is longer than a WRITE carries (R74, R347). -/
def runsOf : List Host.Cell → List (Nat × List (BitVec 8))
  | [] => []
  | c :: t =>
    match runsOf t with
    | [] => [(c.1, [c.2])]
    | r :: rs => if c.1 + 1 = r.1 ∧ r.1 % 4096 ≠ 0 then (c.1, c.2 :: r.2) :: rs else (c.1, [c.2]) :: r :: rs

/-- Note that a queue has written an outside space since its last flush (R164). -/
def State.dirtied (s : State) (t q out : Nat) : State :=
  let x := s.queueSt t q
  if x.dirty.contains out then s else s.setQueue { x with dirty := x.dirty ++ [out] }

/-- The VC1 WRITE of a run of bytes (R347). -/
def writeMsg (t tag rank tick : Nat) (base win gen off : Nat) (data : List (BitVec 8)) (last : Bool) : Msg :=
  { msgZero with mop := 0x10, tenant := t, cmdTag := tag % 65536, rank := rank, tick := tick % 256, cmdLast := last,
                 ackReq := last, da := base / 2 ^ 50 * 2 ^ 50 + off, win := win, gen := gen, data := data }

/-- Local destination bytes of a command are committed: they count in its BYTES; those written to another chip count once the
chip has acknowledged them, and a hand-over's do not (R78, R171). -/
def State.committed (s : State) (c : Cmd) (d : Desc) (n : Nat) : State :=
  if d.isHand || !(s.isLocal (daChip d.base)) then s else s.modCmd c.id fun (c : Cmd) => { c with bytes := c.bytes + n }

/-- Commit destination bytes of a command; `last` says that no later VC1 message of the command follows. None where a
HOST or APORT path is not there. -/
def State.commitCells (s : State) (c : Cmd) (d : Desc) (cells : List Host.Cell) (last : Bool) : Option State :=
  let sp := daSpace d.base
  if !d.isHand && !(s.isLocal (daChip d.base)) then
    let rs := runsOf cells
    some ((List.range rs.length).foldl (fun s i =>
      match rs[i]? with
      | some r => s.vc1 (daChip d.base) { writeMsg c.tenant c.id c.flitRank (c.admTick.getD 0) d.base d.window d.gen r.1 r.2
          (last && i + 1 == rs.length) with lock := s.inSeq c } (some c.id)
      | none => s) s)
  else
    let s' := s.committed c d cells.length
    if sp = 4 ∨ sp = 5 then
      if cells.any fun x => s.outFails c.tenant true (c.extPlace sp x.1) then none
      else some (cells.foldl (fun s x =>
        match c.extPlace sp x.1 with
        | some (o, a) => (s.extWrite o a [x.2]).dirtied c.tenant c.queue o
        | none => s) (s'.atsUse c.tenant (c.hostAddrs sp (cells.map (·.1)))))
    else if sp = 6 then
      some ((runsOf cells).foldl (fun s r =>
        (List.range (ceilDiv r.2.length 4)).foldl (fun s k => s.csrWrite 0 (r.1 + 4 * k) (leAt r.2 (4 * k) 4)) s) s')
    else some (s'.memWrite sp cells)

/-- 64-byte granules that elements from index `i` on still touch (R74). -/
def Move.granulesFrom (m : Move) (i : Nat) : List Nat :=
  ((List.range (m.elems - i)).flatMap fun k =>
    let e := m.dstElem (i + k)
    m.dst.elemPlaces e ++ (if isMX m.dst.dtype then [m.dst.scalePlace e] else [])).map (· / 64) |>.eraseDups

/-- The byte of a destination before the move, for the nibble that shares a byte with one placed: a free value on another
chip. -/
def State.oldByte (s : State) (c : Cmd) (m : Move) (a : Nat) : BitVec 8 :=
  let sp := daSpace m.dst.base
  if s.dstRemote m then s.freeVal.setWidth 8
  else if sp = 4 ∨ sp = 5 then (match c.extPlace sp a with | some (o, x) => s.extByte o x | none => 0)
  else if sp = 6 then 0
  else s.mem.byte sp a

/-! ### The end of a command's data (R165, R411, R419) -/

/-- BYTES and the CRC of a command whose data is written in full (Table 6.3, R171). -/
def Cmd.wrote (c : Cmd) : Cmd :=
  match c.moves.getLast? with
  | some m => { c with bytes := m.bytesWritten, crc := c.summary.crcOut }
  | none => c

/-- Every byte of a command's data is committed at its target: the command is drained, and one with a channel sends its
summary; a gated one whose summary is lost has failed (R411, R419). -/
def State.settle (s : State) (id : Nat) : State :=
  match s.cmd? id with
  | none => s
  | some c =>
    if c.phase == .running && (isEngineOp c.op || isAwlOp c.op || c.op == 0x20) && (s.vc1Open id).isEmpty then
      let c := { c.wrote with phase := .drained }
      let s := s.setCmd c
      if c.chan = 0 || c.gated then s
      else
        let (ok, s) := s.sendSummary c (s.outcome c stDONE 0).1
        s.modCmd id fun (c : Cmd) => { c with gated := true, verdict := if ok || !c.gate then c.verdict else some false }
    else s

/-- The signal spec of a command's SIG_AFTER. -/
def Cmd.sigAfter (c : Cmd) : Option Sig :=
  if flSIG c.flags then (sigByte c.op).map (sigAt c.pkt) else none

/-- The announcing signal rides behind the data on VC1: it names the chip the data went to, and no verdict is awaited. -/
def State.sigRides (s : State) (c : Cmd) (d : Desc) : Bool :=
  match c.sigAfter with
  | some g => g.op != 0 && !(s.isLocal (daChip d.base)) && g.chip == daChip d.base && !c.gate
  | none => false

/-- The data of the last stage has been sent. -/
def State.dataSent (s : State) (id : Nat) (m : Move) : State :=
  match s.cmd? id with
  | none => s
  | some c =>
    let s := if s.sigRides c m.dst then
        (match c.sigAfter with
         | some g => (s.modCmd id fun (c : Cmd) => { c with signalled := true }).sigIssue c g true
         | none => s)
      else s
    let s := s.modCmd id fun (c : Cmd) => { c with phase := .running, staged := [], fetched := [], inArea := none }
    s.settle id

/-- A stage has formed and committed every element: the next stage joins the run list of its engine, or the command's data
is sent. The hand-over the stage read is released, with its reservation (R230, R251). -/
def State.stageEnd (s : State) (id : Nat) (m : Move) : State :=
  match s.cmd? id with
  | none => s
  | some c =>
    match c.moves[c.stage + 1]? with
    | some n =>
      (s.setCmd { c with stage := c.stage + 1, done := 0, staged := [], inArea := c.outArea, outArea := none, resv := 0, fetched := [],
                         asked := [], looked := [], hits := [], summary := summaryZero, phase := .front, engine := n.engine,
                         activeOrder := 0 }).joinRun id
    | none => s.dataSent id m

/-- The next `n` elements of a command are formed and placed; granules no later element touches are committed (R74). -/
def State.placeChunk (s : State) (c : Cmd) (m : Move) (src : List Host.Cell) (n : Nat) : State :=
  let (l, scales, clamps) := m.outRange src c.done n
  let staged := m.lay (s.oldByte c m) c.staged l scales
  let s := if s.dstRemote m then s.draw else s
  let next := c.done + n
  let fin := m.elems ≤ next
  let later := if fin then [] else m.granulesFrom next
  let out := staged.filter fun x => !(later.contains (x.1 / 64))
  -- what later elements take again stays in staging (R120)
  let again := if fin || !(m.keeps || s.srcRemote m) then [] else m.readSet next (m.elems - next)
  let c := { c with
    done := next, staged := staged.filter fun x => later.contains (x.1 / 64), servedAt := s.cad.time
    fetched := src.filter fun x => again.contains x.1
    looked := [], hits := []
    warn := if clamps = 0 then c.warn else putBit c.warn wCLAMP true
    summary := c.summary.addChunk m.dst.dtype l scales clamps }
  let s := s.setCmd c
  let ends := fin && c.moves.length ≤ c.stage + 1
  match s.commitCells c m.dst out (ends && !(s.sigRides c m.dst)) with
  | none => s.fail c.id stFAULT_LINK
  | some s => if fin then s.stageEnd c.id m else s

/-- Leading elements of a command's next chunk that need no uncorrectable word, in whole blocks for an MX destination. -/
def State.soundElems (s : State) (c : Cmd) (m : Move) : Nat :=
  let sp := daSpace m.src.base
  let bad (k : Nat) : Bool :=
    let offs := (m.srcOffsets (c.done + k) 1).filter fun a => (kvFind c.fetched a).isNone && !(sp == 2 && c.hits.contains (a / 256))
    (s.mem.badWord sp (wordsOf offs)).isSome
  let k := ((List.range (c.chunk m)).takeWhile fun k => !(bad k)).length
  if isMX m.dst.dtype then k / 32 * 32 else k

/-- An engine read has found an uncorrectable word: what was completed before it, here in placement order, is committed, nothing that
would hold an element of it is, and the command ends with FAULT_ECC (R78, log entry 43). -/
def State.stopAtWord (s : State) (c : Cmd) (m : Move) : State :=
  let k := s.soundElems c m
  let s :=
    if k = 0 then s
    else match s.gatherSrc c m (m.srcOffsets c.done k) false with
      | (.ok src, s) => s.placeChunk c m src k
      | (.error _, s) => s
  s.fail c.id stFAULT_ECC

/-- Elements of a chunk that are served before an admitted TICKED transfer takes the engine at a beat boundary: `cut` of its 16
beats, for unticked work only; whole packed units (R33, R248). -/
def State.servedElems (s : State) (c : Cmd) (m : Move) (cut : Nat) : Nat :=
  let n := c.chunk m
  if cut < 16 && s.rankOf c == 3 then n * cut / 16 / unitLen m.dst.dtype * unitLen m.dst.dtype else n

/-- One chunk of a command is served (R241), or the first `cut` beats of it. -/
def State.serveChunk (s : State) (c : Cmd) (fails : Bool) (cut : Nat) : State :=
  match c.cur with
  | none => s
  | some m =>
    let n := s.servedElems c m cut
    if n = 0 then s
    else
      let s := s.served c.engine c (m.engineBytes * n / max 1 m.elems)
      let s := if m.straight then s else s.latchUse c.engine m.sig
      match s.gatherSrc c m (m.readSet c.done n) fails with
      | (.error st, s) => if st = stFAULT_ECC then s.stopAtWord c m else s.fail c.id st
      | (.ok src, s) => s.placeChunk c m src n

/-- The reads an engine's commands had in flight have landed, and their tags are free. -/
def State.landed (s : State) (e : Nat) : State :=
  { s with cmds := s.cmds.map fun (c : Cmd) => if c.phase == .active && c.engine == e then { c with tagged := [] } else c }

/-- Streams whose next chunk is ready, or will have landed at the next decision. -/
def State.readyStreams (s : State) : List Nat := (((s.cmds.filter s.chunkAt).map (·.stream)).eraseDups)

/-- ENGINE_CHUNK_DECISION on engine `e`: what was in flight has landed, reads are issued, the command R241 names is served, and the
reads of the chunks that follow are issued. `fails` says that the outside refuses a read of this chunk, `cut` after how many beats of
16 an admitted TICKED transfer takes the engine from unticked work. -/
def State.chunkDecision (s : State) (e : Nat) (fails : Bool) (cut : Nat) : State :=
  let s := s.landed e
  let s := (s.activeOn e).foldl (fun s c => s.issueReads c.id) s
  let ready := (s.activeOn e).filter s.chunkReady
  let s := s.streamsReady s.readyStreams
  let s := s.readyStreams.foldl (fun s n => s.dlMiss n) s
  let classes := s.classesOf (ready.filter fun c => s.rankOf c != 1)
  let x := classes.foldl (fun x k => s.raiseClass x classes k) (s.engineSt e)
  let x := { x with readyClasses := classes }
  let s := s.setEngine e x
  match s.pickChunk e x ready with
  | some c =>
    let s := s.serveChunk c fails cut
    let s := (s.activeOn e).foldl (fun s c => s.issueReads c.id) s
    s.streamsReady s.readyStreams
  | none => s

/-! ### The announcing signal and the record (R165, R170, R419) -/

/-- The data of a drained command may be announced: no verdict is awaited, or it has passed. -/
def Cmd.announceable (c : Cmd) : Bool := c.phase == .drained && (!c.gate || c.verdict == some true)

/-- SIG_AFTER_SEND of command `id` (R165). -/
def State.sendSigAfter (s : State) (id : Nat) : State :=
  match s.cmd? id with
  | none => s
  | some c =>
    match c.sigAfter with
    | some g =>
      -- a local flag set waits while the tenant has held nodes (Table 11.3)
      let held := g.op == 4 && s.isLocal g.chip && s.tenantHeld c.tenant
      if c.announceable && !c.signalled && !held then
        (s.setCmd { c with signalled := true }).sigIssue { c with signalled := true } g true
      else s
    | none => s

def execSigAfterSend (id : Nat) (s : State) : Result := .next (s.sendSigAfter id)

/-- COMMAND_COMPLETE of command `id`: drained, announced, acknowledged and judged, it ends (R170, R419). -/
def State.completeCmd (s : State) (id : Nat) : State :=
  match s.cmd? id with
  | none => s
  | some c =>
    if c.phase != .drained then s
    else if c.gate && c.verdict == some false then s.fail id stABORT_SAFETY
    else if c.announceable && (c.sigAfter.all (fun g => g.op == 0) || c.signalled) && (s.vc1Open id).isEmpty then s.fail id stDONE
    else s

def execCommandComplete (id : Nat) (s : State) : Result := .next (s.completeCmd id)

end Sys2Proof.Machine
end

