-- ==== Sys2Proof/Machine/Awl.lean ====
section
/-! DEFINITION. The Awl path: SHORT_WRITE and SHORT_COPY (R92, R206 to R208, R254 to R256). An operation is held as a move
between dense byte descriptors. -/
namespace Sys2Proof.Machine

/-! ### Operands -/

/-- A dense run of `n` bytes at a DA, named with a window; `hand` for bytes that lie at no DA. -/
def byteDesc (da n win gen : Nat) (hand : Bool) : Desc where
  base := da
  dtype := 0
  rank := 1
  facet := 0
  fA := 0
  fW := 0
  fY := 0
  flags := 1
  window := win
  gen := gen
  size := [n, 1, 1, 1, 1, 1, 1, 1]
  stride := [1, 0, 0, 0, 0, 0, 0, 0]
  scale := 0
  len := 0
  inj := true
  utag := 0
  hand := hand

/-- The ends of a SHORT_WRITE or SHORT_COPY; the source of a SHORT_WRITE is its packet, whose data the command holds. -/
def State.awlMove (s : State) (t op : Nat) (p : Packet) : Move :=
  let n := if op = 0x18 then leAt p 36 1 else leAt p 48 2
  let dst := if op = 0x18 then byteDesc (leAt p 24 8) n (leAt p 32 2) (leAt p 34 2) false
    else byteDesc (leAt p 32 8) n (leAt p 44 2) (leAt p 46 2) false
  let src := if op = 0x18 then byteDesc 0 n 0xFFFF 0 true else byteDesc (leAt p 24 8) n (leAt p 40 2) (leAt p 42 2) false
  { src := src, dst := dst, srcRight := s.windowGives t src false, dstRight := s.windowGives t dst true, view := plainView src,
    listed := 0, pages := [], engine := 32, sig := [], planReady := true }

/-- The byte of WIN of an operand: source or destination. -/
def awlWinByte (op : Nat) (wr : Bool) : Nat := if op = 0x18 then 32 else if wr then 44 else 40

/-- REJ_FORMAT of a HOST or APORT operand: WIN 0xFFFF and GEN 0 (R206, R554). -/
def awlFormat (d : Desc) (b : Nat) : Option (Nat × Nat) :=
  if daSpace d.base = 4 ∨ daSpace d.base = 5 then
    (inRange d.window 0xFFFF 0xFFFF b).or (inRange d.gen 0 0 (b + 2))
  else none

/-- The space of an operand is one of R206, its chip exists, and remote operands lie where R346 allows. -/
def State.awlSpace (s : State) (t : Nat) (d : Desc) : Option Nat :=
  let sp := daSpace d.base
  let remote := !(s.isLocal (daChip d.base))
  if d.isHand then none
  else if !([1, 2, 4, 5, 6].contains sp) || s.chipAbsent (daChip d.base) then some stREJ_BOUNDS
  else if sp = 6 && t != 0 then some stREJ_PERM
  else if remote && (sp == 4 || sp == 5) then some stREJ_BOUNDS
  else if !remote && sp == 2 && !(s.on F.MEM_STATUS_HBM_READY) then some stREJ_BUSY
  else none

/-- A local SRAM or HBM operand's window is current (R102, R111). -/
def State.awlHandle (s : State) (t : Nat) (d : Desc) : Option Nat :=
  let sp := daSpace d.base
  if (sp == 1 || sp == 2) && s.isLocal (daChip d.base) && (s.window t d.window d.gen).isNone then some stREJ_HANDLE else none

/-- Permission of an operand: window, host window and Bridle (R206, R400). -/
def State.awlPerm (s : State) (t : Nat) (d : Desc) (n : Nat) (wr : Bool) : Option Nat × State :=
  let sp := daSpace d.base
  if d.isHand || !(s.isLocal (daChip d.base)) then (none, s)
  else if sp = 4 ∨ sp = 5 then
    (if s.extInside t sp (daOff d.base) n && !(s.extGrants t sp (daOff d.base) n wr) then some stREJ_PERM else none, s)
  else
    let right := sp == 6 || (match s.window t d.window d.gen with | some w => if wr then w.w else w.r | none => false)
    if !right then (some stREJ_PERM, s)
    else
      let (ok, s) := s.bridleRange sp t 0x20 clsAWL wr (daOff d.base) n
      (if ok then none else some stREJ_PERM, s)

/-- Bounds of an operand (R92, R111, R392, R394). -/
def State.awlBounds (s : State) (t : Nat) (d : Desc) (n : Nat) : Option Nat :=
  let sp := daSpace d.base
  let off := daOff d.base
  if d.isHand then none
  else if sp = 6 then (if (n == 4 || n == 8) && off % n == 0 && decide (off + n ≤ 0x2000000) then none else some stREJ_BOUNDS)
  else if !(s.isLocal (daChip d.base)) then (if off + n ≤ spaceSize sp then none else some stREJ_BOUNDS)
  else if sp = 4 ∨ sp = 5 then (if s.extInside t sp off n then none else some stREJ_BOUNDS)
  else
    match s.window t d.window d.gen with
    | some w => if s.insideWindow w sp off n then none else some stREJ_BOUNDS
    | none => some stREJ_HANDLE

/-- The source and destination of a SHORT_COPY overlap in the same memory (R207). -/
def State.awlAlias (s : State) (m : Move) (n : Nat) : Option Nat :=
  if m.src.isHand then none
  else if s.sidesMeet (m.src.base, 0, (n : Int) - 1) (m.dst.base, 0, (n : Int) - 1) then some stREJ_ALIAS else none

/-! ### Decode -/

/-- Operations on the Awl path, of a tenant and in all (R255). -/
def State.awlUsed (s : State) (t : Option Nat) : Nat :=
  s.cmds.countP fun c => c.phase == .awl && (match t with | some t => c.tenant == t | none => true)

/-- The Awl path has room for an operation of a tenant. -/
def State.awlRoom (s : State) (t : Nat) : Bool := decide (s.awlUsed none < 256) && decide (s.awlUsed (some t) < 64)

/-- An operation joins the Awl path, behind those that are there, or waits in the front end for room (R255). -/
def State.awlJoin (s : State) (id : Nat) : State :=
  match s.cmd? id with
  | none => s
  | some c =>
    if s.awlRoom c.tenant then
      let s' := s.setCmd { c with phase := .awl, activeOrder := s.nextOrder + 1 }
      { s' with nextOrder := s.nextOrder + 2 }
    else s.setCmd { c with phase := .deferred }

/-- An operation joins the Awl path, waits in the front end for room, or waits for its launch (R65, R255). -/
def State.awlQueue (s : State) (id : Nat) : State :=
  match s.cmd? id with
  | none => s
  | some c =>
    if c.timed && !c.started && decide (s.cad.time ≤ c.launch) then s.setCmd { c with phase := .timed }
    else
      let s := if c.timed && decide (c.launch < s.cad.time) && !c.started then s.launchLate id else s
      s.awlJoin id

/-- SHORT_WRITE (0x18) and SHORT_COPY (0x19) at decode. -/
def State.decodeAwl (s : State) (id : Nat) : State :=
  match s.cmd? id with
  | none => s
  | some c =>
    let p := c.pkt
    let t := c.tenant
    let m := s.awlMove t c.op p
    let n := m.elems
    match ((s.sigAfterCheck t c.op p).or (awlFormat m.src (awlWinByte c.op false))).or (awlFormat m.dst (awlWinByte c.op true)) with
    | some r => s.reject id r
    | none =>
      match ((s.awlSpace t m.src).or (s.awlSpace t m.dst)).or ((s.awlHandle t m.src).or (s.awlHandle t m.dst)) with
      | some st => s.fail id st
      | none =>
        let (r, s) := s.awlPerm t m.src n false
        let (w, s) := if r.isNone then s.awlPerm t m.dst n true else (r, s)
        match ((r.or w).or ((s.awlBounds t m.src n).or (s.awlBounds t m.dst n))).or (s.awlAlias m n) with
        | some st => s.fail id st
        | none =>
          let c := { c with moves := [m], engine := 32, maps := s.mapsFor t [m.src.base, m.dst.base],
                            fetched := if c.op = 0x18 then cellsAt 0 (slice p 48 n) else [] }
          match s.timedCheck c with
          | some st => s.fail id st
          | none =>
            let s := s.setCmd c
            if c.ticked && c.node.isNone then
              match s.admitCmd t (if c.timed then some c.launch else none) [(.awl, s.costAwl)] 0 with
              | some (k, s) => (s.admitted id k).awlQueue id
              | none => s.fail id stREJ_FIT
            else s.awlQueue id

/-- DEFERRED_DISPATCH of an Awl operation. -/
def State.deferredAwl (s : State) (id : Nat) : State :=
  match s.cmd? id with
  | some c => if c.phase == .deferred && isAwlOp c.op then s.awlJoin id else s
  | none => s

/-! ### Service (R254 to R256) -/

/-- Insert a command by its order of arrival. -/
def insByArrival (c : Cmd) : List Cmd → List Cmd
  | [] => [c]
  | d :: t => if c.activeOrder < d.activeOrder then c :: d :: t else d :: insByArrival c t

/-- Started operations in service order: admitted TICKED first, otherwise in arrival order (R255). -/
def State.awlOrder (s : State) : List Cmd :=
  let l := (s.cmds.filter fun c => c.phase == .awl && c.started).foldl (fun l c => insByArrival c l) []
  (l.filter fun c => c.admTick.isSome) ++ l.filter fun c => c.admTick.isNone

/-- Read tags of the Awl path in use (R256). -/
def State.awlTags (s : State) : Nat := (s.cmds.filter fun c => isAwlOp c.op).foldl (fun a c => a + (s.vc0Open c.id).length) 0

/-- The source bytes of an operation are at hand. -/
def State.awlReady (s : State) (c : Cmd) (m : Move) : Bool :=
  !(s.srcRemote m) || (m.srcOffsets 0 m.elems).all fun a => (kvFind c.fetched a).isSome

/-- Ask for the remote source of an operation, within 64 tags. -/
def State.awlAsk (s : State) (c : Cmd) (m : Move) : State :=
  if !c.asked.isEmpty || decide (64 ≤ s.awlTags) then s
  else
    let off := daOff m.src.base
    let s := s.setCmd { c with asked := [(off, m.elems)] }
    s.vc0 (daChip m.src.base) { readReqMsg c.tenant c.id c.flitRank (c.admTick.getD 0) m.src off m.elems (s.lastRead c m) with lock := s.inSeq c }
      c.id off m.elems

/-- Perform an operation: read, then commit granule by granule, behind which the signal may ride (R74, R165). -/
def State.awlPerform (s : State) (c : Cmd) (m : Move) (fails : Bool) : State :=
  let offs := m.srcOffsets 0 m.elems
  match s.gatherSrc c m offs fails with
  | (.error st, s) => s.fail c.id st
  | (.ok src, s) =>
    let cells := (List.range m.elems).map fun k => (daOff m.dst.base + k, cellOf src (daOff m.src.base + k))
    match s.commitCells c m.dst cells (!(s.sigRides c m.dst)) with
    | none => s.fail c.id stFAULT_LINK
    | some s => s.dataSent c.id m

/-- AWL_OPERATION: the next operation whose source is at hand is performed; one that reads another chip asks first.
`fails` says that the outside refuses its read. -/
def State.awlOperation (s : State) (fails : Bool) : State :=
  match s.awlOrder.find? fun c => match c.cur with | some m => s.awlReady c m || c.asked.isEmpty | none => false with
  | none => s
  | some c =>
    match c.cur with
    | some m => if s.awlReady c m then s.awlPerform c m fails else s.awlAsk c m
    | none => s

end Sys2Proof.Machine
end

