-- ==== Sys2Proof/Machine/Graph.lean ====
section
/-! DEFINITION. Chapter 11: loading, launching, releasing and unloading graphs, node timeouts and partitions. Dispatch of
ready nodes is in Fast.lean. -/
namespace Sys2Proof.Machine

/-! ### Graphs of a tenant -/

def State.graph? (s : State) (t id : Nat) : Option Graph := s.graphs.find? fun g => g.tenant == t && g.id == id
def State.dropGraph (s : State) (t id : Nat) : State := { s with graphs := s.graphs.filter fun g => !(g.tenant == t && g.id == id) }
def State.modGraph (s : State) (t id : Nat) (f : Graph → Graph) : State :=
  { s with graphs := s.graphs.map fun (g : Graph) => if g.tenant == t && g.id == id then f g else g }

/-- Opcodes of Table 11.2. -/
def nodeOps : List Nat := [0x00, 0x10, 0x11, 0x12, 0x13, 0x14, 0x18, 0x19, 0x20, 0x25, 0x26, 0x29, 0x21, 0x22, 0x27, 0x41]

/-- Flags a node's packet may carry: those of its opcode and IRQ, without DEP, FENCE and LOCK (R313, Table 11.2). -/
def nodeFlagMask (op : Nat) : Nat := flagsOf op &&& (0xFFFF - 3)

/-- Masks of the reserved bits of a node entry below its packet (Table 11.1). -/
def nodeReserved (e : List (BitVec 8)) : Option Nat :=
  ((List.range 64).find? fun i =>
    let b := leAt e i 1
    if i = 8 then b / 64 != 0 else if i = 10 then bitsOf b 5 2 != 0 else if i = 11 || 32 ≤ i then b != 0 else false)

/-- A reserved header field of a packet, or LAUNCH without TIMED (R161 step 4): its byte. -/
def headerReserved (p : Packet) : Option Nat :=
  if leAt p 1 1 / 4 != 0 then some 1
  else if pFlags p / 512 != 0 then some 3
  else (((List.range 4).map (· + 12)).find? fun b => leAt p b 1 != 0).or
    (if !(flTIMED (pFlags p)) && pLaunch p != 0 then some 16 else none)

/-- The flags and fields format 2 withholds (R177): their byte. -/
def State.fmt2Flags (s : State) (t : Nat) (p : Packet) : Option Nat :=
  if s.get (F.TP_FMT_MAJOR t) = 2 then
    (if pFlags p &&& 0x1C != 0 then some 2 else if pLaunch p != 0 then some 16 else none) else none

/-- The first check of R314 step 6 that a node entry fails, the range checks of R186 among them: status and byte in the entry. -/
def State.nodeCheck (s : State) (t : Nat) (e : List (BitVec 8)) : Option (Nat × Nat) :=
  let n : Node := ⟨e, none, .idle, 0⟩
  let p := n.packet
  let op := pOp p
  let beyond := ((List.range 256).map (· + 64)).find? fun i => decide (64 + p.length ≤ i) && leAt e i 1 != 0
  let fmt (b : Nat) : Nat × Nat := (stREJ_FORMAT, b)
  ((nodeReserved e).or beyond).map fmt
  |>.or (if n.any && n.waitMask == 0 then some (fmt 8) else none)
  |>.or (if n.timeout = 0 then some (fmt 12) else if 60000000 < n.timeout then some (stREJ_BOUNDS, 12) else none)
  |>.or (if !(nodeOps.contains op) || (isNew3 op && s.get (F.TP_FMT_MAJOR t) == 2) then some (fmt 64) else none)
  |>.or (if !((lensOf op).contains (pLen p)) then some (fmt 65) else none)
  |>.or ((headerReserved p).map fun b => fmt (64 + b))
  |>.or ((s.fmt2Flags t p).map fun b => fmt (64 + b))
  |>.or (if pFlags p &&& (0xFFFF - nodeFlagMask op) != 0 then some (fmt 66) else none)
  |>.or (if pSeq p != 0 then some (fmt 68) else none)
  |>.or ((rangeCheck op p).map fun r => (r.1, 64 + r.2))
  |>.or (if op = 0x20 then ((List.range (leAt p 24 1)).findSome? fun k =>
          (s.sigCheck t (sigAt p (32 + 8 * k))).map fun r => (r.1, 64 + 32 + 8 * k + r.2))
        else (s.sigAfterCheck t op p).map fun r => (r.1, 64 + r.2))
  |>.or (if flTIMED (pFlags p) && decide (60000000000 ≤ pLaunch p) then some (stREJ_BOUNDS, 80) else none)

/-! ### GRAPH_LOAD and GRAPH_UNLOAD (R216, R218, R314, R315) -/

def State.schBase (s : State) (t : Nat) : Nat := 256 * s.get (F.SCH_PART_BASE t)
def State.schCount (s : State) (t : Nat) : Nat := 256 * s.get (F.SCH_PART_COUNT t)

/-- Checks 1 to 3 of R314. -/
def State.loadCheck (s : State) (t : Nat) (p : Packet) : Option Nat :=
  let id := leAt p 24 1
  let rep := bit (leAt p 25 1) 0
  let first := leAt p 28 4
  let n := leAt p 32 2
  if s.schCount t = 0 then some stREJ_QUOTA
  else if s.schCount t < first + n || s.cqSize t < n + 1
      || s.graphs.any (fun g => g.tenant == t && !(rep && g.id == id) && rangesMeet first n (g.first) g.nodes.length)
    then some stREJ_BOUNDS
  else
    match s.graph? t id with
    | some g => if !rep then some stREJ_HANDLE else if g.launch.isSome then some stREJ_BUSY else none
    | none => none

/-- Check 4 of R314: the table's area; a missing right is REJ_HANDLE here. -/
def State.loadArea (s : State) (t : Nat) (p : Packet) : Option Nat × State :=
  let da := leAt p 36 8
  let n := 320 * leAt p 32 2
  if daSpace da = 4 then (if s.extInside t 4 (daOff da) n && s.extGrants t 4 (daOff da) n false then none else some stREJ_HANDLE, s)
  else
    match s.areaCheck t da (leAt p 44 2) (leAt p 46 2) n false with
    | (some st, s) => (some (if st = stREJ_BOUNDS then stREJ_BOUNDS else stREJ_HANDLE), s)
    | r => r

/-- A failed entry is noted in TP_GERR (R314). -/
def State.gerr (s : State) (t i b : Nat) : State :=
  ((s.set (F.TP_GERR_NODE t) i).set (F.TP_GERR_OFFSET t) b).set (F.TP_GERR_VALID t) 1

/-- CF accepts a GRAPH_LOAD; `fails` says that the host does not serve the table. -/
def State.graphLoad (s : State) (id : Nat) (fails : Bool) : State :=
  match s.cmd? id with
  | none => s
  | some c =>
    let t := c.tenant
    let p := c.pkt
    match s.loadCheck t p with
    | some st => s.fail id st
    | none =>
      match s.loadArea t p with
      | (some st, s) => s.fail id st
      | (none, s) =>
        let n := leAt p 32 2
        match s.areaRead t (pSeq p) (leAt p 36 8) (320 * n) fails with
        | (.error st, s) => s.fail id st
        | (.ok l, s) =>
          let es := (List.range n).map fun i => slice l (320 * i) 320
          match (List.range n).findSome? fun i => (s.nodeCheck t (es.getD i [])).map fun r => (i, r) with
          | some (i, st, b) => (s.gerr t i b).fail id st
          | none =>
            let g := leAt p 24 1
            let s := s.dropGraph t g
            let nodes := es.map fun e => ({ entry := e, aff := (⟨e, none, .idle, 0⟩ : Node).affHint, st := .idle, readyAt := 0 } : Node)
            let s := { s with graphs := s.graphs ++ [(⟨t, g, leAt p 28 4, nodes, 0, none⟩ : Graph)] }
            s.fail id stDONE

/-- CF accepts a GRAPH_UNLOAD (R218). -/
def State.graphUnload (s : State) (id : Nat) : State :=
  match s.cmd? id with
  | none => s
  | some c =>
    match s.graph? c.tenant (leAt c.pkt 24 1) with
    | none => s.fail id stREJ_HANDLE
    | some g => if g.launch.isSome then s.fail id stREJ_BUSY else (s.dropGraph c.tenant g.id).fail id stDONE

/-! ### GRAPH_LAUNCH (R217, R320, R321) -/

/-- The moves of a stage table as it stands, for the costs of a launch. -/
def State.chainPeek (s : State) (t : Nat) (p : Packet) : List Move :=
  let n := leAt p 24 1
  match (s.areaRead t (pSeq p) (leAt p 32 8) (256 * n) false).1 with
  | .error _ => []
  | .ok l =>
    ((recordsOf l n).foldl (fun (acc : List Move × Option Desc) r =>
      match s.stageMove t r acc.2 with
      | some m =>
        let m := { m with pages := if m.listed = 0 then [] else List.replicate (leAt r 64 2) 0 }
        (acc.1 ++ [m], some m.dst)
      | none => acc) ([], none)).1

/-- The moves whose costs a TICKED node is charged at its launch: its descriptors and its stage table as they stand then; a
handle that is not valid then charges nothing (DESIGN CHOICE, log entry 20). -/
def State.launchMoves (s : State) (t q : Nat) (n : Node) : List Move :=
  let p := n.packet
  let op := pOp p
  let ms := if op = 0x14 then s.chainPeek t p
    else
      match s.handle t (leAt p 24 4), s.handle t (leAt p 28 4) with
      | some a, some b =>
        let m := s.moveOf t op p a b
        [{ m with pages := if m.listed = 0 then [] else List.replicate (leAt p 64 2) 0 }]
      | _, _ => []
  let mask := s.get (F.ENG_QMASK t q)
  let es := s.stageEngines mask (s.pickCharge mask n.aff) ms.length
  (List.range ms.length).filterMap fun i => ms[i]?.map fun (m : Move) => { m with engine := es.getD i 0, sig := m.signature }

/-- Charge one TICKED node of a launch into a tick, with its plans pinned where `pins` asks for it (R56, R57, R145). -/
def State.admitNode (s : State) (t q tick base : Nat) (pins : Bool) (n : Node) : Option State :=
  let p := n.packet
  let timed := if flTIMED (pFlags p) then some (base + pLaunch p) else none
  let ms := if isEngineOp (pOp p) then s.launchMoves t q n else []
  let costs := if isAwlOp (pOp p) then [(Resource.awl, s.costAwl)] else s.moveCosts t ms
  let cf := s.planCost t ms
  let inside := match timed with | some l => s.tickAt l == some tick | none => true
  let seg := match timed with | some l => s.segOf tick l | none => 0
  if inside && s.fits t tick seg timed costs cf then
    let s := s.charge t tick seg costs cf
    if pins then s.planPin t tick (plansNeeded ms) else some s
  else none

/-- Every TICKED node of a graph into one tick. -/
def State.admitAll (s : State) (t q tick base : Nat) (pins : Bool) (ns : List Node) : Option State :=
  ns.foldl (fun acc n => match acc with | some s => s.admitNode t q tick base pins n | none => none) (some s)

/-- The TICKED nodes of a graph. -/
def Graph.tickedNodes (g : Graph) : List Node := g.nodes.filter fun n => flTICKED (pFlags n.packet)
def Graph.timedNodes (g : Graph) : Nat := g.nodes.countP fun n => flTIMED (pFlags n.packet)

/-- Step 3 of R321: admitted tick and base, or none for REJ_FIT. Without TICKED nodes nothing is admitted. -/
def State.admitGraph (s : State) (c : Cmd) (g : Graph) (pins : Bool) : Option (Option Nat × Nat × State) :=
  let ns := g.tickedNodes
  if ns.isEmpty then some (none, c.launch, s)
  else if s.cad.joining || !(s.on F.CAD_CTRL_EN) then none
  else
    let now := s.tick
    let hz := s.get F.CAD_FIT_HORIZON
    if c.timed then
      let n := s.tickAt c.launch
      if now < n && n ≤ now + hz then (s.admitAll c.tenant c.queue n c.launch pins ns).map fun s => (some n, c.launch, s) else none
    else
      ((List.range hz).map (now + 1 + ·)).findSome? fun n =>
        (s.admitAll c.tenant c.queue n (s.edgeOf n) pins ns).map fun s => (some n, s.edgeOf n, s)

/-- Step 4 and 5 of R321: INIT_MASK is set, the nodes are armed in slot order, and the launch record is written. -/
def State.releaseGraph (s : State) (t id : Nat) : State :=
  match s.graph? t id with
  | none => s
  | some g =>
    match g.launch with
    | none => s
    | some l =>
      if l.released.isSome then s
      else
        let base := if l.base = 0 then s.cad.time else l.base
        let s := s.modGraph t id fun (g : Graph) => { g with launch := some { l with base := base, released := some s.cad.time } }
        let s := if l.initMask = 0 then s else s.flagUpdate t l.initWord l.initMask 0
        let s := (List.range g.nodes.length).foldl (fun s i =>
          let k := g.first + i
          let s := s.modNode t k fun (n : Node) => { n with st := .armed }
          match s.nodeAt t k with
          | some n => s.evalFlags t n.waitWord
          | none => s) s
        s.fail l.cmd stDONE

/-- A GRAPH_LAUNCH takes effect (R321). While CQ slots lack it waits; while the tenant has held nodes it is held. A refusal for want
of a pinnable entry sets PINFULL (R145). -/
def State.launchGraph (s : State) (id : Nat) : State :=
  match s.cmd? id with
  | none => s
  | some c =>
    let t := c.tenant
    match s.graph? t (leAt c.pkt 24 1) with
    | none => s.fail id stREJ_HANDLE
    | some g =>
      if g.launch.isSome then s.fail id stREJ_BUSY
      else if s.cqFree t < g.nodes.length then s
      else if 4096 < s.timedUsed + g.timedNodes then s.fail id stREJ_BUSY
      else if s.tenantHeld t then s.setCmd { c with phase := .held }
      else
        match s.admitGraph c g true with
        | none => (if (s.admitGraph c g false).isSome then s.stick F.PRI_PINFULL_PINFULL else s).fail id stREJ_FIT
        | some (adm, base, s) =>
          let wait := c.timed && decide (s.cad.time < c.launch)
          let late := c.timed && !wait && decide (c.launch < s.cad.time)
          let fin := match adm with | some n => s.edgeOf (n + 1) | none => 0
          let s := s.modGraph t g.id fun (g : Graph) =>
            { g with launch := some ⟨c.queue, id, base, adm, fin, leAt c.pkt 28 1, leAt c.pkt 32 8, none⟩,
                     nodes := g.nodes.map fun (n : Node) => { n with st := .idle } }
          let s := s.setCmd { c with phase := .running, admTick := if c.node.isNone then adm else c.admTick,
                                      admEnd := if c.node.isNone then fin else c.admEnd, cursor := 1 }
          let s := if late then s.launchLate id else s
          if wait then s else s.releaseGraph t g.id

/-- GRAPH_RELEASE: rack time reaches the LAUNCH of a graph of a tenant (R321). -/
def State.graphRelease (s : State) (t id : Nat) : State :=
  match s.graph? t id with
  | some g =>
    match g.launch with
    | some l => if l.released.isNone then (s.advance l.base).releaseGraph t id else s
    | none => s
  | none => s

def execGraphRelease (t : Tenant) (graph : BitVec 8) (s : State) : Result := .next (s.graphRelease t.val graph.toNat)

/-! ### Timeouts and partitions (R325, R311) -/

/-- The command that stands for a node without one: for its timeout record. -/
def State.nodeCmd (s : State) (g : Graph) (l : Launch) (i : Nat) (n : Node) : Cmd :=
  { s.freshCmd g.tenant l.queue n.packet (some ⟨g.id, g.launchNo, i, g.first + i⟩) with
    admTick := if flTICKED (pFlags n.packet) then l.admTick else none, admEnd := l.admEnd }

/-- Node `i` of a graph is not ready within its TIMEOUT: FAIL_MASK and a timeout record (R325). -/
def State.nodeTimeout (s : State) (t id i : Nat) : State :=
  match s.graph? t id with
  | none => s
  | some g =>
    match g.launch, g.nodes[i]? with
    | some l, some n =>
      match l.released with
      | some r =>
        if n.st == .armed then
          let s := s.advance (r + 1000 * n.timeout)
          let c := { s.nodeCmd g l i n with unit := 4, status := stABORT_TIMEOUT, warn := 2 ^ wBYTES_LB }
          let s := s.modNode t (g.first + i) fun (n : Node) => { n with st := .dispatched }
          let s := { s with cmds := s.cmds ++ [c], nextId := s.nextId + 1 }
          s.endNode c (g.first + i)
        else s
      | none => s
    | _, _ => s

/-- NODE_TIMEOUT of node `i` of a tenant's graph (R325). -/
def execNodeTimeout (t : Tenant) (graph : BitVec 8) (i : Nat) (s : State) : Result :=
  .next (s.nodeTimeout t.val graph.toNat i)

/-- A write of SCH_PART_t (R311). -/
def State.schPartWrite (s : State) (t base count : Nat) : State :=
  let clash := (List.range 16).any fun u =>
    u != t && rangesMeet base count (s.get (F.SCH_PART_BASE u)) (s.get (F.SCH_PART_COUNT u))
  if clash || decide (256 < base + count) || s.graphs.any (fun g => g.tenant == t) then s.stick F.SCH_CFG_CFG
  else (s.set (F.SCH_PART_BASE t) base).set (F.SCH_PART_COUNT t) count

/-- SCH_PART_WRITE: T0 writes the word SCH_PART_t (R311). -/
def execSchPartWrite (t : Tenant) (w : Word) (s : State) : Result :=
  .next (if s.blockOpen then s.schPartWrite t.val (bitsOf w.toNat 0 8) (bitsOf w.toNat 16 9) else s)

/-- EVF_SET_WRITE: a tenant writes half `h` of TP_EVF_SET_w (R316). -/
def State.evfSet (s : State) (t w h v : Nat) : State := s.flagUpdate t w (v * 2 ^ (32 * h)) 0

def execEvfSetWrite (t : Tenant) (w : Fin 16) (h : Fin 2) (v : Word) (s : State) : Result :=
  .next (if s.pageOpen t.val then s.evfSet t.val w.val h.val v.toNat else s)

/-- EVF_CLR_WRITE: a tenant writes half `h` of TP_EVF_CLR_w (R316). -/
def State.evfClr (s : State) (t w h v : Nat) : State := s.flagUpdate t w 0 (v * 2 ^ (32 * h))

/-- A 64-bit write of TP_EVF_SET_w, or of TP_EVF_CLR_w, is two 32-bit writes in ascending address order (R331). -/
def State.evfSet64 (s : State) (t w v : Nat) : State := (s.evfSet t w 0 (v % 2 ^ 32)).evfSet t w 1 (v / 2 ^ 32 % 2 ^ 32)
def State.evfClr64 (s : State) (t w v : Nat) : State := (s.evfClr t w 0 (v % 2 ^ 32)).evfClr t w 1 (v / 2 ^ 32 % 2 ^ 32)

def execEvfClrWrite (t : Tenant) (w : Fin 16) (h : Fin 2) (v : Word) (s : State) : Result :=
  .next (if s.pageOpen t.val then s.evfClr t.val w.val h.val v.toNat else s)

end Sys2Proof.Machine
end

