-- ==== Sys2Proof/Machine/Loupe.lean ====
section
/-! DEFINITION. The Loupe's commands (chapter 15): SAFE_CONFIG and SAFE_HEARTBEAT, judging summaries, Mirror pairs, age watchers,
alarms, tripwires, the LP port, and faults of the Loupe itself. -/
namespace Sys2Proof.Machine

/-- The Loupe has raised an alarm pattern: the device wakes where LOUPE is enabled (R473). -/
def State.alarmWake (s : State) : State :=
  if s.lpe.raised then ({ s with lpe := { s.lpe with raised := false } } : State).wake 9 else s

/-! ### Age watchers (R422 to R424) -/

/-- A watcher is refreshed now; an expired one recovers, which releases its pattern. -/
def State.refresh (s : State) (w : Nat) : State :=
  let e := s.lpeWatch w
  let s := { s with lpe := { s.lpe with refreshed := kvIns w (s.cad.time, s.tick) s.lpe.refreshed } }
  if s.lpe.expired.contains w then
    let s := { s with lpe := { s.lpe with expired := s.lpe.expired.filter (· != w) } }
    let p := waAction e % 16
    let s := if 2 ≤ p && decide (p ≤ 14) && !(s.patWatched p) then s.patHold p else s
    (s.event (s.eventRec 3 (waAction e) w (rlTen e) 0 (rlChan e) 0 0)).lpeUpdate
  else s

/-- The deadline of a watcher: LIMIT µs after its refresh, or in ticks mode the edge of tick n + LIMIT + 1, which exists only
while the cadence runs (R422). -/
def State.watchDeadline (s : State) (w : Nat) : Option Nat :=
  let e := s.lpeWatch w
  match kvFind s.lpe.refreshed w with
  | none => none
  | some (t, n) =>
    if waTicks e then (if s.on F.CAD_CTRL_EN then some (s.edgeOf (n + waLimit e + 1)) else none)
    else some (t + 1000 * waLimit e)

/-- A watcher passes its deadline while the Loupe is ARMED. -/
def State.watchExpire (s : State) (w : Nat) : State :=
  let e := s.lpeWatch w
  match s.watchDeadline w with
  | none => s
  | some d =>
    if rlValid e && s.on F.LPE_STATUS_ARMED && !(s.lpe.expired.contains w) then
      let s := s.advance d
      let s := { s with lpe := { s.lpe with expired := s.lpe.expired ++ [w] } }
      let s := (s.raise (waAction e) (some w)).stick F.LPE_AGE_AGE
      (s.event (s.eventRec 2 (waAction e) w (rlTen e) 0 (rlChan e) 0 0)).lpeUpdate
    else s

/-- WATCHER_EXPIRY of watcher `w` (R422). -/
def execWatcherExpiry (w : Fin 256) (s : State) : Result := .next ((s.watchExpire w.val).alarmWake)

/-- The status with which SAFE_HEARTBEAT of watcher `w` fails for a tenant (R225, R424). -/
def State.heartbeatCheck (s : State) (t w : Nat) : Option Nat :=
  if 256 ≤ w then some stREJ_BOUNDS
  else if !(rlValid (s.lpeWatch w)) then some stREJ_HANDLE
  else if rlTen (s.lpeWatch w) ≠ t then some stREJ_PERM else none

/-- SAFE_HEARTBEAT refreshes its watcher, except during a Loupe restart (R424). -/
def State.heartbeat (s : State) (w : Nat) : State := if s.lpe.down.isSome || s.lpe.unpowered then s else s.refresh w

/-! ### SAFE_CONFIG (R414) -/

/-- A rule entry carries no reserved field or encoding. -/
def ruleEntryOk (e : List (BitVec 8)) : Bool :=
  let f := bitsOf (leAt e 3 1) 0 4
  let op := bitsOf (leAt e 3 1) 4 2
  let lo := leAt e 8 8
  let hi := leAt e 16 8
  bitsOf (leAt e 0 2) 10 6 == 0 && bitsOf (leAt e 2 1) 4 3 == 0 && bitsOf (leAt e 3 1) 6 2 == 0 && bitsOf (leAt e 4 1) 5 3 == 0
    && leAt e 5 3 == 0 && leAt e 24 8 == 0 && decide (f ≤ 11) && decide (op ≤ 1) && leAt e 4 1 % 16 != 15
    && (!(rlValid e) || rlChan e != 0)
    && (if 7 ≤ f ∧ f ≤ 10 then !(f64Nan lo) && (op == 1 || (!(f64Nan hi) && decide (f64Key lo ≤ f64Key hi)))
        else op == 1 || decide (lo ≤ hi))

/-- A watcher entry carries no reserved field or encoding. -/
def watchEntryOk (e : List (BitVec 8)) : Bool :=
  bitsOf (leAt e 0 2) 10 6 == 0 && bitsOf (leAt e 2 1) 5 2 == 0 && bitsOf (leAt e 3 1) 5 3 == 0 && leAt e 8 8 == 0
    && leAt e 3 1 % 16 != 15
    && (!(rlValid e) || (decide (1 ≤ waLimit e) && decide (waLimit e ≤ (if waTicks e then 6000 else 60000000))))

/-- A pair entry carries no reserved field or encoding. -/
def pairEntryOk (e : List (BitVec 8)) : Bool :=
  bitsOf (leAt e 0 2) 10 6 == 0 && bitsOf (leAt e 2 2) 10 6 == 0 && bitsOf (leAt e 5 1) 2 5 == 0 && bitsOf (leAt e 6 1) 5 3 == 0
    && leAt e 7 1 == 0 && leAt e 12 4 == 0 && leAt e 24 8 == 0 && leAt e 6 1 % 16 != 15
    && (!(paValid e) || (paChan e false != paChan e true && paChan e false != 0 && paChan e true != 0
        && decide (1 ≤ paWindow e) && decide (paWindow e ≤ 1000000)
        && (!(paTolerant e) || (!(f64Nan (paTol e)) && decide (0 ≤ f64Key (paTol e)) && decide (f64Key (paTol e) ≤ 0x3FF * 2 ^ 52)))))

/-- A pattern or zone entry carries no reserved field or encoding; pattern 0 toggles a line (R425). -/
def patEntryOk (i : Nat) (e : List (BitVec 8)) : Bool :=
  if i < 256 then
    let l := (List.range 4).map fun k => bitsOf (leAt e 0 1) (2 * k) 2
    l.all (· != 3) && leAt e 1 1 / 2 == 0 && leAt e 4 4 == 0 && (i != 0 || l.contains 2)
  else
    let p := leAt e 0 1
    p != 1 && decide (p ≤ 14) && leAt e 1 7 == 0

/-- Bytes of an entry of a kind, and whether entry `i` is well formed. -/
def entrySize (kind : Nat) : Nat := if kind = 0 ∨ kind = 2 then 32 else if kind = 1 then 16 else 8
def entryOk (kind i : Nat) (e : List (BitVec 8)) : Bool :=
  match kind with
  | 0 => ruleEntryOk e
  | 1 => watchEntryOk e
  | 2 => pairEntryOk e
  | _ => patEntryOk i e

/-- The indices of a kind, and whether a range lies in them. -/
def entrySpace (kind : Nat) : List Nat :=
  match kind with
  | 0 => List.range 1024
  | 1 => List.range 256
  | 2 => List.range 64
  | _ => List.range 15 ++ (List.range 256).map (256 + ·)
def entryRangeOk (kind first count : Nat) : Bool :=
  let top := if kind = 0 then 1024 else if kind = 1 then 256 else if kind = 2 then 64 else 512
  decide (first + count ≤ top) && (kind != 3 || count == 0 || decide (first + count ≤ 15) || decide (256 ≤ first))

/-- The stored entries of a kind, and the Loupe with others. -/
def Loupe.entries (l : Loupe) (kind : Nat) : List (Nat × List (BitVec 8)) :=
  match kind with
  | 0 => l.rules
  | 1 => l.watchers
  | 2 => l.pairs
  | _ => l.pats
def Loupe.setEntries (l : Loupe) (kind : Nat) (x : List (Nat × List (BitVec 8))) : Loupe :=
  match kind with
  | 0 => { l with rules := x }
  | 1 => { l with watchers := x }
  | 2 => { l with pairs := x }
  | _ => { l with pats := x }

/-- No channel is in two valid pairs of one tenant. -/
def pairsOnce (ps : List (Nat × List (BitVec 8))) : Bool :=
  let ks := (ps.filter fun (x : Nat × List (BitVec 8)) => paValid x.2).flatMap fun (x : Nat × List (BitVec 8)) =>
    [(paChan x.2 false, paTen x.2 false), (paChan x.2 true, paTen x.2 true)]
  ks.eraseDups.length == ks.length

/-- No more than 32 valid rules name one pair of TENANT and CHAN. -/
def rulesFew (rs : List (Nat × List (BitVec 8))) : Bool :=
  let v := (rs.filter fun (x : Nat × List (BitVec 8)) => rlValid x.2).map fun (x : Nat × List (BitVec 8)) => (rlChan x.2, rlTen x.2)
  v.all fun k => decide (v.count k ≤ 32)

/-- LPE_CFG_CRC: CRC-32C of the four index spaces in ascending order (R414). -/
def Loupe.cfgCrc (l : Loupe) : Nat :=
  crc32c ((List.range 4).flatMap fun kind => (entrySpace kind).flatMap fun i => slice ((kvFind (l.entries kind) i).getD []) 0 (entrySize kind))

/-- The end of a SAFE_CONFIG whose table bytes are in hand: its checks, then the entries apply as a whole. -/
def State.safeApply (s : State) (id kind first count : Nat) (b : List (BitVec 8)) : State :=
  let n := entrySize kind
  let es := (List.range count).map fun i => (first + i, slice b (n * i) n)
  let new := es.foldl (fun (l : List (Nat × List (BitVec 8))) x => kvIns x.1 x.2 l) (s.lpe.entries kind)
  if !(es.all fun x => entryOk kind x.1 x.2) || (kind == 2 && !(pairsOnce new)) then s.fail id stREJ_FORMAT
  else if kind == 0 && !(rulesFew new) then s.fail id stREJ_QUOTA
  else
    let s := { s with lpe := s.lpe.setEntries kind new }
    let s := if kind = 1 then es.foldl (fun (s : State) x => s.refresh x.1) s else s
    let s := s.set F.LPE_CFG_CRC s.lpe.cfgCrc
    let s := { s with lpe := { s.lpe with cfCrc := some (s.get F.LPE_CFG_CRC) } }
    s.lpeUpdate.fail id stDONE

/-- CF accepts a SAFE_CONFIG; `fails` says that a host read of its table fails. A window fault is REJ_HANDLE (R414). Table 7.7
gives no status for a table that is refused or spoilt as it is read: FAULT_INTERNAL (DESIGN CHOICE, log entry 90). -/
def State.safeConfig (s : State) (id : Nat) (fails : Bool) : State :=
  match s.cmd? id with
  | none => s
  | some c =>
    let kind := leAt c.pkt 24 1
    let first := leAt c.pkt 26 2
    let count := leAt c.pkt 28 2
    let n := count * entrySize kind
    if !(entryRangeOk kind first count) then s.fail id stREJ_BOUNDS
    else if count = 0 then s.fail id stDONE
    else
      match s.areaCheck c.tenant (leAt c.pkt 32 8) (leAt c.pkt 40 2) (leAt c.pkt 42 2) n false with
      | (some _, s) => s.fail id stREJ_HANDLE
      | (none, s) =>
        match s.areaRead c.tenant c.seqNo (leAt c.pkt 32 8) n fails with
        | (.error _, s) => s.internalFail id
        | (.ok b, s) => s.safeApply id kind first count b

/-! ### Judging a summary (R415, R417 to R421) -/

/-- The rules, by number, that concern a summary. -/
def State.rulesFor (s : State) (r : List (BitVec 8)) : List (Nat × List (BitVec 8)) :=
  s.lpe.rules.filter fun (x : Nat × List (BitVec 8)) => rlValid x.2 && rlChan x.2 == smChan r && rlTen x.2 == smTen r

/-- The watchers that concern a summary. -/
def State.watchersFor (s : State) (r : List (BitVec 8)) : List Nat :=
  (s.lpe.watchers.filter fun (x : Nat × List (BitVec 8)) => rlValid x.2 && rlChan x.2 == smChan r && rlTen x.2 == smTen r).map (·.1)

/-- SUM of a summary as an exact value `v * 2 ^ e`: an I64 or an FP64 code. -/
def smSum (r : List (BitVec 8)) : Int × Int :=
  if bit (leAt r 11 1) 4 then (signed 64 (leAt r 72 8), 0)
  else
    let x := f64Parts (leAt r 72 8)
    (sgn x.1 x.2.1, x.2.2)

/-- SUM as FP64 (Table 15.4). -/
def smSum64 (r : List (BitVec 8)) : Nat :=
  if bit (leAt r 11 1) 4 then f64Of (decide (signed 64 (leAt r 72 8) < 0)) (signed 64 (leAt r 72 8)).natAbs 0 else leAt r 72 8

/-- A rule holds of a summary. -/
def ruleHolds (e r : List (BitVec 8)) : Bool :=
  let f := bitsOf (leAt e 3 1) 0 4
  let eq := bitsOf (leAt e 3 1) 4 2 == 1
  let lo := leAt e 8 8
  let hi := leAt e 16 8
  let nat := fun (v : Nat) => if eq then v == lo else decide (lo ≤ v) && decide (v ≤ hi)
  let fp := fun (v : Nat) => if eq then f64Key v == f64Key lo else decide (f64Key lo ≤ f64Key v) && decide (f64Key v ≤ f64Key hi)
  let nan := leAt r 40 4
  let inf := leAt r 44 4
  isGood (smStatus r) &&
  match f with
  | 0 => nat (leAt r 18 6)
  | 1 => nat (leAt r 36 4)
  | 2 => nat nan
  | 3 => nat inf
  | 4 => nat (nan + inf)
  | 5 => nat (leAt r 48 4)
  | 6 => nat (leAt r 52 4)
  | 7 => fp (leAt r 56 8)
  | 8 => fp (leAt r 64 8)
  | 9 => fp (smSum64 r)
  | 10 =>
    let d := leAt r 36 4 - nan - inf
    if d = 0 then false else fp (f64Quot (smSum r).1 (smSum r).2 d)
  | _ => nat (leAt r 32 4)

/-- Every rule that concerns a summary is judged; each that fails raises its action and writes its record (R418). The
answer is whether the summary passed them (R417). -/
def State.judge (s : State) (r : List (BitVec 8)) : Bool × State :=
  let fs := (s.rulesFor r).filter fun (x : Nat × List (BitVec 8)) => !(ruleHolds x.2 r)
  let s := fs.foldl (fun (s : State) (x : Nat × List (BitVec 8)) =>
    let s := (s.raise (rlAction x.2) none).stick F.LPE_FAIL_FAIL
    s.event (s.eventRec 1 (rlAction x.2) x.1 (smTen r) 0 (smChan r) (smSeq r) (smUtag r))) s
  (fs.isEmpty && isGood (smStatus r), s)

/-- |a − b| ≤ TOL × max(|a|, |b|, 1) of two exact values `v * 2 ^ e` (R421). -/
def tolOk (tol : Nat) (a b : Int × Int) : Bool :=
  let t := f64Parts tol
  let q := min (min a.2 b.2) 0
  let x := a.1 * (2 ^ (a.2 - q).toNat : Nat)
  let y := b.1 * (2 ^ (b.2 - q).toNat : Nat)
  let one := 2 ^ (0 - q).toNat
  let m := max (max x.natAbs y.natAbs) one
  -- all in units of 2 ^ q; TOL = t.2.1 * 2 ^ t.2.2 with a negative exponent, or at most 1
  if t.2.2 < 0 then decide ((x - y).natAbs * 2 ^ (0 - t.2.2).toNat ≤ t.2.1 * m)
  else decide ((x - y).natAbs ≤ t.2.1 * 2 ^ t.2.2.toNat * m)

/-- MIN or MAX under TOLERANT: an infinite one matches only its equal. -/
def tolF64 (tol a b : Nat) : Bool :=
  if f64Inf a || f64Inf b then a == b
  else
    let x := f64Parts a
    let y := f64Parts b
    tolOk tol (sgn x.1 x.2.1, x.2.2) (sgn y.1 y.2.1, y.2.2)

/-- The comparison of two paired summaries (R421): none when it passes, else the cause. -/
def pairCompare (e a b : List (BitVec 8)) : Option Nat :=
  let same := fun (i n : Nat) => leAt a i n == leAt b i n
  if paDiverse e && smEngine a == smEngine b then some 3
  else if paTolerant e then
    if same 18 6 && same 36 4 && same 40 4 && same 44 4 && tolF64 (paTol e) (leAt a 56 8) (leAt b 56 8)
        && tolF64 (paTol e) (leAt a 64 8) (leAt b 64 8) && tolOk (paTol e) (smSum a) (smSum b) then none else some 2
  else if isGood (smStatus a) && isGood (smStatus b) && same 18 6 && same 36 4 && same 32 4 && same 40 4 && same 44 4 && same 48 4
      && same 52 4 then none
  else some 2

/-- A summary that passed refreshes the watchers it concerns (R422). -/
def State.refreshAll (s : State) (r : List (BitVec 8)) : State := (s.watchersFor r).foldl (fun (s : State) w => s.refresh w) s

/-- A MIRROR summary on side `side` of pair `i`, whose own rules gave `ok`: it is compared with the oldest unpaired one of
the other side with its UTAG, or it waits; one whose partner was lost is missing at once, and a 17th of a side makes the side's
oldest missing (R420, R421). -/
def State.mirror (s : State) (id i : Nat) (side ok : Bool) (r : List (BitVec 8)) : State :=
  match s.lpe.unpaired.find? (fun (u : Unpaired) => u.pair == i && u.side != side && smUtag u.rec' == smUtag r) with
  | some u =>
    let s := { s with lpe := { s.lpe with unpaired := s.lpe.unpaired.erase u } }
    let cause := match pairCompare (s.lpePair i) (if side then u.rec' else r) (if side then r else u.rec') with
      | some c => some c
      | none => if ok && u.ok then none else some 4
    match cause with
    | none => (((s.refreshAll u.rec').refreshAll r).verdict u.cmd u.rec' true).verdict id r true
    | some c => (((s.pairFail i c r).verdict u.cmd u.rec' false).verdict id r false)
  | none =>
    let mine := s.lpe.unpaired.filter (fun (u : Unpaired) => u.pair == i && u.side == side)
    let me : Unpaired := { pair := i, side := side, cmd := id, rec' := r, ok := ok, at_ := s.cad.time }
    let s := { s with lpe := { s.lpe with unpaired := s.lpe.unpaired ++ [me] } }
    if s.lpe.lostMates.contains (i, !side, smUtag r) then
      ({ s with lpe := { s.lpe with lostMates := s.lpe.lostMates.erase (i, !side, smUtag r) } } : State).missing me
    else
      match mine with
      | u :: _ => if 16 ≤ mine.length then s.missing u else s
      | [] => s

/-- Judge one summary (R415, R417). -/
def State.evaluate (s : State) (id : Nat) (r : List (BitVec 8)) : State :=
  let p := s.pairOf (smChan r) (smTen r)
  let concerns := !(s.rulesFor r).isEmpty || !(s.watchersFor r).isEmpty || p.isSome
  if !concerns || smMirror r != p.isSome then
    let s := s.stick F.LPE_NOCHAN_NOCHAN
    (s.event (s.eventRec 9 0 0 (smTen r) 0 (smChan r) (smSeq r) (smUtag r))).verdict id r false
  else
    let j := s.judge r
    match p with
    | some (i, side) => j.2.mirror id i side j.1 r
    | none => (if j.1 then j.2.refreshAll r else j.2).verdict id r j.1

/-- The Loupe takes its oldest summary. While SAFE_READY is 0 it is not evaluated, and its gated command fails (R416,
R419). A Loupe that is out of service takes none. -/
def State.summaryNext (s : State) : State :=
  if s.lpe.down.isSome || s.lpe.unpowered then s
  else
    match s.lpe.inbox with
    | [] => s
    | (id, r) :: rest =>
      let s := { s with lpe := { s.lpe with inbox := rest } }
      if s.on F.LPE_STATUS_SAFE_READY then (s.evaluate id r).lpeUpdate else s.verdict id r false

/-- SUMMARY_EVALUATE (R417). -/
def execSummaryEvaluate (s : State) : Result := .next (s.summaryNext.alarmWake)

/-- An unpaired summary has waited WINDOW_US for its partner. -/
def State.mirrorExpire (s : State) (i : Nat) : State :=
  match s.lpe.unpaired.find? (fun (u : Unpaired) => u.pair == i) with
  | none => s
  | some u => (s.advance (u.at_ + 1000 * paWindow (s.lpePair i))).missing u

/-- MIRROR_WINDOW_EXPIRY of the oldest unpaired summary of pair `i` (R420). -/
def execMirrorWindowExpiry (i : Fin 64) (s : State) : Result := .next ((s.mirrorExpire i.val).alarmWake)

/-- The verdict for a gated command arrives: on a failure it completes with ABORT_SAFETY, on a pass its signal, flags and
record proceed (R419). -/
def State.verdictIn (s : State) (id : Nat) : State :=
  match s.lpe.verdicts.find? (fun (v : Nat × Bool) => v.1 == id) with
  | none => s
  | some v =>
    let s := { s with lpe := { s.lpe with verdicts := s.lpe.verdicts.erase v } }
    let s := s.modCmd id fun (c : Cmd) => { c with verdict := some v.2 }
    match s.cmd? id with
    | some c => if !v.2 && c.phase == .drained then s.fail id stABORT_SAFETY else s
    | none => s

/-- GATED_VERDICT of command `id` (R419). -/
def execGatedVerdict (id : Nat) (s : State) : Result := .next (s.verdictIn id)

/-! ### Alarms, the fault latch, SAFE_EN (R416, R426, R427) -/

/-- An alarm pattern that was active is active no more: an ALARM_CLEAR event. -/
def State.patEnded (s : State) (p : Nat) (was : Bool) : State :=
  if was && !(s.patActive p) then s.event (s.eventRec 6 p p 0 0 0 0 0) else s

/-- HOLD_MS of a pattern ends. -/
def State.holdExpire (s : State) (p : Nat) : State :=
  match kvFind s.lpe.holds p with
  | none => s
  | some t =>
    let s := s.advance t
    let was := s.patActive p
    let s := { s with lpe := { s.lpe with holds := kvDel s.lpe.holds p } }
    (s.patEnded p was).lpeUpdate

/-- PATTERN_HOLD_EXPIRY of pattern `p` (R426). -/
def execPatternHoldExpiry (p : Fin 15) (s : State) : Result := .next (s.holdExpire p.val)

/-- A write of LPE_ALARM_CLR: the patterns of its bits are no longer latched (R426). -/
def State.alarmClear (s : State) (v : Nat) : State :=
  ((List.range 13).foldl (fun (s : State) k =>
    let p := k + 2
    if bit v p && bit s.lpe.latched p then
      let was := s.patActive p
      ({ s with lpe := { s.lpe with latched := putBit s.lpe.latched p false } } : State).patEnded p was
    else s) s).lpeUpdate

/-- ALARM_CLEAR: T0 writes LPE_ALARM_CLR (R426). -/
def execAlarmClear (v : Word) (s : State) : Result := .next (s.alarmClear v.toNat)

/-- A write of LPE_FAULT_CLR, discarded while the watcher that set the latch is still expired (R427). -/
def State.faultClear (s : State) (v : Nat) : State :=
  if bit v 0 && !(s.lpe.latchBy.any fun w => s.lpe.expired.contains w) then
    ((({ s with lpe := { s.lpe with latchBy := none } } : State)).set F.LPE_STATUS_LATCH 0).lpeUpdate
  else s

/-- FAULT_CLEAR: T0 writes LPE_FAULT_CLR (R427). -/
def execFaultClear (v : Word) (s : State) : Result := .next (s.faultClear v.toNat)

/-- SAFE_ENABLE: T0 writes LPE_CTRL (R416). -/
def State.lpeCtrl (s : State) (v : Nat) : State := (s.putRw F.LPE_CTRL_SAFE_EN.addr v).lpeUpdate

def execSafeEnable (v : Word) (s : State) : Result := .next (s.lpeCtrl v.toNat)

/-! ### Tripwires and the LP port (R428, R429, R436) -/

/-- The Loupe takes its oldest tripwire record; one that comes while it is not ARMED raises nothing. During a Loupe restart
records wait (R433). -/
def State.tripNext (s : State) : State :=
  if s.lpe.down.isSome || s.lpe.unpowered then s
  else
    match s.lpe.trips with
    | [] => s
    | t :: rest =>
      let s := { s with lpe := { s.lpe with trips := rest } }
      if s.on F.LPE_STATUS_ARMED then
        let p := leAt (s.lpePat (256 + t.zone)) 0 1 % 16
        let s := s.raise p none
        (s.event (s.eventRec 5 p t.zone 0 0 0 t.camera t.zone)).lpeUpdate
      else s

/-- TRIPWIRE_RECORD (R428). -/
def execTripwireRecord (s : State) : Result := .next (s.tripNext.alarmWake)

/-- LP_STATUS_FRAME (R429). -/
def State.lpStatus (s : State) : State := s.lpFrame 1 []

def execLpStatusFrame (s : State) : Result := .next s.lpStatus

/-- LP_FRAME_RECEIVED: the LP port transmits only and discards every frame it receives (R429). -/
def execLpFrameReceived (_frame : List (BitVec 8)) (s : State) : Result := .next s

/-- The kept records go to the event ring, in order, while it takes them. -/
def State.elogFlush (s : State) : State :=
  s.lpe.kept.foldl (fun (x : Bool × State) r =>
    if x.1 then
      match x.2.elogWrite r with
      | (true, t) => (true, { t with lpe := { t.lpe with kept := t.lpe.kept.drop 1 } })
      | (false, t) => (false, t)
    else x) (true, s) |>.2

/-- EVENT_RING_FLUSH (R436). -/
def execEventRingFlush (s : State) : Result := .next (if s.elogOn then s.elogFlush else s)

/-! ### Faults of the Loupe (Table 15.11, R431 to R433) -/

/-- The hardware fault latch sets: it disarms the Loupe, is logged, and rewrites the last-words record (R432, R524, R525). -/
def State.hwFault (s : State) : State :=
  if s.lpe.hwLatch then s
  else
    let s := { s with lpe := { s.lpe with hwLatch := true } }
    ((s.fault 8 0x41 0xA0 0 0x60 0 0 0 []).lpeUpdate).lastWords 0x41 0xFF 0 0

/-- LOCKSTEP_MISMATCH (R432). -/
def execLockstepMismatch (s : State) : Result := .next s.hwFault

/-- LOUPE_CLOCK_FAULT (R432). -/
def State.clockFault (s : State) : State := s.hwFault

def execLoupeClockFault (s : State) : Result := .next s.clockFault

/-- A Loupe restart begins; `bad` says that the stack pointer was invalid, which the record's detail shows (R431, R433). -/
def State.loupeRestart (s : State) (bad : Bool) : State :=
  let s := { s with lpe := { s.lpe with down := some .restart } }
  let s := s.closeSession.trace 0x07 0xA0 0 0 (leBytes 1 5)
  (s.fault 8 0x40 0xA0 0 0x60 0 0 0 (leBytes 1 (b2n bad))).lpeUpdate

/-- LOUPE_EXCEPTION of a Loupe core: on its fault stack it sets the hardware fault latch, else the Loupe restarts; `spValid`
is the stack-pointer check (R431). -/
def State.loupeException (s : State) (onFaultStack spValid : Bool) : State :=
  if onFaultStack then s.hwFault else s.loupeRestart (!spValid)

def execLoupeException (onFaultStack spValid : Bool) (s : State) : Result := .next (s.loupeException onFaultStack spValid)

/-- LF_WATCHDOG_EXPIRY (R431). -/
def State.lfWatchdog (s : State) : State := s.loupeRestart false

def execLfWatchdogExpiry (s : State) : Result := .next s.lfWatchdog

/-- LOUPE_SRAM_UE (R431). -/
def State.loupeUe (s : State) : State := s.loupeRestart false

def execLoupeSramUe (s : State) : Result := .next s.loupeUe

/-- LF runs again (R433): after a Loupe restart its configuration check continues or disarms the Loupe, every watcher counts
as refreshed, and the fault latch and SELF set; after an LPE reset or a boot LF just starts. -/
def State.loupeBack (s : State) (ok : Bool) : State :=
  if s.lpe.unpowered then s
  else
    let refreshed := (s.lpe.watchers.filter fun (x : Nat × List (BitVec 8)) => rlValid x.2).map
      fun (x : Nat × List (BitVec 8)) => (x.1, s.cad.time, s.tick)
    match s.lpe.down with
    | none => s
    | some .start => ({ s with lpe := { s.lpe with down := none, refreshed := refreshed } } : State).lpeUpdate
    | some .restart =>
      let s := { s with lpe := { s.lpe with down := none, latchBy := none } }
      let s := if ok then
          (s.lpe.watchers.filter fun (x : Nat × List (BitVec 8)) => rlValid x.2).foldl (fun (s : State) x => s.refresh x.1) s
        else { s with lpe := { s.lpe with cfCrc := none } }
      ((s.set F.LPE_STATUS_LATCH 1).stick F.LPE_SELF_SELF).lpeUpdate

/-- LOUPE_RESTART_COMPLETE; `ok` says that the configuration in Loupe SRAM matches LPE_CFG_CRC (R433). -/
def execLoupeRestartComplete (ok : Bool) (s : State) : Result := .next (s.loupeBack ok)

/-- A write of LPE_RESET (R432, R439): the key clears both latches, disarms the Loupe and restarts LF; its configuration
stays, alarm states, queues and kept records go, and a gated command whose summary goes has failed (R419). -/
def State.lpeReset (s : State) (v : Nat) : State :=
  if v = 0x4C525354 then
    let lost := (s.lpe.inbox.filter fun (x : Nat × List (BitVec 8)) => smGate x.2).map (·.1)
      ++ (s.lpe.unpaired.filter fun (u : Unpaired) => smGate u.rec').map (·.cmd)
    let s := { s with lpe := { s.lpe with
      inbox := [], trips := [], unpaired := [], lostMates := [], raised := false, verdicts := s.lpe.verdicts ++ lost.map (fun i => (i, false)), expired := [], holds := [], latched := 0, latchBy := none
      hwLatch := false, down := some .start, kept := [] } }
    ((s.closeSession.set F.LPE_STATUS_LATCH 0).set F.LPE_STATUS_ARMED 0).lpeUpdate
  else s.stick F.LPE_CFG_CFG

/-- LPE_RESET: T0 writes LPE_RESET (R432). -/
def execLpeReset (v : Word) (s : State) : Result := .next (s.lpeReset v.toNat)

end Sys2Proof.Machine
end

