-- ==== Sys2Proof/Machine/Fast.lean ====
section
/-! DEFINITION. Fast-path commands at decode and at their start (R164, R189, R191, R209 to R217), TIMED launches, deferred
dispatch, held flag sets (R326), and the dispatch of graph nodes (R323, R324). -/
namespace Sys2Proof.Machine

/-! ### Decode of the front end's own opcodes -/

/-- The checks of a front-end opcode: status, and the byte of a REJ_FORMAT (R188, R209 to R217, R225, R298). -/
def State.frontCheck (s : State) (c : Cmd) : Option (Nat × Nat) :=
  let p := c.pkt
  let t := c.tenant
  match c.op with
  | 0x20 => (List.range (leAt p 24 1)).findSome? fun k =>
      (s.sigCheck t (sigAt p (32 + 8 * k))).map fun r => (r.1, 32 + 8 * k + r.2)
  | 0x21 =>
    let cs := waitConds p
    ((List.range cs.length).findSome? fun k =>
      match cs[k]? with
      | some w => if 2 < w.cond then some (stREJ_FORMAT, 32 + 12 * k)
          else if w.consume && w.cond != 0 then some (stREJ_FORMAT, 33 + 12 * k) else none
      | none => none).or (if cs.all fun w => (s.poolCnt t w.index).isSome then none else some (stREJ_BOUNDS, 0))
  | 0x22 =>
    if s.chipAbsent (baChip p) then some (stREJ_BOUNDS, 0)
    else if s.isLocal (baChip p) && (s.poolBar t (baBarrier p)).isNone then some (stREJ_BOUNDS, 0) else none
  | 0x23 =>
    if s.chipAbsent (lkChip p) || (s.poolLock t (lkLock p)).isNone then some (stREJ_BOUNDS, 0) else none
  | 0x24 =>
    if s.chipAbsent (lkChip p) || (s.poolLock t (lkLock p)).isNone then some (stREJ_BOUNDS, 0)
    else
      -- the lock its sequence acquired is the one its begin command names (R212)
      match (s.queueSt t c.queue).openSeq with
      | some q =>
        match s.cmd? q, s.seq? q with
        | some b, _ => if b.op == 0x23 && lkLock b.pkt == lkLock p
              && (lkChip b.pkt == lkChip p || (s.isLocal (lkChip b.pkt) && s.isLocal (lkChip p))) then none else some (stREJ_FORMAT, 24)
        | none, some x => (match x.lock with
            | some (ch, l) => if l == lkLock p && (ch == lkChip p || (s.isLocal ch && s.isLocal (lkChip p))) then none
                else some (stREJ_FORMAT, 24)
            | none => if x.broken.isSome then none else some (stREJ_FORMAT, 24))
        | none, none => some (stREJ_FORMAT, 24)
      | none => some (stREJ_FORMAT, 2)
  | 0x25 | 0x26 => if leAt p 32 8 = 0 then some (stREJ_FORMAT, 32) else none
  | 0x41 => (s.heartbeatCheck t (leAt p 24 2)).map fun st => (st, 0)
  | _ => none

/-- A front-end command after its checks: it awaits its launch, or its start. -/
def State.decodeFront (s : State) (id : Nat) : State :=
  match s.cmd? id with
  | none => s
  | some c =>
    match s.frontCheck c with
    | some r => s.reject id r
    | none =>
      match s.timedCheck c with
      | some st => s.fail id st
      | none =>
        if c.timed && c.op != 0x29 then
          if s.cad.time ≤ c.launch then s.setCmd { c with phase := .timed } else s.launchLate id
        else s

/-! ### Doorbells (R155, R215) -/

/-- A write of a queue's TAIL: whether it was accepted (R155). A refused doorbell sends vector 1 (Table 6.7). -/
def State.ringBell (s : State) (t q new : Nat) : Bool × State :=
  let tail := s.get (F.TP_Q_TAIL t q)
  let used := (tail + 2 ^ 32 - s.get (F.TP_Q_HEAD t q)) % 2 ^ 32
  let d := (new + 2 ^ 32 - tail) % 2 ^ 32
  if s.on (F.TP_Q_CTRL_EN t q) && decide (d + used ≤ 2 ^ s.get (F.TP_Q_CFG_SIZE t q)) then (true, s.set (F.TP_Q_TAIL t q) new)
  else (false, (s.stick (F.TP_QOVR_QOVR t)).msix t 1)

/-! ### Starts (R189) -/

/-- A SIGNAL takes effect: its specs in order; it ends at once, or when every remote spec is acknowledged (R209, R293). -/
def State.runSignal (s : State) (c : Cmd) : State :=
  let n := leAt c.pkt 24 1
  let gs := (List.range n).map fun k => sigAt c.pkt (32 + 8 * k)
  let s := s.setCmd { c with phase := .running }
  let s := (List.range n).foldl (fun s k =>
    match gs[k]? with
    | some g =>
      -- CMD_LAST and ACK_REQ on the last message to each chip
      let more := (gs.drop (k + 1)).any fun h => h.op != 0 && h.chip == g.chip
      s.sigIssue c g (!more)
    | none => s) s
  if (s.vc1Open c.id).isEmpty then s.fail c.id stDONE else s

/-- A started SIGNAL or FLAG_SET of a queue waits while the tenant has held nodes (Table 11.3). -/
def State.heldBack (s : State) (c : Cmd) : Bool :=
  c.node.isNone && s.tenantHeld c.tenant &&
    (c.op == 0x25 || (c.op == 0x20 && (List.range (leAt c.pkt 24 1)).any fun k =>
      let g := sigAt c.pkt (32 + 8 * k)
      g.op == 4 && s.isLocal g.chip))

/-- The effect of a started front-end command. -/
def State.runFront (s : State) (c : Cmd) : State :=
  let p := c.pkt
  match c.op with
  | 0x00 => s.fail c.id stDONE
  | 0x01 => s.fail c.id stDONE
  | 0x20 => s.runSignal c
  | 0x21 =>
    let c := { c with deadline := some (s.cad.time + 1000 * leAt p 28 4) }
    let s := s.setCmd c
    if s.waitHolds c then (s.endWait c).evalWaits c.tenant else s
  | 0x22 => s.startArrive c
  | 0x23 => s.tryAcquire c
  | 0x24 =>
    let s := s.releaseBoth c.tenant c.queue (lkLock p) (lkChip p) false
    s.fail c.id stDONE
  | 0x25 => (s.flagUpdate c.tenant (leAt p 24 1) (leAt p 32 8) 0).fail c.id stDONE
  | 0x26 => (s.flagUpdate c.tenant (leAt p 24 1) 0 (leAt p 32 8)).fail c.id stDONE
  | 0x27 =>
    let (ok, s) := s.ringBell c.tenant (leAt p 24 1) (leAt p 28 4)
    s.fail c.id (if ok then stDONE else stREJ_BOUNDS)
  | 0x29 => s.launchGraph c.id
  | 0x41 => (s.heartbeat (leAt p 24 2)).fail c.id stDONE
  | _ => s

/-- A command whose start condition holds starts: a fence flushes first, then a front-end command takes effect, and an engine
or Awl command may be served. `fails` says that the outside refuses the flushing read (R164, R189, R191); a command that has no
FAULT_LINK then does not start (R226; log entry 87). -/
def State.startNow (s : State) (id : Nat) (fails : Bool) : State :=
  match s.cmd? id with
  | none => s
  | some c =>
    let fence := isFence c.pkt
    let dirty := (s.queueSt c.tenant c.queue).dirty
    if fence && s.flushFails c.tenant dirty fails then (if faultsLink c.op then s.fail id stFAULT_LINK else s)
    else
      let s := if fence then s.flushed c.tenant c.queue else s
      let s := s.markStarted c
      match s.cmd? id with
      | none => s
      | some c =>
        if c.phase != .front then s
        else if s.heldBack c then s.setCmd { c with phase := .held }
        else s.runFront c

/-- A command may start now. -/
def State.mayStart (s : State) (c : Cmd) : Bool :=
  !c.started && (c.phase == .front || c.phase == .runList || c.phase == .awl) && !(isFirmware c.op) && s.startable c

/-- COMMAND_START of command `id`; a launch that waits for CQ room tries again (R189, R321). -/
def State.commandStart (s : State) (id : Nat) (fails : Bool) : State :=
  match s.cmd? id with
  | none => s
  | some c =>
    if s.mayStart c then s.startNow id fails
    else if c.started && c.op == 0x29 && c.phase == .front then s.launchGraph id
    else s

def execCommandStart (id : Nat) (fails : Bool) (s : State) : Result := .next (s.commandStart id fails)

/-- TIMED_LAUNCH of command `id`: rack time reaches its launch time (R63). -/
def State.timedLaunch (s : State) (id : Nat) : State :=
  match s.cmd? id with
  | none => s
  | some c =>
    if isEngineOp c.op then s.launchCmd id
    else if c.phase != .timed || s.launchHeld c then s
    else
      let s := s.advance c.launch
      -- the Awl path is the engine of its operations: an unticked one finds it idle, and any finds room (R64)
      let awl := !(isAwlOp c.op) || (s.awlRoom c.tenant && (c.admTick.isSome || s.awlUsed none == 0))
      let ok := decide (c.decodedAt + 1000 * s.get F.CAD_LAUNCH_LEAD_US ≤ c.launch) && s.startable c && awl
      let s := if ok then s else s.launchLate id
      let s := if isAwlOp c.op then s.awlJoin id else s.modCmd id fun (c : Cmd) => { c with phase := .front }
      match s.cmd? id with
      | some c => if s.mayStart c then s.startNow id false else s
      | none => s

def execTimedLaunch (id : Nat) (s : State) : Result := .next (s.timedLaunch id)

/-! ### The decode of a fast-path command -/

/-- A decoded fast-path command joins its locked sequence and starts if it may; under a sequence that has been ended, it completes
with that sequence's status (R213, R271). -/
def State.joinStart (s : State) (id : Nat) (fails : Bool) : State :=
  match s.cmd? id with
  | none => s
  | some c =>
    if c.phase == .ended then s
    else
      let s := if c.node.isNone then s.seqJoin id else s
      match s.cmd? id with
      | none => s
      | some c =>
        match s.seqBroken c with
        | some st => (s.fail id st).seqTrim c.seqId
        | none => if s.mayStart c then s.startNow id fails else s

/-- Decode a fast-path command whose body checks have passed. -/
def State.decodeFast (s : State) (id op : Nat) (fails : Bool) : State :=
  (if op = 0x14 then s.decodeChain id else if isEngineOp op then s.decodeMove id
    else if isAwlOp op then s.decodeAwl id else s.decodeFront id).joinStart id fails

/-- The read of a page list or a stage table completes, and the command goes on (R202, R203). -/
def State.metadataRead (s : State) (id : Nat) (fails : Bool) : State :=
  let s := s.metadataDone id fails
  match s.cmd? id with
  | some c => if s.mayStart c && c.phase == .runList then s.startNow id false else s
  | none => s

/-- METADATA_READ_COMPLETE of command `id`; `fails` says that the host does not serve the read. -/
def execMetadataReadComplete (id : Nat) (fails : Bool) (s : State) : Result := .next (s.metadataRead id fails)

/-- DEFERRED_DISPATCH of command `id` (R236, R255). -/
def State.deferredDispatch (s : State) (id : Nat) : State :=
  let s := (s.deferredMove id).deferredAwl id
  match s.cmd? id with
  | some c => if s.mayStart c && c.phase != .front then s.startNow id false else s
  | none => s

def execDeferredDispatch (id : Nat) (s : State) : Result := .next (s.deferredDispatch id)

/-! ### Held sets (R326, Table 11.3) -/

/-- One held command goes on: an ended node's update and record, a launch, or a flag set of a queue. -/
def State.applyHeld (s : State) (c : Cmd) : State :=
  match c.node with
  | some n =>
    if c.op = 0x29 && c.cursor = 0 && c.status = 0 && !(isAbortFault c.status) then (s.setCmd { c with phase := .front }).launchGraph c.id
    else (s.nodeFlags c.tenant n.slot c.status).writeRecord c
  | none =>
    let s := s.setCmd { c with phase := .front }
    if c.op = 0x29 then s.launchGraph c.id else s.runFront { c with phase := .front }

/-- Held commands of a tenant in arrival order, until a node is held again. -/
def State.applyAllHeld (s : State) (t : Nat) : State :=
  let l := s.cmds.filter fun c => c.tenant == t && c.phase == .held
  l.foldl (fun s c => if s.tenantHeld t then s else match s.cmd? c.id with | some c => s.applyHeld c | none => s) s

/-- HELD_SET_APPLY of a tenant (R326): held nodes enter free ready-list entries, and with none held, what waited applies. -/
def State.heldApply (s : State) (t : Nat) : State :=
  let s := s.refillReady t
  if s.tenantHeld t then s else s.applyAllHeld t

def execHeldSetApply (t : Tenant) (s : State) : Result := .next (s.heldApply t.val)

/-! ### Node dispatch (R323, R324) -/

/-- A node's graph, its launch, and its index. -/
def State.nodeHome (s : State) (t k : Nat) : Option (Graph × Launch × Nat × Node) :=
  match s.graphs.find? fun g => g.tenant == t && decide (g.first ≤ k) && decide (k < g.first + g.nodes.length) with
  | some g => match g.launch, g.nodes[k - g.first]? with
      | some l, some n => some (g, l, k - g.first, n)
      | _, _ => none
  | none => none

/-- A ready node can be taken by its executor (R323). -/
def State.dispatchable (s : State) (t k : Nat) : Bool :=
  match s.nodeHome t k with
  | some (_, l, _, n) =>
    let op := pOp n.packet
    if isEngineOp op then (s.pick (s.get (F.ENG_QMASK t l.queue)) n.aff).isSome
    else if isAwlOp op then decide (s.awlUsed (some t) < 64) else true
  | none => false

/-- Keys of R323: rank and tick, affinity miss, slot. -/
def State.nodeKey (s : State) (t k : Nat) : Nat × Nat × Nat :=
  match s.nodeHome t k with
  | some (_, l, _, n) =>
    let op := pOp n.packet
    let mask := s.get (F.ENG_QMASK t l.queue)
    let miss := isEngineOp op && (match n.aff with | some a => s.pick mask (some a) != some a | none => true)
    (if flTICKED (pFlags n.packet) then l.admTick.getD 0 else 2 ^ 48, b2n miss, k)
  | none => (2 ^ 49, 1, k)

/-- Lexicographic order of keys. -/
def keyLt (a b : Nat × Nat × Nat) : Bool :=
  if a.1 != b.1 then decide (a.1 < b.1) else if a.2.1 != b.2.1 then decide (a.2.1 < b.2.1) else decide (a.2.2 < b.2.2)

/-- Dispatchable ready nodes of a tenant. -/
def State.readyNodes (s : State) (t : Nat) : List Nat := (s.nodeSlots t (·.st == .ready)).filter fun k => s.dispatchable t k

/-- The tenant served next and its node. -/
def State.nextNode (s : State) : Option (Nat × Nat) :=
  ((List.range 16).map fun i => (s.lastGraphTenant + 1 + i) % 16).findSome? fun t =>
    match s.readyNodes t with
    | [] => none
    | k :: r => some (t, r.foldl (fun a b => if keyLt (s.nodeKey t b) (s.nodeKey t a) then b else a) k)

/-- Dispatch one node: its payload is decoded as a command of the launching queue (R313). -/
def State.dispatchNode (s : State) (t k : Nat) : State :=
  match s.nodeHome t k with
  | none => s
  | some (g, l, i, n) =>
    let id := s.nextId
    let c := { s.freshCmd t l.queue n.packet (some ⟨g.id, g.launchNo, i, k⟩) with
      launch := l.base + pLaunch n.packet, decodedAt := n.readyAt
      admTick := if flTICKED (pFlags n.packet) then l.admTick else none
      admEnd := l.admEnd }
    let s := s.modNode t k fun (n : Node) => { n with st := .dispatched }
    let s := ({ s with lastGraphTenant := t }).addCmd c
    let s := s.refillReady t
    match s.bodyCheck t c.op n.packet with
    | some r => s.reject id r
    | none => s.decodeFast id c.op false

/-- NODE_DISPATCH (R323). -/
def State.nodeDispatch (s : State) : State :=
  match s.nextNode with
  | some (t, k) => s.dispatchNode t k
  | none => s

def execNodeDispatch (s : State) : Result := .next s.nodeDispatch

end Sys2Proof.Machine
end

