-- ==== Sys2Proof/Machine/Arbiter.lean ====
section
/-! DEFINITION. Chapter 09: the decision of a grant lane (R263 to R270) and the bounds of locked sequences (R271, R272). -/
namespace Sys2Proof.Machine

/-- Weights of the system-port requesters, in the order of Table 9.1; scrub has a rank of its own. -/
def State.sysWeights (s : State) : List Nat :=
  [s.get F.ARB_SYSW_HP, s.get F.ARB_SYSW_AP, s.get F.ARB_SYSW_REIN, s.get F.ARB_SYSW_ETH, s.get F.ARB_SYSW_AWL,
   s.get F.ARB_SYSW_CF, s.get F.ARB_SYSW_TRC, 1]

/-- The request is a Rein inbound transfer: its `seq` names 16 × source chip + tenant of the lock mark it carries (R273). -/
def Arb.inbound : Arb → Nat → Bool
  | .sysPort, 2 => true
  | .hbm, 35 => true
  | _, _ => false

/-- The locked sequence whose mark a request carries, here or of another chip. -/
def State.seqOf (s : State) (a : Arb) (r : ArbReq) : Option LockSeq :=
  match r.seq with
  | none => none
  | some q => if a.inbound r.who then s.lockSeqs.find? fun x => x.tenant == q % 16 && x.queue == 8 + q / 16 % 64 else s.seq? q

/-- The locked sequence whose locked grant a grant of this request is: one that is open, or of another chip and not ended, at an
arbiter that grants exclusively, and not for a VC3 flit (R270, R273). -/
def State.locksFor (s : State) (a : Arb) (r : ArbReq) : Option Nat :=
  match s.seqOf a r with
  | some x => if a.exclusive && x.broken.isNone && (x.openedAt.isSome || decide (8 ≤ x.queue)) && !(a == .rein && r.vc == 3)
              then some x.id else none
  | none => none

/-- Sequences of other chips that the requests name are entered: each opens with its first locked beat here (R273). -/
def State.meetSeqs (s : State) (a : Arb) (reqs : List ArbReq) : State :=
  reqs.foldl (fun s r => match r.seq with
    | some q => if a.inbound r.who && (s.seqOf a r).isNone then
        { s with nextId := s.nextId + 1
                 lockSeqs := s.lockSeqs ++ [(⟨s.nextId, q % 16, 8 + q / 16 % 64, none, none, [], 0, 0xFF, none, false⟩ : LockSeq)] }
      else s
    | none => s) s

/-- Beats a sequence has been granted on a lane. -/
def State.seqBeats (s : State) (q lane : Nat) : Nat :=
  match s.seq? q with
  | some x => (kvFind x.lanes lane).getD 0
  | none => 0

/-- A request takes part at a lane: its requester is listed for the arbiter, the offset it names lies there, a fill is in flight, and
its sequence has not reached 64 beats on the lane (R262, R271). -/
def State.takesPart (s : State) (a : Arb) (lane : Nat) (r : ArbReq) : Bool :=
  a.lists lane r.who && offsetHere a lane r.off
    && (a != .hbm || r.who != 36 || s.mem.filling (r.off / 4096) (r.off / 256 % 16))
    && (match s.locksFor a r with | some q => decide (s.seqBeats q lane < 64) | none => true)

/-- A request of rank `n` takes an ordinary grant of rank `h` before its last beat (R269). -/
def preempts (n h : Nat) : Bool := (n ≤ 1 && 2 ≤ h) || (n == 2 && h == 3)

/-! ### Choosing among equals -/

/-- The oldest request. -/
def oldest (l : List ArbReq) : Option ArbReq :=
  l.foldl (fun b r => match b with | none => some r | some x => if r.since < x.since then some r else b) none

/-- The next requester after the one last served. -/
def nextRound (l : List ArbReq) (last : Nat) : Option ArbReq :=
  match roundRobin (l.map (·.who)) (last + 1) with
  | some w => l.find? (·.who == w)
  | none => none

/-- The tie order of an arbiter within a rank: a preempted holder first, then Table 9.1 (R263, R269). -/
def tieOf (a : Arb) (x : LaneSt) (l : List ArbReq) : Option ArbReq :=
  match l.find? fun r => x.preempted.any (·.1 == r.who) with
  | some r => some r
  | none =>
    match a with
    | .quadPort | .prism => nextRound l x.last
    | .sysPort =>
      let left := l.filter fun r => 0 < x.credit.getD r.who 0
      nextRound (if left.isEmpty then l else left) x.last
    | .rein =>
      let top := l.foldl (fun m r => max m r.vc) 0
      oldest (l.filter (·.vc == top))
    | _ => oldest l

/-- VC3 may take a beat of a Rein egress: at most 1 in 16 (R265). -/
def LaneSt.vc3Room (x : LaneSt) : Bool := x.credit.isEmpty || decide (15 ≤ x.credit.getD 0 0)

/-- The winner among the requests of an arbiter (R263). Within rank 1 an earlier tick comes first. -/
def State.winner (s : State) (a : Arb) (x : LaneSt) (l : List ArbReq) : Option ArbReq :=
  let best := l.foldl (fun m r => min m (s.rankAt a r).1) 4
  let l := l.filter fun r => (s.rankAt a r).1 == best
  if best = 1 then
    let t := l.foldl (fun m r => min m (s.rankAt a r).2) ((l.head?.map fun r => (s.rankAt a r).2).getD 0)
    tieOf a x (l.filter fun r => (s.rankAt a r).2 == t)
  else tieOf a x l

/-! ### Grants -/

/-- One beat for a requester: the books of weighted rounds and of VC3, and the beats of its locked sequence (R265, R271). -/
def State.beat (s : State) (lane : Nat) (a : Arb) (who vc : Nat) (lockedBy : Option Nat) : State :=
  let x := s.lane lane
  let credit := match a with
    | .sysPort => modNth (· - 1) who x.credit
    | .rein => if vc = 3 then [0] else [x.credit.getD 0 15 + 1]
    | _ => []
  let s := s.setLane lane { x with credit := credit }
  match lockedBy with
  | some q => s.modSeq q fun (y : LockSeq) =>
      { y with lanes := kvIns lane ((kvFind y.lanes lane).getD 0 + 1) y.lanes, lastLane := lane, openedAt := some (y.openedAt.getD s.cad.time) }
  | none => s

/-- Beats a requester had been granted when it lost or surrendered the lane (R268, R269). -/
def LaneSt.progress (x : LaneSt) (who : Nat) : Nat := (((x.preempted ++ x.kept).find? (·.1 == who)).map (·.2)).getD 0

/-- Grant a lane to a request: its first beat, or the next one after those it has kept. A new round of a system port starts where no
credit is left to the winner (Table 9.1). -/
def State.grant (s : State) (lane : Nat) (a : Arb) (r : ArbReq) : State :=
  let x := s.lane lane
  let locks := s.locksFor a r
  let credit := if a == .sysPort && x.credit.getD r.who 0 == 0 then s.sysWeights else x.credit
  let s := s.setLane lane { x with holder := some r.who, rank := (s.rankAt a r).1, beats := x.progress r.who + 1, lockedBy := locks,
                                   last := r.who, preempted := x.preempted.filter (·.1 != r.who),
                                   kept := x.kept.filter (·.1 != r.who), credit := credit }
  s.beat lane a r.who r.vc locks

/-- Decide a lane whose grant ends. -/
def State.decide_ (s : State) (lane : Nat) (a : Arb) (reqs : List ArbReq) : State :=
  let s := s.setLane lane (s.lane lane).release
  match s.winner a (s.lane lane) reqs with
  | some r => s.grant lane a r
  | none => s

/-- The holder goes on for one beat, at the higher rank where its request has been raised (R264). -/
def State.holdOn (s : State) (lane : Nat) (a : Arb) (h : Nat) (reqs : List ArbReq) (locks : Option Nat) : State :=
  let x := s.lane lane
  let rank := (reqs.filter (·.who == h)).foldl (fun m r => min m (s.rankAt a r).1) x.rank
  (s.setLane lane { x with beats := x.beats + 1, rank := rank }).beat lane a h 0 locks

/-- A locked grant in force: no decision. Its holder, or another transfer of the same sequence where the holder has no beat ready,
goes on until the sequence has had 64 beats on the lane (R263, R270, R271). -/
def State.lockedBeat (s : State) (lane : Nat) (a : Arb) (h q : Nat) (idle : Bool) (reqs : List ArbReq) : State :=
  if 64 ≤ s.seqBeats q lane then s
  else if !idle then s.holdOn lane a h reqs (some q)
  else
    match oldest (reqs.filter fun r => (s.seqOf a r).map (·.id) == some q) with
    | some r => (s.setLane lane { s.lane lane with holder := some r.who }).holdOn lane a r.who reqs (some q)
    | none => s

/-- An ordinary grant in force: it ends when its holder is idle, which keeps its progress, at the maximum grant, or with the weight of
its round; else a request of higher rank takes it, and the holder keeps its progress (R267 to R269). A request first present inside
the beat (`mid`) takes part in a preemption only. -/
def State.ordinaryBeat (s : State) (lane : Nat) (a : Arb) (h : Nat) (idle : Bool) (reqs : List ArbReq) : State :=
  let x := s.lane lane
  let now := reqs.filter fun r => !r.mid
  let spent := a == .sysPort && x.credit.getD h 0 == 0
  if idle then
    (s.setLane lane { x with kept := x.kept.filter (·.1 != h) ++ [(h, x.beats)] }).decide_ lane a (now.filter (·.who != h))
  else if a.maxGrant ≤ x.beats || spent then s.decide_ lane a now
  else
    match s.winner a x (reqs.filter fun r => preempts (s.rankAt a r).1 x.rank) with
    | some r => ((s.setLane lane { x with preempted := x.preempted ++ [(h, x.beats)] }).bump F.ARB_PREEMPT 1).grant lane a r
    | none => s.holdOn lane a h reqs none

/-- Note the lane that each open sequence's transfers request (R271). -/
def State.noteAsked (s : State) (a : Arb) (lane : Nat) (reqs : List ArbReq) : State :=
  reqs.foldl (fun s r => match s.seqOf a r with
    | some x => s.modSeq x.id fun (y : LockSeq) => { y with lastAsked := lane }
    | none => s) s

/-- An ECLK edge at a grant lane that begins a beat, with the requests present at it or, marked `mid`, at a later edge inside that
beat; `idle` says that the holder's transfer is complete or has no beat ready (R266 to R270). A VC3 flit takes the next beat of a Rein
egress whatever holds it (R265). -/
def State.arbitrate (s : State) (lane : Nat) (idle : Bool) (reqs : List ArbReq) : State :=
  if !(s.laneHere lane) then s
  else
    let a := arbOf lane
    let s := (s.meetSeqs a reqs).noteAsked a lane reqs
    let all := reqs.filter (s.takesPart a lane)
    let reqs := if a == .rein then all.filter (·.vc != 3) else all
    match (if a == .rein && (s.lane lane).vc3Room then oldest (all.filter (·.vc == 3)) else none) with
    | some r => s.beat lane a r.who 3 none
    | none =>
      match (s.lane lane).holder, (s.lane lane).lockedBy with
      | none, _ => s.decide_ lane a reqs
      | some h, some q => if s.seqOpen q then s.lockedBeat lane a h q idle reqs else s.decide_ lane a (reqs.filter fun r => !r.mid)
      | some h, none => s.ordinaryBeat lane a h idle reqs

/-- ARBITER_DECISION at a lane (R266). -/
def execArbiterDecision (lane : Nat) (idle : Bool) (reqs : List ArbReq) (s : State) : Result :=
  .next (s.arbitrate lane idle reqs)

/-! ### Bounds (R271) -/

/-- The lane ARB_LOVR_INFO records: the one that reached 64 beats; at the time bound the one whose locked beat was granted last, or,
where the sequence holds no locked grant, the one its transfers requested last (R271). -/
def State.lovrLane (s : State) (x : LockSeq) (beats : Bool) : Nat :=
  if beats then ((x.lanes.find? fun p => decide (64 ≤ p.2)).map (·.1 % 256)).getD 0xFF
  else if s.lanes.any fun p => p.2.lockedBy == some x.id then x.lastLane % 256
  else x.lastAsked % 256

/-- Every locked grant of a sequence is released (R271). -/
def State.dropLocked (s : State) (q : Nat) : State :=
  { s with lanes := s.lanes.map fun (p : Nat × LaneSt) => if p.2.lockedBy == some q then (p.1, p.2.release) else p }

/-- A locked sequence is ended by a bound: its lanes are released, its commands end with ABORT_TIMEOUT and write nothing further, its
lock is released and marked BROKEN, and ARB_LOVR is set (R271). -/
def State.endByBound (s : State) (x : LockSeq) (beats : Bool) : State :=
  let lane := s.lovrLane x beats
  let s := s.dropLocked x.id
  let s := (s.cmds.filter fun c => c.seqId == some x.id).foldl (fun s c => s.dropWaiting c.id) s
  let s := (s.breakLock x).breakSeq x.id stABORT_TIMEOUT
  let s := (((s.set F.ARB_LOVR_INFO_LANE lane).set F.ARB_LOVR_INFO_TENANT x.tenant).set F.ARB_LOVR_INFO_QUEUE x.queue).set
    F.ARB_LOVR_INFO_BEATS (b2n beats)
  s.stick F.ARB_LOVR_LOVR

/-- The order in which sequences are ended by the time bound: by opening, then lower tenant, then lower queue (R272). -/
def LockSeq.endsBefore (x y : LockSeq) : Bool :=
  let k (z : LockSeq) : Nat := (z.openedAt.getD 0 * 16 + z.tenant) * 128 + z.queue
  decide (k x < k y)

/-- A sequence takes its place among those to be ended. -/
def insByEnd (x : LockSeq) : List LockSeq → List LockSeq
  | [] => [x]
  | y :: t => if x.endsBefore y then x :: y :: t else y :: insByEnd x t

/-- The open locked sequence of a queue reaches 64 beats on a lane (`beats`), or 2 µs, before which every sequence that opened earlier
is ended (R271, R272). -/
def State.lockedBound (s : State) (t q : Nat) (beats : Bool) : State :=
  let live := s.lockSeqs.filter fun x => x.openedAt.isSome && x.broken.isNone
  match live.find? fun x => x.tenant == t && x.queue == q with
  | none => s
  | some x =>
    if beats then (if x.lanes.any fun p => decide (64 ≤ p.2) then s.endByBound x true else s)
    else
      (((live.filter fun y => y.endsBefore x).foldl (fun l y => insByEnd y l) []) ++ [x]).foldl (fun s y =>
        (s.advance (y.openedAt.getD 0 + 2000)).endByBound y false) s

/-- LOCKED_BOUND_EXPIRY of the sequence of a queue, or of chip `q` − 8 at this device (R271 to R273). -/
def execLockedBoundExpiry (t : Tenant) (q : Fin 72) (beats : Bool) (s : State) : Result := .next (s.lockedBound t.val q.val beats)

end Sys2Proof.Machine
end

