-- ==== Sys2Proof/Machine/ReinVc.lean ====
section
/-! DEFINITION. Chapter 12: what VC0, VC1 and VC2 messages do where they arrive (R104, R273 to R276, R292 to R298, R340,
R344, R346 to R351), and the end of a pair's epoch at its source (R350). -/
namespace Sys2Proof.Machine

/-! ### The source side -/

/-- The command a tag names. -/
def State.cmdOfTag (s : State) (tag : Nat) : Option Cmd := s.cmds.find? fun c => c.id % 65536 == tag

/-- The counter, or with bit 16 the barrier, that a lost VC1 message leaves stale (R294). -/
def staleOf (m : Msg) : Option (Nat × Nat) :=
  let g := sigOfOperand m.operand
  if m.mop = 0x11 && 1 ≤ g.op && g.op ≤ 3 then some (m.tenant, g.index)
  else if m.mop = 0x12 then some (m.tenant, m.operand % 65536 + 65536) else none

/-- Open a pair's new epoch once a path exists: EPOCH_OPEN, the stale notices, then what waits (R350). -/
def State.openEpoch (s : State) (d : Nat) : State :=
  let p := s.txPair d
  if !p.openDue || (s.singlePath 12 d).isNone then s
  else
    let s := s.setTx d { p with openDue := false, stale := [] }
    let s := s.txSend d ⟨{ msgZero with mop := 0x15, ackReq := true }, none, s.cad.time⟩
    let s := p.stale.foldl (fun s x =>
      s.txSend d ⟨{ msgZero with mop := 0x16, tenant := x.1, operand := x.2, ackReq := true }, none, s.cad.time⟩) s
    s.txDrain d

/-- A source raises the epoch of a pair (R350): commands with an unacknowledged message end with ABORT_LINK, their other
messages are never sent. -/
def State.raiseEpoch (s : State) (d : Nat) : State :=
  let p := s.txPair d
  let lost := (p.sent.filterMap (·.cmd)).eraseDups
  let victims := s.cmds.filter fun c => lost.contains c.id && c.phase != .ended
  let qs := (victims.filter (·.node.isNone)).map fun c => (c.tenant, c.queue)
  let s := s.set (F.REI_TXE_EPOCH d) ((s.get (F.REI_TXE_EPOCH d) + 1) % 256)
  let s := s.setTx d { p with
    nextEseq := 0, sent := [], waiting := p.waiting.filter fun x => match x.cmd with | some i => !(lost.contains i) | none => true
    opening := true, openDue := true, stale := p.stale ++ p.sent.filterMap (fun x => staleOf x.msg), openQueues := qs }
  let s := victims.foldl (fun s c => (s.breakSeqOf c stABORT_LINK).fail c.id stABORT_LINK) s
  let port := (s.singlePath 12 d).getD 0xFF
  (s.fault 5 0x21 (0xE0 + port % 32) 0 0 0 0 0 (leBytes 1 port ++ leBytes 1 d)).openEpoch d

/-- Pairs with traffic that have no ACTIVE single-path port raise their epoch; others go on (R343, R350). -/
def State.pathCheck (s : State) : State :=
  (s.rein.tx.map (·.1)).foldl (fun s d =>
    let p := s.txPair d
    if (s.singlePath 12 d).isNone then (if p.sent.isEmpty then s else s.raiseEpoch d)
    else (s.openEpoch d).txDrain d) s

/-- Messages from `eseq` on are still unacknowledged: the others of a pair are retired, modulo 65,536. -/
def ackedUpTo (e : Nat) (x : TxMsg) : Bool := decide ((e + 65536 - x.msg.eseq) % 65536 < 32768)

/-- E2E_ACK: messages up to an ESEQ are retired; what waited for them goes on (R348). EXTRA holds ESEQ and, in the next
byte pair, the epoch. -/
def State.e2eAck (s : State) (m : Msg) : State :=
  let d := m.src
  let p := s.txPair d
  if m.epoch != s.get (F.REI_TXE_EPOCH d) then s
  else
    let e := leAt m.extra 0 2
    let done := p.sent.filter (ackedUpTo e)
    let s := s.setTx d { p with sent := p.sent.filter fun x => !(ackedUpTo e x), opening := p.opening && !(done.any fun x => x.msg.mop == 0x15) }
    -- the bytes of an acknowledged WRITE are known to be committed (R171)
    let s := done.foldl (fun s x => match x.cmd with
      | some id => if x.msg.mop = 0x10 then s.modCmd id fun (c : Cmd) => { c with bytes := c.bytes + x.msg.data.length } else s
      | none => s) s
    let s := s.txDrain d
    ((done.filterMap (·.cmd)).eraseDups).foldl (fun s id => s.settle id) s

/-- The open locked sequence of a command that a target has ended by a bound: the refusal carries ABORT_TIMEOUT (R273). -/
def State.endedThere (s : State) (m : Msg) (c : Cmd) : Option LockSeq :=
  if m.status = stABORT_TIMEOUT && s.inSeq c then c.seqId.bind s.seq? else none

/-- REFUSE: the issuing command ends with the refusal's status (R346), and its locked sequence where the target's bound has ended it
(R273). -/
def State.refused (s : State) (m : Msg) : State :=
  match s.cmdOfTag m.cmdTag with
  | some c =>
    match s.endedThere m c with
    | some x => s.endByBound x false
    | none =>
    let s := (s.dropReads c.id).dropWaiting c.id
    let s := if c.op = 0x23 && c.lockTry == .homeWait then s.releaseLock c.tenant (lkLock c.pkt) false else s
    let s := s.finish c.id m.status 0
    -- an acquire that ends without its lock ends its sequence (R213)
    if c.op = 0x23 then s.breakSeq c.id stABORT_TIMEOUT else s
  | none => s

/-- The request an answer belongs to, and the state without it. -/
def State.takeReq (s : State) (m : Msg) : Option Req × State :=
  match s.rein.reqs.find? fun r => r.tag == m.rtag && r.chip == m.src with
  | some r => (some r, { s with rein := { s.rein with reqs := s.rein.reqs.filter (·.tag != r.tag) } })
  | none => (none, s)

/-- READ_CPL: data lands in its reserved tags (R340). A failed read ends its command with the answer's status. -/
def State.readCpl (s : State) (m : Msg) : State :=
  match s.takeReq m with
  | (some r, s) =>
    if m.status != 0 then s.fail r.cmd m.status
    else s.modCmd r.cmd fun (c : Cmd) => { c with fetched := overlay c.fetched (cellsAt r.off (m.data.take r.len)) }
  | (none, s) => s

/-- WIN_ANSWER: the creation that asked goes on (R104). -/
def State.winAnswered (s : State) (m : Msg) : State :=
  match s.takeReq m with
  | (some r, s) => s.descAnswer r.cmd (winOfAnswer m)
  | (none, s) => s

/-- LOCK_GRANT: the requester has both locks; a grant nobody waits for is released (R275). -/
def State.lockGranted (s : State) (m : Msg) : State :=
  let (r, s) := s.takeReq m
  match r.bind fun r => s.cmd? r.cmd with
  | some c =>
    if c.lockTry == .homeWait then
      let c := if bit m.operand 8 then { c with warn := putBit c.warn wLOCK_BROKEN true } else c
      (s.setCmd c).acquired c
    else s
  | none => s.vc1 m.src { msgZero with mop := 0x14, tenant := m.tenant, operand := m.operand % 256 } none

/-- LOCK_BUSY: the chip-ID rule (R276). The backoff is a free value from 1 to 16 µs. -/
def State.lockBusy (s : State) (m : Msg) : State :=
  let (r, s) := s.takeReq m
  match r.bind fun r => s.cmd? r.cmd with
  | some c =>
    if m.src < s.chip then
      let back := 1000 * (s.freeVal.toNat % 16 + 1)
      let s := s.draw
      let s := s.setCmd { c with retry := min 255 (c.retry + 1), lockTry := .backoff (s.cad.time + back) }
      (s.stick F.ARB_LRETRY_LRETRY).releaseLock c.tenant (lkLock c.pkt) false
    else
      s.vc0 m.src { msgZero with mop := 0x03, tenant := c.tenant, cmdTag := c.id % 65536, operand := lkLock c.pkt + 2 ^ 8 * c.queue } c.id 0 0
  | none => s

/-- BAR_ACK: an arrival without WAIT completes, one with WAIT holds its sense, or completes where that sense has been
released before (R298, R303). -/
def State.barAck (s : State) (m : Msg) : State :=
  match s.cmdOfTag m.rtag with
  | some c =>
    let z := bit m.operand 16
    if c.op != 0x22 || c.phase != Phase.front then s
    else if !(baWait c.pkt) || c.cursor == 1 + b2n z then s.fail c.id stDONE
    else s.setCmd { c with sense := some z }
  | none => s

/-- PATH_LOST names in OPERAND the destination of the pair that lost its path; its source raises the epoch (R349, R350). -/
def State.pathLost (s : State) (m : Msg) : State := s.raiseEpoch (m.operand % 64)
/-- GAP_NAK comes from the destination of the pair (R347, R350). -/
def State.gapNak (s : State) (m : Msg) : State := s.raiseEpoch m.src

/-! ### The destination side -/

def rxIdle : RxPair := ⟨0, 0, false, none, []⟩
def State.rxPair (s : State) (d : Nat) : RxPair := (kvFind s.rein.rx d).getD rxIdle
def State.setRx (s : State) (d : Nat) (p : RxPair) : State := { s with rein := { s.rein with rx := kvIns d p s.rein.rx } }

/-- An answer on VC2, with the rank and tick of the request it serves (R264). -/
def State.answer (s : State) (m : Msg) (a : Msg) : State :=
  s.originate { a with vc := 2, dest := m.src, tenant := m.tenant, cmdTag := m.cmdTag, rtag := m.rtag, rank := m.rank, tick := m.tick }

/-- E2E_ACK of everything committed from a chip (R348). -/
def State.sendAck (s : State) (d : Nat) : State :=
  let p := s.rxPair d
  let s := s.setRx d { p with owedSince := none }
  s.originate { msgZero with vc := 2, mop := 0x25, dest := d, epoch := p.epoch, extra := leBytes 2 ((p.expect + 65535) % 65536) }

/-- The window and firewall checks of an inbound access (R104, R346): the status of a refusal. -/
def State.inboundCheck (s : State) (port : Nat) (m : Msg) (n : Nat) (wr : Bool) : Option Nat × State :=
  let sp := daSpace m.da
  let off := daOff m.da
  let agent := 0x40 + port
  let accepted := s.rein.accepted.any fun a => a.chip == m.src && a.tag == m.cmdTag && a.win == m.win && a.gen == m.gen
  if sp = 6 then
    if m.tenant != 0 then (some stREJ_PERM, s)
    else
      let (ok, s) := s.bridleRange 6 0 agent clsREIN wr off n
      (if ok then none else some stREJ_PERM, s)
  else if sp != 1 && sp != 2 then (some stREJ_BOUNDS, s)
  else if sp = 2 && !(s.on F.MEM_STATUS_HBM_READY) then (some stREJ_BUSY, s)
  else
    let w := if accepted then (s.winSlot m.win).win else s.window m.tenant m.win m.gen
    match w with
    | none => if accepted then (none, s) else (some stREJ_HANDLE, s)
    | some w =>
      if !accepted && !(if wr then w.w else w.r) then (some stREJ_PERM, s)
      else if !accepted && !(s.insideWindow w sp off n) then (some stREJ_BOUNDS, s)
      else
        let (ok, s) := s.bridleRange sp m.tenant agent clsREIN wr off n
        (if ok then none else some stREJ_PERM, s)

/-- A command of another chip whose first request is accepted stays accepted until its last (R104). -/
def State.accept (s : State) (m : Msg) : State :=
  if m.cmdLast then { s with rein := { s.rein with accepted := s.rein.accepted.filter fun a => !(a.chip == m.src && a.tag == m.cmdTag) } }
  else
    let a : Accepted := ⟨m.src, m.cmdTag, m.win, m.gen⟩
    if s.rein.accepted.contains a then s else { s with rein := { s.rein with accepted := s.rein.accepted ++ [a] } }

/-- Refuse a message: REFUSE goes back, and later messages of its command tag are discarded (R346). -/
def State.refuse (s : State) (m : Msg) (st : Nat) : State :=
  let p := s.rxPair m.src
  let s := if m.vc = 1 && !m.cmdLast && !(p.refused.contains m.cmdTag) then s.setRx m.src { p with refused := p.refused ++ [m.cmdTag] } else s
  s.answer m { msgZero with mop := 0x26, status := st }

/-- During a safe-state restart a message addressed to this device is refused with ABORT_RESET (R502, R522); else `k`. -/
def State.unlessRestart (s : State) (m : Msg) (k : State) : State :=
  if s.boot.phase == BootPhase.restart then s.refuse m stABORT_RESET else k

/-- READ_REQ: served without waiting on VC0 or VC1, answered with READ_CPL (R274). OPERAND holds the bytes asked for. -/
def State.readReq (s : State) (port : Nat) (m : Msg) : State :=
  s.unlessRestart m <|
  let n := min 4096 m.operand
  match s.inboundCheck port m n false with
  | (some st, s) => s.refuse m st
  | (none, s) =>
    let s := s.accept m
    if daSpace m.da = 6 then
      let r := (List.range (ceilDiv n 4)).foldl (fun (acc : List (BitVec 8) × State) k =>
        let (v, s) := acc.2.csrRead 0 (daOff m.da + 4 * k)
        (acc.1 ++ leBytes 4 v, s)) ([], s)
      r.2.answer m { msgZero with mop := 0x20, data := r.1.take n }
    else
      match s.memRead (daSpace m.da) (daOff m.da) n (256 * m.tenant + 0x40 + port) 0 0 with
      | (some l, s) => s.answer m { msgZero with mop := 0x20, data := l }
      | (none, s) => s.answer m { msgZero with mop := 0x20, status := stFAULT_ECC }

/-- WIN_QUERY: this device answers with the window's data (R104). -/
def State.winQuery (s : State) (m : Msg) : State := s.unlessRestart m (s.answer m (s.winAnswer m))

/-- LOCK_REQ at the home: granted at once, queued, or refused when the index is outside the tenant's range (R275). -/
def State.lockReq (s : State) (m : Msg) : State :=
  s.unlessRestart m <|
  let l := m.operand % 256
  let w : LockWaiter := ⟨m.src, m.rtag, m.operand / 256 % 8, s.cad.time⟩
  match s.poolLock m.tenant l with
  | none => s.refuse m stREJ_BOUNDS
  | some n =>
    let x := s.lock n
    if x.held then s.setLock n { x with queue := x.queue ++ [w] } else s.grantRemote m.tenant n l w

/-- WRITE: the data is committed granule by granule, after the checks of R346. -/
def State.writeIn (s : State) (port : Nat) (m : Msg) : State :=
  match s.inboundCheck port m m.data.length true with
  | (some st, s) => s.refuse m st
  | (none, s) =>
    let s := s.accept m
    if daSpace m.da = 6 then
      (List.range (ceilDiv m.data.length 4)).foldl (fun s k => s.csrWrite 0 (daOff m.da + 4 * k) (leAt m.data (4 * k) 4)) s
    else s.memWrite (daSpace m.da) (cellsAt (daOff m.da) m.data)

/-- SIGNAL: the target counter or flag (R188, R292). -/
def State.signalIn (s : State) (m : Msg) : State := (s.sigRemote m.tenant m.src (sigOfOperand m.operand)).accept m

/-- BAR_ARRIVE at the home: counted and acknowledged with its sense, or refused (R298). -/
def State.barArriveIn (s : State) (m : Msg) : State :=
  match s.barArrive m.tenant (m.operand % 65536) (some m.src) (bit m.operand 18) with
  | some (z, s) => s.answer m { msgZero with mop := 0x24, operand := barOperand (m.operand % 65536) z false false }
  | none => s.refuse m stREJ_BOUNDS

/-- PHASE_DONE: the waiting arrivals of its sense are released; one whose acknowledgement is still on its way remembers it
(R298, R300). -/
def State.phaseDone (s : State) (m : Msg) : State :=
  let b := m.operand % 65536
  let z := bit m.operand 16
  let s := { s with cmds := s.cmds.map fun (c : Cmd) =>
    if c.tenant == m.tenant && c.op == 0x22 && c.phase == Phase.front && c.started && c.sense.isNone && baWait c.pkt
        && baBarrier c.pkt == b && baChip c.pkt == m.src then { c with cursor := 1 + b2n z } else c }
  s.releaseBar m.tenant b m.src z (bit m.operand 17)

/-- LOCK_RELEASE on VC1: it frees the home's lock, unless the lock was reaped from that chip (R275, R306). -/
def State.lockReleaseIn (s : State) (m : Msg) : State :=
  let l := m.operand % 256
  match s.poolLock m.tenant l with
  | none => s
  | some n =>
    let x := s.lock n
    if x.reaped.contains m.src then s.setLock n { x with reaped := x.reaped.erase m.src }
    else if x.held && x.holderChip == m.src then s.releaseLock m.tenant l (bit m.operand 8)
    else s

/-- STALE_NOTICE: the counter, or the barrier's ARRIVE counter, is marked STALE (R294). -/
def State.staleNotice (s : State) (m : Msg) : State :=
  let i := m.operand % 65536
  let i := if bit m.operand 16 then (match s.poolBar m.tenant i with | some b => (s.bar b).arriveIdx | none => 65535) else i
  match s.poolCnt m.tenant i with
  | some n => s.cntFlag m.tenant n 2
  | none => s.ridx i m.tenant m.src

/-- EPOCH_OPEN: a new epoch is accepted (R351). -/
def State.epochOpen (s : State) (m : Msg) : State :=
  let p := s.rxPair m.src
  let d := (m.epoch + 256 - p.epoch) % 256
  if 1 ≤ d && d ≤ 127 then
    let s := s.setRx m.src { p with epoch := m.epoch, expect := 1, gap := false, refused := [] }
    let s := { s with rein := { s.rein with accepted := s.rein.accepted.filter (·.chip != m.src) } }
    let s := (s.set F.REI_EPOCH_INFO_SRC m.src).set F.REI_EPOCH_INFO_EPOCH m.epoch
    (s.stickIrq F.REI_LINK_EPOCH_LINK_EPOCH 12).sendAck m.src
  else s.stick F.REI_OLD_OLD

/-- The locked sequence of a message's chip and tenant that a bound has ended here (R273). -/
def State.endedHere (s : State) (m : Msg) : Option LockSeq :=
  s.lockSeqs.find? fun x => x.tenant == m.tenant && x.queue == 8 + m.src && x.broken.isSome

/-- A sequence of another chip ends here with a message of its tenant that carries no lock mark, or with its LOCK_RELEASE (R273, log
entry 86). -/
def State.seqDone (s : State) (m : Msg) : State :=
  match s.lockSeqs.find? fun x => x.tenant == m.tenant && x.queue == 8 + m.src with
  | some x => if m.lock && m.mop != 0x14 then s else (s.dropLocked x.id).seqClose x.id
  | none => s

/-- A marked transfer of a sequence that a bound has ended here is refused (R273); else `k`. -/
def State.unlessEnded (s : State) (m : Msg) (k : State → State) : State :=
  match s.endedHere m with
  | some x => if m.lock && (m.mop == 0x01 || m.mop == 0x10 || m.mop == 0x11) then (s.seqClose x.id).refuse m stABORT_TIMEOUT
              else k (s.seqDone m)
  | none => k (s.seqDone m)

/-- Operations of other chips that wait while a tenant's context reset clears its objects (R308). -/
def State.holdsMsg (s : State) (m : Msg) : Bool :=
  (s.pcie.ctxRst.any fun p => p.1 == m.tenant) && ([0x03, 0x11, 0x12, 0x16].contains m.mop)

/-- The effect of a VC1 message in its turn. -/
def State.vc1Effect (s : State) (port : Nat) (m : Msg) : State :=
  s.unlessRestart m <|
  match m.mop with
  | 0x10 => s.writeIn port m
  | 0x11 => s.signalIn m
  | 0x12 => s.barArriveIn m
  | 0x13 => s.phaseDone m
  | 0x14 => s.lockReleaseIn m
  | 0x16 => s.staleNotice m
  | _ => s

/-- A VC1 message arrives: epoch, ESEQ order and refused tags first; then its effect and its acknowledgement (R346, R347,
R348, R351). A message for this device wakes it (R473). -/
def State.vc1In (s : State) (port : Nat) (m : Msg) : State :=
  let s := s.wake 3
  let p := s.rxPair m.src
  if m.mop = 0x15 then s.epochOpen m
  else if m.epoch != p.epoch then (if (p.epoch + 256 - m.epoch) % 256 ≤ 127 then s.stick F.REI_OLD_OLD else s)
  else if p.gap then s
  else if m.eseq != p.expect then
    (s.setRx m.src { p with gap := true }).answer m { msgZero with mop := 0x28 }
  else
    let s := s.setRx m.src { p with
      expect := (p.expect + 1) % 65536, owedSince := some (p.owedSince.getD s.cad.time)
      refused := if m.cmdLast then p.refused.filter (· != m.cmdTag) else p.refused }
    let s := if p.refused.contains m.cmdTag && (m.mop == 0x10 || m.mop == 0x11) then s
      else if s.holdsMsg m then { s with rein := { s.rein with held := s.rein.held ++ [m] } }
      else s.unlessEnded m fun s => s.vc1Effect port m
    if m.ackReq then s.sendAck m.src else s

/-- A message delivered to this device on VC0 or VC2, which wakes it (R473). -/
def State.vc02In (s : State) (port : Nat) (m : Msg) : State :=
  let s := s.wake 3
  match m.mop with
  | 0x01 => s.unlessEnded m fun s => s.readReq port m
  | 0x02 => s.winQuery m
  | 0x03 => if s.holdsMsg m then { s with rein := { s.rein with held := s.rein.held ++ [m] } } else s.lockReq m
  | 0x20 => s.readCpl m
  | 0x21 => s.winAnswered m
  | 0x22 => s.lockGranted m
  | 0x23 => s.lockBusy m
  | 0x24 => s.barAck m
  | 0x25 => s.e2eAck m
  | 0x26 => s.refused m
  | 0x27 => s.pathLost m
  | 0x28 => s.gapNak m
  | _ => s

/-! ### Timers -/

/-- A commit has gone unacknowledged for 4 µs (R348). -/
def State.ackTimer (s : State) (d : Nat) : State :=
  match (s.rxPair d).owedSince with
  | some t => (s.advance (t + 4000)).sendAck d
  | none => s

/-- The oldest unacknowledged message to a chip is older than REI_E2E.TIMEOUT_US (R350). -/
def State.e2eTimeout (s : State) (d : Nat) : State :=
  match (s.txPair d).sent with
  | x :: _ => (s.advance (x.at_ + 1000 * s.get F.REI_E2E_TIMEOUT_US + 1)).raiseEpoch d
  | [] => s

/-- A VC0 request has had no answer within REI_REQ.TIMEOUT_US (R344): FAULT_LINK. An acquire gives up its local lock. -/
def State.requestTimeout (s : State) (tag : Nat) : State :=
  match s.rein.reqs.find? (·.tag == tag) with
  | none => s
  | some r =>
    let s := s.advance (r.at_ + 1000 * s.get F.REI_REQ_TIMEOUT_US)
    let s := { s with rein := { s.rein with reqs := s.rein.reqs.filter (·.tag != tag) } }
    match s.cmd? r.cmd with
    | some c =>
      if c.op = 0x23 && c.lockTry == .homeWait then
        let s := (s.releaseLock c.tenant (lkLock c.pkt) false).fail c.id stFAULT_LINK
        s.breakSeq c.id stABORT_TIMEOUT
      else s.fail c.id stFAULT_LINK
    | none => s

/-! ### The rows -/

/-- A message `m` of a row, as its operation and channel. -/
def asMop (m : Msg) (vc mop : Nat) : Msg := { m with vc := vc, mop := mop }

def execReadReq (p : Port) (m : Msg) (s : State) : Result := .next (s.vc02In p.val (asMop m 0 0x01))
def execWinQuery (m : Msg) (s : State) : Result := .next (s.vc02In 0 (asMop m 0 0x02))
def execLockReq (p : Port) (m : Msg) (s : State) : Result := .next (s.vc02In p.val (asMop m 0 0x03))
def execReinSignal (p : Port) (m : Msg) (s : State) : Result := .next (s.vc1In p.val (asMop m 1 0x11))
def execBarArrive (p : Port) (m : Msg) (s : State) : Result := .next (s.vc1In p.val (asMop m 1 0x12))
def execPhaseDone (p : Port) (m : Msg) (s : State) : Result := .next (s.vc1In p.val (asMop m 1 0x13))
def execReinLockRelease (p : Port) (m : Msg) (s : State) : Result := .next (s.vc1In p.val (asMop m 1 0x14))
def execEpochOpen (p : Port) (m : Msg) (s : State) : Result := .next (s.vc1In p.val (asMop m 1 0x15))
def execStaleNotice (p : Port) (m : Msg) (s : State) : Result := .next (s.vc1In p.val (asMop m 1 0x16))
def execReadCpl (m : Msg) (s : State) : Result := .next (s.vc02In 0 (asMop m 2 0x20))
def execWinAnswer (m : Msg) (s : State) : Result := .next (s.vc02In 0 (asMop m 2 0x21))
def execLockGrant (m : Msg) (s : State) : Result := .next (s.vc02In 0 (asMop m 2 0x22))
def execLockBusy (m : Msg) (s : State) : Result := .next (s.vc02In 0 (asMop m 2 0x23))
def execBarAck (m : Msg) (s : State) : Result := .next (s.vc02In 0 (asMop m 2 0x24))
def execE2eAck (m : Msg) (s : State) : Result := .next (s.vc02In 0 (asMop m 2 0x25))
def execRefuse (m : Msg) (s : State) : Result := .next (s.vc02In 0 (asMop m 2 0x26))
def execPathLost (m : Msg) (s : State) : Result := .next (s.vc02In 0 (asMop m 2 0x27))
def execGapNak (m : Msg) (s : State) : Result := .next (s.vc02In 0 (asMop m 2 0x28))
def execE2eAckTimer (d : Chip) (s : State) : Result := .next (s.ackTimer d.val)
def execE2eTimeout (d : Chip) (s : State) : Result := .next (s.e2eTimeout d.val)
def execRequestTimeout (tag : Nat) (s : State) : Result := .next (s.requestTimeout tag)

end Sys2Proof.Machine
end

