-- ==== Sys2Proof/Machine/ReinLink.lean ====
section
/-! DEFINITION. Chapter 12: ports and training (R333 to R335), link-level retry (R338, R339), forwarding (R342 to R344), and
messages received on a port. -/
namespace Sys2Proof.Machine

/-! ### Port states -/

/-- A port enters a state: the register and a LINK trace record (Table 16.14). -/
def State.setPortState (s : State) (n st : Nat) : State :=
  if s.portState n = st then s
  else
    (s.set (F.REI_P_STATUS_STATE n) st).trace 0x08 (32 * 7 + n) 0 0
      (leBytes 1 0 ++ leBytes 1 n ++ leBytes 1 st ++ leBytes 1 0 ++ leBytes 1 (s.get (F.REI_P_STATUS_PEER_CHIP n)))

/-- The sources whose VC1 flits a port loses: pairs (source, destination) (R349). -/
def PortSt.lostPairs (p : PortSt) : List (Nat × Nat) :=
  (((p.replay.map (·.2)) ++ p.egress).filter (·.vc == 1)).map (fun f => (f.src, f.dest)) |>.eraseDups

/-- Transit messages that were still arriving on a port stay incomplete: no egress waits for their rest. -/
def State.truncate (s : State) (n : Nat) : State :=
  let cut := ((s.port n).part.filter fun (x : Nat × Flit) => decide (8 ≤ x.1)).map fun (x : Nat × Flit) => x.2.stream
  { s with rein := { s.rein with ports := s.rein.ports.map fun (x : Nat × PortSt) =>
      (x.1, { x.2 with begun := x.2.begun.filter fun y => !(cut.contains y) }) } }

/-- A port goes to DOWN (or is disabled): every flit held for it is discarded, PATH_LOST goes to the source of each VC1 pair
that lost one, and pairs without a path raise their epoch (R335, R349, R350). -/
def State.portLost (s : State) (n st cause : Nat) : State :=
  let p := s.port n
  let was := s.portActive n || s.portState n == 7
  let s := s.truncate n
  let s := s.setPort n { p with replay := [], egress := [], begun := [], part := [], dom := none, nakOut := false, naks := [], replays := 0,
                                attempts := 0 }
  let s := (s.setPortState n st).set (F.REI_P_STATUS_CAUSE n) cause
  let s := (s.set (F.REI_P_STATUS_WIDTH n) 0).set (F.REI_P_STATUS_UPSTREAM n) 0
  let peer := s.get (F.REI_P_STATUS_PEER_CHIP n)
  let s := if was && st == 8 then
      (s.stickIrq F.REI_DOWN_DOWN 12).fault 5 0x20 (0xE0 + n) 0 0 0 0 0 (leBytes 1 n ++ leBytes 1 peer) else s
  let s := p.lostPairs.foldl (fun s x =>
    if x.1 = s.chip then s.raiseEpoch x.2
    else s.originate { msgZero with vc := 2, mop := 0x27, dest := x.1, operand := x.2 }) s
  s.pathCheck

/-- A write of REI_Pn_CTRL.EN (R333). -/
def State.portEnable (s : State) (n : Nat) (en : Bool) : State :=
  let s := s.set (F.REI_P_CTRL_EN n) (b2n en)
  if en then (if s.portState n = 0 && s.on F.REI_ID_VALID then s.setPortState n 1 else s)
  else if s.portState n = 0 then s else s.portLost n 0 0

def execPortEnable (p : Port) (en : Bool) (s : State) : Result := .next (if s.blockOpen then s.portEnable p.val en else s)

/-- The exit condition of a training state before PARAM is met; `half` chooses four lanes under HALF_OK in ALIGN (R333,
Table 12.2). -/
def State.trainStep (s : State) (n : Nat) (half : Bool) : State :=
  match s.portState n with
  | 1 => s.setPortState n 2
  | 2 => s.setPortState n 3
  | 3 =>
    if half && !(s.on (F.REI_P_CTRL_HALF_OK n)) then s
    else (s.set (F.REI_P_STATUS_WIDTH n) (if half then 1 else 2)).setPortState n 4
  | 4 => s.setPortState n 5
  | _ => s

def execTrainingStateAdvance (p : Port) (half : Bool) (s : State) : Result := .next (s.trainStep p.val half)

/-- A port of a link comes up: credits of Table 12.6, sequence numbers from 0, then what waits (R339, R350). -/
def State.portUp (s : State) (n chip port : Nat) : State :=
  let s := (s.set (F.REI_P_STATUS_PEER_CHIP n) chip).set (F.REI_P_STATUS_PEER_PORT n) port
  let s := s.setPort n { portIdle with credits := initialCredits, lackAt := s.cad.time, peerSerial := (s.port n).peerSerial }
  let s := (s.setPortState n 6).set (F.REI_P_STATUS_CAUSE n) 0
  s.pathCheck

/-- PARAM: the peer's serial number, chip ID, port and protocol major version, and whether the ends share a width (R334). -/
def State.paramExchange (s : State) (n serial chip port major : Nat) (width : Bool) : State :=
  if s.portState n != 5 then s
  else
    let s := s.setPort n { s.port n with peerSerial := serial }
    let s := s.set (F.REI_P_STATUS_PEER_CHIP n) chip
    if serial = s.get64 F.REI_SERIAL_LO then s.portLost n 8 1
    else if major != 1 then s.portLost n 8 2
    else if chip = s.chip then
      let s := s.stickIrq F.REI_DUPID_DUPID 12
      -- the device with the higher serial number carries VC3 only (R353, Table 12.12)
      let s := if serial < s.get64 F.REI_SERIAL_LO then { s with rein := { s.rein with vc3Only := true } } else s
      s.portLost n 8 3
    else if !width then s.portLost n 8 4
    else s.portUp n chip port

def execParamExchange (p : Port) (serial : DWord) (chip : Chip) (port : Port) (major : BitVec 8) (width : Bool) (s : State) :
    Result := .next (s.paramExchange p.val serial.toNat chip.val port.val major.toNat width)

/-- A port in DOWN tries full training again while enabled (R333). -/
def State.downRetry (s : State) (n : Nat) : State :=
  if s.portState n = 8 && s.on (F.REI_P_CTRL_EN n) then s.setPortState n 1 else s

def execDownRetry (p : Port) (s : State) : Result := .next (s.downRetry p.val)

/-- A training state outlasts its bound: EQUALISE, ALIGN, FEC_LOCK or PARAM (Table 12.2). -/
def State.trainingBound (s : State) (n : Nat) : State :=
  if 2 ≤ s.portState n && s.portState n ≤ 5 then s.portLost n 8 6 else s

def execTrainingBoundExpiry (p : Port) (s : State) : Result := .next (s.trainingBound p.val)

/-- A port leaves ACTIVE for RETRAIN; it keeps replay buffer, queues and credits (R335). -/
def State.retrain (s : State) (n : Nat) : State :=
  if s.portActive n then
    (s.setPort n { s.port n with attempts := 0, naks := [], replays := 0 }).setPortState n 7
  else s

def execRetrainTrigger (p : Port) (s : State) : Result := .next (s.retrain p.val)

/-- Replay every flit of the buffer, in order (R338). -/
def State.replayAll (s : State) (n : Nat) : State :=
  (s.port n).replay.foldl (fun s f => (s.emitFlit n f.2 f.1 false).bump (F.REI_P_RETRY n) 1) s

/-- One retrain attempt ends (R335). -/
def State.retrainEnd (s : State) (n : Nat) (ok half : Bool) : State :=
  if s.portState n != 7 then s
  else if ok && (!half || s.on (F.REI_P_CTRL_HALF_OK n)) then
    let s := if half then s.set (F.REI_P_STATUS_WIDTH n) 1 else s
    let s := (s.setPortState n 6).stick F.REI_RETRAIN_RETRAIN
    ((s.replayAll n).pump n).pathCheck
  else
    let p := s.port n
    if p.attempts + 1 < 3 then s.setPort n { p with attempts := p.attempts + 1 } else s.portLost n 8 5

def execRetrainAttemptEnd (p : Port) (ok half : Bool) (s : State) : Result := .next (s.retrainEnd p.val ok half)

/-! ### Retry (R338) -/

/-- A LACK covers flits up to it: they leave the replay buffer. -/
def State.lackTo (s : State) (n lack : Nat) : State :=
  let p := s.port n
  s.setPort n { p with replay := p.replay.filter fun f => decide (0 < (f.1 + 4096 - lack) % 4096 ∧ (f.1 + 4096 - lack) % 4096 < 2048) }

/-- A NAK arrives with a LACK: every flit after it is replayed; a fourth replay of one LSEQ retrains (R335, R338). -/
def State.nakIn (s : State) (n lack : Nat) : State :=
  if !(s.portActive n) then s
  else
    let s := s.lackTo n lack
    let p := s.port n
    match p.replay with
    | [] => s
    | f :: _ =>
      let r := if p.replayedSeq = f.1 then p.replays + 1 else 1
      let recent := (p.naks.filter fun t => decide (s.cad.time < t + 10000)) ++ [s.cad.time]
      let s := s.setPort n { p with replays := r, replayedSeq := f.1, naks := recent, spoilt := p.spoilt || p.replay.any fun x => x.2.vc == 3 }
      if 4 ≤ r || 16 ≤ recent.length then s.retrain n else s.replayAll n

def execNakReceived (p : Port) (lack : Fin 4096) (s : State) : Result := .next (s.nakIn p.val lack.val)

/-- A port with nothing to send and an acknowledgement older than 100 ns sends an IDLE flit (R338). -/
def State.idleSend (s : State) (n : Nat) : State :=
  if s.portActive n && (s.port n).egress.isEmpty then
    let s := s.advance ((s.port n).lackAt + 101)
    s.emitFlit n flitIdle 0 false
  else s

def execIdleFlitSend (p : Port) (s : State) : Result := .next (s.idleSend p.val)

/-- Return credits and discard a flit that is bad or out of order, with a NAK (R338). -/
def State.nakOut (s : State) (n : Nat) (bad : Bool) : State :=
  let s := if bad then s.bump (F.REI_P_CRCERR n) 1 else s
  if (s.port n).nakOut then s
  else (s.setPort n { s.port n with nakOut := true }).emitFlit n flitIdle 0 true

/-! ### Forwarding (R342 to R344, R349, R353) -/

/-- A misrouted flit: cause 0 no match, 1 hop limit, 2 DEST 63 (R344). -/
def State.misroute (s : State) (n cause : Nat) (f : Flit) : State :=
  let s := ((((s.set F.REI_MISR_INFO_SRC f.src).set F.REI_MISR_INFO_DEST f.dest).set F.REI_MISR_INFO_PORT n).set F.REI_MISR_INFO_VC f.vc).set
    F.REI_MISR_INFO_CAUSE cause
  let s := s.stick F.REI_MISR_MISR
  if f.kind != 1 then s
  else if f.vc = 0 then
    match msgOfFlits [f] with
    | some m => s.originate { msgZero with vc := 2, mop := 0x26, dest := m.src, tenant := m.tenant, cmdTag := m.cmdTag, rtag := m.rtag, status := stFAULT_LINK }
    | none => s
  else if f.vc = 1 then s.originate { msgZero with vc := 2, mop := 0x27, dest := f.src, operand := f.dest } else s

/-- The cause for which a transit flit is misrouted: DEST 63, no match, or no hop left (R344). -/
def State.misCause (s : State) (n : Nat) (f : Flit) : Option Nat :=
  if f.vc ≤ 1 && f.dest == 63 then some 2
  else if (s.routeFor n f.dest).isNone then some 0
  else if f.hops = 0 then some 1 else none

/-- Discard a transit flit: the source of a VC1 message hears of it (R343, R344, R349). -/
def State.discard (s : State) (n : Nat) (f : Flit) : State :=
  match s.misCause n f with
  | some c => s.misroute n c f
  | none =>
    -- no ACTIVE path: as for a port in DOWN (R343, R349)
    if f.vc = 1 && f.kind == 1 then s.originate { msgZero with vc := 2, mop := 0x27, dest := f.src, operand := f.dest } else s

/-- The port a transit flit leaves by; none where it is discarded: misrouted, on a device that carries VC3 only, or without an ACTIVE
path (R343, R344, R353). -/
def State.transitPort (s : State) (n : Nat) (f : Flit) : Option Nat :=
  if s.rein.vc3Only || (s.misCause n f).isSome then none else s.egressPort n f.vc f.dest

end Sys2Proof.Machine
end

