-- ==== Sys2Proof/Machine/Domain.lean ====
section
/-! DEFINITION. Chapter 12 §7 and chapter 02: announcements and the election of master and upstream port (R44, R46, R352,
R353, R355), the time exchange (R47, R354), and distribution of the cadence values (R48, R356). The layouts of data in VC3
messages are the model's (log entry 16). -/
namespace Sys2Proof.Machine

/-! ### Announcements (R352) -/

/-- An announcement's fields: chip, serial, priority, resumed rack time, generation, master, master priority, hops. -/
def domFields (m : Msg) : List Nat :=
  let d := m.data
  [leAt d 0 1, leAt d 1 8, leAt d 9 1, leAt d 10 8, leAt d 18 4, leAt d 22 1, leAt d 23 1, leAt d 24 1]

/-- This device's announcement. -/
def State.domMsg (s : State) : Msg :=
  { msgZero with vc := 3, mop := 0x30,
                 data := leBytes 1 s.chip ++ leBytes 8 (s.get64 F.REI_SERIAL_LO) ++ leBytes 1 (s.get F.CAD_DOM_PRIO)
                   ++ leBytes 8 (s.cad.resumed.getD 0) ++ leBytes 4 s.rein.gen ++ leBytes 1 s.rein.master
                   ++ leBytes 1 s.rein.masterPrio ++ leBytes 1 s.rein.masterHops }

/-- The announcement last received on an ACTIVE port. -/
def State.domAt (s : State) (n : Nat) : Option (List Nat) := if s.portActive n then (s.port n).dom else none

/-- The master elected: lowest priority, then lowest chip ID, among this device and the masters announced (R44). -/
def State.electMaster (s : State) : Nat × Nat :=
  (List.range 12).foldl (fun (b : Nat × Nat) n =>
    match s.domAt n with
    | some d =>
      let c := (d.getD 6 255, d.getD 5 63)
      if c.1 < b.1 || (c.1 == b.1 && c.2 < b.2) then c else b
    | none => b) (s.get F.CAD_DOM_PRIO, s.chip)

/-- The upstream port towards a master: fewest hops, then the lower peer chip, then the lower port (R352). -/
def State.upstreamFor (s : State) (master : Nat) : Option (Nat × Nat) :=
  let cand := (List.range 12).filterMap fun n =>
    match s.domAt n with
    | some d => if s.on (F.REI_P_CTRL_TIME_EN n) && d.getD 5 63 == master && d.getD 7 63 != 63 then some (d.getD 7 0, d.getD 0 63, n) else none
    | none => none
  match cand with
  | [] => none
  | x :: t =>
    let b := t.foldl (fun a y => if keyLt y a then y else a) x
    some (b.2.2, b.1)

/-- The largest resumed rack time announced on an ACTIVE port (R40). -/
def State.resumedPeers (s : State) : Nat := (List.range 12).foldl (fun b n => max b (((s.domAt n).map (·.getD 3 0)).getD 0)) 0

/-- The master of a domain that forms after a cold boot without a source adopts the largest resumed rack time among its devices: its
rack time moves forward by what that exceeds its own resumed time, and it counts as resumed (R40, log entry 80). -/
def State.adoptResumed (s : State) : State :=
  let own := s.cad.resumed.getD s.cad.time
  let d := s.resumedPeers
  if s.isMaster && !(s.on F.CAD_CTRL_EN) && !s.cad.acquired && !s.cad.timeSet && decide (own < d) then
    let c : Cad := { s.cad with time := s.cad.time + (d - own), resumed := some d }
    (({ s with cad := c } : State).set F.CAD_STATUS_SOURCE 6).set F.CAD_HOLD_ERR 0xFFFFFFFF
  else s

/-- A device that becomes a follower of another master's domain joins it: SRC is set, ALIGNED reads 0 until the first exchange
within the bound, and the first CONFIG of that master applies whatever its generation (R47, log entry 80). -/
def State.joinDomain (s : State) : State :=
  let s := { s with cad := { s.cad with joining := true, joinFirst := true, joinHold := false }, rein := { s.rein with gen := 0 } }
  (s.set F.CAD_STATUS_ALIGNED 0).stickIrq F.CAD_SRC_SRC 15

/-- This device is master: it is aligned with itself and joins nothing, and one that was not selects its own source (R38, R44,
R45). -/
def State.masterSelf (s : State) (was : Bool) : State :=
  let s := ({ s with cad := { s.cad with joining := false, joinFirst := false, joinHold := false } } : State).set F.CAD_STATUS_ALIGNED 1
  (if was then s else s.selectSource 0).adoptResumed

/-- Elect master and upstream port from the announcements in hand. A device that becomes master starts its term; one that
gets another master joins its domain, unless the election follows the loss of the domain's own master (R46, R47, R352, R358). The
bound of R45 holds for the master itself, and is not known to hold while joining (log entry 44). -/
def State.electBy (s : State) (loss : Bool) : State :=
  let (prio, m) := s.electMaster
  let self := m == s.chip
  let old := s.rein.master
  let up := if self then none else s.upstreamFor m
  let s := { s with rein := { s.rein with
    master := m, masterPrio := prio, masterHops := if self then 0 else match up with | some (_, h) => h + 1 | none => 63
    masterSince := if self && old != m then s.cad.time else s.rein.masterSince } }
  let s := (s.set F.CAD_STATUS_MASTER (b2n self)).set F.CAD_STATUS_MASTER_ID m
  let s := (List.range 12).foldl (fun s n => s.set (F.REI_P_STATUS_UPSTREAM n) (b2n (up.any (·.1 == n)))) s
  if self then s.masterSelf (old == m) else if old != m && !loss then s.joinDomain else s

/-- The election on an announcement, at command-ready and on writes of the chip ID and priority (log entry 65). -/
def State.elect (s : State) : State := s.electBy false

/-- DOMAIN_ANNOUNCE: once per millisecond each device elects a master and sends DOMAIN on every ACTIVE port (R352). -/
def State.announce (s : State) : State :=
  let s := s.elect
  (List.range 12).foldl (fun s n => s.sendVc3 n s.domMsg) s

def execDomainAnnounce (s : State) : Result := .next s.announce

/-- DOMAIN on port `n` (R352, R353). -/
def State.domainIn (s : State) (n : Nat) (m : Msg) : State :=
  let d := domFields m
  let s := s.setPort n { s.port n with dom := some d }
  let s := if d.getD 0 63 = s.chip && d.getD 1 0 != s.get64 F.REI_SERIAL_LO && s.on F.REI_ID_VALID then
      let s := s.stickIrq F.REI_DUPID_DUPID 12
      if d.getD 1 0 < s.get64 F.REI_SERIAL_LO then { s with rein := { s.rein with vc3Only := true } } else s
    else s
  s.elect

def execDomain (p : Port) (m : Msg) (s : State) : Result := .next (s.domainIn p.val m)

/-- MASTER_LOSS: the master fails or leaves; its announcements are gone, the follower runs on its holdover model and a new
master is elected, whose rack time goes on without a step (R46). No flag is set: R46 names none (log entry 80). -/
def State.masterLoss (s : State) : State :=
  let m := s.rein.master
  let s := { s with rein := { s.rein with ports := s.rein.ports.map fun (p : Nat × PortSt) =>
    (p.1, { p.2 with dom := match p.2.dom with | some d => if d.getD 5 63 == m then none else some d | none => none }) } }
  if m = s.chip then s else ((if s.get F.CAD_STATUS_SOURCE = 4 then s.enterHoldover else s).electBy true)

def execMasterLoss (s : State) : Result := .next s.masterLoss

/-! ### Time exchange (R354, R355, R47) -/

/-- This device sends time on port `n`: it is ACTIVE and not its own upstream port. -/
def State.sendsTime (s : State) (n : Nat) : Bool :=
  s.portActive n && s.on (F.REI_P_CTRL_TIME_EN n) && !(s.on (F.REI_P_STATUS_UPSTREAM n))

/-- TIME_EXCHANGE_START: TIME_SYNC at t1, and TIME_FOLLOW carrying t1. -/
def State.timeStart (s : State) (n : Nat) : State :=
  if s.sendsTime n then
    let t1 := s.cad.time
    let s := s.setPort n { s.port n with t1 := t1, spoilt := false }
    (s.sendVc3 n { msgZero with mop := 0x31 }).sendVc3 n { msgZero with mop := 0x32, extra := leBytes 8 t1 }
  else s

def execTimeExchangeStart (p : Port) (s : State) : Result := .next (s.timeStart p.val)

/-- TIME_SYNC arrives at t2. -/
def State.timeSync (s : State) (n : Nat) : State := s.setPort n { s.port n with t2 := s.cad.time, spoilt := false }

def execTimeSync (p : Port) (s : State) : Result := .next (s.timeSync p.val)

/-- TIME_FOLLOW delivers t1; TIME_DREQ leaves at t3. -/
def State.timeFollow (s : State) (n t1 : Nat) : State :=
  (s.setPort n { s.port n with t1 := t1, t3 := s.cad.time }).sendVc3 n { msgZero with mop := 0x33 }

def execTimeFollow (p : Port) (t1 : DWord) (s : State) : Result := .next (s.timeFollow p.val t1.toNat)

/-- TIME_DREQ arrives at t4, which TIME_DRESP carries back. -/
def State.timeDreq (s : State) (n : Nat) : State :=
  if s.sendsTime n then s.sendVc3 n { msgZero with mop := 0x34, extra := leBytes 8 s.cad.time } else s

def execTimeDreq (p : Port) (s : State) : Result := .next (s.timeDreq p.val)

/-- Offset of this device from its upstream peer in 1/20 ns: 20(t2 − t1) − 10((t2 − t1) + (t4 − t3)) − TASYM (R354). -/
def State.exchangeOffset (s : State) (n t4 : Nat) : Int :=
  let p := s.port n
  let down : Int := (p.t2 : Int) - p.t1
  let up : Int := (t4 : Int) - p.t3
  20 * down - 10 * (down + up) - signed 16 (s.get (F.REI_P_TASYM n))

/-- The first exchange of a joining device: within 1 µs it slews, behind it steps forward, ahead it holds (R47). -/
def State.joinBy (s : State) (delta : Int) : State :=
  let s := { s with cad := { s.cad with joinFirst := false } }
  if delta < -1000 then { s with cad := { s.cad with joinHold := true } }
  else if 1000 < delta then s.stepTime ((s.cad.time : Int) + delta).toNat
  else s.slewTo delta

/-- A follower takes rack time from the master: SOURCE reads DOMAIN (Table 2.1). -/
def State.followMaster (s : State) : State :=
  if s.get F.CAD_STATUS_SOURCE = 4 then s
  else ((s.set F.CAD_STATUS_SOURCE 4).set F.CAD_HOLD_ERR 0).set F.CAD_STATUS_HOLD_IN_SPEC 0

/-- TIME_DRESP on the upstream port: the offset is slewed away; an exchange with a replayed flit is discarded, and the follower runs on
its holdover model until the next (R354, R355). ALIGNED reads 1 within ±15 ns (R45), and not while rack time is held. -/
def State.timeDresp (s : State) (n t4 : Nat) : State :=
  let p := s.port n
  if !(s.on (F.REI_P_STATUS_UPSTREAM n)) then s.setPort n { p with spoilt := false }
  else if p.spoilt then (s.setPort n { p with spoilt := false }).holdRate
  else
    let off := s.exchangeOffset n t4
    let ns := -((off + 10) / 20)
    let s := (s.setPort n { p with doneAt := s.cad.time }).followMaster
    let s := if s.cad.joinFirst then s.joinBy ns else if s.cad.joinHold then s else s.slewTo ns
    let near := decide (off.natAbs ≤ 300) && !s.cad.joinHold
    let s := if s.on F.CAD_STATUS_ALIGNED && !near && !s.cad.joining then s.stickIrq F.CAD_ALIGN_ALIGN 15 else s
    let s := s.set F.CAD_STATUS_ALIGNED (b2n near)
    if near then { s with cad := { s.cad with joining := false } } else s

def execTimeDresp (p : Port) (t4 : DWord) (s : State) : Result := .next (s.timeDresp p.val t4.toNat)

/-- UPSTREAM_RESELECT: no exchange has completed on the upstream port for 20 ms (R355): its announcement no longer counts,
and the choice is made again. -/
def State.reselect (s : State) : State :=
  match (List.range 12).find? fun n => s.on (F.REI_P_STATUS_UPSTREAM n) with
  | some n => ((s.advance ((s.port n).doneAt + 20000000)).setPort n { s.port n with dom := none }).elect
  | none => s.elect

def execUpstreamReselect (s : State) : Result := .next s.reselect

/-! ### CONFIG (R48, R356) -/

/-- CONFIG on port `n`: a higher generation applies and is forwarded on the downstream ports; CAD_TICK takes the number of the current
tick under the values taken (R48, R49, R356). -/
def State.configIn (s : State) (n : Nat) (m : Msg) : State :=
  if s.isMaster || m.operand ≤ s.rein.gen then s
  else
    let d := m.data
    let c : Cad := { s.cad with swTick := leAt d 23 6, swPeriod := leAt d 29 4 }
    let s := { s with cad := c, rein := { s.rein with gen := m.operand } }
    let s := (s.set F.CAD_CTRL_EN (leAt d 0 1 % 2)).set F.CAD_STATUS_SWITCH_PENDING (bitsOf (leAt d 0 1) 1 1)
    let s := s.set64 F.CAD_EPOCH_LO (leAt d 1 8)
    let s := (s.set F.CAD_PERIOD (leAt d 9 4)).set F.CAD_NEXT_PERIOD (leAt d 13 4)
    let s := ((s.set F.CAD_SWITCH_TICK_LO (leAt d 17 4)).set F.CAD_SWITCH_TICK_HI (leAt d 21 2)).retick
    (List.range 12).foldl (fun s k => if k = n || s.on (F.REI_P_STATUS_UPSTREAM k) then s else s.sendVc3 k s.configMsg) s

def execConfig (p : Port) (m : Msg) (s : State) : Result := .next (s.configIn p.val m)

/-- CONFIG_SEND: the master sends CONFIG once per millisecond with its generation (R356). -/
def State.configTimer (s : State) : State :=
  if s.isMaster then (List.range 12).foldl (fun s n => s.sendVc3 n s.configMsg) s else s

def execConfigSend (s : State) : Result := .next s.configTimer

/-! ### Routing (R345) -/

/-- The fields of a routing-entry word are in their ranges: OUT a port, ALT a port or none (Table 12.7, R359). -/
def routeWordOk (w v : Nat) : Bool :=
  w != 0 || (decide (bitsOf v 16 4 < 12) && (decide (bitsOf v 20 4 < 12) || bitsOf v 20 4 == 15))

/-- The bits of a routing-entry word that hold fields; the others read zero (Table 12.7, R7). -/
def routeBits (w v : Nat) : Nat := v &&& (if w = 0 then 0x80FF3F3F else 0xFFF)

/-- A write of word `w` of entry `e` of routing table `n`: it applies to flits routed afterwards; one with a field outside its
range is discarded (R345, R359). -/
def State.routeWrite (s : State) (n e w v : Nat) : State :=
  if routeWordOk w v then (s.wr (0x281000 + 0x200 * n + 8 * e + 4 * w) (routeBits w v)).pathCheck else s.stick F.REI_CFG_CFG

def execRoutingEntryWrite (n : Fin 13) (e : Fin 64) (w : Fin 2) (v : Word) (s : State) : Result :=
  .next (if s.blockOpen then s.routeWrite n.val e.val w.val v.toNat else s)

/-- A write of REI_ID: a duplicate found before no longer holds the device to VC3 (R353). The write while a port is enabled
is refused (chapter 12 registers). -/
def State.reiIdWrite (s : State) (v : Nat) : State :=
  if (List.range 12).any fun n => s.on (F.REI_P_CTRL_EN n) then s.stick F.REI_CFG_CFG
  else (({ s with rein := { s.rein with vc3Only := false } }).set F.REI_ID_CHIP v).set F.REI_ID_VALID (v / 2 ^ F.REI_ID_VALID.lo)

end Sys2Proof.Machine
end

