-- ==== Sys2Proof/Machine/Ingest.lean ====
section
/-! DEFINITION. Site ingest (chapter 13): the ports' checks of Table 13.4, enrolment, MACsec and MKA, steering, the ingest
buffer with its pauses, landing, and the tripwire forward. Frames are bytes from the destination address to the FCS. -/
namespace Sys2Proof.Machine

/-! ### Frames -/

/-- The sum of a byte string as big-endian 16-bit words, an odd last byte being the high half (IPv4, UDP and ICMPv6
checksums). -/
def sum16 : List (BitVec 8) → Nat
  | [] => 0
  | [a] => 256 * a.toNat
  | a :: b :: t => 256 * a.toNat + b.toNat + sum16 t

/-- The `n`-byte big-endian number at byte `i` of a frame. -/
def beAt (p : List (BitVec 8)) (i n : Nat) : Nat := ofBE (slice p i n)

/-- EtherType and place of the payload of a frame, behind at most one IEEE 802.1Q tag (Table 13.1). -/
def etherType (f : List (BitVec 8)) : Nat × Nat :=
  if beAt f 12 2 = 0x8100 then (beAt f 16 2, 18) else (beAt f 12 2, 14)

/-- The IPv6 address of a port, byte 0 first (Table 13.9). -/
def State.ethV6 (s : State) (p : Nat) : List (BitVec 8) := (List.range 4).flatMap fun j => leBytes 4 (s.get (F.ETH_IP_V6 p j))

/-- The IPv4 address of a port, first byte first; it lies in the register as the IPv6 address does. -/
def State.ethV4 (s : State) (p : Nat) : List (BitVec 8) := leBytes 4 (s.get (F.ETH_IP_V4 p))

/-- The MAC address of a port, as bytes in the order sent. -/
def ethMac (p : Nat) : List (BitVec 8) := beBytes 6 (Config.mac p).toNat

/-- Source address (16 bytes, IPv4 in mapped form) and UDP payload of a frame R361 accepts on a port. -/
def State.ktdPayload (s : State) (p : Nat) (f : List (BitVec 8)) : Option (List (BitVec 8) × List (BitVec 8)) :=
  let e := etherType f
  let h := e.2
  if e.1 = 0x0800 then
    let total := beAt f (h + 2) 2
    let u := h + 20
    let len := beAt f (u + 4) 2
    let seg := slice f u len
    if bit (s.get (F.ETH_IP_EN p)) 1 && leAt f h 1 == 0x45 && bitsOf (beAt f (h + 6) 2) 0 14 == 0 && leAt f (h + 9) 1 == 17
        && slice f (h + 16) 4 == s.ethV4 p && beAt f (u + 2) 2 == s.get F.ETH_KTD_PORT
        && decide (8 ≤ len) && decide (len + 20 ≤ total) && decide (h + total ≤ f.length)
        && (beAt f (u + 6) 2 == 0 || (sum16 (slice f (h + 12) 8) + 17 + len + sum16 seg) % 65535 == 0) then
      some (List.replicate 10 0 ++ [0xFF, 0xFF] ++ slice f (h + 12) 4, seg.drop 8)
    else none
  else if e.1 = 0x86DD then
    let total := beAt f (h + 4) 2
    let u := h + 40
    let len := beAt f (u + 4) 2
    let seg := slice f u len
    if bit (s.get (F.ETH_IP_EN p)) 0 && leAt f h 1 / 16 == 6 && leAt f (h + 6) 1 == 17 && slice f (h + 24) 16 == s.ethV6 p
        && beAt f (u + 2) 2 == s.get F.ETH_KTD_PORT && decide (8 ≤ len) && decide (len ≤ total)
        && decide (u + total ≤ f.length) && beAt f (u + 6) 2 != 0
        && (sum16 (slice f (h + 8) 32) + 17 + len + sum16 seg) % 65535 == 0 then
      some (slice f (h + 8) 16, seg.drop 8)
    else none
  else none

/-! ### MACsec (R367, R368) -/

/-- The receive SCI of a channel, byte 0 of the SCI at the lowest byte of its registers. -/
def State.mscSci (s : State) (p c : Nat) : List (BitVec 8) := leBytes 8 (s.get64 (F.ETH_MSC_SCI p c 0))

/-- The key words, salt and SSCI of a channel as one byte string. -/
def State.mscKey (s : State) (p c : Nat) : List (BitVec 8) :=
  ((List.range 8).flatMap fun j => leBytes 4 (s.get (F.ETH_MSC_KEY p c j)))
    ++ ((List.range 3).flatMap fun j => leBytes 4 (s.get (F.ETH_MSC_SALT p c j))) ++ leBytes 4 (s.get (F.ETH_MSC_SSCI p c))

/-- Put a secure association in place of the one of its port, channel and association number. -/
def State.putSa (s : State) (x : MacSa) : State :=
  { s with eth := { s.eth with
      sas := s.eth.sas.filter (fun (y : MacSa) => !(y.port == x.port && y.sc == x.sc && y.an == x.an)) ++ [x] } }

/-- Packet numbers of a channel's cipher: 2^64 with XPN, else 2^32. -/
def State.pnLimit (s : State) (p c : Nat) : Nat := if s.on (F.ETH_MSC_CTRL_XPN p c) then 2 ^ 64 else 2 ^ 32

/-- The full packet number of a frame: with XPN the upper half follows the next number expected (IEEE 802.1AE). -/
def State.fullPn (s : State) (p c : Nat) (next low : Nat) : Nat :=
  if s.on (F.ETH_MSC_CTRL_XPN p c) then
    let hi := next / 2 ^ 32
    if 2 ^ 31 ≤ next % 2 ^ 32 - low ∧ low < next % 2 ^ 32 then (hi + 1) * 2 ^ 32 + low else hi * 2 ^ 32 + low
  else low

/-- The SCI of a protected frame: explicit, or the source address and port 1. -/
def frameSci (f : List (BitVec 8)) : List (BitVec 8) :=
  if bit (leAt f 14 1) 5 then slice f 20 8 else slice f 6 6 ++ [0, 1]

/-- MACsec verification of a received frame (its FCS already gone): the channel it came on, if any, and the plain frame;
none where R367 drops it. -/
def State.macsecIn (s : State) (p : Nat) (f : List (BitVec 8)) : Option (Option Nat × List (BitVec 8)) × State :=
  if beAt f 12 2 != 0x88E5 then
    (if bit (s.get F.ETH_CTRL_MSEC_REQ) p then none else some (none, f), s)
  else
    match (List.range 512).find? (fun c => s.on (F.ETH_MSC_CTRL_EN p c) && s.mscSci p c == frameSci f) with
    | none => (none, s)
    | some c =>
      match s.eth.sas.find? (fun (x : MacSa) => x.port == p && x.sc == c && x.an == bitsOf (leAt f 14 1) 0 2) with
      | none => (none, s)
      | some x =>
        let pn := s.fullPn p c x.next (beAt f 16 4)
        if pn = 0 ∨ s.pnLimit p c ≤ x.next ∨ pn + s.get (F.ETH_MSC_CTRL_WINDOW p c) < x.next
            ∨ Config.macsecValid x.key f = false then (none, s)
        else
          (some (some c, Config.macsecOpen x.key f), s.putSa ({ x with next := max x.next (pn + 1) } : MacSa))

/-- Send a frame on a port: protected under the transmit channel's association where channel 511 is enabled and holds an
installed one (Table 13.9), else as it is. -/
def State.ethSend (s : State) (p : Nat) (f : List (BitVec 8)) : State :=
  match s.eth.sas.find? (fun (x : MacSa) => x.port == p && x.sc == 511 && x.an == s.get (F.ETH_MSC_SA_AN p 511)) with
  | some x =>
    if s.on (F.ETH_MSC_CTRL_EN p 511) && decide (x.next < s.pnLimit p 511) then
      (s.putSa ({ x with next := x.next + 1 } : MacSa)).out (.ethFrame p (withFcs (Config.macsecSeal x.key x.next f)))
    else s.out (.ethFrame p (withFcs f))
  | none => s.out (.ethFrame p (withFcs f))

/-- A write of 1 to ETH_MSC_p_s.SA.INSTALL with association number `an` (R368). -/
def State.saInstall (s : State) (p c an : Nat) : State :=
  (s.set (F.ETH_MSC_SA_AN p c) an).putSa ({ port := p, sc := c, an := an % 4, key := s.mscKey p c, next := 1, mka := false } : MacSa)

/-- SA_INSTALL: T0 writes ETH_MSC_p_s.SA with INSTALL 1 (R368). -/
def execSaInstall (p : EthPort) (c : Fin 512) (an : Fin 4) (s : State) : Result := .next (if s.blockOpen then s.saInstall p.val c.val an.val else s)

/-- Distribute a fresh SAK on a channel under its next association number (R368). -/
def State.mkaSak (s : State) (p c : Nat) (cak : List (BitVec 8)) : State :=
  let an := (s.get (F.ETH_MSC_SA_AN p c) + 1) % 4
  let s := s.set (F.ETH_MSC_SA_AN p c) an
  let s := s.putSa ({ port := p, sc := c, an := an, key := Config.mkaSak cak s.eth.sakNo, next := 1, mka := true } : MacSa)
  { s with eth := { s.eth with sakNo := s.eth.sakNo + 1 } }

/-- The CAK MKA holds for a port: that of the lowest vault slot that lists it (R447). -/
def State.cakFor (s : State) (p : Nat) : Option (List (BitVec 8)) :=
  (s.sec.slots.find? (fun (x : Nat × List (BitVec 8)) => leAt x.2 0 1 == 1 && bit (leAt x.2 1 1) p)).map
    fun (x : Nat × List (BitVec 8)) => slice x.2 48 32

/-- An MKA frame reaches CF: with MKA on and a CAK, the sender's channel gets an SAK. The sender's SCI stands in the basic
parameter set (IEEE 802.1X-2020; log entry 21). -/
def State.mkaFrame (s : State) (p : Nat) (f : List (BitVec 8)) : State :=
  if bit (s.get F.ETH_CTRL_MKA) p then
    match s.cakFor p with
    | none => s
    | some cak =>
      let sci := slice f 22 8
      match (List.range 512).find? (fun c => s.on (F.ETH_MSC_CTRL_EN p c) && s.mscSci p c == sci) with
      | some c => if s.eth.sas.any (fun (x : MacSa) => x.port == p && x.sc == c && x.mka) then s else s.mkaSak p c cak
      | none =>
        match (List.range 511).find? (fun c => !(s.on (F.ETH_MSC_CTRL_EN p c))) with
        | none => s
        | some c =>
          let s := (s.set64 (F.ETH_MSC_SCI p c 0) (ofLE sci)).set (F.ETH_MSC_CTRL_EN p c) 1
          s.mkaSak p c cak
  else s

/-- MKA_FRAME: an MKA frame arrives on a port (R368). -/
def execMkaFrame (p : EthPort) (f : List (BitVec 8)) (s : State) : Result := .next (s.mkaFrame p.val f)

/-- CF rekeys an MKA channel before its packet numbers run out (R368). -/
def State.mkaRekey (s : State) (p c : Nat) : State :=
  match s.cakFor p with
  | some cak =>
    if bit (s.get F.ETH_CTRL_MKA) p && s.eth.sas.any (fun (x : MacSa) => x.port == p && x.sc == c && x.mka) then s.mkaSak p c cak
    else s
  | none => s

/-- MKA_REKEY of channel `c` of a port (R368). -/
def execMkaRekey (p : EthPort) (c : Fin 512) (s : State) : Result := .next (s.mkaRekey p.val c.val)

/-! ### Address resolution (Table 13.1) -/

/-- The answer to an ARP request for the port's IPv4 address. -/
def State.arpIn (s : State) (p : Nat) (f : List (BitVec 8)) : State :=
  let h := (etherType f).2
  if bit (s.get (F.ETH_IP_EN p)) 1 && (etherType f).1 == 0x0806 && slice f h 8 == ([0, 1, 8, 0, 6, 4, 0, 1] : List (BitVec 8))
      && slice f (h + 24) 4 == s.ethV4 p then
    s.ethSend p (slice f 6 6 ++ ethMac p ++ slice f 12 (h - 12) ++ [0, 1, 8, 0, 6, 4, 0, 2] ++ ethMac p ++ s.ethV4 p
      ++ slice f (h + 8) 10)
  else s

/-- ARP_REQUEST: an ARP request arrives on a port (R360). -/
def execArpRequest (p : EthPort) (f : List (BitVec 8)) (s : State) : Result := .next (s.arpIn p.val f)

/-- The answer to a Neighbour Solicitation for the port's IPv6 address: to its sender, or to all nodes where the sender
has no address yet (RFC 4861). -/
def State.nsIn (s : State) (p : Nat) (f : List (BitVec 8)) : State :=
  let h := (etherType f).2
  let ip := s.ethV6 p
  let src := slice f (h + 8) 16
  if bit (s.get (F.ETH_IP_EN p)) 0 && (etherType f).1 == 0x86DD && leAt f (h + 6) 1 == 58 && leAt f (h + 40) 1 == 135
      && slice f (h + 48) 16 == ip then
    let unspec := src == List.replicate 16 0
    let dst := if unspec then ([0xFF, 0x02] : List (BitVec 8)) ++ List.replicate 13 0 ++ [0x01] else src
    let mac := if unspec then ([0x33, 0x33, 0, 0, 0, 1] : List (BitVec 8)) else slice f 6 6
    let rest := (if unspec then ([0x20, 0, 0, 0] : List (BitVec 8)) else [0x60, 0, 0, 0]) ++ ip ++ [2, 1] ++ ethMac p
    let body := ([136, 0, 0, 0] : List (BitVec 8)) ++ rest
    let sum := (sum16 ip + sum16 dst + 32 + 58 + sum16 body) % 65535
    s.ethSend p (mac ++ ethMac p ++ slice f 12 (h - 12) ++ [0x60, 0, 0, 0, 0, 32, 58, 255] ++ ip ++ dst ++ [136, 0]
      ++ beBytes 2 (65535 - sum) ++ rest)
  else s

/-- NEIGHBOUR_SOLICITATION: a Neighbour Solicitation arrives on a port (R360). -/
def execNeighbourSolicitation (p : EthPort) (f : List (BitVec 8)) (s : State) : Result := .next (s.nsIn p.val f)

/-! ### Enrolment (R364) -/

def Camera.id (c : Camera) : Nat := leAt c.entry 0 4
def Camera.widx (c : Camera) : Nat := bitsOf (leAt c.entry 20 2) 0 13
def Camera.rate (c : Camera) : Nat := leAt c.entry 22 2
def Camera.burst (c : Camera) : Nat := leAt c.entry 24 1
/-- Byte 25 of an entry: VALID, ANY_ADDR, REQ_SC, TRIP_OK, PORTS. -/
def Camera.bits (c : Camera) : Nat := leAt c.entry 25 1
def Camera.sc (c : Camera) : Nat := bitsOf (leAt c.entry 26 2) 0 9

/-- The entry in ETH_CAM_DATA, with VALID as given. -/
def State.camData (s : State) (valid : Bool) : List (BitVec 8) :=
  let raw := (List.range 8).flatMap fun k => leBytes 4 (s.get (F.ETH_CAM_DATA k))
  raw.take 25 ++ leBytes 1 (putBit (leAt raw 25 1) 0 valid) ++ raw.drop 26

/-- The status word after a command of the enrolled-camera table: DONE, and DUP where it was refused. -/
def State.camDone (s : State) (dup : Bool) : State := s.set F.ETH_CAM_STATUS (4 + 2 * b2n dup)

/-- One nanotoken: buckets are held in 10⁻⁹ tokens, so that a rate per second fills one unit per ns. -/
def tokenUnit : Nat := 1000000000

/-- INSERT (R364): refused for a duplicate CAMERA_ID or WIDX and for a valid slot. -/
def State.camInsert (s : State) : State :=
  let n := s.get F.ETH_CAM_SEL
  let x : Camera := { entry := s.camData true, high := none, map := 0, level := 0, trip := 16 * tokenUnit, at_ := s.cad.time, drops := 0 }
  if (kvFind s.eth.cams n).isSome || s.eth.cams.any (fun (y : Nat × Camera) => y.2.id == x.id || y.2.widx == x.widx) then
    (s.stick F.ETH_CAMDUP_CAMDUP).camDone true
  else
    let s := { s with eth := { s.eth with cams := kvIns n ({ x with level := x.burst * tokenUnit } : Camera) s.eth.cams } }
    (s.set F.ETH_CAM_COUNT s.eth.cams.length).camDone false

/-- CAM_INSERT: T0 writes 1 to ETH_CAM_CMD (R364). -/
def execCamInsert (s : State) : Result := .next (if s.blockOpen then s.camInsert else s)

/-- DELETE (R364). -/
def State.camDelete (s : State) : State :=
  let s := { s with eth := { s.eth with cams := kvDel s.eth.cams (s.get F.ETH_CAM_SEL) } }
  (s.set F.ETH_CAM_COUNT s.eth.cams.length).camDone false

/-- CAM_DELETE: T0 writes 2 to ETH_CAM_CMD (R364). -/
def execCamDelete (s : State) : Result := .next (if s.blockOpen then s.camDelete else s)

/-- READ (R364): the selected entry and its drops; an unused slot reads as zero. -/
def State.camRead (s : State) : State :=
  let x := kvFind s.eth.cams (s.get F.ETH_CAM_SEL)
  let e := (x.map (·.entry)).getD []
  let s := (List.range 8).foldl (fun s k => s.set (F.ETH_CAM_DATA k) (leAt e (4 * k) 4)) s
  (s.set F.ETH_CAM_DROPS ((x.map (·.drops)).getD 0)).camDone false

/-- CAM_READ: T0 writes 3 to ETH_CAM_CMD (R364). -/
def execCamRead (s : State) : Result := .next (if s.blockOpen then s.camRead else s)

/-! ### Steering rules (R370, R371) -/

def State.ruleWord (s : State) (r j : Nat) : Nat := s.get (F.ETH_RULE r j)
/-- The fields of a rule as its 12 words. -/
def rlField (w : List Nat) (byte n : Nat) : Nat := leAt (w.flatMap (leBytes 4)) byte n
def rlTenant (w : List Nat) : Nat := bitsOf (rlField w 10 1) 0 4
def rlSlots (w : List Nat) : Nat := bitsOf (rlField w 10 1) 4 4

/-- A word of a rule carries no field R371 refuses. -/
def State.ruleOk (s : State) (r j v : Nat) : Bool :=
  match j with
  | 2 => bitsOf v 4 4 == 0 && decide (bitsOf v 20 4 ≤ 8) && bitsOf v 26 6 == 0
  | 4 | 9 => decide (v < spaceSize 1)
  | 5 | 10 => daSpace (v * 2 ^ 32) == 1 && s.isLocal (daChip (v * 2 ^ 32)) && daOff (v * 2 ^ 32) == 0
  | 6 => v % 64 == 0
  | 7 => v % 64 == 0 && decide (64 ≤ v) && decide (v ≤ 8960)
  | 8 => v / 256 == 0 && (s.facetOf (bitsOf (s.ruleWord r 2) 16 4) v).isSome
  | 11 => v / 2 ^ 16 == 0
  | _ => true

/-- A write of word `j` of rule `r`. PBASE is 64-byte aligned (Table 13.5). -/
def State.ruleWrite (s : State) (r j v : Nat) : State :=
  if s.ruleOk r j v && (j != 9 || v % 64 == 0) then s.set (F.ETH_RULE r j) v else s.stick F.ETH_CFG_CFG

/-- STEERING_RULE_WRITE: T0 writes word `j` of rule `r` (R371). -/
def execSteeringRuleWrite (r : Fin 256) (j : Fin 12) (v : Word) (s : State) : Result := .next (if s.blockOpen then s.ruleWrite r.val j.val v.toNat else s)

/-- The rule that applies to a datagram, and whether another matches with equal PRIO (R370). -/
def State.ruleFor (s : State) (cam feature : Nat) : Option (Nat × Bool) :=
  let m := (List.range 256).filter fun r =>
    bit (s.ruleWord r 2) 24 && decide (s.ruleWord r 0 ≤ cam) && decide (cam ≤ s.ruleWord r 1) && bit (s.ruleWord r 2) feature
  let prio := fun (r : Nat) => bitsOf (s.ruleWord r 2) 8 8
  let top := m.foldl (fun a r => max a (prio r)) 0
  match m.filter fun r => prio r == top with
  | [] => none
  | r :: rest => some (r, !rest.isEmpty)

/-! ### The tensor datagram (Table 13.2, R363) -/

def ktCamera (p : List (BitVec 8)) : Nat := leAt p 4 4
def ktSeq (p : List (BitVec 8)) : Nat := leAt p 8 4
def ktTrip (p : List (BitVec 8)) : Bool := bit (leAt p 3 1) 0
def ktLen (p : List (BitVec 8)) : Nat := leAt p 32 4

/-- R363. -/
def ktdOk (p : List (BitVec 8)) : Bool :=
  let rank := bitsOf (leAt p 21 1) 0 3
  let dt := bitsOf (leAt p 20 1) 0 4
  let sizes := (List.range rank).map fun k => leAt p (24 + 2 * k) 2
  let elems := sizes.foldl (· * ·) 1
  decide (48 ≤ p.length) && leAt p 0 2 == 0x4B54 && leAt p 2 1 / 16 == 1 && ktCamera p != 0 && decide (1 ≤ rank)
    && decide (rank ≤ 4) && sizes.all (· != 0) && decide (dt ≤ 12) && sizes.headD 0 % unitLen dt == 0
    && ktLen p == p.length - 48 && elems * elemBits dt == 8 * ktLen p && decide (ktLen p ≤ 8960)
    && leAt p 44 4 == crc32c (p.take 44 ++ p.drop 48)

/-- Binding of a datagram to its entry (R365): port, source address, secure channel. -/
def Camera.bound (c : Camera) (p : Nat) (src : List (BitVec 8)) (sc : Option Nat) : Bool :=
  bit c.bits (4 + p) && (bit c.bits 1 || src == slice c.entry 4 16) && (!(bit c.bits 2) || sc == some c.sc)

/-- The record of a stranger or a binding failure: at most 1,000 per second and port (R365). -/
def State.stranger (s : State) (p reason : Nat) (src : List (BitVec 8)) (camera : Nat) : State :=
  let s := s.stick F.ETH_STRANGER_STRANGER
  let sec := s.cad.time / 1000000000
  let n := match kvFind s.eth.strLog p with
    | some x => if x.1 = sec then x.2 else 0
    | none => 0
  if n < 1000 then
    let e := s.get F.ETH_STRLOG_HEAD
    let ws := ((List.range 4).map fun j => leAt src (4 * j) 4)
      ++ [camera, p + 16 * reason, s.cad.time % 2 ^ 32, s.cad.time / 2 ^ 32]
    let s := (List.range 8).foldl (fun s j => s.set (F.ETH_STRLOG e j) (ws.getD j 0)) s
    let s := { s with eth := { s.eth with strLog := kvIns p (sec, n + 1) s.eth.strLog } }
    s.set F.ETH_STRLOG_HEAD (e + 1)
  else s

/-- Whether a SEQ is new to a camera, and the camera with it marked (R366). Bit k of the map stands for H − k. -/
def Camera.take (c : Camera) (seq : Nat) : Option Camera :=
  match c.high with
  | none => some { c with high := some seq, map := 1 }
  | some h =>
    let d := (seq + 2 ^ 32 - h) % 2 ^ 32
    let back := (h + 2 ^ 32 - seq) % 2 ^ 32
    if 1 ≤ d ∧ d < 2 ^ 31 then some { c with high := some seq, map := if 64 ≤ d then 1 else (c.map * 2 ^ d + 1) % 2 ^ 64 }
    else if back ≤ 63 ∧ bit c.map back = false then some { c with map := putBit c.map back true }
    else none

/-- The buckets of a camera filled up to a rack time (R379, R380). -/
def Camera.fill (c : Camera) (now : Nat) : Camera :=
  { c with
    level := min (c.burst * tokenUnit) (c.level + (now - c.at_) * c.rate)
    trip := min (16 * tokenUnit) (c.trip + (now - c.at_) * 16)
    at_ := now }

/-! ### The ingest buffer (R377, R378) -/

/-- Bytes of the buffer a datagram takes: header and tensor in 256-byte cells. -/
def Datagram.cells (d : Datagram) : Nat := 256 * ceilDiv (48 + d.data.length) 256

/-- Buffer bytes of a port. -/
def State.ingestUsed (s : State) (p : Nat) : Nat :=
  ((s.eth.buffer.filter (fun (d : Datagram) => d.port == p)).map Datagram.cells).foldl (· + ·) 0

/-- A datagram of `n` bytes of a port enters whole: each port owns 8 MiB and the two share the other 48 MiB. -/
def State.ingestRoom (s : State) (p n : Nat) : Bool :=
  let own := 8388608
  let a := s.ingestUsed p + n
  let b := s.ingestUsed (1 - p)
  decide ((a - own) + (b - own) ≤ 67108864 - 2 * own)

/-- Flow control after the occupancy of a port changed: a pause above XOFF, a resume at XON or below (R378). -/
def State.pfc (s : State) (p : Nat) : State :=
  let unit := 262144
  if bit (s.get F.ETH_CTRL_PFC) p then
    if bit s.eth.paused p then
      if s.ingestUsed p ≤ unit * s.get F.ETH_PFC_XON then
        ({ s with eth := { s.eth with paused := putBit s.eth.paused p false } } : State).out (.pfc p false)
      else s
    else if unit * s.get F.ETH_PFC_XOFF < s.ingestUsed p then
      ({ s with eth := { s.eth with paused := putBit s.eth.paused p true } } : State).out (.pfc p true)
    else s
  else s

/-- Every 50 µs while occupancy stays above XON the pause is repeated. -/
def State.pfcRepeat (s : State) (p : Nat) : State :=
  if bit s.eth.paused p && bit (s.get F.ETH_CTRL_PFC) p && decide (262144 * s.get F.ETH_PFC_XON < s.ingestUsed p) then
    s.out (.pfc p true)
  else s

/-- PFC_REPEAT on a port (R378). -/
def execPfcRepeat (p : EthPort) (s : State) : Result := .next (s.pfcRepeat p.val)

/-! ### The check order (R369) -/

/-- A drop for reason `c` on a port (R369). -/
def State.ethDrop (s : State) (p c : Nat) : State := s.bump (F.ETH_DROP p c) 1

/-- Put a camera's state. -/
def State.setCam (s : State) (n : Nat) (c : Camera) : State := { s with eth := { s.eth with cams := kvIns n c s.eth.cams } }

/-- A drop for reason `c` with a matched entry. -/
def State.camDrop (s : State) (p c n : Nat) : State :=
  let s := s.ethDrop p c
  match kvFind s.eth.cams n with
  | some x => s.setCam n ({ x with drops := satAdd 0xFFFFFFFF x.drops 1 } : Camera)
  | none => s

/-- A tripwire record goes to the Loupe's queue of 64; one that finds it full is lost (R428). -/
def State.tripPut (s : State) (r : TripRec) : State :=
  if s.lpe.trips.length < 64 then { s with lpe := { s.lpe with trips := s.lpe.trips ++ [r] } }
  else s.stick F.LPE_TRIPLOST_TRIPLOST

/-- The tripwire forward (R380), subject to the entry's second bucket; it wakes the device where TRIP is enabled (R473). -/
def State.tripForward (s : State) (p n : Nat) (c : Camera) (k : List (BitVec 8)) : State :=
  if ktTrip k && bit c.bits 3 then
    if tokenUnit ≤ c.trip then
      ((s.setCam n ({ c with trip := c.trip - tokenUnit } : Camera)).tripPut
        ({ camera := ktCamera k, seq := ktSeq k, zone := leAt k 23 1, capture := leAt k 12 8, port := p, at_ := s.cad.time } : TripRec)).wake 8
    else s.stickIrq F.ETH_TRIPDROP_TRIPDROP 16
  else s

/-- Landing is stopped for ordinary datagrams: LAND_EN, power state S2 or a restart (Table 13.4, R382). -/
def State.landHalted (s : State) : Bool :=
  !(s.on F.ETH_CTRL_LAND_EN) || decide (2 ≤ s.get F.PWR_STATUS_STATE) || s.boot.phase == BootPhase.restart

/-- The place of the presence record of a window index under a rule (R372). -/
def recPlace (w : List Nat) (widx : Nat) : Nat := (daOff (rlField w 36 8) + 64 * widx) % 2 ^ 50

/-- A SEQ is ahead of another (R375). -/
def seqAhead (s last : Nat) : Bool :=
  let k := (s + 2 ^ 32 - last) % 2 ^ 32
  decide (1 ≤ k) && decide (k < 2 ^ 31)

/-- R375: the slot of a SEQ that is not ahead of LAST_SEQ has been reused. -/
def seqLate (s last slots : Nat) : Bool := !(seqAhead s last) && decide (2 ^ slots ≤ (last + 2 ^ 32 - s) % 2 ^ 32)

/-- Reasons 8 to 13 of Table 13.4 and entry into the buffer, for a datagram of camera slot `n`; one that reaches landing wakes
the device where ETH is enabled (R473). -/
def State.ktdRest (s : State) (p n : Nat) (k : List (BitVec 8)) : State :=
  match kvFind s.eth.cams n with
  | none => s
  | some c =>
    if c.level < tokenUnit then s.camDrop p 8 n
    else
      let s := s.setCam n ({ c with level := c.level - tokenUnit } : Camera)
      if s.landHalted then s.camDrop p 9 n
      else
        match s.ruleFor c.id (bitsOf (leAt k 22 1) 0 2) with
        | none => s.camDrop p 10 n
        | some (r, multi) =>
          let s := if multi then s.stick F.ETH_MULTI_MULTI else s
          let w := (List.range 12).map (s.ruleWord r)
          let code := rlField w 32 1
          let f := if code ≤ 0x0F then facetTable code
            else (s.get (F.MEM_FACET_A (rlTenant w) (code - 0x10)), s.get (F.MEM_FACET_W (rlTenant w) (code - 0x10)),
              s.get (F.MEM_FACET_Y (rlTenant w) (code - 0x10)))
          let d : Datagram := { port := p, hdr := k.take 48, data := k.drop 48, rule := w ++ [f.1, f.2.1, f.2.2], cam := n, widx := c.widx }
          if rlField w 28 4 < d.data.length then s.camDrop p 11 n
          else if seqLate (ktSeq k) (leAt (s.mem.bytes 1 (recPlace w c.widx) 64) 32 4) (rlSlots w) then s.camDrop p 12 n
          else if !(s.ingestRoom p d.cells) then (s.camDrop p 13 n).stickIrq F.ETH_BUFOVF_BUFOVF 16
          else (({ s with eth := { s.eth with buffer := s.eth.buffer ++ [d] } } : State).pfc p).wake 7

/-- Reasons 4 to 7 and the tripwire forward. -/
def State.ktdIn (s : State) (p : Nat) (sc : Option Nat) (src k : List (BitVec 8)) : State :=
  if !(ktdOk k) then s.ethDrop p 4
  else
    match s.eth.cams.find? (fun (x : Nat × Camera) => x.2.id == ktCamera k) with
    | none => (s.ethDrop p 5).stranger p 5 src (ktCamera k)
    | some (n, c) =>
      if !(c.bound p src sc) then (s.camDrop p 6 n).stranger p 6 src (ktCamera k)
      else
        match c.take (ktSeq k) with
        | none => s.camDrop p 7 n
        | some c =>
          let c := c.fill s.cad.time
          ((s.setCam n c).tripForward p n c k).ktdRest p n k

/-- The PTP message of a frame (IEEE 1588 header and Announce body; log entry 14). -/
def ptpOf (s : State) (b : List (BitVec 8)) : PtpMsg where
  kind := bitsOf (leAt b 0 1) 0 4
  twoStep := bit (leAt b 6 1) 1
  origin := beAt b 34 6 * 1000000000 + beAt b 40 4
  rx := s.cad.time
  dataset := [leAt b 47 1, leAt b 48 1, leAt b 49 1, beAt b 50 2, leAt b 52 1, beAt b 53 8, beAt b 61 2]

/-- Frames that go to a consumer of their own (R361): ARP, Neighbour Discovery, MKA, PTP over Ethernet or UDP. None where
the frame is another one. -/
def State.ethConsumer (s : State) (p : Nat) (f : List (BitVec 8)) : Option State :=
  let e := etherType f
  let h := e.2
  let udp := if e.1 = 0x0800 ∧ leAt f (h + 9) 1 = 17 then some (h + 20)
    else if e.1 = 0x86DD ∧ leAt f (h + 6) 1 = 17 then some (h + 40) else none
  if e.1 = 0x0806 then some (s.arpIn p f)
  else if e.1 = 0x86DD ∧ leAt f (h + 6) 1 = 58 ∧ 133 ≤ leAt f (h + 40) 1 ∧ leAt f (h + 40) 1 ≤ 137 then some (s.nsIn p f)
  else if e.1 = 0x888E then some (s.mkaFrame p f)
  else if e.1 = 0x88F7 then some (s.ptpIn p (ptpOf s (f.drop h)))
  else
    match udp with
    | some u => if beAt f (u + 2) 2 = 319 ∨ beAt f (u + 2) 2 = 320 then some (s.ptpIn p (ptpOf s (f.drop (u + 8)))) else none
    | none => none

/-- A port receives: it is enabled, has link, and its power state keeps it up (Table 13.7). -/
def State.ethLive (s : State) (p : Nat) : Bool :=
  bit (s.get F.ETH_CTRL_EN) p && bit s.eth.up p && decide (s.get F.PWR_STATUS_STATE ≤ 2)

/-- A frame received on a port. -/
def State.ethIn (s : State) (p : Nat) (f : List (BitVec 8)) : State :=
  if !(s.ethLive p) then s
  else if f.length < 64 || decide (s.get F.ETH_CTRL_MTU < f.length) || leAt f (f.length - 4) 4 != crc32 (f.take (f.length - 4)) then
    s.ethDrop p 1
  else
    match s.macsecIn p (f.take (f.length - 4)) with
    | (none, s) => s.ethDrop p 2
    | (some (sc, g), s) =>
      match s.ktdPayload p g with
      | some (src, k) => s.ktdIn p sc src k
      | none => (s.ethConsumer p g).getD (s.ethDrop p 3)

/-- ETH_FRAME_RECEIVE: a frame arrives on ETH0 or ETH1 (R369). -/
def execEthFrameReceive (p : EthPort) (f : List (BitVec 8)) (s : State) : Result := .next (s.ethIn p.val f)

/-! ### Landing (R372 to R376) -/

/-- The presence record, an uncorrectable word of which makes its contents free (R78). -/
def State.presence (s : State) (at_ : Nat) : List (BitVec 8) × State :=
  s.memReadFree 1 at_ 64 0x38

/-- The window test of R373: range of the tensor rounded out to facet blocks, and the presence record. -/
def State.landOk (s : State) (w : List Nat) (lo n rec' : Nat) : Bool × State :=
  let t := rlTenant w
  let b := if w.getD 12 0 + w.getD 13 0 = 0 then 1 else 2 ^ (w.getD 12 0 + w.getD 13 0)
  let a := daOff (rlField w 16 8) + lo / b * b
  let len := ceilDiv (lo + n) b * b - lo / b * b
  match s.window t (rlField w 12 2) (rlField w 14 2) with
  | none => (false, s)
  | some x =>
    if x.w && s.insideWindow x 1 a len && s.insideWindow x 1 rec' 64 then
      let r := s.bridleRange 1 t 0x38 clsINGEST true a len
      if r.1 then r.2.bridleRange 1 t 0x38 clsINGEST true rec' 64 else r
    else (false, s)

/-- Land the datagram `d` in its three steps (R375). -/
def State.land (s : State) (d : Datagram) : State :=
  let w := d.rule
  let seq := ktSeq d.hdr
  let slots := 2 ^ rlSlots w
  let j := seq % slots
  let lo := d.widx * rlField w 24 4 + j * rlField w 28 4
  let at_ := recPlace w d.widx
  match s.landOk w lo d.data.length at_ with
  | (false, s) => (s.camDrop d.port 14 d.cam).stickIrq F.ETH_WINERR_WINERR 16
  | (true, s) =>
    let p := s.presence at_
    let r := p.1
    let s := p.2
    let last := leAt r 32 4
    if seqLate seq last (rlSlots w) then s.camDrop d.port 12 d.cam
    else
      let ahead := seqAhead seq last
      let k := if ahead then (seq + 2 ^ 32 - last) % 2 ^ 32 else 1
      let present := (List.range (min k slots)).foldl (fun m i => putBit m ((seq + 2 ^ 32 - i) % slots) false) (leAt r 0 32)
      let holes := satAdd 0xFFFFFFFF (leAt r 36 4) (k - 1)
      let r1 := leBytes 32 present ++ slice r 32 4 ++ leBytes 4 holes ++ slice r 40 20 ++ leBytes 4 0
      let s := s.memWrite 1 (cellsAt at_ r1)
      let cells := (List.range d.data.length).map fun i =>
        ((daOff (rlField w 16 8) + facetXor (w.getD 12 0) (w.getD 13 0) (w.getD 14 0) (lo + i)) % 2 ^ 50, d.data.getD i 0)
      let s := s.memWrite 1 cells
      let present := putBit present j true
      let tail := if ahead then leBytes 4 seq ++ leBytes 4 holes ++ slice d.hdr 12 8 ++ leBytes 8 s.cad.time
        else slice r 32 4 ++ leBytes 4 holes ++ slice r 40 16
      let r2 := leBytes 32 present ++ tail ++ leBytes 4 (satAdd 0xFFFFFFFF (leAt r 56 4) 1) ++ leBytes 4 0
      let s := (s.memWrite 1 (cellsAt at_ r2)).bump (F.ETH_LANDED d.port) 1
      if bit (rlField w 11 1) 1 then
        if (s.poolCnt (rlTenant w) (rlField w 44 2)).isSome then s.counterOp (rlTenant w) 1 (rlField w 44 2) 1
        else s.ridx (rlField w 44 2) (rlTenant w) s.chip
      else s

/-- The landing writer takes the oldest buffered datagram of a port. It writes in S0 only (Table 13.7). -/
def State.landNext (s : State) (p : Nat) : State :=
  if s.landHalted || decide (1 ≤ s.get F.PWR_STATUS_STATE) then s
  else
    match s.eth.buffer.find? (fun (d : Datagram) => d.port == p) with
    | none => s
    | some d => (({ s with eth := { s.eth with buffer := s.eth.buffer.erase d } } : State).land d).pfc p

/-- DATAGRAM_LANDING on a port (R375). -/
def execDatagramLanding (p : EthPort) (s : State) : Result := .next (s.landNext p.val)

/-- What a safe-state restart does to the buffer: its datagrams are discarded and counted as HALTED (Table 13.7). -/
def State.ingestDiscard (s : State) : State :=
  let s := s.eth.buffer.foldl (fun (s : State) (d : Datagram) => s.camDrop d.port 9 d.cam) s
  let s := { s with eth := { s.eth with buffer := [] } }
  (s.pfc 0).pfc 1

/-- A port links up or goes down; the change is a LINK trace record (Table 16.14). -/
def State.ethLink (s : State) (p : Nat) (up : Bool) : State :=
  if bit s.eth.up p == up then s
  else ({ s with eth := { s.eth with up := putBit s.eth.up p up } } : State).trace 8 (0xE0 + p) 0 0 (leBytes 1 1 ++ leBytes 1 p ++ leBytes 1 (b2n up))

/-- ETH_LINK_CHANGE: an enabled port whose power state keeps it up links up after auto-negotiation and training, or any
port goes down (R360, Table 13.7). -/
def execEthLinkChange (p : EthPort) (up : Bool) (s : State) : Result :=
  .next (if up && !(bit (s.get F.ETH_CTRL_EN) p.val && decide (s.get F.PWR_STATUS_STATE ≤ 2)) then s else s.ethLink p.val up)

end Sys2Proof.Machine
end

