-- ==== Sys2Proof/Machine/Tenants.lean ====
section
/-! DEFINITION. Tenants, the host port and the accelerator port (chapter 14): configuration requests, host, P2P and inbound
windows, inbound accelerator requests, Bridle regions and BRD_SYNC, and the context reset in its steps. -/
namespace Sys2Proof.Machine

/-! ### Host windows, P2P windows, apertures (R392 to R395) -/

/-- Two ranges `[a, a + n)` and `[b, b + m)` of units overlap. -/
def unitsMeet (a n b m : Nat) : Bool := decide (a < b + m) && decide (b < a + n)

/-- A valid host window of the tenant has a size and overlaps no other valid one. -/
def State.hwinOk (s : State) (t k : Nat) : Bool :=
  !(s.on (F.TP_HWIN_VALID t k)) || (s.get (F.TP_HWIN_SIZE t k) != 0 && (List.range 16).all fun j =>
    j == k || !(s.on (F.TP_HWIN_VALID t j)) || !(unitsMeet (s.get (F.TP_HWIN_OFFSET t k)) (s.get (F.TP_HWIN_SIZE t k))
      (s.get (F.TP_HWIN_OFFSET t j)) (s.get (F.TP_HWIN_SIZE t j))))

/-- A write of word `j` of host window `k` of a tenant: refused where it would overlap, have no size, or name an address
that is no multiple of 4 KiB (R392, R552). -/
def State.hwinWrite (s : State) (t k j v : Nat) : State :=
  if s.ctxBusy t then s
  else
    let u := s.putRw ((F.TP_HWIN_VALID t k).addr + 4 * j) v
    if (j == 3 && v % 4096 != 0) || (j == 2 && v == 0) || !(u.hwinOk t k) then s.stick (F.TP_CFG_CFG t) else u

/-- HOST_WINDOW_WRITE: a tenant writes word `j` of its TP_HWIN_k (R392). -/
def execHostWindowWrite (t : Tenant) (k : Fin 16) (j : Fin 5) (v : Word) (s : State) : Result :=
  .next (if s.pageOpen t.val then s.hwinWrite t.val k.val j.val v.toNat else s)

/-- A valid P2P window has a size and overlaps no other valid one of its tenant in APORT space. -/
def State.p2pOk (s : State) (w : Nat) : Bool :=
  !(s.on (F.TEN_P2P_VALID w)) || (s.get (F.TEN_P2P_SIZE w) != 0 && (List.range 64).all fun x =>
    x == w || !(s.on (F.TEN_P2P_VALID x)) || s.get (F.TEN_P2P_TENANT x) != s.get (F.TEN_P2P_TENANT w)
      || !(unitsMeet (s.get (F.TEN_P2P_OFFSET w)) (s.get (F.TEN_P2P_SIZE w)) (s.get (F.TEN_P2P_OFFSET x)) (s.get (F.TEN_P2P_SIZE x))))

/-- A write of word `j` of TEN_P2P_w (R394, R409). -/
def State.p2pWrite (s : State) (w j v : Nat) : State :=
  let u := s.putRw ((F.TEN_P2P_VALID w).addr + 4 * j) v
  if (j == 3 && v % 4096 != 0) || (j == 2 && v == 0) || (j == 0 && decide (3 < bitsOf v 5 3)) || !(u.p2pOk w) then
    s.stick F.TEN_CFG_CFG
  else u

/-- P2P_WINDOW_WRITE: T0 writes word `j` of TEN_P2P_w (R394). -/
def execP2pWindowWrite (w : Fin 64) (j : Fin 5) (v : Word) (s : State) : Result := .next (if s.blockOpen then s.p2pWrite w.val j.val v.toNat else s)

/-- First byte and length of an aperture's PCIe range. -/
def State.apinRange (s : State) (i : Nat) : Nat × Nat := (s.get64 (F.TEN_APIN_PBASE i 0), 4096 * s.get (F.TEN_APIN_SIZE i))

/-- A valid aperture has the size its kind asks for and overlaps no other valid one of its link. -/
def State.apinOk (s : State) (i : Nat) : Bool :=
  !(s.on (F.TEN_APIN_VALID i)) || ((if s.on (F.TEN_APIN_KIND i) then s.get (F.TEN_APIN_SIZE i) == 64 else s.get (F.TEN_APIN_SIZE i) != 0)
    && (List.range 64).all fun x => x == i || !(s.on (F.TEN_APIN_VALID x)) || s.get (F.TEN_APIN_LINK x) != s.get (F.TEN_APIN_LINK i)
      || !(unitsMeet (s.apinRange i).1 (s.apinRange i).2 (s.apinRange x).1 (s.apinRange x).2))

/-- A write of word `j` of TEN_APIN_i (R395, R409): the address and the target are multiples of 4 KiB, the target local
SRAM or HBM. -/
def State.apinWrite (s : State) (i j v : Nat) : State :=
  let u := s.putRw ((F.TEN_APIN_VALID i).addr + 4 * j) v
  let bad := match j with
    | 0 => decide (3 < bitsOf v 4 3)
    | 1 | 4 => v % 4096 != 0
    | 5 => !(daSpace (v * 2 ^ 32) == 1 || daSpace (v * 2 ^ 32) == 2) || !(s.isLocal (daChip (v * 2 ^ 32)))
    | _ => false
  if bad || !(u.apinOk i) then s.stick F.TEN_CFG_CFG else u

/-- APERTURE_WRITE: T0 writes word `j` of TEN_APIN_i (R395). -/
def execApertureWrite (i : Fin 64) (j : Fin 7) (v : Word) (s : State) : Result := .next (if s.blockOpen then s.apinWrite i.val j.val v.toNat else s)

/-! ### Inbound accelerator requests (R395, R396) -/

/-- The device refuses an inbound AP request: a read completes with Completer Abort (R395). -/
def State.apDeny (s : State) (l i cause addr : Nat) (read : Bool) : State :=
  let s := s.stick F.TEN_APDENY_APDENY
  let s := ((s.set F.TEN_APDENY_INFO_LINK l).set F.TEN_APDENY_INFO_APERTURE i).set F.TEN_APDENY_INFO_CAUSE cause
  if read then s.out (.completerAbort (l + 1) addr) else s

/-- A counter access through a COUNTER aperture at page offset `off` (Table 10.6): value written, or read. -/
def State.apCounterWrite (s : State) (t off v : Nat) : State :=
  let i := off % 65536 / 4
  if off / 65536 = 1 then s.counterWrite t 3 i v
  else if off / 65536 = 2 then s.counterWrite t 1 i v
  else if off / 65536 = 3 then s.counterWrite t 2 i v
  else
    match s.poolCnt t i with
    | some n =>
      -- W1C of OVF, UNF, STALE with their counts (R21)
      let st := (List.range 3).foldl (fun st k => if bit v (24 + k) then putBits (putBit st (24 + k) false) (8 * k) 8 0 else st) (s.cntSt n)
      s.setCntSt n st
    | none => s.stick F.GLB_ERR_ACCESS

/-- The word a read at a page offset of the counter range gives: values, zero for the WO registers, flags. -/
def State.apCounterRead (s : State) (t off : Nat) : Nat :=
  match s.poolCnt t (off % 65536 / 4) with
  | some n => if off / 65536 = 1 then s.cntVal n else if off / 65536 = 4 then s.cntSt n else 0
  | none => 0

/-- Write 32-bit words to counters from page offset `off`; those of a tenant in a context reset are held (R407). -/
def State.apCounterWords (s : State) (t off : Nat) (data : List (BitVec 8)) : State :=
  (List.range (data.length / 4)).foldl (fun s k =>
    let v := leAt data (4 * k) 4
    if s.ctxBusy t then { s with pcie := { s.pcie with heldCnt := s.pcie.heldCnt ++ [(t, off + 4 * k, v)] } }
    else s.apCounterWrite t (off + 4 * k) v) s

/-- An inbound request on AP link `l`: a write of `data`, or a read of `n` bytes when `read`. -/
def State.apRequest (s : State) (l addr n : Nat) (read : Bool) (data : List (BitVec 8)) (poisoned secure : Bool) : State :=
  let n := if read then n else data.length
  if bit (s.get F.TEN_AP_IDE_REQ) l && !secure then s.stick F.TEN_IDEDROP_IDEDROP
  else if poisoned && !read then (s.stick F.TEN_POISON_POISON).out (.poisonedTlp (l + 1))
  else if s.boot.phase == BootPhase.restart then (if read then s.out (.completerAbort (l + 1) addr) else s)
  else
    -- in endpoint mode the link's BAR0 bounds what reaches an aperture (R393)
    let inBar := s.on F.TEN_AP_MODE || decide (addr + n ≤ 2 ^ s.get F.TEN_AP_BAR0_SIZE)
    let hit := (List.range 64).find? fun i => inBar && s.on (F.TEN_APIN_VALID i) && s.get (F.TEN_APIN_LINK i) == l
      && decide ((s.apinRange i).1 ≤ addr) && decide (addr + n ≤ (s.apinRange i).1 + (s.apinRange i).2)
    match hit with
    | none => s.apDeny l 0 0 addr read
    | some i =>
      let t := s.get (F.TEN_APIN_TENANT i)
      let o := addr - (s.apinRange i).1
      let right := if read then s.on (F.TEN_APIN_R i) else s.on (F.TEN_APIN_W i)
      if s.on (F.TEN_APIN_KIND i) then
        if o % 4 != 0 || n % 4 != 0 then
          -- a narrow or misaligned register access (R6)
          let s := s.stick F.GLB_ERR_ACCESS
          if read then s.out (.readCompletion (l + 1) addr (List.replicate n 0) false) else s
        else if read then
          s.out (.readCompletion (l + 1) addr ((List.range (n / 4)).flatMap fun k => leBytes 4 (s.apCounterRead t (0x10000 + o + 4 * k))) false)
        else s.apCounterWords t (0x10000 + o) data
      else if !right then s.apDeny l i 1 addr read
      else
        let da := s.get64 (F.TEN_APIN_TARGET i 0)
        let sp := daSpace da
        match s.window t (s.get (F.TEN_APIN_WIN i)) (s.get (F.TEN_APIN_GEN i)) with
        | none => s.apDeny l i 2 addr read
        | some w =>
          if !(s.insideWindow w sp (daOff da + o) n) then s.apDeny l i 1 addr read
          else
            match s.bridleRange sp t (0x31 + l) clsAPORT (!read) (daOff da + o) n with
            | (false, s) => s.apDeny l i 3 addr read
            | (true, s) =>
              if read then
                match s.memRead sp (daOff da + o) n (256 * t + 0x31 + l) 0 0 with
                | (some b, s) => s.out (.readCompletion (l + 1) addr b false)
                | (none, s) => s.out (.readCompletion (l + 1) addr (s.mem.bytes sp (daOff da + o) n) true)
              else s.memWrite sp (cellsAt (daOff da + o) data)

/-- AP_INBOUND_REQUEST: an accelerator's request arrives on link `l`, in a Secure IDE stream or not (R395). Links take
requests while they are up, and the AP is up in S0 to S2 (Table 17.1); a request wakes the device (R473). -/
def execApInboundRequest (l : ApLink) (addr : DWord) (n : Fin 4097) (read : Bool) (data : List (BitVec 8)) (poisoned secure : Bool)
    (s : State) : Result :=
  .next (if s.on (F.TEN_APL_UP l.val) && decide (s.get F.PWR_STATUS_STATE ≤ 2) then
    (s.wake 2).apRequest l.val addr.toNat n.val read data poisoned secure else s)

/-! ### The BAR2 aperture -/

/-- A memory request on the HP wakes the device from S1 and S2 and abandons an entry (R471, R473); the registers of BAR0 are
no memory (DEDUCED, log entry 89). -/
def State.bar2Wake (s : State) : State := if s.pcie.hpUp then s.wake 1 else s

/-- BAR2_READ: a host read of up to 4 KiB through BAR2, in a Secure IDE stream or not (R75, R79, R93, R389). -/
def execBar2Read (off : BitVec 30) (n : Fin 4097) (secure : Bool) (s : State) : Result :=
  .next (s.bar2Wake.bar2Read off.toNat n.val secure)

/-- BAR2_WRITE: a host write through BAR2; its TLP may be poisoned, and lies in a Secure IDE stream or not (R75, R93,
R387, R389). -/
def execBar2Write (off : BitVec 30) (data : List (BitVec 8)) (poisoned secure : Bool) (s : State) : Result :=
  .next (s.bar2Wake.bar2Write off.toNat data poisoned secure)

/-! ### The AP links and the configuration mailbox (R393) -/

/-- Lanes of each link of a bifurcation. -/
def apLanes (mode : Nat) : Nat := if mode = 0 then 16 else if mode = 1 then 8 else 4

/-- A write of TEN_AP: MODE and BIF only while no link is enabled (R393); BIF 3 and sizes outside 30 to 36 are refused
(R409). -/
def State.apWrite (s : State) (v : Nat) : State :=
  let change := bitsOf v 0 1 != s.get F.TEN_AP_MODE || bitsOf v 1 2 != s.get F.TEN_AP_BIF
  let size := bitsOf v 16 7
  if (change && s.get F.TEN_AP_EN != 0) || bitsOf v 1 2 == 3 || decide (size < 30) || decide (36 < size) then s.stick F.TEN_CFG_CFG
  else s.putRw F.TEN_AP_MODE.addr v

/-- An AP link trains up, at a speed code and width, or goes down. -/
def State.apLink (s : State) (l speed width : Nat) (up : Bool) : State :=
  let ok := bit (s.get F.TEN_AP_EN) l && decide (l < s.apLinks) && decide (s.get F.PWR_STATUS_STATE ≤ 2)
    && decide (1 ≤ speed) && decide (speed ≤ 6) && decide (1 ≤ width) && decide (width ≤ apLanes (s.get F.TEN_AP_BIF))
  if up && !ok then s
  else
    let was := s.on (F.TEN_APL_UP l)
    let s := ((s.set (F.TEN_APL_SPEED l) (if up then speed else 0)).set (F.TEN_APL_WIDTH l) (if up then width else 0)).set
      (F.TEN_APL_UP l) (b2n up)
    let s := if up then s else { s with pcie := { s.pcie with ideAp := putBit s.pcie.ideAp l false, ideSel := s.pcie.ideSel.filter fun (x : Nat × Nat) => x.1 != l + 1 } }
    if was == up then s else s.trace 0x08 (0xE0 + l) 0 0 (leBytes 1 3 ++ leBytes 1 l ++ leBytes 1 (b2n up))

/-- AP_LINK_CHANGE (R393). -/
def execApLinkChange (l : ApLink) (speed : Fin 7) (width : Fin 17) (up : Bool) (s : State) : Result :=
  .next (s.apLink l.val speed.val width.val up)

/-- A write of TEN_APCFG with GO (log entry 23): word 0 holds the register in bits 11:0, the function in 14:12, the device in
19:15, the bus in 27:20 and the link in 29:28; word 1 the data; word 2 GO in bit 0 and the direction (1 write) in bit 1;
word 3 DONE in bit 0 and the status (0 done, 1 failed) in bits 2:1. `answer` is what the hierarchy returns, if anything. -/
def State.apConfig (s : State) (w2 : Nat) (answer : Option Word) : State :=
  if bit w2 0 then
    let a := s.get (F.TEN_APCFG 0)
    let l := bitsOf a 28 2
    let wr := bit w2 1
    let s := s.set (F.TEN_APCFG 2) (putBit w2 0 false)
    if s.on F.TEN_AP_MODE && bit (s.get F.TEN_AP_EN) l && decide (l < s.apLinks) then
      let s := s.out (.apConfig l (bitsOf a 0 28) wr (s.get (F.TEN_APCFG 1)))
      match answer with
      | some v => (if wr then s else s.set (F.TEN_APCFG 1) v.toNat).set (F.TEN_APCFG 3) 1
      | none => s.set (F.TEN_APCFG 3) 3
    else s.set (F.TEN_APCFG 3) 3
  else s.set (F.TEN_APCFG 2) w2

/-- APCFG_MAILBOX: T0 writes the command word of TEN_APCFG (R393). -/
def execApcfgMailbox (w2 : Word) (answer : Option Word) (s : State) : Result := .next (if s.blockOpen then s.apConfig w2.toNat answer else s)

/-! ### Bridle (R401, R403) -/

/-- A write of word `j` of a region: refused where it leaves a VALID region with LIMIT below BASE (R409); one that is not in use may
be written in any word order (DEDUCED, log entry 40). -/
def State.brdWrite (s : State) (f r j v : Nat) : State :=
  let u := s.set (F.BRD_REG f r j) (if j = 3 then v % 65536 + v / 2 ^ 31 * 2 ^ 31 else v)
  if bit (u.get (F.BRD_REG f r 3)) 31 && decide (u.get (F.BRD_REG f r 1) < u.get (F.BRD_REG f r 0)) then s.stick F.BRD_CFG_CFG else u

/-- BRD_REGION_WRITE: T0 writes word `j` of region `r` of firewall `f` (R403). -/
def execBrdRegionWrite (f : Fin 3) (r : Fin 256) (j : Fin 4) (v : Word) (s : State) : Result :=
  .next (if s.blockOpen then s.brdWrite f.val r.val j.val v.toNat else s)

/-- A write of 1 to BRD_SYNC: every decoded command that has not completed is tracked (R403). -/
def State.brdSync (s : State) : State :=
  let ids := (s.cmds.filter fun (c : Cmd) => !c.isEnded).map (·.id)
  (({ s with pcie := { s.pcie with brdSync := some ids } } : State)).set F.BRD_SYNC 1

/-- BRD_SYNC (R403). -/
def execBrdSync (s : State) : Result := .next (if s.blockOpen then s.brdSync else s)

/-- Every tracked command has completed: BRD_SYNC clears. -/
def State.brdSyncEnd (s : State) : State :=
  match s.pcie.brdSync with
  | some ids =>
    if ids.all fun i => (s.cmd? i).all Cmd.isEnded then
      (({ s with pcie := { s.pcie with brdSync := none } } : State)).set F.BRD_SYNC 0
    else s
  | none => s

/-- BRD_SYNC_COMPLETE (R403); a write of 1 to BRD_SYNC in the same cycle leaves the bit at 1, and tracks anew (R12). -/
def execBrdSyncComplete (same : Bool) (s : State) : Result :=
  let s' := s.brdSyncEnd
  .next (if same && s.blockOpen then s'.brdSync else s')

/-! ### Context reset (R405 to R408, R308, R329) -/

/-- A command leaves without a record. -/
def State.dropCmd (s : State) (c : Cmd) : State :=
  let x := s.queueSt c.tenant c.queue
  let s := { s with cmds := s.cmds.filter (·.id != c.id), cf := s.cf.filter (· != c.id) }
  if x.order.contains c.id then s.setQueue { x with order := x.order.filter (· != c.id) } else s

/-- A command stopped by a reset with status `st`: its outgoing messages that have not left are dropped, data on its way back
is discarded, its locked sequence is broken (R278); its record is written in its turn, or it leaves without one. A node
sets no flags (R329). -/
def State.abortCmd (s : State) (c : Cmd) (st : Nat) (rec' : Bool) : State :=
  let s := (s.dropWaiting c.id).dropReads c.id
  let s := if c.phase == .ended then s else s.breakSeqOf c st
  match s.cmd? c.id with
  | none => s
  | some c =>
    if rec' then
      match c.node with
      | none => s.fail c.id st
      | some _ =>
        let s := if c.chan != 0 && !c.gated && c.phase != .ended then (s.sendSummary c st).2 else s
        let c := if c.phase == .ended || c.phase == .held && c.status != 0 then c
          else ({ c with phase := .ended, status := st, result := 0, warn := putBit c.warn wBYTES_LB true } : Cmd)
        s.writeRecord c
    else
      let s := if c.chan != 0 && !c.gated && c.phase != .ended then (s.sendSummary c st).2 else s
      s.dropCmd c

/-- A tenant's graphs go: nodes of released launches that have no record get one with `st` when records are written, then
every graph is unloaded and every flag cleared (R329). -/
def State.dropGraphs (s : State) (t st : Nat) (rec' : Bool) : State :=
  let s := (s.graphs.filter (fun (g : Graph) => g.tenant == t)).foldl (fun (s : State) (g : Graph) =>
    match g.launch with
    | some l =>
      if l.released.isSome && rec' then
        (List.range g.nodes.length).foldl (fun (s : State) i =>
          match s.nodeAt t (g.first + i) with
          | some n =>
            if n.st == .armed || n.st == .ready || n.st == .heldReady then
              let c := s.nodeCmd g l i n
              ({ s with nextId := s.nextId + 1 } : State).writeRecord
                ({ c with unit := 4, status := st, warn := 2 ^ wBYTES_LB, phase := .ended } : Cmd)
            else s
          | none => s) s
      else s
    | none => s) s
  let s := { s with graphs := s.graphs.filter (fun (g : Graph) => g.tenant != t) }
  { s with sync := { s.sync with flags := s.sync.flags.filter (fun (x : Nat × Nat) => x.1 / 16 != t) } }

/-- Every command of a tenant is stopped with `st`, in each queue's order, nodes after the queues' commands. -/
def State.abortTenant (s : State) (t st : Nat) (rec' : Bool) : State :=
  let s := (List.range 8).foldl (fun (s : State) q =>
    (s.queueSt t q).order.foldl (fun (s : State) id =>
      match s.cmd? id with
      | some c => s.abortCmd c st rec'
      | none => s) s) s
  let s := (s.cmds.filter (fun (c : Cmd) => c.tenant == t)).foldl (fun (s : State) (c : Cmd) =>
    match s.cmd? c.id with
    | some c => s.abortCmd c st rec'
    | none => s) s
  s.dropGraphs t st rec'

/-- The CQ of a tenant takes ABORT_CTX records: enabled and not halted (R406). -/
def State.cqTakes (s : State) (t : Nat) : Bool := s.on (F.TP_CQ_CTRL_EN t) && !(s.on (F.TP_CQ_STATUS_HALT t))

/-- A context reset of a tenant starts: kind 0 by T0, 1 by FLR, 2 by VF disable or a host reset. A second trigger joins the
one in progress; during a safe-state restart it waits (R405, R515). -/
def State.ctxReset (s : State) (t kind : Nat) : State :=
  if s.ctxBusy t then s
  else if s.boot.phase == BootPhase.restart then
    if s.pcie.ctxLater.any (fun (x : Nat × Nat) => x.1 == t) then s
    else { s with pcie := { s.pcie with ctxLater := s.pcie.ctxLater ++ [(t, kind)] } }
  else
    let wipe := kind != 1 && bit (s.get F.TEN_CTXRST_OPT_WIPE) t
    let s := { s with pcie := { s.pcie with ctxRst := s.pcie.ctxRst ++ [(t, wipe)] } }
    let s := (s.set F.TEN_CTXRST (putBit (s.get F.TEN_CTXRST) t true)).set (F.TP_CTX_BUSY t) 1
    let s := s.closeSession.trace 0x07 0x40 t 0 (leBytes 1 2 ++ leBytes 1 t)
    s.abortTenant t stABORT_CTX (kind == 0 && s.cqTakes t)

/-- CONTEXT_RESET: T0 writes 1 to bit t of TEN_CTXRST (R406). -/
def execContextReset (t : Tenant) (s : State) : Result := .next (if s.blockOpen then s.ctxReset t.val 0 else s)

/-- The drain of step 3 is over: no VC1 message of the tenant is unacknowledged or waits to leave. -/
def State.ctxDrained (s : State) (t : Nat) : Bool :=
  s.rein.tx.all fun (p : Nat × TxPair) => (p.2.sent ++ p.2.waiting).all fun (x : TxMsg) => x.msg.tenant != t

/-- Objects of a tenant's ranges return to their reset state; locks that were held are marked BROKEN (R308 steps 3 to 5). -/
def State.clearSync (s : State) (t : Nat) : State :=
  let own := fun (k n : Nat) => inPart k (s.get (partBase k t)) (s.get (partCount k t)) n
  let s := { s with sync := { s.sync with
    cnt := s.sync.cnt.filter (fun (x : Nat × Nat) => !(own 0 x.1))
    cst := s.sync.cst.filter (fun (x : Nat × Nat) => !(own 0 x.1))
    bars := s.sync.bars.filter (fun (x : Nat × Bar) => !(own 1 x.1)) } }
  (s.sync.locks.filter (fun (x : Nat × Lock) => own 2 x.1)).foldl (fun (s : State) (x : Nat × Lock) =>
    s.setLock x.1 { lockZero with broken := x.2.broken || x.2.held, reaped := x.2.reaped }) s

/-- A tenant's descriptors are destroyed, each slot's generation advancing (R406). -/
def State.clearDescs (s : State) (t : Nat) : State :=
  { s with descs := s.descs.map fun (p : Nat × DescSlot) =>
      match p.2.desc with
      | some (o, _) => if o = t then (p.1, (⟨min 0xFFFF (p.2.gen + 1), none⟩ : DescSlot)) else p
      | none => p }

/-- A tenant's plan partition is emptied, and plans in computation for it write no entry (R147). -/
def State.clearPlans (s : State) (t : Nat) : State :=
  { s with
    plans := s.plans.filter (fun (p : PlanEntry) => p.tenant != t)
    planJobs := s.planJobs.map fun (j : PlanJob) => if j.tenant = t then ({ j with stale := true } : PlanJob) else j }

/-- First address of a tenant's page in BAR0 of PF0 (R150). -/
def pageOf (t : Nat) : Nat := 0x1000000 + 0x100000 * t

/-- A tenant's own registers return to their reset values: queues, CQ, interrupts, host windows, formats, summary flags
(R406 step 4). -/
def State.clearPage (s : State) (t : Nat) : State :=
  let s := { s with regs := s.regs.filter fun (x : Nat × BitVec 32) => !(decide (pageOf t ≤ x.1) && decide (x.1 < pageOf t + 0x100000)) }
  { s with
    queues := s.queues.filter (fun (x : QueueSt) => x.tenant != t)
    tenants := s.tenants.filter (fun (x : TenantSt) => x.tenant != t)
    lockSeqs := s.lockSeqs.filter (fun (x : LockSeq) => x.tenant != t)
    streams := s.streams.map fun (x : Nat × StreamSt) =>
      let b := 64 * s.get (F.ENG_SPART_BASE t)
      let n := 64 * s.get (F.ENG_SPART_COUNT t)
      if (b ≤ x.1 ∧ x.1 < b + n) ∨ (4096 + 8 * t ≤ x.1 ∧ x.1 < 4104 + 8 * t) then (x.1, (⟨0, false⟩ : StreamSt)) else x
    pcie := { s.pcie with pendingVec := s.pcie.pendingVec.filter (fun (x : Nat × Nat) => x.1 != t || decide (8 ≤ x.2)) } }

/-- Zeros over every window the tenant owns (R406 step 5). -/
def State.wipeTenant (s : State) (t : Nat) : State :=
  s.wins.foldl (fun (s : State) (x : Nat × WinSlot) =>
    match x.2.win with
    | some w =>
      if w.owner = t then
        let m := s.mem.zeroRange w.space w.base w.size
        { s with mem := if w.space = 2 then
            let out := fun (line : Nat) => decide (4096 * line + 4096 ≤ w.base) || decide (w.base + w.size ≤ 4096 * line)
            { m with wc := m.wc.filter (fun (l : WcLine) => out l.line), wcBad := m.wcBad.filter (fun (x : Nat × Nat) => out x.1) }
            else m }
      else s
    | none => s) s

/-- Step 4 of a context reset: what it clears of the tenant. -/
def State.ctxClear (s : State) (t : Nat) : State :=
  ((((s.clearSync t).clearPlans t).clearDescs t).clearPage t)

/-- Operations held while the objects were cleared apply now (R308, R407). -/
def State.ctxApplyHeld (s : State) (t : Nat) : State :=
  let ms := s.rein.held.filter (fun (m : Msg) => m.tenant == t)
  let s := { s with rein := { s.rein with held := s.rein.held.filter (fun (m : Msg) => m.tenant != t) } }
  let s := ms.foldl (fun (s : State) (m : Msg) => if m.mop = 0x03 then s.lockReq m else s.vc1Effect 0 m) s
  let cs := s.pcie.heldCnt.filter (fun (x : Nat × Nat × Nat) => x.1 == t)
  let s := { s with pcie := { s.pcie with heldCnt := s.pcie.heldCnt.filter (fun (x : Nat × Nat × Nat) => x.1 != t) } }
  cs.foldl (fun (s : State) (x : Nat × Nat × Nat) => s.apCounterWrite t x.2.1 x.2.2) s

/-- Configuration Request Retry Status ends: the link is up, the device runs and no context reset is in progress (R390). -/
def State.crsSettle (s : State) : State :=
  if s.pcie.hpUp && s.pcie.ctxRst.isEmpty && (s.boot.phase == BootPhase.run || s.boot.phase == BootPhase.recovery) then
    { s with pcie := { s.pcie with crs := false } }
  else s

/-- A change of the vault: VAULT_SEQ advances and a new copy is written (R450). -/
def State.vaultPut (s : State) (x : Sec) : State := ({ s with sec := x } : State).set (F.SEC_MC 4 0) ((s.get (F.SEC_MC 4 0) + 1) % 2 ^ 32)

/-- Erase every key of R449: vault slots, LP key, SAKs, IDE keys, session secrets, credentials. -/
def State.eraseKeys (s : State) : State :=
  let s := s.vaultPut { s.sec with slots := [], creds := [], lpKey := none, sessions := [] }
  let s := { s with
    eth := { s.eth with sas := [] }
    pcie := { s.pcie with ideHp := false, ideAp := 0, ideSel := [] }
    regs := s.regs.filter fun (x : Nat × BitVec 32) =>
      !(decide ((F.ETH_MSC_SCI 0 0 0).addr ≤ x.1) && decide (x.1 < 0x2F0000) && decide (0x10 ≤ x.1 % 0x40) && decide (x.1 % 0x40 < 0x30))
        && !(decide ((F.LPE_LP_KEY 0).addr ≤ x.1) && decide (x.1 ≤ (F.LPE_LP_KEY 7).addr)) }
  s

/-- Once every context reset of a D2 unlock or a decommissioning has ended, the keys are erased (R456, R460). -/
def State.wipeStart (s : State) : State :=
  if (s.sec.unlock.isSome || s.sec.decom) && s.pcie.ctxRst.isEmpty then s.eraseKeys else s

/-- Steps 4 to 6 of a context reset in progress. -/
def State.ctxFinish (s : State) (t : Nat) : State :=
  match s.pcie.ctxRst.find? (fun (x : Nat × Bool) => x.1 == t) with
  | none => s
  | some x =>
    let s := s.ctxClear t
    let s := if x.2 then s.wipeTenant t else s
    let s := { s with pcie := { s.pcie with
      ctxRst := s.pcie.ctxRst.filter (fun (y : Nat × Bool) => y.1 != t), flr := s.pcie.flr.filter (· != t) } }
    let s := (s.set F.TEN_CTXRST (putBit (s.get F.TEN_CTXRST) t false)).set (F.TP_CTX_BUSY t) 0
    (s.ctxApplyHeld t).wipeStart.crsSettle

/-- The end of a tenant's context reset, once its drain is over (R406). -/
def State.ctxComplete (s : State) (t : Nat) : State := if s.ctxBusy t && s.ctxDrained t then s.ctxFinish t else s

/-- CONTEXT_RESET_COMPLETE of a tenant; a write of 1 to its bit of TEN_CTXRST in the same cycle leaves the bit at 1, and starts
another reset (R12). -/
def execContextResetComplete (t : Tenant) (same : Bool) (s : State) : Result :=
  let s' := s.ctxComplete t.val
  .next (if same && s.blockOpen then s'.ctxReset t.val 0 else s')

/-! ### Functions of the host port (R384, R390, R391, R405) -/

/-- A function's configuration registers return to their reset values; Bus Master Enable of PF0 to the value TEN_ACTIVE's
Reset column shows. -/
def State.cfgClear (s : State) (f : Nat) : State :=
  { s with pcie := { s.pcie with
      cfgRegs := s.pcie.cfgRegs.filter (fun (x : Nat × Nat × Nat) => x.1 != f)
      bme := putBit s.pcie.bme f (f == 0)
      masked := s.pcie.masked.filter (fun (x : Nat × Nat) => x.1 != f)
      ats := s.pcie.ats.filter (fun (x : Nat × Nat) => x.1 != f)
      atsRefused := s.pcie.atsRefused.filter (fun (x : Nat × Nat × Bool) => x.1 != f) } }

/-- VF Enable is cleared: T1 to T15 are reset (R405). -/
def State.vfClear (s : State) (kind : Nat) : State :=
  let s := { s with pcie := { s.pcie with vfEnable := false } }
  (List.range 15).foldl (fun (s : State) k => (s.cfgClear (k + 1)).ctxReset (k + 1) kind) s

/-- VF_ENABLE_CLEAR (R405). -/
def execVfEnableClear (s : State) : Result := .next (s.vfClear 2)

/-- An FLR of a function; that of PF0 clears VF Enable and resets every tenant. -/
def State.flr (s : State) (f : Nat) : State :=
  if !(s.fnPresent f) then s
  else
    let s := (s.cfgClear f)
    let s := { s with pcie := { s.pcie with flr := s.pcie.flr ++ [f] } }
    let s := s.ctxReset f 1
    if f = 0 then s.vfClear 1 else s

/-- FLR of function `f` (R405). -/
def execFlr (f : Tenant) (s : State) : Result := .next (s.flr f.val)

/-- A host reset (R390): cause 0 PERST_N, 1 hot reset, 2 loss of the HP link. -/
def State.hostReset (s : State) (cause : Nat) : State :=
  let x : Pcie := { s.pcie with
    hpUp := false, hpWidth := 0, hpSpeed := 0, perst := (cause == 0 || s.pcie.perst), crs := true, vfEnable := false, numVfs := 0, ideHp := false, ideSel := s.pcie.ideSel.filter (fun (x : Nat × Nat) => x.1 != 0), pmeOff := false }
  let s := { s with pcie := x }
  let s := (List.range 16).foldl (fun (s : State) f => s.cfgClear f) s
  let s := s.trace 0x07 0x40 0 0 (leBytes 1 3)
  let s := s.trace 0x08 0xE0 0 0 (leBytes 1 2 ++ leBytes 1 0 ++ leBytes 1 0)
  let s := s.fault 6 0x22 0xE0 0 0 0 0 0 []
  (List.range 16).foldl (fun (s : State) t => s.ctxReset t 2) s

/-- HOST_RESET by PERST_N (0), a hot reset (1) or loss of the HP link (2) (R390). -/
def execHostReset (cause : Fin 3) (s : State) : Result := .next (s.hostReset cause.val)

/-- PERST_N deasserts after assertion: WAKE_N is released, the link begins training and the device wakes (R390, R473). -/
def State.perstRelease (s : State) : State :=
  let was := s.pcie.perst
  let s := { s with pcie := { s.pcie with perst := false, wakeN := false } }
  if was then s.wake 6 else s

def execPerstNDeassert (s : State) : Result := .next s.perstRelease

/-- The HP link finishes training at a speed (a code of Table 14.6) with a number of lanes (R390, R55). -/
def State.hpUp (s : State) (speed width : Nat) : State :=
  if s.pcie.perst || s.boot.porLow || decide (4 ≤ s.get F.PWR_STATUS_STATE) then s
  else
    let s := if s.pcie.hpUp then s else s.trace 0x08 0xE0 0 0 (leBytes 1 2 ++ leBytes 1 0 ++ leBytes 1 1)
    ({ s with pcie := { s.pcie with hpUp := true, hpWidth := width, hpSpeed := speed } } : State).crsSettle

/-- HP_LINK_UP (R390); the HP does not train while POR_N is low (R537). -/
def execHpLinkUp (speed : Fin 7) (width : Fin 17) (s : State) : Result := .next (s.hpUp speed.val width.val)

/-- A function's Bus Master Enable is cleared (R391). -/
def State.bmeClear (s : State) (f : Nat) : State := { s with pcie := { s.pcie with bme := putBit s.pcie.bme f false } }

/-- BUS_MASTER_ENABLE_CLEAR of function `f` (R391). -/
def execBusMasterEnableClear (f : Tenant) (s : State) : Result := .next (s.bmeClear f.val)

/-- A function's messages held pending go through the rule of messages again (R181, R391). -/
def State.sendPending (s : State) (f : Nat) : State :=
  let go := s.pcie.pendingVec.filter fun (x : Nat × Nat) => x.1 == f && !(s.pcie.masked.contains x)
  let s := { s with pcie := { s.pcie with pendingVec := s.pcie.pendingVec.filter (fun (x : Nat × Nat) => !(go.contains x)) } }
  go.foldl (fun (s : State) (x : Nat × Nat) => s.msix x.1 x.2) s

/-- Bus Master Enable is set: messages held pending are sent (R391). -/
def State.bmeSet (s : State) (f : Nat) : State :=
  ({ s with pcie := { s.pcie with bme := putBit s.pcie.bme f true } } : State).sendPending f

/-- Function Mask of a function's MSI-X capability: every vector is masked, or none, and then messages held pending are sent
(R181, log entry 22). -/
def State.fnMask (s : State) (f : Nat) (mask : Bool) : State :=
  let rest := s.pcie.masked.filter fun (x : Nat × Nat) => x.1 != f
  if mask then { s with pcie := { s.pcie with masked := rest ++ (List.range 64).map fun v => (f, v) } }
  else
    let s := { s with pcie := { s.pcie with masked := rest } }
    if bit s.pcie.bme f then s.sendPending f else s

/-- What a configuration register of a function reads as: identity and class of R384, Bus Master Enable, SR-IOV state, else
what the host last wrote (log entry 22). -/
def State.cfgValue (s : State) (f reg : Nat) : Nat :=
  let kept := s.cfgKept f reg
  if reg = 0 then putBits kept 16 16 (if f = 0 then 0x4180 else 0x4181)
  else if reg = 1 then putBit kept 2 (bit s.pcie.bme f)
  else if reg = 2 then putBits kept 8 24 0x120000
  else if f = 0 ∧ reg = Config.sriovCap + 2 then putBit kept 0 s.pcie.vfEnable
  else if f = 0 ∧ reg = Config.sriovCap + 4 then putBits kept 0 16 s.pcie.numVfs
  else if f = 0 ∧ reg = Config.sriovCap + 3 then 0x000F000F
  else if f = 0 ∧ reg = Config.sriovCap + 5 then 0x00010001
  else kept

/-- A configuration write: Bus Master Enable, Initiate FLR (Device Control bit 15), Function Mask (bit 30 of the MSI-X
capability's first word), VF Enable and NumVFs act; other registers hold what is written. -/
def State.cfgWrite (s : State) (f reg v : Nat) : State :=
  let s := { s with pcie := { s.pcie with
    cfgRegs := s.pcie.cfgRegs.filter (fun (x : Nat × Nat × Nat) => !(x.1 == f && x.2.1 == reg)) ++ [(f, reg, v)] } }
  if reg = 1 then (if bit v 2 then (if bit s.pcie.bme f then s else s.bmeSet f) else s.bmeClear f)
  else if reg = Config.pcieCap + 2 ∧ bit v 15 then s.flr f
  else if reg = Config.msixCap then s.fnMask f (bit v 30)
  else if f = 0 ∧ reg = Config.sriovCap + 2 then
    if bit v 0 then { s with pcie := { s.pcie with vfEnable := true } } else if s.pcie.vfEnable then s.vfClear 2 else s
  else if f = 0 ∧ reg = Config.sriovCap + 4 ∧ s.pcie.vfEnable = false then
    { s with pcie := { s.pcie with numVfs := min 15 (v % 65536) } }
  else s

/-- A configuration request: `w` is the value of a write. While the link is down nothing arrives; before command-ready and
while a host reset's context resets run it gets Configuration Request Retry Status (R390, R488). An absent function
answers Unsupported Request, which the host reads as all ones. -/
def State.cfgRequest (s : State) (f reg : Nat) (w : Option Word) : State :=
  if !s.pcie.hpUp then s
  else if s.pcie.crs then s.out (.cfgAnswer f reg 0 true)
  else if !(s.fnPresent f) then s.out (.cfgAnswer f reg 0xFFFFFFFF false)
  else
    match w with
    | none => s.out (.cfgAnswer f reg (s.cfgValue f reg) false)
    | some v => (s.cfgWrite f reg v.toNat).out (.cfgAnswer f reg 0 false)

/-- CONFIG_REQUEST to function `f`, register `reg` (R390). -/
def execConfigRequest (f : Tenant) (reg : Fin 1024) (w : Option Word) (s : State) : Result :=
  .next (s.cfgRequest f.val reg.val w)

/-- An ATS Invalidate of a page of a function: its translation goes, and the answer follows every TLP that used it; `r` and `w`
say which accesses the host will allow when it translates the page again (R388). -/
def State.atsInvalidate (s : State) (f page : Nat) (r w : Bool) : State :=
  let rest := s.pcie.atsRefused.filter fun (x : Nat × Nat × Bool) => !(x.1 == f && x.2.1 == page)
  let no := (if r then [] else [(f, page, false)]) ++ (if w then [] else [(f, page, true)])
  ({ s with pcie := { s.pcie with ats := s.pcie.ats.filter (· != (f, page)), atsRefused := rest ++ no } } : State).out (.atsDone f)

/-- ATS_INVALIDATE (R388). -/
def execAtsInvalidate (f : Tenant) (page : BitVec 52) (r w : Bool) (s : State) : Result :=
  .next (s.atsInvalidate f.val page.toNat r w)

/-- PME_Turn_Off is answered with PME_TO_Ack in any state (R472). -/
def State.pmeTurnOff (s : State) : State := ({ s with pcie := { s.pcie with pmeOff := true } } : State).out .pmeToAck

/-- PME_TURN_OFF (R472). -/
def execPmeTurnOff (s : State) : Result := .next s.pmeTurnOff

end Sys2Proof.Machine
end

