-- ==== Sys2Proof/Machine/Security.lean ====
section
/-! DEFINITION. Security, debug and trace (chapter 16): the key mailbox, credentials, lifecycle, debug levels, the TAP,
SPDM and attestation evidence. -/
namespace Sys2Proof.Machine

/-! ### The key mailbox (R447) -/

/-- The security unit reads `n` bytes of the mailbox buffer: HOST space of T0, or a T0 window with R permission. The answer
is the bytes, or the status of a failed check or read; `fails` says that the host does not serve the read. -/
def State.kmbRead (s : State) (n : Nat) (fails : Bool) : Except Nat (List (BitVec 8)) × State :=
  let da := s.get64 (F.SEC_KMB_BUF 0)
  let sp := daSpace da
  if sp = 4 then
    match s.areaCheck 0 da 0xFFFF 0 n false with
    | (some st, s) => (.error st, s)
    | (none, s) => s.areaRead 0 0 da n fails
  else if !(sp == 1 || sp == 2) || !(s.isLocal (daChip da)) then (.error stREJ_BOUNDS, s)
  else
    match s.window 0 (s.get F.SEC_KMB_WIN_ID) (s.get F.SEC_KMB_WIN_GEN) with
    | none => (.error stREJ_HANDLE, s)
    | some w =>
      if !w.r then (.error stREJ_PERM, s)
      else if !(s.insideWindow w sp (daOff da) n) then (.error stREJ_BOUNDS, s)
      else if sp = 2 && !(s.on F.MEM_STATUS_HBM_READY) then (.error stREJ_BUSY, s)
      else
        match s.memRead sp (daOff da) n 0x54 0 0 with
        | (some l, s) => (.ok l, s)
        | (none, s) => (.error stFAULT_ECC, s)

/-- After reading a buffer that holds a secret, the security unit overwrites it with zeros. -/
def State.kmbZero (s : State) (n : Nat) : State :=
  let da := s.get64 (F.SEC_KMB_BUF 0)
  if daSpace da = 4 then
    (List.range n).foldl (fun (s : State) k =>
      match s.extAddr 0 4 (daOff da + k) with
      | some (sp, a) => s.extWrite sp a [0]
      | none => s) s
  else s.memWrite (daSpace da) (cellsAt (daOff da) (List.replicate n 0))

/-- A command of the mailbox ends with a status code. -/
def State.kmbEnd (s : State) (code : Nat) : State := (s.set F.SEC_KMB_STATUS_BUSY 0).set F.SEC_KMB_STATUS_CODE code

/-- Run a mailbox command `f` that takes no buffer, unless one is running (R447). -/
def State.kmb (s : State) (f : State → Nat × State) : State :=
  if s.on F.SEC_KMB_STATUS_BUSY then s.stick F.SEC_CFG_CFG
  else
    let (code, s) := f s
    s.kmbEnd code

/-- Run a mailbox command `f` on its buffer of `n` bytes; `secret` buffers are overwritten. -/
def State.kmbBuf (s : State) (n : Nat) (secret fails : Bool) (f : State → List (BitVec 8) → Nat × State) : State :=
  s.kmb fun s =>
    match s.kmbRead n fails with
    | (.error st, s) => (st, s)
    | (.ok b, s) => f (if secret then s.kmbZero n else s) b

/-- Every byte of a range of a buffer is zero. -/
def zeros (b : List (BitVec 8)) (i n : Nat) : Bool := (slice b i n).all (· == 0)

/-- A SEC trace record (Table 16.14). -/
def State.secTrace (s : State) (k slot arg : Nat) : State :=
  s.trace 0x0A 0xA0 0 0 (leBytes 1 k ++ leBytes 1 slot ++ leBytes 2 0 ++ leBytes 4 arg)

/-- The lifecycle state is DECOMMISSIONED. -/
def State.dead (s : State) : Bool := s.get F.SEC_LC_STATE == 3

/-- The effect of KEY_INSTALL into vault slot `slot`. -/
def State.keyInstall (s : State) (slot : Nat) (b : List (BitVec 8)) : Nat × State :=
  if leAt b 0 1 != 1 || decide (3 < leAt b 1 1) || !(zeros b 2 14) then (stREJ_FORMAT, s)
  else if (kvFind s.sec.slots slot).isSome then (stREJ_BUSY, s)
  else (stDONE, (s.vaultPut { s.sec with slots := kvIns slot b s.sec.slots }).secTrace 2 slot 0)

/-- KEY_INSTALL: T0 writes command 1 to SEC_KMB_CMD (R447). -/
def execKeyInstall (slot : Fin 32) (fails : Bool) (s : State) : Result :=
  .next (if !s.blockOpen then s else if s.dead then s.kmb (fun s => (stREJ_PERM, s)) else s.kmbBuf 80 true fails fun s b => s.keyInstall slot.val b)

/-- The effect of KEY_ERASE: MKA on the slot's ports no longer finds the key. -/
def State.keyErase (s : State) (slot : Nat) : State :=
  if (kvFind s.sec.slots slot).isSome then
    (s.vaultPut { s.sec with slots := kvDel s.sec.slots slot }).secTrace 2 slot 0
  else s

/-- KEY_ERASE: command 2 (R447). -/
def execKeyErase (slot : Fin 32) (s : State) : Result := .next (if s.blockOpen then s.kmb fun s => (stDONE, s.keyErase slot.val) else s)

/-- The LP key in its eight registers. -/
def State.putLpKey (s : State) (b : List (BitVec 8)) : State :=
  (List.range 8).foldl (fun (s : State) j => s.set (F.LPE_LP_KEY j) (leAt b (4 * j) 4)) s

/-- LP_KEY: command 3 (R447). -/
def execLpKey (fails : Bool) (s : State) : Result :=
  .next (if !s.blockOpen then s else s.kmbBuf 32 true fails fun s b =>
    (stDONE, ((s.vaultPut { s.sec with lpKey := some b }).putLpKey b).secTrace 2 0 0))

/-! ### Tenant credentials (R451 to R453, R71) -/

/-- The validity of R71 of a credential: offline age and holdover bound together stay within its days. -/
def State.credTime (s : State) (c : List (BitVec 8)) : Bool :=
  let off := s.get F.CAD_OFFLINE
  decide (900000000000 * (off - leAt c 12 4) + s.get F.CAD_HOLD_ERR ≤ 86400000000000 * leAt c 16 1)

/-- A tenant has a valid credential: its time, and an epoch no lower than CRED_EPOCH. One that has lapsed stays so until another is
installed, also where the holdover bound shrinks again (R71, Table 2.7). -/
def State.credValid (s : State) (t : Nat) : Bool :=
  match kvFind s.sec.creds t with
  | some c => s.credTime c && decide (s.get (F.SEC_MC 5 0) ≤ leAt c 20 4) && !(bit s.sec.lapsed t)
  | none => false

/-- The checks of CRED_INSTALL in the order of R451. -/
def State.credCheck (s : State) (c : List (BitVec 8)) : Nat :=
  let t := leAt c 3 1
  if leAt c 0 2 != 0x4352 || leAt c 2 1 != 1 || !(zeros c 17 3) || !(zeros c 24 40) || t == 0 || decide (15 < t)
      || leAt c 16 1 == 0 || decide (28 < leAt c 16 1) then stREJ_FORMAT
  else if leAt c 4 8 != s.get64 F.REI_SERIAL_LO || decide (s.get F.CAD_OFFLINE < leAt c 12 4) || !(s.credTime c) then stREJ_BOUNDS
  else if s.sec.siteHash != some (Config.sha384 (slice c 64 96)) || !(Config.ecdsaVerify (slice c 64 96) (slice c 0 160) (slice c 160 96))
      || decide (leAt c 20 4 < s.get (F.SEC_MC 5 0)) then stREJ_PERM
  else stDONE

/-- The effect of CRED_INSTALL: an accepted credential replaces the tenant's, and a CMQ_STOP bit a lapse has set is
cleared (R451, R452). -/
def State.credInstall (s : State) (c : List (BitVec 8)) : Nat × State :=
  let st := s.credCheck c
  if st != stDONE then (st, s)
  else
    let t := leAt c 3 1
    let s := (s.vaultPut { s.sec with creds := kvIns t c s.sec.creds }).secTrace 3 t 0
    let s := if bit s.sec.lapsed t then
        { s.set F.CMQ_STOP (putBit (s.get F.CMQ_STOP) t false) with sec := { s.sec with lapsed := putBit s.sec.lapsed t false } }
      else s
    (stDONE, s)

/-- CRED_INSTALL: command 4 (R451). -/
def execCredInstall (fails : Bool) (s : State) : Result :=
  .next (if !s.blockOpen then s else if s.dead then s.kmb (fun s => (stREJ_PERM, s)) else s.kmbBuf 256 false fails fun s c => s.credInstall c)

/-- Evaluate one tenant's credential (R452): a lapse stops its fetching, sets CREDEXP and leaves a SEC record. -/
def State.credEval (s : State) (t : Nat) : State :=
  if t != 0 && (kvFind s.sec.creds t).isSome && !(s.credValid t) && !(bit s.sec.lapsed t) then
    let s := { s.set F.CMQ_STOP (putBit (s.get F.CMQ_STOP) t true) with sec := { s.sec with lapsed := putBit s.sec.lapsed t true } }
    (s.stickIrq F.SEC_CREDEXP_CREDEXP 14).secTrace 4 t 0
  else s

/-- Evaluate every installed credential while CRED_REQ is 1. -/
def State.credEvalAll (s : State) : State :=
  if s.on F.SEC_CTRL_CRED_REQ then (List.range 16).foldl (fun (s : State) t => s.credEval t) s else s

/-- CREDENTIAL_EVALUATE, once per second (R452). -/
def execCredentialEvaluate (s : State) : Result := .next s.credEvalAll

/-- CRED_REVOKE: command 5 with the new epoch in ARG (R453); a lower value changes nothing (R442). -/
def execCredRevoke (arg : BitVec 16) (s : State) : Result :=
  .next (if !s.blockOpen then s else s.kmb fun s => (stDONE, (s.set (F.SEC_MC 5 0) (max (s.get (F.SEC_MC 5 0)) arg.toNat)).credEvalAll))

/-! ### Authority keys, lifecycle, SVN (R443, R447, R454 to R456) -/

/-- The effect of AUTH_SET: a fuse is blown once, in BLANK or PROVISIONED. -/
def State.authSet (s : State) (arg : Nat) (b : List (BitVec 8)) : Nat × State :=
  let h := Config.sha384 b
  if arg = 0 && s.sec.siteHash.isNone then (stDONE, { s with sec := { s.sec with siteHash := some h } })
  else if arg = 1 && s.sec.dbgHash.isNone then (stDONE, { s with sec := { s.sec with dbgHash := some h } })
  else (stREJ_PERM, s)

/-- AUTH_SET: command 6 with ARG 0 site or 1 debug; other values are outside its range. -/
def execAuthSet (arg : BitVec 16) (fails : Bool) (s : State) : Result :=
  .next (if !s.blockOpen then s else if 1 < arg.toNat then s.kmb (fun s => (stREJ_FORMAT, s))
    else if 2 ≤ s.get F.SEC_LC_STATE then s.kmb (fun s => (stREJ_PERM, s))
    else s.kmbBuf 96 false fails fun s b => s.authSet arg.toNat b)

/-- The lifecycle state becomes `l`. -/
def State.lifecycle (s : State) (l : Nat) : State := (s.set F.SEC_LC_STATE l).secTrace 5 0 l

/-- LC_ADVANCE to DECOMMISSIONED begins: every tenant's context is reset (R456 step 1). -/
def State.decomStart (s : State) : State :=
  let s := { s with sec := { s.sec with decom := true } }
  let s := s.set F.SEC_KMB_STATUS_BUSY 1
  (List.range 16).foldl (fun (s : State) t => s.ctxReset t 0) s

/-- LC_ADVANCE to target `arg` (R454). -/
def State.lcAdvance (s : State) (arg : Nat) : State :=
  let l := s.get F.SEC_LC_STATE
  if s.on F.SEC_KMB_STATUS_BUSY then s.stick F.SEC_CFG_CFG
  else if arg = 1 && l == 0 && s.sec.siteHash.isSome then (s.lifecycle 1).kmbEnd stDONE
  else if arg = 2 && l == 1 && s.sec.dbgHash.isSome then (s.lifecycle 2).kmbEnd stDONE
  else if arg = 3 && (l == 1 || l == 2) then s.decomStart
  else s.kmbEnd stREJ_PERM

/-- LC_ADVANCE: command 7 (R454 to R456). -/
def execLcAdvance (arg : BitVec 16) (s : State) : Result := .next (if s.blockOpen then s.lcAdvance arg.toNat else s)

/-- SRAM, staging buffers and HBM hold zeros; what stands in the reserved region is lost with it: trace, node store,
descriptor store, plans, and unless `keepCf` the CF data region with the window table, the holdover model and the fault
records (R456, R460, Table 3.3). -/
def State.wipeMemory (s : State) (keepCf : Bool) : State :=
  let m := if keepCf then (s.mem.zeroRange 1 0 0x7E00000).zeroRange 1 0x8000000 0x38000000 else s.mem.zeroRange 1 0 0x40000000
  let m := (m.zeroRange 2 0 (spaceSize 2)).zeroRange 3 0 (spaceSize 3)
  let s := { s with
    mem := { m with wc := [], fills := [], wcBad := [] }
    descs := s.descs.map fun (p : Nat × DescSlot) => (p.1, ({ p.2 with desc := none } : DescSlot))
    plans := [], graphs := [] }
  let s := if keepCf then s else
    { s with wins := [], descs := [], cad := { s.cad with model := [] }, errs := { s.errs with flog := [] } }
  let s := { s with errs := { s.errs with traceLost := 0 } }
  ((s.set F.TRC_WPTR 0).set F.TRC_RPTR 0).set F.TRC_WRAPS 0

/-- DECOMMISSION_COMPLETE: the wipe ends, UDS_KILL and the LIFECYCLE fuse are blown (R456). -/
def State.decomEnd (s : State) : State :=
  if s.sec.decom && s.pcie.ctxRst.isEmpty then
    let s := (s.eraseKeys).wipeMemory false
    let s := { s with sec := { s.sec with decom := false, udsKill := true } }
    (s.lifecycle 3).kmbEnd stDONE
  else s

def execDecommissionComplete (s : State) : Result := .next s.decomEnd

/-- SVN_ADVANCE: the counters rise to the running images' SVNs, and the key revocations the running CF manifest lists are
blown, but for its own key (R443). A counter never falls (R442). -/
def State.svnAdvance (s : State) : State :=
  let cf := s.boot.cf
  let s := s.set (F.SEC_MC 2 0) (max (s.get (F.SEC_MC 2 0)) (leAt cf 8 4))
  let s := if s.boot.lf.isEmpty then s else s.set (F.SEC_MC 3 0) (max (s.get (F.SEC_MC 3 0)) (leAt s.boot.lf 8 4))
  let r := putBit (leAt cf 24 1 % 16) (leAt cf 3 1) false % 16
  ({ s with sec := { s.sec with revoke := s.sec.revoke ||| r } } : State).secTrace 6 0 (s.get (F.SEC_MC 2 0))

/-- SVN_ADVANCE: command 9. -/
def execSvnAdvance (s : State) : Result := .next (if s.blockOpen then s.kmb fun s => (stDONE, s.svnAdvance) else s)

/-! ### Debug levels (R457 to R461) -/

/-- A DEBUG trace record (Table 16.14). -/
def State.debugTrace (s : State) (k old new : Nat) : State :=
  s.trace 0x09 0xA0 0 0 (leBytes 1 k ++ leBytes 1 old ++ leBytes 1 new)

/-- A new debug challenge is drawn (R459). -/
def State.newChal (s : State) : State :=
  (List.range 4).foldl (fun (s : State) j => (s.set64 (F.SEC_DBG_CHAL (2 * j)) s.freeVal.toNat).draw) s

/-- The 32 bytes of SEC_DBG_CHAL. -/
def State.chal (s : State) : List (BitVec 8) := (List.range 8).flatMap fun j => leBytes 4 (s.get (F.SEC_DBG_CHAL j))

/-- The debug session ends: ATTACHED clears. -/
def State.detach (s : State) : State :=
  if s.on F.SEC_DBG_ATTACHED then
    (s.set F.SEC_DBG_ATTACHED 0).debugTrace 3 (s.get F.SEC_DBG_LEVEL) (s.get F.SEC_DBG_LEVEL)
  else s

/-- SEC_DBG.LEVEL becomes `l`, with a DEBUG record; below D2 no debugger holds the access port. -/
def State.setLevel (s : State) (l : Nat) : State :=
  let old := s.get F.SEC_DBG_LEVEL
  if l = old then s
  else
    let s := if l < 2 then s.detach else s
    (s.set F.SEC_DBG_LEVEL l).debugTrace 1 old l

/-- The level rises to `l`: to D2 the Loupe is disarmed, and in DEPLOYED the wipe of R460 begins. -/
def State.raiseLevel (s : State) (l : Nat) : State :=
  if l = 2 then
    let s := (s.set F.LPE_CTRL_SAFE_EN 0).lpeUpdate
    if s.get F.SEC_LC_STATE = 2 then
      if s.sec.unlock.isSome then s
      else
        let s := { s with sec := { s.sec with unlock := some (s.get F.SEC_DBG_LEVEL) } }
        (List.range 16).foldl (fun (s : State) t => s.ctxReset t 0) (s.set F.ETH_CTRL_LAND_EN 0)
    else s.setLevel 2
  else s.setLevel l

/-- A debug token is acceptable (R459). -/
def State.tokenOk (s : State) (b : List (BitVec 8)) : Bool :=
  leAt b 0 2 == 0x4454 && leAt b 2 1 == 1 && (leAt b 3 1 == 1 || leAt b 3 1 == 2) && leAt b 4 8 == s.get64 F.REI_SERIAL_LO
    && decide (s.get (F.SEC_MC 6 0) < leAt b 12 4) && decide (s.get F.CAD_OFFLINE ≤ leAt b 16 4)
    && slice b 32 32 == s.chal && s.sec.dbgHash == some (Config.sha384 (slice b 64 96))
    && Config.ecdsaVerify (slice b 64 96) (slice b 0 160) (slice b 160 96)

/-- A token is presented: accepted or refused, a new challenge follows. -/
def State.token (s : State) (b : List (BitVec 8)) : Nat × State :=
  if s.tokenOk b then
    let s := (s.set (F.SEC_MC 6 0) (leAt b 12 4)).newChal
    (stDONE, if s.get F.SEC_DBG_LEVEL < leAt b 3 1 then s.raiseLevel (leAt b 3 1) else s)
  else
    let l := s.get F.SEC_DBG_LEVEL
    (stREJ_PERM, ((s.newChal).stickIrq F.SEC_DBGREF_DBGREF 14).debugTrace 4 l (leAt b 3 1))

/-- DBG_TOKEN through the JTAG port with the token's 256 bytes, or as command 8 of the mailbox (R459). -/
def execDbgToken (jtag : Option (List Byte)) (fails : Bool) (s : State) : Result :=
  .next (match jtag with
    | some b => ({ s with sec := { s.sec with tap := 7 } } : State).token b |>.2
    | none => if !s.blockOpen then s else s.kmbBuf 256 false fails fun s b => s.token b)

/-- D2_UNLOCK_COMPLETE: the wipe of a D2 unlock ends; LEVEL becomes 2 and the DEBUG record is the first trace record
(R460). -/
def State.unlockEnd (s : State) : State :=
  match s.sec.unlock with
  | none => s
  | some old =>
    if s.pcie.ctxRst.isEmpty then
      let s := (s.eraseKeys).wipeMemory true
      let s := { s with sec := { s.sec with unlock := none } }
      (s.set F.SEC_DBG_LEVEL 2).debugTrace 1 old 2
    else s

def execD2UnlockComplete (s : State) : Result := .next s.unlockEnd

/-- A write of `v` to the word SEC_DBG, by JTAG or by T0 (R458). Any party lowers the level. Raising it is JTAG's in BLANK
and DECOMMISSIONED, and T0's up to 1 in PROVISIONED and DEPLOYED. -/
def State.levelWrite (s : State) (v : Nat) (jtag : Bool) : State :=
  let l := v % 4
  let lc := s.get F.SEC_LC_STATE
  let now := s.get F.SEC_DBG_LEVEL
  let free := lc == 0 || lc == 3
  let may := l ≤ now || (jtag && free) || (!jtag && !free && l ≤ 1)
  if l = 3 || !may then (if jtag then s else s.stick F.SEC_CFG_CFG)
  else
    let s := s.set F.SEC_DBG_DBG_PWR_OVERRIDE (bitsOf v 3 1)
    if l ≤ now then s.setLevel l else s.raiseLevel l

/-- DEBUG_LEVEL_WRITE (R458). -/
def execDebugLevelWrite (v : Word) (jtag : Bool) (s : State) : Result :=
  .next (if jtag || s.blockOpen then s.levelWrite v.toNat jtag else s)

/-! ### The TAP (R457, R544) -/

/-- The TAP's instruction in force becomes `i`. -/
def State.tapTo (s : State) (i : Nat) : State := { s with sec := { s.sec with tap := i } }

/-- DBG_CHAL: the challenge in force is shifted out (R459). -/
def execDbgChal (s : State) : Result := .next ((s.tapTo 6).out (.jtag s.chal))

/-- IDCODE. -/
def execIdcode (s : State) : Result := .next ((s.tapTo 0).out (.jtag (leBytes 4 Config.idcode.toNat)))

/-- BYPASS. -/
def execBypass (s : State) : Result := .next (s.tapTo 1)

/-- SAMPLE/PRELOAD: the pins are sampled and shifted out, a free value each time; the data shifted in is the boundary
register. -/
def execSamplePreload (data : List Bool) (s : State) : Result :=
  .next (({ s.tapTo 2 with sec := { s.sec with tap := 2, boundary := data } } : State).out (.jtag (leBytes 8 s.freeVal.toNat))).draw

/-- The conditions in which EXTEST, CLAMP and HIGHZ are available (Table 16.10). -/
def State.boundaryOpen (s : State) : Bool :=
  s.get F.SEC_LC_STATE == 0 || s.get F.SEC_LC_STATE == 3 || s.get F.SEC_DBG_LEVEL == 2

/-- EXTEST drives the outputs from the boundary register where available, else acts as BYPASS. -/
def execExtest (s : State) : Result := .next (s.tapTo (if s.boundaryOpen then 3 else 1))

/-- CLAMP holds the outputs at the boundary register where available, else acts as BYPASS. -/
def execClamp (s : State) : Result := .next (s.tapTo (if s.boundaryOpen then 4 else 1))

/-- HIGHZ floats the outputs where available, else acts as BYPASS. -/
def execHighz (s : State) : Result := .next (s.tapTo (if s.boundaryOpen then 5 else 1))

/-- TRST_N low resets the TAP to Test-Logic-Reset, in which IDCODE is in force (R544; IEEE 1149.1). -/
def execTrstNAssert (s : State) : Result := .next (s.tapTo 0)

/-- DBG_TRACE at D1 and above reads record `i` of the trace buffer; below D1 nothing is read. In S2 and S3 trace reads
return zero (Table 16.11). -/
def State.traceRead (s : State) (i : Nat) : List (BitVec 8) × State :=
  if s.get F.PWR_STATUS_STATE = 2 || s.get F.PWR_STATUS_STATE = 3 then (List.replicate 32 0, s)
  else s.memReadFree 1 (0x5000000 + 32 * i) 32 0x52

/-- DBG_TRACE: read record `i`, or with `reg` the TRC register word `i` from the block's first. -/
def execDbgTrace (reg : Bool) (i : Fin 131072) (s : State) : Result :=
  .next (if s.get F.SEC_DBG_LEVEL = 0 then s.tapTo 1
    else if reg then (s.tapTo 8).out (.jtag (leBytes 4 ((s.word (F.TRC_CTRL_EN.addr + 4 * (i.val % 0x400))).getD 0)))
    else ((s.tapTo 8).traceRead i.val).2.out (.jtag ((s.tapTo 8).traceRead i.val).1))

/-- A debugger opens the D2 access port (R457). -/
def State.attach (s : State) : State :=
  if s.get F.SEC_DBG_LEVEL = 2 && !(s.on F.SEC_DBG_ATTACHED) then (s.set F.SEC_DBG_ATTACHED 1).debugTrace 2 2 2 else s

/-- DEBUGGER_ATTACH. -/
def execDebuggerAttach (s : State) : Result := .next s.attach

/-- DEBUGGER_DETACH. -/
def execDebuggerDetach (s : State) : Result := .next s.detach

/-! ### The trace unit's register (R465) -/

/-- The fourth TRC_USER word is written: a USER record with the four words. -/
def State.trcUser (s : State) (v : Nat) : State :=
  let s := s.set (F.TRC_USER 3) v
  s.trace 0x0C 0x60 0 0 ((List.range 4).flatMap fun j => leBytes 4 (s.get (F.TRC_USER j)))

/-- TRC_USER: T0 writes the fourth word. -/
def execTrcUser (v : Word) (s : State) : Result := .next (if s.blockOpen then s.trcUser v.toNat else s)

/-! ### SPDM and attestation (R444 to R446) -/

/-- An SPDM ERROR with its code and data (SPDM 1.2). -/
def State.spdmError (s : State) (code data : Nat) : State :=
  s.out (.spdm (leBytes 1 0x12 ++ leBytes 1 0x7F ++ leBytes 1 code ++ leBytes 1 data))

/-- An SPDM answer to request `c`. -/
def State.spdmReply (s : State) (c : Nat) (req : List (BitVec 8)) : State :=
  s.out (.spdm (leBytes 1 (if c = 0x84 then 0x10 else 0x12) ++ leBytes 1 (c - 0x80) ++ leBytes 2 0 ++ Config.spdmAnswer c req))

/-- The session an SPDM message names, with whether it is established. -/
def State.spdmSession (s : State) (n : Option Nat) : Option (Nat × Bool) :=
  match n with
  | some k => s.sec.sessions.find? fun (x : Nat × Bool) => x.1 == k
  | none => none

/-- Open, establish or close a session. -/
def State.setSession (s : State) (k : Nat) (x : Option Bool) : State :=
  let l := s.sec.sessions.filter fun (y : Nat × Bool) => y.1 != k
  { s with sec := { s.sec with sessions := match x with | some b => l ++ [(k, b)] | none => l } }

/-- IDE_KM in a session: K_SET_GO makes a stream of a port Secure, K_SET_STOP ends it; port 0 is the HP with up to 8 selective
streams, port l + 1 AP link l with up to 4 (R385, R393). Byte 0 of the request is the object ID, byte 1 the port, byte 2 the stream,
0 for the link stream (log entry 38). -/
def State.ideKm (s : State) (req : List (BitVec 8)) : State :=
  let p := leAt req 1 1
  let go := leAt req 0 1
  let n := leAt req 2 1
  if go = 4 || go = 5 then
    if n = 0 then
      { s with pcie := if p = 0 then { s.pcie with ideHp := go == 4 } else { s.pcie with ideAp := putBit s.pcie.ideAp (p - 1) (go == 4) } }
    else if n ≤ (if p = 0 then 8 else 4) ∧ p ≤ 4 then
      let rest := s.pcie.ideSel.filter (· != (p, n))
      { s with pcie := { s.pcie with ideSel := if go = 4 then rest ++ [(p, n)] else rest } }
    else s
  else s

/-- An SPDM request with code `c`, in session `n` if any (R445, Table 16.4, R456). -/
def State.spdm (s : State) (c : Nat) (n : Option Nat) (req : List (BitVec 8)) : State :=
  if s.dead && c != 0x84 then s.spdmError 0x05 0
  else if [0x84, 0xE1, 0xE3, 0x81, 0x82, 0x83, 0xE0].contains c then s.spdmReply c req
  else if c = 0xE4 then
    match (List.range 4).find? fun k => (s.spdmSession (some k)).isNone with
    | none => s.spdmError 0x0A 0
    | some k => (s.setSession k (some false)).spdmReply c req
  else if c = 0xE5 then
    match n, s.spdmSession n with
    | some k, some (_, false) => if Config.spdmOk c req then (s.setSession k (some true)).spdmReply c req else s.spdmError 0x06 0
    | _, _ => s.spdmError 0x04 0
  else if c = 0xEC then
    match n, s.spdmSession n with
    | some k, some (_, true) => (s.setSession k none).spdmReply c req
    | _, _ => s.spdmError 0x04 0
  else if c = 0xFE then
    match s.spdmSession n with
    | some (_, true) => (s.ideKm req).spdmReply c req
    | _ => s.spdmError 0x07 c
  else s.spdmError 0x07 c

/-- SPDM_REQUEST over the DOE mailbox (R445). -/
def execSpdmRequest (code : Byte) (session : Option (Fin 4)) (req : List Byte) (s : State) : Result :=
  .next (s.spdm code.toNat (session.map (·.val)) req)

/-- The config block of R444: lifecycle state, debug level at boot, stepping, ROTPK_REVOKE, zero-padded to 64 bytes. -/
def State.configBlock (s : State) : List (BitVec 8) :=
  leBytes 1 (s.get F.SEC_LC_STATE) ++ leBytes 1 s.sec.bootLevel ++ leBytes 1 (s.get F.GLB_ID_STEPPING) ++ leBytes 1 s.sec.revoke
    ++ List.replicate 60 0

/-- A digest of 48 bytes. -/
def digest (l : List (BitVec 8)) : List (BitVec 8) := slice (Config.sha384 l) 0 48

/-- Measurements 1 to 5 of Table 16.4. -/
def State.measurements (s : State) : List (BitVec 8) :=
  slice Config.romDigest 0 48 ++ digest (s.boot.cf.drop 512) ++ digest (s.boot.lf.drop 512) ++ digest s.configBlock
    ++ digest Config.factoryCal

/-- The certificate chain, at most 3,600 bytes. -/
def State.chain (s : State) : List (BitVec 8) := (Config.certChain s.boot.cdi).take 3600

/-- The evidence of Table 16.5 for a tenant and a nonce, signed with the Alias key. -/
def State.evidence (s : State) (t : Nat) (nonce : List (BitVec 8)) : List (BitVec 8) :=
  let ch := s.chain
  let padded := ch ++ List.replicate ((4 - ch.length % 4) % 4) 0
  let body := leBytes 2 0x5154 ++ leBytes 1 1 ++ leBytes 1 0 ++ leBytes 4 (340 + padded.length + 96)
    ++ leBytes 8 (s.get64 F.REI_SERIAL_LO) ++ leBytes 1 t ++ leBytes 1 (s.get F.SEC_LC_STATE) ++ leBytes 1 (s.get F.SEC_DBG_LEVEL)
    ++ leBytes 1 (s.get F.FW_STATUS_PAIRING) ++ leBytes 1 (s.get F.GLB_ID_STEPPING) ++ leBytes 3 0 ++ leBytes 8 s.cad.time
    ++ leBytes 4 (s.get F.CAD_OFFLINE) ++ leBytes 1 (s.get F.CAD_STATUS_SOURCE) ++ leBytes 3 0 ++ leBytes 4 (s.get F.CAD_HOLD_ERR)
    ++ leBytes 4 (s.credEnd t) ++ slice nonce 0 32 ++ s.measurements ++ leBytes 4 (s.get F.FW_CF_VERSION)
    ++ leBytes 4 (s.get F.FW_LF_VERSION) ++ leBytes 4 (s.get (F.SEC_MC 2 0)) ++ leBytes 4 (s.get (F.SEC_MC 3 0))
    ++ leBytes 4 ch.length ++ padded
  body ++ slice (Config.ecdsaSign s.boot.cdi body) 0 96

/-- CF accepts an ATTEST_QUOTE (R222, R446); `fails` says that the host does not take the write. -/
def State.attest (s : State) (id : Nat) (fails : Bool) : State :=
  match s.cmd? id with
  | none => s
  | some c =>
    let out := leAt c.pkt 56 8
    let size := leAt c.pkt 68 2
    if s.dead then s.fail id stREJ_PERM
    else if size < 4096 then s.fail id stREJ_BOUNDS
    else
      match s.areaCheck c.tenant out (leAt c.pkt 64 2) (leAt c.pkt 66 2) size true with
      | (some st, s) => s.fail id st
      | (none, s) =>
        let e := s.evidence c.tenant (slice c.pkt 24 32)
        match (if fails && daSpace out == 4 then none else s.areaWrite c.tenant out e) with
        | none => s.fail id stFAULT_LINK
        | some s => (s.modCmd id fun (c : Cmd) => { c with bytes := e.length }).finish id stDONE 0

end Sys2Proof.Machine
end

