-- ==== Sys2Proof/Machine/Power.lean ====
section
/-! DEFINITION. The power ladder and the rack budget (chapter 17): requests and refusals, entry, limits, girth tokens,
throttling, and the I3C target. -/
namespace Sys2Proof.Machine

/-! ### Limits (R476, R477) -/

/-- The device's own lease while it is unexpired. -/
def State.leaseNow (s : State) : Option Nat :=
  match s.rein.lease with
  | some (n, e) => if s.cad.time < e then some n else none
  | none => none

/-- The terms of L in 10⁻⁶ tokens with their LIMIT_SRC codes: lease or floor, I3C cap, local cap (R476, R477). -/
def State.limitTerms (s : State) : List (Nat × Nat) :=
  let floor := s.get F.PWR_FLOOR
  let base := match s.leaseNow with
    | some n => if floor ≤ n then (n, 1) else (floor, 2)
    | none => (floor, 2)
  [(1000000 * base.1, base.2)] ++ (if s.pwr.cap = 0 then [] else [(4000000 * s.pwr.cap, 3)])
    ++ (if s.get F.PWR_LOCAL_CAP = 0 then [] else [(1000000 * s.get F.PWR_LOCAL_CAP, 4)])

/-- The least of a list of terms, the first of equal ones. -/
def leastTerm (l : List (Nat × Nat)) : Nat × Nat :=
  match l with
  | [] => (0, 0)
  | x :: t => t.foldl (fun a y => if y.1 < a.1 then y else a) x

/-- L in 10⁻⁶ tokens, and the term that sets it. -/
def State.limit (s : State) : Nat × Nat :=
  leastTerm (s.limitTerms ++ match s.pwr.thermal with | some n => [(n, 5)] | none => [])

/-- Bring PWR_LIMIT, LIMIT_SRC and PWR_LEASE up to date. -/
def State.limitUpdate (s : State) : State :=
  let l := s.limit
  ((s.set F.PWR_LIMIT (l.1 / 1000000)).set F.PWR_STATUS_LIMIT_SRC l.2).set F.PWR_LEASE_TOKENS (s.leaseNow.getD 0)

/-! ### Throttling (R480, R481) -/

/-- A step, when engaged, is at its full extent (Table 17.5). -/
def State.stepFull (s : State) (k : Nat) : Bool :=
  match k with
  | 1 => s.get F.PWR_THROT_UNT_DUTY == 0
  | 4 => s.get F.PWR_THROT_TCK_DUTY == 8
  | 5 => decide (s.get F.PWR_STATUS_ECLK_MHZ ≤ 800)
  | _ => true

/-- Engage a step further: the duty the device chooses, and FIT_F by its power model, are free values within their
ranges; ECLK falls by 100 MHz. -/
def State.stepDeepen (s : State) (k : Nat) : State :=
  let v := s.freeVal.toNat
  match k with
  | 1 => (s.set F.PWR_THROT_UNT_DUTY (v % max 1 (s.get F.PWR_THROT_UNT_DUTY))).draw
  | 3 => (s.set F.PWR_THROT_FIT_F (1 + v % 64)).draw
  | 4 => (s.set F.PWR_THROT_TCK_DUTY (8 + v % max 1 (s.get F.PWR_THROT_TCK_DUTY - 8))).draw
  | 5 => s.set F.PWR_STATUS_ECLK_MHZ (max 800 (s.get F.PWR_STATUS_ECLK_MHZ - 100))
  | _ => s

/-- Release a step. -/
def State.stepRelease (s : State) (k : Nat) : State :=
  let s := match k with
    | 1 => s.set F.PWR_THROT_UNT_DUTY 64
    | 3 => s.set F.PWR_THROT_FIT_F 64
    | 4 => s.set F.PWR_THROT_TCK_DUTY 64
    | 5 => s.set F.PWR_STATUS_ECLK_MHZ s.eclk.2
    | _ => s
  s.set F.PWR_STATUS_STEP (k - 1)

/-- The average exceeds L: the first engaged step that is not at its full extent goes further, else the next step
engages; at 800 MHz the device stays and sets CAPLOW. -/
def State.throttleMore (s : State) : State :=
  let k := s.get F.PWR_STATUS_STEP
  match (List.range k).find? fun i => !(s.stepFull (i + 1)) with
  | some i => s.stepDeepen (i + 1)
  | none => if 5 ≤ k then s.stickIrq F.PWR_CAPLOW_CAPLOW 13 else (s.set F.PWR_STATUS_STEP (k + 1)).stepDeepen (k + 1)

/-- The average is `avg` mW: 1 mW is 4,000 × 10⁻⁶ tokens. -/
def State.throttle (s : State) (avg : Nat) : State :=
  let l := s.limit.1
  if l < 4000 * avg then ({ s with pwr := { s.pwr with belowSince := none } } : State).throttleMore
  else if 20 * (4000 * avg) < 19 * l then
    match s.pwr.belowSince with
    | none => { s with pwr := { s.pwr with belowSince := some s.cad.time } }
    | some b =>
      if b + 1000000 ≤ s.cad.time && 0 < s.get F.PWR_STATUS_STEP then
        ({ s with pwr := { s.pwr with belowSince := some s.cad.time } } : State).stepRelease (s.get F.PWR_STATUS_STEP)
      else s
  else { s with pwr := { s.pwr with belowSince := none } }

/-- A power sample of `mw` milliwatts 10 µs after the last (R476): the 1 ms average, L, and the throttle steps. -/
def State.powerSample (s : State) (mw : Nat) : State :=
  let s := s.advance (s.cad.time + 10000)
  let l := (mw :: s.pwr.samples).take 100
  let avg := l.sum / l.length
  let keep := s.pwr.avgs.filter fun (x : Nat × Nat) => decide (s.cad.time < x.1 + 100000000)
  let s := { s with pwr := { s.pwr with samples := l, avgs := (s.cad.time, avg) :: keep } }
  ((s.set F.PWR_MEAS (min 0xFFFF (avg / 250))).limitUpdate).throttle avg

/-- POWER_SAMPLE (R476). -/
def execPowerSample (mw : Nat) (s : State) : Result := .next (s.powerSample mw)

/-! ### Girth tokens (R357, R358, R477, R478) -/

/-- Tokens this device asks for: its floor, or the highest 1 ms average of the last 100 ms in tokens, rounded up, plus the
margin (R477). -/
def State.tokensWanted (s : State) : Nat :=
  let p1 := (s.pwr.avgs.map fun (x : Nat × Nat) => x.2).foldl max 0
  max (s.get F.PWR_FLOOR) (ceilDiv p1 250 + s.get F.PWR_MARGIN)

/-- A girth message: OPERAND holds tokens, floor and the chip it concerns, EXTRA the expiry (log entry 16). -/
def girthMsg (mop tokens floor chip expiry : Nat) : Msg :=
  { msgZero with vc := 3, mop := mop, operand := tokens % 2 ^ 16 + 2 ^ 16 * (floor % 2 ^ 16) + 2 ^ 32 * (chip % 64), extra := leBytes 8 expiry }

/-- Tokens, floor and chip of a girth message. -/
def girthOf (m : Msg) : Nat × Nat × Nat := (bitsOf m.operand 0 16, bitsOf m.operand 16 16, bitsOf m.operand 32 6)

/-- The upstream port. -/
def State.upstream (s : State) : Option Nat := (List.range 12).find? fun n => s.on (F.REI_P_STATUS_UPSTREAM n)

/-- A chip is a member of the rack (R478). -/
def State.member (s : State) (c : Nat) : Bool := bit (s.get64 F.PWR_RACK_MEMBERS_LO) c

/-- The floor and the request the master holds of a chip; one that has not asked has the reset floor of Table 17.8. -/
def State.askOf (s : State) (c : Nat) : Nat × Nat :=
  match s.rein.asks.find? fun (a : Ask) => a.chip == c with
  | some a => (a.floor, max a.floor a.tokens)
  | none => (480, 480)

/-- Tokens of a chip's unexpired lease on the master. -/
def State.leaseOf (s : State) (c : Nat) : Nat :=
  match s.rein.leases.find? fun (l : Lease) => l.chip == c && decide (s.cad.time < l.expiry) with
  | some l => l.tokens
  | none => 0

/-- Chips of the members mask. -/
def State.members (s : State) : List Nat := (List.range 64).filter s.member

/-- PWR_RACK_GRANTED: unexpired leases plus reserved floors. -/
def State.rackHeld (s : State) (but : Nat) : Nat :=
  ((List.range 64).map fun c => if c = but then 0 else if s.member c then max (s.leaseOf c) (s.askOf c).1 else s.leaseOf c).sum

/-- The master's grant to a chip (R358, R478), and the flags it sets. -/
def State.grantFor (s : State) (c : Nat) : Nat × State :=
  let pool := s.get F.PWR_RACK_POOL
  let (floor, r) := s.askOf c
  let f := (s.members.map fun x => (s.askOf x).1).sum
  let all := (s.members.map fun x => (s.askOf x).2).sum
  if !(s.member c) then (floor, s.stick F.PWR_UNLISTED_UNLISTED)
  else if pool < f then (floor, s.stick F.PWR_OVERCOMMIT_OVERCOMMIT)
  else if s.cad.time < s.rein.masterSince + 100000000 then (floor, s)
  else
    let g := if all ≤ pool then r else floor + (r - floor) * (pool - f) / (all - f)
    (max floor (min g (pool - s.rackHeld c)), s)

/-- This device's lease becomes `n` tokens until `e`. -/
def State.takeLease (s : State) (n e : Nat) : State :=
  ({ s with rein := { s.rein with lease := some (n, e) } } : State).limitUpdate

/-- The master answers a request in hand from chip `c`: a lease of 100 ms (R357). -/
def State.girthAnswer (s : State) (c : Nat) : State :=
  let (g, s) := s.grantFor c
  let e := s.cad.time + 100000000
  let port := match s.rein.asks.find? fun (a : Ask) => a.chip == c with | some a => a.port | none => 12
  let s := { s with rein := { s.rein with
    leases := s.rein.leases.filter (fun (l : Lease) => l.chip != c) ++ [(⟨c, g, e, (s.askOf c).1, port⟩ : Lease)] } }
  let s := s.set F.PWR_RACK_GRANTED (min 0xFFFFF (s.rackHeld 64))
  if c = s.chip then s.takeLease g e else s.sendVc3 port (girthMsg 0x39 g (s.askOf c).1 c e)

/-- Remember the latest request of a chip and the port it came on. -/
def State.putAsk (s : State) (a : Ask) : State :=
  { s with rein := { s.rein with asks := s.rein.asks.filter (fun (x : Ask) => x.chip != a.chip) ++ [a] } }

/-- A girth request of chip `c`, held and answered by the master, or forwarded towards it (R357, R478). -/
def State.girthAsk (s : State) (a : Ask) : State :=
  let s := s.putAsk a
  if s.isMaster then s.girthAnswer a.chip
  else
    match s.upstream with
    | some n => s.sendVc3 n (girthMsg 0x38 a.tokens a.floor a.chip 0)
    | none => s

/-- GIRTH_REQUEST_TIMER, every 25 ms (R477). -/
def execGirthRequestTimer (s : State) : Result :=
  .next (s.girthAsk ⟨s.chip, s.tokensWanted, s.get F.PWR_FLOOR, 12⟩)

/-- GIRTH_REQ on a port. -/
def State.girthReq (s : State) (p : Nat) (m : Msg) : State :=
  let (n, f, c) := girthOf m
  s.girthAsk ⟨c, n, f, p⟩

/-- GIRTH_REQ (R478). -/
def execGirthReq (p : Port) (m : Msg) (s : State) : Result := .next (s.girthReq p.val m)

/-- GIRTH_GRANT on a port: this device's lease, or forwarded back on the port the request came on (R357). -/
def State.girthGrant (s : State) (m : Msg) : State :=
  let (n, f, c) := girthOf m
  let e := leAt m.extra 0 8
  if c = s.chip then s.takeLease n e
  else
    match s.rein.asks.find? fun (a : Ask) => a.chip == c with
    | some a => s.sendVc3 a.port (girthMsg 0x39 n f c e)
    | none => s

/-- GIRTH_GRANT (R357). -/
def execGirthGrant (m : Msg) (s : State) : Result := .next (s.girthGrant m)

/-- GIRTH_RET: returned tokens go back to the pool, or on towards the master (R357). -/
def State.girthRet (s : State) (m : Msg) : State :=
  let (n, f, c) := girthOf m
  if s.isMaster then
    let s := { s with rein := { s.rein with
      leases := s.rein.leases.map fun (l : Lease) => if l.chip = c then ({ l with tokens := l.tokens - n } : Lease) else l } }
    s.set F.PWR_RACK_GRANTED (min 0xFFFFF (s.rackHeld 64))
  else
    match s.upstream with
    | some p => s.sendVc3 p (girthMsg 0x3A n f c 0)
    | none => s

/-- GIRTH_RET (R357). -/
def execGirthRet (m : Msg) (s : State) : Result := .next (s.girthRet m)

/-- LEASE_EXPIRY: the lease ends and L falls to the floor (R358, R477). -/
def State.leaseExpire (s : State) : State :=
  match s.rein.lease with
  | none => s
  | some (_, e) =>
    let s := s.advance e
    let s := { s with rein := { s.rein with lease := none } }
    s.limitUpdate

def execLeaseExpiry (s : State) : Result := .next s.leaseExpire

/-- MASTER_GRACE_END: 100 ms after it took office a master may grant beyond floors (R358). -/
def execMasterGraceEnd (s : State) : Result := .next (s.advance (s.rein.masterSince + 100000000))

/-- Every token above the floor goes back to the master (R470 step 4). -/
def State.girthReturn (s : State) : State :=
  let floor := s.get F.PWR_FLOOR
  match s.rein.lease with
  | some (n, e) =>
    if floor < n then
      (s.takeLease floor e).girthRet (girthMsg 0x3A (n - floor) floor s.chip 0)
    else s
  | none => s

/-! ### The I3C target (R479, R485) -/

/-- The STATUS byte of the I3C target (Table 17.9). -/
def State.i3cStatus (s : State) : Nat :=
  b2n (s.get F.PWR_STATUS_STEP != 0) + 2 * b2n s.pwr.thermal.isSome + 4 * b2n s.pwr.trip
    + 8 * b2n (s.on F.LPE_STATUS_FAULT_N) + 16 * b2n s.pwr.capRefused

/-- An in-band interrupt whose data byte is STATUS. -/
def State.ibi (s : State) : State := if s.pwr.ibiOn then s.out (.i3c 0 (leBytes 1 s.i3cStatus)) else s

/-- A write of the CAP register: 0, or 40 to 360 W; others are refused (R479). -/
def State.i3cCap (s : State) (w : Nat) : State :=
  if w = 0 || (40 ≤ w && w ≤ 360) then ({ s with pwr := { s.pwr with cap := w } } : State).limitUpdate
  else ({ s with pwr := { s.pwr with capRefused := true } } : State).ibi

/-- I3C_CAP_WRITE (R479). -/
def execI3cCapWrite (w : BitVec 16) (s : State) : Result := .next (s.i3cCap w.toNat)

/-- STATUS is read and CAP_REFUSED clears (Table 17.9). -/
def State.i3cStatusRead (s : State) : State :=
  let s := s.out (.i3c 1 (leBytes 1 s.i3cStatus))
  { s with pwr := { s.pwr with capRefused := false, i3cIndex := 0x24 } }

/-- I3C_STATUS_READ (R485). -/
def execI3cStatusRead (s : State) : Result := .next s.i3cStatusRead

/-- The data of a readable register of Table 17.9; other indexes hold none. -/
def State.i3cReg (s : State) (i : Nat) : List (BitVec 8) :=
  match i with
  | 0x00 => leBytes 2 0x4180 ++ leBytes 1 (s.get F.GLB_ID_STEPPING) ++ leBytes 1 (s.get F.GLB_ID_VARIANT)
  | 0x10 => leBytes 2 s.pwr.cap
  | 0x12 => leBytes 2 (s.limit.1 / 4000000)
  | 0x20 => leBytes 2 (s.get F.PWR_MEAS)
  | 0x22 => leBytes 1 (s.get F.PWR_TJ_NOW)
  | 0x23 => leBytes 1 (s.get F.PWR_STATUS_STATE)
  | _ => []

/-- A common command of I3C Basic: ENEC and DISEC switch in-band interrupts, RSTDAA drops the dynamic address, ENTDAA and
SETDASA (static address 0x4A) set it; the target answers the others with values of its own (log entry 39). -/
def State.i3cCcc (s : State) (code : Nat) (d : List (BitVec 8)) : State :=
  match code with
  | 0x00 | 0x80 => { s with pwr := { s.pwr with ibiOn := s.pwr.ibiOn || bit (leAt d 0 1) 0 } }
  | 0x01 | 0x81 => { s with pwr := { s.pwr with ibiOn := s.pwr.ibiOn && !(bit (leAt d 0 1) 0) } }
  | 0x06 => { s with pwr := { s.pwr with i3cAddr := none } }
  | 0x07 => if s.pwr.i3cAddr.isNone then { s with pwr := { s.pwr with i3cAddr := some (leAt d 0 1) } } else s
  | 0x87 =>
    if leAt d 0 1 = 0x4A && s.pwr.i3cAddr.isNone then { s with pwr := { s.pwr with i3cAddr := some (leAt d 1 1) } } else s
  | _ => s.out (.i3c 2 (Config.i3cAnswer code d))

/-- I3C_CCC: a common command, or a private read of a register by its index (R485). -/
def execI3cCcc (op : I3cOp) (s : State) : Result :=
  .next (match op with
    | .ccc code data => s.i3cCcc code data
    | .read 0x24 => s.i3cStatusRead
    | .read i => ({ s with pwr := { s.pwr with i3cIndex := i } } : State).out (.i3c 1 (s.i3cReg i)))

/-! ### Entry (R469, R470, R475) -/

/-- A ring address lies in tiers 1 to 7 or in HBM (Table 17.2). -/
def ringInLost (da : Nat) : Bool := daSpace da == 2 || (daSpace da == 1 && decide (0x8000000 ≤ daOff da))

/-- An enabled command ring, CQ ring or the event ring lies in tiers 1 to 7 or in HBM. -/
def State.ringsLost (s : State) : Bool :=
  (List.range 16).any (fun t =>
    ((List.range 8).any fun q => s.on (F.TP_Q_CTRL_EN t q) && ringInLost (s.get64 (F.TP_Q_BASE_LO t q)))
      || (s.on (F.TP_CQ_CTRL_EN t) && ringInLost (s.get64 (F.TP_CQ_BASE_LO t))))
    || (s.get F.LPE_ELOG_SIZE != 0 && ringInLost (s.get64 F.LPE_ELOG_BASE_LO))

/-- An admitted TICKED command has not completed (R66): a command of a queue or a dispatched node, or a TICKED node of an admitted
launch that is yet to be dispatched. -/
def State.ticksOpen (s : State) : Bool :=
  s.cmds.any (fun (c : Cmd) => c.ticked && c.admTick.isSome && !c.isEnded)
    || s.graphs.any fun (g : Graph) => match g.launch with
      | some l => l.admTick.isSome && g.tickedNodes.any fun n => n.st != .dispatched && n.st != .recorded
      | none => false

/-- The first condition of Table 17.2 that refuses state `n`. -/
def State.pwrRefusal (s : State) (n : Nat) : Option Nat :=
  if 2 ≤ n && s.on F.SEC_DBG_ATTACHED && !(s.on F.SEC_DBG_DBG_PWR_OVERRIDE) then some stREJ_PERM
  else if 2 ≤ n && s.ticksOpen then some stREJ_BUSY
  else if n = 4 && s.on F.LPE_CTRL_SAFE_EN then some stREJ_BUSY
  else if 3 ≤ n && s.ringsLost then some stREJ_BUSY
  else if s.pwr.trip then some stREJ_BUSY
  else none

/-- CF accepts a PWR_REQUEST (R219, R469): refused, or every queue stops fetching and the drain begins. -/
def State.pwrRequest (s : State) (id : Nat) : State :=
  match s.cmd? id with
  | none => s
  | some c =>
    let n := leAt c.pkt 24 1
    match s.pwrRefusal n with
    | some st =>
      let l := s.get F.SEC_DBG_LEVEL
      (if st = stREJ_PERM then s.debugTrace 5 l l else s).fail id st
    | none =>
      let s := s.modCmd id fun (c : Cmd) => { c with phase := .running }
      { s with pwr := { s.pwr with entry := some (n, some id), entryAt := s.cad.time } }

/-- The drain condition of R470 step 2 for state `n`; `own` is the request's command. -/
def State.entryDrained (s : State) (n : Nat) (own : Option Nat) : Bool :=
  let later := fun (c : Cmd) => n == 1 && (c.phase == .timed || match c.admTick with | some k => decide (s.tick < k) | none => false)
  (s.cmds.all fun (c : Cmd) => some c.id == own || later c)
    && s.graphs.all fun (g : Graph) => match g.launch with | some l => l.released.isNone && n == 1 | none => true

/-- Contents that state `n` does not keep (Table 3.4): staging from S2 on, tiers 1 to 7 with the ingest buffer and HBM in S3. -/
def State.dropMemory (s : State) (n : Nat) : State :=
  if n ≤ 1 then s
  else
    let m := s.mem.zeroRange 3 0 (spaceSize 3)
    let s := { s with latches := [] }
    if n = 2 then { s with mem := m }
    else
      let m := (m.zeroRange 1 0x8000000 0x38000000).zeroRange 2 0 (spaceSize 2)
      { s with mem := { m with wc := [], fills := [], wcBad := [] }, eth := { s.eth with buffer := [] } }

/-- The Rein, ETH and AP ports go down (R470 step 4, Table 17.1). -/
def State.portsDown (s : State) : State :=
  let s := (List.range 12).foldl (fun (s : State) n => if s.portState n = 0 then s else s.portLost n 0 0) s
  let s := (s.ethLink 0 false).ethLink 1 false
  (List.range 4).foldl (fun (s : State) l => s.apLink l 0 0 false) s

/-- Steps 4 and 5 of R470 for S1 to S3: prepare and retain. A follower in S3 leaves its domain (ch. 17 §1). -/
def State.retain (s : State) (n : Nat) : State :=
  let s := if 2 ≤ n then s.girthReturn.detach else s
  let s := if 3 ≤ n then (s.portsDown.set F.MEM_STATUS_HBM_READY 0).set F.CAD_STATUS_ALIGNED 0 else s
  let s := if 3 ≤ n && !s.isMaster then { s.set F.CAD_STATUS_MASTER_ID 63 with rein := { s.rein with master := 63 } } else s
  (s.dropMemory n).set F.PWR_STATUS_STATE n |>.lpeUpdate

/-- AUTO_HOLD_ENTRY: the drain condition has held for IDLE_US and S1 is entered (R475). -/
def State.autoHold (s : State) : State :=
  if s.on F.PWR_CTRL_AUTO_HOLD && s.get F.PWR_STATUS_STATE == 0 && s.pwr.entry.isNone && s.boot.phase == BootPhase.run
      && s.entryDrained 1 none then
    let s := { s.powerTrace 3 1 with pwr := { s.pwr with auto := true } }
    s.retain 1
  else s

def execAutoHoldEntry (s : State) : Result := .next s.autoHold

/-- DRAIN_TIMEOUT: PWR_REQUEST ends with REJ_BUSY and fetching resumes (R470). -/
def State.drainTimeout (s : State) : State :=
  match s.pwr.entry with
  | none => s
  | some (_, id) =>
    let s := s.advance (s.pwr.entryAt + 1000 * s.get F.PWR_ENTRY_DRAIN_US)
    let s := { s with pwr := { s.pwr with entry := none } }
    match id with
    | some i => s.fail i stREJ_BUSY
    | none => s

def execDrainTimeout (s : State) : Result := .next s.drainTimeout

end Sys2Proof.Machine
end

