-- ==== Sys2Proof/Machine/Startup.lean ====
section
/-! DEFINITION. Start-up (chapter 18): what each reset keeps, the boot stages, image choice, pairing, calibration records,
S4, and the safe-state restart (R501 to R503, R514 to R522). -/
namespace Sys2Proof.Machine

/-! ### What resets keep (R10, R442, R486, R525) -/

/-- The bits of the word at `a` that its RWL fields hold. -/
def rwlMask (a : Nat) : Nat :=
  (rowsAt a).foldl (fun m (r : RegRow) => if r.acc = .rwl then m ||| ((2 ^ r.n - 1) <<< r.lo) else m) 0

/-- Registers of the monotonic store, the lifecycle fuse and the last-words record. -/
def keptReg (a : Nat) : Bool :=
  a == F.SEC_LC_STATE.addr || a == F.CAD_OFFLINE.addr || (decide ((F.SEC_MC 0 0).addr ≤ a) && decide (a < (F.SEC_MC 7 0).addr))
    || (decide (0x100 ≤ a) && decide (a < 0x140))

/-- Registers the always-on island keeps through S4 beside those: wake logic, holdover model, rack time's error bound. -/
def islandReg (a : Nat) : Bool :=
  [F.PWR_WAKE_AT_LO.addr, F.PWR_WAKE_AT_HI.addr, F.PWR_WAKE_EN.addr, F.PWR_WAKE_CAUSE.addr, F.PWR_TJ_NOW.addr,
    F.FW_RESTARTS.addr, F.CAD_HOLD_ERR.addr, F.CAD_HOLD_OSC.addr, F.CAD_RATE_ADJ.addr].contains a
    || (decide ((F.SEC_DBG_CHAL 0).addr ≤ a) && decide (a ≤ (F.SEC_DBG_CHAL 7).addr))

/-- The register file after a reset that keeps the words `keep` names whole, and of every other word its RWL fields. -/
def State.keepRegs (s : State) (keep : Nat → Bool) : List (Nat × BitVec 32) :=
  s.regs.filterMap fun (x : Nat × BitVec 32) =>
    if keep x.1 then some x
    else
      let m := rwlMask x.1
      let v := BitVec.ofNat 32 ((x.2.toNat &&& m) ||| ((resetWord x.1).toNat &&& (0xFFFFFFFF - m)))
      if v = resetWord x.1 then none else some (x.1, v)

/-- The level SEC_DBG.LEVEL takes at reset (Table 16.8). -/
def State.resetLevel (s : State) : Nat := if s.get F.SEC_LC_STATE = 0 || s.get F.SEC_LC_STATE = 3 then 2 else 0

/-- Everything but fuses, monotonic store, flash, RWL fields, the last-words record, pins and the outside is at reset
(R486). -/
def State.coldBase (s : State) : State :=
  let c : Cad := { State.reset.cad with stored := s.cad.stored }
  let p : Pcie := { State.reset.pcie with perst := s.pcie.perst }
  let b : Boot := { State.reset.boot with
    flash := s.boot.flash, rec0 := s.boot.rec0, rec1 := s.boot.rec1, cal0 := s.boot.cal0, cal1 := s.boot.cal1
    porLow := s.boot.porLow, sysLost := s.boot.sysLost, tcxoLost := s.boot.tcxoLost }
  let x : Sec := { State.reset.sec with
    slots := s.sec.slots, creds := s.sec.creds, lpKey := s.sec.lpKey, revoke := s.sec.revoke, siteHash := s.sec.siteHash
    dbgHash := s.sec.dbgHash, udsKill := s.sec.udsKill }
  let r : State := { State.reset with
    regs := s.keepRegs keptReg, cad := c, pcie := p, boot := b, sec := x
    ext := s.ext, outbox := s.outbox, fresh := s.fresh, pending := s.pending }
  r.set F.SEC_DBG_LEVEL r.resetLevel

/-- What S4 keeps: as `coldBase`, and the always-on island's rack time, holdover model, wake logic and I3C target
(R486, Table 17.1); the count of restarts goes on, which only a cold boot and a storm reboot reset (R503, log entry 92). -/
def State.s4Base (s : State) : State :=
  let r := s.coldBase
  let c : Cad := { State.reset.cad with
    time := s.cad.time, stored := s.cad.stored, timeSet := s.cad.timeSet, resumed := s.cad.resumed, acquired := s.cad.acquired
    model := s.cad.model, lockSeconds := s.cad.lockSeconds, temp := s.cad.temp, holdSince := s.cad.holdSince }
  let p : Pcie := { r.pcie with pmeOff := s.pcie.pmeOff, wakeN := s.pcie.wakeN }
  let w : Pwr := { State.reset.pwr with
    cap := s.pwr.cap, capRefused := s.pwr.capRefused, i3cIndex := s.pwr.i3cIndex, i3cAddr := s.pwr.i3cAddr, ibiOn := s.pwr.ibiOn }
  let src := s.get F.CAD_STATUS_SOURCE
  let r : State := { r with
    regs := s.keepRegs (fun a => keptReg a || islandReg a), cad := c, pcie := p, pwr := w
    boot := { r.boot with restarts := s.boot.restarts }
    lpe := { r.lpe with unpowered := true } }
  let r := r.set F.SEC_DBG_LEVEL r.resetLevel
  let r := r.set F.CAD_STATUS_SOURCE src
  (if src = 0 ∨ src = 6 then r else if src = 5 then r.holdRefresh else r.enterHoldover).set F.PWR_STATUS_STATE 4

/-- Entry into S4: the fault record, the last words, the HP link down or in L2, and everything S4 loses (R470, R472, R525). -/
def State.s4Enter (s : State) (cause : Nat) : State :=
  let s := (s.fault 9 cause 0xC0 0 0 0 0 0 []).lastWords cause 0xFF 0 0
  s.s4Base

/-! ### Boot record and slots (R493 to R496) -/

/-- The record in force: the valid copy with the higher sequence number. -/
def State.bootRec (s : State) : Option BootRec :=
  match s.boot.rec0, s.boot.rec1 with
  | some a, some b => some (if a.seq < b.seq then b else a)
  | some a, none => some a
  | none, x => x

/-- Write a change of the record into the other copy with the sequence number plus one (R493). -/
def State.putRec (s : State) (r : BootRec) : State :=
  let first := match s.boot.rec0, s.boot.rec1 with
    | some a, some b => decide (b.seq ≤ a.seq)
    | some _, none => true
    | none, _ => false
  let r : BootRec := { r with seq := r.seq + 1 }
  { s with boot := if first then { s.boot with rec1 := some r } else { s.boot with rec0 := some r } }

/-- State of a slot in a record. -/
def BootRec.st (r : BootRec) (slot : Nat) : Nat := if slot = 0 then r.stA else r.stB

/-- A record with another state for a slot. -/
def BootRec.withSt (r : BootRec) (slot x : Nat) : BootRec := if slot = 0 then { r with stA := x } else { r with stB := x }

/-- The record in force, or where no copy is valid both slots GOOD with PREF A. -/
def State.theRec (s : State) : BootRec := s.bootRec.getD ⟨0, 0, 3, 3⟩

/-- Set a slot's state in the record. -/
def State.slotTo (s : State) (slot x : Nat) : State := s.putRec (s.theRec.withSt slot x)

/-- What a flash region holds: 0 CF of slot A, 1 LF of A, 2 CF of B, 3 LF of B. -/
def State.flashRegion (s : State) (k : Nat) : List (BitVec 8) := (kvFind s.boot.flash k).getD (Config.shipped k)

/-- Manifest and image of a region's contents: 512 bytes and IMAGE_SIZE bytes (Table 16.2). -/
def imageOf (b : List (BitVec 8)) : List (BitVec 8) := b.take (512 + leAt b 12 4)

/-- R441 in the parts FW_COMMIT tells apart: form, key, signature, digest and rollback first, then the stepping list. -/
def State.imageAuth (s : State) (kind : Nat) (b : List (BitVec 8)) : Bool :=
  let k := leAt b 3 1
  leAt b 0 2 == 0x4D46 && leAt b 2 1 == kind && zeros b 25 7 && zeros b 176 240 && decide (k ≤ 3) && !(bit s.sec.revoke k)
    && Config.sha384 (slice b 80 96) == Config.rotpk k && Config.ecdsaVerify (slice b 80 96) (slice b 0 416) (slice b 416 96)
    && slice b 32 48 == Config.sha384 (slice b 512 (leAt b 12 4)) && decide (s.get (F.SEC_MC (2 + kind) 0) ≤ leAt b 8 4)

/-- STEPPINGS lists GLB_ID.STEPPING. -/
def State.imageStep (s : State) (b : List (BitVec 8)) : Bool := (slice b 16 8).any fun x => x.toNat == s.get F.GLB_ID_STEPPING && x != 0

/-- The boot ROM accepts a region's image (R441). -/
def State.imagePasses (s : State) (kind region : Nat) : Bool :=
  let b := s.flashRegion region
  decide (512 + leAt b 12 4 ≤ b.length) && s.imageAuth kind b && s.imageStep b

/-- Trials never confirmed become INVALID (R495). -/
def State.dropTrials (s : State) : State :=
  [s.theRec.pref, 1 - s.theRec.pref].foldl (fun (s : State) x =>
    if s.theRec.st x = 2 then (s.slotTo x 0).stick F.FW_TRIALFAIL_TRIALFAIL else s) s

/-- One candidate of choose_cf: nothing is done once a slot is chosen. -/
def State.tryCandidate (a : Option Nat × State) (x : Nat) : Option Nat × State :=
  match a with
  | (some y, s) => (some y, s)
  | (none, s) =>
    if s.theRec.st x = 1 then
      let s := s.slotTo x 2
      if s.imagePasses 0 (2 * x) then (some x, s) else (none, s.slotTo x 0)
    else (none, s)

/-- One GOOD slot of choose_cf. -/
def State.tryGood (excluded : Nat) (a : Option Nat × State) (x : Nat) : Option Nat × State :=
  match a with
  | (some y, s) => (some y, s)
  | (none, s) =>
    if s.theRec.st x = 3 && x != excluded then
      if s.imagePasses 0 (2 * x) then (some x, s) else (none, s.slotTo x 0)
    else (none, s)

/-- choose_cf of R495. -/
def State.chooseCf (s : State) (excluded : Nat) : Option Nat × State :=
  let s := s.dropTrials
  let order := [s.theRec.pref, 1 - s.theRec.pref]
  order.foldl (State.tryGood excluded) (order.foldl State.tryCandidate (none, s))

/-- The LF's region: that of the chosen slot, else of the other, where it passes (R496). -/
def State.chooseLf (s : State) (slot : Nat) : Option Nat :=
  if s.imagePasses 1 (2 * slot + 1) then some slot else if s.imagePasses 1 (2 * (1 - slot) + 1) then some (1 - slot) else none

/-- FW_SLOT_s shows the record and the versions in the slots. -/
def State.slotRegs (s : State) : State :=
  [0, 1].foldl (fun (s : State) x =>
    (((s.set (F.FW_SLOT_STATE x) (s.theRec.st x)).set (F.FW_SLOT_PREF x) (b2n (s.theRec.pref == x))).set (F.FW_SLOT_CF_VERSION x)
      (leAt (s.flashRegion (2 * x)) 4 4)).set (F.FW_SLOT_LF_VERSION x) (leAt (s.flashRegion (2 * x + 1)) 4 4)) s

/-! ### Pairing (R499) -/

/-- The pairing entries of the running CF, at most 32. -/
def State.pairs (s : State) : List (Nat × Nat) := (Config.pairing s.boot.cf).take 32

/-- FW_PAIR_k, and FW_STATUS.PAIRING of Table 18.5 for the loaded LF. -/
def State.pair (s : State) : State :=
  let ps := s.pairs
  let s := (List.range 32).foldl (fun (s : State) k =>
    match ps[k]? with
    | some e => ((s.set (F.FW_PAIR_VALID k) 1).set (F.FW_PAIR_MAJOR k) e.1).set (F.FW_PAIR_MINOR k) e.2
    | none => ((s.set (F.FW_PAIR_VALID k) 0).set (F.FW_PAIR_MAJOR k) 0).set (F.FW_PAIR_MINOR k) 0) s
  let v := s.get F.FW_LF_VERSION
  let mode := if s.boot.lf.isEmpty then 3
    else if ps.any (fun (e : Nat × Nat) => e.1 == bitsOf v 24 8 && e.2 == bitsOf v 16 8) then 0
    else if ps.any (fun (e : Nat × Nat) => e.1 == bitsOf v 24 8) then 1 else 3
  let s := s.set F.FW_STATUS_PAIRING mode
  { s with lpe := { s.lpe with lf := mode == 0 || mode == 1 } }

/-! ### Calibration records (R507, R508) -/

/-- The user record: the valid copy with the higher sequence number. -/
def State.userCal (s : State) : Option CalRec :=
  match s.boot.cal0, s.boot.cal1 with
  | some a, some b => some (if a.seq < b.seq then b else a)
  | some a, none => some a
  | none, x => x

/-- Apply the calibration records at a boot; the time base only at a cold one (R508). -/
def State.calBoot (s : State) (cold : Bool) : State :=
  let s := if Config.factoryCalOk then s else s.stick F.CAL_FACTBAD_FACTBAD
  match s.userCal with
  | none => ((s.set F.CAL_STATUS_USER 0).set F.CAL_STATUS_RUN 0).set F.CAL_USER_SEQ 0
  | some r =>
    let ok := r.serial == s.get64 F.REI_SERIAL_LO && r.stepping == s.get F.GLB_ID_STEPPING
    let s := s.set F.CAL_USER_SEQ r.seq
    if ok then
      let vals := (List.range 6).map fun b => if bit r.scopes b then r.values.getD b 0 else 0
      let s := { s with boot := { s.boot with calVal := vals } }
      let s := if cold && bit r.scopes 4 then
          ({ s with cad := { s.cad with model := r.model, lockSeconds := r.lockSeconds } } : State).set F.CAD_HOLD_LEARN_HOURS
            (min 0xFFFF (r.lockSeconds / 3600))
        else s
      (s.set F.CAL_STATUS_USER (r.scopes % 64)).set F.CAL_STATUS_RUN 0
    else (((s.stick F.CAL_USERBAD_USERBAD).set F.CAL_STATUS_USER 0).set F.CAL_STATUS_RUN 0)

/-! ### Boot stages (R489, R495 to R499, R440 to R444, R450) -/

/-- DICE derivation: CDI over the manifests and the config block (R444); nothing is derived once UDS_KILL is blown. -/
def State.dice (s : State) : State :=
  let s := { s with sec := { s.sec with bootLevel := s.get F.SEC_DBG_LEVEL } }
  let msg := Config.sha384 (slice s.boot.cf 0 512) ++ Config.sha384 (slice s.boot.lf 0 512) ++ Config.sha384 s.configBlock
  { s with boot := { s.boot with cdi := if s.sec.udsKill then [] else Config.diceCdi msg } }

/-- CF loads the vault, or refuses an old or broken copy: no key is loaded and VAULT is set (R450). -/
def State.vaultLoad (s : State) (good : Bool) : State :=
  if good then (match s.sec.lpKey with | some b => s.putLpKey b | none => s)
  else
    let s := { s with sec := { s.sec with slots := [], creds := [], lpKey := none } }
    (s.stickIrq F.SEC_VAULT_VAULT 14).secTrace 7 0 0

/-- CF's start on each control core sets its stack window once (R504); where it lies is CF's own. -/
def State.stacks (s : State) : State :=
  (List.range 4).foldl (fun (s : State) c =>
    let v := s.freeVal.toNat
    ((s.set (F.FW_STK_BASE c) (v % 2 ^ 32)).set (F.FW_STK_LIMIT c) (v / 2 ^ 32)).draw) s

/-- The boot stages from the boot ROM on, up to command-ready: kind 0 a cold boot, 1 an S4 exit, 2 a storm reboot, with a slot
that is left out (2 for none). -/
def State.bootStages (s : State) (kind excluded : Nat) (vaultGood : Bool) : State :=
  let s := { s with boot := { s.boot with phase := .boot, began := s.cad.time } }
  let s := if s.bootRec.isNone then (s.putRec s.theRec).stick F.FW_FALLBACK_FALLBACK else s
  let s := (s.set F.FW_STATUS_BOOT_KIND kind).calBoot (kind == 0)
  let pref := s.theRec.pref
  let (slot, s) := s.chooseCf excluded
  match slot with
  | none =>
    let s := ((s.set F.FW_STATUS_BOOT_SLOT 3).set F.FW_STATUS_LF_SLOT 3).set F.FW_STATUS_PAIRING 2
    s.slotRegs
  | some x =>
    let s := if x = pref then s else s.stick F.FW_FALLBACK_FALLBACK
    let lf := s.chooseLf x
    let s := { s with boot := { s.boot with
      cf := imageOf (s.flashRegion (2 * x)), lf := match lf with | some y => imageOf (s.flashRegion (2 * y + 1)) | none => [] } }
    let s := ((s.set F.FW_STATUS_BOOT_SLOT x).set F.FW_STATUS_LF_SLOT (lf.getD 3)).set F.FW_STATUS_TRIAL (b2n (s.theRec.st x == 2))
    let s := (s.set F.FW_CF_VERSION (leAt s.boot.cf 4 4)).set F.FW_LF_VERSION (leAt s.boot.lf 4 4)
    let s := s.slotRegs.dice
    let s := s.secTrace 1 x (leAt s.boot.cf 4 4)
    let s := if lf.isSome then s.secTrace 1 x (leAt s.boot.lf 4 4) else s
    (s.pair.vaultLoad vaultGood).stacks

/-- POR_N goes low for 10 µs or more: the device is held in reset (R487). -/
def State.porAssert (s : State) : State :=
  let s := s.coldBase
  { s with boot := { s.boot with porLow := true } }

/-- POR_N_ASSERT (R486, R487). -/
def execPorNAssert (s : State) : Result := .next s.porAssert

/-- Rack time after a cold boot: resumed at the stored value plus the boot charge, or free where none is stored (R40, R69,
R70). A stored value of 0 is taken to mean that none was ever stored (DESIGN CHOICE, log entry 78). -/
def State.timeBoot (s : State) : State :=
  let n := s.get F.CAD_OFFLINE_CFG_BOOT_CHARGE
  let s := s.bump F.CAD_OFFLINE n
  if s.cad.stored = 0 then s.set F.CAD_STATUS_SOURCE 0
  else
    let t := s.cad.stored + n * 900000000000
    let s := { s with cad := { s.cad with time := t, resumed := some t } }
    (s.set F.CAD_STATUS_SOURCE 6).set F.CAD_HOLD_ERR 0xFFFFFFFF

/-- COLD_BOOT: POR_N deasserts and the stages of Table 18.2 run, unless TEST_EN is high, which holds the device in reset
(R533). `vaultGood` says that the vault's copy in flash verifies and is the newest (R450). -/
def State.coldBoot (s : State) (vaultGood testEn : Bool) : State :=
  if testEn then s.porAssert
  else
    let s := s.coldBase
    let s := { s with boot := { s.boot with porLow := false } }
    s.timeBoot.newChal.bootStages 0 2 vaultGood

def execColdBoot (vaultGood testEn : Bool) (s : State) : Result := .next (s.coldBoot vaultGood testEn)

/-- COMMAND_READY of a boot: after a cold boot HBM is ready too, and where an LF was loaded the Loupe runs (R488, R489). -/
def State.commandReady (s : State) : State :=
  if s.boot.phase != BootPhase.boot then s
  else
    let rec' := s.get F.FW_STATUS_PAIRING == 2
    let b : Boot := { s.boot with phase := if rec' then .recovery else .run, confirmFrom := s.cad.time }
    let s := { s with boot := b, lpe := { s.lpe with down := none } }
    let s := if s.get F.FW_STATUS_BOOT_KIND = 0 && !rec' then s.set F.MEM_STATUS_HBM_READY 1 else s
    let s := (s.set F.FW_STATUS_CMD_READY 1).set F.FW_BOOT_MS (min 0xFFFF ((s.cad.time - s.boot.began) / 1000000))
    s.elect.lpeUpdate.crsSettle

def execCommandReady (s : State) : Result := .next s.commandReady

/-- An S4 entry followed at once by its exit, leaving a slot out (R498, R503). -/
def State.reboot (s : State) (cause kind excluded : Nat) : State :=
  let s := s.s4Enter cause
  let s := { s.set F.PWR_STATUS_STATE 0 with lpe := { s.lpe with unpowered := false } }
  (s.powerTrace 2 4).bootStages kind excluded true

/-- A storm reboot: the running slot is left out; a TRIAL becomes INVALID (R503). -/
def State.stormReboot (s : State) : State :=
  let x := s.get F.FW_STATUS_BOOT_SLOT
  let s := if x < 2 && s.theRec.st x == 2 then s.slotTo x 0 else s
  ({ s with boot := { s.boot with restarts := [] } } : State).reboot 0x33 2 x

/-! ### The safe-state restart (R501 to R503, R516 to R522) -/

/-- Every decoded command is pre-restart: it ends with ABORT_RESET, BYTES a lower bound; its record waits for CF (R516, R520). -/
def State.stopCommands (s : State) : State :=
  -- a CAL_RUN ends and the values before it stay in force (R509)
  let s := ({ s with boot := { s.boot with calRun := none } } : State).set F.CAL_STATUS_BUSY 0 |>.set F.CAL_STATUS_NOFIT 0
  { s with
    cmds := s.cmds.map fun (c : Cmd) =>
      ({ c with phase := .ended, status := stABORT_RESET, result := 0, warn := putBit c.warn wBYTES_LB true } : Cmd)
    cf := [], planJobs := [] }

/-- Nodes of released launches without a record become ended commands, and the graphs are unloaded, the flags cleared
(R329, R519). -/
def State.stopGraphs (s : State) : State :=
  let s := s.graphs.foldl (fun (s : State) (g : Graph) =>
    match g.launch with
    | some l =>
      if l.released.isSome then
        (List.range g.nodes.length).foldl (fun (s : State) i =>
          match s.nodeAt g.tenant (g.first + i) with
          | some n =>
            if n.st == .armed || n.st == .ready || n.st == .heldReady then
              let c := s.nodeCmd g l i n
              { s with
                nextId := s.nextId + 1
                cmds := s.cmds ++ [({ c with unit := 4, status := stABORT_RESET, warn := 2 ^ wBYTES_LB, phase := .ended } : Cmd)] }
            else s
          | none => s) s
      else s
    | none => s) s
  { s with graphs := [], sync := { s.sync with flags := [] } }

/-- Held locks are freed and marked BROKEN; waiter sets of barriers and locks held here are dropped (R519). -/
def State.stopSync (s : State) : State :=
  { s with
    lockSeqs := []
    sync := { s.sync with
      bars := s.sync.bars.filterMap fun (p : Nat × Bar) =>
        let x : Bar := { p.2 with waiters := [] }
        if x = barZero then none else some (p.1, x)
      locks := s.sync.locks.filterMap fun (p : Nat × Lock) =>
        let x : Lock := if p.2.held then { lockZero with broken := true, reaped := p.2.reaped } else { p.2 with queue := [] }
        if x = lockZero then none else some (p.1, x) } }

/-- The newest fault record, less than 1 ms old, has this cause: the read that found the word has logged it. -/
def State.justLogged (s : State) (cause : Nat) : Bool :=
  let r := (kvFind s.errs.flog ((s.get F.GLB_FLOG_TAIL + 1023) % 1024)).getD []
  !r.isEmpty && leAt r 9 1 == cause && decide (s.cad.time < leAt r 0 8 + 1000000)

/-- The fault record of a restart trigger `code` (R524), unless the read that found the word has just logged it. -/
def State.triggerFault (s : State) (code cause core : Nat) (detail : List (BitVec 8)) : State :=
  if code = 5 && cause = 0x13 && s.justLogged 0x13 then s
  else s.fault 7 cause (if cause = 0x30 then 0xC0 else 0x40 + (if core < 4 then core else 0)) 0 0 0 0 code detail

/-- Detection of a safe-state restart for trigger `code` with fault cause `cause` and the state of the core concerned: the
restart line reaches the Loupe, every grant is released and every command stops (R501, R502 step 1, R525). A trigger
during a restart joins it and is logged. A restart that would be one too many in its window is a storm reboot (R503). -/
def State.restart (s : State) (code cause core pc sp : Nat) (detail : List (BitVec 8)) : State :=
  if s.boot.phase != BootPhase.run then
    if s.boot.phase == BootPhase.restart then s.triggerFault code cause core detail else s
  else
    let s := s.triggerFault code cause core detail
    let near := s.boot.restarts.filter fun t => decide (s.cad.time < t + 1000000000 * s.get F.FW_RLIM_WINDOW_S)
    if s.get F.FW_RLIM_COUNT ≤ near.length then s.stormReboot
    else
      let s := ((s.set F.FW_STATUS_LAST_CAUSE code).set F.FW_STATUS_CMD_READY 0).bump F.FW_RESTARTS 1
      let s := s.lastWords cause core pc sp
      let s := { s with
        boot := { s.boot with phase := .restart, restarts := near ++ [s.cad.time], began := s.cad.time, verified := false }
        pwr := { s.pwr with entry := none } }
      let s := (s.trace 0x07 0x40 0 0 (leBytes 1 4)).closeSession
      ((s.stopGraphs.stopCommands).stopSync).lpeUpdate

/-- Steps 2 and 3 of R502: the parts of Table 18.1 are reset. Plan cache and staging buffers are lost, formats cleared, the
ingest buffer discarded; windows, descriptors, rings, counters and configuration are kept (Table 19.3). -/
def State.resetParts (s : State) : State :=
  let s := { s with
    plans := [], planJobs := [], latches := []
    mem := { s.mem.zeroRange 3 0 (spaceSize 3) with fills := [] }
    engines := s.engines.map fun (p : Nat × EngineSt) => (p.1, (⟨[], [], [], false⟩ : EngineSt))
    lanes := []
    rein := { s.rein with reqs := [] }
    queues := s.queues.map fun (q : QueueSt) => ({ q with openSeq := none, lastEngine := none, dirty := [] } : QueueSt)
    pcie := { s.pcie with brdSync := none } }
  let s := s.set F.BRD_SYNC 0
  let s := (List.range 32).foldl (fun (s : State) e => s.set (F.ENG_ECTRL_RESET e) 0) s
  let s := (List.range 16).foldl (fun (s : State) t =>
    ((s.set (F.TP_FMT_MAJOR t) 0).set (F.TP_FMT_MINOR t) 0).set (F.TP_FMT_SET t) 0) s
  s.ingestDiscard

/-- SAFE_STATE_RESTART with trigger `code`: where none is in progress it begins; the parts are reset and the CF image is
verified again. `memOk` says that the image in memory matches the manifest's DIGEST; else it is read again from the same
slot, and where that fails too the device reboots without the slot (R502, R503). -/
def State.restartStep (s : State) (code : Nat) (memOk : Bool) : State :=
  let s := if s.boot.phase == BootPhase.run then
      s.restart code (match code with | 3 => 0x30 | 4 => 0x32 | 5 => 0x13 | 6 => 0x31 | 2 => 0x07 | _ => 0x50) 0xFF 0 0 []
    else s
  if s.boot.phase != BootPhase.restart || s.boot.verified then s
  else
    let s := s.resetParts
    let x := s.get F.FW_STATUS_BOOT_SLOT
    if memOk then { s with boot := { s.boot with verified := true } }
    else if s.imagePasses 0 (2 * x) && slice (s.flashRegion (2 * x)) 32 48 == slice s.boot.cf 32 48 then
      { s with boot := { s.boot with verified := true, cf := imageOf (s.flashRegion (2 * x)) } }
    else s.stormReboot

/-- SAFE_STATE_RESTART: `code` less one is the trigger code of Table 18.6. -/
def execSafeStateRestart (code : Fin 6) (memOk : Bool) (s : State) : Result := .next (s.restartStep (code.val + 1) memOk)

/-- CF writes a tenant's pre-restart records, each queue in submission order, nodes after the queues (R520). -/
def State.preRecords (s : State) (t : Nat) : State :=
  let s := (List.range 8).foldl (fun (s : State) q => s.flush t q) s
  (s.cmds.filter (fun (c : Cmd) => c.tenant == t)).foldl (fun (s : State) (c : Cmd) => s.writeRecord c) s

/-- Epochs rise towards every chip with unacknowledged VC1 messages; each counter an unacknowledged signal names is reported
stale (R521). -/
def State.restartEpochs (s : State) : State :=
  s.rein.tx.foldl (fun (s : State) (p : Nat × TxPair) => if p.2.sent.isEmpty then s else s.raiseEpoch p.1) s

/-- RESTART_COMPLETE: step 4 of R502. Records, epochs, context resets absorbed and postponed, command-ready, vector 9. -/
def State.restartEnd (s : State) : State :=
  if s.boot.phase != BootPhase.restart || !s.boot.verified || s.pwr.trip || s.boot.sysLost then s
  else
    let s := (List.range 16).foldl (fun (s : State) t => s.preRecords t) s
    let s := s.restartEpochs
    let b : Boot := { s.boot with phase := .run, confirmFrom := s.cad.time, halted := [] }
    let s := ({ s with boot := b, pwr := { s.pwr with leaving := false } } : State).stacks
    let s := (s.set F.FW_STATUS_CMD_READY 1).set F.FW_BOOT_MS (min 0xFFFF ((s.cad.time - s.boot.began) / 1000000))
    let s := (s.set F.PWR_STATUS_STATE 0).set F.PWR_STATUS_ECLK_MHZ s.eclk.2
    let s := (s.pcie.ctxRst.map fun (x : Nat × Bool) => x.1).foldl (fun (s : State) t => s.ctxFinish t) s
    let later := s.pcie.ctxLater
    let s := { s with pcie := { s.pcie with ctxLater := [] } }
    let s := later.foldl (fun (s : State) (x : Nat × Nat) => s.ctxReset x.1 x.2) s
    -- RESTART_AUTO 0 latches FAULT_N at the end of a restart (R427)
    let s := if s.on F.LPE_CTRL_RESTART_AUTO then s else s.set F.LPE_STATUS_LATCH 1
    (s.irq 9).lpeUpdate.crsSettle

def execRestartComplete (s : State) : Result := .next s.restartEnd

end Sys2Proof.Machine
end

