-- ==== Sys2Proof/Machine/Wake.lean ====
section
/-! DEFINITION. The events of chapters 17, 18 and 20 around the power ladder and start-up: end of the drain, wake and exit,
temperature, confirmation, control cores, clocks and rails. -/
namespace Sys2Proof.Machine

/-! ### Wake and exit (R470 to R475) -/

/-- WAKE_EVENT of source `code` of Table 17.4. -/
def execWakeEvent (code : Fin 11) (s : State) : Result := .next (s.wake code.val)

/-- Rack time reaches a non-zero PWR_WAKE_AT. -/
def State.wakeTime (s : State) : State :=
  let at_ := s.get64 F.PWR_WAKE_AT_LO
  if at_ = 0 then s else (s.advance at_).wake 5

/-- WAKE_TIME_REACHED (R473). -/
def execWakeTimeReached (s : State) : Result := .next s.wakeTime

/-- I3C_WAKE: only 0xA5 wakes the device (Table 17.9). -/
def execI3cWake (v : Byte) (s : State) : Result := .next (if v.toNat = 0xA5 then s.wake 4 else s)

/-- LEAD µs before a tick edge or a TIMED launch the device leaves S1, automatic or not (R475, Table 17.4). -/
def State.autoLeave (s : State) : State := s.wake 10

/-- AUTO_HOLD_EXIT (R475). -/
def execAutoHoldExit (s : State) : Result := .next s.autoLeave

/-- The drain has ended: the record is written and the state is prepared and retained (R470 steps 3 to 5). -/
def State.drainEnd (s : State) : State :=
  match s.pwr.entry with
  | none => s
  | some (n, id) =>
    if s.entryDrained n id then
      let s := { s with pwr := { s.pwr with entry := none } }
      let s := match id with
        | some i => s.finish i stDONE 0
        | none => s
      let s := s.powerTrace (if n = 1 then 3 else 1) n
      if n = 4 then ((s.girthReturn.detach).portsDown).s4Enter 0x60 else s.retain n
    else s

/-- DRAIN_COMPLETE (R470). -/
def execDrainComplete (s : State) : Result := .next s.drainEnd

/-- Exit from S3: enabled Rein ports train (R333, R474). -/
def State.portsTrain (s : State) : State :=
  (List.range 12).foldl (fun (s : State) n =>
    if s.on (F.REI_P_CTRL_EN n) && s.portState n == 0 && s.on F.REI_ID_VALID then s.setPortState n 1 else s) s

/-- The exit in progress ends: the POWER exit record is written, of subtype S1 marker after an automatic S1 (R466, R473, R475);
fetching and landing resume; from S4 the boot ROM starts (R474, R489). -/
def State.exitEnd (s : State) : State :=
  if !s.pwr.leaving then s
  else
    let n := s.get F.PWR_STATUS_STATE
    let k := if s.pwr.auto then 3 else 2
    let s := { s.set F.PWR_STATUS_STATE 0 with pwr := { s.pwr with leaving := false, auto := false } }
    let s := s.powerTrace k n
    if n = 4 then ({ s with lpe := { s.lpe with unpowered := false } } : State).bootStages 1 2 true
    else if n = 3 then s.portsTrain.limitUpdate.lpeUpdate
    else s.lpeUpdate

/-- STATE_EXIT_COMPLETE (R474). -/
def execStateExitComplete (s : State) : Result := .next s.exitEnd

/-! ### Temperature (R483) -/

/-- The trip of Table 17.6: the restart begins and is held; one in progress is held too (R487). -/
def State.thermalTrip (s : State) : State :=
  if s.pwr.trip then s
  else
    let s := { s with pwr := { s.pwr with trip := true, coolSince := none } }
    let s := (s.stickIrq F.PWR_TRIP_TRIP 13).ibi
    if s.boot.phase == BootPhase.run then s.restart 3 0x30 0xFF 0 0 []
    else (s.fault 9 0x30 0xC0 0 0 0 0 3 []).lastWords 0x30 0xFF 0 0

/-- The thermal limit after a reading (Table 17.6): set to PWR_MEAS and lowered by 5 % each ms at THROTTLE or above, raised by
1 % each 10 ms below THROTTLE − 3 °C, and removed once it exceeds every other term of L. -/
def State.thermalLimit (s : State) (tj thr : Int) (rising : Bool) : State :=
  if thr ≤ tj then
    let s := if rising then (s.stickIrq F.PWR_HOT_HOT 13).ibi else s
    match s.pwr.thermal with
    | none => { s with pwr := { s.pwr with thermal := some (1000000 * s.get F.PWR_MEAS), thermAt := s.cad.time } }
    | some l =>
      if s.pwr.thermAt + 1000000 ≤ s.cad.time then
        { s with pwr := { s.pwr with thermal := some (l * 95 / 100), thermAt := s.pwr.thermAt + 1000000 } }
      else s
  else if tj < thr - 3 then
    match s.pwr.thermal with
    | none => s
    | some l =>
      if s.pwr.thermAt + 10000000 ≤ s.cad.time then
        let l := l * 101 / 100
        let above := s.limitTerms.all fun (x : Nat × Nat) => decide (x.1 < l)
        { s with pwr := { s.pwr with thermal := if above then none else some l, thermAt := s.pwr.thermAt + 10000000 } }
      else s
  else s

/-- A junction temperature reading in °C. -/
def State.thermalSample (s : State) (v : BitVec 8) : State :=
  let tj := v.toInt
  let was := signed 8 (s.get F.PWR_TJ_NOW)
  let thr := signed 8 (s.get F.PWR_THERM_THROTTLE)
  let peak := signed 8 (s.get F.PWR_TJ_PEAK)
  let s := (s.set F.PWR_TJ_NOW v.toNat).set F.PWR_TJ_PEAK (unsigned 8 (max peak tj))
  let s := s.thermalLimit tj thr (decide (was < thr))
  let s := if 105 ≤ tj then (s.set F.PWR_STATUS_ECLK_MHZ 800).set F.PWR_STATUS_STEP 5 else s
  let s := if 115 ≤ tj then s.thermalTrip else s
  let cool := decide (tj < signed 8 (s.get F.PWR_THERM_RESUME))
  let since := if !cool then none else some (s.pwr.coolSince.getD s.cad.time)
  let s := { s with pwr := { s.pwr with coolSince := since } }
  s.limitUpdate

/-- THERMAL_SAMPLE (R483). -/
def execThermalSample (tj : BitVec 8) (s : State) : Result := .next (s.thermalSample tj)

/-- Tj has stayed below RESUME for 1 s: the trip is over and a held restart continues. -/
def State.thermalResume (s : State) : State :=
  match s.pwr.coolSince with
  | some c =>
    if s.pwr.trip then { s.advance (c + 1000000000) with pwr := { s.pwr with trip := false } } else s
  | none => s

/-- THERMAL_RESUME (R483). -/
def execThermalResume (s : State) : Result := .next s.thermalResume

/-! ### Confirmation and firmware registers (R497, R498, R501, R512) -/

/-- The slot in state TRIAL. -/
def State.trialSlot (s : State) : Option Nat := [0, 1].find? fun x => s.theRec.st x == 2

/-- The TRIAL slot becomes GOOD and PREF names it (R497). -/
def State.confirm (s : State) (x : Nat) : State :=
  let s := s.putRec ({ s.theRec.withSt x 3 with pref := x } : BootRec)
  (s.set F.FW_STATUS_TRIAL 0).slotRegs

/-- A write of 1 to FW_CTRL.CONFIRM; without a TRIAL slot it is discarded with CFG. -/
def State.fwConfirm (s : State) : State :=
  match s.trialSlot with
  | some x => s.confirm x
  | none => s.stick F.FW_CFG_CFG

/-- FW_CONFIRM (R497). -/
def execFwConfirm (s : State) : Result := .next s.fwConfirm

/-- AUTO_S seconds have passed since command-ready in S0 to S2 with a FULL pairing (R497). -/
def State.autoConfirm (s : State) : State :=
  let n := s.get F.FW_CONFIRM_AUTO_S
  match s.trialSlot with
  | some x =>
    if n != 0 && s.get F.FW_STATUS_PAIRING == 0 && decide (s.get F.PWR_STATUS_STATE ≤ 2) && s.boot.phase == BootPhase.run then
      (s.advance (s.boot.confirmFrom + 1000000000 * n)).confirm x
    else s
  | none => s

/-- AUTO_CONFIRM (R497). -/
def execAutoConfirm (s : State) : Result := .next s.autoConfirm

/-- A write of 1 to FW_CTRL.REBOOT: in RECOVERY an S4 entry and immediate exit, else discarded with CFG (R498). -/
def State.fwReboot (s : State) : State :=
  if s.boot.phase == BootPhase.recovery then s.reboot 0x60 1 2 else s.stick F.FW_CFG_CFG

/-- FW_REBOOT (R498). -/
def execFwReboot (s : State) : Result := .next s.fwReboot

/-- A write of `v` to FW_RESTART: the key starts a safe-state restart, another value is discarded with CFG (R501, R512). -/
def State.fwRestart (s : State) (v : Nat) : State :=
  if v = 0x53414645 then s.restart 4 0x32 0xFF 0 0 [] else s.stick F.FW_CFG_CFG

/-- FW_RESTART (R501). -/
def execFwRestart (v : Word) (s : State) : Result := .next (s.fwRestart v.toNat)

/-! ### Control cores (R504 to R506) -/

/-- The stack pointer is valid (R504). -/
def State.spValid (s : State) (c sp : Nat) : Bool :=
  decide (s.get (F.FW_STK_BASE c) + 128 ≤ sp) && decide (sp ≤ s.get (F.FW_STK_LIMIT c)) && sp % 16 == 0

/-- Record an exception in FW_EXC_c and CFAULT (R505). -/
def State.excRecord (s : State) (c cause pc sp : Nat) : State :=
  let s := (s.set (F.FW_EXC_CAUSE c) cause).set64 (F.FW_EXC_PC_LO c) pc
  ((s.set (F.FW_EXC_SP c) sp).set64 (F.FW_EXC_TIME_LO c) s.cad.time).stick F.FW_CFAULT_CFAULT

/-- An exception of control core `c` with cause `k` of Table 18.7 (2 to 6); one on the fault stack halts the core. -/
def State.coreException (s : State) (c k pc sp : Nat) (onFault : Bool) : State :=
  if s.boot.halted.contains c then s
  else
    let cause := if onFault then 8 else if s.spValid c sp then k else 1
    let s := s.excRecord c cause pc sp
    let d := leBytes 8 pc ++ leBytes 4 sp ++ leBytes 1 c
    if onFault then ({ s with boot := { s.boot with halted := s.boot.halted ++ [c] } } : State).fault 7 8 (0x40 + c) 0 0 0 0 0 d
    else if s.boot.phase == BootPhase.run then s.restart (if k = 4 then 5 else 1) cause c pc sp d
    else s.triggerFault (if k = 4 then 5 else 1) cause c d

/-- CONTROL_CORE_EXCEPTION: `kind` 0 to 4 is ILLEGAL_INSN, BUS_ERROR, ECC_UE, ALIGN, ASSERT. -/
def execControlCoreException (c : CoreIx) (kind : Fin 5) (pc : DWord) (sp : Word) (onFault : Bool) (s : State) : Result :=
  .next (s.coreException c.val (kind.val + 2) pc.toNat sp.toNat onFault)

/-- The watchdog of control core `c` expires; watchdogs are stopped during a restart (R506). -/
def State.coreWatchdog (s : State) (c : Nat) : State :=
  if s.boot.phase != BootPhase.run then s
  else
    let s := (s.set (F.FW_EXC_CAUSE c) 7).stick F.FW_CFAULT_CFAULT
    s.restart 2 7 c 0 0 (leBytes 12 0 ++ leBytes 1 c)

/-- CONTROL_CORE_WATCHDOG (R506). -/
def execControlCoreWatchdog (c : CoreIx) (s : State) : Result := .next (s.coreWatchdog c.val)

/-- PLL_UNLOCK: the ECLK or control-core PLL loses lock (R501). -/
def execPllUnlock (s : State) : Result := .next (s.restart 6 0x31 0xFF 0 0 [])

/-! ### Clocks and rails (R533, R535, R539) -/

/-- TCXO_IN is lost: rack time and the Loupe go on with the internal oscillator (R539). -/
def State.tcxoLoss (s : State) : State :=
  if s.boot.tcxoLost then s
  else
    let s := { s with boot := { s.boot with tcxoLost := true } }
    ((s.stickIrq F.CAD_SRC_SRC 15).set F.CAD_HOLD_ERR 0xFFFFFFFF).set F.CAD_STATUS_HOLD_IN_SPEC 0

/-- TCXO_LOSS. -/
def execTcxoLoss (s : State) : Result := .next s.tcxoLoss

/-- TCXO_IN is back for 1 s: the holdover model applies again (R539), in HOLDOVER with its bound for the time passed. -/
def State.tcxoReturn (s : State) : State :=
  if !s.boot.tcxoLost then s
  else
    let s := { s with boot := { s.boot with tcxoLost := false } }
    match s.get F.CAD_STATUS_SOURCE with
    | 6 => s
    | _ => (s.set F.CAD_HOLD_ERR 0).holdRefresh

/-- TCXO_RETURN. -/
def execTcxoReturn (s : State) : Result := .next s.tcxoReturn

/-- SYSCLK is lost: a safe-state restart, the Rein ports go to DOWN and the ETH links drop (R539). -/
def State.sysLoss (s : State) : State :=
  let s := { s with boot := { s.boot with sysLost := true } }
  let s := s.restart 6 0x31 0xFF 0 0 []
  let s := (List.range 12).foldl (fun (s : State) n => if s.portState n = 0 || s.portState n = 8 then s else s.portLost n 8 0) s
  (s.ethLink 0 false).ethLink 1 false

/-- SYSCLK_LOSS. -/
def execSysclkLoss (s : State) : Result := .next s.sysLoss

/-- SYSCLK_RETURN: stable for 1 ms, a held restart goes on. -/
def execSysclkReturn (s : State) : Result := .next { s with boot := { s.boot with sysLost := false } }

/-- REFCLK_LOSS: the HP link drops, a host reset (R390, R539). -/
def execRefclkLoss (s : State) : Result := .next (s.hostReset 2)

/-- RAIL_UNDERVOLTAGE of a main rail: the effect of POR_N low (R535). -/
def execRailUndervoltage (s : State) : Result := .next (s.porAssert)

/-- VDD_LPE below its threshold: the Loupe is held in reset (R535, Table 15.11). -/
def State.lpeRailLow (s : State) : State :=
  ({ s with lpe := { s.lpe with unpowered := true, down := some .restart } } : State).lpeUpdate

/-- VDD_LPE_UNDERVOLTAGE. -/
def execVddLpeUndervoltage (s : State) : Result := .next s.lpeRailLow

/-- VDD_LPE is back: the Loupe leaves reset and a Loupe restart begins. -/
def State.lpeRailBack (s : State) : State :=
  if s.lpe.unpowered && decide (s.get F.PWR_STATUS_STATE < 4) then
    ({ s with lpe := { s.lpe with unpowered := false } } : State).loupeRestart false
  else s

/-- VDD_LPE_RETURN. -/
def execVddLpeReturn (s : State) : Result := .next s.lpeRailBack

/-- VDD_AO is lost: the last-words record is lost too (R525, R535). -/
def State.aoLoss (s : State) : State :=
  let s := s.porAssert
  { s with regs := s.regs.filter fun (x : Nat × BitVec 32) => !(decide (0x100 ≤ x.1) && decide (x.1 < 0x140)) }

/-- VDD_AO_LOSS. -/
def execVddAoLoss (s : State) : Result := .next s.aoLoss

/-- The device holds itself in reset. -/
def State.testHold (s : State) : State := s.porAssert

/-- TEST_EN_HIGH (R533). -/
def execTestEnHigh (s : State) : Result := .next s.testHold

/-- AP_PERST_Nk is asserted: in endpoint mode it resets AP link k alone (R533). -/
def State.apPerst (s : State) (k : Nat) : State :=
  if s.on F.TEN_AP_MODE then s else s.apLink k 0 0 false

/-- AP_PERST_ASSERT. -/
def execApPerstAssert (k : ApLink) (s : State) : Result := .next (s.apPerst k.val)

/-- In root-port mode the device releases AP_PERST_Nk of an enabled link (R533). -/
def State.apRelease (s : State) (k : Nat) : State :=
  if s.on F.TEN_AP_MODE && bit (s.get F.TEN_AP_EN) k then { s with pcie := { s.pcie with apPerst := putBit s.pcie.apPerst k true } } else s

/-- AP_PERST_RELEASE. -/
def execApPerstRelease (k : ApLink) (s : State) : Result := .next (s.apRelease k.val)

end Sys2Proof.Machine
end

