-- ==== Sys2Proof/Machine/Firmware.lean ====
section
/-! DEFINITION. The firmware-path commands of chapters 07 and 18: update sessions (R223, R224, R492, R494) and calibration
(R509 to R511). -/
namespace Sys2Proof.Machine

/-! ### Update sessions -/

/-- FW_SESSION shows the session and its bytes. -/
def State.putSession (s : State) (x : Session) : State :=
  let s := { s with boot := { s.boot with session := some x, flash := kvIns x.region x.data s.boot.flash } }
  let s := ((s.set F.FW_SESSION_OPEN 1).set F.FW_SESSION_SLOT (x.region / 2)).set F.FW_SESSION_KIND (x.region % 2)
  (s.set F.FW_SESSION_BYTES x.data.length).slotRegs

/-- CF accepts an FW_BEGIN (R223): the slot becomes INVALID and its region is erased. -/
def State.fwBegin (s : State) (id : Nat) : State :=
  match s.cmd? id with
  | none => s
  | some c =>
    let slot := leAt c.pkt 24 1
    let kind := leAt c.pkt 25 1
    let size := leAt c.pkt 28 4
    if s.boot.session.isSome then s.fail id stREJ_BUSY
    else if s.get F.FW_STATUS_BOOT_SLOT = slot then s.fail id stREJ_PERM
    else if (if kind = 0 then 0x400000 else 0x100000) < size then s.fail id stREJ_BOUNDS
    else ((s.slotTo slot 0).putSession ⟨2 * slot + kind, size, []⟩).finish id stDONE 0

/-- CF accepts an FW_DATA: a chunk is read and programmed at the next offset; `fails` says that the host does not serve the
read. -/
def State.fwData (s : State) (id : Nat) (fails : Bool) : State :=
  match s.cmd? id with
  | none => s
  | some c =>
    match s.boot.session with
    | none => s.fail id stREJ_HANDLE
    | some x =>
      let off := leAt c.pkt 36 4
      let n := leAt c.pkt 40 4
      let da := leAt c.pkt 24 8
      if off != x.data.length || decide (x.size < off + n) then s.fail id stREJ_BOUNDS
      else
        match s.areaCheck c.tenant da (leAt c.pkt 32 2) (leAt c.pkt 34 2) n false with
        | (some st, s) => s.fail id st
        | (none, s) =>
          match s.areaRead c.tenant c.seqNo da n fails with
          | (.error st, s) => s.fail id st
          | (.ok b, s) => (s.putSession { x with data := x.data ++ b }).finish id stDONE 0

/-- The outcome of the checks of FW_COMMIT (R224, R492). -/
def State.commitCheck (s : State) (x : Session) : Nat :=
  if x.data.length < x.size || x.size != 512 + leAt x.data 12 4 then stREJ_BOUNDS
  else if !(s.imageAuth (x.region % 2) x.data) then stREJ_PERM
  else if !(s.imageStep x.data) then stREJ_COMPAT
  else stDONE

/-- CF accepts an FW_COMMIT: the session ends; a verified image makes the slot CANDIDATE where its CF region passes R441
(Table 18.4). -/
def State.fwCommit (s : State) (id : Nat) : State :=
  match s.boot.session with
  | none => s.fail id stREJ_HANDLE
  | some x =>
    let st := s.commitCheck x
    let slot := x.region / 2
    let s := s.closeSession
    if st = stDONE then
      ((if s.imagePasses 0 (2 * slot) then s.slotTo slot 1 else s).slotRegs).finish id stDONE 0
    else ((s.slotTo slot 0).slotRegs).fail id st

/-- CF accepts an FW_ABORT: the session is discarded. -/
def State.fwAbort (s : State) (id : Nat) : State := s.closeSession.finish id stDONE 0

/-! ### Calibration -/

/-- CF accepts a CAL_RUN (R220, R509): Rein ports retrain and ETH ports relink for their scopes; while Rein, PCIe or HBM is
calibrated, nothing TICKED is admitted. -/
def State.calStart (s : State) (id : Nat) : State :=
  match s.cmd? id with
  | none => s
  | some c =>
    let scope := leAt c.pkt 24 1
    if s.ticksOpen then s.fail id stREJ_BUSY
    else
      let s := s.modCmd id fun (c : Cmd) => { c with phase := .running }
      let s := { s with boot := { s.boot with calRun := some ⟨id, scope, s.boot.calVal⟩ } }
      let s := (s.set F.CAL_STATUS_BUSY 1).set F.CAL_STATUS_NOFIT (b2n (scope &&& 11 != 0))
      let s := if bit scope 0 then (List.range 12).foldl (fun (s : State) n => if s.portActive n then s.retrain n else s) s else s
      if bit scope 2 then (s.ethLink 0 false).ethLink 1 false else s

/-- Scopes a CAL_RUN skips (R509): Rein without an ACTIVE port, the time base below 72 hours of learning, thermal sensors
when Tj does not settle. -/
def State.calSkips (s : State) (scope : Nat) (ports settled : Bool) : Nat :=
  (if bit scope 0 && !ports then 1 else 0) + (if bit scope 4 && decide (s.get F.CAD_HOLD_LEARN_HOURS < 72) then 16 else 0)
    + (if bit scope 5 && !settled then 32 else 0)

/-- A CAL_RUN ends: `failed` are the scopes whose result fails its limits, `ports` says that a Rein port was ACTIVE,
`settled` that Tj settled. New values are the device's own, a free value each. -/
def State.calEnd (s : State) (failed : Nat) (ports settled : Bool) : State :=
  match s.boot.calRun with
  | none => s
  | some r =>
    let skip := s.calSkips r.scope ports settled
    let bad := failed &&& r.scope &&& (63 - skip)
    let done := r.scope &&& (63 - skip) &&& (63 - bad)
    let s := (List.range 6).foldl (fun (s : State) b =>
      if bit done b then
        ({ s with boot := { s.boot with calVal := modNth (fun _ => s.freeVal.toNat + 1) b s.boot.calVal } } : State).draw
      else s) s
    let s := { s with boot := { s.boot with calRun := none } }
    let s := (s.set F.CAL_STATUS_BUSY 0).set F.CAL_STATUS_NOFIT 0
    let s := (s.set F.CAL_STATUS_RUN (s.get F.CAL_STATUS_RUN ||| done)).set F.CAL_STATUS_USER (s.get F.CAL_STATUS_USER &&& (63 - done))
    let s := ((s.set F.CAL_LAST_SCOPE r.scope).set F.CAL_LAST_SKIPPED skip).set F.CAL_LAST_FAILED bad
    if bad = 0 then s.finish r.cmd stDONE 0
    else
      (s.stick F.CAL_FAIL_FAIL).internalFail r.cmd

/-- CAL_RUN_COMPLETE (R509). -/
def execCalRunComplete (failed : BitVec 6) (ports settled : Bool) (s : State) : Result := .next (s.calEnd failed.toNat ports settled)

/-- Every value in force as a user record with a sequence number. -/
def State.calRecord (s : State) (seq : Nat) : CalRec :=
  ⟨seq, s.get64 F.REI_SERIAL_LO, s.get F.GLB_ID_STEPPING, 63, s.boot.calVal, s.cad.model, s.cad.lockSeconds⟩

/-- CF accepts a CAL_SAVE (R510): the older copy takes the values in force. -/
def State.calSave (s : State) (id : Nat) : State :=
  let seq := match s.userCal with | some r => r.seq + 1 | none => 1
  let first := match s.boot.cal0, s.boot.cal1 with
    | some a, some b => decide (b.seq ≤ a.seq)
    | some _, none => true
    | none, _ => false
  let r := s.calRecord seq
  let s := { s with boot := if first then { s.boot with cal1 := some r } else { s.boot with cal0 := some r } }
  (s.set F.CAL_USER_SEQ seq).finish id stDONE 0

/-- CF accepts a RESTORE_FACTORY (R511): both user copies go, the factory record is the source of every scope. Scope 5
takes effect at once, 0 to 3 at the next training, 4 at once unless the device runs on the model. -/
def State.calFactory (s : State) (id : Nat) : State :=
  let b : Boot := { s.boot with cal0 := none, cal1 := none, calVal := modNth (fun _ => 0) 5 s.boot.calVal, calLater := true }
  let s := { s with boot := b }
  let s := ((s.set F.CAL_STATUS_USER 0).set F.CAL_STATUS_RUN 0).set F.CAL_USER_SEQ 0
  let src := s.get F.CAD_STATUS_SOURCE
  let s := if src = 5 || src = 6 then s else s.factoryModel
  s.finish id stDONE 0

end Sys2Proof.Machine
end

