-- ==== Sys2Proof/Machine/Queues.lean ====
section
/-! DEFINITION. Chapter 06: queues and the completion queue: enable, disable, resume, rebinding, doorbells, and the fetch of
packets into a queue's shadow (R151 to R157, R160, R167, R173, R182). -/
namespace Sys2Proof.Machine

/-! ### The conditions of R151 -/

/-- A ring of `n` bytes passes R151: its base is 4 KiB aligned in HOST space or in the local SRAM, and it lies inside a host
window with ID 0xFFFF and GEN 0, or inside the named window of the tenant with its permission; `wr` asks for W in place of R. In
RECOVERY only HOST rings pass (R498). -/
def State.ringOk (s : State) (t base win gen n : Nat) (wr : Bool) : Bool :=
  s.isLocal (daChip base) && daOff base % 4096 == 0 &&
  (if daSpace base = 4 then
      win == 0xFFFF && gen == 0 && s.extInside t 4 (daOff base) n && s.extGrants t 4 (daOff base) n wr
    else daSpace base == 1 && s.boot.phase != BootPhase.recovery &&
      (match s.window t win gen with
       | some w => (if wr then w.w else w.r) && s.insideWindow w 1 (daOff base) n
       | none => false))

/-- Base DA and slots of a queue's ring. -/
def State.qBase (s : State) (t q : Nat) : Nat := s.get64 (F.TP_Q_BASE_LO t q)
def State.qSize (s : State) (t q : Nat) : Nat := 2 ^ s.get (F.TP_Q_CFG_SIZE t q)

/-- A queue's ring passes R151 with a window and generation. -/
def State.qRingOk (s : State) (t q win gen : Nat) : Bool := s.ringOk t (s.qBase t q) win gen (64 * s.qSize t q) false

/-- The CQ ring passes R151 with a window and generation. -/
def State.cqRingOk (s : State) (t win gen : Nat) : Bool := s.ringOk t (s.cqBase t) win gen (32 * s.cqSize t) true

/-- A refused tenant-page write or enable. -/
def State.pageRefused (s : State) (t : Nat) : State := s.stick (F.TP_CFG_CFG t)

/-! ### Enables and disables (R151, R153, R154, R452) -/

/-- A write of 1 to TP_Qq_CTRL.EN. A new enable starts without a halt or an open locked sequence. -/
def State.queueEnable (s : State) (t q : Nat) : State :=
  let s := s.credEvalAll
  if s.on (F.TP_Q_CTRL_EN t q) then s
  else if !(s.qRingOk t q (s.get (F.TP_Q_WIN_ID t q)) (s.get (F.TP_Q_WIN_GEN t q))) || !(s.on (F.TP_CQ_CTRL_EN t))
      || (s.on F.SEC_CTRL_CRED_REQ && t != 0 && !(s.credValid t)) then s.pageRefused t
  else
    let s := (s.set (F.TP_Q_HEAD t q) 0).set (F.TP_Q_TAIL t q) 0
    let s := s.set (F.TP_Q_SEQ_NEXT t q) (s.get (F.TP_Q_SEQ_INIT t q))
    let s := (s.set (F.TP_Q_STATUS_HALT t q) 0).set (F.TP_Q_STATUS_CAUSE t q) 0
    (s.set (F.TP_Q_CTRL_EN t q) 1).setQueue { s.queueSt t q with openSeq := none }

/-- QUEUE_ENABLE: a tenant writes 1 to TP_Qq_CTRL.EN. -/
def execQueueEnable (t : Tenant) (q : Queue) (s : State) : Result :=
  .next (if s.pageOpen t.val then s.queueEnable t.val q.val else s)

/-- A write of 0 to TP_Qq_CTRL.EN: fetching stops, and what is in the shadow runs. -/
def State.queueDisable (s : State) (t q : Nat) : State := s.set (F.TP_Q_CTRL_EN t q) 0

/-- QUEUE_DISABLE: a tenant writes 0 to TP_Qq_CTRL.EN. -/
def execQueueDisable (t : Tenant) (q : Queue) (s : State) : Result :=
  .next (if s.pageOpen t.val then s.queueDisable t.val q.val else s)

/-- A write of 1 to TP_Qq_CTRL.RESUME of a halted queue: fetching goes on from HEAD, and the bit reads 1 until it does (R160,
Table 6.9). -/
def State.queueResume (s : State) (t q : Nat) : State :=
  if s.on (F.TP_Q_STATUS_HALT t q) then
    ((s.set (F.TP_Q_STATUS_HALT t q) 0).set (F.TP_Q_STATUS_CAUSE t q) 0).set (F.TP_Q_CTRL_RESUME t q) 1
  else s

/-- QUEUE_RESUME: a tenant writes 1 to TP_Qq_CTRL.RESUME. -/
def execQueueResume (t : Tenant) (q : Queue) (s : State) : Result :=
  .next (if s.pageOpen t.val then s.queueResume t.val q.val else s)

/-- A write of TP_Qq_WIN: free while the queue is disabled; while it is halted, only to a window the unchanged ring passes R151
with; else refused (R153). -/
def State.queueWin (s : State) (t q v : Nat) : State :=
  if !(s.on (F.TP_Q_CTRL_EN t q)) || (s.on (F.TP_Q_STATUS_HALT t q) && s.qRingOk t q (v % 65536) (v / 65536 % 65536)) then
    s.putRw (F.TP_Q_WIN_ID t q).addr v
  else s.pageRefused t

/-- QUEUE_WIN_WRITE: a tenant writes the word TP_Qq_WIN. -/
def execQueueWinWrite (t : Tenant) (q : Queue) (v : Word) (s : State) : Result :=
  .next (if s.pageOpen t.val then s.queueWin t.val q.val v.toNat else s)

/-- A write of 1 to TP_CQ_CTRL.EN: HEAD and TAIL become 0. -/
def State.cqEnable (s : State) (t : Nat) : State :=
  if s.on (F.TP_CQ_CTRL_EN t) then s
  else if !(s.cqRingOk t (s.get (F.TP_CQ_WIN_ID t)) (s.get (F.TP_CQ_WIN_GEN t))) then s.pageRefused t
  else
    let s := (((s.set (F.TP_CQ_HEAD t) 0).set (F.TP_CQ_TAIL t) 0).set (F.TP_CQ_STATUS_HALT t) 0).set (F.TP_CQ_CTRL_EN t) 1
    s.setTenant { s.tenantSt t with cqFull := false }

/-- CQ_ENABLE: a tenant writes 1 to TP_CQ_CTRL.EN. -/
def execCqEnable (t : Tenant) (s : State) : Result := .next (if s.pageOpen t.val then s.cqEnable t.val else s)

/-- A write of 0 to TP_CQ_CTRL.EN, refused while a queue of the tenant is enabled. -/
def State.cqDisable (s : State) (t : Nat) : State :=
  if s.on (F.TP_CQ_CTRL_EN t) && (List.range 8).any (fun q => s.on (F.TP_Q_CTRL_EN t q)) then s.pageRefused t
  else s.set (F.TP_CQ_CTRL_EN t) 0

/-- CQ_DISABLE: a tenant writes 0 to TP_CQ_CTRL.EN. -/
def execCqDisable (t : Tenant) (s : State) : Result := .next (if s.pageOpen t.val then s.cqDisable t.val else s)

/-- CQ_RESUME: a tenant writes 1 to TP_CQ_CTRL.RESUME; a halted CQ's pending records are written again in order (R173). -/
def execCqResume (t : Tenant) (s : State) : Result :=
  .next (if s.pageOpen t.val && s.on (F.TP_CQ_STATUS_HALT t.val) then s.cqResume t.val else s)

/-- A write of TP_CQ_WIN, by the rule of TP_Qq_WIN (R153). -/
def State.cqWin (s : State) (t v : Nat) : State :=
  if !(s.on (F.TP_CQ_CTRL_EN t)) || (s.on (F.TP_CQ_STATUS_HALT t) && s.cqRingOk t (v % 65536) (v / 65536 % 65536)) then
    s.putRw (F.TP_CQ_WIN_ID t).addr v
  else s.pageRefused t

/-- CQ_WIN_WRITE: a tenant writes the word TP_CQ_WIN. -/
def execCqWinWrite (t : Tenant) (v : Word) (s : State) : Result :=
  .next (if s.pageOpen t.val then s.cqWin t.val v.toNat else s)

/-! ### Doorbells (R155, R167, R473) -/

/-- A doorbell write from the host port wakes the device from S1 to S3 and is served then (R473). -/
def State.doorbell (s : State) (t q v : Nat) : State := ((s.wake 1).ringBell t q v).2

/-- DOORBELL: a tenant writes TP_Qq_TAIL. -/
def execDoorbell (t : Tenant) (q : Queue) (v : Word) (s : State) : Result :=
  .next (if s.pageOpen t.val then s.doorbell t.val q.val v.toNat else s)

/-- A write of TP_CQ_HEAD: accepted up to TAIL; a refused one sends vector 1 (R167, Table 6.7). -/
def State.cqBell (s : State) (t v : Nat) : State :=
  let head := s.get (F.TP_CQ_HEAD t)
  let tail := s.get (F.TP_CQ_TAIL t)
  let d := (v + 2 ^ 32 - head) % 2 ^ 32
  if d ≤ (tail + 2 ^ 32 - head) % 2 ^ 32 then
    let s := s.set (F.TP_CQ_HEAD t) v
    if d = 0 then s else s.setTenant { s.tenantSt t with cqFull := false }
  else (s.stick (F.TP_CQOVR_CQOVR t)).msix t 1

/-- CQ_DOORBELL: a tenant writes TP_CQ_HEAD. -/
def execCqDoorbell (t : Tenant) (v : Word) (s : State) : Result :=
  .next (if s.pageOpen t.val then (s.wake 1).cqBell t.val v.toNat else s)

/-- CMQ_STOP_WRITE: T0 writes CMQ_STOP (R182). -/
def execCmqStopWrite (v : BitVec 16) (s : State) : Result :=
  .next (if s.blockOpen then s.set F.CMQ_STOP v.toNat else s)

/-! ### Fetch (R152, R156, R157, R182) -/

/-- The front end may fetch for a queue: it is enabled and not halted, its tenant is not stopped, the device is in S0 with no
power state being entered and past its boot. -/
def State.mayFetch (s : State) (t q : Nat) : Bool :=
  s.on (F.TP_Q_CTRL_EN t q) && !(s.on (F.TP_Q_STATUS_HALT t q)) && !(bit (s.get F.CMQ_STOP) t) && s.pwr.entry.isNone
    && s.get F.PWR_STATUS_STATE == 0 && (s.boot.phase == BootPhase.run || s.boot.phase == BootPhase.recovery) && !(s.ctxBusy t)

/-- A queue halts: HALT with its CAUSE (1 SEQ, 2 FETCH), TP_HALT, and the vectors (R157, R160). -/
def State.haltQueue (s : State) (t q cause : Nat) : State :=
  ((s.set (F.TP_Q_STATUS_HALT t q) 1).set (F.TP_Q_STATUS_CAUSE t q) cause).haltNote t (s.tenantHalted t)

/-- Slot `i` of a ring is read; none where the fetch fails: the host path is closed, or the window generation is stale or the word
uncorrectable in SRAM (R157). -/
def State.readSlot (s : State) (t q i : Nat) : Option (List (BitVec 8)) × State :=
  let base := s.qBase t q
  let da := base + 64 * (i % s.qSize t q)
  if daSpace base != 4 && (s.window t (s.get (F.TP_Q_WIN_ID t q)) (s.get (F.TP_Q_WIN_GEN t q))).isNone then (none, s)
  else
    match s.areaRead t 0 da 64 false with
    | (.ok l, s) => (some l, s)
    | (.error _, s) => (none, s)

/-- Slots `i` to `i + n − 1` of a ring, which may wrap to slot 0 (R156). -/
def State.readSlots (s : State) (t q i : Nat) : Nat → Option (List (BitVec 8)) × State
  | 0 => (some [], s)
  | n + 1 =>
    match s.readSlots t q i n with
    | (none, s) => (none, s)
    | (some l, s) =>
      match s.readSlot t q (i + n) with
      | (none, s) => (none, s)
      | (some x, s) => (some (l ++ x), s)

/-- Fetch up to `n` packets with at most `room` bytes left in the burst and TAIL as sampled. A packet whose SEQ is not the one its
place in the queue expects is not trusted with its LEN: its first slot alone is taken, and the burst ends (R160). -/
def State.fetchPackets (s : State) (t q tail room : Nat) : Nat → State
  | 0 => s
  | n + 1 =>
    let head := s.get (F.TP_Q_HEAD t q)
    let avail := (tail + 2 ^ 32 - head) % 2 ^ 32
    if avail = 0 then s
    else
      match s.readSlot t q head with
      | (none, s) => s.haltQueue t q 2
      | (some first, s) =>
        let x := s.queueSt t q
        let trusted := leAt first 4 4 == (s.get (F.TP_Q_SEQ_NEXT t q) + x.shadow.length) % 2 ^ 32
        let len := if trusted then leAt first 1 1 % 4 + 1 else 1
        if avail < len || 256 < x.slots + len || room < 64 * len then s
        else
          match s.readSlots t q head len with
          | (none, s) => s.haltQueue t q 2
          | (some p, s) =>
            let s := (s.setQueue { x with shadow := x.shadow ++ [p] }).set (F.TP_Q_HEAD t q) ((head + len) % 2 ^ 32)
            if trusted then s.fetchPackets t q tail (room - 64 * len) n else s

/-- One fetch burst of a queue: up to 16 whole packets and at most 1,024 bytes (R156). Fetching has restarted, so RESUME
reads 0 again. -/
def State.queueFetch (s : State) (t q : Nat) : State :=
  if s.mayFetch t q then
    (s.set (F.TP_Q_CTRL_RESUME t q) 0).fetchPackets t q (s.get (F.TP_Q_TAIL t q)) 1024 16
  else s

/-- QUEUE_FETCH of queue `q` of tenant `t`; a write of 1 to RESUME in the cycle in which fetching restarts leaves RESUME at 1
(R12). -/
def execQueueFetch (t : Tenant) (q : Queue) (same : Bool) (s : State) : Result :=
  let s' := s.queueFetch t.val q.val
  .next (if same && s.pageOpen t.val && s.on (F.TP_Q_CTRL_RESUME t.val q.val) then s'.set (F.TP_Q_CTRL_RESUME t.val q.val) 1 else s')

/-- A ring read fails: a HOST read that the host refuses, poisons or leaves unanswered, or an SRAM read that finds what
`readSlot` names (R157). HEAD stays at the packet that failed. -/
def State.fetchFail (s : State) (t q : Nat) : State :=
  if s.mayFetch t q && s.get (F.TP_Q_TAIL t q) != s.get (F.TP_Q_HEAD t q) then
    if daSpace (s.qBase t q) = 4 then s.haltQueue t q 2
    else
      match s.readSlot t q (s.get (F.TP_Q_HEAD t q)) with
      | (none, s) => s.haltQueue t q 2
      | (some _, _) => s
  else s

/-- QUEUE_FETCH_FAIL of queue `q` of tenant `t`. -/
def execQueueFetchFail (t : Tenant) (q : Queue) (s : State) : Result := .next (s.fetchFail t.val q.val)

end Sys2Proof.Machine
end

