-- ==== Sys2Proof/Machine/Opcodes.lean ====
section
/-! DEFINITION. Chapters 01, 06 and 07: the decode of packets (R27 to R31, R159 to R163, R169, R184, R233, R234), CF's service
of firmware-path commands (R28 to R30), HELLO (R175 to R177), and one row per opcode of Table 7.1. -/
namespace Sys2Proof.Machine

/-! ### Header checks (R161 to R163, R177, R185) -/

/-- The LOCK marks of a packet break R163: a begin or an unmarked command while a sequence is open, a continue or end while
none is. -/
def lockBreaks (isOpen : Bool) (lock : Nat) : Bool := if isOpen then lock ≤ 1 else 2 ≤ lock

/-- The lower of two bytes at fault. -/
def firstOf : Option Nat → Option Nat → Option Nat
  | some a, some b => some (min a b)
  | a, b => a.or b

/-- Steps 2 to 6 of R161 for a packet of queue `q`: the byte of the first failure. -/
def State.headerCheck (s : State) (t q : Nat) (p : Packet) : Option Nat :=
  let op := pOp p
  let f := pFlags p
  if (lensOf op).isEmpty || (isNew3 op && s.get (F.TP_FMT_MAJOR t) == 2) then some 0
  else if !((lensOf op).contains (pLen p)) then some 1
  else
    (firstOf (headerReserved p) (s.fmt2Flags t p)).or
      (if f &&& (0x19F - flagsOf op) != 0 then some 2
       else if !((locksOf op).contains (flLOCK f)) then some 2
       else if lockBreaks (s.queueSt t q).openSeq.isSome (flLOCK f) then some 2
       else none)

/-! ### HELLO (R175 to R177, R192) -/

/-- The format of a tenant becomes major `m` with the device's minor 0. -/
def State.formatSet (s : State) (t m : Nat) : State :=
  ((s.set (F.TP_FMT_MAJOR t) m).set (F.TP_FMT_MINOR t) 0).set (F.TP_FMT_SET t) 1

/-- CF accepts a HELLO: major 3 or 2 with the lower of the minors, which is 0; REJ_COMPAT with the majors of this device for another;
REJ_BUSY where the major would change while commands of the tenant have no record. A changed major unloads the tenant's graphs
(R176, R329). -/
def State.hello (s : State) (id : Nat) : State :=
  match s.cmd? id with
  | none => s
  | some c =>
    let m := leAt c.pkt 24 1
    let t := c.tenant
    if m != 3 && m != 2 then s.finish id stREJ_COMPAT (3 * 256 + 2 * 65536)
    else if s.on (F.TP_FMT_SET t) && s.get (F.TP_FMT_MAJOR t) != m
        && (s.cmds.any (fun (x : Cmd) => x.tenant == t && x.id != id) || !(s.tenantSt t).pendingRecs.isEmpty) then
      s.fail id stREJ_BUSY
    else
      let pairing := s.get F.FW_STATUS_PAIRING
      let mode := if pairing = 3 then 1 else pairing
      let s := if s.on (F.TP_FMT_SET t) && s.get (F.TP_FMT_MAJOR t) != m then
          { s with graphs := s.graphs.filter fun (g : Graph) => g.tenant != t } else s
      (s.formatSet t m).finish id stDONE (m * 256 + s.get F.GLB_ID_STEPPING * 65536 + mode * 2 ^ 24)

/-! ### CF's firmware-path commands (R28 to R30, R189, R509) -/

/-- The effect of the firmware-path command `id`, of opcode `op`; `fails` says that an access of it to host memory fails. -/
def State.cfRun (s : State) (id op : Nat) (fails : Bool) : State :=
  match op with
  | 0x02 => s.hello id
  | 0x08 => s.winCreate id
  | 0x09 => s.winRevoke id false
  | 0x0A => s.winRevoke id true
  | 0x0C => s.descCreate id fails
  | 0x0D => s.descDestroy id
  | 0x28 => s.graphLoad id fails
  | 0x2A => s.graphUnload id
  | 0x30 => s.pwrRequest id
  | 0x34 => s.calStart id
  | 0x35 => s.calSave id
  | 0x36 => s.calFactory id
  | 0x38 => s.attest id fails
  | 0x3C => s.fwBegin id
  | 0x3D => s.fwData id fails
  | 0x3E => s.fwCommit id
  | 0x3F => s.fwAbort id
  | _ => s.safeConfig id fails

/-- A firmware-path command leaves CF's list and takes its effect. -/
def State.cfStart (s : State) (id : Nat) (fails : Bool) : State :=
  let s := ({ s with cf := s.cf.filter (· != id) } : State).modCmd id fun (c : Cmd) =>
    { c with phase := Phase.running, started := true, startedAt := s.cad.time }
  match s.cmd? id with
  | none => s
  | some c => s.cfRun id c.op fails

/-- CF accepts a firmware-path command, which takes its effect; a fence flushes first, as for a fast-path command (R164). -/
def State.cfAccept (s : State) (id : Nat) (fails : Bool) : State :=
  match s.cmd? id with
  | none => s
  | some c =>
    if isFence c.pkt && s.flushFails c.tenant (s.queueSt c.tenant c.queue).dirty fails then
      (if faultsLink c.op then s.fail id stFAULT_LINK else s)
    else (if isFence c.pkt then s.flushed c.tenant c.queue else s).cfStart id fails

/-- CF may accept a command now: it awaits acceptance, its start condition holds, and a CAL command waits for the one that
runs (R509). -/
def State.acceptable (s : State) (id : Nat) : Bool :=
  match s.cmd? id with
  | some c => c.phase == Phase.atCF && s.startable c && !(s.boot.calRun.isSome && decide (0x34 ≤ c.op) && decide (c.op ≤ 0x36))
  | none => false

/-- CF takes its next item: nothing while a plan is being computed; then plans for admitted TICKED commands, other plans, and
firmware-path commands in the order they reached CF (R30). Of several plans of one rank the oldest computation comes first (DESIGN
CHOICE, log entry 88: R30 orders the ranks only). -/
def State.cfWork (s : State) (fails : Bool) : State :=
  if (s.boot.phase != BootPhase.run && s.boot.phase != BootPhase.recovery) || s.planJobs.any (·.started) then s
  else
    match (s.planJobs.find? (·.ticked)).or s.planJobs.head? with
    | some j => { s with planJobs := s.planJobs.map fun (k : PlanJob) => if k = j then { k with started := true } else k }
    | none =>
      match s.cf.find? s.acceptable with
      | some id => s.cfAccept id fails
      | none => s

/-- CF_WORK_START. -/
def execCfWorkStart (fails : Bool) (s : State) : Result := .next (s.cfWork fails)

/-! ### A decoded packet (R28, R29, R184) -/

/-- A firmware-path command is passed to CF, or completed with REJ_BUSY while 256 await acceptance (R28, R29). -/
def State.toCf (s : State) (id : Nat) : State :=
  if 256 ≤ s.cf.length then (s.stick F.CMQ_BUSY_BUSY).fail id stREJ_BUSY
  else
    let s := ({ s with cf := s.cf ++ [id] } : State).modCmd id fun (c : Cmd) => { c with phase := Phase.atCF }
    s.set F.CMQ_FWQ_PEAK (max (s.get F.CMQ_FWQ_PEAK) s.cf.length)

/-- The sequence open in decode order of a queue has been ended. -/
def State.seqDead (s : State) (t q : Nat) : Bool :=
  match (s.queueSt t q).openSeq with
  | some x => (s.seq? x).any (·.broken.isSome)
  | none => false

/-- A packet that has passed its header checks becomes a command of queue `q` of tenant `t`: the checks of its body, then the
path of its opcode. -/
def State.issue (s : State) (t q : Nat) (p : Packet) (fails : Bool) : State :=
  let id := s.nextId
  let s := s.addCmd (s.freshCmd t q p none)
  -- the rest of a sequence that has been ended completes with its status before any check of its own (R213, R271)
  if s.seqDead t q && 2 ≤ flLOCK (pFlags p) then s.joinStart id fails
  else
    match s.bodyCheck t (pOp p) p with
    | some r => s.reject id r
    | none => if isFirmware (pOp p) then s.toCf id else s.decodeFast id (pOp p) fails

/-- A packet with a failing header becomes a command that ends at once (R161). -/
def State.issueBad (s : State) (t q : Nat) (p : Packet) (result : Nat) : State :=
  let id := s.nextId
  (s.addCmd (s.freshCmd t q p none)).finish id stREJ_FORMAT result

/-- The marks of a packet let it be decoded: with DEP every earlier command of the queue has completed; with FENCE every write of
them is committed, and flushed where the opcode has no FAULT_LINK (R164, R219, R226, R234). -/
def State.marksOk (s : State) (t q : Nat) (p : Packet) (fails : Bool) : Bool :=
  let es := (s.queueSt t q).order.filterMap s.cmd?
  (!(isDep p) || es.all Cmd.isEnded)
    && (!(isFence p) || (s.fenced t q es && (faultsLink (pOp p) || !(s.flushFails t (s.queueSt t q).dirty fails))))

/-- A queue decodes nothing: 128 of its commands have no record (R233), one awaits CF (R28), a begin may yet be rejected (R163), or a
graph launch of it waits for CQ slots or for held nodes (R321, R326). -/
def State.decodeHeld (s : State) (t q : Nat) : Bool :=
  decide (128 ≤ (s.queueSt t q).order.length)
    || s.cmds.any fun (c : Cmd) => c.tenant == t && c.queue == q &&
      ((c.node.isNone && (c.phase == Phase.atCF || (c.phase == Phase.metadata && flLOCK c.flags == 1)))
        || (c.op == 0x29 && (c.phase == Phase.held || (c.phase == Phase.front && c.started))))

/-- The front end decodes the next packet of a queue's shadow. A SEQ that is not the expected one halts the queue with HEAD back at
the packet (R160); a failing header ends the command and the front end goes on (R161). -/
def State.packetDecode (s : State) (t q : Nat) (fails : Bool) : State :=
  let x := s.queueSt t q
  match x.shadow with
  | [] => s
  | p :: rest =>
    if (s.boot.phase != BootPhase.run && s.boot.phase != BootPhase.recovery) || s.get F.PWR_STATUS_STATE != 0 || s.ctxBusy t
        || !(s.on (F.TP_CQ_CTRL_EN t)) || s.on (F.TP_CQ_STATUS_HALT t) || s.decodeHeld t q then s
    else if s.cqFree t = 0 then
      if (s.tenantSt t).cqFull then s
      else ((s.setTenant { s.tenantSt t with cqFull := true }).stick (F.TP_CQFULL_CQFULL t)).msix t 1
    else if pSeq p != s.get (F.TP_Q_SEQ_NEXT t q) then
      let head := (s.get (F.TP_Q_HEAD t q) + 2 ^ 32 - x.slots) % 2 ^ 32
      ((s.setQueue { x with shadow := [] }).set (F.TP_Q_HEAD t q) head).haltQueue t q 1
    else if !(s.marksOk t q p fails) then s
    else
      let s := (s.setQueue { x with shadow := rest }).set (F.TP_Q_SEQ_NEXT t q) ((pSeq p + 1) % 2 ^ 32)
      let s := s.setTenant { s.tenantSt t with cqFull := false }
      if !(s.on (F.TP_FMT_SET t)) && pOp p != 0x02 then s.issueBad t q p (2 ^ 31)
      else
        match s.headerCheck t q p with
        | some b => s.issueBad t q p (2 ^ 31 + b)
        | none => s.issue t q p fails

/-- PACKET_DECODE of queue `q` of tenant `t`; `fails` says that a flushing read of the decoded command fails. -/
def execPacketDecode (t : Tenant) (q : Queue) (fails : Bool) (s : State) : Result := .next (s.packetDecode t.val q.val fails)

/-! ### The opcodes (log entry 3)

Each row is the decode of a packet of its opcode in queue `q` of tenant `t`, for a tenant with a negotiated format and past the
sequence check: byte 0 is the row's opcode whatever the operand holds there, and the packet is as long as its LEN says. A queue that
decodes nothing (R28, R163, R233, R321), or not this packet yet (R234), is left as it is. CF accepts the command of a firmware-path
row at once where no other work comes first (R30). -/

/-- The packet of a row: `op` in byte 0, and the length LEN names. -/
def rowPacket (op : Nat) (p : List (BitVec 8)) : Packet :=
  slice (BitVec.ofNat 8 op :: p.drop 1) 0 (64 * ((p.getD 1 0).toNat % 4 + 1))

/-- CF is free to accept command `id`: no plan is to be computed, and no command that may be accepted reached CF before it (R30). -/
def State.cfFree (s : State) (id : Nat) : Bool := s.planJobs.isEmpty && s.cf.find? s.acceptable == some id

/-- The decode of a row's packet. -/
def State.opcode (s : State) (t q op : Nat) (p : List (BitVec 8)) (fails : Bool) : State :=
  let k := rowPacket op p
  if s.decodeHeld t q || !(s.marksOk t q k fails) then s
  else
    match s.headerCheck t q k with
    | some b => s.issueBad t q k (2 ^ 31 + b)
    | none =>
      let id := s.nextId
      let s := s.issue t q k fails
      if isFirmware (pOp k) && s.cfFree id then s.cfAccept id fails else s

/-- NOP (0x00, R191). -/
def execNop (t : Tenant) (q : Queue) (p : List Byte) (s : State) : Result :=
  .next (s.opcode t.val q.val 0x00 p false)

/-- FENCE (0x01, R191); `fails` says that a flushing read before it, or a read it makes at once, fails. -/
def execFence (t : Tenant) (q : Queue) (p : List Byte) (fails : Bool) (s : State) : Result :=
  .next (s.opcode t.val q.val 0x01 p fails)

/-- HELLO (0x02, R175). -/
def execHello (t : Tenant) (q : Queue) (p : List Byte) (s : State) : Result :=
  .next (s.opcode t.val q.val 0x02 p false)

/-- WIN_CREATE (0x08, R193). -/
def execWinCreate (t : Tenant) (q : Queue) (p : List Byte) (s : State) : Result :=
  .next (s.opcode t.val q.val 0x08 p false)

/-- WIN_REVOKE (0x09, R194). -/
def execWinRevoke (t : Tenant) (q : Queue) (p : List Byte) (s : State) : Result :=
  .next (s.opcode t.val q.val 0x09 p false)

/-- WIN_DESTROY (0x0A, R194). -/
def execWinDestroy (t : Tenant) (q : Queue) (p : List Byte) (s : State) : Result :=
  .next (s.opcode t.val q.val 0x0A p false)

/-- DESC_CREATE (0x0C, R195); `fails` says that a host access of it fails. -/
def execDescCreate (t : Tenant) (q : Queue) (p : List Byte) (fails : Bool) (s : State) : Result :=
  .next (s.opcode t.val q.val 0x0C p fails)

/-- DESC_DESTROY (0x0D, R196). -/
def execDescDestroy (t : Tenant) (q : Queue) (p : List Byte) (s : State) : Result :=
  .next (s.opcode t.val q.val 0x0D p false)

/-- MOVE (0x10, R121); `fails` says that a flushing read before it, or a read it makes at once, fails. -/
def execMove (t : Tenant) (q : Queue) (p : List Byte) (fails : Bool) (s : State) : Result :=
  .next (s.opcode t.val q.val 0x10 p fails)

/-- MOVE_PLAIN (0x11, R122); `fails` says that a flushing read before it, or a read it makes at once, fails. -/
def execMovePlain (t : Tenant) (q : Queue) (p : List Byte) (fails : Bool) (s : State) : Result :=
  .next (s.opcode t.val q.val 0x11 p fails)

/-- GATHER_PAGES (0x12, R123); `fails` says that a flushing read before it, or a read it makes at once, fails. -/
def execGatherPages (t : Tenant) (q : Queue) (p : List Byte) (fails : Bool) (s : State) : Result :=
  .next (s.opcode t.val q.val 0x12 p fails)

/-- SCATTER_PAGES (0x13, R123); `fails` says that a flushing read before it, or a read it makes at once, fails. -/
def execScatterPages (t : Tenant) (q : Queue) (p : List Byte) (fails : Bool) (s : State) : Result :=
  .next (s.opcode t.val q.val 0x13 p fails)

/-- CHAIN (0x14, R204); `fails` says that a flushing read before it, or a read it makes at once, fails. -/
def execChain (t : Tenant) (q : Queue) (p : List Byte) (fails : Bool) (s : State) : Result :=
  .next (s.opcode t.val q.val 0x14 p fails)

/-- SHORT_WRITE (0x18, R206); `fails` says that a flushing read before it, or a read it makes at once, fails. -/
def execShortWrite (t : Tenant) (q : Queue) (p : List Byte) (fails : Bool) (s : State) : Result :=
  .next (s.opcode t.val q.val 0x18 p fails)

/-- SHORT_COPY (0x19, R207); `fails` says that a flushing read before it, or a read it makes at once, fails. -/
def execShortCopy (t : Tenant) (q : Queue) (p : List Byte) (fails : Bool) (s : State) : Result :=
  .next (s.opcode t.val q.val 0x19 p fails)

/-- SIGNAL (0x20, R209); `fails` says that a flushing read before it, or a read it makes at once, fails. -/
def execSignal (t : Tenant) (q : Queue) (p : List Byte) (fails : Bool) (s : State) : Result :=
  .next (s.opcode t.val q.val 0x20 p fails)

/-- WAIT (0x21, R210); `fails` says that a flushing read before it, or a read it makes at once, fails. -/
def execWait (t : Tenant) (q : Queue) (p : List Byte) (fails : Bool) (s : State) : Result :=
  .next (s.opcode t.val q.val 0x21 p fails)

/-- BARRIER_ARRIVE (0x22, R298); `fails` says that a flushing read before it, or a read it makes at once, fails. -/
def execBarrierArrive (t : Tenant) (q : Queue) (p : List Byte) (fails : Bool) (s : State) : Result :=
  .next (s.opcode t.val q.val 0x22 p fails)

/-- LOCK_ACQUIRE (0x23, R212); `fails` says that a flushing read before it, or a read it makes at once, fails. -/
def execLockAcquire (t : Tenant) (q : Queue) (p : List Byte) (fails : Bool) (s : State) : Result :=
  .next (s.opcode t.val q.val 0x23 p fails)

/-- LOCK_RELEASE (0x24, R212); `fails` says that a flushing read before it, or a read it makes at once, fails. -/
def execLockRelease (t : Tenant) (q : Queue) (p : List Byte) (fails : Bool) (s : State) : Result :=
  .next (s.opcode t.val q.val 0x24 p fails)

/-- FLAG_SET (0x25, R214); `fails` says that a flushing read before it, or a read it makes at once, fails. -/
def execFlagSet (t : Tenant) (q : Queue) (p : List Byte) (fails : Bool) (s : State) : Result :=
  .next (s.opcode t.val q.val 0x25 p fails)

/-- FLAG_CLEAR (0x26, R214); `fails` says that a flushing read before it, or a read it makes at once, fails. -/
def execFlagClear (t : Tenant) (q : Queue) (p : List Byte) (fails : Bool) (s : State) : Result :=
  .next (s.opcode t.val q.val 0x26 p fails)

/-- RING (0x27, R215); `fails` says that a flushing read before it, or a read it makes at once, fails. -/
def execRing (t : Tenant) (q : Queue) (p : List Byte) (fails : Bool) (s : State) : Result :=
  .next (s.opcode t.val q.val 0x27 p fails)

/-- GRAPH_LOAD (0x28, R314); `fails` says that a host access of it fails. -/
def execGraphLoad (t : Tenant) (q : Queue) (p : List Byte) (fails : Bool) (s : State) : Result :=
  .next (s.opcode t.val q.val 0x28 p fails)

/-- GRAPH_LAUNCH (0x29, R321); `fails` says that a flushing read before it, or a read it makes at once, fails. -/
def execGraphLaunch (t : Tenant) (q : Queue) (p : List Byte) (fails : Bool) (s : State) : Result :=
  .next (s.opcode t.val q.val 0x29 p fails)

/-- GRAPH_UNLOAD (0x2A, R218). -/
def execGraphUnload (t : Tenant) (q : Queue) (p : List Byte) (s : State) : Result :=
  .next (s.opcode t.val q.val 0x2A p false)

/-- PWR_REQUEST (0x30, R469). -/
def execPwrRequest (t : Tenant) (q : Queue) (p : List Byte) (s : State) : Result :=
  .next (s.opcode t.val q.val 0x30 p false)

/-- CAL_RUN (0x34, R509). -/
def execCalRun (t : Tenant) (q : Queue) (p : List Byte) (s : State) : Result :=
  .next (s.opcode t.val q.val 0x34 p false)

/-- CAL_SAVE (0x35, R510). -/
def execCalSave (t : Tenant) (q : Queue) (p : List Byte) (s : State) : Result :=
  .next (s.opcode t.val q.val 0x35 p false)

/-- RESTORE_FACTORY (0x36, R511). -/
def execRestoreFactory (t : Tenant) (q : Queue) (p : List Byte) (s : State) : Result :=
  .next (s.opcode t.val q.val 0x36 p false)

/-- ATTEST_QUOTE (0x38, R446); `fails` says that a host access of it fails. -/
def execAttestQuote (t : Tenant) (q : Queue) (p : List Byte) (fails : Bool) (s : State) : Result :=
  .next (s.opcode t.val q.val 0x38 p fails)

/-- FW_BEGIN (0x3C, R223). -/
def execFwBegin (t : Tenant) (q : Queue) (p : List Byte) (s : State) : Result :=
  .next (s.opcode t.val q.val 0x3C p false)

/-- FW_DATA (0x3D, R223); `fails` says that a host access of it fails. -/
def execFwData (t : Tenant) (q : Queue) (p : List Byte) (fails : Bool) (s : State) : Result :=
  .next (s.opcode t.val q.val 0x3D p fails)

/-- FW_COMMIT (0x3E, R224). -/
def execFwCommit (t : Tenant) (q : Queue) (p : List Byte) (s : State) : Result :=
  .next (s.opcode t.val q.val 0x3E p false)

/-- FW_ABORT (0x3F, R223). -/
def execFwAbort (t : Tenant) (q : Queue) (p : List Byte) (s : State) : Result :=
  .next (s.opcode t.val q.val 0x3F p false)

/-- SAFE_CONFIG (0x40, R414); `fails` says that a host access of it fails. -/
def execSafeConfig (t : Tenant) (q : Queue) (p : List Byte) (fails : Bool) (s : State) : Result :=
  .next (s.opcode t.val q.val 0x40 p fails)

/-- SAFE_HEARTBEAT (0x41, R424); `fails` says that a flushing read before it, or a read it makes at once, fails. -/
def execSafeHeartbeat (t : Tenant) (q : Queue) (p : List Byte) (fails : Bool) (s : State) : Result :=
  .next (s.opcode t.val q.val 0x41 p fails)

end Sys2Proof.Machine
end

