-- ==== Sys2Proof/Machine/Flits.lean ====
section
/-! DEFINITION. FLIT_RECEIVE: a flit on a Rein port (R4, R336 to R342, R344): CRC, acknowledgement, credits, order, and its way to
this device or through it. -/
namespace Sys2Proof.Machine

/-- The flit that 272 bytes carry (Table 12.3). -/
def flitOf (b : List (BitVec 8)) : Flit :=
  let b0 := leAt b 0 1
  let b1 := leAt b 1 1
  { kind := bitsOf b0 0 4, vc := bitsOf b0 4 2, lock := bit b0 6, last := bit b0 7, dest := bitsOf b1 0 6, rank := bitsOf b1 6 2,
    src := bitsOf (leAt b 2 1) 0 6, hops := bitsOf (leAt b 3 1) 0 4, tick := leAt b 9 1, payload := slice b 16 256 }

/-- The CRC of a flit is good (R336). -/
def flitGood (b : List (BitVec 8)) : Bool := leAt b 12 4 == crc32 (slice b 0 12 ++ slice b 16 256)

/-- The credits a flit returns to port `n`, for the VC it names (R339). -/
def State.creditsIn (s : State) (n vc k : Nat) : State :=
  let p := s.port n
  (s.setPort n { p with credits := modNth (· + k) vc p.credits }).pump n

/-- A complete message for this device on port `n`, by its VC (Tables 12.5 and 12.6). -/
def State.deliver (s : State) (n : Nat) (m : Msg) : State :=
  if m.vc = 3 then
    match m.mop with
    | 0x30 => s.domainIn n m
    | 0x31 => s.timeSync n
    | 0x32 => s.timeFollow n (leAt m.extra 0 8)
    | 0x33 => s.timeDreq n
    | 0x34 => s.timeDresp n (leAt m.extra 0 8)
    | 0x35 => s.configIn n m
    | 0x38 => s.girthReq n m
    | 0x39 => s.girthGrant m
    | 0x3A => s.girthRet m
    | _ => s
  else if s.rein.vc3Only then s
  else if m.vc = 1 then s.vc1In n m
  else s.vc02In n m

/-- A flit for this device joins the message of its VC; the last one completes it (R337). A DATA flit without a HEAD belongs to a
discarded message. -/
def State.collect (s : State) (n : Nat) (f : Flit) : State :=
  let p := s.port n
  let mine := (p.part.filter fun (x : Nat × Flit) => x.1 == f.vc).map (·.2)
  let others := p.part.filter fun (x : Nat × Flit) => x.1 != f.vc
  let fs := if f.kind = 1 then [f] else if mine.isEmpty then [] else mine ++ [f]
  let s := s.setPort n { p with part := others ++ (if f.last then [] else fs.map fun (x : Flit) => (f.vc, x)) }
  if f.last then (match msgOfFlits fs with | some m => s.deliver n m | none => s) else s

/-- A HEAD flit carries a message operation that is reserved or belongs to another VC (R337). -/
def headBad (f : Flit) : Bool := f.kind == 1 && mopVC (leAt f.payload 0 1) != some f.vc

/-- A transit message under way on a port is remembered by its HEAD until LAST: under VC + 4 one that was discarded, under VC + 8 one
that was forwarded (R337, R344). -/
def State.transitKept (s : State) (n k : Nat) : Bool := (s.port n).part.any fun (x : Nat × Flit) => x.1 == k

/-- Remember, or with LAST forget, the transit message of a flit. -/
def State.transitNote (s : State) (n k : Nat) (f : Flit) : State :=
  let p := s.port n
  s.setPort n { p with part := (p.part.filter fun (x : Nat × Flit) => x.1 != f.vc + 4 && x.1 != f.vc + 8)
                               ++ (if f.last then [] else [(k, f)]) }

/-- A transit flit: forwarded with one hop fewer by the table of its arrival port, or discarded with every flit of its message (R342 to
R344). -/
def State.transit (s : State) (n : Nat) (f : Flit) : State :=
  if f.kind == 2 && !(s.transitKept n (f.vc + 8)) then s.transitNote n (f.vc + 4) f
  else
    let s := s.routeMulti n f.dest
    match s.transitPort n f with
    | some e => (s.transitNote n (f.vc + 8) f).enqueue e [{ f with hops := f.hops - 1 }]
    | none => if s.rein.vc3Only then s.transitNote n (f.vc + 4) f else (s.transitNote n (f.vc + 4) f).discard n f

/-- An accepted flit: discarded for its operation, delivered here, or forwarded. A reserved KIND carries nothing (R4). A VC0 or VC1
flit with DEST 63 is misrouted on every chip, chip 63 among them (R16, R344). -/
def State.flitAccepted (s : State) (n : Nat) (f : Flit) : State :=
  if f.kind != 1 && f.kind != 2 then s
  else if headBad f then (s.transitNote n (f.vc + 4) f).stick F.REI_PROTO_PROTO
  else if f.vc = 3 || (f.dest == s.chip && !(f.vc ≤ 1 && f.dest == 63)) then s.collect n f
  else s.transit n f

/-- FLIT_RECEIVE on port `n`. -/
def State.flitIn (s : State) (n : Nat) (b : List (BitVec 8)) : State :=
  if !(s.portActive n) then s
  else if !(flitGood b) then s.nakOut n true
  else
    let f := flitOf b
    let lack := bitsOf (leAt b 6 2) 0 12
    let s := if bit (leAt b 6 2) 12 then s.nakIn n lack else s.lackTo n lack
    let s := s.creditsIn n (bitsOf (leAt b 8 1) 0 2) (bitsOf (leAt b 8 1) 2 6)
    if f.kind = 0 then s
    else if bitsOf (leAt b 4 2) 0 12 != (s.port n).rxSeq then s.nakOut n false
    else
      let p := s.port n
      let s := s.setPort n { p with rxSeq := (p.rxSeq + 1) % 4096, nakOut := false, owed := modNth (· + 1) f.vc p.owed }
      s.flitAccepted n f

end Sys2Proof.Machine
end

