-- ==== Sys2Proof/Machine/RegWrite.lean ====
section
/-! DEFINITION. Register writes (R5 to R9, R150, R552): range, reserved-bit and lifecycle checks, then each register's own effect or
the plain store; the register accesses of the host, and the register writes that commands make through CSR device addresses. -/
namespace Sys2Proof.Machine

/-! ### Plain stores -/

/-- The flag of a refused write at `a`: the block's CFG flag; GLB_ERR.ACCESS in GLB and CMQ, which have none (R552). -/
def cfgFlag (a : Nat) : Fld :=
  if 0x1000000 ≤ a then F.TP_CFG_CFG ((a - 0x1000000) / 0x100000 % 16)
  else match a / 0x40000 with
    | 1 => F.FW_CFG_CFG
    | 3 => F.MEM_CFG_CFG
    | 4 => F.PRI_CFG_CFG
    | 5 => F.ENG_CFG_CFG
    | 6 => F.ARB_CFG_CFG
    | 7 => F.SYN_CFG_CFG
    | 8 => F.SCH_CFG_CFG
    | 9 => F.CAD_CFG_CFG
    | 10 => F.REI_CFG_CFG
    | 11 => F.ETH_CFG_CFG
    | 12 => F.TEN_CFG_CFG
    | 13 => F.BRD_CFG_CFG
    | 14 => F.LPE_CFG_CFG
    | 15 => F.SEC_CFG_CFG
    | 16 => F.PWR_CFG_CFG
    | 17 => F.CAL_CFG_CFG
    | 18 => F.TRC_CFG_CFG
    | _ => F.GLB_ERR_ACCESS

/-- A refused write. -/
def State.regRefused (s : State) (a : Nat) : State := s.stick (cfgFlag a)

/-- Every writable field of a word lies in the range its table gives (R552). -/
def fieldsInRange (a v : Nat) : Bool :=
  (rowsAt a).all fun (r : RegRow) => match r.range with
    | some (lo, hi) => decide (lo ≤ bitsOf v r.lo r.n) && decide (bitsOf v r.lo r.n ≤ hi)
    | none => true

/-- The stored part of a word: its RW, RWL and WO fields take the bits of `v`. -/
def State.putWord (s : State) (a v : Nat) : State :=
  let m := accMask (fun x => x == Access.rw || x == Access.rwl || x == Access.wo) a
  s.wr a ((s.rd a &&& (0xFFFFFFFF - m)) ||| (v &&& m))

/-- A 1 written to a W1C flag clears it and its count (R21). -/
def State.clearFlags (s : State) (a v : Nat) : State :=
  (rowsAt a).foldl (fun (s : State) (r : RegRow) =>
    if r.acc == Access.w1c && bit v r.lo then s.unstick ⟨a, r.lo, 1⟩ else s) s

/-- A write to a word with no effect of its own: discarded whole where a field is out of range, else stored. -/
def State.regPlain (s : State) (a v : Nat) : State :=
  if fieldsInRange a v then (s.putWord a v).clearFlags a v else s.regRefused a

/-! ### Registers with an effect, block by block -/

/-- GLB: GLB_FLOG_HEAD moves up to TAIL (R527). -/
def State.regGlb (s : State) (a v : Nat) : State :=
  if a = 0x40 then
    let h := s.get F.GLB_FLOG_HEAD
    if (v + 2 ^ 32 - h) % 2 ^ 32 ≤ (s.get F.GLB_FLOG_TAIL + 2 ^ 32 - h) % 2 ^ 32 then s.set F.GLB_FLOG_HEAD v else s.regRefused a
  else s.regPlain a v

/-- FW: FW_CTRL and FW_RESTART (R497, R498, R501). -/
def State.regFw (s : State) (a v : Nat) : State :=
  if a = 0x40034 then
    let s := if bit v 0 then s.fwConfirm else s
    if bit v 1 then s.fwReboot else s
  else if a = 0x4003C then s.fwRestart v
  else s.regPlain a v

/-- A write of MEM_INGEST_BASE: refused while ingest is enabled, and where the buffer would lie over a window or the weight
cache (Table 3.9). -/
def State.ingestBase (s : State) (v : Nat) : State :=
  let b := 0x4000000 * (v % 16)
  let n := s.ingestRange.2
  let wc := wcBytes (s.get F.MEM_WC_SIZE)
  let wr := wcBytes (s.mem.resize.getD 0)
  if !(fieldsInRange 0xC0020 v) || s.get F.ETH_CTRL_EN != 0 || s.winOverlap 1 b n || rangesMeet b n (0x40000000 - wc) wc
      || rangesMeet b n (0x40000000 - wr) wr then s.regRefused 0xC0020
  else s.putWord 0xC0020 v

/-- MEM (R86, R89, R97, Table 3.9). -/
def State.regMem (s : State) (a v : Nat) : State :=
  if a = 0xC0010 then s.wcResize (v % 8)
  else if a = 0xC0020 then s.ingestBase v
  else if 0xC0030 ≤ a ∧ a < 0xC0050 then
    let k := (a - 0xC0030) / 8
    if a % 8 = 0 then s.wcPinWrite k v
    else
      let s' := s.set (F.MEM_WC_PIN_LIMIT k) v
      if s.on (F.MEM_WC_PIN_EN k) && decide (s.wcLeast < 2 * (4096 * s'.pinTotal)) then s.regRefused a else s'
  else if 0xC0100 ≤ a ∧ a < 0xC0200 then s.facetWrite ((a - 0xC0100) / 16) (a / 4 % 4) v
  else s.regPlain a v

/-- PRI: partitions and invalidation (R148, Table 5.8). -/
def State.regPri (s : State) (a v : Nat) : State :=
  if a < 0x100040 then s.priPartWrite ((a - 0x100000) / 4) (bitsOf v 0 9) (bitsOf v 16 9)
  else if a = 0x100100 then s.priInval v
  else s.regPlain a v

/-- ENG: shares, engine control, stream partitions, masks and homes (R243, R259 to R261, Table 8.3). -/
def State.regEng (s : State) (a v : Nat) : State :=
  if a = 0x140004 then
    if bitsOf v 0 7 + bitsOf v 8 7 + bitsOf v 16 7 = 64 then s.putWord a v else s.regRefused a
  else if 0x140040 ≤ a ∧ a < 0x1400C0 then
    let e := (a - 0x140040) / 4
    let s := (s.set (F.ENG_ECTRL_REGIME e) v).engineOffline e (bit v 1)
    if bit v 2 then s.engineReset e else s
  else if 0x140200 ≤ a ∧ a < 0x140240 then s.spartWrite ((a - 0x140200) / 4) (bitsOf v 0 6) (bitsOf v 16 7)
  else if 0x141000 ≤ a ∧ a < 0x141200 then (if v = 0 then s.regRefused a else s.putWord a v)
  else if 0x141200 ≤ a ∧ a < 0x141400 then
    let t := (a - 0x141200) / 0x20
    let q := a / 4 % 8
    if s.on (F.TP_Q_CTRL_EN t q) && s.get (F.ENG_QDEF_HOME t q) != bitsOf v 16 2 then s.regRefused a else s.putWord a v
  else s.regPlain a v

/-- SYN: partitions of counters, barriers and locks (R282). -/
def State.regSyn (s : State) (a v : Nat) : State :=
  if a < 0x1C0040 then s.partWrite 0 ((a - 0x1C0000) / 4) (bitsOf v 0 8) (bitsOf v 16 9)
  else if a < 0x1C0080 then s.partWrite 1 ((a - 0x1C0040) / 4) (bitsOf v 0 6) (bitsOf v 16 7)
  else if a < 0x1C00C0 then s.partWrite 2 ((a - 0x1C0080) / 4) (bitsOf v 0 4) (bitsOf v 16 5)
  else s.regPlain a v

/-- SCH: node partitions (R311). -/
def State.regSch (s : State) (a v : Nat) : State :=
  if a < 0x200040 then s.schPartWrite ((a - 0x200000) / 4) (bitsOf v 0 8) (bitsOf v 16 9) else s.regPlain a v

/-- CAD: CAD_CTRL and the domain-wide registers (R37, R48 to R51). -/
def State.regCad (s : State) (a v : Nat) : State :=
  if a = 0x240000 then s.cadCtrlWrite v
  else if a = 0x240018 ∨ a = 0x24001C ∨ a = 0x240020 ∨ a = 0x240024 ∨ a = 0x240030 ∨ a = 0x240034 then s.cadDomainWrite a v
  else if a = 0x240050 then (s.regPlain a v).elect
  else if a = 0x240064 then (s.regPlain a v).holdRefresh
  else s.regPlain a v

/-- REI: the chip ID, port control and routing entries (R333, R345, R359). -/
def State.regRei (s : State) (a v : Nat) : State :=
  if a = 0x280000 then (s.reiIdWrite v).elect
  else if 0x280040 ≤ a ∧ a < 0x280070 then (s.putWord a v).portEnable ((a - 0x280040) / 4) (bit v 0)
  else if 0x281000 ≤ a ∧ a < 0x282A00 then
    s.routeWrite ((a - 0x281000) / 0x200) ((a - 0x281000) % 0x200 / 8) (a / 4 % 2) v
  else s.regPlain a v

/-- ETH_CTRL: a change of MTU while a port is enabled is refused; a port whose enable falls goes down (R383). -/
def State.ethCtrl (s : State) (v : Nat) : State :=
  let en := s.get F.ETH_CTRL_EN
  if !(fieldsInRange 0x2C0000 v) || (en != 0 && s.get F.ETH_CTRL_MTU != bitsOf v 16 14) then s.regRefused 0x2C0000
  else
    let s := (List.range 2).foldl (fun (s : State) p => if bit en p && !(bit v p) then s.ethLink p false else s) s
    s.putWord 0x2C0000 v

/-- ETH (R364, R368, R371, R383). -/
def State.regEth (s : State) (a v : Nat) : State :=
  let en := s.get F.ETH_CTRL_EN
  if a = 0x2C0000 then s.ethCtrl v
  else if a = 0x2C0004 then (if en = 0 then s.putWord a v else s.regRefused a)
  else if a = 0x2C0008 then (if bitsOf v 8 8 < bitsOf v 0 8 then s.putWord a v else s.regRefused a)
  else if 0x2C0010 ≤ a ∧ a < 0x2C0050 then (if bit en ((a - 0x2C0010) / 0x20) then s.regRefused a else s.regPlain a v)
  else if a = 0x2C0104 then
    match v % 4 with
    | 1 => s.camInsert
    | 2 => s.camDelete
    | 3 => s.camRead
    | _ => s.regRefused a
  else if 0x2C1000 ≤ a ∧ a < 0x2C5000 then s.ruleWrite ((a - 0x2C1000) / 0x40) (a % 0x40 / 4) v
  else if 0x2E0000 ≤ a ∧ a < 0x2F0000 ∧ a % 0x40 = 0xC then
    if bit v 2 then s.saInstall ((a - 0x2E0000) / 0x8000) (a % 0x8000 / 0x40) (v % 4) else s.putRw a v
  else s.regPlain a v

/-- TEN (R393 to R398, R406, R409). -/
def State.regTen (s : State) (a v : Nat) : State :=
  if a = 0x300004 then (List.range 16).foldl (fun (s : State) t => if bit v t then s.ctxReset t 0 else s) s
  else if 0x300040 ≤ a ∧ a < 0x300080 then (if v % 2 ^ 17 ≤ 65536 then s.putWord a v else s.regRefused a)
  else if a = 0x300100 then s.apWrite v
  else if a = 0x300128 then s.apConfig v none
  else if 0x300200 ≤ a ∧ a < 0x300A00 then s.p2pWrite ((a - 0x300200) / 0x20) (a % 0x20 / 4) v
  else if 0x301000 ≤ a ∧ a < 0x301800 then s.apinWrite ((a - 0x301000) / 0x20) (a % 0x20 / 4) v
  else s.regPlain a v

/-- BRD: regions and BRD_SYNC (R403, R409). -/
def State.regBrd (s : State) (a v : Nat) : State :=
  if a < 0x343000 then s.brdWrite ((a - 0x340000) / 0x1000) (a % 0x1000 / 16) (a / 4 % 4) v
  else if a = 0x343000 then (if bit v 0 then s.brdSync else s)
  else s.regPlain a v

/-- LPE (R416, R426, R427, R432). -/
def State.regLpe (s : State) (a v : Nat) : State :=
  if a = 0x380000 then s.lpeCtrl v
  else if a = 0x38000C then s.faultClear v
  else if a = 0x380014 then s.alarmClear v
  else if a = 0x380018 then (s.putWord a v).lpeUpdate
  else if a = 0x38001C then s.lpeReset v
  else s.regPlain a v

/-- A command of the key mailbox (Table 16.6); a number without a command is outside the field's values (R467). -/
def State.kmbCommand (s : State) (cmd slot arg : Nat) (fails : Bool) : State :=
  let refusedDead (s : State) := s.kmb fun s => (stREJ_PERM, s)
  match cmd with
  | 1 => if s.dead then refusedDead s else s.kmbBuf 80 true fails fun s b => s.keyInstall slot b
  | 2 => s.kmb fun s => (stDONE, s.keyErase slot)
  | 3 => s.kmbBuf 32 true fails fun s b =>
      (stDONE, ((s.vaultPut { s.sec with lpKey := some b }).putLpKey b).secTrace 2 0 0)
  | 4 => if s.dead then refusedDead s else s.kmbBuf 256 false fails fun s c => s.credInstall c
  | 5 => s.kmb fun s => (stDONE, (s.set (F.SEC_MC 5 0) (max (s.get (F.SEC_MC 5 0)) arg)).credEvalAll)
  | 6 =>
    if 1 < arg then s.kmb (fun s => (stREJ_FORMAT, s))
    else if 2 ≤ s.get F.SEC_LC_STATE then refusedDead s
    else s.kmbBuf 96 false fails fun s b => s.authSet arg b
  | 7 => s.lcAdvance arg
  | 8 => s.kmbBuf 256 false fails fun s b => s.token b
  | 9 => s.kmb fun s => (stDONE, s.svnAdvance)
  | _ => s.regRefused 0x3C008C

/-- SEC: the debug level and the key mailbox (R447, R458). -/
def State.regSec (s : State) (a v : Nat) : State :=
  if a = 0x3C0008 then s.levelWrite v false
  else if a = 0x3C008C then s.kmbCommand (v % 16) (bitsOf v 8 5) (bitsOf v 16 16) false
  else s.regPlain a v

/-- PWR: LOCAL_CAP, the thermal thresholds, and L after every write (R476, R484, Table 17.8). -/
def State.regPwr (s : State) (a v : Nat) : State :=
  let bad := (a == 0x400014 && v % 65536 != 0 && (decide (v % 65536 < 160) || decide (1440 < v % 65536)))
    || (a == 0x400028 && decide (bitsOf v 0 8 < bitsOf v 8 8 + 5))
  (if bad then s.regRefused a else s.regPlain a v).limitUpdate

/-- TRC: MODE changes while EN is 0; the fourth TRC_USER word emits a record (R465, R467). -/
def State.regTrc (s : State) (a v : Nat) : State :=
  if a = 0x480000 then
    if s.on F.TRC_CTRL_EN && s.get F.TRC_CTRL_MODE != bitsOf v 1 1 then s.regRefused a else s.regPlain a v
  else if a = 0x48003C then s.trcUser v
  else s.regPlain a v

/-! ### Tenant pages (Table 6.9, Table 10.6, Table 11.5) -/

/-- A queue's registers at offset `j` of its 0x80 bytes (R153 to R155, R160, R239). -/
def State.regQueue (s : State) (t q j a v : Nat) : State :=
  let en := s.on (F.TP_Q_CTRL_EN t q)
  if j = 0x00 ∨ j = 0x04 ∨ j = 0x10 then (if en then s.pageRefused t else s.regPlain a v)
  else if j = 0x08 then (if en && s.get (F.TP_Q_CFG_SIZE t q) != v % 32 then s.pageRefused t else s.regPlain a v)
  else if j = 0x0C then s.queueWin t q v
  else if j = 0x18 then
    let s := if bit v 0 && !en then s.queueEnable t q else if !(bit v 0) && en then s.queueDisable t q else s
    if bit v 1 then s.queueResume t q else s
  else s.regPlain a v

/-- The CQ's registers at page offset `o` (R153, R173). -/
def State.regCq (s : State) (t o a v : Nat) : State :=
  let en := s.on (F.TP_CQ_CTRL_EN t)
  if o = 0xA000 ∨ o = 0xA004 ∨ o = 0xA008 then (if en then s.pageRefused t else s.regPlain a v)
  else if o = 0xA00C then s.cqWin t v
  else if o = 0xA018 then
    let s := if bit v 0 && !en then s.cqEnable t else if !(bit v 0) && en then s.cqDisable t else s
    if bit v 1 && s.on (F.TP_CQ_STATUS_HALT t) then s.cqResume t else s
  else s.regPlain a v

/-- TP_IRQ: COUNT is not 0; a count that the records already reach sends vector 0 (R180). -/
def State.irqWrite (s : State) (t a v : Nat) : State :=
  if v % 256 = 0 then s.pageRefused t
  else
    let s := s.regPlain a v
    let x := s.tenantSt t
    if 0 < x.irqCount ∧ v % 256 ≤ x.irqCount then (s.setTenant { x with irqCount := 0 }).msix t 0 else s

/-- The page of tenant `t` at offset `o`. -/
def State.regPage (s : State) (t o a v : Nat) : State :=
  if o < 0x400 then s.regQueue t (o / 0x80) (o % 0x80) a v
  else if 0x1000 ≤ o ∧ o < 0x9000 then s.doorbell t ((o - 0x1000) / 0x1000) v
  else if o = 0x9000 then s.cqBell t v
  else if 0xA000 ≤ o ∧ o < 0xB000 then s.regCq t o a v
  else if o = 0xB000 then s.irqWrite t a v
  else if 0x10000 ≤ o ∧ o < 0x50000 then s.apCounterWrite t o v
  else if 0x50000 ≤ o ∧ o < 0x60000 then
    let b := (o - 0x50000) / 0x20
    let j := o % 0x20 / 4
    if j = 0 then (if bit v 31 then s.barEnable t b (v % 16384) else s.barDisable t b (v % 16384))
    else if j < 5 then s.barConfig t b j v
    else s
  else if 0x80000 ≤ o ∧ o < 0x80080 then s.evfSet t ((o - 0x80000) / 8) (o / 4 % 2) v
  else if 0x80100 ≤ o ∧ o < 0x80180 then s.evfClr t ((o - 0x80100) / 8) (o / 4 % 2) v
  else if 0x90000 ≤ o ∧ o < 0x90200 then s.hwinWrite t ((o - 0x90000) / 0x20) (o % 0x20 / 4) v
  else s.regPlain a v

/-! ### The write of a word -/

/-- The effect of a write of `v` to the mapped word at `a`. -/
def State.regEffect (s : State) (a v : Nat) : State :=
  if 0x1000000 ≤ a then s.regPage ((a - 0x1000000) / 0x100000) (a % 0x100000) a v
  else match a / 0x40000 with
    | 0 => s.regGlb a v
    | 1 => s.regFw a v
    | 3 => s.regMem a v
    | 4 => s.regPri a v
    | 5 => s.regEng a v
    | 7 => s.regSyn a v
    | 8 => s.regSch a v
    | 9 => s.regCad a v
    | 10 => s.regRei a v
    | 11 => s.regEth a v
    | 12 => s.regTen a v
    | 13 => s.regBrd a v
    | 14 => s.regLpe a v
    | 15 => s.regSec a v
    | 16 => s.regPwr a v
    | 18 => s.regTrc a v
    | _ => s.regPlain a v

/-- The word at `a` holds an RWL field, and the lifecycle state is not one of those listed: BLANK and PROVISIONED (R9). -/
def State.rwlLocked (s : State) (a : Nat) : Bool :=
  accMask (fun x => x == Access.rwl) a != 0 && decide (2 ≤ s.get F.SEC_LC_STATE)

/-- A write of `v` by function `fn` to the word at `a`: unmapped words and pages of other tenants discard it with GLB_ERR.ACCESS
(R6, R150), a page in a context reset discards it (R406), and a locked RWL field discards it with GLB_ERR.LOCKED (R9). -/
def State.regWrite (s : State) (fn a v : Nat) : State :=
  let t := (a - 0x1000000) / 0x100000
  if (s.word a).isNone then s.stick F.GLB_ERR_ACCESS
  else if 0x1000000 ≤ a && fn != t then s.stick F.GLB_ERR_ACCESS
  else if 0x1000000 ≤ a && s.ctxBusy t then s
  else if s.rwlLocked a then s.stick F.GLB_ERR_LOCKED
  else s.regEffect a v

/-- The register writes a command noted are made, in order, and none is left. -/
def State.csrSettle (s : State) : State :=
  s.csrLater.foldl (fun (s : State) (w : Nat × Nat) => s.regWrite 0 w.1 w.2) { s with csrLater := [] }

/-! ### Host accesses -/

/-- A restart holds the block that answers at `off` of function `fn`: all but GLB, FW and LPE (R502). -/
def State.regHeld (s : State) (fn off : Nat) : Bool :=
  s.boot.phase == BootPhase.restart && !(fn == 0 && (off / 0x40000 == 0 || off / 0x40000 == 1 || off / 0x40000 == 14))

/-- A host memory request of function `fn` reaches its BAR: the link is up and the function present; outside a Secure stream it
is dropped where IDE is required (R389). -/
def State.hostIn (s : State) (fn : Nat) (secure : Bool) (k : State → State) : State :=
  if !(s.pcie.hpUp && s.fnPresent fn) then s
  else if s.on F.TEN_HP_IDE_REQ && !secure then s.stick F.TEN_IDEDROP_IDEDROP
  else k s

/-- A naturally aligned 32-bit write at offset `off` of a function's BAR0. -/
def State.hostWrite (s : State) (fn off v : Nat) : State :=
  if s.regHeld fn off then s
  else match fnAddr fn off with
    | some a => s.regWrite fn a v
    | none => s.stick F.GLB_ERR_ACCESS

/-- Word pairs that a 64-bit write takes at once and not word by word: domain-wide cadence quantities, which each write distributes,
and the event-flag words, on which readiness is evaluated once (R5, R48, R316). -/
def pairAtOnce (a : Nat) : Bool :=
  a == 0x240018 || a == 0x240030
    || (decide (0x1000000 ≤ a) && (decide (0x80000 ≤ a % 0x100000) && decide (a % 0x100000 < 0x80080)
      || decide (0x80100 ≤ a % 0x100000) && decide (a % 0x100000 < 0x80180)))

/-- The effect of a 64-bit write to such a pair. -/
def State.pairEffect (s : State) (a lo hi : Nat) : State :=
  if a < 0x1000000 then s.cadDomainWide a lo hi
  else
    let t := (a - 0x1000000) / 0x100000
    let o := a % 0x100000
    let v := lo + 2 ^ 32 * hi
    if o < 0x80100 then s.evfSet64 t ((o - 0x80000) / 8) v else s.evfClr64 t ((o - 0x80100) / 8) v

/-- A naturally aligned 64-bit write: of a 64-bit quantity at once, of other words one after the other, each judged as a 32-bit write
(R5, R6, R552). -/
def State.hostWriteWide (s : State) (fn off lo hi : Nat) : State :=
  match fnAddr fn off with
  | some a =>
    let t := (a - 0x1000000) / 0x100000
    if pairAtOnce a && !(s.regHeld fn off) && !(decide (0x1000000 ≤ a) && (fn != t || s.ctxBusy t)) then s.pairEffect a lo hi
    else (s.hostWrite fn off lo).hostWrite fn (off + 4) hi
  | none => (s.hostWrite fn off lo).hostWrite fn (off + 4) hi

/-- REGISTER_WRITE: function `fn` writes the word at offset `off` of its BAR0, or with `hi` the two words from there; its TLP may be
poisoned, which drops and reports it (R387), and lies in a Secure IDE stream or not. -/
def execRegisterWrite (fn : Tenant) (off : BitVec 25) (v : Word) (hi : Option Word) (poisoned secure : Bool) (s : State) : Result :=
  .next (s.hostIn fn.val secure fun s =>
    if poisoned then (s.stick F.TEN_POISON_POISON).out (.poisonedTlp 0)
    else match hi with
      | none => s.hostWrite fn.val (off.toNat / 4 * 4) v.toNat
      | some h => s.hostWriteWide fn.val (off.toNat / 8 * 8) v.toNat h.toNat)

/-- A host access of `size` bytes is one that R5 allows: 32 or 64 bits, naturally aligned. -/
def accessOk (off size : Nat) : Bool := (size == 4 || size == 8) && off % size == 0

/-- A naturally aligned 32-bit read at offset `off` of a function's BAR0, with its completion. -/
def State.hostRead (s : State) (fn off : Nat) : State :=
  if s.regHeld fn off then s.out (.readData fn off 0)
  else match fnAddr fn off with
    | some a => (s.csrRead fn a).2.out (.readData fn off (s.csrRead fn a).1)
    | none => (s.stick F.GLB_ERR_ACCESS).out (.readData fn off 0)

/-- What one word of a 64-bit read gives, with the side effects of the read. -/
def State.wordRead (s : State) (fn off : Nat) : Nat × State :=
  if s.regHeld fn off then (0, s)
  else match fnAddr fn off with
    | some a => s.csrRead fn a
    | none => (0, s.stick F.GLB_ERR_ACCESS)

/-- A naturally aligned 64-bit read: of CAD_TIME at once, without a latch (R5, Table 2.6), else word by word in ascending order
(R6); one completion carries both words. -/
def State.hostReadWide (s : State) (fn off : Nat) : State :=
  if fnAddr fn off = some 0x240008 && !(s.regHeld fn off) then s.out (.readData fn off (s.cad.time % 2 ^ 64))
  else
    let lo := s.wordRead fn off
    let hi := lo.2.wordRead fn (off + 4)
    hi.2.out (.readData fn off (lo.1 + 2 ^ 32 * hi.1))

/-- INVALID_REGISTER_ACCESS: an access that R5 does not allow, or not for every word. A read of one that is narrow or misaligned answers
zeros, its write is discarded, and GLB_ERR.ACCESS is set, except in a block a restart holds (R6, R502). An aligned one is taken word by
word, its unmapped words as above. -/
def execInvalidRegisterAccess (fn : Tenant) (off : BitVec 25) (size : Fin 65) (v : DWord) (read secure : Bool) (s : State) : Result :=
  .next (s.hostIn fn.val secure fun s =>
    if accessOk off.toNat size.val then
      if size.val = 4 then (if read then s.hostRead fn.val off.toNat else s.hostWrite fn.val off.toNat (v.toNat % 2 ^ 32))
      else if read then s.hostReadWide fn.val off.toNat
      else s.hostWriteWide fn.val off.toNat (v.toNat % 2 ^ 32) (v.toNat / 2 ^ 32)
    else
      let s := if s.regHeld fn.val off.toNat then s else s.stick F.GLB_ERR_ACCESS
      if read then s.out (.readData fn.val off.toNat 0) else s)

/-- RC_READ: function `fn` reads the word at offset `off` of its BAR0, or the two words there (R5, R8, R11, R553). -/
def execRcRead (fn : Tenant) (off : BitVec 25) (wide secure : Bool) (s : State) : Result :=
  .next (s.hostIn fn.val secure fun s =>
    if wide then s.hostReadWide fn.val (off.toNat / 8 * 8) else s.hostRead fn.val (off.toNat / 4 * 4))

/-- A W1C write of `v` to the word at `a` in a cycle in which `same` setting events fall on each flag it clears: with none the
flag and its count become 0, else the set wins and the count is their number, saturating (R21, R22). -/
def State.flagsClear (s : State) (a v same : Nat) : State :=
  if 0x1000000 ≤ a ∧ 0x40000 ≤ a % 0x100000 ∧ a % 0x100000 < 0x50000 then
    let t := (a - 0x1000000) / 0x100000
    let s := s.apCounterWrite t (a % 0x100000) v
    match s.poolCnt t (a % 0x10000 / 4) with
    | some n =>
      if same = 0 then s
      else s.setCntSt n ((List.range 3).foldl (fun st k =>
        if bit v (24 + k) then putBits (putBit st (24 + k) true) (8 * k) 8 (min 255 same) else st) (s.cntSt n))
    | none => s
  else
    let s := s.regWrite (ownerOf a) a v
    if same = 0 then s
    else (rowsAt a).foldl (fun (s : State) (r : RegRow) =>
      if r.acc == Access.w1c && bit v r.lo then
        ((s.set ⟨a, r.lo, 1⟩ 1).set (Fld.cnt ⟨a, r.lo, 1⟩) (min 255 same)) else s) s

/-- STICKY_FLAG_CLEAR: function `fn` writes `v` to the word of a sticky flag at offset `off` of its BAR0, `same` events falling in
the cycle of the clear (R21, R22). The function that owns the flag clears it (R150). -/
def execStickyFlagClear (fn : Tenant) (off : BitVec 25) (v : Word) (same : Nat) (secure : Bool) (s : State) : Result :=
  .next (s.hostIn fn.val secure fun s =>
    if s.regHeld fn.val off.toNat then s
    else match fnAddr fn.val (off.toNat / 4 * 4) with
      | some a =>
        if (s.word a).isNone || fn.val != ownerOf a then s.stick F.GLB_ERR_ACCESS
        else if accMask (fun x => x == Access.w1c) a = 0 || (decide (0x1000000 ≤ a) && s.ctxBusy fn.val) then s
        else s.flagsClear a v.toNat same
      | none => s.stick F.GLB_ERR_ACCESS)

/-! ### Rows whose commands may write registers through CSR device addresses -/

/-- WRITE on port `p` (R347). -/
def execWrite (p : Port) (m : Msg) (s : State) : Result := .next ((s.vc1In p.val (asMop m 1 0x10)).csrSettle)

/-- AWL_OPERATION (R254): the Awl path performs its next operation; `fails` says that an access of it outside fails. -/
def execAwlOperation (fails : Bool) (s : State) : Result := .next ((s.awlOperation fails).csrSettle)

/-- ENGINE_CHUNK_DECISION of engine `e` (R241). -/
def execEngineChunkDecision (e : Engine) (fails : Bool) (cut : Fin 17) (s : State) : Result :=
  .next ((s.chunkDecision e.val fails cut.val).csrSettle)

/-- FLIT_RECEIVE: 272 bytes arrive as a flit on port `p` (R338). -/
def execFlitReceive (p : Port) (b : List Byte) (s : State) : Result := .next ((s.flitIn p.val b).csrSettle)

/-! ### The D2 access port (R457, Table 16.10) -/

/-- The debugger reaches core `c`: a control core at D2; a Loupe core (4, 5) in BLANK only. -/
def State.dbgCore (s : State) (c : Nat) : Bool := decide (c < 4) || (decide (c < 6) && s.get F.SEC_LC_STATE == 0)

/-- A device address as the debugger reads it: SRAM, HBM and STAGE of this device with their ECC, register words, and HOST and APORT
through T0's windows. What lies outside a space, or on another chip, reads as nothing. -/
def State.dbgRead (s : State) (da n : Nat) : List (BitVec 8) × State :=
  let sp := daSpace da
  let off := daOff da
  if !(s.isLocal (daChip da)) then ([], s)
  else if 1 ≤ sp ∧ sp ≤ 3 then
    if off + n ≤ spaceSize sp then
      match s.memRead sp off n 0xA0 0 0 with
      | (some l, s) => (l, s)
      | (none, s) => ([], s)
    else ([], s)
  else if sp = 6 then
    (List.range (n / 4)).foldl (fun (x : List (BitVec 8) × State) k =>
      let r := x.2.csrRead 0 (off / 4 * 4 + 4 * k)
      (x.1 ++ leBytes 4 r.1, r.2)) ([], s)
  else if sp = 4 ∨ sp = 5 then
    ((List.range n).filterMap fun k => (s.extAddr 0 sp (off + k)).map fun x => s.extByte x.1 x.2, s)
  else ([], s)

/-- A write of a device address by the debugger. -/
def State.dbgWrite (s : State) (da : Nat) (b : List (BitVec 8)) : State :=
  let sp := daSpace da
  let off := daOff da
  if !(s.isLocal (daChip da)) then s
  else if 1 ≤ sp ∧ sp ≤ 3 then (if off + b.length ≤ spaceSize sp then s.memWrite sp (cellsAt off b) else s)
  else if sp = 6 then
    (List.range (b.length / 4)).foldl (fun (s : State) k => s.regWrite 0 (off / 4 * 4 + 4 * k) (leAt b (4 * k) 4)) s
  else if sp = 4 ∨ sp = 5 then
    (List.range b.length).foldl (fun (s : State) k => match s.extAddr 0 sp (off + k) with
      | some x => s.extWrite x.1 x.2 (slice b k 1)
      | none => s) s
  else s

/-- What the debugger does. The cores' registers are not the spec's: what is read of one is a free value, and a write of one changes
nothing here. -/
def State.dbgAp (s : State) (op : DbgOp) : State :=
  let s := s.tapTo 9
  match op with
  | .halt c =>
    if s.dbgCore c && !(s.boot.halted.contains c) then { s with boot := { s.boot with halted := s.boot.halted ++ [c] } } else s
  | .resume c => if s.dbgCore c then { s with boot := { s.boot with halted := s.boot.halted.filter (· != c) } } else s
  | .step _ => s
  | .coreRead c _ => if s.dbgCore c then s.draw.out (.jtag (leBytes 8 s.freeVal.toNat)) else s
  | .coreWrite _ _ _ => s
  | .read da n =>
    let r := s.dbgRead da n
    r.2.out (.jtag r.1)
  | .write da b => s.dbgWrite da b

/-- DBG_AP: at D2 the debugger's access; below, the instruction acts as BYPASS (R457). -/
def execDbgAp (op : DbgOp) (s : State) : Result :=
  .next (if s.get F.SEC_DBG_LEVEL = 2 then s.dbgAp op else s.tapTo 1)

end Sys2Proof.Machine
end

