-- ==== Sys2Proof/Machine/Dispatch.lean ====
section
/-! DEFINITION. The meaning of each command, one arm per constructor. -/
namespace Sys2Proof.Machine

/-- What a command does to everything but the queue. -/
def exec (i : Instr) (s : State) : Host.Outcome State Fault Refusal :=
  match i with
  | .registerWrite fn off v hi poisoned secure => Sys2Proof.Machine.execRegisterWrite fn off v hi poisoned secure s
  | .invalidRegisterAccess fn off size v read secure => Sys2Proof.Machine.execInvalidRegisterAccess fn off size v read secure s
  | .rcRead fn off wide secure => Sys2Proof.Machine.execRcRead fn off wide secure s
  | .stickyFlagClear fn off v same secure => Sys2Proof.Machine.execStickyFlagClear fn off v same secure s
  | .cadTimeLoRead fn => Sys2Proof.Machine.execCadTimeLoRead fn s
  | .cadenceEnable => Sys2Proof.Machine.execCadenceEnable s
  | .cadenceDisable => Sys2Proof.Machine.execCadenceDisable s
  | .switchArm => Sys2Proof.Machine.execSwitchArm s
  | .setTime => Sys2Proof.Machine.execSetTime s
  | .acceptSrc => Sys2Proof.Machine.execAcceptSrc s
  | .tickEdge arm => Sys2Proof.Machine.execTickEdge arm s
  | .tickOutFall => Sys2Proof.Machine.execTickOutFall s
  | .ppsOutRise => Sys2Proof.Machine.execPpsOutRise s
  | .ppsOutFall => Sys2Proof.Machine.execPpsOutFall s
  | .ppsInEdge at_ => Sys2Proof.Machine.execPpsInEdge at_ s
  | .ppsInTimeout => Sys2Proof.Machine.execPpsInTimeout s
  | .ptpMessage p m => Sys2Proof.Machine.execPtpMessage p m s
  | .ptpSourceLost p => Sys2Proof.Machine.execPtpSourceLost p s
  | .holdoverRecord freq temp => Sys2Proof.Machine.execHoldoverRecord freq temp s
  | .rackTimeStore => Sys2Proof.Machine.execRackTimeStore s
  | .joinHoldRelease => Sys2Proof.Machine.execJoinHoldRelease s
  | .masterLoss => Sys2Proof.Machine.execMasterLoss s
  | .timedLaunch id => Sys2Proof.Machine.execTimedLaunch id s
  | .scrubStep => Sys2Proof.Machine.execScrubStep s
  | .hbmScrubStep => Sys2Proof.Machine.execHbmScrubStep s
  | .hbmReady => Sys2Proof.Machine.execHbmReady s
  | .wcResize v => Sys2Proof.Machine.execWcResize v s
  | .wcResizeComplete => Sys2Proof.Machine.execWcResizeComplete s
  | .wcPinEnable k w => Sys2Proof.Machine.execWcPinEnable k w s
  | .wcFillComplete line sector => Sys2Proof.Machine.execWcFillComplete line sector s
  | .facetRegisterWrite t k w => Sys2Proof.Machine.execFacetRegisterWrite t k w s
  | .bar2Read off n secure => Sys2Proof.Machine.execBar2Read off n secure s
  | .bar2Write off data poisoned secure => Sys2Proof.Machine.execBar2Write off data poisoned secure s
  | .nop t q p => Sys2Proof.Machine.execNop t q p s
  | .fence t q p fails => Sys2Proof.Machine.execFence t q p fails s
  | .hello t q p => Sys2Proof.Machine.execHello t q p s
  | .winCreate t q p => Sys2Proof.Machine.execWinCreate t q p s
  | .winRevoke t q p => Sys2Proof.Machine.execWinRevoke t q p s
  | .winDestroy t q p => Sys2Proof.Machine.execWinDestroy t q p s
  | .windowDrainComplete id => Sys2Proof.Machine.execWindowDrainComplete id s
  | .descCreate t q p fails => Sys2Proof.Machine.execDescCreate t q p fails s
  | .winQueryTimeout id => Sys2Proof.Machine.execWinQueryTimeout id s
  | .descDestroy t q p => Sys2Proof.Machine.execDescDestroy t q p s
  | .move t q p fails => Sys2Proof.Machine.execMove t q p fails s
  | .movePlain t q p fails => Sys2Proof.Machine.execMovePlain t q p fails s
  | .gatherPages t q p fails => Sys2Proof.Machine.execGatherPages t q p fails s
  | .scatterPages t q p fails => Sys2Proof.Machine.execScatterPages t q p fails s
  | .chain t q p fails => Sys2Proof.Machine.execChain t q p fails s
  | .metadataReadComplete id fails => Sys2Proof.Machine.execMetadataReadComplete id fails s
  | .shortWrite t q p fails => Sys2Proof.Machine.execShortWrite t q p fails s
  | .shortCopy t q p fails => Sys2Proof.Machine.execShortCopy t q p fails s
  | .awlOperation fails => Sys2Proof.Machine.execAwlOperation fails s
  | .signal t q p fails => Sys2Proof.Machine.execSignal t q p fails s
  | .wait t q p fails => Sys2Proof.Machine.execWait t q p fails s
  | .waitTimeout id => Sys2Proof.Machine.execWaitTimeout id s
  | .barrierArrive t q p fails => Sys2Proof.Machine.execBarrierArrive t q p fails s
  | .barrierWaitTimeout id => Sys2Proof.Machine.execBarrierWaitTimeout id s
  | .lockAcquire t q p fails => Sys2Proof.Machine.execLockAcquire t q p fails s
  | .lockRelease t q p fails => Sys2Proof.Machine.execLockRelease t q p fails s
  | .lockAcquireTimeout id => Sys2Proof.Machine.execLockAcquireTimeout id s
  | .lockWaitExpiry t l => Sys2Proof.Machine.execLockWaitExpiry t l s
  | .lockBackoffExpiry id => Sys2Proof.Machine.execLockBackoffExpiry id s
  | .lockReap t l => Sys2Proof.Machine.execLockReap t l s
  | .flagSet t q p fails => Sys2Proof.Machine.execFlagSet t q p fails s
  | .flagClear t q p fails => Sys2Proof.Machine.execFlagClear t q p fails s
  | .ring t q p fails => Sys2Proof.Machine.execRing t q p fails s
  | .graphLoad t q p fails => Sys2Proof.Machine.execGraphLoad t q p fails s
  | .graphLaunch t q p fails => Sys2Proof.Machine.execGraphLaunch t q p fails s
  | .graphRelease t graph => Sys2Proof.Machine.execGraphRelease t graph s
  | .graphUnload t q p => Sys2Proof.Machine.execGraphUnload t q p s
  | .pwrRequest t q p => Sys2Proof.Machine.execPwrRequest t q p s
  | .calRun t q p => Sys2Proof.Machine.execCalRun t q p s
  | .calRunComplete failed ports settled => Sys2Proof.Machine.execCalRunComplete failed ports settled s
  | .calSave t q p => Sys2Proof.Machine.execCalSave t q p s
  | .restoreFactory t q p => Sys2Proof.Machine.execRestoreFactory t q p s
  | .attestQuote t q p fails => Sys2Proof.Machine.execAttestQuote t q p fails s
  | .fwBegin t q p => Sys2Proof.Machine.execFwBegin t q p s
  | .fwData t q p fails => Sys2Proof.Machine.execFwData t q p fails s
  | .fwCommit t q p => Sys2Proof.Machine.execFwCommit t q p s
  | .fwAbort t q p => Sys2Proof.Machine.execFwAbort t q p s
  | .safeConfig t q p fails => Sys2Proof.Machine.execSafeConfig t q p fails s
  | .safeHeartbeat t q p fails => Sys2Proof.Machine.execSafeHeartbeat t q p fails s
  | .queueEnable t q => Sys2Proof.Machine.execQueueEnable t q s
  | .queueDisable t q => Sys2Proof.Machine.execQueueDisable t q s
  | .queueResume t q => Sys2Proof.Machine.execQueueResume t q s
  | .queueWinWrite t q v => Sys2Proof.Machine.execQueueWinWrite t q v s
  | .cqEnable t => Sys2Proof.Machine.execCqEnable t s
  | .cqDisable t => Sys2Proof.Machine.execCqDisable t s
  | .cqResume t => Sys2Proof.Machine.execCqResume t s
  | .cqWinWrite t v => Sys2Proof.Machine.execCqWinWrite t v s
  | .doorbell t q v => Sys2Proof.Machine.execDoorbell t q v s
  | .cqDoorbell t v => Sys2Proof.Machine.execCqDoorbell t v s
  | .cmqStopWrite v => Sys2Proof.Machine.execCmqStopWrite v s
  | .queueFetch t q same => Sys2Proof.Machine.execQueueFetch t q same s
  | .queueFetchFail t q => Sys2Proof.Machine.execQueueFetchFail t q s
  | .packetDecode t q fails => Sys2Proof.Machine.execPacketDecode t q fails s
  | .deferredDispatch id => Sys2Proof.Machine.execDeferredDispatch id s
  | .cfWorkStart fails => Sys2Proof.Machine.execCfWorkStart fails s
  | .planComputeComplete => Sys2Proof.Machine.execPlanComputeComplete s
  | .priPartWrite t w => Sys2Proof.Machine.execPriPartWrite t w s
  | .priInval w => Sys2Proof.Machine.execPriInval w s
  | .commandStart id fails => Sys2Proof.Machine.execCommandStart id fails s
  | .commandActivate id => Sys2Proof.Machine.execCommandActivate id s
  | .engineChunkDecision e fails cut => Sys2Proof.Machine.execEngineChunkDecision e fails cut s
  | .starveTimeout id => Sys2Proof.Machine.execStarveTimeout id s
  | .sigAfterSend id => Sys2Proof.Machine.execSigAfterSend id s
  | .commandComplete id => Sys2Proof.Machine.execCommandComplete id s
  | .irqModerationTimer t => Sys2Proof.Machine.execIrqModerationTimer t s
  | .engineReset e => Sys2Proof.Machine.execEngineReset e s
  | .engineResetComplete e same => Sys2Proof.Machine.execEngineResetComplete e same s
  | .engineOffline e v => Sys2Proof.Machine.execEngineOffline e v s
  | .engSpartWrite t w => Sys2Proof.Machine.execEngSpartWrite t w s
  | .arbiterDecision lane idle reqs => Sys2Proof.Machine.execArbiterDecision lane idle reqs s
  | .lockedBoundExpiry t q beats => Sys2Proof.Machine.execLockedBoundExpiry t q beats s
  | .counterSet t ix v => Sys2Proof.Machine.execCounterSet t ix v s
  | .counterAdd t ix v => Sys2Proof.Machine.execCounterAdd t ix v s
  | .counterSub t ix v => Sys2Proof.Machine.execCounterSub t ix v s
  | .barrierEnable t b a => Sys2Proof.Machine.execBarrierEnable t b a s
  | .barrierDisable t b a => Sys2Proof.Machine.execBarrierDisable t b a s
  | .synPartitionWrite k t w => Sys2Proof.Machine.execSynPartitionWrite k t w s
  | .evfSetWrite t w h v => Sys2Proof.Machine.execEvfSetWrite t w h v s
  | .evfClrWrite t w h v => Sys2Proof.Machine.execEvfClrWrite t w h v s
  | .nodeDispatch => Sys2Proof.Machine.execNodeDispatch s
  | .heldSetApply t => Sys2Proof.Machine.execHeldSetApply t s
  | .nodeTimeout t graph ix => Sys2Proof.Machine.execNodeTimeout t graph ix s
  | .schPartWrite t w => Sys2Proof.Machine.execSchPartWrite t w s
  | .portEnable p en => Sys2Proof.Machine.execPortEnable p en s
  | .trainingStateAdvance p half => Sys2Proof.Machine.execTrainingStateAdvance p half s
  | .paramExchange p serial chip port major width => Sys2Proof.Machine.execParamExchange p serial chip port major width s
  | .downRetry p => Sys2Proof.Machine.execDownRetry p s
  | .retrainTrigger p => Sys2Proof.Machine.execRetrainTrigger p s
  | .retrainAttemptEnd p ok half => Sys2Proof.Machine.execRetrainAttemptEnd p ok half s
  | .flitReceive p b => Sys2Proof.Machine.execFlitReceive p b s
  | .nakReceived p lack => Sys2Proof.Machine.execNakReceived p lack s
  | .idleFlitSend p => Sys2Proof.Machine.execIdleFlitSend p s
  | .readReq p m => Sys2Proof.Machine.execReadReq p m s
  | .winQuery m => Sys2Proof.Machine.execWinQuery m s
  | .lockReq p m => Sys2Proof.Machine.execLockReq p m s
  | .write p m => Sys2Proof.Machine.execWrite p m s
  | .reinSignal p m => Sys2Proof.Machine.execReinSignal p m s
  | .barArrive p m => Sys2Proof.Machine.execBarArrive p m s
  | .phaseDone p m => Sys2Proof.Machine.execPhaseDone p m s
  | .reinLockRelease p m => Sys2Proof.Machine.execReinLockRelease p m s
  | .epochOpen p m => Sys2Proof.Machine.execEpochOpen p m s
  | .staleNotice p m => Sys2Proof.Machine.execStaleNotice p m s
  | .readCpl m => Sys2Proof.Machine.execReadCpl m s
  | .winAnswer m => Sys2Proof.Machine.execWinAnswer m s
  | .lockGrant m => Sys2Proof.Machine.execLockGrant m s
  | .lockBusy m => Sys2Proof.Machine.execLockBusy m s
  | .barAck m => Sys2Proof.Machine.execBarAck m s
  | .e2eAck m => Sys2Proof.Machine.execE2eAck m s
  | .e2eAckTimer d => Sys2Proof.Machine.execE2eAckTimer d s
  | .refuse m => Sys2Proof.Machine.execRefuse m s
  | .pathLost m => Sys2Proof.Machine.execPathLost m s
  | .gapNak m => Sys2Proof.Machine.execGapNak m s
  | .e2eTimeout d => Sys2Proof.Machine.execE2eTimeout d s
  | .requestTimeout tag => Sys2Proof.Machine.execRequestTimeout tag s
  | .domain p m => Sys2Proof.Machine.execDomain p m s
  | .domainAnnounce => Sys2Proof.Machine.execDomainAnnounce s
  | .timeExchangeStart p => Sys2Proof.Machine.execTimeExchangeStart p s
  | .timeSync p => Sys2Proof.Machine.execTimeSync p s
  | .timeFollow p t1 => Sys2Proof.Machine.execTimeFollow p t1 s
  | .timeDreq p => Sys2Proof.Machine.execTimeDreq p s
  | .timeDresp p t4 => Sys2Proof.Machine.execTimeDresp p t4 s
  | .upstreamReselect => Sys2Proof.Machine.execUpstreamReselect s
  | .config p m => Sys2Proof.Machine.execConfig p m s
  | .configSend => Sys2Proof.Machine.execConfigSend s
  | .girthRequestTimer => Sys2Proof.Machine.execGirthRequestTimer s
  | .girthReq p m => Sys2Proof.Machine.execGirthReq p m s
  | .girthGrant m => Sys2Proof.Machine.execGirthGrant m s
  | .girthRet m => Sys2Proof.Machine.execGirthRet m s
  | .leaseExpiry => Sys2Proof.Machine.execLeaseExpiry s
  | .masterGraceEnd => Sys2Proof.Machine.execMasterGraceEnd s
  | .routingEntryWrite n e w v => Sys2Proof.Machine.execRoutingEntryWrite n e w v s
  | .ethFrameReceive p f => Sys2Proof.Machine.execEthFrameReceive p f s
  | .pfcRepeat p => Sys2Proof.Machine.execPfcRepeat p s
  | .datagramLanding p => Sys2Proof.Machine.execDatagramLanding p s
  | .arpRequest p f => Sys2Proof.Machine.execArpRequest p f s
  | .neighbourSolicitation p f => Sys2Proof.Machine.execNeighbourSolicitation p f s
  | .mkaFrame p f => Sys2Proof.Machine.execMkaFrame p f s
  | .mkaRekey p c => Sys2Proof.Machine.execMkaRekey p c s
  | .saInstall p c an => Sys2Proof.Machine.execSaInstall p c an s
  | .camInsert => Sys2Proof.Machine.execCamInsert s
  | .camDelete => Sys2Proof.Machine.execCamDelete s
  | .camRead => Sys2Proof.Machine.execCamRead s
  | .steeringRuleWrite r j v => Sys2Proof.Machine.execSteeringRuleWrite r j v s
  | .ethLinkChange p up => Sys2Proof.Machine.execEthLinkChange p up s
  | .hostWindowWrite t k j v => Sys2Proof.Machine.execHostWindowWrite t k j v s
  | .p2pWindowWrite w j v => Sys2Proof.Machine.execP2pWindowWrite w j v s
  | .apertureWrite ix j v => Sys2Proof.Machine.execApertureWrite ix j v s
  | .apcfgMailbox w2 answer => Sys2Proof.Machine.execApcfgMailbox w2 answer s
  | .apInboundRequest l addr n read data poisoned secure => Sys2Proof.Machine.execApInboundRequest l addr n read data poisoned secure s
  | .apPerstAssert k => Sys2Proof.Machine.execApPerstAssert k s
  | .configRequest f reg w => Sys2Proof.Machine.execConfigRequest f reg w s
  | .flr f => Sys2Proof.Machine.execFlr f s
  | .vfEnableClear => Sys2Proof.Machine.execVfEnableClear s
  | .hostReset cause => Sys2Proof.Machine.execHostReset cause s
  | .busMasterEnableClear f => Sys2Proof.Machine.execBusMasterEnableClear f s
  | .atsInvalidate f page r w => Sys2Proof.Machine.execAtsInvalidate f page r w s
  | .pmeTurnOff => Sys2Proof.Machine.execPmeTurnOff s
  | .contextReset t => Sys2Proof.Machine.execContextReset t s
  | .contextResetComplete t same => Sys2Proof.Machine.execContextResetComplete t same s
  | .brdRegionWrite f r j v => Sys2Proof.Machine.execBrdRegionWrite f r j v s
  | .brdSync => Sys2Proof.Machine.execBrdSync s
  | .brdSyncComplete same => Sys2Proof.Machine.execBrdSyncComplete same s
  | .summaryEvaluate => Sys2Proof.Machine.execSummaryEvaluate s
  | .mirrorWindowExpiry ix => Sys2Proof.Machine.execMirrorWindowExpiry ix s
  | .gatedVerdict id => Sys2Proof.Machine.execGatedVerdict id s
  | .watcherExpiry w => Sys2Proof.Machine.execWatcherExpiry w s
  | .patternHoldExpiry p => Sys2Proof.Machine.execPatternHoldExpiry p s
  | .tripwireRecord => Sys2Proof.Machine.execTripwireRecord s
  | .safeEnable v => Sys2Proof.Machine.execSafeEnable v s
  | .faultClear v => Sys2Proof.Machine.execFaultClear v s
  | .alarmClear v => Sys2Proof.Machine.execAlarmClear v s
  | .lpeReset v => Sys2Proof.Machine.execLpeReset v s
  | .lockstepMismatch => Sys2Proof.Machine.execLockstepMismatch s
  | .loupeClockFault => Sys2Proof.Machine.execLoupeClockFault s
  | .loupeException onFaultStack spValid => Sys2Proof.Machine.execLoupeException onFaultStack spValid s
  | .lfWatchdogExpiry => Sys2Proof.Machine.execLfWatchdogExpiry s
  | .loupeSramUe => Sys2Proof.Machine.execLoupeSramUe s
  | .loupeRestartComplete ok => Sys2Proof.Machine.execLoupeRestartComplete ok s
  | .lpStatusFrame => Sys2Proof.Machine.execLpStatusFrame s
  | .lpFrameReceived frame => Sys2Proof.Machine.execLpFrameReceived frame s
  | .eventRingFlush => Sys2Proof.Machine.execEventRingFlush s
  | .keyInstall slot fails => Sys2Proof.Machine.execKeyInstall slot fails s
  | .keyErase slot => Sys2Proof.Machine.execKeyErase slot s
  | .lpKey fails => Sys2Proof.Machine.execLpKey fails s
  | .credInstall fails => Sys2Proof.Machine.execCredInstall fails s
  | .credRevoke arg => Sys2Proof.Machine.execCredRevoke arg s
  | .authSet arg fails => Sys2Proof.Machine.execAuthSet arg fails s
  | .lcAdvance arg => Sys2Proof.Machine.execLcAdvance arg s
  | .dbgToken jtag fails => Sys2Proof.Machine.execDbgToken jtag fails s
  | .d2UnlockComplete => Sys2Proof.Machine.execD2UnlockComplete s
  | .svnAdvance => Sys2Proof.Machine.execSvnAdvance s
  | .credentialEvaluate => Sys2Proof.Machine.execCredentialEvaluate s
  | .debugLevelWrite v jtag => Sys2Proof.Machine.execDebugLevelWrite v jtag s
  | .dbgChal => Sys2Proof.Machine.execDbgChal s
  | .idcode => Sys2Proof.Machine.execIdcode s
  | .bypass => Sys2Proof.Machine.execBypass s
  | .samplePreload data => Sys2Proof.Machine.execSamplePreload data s
  | .extest => Sys2Proof.Machine.execExtest s
  | .clamp => Sys2Proof.Machine.execClamp s
  | .highz => Sys2Proof.Machine.execHighz s
  | .dbgTrace reg ix => Sys2Proof.Machine.execDbgTrace reg ix s
  | .dbgAp op => Sys2Proof.Machine.execDbgAp op s
  | .debuggerAttach => Sys2Proof.Machine.execDebuggerAttach s
  | .debuggerDetach => Sys2Proof.Machine.execDebuggerDetach s
  | .trstNAssert => Sys2Proof.Machine.execTrstNAssert s
  | .trcUser v => Sys2Proof.Machine.execTrcUser v s
  | .drainComplete => Sys2Proof.Machine.execDrainComplete s
  | .drainTimeout => Sys2Proof.Machine.execDrainTimeout s
  | .wakeEvent code => Sys2Proof.Machine.execWakeEvent code s
  | .wakeTimeReached => Sys2Proof.Machine.execWakeTimeReached s
  | .i3cWake v => Sys2Proof.Machine.execI3cWake v s
  | .stateExitComplete => Sys2Proof.Machine.execStateExitComplete s
  | .autoHoldEntry => Sys2Proof.Machine.execAutoHoldEntry s
  | .autoHoldExit => Sys2Proof.Machine.execAutoHoldExit s
  | .powerSample mw => Sys2Proof.Machine.execPowerSample mw s
  | .thermalSample tj => Sys2Proof.Machine.execThermalSample tj s
  | .thermalResume => Sys2Proof.Machine.execThermalResume s
  | .i3cCapWrite w => Sys2Proof.Machine.execI3cCapWrite w s
  | .i3cStatusRead => Sys2Proof.Machine.execI3cStatusRead s
  | .i3cCcc op => Sys2Proof.Machine.execI3cCcc op s
  | .porNAssert => Sys2Proof.Machine.execPorNAssert s
  | .coldBoot vaultGood testEn => Sys2Proof.Machine.execColdBoot vaultGood testEn s
  | .commandReady => Sys2Proof.Machine.execCommandReady s
  | .fwConfirm => Sys2Proof.Machine.execFwConfirm s
  | .autoConfirm => Sys2Proof.Machine.execAutoConfirm s
  | .fwReboot => Sys2Proof.Machine.execFwReboot s
  | .fwRestart v => Sys2Proof.Machine.execFwRestart v s
  | .controlCoreException c kind pc sp onFault => Sys2Proof.Machine.execControlCoreException c kind pc sp onFault s
  | .controlCoreWatchdog c => Sys2Proof.Machine.execControlCoreWatchdog c s
  | .pllUnlock => Sys2Proof.Machine.execPllUnlock s
  | .safeStateRestart code memOk => Sys2Proof.Machine.execSafeStateRestart code memOk s
  | .restartComplete => Sys2Proof.Machine.execRestartComplete s
  | .tcxoLoss => Sys2Proof.Machine.execTcxoLoss s
  | .tcxoReturn => Sys2Proof.Machine.execTcxoReturn s
  | .sysclkLoss => Sys2Proof.Machine.execSysclkLoss s
  | .sysclkReturn => Sys2Proof.Machine.execSysclkReturn s
  | .refclkLoss => Sys2Proof.Machine.execRefclkLoss s
  | .railUndervoltage => Sys2Proof.Machine.execRailUndervoltage s
  | .vddLpeUndervoltage => Sys2Proof.Machine.execVddLpeUndervoltage s
  | .vddAoLoss => Sys2Proof.Machine.execVddAoLoss s
  | .testEnHigh => Sys2Proof.Machine.execTestEnHigh s
  | .ptpTransmitInterval p twoStep peer => Sys2Proof.Machine.execPtpTransmitInterval p twoStep peer s
  | .trainingBoundExpiry p => Sys2Proof.Machine.execTrainingBoundExpiry p s
  | .spdmRequest code session req => Sys2Proof.Machine.execSpdmRequest code session req s
  | .perstNDeassert => Sys2Proof.Machine.execPerstNDeassert s
  | .hpLinkUp speed width => Sys2Proof.Machine.execHpLinkUp speed width s
  | .apLinkChange l speed width up => Sys2Proof.Machine.execApLinkChange l speed width up s
  | .apPerstRelease k => Sys2Proof.Machine.execApPerstRelease k s
  | .vddLpeReturn => Sys2Proof.Machine.execVddLpeReturn s
  | .decommissionComplete => Sys2Proof.Machine.execDecommissionComplete s

end Sys2Proof.Machine
end

