-- ==== Sys2Proof/Safety.lean ====
section
/-! DEFINITION. What the claims call a well-kept state: the canonical forms of the register file, of the memories, of the
synchronization maps and of what is known of the memory outside. -/
namespace Sys2Proof.Machine

/-- The keys of an association list rise strictly from `lo`. -/
def kvWfFrom {α : Type} (lo : Nat) : List (Nat × α) → Bool
  | [] => true
  | p :: t => decide (lo ≤ p.1) && kvWfFrom (p.1 + 1) t

/-- The keys of an association list rise strictly, so each key has one value. -/
def kvWf {α : Type} (l : List (Nat × α)) : Bool := kvWfFrom 0 l

/-- The canonical form of the counters, counter control words, barriers, locks and node flag words: an entry at the value it
has unlisted is not listed. -/
def Sync.wf (y : Sync) : Bool :=
  spWf (fun _ => 0) y.cnt && spWf (fun _ => 0) y.cst && spWf (fun _ => barZero) y.bars && spWf (fun _ => lockZero) y.locks
    && spWf (fun _ => 0) y.flags

/-- The invariant of every step: each map that stands for an address space or a register file is in its one canonical form, so
equal contents are equal data. -/
def State.inv (s : State) : Bool := spWf resetWord s.regs && s.mem.wf && s.sync.wf && kvWf s.ext

/-- A host memory request of function `fn` reaches its BAR: the link is up, the function is present, and the request lies in a Secure
stream where IDE is required (R389). -/
def State.hostReaches (s : State) (fn : Nat) (secure : Bool) : Bool :=
  s.pcie.hpUp && s.fnPresent fn && (secure || !(s.on F.TEN_HP_IDE_REQ))

/-! ### The decode of an opcode row's packet, in its parts

The claims about an opcode row name the states its command goes through: decoded, joined to its locked sequence and started, or
taken by CF. `s.nextId` is the id the command gets; no command of the state has it. -/

/-- The row's packet has become command `s.nextId`. -/
def State.rowDecoded (s : State) (t q op : Nat) (p : List (BitVec 8)) : State := s.addCmd (s.freshCmd t q (rowPacket op p) none)

/-- The row's packet is decoded and passes: nothing holds its queue's decode (R28, R163, R233, R321), its marks let it be decoded (R164,
R219, R226, R234), no sequence it belongs to has been ended (R213, R271), and it passes its header checks and the checks of its body that
every opcode shares (R161, R184, R186, R190, R554). -/
def State.rowPasses (s : State) (t q op : Nat) (p : List (BitVec 8)) (fails : Bool) : Bool :=
  !(s.decodeHeld t q) && s.marksOk t q (rowPacket op p) fails
    && !((s.rowDecoded t q op p).seqDead t q && decide (2 ≤ flLOCK (pFlags (rowPacket op p))))
    && (s.cmd? s.nextId).isNone && (s.headerCheck t q (rowPacket op p)).isNone
    && ((s.rowDecoded t q op p).bodyCheck t op (rowPacket op p)).isNone

/-- CF has taken the row's command (R28, R29); behind a fence what its queue has written outside is flushed (R164). -/
def State.rowTaken (s : State) (t q op : Nat) (p : List (BitVec 8)) : State :=
  let d := (s.rowDecoded t q op p).toCf s.nextId
  let d := if isFence (rowPacket op p) then d.flushed t q else d
  ({ d with cf := d.cf.filter (· != s.nextId) } : State).modCmd s.nextId fun (c : Cmd) =>
    { c with phase := Phase.running, started := true, startedAt := d.cad.time }

/-- The row's packet passes, CF is free for its command and may take it at once, and behind a fence the flush succeeds (R28, R30,
R164, R189, R509). -/
def State.rowAccepted (s : State) (t q op : Nat) (p : List (BitVec 8)) (fails : Bool) : Bool :=
  s.rowPasses t q op p fails && decide ((s.rowDecoded t q op p).cf.length < 256)
    && ((s.rowDecoded t q op p).toCf s.nextId).cfFree s.nextId
    && !(isFence (rowPacket op p) && ((s.rowDecoded t q op p).toCf s.nextId).flushFails t
      (((s.rowDecoded t q op p).toCf s.nextId).queueSt t q).dirty fails)

/-- The row's command has joined the locked sequence its marks name (R163). -/
def State.rowJoined (s : State) (t q op : Nat) (p : List (BitVec 8)) : State := (s.rowDecoded t q op p).seqJoin s.nextId

/-- The row's command has started; behind a fence what its queue has written outside is flushed (R164, R189). -/
def State.rowStarted (s : State) (t q op : Nat) (p : List (BitVec 8)) : State :=
  let j := s.rowJoined t q op p
  match j.cmd? s.nextId with
  | some c => (if isFence c.pkt then j.flushed c.tenant c.queue else j).markStarted c
  | none => j

/-- The row's front-end command starts at once: it passes its own checks, is not TIMED or is a graph launch, its
sequence is not broken, its start
condition holds, its flush succeeds, and no held node makes it wait (R163, R164, R189, R326). -/
def State.rowStarts (s : State) (t q op : Nat) (p : List (BitVec 8)) (fails : Bool) : Bool :=
  let d := s.rowDecoded t q op p
  let j := s.rowJoined t q op p
  let u := s.rowStarted t q op p
  s.rowPasses t q op p fails
    && (match d.cmd? s.nextId with
      | some c => (d.frontCheck c).isNone && (!c.timed || (op == 0x29 && (d.timedCheck c).isNone))
      | none => false)
    && (match j.cmd? s.nextId with
      | some c => (j.seqBroken c).isNone && j.mayStart c
          && !(isFence c.pkt && j.flushFails c.tenant (j.queueSt c.tenant c.queue).dirty fails)
      | none => false)
    && (match u.cmd? s.nextId with | some c => !(u.heldBack c) | none => false)

end Sys2Proof.Machine
end

