-- ==== Sys2Proof/Certificates/Slice0/Obligations.lean ====
section
/-! DEFINITION. The statements for the provers: what the commands and the machine do, from the rules of the spec. -/
open Sys2Proof Sys2Proof.Machine

/-- A step takes the command at the front of the queue and runs it on the state with the queue's rest. -/
def Obligations.StepRunsTheFrontCommand : Prop :=
  ∀ (c : Instr) (rest : List Instr) (s : State), step { s with pending := c :: rest } = exec c { s with pending := rest }

/-- On an empty queue a step lets one nanosecond of rack time pass, unless a joining follower holds it (R36, R47): besides rack time and
the slew being worked off only SLEWING, and in HOLDOVER the error bound, change. That a step without a command is a nanosecond is
the model's choice (log entry 1). -/
def Obligations.EmptyQueueStepPassesANanosecond : Prop :=
  ∀ s : State, s.pending = [] →
    (s.cad.joinHold = true → step s = .next s) ∧
    (s.cad.joinHold = false → ∃ t : State, step s = .next t ∧ t.cad.time = s.cad.time + 1 ∧
      (∀ b, b ≠ F.CAD_STATUS_SLEWING.addr → b ≠ F.CAD_HOLD_ERR.addr → t.rd b = s.rd b) ∧
      (s.get F.CAD_STATUS_SOURCE ≠ 5 → t.rd F.CAD_HOLD_ERR.addr = s.rd F.CAD_HOLD_ERR.addr) ∧
      t = { s with regs := t.regs, cad := { s.cad with time := t.cad.time, slew := t.cad.slew, slewPart := t.cad.slewPart } })

/-- Every command answers a next state, in every state and with every operand: no register access, packet, message or event stops the
block. -/
def Obligations.EveryCommandAnswersANextState : Prop := ∀ (c : Instr) (s : State), ∃ t : State, exec c s = .next t

/-- The machine right after reset (R486): every register reads its reset word, nothing is in flight, the queue is empty, and every map
is in its canonical form. -/
def Obligations.ResetIsWellKept : Prop :=
  State.reset.inv = true ∧ (∀ a, State.reset.rd a = (resetWord a).toNat) ∧ State.reset.pending = [] ∧ State.reset.cmds = [] ∧
    State.reset.outbox = [] ∧ State.reset.mem.sram = [] ∧ State.reset.mem.hbm = [] ∧ State.reset.mem.stage = []

/-- The canonical forms are an invariant of every step: the register file, the three memories, the flag and counter maps and the
memory outside stay sorted, without repeats and without an entry equal to what an unlisted key reads as. -/
def Obligations.StepKeepsTheCanonicalForms : Prop :=
  ∀ s t : State, s.inv = true → step s = .next t → t.inv = true

/-- REGISTER_WRITE (R5, R6, R9, R150, R387, R389, R502, R552). A write that reaches its block has the register's own effect; a word of
ARB (a block whose registers have no effect of their own) takes its RW bits and clears the flags written with 1, or, where a field
is outside its range, is discarded whole with ARB_CFG.CFG. A write of an unmapped word, or of another tenant's page, is discarded
with GLB_ERR.ACCESS; a locked RWL word with GLB_ERR.LOCKED; a poisoned TLP is reported, with TEN_POISON; a TLP outside a Secure
stream, where IDE is required, with TEN_IDEDROP; a write to a block that a restart holds, or to a page in a context reset, changes
nothing. A 64-bit write takes CAD_EPOCH and CAD_SWITCH_TICK at once; one of two words that are no such pair is two 32-bit writes, the
lower word first. -/
def Obligations.RegisterWriteHasItsEffect : Prop :=
  ∀ (s : State) (fn : Tenant) (off : BitVec 25) (v : Word) (hi : Option Word) (secure : Bool),
    (s.pcie.hpUp = true → s.fnPresent fn.val = true → s.on F.TEN_HP_IDE_REQ = true → ∀ b,
      exec (.registerWrite fn off v hi b false) s = .next (s.stick F.TEN_IDEDROP_IDEDROP)) ∧
    (s.hostReaches fn.val secure = true →
      exec (.registerWrite fn off v hi true secure) s = .next ((s.stick F.TEN_POISON_POISON).out (.poisonedTlp 0))) ∧
    (s.hostReaches fn.val secure = true → s.regHeld fn.val (off.toNat / 4 * 4) = true →
      exec (.registerWrite fn off v none false secure) s = .next s) ∧
    (s.hostReaches fn.val secure = true → s.regHeld fn.val (off.toNat / 4 * 4) = false →
      (fnAddr fn.val (off.toNat / 4 * 4) = none → exec (.registerWrite fn off v none false secure) s = .next (s.stick F.GLB_ERR_ACCESS)) ∧
      ∀ a, fnAddr fn.val (off.toNat / 4 * 4) = some a →
        ((s.word a = none → exec (.registerWrite fn off v none false secure) s = .next (s.stick F.GLB_ERR_ACCESS)) ∧
        ((s.word a).isSome = true → 0x1000000 ≤ a → (a - 0x1000000) / 0x100000 ≠ fn.val →
          exec (.registerWrite fn off v none false secure) s = .next (s.stick F.GLB_ERR_ACCESS)) ∧
        ((s.word a).isSome = true → 0x1000000 ≤ a → (a - 0x1000000) / 0x100000 = fn.val → s.ctxBusy fn.val = true →
          exec (.registerWrite fn off v none false secure) s = .next s) ∧
        ((s.word a).isSome = true → (a < 0x1000000 ∨ ((a - 0x1000000) / 0x100000 = fn.val ∧ s.ctxBusy fn.val = false)) →
          (s.rwlLocked a = true → exec (.registerWrite fn off v none false secure) s = .next (s.stick F.GLB_ERR_LOCKED)) ∧
          (s.rwlLocked a = false → exec (.registerWrite fn off v none false secure) s = .next (s.regEffect a v.toNat)) ∧
          (s.rwlLocked a = false → a / 0x40000 = 6 → exec (.registerWrite fn off v none false secure) s =
            .next (if fieldsInRange a v.toNat then (s.putWord a v.toNat).clearFlags a v.toNat else s.stick F.ARB_CFG_CFG))))) ∧
    (s.hostReaches fn.val secure = true → ∀ h o, hi = some h → o = off.toNat / 8 * 8 →
      (fnAddr fn.val o = none ∨ (∃ a, fnAddr fn.val o = some a ∧ pairAtOnce a = false) →
        ∃ u : State, exec (.registerWrite fn (BitVec.ofNat 25 o) v none false secure) s = .next u ∧
          exec (.registerWrite fn off v hi false secure) s = .next (u.hostWrite fn.val (o + 4) h.toNat)) ∧
      (o = 0x240018 ∨ o = 0x240030 → fn.val = 0 → s.regHeld 0 o = false →
        ((s.on F.CAD_STATUS_MASTER = false ∨ (s.on F.CAD_CTRL_EN = true ∧ o = 0x240018)) → exec (.registerWrite fn off v hi false secure) s =
          .next ((s.stick F.CAD_CFG_CFG).stick F.CAD_CFG_CFG)) ∧
        (s.on F.CAD_STATUS_MASTER = true → ¬(s.on F.CAD_CTRL_EN = true ∧ o = 0x240018) → exec (.registerWrite fn off v hi false secure) s =
          .next ((s.wr o v.toNat).wr (o + 4) (if o = 0x240030 then h.toNat % 2 ^ 16 else h.toNat)).configSend)))

/-- RC_READ and CAD_TIME_LO_READ (R5, R6, R8, R11, R150, R389, R502, R553). A read of a mapped word answers what the word shows; where
the reader owns the block, the read-clear fields of the word are cleared after it, and nothing else changes. CMQ_FWQ_PEAK and
PWR_TJ.PEAK then restart from what they track; a read of the trace window passes the ECC of the buffer. CAD_TIME_LO answers bits 31:0 of rack time and latches bits 63:32 for the reader, whose
read of CAD_TIME_HI takes them; a 64-bit read of CAD_TIME answers it whole. An unmapped word reads zero and sets GLB_ERR.ACCESS.
INVALID_REGISTER_ACCESS (R5, R6): an access that is not of 32 or 64 bits or not aligned sets GLB_ERR.ACCESS; a read of it answers
zero. Any access outside a Secure stream, where IDE is required, is dropped with TEN_IDEDROP; a read of a block a restart holds
answers zero. -/
def Obligations.ReadsAnswerAndInvalidAccessesSetAccess : Prop :=
  (∀ (s : State) (fn : Tenant) (off : BitVec 25) (secure : Bool),
    (s.blockOpen = true → exec (.cadTimeLoRead fn) s = .next
      { s with
        cad := { s.cad with latches := kvIns fn.val (s.cad.time / 2 ^ 32 % 2 ^ 32) s.cad.latches }
        outbox := s.outbox ++ [.readData fn.val 0x240008 (s.cad.time % 2 ^ 32)] }) ∧
    (s.blockOpen = false → exec (.cadTimeLoRead fn) s = .next (s.out (.readData fn.val 0x240008 0))) ∧
    (s.pcie.hpUp = true → s.fnPresent fn.val = true → s.on F.TEN_HP_IDE_REQ = true → ∀ wide,
      exec (.rcRead fn off wide false) s = .next (s.stick F.TEN_IDEDROP_IDEDROP)) ∧
    (s.hostReaches fn.val secure = true → s.regHeld fn.val (off.toNat / 4 * 4) = true → exec (.rcRead fn off false secure) s =
      .next (s.out (.readData fn.val (off.toNat / 4 * 4) 0))) ∧
    (s.hostReaches fn.val secure = true → s.regHeld fn.val 0x240008 = false → fn.val = 0 → off.toNat / 8 * 8 = 0x240008 →
      exec (.rcRead fn off true secure) s = .next (s.out (.readData 0 0x240008 (s.cad.time % 2 ^ 64)))) ∧
    (s.hostReaches fn.val secure = true → s.regHeld fn.val (off.toNat / 4 * 4) = false →
      (fnAddr fn.val (off.toNat / 4 * 4) = none → exec (.rcRead fn off false secure) s =
        .next ((s.stick F.GLB_ERR_ACCESS).out (.readData fn.val (off.toNat / 4 * 4) 0))) ∧
      ∀ a, fnAddr fn.val (off.toNat / 4 * 4) = some a →
        ((s.word a = none → exec (.rcRead fn off false secure) s =
          .next ((s.stick F.GLB_ERR_ACCESS).out (.readData fn.val (off.toNat / 4 * 4) 0))) ∧
        (a = 0x240008 → exec (.rcRead fn off false secure) s = exec (.cadTimeLoRead fn) s) ∧
        (a = 0x24000C → ∀ h, kvFind s.cad.latches fn.val = some h → exec (.rcRead fn off false secure) s =
          .next { s with cad := { s.cad with latches := kvDel s.cad.latches fn.val }
                         outbox := s.outbox ++ [.readData fn.val 0x24000C h] }) ∧
        (0x481000 ≤ a → a < 0x482000 → s.get F.PWR_STATUS_STATE ≠ 2 → s.get F.PWR_STATUS_STATE ≠ 3 → exec (.rcRead fn off false secure) s =
          .next ((s.windowRead a).2.out (.readData fn.val (off.toNat / 4 * 4) (s.windowRead a).1))) ∧
        (∀ v, s.word a = some v → a ≠ 0x240008 → a ≠ 0x24000C → 
          ¬(0x481000 ≤ a ∧ a < 0x482000 ∧ s.get F.PWR_STATUS_STATE ≠ 2 ∧ s.get F.PWR_STATUS_STATE ≠ 3) →
          (fn.val ≠ ownerOf a → exec (.rcRead fn off false secure) s =
            .next { s with outbox := s.outbox ++ [.readData fn.val (off.toNat / 4 * 4) v] }) ∧
          (fn.val = ownerOf a → ∃ t, exec (.rcRead fn off false secure) s = .next t ∧
            t.outbox = s.outbox ++ [.readData fn.val (off.toNat / 4 * 4) v] ∧
            (a ≠ 0x80004 → a ≠ 0x400024 → t.rd a = s.rd a &&& (0xFFFFFFFF - accMask (fun x => x == Access.rc) a)) ∧
            (a = 0x80004 → t.get F.CMQ_FWQ_PEAK = s.cf.length % 2 ^ F.CMQ_FWQ_PEAK.n) ∧
            (a = 0x400024 → t.get F.PWR_TJ_PEAK = s.get F.PWR_TJ_NOW) ∧
            (∀ b, b ≠ a → t.rd b = s.rd b) ∧ t = { s with regs := t.regs, outbox := t.outbox }))))) ∧
  (∀ (s : State) (fn : Tenant) (off : BitVec 25) (size : Fin 65) (v : DWord) (secure : Bool),
    (s.pcie.hpUp = true → s.fnPresent fn.val = true → s.on F.TEN_HP_IDE_REQ = true → ∀ b,
      exec (.invalidRegisterAccess fn off size v b false) s = .next (s.stick F.TEN_IDEDROP_IDEDROP)) ∧
    (s.hostReaches fn.val secure = true → accessOk off.toNat size.val = false → s.regHeld fn.val off.toNat = false →
      exec (.invalidRegisterAccess fn off size v false secure) s = .next (s.stick F.GLB_ERR_ACCESS) ∧
      exec (.invalidRegisterAccess fn off size v true secure) s =
        .next ((s.stick F.GLB_ERR_ACCESS).out (.readData fn.val off.toNat 0))) ∧
    (s.hostReaches fn.val secure = true → accessOk off.toNat size.val = false → s.regHeld fn.val off.toNat = true →
      exec (.invalidRegisterAccess fn off size v true secure) s = .next (s.out (.readData fn.val off.toNat 0))))

/-- Every sticky flag (R20): an event sets the flag and advances its count by one, saturating at 0xFF, and leaves every other register
alone. STICKY_FLAG_CLEAR with setting events in the cycle of the clear (R22): the set wins, the flag stays 1, and the count
becomes the number of those events, saturating at 0xFF. -/
def Obligations.FlagsCountAndSetsWinOverClears : Prop := 
  (∀ (s : State) (f : Fld), f.n = 1 → f.lo + 16 ≤ 32 →
    (s.stick f).get f = 1 ∧ (s.stick f).get f.cnt = min 255 (s.get f.cnt + 1) ∧
    (∀ b, b ≠ f.addr → (s.stick f).rd b = s.rd b) ∧
    (∀ g : Fld, g.addr = f.addr → (g.lo + g.n ≤ f.lo ∨ (f.lo + 1 ≤ g.lo ∧ g.lo + g.n ≤ f.lo + 8) ∨ f.lo + 16 ≤ g.lo) →
      (s.stick f).get g = s.get g) ∧
    s.stick f = { s with regs := (s.stick f).regs }) ∧
  (∀ (s : State) (off : BitVec 25) (v : Word) (secure : Bool) (a same : Nat) (r : RegRow),
    s.hostReaches 0 secure = true → s.regHeld 0 off.toNat = false → fnAddr 0 (off.toNat / 4 * 4) = some a →
    a < 0x1000000 → (s.word a).isSome = true → s.rwlLocked a = false → 0 < same →
    r ∈ rowsAt a → r.acc = Access.w1c → r.n = 1 → r.lo + 16 ≤ 32 → bit v.toNat r.lo = true →
    (∀ r' ∈ rowsAt a, r'.acc = Access.w1c → r'.lo = r.lo ∨ (r'.lo + 16 ≤ 32 ∧ (r'.lo + 16 ≤ r.lo ∨ r.lo + 16 ≤ r'.lo))) →
    ∃ t, exec (.stickyFlagClear 0 off v same secure) s = .next t ∧
      t.get ⟨a, r.lo, 1⟩ = 1 ∧ t.get ⟨a, r.lo + 8, 8⟩ = min 255 same)

/-- STICKY_FLAG_CLEAR (R21): for every word of a block whose writes have no effect of their own, and every sticky flag in it written
with 1, the flag and its count read 0 afterwards; the next state is the plain write's. -/
def Obligations.FlagClearZeroesFlagAndCount : Prop :=
  (∀ (s : State) (a v : Nat) (r : RegRow), r ∈ rowsAt a → r.acc = Access.w1c → bit v r.lo = true →
    (s.clearFlags a v).get ⟨a, r.lo, 1⟩ = 0 ∧ (s.clearFlags a v).get ⟨a, r.lo + 8, 8⟩ = 0) ∧
  (∀ (s : State) (t i v : Nat) (n : Nat) (k : Nat), k < 3 → s.poolCnt t i = some n → i < 16384 → bit v (24 + k) = true →
    ∃ st, s.apCounterWrite t (0x40000 + 4 * i) v = s.setCntSt n st ∧ bit st (24 + k) = false ∧ bitsOf st (8 * k) 8 = 0) ∧
  (∀ (s : State) (off : BitVec 25) (v : Word) (secure : Bool) (a : Nat),
    s.hostReaches 0 secure = true → s.regHeld 0 off.toNat = false → fnAddr 0 (off.toNat / 4 * 4) = some a →
    a < 0x1000000 → (s.word a).isSome = true → accMask (fun x => x == Access.w1c) a ≠ 0 → s.rwlLocked a = false →
    s.regEffect a v.toNat = s.regPlain a v.toNat → fieldsInRange a v.toNat = true →
    exec (.stickyFlagClear 0 off v 0 secure) s = .next ((s.putWord a v.toNat).clearFlags a v.toNat))

/-- REGISTER_WRITE of ENG_SPLIT (R243): a write whose three shares do not sum to 64 is discarded and sets ENG_CFG.CFG; another is
taken, and no other register changes. -/
def Obligations.EngineSharesSumTo64 : Prop :=
  ∀ (s : State) (off : BitVec 25) (v : Word) (secure : Bool), off.toNat / 4 * 4 = 0x140004 →
    s.hostReaches 0 secure = true → s.regHeld 0 0x140004 = false →
    (bitsOf v.toNat 0 7 + bitsOf v.toNat 8 7 + bitsOf v.toNat 16 7 ≠ 64 → exec (.registerWrite 0 off v none false secure) s = .next (s.stick F.ENG_CFG_CFG)) ∧
    (bitsOf v.toNat 0 7 + bitsOf v.toNat 8 7 + bitsOf v.toNat 16 7 = 64 → ∃ t : State, exec (.registerWrite 0 off v none false secure) s = .next t ∧
      t.get F.ENG_SPLIT_READ = bitsOf v.toNat 0 7 ∧ t.get F.ENG_SPLIT_WRITE = bitsOf v.toNat 8 7 ∧ t.get F.ENG_SPLIT_REMOTE = bitsOf v.toNat 16 7 ∧
      (∀ b, b ≠ 0x140004 → t.rd b = s.rd b) ∧ t = { s with regs := t.regs })

/-- CADENCE_ENABLE, CADENCE_DISABLE, SWITCH_ARM (R48 to R51). On the domain master with a period of 100 µs to 1 s and an epoch that is
not in the future, EN becomes 1, CAD_TICK takes the number of the current tick, and the configuration is sent; else CAD_CFG.CFG is
set and nothing else changes. EN returns to 0 on the master only. A switch is armed when the cadence runs, none is pending, the next
period is in range and its tick lies beyond the horizon; the tick and the period are those of the registers at the arm. That EN 0
refuses an arm is the model's choice (log entry 77). SET_TIME, ACCEPT_SRC (R37 to R39): on the master with the cadence stopped rack
time steps forward to CAD_TIME_SET, or is slewed towards an earlier value; elsewhere CAD_CFG.CFG is set. ACCEPT_SRC lets the master
take the first source of the order of R38 whatever its offset; where none is to be taken, and on a follower, it is only noted (the
model's choice, log entry 79). During a restart none of them has an effect (R502). -/
def Obligations.CadenceAndTimeControlFollowTheirConditions : Prop :=
  (∀ s : State, s.blockOpen = true →
    (s.on F.CAD_CTRL_EN = false → s.on F.CAD_STATUS_MASTER = true → 100000 ≤ s.period → s.period ≤ 1000000000 → s.epoch ≤ s.cad.time →
      ∃ u : State, exec .cadenceEnable s = .next u.configSend ∧ u.on F.CAD_CTRL_EN = true ∧ u = { s with regs := u.regs } ∧
        (s.on F.CAD_STATUS_SWITCH_PENDING = false → s.cad.time < 2 ^ 64 → u.tick = (s.cad.time - s.epoch) / s.period)) ∧
    (s.on F.CAD_CTRL_EN = false →
      (s.on F.CAD_STATUS_MASTER = false ∨ s.period < 100000 ∨ 1000000000 < s.period ∨ s.cad.time < s.epoch) →
      exec .cadenceEnable s = .next (s.stick F.CAD_CFG_CFG)) ∧
    (s.on F.CAD_CTRL_EN = true → exec .cadenceEnable s = .next s) ∧
    (s.on F.CAD_CTRL_EN = true → s.on F.CAD_STATUS_MASTER = true →
      exec .cadenceDisable s = .next (s.set F.CAD_CTRL_EN 0).configSend) ∧
    (s.on F.CAD_CTRL_EN = true → s.on F.CAD_STATUS_MASTER = false → exec .cadenceDisable s = .next (s.stick F.CAD_CFG_CFG)) ∧
    (s.on F.CAD_CTRL_EN = false → exec .cadenceDisable s = .next s) ∧
    (∀ p : Prop, p = (s.on F.CAD_STATUS_MASTER = true ∧ s.on F.CAD_CTRL_EN = true ∧ s.on F.CAD_STATUS_SWITCH_PENDING = false ∧
        100000 ≤ s.get F.CAD_NEXT_PERIOD ∧ s.get F.CAD_NEXT_PERIOD ≤ 1000000000 ∧ s.tick + s.get F.CAD_FIT_HORIZON < s.switchReg) →
      (p → ∃ u : State, exec .switchArm s = .next u.configSend ∧ u.on F.CAD_CTRL_SWITCH_ARM = true ∧
        u.on F.CAD_STATUS_SWITCH_PENDING = true ∧
        (∀ b, b ≠ F.CAD_CTRL_SWITCH_ARM.addr → b ≠ F.CAD_STATUS_SWITCH_PENDING.addr → u.rd b = s.rd b) ∧
        u = { s with regs := u.regs, cad := { s.cad with swTick := s.switchReg, swPeriod := s.get F.CAD_NEXT_PERIOD } }) ∧
      (¬p → exec .switchArm s = .next (s.stick F.CAD_CFG_CFG)))) ∧
  (∀ s : State, s.blockOpen = true →
    (s.on F.CAD_STATUS_MASTER = true → s.on F.CAD_CTRL_EN = false → s.cad.time ≤ s.get64 F.CAD_TIME_SET_LO →
      exec .setTime s = .next (State.set { s with cad := { s.cad with
        time := s.get64 F.CAD_TIME_SET_LO, slew := 0, slewPart := 0, timeSet := true } } F.CAD_STATUS_SLEWING 0)) ∧
    (s.on F.CAD_STATUS_MASTER = true → s.on F.CAD_CTRL_EN = false → s.get64 F.CAD_TIME_SET_LO < s.cad.time →
      exec .setTime s = .next (State.set { s with cad := { s.cad with
        slew := (s.get64 F.CAD_TIME_SET_LO : Int) - s.cad.time, slewPart := 0, timeSet := true } } F.CAD_STATUS_SLEWING 1)) ∧
    ((s.on F.CAD_STATUS_MASTER = false ∨ s.on F.CAD_CTRL_EN = true) → exec .setTime s = .next (s.stick F.CAD_CFG_CFG)) ∧
    (∀ a, a = ({ s with cad := { s.cad with acceptSrc := true } } : State) →
      (s.on F.CAD_STATUS_MASTER = false → exec .acceptSrc s = .next a) ∧
      (s.on F.CAD_STATUS_MASTER = true → s.sources = [] → ¬(1 ≤ s.get F.CAD_STATUS_SOURCE ∧ s.get F.CAD_STATUS_SOURCE ≤ 4) →
        exec .acceptSrc s = .next a) ∧
      (∀ code off rest, s.on F.CAD_STATUS_MASTER = true → s.sources = (code, off) :: rest →
        (code ≠ s.get F.CAD_STATUS_SOURCE → exec .acceptSrc s = .next (a.takeSource code off)) ∧
        (code = s.get F.CAD_STATUS_SOURCE → exec .acceptSrc s = .next a)))) ∧
  (∀ s : State, s.blockOpen = false → exec .cadenceEnable s = .next s ∧ exec .cadenceDisable s = .next s ∧ exec .switchArm s = .next s ∧
    exec .setTime s = .next s ∧ exec .acceptSrc s = .next s)

/-- TICK_EDGE (R12, R49, R51, R52, R465): with the cadence running rack time reaches the edge of the next tick, CAD_TICK is one more,
TICK_OUT rises at the pin where OE is 1, inverted by POL and COMP ns early, its fall is set for WIDTH × 8 ns later and no later than
half the period, no ledger, admitted count or pin of an earlier tick is left, and a TICK trace record is offered to the trace unit;
without a switch at this tick the period and the epoch stay. A switch armed for this tick applies: its period is in force, the edge
of the tick is where it was, and nothing is pending; an arm in its cycle leaves SWITCH_ARM at 1. At the last tick number EN
returns to 0 (the model's reading of 'the cadence stops', log entry 77). Without a running cadence, and while a joining follower
holds rack time, no edge comes. TICK_OUT_FALL, PPS_OUT_RISE, PPS_OUT_FALL, PPS_IN_EDGE, PPS_IN_TIMEOUT (R36, R38, R52, R53): a pulse
that is high falls once rack time has reached its end; PPS_OUT rises at the next whole second; an edge of PPS_IN is timestamped and
offered to source selection; without one for 1.001 s while PPS is the source PPSIN is set and the next source is selected. -/
def Obligations.TickEdgesAndPulsesFollowRackTime : Prop :=
  (∀ (s : State) (arm : Bool) (n e : Nat), n = s.tick + 1 → e = s.edgeOf n →
    (s.on F.CAD_CTRL_EN = false ∨ s.cad.joinHold = true → exec (.tickEdge arm) s = .next s) ∧
    (s.on F.CAD_CTRL_EN = true → s.cad.joinHold = false → s.tick = 2 ^ 48 - 1 → exec (.tickEdge arm) s = .next (s.set F.CAD_CTRL_EN 0)) ∧
    (s.on F.CAD_CTRL_EN = true → s.cad.joinHold = false → n < 2 ^ 48 → ∃ u : State,
      exec (.tickEdge arm) s = .next (u.trace 4 0 0 0 (leBytes 6 n ++ leBytes 2 0 ++ leBytes 8 u.period)) ∧
      u.tick = n ∧ u.cad.time = max s.cad.time e ∧ u.cad.tickOut = true ∧
      u.cad.tickOutFall = e + min (8 * s.get F.CAD_TICK_OUT_WIDTH) (u.period / 2) ∧
      (s.on F.CAD_TICK_OUT_OE = true → ∃ l, u.outbox = l ++ [.tickPin (!(s.on F.CAD_TICK_OUT_POL)) (e - s.get F.CAD_TICK_OUT_COMP)]) ∧
      (∀ x ∈ u.cad.ledger, n ≤ x.tick) ∧ (∀ p ∈ u.cad.admitted, n ≤ p.1) ∧ (∀ p ∈ u.plans, ∀ k ∈ p.pins, n ≤ k) ∧
      u.mem = s.mem ∧ u.sync = s.sync ∧ u.cmds = s.cmds ∧ u.queues = s.queues ∧
      (s.on F.CAD_STATUS_SWITCH_PENDING = false ∨ n ≠ s.cad.swTick → u.period = s.period ∧ u.epoch = s.epoch ∧ u.rein = s.rein ∧
        u.on F.CAD_STATUS_SWITCH_PENDING = s.on F.CAD_STATUS_SWITCH_PENDING) ∧
      (s.on F.CAD_STATUS_SWITCH_PENDING = true → n = s.cad.swTick → s.cad.swPeriod < 2 ^ 30 → u.period = s.cad.swPeriod ∧
        (u.epoch + n * s.cad.swPeriod) % 2 ^ 64 = s.edgeNow n ∧
        (arm = false → u.on F.CAD_STATUS_SWITCH_PENDING = false ∧ u.on F.CAD_CTRL_SWITCH_ARM = false) ∧
        (arm = true → u.on F.CAD_CTRL_SWITCH_ARM = true)))) ∧
  (∀ (s : State) (x : Nat),
    (s.cad.tickOut = true → ∃ t : State, exec .tickOutFall s = .next t ∧ t.cad.tickOut = false ∧
      t.cad.time = (s.advance s.cad.tickOutFall).cad.time ∧
      (s.on F.CAD_TICK_OUT_OE = true → t.outbox = s.outbox ++ [.tickPin (s.on F.CAD_TICK_OUT_POL) (s.cad.tickOutFall - s.get F.CAD_TICK_OUT_COMP)]) ∧
      (s.on F.CAD_TICK_OUT_OE = false → t.outbox = s.outbox) ∧ t = { s with regs := t.regs, cad := t.cad, outbox := t.outbox }) ∧
    (s.cad.tickOut = false → exec .tickOutFall s = .next s) ∧
    (s.cad.joinHold = true → exec .ppsOutRise s = .next s) ∧
    (s.cad.joinHold = false → ∃ t : State, exec .ppsOutRise s = .next t ∧ t.cad.ppsOut = true ∧
      t.cad.time = (s.cad.time / 1000000000 + 1) * 1000000000 ∧ t.cad.ppsOutFall = t.cad.time + 1000 * s.get F.CAD_PPS_OUT_WIDTH ∧
      (s.on F.CAD_PPS_OUT_OE = true → t.outbox = s.outbox ++ [.ppsPin true t.cad.time]) ∧
      (s.on F.CAD_PPS_OUT_OE = false → t.outbox = s.outbox) ∧ t = { s with regs := t.regs, cad := t.cad, outbox := t.outbox }) ∧
    (s.cad.ppsOut = true → ∃ t : State, exec .ppsOutFall s = .next t ∧ t.cad.ppsOut = false ∧
      t.cad.time = (s.advance s.cad.ppsOutFall).cad.time ∧
      (s.on F.CAD_PPS_OUT_OE = true → t.outbox = s.outbox ++ [.ppsPin false s.cad.ppsOutFall]) ∧
      (s.on F.CAD_PPS_OUT_OE = false → t.outbox = s.outbox) ∧ t = { s with regs := t.regs, cad := t.cad, outbox := t.outbox }) ∧
    (s.cad.ppsOut = false → exec .ppsOutFall s = .next s) ∧
    (∃ u : State, exec (.ppsInEdge x) s = .next (u.selectSource 3) ∧ u.cad.time = (s.advance x).cad.time ∧
      u.get64 F.CAD_PPS_IN_TS_LO = u.cad.time % 2 ^ 64 ∧ u.cad.ppsIn = some u.cad.time ∧
      u = { s.advance x with regs := u.regs, cad := { (s.advance x).cad with ppsIn := u.cad.ppsIn } } ∧
      (s.on F.CAD_STATUS_MASTER = false → u.selectSource 3 = u)) ∧
    (s.get F.CAD_STATUS_SOURCE ≠ 3 → exec .ppsInTimeout s = .next s) ∧
    (s.get F.CAD_STATUS_SOURCE = 3 → ∃ u : State, exec .ppsInTimeout s = .next (u.selectSource 0) ∧
      u.get F.CAD_PPSIN_PPSIN = 1 ∧ u.cad.ppsIn = none ∧ (∀ t, s.cad.ppsIn = some t → u.cad.time = (s.advance (t + 1001000000)).cad.time) ∧
      (s.cad.ppsIn = none → u.cad.time = s.cad.time) ∧ u = { s with regs := u.regs, cad := u.cad } ∧
      (s.on F.CAD_STATUS_MASTER = true → u.sources = [] → u.selectSource 0 = u.enterHoldover)))

/-- PTP_TRANSMIT_INTERVAL on a port that transmits time (R42, R43): the Announce and the Sync carry the clockClass of R43, and the Sync,
or in two steps its Follow_Up, the time of departure. -/
def Obligations.TransmitterAdvertisesItsClockClass : Prop :=
  ∀ (s : State) (p : EthPort) (twoStep peer : Bool), (s.ptpRole p.val = 2 → s.ptpTransmits p.val = true) ∧
    (s.ptpTransmits p.val = true → ∃ c, exec (.ptpTransmitInterval p twoStep peer) s = .next { s with
        outbox := s.outbox ++ ([.ptp p.val 0x0B c 0, .ptp p.val 0x00 c (if twoStep then 0 else s.cad.time)] ++
          (if twoStep then [.ptp p.val 0x08 c s.cad.time] else []))
        fresh := s.fresh + 1 } ∧
      (s.get F.CAD_STATUS_SOURCE = 1 → c = (s.ptpPort 0).clockClass) ∧
      (s.get F.CAD_STATUS_SOURCE = 2 → c = (s.ptpPort 1).clockClass) ∧
      (s.get F.CAD_STATUS_SOURCE = 5 → s.on F.CAD_STATUS_HOLD_IN_SPEC = true → c = 7) ∧
      (s.get F.CAD_STATUS_SOURCE = 5 → s.on F.CAD_STATUS_HOLD_IN_SPEC = false → c = 52) ∧
      (s.get F.CAD_STATUS_SOURCE = 0 ∨ s.get F.CAD_STATUS_SOURCE = 6 → c = 248))

/-- PTP_MESSAGE, PTP_SOURCE_LOST, PTP_TRANSMIT_INTERVAL on a receiver (R38, R41, R42): a port that does not only transmit keeps the data
set of an Announce that is better than the one it holds, or comes from the same clock; a Sync gives t1 and t2, and on a port that
knows its link delay the offset; a Delay_Resp gives t4 and the offset of four time stamps; after an offset a source is selected. A
transmitter answers a Delay_Req, every port in use a Pdelay_Req. A lost source sets CAD_SRC.SRC where it was the master's. A
Delay_Req leaves at t3; under 802.1AS, or where CF measures between peers, a Pdelay_Req does. The message layout is the model's (log
entry 14). HOLDOVER_RECORD, RACK_TIME_STORE, JOIN_HOLD_RELEASE (R40, R47, R67, R70): while locked CF records offset and temperature
and LEARN_HOURS counts the hours; in HOLDOVER the model's rate and error bound follow the temperature; every 900 s rack time goes to
the monotonic store and CAD_OFFLINE counts one, but not while a joining follower holds rack time; that hold ends. -/
def Obligations.TimeSourcesAndStoresAreKept : Prop :=
  (∀ (s : State) (p : EthPort) (m : PtpMsg) (a : State), a = s.advance m.rx →
    (s.ptpRole p.val = 0 → exec (.ptpMessage p m) s = .next a) ∧
    (m.kind = 0x0B → s.ptpRole p.val = 1 ∨ s.ptpRole p.val = 3 →
      (s.ptpPort p.val).dataset = [] ∨ lexLt m.dataset (s.ptpPort p.val).dataset = true ∨
        (s.ptpPort p.val).dataset.getD 5 0 = m.dataset.getD 5 0 →
      exec (.ptpMessage p m) s = .next (a.setPtp p.val { s.ptpPort p.val with dataset := m.dataset })) ∧
    (a.ptpReceives p.val = true →
      (m.kind = 0x00 → m.twoStep = true ∨ (s.ptpPort p.val).link = none → exec (.ptpMessage p m) s =
        .next (a.setPtp p.val { s.ptpPort p.val with t1 := m.origin, t2 := m.rx })) ∧
      (∀ d, m.kind = 0x00 → m.twoStep = false → (s.ptpPort p.val).link = some d → ∃ x : PtpPort, x.t1 = m.origin ∧ x.t2 = m.rx ∧
        x.offset = (m.origin : Int) + d - m.rx ∧ exec (.ptpMessage p m) s = .next ((a.setPtp p.val x).selectSource (1 + p.val))) ∧
      (m.kind = 0x09 → s.on F.CAD_CTRL_PROFILE = false → ∃ x : PtpPort, x.t4 = m.origin ∧
        x.offset = (((s.ptpPort p.val).t1 : Int) - (s.ptpPort p.val).t2 + ((m.origin : Int) - (s.ptpPort p.val).t3)) / 2 ∧
        exec (.ptpMessage p m) s = .next ((a.setPtp p.val x).selectSource (1 + p.val))) ∧
      (m.kind = 0x09 → s.on F.CAD_CTRL_PROFILE = true → exec (.ptpMessage p m) s = .next a)) ∧
    (a.ptpTransmits p.val = true → s.on F.CAD_CTRL_PROFILE = false → m.kind = 0x01 → exec (.ptpMessage p m) s =
      .next (a.out (.ptp p.val 0x09 0 m.rx))) ∧
    (s.ptpRole p.val ≠ 0 → m.kind = 0x02 → exec (.ptpMessage p m) s =
      .next ((a.out (.ptp p.val 0x03 0 m.rx)).out (.ptp p.val 0x0A 0 a.cad.time))) ∧
    (s.on F.CAD_STATUS_MASTER = true → s.get F.CAD_STATUS_SOURCE = 1 + p.val → exec (.ptpSourceLost p) s =
      .next (((s.setPtp p.val { s.ptpPort p.val with usable := false, dataset := [] }).stickIrq F.CAD_SRC_SRC 15).selectSource 0)) ∧
    (s.on F.CAD_STATUS_MASTER = false ∨ s.get F.CAD_STATUS_SOURCE ≠ 1 + p.val → exec (.ptpSourceLost p) s =
      .next (s.setPtp p.val { s.ptpPort p.val with usable := false, dataset := [] })) ∧
    (∀ twoStep peer, s.ptpTransmits p.val = false → s.ptpReceives p.val = true →
      (peer = false → s.on F.CAD_CTRL_PROFILE = false → exec (.ptpTransmitInterval p twoStep peer) s =
        .next ((s.setPtp p.val { s.ptpPort p.val with t3 := s.cad.time }).out (.ptp p.val 0x01 0 s.cad.time))) ∧
      (peer = true ∨ s.on F.CAD_CTRL_PROFILE = true → exec (.ptpTransmitInterval p twoStep peer) s =
        .next ((s.setPtp p.val { s.ptpPort p.val with p1 := s.cad.time }).out (.ptp p.val 0x02 0 s.cad.time))))) ∧
  (∀ (s : State) (freq temp : Int),
    (1 ≤ s.get F.CAD_STATUS_SOURCE → s.get F.CAD_STATUS_SOURCE ≤ 3 → ∃ t, exec (.holdoverRecord freq temp) s = .next t ∧
      t.cad = { s.cad with temp := temp, model := s.cad.model ++ [(freq, temp)], lockSeconds := s.cad.lockSeconds + 1 } ∧
      t.get F.CAD_HOLD_LEARN_HOURS = min 0xFFFF ((s.cad.lockSeconds + 1) / 3600) ∧ t.get F.CAD_RATE_ADJ = unsigned 32 (-freq) ∧
      (∀ b, b ≠ F.CAD_HOLD_LEARN_HOURS.addr → b ≠ F.CAD_RATE_ADJ.addr → t.rd b = s.rd b) ∧ t = { s with regs := t.regs, cad := t.cad }) ∧
    (s.get F.CAD_STATUS_SOURCE = 5 → exec (.holdoverRecord freq temp) s =
      .next (State.holdRefresh (State.holdRate { s with cad := { s.cad with temp := temp } }))) ∧
    (s.get F.CAD_STATUS_SOURCE = 0 ∨ (4 ≤ s.get F.CAD_STATUS_SOURCE ∧ s.get F.CAD_STATUS_SOURCE ≠ 5) → exec (.holdoverRecord freq temp) s =
      .next { s with cad := { s.cad with temp := temp } }) ∧
    (s.cad.joinHold = false → ∃ t, exec .rackTimeStore s = .next t ∧
      t.cad.time = (s.cad.time / 900000000000 + 1) * 900000000000 ∧ t.cad.stored = max s.cad.stored t.cad.time ∧
      t.get F.CAD_OFFLINE = min (2 ^ 32 - 1) (s.get F.CAD_OFFLINE + 1) ∧ t = { s with regs := t.regs, cad := t.cad }) ∧
    (s.cad.joinHold = true → exec .rackTimeStore s = .next s) ∧
    exec .joinHoldRelease s = .next { s with cad := { s.cad with joinHold := false, slew := 0, slewPart := 0 } })

/-- SCRUB_STEP and HBM_SCRUB_STEP (R80, R81): an enabled scrub of an awake complex below throttle step 2 takes its next place and
moves its position on; of the words it meets none that is not uncorrectable keeps a single-bit error, and no byte changes; any other
does nothing. HBM_READY, WC_RESIZE, WC_RESIZE_COMPLETE, WC_PIN_ENABLE, WC_FILL_COMPLETE (R76, R77, R86, R87, R89): a resize that meets
no window, no ingest buffer and no pin rule is taken up and busy until it completes, when no read waits on a fill, the cache is empty
and has the new size; one that does is refused with MEM_CFG.CFG; a pin range is enabled within half the cache, during a resize half
of the smaller size (the model's choice, log entry 82); a fill that lands makes its sector present unless a word of it is
uncorrectable, corrects the others, and lets its waiters go on. FACET_REGISTER_WRITE (R95, R97): parameters that keep the conditions
of R95 are stored; others are discarded with MEM_CFG.CFG. During a restart the register writes have no effect (R502). -/
def Obligations.MemoriesAreScrubbedAndCached : Prop :=
  (∀ s : State, (s.on F.MEM_CTRL_SCRUB_EN = false ∨ 2 ≤ s.get F.PWR_STATUS_STATE ∨ 2 ≤ s.get F.PWR_STATUS_STEP →
      exec .scrubStep s = .next s) ∧
    (s.on F.MEM_CTRL_HBM_SCRUB_EN = false ∨ s.on F.MEM_STATUS_HBM_READY = false ∨ 2 ≤ s.get F.PWR_STATUS_STATE ∨
      2 ≤ s.get F.PWR_STATUS_STEP → exec .hbmScrubStep s = .next s)) ∧
  (∀ s : State, s.get F.PWR_STATUS_STATE ≤ 1 → s.get F.PWR_STATUS_STEP < 2 →
    (s.on F.MEM_CTRL_SCRUB_EN = true → ∃ t, exec .scrubStep s = .next t ∧
      t.get F.MEM_SCRUB_POS = (if s.get F.MEM_SCRUB_POS + 1 < 0x2040000 then s.get F.MEM_SCRUB_POS + 1 else 0) ∧
      (∀ sp a, t.mem.byte sp a = s.mem.byte sp a) ∧
      ∀ k, k < 4 → ((scrubPlace (s.get F.MEM_SCRUB_POS)).1, (scrubPlace (s.get F.MEM_SCRUB_POS)).2 + k) ∉ s.mem.ue →
        ((scrubPlace (s.get F.MEM_SCRUB_POS)).1, (scrubPlace (s.get F.MEM_SCRUB_POS)).2 + k) ∉ t.mem.ce) ∧
    (s.on F.MEM_CTRL_HBM_SCRUB_EN = true → s.on F.MEM_STATUS_HBM_READY = true → ∃ t, exec .hbmScrubStep s = .next t ∧
      t.get F.MEM_HBM_SCRUB_POS = (if s.get F.MEM_HBM_SCRUB_POS + 1 < 603979776 then s.get F.MEM_HBM_SCRUB_POS + 1 else 0) ∧
      (∀ sp a, t.mem.byte sp a = s.mem.byte sp a) ∧
      ∀ k, k < 32 → (2, 32 * s.get F.MEM_HBM_SCRUB_POS + k) ∉ s.mem.ue → (2, 32 * s.get F.MEM_HBM_SCRUB_POS + k) ∉ t.mem.ce)) ∧
  (∀ s : State,
    (s.get F.PWR_STATUS_STATE ≤ 1 → exec .hbmReady s = .next (s.set F.MEM_STATUS_HBM_READY 1)) ∧
    (2 ≤ s.get F.PWR_STATUS_STATE → exec .hbmReady s = .next s) ∧
    (s.mem.resize = none → exec .wcResizeComplete s = .next s) ∧
    (∀ v, s.mem.resize = some v → ∃ u : State, exec .wcResizeComplete s = .next u ∧ u.mem.wc = [] ∧ u.mem.fills = [] ∧
      u.mem.resize = none ∧ u.get F.MEM_WC_SIZE = v % 8 ∧ u.get F.MEM_STATUS_WC_RESIZE_BUSY = 0 ∧
      (∀ f ∈ s.mem.fills, ∀ c ∈ u.cmds, (f.line, f.sector) ∉ c.waitFills) ∧ (∀ sp a, u.mem.byte sp a = s.mem.byte sp a) ∧
      u = { s with regs := u.regs, mem := u.mem, cmds := u.cmds }) ∧
    (∀ (line : Nat) (sector : Fin 16), s.mem.filling line sector.val = true → ∃ t : State, exec (.wcFillComplete line sector) s = .next t ∧
      t.mem.filling line sector.val = false ∧
      (s.mem.badWord 2 (sectorWords line sector.val) = none → ∀ l ∈ t.mem.wc, l.line = line → bit l.sectors sector.val = true) ∧
      ((s.mem.badWord 2 (sectorWords line sector.val)).isSome = true → ∀ l ∈ t.mem.wc, l.line = line → bit l.sectors sector.val = false) ∧
      (∀ w ∈ sectorWords line sector.val, (2, w) ∉ s.mem.ue → (2, w) ∉ t.mem.ce) ∧
      (∀ c ∈ t.cmds, (line, sector.val) ∉ c.waitFills) ∧ (∀ sp a, t.mem.byte sp a = s.mem.byte sp a) ∧
      t = { s with regs := t.regs, mem := t.mem, cmds := t.cmds })) ∧
  (∀ s : State, s.blockOpen = true →
    (∀ v : Fin 8, v.val < 5 → s.wcCollides v.val = false → 2 * (4096 * s.pinTotal) ≤ wcBytes v.val →
      exec (.wcResize v) s = .next (({ s with mem := { s.mem with resize := some v.val } } : State).set F.MEM_STATUS_WC_RESIZE_BUSY 1)) ∧
    (∀ v : Fin 8, (5 ≤ v.val ∨ s.wcCollides v.val = true ∨ wcBytes v.val < 2 * (4096 * s.pinTotal)) →
      exec (.wcResize v) s = .next (s.stick F.MEM_CFG_CFG)) ∧
    (∀ (k : Fin 4) (w : Word), ∃ u : State,
      u = (s.set (F.MEM_WC_PIN_BASE k.val) w.toNat).set (F.MEM_WC_PIN_EN k.val) (w.toNat / 2 ^ 31) ∧
      (u.on (F.MEM_WC_PIN_EN k.val) = false ∨ 2 * (4096 * u.pinTotal) ≤ s.wcLeast →
        exec (.wcPinEnable k w) s = .next u) ∧
      (u.on (F.MEM_WC_PIN_EN k.val) = true → s.wcLeast < 2 * (4096 * u.pinTotal) →
        exec (.wcPinEnable k w) s = .next (s.stick F.MEM_CFG_CFG)))) ∧
  (∀ s : State, s.blockOpen = false → (∀ v, exec (.wcResize v) s = .next s) ∧ (∀ k w, exec (.wcPinEnable k w) s = .next s) ∧
    ∀ t k w, exec (.facetRegisterWrite t k w) s = .next s) ∧
  (∀ (s : State) (t : Tenant) (k : Fin 4) (w : Word), s.blockOpen = true →
    (facetParamsOk (bitsOf w.toNat 0 4) (bitsOf w.toNat 8 3) (bitsOf w.toNat 16 5) = false →
      exec (.facetRegisterWrite t k w) s = .next (s.stick F.MEM_CFG_CFG)) ∧
    (facetParamsOk (bitsOf w.toNat 0 4) (bitsOf w.toNat 8 3) (bitsOf w.toNat 16 5) = true →
      ∃ u : State, exec (.facetRegisterWrite t k w) s = .next u ∧ u.get (F.MEM_FACET_A t.val k.val) = bitsOf w.toNat 0 4 ∧
        u.get (F.MEM_FACET_W t.val k.val) = bitsOf w.toNat 8 3 ∧ u.get (F.MEM_FACET_Y t.val k.val) = bitsOf w.toNat 16 5 ∧
        u.get (F.MEM_FACET_VALID t.val k.val) = bitsOf w.toNat 31 1 ∧
        (∀ b, b ≠ (F.MEM_FACET_A t.val k.val).addr → u.rd b = s.rd b) ∧ u = { s with regs := u.regs }))

/-- BAR2_READ (R75, R77 to R79, R93, R389, R399, R473, R502): a request on a link that is up is a wake event of source 1; a read that
Bridle allows answers the bytes of SRAM, zeros for the device-internal ones, poisoned where a word is uncorrectable, and changes no
byte; one that Bridle denies is answered with a completer abort; one outside a Secure stream is dropped where IDE is required; one
during a restart answers zeros. BAR2_WRITE (R75, R77, R79, R93, R387): a write that Bridle allows stores each byte that is not
device-internal and whose word is not uncorrectable, repairs an uncorrectable word it covers whole, and stores no other byte of any
memory; a denied one and one during a restart store nothing; a poisoned TLP is dropped and reported, with TEN_POISON. -/
def Obligations.Bar2ReadsAndStoresItsBytes : Prop :=
  (∀ (s w : State) (off : BitVec 30) (n : Fin 4097) (secure : Bool), w = s.wake 1 →
    (s.pcie.hpUp = false → exec (.bar2Read off n secure) s = .next s) ∧
    (s.pcie.hpUp = true →
      (w.on F.TEN_HP_IDE_REQ = true → exec (.bar2Read off n false) s = .next (w.stick F.TEN_IDEDROP_IDEDROP)) ∧
      (w.on F.TEN_HP_IDE_REQ = false ∨ secure = true →
        (w.boot.phase = .restart → exec (.bar2Read off n secure) s =
          .next (w.out (.readCompletion 0 off.toNat (List.replicate n.val 0) false))) ∧
        (w.boot.phase ≠ .restart → ∀ ok u, (w.rsvd off.toNat n.val).bridle 0 0 0x30 clsHOST false
            (((w.judged off.toNat n.val).map (· / 4096)).eraseDups) = (ok, u) →
          (ok = false → exec (.bar2Read off n secure) s = .next (u.out (.completerAbort 0 off.toNat))) ∧
          (ok = true → ∃ t l, exec (.bar2Read off n secure) s = .next t ∧
            t.outbox = w.outbox ++ l ++ [.readCompletion 0 off.toNat
              ((List.range n.val).map fun k => if w.internalByte (off.toNat + k) then 0 else w.mem.byte 1 (off.toNat + k))
              (w.mem.badWord 1 (wordsOf (w.judged off.toNat n.val))).isSome] ∧
            (w.mem.badWord 1 (wordsOf (w.judged off.toNat n.val)) = none → l = []) ∧
            ∀ sp a, t.mem.byte sp a = w.mem.byte sp a))))) ∧
  (∀ (s w : State) (off : BitVec 30) (data : List (BitVec 8)) (secure : Bool), w = s.wake 1 → s.pcie.hpUp = true →
    (w.on F.TEN_HP_IDE_REQ = true → ∀ b, exec (.bar2Write off data b false) s = .next (w.stick F.TEN_IDEDROP_IDEDROP)) ∧
    (w.on F.TEN_HP_IDE_REQ = false ∨ secure = true →
      exec (.bar2Write off data true secure) s = .next ((w.stick F.TEN_POISON_POISON).out (.poisonedTlp 0)) ∧
      (w.boot.phase = .restart → exec (.bar2Write off data false secure) s = .next w) ∧
      (w.boot.phase ≠ .restart → ∀ ok u, (w.rsvd off.toNat data.length).bridle 0 0 0x30 clsHOST true
          (((w.judged off.toNat data.length).map (· / 4096)).eraseDups) = (ok, u) →
        (ok = false → exec (.bar2Write off data false secure) s = .next u) ∧
        (ok = true → ∃ t, exec (.bar2Write off data false secure) s = .next t ∧
          (∀ k, k < data.length → off.toNat + k < 0x40000000 → w.internalByte (off.toNat + k) = false →
            (1, (off.toNat + k) / 8) ∉ w.mem.ue → t.mem.byte 1 (off.toNat + k) = data.getD k 0) ∧
          (∀ d, (∀ j, j < 8 → off.toNat ≤ 8 * d + j ∧ 8 * d + j < off.toNat + data.length ∧ 8 * d + j < 0x40000000 ∧
              w.internalByte (8 * d + j) = false) →
            (1, d) ∉ t.mem.ue ∧ ∀ j, j < 8 → t.mem.byte 1 (8 * d + j) = data.getD (8 * d + j - off.toNat) 0) ∧
          (∀ a, (a < off.toNat ∨ off.toNat + data.length ≤ a ∨ w.internalByte a = true) → t.mem.byte 1 a = w.mem.byte 1 a) ∧
          (∀ sp a, sp = 2 ∨ sp = 3 → t.mem.byte sp a = w.mem.byte sp a)))))

/-- QUEUE_ENABLE, QUEUE_DISABLE, QUEUE_RESUME, QUEUE_WIN_WRITE (R151, R153, R154, R160): a queue is enabled with HEAD and TAIL 0,
SEQ_NEXT at SEQ_INIT and without a halt, where its ring passes R151, the tenant's CQ is enabled and its credential is valid where
one is asked for (as just evaluated), else TP_CFG.CFG is set; a disable clears EN; a resume clears the halt; the window is
rewritten while the queue is disabled, or halted with a ring that still passes. CQ_ENABLE, CQ_DISABLE, CQ_RESUME, CQ_WIN_WRITE
(R151, R153, R173): the CQ is enabled empty where its ring passes R151; it is disabled while no queue of the tenant is enabled; a
resume of a halted CQ writes the records it keeps, in order. A page in a context reset or behind a restart takes none of these writes
(R406, R502). -/
def Obligations.QueuesAndRingsFollowTheirControl : Prop :=
  (∀ (s : State) (t : Tenant) (q : Queue) (v : Word), s.pageOpen t.val = true →
    (∀ d, d = s.credEvalAll → d.on (F.TP_Q_CTRL_EN t.val q.val) = false →
      (d.qRingOk t.val q.val (d.get (F.TP_Q_WIN_ID t.val q.val)) (d.get (F.TP_Q_WIN_GEN t.val q.val)) = true →
        d.on (F.TP_CQ_CTRL_EN t.val) = true → (d.on F.SEC_CTRL_CRED_REQ = false ∨ t.val = 0 ∨ d.credValid t.val = true) →
        ∃ u : State, exec (.queueEnable t q) s = .next u ∧
          u.on (F.TP_Q_CTRL_EN t.val q.val) = true ∧ u.get (F.TP_Q_HEAD t.val q.val) = 0 ∧ u.get (F.TP_Q_TAIL t.val q.val) = 0 ∧
          u.get (F.TP_Q_SEQ_NEXT t.val q.val) = d.get (F.TP_Q_SEQ_INIT t.val q.val) ∧
          u.on (F.TP_Q_STATUS_HALT t.val q.val) = false ∧ u = { d with regs := u.regs, queues := u.queues }) ∧
      (d.qRingOk t.val q.val (d.get (F.TP_Q_WIN_ID t.val q.val)) (d.get (F.TP_Q_WIN_GEN t.val q.val)) = false ∨
        d.on (F.TP_CQ_CTRL_EN t.val) = false ∨ (d.on F.SEC_CTRL_CRED_REQ = true ∧ t.val ≠ 0 ∧ d.credValid t.val = false) →
        exec (.queueEnable t q) s = .next (d.stick (F.TP_CFG_CFG t.val)))) ∧
    (∀ d, d = s.credEvalAll → d.on (F.TP_Q_CTRL_EN t.val q.val) = true → exec (.queueEnable t q) s = .next d) ∧
    exec (.queueDisable t q) s = .next (s.set (F.TP_Q_CTRL_EN t.val q.val) 0) ∧
    (s.on (F.TP_Q_STATUS_HALT t.val q.val) = true → exec (.queueResume t q) s =
      .next (((s.set (F.TP_Q_STATUS_HALT t.val q.val) 0).set (F.TP_Q_STATUS_CAUSE t.val q.val) 0).set (F.TP_Q_CTRL_RESUME t.val q.val) 1)) ∧
    (s.on (F.TP_Q_STATUS_HALT t.val q.val) = false → exec (.queueResume t q) s = .next s) ∧
    (s.on (F.TP_Q_CTRL_EN t.val q.val) = false ∨ (s.on (F.TP_Q_STATUS_HALT t.val q.val) = true ∧
        s.qRingOk t.val q.val (v.toNat % 65536) (v.toNat / 65536 % 65536) = true) →
      exec (.queueWinWrite t q v) s = .next (s.putRw (F.TP_Q_WIN_ID t.val q.val).addr v.toNat)) ∧
    (s.on (F.TP_Q_CTRL_EN t.val q.val) = true → (s.on (F.TP_Q_STATUS_HALT t.val q.val) = false ∨
        s.qRingOk t.val q.val (v.toNat % 65536) (v.toNat / 65536 % 65536) = false) →
      exec (.queueWinWrite t q v) s = .next (s.stick (F.TP_CFG_CFG t.val)))) ∧
  (∀ (s : State) (t : Tenant) (v : Word), s.pageOpen t.val = true →
    (s.on (F.TP_CQ_CTRL_EN t.val) = false →
      (s.cqRingOk t.val (s.get (F.TP_CQ_WIN_ID t.val)) (s.get (F.TP_CQ_WIN_GEN t.val)) = false →
        exec (.cqEnable t) s = .next (s.stick (F.TP_CFG_CFG t.val))) ∧
      (s.cqRingOk t.val (s.get (F.TP_CQ_WIN_ID t.val)) (s.get (F.TP_CQ_WIN_GEN t.val)) = true →
        ∃ u : State, exec (.cqEnable t) s = .next u ∧ u.on (F.TP_CQ_CTRL_EN t.val) = true ∧ u.get (F.TP_CQ_HEAD t.val) = 0 ∧
          u.get (F.TP_CQ_TAIL t.val) = 0 ∧ u.on (F.TP_CQ_STATUS_HALT t.val) = false ∧ u = { s with regs := u.regs, tenants := u.tenants })) ∧
    ((∀ q, q < 8 → s.on (F.TP_Q_CTRL_EN t.val q) = false) → exec (.cqDisable t) s = .next (s.set (F.TP_CQ_CTRL_EN t.val) 0)) ∧
    (∀ q, q < 8 → s.on (F.TP_CQ_CTRL_EN t.val) = true → s.on (F.TP_Q_CTRL_EN t.val q) = true →
      exec (.cqDisable t) s = .next (s.stick (F.TP_CFG_CFG t.val))) ∧
    (s.on (F.TP_CQ_STATUS_HALT t.val) = true → exec (.cqResume t) s = .next ((s.tenantSt t.val).pendingRecs.foldl
      (fun s r => s.record t.val r.1 r.2.1 r.2.2)
      ((s.set (F.TP_CQ_STATUS_HALT t.val) 0).setTenant { s.tenantSt t.val with pendingRecs := [] }))) ∧
    (s.on (F.TP_CQ_STATUS_HALT t.val) = false → exec (.cqResume t) s = .next s) ∧
    (s.on (F.TP_CQ_CTRL_EN t.val) = true → exec (.cqEnable t) s = .next s) ∧
    (s.on (F.TP_CQ_CTRL_EN t.val) = false ∨ (s.on (F.TP_CQ_STATUS_HALT t.val) = true ∧
        s.cqRingOk t.val (v.toNat % 65536) (v.toNat / 65536 % 65536) = true) →
      exec (.cqWinWrite t v) s = .next (s.putRw (F.TP_CQ_WIN_ID t.val).addr v.toNat)) ∧
    (s.on (F.TP_CQ_CTRL_EN t.val) = true → (s.on (F.TP_CQ_STATUS_HALT t.val) = false ∨
        s.cqRingOk t.val (v.toNat % 65536) (v.toNat / 65536 % 65536) = false) →
      exec (.cqWinWrite t v) s = .next (s.stick (F.TP_CFG_CFG t.val)))) ∧
  (∀ (s : State) (t : Tenant) (q : Queue) (v : Word), s.pageOpen t.val = false →
    exec (.queueEnable t q) s = .next s ∧ exec (.queueDisable t q) s = .next s ∧ exec (.queueResume t q) s = .next s ∧
    exec (.queueWinWrite t q v) s = .next s ∧ exec (.cqEnable t) s = .next s ∧ exec (.cqDisable t) s = .next s ∧
    exec (.cqResume t) s = .next s ∧ exec (.cqWinWrite t v) s = .next s)

/-- DOORBELL, CQ_DOORBELL, CMQ_STOP_WRITE (R155, R167, R182, R406, R471, R473, R502): a doorbell of an open page is a wake event of
source 1, which changes nothing in S0; then TAIL and the CQ's HEAD take a value within the ring, and up to TAIL respectively; another
is refused with its flag and vector 1; CMQ_STOP is as written. QUEUE_FETCH and QUEUE_FETCH_FAIL (R12, R156, R157): a queue that may
fetch takes up to 16 packets and 1,024 bytes from its ring, up to TAIL, a single packet of one slot whole, and RESUME reads 0 unless
it is written in that cycle; where the read of the ring fails, the queue halts with cause 2 and HEAD stays. -/
def Obligations.DoorbellsAndFetchesStayInsideTheirRings : Prop :=
  (∀ (s w : State) (t : Tenant) (q : Queue) (v : Word) (d : Nat), s.pageOpen t.val = true → w = s.wake 1 →
    (s.pwr.entry = none → s.get F.PWR_STATUS_STATE = 0 → w = s) ∧
    (d = (v.toNat + 2 ^ 32 - w.get (F.TP_Q_TAIL t.val q.val)) % 2 ^ 32
        + (w.get (F.TP_Q_TAIL t.val q.val) + 2 ^ 32 - w.get (F.TP_Q_HEAD t.val q.val)) % 2 ^ 32 →
      (w.on (F.TP_Q_CTRL_EN t.val q.val) = true → d ≤ 2 ^ w.get (F.TP_Q_CFG_SIZE t.val q.val) →
        exec (.doorbell t q v) s = .next (w.set (F.TP_Q_TAIL t.val q.val) v.toNat)) ∧
      (w.on (F.TP_Q_CTRL_EN t.val q.val) = false ∨ 2 ^ w.get (F.TP_Q_CFG_SIZE t.val q.val) < d →
        exec (.doorbell t q v) s = .next ((w.stick (F.TP_QOVR_QOVR t.val)).msix t.val 1))) ∧
    (d = (v.toNat + 2 ^ 32 - w.get (F.TP_CQ_HEAD t.val)) % 2 ^ 32 →
      (d ≤ (w.get (F.TP_CQ_TAIL t.val) + 2 ^ 32 - w.get (F.TP_CQ_HEAD t.val)) % 2 ^ 32 →
        ∃ u : State, exec (.cqDoorbell t v) s = .next u ∧ u.get (F.TP_CQ_HEAD t.val) = v.toNat ∧
          (∀ b, b ≠ (F.TP_CQ_HEAD t.val).addr → u.rd b = w.rd b) ∧ u = { w with regs := u.regs, tenants := u.tenants }) ∧
      ((w.get (F.TP_CQ_TAIL t.val) + 2 ^ 32 - w.get (F.TP_CQ_HEAD t.val)) % 2 ^ 32 < d →
        exec (.cqDoorbell t v) s = .next ((w.stick (F.TP_CQOVR_CQOVR t.val)).msix t.val 1)))) ∧
  (∀ (s : State) (t : Tenant) (q : Queue) (v : Word) (m : BitVec 16),
    (s.pageOpen t.val = false → exec (.doorbell t q v) s = .next s ∧ exec (.cqDoorbell t v) s = .next s) ∧
    (s.blockOpen = true → exec (.cmqStopWrite m) s = .next (s.set F.CMQ_STOP m.toNat)) ∧
    (s.blockOpen = false → exec (.cmqStopWrite m) s = .next s)) ∧
  (∀ (s : State) (t : Tenant) (q : Queue) (same : Bool) (h : Nat) (r : State), h = s.get (F.TP_Q_HEAD t.val q.val) →
    r = s.set (F.TP_Q_CTRL_RESUME t.val q.val) 0 →
    (s.mayFetch t.val q.val = true →
      (∀ u, u = r.fetchPackets t.val q.val (s.get (F.TP_Q_TAIL t.val q.val)) 1024 16 →
        (same = false ∨ s.on (F.TP_Q_CTRL_RESUME t.val q.val) = false → exec (.queueFetch t q same) s = .next u) ∧
        (same = true → s.on (F.TP_Q_CTRL_RESUME t.val q.val) = true →
          exec (.queueFetch t q same) s = .next (u.set (F.TP_Q_CTRL_RESUME t.val q.val) 1))) ∧
      (s.get (F.TP_Q_TAIL t.val q.val) = h → exec (.queueFetch t q false) s = .next r) ∧
      (∀ v w f b, r.readSlot t.val q.val h = (some f, v) → v.readSlots t.val q.val h 1 = (some b, w) →
        leAt f 4 4 = (s.get (F.TP_Q_SEQ_NEXT t.val q.val) + (s.queueSt t.val q.val).shadow.length) % 2 ^ 32 → leAt f 1 1 % 4 = 0 →
        (s.queueSt t.val q.val).slots < 256 → (h + 1) % 2 ^ 32 = s.get (F.TP_Q_TAIL t.val q.val) →
        ∃ u : State, exec (.queueFetch t q false) s = .next u ∧ (u.queueSt t.val q.val).shadow = (s.queueSt t.val q.val).shadow ++ [b] ∧
          u.get (F.TP_Q_HEAD t.val q.val) = s.get (F.TP_Q_TAIL t.val q.val) ∧ u.mem = w.mem ∧ u.cmds = s.cmds)) ∧
    (s.mayFetch t.val q.val = true → s.get (F.TP_Q_TAIL t.val q.val) ≠ h →
      (daSpace (s.qBase t.val q.val) = 4 → ∃ u : State, exec (.queueFetchFail t q) s = .next u ∧
        u.on (F.TP_Q_STATUS_HALT t.val q.val) = true ∧ u.get (F.TP_Q_STATUS_CAUSE t.val q.val) = 2 ∧
        u.get (F.TP_Q_HEAD t.val q.val) = h ∧ u.queues = s.queues ∧ u.mem = s.mem) ∧
      (∀ u, daSpace (s.qBase t.val q.val) ≠ 4 → s.readSlot t.val q.val h = (none, u) →
        exec (.queueFetchFail t q) s = .next (u.haltQueue t.val q.val 2)) ∧
      (∀ f u, daSpace (s.qBase t.val q.val) ≠ 4 → s.readSlot t.val q.val h = (some f, u) → exec (.queueFetchFail t q) s = .next s)) ∧
    (s.mayFetch t.val q.val = false → exec (.queueFetch t q false) s = .next s) ∧
    (s.mayFetch t.val q.val = false ∨ s.get (F.TP_Q_TAIL t.val q.val) = h → exec (.queueFetchFail t q) s = .next s))

/-- PACKET_DECODE (R28, R160, R161, R164, R169, R177): a packet with the SEQ expected, whose marks allow it and which a free CQ slot
awaits, leaves the shadow, SEQ_NEXT moves on, and it becomes the queue's next command: by its opcode's path, ended with the result of
the check of its body, or ended with REJ_FORMAT and the byte at fault; before a format is set only HELLO passes. Without a free slot
CQFULL is set once, with vector 1. One with another SEQ halts the queue with cause 1, empties the shadow and takes HEAD back to it.
While the queue's decode is held, its tenant's CQ is off or halted, its marks do not allow it, the tenant is in a context reset, or
the device does not run in S0, nothing happens. -/
def Obligations.DecodeFollowsTheSequence : Prop :=
  ∀ (s : State) (t : Tenant) (q : Queue) (fails : Bool),
    ((s.queueSt t.val q.val).shadow = [] ∨ s.ctxBusy t.val = true ∨ s.on (F.TP_CQ_CTRL_EN t.val) = false ∨
      s.on (F.TP_CQ_STATUS_HALT t.val) = true ∨ s.decodeHeld t.val q.val = true ∨ s.get F.PWR_STATUS_STATE ≠ 0 ∨
      (s.boot.phase ≠ .run ∧ s.boot.phase ≠ .recovery) →
      exec (.packetDecode t q fails) s = .next s) ∧
    ∀ (p : Packet) (rest : List Packet), (s.queueSt t.val q.val).shadow = p :: rest → (s.boot.phase = .run ∨ s.boot.phase = .recovery) →
    s.get F.PWR_STATUS_STATE = 0 →
    s.ctxBusy t.val = false → s.on (F.TP_CQ_CTRL_EN t.val) = true → s.on (F.TP_CQ_STATUS_HALT t.val) = false →
    s.decodeHeld t.val q.val = false →
    (s.cqFree t.val = 0 → (s.tenantSt t.val).cqFull = true → exec (.packetDecode t q fails) s = .next s) ∧
    (s.cqFree t.val = 0 → (s.tenantSt t.val).cqFull = false → exec (.packetDecode t q fails) s =
      .next (((s.setTenant { s.tenantSt t.val with cqFull := true }).stick (F.TP_CQFULL_CQFULL t.val)).msix t.val 1)) ∧
    (s.cqFree t.val ≠ 0 → pSeq p ≠ s.get (F.TP_Q_SEQ_NEXT t.val q.val) → ∃ u : State, exec (.packetDecode t q fails) s = .next u ∧
      u.on (F.TP_Q_STATUS_HALT t.val q.val) = true ∧ u.get (F.TP_Q_STATUS_CAUSE t.val q.val) = 1 ∧
      (u.queueSt t.val q.val).shadow = [] ∧ u.get (F.TP_Q_HEAD t.val q.val) =
        (s.get (F.TP_Q_HEAD t.val q.val) + 2 ^ 32 - (s.queueSt t.val q.val).slots) % 2 ^ 32 ∧ u.cmds = s.cmds) ∧
    (s.cqFree t.val ≠ 0 → pSeq p = s.get (F.TP_Q_SEQ_NEXT t.val q.val) → s.marksOk t.val q.val p fails = false →
      exec (.packetDecode t q fails) s = .next s) ∧
    (s.cqFree t.val ≠ 0 → pSeq p = s.get (F.TP_Q_SEQ_NEXT t.val q.val) → s.marksOk t.val q.val p fails = true → ∀ d a : State,
      d = ((s.setQueue { s.queueSt t.val q.val with shadow := rest }).set (F.TP_Q_SEQ_NEXT t.val q.val) ((pSeq p + 1) % 2 ^ 32)).setTenant
        { s.tenantSt t.val with cqFull := false } → a = d.addCmd (d.freshCmd t.val q.val p none) →
      (d.on (F.TP_FMT_SET t.val) = false → pOp p ≠ 2 →
        exec (.packetDecode t q fails) s = .next (a.finish s.nextId stREJ_FORMAT (2 ^ 31))) ∧
      (d.on (F.TP_FMT_SET t.val) = true ∨ pOp p = 2 → ∀ b, d.headerCheck t.val q.val p = some b →
        exec (.packetDecode t q fails) s = .next (a.finish s.nextId stREJ_FORMAT (2 ^ 31 + b))) ∧
      (d.on (F.TP_FMT_SET t.val) = true ∨ pOp p = 2 → d.headerCheck t.val q.val p = none →
        (a.seqDead t.val q.val = true → 2 ≤ flLOCK (pFlags p) → exec (.packetDecode t q fails) s = .next (a.joinStart s.nextId fails)) ∧
        (a.seqDead t.val q.val = false ∨ flLOCK (pFlags p) < 2 →
          (∀ r, a.bodyCheck t.val (pOp p) p = some r → exec (.packetDecode t q fails) s = .next (a.reject s.nextId r)) ∧
          (a.bodyCheck t.val (pOp p) p = none → isFirmware (pOp p) = true →
            exec (.packetDecode t q fails) s = .next (a.toCf s.nextId)) ∧
          (a.bodyCheck t.val (pOp p) p = none → isFirmware (pOp p) = false →
            exec (.packetDecode t q fails) s = .next (a.decodeFast s.nextId (pOp p) fails)))))

/-- NOP, FENCE, FLAG_SET, FLAG_CLEAR, RING, SAFE_HEARTBEAT (R191, R214, R215, R424): a command that starts at once takes its effect
and ends with its record: DONE, or REJ_BOUNDS where a RING's doorbell is refused. A fence whose flushing read fails ends with
FAULT_LINK. -/
def Obligations.PlainFrontCommandsTakeEffectAndEnd : Prop :=
  ∀ (s : State) (t : Tenant) (q : Queue) (p : List Byte) (fails : Bool),
    (s.rowStarts t.val q.val 0x00 p false = true → exec (.nop t q p) s = .next ((s.rowStarted t.val q.val 0x00 p).fail s.nextId stDONE)) ∧
    (s.rowStarts t.val q.val 0x01 p fails = true →
      exec (.fence t q p fails) s = .next ((s.rowStarted t.val q.val 0x01 p).fail s.nextId stDONE)) ∧
    (s.rowStarts t.val q.val 0x25 p fails = true → exec (.flagSet t q p fails) s =
      .next (((s.rowStarted t.val q.val 0x25 p).flagUpdate t.val (leAt (rowPacket 0x25 p) 24 1) (leAt (rowPacket 0x25 p) 32 8) 0).fail
        s.nextId stDONE)) ∧
    (s.rowStarts t.val q.val 0x26 p fails = true → exec (.flagClear t q p fails) s =
      .next (((s.rowStarted t.val q.val 0x26 p).flagUpdate t.val (leAt (rowPacket 0x26 p) 24 1) 0 (leAt (rowPacket 0x26 p) 32 8)).fail
        s.nextId stDONE)) ∧
    (s.rowStarts t.val q.val 0x27 p fails = true → ∀ ok u,
      (s.rowStarted t.val q.val 0x27 p).ringBell t.val (leAt (rowPacket 0x27 p) 24 1) (leAt (rowPacket 0x27 p) 28 4) = (ok, u) →
      exec (.ring t q p fails) s = .next (u.fail s.nextId (if ok then stDONE else stREJ_BOUNDS))) ∧
    (s.rowStarts t.val q.val 0x41 p fails = true → exec (.safeHeartbeat t q p fails) s =
      .next (((s.rowStarted t.val q.val 0x41 p).heartbeat (leAt (rowPacket 0x41 p) 24 2)).fail s.nextId stDONE))

/-- SAFE_HEARTBEAT (R424): a watcher index of 256 or more gives REJ_BOUNDS, a watcher that is not VALID REJ_HANDLE, and one that is
not assigned to the issuing tenant REJ_PERM; during a Loupe restart the command completes with DONE and refreshes nothing. -/
def Obligations.HeartbeatsAnswerByTheirWatcher : Prop :=
  ∀ (s : State) (t : Tenant) (q : Queue) (p : List Byte) (fails : Bool) (w : Nat) (d : State), w = leAt (rowPacket 0x41 p) 24 2 →
    d = s.rowDecoded t.val q.val 0x41 p →
    (s.rowPasses t.val q.val 0x41 p fails = true →
      (256 ≤ w → exec (.safeHeartbeat t q p fails) s = .next ((d.fail s.nextId stREJ_BOUNDS).joinStart s.nextId fails)) ∧
      (w < 256 → rlValid (d.lpeWatch w) = false →
        exec (.safeHeartbeat t q p fails) s = .next ((d.fail s.nextId stREJ_HANDLE).joinStart s.nextId fails)) ∧
      (w < 256 → rlValid (d.lpeWatch w) = true → rlTen (d.lpeWatch w) ≠ t.val →
        exec (.safeHeartbeat t q p fails) s = .next ((d.fail s.nextId stREJ_PERM).joinStart s.nextId fails))) ∧
    (s.rowStarts t.val q.val 0x41 p fails = true → (s.rowStarted t.val q.val 0x41 p).lpe.down = some .restart →
      exec (.safeHeartbeat t q p fails) s = .next ((s.rowStarted t.val q.val 0x41 p).fail s.nextId stDONE)) ∧
    (∀ u : State, (∀ c, u.cmd? s.nextId = some c → c.phase = .ended) → u.joinStart s.nextId fails = u)

/-- SIGNAL, WAIT, BARRIER_ARRIVE (R188, R209, R210, R287, R288, R292, R298, R303). A SIGNAL issues its specs in order: a local one takes
effect here, a remote one goes to its chip on VC1, and one whose messages are all acknowledged, or that has none, ends. A WAIT whose
conditions hold consumes and ends and lets other waits see the counters; another waits with its deadline. An arrival at a local barrier
that is enabled is counted, and ends at once unless it waits with its sense and deadline; at one that is not enabled it ends with
REJ_BOUNDS; one for another chip is sent there on VC1. -/
def Obligations.SynchronizationCommandsTakeEffect : Prop :=
  ∀ (s : State) (t : Tenant) (q : Queue) (p : List Byte) (fails : Bool) (c : Cmd),
    (s.rowStarts t.val q.val 0x20 p fails = true → (s.rowStarted t.val q.val 0x20 p).cmd? s.nextId = some c →
      exec (.signal t q p fails) s = .next ((s.rowStarted t.val q.val 0x20 p).runSignal c) ∧
      (leAt c.pkt 24 1 = 1 → ∀ u, u = ((s.rowStarted t.val q.val 0x20 p).setCmd { c with phase := .running }).sigIssue c (sigAt c.pkt 32) true →
        exec (.signal t q p fails) s = .next (if u.vc1Open c.id = [] then u.fail c.id stDONE else u))) ∧
    (∀ (u : State) (g : Sig) (last : Bool), 1 ≤ g.op → g.op ≤ 6 →
      (u.isLocal g.chip = true → g.op ≤ 3 → u.sigIssue c g last = u.counterOp c.tenant g.op g.index g.value) ∧
      (u.isLocal g.chip = true → g.op = 4 → u.sigIssue c g last = u.flagUpdate c.tenant (g.index / 64) (2 ^ (g.index % 64)) 0) ∧
      (u.isLocal g.chip = true → g.op = 5 → u.sigIssue c g last = u.flagUpdate c.tenant (g.index / 64) 0 (2 ^ (g.index % 64))) ∧
      (u.isLocal g.chip = true → g.op = 6 → u.sigIssue c g last = u.msix c.tenant g.index) ∧
      (u.isLocal g.chip = false → u.sigIssue c g last = u.vc1 g.chip (u.stamp c (sigMsg c.tenant c.id g last)) (some c.id))) ∧
    (s.rowStarts t.val q.val 0x21 p fails = true → (s.rowStarted t.val q.val 0x21 p).cmd? s.nextId = some c →
      ∀ d u, d = { c with deadline := some ((s.rowStarted t.val q.val 0x21 p).cad.time + 1000 * leAt c.pkt 28 4) } →
        u = (s.rowStarted t.val q.val 0x21 p).setCmd d →
        exec (.wait t q p fails) s = .next (if u.waitHolds d then (u.endWait d).evalWaits t.val else u)) ∧
    (s.rowStarts t.val q.val 0x22 p fails = true → (s.rowStarted t.val q.val 0x22 p).cmd? s.nextId = some c →
      ∀ S u, S = s.rowStarted t.val q.val 0x22 p →
        u = S.modCmd c.id (fun (x : Cmd) => { x with
          deadline := if baWait c.pkt then some (S.cad.time + 1000 * (baTimeout c.pkt + 1)) else none }) →
        (S.isLocal (baChip c.pkt) = true → baWait c.pkt = false →
          (∀ z w, u.barArrive c.tenant (baBarrier c.pkt) none false = some (z, w) →
            exec (.barrierArrive t q p fails) s = .next (w.fail c.id stDONE)) ∧
          (u.barArrive c.tenant (baBarrier c.pkt) none false = none →
            exec (.barrierArrive t q p fails) s = .next (u.fail c.id stREJ_BOUNDS))) ∧
        (S.isLocal (baChip c.pkt) = true → baWait c.pkt = true → ∀ n v, u.poolBar c.tenant (baBarrier c.pkt) = some n →
          v = u.modCmd c.id (fun (x : Cmd) => { x with sense := some (u.bar n).sense }) →
          (∀ z w, v.barArrive c.tenant (baBarrier c.pkt) none true = some (z, w) → exec (.barrierArrive t q p fails) s = .next w) ∧
          (v.barArrive c.tenant (baBarrier c.pkt) none true = none →
            exec (.barrierArrive t q p fails) s = .next (u.fail c.id stREJ_BOUNDS))) ∧
        (S.isLocal (baChip c.pkt) = false →
          exec (.barrierArrive t q p fails) s = .next (u.vc1 (baChip c.pkt) (u.stamp c { msgZero with
            mop := 0x12, cmdLast := true, ackReq := true, rtag := c.id % 65536,
            operand := barOperand (baBarrier c.pkt) false false (baWait c.pkt) }) (some c.id))))

/-- LOCK_ACQUIRE, LOCK_RELEASE, GRAPH_LAUNCH (R145, R212, R217, R275, R305, R320, R321, R326). An acquire of a free local lock takes it;
of a local home it then opens its sequence and ends, else it asks the home; one of a held lock waits. A release gives its locks to
what waits for them. A launch names a loaded graph that runs no launch, else REJ_HANDLE or REJ_BUSY; it waits for CQ slots, ends with
REJ_BUSY without TIMED room, is held while nodes are held, ends with REJ_FIT where its TICKED nodes are not admitted, with PINFULL
where only a pinnable entry lacks; then its graph's nodes are idle, and it arms them at once or at its LAUNCH, late where that has
passed. -/
def Obligations.LocksAndLaunchesTakeEffect : Prop :=
  ∀ (s : State) (t : Tenant) (q : Queue) (p : List Byte) (fails : Bool) (c : Cmd),
    (s.rowStarts t.val q.val 0x23 p fails = true → (s.rowStarted t.val q.val 0x23 p).cmd? s.nextId = some c →
      ∀ S n, S = s.rowStarted t.val q.val 0x23 p → S.poolLock t.val (lkLock c.pkt) = some n →
        ((S.lock n).held = true → exec (.lockAcquire t q p fails) s = .next (S.setCmd { c with lockTry := .localWait })) ∧
        ((S.lock n).held = false → ∀ d v,
          v = S.setLock n { S.lock n with held := true, broken := false, holderQ := q.val, holderChip := S.chip, holderTag := s.nextId,
                                          grantedAt := S.cad.time } →
          d = (if (S.lock n).broken then { c with warn := putBit c.warn wLOCK_BROKEN true } else c) →
          (S.isLocal (lkChip c.pkt) = true → exec (.lockAcquire t q p fails) s = .next ((v.setCmd d).acquired d)) ∧
          (S.isLocal (lkChip c.pkt) = false → exec (.lockAcquire t q p fails) s =
            .next ((v.setCmd { d with lockTry := .homeWait }).vc0 (lkChip c.pkt) { msgZero with
              mop := 0x03, tenant := t.val, cmdTag := s.nextId % 65536, operand := lkLock c.pkt + 2 ^ 8 * q.val } s.nextId 0 0)))) ∧
    (s.rowStarts t.val q.val 0x24 p fails = true → exec (.lockRelease t q p fails) s =
      .next (((s.rowStarted t.val q.val 0x24 p).releaseBoth t.val q.val (lkLock (rowPacket 0x24 p)) (lkChip (rowPacket 0x24 p)) false).fail
        s.nextId stDONE)) ∧
    (s.rowStarts t.val q.val 0x29 p fails = true → (s.rowStarted t.val q.val 0x29 p).cmd? s.nextId = some c → ∀ u,
      u = s.rowStarted t.val q.val 0x29 p →
      (u.graph? t.val (leAt c.pkt 24 1) = none → exec (.graphLaunch t q p fails) s = .next (u.fail s.nextId stREJ_HANDLE)) ∧
      (∀ g, u.graph? t.val (leAt c.pkt 24 1) = some g →
        (g.launch.isSome = true → exec (.graphLaunch t q p fails) s = .next (u.fail s.nextId stREJ_BUSY)) ∧
        (g.launch = none → u.cqFree t.val < g.nodes.length → exec (.graphLaunch t q p fails) s = .next u) ∧
        (g.launch = none → g.nodes.length ≤ u.cqFree t.val →
          (4096 < u.timedUsed + g.timedNodes → exec (.graphLaunch t q p fails) s = .next (u.fail s.nextId stREJ_BUSY)) ∧
          (u.timedUsed + g.timedNodes ≤ 4096 →
            (u.tenantHeld t.val = true → exec (.graphLaunch t q p fails) s = .next (u.setCmd { c with phase := .held })) ∧
            (u.tenantHeld t.val = false →
              (u.admitGraph c g true = none → exec (.graphLaunch t q p fails) s =
                .next ((if (u.admitGraph c g false).isSome then u.stick F.PRI_PINFULL_PINFULL else u).fail s.nextId stREJ_FIT)) ∧
              (∀ adm base v, u.admitGraph c g true = some (adm, base, v) → ∀ fin w,
                fin = (match adm with | some n => v.edgeOf (n + 1) | none => 0) →
                w = (v.modGraph t.val g.id fun (g : Graph) =>
                    { g with launch := some ⟨c.queue, s.nextId, base, adm, fin, leAt c.pkt 28 1, leAt c.pkt 32 8, none⟩,
                             nodes := g.nodes.map fun (n : Node) => { n with st := .idle } }).setCmd
                  { c with phase := .running, admTick := adm, admEnd := fin, cursor := 1 } →
                exec (.graphLaunch t q p fails) s = .next (if c.timed then
                    (if w.cad.time < c.launch then w else if c.launch < w.cad.time then (w.launchLate s.nextId).releaseGraph t.val g.id
                      else w.releaseGraph t.val g.id)
                  else w.releaseGraph t.val g.id)))))))

/-- WIN_CREATE, WIN_REVOKE, WIN_DESTROY, WINDOW_DRAIN_COMPLETE (R100 to R102, R193, R194, R404): a creation that passes its checks
puts the window into the lowest free slot, under that slot's generation, and ends with the window's number. A revocation or
destruction of a live window under its current generation advances the generation at once and waits for what has passed the old
check; when that has completed, it ends DONE. DESC_CREATE, DESC_DESTROY, WIN_QUERY_TIMEOUT (R104, R113, R115, R166, R195, R196): a
creation whose areas, its table, its write-back and its echo, pass in that order takes its table entry by entry, and another ends with
the status of the first that fails and RESULT 0; a destruction whose handles all name descriptors of the tenant
frees every slot and advances its generation, else it destroys none; a window query unanswered for 100 µs ends its creation with
FAULT_LINK. -/
def Obligations.WindowsAndDescriptorsAreCreatedAndRevoked : Prop := 
  (∀ (s : State) (t : Tenant) (q : Queue) (p : List Byte),
    (s.rowAccepted t.val q.val 0x08 p false = true → ∀ u, u = s.rowTaken t.val q.val 0x08 p →
      (∀ r, u.winCheck (rowPacket 0x08 p) = some r → exec (.winCreate t q p) s = .next (u.reject s.nextId r)) ∧
      (u.winCheck (rowPacket 0x08 p) = none → ∃ i w, u.freeWin = some i ∧ w.space = daSpace (leAt (rowPacket 0x08 p) 24 8) ∧
        w.base = daOff (leAt (rowPacket 0x08 p) 24 8) ∧ w.size = leAt (rowPacket 0x08 p) 32 8 ∧
        exec (.winCreate t q p) s = .next ((u.setWin i ⟨(u.winSlot i).gen, some w⟩).finish s.nextId stDONE i))) ∧
    (s.rowAccepted t.val q.val 0x09 p false = true → ∀ u i w, u = s.rowTaken t.val q.val 0x09 p → i = leAt (rowPacket 0x09 p) 24 2 →
      (u.winSlot i).win = some w → leAt (rowPacket 0x09 p) 26 2 = (u.winSlot i).gen → (u.winSlot i).gen < 0xFFFF →
      ∃ v : State, exec (.winRevoke t q p) s = .next v ∧ (v.winSlot i).gen = (u.winSlot i).gen + 1 ∧
        (v.winSlot i).win = some { w with owner := bitsOf (leAt (rowPacket 0x09 p) 28 1) 0 4
                                          r := bit (leAt (rowPacket 0x09 p) 29 1) 0, w := bit (leAt (rowPacket 0x09 p) 29 1) 1 } ∧
        v = { u with wins := v.wins, cmds := v.cmds }) ∧
    (s.rowAccepted t.val q.val 0x0A p false = true → ∀ u i w, u = s.rowTaken t.val q.val 0x0A p → i = leAt (rowPacket 0x0A p) 24 2 →
      (u.winSlot i).win = some w → leAt (rowPacket 0x0A p) 26 2 = (u.winSlot i).gen →
      ∃ v : State, exec (.winDestroy t q p) s = .next v ∧ (v.winSlot i).gen = min 0xFFFF ((u.winSlot i).gen + 1) ∧
        (v.winSlot i).win = none ∧ v = { u with wins := v.wins, cmds := v.cmds }) ∧
    (∀ id c, s.cmd? id = some c → (c.op = 0x09 ∨ c.op = 0x0A) → c.phase = .running →
      (s.drained c = true → exec (.windowDrainComplete id) s = .next (s.fail id stDONE)) ∧
      (s.drained c = false → exec (.windowDrainComplete id) s = .next s))) ∧
  (∀ (s : State) (t : Tenant) (q : Queue) (p : List Byte) (fails : Bool) (c : Cmd),
    (s.rowAccepted t.val q.val 0x0C p fails = true → (s.rowTaken t.val q.val 0x0C p).cmd? s.nextId = some c →
      ∀ r₁ u₁ r₂ u₂ r₃ u₃,
        (s.rowTaken t.val q.val 0x0C p).areaCheck c.tenant (dcTable c.pkt) (leAt c.pkt 32 2) (leAt c.pkt 34 2) (128 * dcCount c.pkt) false
          = (r₁, u₁) →
        (if dcBack c.pkt then u₁.areaCheck c.tenant (dcTable c.pkt) (leAt c.pkt 32 2) (leAt c.pkt 34 2) (128 * dcCount c.pkt) true
          else (none, u₁)) = (r₂, u₂) →
        (if dcEcho c.pkt = 0 then (none, u₂)
          else u₂.areaCheck c.tenant (dcEcho c.pkt) (leAt c.pkt 48 2) (leAt c.pkt 50 2) (4 * dcCount c.pkt) true) = (r₃, u₃) →
        (∀ st, r₁ = some st → exec (.descCreate t q p fails) s = .next (u₁.finish s.nextId st 0)) ∧
        (∀ st, r₁ = none → r₂ = some st → exec (.descCreate t q p fails) s = .next (u₂.finish s.nextId st 0)) ∧
        (∀ st, r₁ = none → r₂ = none → r₃ = some st → exec (.descCreate t q p fails) s = .next (u₃.finish s.nextId st 0)) ∧
        (r₁ = none → r₂ = none → r₃ = none →
          exec (.descCreate t q p fails) s = .next ((u₃.setCmd { c with phase := .running }).descRun s.nextId fails 65))) ∧
    (s.rowAccepted t.val q.val 0x0D p false = true → ∀ hs u, u = s.rowTaken t.val q.val 0x0D p →
      hs = (List.range (leAt (rowPacket 0x0D p) 24 1)).map (fun i => leAt (rowPacket 0x0D p) (28 + 4 * i) 4) →
      ((∃ h ∈ hs, u.handleAny t.val h = none) → exec (.descDestroy t q p) s = .next (u.fail s.nextId stREJ_HANDLE)) ∧
      ((∀ h ∈ hs, (u.handleAny t.val h).isSome = true) → hs.Nodup → exec (.descDestroy t q p) s = .next
        ((hs.foldl (fun s h => s.setDesc (h % 65536) ⟨min 0xFFFF ((s.descSlot (h % 65536)).gen + 1), none⟩) u).fail s.nextId stDONE))) ∧
    (∀ id r, s.rein.reqs.find? (fun (x : Req) => x.cmd == id && x.mop == 0x02) = some r → s.cmd? id = some c →
      (s.advance (r.at_ + 100000)).cmd? id = some c → exec (.winQueryTimeout id) s = .next
        (({ s.advance (r.at_ + 100000) with rein := { (s.advance (r.at_ + 100000)).rein with
            reqs := (s.advance (r.at_ + 100000)).rein.reqs.filter (fun (x : Req) => x.tag != r.tag) } } : State).descEnd c stFAULT_LINK)))

/-- HELLO (R176, R329): a major format this device has becomes the tenant's format, and where it changes the format the tenant's graphs
are unloaded; while another command of the tenant has no record the change ends with REJ_BUSY; another major ends with REJ_COMPAT and
the majors of the device. GRAPH_LOAD, GRAPH_UNLOAD (R216, R218, R314, R329): a list whose header, area and
nodes all pass replaces the graph; the first check, read or node that fails ends it with its status, a node noted in TP_GERR; a graph
that runs a launch is not unloaded. -/
def Obligations.FormatsAndGraphsAreLoaded : Prop :=
  ∀ (s : State) (t : Tenant) (q : Queue) (p : List Byte) (fails : Bool),
    (s.rowAccepted t.val q.val 0x02 p false = true → ∀ u m, u = s.rowTaken t.val q.val 0x02 p → m = leAt (rowPacket 0x02 p) 24 1 →
      (m ≠ 3 → m ≠ 2 → exec (.hello t q p) s = .next (u.finish s.nextId stREJ_COMPAT (3 * 256 + 2 * 65536))) ∧
      (m = 3 ∨ m = 2 → u.on (F.TP_FMT_SET t.val) = false → ∃ r, exec (.hello t q p) s =
        .next ((((u.set (F.TP_FMT_MAJOR t.val) m).set (F.TP_FMT_MINOR t.val) 0).set (F.TP_FMT_SET t.val) 1).finish s.nextId stDONE r) ∧
        r % 256 = 0 ∧ r / 256 % 256 = m) ∧
      (m = 3 ∨ m = 2 → u.on (F.TP_FMT_SET t.val) = true → ∀ busy,
        busy = (u.cmds.any (fun (x : Cmd) => x.tenant == t.val && x.id != s.nextId) || !(u.tenantSt t.val).pendingRecs.isEmpty) →
        (u.get (F.TP_FMT_MAJOR t.val) ≠ m → busy = true → exec (.hello t q p) s = .next (u.fail s.nextId stREJ_BUSY)) ∧
        (u.get (F.TP_FMT_MAJOR t.val) = m ∨ busy = false → ∀ v,
          v = (if u.get (F.TP_FMT_MAJOR t.val) = m then u
            else { u with graphs := u.graphs.filter fun (g : Graph) => g.tenant != t.val }) →
          ∃ r, exec (.hello t q p) s =
            .next ((((v.set (F.TP_FMT_MAJOR t.val) m).set (F.TP_FMT_MINOR t.val) 0).set (F.TP_FMT_SET t.val) 1).finish s.nextId stDONE r) ∧
            r % 256 = 0 ∧ r / 256 % 256 = m))) ∧
    (s.rowAccepted t.val q.val 0x28 p fails = true → ∀ u k, u = s.rowTaken t.val q.val 0x28 p → k = rowPacket 0x28 p →
      (∀ st, u.loadCheck t.val k = some st → exec (.graphLoad t q p fails) s = .next (u.fail s.nextId st)) ∧
      (u.loadCheck t.val k = none → ∀ st v, u.loadArea t.val k = (some st, v) →
        exec (.graphLoad t q p fails) s = .next (v.fail s.nextId st)) ∧
      (u.loadCheck t.val k = none → ∀ v w st, u.loadArea t.val k = (none, v) →
        v.areaRead t.val (pSeq k) (leAt k 36 8) (320 * leAt k 32 2) fails = (.error st, w) →
        exec (.graphLoad t q p fails) s = .next (w.fail s.nextId st)) ∧
      (u.loadCheck t.val k = none → ∀ v w l i st b, u.loadArea t.val k = (none, v) →
        v.areaRead t.val (pSeq k) (leAt k 36 8) (320 * leAt k 32 2) fails = (.ok l, w) → i < leAt k 32 2 →
        w.nodeCheck t.val (slice l (320 * i) 320) = some (st, b) → (∀ j, j < i → w.nodeCheck t.val (slice l (320 * j) 320) = none) →
        exec (.graphLoad t q p fails) s = .next ((w.gerr t.val i b).fail s.nextId st)) ∧
      (u.loadCheck t.val k = none → ∀ v w l, u.loadArea t.val k = (none, v) →
        v.areaRead t.val (pSeq k) (leAt k 36 8) (320 * leAt k 32 2) fails = (.ok l, w) →
        (∀ i, i < leAt k 32 2 → w.nodeCheck t.val (slice l (320 * i) 320) = none) →
        ∃ (x : State) (g : Graph), exec (.graphLoad t q p fails) s = .next (x.fail s.nextId stDONE) ∧
          x.graphs = (w.dropGraph t.val (leAt k 24 1)).graphs ++ [g] ∧ g.tenant = t.val ∧ g.id = leAt k 24 1 ∧ g.launch = none ∧
          g.nodes.map (·.entry) = (List.range (leAt k 32 2)).map (fun i => slice l (320 * i) 320) ∧
          x = { w.dropGraph t.val (leAt k 24 1) with graphs := x.graphs })) ∧
    (s.rowAccepted t.val q.val 0x2A p false = true → ∀ u, u = s.rowTaken t.val q.val 0x2A p →
      u.graph? t.val (leAt (rowPacket 0x2A p) 24 1) = none → exec (.graphUnload t q p) s = .next (u.fail s.nextId stREJ_HANDLE)) ∧
    (s.rowAccepted t.val q.val 0x2A p false = true → ∀ u g, u = s.rowTaken t.val q.val 0x2A p →
      u.graph? t.val (leAt (rowPacket 0x2A p) 24 1) = some g →
      (g.launch = none → exec (.graphUnload t q p) s = .next ((u.dropGraph t.val g.id).fail s.nextId stDONE)) ∧
      (g.launch ≠ none → exec (.graphUnload t q p) s = .next (u.fail s.nextId stREJ_BUSY)))

/-- FW_BEGIN, FW_DATA, FW_COMMIT, FW_ABORT (R223, R224, R492): a session opens on the slot that does not run, takes its image in
order, and its commit ends it; an abort discards it. CAL_RUN, CAL_RUN_COMPLETE, CAL_SAVE, RESTORE_FACTORY (R220, R509 to R511): a
run starts where no tick is open, retrains the ACTIVE Rein ports and relinks the ETH ports its scopes name, and occupies the calibration
until it completes; a scope whose result fails its limits fails the command; a save makes the older copy the newer, and a
restore removes both copies. -/
def Obligations.FirmwareAndCalibrationKeepTheirRecords : Prop := 
  (∀ (s : State) (t : Tenant) (q : Queue) (p : List Byte) (fails : Bool),
    (s.rowAccepted t.val q.val 0x3C p false = true → ∀ u k, u = s.rowTaken t.val q.val 0x3C p → k = rowPacket 0x3C p →
      (u.boot.session ≠ none → exec (.fwBegin t q p) s = .next (u.fail s.nextId stREJ_BUSY)) ∧
      (u.boot.session = none → u.get F.FW_STATUS_BOOT_SLOT = leAt k 24 1 → exec (.fwBegin t q p) s = .next (u.fail s.nextId stREJ_PERM)) ∧
      (u.boot.session = none → u.get F.FW_STATUS_BOOT_SLOT ≠ leAt k 24 1 →
        (if leAt k 25 1 = 0 then 0x400000 else 0x100000) < leAt k 28 4 → exec (.fwBegin t q p) s = .next (u.fail s.nextId stREJ_BOUNDS)) ∧
      (u.boot.session = none → u.get F.FW_STATUS_BOOT_SLOT ≠ leAt k 24 1 →
        leAt k 28 4 ≤ (if leAt k 25 1 = 0 then 0x400000 else 0x100000) →
        exec (.fwBegin t q p) s =
          .next (((u.slotTo (leAt k 24 1) 0).putSession ⟨2 * leAt k 24 1 + leAt k 25 1, leAt k 28 4, []⟩).finish s.nextId stDONE 0))) ∧
    (s.rowAccepted t.val q.val 0x3D p fails = true → ∀ u k, u = s.rowTaken t.val q.val 0x3D p → k = rowPacket 0x3D p →
      (u.boot.session = none → exec (.fwData t q p fails) s = .next (u.fail s.nextId stREJ_HANDLE)) ∧
      (∀ x, u.boot.session = some x → leAt k 36 4 ≠ x.data.length ∨ x.size < leAt k 36 4 + leAt k 40 4 → exec (.fwData t q p fails) s = .next (u.fail s.nextId stREJ_BOUNDS)) ∧
      (∀ x v w b, u.boot.session = some x → leAt k 36 4 = x.data.length → leAt k 36 4 + leAt k 40 4 ≤ x.size →
        u.areaCheck t.val (leAt k 24 8) (leAt k 32 2) (leAt k 34 2) (leAt k 40 4) false = (none, v) →
        v.areaRead t.val (pSeq k) (leAt k 24 8) (leAt k 40 4) fails = (.ok b, w) →
        exec (.fwData t q p fails) s = .next ((w.putSession { x with data := x.data ++ b }).finish s.nextId stDONE 0)) ∧
      (∀ x v st, u.boot.session = some x → leAt k 36 4 = x.data.length → leAt k 36 4 + leAt k 40 4 ≤ x.size →
        u.areaCheck t.val (leAt k 24 8) (leAt k 32 2) (leAt k 34 2) (leAt k 40 4) false = (some st, v) →
        exec (.fwData t q p fails) s = .next (v.fail s.nextId st)) ∧
      (∀ x v w st, u.boot.session = some x → leAt k 36 4 = x.data.length → leAt k 36 4 + leAt k 40 4 ≤ x.size →
        u.areaCheck t.val (leAt k 24 8) (leAt k 32 2) (leAt k 34 2) (leAt k 40 4) false = (none, v) →
        v.areaRead t.val (pSeq k) (leAt k 24 8) (leAt k 40 4) fails = (.error st, w) →
        exec (.fwData t q p fails) s = .next (w.fail s.nextId st))) ∧
    (s.rowAccepted t.val q.val 0x3E p false = true → ∀ u, u = s.rowTaken t.val q.val 0x3E p →
      (u.boot.session = none → exec (.fwCommit t q p) s = .next (u.fail s.nextId stREJ_HANDLE)) ∧
      (∀ x, u.boot.session = some x → u.commitCheck x = stDONE → exec (.fwCommit t q p) s =
        .next (((if u.closeSession.imagePasses 0 (2 * (x.region / 2)) then u.closeSession.slotTo (x.region / 2) 1
          else u.closeSession).slotRegs).finish s.nextId stDONE 0)) ∧
      (∀ x, u.boot.session = some x → u.commitCheck x ≠ stDONE →
        exec (.fwCommit t q p) s = .next (((u.closeSession.slotTo (x.region / 2) 0).slotRegs).fail s.nextId (u.commitCheck x)))) ∧
    (s.rowAccepted t.val q.val 0x3F p false = true →
      exec (.fwAbort t q p) s = .next ((s.rowTaken t.val q.val 0x3F p).closeSession.finish s.nextId stDONE 0))) ∧
  (∀ (s : State) (t : Tenant) (q : Queue) (p : List Byte),
    (s.rowAccepted t.val q.val 0x34 p false = true → ∀ u n, u = s.rowTaken t.val q.val 0x34 p → n = leAt (rowPacket 0x34 p) 24 1 →
      (u.ticksOpen = true → exec (.calRun t q p) s = .next (u.fail s.nextId stREJ_BUSY)) ∧
      (u.ticksOpen = false → ∀ v w, v = (u.modCmd s.nextId fun (c : Cmd) => { c with phase := .running }) →
        w = (({ v with boot := { v.boot with calRun := some ⟨s.nextId, n, v.boot.calVal⟩ } } : State).set F.CAL_STATUS_BUSY 1).set
          F.CAL_STATUS_NOFIT (b2n (n &&& 11 != 0)) →
        ∀ x, x = (if bit n 0 then (List.range 12).foldl (fun (s : State) k => if s.portActive k then s.retrain k else s) w else w) →
        exec (.calRun t q p) s = .next (if bit n 2 then (x.ethLink 0 false).ethLink 1 false else x))) ∧
    (∀ r f ports settled c, s.boot.calRun = some r → s.cmd? r.cmd = some c →
      f.toNat &&& r.scope &&& (63 - s.calSkips r.scope ports settled) = 0 →
      ∃ u : State, exec (.calRunComplete f ports settled) s = .next (u.finish r.cmd stDONE 0) ∧ u.boot.calRun = none ∧ u.get F.CAL_STATUS_BUSY = 0 ∧
        u.get F.CAL_LAST_SCOPE = r.scope % 2 ^ F.CAL_LAST_SCOPE.n ∧ u.get F.CAL_LAST_FAILED = 0 ∧ u.cmds = s.cmds) ∧
    (∀ r f ports settled c, s.boot.calRun = some r → s.cmd? r.cmd = some c →
      f.toNat &&& r.scope &&& (63 - s.calSkips r.scope ports settled) ≠ 0 →
      ∃ u : State, exec (.calRunComplete f ports settled) s = .next ((u.stick F.CAL_FAIL_FAIL).internalFail r.cmd) ∧
        u.boot.calRun = none ∧ u.get F.CAL_STATUS_BUSY = 0 ∧
        u.get F.CAL_LAST_FAILED = (f.toNat &&& r.scope &&& (63 - s.calSkips r.scope ports settled)) % 2 ^ F.CAL_LAST_FAILED.n ∧
        u.cmds = s.cmds) ∧
    (∀ f ports settled, s.boot.calRun = none → exec (.calRunComplete f ports settled) s = .next s) ∧
    (s.rowAccepted t.val q.val 0x35 p false = true → ∃ u : State, exec (.calSave t q p) s = .next (u.finish s.nextId stDONE 0) ∧
      ((s.rowTaken t.val q.val 0x35 p).userCal = none → u.get F.CAL_USER_SEQ = 1) ∧
      (u.boot.cal0 = (s.rowTaken t.val q.val 0x35 p).boot.cal0 ∨ u.boot.cal1 = (s.rowTaken t.val q.val 0x35 p).boot.cal1)) ∧
    (s.rowAccepted t.val q.val 0x36 p false = true → ∃ u : State, exec (.restoreFactory t q p) s = .next (u.finish s.nextId stDONE 0) ∧
      u.boot.cal0 = none ∧ u.boot.cal1 = none ∧ u.get F.CAL_STATUS_USER = 0 ∧ u.get F.CAL_STATUS_RUN = 0 ∧ u.get F.CAL_USER_SEQ = 0))

/-- PWR_REQUEST, ATTEST_QUOTE, SAFE_CONFIG, CF_WORK_START (R30, R222, R225, R470): a state request that may enter drains first, and
another ends with the status of R219; a quote is written to its area and ends DONE with its length, else with the status of what fails;
entries within their table are applied, where the table can be read (a refused area ends it with REJ_HANDLE, a failed read with
FAULT_INTERNAL: the model's choice, log entry 90); CF takes a waiting plan, TICKED commands' plans first and of one rank the oldest
(the model's choice, log entry 88), before a waiting command, and nothing while a plan is being computed. -/
def Obligations.DeviceServicesTakeEffect : Prop :=
  ∀ (s : State) (t : Tenant) (q : Queue) (p : List Byte) (fails : Bool),
    (s.rowAccepted t.val q.val 0x30 p false = true → ∀ u n, u = s.rowTaken t.val q.val 0x30 p → n = leAt (rowPacket 0x30 p) 24 1 →
      (∀ st l, u.pwrRefusal n = some st → l = u.get F.SEC_DBG_LEVEL → exec (.pwrRequest t q p) s =
        .next ((if st = stREJ_PERM then u.debugTrace 5 l l else u).fail s.nextId st)) ∧
      (u.pwrRefusal n = none → ∃ v : State, exec (.pwrRequest t q p) s = .next v ∧ v.pwr.entry = some (n, some s.nextId) ∧
        v.pwr.entryAt = u.cad.time ∧ v = { u with pwr := v.pwr, cmds := v.cmds })) ∧
    (s.rowAccepted t.val q.val 0x38 p fails = true → ∀ u k, u = s.rowTaken t.val q.val 0x38 p → k = rowPacket 0x38 p →
      (u.dead = true → exec (.attestQuote t q p fails) s = .next (u.fail s.nextId stREJ_PERM)) ∧
      (u.dead = false → leAt k 68 2 < 4096 → exec (.attestQuote t q p fails) s = .next (u.fail s.nextId stREJ_BOUNDS)) ∧
      (u.dead = false → 4096 ≤ leAt k 68 2 → (fails && daSpace (leAt k 56 8) == 4) = false → ∀ v w,
        u.areaCheck t.val (leAt k 56 8) (leAt k 64 2) (leAt k 66 2) (leAt k 68 2) true = (none, v) →
        v.areaWrite t.val (leAt k 56 8) (v.evidence t.val (slice k 24 32)) = some w →
        exec (.attestQuote t q p fails) s = .next ((w.modCmd s.nextId fun (c : Cmd) =>
          { c with bytes := (v.evidence t.val (slice k 24 32)).length }).finish s.nextId stDONE 0)) ∧
      (u.dead = false → 4096 ≤ leAt k 68 2 → ∀ v st,
        u.areaCheck t.val (leAt k 56 8) (leAt k 64 2) (leAt k 66 2) (leAt k 68 2) true = (some st, v) →
        exec (.attestQuote t q p fails) s = .next (v.fail s.nextId st)) ∧
      (u.dead = false → 4096 ≤ leAt k 68 2 → ∀ v,
        u.areaCheck t.val (leAt k 56 8) (leAt k 64 2) (leAt k 66 2) (leAt k 68 2) true = (none, v) →
        (fails && daSpace (leAt k 56 8) == 4) = true ∨ v.areaWrite t.val (leAt k 56 8) (v.evidence t.val (slice k 24 32)) = none →
        exec (.attestQuote t q p fails) s = .next (v.fail s.nextId stFAULT_LINK))) ∧
    (s.rowAccepted t.val q.val 0x40 p fails = true → ∀ u k, u = s.rowTaken t.val q.val 0x40 p → k = rowPacket 0x40 p →
      (entryRangeOk (leAt k 24 1) (leAt k 26 2) (leAt k 28 2) = false →
        exec (.safeConfig t q p fails) s = .next (u.fail s.nextId stREJ_BOUNDS)) ∧
      (entryRangeOk (leAt k 24 1) (leAt k 26 2) (leAt k 28 2) = true → leAt k 28 2 = 0 →
        exec (.safeConfig t q p fails) s = .next (u.fail s.nextId stDONE)) ∧
      (entryRangeOk (leAt k 24 1) (leAt k 26 2) (leAt k 28 2) = true → leAt k 28 2 ≠ 0 → ∀ v st,
        u.areaCheck t.val (leAt k 32 8) (leAt k 40 2) (leAt k 42 2) (leAt k 28 2 * entrySize (leAt k 24 1)) false = (some st, v) →
        exec (.safeConfig t q p fails) s = .next (v.fail s.nextId stREJ_HANDLE)) ∧
      (entryRangeOk (leAt k 24 1) (leAt k 26 2) (leAt k 28 2) = true → leAt k 28 2 ≠ 0 → ∀ v w st,
        u.areaCheck t.val (leAt k 32 8) (leAt k 40 2) (leAt k 42 2) (leAt k 28 2 * entrySize (leAt k 24 1)) false = (none, v) →
        v.areaRead t.val (pSeq k) (leAt k 32 8) (leAt k 28 2 * entrySize (leAt k 24 1)) fails = (.error st, w) →
        exec (.safeConfig t q p fails) s = .next (w.internalFail s.nextId)) ∧
      (entryRangeOk (leAt k 24 1) (leAt k 26 2) (leAt k 28 2) = true → leAt k 28 2 ≠ 0 → ∀ v w b,
        u.areaCheck t.val (leAt k 32 8) (leAt k 40 2) (leAt k 42 2) (leAt k 28 2 * entrySize (leAt k 24 1)) false = (none, v) →
        v.areaRead t.val (pSeq k) (leAt k 32 8) (leAt k 28 2 * entrySize (leAt k 24 1)) fails = (.ok b, w) →
        exec (.safeConfig t q p fails) s = .next (w.safeApply s.nextId (leAt k 24 1) (leAt k 26 2) (leAt k 28 2) b))) ∧
    ((s.boot.phase = .run ∨ s.boot.phase = .recovery) → (∀ j ∈ s.planJobs, j.started = false) →
      (∀ j, s.planJobs.find? (·.ticked) = some j → exec (.cfWorkStart fails) s =
        .next { s with planJobs := s.planJobs.map fun (k : PlanJob) => if k = j then { k with started := true } else k }) ∧
      (∀ j l, s.planJobs.find? (·.ticked) = none → s.planJobs = j :: l → exec (.cfWorkStart fails) s =
        .next { s with planJobs := s.planJobs.map fun (k : PlanJob) => if k = j then { k with started := true } else k }) ∧
      (s.planJobs = [] → s.cf.find? (s.acceptable ·) = none → exec (.cfWorkStart fails) s = .next s) ∧
      (∀ id, s.planJobs = [] → s.cf.find? (s.acceptable ·) = some id → exec (.cfWorkStart fails) s = .next (s.cfAccept id fails))) ∧
    ((∃ j ∈ s.planJobs, j.started = true) → exec (.cfWorkStart fails) s = .next s)

/-- MOVE, MOVE_PLAIN, GATHER_PAGES, SCATTER_PAGES, CHAIN, SHORT_WRITE, SHORT_COPY (R28, R161, R163, R184, R186, R198, R202, R208, R213, R233, R234,
R321): a packet of a queue that decodes nothing, or whose marks hold it, changes nothing; a packet whose checks pass is decoded by its opcode's own rules; a command that these end keeps its end, and another joins the locked
sequence its marks name and starts where its start condition holds. A header that fails ends the command with REJ_FORMAT and the
byte at fault. -/
def Obligations.EngineRowsDecodeJoinAndStart : Prop :=
  ∀ (s : State) (t : Tenant) (q : Queue) (p : List Byte) (fails : Bool),
    (s.rowPasses t.val q.val 0x10 p fails = true → exec (.move t q p fails) s =
      .next (((s.rowDecoded t.val q.val 0x10 p).decodeMove s.nextId).joinStart s.nextId fails)) ∧
    (s.rowPasses t.val q.val 0x11 p fails = true → exec (.movePlain t q p fails) s =
      .next (((s.rowDecoded t.val q.val 0x11 p).decodeMove s.nextId).joinStart s.nextId fails)) ∧
    (s.rowPasses t.val q.val 0x12 p fails = true → exec (.gatherPages t q p fails) s =
      .next (((s.rowDecoded t.val q.val 0x12 p).decodeMove s.nextId).joinStart s.nextId fails)) ∧
    (s.rowPasses t.val q.val 0x13 p fails = true → exec (.scatterPages t q p fails) s =
      .next (((s.rowDecoded t.val q.val 0x13 p).decodeMove s.nextId).joinStart s.nextId fails)) ∧
    (s.rowPasses t.val q.val 0x14 p fails = true → exec (.chain t q p fails) s =
      .next (((s.rowDecoded t.val q.val 0x14 p).decodeChain s.nextId).joinStart s.nextId fails)) ∧
    (s.rowPasses t.val q.val 0x18 p fails = true → exec (.shortWrite t q p fails) s =
      .next (((s.rowDecoded t.val q.val 0x18 p).decodeAwl s.nextId).joinStart s.nextId fails)) ∧
    (s.rowPasses t.val q.val 0x19 p fails = true → exec (.shortCopy t q p fails) s =
      .next (((s.rowDecoded t.val q.val 0x19 p).decodeAwl s.nextId).joinStart s.nextId fails)) ∧
    (∀ i op, (i, op) ∈ [(Instr.move t q p fails, 0x10), (.movePlain t q p fails, 0x11), (.gatherPages t q p fails, 0x12),
        (.scatterPages t q p fails, 0x13), (.chain t q p fails, 0x14), (.shortWrite t q p fails, 0x18), (.shortCopy t q p fails, 0x19)] →
      (s.decodeHeld t.val q.val = true ∨ s.marksOk t.val q.val (rowPacket op p) fails = false → exec i s = .next s) ∧
      (∀ b, s.decodeHeld t.val q.val = false → s.marksOk t.val q.val (rowPacket op p) fails = true →
        s.headerCheck t.val q.val (rowPacket op p) = some b →
        exec i s = .next (s.issueBad t.val q.val (rowPacket op p) (2 ^ 31 + b)))) ∧
    (∀ (d : State) id c, d.cmd? id = some c → (c.phase = .ended → d.joinStart id fails = d) ∧
      (c.phase ≠ .ended → c.node = none → ∀ e, (d.seqJoin id).cmd? id = some e → (d.seqJoin id).seqBroken e = none →
        d.joinStart id fails = if (d.seqJoin id).mayStart e then (d.seqJoin id).startNow id fails else d.seqJoin id))

/-- METADATA_READ_COMPLETE, DEFERRED_DISPATCH, COMMAND_START, TIMED_LAUNCH, COMMAND_ACTIVATE (R63, R64, R189, R202, R203, R229, R231, R236,
R255): a page list or stage table that the host does not serve ends its command, one that is served lets it go on with the checks that
follow; a deferred command goes to an engine of its mask that is on and has room, or onto the Awl path; a command starts when its
condition holds; a launch time that rack time reaches starts its command, an unticked engine command into the run list where nothing is
late; a command enters an active set that has a place and room for it when it is first of its rank. -/
def Obligations.CommandsReachTheirEngines : Prop :=
  ∀ (s : State) (id : Nat) (c : Cmd) (fails : Bool), s.cmd? id = some c → ∀ goOn dispatched : State → State,
    (∀ v, goOn v = (match v.cmd? id with
      | some d => if v.mayStart d && d.phase == .runList then v.startNow id false else v
      | none => v)) →
    (∀ v, dispatched v = (match v.cmd? id with
      | some d => if v.mayStart d && d.phase != .front then v.startNow id false else v
      | none => v)) →
    (c.phase = .metadata → c.op ≠ 0x14 →
      (∀ st u, (s.modCmd id fun (x : Cmd) => { x with phase := .front }).readList c.tenant c.pkt fails = (.error st, u) →
        exec (.metadataReadComplete id fails) s = .next (goOn (u.fail id st))) ∧
      (∀ pages u, (s.modCmd id fun (x : Cmd) => { x with phase := .front }).readList c.tenant c.pkt fails = (.ok pages, u) →
        exec (.metadataReadComplete id fails) s = .next (goOn ((u.modCmd id fun (x : Cmd) =>
          { x with moves := x.moves.map fun (m : Move) => { m with pages := pages } }).moveReady id)))) ∧
    (c.phase = .metadata → c.op = 0x14 →
      (∀ st u, (s.modCmd id fun (x : Cmd) => { x with phase := .front }).areaRead c.tenant c.seqNo (leAt c.pkt 32 8)
          (256 * leAt c.pkt 24 1) fails = (.error st, u) →
        exec (.metadataReadComplete id fails) s = .next (goOn (u.fail id st))) ∧
      (∀ l u ms v, (s.modCmd id fun (x : Cmd) => { x with phase := .front }).areaRead c.tenant c.seqNo (leAt c.pkt 32 8)
          (256 * leAt c.pkt 24 1) fails = (.ok l, u) →
        (∀ i, i < leAt c.pkt 24 1 → stageFault ((recordsOf l (leAt c.pkt 24 1)).getD i []) i (leAt c.pkt 24 1) = none) →
        u.stages c.tenant (recordsOf l (leAt c.pkt 24 1)) fails (u.streamOf c.tenant c.queue (pStream c.pkt)).isSome 0 none [] = (.ok ms, v) →
        exec (.metadataReadComplete id fails) s =
          .next (goOn ((v.modCmd id fun (x : Cmd) => { x with moves := ms }).moveReady id)))) ∧
    (c.phase ≠ .metadata → (s.mayStart c && c.phase == .runList) = false → exec (.metadataReadComplete id fails) s = .next s) ∧
    (c.phase = .deferred → isEngineOp c.op = true → c.placed = false →
      (∀ e, s.pick (s.maskOf c) (s.prefOf c) = some e → exec (.deferredDispatch id) s = .next (dispatched (s.place id e))) ∧
      (s.pick (s.maskOf c) (s.prefOf c) = none → exec (.deferredDispatch id) s = .next s)) ∧
    (c.phase = .deferred → isEngineOp c.op = true → c.placed = true → exec (.deferredDispatch id) s = .next (dispatched (s.setCmd
      { c with phase := if (s.runList c.engine).length < 64 then .runList else .deferred }))) ∧
    (c.phase = .deferred → isAwlOp c.op = true → exec (.deferredDispatch id) s = .next (dispatched (s.awlJoin id))) ∧
    (s.mayStart c = true → exec (.commandStart id fails) s = .next (s.startNow id fails)) ∧
    (s.mayStart c = false → c.started = true → c.op = 0x29 → c.phase = .front → exec (.commandStart id fails) s = .next (s.launchGraph id)) ∧
    (s.mayStart c = false → ¬(c.started = true ∧ c.op = 0x29 ∧ c.phase = .front) → exec (.commandStart id fails) s = .next s) ∧
    (c.phase ≠ .timed ∨ s.launchHeld c = true → exec (.timedLaunch id) s = .next s) ∧
    (isEngineOp c.op = true → c.phase = .timed → s.launchHeld c = false → c.admTick = none →
      (s.advance c.launch).launchOk c = true → (s.advance c.launch).startable c = true →
      exec (.timedLaunch id) s = .next (((s.advance c.launch).markStarted c).joinRun id)) ∧
    (isEngineOp c.op = false → isAwlOp c.op = false → c.phase = .timed → s.launchHeld c = false → ∀ u v,
      u = s.advance c.launch →
      v = (if c.decodedAt + 1000 * u.get F.CAD_LAUNCH_LEAD_US ≤ c.launch ∧ u.startable c = true then u else u.launchLate id).modCmd id
        (fun (x : Cmd) => { x with phase := .front }) →
      ∀ d, v.cmd? id = some d → exec (.timedLaunch id) s = .next (if v.mayStart d then v.startNow id false else v)) ∧
    (s.mayEnter c = true → exec (.commandActivate id) s = .next ({ s.setCmd { s.reserved c with phase := .active, activeOrder := s.nextOrder + 1 }
      with nextOrder := s.nextOrder + 2 } : State)) ∧
    (s.mayEnter c = false → exec (.commandActivate id) s = .next s) ∧
    (16 ≤ (s.activeOn c.engine).length → s.mayEnter c = false)

/-- ENGINE_CHUNK_DECISION, AWL_OPERATION, SIG_AFTER_SEND, COMMAND_COMPLETE, STARVE_TIMEOUT (R165, R170, R187, R241, R246, R254, R255,
R419, Table 11.3): an engine that has no command with a ready chunk serves nothing, and one that has serves the chunk of the command its
regime picks; what a decision asks for has landed at the next one (the model's choice, log entry 84). The Awl path performs the first
operation of its order whose source is at hand, or asks for it. A drained command announces its data once, and ends when announced,
acknowledged and, where gated, passed. A started unticked command without a chunk for ENG_STARVE_US sets STARVE. -/
def Obligations.DataIsServedThenAnnouncedThenRecorded : Prop :=
  ∀ (s : State) (e : Engine) (c : Cmd) (m : Move) (fails : Bool) (cut : Fin 17),
    (∀ u, u = ((s.landed e.val).activeOn e.val).foldl (fun (u : State) (d : Cmd) => u.issueReads d.id) (s.landed e.val) →
      ∃ v : State, v = { u with streams := v.streams, engines := v.engines, regs := v.regs } ∧
        (∀ d, v.pickChunk e.val (v.engineSt e.val) ((u.activeOn e.val).filter u.chunkReady) = some d → ∀ w : State,
          w = ((v.serveChunk d fails cut.val).activeOn e.val).foldl (fun (u : State) (d : Cmd) => u.issueReads d.id)
            (v.serveChunk d fails cut.val) →
          exec (.engineChunkDecision e fails cut) s = .next (w.streamsReady w.readyStreams).csrSettle) ∧
        (v.pickChunk e.val (v.engineSt e.val) ((u.activeOn e.val).filter u.chunkReady) = none →
          exec (.engineChunkDecision e fails cut) s = .next v.csrSettle)) ∧
    (s.awlOrder.find? (fun (x : Cmd) => match x.cur with | some m => s.awlReady x m || x.asked.isEmpty | none => false) = some c →
      c.cur = some m →
      (s.awlReady c m = true → exec (.awlOperation fails) s = .next (s.awlPerform c m fails).csrSettle) ∧
      (s.awlReady c m = false → exec (.awlOperation fails) s = .next (s.awlAsk c m).csrSettle)) ∧
    (s.cmd? c.id = some c →
      (∀ g, c.sigAfter = some g → c.announceable = true → c.signalled = false →
        ¬(g.op = 4 ∧ s.isLocal g.chip = true ∧ s.tenantHeld c.tenant = true) →
        exec (.sigAfterSend c.id) s = .next ((s.setCmd { c with signalled := true }).sigIssue { c with signalled := true } g true)) ∧
      (∀ g, c.sigAfter = some g → g.op = 4 → s.isLocal g.chip = true → s.tenantHeld c.tenant = true →
        exec (.sigAfterSend c.id) s = .next s) ∧
      (c.signalled = true → exec (.sigAfterSend c.id) s = .next s) ∧
      (c.phase ≠ .drained → exec (.commandComplete c.id) s = .next s) ∧
      (c.phase = .drained → c.gate = true → c.verdict = some false → exec (.commandComplete c.id) s = .next (s.fail c.id stABORT_SAFETY)) ∧
      (c.announceable = true → ((∀ g, c.sigAfter = some g → g.op = 0) ∨ c.signalled = true) → s.vc1Open c.id = [] →
        exec (.commandComplete c.id) s = .next (s.fail c.id stDONE)) ∧
      (c.phase = .active ∨ (c.phase = .runList ∧ c.started = true) → s.rankOf c = 3 → ∃ u : State,
        exec (.starveTimeout c.id) s = .next (u.stick F.ENG_STARVE_STARVE) ∧
        u = { s.advance (c.servedAt + 1000 * s.get F.ENG_STARVE_US) with cmds := u.cmds }))

/-- IRQ_MODERATION_TIMER, ENGINE_RESET, ENGINE_RESET_COMPLETE, ENGINE_OFFLINE, ENG_SPART_WRITE (R12, R180, R223, R259 to R261): with
records pending for TP_IRQ.TIME vector 0 leaves and none is pending; a reset of an engine marks it as resetting, ends an update session,
drops its grants, its latches and what its commands still had to send, and ends those commands with ABORT_RESET; it completes once no tag
of the engine is out, and a write of RESET in that cycle starts another; OFFLINE is as written; a stream partition is taken where it
meets no other, fits and strands no command's stream. -/
def Obligations.EnginesResetAndPartitionsAreTaken : Prop :=
  ∀ (s : State) (t : Tenant) (e : Engine) (v : Bool) (w : Word) (base count : Nat),
    base = bitsOf w.toNat 0 6 → count = bitsOf w.toNat 16 7 →
    (s.get (F.TP_IRQ_TIME t.val) ≠ 0 → (s.tenantSt t.val).irqCount ≠ 0 → ∃ u : State, exec (.irqModerationTimer t) s = .next (u.msix t.val 0) ∧
      (u.tenantSt t.val).irqCount = 0 ∧
      u = { s.advance ((s.tenantSt t.val).irqOldest + 1000 * s.get (F.TP_IRQ_TIME t.val)) with tenants := u.tenants }) ∧
    (s.get (F.TP_IRQ_TIME t.val) = 0 ∨ (s.tenantSt t.val).irqCount = 0 → exec (.irqModerationTimer t) s = .next s) ∧
    (s.blockOpen = true → (s.engineSt e.val).resetting = false → ∃ u : State,
      u.get (F.ENG_ECTRL_RESET e.val) = 1 ∧ (u.engineSt e.val).resetting = true ∧ u.boot.session = none ∧ u.cmds = s.cmds ∧
        (∀ l ∈ u.latches, l.engine ≠ e.val) ∧
        exec (.engineReset e) s = .next ((s.cmds.filter (·.onEngine e.val)).foldl (fun (x : State) (c : Cmd) =>
          ((x.dropWaiting c.id).breakSeqOf c stABORT_RESET).fail c.id stABORT_RESET) u)) ∧
    (s.blockOpen = true → (s.engineSt e.val).resetting = true → exec (.engineReset e) s = .next s) ∧
    (s.blockOpen = false → exec (.engineReset e) s = .next s ∧ exec (.engineOffline e v) s = .next s ∧ exec (.engSpartWrite t w) s = .next s) ∧
    ((s.engineSt e.val).resetting = true → (∀ r ∈ s.rein.reqs, r.engine ≠ e.val) → ∃ u : State,
      u = (s.setEngine e.val { s.engineSt e.val with resetting := false }).set (F.ENG_ECTRL_RESET e.val) 0 ∧
      exec (.engineResetComplete e false) s = .next u ∧
      exec (.engineResetComplete e true) s = .next (if s.blockOpen then u.engineReset e.val else u)) ∧
    ((∃ r ∈ s.rein.reqs, r.engine = e.val) → exec (.engineResetComplete e false) s = .next s) ∧
    (s.blockOpen = true → exec (.engineOffline e v) s = .next (s.set (F.ENG_ECTRL_OFFLINE e.val) (if v then 1 else 0))) ∧
    (s.blockOpen = true → 64 < base + count ∨
        (∃ u, u < 16 ∧ u ≠ t.val ∧ rangesMeet base count (s.get (F.ENG_SPART_BASE u)) (s.get (F.ENG_SPART_COUNT u)) = true) ∨
        (∃ c ∈ s.cmds, c.tenant = t.val ∧ isEngineOp c.op = true ∧ c.phase ≠ .ended ∧ c.stream < 4096 ∧
          ¬(64 * base ≤ c.stream ∧ c.stream < 64 * (base + count))) →
      exec (.engSpartWrite t w) s = .next (s.stick F.ENG_CFG_CFG)) ∧
    (s.blockOpen = true → base + count ≤ 64 →
      (∀ c ∈ s.cmds, c.tenant = t.val → isEngineOp c.op = true → c.phase ≠ .ended → c.stream < 4096 →
        64 * base ≤ c.stream ∧ c.stream < 64 * (base + count)) →
      (∀ u, u < 16 → u ≠ t.val → rangesMeet base count (s.get (F.ENG_SPART_BASE u)) (s.get (F.ENG_SPART_COUNT u)) = false) →
      ∃ u : State, exec (.engSpartWrite t w) s = .next u ∧ u.get (F.ENG_SPART_BASE t.val) = base ∧ u.get (F.ENG_SPART_COUNT t.val) = count ∧
        u = { s with regs := u.regs, streams := u.streams })

/-- PLAN_COMPUTE_COMPLETE, PRI_PART_WRITE, PRI_INVAL (R143, R144, R147, R148): a finished computation leaves the list of computations,
writes its plan into its entry, or into a new one where there is room, unless its partition was emptied or changed, and loads it into
every command that waits for it; a partition is taken where it meets no other, fits and holds what is pinned; an invalidation keeps the
pinned entries of its tenants and every entry of the others. ARBITER_DECISION, LOCKED_BOUND_EXPIRY (R262, R263, R265 to R272): at a lane
that is there, a VC3 flit that a Rein egress has room for takes the beat; a lane without a holder is granted to the winner of the
requests that take part; an ordinary holder keeps its lane while it has beats, its grant is short of its maximum and nothing of higher
rank is there, and else loses it to the winner, its progress kept; a locked holder keeps it for its sequence's 64 beats; a locked
sequence that reaches a bound is ended. -/
def Obligations.PlansAndLanesFollowTheirArbiters : Prop := 
  (∀ (s : State) (t : Tenant) (w : Word) (base count : Nat), base = bitsOf w.toNat 0 9 → count = bitsOf w.toNat 16 9 →
    (∀ j, s.planJobs.find? (·.started) = some j → ∀ (v : State) (load : State → State), v = { s with planJobs := s.planJobs.erase j } →
      (∀ x, load x = j.waiters.foldl (fun (x : State) (id : Nat) => x.modCmd id fun (c : Cmd) =>
        { c with moves := c.moves.map (Move.hasPlan [j.sig]) }) x) →
      (j.stale = true → exec .planComputeComplete s = .next (load v)) ∧
      (∀ p, j.stale = false → v.planAt j.tenant j.sig = some p → exec .planComputeComplete s = .next (load { v with
        plans := v.plans.map fun (x : PlanEntry) => if x.index = p.index then { x with ready := true } else x
        mem := v.mem.putPlan p.index j.sig })) ∧
      (j.stale = false → v.planAt j.tenant j.sig = none →
        exec .planComputeComplete s = .next (load ((v.planPut j.tenant j.sig [] true).getD v)))) ∧
    ((∀ j ∈ s.planJobs, j.started = false) → exec .planComputeComplete s = .next s) ∧
    (s.blockOpen = true → 256 < base + count ∨ 16 * count < s.planPinned t.val ∨
        (∃ u, u < 16 ∧ u ≠ t.val ∧ rangesMeet base count (s.get (F.PRI_PART_BASE u)) (s.get (F.PRI_PART_COUNT u)) = true) →
      exec (.priPartWrite t w) s = .next (s.stick F.PRI_CFG_CFG)) ∧
    (s.blockOpen = true → base + count ≤ 256 → s.planPinned t.val ≤ 16 * count →
      (∀ u, u < 16 → u ≠ t.val → rangesMeet base count (s.get (F.PRI_PART_BASE u)) (s.get (F.PRI_PART_COUNT u)) = false) →
      ∃ u : State, exec (.priPartWrite t w) s = .next u ∧ u.get (F.PRI_PART_BASE t.val) = base ∧ u.get (F.PRI_PART_COUNT t.val) = count ∧
        (∀ p ∈ s.plans, p.tenant ≠ t.val → p ∈ u.plans) ∧ u.cmds = s.cmds ∧
        u = { s with regs := u.regs, plans := u.plans, planJobs := u.planJobs, mem := u.mem }) ∧
    (s.blockOpen = true → ∃ u : State, exec (.priInval w) s = .next u ∧
      (∀ p, p ∈ u.plans ↔ p ∈ s.plans ∧ (p.tenant < 16 → bit w.toNat p.tenant = true → p.pins ≠ [])) ∧
      u = { s with plans := u.plans, planJobs := u.planJobs }) ∧
    (s.blockOpen = false → exec (.priPartWrite t w) s = .next s ∧ exec (.priInval w) s = .next s)) ∧
  (∀ (s : State) (lane : Nat) (idle : Bool) (reqs : List ArbReq) (t : Tenant) (q : Fin 72),
    (s.laneHere lane = false → exec (.arbiterDecision lane idle reqs) s = .next s) ∧
    (s.laneHere lane = true → ∀ a u all rs, a = arbOf lane → u = (s.meetSeqs a reqs).noteAsked a lane reqs →
      all = reqs.filter (fun (r : ArbReq) => u.takesPart a lane r) → rs = (if a == .rein then all.filter (·.vc != 3) else all) →
      (∀ r, a = .rein → (u.lane lane).vc3Room = true → oldest (all.filter (·.vc == 3)) = some r →
        exec (.arbiterDecision lane idle reqs) s = .next (u.beat lane a r.who 3 none)) ∧
      ((a = .rein → (u.lane lane).vc3Room = true → oldest (all.filter (·.vc == 3)) = none) →
        ((u.lane lane).holder = none → ∀ v, v = u.setLane lane { u.lane lane with holder := none, beats := 0, lockedBy := none } →
          (∀ r, v.winner a (v.lane lane) rs = some r → exec (.arbiterDecision lane idle reqs) s = .next (v.grant lane a r)) ∧
          (v.winner a (v.lane lane) rs = none → exec (.arbiterDecision lane idle reqs) s = .next v)) ∧
        (∀ h, (u.lane lane).holder = some h → (u.lane lane).lockedBy = none → idle = false → (u.lane lane).beats < a.maxGrant →
          ¬(a = .sysPort ∧ (u.lane lane).credit.getD h 0 = 0) → ∀ up,
          up = rs.filter (fun (r : ArbReq) => preempts (u.rankAt a r).1 (u.lane lane).rank) →
          (u.winner a (u.lane lane) up = none → exec (.arbiterDecision lane idle reqs) s = .next (u.holdOn lane a h rs none)) ∧
          (∀ r, u.winner a (u.lane lane) up = some r → exec (.arbiterDecision lane idle reqs) s =
            .next (((u.setLane lane { u.lane lane with preempted := (u.lane lane).preempted ++ [(h, (u.lane lane).beats)] }).bump
              F.ARB_PREEMPT 1).grant lane a r))) ∧
        (∀ h, (u.lane lane).holder = some h → (u.lane lane).lockedBy = none → idle = true → exec (.arbiterDecision lane idle reqs) s =
          .next ((u.setLane lane { u.lane lane with kept := (u.lane lane).kept.filter (·.1 != h) ++ [(h, (u.lane lane).beats)] }).decide_
            lane a ((rs.filter fun (r : ArbReq) => !r.mid).filter (·.who != h)))) ∧
        (∀ h x, (u.lane lane).holder = some h → (u.lane lane).lockedBy = some x → u.seqOpen x = true →
          (64 ≤ u.seqBeats x lane → exec (.arbiterDecision lane idle reqs) s = .next u) ∧
          (u.seqBeats x lane < 64 → idle = false → exec (.arbiterDecision lane idle reqs) s = .next (u.holdOn lane a h rs (some x)))))) ∧
    (∀ live x o, live = s.lockSeqs.filter (fun (x : LockSeq) => x.openedAt.isSome && x.broken.isNone) →
      live.find? (fun (x : LockSeq) => x.tenant == t.val && x.queue == q.val) = some x → x.openedAt = some o →
      ((∀ y ∈ live, y.endsBefore x = false) → exec (.lockedBoundExpiry t q false) s = .next ((s.advance (o + 2000)).endByBound x false)) ∧
      ((∃ p ∈ x.lanes, 64 ≤ p.2) → exec (.lockedBoundExpiry t q true) s = .next (s.endByBound x true)) ∧
      ((∀ p ∈ x.lanes, p.2 < 64) → exec (.lockedBoundExpiry t q true) s = .next s)))

/-- COUNTER_SET, COUNTER_ADD, COUNTER_SUB (R281, R283 to R285, R287, R6): pool counter 64 × BASE + i takes the value written, the sum, or
the difference, each saturated, and then the WAITs of the tenant that it satisfies complete; with none that is satisfied, nothing else
follows. An index beyond the tenant's range is an unmapped access. -/
def Obligations.CountersTakeTheirOperations : Prop :=
  ∀ (s : State) (t : Tenant) (i : Nat) (v : Word),
    (s.pageOpen t.val = true → i < 64 * s.get (F.SYN_PART_COUNT t.val) → ∀ n, n = 64 * s.get (F.SYN_PART_BASE t.val) + i →
      (∃ u : State, exec (.counterSet t i v) s = .next (u.evalWaits t.val) ∧ u.cntVal n = v.toNat ∧
        (∀ m, m ≠ n → u.cntVal m = s.cntVal m) ∧ u = { s with sync := u.sync }) ∧
      (∃ u : State, exec (.counterAdd t i v) s = .next (u.evalWaits t.val) ∧ u.cntVal n = min 0xFFFFFFFF (s.cntVal n + v.toNat) ∧
        (∀ m, m ≠ n → u.cntVal m = s.cntVal m) ∧ u = { s with sync := u.sync, regs := u.regs }) ∧
      (∃ u : State, exec (.counterSub t i v) s = .next (u.evalWaits t.val) ∧ u.cntVal n = (s.cntVal n - v.toNat) % 2 ^ 32 ∧
        (∀ m, m ≠ n → u.cntVal m = s.cntVal m) ∧ u = { s with sync := u.sync, regs := u.regs })) ∧
    (s.pageOpen t.val = true → 64 * s.get (F.SYN_PART_COUNT t.val) ≤ i →
      exec (.counterSet t i v) s = .next (s.stick F.GLB_ERR_ACCESS) ∧ exec (.counterAdd t i v) s = .next (s.stick F.GLB_ERR_ACCESS) ∧
      exec (.counterSub t i v) s = .next (s.stick F.GLB_ERR_ACCESS)) ∧
    (s.pageOpen t.val = false →
      exec (.counterSet t i v) s = .next s ∧ exec (.counterAdd t i v) s = .next s ∧ exec (.counterSub t i v) s = .next s) ∧
    (∀ u : State, (∀ c ∈ u.cmds, c.tenant = t.val → c.waiting = true → u.waitHolds c = false) → u.evalWaits t.val = u) ∧
    (∀ (u : State) (c : Cmd), u.cmds = [c] → c.tenant = t.val → c.waiting = true → u.waitHolds c = true →
      u.evalWaits t.val = u.endWait c)

/-- BARRIER_ENABLE, BARRIER_DISABLE, SYN_PARTITION_WRITE (R282, R297, R302): a barrier is enabled with sense 0 where it is disabled,
has 1 to 4,096 participants and two different counters of the tenant; it is disabled where nothing waits at it; a partition is
taken where it meets no other, fits, and neither an enabled queue nor an object in use stands against it. WAIT_TIMEOUT,
BARRIER_WAIT_TIMEOUT, LOCK_ACQUIRE_TIMEOUT, LOCK_WAIT_EXPIRY, LOCK_BACKOFF_EXPIRY, LOCK_REAP (R211, R275 to R277, R289, R304,
R306): a waiting command whose time is over ends with ABORT_TIMEOUT; the oldest request queued at a home is answered busy; an acquire that ends gives back the local lock it took;
a requester tries again; a home frees a lock that another chip has held for more than 10 µs, and marks it BROKEN. -/
def Obligations.BarriersWaitsAndLocksFollowTheirConditions : Prop := 
  (∀ (s : State) (t : Tenant) (b a n : Nat) (w : Word) (k : Fin 3),
    (s.pageOpen t.val = true → s.poolBar t.val b = some n → a < 16384 →
      ((s.bar n).en = false → 1 ≤ (s.bar n).parts → (s.bar n).parts ≤ 4096 → (s.poolCnt t.val a).isSome = true →
        (s.poolCnt t.val (s.bar n).phaseIdx).isSome = true → a ≠ (s.bar n).phaseIdx → ¬(bit (s.bar n).notify 63 = true ∧ s.chip ≠ 63) →
        exec (.barrierEnable t b a) s = .next (s.setBar n { s.bar n with arriveIdx := a, en := true, sense := false })) ∧
      ((s.bar n).en = true ∨ (s.bar n).parts = 0 ∨ 4096 < (s.bar n).parts ∨ s.poolCnt t.val a = none ∨
          s.poolCnt t.val (s.bar n).phaseIdx = none ∨ a = (s.bar n).phaseIdx ∨ (bit (s.bar n).notify 63 = true ∧ s.chip ≠ 63) →
        exec (.barrierEnable t b a) s = .next (s.stick (F.TP_CFG_CFG t.val))) ∧
      ((s.bar n).en = false ∨ s.barHeld t.val b n = false → exec (.barrierDisable t b a) s = .next (s.setBar n { s.bar n with en := false, arriveIdx := a })) ∧
      ((s.bar n).en = true → s.barHeld t.val b n = true → exec (.barrierDisable t b a) s = .next (s.stick (F.TP_CFG_CFG t.val)))) ∧
    (s.pageOpen t.val = true → s.poolBar t.val b = none →
      exec (.barrierEnable t b a) s = .next (s.stick F.GLB_ERR_ACCESS) ∧ exec (.barrierDisable t b a) s = .next (s.stick F.GLB_ERR_ACCESS)) ∧
    (s.blockOpen = true → ∀ base count ob oc, base = bitsOf w.toNat 0 (partBase k.val t.val).n → count = bitsOf w.toNat 16 (partCount k.val t.val).n →
      ob = s.get (partBase k.val t.val) → oc = s.get (partCount k.val t.val) →
      (partTotal k.val < base + count ∨ (∃ q, q < 8 ∧ s.on (F.TP_Q_CTRL_EN t.val q) = true) ∨
          (∃ u, u < 16 ∧ u ≠ t.val ∧ rangesMeet base count (s.get (partBase k.val u)) (s.get (partCount k.val u)) = true) ∨
          (k.val = 1 ∧ ∃ p ∈ s.sync.bars, p.2.en = true ∧ (inPart 1 ob oc p.1 = true ∨ inPart 1 base count p.1 = true)) ∨
          (k.val = 2 ∧ ∃ p ∈ s.sync.locks, p.2.held = true ∧ (inPart 2 ob oc p.1 = true ∨ inPart 2 base count p.1 = true)) →
        exec (.synPartitionWrite k t w) s = .next (s.stick F.SYN_CFG_CFG)) ∧
      (base + count ≤ partTotal k.val → (∀ q, q < 8 → s.on (F.TP_Q_CTRL_EN t.val q) = false) →
        (∀ u, u < 16 → u ≠ t.val → rangesMeet base count (s.get (partBase k.val u)) (s.get (partCount k.val u)) = false) →
        (k.val = 1 → ∀ p ∈ s.sync.bars, p.2.en = true → inPart 1 ob oc p.1 = false ∧ inPart 1 base count p.1 = false) →
        (k.val = 2 → ∀ p ∈ s.sync.locks, p.2.held = true → inPart 2 ob oc p.1 = false ∧ inPart 2 base count p.1 = false) →
        ∃ u : State, exec (.synPartitionWrite k t w) s = .next u ∧ u.get (partBase k.val t.val) = base ∧ u.get (partCount k.val t.val) = count ∧
          u = { s with regs := u.regs, sync := u.sync }))) ∧
  (∀ (s : State) (id : Nat) (c : Cmd) (t : Tenant) (l n : Nat),
    (s.cmd? id = some c → ∀ d, c.deadline = some d →
      (c.waiting = true → exec (.waitTimeout id) s = .next ((s.advance d).fail id stABORT_TIMEOUT)) ∧
      (c.op = 0x22 → c.started = true → c.phase = .front →
        exec (.barrierWaitTimeout id) s = .next ((s.advance d).fail id stABORT_TIMEOUT))) ∧
    (s.cmd? id = some c → c.op = 0x23 → c.phase = .front →
      ∀ v u, v = s.advance (c.decodedAt + 1000 * lkTimeout c.pkt) →
        u = (if c.lockTry = .homeWait then v.releaseLock c.tenant (lkLock c.pkt) false else v) → exec (.lockAcquireTimeout id) s =
        .next (({ u with rein := { u.rein with reqs := u.rein.reqs.filter (fun (r : Req) => r.cmd != id) } } : State).breakSeq id stABORT_TIMEOUT)) ∧
    (s.cmd? id = some c → (c.op ≠ 0x23 ∨ c.phase ≠ .front → exec (.lockAcquireTimeout id) s = .next s) ∧
      (c.waiting = false → exec (.waitTimeout id) s = .next s) ∧ (c.op ≠ 0x22 → exec (.barrierWaitTimeout id) s = .next s)) ∧
    (s.cmd? id = some c → ∀ u, c.lockTry = .backoff u → exec (.lockBackoffExpiry id) s = .next ((s.advance u).tryAcquire c)) ∧
    (s.poolLock t.val l = some n →
      ((s.lock n).queue = [] → exec (.lockWaitExpiry t l) s = .next s) ∧
      (∀ w r, (s.lock n).queue = w :: r → ∃ (u : State) (m : Msg), exec (.lockWaitExpiry t l) s = .next (u.originate m) ∧
        u = (s.advance (w.since + 1000 * s.get F.ARB_LOCK_WAIT_US)).setLock n { s.lock n with queue := r } ∧
        m.vc = 2 ∧ m.mop = 0x23 ∧ m.dest = w.chip ∧ m.rtag = w.tag ∧ m.operand = l) ∧
      ((s.lock n).held = true → (s.lock n).holderChip ≠ s.chip → ∃ u : State, exec (.lockReap t l) s = .next (u.lockFreed t.val l n) ∧
        (u.lock n).held = false ∧ (u.lock n).broken = true ∧ (u.lock n).reaped = (s.lock n).reaped ++ [(s.lock n).holderChip] ∧
        u.get F.SYN_LREAP_LREAP = 1) ∧
      ((s.lock n).held = false ∨ (s.lock n).holderChip = s.chip → exec (.lockReap t l) s = .next s)))

/-- EVF_SET_WRITE, EVF_CLR_WRITE, GRAPH_RELEASE, NODE_DISPATCH, HELD_SET_APPLY, NODE_TIMEOUT, SCH_PART_WRITE (R311, R316, R321, R323,
R325, R326): a half of a flag word is set or cleared; a waiting launch is released at its time; the next node is dispatched as a
command; with no node held what waited applies; a node that is not ready in time ends with ABORT_TIMEOUT; a partition is taken
where it meets no other, fits, and the tenant has no graph. -/
def Obligations.GraphsRunByTheirFlags : Prop :=
  ∀ (s : State) (t : Tenant) (w : Fin 16) (h : Fin 2) (v : Word) (gid : BitVec 8) (i : Nat),
    (s.pageOpen t.val = false → exec (.evfSetWrite t w h v) s = .next s ∧ exec (.evfClrWrite t w h v) s = .next s) ∧
    (s.pageOpen t.val = true →
      exec (.evfSetWrite t w h v) s = .next (s.flagUpdate t.val w.val (v.toNat * 2 ^ (32 * h.val)) 0) ∧
      exec (.evfClrWrite t w h v) s = .next (s.flagUpdate t.val w.val 0 (v.toNat * 2 ^ (32 * h.val)))) ∧
    (∀ g l, s.graph? t.val gid.toNat = some g → g.launch = some l →
      (l.released = none → exec (.graphRelease t gid) s = .next ((s.advance l.base).releaseGraph t.val gid.toNat)) ∧
      (l.released ≠ none → exec (.graphRelease t gid) s = .next s)) ∧
    (∀ k u, s.nextNode = some (u, k) → exec .nodeDispatch s = .next (s.dispatchNode u k)) ∧
    (s.nextNode = none → exec .nodeDispatch s = .next s) ∧
    ((s.refillReady t.val).tenantHeld t.val = true → exec (.heldSetApply t) s = .next (s.refillReady t.val)) ∧
    ((s.refillReady t.val).tenantHeld t.val = false → exec (.heldSetApply t) s = .next ((s.refillReady t.val).applyAllHeld t.val)) ∧
    (∀ g l n r, s.graph? t.val gid.toNat = some g → g.launch = some l → g.nodes[i]? = some n → l.released = some r → n.st = .armed →
      ∃ (u : State) (c : Cmd), exec (.nodeTimeout t gid i) s = .next (u.endNode c (g.first + i)) ∧ c.status = stABORT_TIMEOUT ∧ c.tenant = g.tenant ∧
        c.queue = l.queue ∧ u.cad.time = (s.advance (r + 1000 * n.timeout)).cad.time ∧ u.mem = s.mem) ∧
    (∀ g, s.graph? t.val gid.toNat = some g → (∀ n, g.nodes[i]? = some n → n.st ≠ .armed) → exec (.nodeTimeout t gid i) s = .next s) ∧
    (s.graph? t.val gid.toNat = none → exec (.nodeTimeout t gid i) s = .next s ∧ exec (.graphRelease t gid) s = .next s) ∧
    (s.blockOpen = false → exec (.schPartWrite t v) s = .next s) ∧
    (s.blockOpen = true → ∀ base count, base = bitsOf v.toNat 0 8 → count = bitsOf v.toNat 16 9 →
      (256 < base + count ∨ (∃ g ∈ s.graphs, g.tenant = t.val) ∨
          (∃ u, u < 16 ∧ u ≠ t.val ∧ rangesMeet base count (s.get (F.SCH_PART_BASE u)) (s.get (F.SCH_PART_COUNT u)) = true) → exec (.schPartWrite t v) s = .next (s.stick F.SCH_CFG_CFG)) ∧
      (base + count ≤ 256 → (∀ g ∈ s.graphs, g.tenant ≠ t.val) →
        (∀ u, u < 16 → u ≠ t.val → rangesMeet base count (s.get (F.SCH_PART_BASE u)) (s.get (F.SCH_PART_COUNT u)) = false) →
        exec (.schPartWrite t v) s = .next ((s.set (F.SCH_PART_BASE t.val) base).set (F.SCH_PART_COUNT t.val) count)))

/-- PORT_ENABLE, TRAINING_STATE_ADVANCE, PARAM_EXCHANGE, DOWN_RETRY, TRAINING_BOUND_EXPIRY (R333, R334, R353, Table 12.2): an enabled port
in DISABLED goes to DETECT where the chip has an ID, and one that is disabled is lost; a training state moves to the next; at PARAM a peer with its own serial
number, another protocol, another chip ID and the same width comes up, and each other peer sends the port DOWN with its cause, and of two
with one chip ID the one with the higher serial number carries VC3 only; a
port that is DOWN and enabled begins again; a bound that expires sends it DOWN with cause 6. RETRAIN_TRIGGER, RETRAIN_ATTEMPT_END,
NAK_RECEIVED, IDLE_FLIT_SEND, FLIT_RECEIVE (R335, R338): an ACTIVE port leaves for RETRAIN; a successful attempt returns it to
ACTIVE, replays its buffer and sends what waits; a third failure sends it DOWN with cause 5; a NAK removes what its LACK covers
and replays the rest, and a fourth replay of one flit, or 16 NAKs in 10 µs, retrains the port; an IDLE flit acknowledges; a received flit with a bad CRC is answered with a NAK, and one with the sequence
number expected is accepted. -/
def Obligations.PortsTrainRetryAndComeUp : Prop := 
  (∀ (s : State) (p : Port) (half width : Bool) (serial : DWord) (chip : Chip) (port : Port) (major : BitVec 8),
    (s.blockOpen = false → ∀ en, exec (.portEnable p en) s = .next s) ∧
    (s.blockOpen = true → (s.set (F.REI_P_CTRL_EN p.val) 0).portState p.val = 0 →
      exec (.portEnable p false) s = .next (s.set (F.REI_P_CTRL_EN p.val) 0)) ∧
    (s.blockOpen = true → ∀ u, u = s.set (F.REI_P_CTRL_EN p.val) 1 →
      (u.portState p.val = 0 → u.on F.REI_ID_VALID = true → exec (.portEnable p true) s = .next (u.setPortState p.val 1)) ∧
      (u.portState p.val ≠ 0 ∨ u.on F.REI_ID_VALID = false → exec (.portEnable p true) s = .next u)) ∧
    (s.blockOpen = true → (s.set (F.REI_P_CTRL_EN p.val) 0).portState p.val ≠ 0 →
      exec (.portEnable p false) s = .next ((s.set (F.REI_P_CTRL_EN p.val) 0).portLost p.val 0 0)) ∧
    (s.portState p.val = 1 → exec (.trainingStateAdvance p half) s = .next (s.setPortState p.val 2)) ∧
    (s.portState p.val = 2 → exec (.trainingStateAdvance p half) s = .next (s.setPortState p.val 3)) ∧
    (s.portState p.val = 3 → exec (.trainingStateAdvance p false) s = .next ((s.set (F.REI_P_STATUS_WIDTH p.val) 2).setPortState p.val 4)) ∧
    (s.portState p.val = 3 → s.on (F.REI_P_CTRL_HALF_OK p.val) = true →
      exec (.trainingStateAdvance p true) s = .next ((s.set (F.REI_P_STATUS_WIDTH p.val) 1).setPortState p.val 4)) ∧
    (s.portState p.val = 3 → s.on (F.REI_P_CTRL_HALF_OK p.val) = false → exec (.trainingStateAdvance p true) s = .next s) ∧
    (s.portState p.val = 4 → exec (.trainingStateAdvance p half) s = .next (s.setPortState p.val 5)) ∧
    (s.portState p.val = 0 ∨ 5 ≤ s.portState p.val → exec (.trainingStateAdvance p half) s = .next s) ∧
    (s.portState p.val ≠ 5 → exec (.paramExchange p serial chip port major width) s = .next s) ∧
    (s.portState p.val = 5 → ∀ u, u = (s.setPort p.val { s.port p.val with peerSerial := serial.toNat }).set
        (F.REI_P_STATUS_PEER_CHIP p.val) chip.val →
      (serial.toNat = u.get64 F.REI_SERIAL_LO → exec (.paramExchange p serial chip port major width) s = .next (u.portLost p.val 8 1)) ∧
      (serial.toNat ≠ u.get64 F.REI_SERIAL_LO → major.toNat ≠ 1 →
        exec (.paramExchange p serial chip port major width) s = .next (u.portLost p.val 8 2)) ∧
      (serial.toNat ≠ u.get64 F.REI_SERIAL_LO → major.toNat = 1 → chip.val = u.chip → ∀ d w, d = u.stickIrq F.REI_DUPID_DUPID 12 →
        w = (if serial.toNat < d.get64 F.REI_SERIAL_LO then { d with rein := { d.rein with vc3Only := true } } else d) →
        exec (.paramExchange p serial chip port major width) s = .next (w.portLost p.val 8 3)) ∧
      (serial.toNat ≠ u.get64 F.REI_SERIAL_LO → major.toNat = 1 → chip.val ≠ u.chip →
        exec (.paramExchange p serial chip port major false) s = .next (u.portLost p.val 8 4) ∧
        exec (.paramExchange p serial chip port major true) s = .next (u.portUp p.val chip.val port.val))) ∧
    (s.portState p.val = 8 → s.on (F.REI_P_CTRL_EN p.val) = true → exec (.downRetry p) s = .next (s.setPortState p.val 1)) ∧
    (s.portState p.val ≠ 8 ∨ s.on (F.REI_P_CTRL_EN p.val) = false → exec (.downRetry p) s = .next s) ∧
    (2 ≤ s.portState p.val → s.portState p.val ≤ 5 → exec (.trainingBoundExpiry p) s = .next (s.portLost p.val 8 6)) ∧
    (s.portState p.val < 2 ∨ 5 < s.portState p.val → exec (.trainingBoundExpiry p) s = .next s)) ∧
  (∀ (s : State) (p : Port) (half : Bool) (lack : Fin 4096) (b : List Byte),
    (s.portActive p.val = true → exec (.retrainTrigger p) s =
      .next ((s.setPort p.val { s.port p.val with attempts := 0, naks := [], replays := 0 }).setPortState p.val 7)) ∧
    (s.portActive p.val = false → exec (.retrainTrigger p) s = .next s) ∧
    (s.portState p.val ≠ 7 → ∀ ok, exec (.retrainAttemptEnd p ok half) s = .next s) ∧
    (s.portState p.val = 7 →
      exec (.retrainAttemptEnd p true false) s = .next ((((((s.setPortState p.val 6).stick F.REI_RETRAIN_RETRAIN).replayAll p.val).pump p.val)).pathCheck) ∧
      (s.on (F.REI_P_CTRL_HALF_OK p.val) = true → exec (.retrainAttemptEnd p true true) s =
        .next ((((((s.set (F.REI_P_STATUS_WIDTH p.val) 1).setPortState p.val 6).stick F.REI_RETRAIN_RETRAIN).replayAll p.val).pump p.val).pathCheck)) ∧
      (s.on (F.REI_P_CTRL_HALF_OK p.val) = false →
        exec (.retrainAttemptEnd p true true) s = exec (.retrainAttemptEnd p false true) s) ∧
      ((s.port p.val).attempts < 2 → exec (.retrainAttemptEnd p false half) s =
        .next (s.setPort p.val { s.port p.val with attempts := (s.port p.val).attempts + 1 })) ∧
      (2 ≤ (s.port p.val).attempts → exec (.retrainAttemptEnd p false half) s = .next (s.portLost p.val 8 5))) ∧
    (s.portActive p.val = false → exec (.nakReceived p lack) s = .next s) ∧
    (s.portActive p.val = true → ((s.lackTo p.val lack.val).port p.val).replay = [] →
      exec (.nakReceived p lack) s = .next (s.lackTo p.val lack.val)) ∧
    (∀ f r x k recent y, s.portActive p.val = true → x = (s.lackTo p.val lack.val).port p.val → x.replay = f :: r →
      k = (if x.replayedSeq = f.1 then x.replays + 1 else 1) →
      recent = (x.naks.filter fun t => decide (s.cad.time < t + 10000)) ++ [s.cad.time] →
      y = (s.lackTo p.val lack.val).setPort p.val { x with replays := k, replayedSeq := f.1, naks := recent,
                                                           spoilt := x.spoilt || x.replay.any fun z => z.2.vc == 3 } →
      (k < 4 → recent.length < 16 → exec (.nakReceived p lack) s = .next (y.replayAll p.val)) ∧
      (4 ≤ k ∨ 16 ≤ recent.length → exec (.nakReceived p lack) s = .next (y.retrain p.val))) ∧
    (s.portActive p.val = true → (s.port p.val).egress = [] → exec (.idleFlitSend p) s =
      .next ((s.advance ((s.port p.val).lackAt + 101)).emitFlit p.val flitIdle 0 false)) ∧
    (s.portActive p.val = false ∨ (s.port p.val).egress ≠ [] → exec (.idleFlitSend p) s = .next s) ∧
    (s.portActive p.val = true → flitGood b = false → exec (.flitReceive p b) s = .next ((s.nakOut p.val true).csrSettle)) ∧
    (s.portActive p.val = false → exec (.flitReceive p b) s = .next s.csrSettle) ∧
    (∀ u v f, s.portActive p.val = true → flitGood b = true → f = flitOf b →
      u = (if bit (leAt b 6 2) 12 then s.nakIn p.val (bitsOf (leAt b 6 2) 0 12) else s.lackTo p.val (bitsOf (leAt b 6 2) 0 12)).creditsIn
        p.val (bitsOf (leAt b 8 1) 0 2) (bitsOf (leAt b 8 1) 2 6) →
      (f.kind = 0 → exec (.flitReceive p b) s = .next u.csrSettle) ∧
      (f.kind ≠ 0 → bitsOf (leAt b 4 2) 0 12 ≠ (u.port p.val).rxSeq →
        exec (.flitReceive p b) s = .next ((u.nakOut p.val false).csrSettle)) ∧
      (f.kind ≠ 0 → bitsOf (leAt b 4 2) 0 12 = (u.port p.val).rxSeq → v = u.setPort p.val { u.port p.val with
        rxSeq := ((u.port p.val).rxSeq + 1) % 4096, nakOut := false, owed := modNth (· + 1) f.vc (u.port p.val).owed } →
        exec (.flitReceive p b) s = .next ((v.flitAccepted p.val f).csrSettle))))

/-- READ_REQ, WIN_QUERY, LOCK_REQ (R104, R273 to R275, R308, R346, R473, R502): a request wakes the device; outside a restart, a read
of SRAM or HBM that passes is accepted and answered with its data, or FAULT_ECC, one of registers with their words, and one that fails is
refused with its status; a read under a lock mark whose sequence has been ended here is refused with ABORT_TIMEOUT; a query is answered
with the window; a free lock is granted, a held one queues the request, one outside the tenant's range is refused, and during a context
reset of the tenant the request is kept; in a restart each is refused with ABORT_RESET. READ_CPL, WIN_ANSWER, LOCK_GRANT, LOCK_BUSY,
BAR_ACK, REFUSE (R104, R213, R275, R276, R279, R298, R340, R346): an answer meets the request it names and takes it away, and one that
meets none changes nothing, but a grant, which goes back; the backoff after LOCK_BUSY is a free value from 1 to 16 µs; a refusal ends
its command with the status it carries. -/
def Obligations.RequestsAndAnswersMeet : Prop := 
  (∀ (s : State) (p : Port) (m : Msg) (w : State), w = s.wake 3 →
    (∀ x v, x = asMop m 0 0x01 → v = w.seqDone x →
      (∀ y, w.endedHere x = some y → m.lock = true → exec (.readReq p m) s = .next ((w.seqClose y.id).refuse x stABORT_TIMEOUT)) ∧
      (w.endedHere x = none ∨ m.lock = false →
        (v.boot.phase = .restart → exec (.readReq p m) s = .next (v.refuse x stABORT_RESET)) ∧
        (v.boot.phase ≠ .restart → ∀ r u, v.inboundCheck p.val x (min 4096 m.operand) false = (r, u) →
          (∀ st, r = some st → exec (.readReq p m) s = .next (u.refuse x st)) ∧
          (r = none → daSpace m.da = 6 → ∀ c,
            c = (List.range (ceilDiv (min 4096 m.operand) 4)).foldl (fun (acc : List Byte × State) k =>
              (acc.1 ++ leBytes 4 (acc.2.csrRead 0 (daOff m.da + 4 * k)).1, (acc.2.csrRead 0 (daOff m.da + 4 * k)).2)) ([], u.accept x) →
            exec (.readReq p m) s = .next (c.2.answer x { msgZero with mop := 0x20, data := c.1.take (min 4096 m.operand) })) ∧
          (r = none → daSpace m.da ≠ 6 → ∀ l z, (u.accept x).memRead (daSpace m.da) (daOff m.da) (min 4096 m.operand)
              (256 * m.tenant + 0x40 + p.val) 0 0 = (l, z) →
            (∀ d, l = some d → exec (.readReq p m) s = .next (z.answer x { msgZero with mop := 0x20, data := d })) ∧
            (l = none → exec (.readReq p m) s = .next (z.answer x { msgZero with mop := 0x20, status := stFAULT_ECC })))))) ∧
    (w.boot.phase = .restart → exec (.winQuery m) s = .next (w.refuse (asMop m 0 0x02) stABORT_RESET)) ∧
    (w.boot.phase ≠ .restart → exec (.winQuery m) s = .next (w.answer (asMop m 0 0x02) (w.winAnswer (asMop m 0 0x02)))) ∧
    (w.holdsMsg (asMop m 0 0x03) = true → exec (.lockReq p m) s =
      .next { w with rein := { w.rein with held := w.rein.held ++ [asMop m 0 0x03] } }) ∧
    (w.holdsMsg (asMop m 0 0x03) = false → w.boot.phase = .restart →
      exec (.lockReq p m) s = .next (w.refuse (asMop m 0 0x03) stABORT_RESET)) ∧
    (w.holdsMsg (asMop m 0 0x03) = false → w.boot.phase ≠ .restart →
      (w.poolLock m.tenant (m.operand % 256) = none → exec (.lockReq p m) s = .next (w.refuse (asMop m 0 0x03) stREJ_BOUNDS)) ∧
      (∀ n, w.poolLock m.tenant (m.operand % 256) = some n → ∀ k : LockWaiter, k = ⟨m.src, m.rtag, m.operand / 256 % 8, w.cad.time⟩ →
        ((w.lock n).held = true → exec (.lockReq p m) s = .next (w.setLock n { w.lock n with queue := (w.lock n).queue ++ [k] })) ∧
        ((w.lock n).held = false → exec (.lockReq p m) s = .next (w.grantRemote m.tenant n (m.operand % 256) k))))) ∧
  (∀ (s : State) (m : Msg) (w : State), w = s.wake 3 →
    (∀ u, w.takeReq m = (none, u) → exec (.readCpl m) s = .next u ∧ exec (.winAnswer m) s = .next u ∧ exec (.lockBusy m) s = .next u ∧
      exec (.lockGrant m) s = .next (u.vc1 m.src { msgZero with mop := 0x14, tenant := m.tenant, operand := m.operand % 256 } none)) ∧
    (∀ r u, w.takeReq m = (some r, u) →
      (m.status ≠ 0 → exec (.readCpl m) s = .next (u.fail r.cmd m.status)) ∧
      (m.status = 0 → exec (.readCpl m) s =
        .next (u.modCmd r.cmd fun (c : Cmd) => { c with fetched := overlay c.fetched (cellsAt r.off (m.data.take r.len)) })) ∧
      exec (.winAnswer m) s = .next (u.descAnswer r.cmd (winOfAnswer (asMop m 2 0x21)))) ∧
    (∀ r u c, w.takeReq m = (some r, u) → u.cmd? r.cmd = some c →
      (c.lockTry = .homeWait → ∀ d, d = (if bit m.operand 8 then { c with warn := putBit c.warn wLOCK_BROKEN true } else c) →
        exec (.lockGrant m) s = .next ((u.setCmd d).acquired d)) ∧
      (c.lockTry ≠ .homeWait → exec (.lockGrant m) s = .next u) ∧
      (m.src < u.chip → ∃ v z d, exec (.lockBusy m) s = .next ((v.stick F.ARB_LRETRY_LRETRY).releaseLock c.tenant (lkLock c.pkt) false) ∧
        v = (z : State).setCmd d ∧ d.retry = min 255 (c.retry + 1) ∧ (∃ b, 1 ≤ b ∧ b ≤ 16 ∧ d.lockTry = .backoff (u.cad.time + 1000 * b)) ∧
        z = { u with fresh := z.fresh }) ∧
      (u.chip ≤ m.src → exec (.lockBusy m) s = .next (u.vc0 m.src { msgZero with
        mop := 0x03, tenant := c.tenant, cmdTag := c.id % 65536, operand := lkLock c.pkt + 2 ^ 8 * c.queue } c.id 0 0))) ∧
    (w.cmdOfTag m.rtag = none → exec (.barAck m) s = .next w) ∧
    (∀ d, w.cmdOfTag m.rtag = some d →
      (d.op ≠ 0x22 ∨ d.phase ≠ .front → exec (.barAck m) s = .next w) ∧
      (d.op = 0x22 → d.phase = .front → baWait d.pkt = false ∨ d.cursor = 1 + b2n (bit m.operand 16) →
        exec (.barAck m) s = .next (w.fail d.id stDONE)) ∧
      (d.op = 0x22 → d.phase = .front → baWait d.pkt = true → d.cursor ≠ 1 + b2n (bit m.operand 16) →
        exec (.barAck m) s = .next (w.setCmd { d with sense := some (bit m.operand 16) }))) ∧
    (w.cmdOfTag m.cmdTag = none → exec (.refuse m) s = .next w) ∧
    (∀ d, w.cmdOfTag m.cmdTag = some d →
      (∀ x, w.endedThere (asMop m 2 0x26) d = some x → exec (.refuse m) s = .next (w.endByBound x false)) ∧
      (w.endedThere (asMop m 2 0x26) d = none → ∀ u v, u = (w.dropReads d.id).dropWaiting d.id →
        v = (if d.op = 0x23 ∧ d.lockTry = .homeWait then u.releaseLock d.tenant (lkLock d.pkt) false else u).finish d.id m.status 0 →
        exec (.refuse m) s = .next (if d.op = 0x23 then v.breakSeq d.id stABORT_TIMEOUT else v))))

/-- WRITE, SIGNAL, BAR_ARRIVE, PHASE_DONE, LOCK_RELEASE, STALE_NOTICE (R273, R292, R298, R308, R346 to R348, R351, R473, R502): a VC1
message wakes the device; in its turn, of the pair's epoch, it has its effect and, where asked, its acknowledgement; another epoch's has
none, nor has one after a gap, and the first after a gap is answered with a NAK; one of a refused command tag, one that a context reset
keeps, one of a sequence ended here and one in a restart do not take effect now. E2E_ACK, E2E_ACK_TIMER, PATH_LOST, GAP_NAK, E2E_TIMEOUT,
REQUEST_TIMEOUT, EPOCH_OPEN (R171, R344, R347 to R351): an acknowledgement of the current epoch retires what it covers and counts its
bytes; a commit unacknowledged for 4 µs is acknowledged; a lost path, a gap or a timeout raises the pair's epoch; a request without
answer ends its command with FAULT_LINK; a newer epoch is accepted from its opening on. -/
def Obligations.PostedMessagesKeepOrderAndEpochs : Prop := 
  (∀ (s : State) (p : Port) (m : Msg) (w : State) (x : RxPair), w = s.wake 3 → x = w.rxPair m.src →
    (∀ i k fin, (i, k, fin) ∈ ([(.write p m, 0x10, State.csrSettle), (.reinSignal p m, 0x11, id), (.barArrive p m, 0x12, id),
        (.phaseDone p m, 0x13, id), (.reinLockRelease p m, 0x14, id), (.staleNotice p m, 0x16, id)] : List (Instr × Nat × (State → State))) →
      ∀ M, M = asMop m 1 k →
      (m.epoch ≠ x.epoch → exec i s = .next (fin (if (x.epoch + 256 - m.epoch) % 256 ≤ 127 then w.stick F.REI_OLD_OLD else w))) ∧
      (m.epoch = x.epoch → x.gap = true → exec i s = .next (fin w)) ∧
      (m.epoch = x.epoch → x.gap = false → m.eseq ≠ x.expect →
        exec i s = .next (fin ((w.setRx m.src { x with gap := true }).answer M { msgZero with mop := 0x28 }))) ∧
      (m.epoch = x.epoch → x.gap = false → m.eseq = x.expect → ∀ u v,
        u = w.setRx m.src { x with expect := (x.expect + 1) % 65536, owedSince := some (x.owedSince.getD w.cad.time)
                                   refused := if m.cmdLast then x.refused.filter (· != m.cmdTag) else x.refused } →
        v = (if x.refused.contains m.cmdTag && (k == 0x10 || k == 0x11) then u
          else if u.holdsMsg M then { u with rein := { u.rein with held := u.rein.held ++ [M] } }
          else u.unlessEnded M fun z => z.vc1Effect p.val M) →
        exec i s = .next (fin (if m.ackReq then v.sendAck m.src else v)))) ∧
    (∀ (u : State) (M : Msg) (k : State → State),
      (u.endedHere M = none ∨ M.lock = false → u.unlessEnded M k = k (u.seqDone M)) ∧
      (∀ y, u.endedHere M = some y → M.lock = true → M.mop = 0x10 ∨ M.mop = 0x11 →
        u.unlessEnded M k = (u.seqClose y.id).refuse M stABORT_TIMEOUT)) ∧
    (∀ u : State, u.boot.phase = .restart → ∀ M, u.vc1Effect p.val M = u.refuse M stABORT_RESET) ∧
    (∀ u : State, u.boot.phase ≠ .restart →
      u.vc1Effect p.val (asMop m 1 0x10) = u.writeIn p.val (asMop m 1 0x10) ∧
      u.vc1Effect p.val (asMop m 1 0x11) = u.signalIn (asMop m 1 0x11) ∧
      u.vc1Effect p.val (asMop m 1 0x12) = u.barArriveIn (asMop m 1 0x12) ∧
      u.vc1Effect p.val (asMop m 1 0x13) = u.phaseDone (asMop m 1 0x13) ∧
      u.vc1Effect p.val (asMop m 1 0x14) = u.lockReleaseIn (asMop m 1 0x14) ∧
      u.vc1Effect p.val (asMop m 1 0x16) = u.staleNotice (asMop m 1 0x16))) ∧
  (∀ (s : State) (p : Port) (m : Msg) (d : Chip) (tag : Nat) (w : State), w = s.wake 3 →
    (m.epoch ≠ w.get (F.REI_TXE_EPOCH m.src) → exec (.e2eAck m) s = .next w) ∧
    (m.epoch = w.get (F.REI_TXE_EPOCH m.src) → ∀ e x done u v, e = leAt m.extra 0 2 → x = w.txPair m.src →
      done = x.sent.filter (ackedUpTo e) →
      u = w.setTx m.src { x with sent := x.sent.filter (fun (y : TxMsg) => !(ackedUpTo e y))
                                 opening := x.opening && !(done.any fun y => y.msg.mop == 0x15) } →
      v = (done.foldl (fun (z : State) (y : TxMsg) => match y.cmd with
        | some id => if y.msg.mop = 0x10 then z.modCmd id fun (c : Cmd) => { c with bytes := c.bytes + y.msg.data.length } else z
        | none => z) u).txDrain m.src →
      exec (.e2eAck m) s = .next (((done.filterMap (·.cmd)).eraseDups).foldl (fun (z : State) id => z.settle id) v)) ∧
    (∀ t, (s.rxPair d.val).owedSince = some t → exec (.e2eAckTimer d) s = .next ((s.advance (t + 4000)).sendAck d.val)) ∧
    ((s.rxPair d.val).owedSince = none → exec (.e2eAckTimer d) s = .next s) ∧
    exec (.pathLost m) s = .next (w.raiseEpoch (m.operand % 64)) ∧
    exec (.gapNak m) s = .next (w.raiseEpoch m.src) ∧
    (∀ x l, (s.txPair d.val).sent = x :: l → exec (.e2eTimeout d) s =
      .next ((s.advance (x.at_ + 1000 * s.get F.REI_E2E_TIMEOUT_US + 1)).raiseEpoch d.val)) ∧
    ((s.txPair d.val).sent = [] → exec (.e2eTimeout d) s = .next s) ∧
    (s.rein.reqs.find? (·.tag == tag) = none → exec (.requestTimeout tag) s = .next s) ∧
    (∀ r u, s.rein.reqs.find? (·.tag == tag) = some r → u = s.advance (r.at_ + 1000 * s.get F.REI_REQ_TIMEOUT_US) →
      ∀ v, v = ({ u with rein := { u.rein with reqs := u.rein.reqs.filter (·.tag != tag) } } : State) →
      (v.cmd? r.cmd = none → exec (.requestTimeout tag) s = .next v) ∧
      (∀ c, v.cmd? r.cmd = some c → ¬(c.op = 0x23 ∧ c.lockTry = .homeWait) →
        exec (.requestTimeout tag) s = .next (v.fail c.id stFAULT_LINK)) ∧
      (∀ c, v.cmd? r.cmd = some c → c.op = 0x23 → c.lockTry = .homeWait → exec (.requestTimeout tag) s =
        .next (((v.releaseLock c.tenant (lkLock c.pkt) false).fail c.id stFAULT_LINK).breakSeq c.id stABORT_TIMEOUT))) ∧
    (∀ x, x = w.rxPair m.src → 1 ≤ (m.epoch + 256 - x.epoch) % 256 → (m.epoch + 256 - x.epoch) % 256 ≤ 127 → ∃ v z : State,
      exec (.epochOpen p m) s = .next ((z.stickIrq F.REI_LINK_EPOCH_LINK_EPOCH 12).sendAck m.src) ∧
      v = w.setRx m.src { x with epoch := m.epoch, expect := 1, gap := false, refused := [] } ∧
      z.rein = { v.rein with accepted := v.rein.accepted.filter (·.chip != m.src) } ∧ z = { w with regs := z.regs, rein := z.rein }) ∧
    (∀ x, x = w.rxPair m.src → ((m.epoch + 256 - x.epoch) % 256 = 0 ∨ 127 < (m.epoch + 256 - x.epoch) % 256) →
      exec (.epochOpen p m) s = .next (w.stick F.REI_OLD_OLD)))

/-- MASTER_LOSS, DOMAIN, DOMAIN_ANNOUNCE, UPSTREAM_RESELECT, ROUTING_ENTRY_WRITE (R46, R345, R352, R353, R355): announcements are kept
by port and the master is elected from them; one that loses the master runs on its holdover model and elects again, and no announcement
names the lost one; of two devices with one chip ID the one with the higher serial number carries VC3 only; a
routing entry applies to what is routed afterwards, or is refused with REI_CFG.CFG where a field is outside its range.
TIME_EXCHANGE_START, TIME_SYNC, TIME_FOLLOW, TIME_DREQ, TIME_DRESP, CONFIG, CONFIG_SEND (R45, R47, R48, R51, R354 to R356): the four
times of an exchange are taken where its messages leave and arrive; its offset is slewed away, but the first of a joining device steps
forward or holds where it exceeds 1 µs, and one with a replayed flit is discarded and the device runs on its holdover model until the next
(DEDUCED, log entry 13); a follower takes a CONFIG of a higher generation and passes it on; the master sends its own. -/
def Obligations.DomainElectsAndAligns : Prop := 
  (∀ (s : State) (p : Port) (m : Msg) (n : Fin 13) (e : Fin 64) (w : Fin 2) (v : Word),
    (∃ u : State, (∀ k d, (u.port k).dom = some d → d.getD 5 63 ≠ s.rein.master) ∧ u = { s with rein := { s.rein with ports := u.rein.ports } } ∧
      (s.rein.master ≠ s.chip → s.get F.CAD_STATUS_SOURCE = 4 → exec .masterLoss s = .next (u.enterHoldover.electBy true)) ∧
      (s.rein.master ≠ s.chip → s.get F.CAD_STATUS_SOURCE ≠ 4 → exec .masterLoss s = .next (u.electBy true)) ∧
      (s.rein.master = s.chip → exec .masterLoss s = .next u)) ∧
    exec .domainAnnounce s = .next ((List.range 12).foldl (fun (s : State) k => s.sendVc3 k s.domMsg) s.elect) ∧
    ((domFields m).getD 0 63 ≠ s.chip →
      exec (.domain p m) s = .next ((s.setPort p.val { s.port p.val with dom := some (domFields m) }).elect)) ∧
    (s.get64 F.REI_SERIAL_LO = (domFields m).getD 1 0 ∨ s.on F.REI_ID_VALID = false →
      exec (.domain p m) s = .next ((s.setPort p.val { s.port p.val with dom := some (domFields m) }).elect)) ∧
    ((domFields m).getD 0 63 = s.chip → s.on F.REI_ID_VALID = true → ∀ u,
      u = (s.setPort p.val { s.port p.val with dom := some (domFields m) }).stickIrq F.REI_DUPID_DUPID 12 →
      (s.get64 F.REI_SERIAL_LO < (domFields m).getD 1 0 → exec (.domain p m) s = .next u.elect) ∧
      ((domFields m).getD 1 0 < s.get64 F.REI_SERIAL_LO →
        exec (.domain p m) s = .next ({ u with rein := { u.rein with vc3Only := true } } : State).elect)) ∧
    (∀ k, (List.range 12).find? (fun k => s.on (F.REI_P_STATUS_UPSTREAM k)) = some k → exec .upstreamReselect s =
      .next (((s.advance ((s.port k).doneAt + 20000000)).setPort k { s.port k with dom := none }).elect)) ∧
    ((List.range 12).find? (fun k => s.on (F.REI_P_STATUS_UPSTREAM k)) = none → exec .upstreamReselect s = .next s.elect) ∧
    (s.blockOpen = true → routeWordOk w.val v.toNat = true → exec (.routingEntryWrite n e w v) s =
      .next ((s.wr (0x281000 + 0x200 * n.val + 8 * e.val + 4 * w.val) (routeBits w.val v.toNat)).pathCheck)) ∧
    (s.blockOpen = false → exec (.routingEntryWrite n e w v) s = .next s) ∧
    (s.blockOpen = true → routeWordOk w.val v.toNat = false → exec (.routingEntryWrite n e w v) s = .next (s.stick F.REI_CFG_CFG))) ∧
  (∀ (s : State) (p : Port) (m : Msg) (t : DWord),
    (s.sendsTime p.val = true → ∃ u : State, exec (.timeExchangeStart p) s = .next ((u.sendVc3 p.val { msgZero with mop := 0x31 }).sendVc3 p.val
        { msgZero with mop := 0x32, extra := leBytes 8 s.cad.time }) ∧
      u = s.setPort p.val { s.port p.val with t1 := s.cad.time, spoilt := false }) ∧
    (s.sendsTime p.val = false → exec (.timeExchangeStart p) s = .next s ∧ exec (.timeDreq p) s = .next s) ∧
    exec (.timeSync p) s = .next (s.setPort p.val { s.port p.val with t2 := s.cad.time, spoilt := false }) ∧
    exec (.timeFollow p t) s =
      .next ((s.setPort p.val { s.port p.val with t1 := t.toNat, t3 := s.cad.time }).sendVc3 p.val { msgZero with mop := 0x33 }) ∧
    (s.sendsTime p.val = true →
      exec (.timeDreq p) s = .next (s.sendVc3 p.val { msgZero with mop := 0x34, extra := leBytes 8 s.cad.time })) ∧
    (s.on (F.REI_P_STATUS_UPSTREAM p.val) = false →
      exec (.timeDresp p t) s = .next (s.setPort p.val { s.port p.val with spoilt := false })) ∧
    (s.on (F.REI_P_STATUS_UPSTREAM p.val) = true → (s.port p.val).spoilt = true →
      exec (.timeDresp p t) s = .next (s.setPort p.val { s.port p.val with spoilt := false }).holdRate) ∧
    (∀ off, off = s.exchangeOffset p.val t.toNat → s.on (F.REI_P_STATUS_UPSTREAM p.val) = true → (s.port p.val).spoilt = false →
      (s.cad.joinFirst = false → s.cad.joinHold = false → ∃ u : State, exec (.timeDresp p t) s = .next u ∧ u.cad.slew = -((off + 10) / 20) ∧
        (u.on F.CAD_STATUS_ALIGNED = true ↔ off.natAbs ≤ 300) ∧ u.cad.joining = (s.cad.joining && !decide (off.natAbs ≤ 300)) ∧
        u.get F.CAD_STATUS_SOURCE = 4 ∧ (u.port p.val).doneAt = s.cad.time ∧ u.cad.time = s.cad.time ∧ u.mem = s.mem) ∧
      (s.cad.joinFirst = false → s.cad.joinHold = true → ∃ u : State, exec (.timeDresp p t) s = .next u ∧ u.cad.slew = s.cad.slew ∧
        u.on F.CAD_STATUS_ALIGNED = false ∧ u.cad.joinHold = true ∧ u.cad.time = s.cad.time ∧ u.mem = s.mem) ∧
      (s.cad.joinFirst = true → -((off + 10) / 20) < -1000 → ∃ u : State, exec (.timeDresp p t) s = .next u ∧ u.cad.joinHold = true ∧
        u.cad.joinFirst = false ∧ u.cad.time = s.cad.time ∧ u.on F.CAD_STATUS_ALIGNED = false ∧ u.mem = s.mem) ∧
      (s.cad.joinFirst = true → 1000 < -((off + 10) / 20) → ∃ u : State, exec (.timeDresp p t) s = .next u ∧
        (u.cad.time : Int) = s.cad.time + -((off + 10) / 20) ∧ u.cad.joinFirst = false ∧ u.cad.slew = 0 ∧ u.mem = s.mem) ∧
      (s.cad.joinFirst = true → -1000 ≤ -((off + 10) / 20) → -((off + 10) / 20) ≤ 1000 → ∃ u : State, exec (.timeDresp p t) s = .next u ∧
        u.cad.slew = -((off + 10) / 20) ∧ u.cad.joinFirst = false ∧ u.cad.time = s.cad.time ∧ u.mem = s.mem)) ∧
    (s.isMaster = true ∨ m.operand ≤ s.rein.gen → exec (.config p m) s = .next s) ∧
    (s.isMaster = false → s.rein.gen < m.operand → ∃ u : State, u.rein = { s.rein with gen := m.operand } ∧
      u.get F.CAD_CTRL_EN = leAt m.data 0 1 % 2 ∧ u.epoch = leAt m.data 1 8 ∧ u.get F.CAD_PERIOD = leAt m.data 9 4 % 2 ^ 30 ∧
      u.get F.CAD_NEXT_PERIOD = leAt m.data 13 4 % 2 ^ 30 ∧ u.cad = { s.cad with swTick := leAt m.data 23 6, swPeriod := leAt m.data 29 4 } ∧
      u = { s with rein := u.rein, regs := u.regs, cad := u.cad } ∧
      exec (.config p m) s = .next ((List.range 12).foldl (fun (s : State) k =>
        if k = p.val || s.on (F.REI_P_STATUS_UPSTREAM k) then s else s.sendVc3 k s.configMsg) u)) ∧
    (s.isMaster = true → exec .configSend s = .next ((List.range 12).foldl (fun (s : State) k => s.sendVc3 k s.configMsg) s)) ∧
    (s.isMaster = false → exec .configSend s = .next s))

/-- GIRTH_REQUEST_TIMER, GIRTH_REQ, GIRTH_GRANT, GIRTH_RET, LEASE_EXPIRY, MASTER_GRACE_END (R357, R358, R477, R478): the master
answers a request and takes tokens back; another device passes both on upstream; a grant that names this device becomes its lease,
and with the lease over the limit follows the floor. -/
def Obligations.TokensAreLeasedAndReturned : Prop :=
  ∀ (s : State) (p : Port) (m : Msg) (u : State) (n f c : Nat), girthOf m = (n, f, c) →
    (∀ a : Ask, a = ⟨s.chip, s.tokensWanted, s.get F.PWR_FLOOR, 12⟩ → u = s.putAsk a →
      (u.isMaster = true → exec .girthRequestTimer s = .next (u.girthAnswer s.chip)) ∧
      (u.isMaster = false → ∀ k, u.upstream = some k → exec .girthRequestTimer s = .next (u.sendVc3 k (girthMsg 0x38 a.tokens a.floor a.chip 0))) ∧
      (u.isMaster = false → u.upstream = none → exec .girthRequestTimer s = .next u)) ∧
    (u = s.putAsk ⟨c, n, f, p.val⟩ →
      (u.isMaster = true → exec (.girthReq p m) s = .next (u.girthAnswer c)) ∧
      (u.isMaster = false → ∀ k, u.upstream = some k → exec (.girthReq p m) s = .next (u.sendVc3 k (girthMsg 0x38 n f c 0))) ∧
      (u.isMaster = false → u.upstream = none → exec (.girthReq p m) s = .next u)) ∧
    (c = s.chip → exec (.girthGrant m) s = .next (s.takeLease n (leAt m.extra 0 8))) ∧
    (c ≠ s.chip → s.rein.asks.find? (fun (a : Ask) => a.chip == c) = none → exec (.girthGrant m) s = .next s) ∧
    (c ≠ s.chip → ∀ a : Ask, s.rein.asks.find? (fun (a : Ask) => a.chip == c) = some a →
      exec (.girthGrant m) s = .next (s.sendVc3 a.port (girthMsg 0x39 n f c (leAt m.extra 0 8)))) ∧
    (s.isMaster = true → ∃ v : State, exec (.girthRet m) s = .next (v.set F.PWR_RACK_GRANTED (min 0xFFFFF (v.rackHeld 64))) ∧
      v = { s with rein := { s.rein with leases := v.rein.leases } } ∧
      (∀ l ∈ v.rein.leases, l.chip ≠ c → l ∈ s.rein.leases)) ∧
    (s.isMaster = false → s.upstream = none → exec (.girthRet m) s = .next s) ∧
    (s.isMaster = false → ∀ k, s.upstream = some k → exec (.girthRet m) s = .next (s.sendVc3 k (girthMsg 0x3A n f c 0))) ∧
    (∀ k e, s.rein.lease = some (k, e) → ∃ v : State, exec .leaseExpiry s = .next v ∧ v.rein.lease = none ∧
      (v.pwr.thermal = none → v.pwr.cap = 0 → v.get F.PWR_LOCAL_CAP = 0 → v.get F.PWR_LIMIT = v.get F.PWR_FLOOR % 2 ^ F.PWR_LIMIT.n)) ∧
    (s.rein.lease = none → exec .leaseExpiry s = .next s) ∧
    exec .masterGraceEnd s = .next (s.advance (s.rein.masterSince + 100000000))

/-- ETH_FRAME_RECEIVE, PFC_REPEAT, DATAGRAM_LANDING, ETH_LINK_CHANGE (R360, R369, R373, R375, R378): a frame of a wrong size or FCS is
dropped for reason 1, one MACsec does not open for reason 2, one no consumer takes for reason 3, and a tensor datagram goes
through the checks of its own; a pause is repeated while it holds; the oldest datagram of a port leaves the buffer and lands, or
is dropped for reason 14 where its window test fails. ARP_REQUEST, NEIGHBOUR_SOLICITATION, MKA_FRAME, MKA_REKEY, SA_INSTALL (R360,
R368): a request for the port's address is answered to its sender; with MKA on and a key, a channel's peer gets an association
under the next number; an installed association starts at packet number 1 with the key of the channel's registers. -/
def Obligations.FramesAreCheckedAndPortsKeyed : Prop := 
  (∀ (s : State) (p : EthPort) (f : List (BitVec 8)),
    (s.ethLive p.val = false → exec (.ethFrameReceive p f) s = .next s) ∧
    (s.ethLive p.val = true → (f.length < 64 ∨ s.get F.ETH_CTRL_MTU < f.length ∨ leAt f (f.length - 4) 4 ≠ crc32 (f.take (f.length - 4))) →
      exec (.ethFrameReceive p f) s = .next (s.ethDrop p.val 1)) ∧
    (s.ethLive p.val = true → 64 ≤ f.length → f.length ≤ s.get F.ETH_CTRL_MTU → leAt f (f.length - 4) 4 = crc32 (f.take (f.length - 4)) →
      ∀ r u, s.macsecIn p.val (f.take (f.length - 4)) = (r, u) →
      (r = none → exec (.ethFrameReceive p f) s = .next (u.ethDrop p.val 2)) ∧
      (∀ sc g, r = some (sc, g) → u.ktdPayload p.val g = none → u.ethConsumer p.val g = none →
        exec (.ethFrameReceive p f) s = .next (u.ethDrop p.val 3)) ∧
      (∀ sc g v, r = some (sc, g) → u.ktdPayload p.val g = none → u.ethConsumer p.val g = some v →
        exec (.ethFrameReceive p f) s = .next v) ∧
      (∀ sc g src k, r = some (sc, g) → u.ktdPayload p.val g = some (src, k) →
        exec (.ethFrameReceive p f) s = .next (u.ktdIn p.val sc src k) ∧
        (ktdOk k = false → exec (.ethFrameReceive p f) s = .next (u.ethDrop p.val 4)))) ∧
    (bit s.eth.paused p.val = true → bit (s.get F.ETH_CTRL_PFC) p.val = true → 262144 * s.get F.ETH_PFC_XON < s.ingestUsed p.val →
      exec (.pfcRepeat p) s = .next { s with outbox := s.outbox ++ [.pfc p.val true] }) ∧
    (bit s.eth.paused p.val = false ∨ bit (s.get F.ETH_CTRL_PFC) p.val = false ∨ s.ingestUsed p.val ≤ 262144 * s.get F.ETH_PFC_XON →
      exec (.pfcRepeat p) s = .next s) ∧
    (∀ d, s.landHalted = false → s.get F.PWR_STATUS_STATE = 0 → s.eth.buffer.find? (fun (d : Datagram) => d.port == p.val) = some d →
      ∀ u, u = ({ s with eth := { s.eth with buffer := s.eth.buffer.erase d } } : State) →
      exec (.datagramLanding p) s = .next ((u.land d).pfc p.val) ∧
      (∀ v, u.landOk d.rule (d.widx * rlField d.rule 24 4 + ktSeq d.hdr % 2 ^ rlSlots d.rule * rlField d.rule 28 4) d.data.length
          (recPlace d.rule d.widx) = (false, v) → exec (.datagramLanding p) s =
        .next (((v.camDrop d.port 14 d.cam).stickIrq F.ETH_WINERR_WINERR 16).pfc p.val))) ∧
    (s.landHalted = true ∨ s.get F.PWR_STATUS_STATE ≠ 0 ∨ (∀ d ∈ s.eth.buffer, d.port ≠ p.val) → exec (.datagramLanding p) s = .next s) ∧
    (∀ up, bit s.eth.up p.val = up → exec (.ethLinkChange p up) s = .next s) ∧
    (∀ up u, bit s.eth.up p.val ≠ up → up = false ∨ (bit (s.get F.ETH_CTRL_EN) p.val = true ∧ s.get F.PWR_STATUS_STATE ≤ 2) →
      u = ({ s with eth := { s.eth with up := putBit s.eth.up p.val up } } : State) → exec (.ethLinkChange p up) s =
      .next (u.trace 8 (0xE0 + p.val) 0 0 (leBytes 1 1 ++ leBytes 1 p.val ++ leBytes 1 (b2n up)))) ∧
    (bit (s.get F.ETH_CTRL_EN) p.val = false ∨ 2 < s.get F.PWR_STATUS_STATE → exec (.ethLinkChange p true) s = .next s)) ∧
  (∀ (s : State) (p : EthPort) (f : List (BitVec 8)) (c : Fin 512) (an : Fin 4),
    (∀ h, h = (etherType f).2 →
      (bit (s.get (F.ETH_IP_EN p.val)) 1 = true → (etherType f).1 = 0x0806 → slice f h 8 = [0, 1, 8, 0, 6, 4, 0, 1] →
        slice f (h + 24) 4 = s.ethV4 p.val → exec (.arpRequest p f) s = .next (s.ethSend p.val (slice f 6 6 ++ ethMac p.val
          ++ slice f 12 (h - 12) ++ [0, 1, 8, 0, 6, 4, 0, 2] ++ ethMac p.val ++ s.ethV4 p.val ++ slice f (h + 8) 10))) ∧
      (bit (s.get (F.ETH_IP_EN p.val)) 1 = false ∨ (etherType f).1 ≠ 0x0806 ∨ slice f (h + 24) 4 ≠ s.ethV4 p.val → exec (.arpRequest p f) s = .next s) ∧
      (bit (s.get (F.ETH_IP_EN p.val)) 0 = true → (etherType f).1 = 0x86DD → leAt f (h + 6) 1 = 58 → leAt f (h + 40) 1 = 135 →
        slice f (h + 48) 16 = s.ethV6 p.val → ∃ g : List (BitVec 8),
        exec (.neighbourSolicitation p f) s = .next (s.ethSend p.val g) ∧
        slice g 0 6 = slice (if slice f (h + 8) 16 = List.replicate 16 0 then [0x33, 0x33, 0, 0, 0, 1] else slice f 6 6) 0 6) ∧
      (bit (s.get (F.ETH_IP_EN p.val)) 0 = false ∨ (etherType f).1 ≠ 0x86DD ∨ slice f (h + 48) 16 ≠ s.ethV6 p.val → exec (.neighbourSolicitation p f) s = .next s)) ∧
    (bit (s.get F.ETH_CTRL_MKA) p.val = false → exec (.mkaFrame p f) s = .next s ∧ exec (.mkaRekey p c) s = .next s) ∧
    (bit (s.get F.ETH_CTRL_MKA) p.val = true → ∀ cak, s.cakFor p.val = some cak →
      (∀ k, (List.range 512).find? (fun k => s.on (F.ETH_MSC_CTRL_EN p.val k) && s.mscSci p.val k == slice f 22 8) = some k →
        ((∀ x ∈ s.eth.sas, x.port = p.val → x.sc = k → x.mka = false) → exec (.mkaFrame p f) s = .next (s.mkaSak p.val k cak)) ∧
        ((∃ x ∈ s.eth.sas, x.port = p.val ∧ x.sc = k ∧ x.mka = true) → exec (.mkaFrame p f) s = .next s)) ∧
      ((List.range 512).find? (fun k => s.on (F.ETH_MSC_CTRL_EN p.val k) && s.mscSci p.val k == slice f 22 8) = none →
        (∀ k, (List.range 511).find? (fun k => !(s.on (F.ETH_MSC_CTRL_EN p.val k))) = some k → exec (.mkaFrame p f) s =
          .next (((s.set64 (F.ETH_MSC_SCI p.val k 0) (ofLE (slice f 22 8))).set (F.ETH_MSC_CTRL_EN p.val k) 1).mkaSak p.val k cak)) ∧
        ((List.range 511).find? (fun k => !(s.on (F.ETH_MSC_CTRL_EN p.val k))) = none → exec (.mkaFrame p f) s = .next s)) ∧
      ((∀ x ∈ s.eth.sas, x.port = p.val → x.sc = c.val → x.mka = false) → exec (.mkaRekey p c) s = .next s) ∧
      ((∃ x ∈ s.eth.sas, x.port = p.val ∧ x.sc = c.val ∧ x.mka = true) → exec (.mkaRekey p c) s = .next (s.mkaSak p.val c.val cak) ∧
        (s.mkaSak p.val c.val cak).get (F.ETH_MSC_SA_AN p.val c.val) = (s.get (F.ETH_MSC_SA_AN p.val c.val) + 1) % 4)) ∧
    (s.cakFor p.val = none → exec (.mkaFrame p f) s = .next s ∧ exec (.mkaRekey p c) s = .next s) ∧
    (s.blockOpen = false → exec (.saInstall p c an) s = .next s) ∧
    (s.blockOpen = true → ∃ u : State, exec (.saInstall p c an) s = .next u ∧ u.get (F.ETH_MSC_SA_AN p.val c.val) = an.val ∧
      (∃ x ∈ u.eth.sas, x.port = p.val ∧ x.sc = c.val ∧ x.an = an.val ∧ x.next = 1 ∧ x.mka = false) ∧
      (∀ x ∈ s.eth.sas, x.port ≠ p.val → x ∈ u.eth.sas) ∧ u.mem = s.mem))

/-- CAM_INSERT, CAM_DELETE, CAM_READ, STEERING_RULE_WRITE (R364, R371): an entry whose camera and window index are new enters its free
slot with a full bucket; a duplicate or a used slot is refused with CAMDUP; a deletion frees the slot; a read shows the entry and
its drops; a rule word R371 refuses sets ETH_CFG.CFG. -/
def Obligations.CamerasAndRulesAreKept : Prop :=
  ∀ (s : State) (r : Fin 256) (j : Fin 12) (v : Word),
   (s.blockOpen = false → exec .camInsert s = .next s ∧ exec .camDelete s = .next s ∧ exec .camRead s = .next s ∧
      exec (.steeringRuleWrite r j v) s = .next s) ∧
   (s.blockOpen = true →
    (kvFind s.eth.cams (s.get F.ETH_CAM_SEL) = none →
      (∀ y ∈ s.eth.cams, y.2.id ≠ leAt (s.camData true) 0 4 ∧ y.2.widx ≠ bitsOf (leAt (s.camData true) 20 2) 0 13) →
      ∃ (u : State) (x : Camera), exec .camInsert s = .next u ∧ kvFind u.eth.cams (s.get F.ETH_CAM_SEL) = some x ∧ x.entry = s.camData true ∧
        x.high = none ∧ x.level = x.burst * tokenUnit ∧ u.get F.ETH_CAM_STATUS = 4 ∧ u.mem = s.mem) ∧
    (kvFind s.eth.cams (s.get F.ETH_CAM_SEL) ≠ none ∨
        (∃ y ∈ s.eth.cams, y.2.id = leAt (s.camData true) 0 4 ∨ y.2.widx = bitsOf (leAt (s.camData true) 20 2) 0 13) →
      exec .camInsert s = .next ((s.stick F.ETH_CAMDUP_CAMDUP).set F.ETH_CAM_STATUS 6)) ∧
    (∃ u : State, exec .camDelete s = .next u ∧ kvFind u.eth.cams (s.get F.ETH_CAM_SEL) = none ∧ u.get F.ETH_CAM_STATUS = 4 ∧
      (∀ k, k ≠ s.get F.ETH_CAM_SEL → kvFind u.eth.cams k = kvFind s.eth.cams k)) ∧
    (∀ x, kvFind s.eth.cams (s.get F.ETH_CAM_SEL) = some x → ∃ u : State, exec .camRead s = .next u ∧
      (∀ k, k < 8 → u.get (F.ETH_CAM_DATA k) = leAt x.entry (4 * k) 4) ∧ u.get F.ETH_CAM_STATUS = 4 ∧
      u = { s with regs := u.regs }) ∧
    (kvFind s.eth.cams (s.get F.ETH_CAM_SEL) = none → ∃ u : State, exec .camRead s = .next u ∧
      (∀ k, k < 8 → u.get (F.ETH_CAM_DATA k) = 0) ∧ u = { s with regs := u.regs }) ∧
    (s.ruleOk r.val j.val v.toNat = true → (j.val ≠ 9 ∨ v.toNat % 64 = 0) →
      exec (.steeringRuleWrite r j v) s = .next (s.set (F.ETH_RULE r.val j.val) v.toNat)) ∧
    (s.ruleOk r.val j.val v.toNat = false ∨ (j.val = 9 ∧ v.toNat % 64 ≠ 0) →
      exec (.steeringRuleWrite r j v) s = .next (s.stick F.ETH_CFG_CFG)))

/-- HOST_WINDOW_WRITE, P2P_WINDOW_WRITE, APERTURE_WRITE, BRD_REGION_WRITE (R392, R394, R395, R403, R409): a word that leaves the
windows of its owner sized, aligned, targeted at local memory and apart is taken, whichever word it is; another sets the block's CFG
and changes nothing else. A region in use keeps its limit at or above its base. A page that takes no write (a context reset or a
restart runs), and a block that takes none, leave the write without effect. -/
def Obligations.WindowsStaySizedAndApart : Prop :=
  ∀ (s : State) (t : Tenant) (k : Fin 16) (j : Fin 5) (w i : Fin 64) (l : Fin 7) (f : Fin 3) (r : Fin 256) (b : Fin 4) (v : Word),
    (∀ u, u = s.putRw ((F.TP_HWIN_VALID t.val k.val).addr + 4 * j.val) v.toNat →
      (s.pageOpen t.val = true → u.hwinOk t.val k.val = true → (j.val = 3 → v.toNat % 4096 = 0) → (j.val = 2 → v.toNat ≠ 0) →
        exec (.hostWindowWrite t k j v) s = .next u) ∧
      (s.pageOpen t.val = true → u.hwinOk t.val k.val = false ∨ (j.val = 3 ∧ v.toNat % 4096 ≠ 0) ∨ (j.val = 2 ∧ v.toNat = 0) →
        exec (.hostWindowWrite t k j v) s = .next (s.stick (F.TP_CFG_CFG t.val))) ∧
      (s.ctxBusy t.val = true ∨ s.boot.phase = .restart → exec (.hostWindowWrite t k j v) s = .next s)) ∧
    (∀ u, u = s.putRw ((F.TEN_P2P_VALID w.val).addr + 4 * j.val) v.toNat →
      (s.blockOpen = true → u.p2pOk w.val = true → (j.val = 3 → v.toNat % 4096 = 0) → (j.val = 2 → v.toNat ≠ 0) →
        (j.val = 0 → bitsOf v.toNat 5 3 ≤ 3) → exec (.p2pWindowWrite w j v) s = .next u) ∧
      (s.blockOpen = true → u.p2pOk w.val = false ∨ (j.val = 3 ∧ v.toNat % 4096 ≠ 0) ∨ (j.val = 2 ∧ v.toNat = 0) ∨
        (j.val = 0 ∧ 3 < bitsOf v.toNat 5 3) → exec (.p2pWindowWrite w j v) s = .next (s.stick F.TEN_CFG_CFG)) ∧
      (s.boot.phase = .restart → exec (.p2pWindowWrite w j v) s = .next s)) ∧
    (∀ u sp, u = s.putRw ((F.TEN_APIN_VALID i.val).addr + 4 * l.val) v.toNat → sp = daSpace (v.toNat * 2 ^ 32) →
      (s.blockOpen = true → u.apinOk i.val = true → (l.val = 0 → bitsOf v.toNat 4 3 ≤ 3) → (l.val = 1 ∨ l.val = 4 → v.toNat % 4096 = 0) →
        (l.val = 5 → (sp = 1 ∨ sp = 2) ∧ s.isLocal (daChip (v.toNat * 2 ^ 32)) = true) → exec (.apertureWrite i l v) s = .next u) ∧
      (s.blockOpen = true → u.apinOk i.val = false ∨ (l.val = 0 ∧ 3 < bitsOf v.toNat 4 3) ∨ ((l.val = 1 ∨ l.val = 4) ∧ v.toNat % 4096 ≠ 0) ∨
        (l.val = 5 ∧ ((sp ≠ 1 ∧ sp ≠ 2) ∨ s.isLocal (daChip (v.toNat * 2 ^ 32)) = false)) →
        exec (.apertureWrite i l v) s = .next (s.stick F.TEN_CFG_CFG)) ∧
      (s.boot.phase = .restart → exec (.apertureWrite i l v) s = .next s)) ∧
    (∀ u, u = s.set (F.BRD_REG f.val r.val b.val) (if b.val = 3 then v.toNat % 65536 + v.toNat / 2 ^ 31 * 2 ^ 31 else v.toNat) →
      (s.blockOpen = true → bit (u.get (F.BRD_REG f.val r.val 3)) 31 = true → u.get (F.BRD_REG f.val r.val 1) < u.get (F.BRD_REG f.val r.val 0) →
        exec (.brdRegionWrite f r b v) s = .next (s.stick F.BRD_CFG_CFG)) ∧
      (s.blockOpen = true → u.get (F.BRD_REG f.val r.val 0) ≤ u.get (F.BRD_REG f.val r.val 1) ∨ bit (u.get (F.BRD_REG f.val r.val 3)) 31 = false →
        exec (.brdRegionWrite f r b v) s = .next u) ∧
      (s.boot.phase = .restart → exec (.brdRegionWrite f r b v) s = .next s))

/-- AP_INBOUND_REQUEST, AP_LINK_CHANGE, AP_PERST_ASSERT, AP_PERST_RELEASE, APCFG_MAILBOX (R393, R395, R396, R473, R533, R554): a
request on a link that is up in S0 to S2 wakes the device and then, one outside a Secure stream, where IDE is required, and a
poisoned write are dropped with their flags; one no aperture takes is denied with cause 0, one that lacks the right with cause 1, one
whose window is gone with cause 2; a granted one reads or writes the memory its aperture maps. A link in its bifurcation comes up at
its speed and width; a reset line acts in its mode; a configuration request's answer stands in the mailbox. The mailbox layout is the
model's (log entry 23). -/
def Obligations.AcceleratorPortIsGuarded : Prop :=
  ∀ (s : State) (l : ApLink) (addr : DWord) (n : Fin 4097) (data : List (BitVec 8)) (read sec poi : Bool) (sp : Fin 7) (wd : Fin 17)
    (w2 : Word) (answer : Option Word),
    (∀ a m, s.on (F.TEN_APL_UP l.val) = true → s.get F.PWR_STATUS_STATE ≤ 2 → a = s.wake 2 →
      m = (if read then n.val else data.length) →
      (bit (a.get F.TEN_AP_IDE_REQ) l.val = true →
        exec (.apInboundRequest l addr n read data poi false) s = .next (a.stick F.TEN_IDEDROP_IDEDROP)) ∧
      (bit (a.get F.TEN_AP_IDE_REQ) l.val = false ∨ sec = true →
        exec (.apInboundRequest l addr n false data true sec) s = .next ((a.stick F.TEN_POISON_POISON).out (.poisonedTlp (l.val + 1))) ∧
        ((read = false → poi = false) →
          (a.boot.phase = .restart → exec (.apInboundRequest l addr n read data poi sec) s =
            .next (if read then a.out (.completerAbort (l.val + 1) addr.toNat) else a)) ∧
          (a.boot.phase ≠ .restart →
            ((a.on F.TEN_AP_MODE = false ∧ 2 ^ a.get F.TEN_AP_BAR0_SIZE < addr.toNat + m) ∨
              (∀ i, i < 64 → a.on (F.TEN_APIN_VALID i) = true → a.get (F.TEN_APIN_LINK i) = l.val →
                addr.toNat < (a.apinRange i).1 ∨ (a.apinRange i).1 + (a.apinRange i).2 < addr.toNat + m) →
              exec (.apInboundRequest l addr n read data poi sec) s = .next (a.apDeny l.val 0 0 addr.toNat read)) ∧
            (∀ i o t, (a.on F.TEN_AP_MODE = true ∨ addr.toNat + m ≤ 2 ^ a.get F.TEN_AP_BAR0_SIZE) →
              (List.range 64).find? (fun i => a.on (F.TEN_APIN_VALID i) && a.get (F.TEN_APIN_LINK i) == l.val
                && decide ((a.apinRange i).1 ≤ addr.toNat) && decide (addr.toNat + m ≤ (a.apinRange i).1 + (a.apinRange i).2)) = some i →
              o = addr.toNat - (a.apinRange i).1 → t = a.get (F.TEN_APIN_TENANT i) →
              (a.on (F.TEN_APIN_KIND i) = true → o % 4 = 0 → m % 4 = 0 →
                exec (.apInboundRequest l addr n read data poi sec) s = .next (if read then a.out (.readCompletion (l.val + 1) addr.toNat
                  ((List.range (m / 4)).flatMap fun k => leBytes 4 (a.apCounterRead t (0x10000 + o + 4 * k))) false)
                  else a.apCounterWords t (0x10000 + o) data)) ∧
              (a.on (F.TEN_APIN_KIND i) = true → (o % 4 ≠ 0 ∨ m % 4 ≠ 0) →
                exec (.apInboundRequest l addr n read data poi sec) s = .next (if read then
                  (a.stick F.GLB_ERR_ACCESS).out (.readCompletion (l.val + 1) addr.toNat (List.replicate m 0) false)
                  else a.stick F.GLB_ERR_ACCESS)) ∧
              (a.on (F.TEN_APIN_KIND i) = false → (if read then a.on (F.TEN_APIN_R i) else a.on (F.TEN_APIN_W i)) = false →
                exec (.apInboundRequest l addr n read data poi sec) s = .next (a.apDeny l.val i 1 addr.toNat read)) ∧
              (a.on (F.TEN_APIN_KIND i) = false → (if read then a.on (F.TEN_APIN_R i) else a.on (F.TEN_APIN_W i)) = true →
                (a.window t (a.get (F.TEN_APIN_WIN i)) (a.get (F.TEN_APIN_GEN i)) = none →
                  exec (.apInboundRequest l addr n read data poi sec) s = .next (a.apDeny l.val i 2 addr.toNat read)) ∧
                (∀ w g p d, a.window t (a.get (F.TEN_APIN_WIN i)) (a.get (F.TEN_APIN_GEN i)) = some w →
                  p = daSpace (a.get64 (F.TEN_APIN_TARGET i 0)) → d = daOff (a.get64 (F.TEN_APIN_TARGET i 0)) + o → a.insideWindow w p d m = true →
                  a.bridleRange p t (0x31 + l.val) clsAPORT (!read) d m = (true, g) →
                  (read = false → exec (.apInboundRequest l addr n read data poi sec) s = .next (g.memWrite p (cellsAt d data))) ∧
                  (∀ bs h, read = true → g.memRead p d m (256 * t + 0x31 + l.val) 0 0 = (some bs, h) →
                    exec (.apInboundRequest l addr n read data poi sec) s = .next (h.out (.readCompletion (l.val + 1) addr.toNat bs false)))) ∧
                (∀ w p d, a.window t (a.get (F.TEN_APIN_WIN i)) (a.get (F.TEN_APIN_GEN i)) = some w →
                  p = daSpace (a.get64 (F.TEN_APIN_TARGET i 0)) → d = daOff (a.get64 (F.TEN_APIN_TARGET i 0)) + o → a.insideWindow w p d m = false →
                  exec (.apInboundRequest l addr n read data poi sec) s = .next (a.apDeny l.val i 1 addr.toNat read)) ∧
                (∀ w g p d, a.window t (a.get (F.TEN_APIN_WIN i)) (a.get (F.TEN_APIN_GEN i)) = some w →
                  p = daSpace (a.get64 (F.TEN_APIN_TARGET i 0)) → d = daOff (a.get64 (F.TEN_APIN_TARGET i 0)) + o → a.insideWindow w p d m = true →
                  a.bridleRange p t (0x31 + l.val) clsAPORT (!read) d m = (false, g) →
                  exec (.apInboundRequest l addr n read data poi sec) s = .next (g.apDeny l.val i 3 addr.toNat read)))))))) ∧
    (s.on (F.TEN_APL_UP l.val) = false ∨ 3 ≤ s.get F.PWR_STATUS_STATE → exec (.apInboundRequest l addr n read data poi sec) s = .next s) ∧
    (∀ ok, (ok ↔ bit (s.get F.TEN_AP_EN) l.val = true ∧ l.val < s.apLinks ∧ s.get F.PWR_STATUS_STATE ≤ 2 ∧ 1 ≤ sp.val ∧ 1 ≤ wd.val ∧
        wd.val ≤ apLanes (s.get F.TEN_AP_BIF)) →
      (¬ ok → exec (.apLinkChange l sp wd true) s = .next s) ∧
      (ok → ∃ u : State, exec (.apLinkChange l sp wd true) s = .next (if s.on (F.TEN_APL_UP l.val) then u
          else u.trace 0x08 (0xE0 + l.val) 0 0 (leBytes 1 3 ++ leBytes 1 l.val ++ leBytes 1 1)) ∧
        u.on (F.TEN_APL_UP l.val) = true ∧ u.get (F.TEN_APL_SPEED l.val) = sp.val ∧ u.get (F.TEN_APL_WIDTH l.val) = wd.val ∧
        u = { s with regs := u.regs })) ∧
    (∃ u : State, exec (.apLinkChange l sp wd false) s = .next (if s.on (F.TEN_APL_UP l.val) then
        u.trace 0x08 (0xE0 + l.val) 0 0 (leBytes 1 3 ++ leBytes 1 l.val ++ leBytes 1 0) else u) ∧
      u.on (F.TEN_APL_UP l.val) = false ∧ u.get (F.TEN_APL_SPEED l.val) = 0 ∧ u.get (F.TEN_APL_WIDTH l.val) = 0 ∧
      bit u.pcie.ideAp l.val = false ∧ (∀ x ∈ u.pcie.ideSel, x.1 ≠ l.val + 1) ∧ u = { s with regs := u.regs, pcie := u.pcie }) ∧
    (s.on F.TEN_AP_MODE = true → exec (.apPerstAssert l) s = .next s) ∧
    (s.on F.TEN_AP_MODE = false → exec (.apPerstAssert l) s = .next (s.apLink l.val 0 0 false)) ∧
    (s.on F.TEN_AP_MODE = true → bit (s.get F.TEN_AP_EN) l.val = true → exec (.apPerstRelease l) s =
      .next { s with pcie := { s.pcie with apPerst := putBit s.pcie.apPerst l.val true } }) ∧
    (s.on F.TEN_AP_MODE = false ∨ bit (s.get F.TEN_AP_EN) l.val = false → exec (.apPerstRelease l) s = .next s) ∧
    (s.boot.phase = .restart → exec (.apcfgMailbox w2 answer) s = .next s) ∧
    (s.boot.phase ≠ .restart →
      (bit w2.toNat 0 = false → exec (.apcfgMailbox w2 answer) s = .next (s.set (F.TEN_APCFG 2) w2.toNat)) ∧
      (∀ a k m, bit w2.toNat 0 = true → a = s.get (F.TEN_APCFG 0) → k = bitsOf a 28 2 → m = s.set (F.TEN_APCFG 2) (putBit w2.toNat 0 false) →
        (s.on F.TEN_AP_MODE = false ∨ bit (s.get F.TEN_AP_EN) k = false ∨ s.apLinks ≤ k →
          exec (.apcfgMailbox w2 answer) s = .next (m.set (F.TEN_APCFG 3) 3)) ∧
        (∀ q, s.on F.TEN_AP_MODE = true → bit (s.get F.TEN_AP_EN) k = true → k < s.apLinks →
          q = m.out (.apConfig k (bitsOf a 0 28) (bit w2.toNat 1) (s.get (F.TEN_APCFG 1))) →
          exec (.apcfgMailbox w2 answer) s = .next (match answer with
            | some v => ((if bit w2.toNat 1 then q else q.set (F.TEN_APCFG 1) v.toNat).set (F.TEN_APCFG 3) 1)
            | none => q.set (F.TEN_APCFG 3) 3))))

/-- CONFIG_REQUEST, FLR, VF_ENABLE_CLEAR, HOST_RESET, BUS_MASTER_ENABLE_CLEAR, ATS_INVALIDATE, PME_TURN_OFF, PERST_N_DEASSERT,
HP_LINK_UP (R388, R390, R391, R405, R472, R473, R537): requests before the device is ready get a retry, an absent function answers all
ones, a read gives the register's value; an FLR and a cleared VF Enable reset their contexts, and an FLR of PF0 those of every function;
a host reset takes the link down and resets every context; an invalidated translation is gone before the answer; the end of PERST_N
wakes the device; the link trains at its speed and width unless PERST_N, POR_N or S4 holds it. Where the registers of a capability stand
is the model's choice (log entry 22). -/
def Obligations.FunctionsAnswerAndReset : Prop :=
  ∀ (s : State) (f : Tenant) (reg : Fin 1024) (w : Option Word) (c : Fin 3) (page : BitVec 52) (g h : Bool) (sp : Fin 7) (wd : Fin 17),
    (s.pcie.hpUp = false → exec (.configRequest f reg w) s = .next s) ∧
    (s.pcie.hpUp = true → s.pcie.crs = true → exec (.configRequest f reg w) s = .next (s.out (.cfgAnswer f.val reg.val 0 true))) ∧
    (s.pcie.hpUp = true → s.pcie.crs = false → s.fnPresent f.val = false →
      exec (.configRequest f reg w) s = .next (s.out (.cfgAnswer f.val reg.val 0xFFFFFFFF false))) ∧
    (s.pcie.hpUp = true → s.pcie.crs = false → s.fnPresent f.val = true →
      exec (.configRequest f reg none) s = .next (s.out (.cfgAnswer f.val reg.val (s.cfgValue f.val reg.val) false)) ∧
      (∀ v, exec (.configRequest f reg (some v)) s = .next ((s.cfgWrite f.val reg.val v.toNat).out (.cfgAnswer f.val reg.val 0 false))) ∧
      (reg.val = 0 → bitsOf (s.cfgValue f.val reg.val) 16 16 = if f.val = 0 then 0x4180 else 0x4181)) ∧
    (s.fnPresent f.val = false → exec (.flr f) s = .next s) ∧
    (s.fnPresent f.val = true → ∃ u : State,
      exec (.flr f) s = .next (if f.val = 0 then (u.ctxReset 0 1).vfClear 1 else u.ctxReset f.val 1) ∧ f.val ∈ u.pcie.flr ∧
      (∀ x ∈ u.pcie.cfgRegs, x.1 ≠ f.val) ∧ bit u.pcie.bme f.val = (f.val == 0) ∧ (∀ x ∈ u.pcie.ats, x.1 ≠ f.val) ∧ u = { s with pcie := u.pcie }) ∧
    (exec .vfEnableClear s = .next ((List.range 15).foldl (fun (s : State) k => (s.cfgClear (k + 1)).ctxReset (k + 1) 2)
      { s with pcie := { s.pcie with vfEnable := false } })) ∧
    (∃ u : State, exec (.hostReset c) s = .next ((List.range 16).foldl (fun (s : State) k => s.ctxReset k 2)
        (((u.trace 0x07 0x40 0 0 (leBytes 1 3)).trace 0x08 0xE0 0 0 (leBytes 1 2 ++ leBytes 1 0 ++ leBytes 1 0)).fault 6 0x22 0xE0 0 0 0 0 0 [])) ∧
      u.pcie.hpUp = false ∧ u.pcie.hpWidth = 0 ∧ u.pcie.hpSpeed = 0 ∧ u.pcie.crs = true ∧ u.pcie.vfEnable = false ∧ u.pcie.numVfs = 0 ∧
      u.pcie.ideHp = false ∧ u.pcie.cfgRegs.filter (fun x => decide (x.1 < 16)) = [] ∧
      u.pcie.perst = (c.val == 0 || s.pcie.perst) ∧ u = { s with pcie := u.pcie }) ∧
    exec (.busMasterEnableClear f) s = .next { s with pcie := { s.pcie with bme := putBit s.pcie.bme f.val false } } ∧
    (∃ u : State, exec (.atsInvalidate f page g h) s = .next u ∧ (f.val, page.toNat) ∉ u.pcie.ats ∧
      ((f.val, page.toNat, false) ∈ u.pcie.atsRefused ↔ g = false) ∧ ((f.val, page.toNat, true) ∈ u.pcie.atsRefused ↔ h = false) ∧
      (∀ x : Nat × Nat × Bool, x.1 ≠ f.val ∨ x.2.1 ≠ page.toNat → (x ∈ u.pcie.atsRefused ↔ x ∈ s.pcie.atsRefused)) ∧
      u.outbox = s.outbox ++ [.atsDone f.val] ∧ u = { s with pcie := u.pcie, outbox := u.outbox }) ∧
    exec .pmeTurnOff s = .next { s with pcie := { s.pcie with pmeOff := true }, outbox := s.outbox ++ [.pmeToAck] } ∧
    (∀ u, u = { s with pcie := { s.pcie with perst := false, wakeN := false } } →
      exec .perstNDeassert s = .next (if s.pcie.perst then u.wake 6 else u)) ∧
    (s.pcie.perst = true ∨ s.boot.porLow = true ∨ 4 ≤ s.get F.PWR_STATUS_STATE → exec (.hpLinkUp sp wd) s = .next s) ∧
    (∀ u, s.pcie.perst = false → s.boot.porLow = false → s.get F.PWR_STATUS_STATE < 4 →
      u = (if s.pcie.hpUp then s else s.trace 0x08 0xE0 0 0 (leBytes 1 2 ++ leBytes 1 0 ++ leBytes 1 1)) →
      exec (.hpLinkUp sp wd) s =
        .next (({ u with pcie := { u.pcie with hpUp := true, hpWidth := wd.val, hpSpeed := sp.val } } : State).crsSettle))

/-- CONTEXT_RESET, CONTEXT_RESET_COMPLETE, BRD_SYNC, BRD_SYNC_COMPLETE (R12, R403, R405, R406, R515): a reset of a tenant marks it as
busy, closes the session, aborts every command of the tenant, and once drained ends; a second one joins the first, and none starts in
a safe-state restart; a synchronization of the firewall tracks every unfinished command and clears when they have completed. A write of
1 in the cycle in which the hardware clears the bit leaves it at 1 and starts anew. -/
def Obligations.ContextResetsAndSyncsComplete : Prop :=
  ∀ (s : State) (t : Tenant) (same : Bool),
    (s.boot.phase ≠ .restart → s.ctxBusy t.val = false → ∃ u : State, exec (.contextReset t) s =
        .next (((u.closeSession).trace 0x07 0x40 t.val 0 (leBytes 1 2 ++ leBytes 1 t.val)).abortTenant t.val stABORT_CTX (
          ((u.closeSession).trace 0x07 0x40 t.val 0 (leBytes 1 2 ++ leBytes 1 t.val)).cqTakes t.val)) ∧
      u.pcie.ctxRst = s.pcie.ctxRst ++ [(t.val, bit (s.get F.TEN_CTXRST_OPT_WIPE) t.val)] ∧
      bit (u.get F.TEN_CTXRST) t.val = true ∧ u.on (F.TP_CTX_BUSY t.val) = true ∧ u.closeSession.boot.session = none ∧
      u = { s with regs := u.regs, pcie := u.pcie }) ∧
    (s.ctxBusy t.val = true ∨ s.boot.phase = .restart → exec (.contextReset t) s = .next s) ∧
    (∀ u, u = (if s.ctxBusy t.val && s.ctxDrained t.val then s.ctxFinish t.val else s) →
      exec (.contextResetComplete t same) s = .next (if same && u.blockOpen then u.ctxReset t.val 0 else u)) ∧
    (s.ctxBusy t.val = true → s.ctxDrained t.val = true → same = false → ∃ u x : State, exec (.contextResetComplete t same) s =
        .next ((x.ctxApplyHeld t.val).wipeStart.crsSettle) ∧ x.ctxBusy t.val = false ∧ bit (x.get F.TEN_CTXRST) t.val = false ∧
        x.on (F.TP_CTX_BUSY t.val) = false ∧ (u = s.ctxClear t.val ∨ u = (s.ctxClear t.val).wipeTenant t.val) ∧
        x = { u with regs := x.regs, pcie := x.pcie }) ∧
    (s.boot.phase ≠ .restart → ∃ u : State, exec .brdSync s = .next u ∧ u.get F.BRD_SYNC = 1 ∧
      u.pcie.brdSync = some ((s.cmds.filter fun (c : Cmd) => !c.isEnded).map (·.id)) ∧ u = { s with regs := u.regs, pcie := u.pcie }) ∧
    (s.boot.phase = .restart → exec .brdSync s = .next s) ∧
    (∀ ids, s.pcie.brdSync = some ids → (∀ i ∈ ids, ∀ c, s.cmd? i = some c → c.isEnded = true) → ∃ u : State,
      exec (.brdSyncComplete same) s = .next (if same && s.blockOpen then u.brdSync else u) ∧
      u.get F.BRD_SYNC = 0 ∧ u.pcie.brdSync = none ∧ u = { s with regs := u.regs, pcie := u.pcie }) ∧
    (∀ ids i c, s.pcie.brdSync = some ids → i ∈ ids → s.cmd? i = some c → c.isEnded = false →
      exec (.brdSyncComplete same) s = .next (if same && s.blockOpen then s.brdSync else s)) ∧
    (s.pcie.brdSync = none → exec (.brdSyncComplete same) s = .next (if same && s.blockOpen then s.brdSync else s))

/-- SUMMARY_EVALUATE, GATED_VERDICT, MIRROR_WINDOW_EXPIRY (R415 to R421, R473): a Loupe out of service takes no summary; one that is not
ready fails the oldest without judging it; one nothing concerns, or whose pairing is not its channel's, sets NOCHAN and fails; one that is
good and whose rules all hold refreshes its watchers and passes; any other fails; a MIRROR summary is compared with its waiting
partner, and waits for it where there is none, unless that partner was lost or 16 of its side wait; a failed verdict ends its drained
command with ABORT_SAFETY; a summary left alone for WINDOW_US is missing its partner. An alarm raised on the way wakes the device. -/
def Obligations.LoupeJudgesItsSummaries : Prop :=
  (∀ (s : State) (id : Nat) (r : List Byte) (rest : List (Nat × List Byte)) (u : State),
    (s.lpe.down.isSome = true ∨ s.lpe.unpowered = true ∨ s.lpe.inbox = [] → exec .summaryEvaluate s = .next s.alarmWake) ∧
    (s.lpe.down = none → s.lpe.unpowered = false → s.lpe.inbox = (id, r) :: rest → u = { s with lpe := { s.lpe with inbox := rest } } →
      (s.on F.LPE_STATUS_SAFE_READY = false → exec .summaryEvaluate s = .next (u.verdict id r false).alarmWake) ∧
      (s.on F.LPE_STATUS_SAFE_READY = true →
        ((s.rulesFor r = [] ∧ s.watchersFor r = [] ∧ s.pairOf (smChan r) (smTen r) = none) ∨
            (smMirror r = true ∧ s.pairOf (smChan r) (smTen r) = none) ∨ (smMirror r = false ∧ s.pairOf (smChan r) (smTen r) ≠ none) →
          exec .summaryEvaluate s = .next ((((u.stick F.LPE_NOCHAN_NOCHAN).event
            ((u.stick F.LPE_NOCHAN_NOCHAN).eventRec 9 0 0 (smTen r) 0 (smChan r) (smSeq r) (smUtag r))).verdict id r false).lpeUpdate).alarmWake) ∧
        (∀ ok j, u.judge r = (ok, j) →
          (ok = true ↔ isGood (smStatus r) = true ∧ ∀ x ∈ s.rulesFor r, ruleHolds x.2 r = true) ∧
          ((∀ x ∈ s.rulesFor r, ruleHolds x.2 r = true) → j = u) ∧
          (smMirror r = false → s.pairOf (smChan r) (smTen r) = none → s.rulesFor r ≠ [] ∨ s.watchersFor r ≠ [] →
            exec .summaryEvaluate s = .next (((if ok then j.refreshAll r else j).verdict id r ok).lpeUpdate).alarmWake) ∧
          (∀ i side, s.pairOf (smChan r) (smTen r) = some (i, side) → smMirror r = true →
            (∀ p w, j.lpe.unpaired.find? (fun (x : Unpaired) => x.pair == i && x.side != side && smUtag x.rec' == smUtag r) = some p →
              w = { j with lpe := { j.lpe with unpaired := j.lpe.unpaired.erase p } } →
              (ok = true → p.ok = true → pairCompare (j.lpePair i) (if side then p.rec' else r) (if side then r else p.rec') = none →
                exec .summaryEvaluate s = .next (((((w.refreshAll p.rec').refreshAll r).verdict p.cmd p.rec' true).verdict id r true).lpeUpdate).alarmWake) ∧
              (∀ c, pairCompare (j.lpePair i) (if side then p.rec' else r) (if side then r else p.rec') = some c ∨ (c = 4 ∧ (ok = false ∨ p.ok = false) ∧
                  pairCompare (j.lpePair i) (if side then p.rec' else r) (if side then r else p.rec') = none) →
                exec .summaryEvaluate s = .next ((((w.pairFail i c r).verdict p.cmd p.rec' false).verdict id r false).lpeUpdate).alarmWake)) ∧
            (∀ me w, j.lpe.unpaired.find? (fun (x : Unpaired) => x.pair == i && x.side != side && smUtag x.rec' == smUtag r) = none →
              me = ({ pair := i, side := side, cmd := id, rec' := r, ok := ok, at_ := j.cad.time } : Unpaired) →
              w = { j with lpe := { j.lpe with unpaired := j.lpe.unpaired ++ [me] } } →
              ((i, !side, smUtag r) ∈ j.lpe.lostMates → exec .summaryEvaluate s = .next ((({ w with lpe := { w.lpe with
                lostMates := w.lpe.lostMates.erase (i, !side, smUtag r) } } : State).missing me).lpeUpdate).alarmWake) ∧
              ((i, !side, smUtag r) ∉ j.lpe.lostMates → ∀ mine, mine = j.lpe.unpaired.filter (fun (x : Unpaired) => x.pair == i && x.side == side) →
                (mine.length < 16 → exec .summaryEvaluate s = .next w.lpeUpdate.alarmWake) ∧
                (∀ old more, mine = old :: more → 16 ≤ mine.length → exec .summaryEvaluate s = .next ((w.missing old).lpeUpdate).alarmWake)))))))) ∧
  (∀ (s : State) (id : Nat),
    (∀ pass w, s.lpe.verdicts.find? (fun v => v.1 == id) = some (id, pass) →
      w = ({ s with lpe := { s.lpe with verdicts := s.lpe.verdicts.erase (id, pass) } } : State).modCmd id (fun (x : Cmd) => { x with verdict := some pass }) →
      (s.cmd? id = none → exec (.gatedVerdict id) s = .next w) ∧
      (∀ c, s.cmd? id = some c → exec (.gatedVerdict id) s = .next (if pass = false ∧ c.phase = .drained then w.fail id stABORT_SAFETY else w))) ∧
    (s.lpe.verdicts.find? (fun v => v.1 == id) = none → exec (.gatedVerdict id) s = .next s)) ∧
  (∀ (s : State) (i : Fin 64),
    (∀ p, s.lpe.unpaired.find? (fun (x : Unpaired) => x.pair == i.val) = some p → exec (.mirrorWindowExpiry i) s =
      .next ((s.advance (p.at_ + 1000 * paWindow (s.lpePair i.val))).missing p).alarmWake) ∧
    ((∀ p ∈ s.lpe.unpaired, p.pair ≠ i.val) → exec (.mirrorWindowExpiry i) s = .next s.alarmWake)) ∧
  (∀ s : State, s.alarmWake = if s.lpe.raised then ({ s with lpe := { s.lpe with raised := false } } : State).wake 9 else s)

/-- WATCHER_EXPIRY, PATTERN_HOLD_EXPIRY, TRIPWIRE_RECORD, FAULT_CLEAR, ALARM_CLEAR, LP_STATUS_FRAME, LP_FRAME_RECEIVED,
EVENT_RING_FLUSH (R422, R426 to R429, R436): an armed watcher past its LIMIT, in µs or in ticks, raises its action and sets AGE once; a
hold ends at its instant; a tripwire raises its zone's pattern; the fault latch clears unless its watcher is still expired; the alarms
named are no longer latched and no other; received LP frames are discarded; kept records go to the ring in order while it takes them. -/
def Obligations.LoupeRaisesAndClearsItsAlarms : Prop :=
  ∀ (s : State) (w : Fin 256) (p : Fin 15) (v : Word) (f : List Byte),
    (∀ d a b, s.watchDeadline w.val = some d → rlValid (s.lpeWatch w.val) = true →
      s.on F.LPE_STATUS_ARMED = true → w.val ∉ s.lpe.expired →
      a = ({ s.advance d with lpe := { (s.advance d).lpe with expired := (s.advance d).lpe.expired ++ [w.val] } } : State) →
      b = (a.raise (waAction (s.lpeWatch w.val)) (some w.val)).stick F.LPE_AGE_AGE →
      exec (.watcherExpiry w) s = .next ((b.event (b.eventRec 2 (waAction (s.lpeWatch w.val)) w.val (rlTen (s.lpeWatch w.val)) 0
        (rlChan (s.lpeWatch w.val)) 0 0)).lpeUpdate).alarmWake) ∧
    (∀ t n, kvFind s.lpe.refreshed w.val = some (t, n) → s.watchDeadline w.val =
      if waTicks (s.lpeWatch w.val) then (if s.on F.CAD_CTRL_EN then some (s.edgeOf (n + waLimit (s.lpeWatch w.val) + 1)) else none)
      else some (t + 1000 * waLimit (s.lpeWatch w.val))) ∧
    (s.on F.LPE_STATUS_ARMED = false ∨ w.val ∈ s.lpe.expired ∨ rlValid (s.lpeWatch w.val) = false ∨ s.watchDeadline w.val = none →
      exec (.watcherExpiry w) s = .next s.alarmWake) ∧
    (∀ t a, kvFind s.lpe.holds p.val = some t → a = s.advance t →
      exec (.patternHoldExpiry p) s = .next ((({ a with lpe := { a.lpe with holds := kvDel a.lpe.holds p.val } } : State).patEnded p.val
        (a.patActive p.val)).lpeUpdate)) ∧
    (kvFind s.lpe.holds p.val = none → exec (.patternHoldExpiry p) s = .next s) ∧
    (∀ t rest a b z, s.lpe.down = none → s.lpe.unpowered = false → s.lpe.trips = t :: rest → a = ({ s with lpe := { s.lpe with trips := rest } } : State) →
      z = leAt (s.lpePat (256 + t.zone)) 0 1 % 16 → b = a.raise z none →
      exec .tripwireRecord s =
        .next (if s.on F.LPE_STATUS_ARMED then (b.event (b.eventRec 5 z t.zone 0 0 0 t.camera t.zone)).lpeUpdate else a).alarmWake) ∧
    (s.lpe.trips = [] ∨ s.lpe.down.isSome = true ∨ s.lpe.unpowered = true → exec .tripwireRecord s = .next s.alarmWake) ∧
    ((∀ k, s.lpe.latchBy = some k → k ∉ s.lpe.expired) → bit v.toNat 0 = true → exec (.faultClear v) s =
      .next ((({ s with lpe := { s.lpe with latchBy := none } } : State)).set F.LPE_STATUS_LATCH 0).lpeUpdate) ∧
    (bit v.toNat 0 = false ∨ (∃ k, s.lpe.latchBy = some k ∧ k ∈ s.lpe.expired) → exec (.faultClear v) s = .next s) ∧
    ((∀ k : Nat, 2 ≤ k → k ≤ 14 → (bit v.toNat k = false ∨ bit s.lpe.latched k = false)) → exec (.alarmClear v) s = .next s.lpeUpdate) ∧
    (∃ a : State, exec (.alarmClear v) s = .next a.lpeUpdate ∧
      (∀ k : Nat, bit a.lpe.latched k = if 2 ≤ k ∧ k ≤ 14 ∧ bit v.toNat k = true then false else bit s.lpe.latched k) ∧
      a.lpe.holds = s.lpe.holds ∧ a.lpe.expired = s.lpe.expired ∧
      (s.on F.LPE_CTRL_LP_EN = false → s.get F.LPE_ELOG_WIN_ID = 0xFFFF → a = { s with lpe := { s.lpe with latched := a.lpe.latched } })) ∧
    (s.on F.LPE_CTRL_LP_EN = false ∨ s.lpe.unpowered = true → exec .lpStatusFrame s = .next s) ∧
    (s.on F.LPE_CTRL_LP_EN = true → s.lpe.unpowered = false → ∃ a : State, exec .lpStatusFrame s = .next a ∧
      a.lpe.lpSeq = (s.lpe.lpSeq + 1) % 2 ^ 32 ∧ (∃ g, a.outbox = s.outbox ++ [.lpFrame g]) ∧
      a = { s with lpe := { s.lpe with lpSeq := a.lpe.lpSeq }, outbox := a.outbox }) ∧
    exec (.lpFrameReceived f) s = .next s ∧
    (s.get F.LPE_ELOG_WIN_ID = 0xFFFF ∨ s.lpe.kept = [] → exec .eventRingFlush s = .next s) ∧
    (∀ r rest a b, s.get F.LPE_ELOG_WIN_ID ≠ 0xFFFF → s.lpe.kept = r :: rest → s.elogWrite r = (b, a) →
      (b = false → exec .eventRingFlush s = .next a) ∧
      (b = true → rest = [] → exec .eventRingFlush s = .next ({ a with lpe := { a.lpe with kept := [] } } : State)) ∧
      (b = true → exec .eventRingFlush s = exec .eventRingFlush ({ a with lpe := { a.lpe with kept := rest } } : State)))

/-- SAFE_ENABLE, LPE_RESET, LOCKSTEP_MISMATCH, LOUPE_CLOCK_FAULT, LOUPE_EXCEPTION, LF_WATCHDOG_EXPIRY, LOUPE_SRAM_UE,
LOUPE_RESTART_COMPLETE (R416, R419, R431 to R433, R439, Table 15.11): SAFE_EN is as written; the reset key clears both latches and the
queues, fails the gated commands whose summaries go, and starts LF, another value sets CFG; the hardware latch is set once; each fault of
a core begins a Loupe restart, which ends with every watcher refreshed and with the fault latch and SELF set. -/
def Obligations.LoupeFaultsLatchAndRestart : Prop :=
  ∀ (s : State) (v : Word) (sp ok : Bool),
    exec (.safeEnable v) s = .next (s.putRw F.LPE_CTRL_SAFE_EN.addr v.toNat).lpeUpdate ∧
    (v = 0x4C525354 → ∃ u : State, exec (.lpeReset v) s = .next u.lpeUpdate ∧ u.get F.LPE_STATUS_LATCH = 0 ∧
      u.get F.LPE_STATUS_ARMED = 0 ∧ u.lpe.hwLatch = false ∧ u.lpe.latchBy = none ∧ u.lpe.down = some .start ∧ u.lpe.inbox = [] ∧ u.lpe.trips = [] ∧
      u.lpe.unpaired = [] ∧ u.lpe.expired = [] ∧ u.lpe.holds = [] ∧ u.lpe.latched = 0 ∧ u.lpe.kept = [] ∧ u.boot.session = none ∧
      (∀ x ∈ s.lpe.inbox, smGate x.2 = true → (x.1, false) ∈ u.lpe.verdicts) ∧
      (∀ x ∈ s.lpe.unpaired, smGate x.rec' = true → (x.cmd, false) ∈ u.lpe.verdicts) ∧ (∀ x ∈ s.lpe.verdicts, x ∈ u.lpe.verdicts) ∧
      u.lpe.rules = s.lpe.rules ∧ u.lpe.watchers = s.lpe.watchers ∧ u.lpe.pairs = s.lpe.pairs ∧ u.lpe.pats = s.lpe.pats ∧
      u = { s with regs := u.regs, lpe := u.lpe, boot := u.boot }) ∧
    (v ≠ 0x4C525354 → exec (.lpeReset v) s = .next (s.stick F.LPE_CFG_CFG)) ∧
    (s.lpe.hwLatch = true → exec .lockstepMismatch s = .next s ∧ exec .loupeClockFault s = .next s ∧ exec (.loupeException true sp) s = .next s) ∧
    (s.lpe.hwLatch = false → ∀ u, u = (State.lpeUpdate (State.fault { s with lpe := { s.lpe with hwLatch := true } } 8 0x41 0xA0 0 0x60 0 0 0 [])).lastWords 0x41 0xFF 0 0 →
      exec .lockstepMismatch s = .next u ∧ exec .loupeClockFault s = .next u ∧ exec (.loupeException true sp) s = .next u) ∧
    (∀ d, d = ({ s with lpe := { s.lpe with down := some .restart } } : State).closeSession.trace 0x07 0xA0 0 0 (leBytes 1 5) →
      exec (.loupeException false sp) s = .next (d.fault 8 0x40 0xA0 0 0x60 0 0 0 (leBytes 1 (if sp then 0 else 1))).lpeUpdate ∧
      exec .lfWatchdogExpiry s = .next (d.fault 8 0x40 0xA0 0 0x60 0 0 0 (leBytes 1 0)).lpeUpdate ∧
      exec .loupeSramUe s = .next (d.fault 8 0x40 0xA0 0 0x60 0 0 0 (leBytes 1 0)).lpeUpdate) ∧
    (s.lpe.down = none ∨ s.lpe.unpowered = true → exec (.loupeRestartComplete ok) s = .next s) ∧
    (∀ vs, vs = s.lpe.watchers.filter (fun (x : Nat × List Byte) => rlValid x.2) → s.lpe.unpowered = false →
      (∀ u, s.lpe.down = some .restart → u = { s with lpe := { s.lpe with down := none, latchBy := none } } →
        exec (.loupeRestartComplete ok) s = .next (((if ok then vs.foldl (fun (s : State) x => s.refresh x.1) u
          else { u with lpe := { u.lpe with cfCrc := none } }).set F.LPE_STATUS_LATCH 1).stick F.LPE_SELF_SELF).lpeUpdate) ∧
      (s.lpe.down = some .start → exec (.loupeRestartComplete ok) s = .next ({ s with lpe := { s.lpe with
        down := none, refreshed := vs.map fun (x : Nat × List Byte) => (x.1, s.cad.time, s.tick) } } : State).lpeUpdate))

/-- KEY_INSTALL, KEY_ERASE, LP_KEY, CRED_INSTALL, CRED_REVOKE, AUTH_SET, SVN_ADVANCE, CREDENTIAL_EVALUATE (R443, R447, R450 to R453):
a mailbox command sets CFG while one runs; a buffer that cannot be read, a malformed key, an occupied slot or a refused credential
ends it with its status code; else the key, credential, fuse or counter is stored and the code is 0; a credential that lapses
stops its tenant's fetching once, and one newly installed ends the stop. A block held by a restart takes none of them. -/
def Obligations.MailboxCommandsKeepTheVault : Prop :=
  ∀ (s : State) (slot : Fin 32) (fails : Bool) (arg : BitVec 16),
    (s.boot.phase = .restart → exec (.keyErase slot) s = .next s ∧ exec (.lpKey fails) s = .next s ∧ exec (.credRevoke arg) s = .next s ∧
      exec .svnAdvance s = .next s ∧ exec (.keyInstall slot fails) s = .next s ∧ exec (.credInstall fails) s = .next s ∧
      exec (.authSet arg fails) s = .next s) ∧
    (s.boot.phase ≠ .restart → s.on F.SEC_KMB_STATUS_BUSY = true →
      exec (.keyErase slot) s = .next (s.stick F.SEC_CFG_CFG) ∧ exec (.lpKey fails) s = .next (s.stick F.SEC_CFG_CFG) ∧
      exec (.credRevoke arg) s = .next (s.stick F.SEC_CFG_CFG) ∧ exec .svnAdvance s = .next (s.stick F.SEC_CFG_CFG) ∧
      exec (.keyInstall slot fails) s = .next (s.stick F.SEC_CFG_CFG) ∧ exec (.credInstall fails) s = .next (s.stick F.SEC_CFG_CFG) ∧
      exec (.authSet arg fails) s = .next (s.stick F.SEC_CFG_CFG)) ∧
    (s.boot.phase ≠ .restart → s.on F.SEC_KMB_STATUS_BUSY = false →
      (s.dead = true → exec (.keyInstall slot fails) s = .next (s.kmbEnd stREJ_PERM) ∧ exec (.credInstall fails) s = .next (s.kmbEnd stREJ_PERM)) ∧
      (∀ st r, s.dead = false → s.kmbRead 80 fails = (.error st, r) → exec (.keyInstall slot fails) s = .next (r.kmbEnd st)) ∧
      (∀ b r z, s.dead = false → s.kmbRead 80 fails = (.ok b, r) → z = r.kmbZero 80 →
        (leAt b 0 1 ≠ 1 ∨ 3 < leAt b 1 1 ∨ zeros b 2 14 = false → exec (.keyInstall slot fails) s = .next (z.kmbEnd stREJ_FORMAT)) ∧
        (leAt b 0 1 = 1 → leAt b 1 1 ≤ 3 → zeros b 2 14 = true →
          ((kvFind z.sec.slots slot.val).isSome = true → exec (.keyInstall slot fails) s = .next (z.kmbEnd stREJ_BUSY)) ∧
          (kvFind z.sec.slots slot.val = none → exec (.keyInstall slot fails) s = .next (((z.vaultPut
            { z.sec with slots := kvIns slot.val b z.sec.slots }).secTrace 2 slot.val 0).kmbEnd stDONE)))) ∧
      (kvFind s.sec.slots slot.val = none → exec (.keyErase slot) s = .next (s.kmbEnd stDONE)) ∧
      ((kvFind s.sec.slots slot.val).isSome = true → exec (.keyErase slot) s = .next (((s.vaultPut
        { s.sec with slots := kvDel s.sec.slots slot.val }).secTrace 2 slot.val 0).kmbEnd stDONE)) ∧
      (∀ st r, s.kmbRead 32 fails = (.error st, r) → exec (.lpKey fails) s = .next (r.kmbEnd st)) ∧
      (∀ b r z, s.kmbRead 32 fails = (.ok b, r) → z = r.kmbZero 32 → exec (.lpKey fails) s = .next ((((z.vaultPut
        { z.sec with lpKey := some b }).putLpKey b).secTrace 2 0 0).kmbEnd stDONE)) ∧
      (∀ st r, s.dead = false → s.kmbRead 256 fails = (.error st, r) → exec (.credInstall fails) s = .next (r.kmbEnd st)) ∧
      (∀ c r, s.dead = false → s.kmbRead 256 fails = (.ok c, r) →
        (r.credCheck c ≠ stDONE → exec (.credInstall fails) s = .next (r.kmbEnd (r.credCheck c))) ∧
        (∀ t v, r.credCheck c = stDONE → t = leAt c 3 1 → v = (r.vaultPut { r.sec with creds := kvIns t c r.sec.creds }).secTrace 3 t 0 →
          exec (.credInstall fails) s = .next (State.kmbEnd (if bit v.sec.lapsed t then
              { v.set F.CMQ_STOP (putBit (v.get F.CMQ_STOP) t false) with sec := { v.sec with lapsed := putBit v.sec.lapsed t false } }
            else v) stDONE) ∧
          kvFind v.sec.creds t = some c ∧ v.get (F.SEC_MC 4 0) = (r.get (F.SEC_MC 4 0) + 1) % 2 ^ 32)) ∧
      exec (.credRevoke arg) s = .next (((s.set (F.SEC_MC 5 0) (max (s.get (F.SEC_MC 5 0)) arg.toNat)).credEvalAll).kmbEnd stDONE) ∧
      (1 < arg.toNat → exec (.authSet arg fails) s = .next (s.kmbEnd stREJ_FORMAT)) ∧
      (arg.toNat ≤ 1 → 2 ≤ s.get F.SEC_LC_STATE → exec (.authSet arg fails) s = .next (s.kmbEnd stREJ_PERM)) ∧
      (∀ st r, arg.toNat ≤ 1 → s.get F.SEC_LC_STATE < 2 → s.kmbRead 96 fails = (.error st, r) → exec (.authSet arg fails) s = .next (r.kmbEnd st)) ∧
      (∀ b r, s.get F.SEC_LC_STATE < 2 → s.kmbRead 96 fails = (.ok b, r) →
        (arg = 0 → r.sec.siteHash = none → exec (.authSet arg fails) s =
          .next (State.kmbEnd { r with sec := { r.sec with siteHash := some (Config.sha384 b) } } stDONE)) ∧
        (arg = 1 → r.sec.dbgHash = none → exec (.authSet arg fails) s =
          .next (State.kmbEnd { r with sec := { r.sec with dbgHash := some (Config.sha384 b) } } stDONE)) ∧
        ((arg = 0 ∧ r.sec.siteHash ≠ none) ∨ (arg = 1 ∧ r.sec.dbgHash ≠ none) → exec (.authSet arg fails) s = .next (r.kmbEnd stREJ_PERM))) ∧
      (∃ u : State, exec .svnAdvance s = .next (u.kmbEnd stDONE) ∧ u.get (F.SEC_MC 2 0) = max (s.get (F.SEC_MC 2 0)) (leAt s.boot.cf 8 4) ∧
        (s.boot.lf ≠ [] → u.get (F.SEC_MC 3 0) = max (s.get (F.SEC_MC 3 0)) (leAt s.boot.lf 8 4)) ∧
        u.sec = { s.sec with revoke := s.sec.revoke ||| (putBit (leAt s.boot.cf 24 1 % 16) (leAt s.boot.cf 3 1) false % 16) })) ∧
    (s.on F.SEC_CTRL_CRED_REQ = false → exec .credentialEvaluate s = .next s) ∧
    (s.on F.SEC_CTRL_CRED_REQ = true → ∃ u : State, exec .credentialEvaluate s = .next u ∧ u.sec.creds = s.sec.creds ∧
      ∀ t, t < 16 → ∀ lapse, (lapse ↔ t ≠ 0 ∧ (kvFind s.sec.creds t).isSome = true ∧ s.credValid t = false ∧ bit s.sec.lapsed t = false) →
        (lapse → bit u.sec.lapsed t = true ∧ bit (u.get F.CMQ_STOP) t = true) ∧
        (¬ lapse → bit u.sec.lapsed t = bit s.sec.lapsed t ∧ bit (u.get F.CMQ_STOP) t = bit (s.get F.CMQ_STOP) t)) ∧
    ((∀ t, t < 16 → t ≠ 0 → (kvFind s.sec.creds t).isSome = true → s.credValid t = true ∨ bit s.sec.lapsed t = true) → exec .credentialEvaluate s = .next s)

/-- LC_ADVANCE, DECOMMISSION_COMPLETE, D2_UNLOCK_COMPLETE, DBG_TOKEN, DEBUG_LEVEL_WRITE (R454 to R460): the lifecycle state rises one
step where its keys are set, to DECOMMISSIONED through a wipe; a token that is not acceptable sets DBGREF; a level is lowered by
anyone, raised by JTAG in BLANK and DECOMMISSIONED and by T0 to at most 1 elsewhere; other writes are refused; a D2 unlock ends
with its wipe. A block held by a restart takes no write of the host. -/
def Obligations.LifecycleAndDebugLevelsMoveByTheirRules : Prop :=
  ∀ (s : State) (arg : BitVec 16) (b : List Byte) (v : Word) (fails : Bool),
    (s.boot.phase = .restart → exec (.lcAdvance arg) s = .next s ∧ exec (.dbgToken none fails) s = .next s ∧
      exec (.debugLevelWrite v false) s = .next s) ∧
    (s.blockOpen = true → s.on F.SEC_KMB_STATUS_BUSY = true → exec (.lcAdvance arg) s = .next (s.stick F.SEC_CFG_CFG) ∧
      exec (.dbgToken none fails) s = .next (s.stick F.SEC_CFG_CFG)) ∧
    (s.blockOpen = true → s.on F.SEC_KMB_STATUS_BUSY = false →
      (arg = 1 → s.get F.SEC_LC_STATE = 0 → s.sec.siteHash.isSome = true → exec (.lcAdvance arg) s = .next ((s.lifecycle 1).kmbEnd stDONE)) ∧
      (arg = 2 → s.get F.SEC_LC_STATE = 1 → s.sec.dbgHash.isSome = true → exec (.lcAdvance arg) s = .next ((s.lifecycle 2).kmbEnd stDONE)) ∧
      (arg = 3 → s.get F.SEC_LC_STATE = 1 ∨ s.get F.SEC_LC_STATE = 2 → exec (.lcAdvance arg) s = .next s.decomStart) ∧
      (arg = 0 ∨ 3 < arg.toNat ∨ s.get F.SEC_LC_STATE = 3 ∨ (arg = 3 ∧ s.get F.SEC_LC_STATE = 0) ∨ (arg = 1 ∧ (s.get F.SEC_LC_STATE ≠ 0 ∨
          s.sec.siteHash = none)) ∨ (arg = 2 ∧ (s.get F.SEC_LC_STATE ≠ 1 ∨ s.sec.dbgHash = none)) →
        exec (.lcAdvance arg) s = .next (s.kmbEnd stREJ_PERM))) ∧
    (s.sec.decom = true → s.pcie.ctxRst = [] → ∃ u : State, exec .decommissionComplete s = .next ((u.lifecycle 3).kmbEnd stDONE) ∧ u.sec.udsKill = true ∧
      u.sec.decom = false ∧ u.sec.slots = [] ∧ u.sec.creds = [] ∧ u.sec.lpKey = none ∧ u.sec.sessions = [] ∧ u.eth.sas = [] ∧
      (∀ a, a < 0x40000000 → u.mem.byte 1 a = 0) ∧ (∀ a, a < spaceSize 2 → u.mem.byte 2 a = 0) ∧
      u.plans = [] ∧ u.graphs = [] ∧ u.wins = []) ∧
    (s.sec.decom = false ∨ s.pcie.ctxRst ≠ [] → exec .decommissionComplete s = .next s) ∧
    (∀ old, s.sec.unlock = some old → s.pcie.ctxRst = [] → ∃ u : State, exec .d2UnlockComplete s = .next ((u.set F.SEC_DBG_LEVEL 2).debugTrace 1 old 2) ∧
      u.sec.unlock = none ∧ u.sec.slots = [] ∧ u.plans = [] ∧ u.graphs = [] ∧ u.wins = s.wins ∧ (∀ a, a < 0x7E00000 → u.mem.byte 1 a = 0)) ∧
    (s.sec.unlock = none ∨ s.pcie.ctxRst ≠ [] → exec .d2UnlockComplete s = .next s) ∧
    (∀ t, t = ({ s with sec := { s.sec with tap := 7 } } : State) →
      (t.tokenOk b = false → exec (.dbgToken (some b) fails) s = .next (((t.newChal).stickIrq F.SEC_DBGREF_DBGREF 14).debugTrace 4
        (s.get F.SEC_DBG_LEVEL) (leAt b 3 1))) ∧
      (t.tokenOk b = true → ∀ u, u = (t.set (F.SEC_MC 6 0) (leAt b 12 4)).newChal →
        (s.get F.SEC_DBG_LEVEL < leAt b 3 1 → exec (.dbgToken (some b) fails) s = .next (u.raiseLevel (leAt b 3 1))) ∧
        (leAt b 3 1 ≤ s.get F.SEC_DBG_LEVEL → exec (.dbgToken (some b) fails) s = .next u))) ∧
    (s.blockOpen = true → s.on F.SEC_KMB_STATUS_BUSY = false → ∀ r,
      (s.kmbRead 256 fails = (.ok b, r) → exec (.dbgToken none fails) s = .next ((r.token b).2.kmbEnd (r.token b).1)) ∧
      (∀ st, s.kmbRead 256 fails = (.error st, r) → exec (.dbgToken none fails) s = .next (r.kmbEnd st))) ∧
    (∀ l w, l = v.toNat % 4 → w = s.set F.SEC_DBG_DBG_PWR_OVERRIDE (bitsOf v.toNat 3 1) →
      (l ≤ s.get F.SEC_DBG_LEVEL → l ≠ 3 → exec (.debugLevelWrite v true) s = .next (w.setLevel l) ∧
        (s.blockOpen = true → exec (.debugLevelWrite v false) s = .next (w.setLevel l))) ∧
      (l = 3 → exec (.debugLevelWrite v true) s = .next s ∧ (s.blockOpen = true → exec (.debugLevelWrite v false) s = .next (s.stick F.SEC_CFG_CFG))) ∧
      (s.get F.SEC_DBG_LEVEL < l → l ≠ 3 → s.get F.SEC_LC_STATE = 0 ∨ s.get F.SEC_LC_STATE = 3 →
        exec (.debugLevelWrite v true) s = .next (w.raiseLevel l)) ∧
      (s.get F.SEC_DBG_LEVEL < l → s.get F.SEC_LC_STATE = 1 ∨ s.get F.SEC_LC_STATE = 2 → exec (.debugLevelWrite v true) s = .next s) ∧
      (s.blockOpen = true → s.get F.SEC_DBG_LEVEL < l → s.get F.SEC_LC_STATE = 0 ∨ s.get F.SEC_LC_STATE = 3 ∨ 1 < l →
        exec (.debugLevelWrite v false) s = .next (s.stick F.SEC_CFG_CFG)) ∧
      (s.blockOpen = true → s.get F.SEC_DBG_LEVEL = 0 → l = 1 → s.get F.SEC_LC_STATE = 1 ∨ s.get F.SEC_LC_STATE = 2 →
        exec (.debugLevelWrite v false) s = .next (w.setLevel 1)))

/-- IDCODE, BYPASS, SAMPLE/PRELOAD, EXTEST, CLAMP, HIGHZ, TRST_N_ASSERT, DBG_CHAL, DBG_TRACE, DBG_AP, DEBUGGER_ATTACH,
DEBUGGER_DETACH, TRC_USER, SPDM_REQUEST (R445, R456, R457, R459, R465, R544, Table 16.10): each TAP instruction is in force and
shifts out its data; the ones that drive pins act as BYPASS in PROVISIONED and DEPLOYED below D2, trace below D1, the access port
below D2; a request outside the SPDM set, and each but GET_VERSION of a decommissioned device, is answered with an error; a session is
opened, established, used and ended in that order. What SAMPLE/PRELOAD shifts out is a free value, and the code of each SPDM error is
the model's (log entry 38). -/
def Obligations.TapInstructionsAndSpdmAnswer : Prop :=
  ∀ (s : State) (d : List Bool) (reg : Bool) (i : Fin 131072) (op : DbgOp) (v : Word) (code : Byte) (n : Option (Fin 4)) (req : List Byte),
    exec .idcode s = .next { s with sec := { s.sec with tap := 0 }, outbox := s.outbox ++ [.jtag (leBytes 4 Config.idcode.toNat)] } ∧
    exec .bypass s = .next { s with sec := { s.sec with tap := 1 } } ∧
    exec (.samplePreload d) s = .next { s with sec := { s.sec with tap := 2, boundary := d }, fresh := s.fresh + 1, outbox := s.outbox ++ [.jtag (leBytes 8 s.freeVal.toNat)] } ∧
    ((s.get F.SEC_LC_STATE = 0 ∨ s.get F.SEC_LC_STATE = 3 ∨ s.get F.SEC_DBG_LEVEL = 2) →
      exec .extest s = .next (s.tapTo 3) ∧ exec .clamp s = .next (s.tapTo 4) ∧ exec .highz s = .next (s.tapTo 5)) ∧
    (s.get F.SEC_LC_STATE = 1 ∨ s.get F.SEC_LC_STATE = 2 → s.get F.SEC_DBG_LEVEL ≠ 2 →
      exec .extest s = .next (s.tapTo 1) ∧ exec .clamp s = .next (s.tapTo 1) ∧ exec .highz s = .next (s.tapTo 1)) ∧
    exec .trstNAssert s = .next { s with sec := { s.sec with tap := 0 } } ∧
    exec .dbgChal s = .next { s with sec := { s.sec with tap := 6 }, outbox := s.outbox ++ [.jtag s.chal] } ∧
    (s.get F.SEC_DBG_LEVEL = 0 → exec (.dbgTrace reg i) s = .next (s.tapTo 1)) ∧
    (s.get F.SEC_DBG_LEVEL ≠ 0 → exec (.dbgTrace true i) s =
      .next ((s.tapTo 8).out (.jtag (leBytes 4 ((s.word (F.TRC_CTRL_EN.addr + 4 * (i.val % 0x400))).getD 0))))) ∧
    (s.get F.SEC_DBG_LEVEL ≠ 0 → s.get F.PWR_STATUS_STATE = 2 ∨ s.get F.PWR_STATUS_STATE = 3 → exec (.dbgTrace false i) s =
      .next ((s.tapTo 8).out (.jtag (List.replicate 32 0)))) ∧
    (∀ l r, s.get F.SEC_DBG_LEVEL ≠ 0 → s.get F.PWR_STATUS_STATE ≠ 2 → s.get F.PWR_STATUS_STATE ≠ 3 →
      (s.tapTo 8).memReadFree 1 (0x5000000 + 32 * i.val) 32 0x52 = (l, r) → exec (.dbgTrace false i) s = .next (r.out (.jtag l))) ∧
    (s.get F.SEC_DBG_LEVEL ≠ 2 → exec (.dbgAp op) s = .next (s.tapTo 1)) ∧
    (s.get F.SEC_DBG_LEVEL = 2 → exec (.dbgAp op) s = .next (s.dbgAp op)) ∧
    (∀ c, s.get F.SEC_DBG_LEVEL = 2 → s.dbgCore c = true → c ∉ s.boot.halted → exec (.dbgAp (.halt c)) s =
      .next { s with sec := { s.sec with tap := 9 }, boot := { s.boot with halted := s.boot.halted ++ [c] } }) ∧
    (s.get F.SEC_DBG_LEVEL = 2 → s.on F.SEC_DBG_ATTACHED = false → exec .debuggerAttach s = .next ((s.set F.SEC_DBG_ATTACHED 1).debugTrace 2 2 2)) ∧
    (s.get F.SEC_DBG_LEVEL ≠ 2 ∨ s.on F.SEC_DBG_ATTACHED = true → exec .debuggerAttach s = .next s) ∧
    (s.on F.SEC_DBG_ATTACHED = true → exec .debuggerDetach s = .next ((s.set F.SEC_DBG_ATTACHED 0).debugTrace 3 (s.get F.SEC_DBG_LEVEL) (s.get F.SEC_DBG_LEVEL))) ∧
    (s.on F.SEC_DBG_ATTACHED = false → exec .debuggerDetach s = .next s) ∧
    (s.boot.phase = .restart → exec (.trcUser v) s = .next s) ∧
    (s.boot.phase ≠ .restart → exec (.trcUser v) s = .next ((s.set (F.TRC_USER 3) v.toNat).trace 0x0C 0x60 0 0
      (leBytes 4 (s.get (F.TRC_USER 0)) ++ leBytes 4 (s.get (F.TRC_USER 1)) ++ leBytes 4 (s.get (F.TRC_USER 2)) ++ leBytes 4 v.toNat))) ∧
    (s.get F.SEC_LC_STATE = 3 → code ≠ 0x84 → ∃ o, exec (.spdmRequest code n req) s = .next (s.out (.spdm o)) ∧ leAt o 1 1 = 0x7F) ∧
    (code = 0x84 → ∃ o, exec (.spdmRequest code n req) s = .next (s.out (.spdm o)) ∧ leAt o 0 2 = 0x0410) ∧
    (s.dead = false → code.toNat ∈ [0xE1, 0xE3, 0x81, 0x82, 0x83, 0xE0] → exec (.spdmRequest code n req) s = .next (s.spdmReply code.toNat req)) ∧
    (s.dead = false → code = 0xE4 → (∀ k, k < 4 → (s.spdmSession (some k)).isSome = true) → ∃ o, exec (.spdmRequest code n req) s =
      .next (s.out (.spdm o)) ∧ leAt o 1 1 = 0x7F) ∧
    (∀ k, s.dead = false → code = 0xE4 → (List.range 4).find? (fun k => (s.spdmSession (some k)).isNone) = some k →
      exec (.spdmRequest code n req) s = .next ((s.setSession k (some false)).spdmReply 0xE4 req)) ∧
    (∀ k, s.dead = false → code = 0xE5 → n = some k → s.spdmSession (some k.val) = some (k.val, false) →
      (Config.spdmOk 0xE5 req = true → exec (.spdmRequest code n req) s = .next ((s.setSession k.val (some true)).spdmReply 0xE5 req)) ∧
      (Config.spdmOk 0xE5 req = false → ∃ o, exec (.spdmRequest code n req) s = .next (s.out (.spdm o)) ∧ leAt o 1 1 = 0x7F)) ∧
    (∀ k, s.dead = false → code = 0xEC → n = some k → s.spdmSession (some k.val) = some (k.val, true) →
      exec (.spdmRequest code n req) s = .next ((s.setSession k.val none).spdmReply 0xEC req)) ∧
    (∀ k, s.dead = false → code = 0xFE → n = some k → s.spdmSession (some k.val) = some (k.val, true) →
      exec (.spdmRequest code n req) s = .next ((s.ideKm req).spdmReply 0xFE req)) ∧
    (s.dead = false → code = 0xE5 ∨ code = 0xEC ∨ code = 0xFE → s.spdmSession (n.map (·.val)) = none →
      ∃ o, exec (.spdmRequest code n req) s = .next (s.out (.spdm o)) ∧ leAt o 1 1 = 0x7F) ∧
    (s.dead = false → code.toNat ∉ [0x84, 0xE1, 0xE3, 0x81, 0x82, 0x83, 0xE0, 0xE4, 0xE5, 0xEC, 0xFE] → ∃ o, exec (.spdmRequest code n req) s =
      .next (s.out (.spdm o)) ∧ leAt o 1 1 = 0x7F)

/-- The trace unit on an event its filters let through (R463): in WRAP mode the newest record overwrites the oldest and TRC_WRAPS
counts the passes; in STOP mode a record is written only while TRC_WPTR − TRC_RPTR is below 131,072, and beyond that it is lost:
it is counted and memory does not change; the first record after a loss is an OVERFLOW record with the number lost. -/
def Obligations.TraceUnitWrapsOrStops : Prop :=
  ∀ (s : State) (ty unit ten seq : Nat) (b : List Byte) (r : List Byte), s.on F.TRC_CTRL_EN = true → s.get F.PWR_STATUS_STATE < 2 →
    bit (s.rd F.TRC_TYPEMASK.addr) ty = true → bit (s.get F.TRC_TENMASK) (ten % 16) = true → r = traceRecord s.cad.time ty unit ten seq b →
    ((s.on F.TRC_CTRL_MODE = false ∨ s.traceUsed < 131072) → s.errs.traceLost = 0 → ∃ u : State, s.trace ty unit ten seq b = u ∧
      (∀ k, k < 32 → u.mem.byte 1 (0x5000000 + 32 * (s.get F.TRC_WPTR % 131072) + k) = r.getD k 0) ∧
      (∀ a, (a < 0x5000000 + 32 * (s.get F.TRC_WPTR % 131072) ∨ 0x5000000 + 32 * (s.get F.TRC_WPTR % 131072) + 32 ≤ a) →
        u.mem.byte 1 a = s.mem.byte 1 a) ∧
      u.get F.TRC_WPTR = (s.get F.TRC_WPTR + 1) % 2 ^ 32 ∧
      u.get F.TRC_WRAPS = (if (s.get F.TRC_WPTR + 1) % 131072 = 0 ∧ s.on F.TRC_CTRL_MODE = false then min (2 ^ 32 - 1) (s.get F.TRC_WRAPS + 1) else s.get F.TRC_WRAPS)) ∧
    (s.on F.TRC_CTRL_MODE = true → 131072 ≤ s.traceUsed → ∃ u : State, s.trace ty unit ten seq b = u ∧ u.mem = s.mem ∧
      u.get F.TRC_WPTR = s.get F.TRC_WPTR ∧ u.get F.TRC_LOST = min (2 ^ 32 - 1) (s.get F.TRC_LOST + 1) ∧ u.get F.TRC_OVF_OVF = 1 ∧
      u.errs.traceLost = s.errs.traceLost + 1) ∧
    ((s.on F.TRC_CTRL_MODE = false ∨ s.traceUsed < 131072) → s.errs.traceLost ≠ 0 → ∃ u : State, s.trace ty unit ten seq b = u ∧
      ∀ k, k < 32 → u.mem.byte 1 (0x5000000 + 32 * (s.get F.TRC_WPTR % 131072) + k) =
        (traceRecord s.cad.time 0x0B 0 0 0 (leBytes 4 (min s.errs.traceLost 0xFFFFFFFF))).getD k 0)

/-- The fault log (R524, R526): a fault whose cause and unit are not those of a newest record less than 1 ms old is appended at
GLB_FLOG_TAIL with a count of 1, TAIL moves on, and vector 8 is offered; another adds one to that record's count, saturating, and
changes nothing else. The place of the record and the folding's edge are the model's (log entry 47). -/
def Obligations.FaultLogAppendsOrFolds : Prop :=
  ∀ (s : State) (cls cause unit status iid da seq trig : Nat) (det : List Byte) (tail : Nat) (old : List Byte), tail = s.get F.GLB_FLOG_TAIL →
    old = (kvFind s.errs.flog ((tail + 1023) % 1024)).getD [] →
    ((tail = 0 ∨ old = [] ∨ leAt old 9 1 ≠ cause ∨ leAt old 10 1 ≠ unit ∨ leAt old 0 8 + 1000000 ≤ s.cad.time) →
      ∃ u : State, s.fault cls cause unit status iid da seq trig det = u.irq 8 ∧ u.get F.GLB_FLOG_TAIL = (tail + 1) % 2 ^ 32 ∧
        kvFind u.errs.flog (tail % 1024) = some (leBytes 8 s.cad.time ++ leBytes 1 cls ++ leBytes 1 cause ++ leBytes 1 unit ++ leBytes 1 status
          ++ leBytes 2 iid ++ leBytes 2 1 ++ leBytes 8 da ++ leBytes 4 seq ++ leBytes 4 trig ++ slice det 0 32) ∧
        (∀ k, k ≠ tail % 1024 → kvFind u.errs.flog k = kvFind s.errs.flog k) ∧
        ((tail + 2 ^ 32 - s.get F.GLB_FLOG_HEAD) % 2 ^ 32 < 1024 → u = { s with regs := u.regs, errs := u.errs }) ∧
        (1024 ≤ (tail + 2 ^ 32 - s.get F.GLB_FLOG_HEAD) % 2 ^ 32 → u.get F.GLB_FLOGOVF_FLOGOVF = 1)) ∧
    (0 < tail → old ≠ [] → leAt old 9 1 = cause → leAt old 10 1 = unit → s.cad.time < leAt old 0 8 + 1000000 → ∃ u : State,
      s.fault cls cause unit status iid da seq trig det = u ∧ u = { s with errs := { s.errs with flog := u.errs.flog } } ∧
      (∀ k, k ≠ (tail + 1023) % 1024 → kvFind u.errs.flog k = kvFind s.errs.flog k) ∧
      (16 ≤ old.length → ∃ x, kvFind u.errs.flog ((tail + 1023) % 1024) = some x ∧ leAt x 14 2 = min 0xFFFF (leAt old 14 2 + 1) ∧
        ∀ k, k ≠ 14 → k ≠ 15 → x.getD k 0 = old.getD k 0))

/-- DRAIN_COMPLETE, DRAIN_TIMEOUT, WAKE_EVENT, WAKE_TIME_REACHED, I3C_WAKE, STATE_EXIT_COMPLETE, AUTO_HOLD_ENTRY, AUTO_HOLD_EXIT
(R466, R470, R471, R473 to R475): a drained entry takes its state and one that times out ends its request with REJ_BUSY; a source that
Table 17.4 names for the state wakes the device and is its cause, and abandons an entry in progress; other sources do nothing; an exit
leaves its record and ends in S0. -/
def Obligations.StatesAreEnteredAndLeft : Prop :=
  ∀ (s : State) (code : Fin 11) (v : Byte) (n : Nat),
    (s.pwr.entry = none → exec .drainComplete s = .next s ∧ exec .drainTimeout s = .next s) ∧
    (∀ id, s.pwr.entry = some (n, id) →
      (s.entryDrained n id = false → exec .drainComplete s = .next s) ∧
      (s.entryDrained n id = true → ∀ u, u = (id.elim (fun x => x) (fun i x => x.finish i stDONE 0) : State → State) { s with pwr := { s.pwr with entry := none } } →
        (n ≠ 4 → exec .drainComplete s = .next ((u.powerTrace (if n = 1 then 3 else 1) n).retain n)) ∧
        (n = 4 → exec .drainComplete s = .next (((((u.powerTrace 1 4).girthReturn).detach).portsDown).s4Enter 0x60))) ∧
      (∀ u, u = s.advance (s.pwr.entryAt + 1000 * s.get F.PWR_ENTRY_DRAIN_US) →
        (id = none → exec .drainTimeout s = .next { u with pwr := { u.pwr with entry := none } }) ∧
        (∀ i, id = some i → exec .drainTimeout s = .next (State.fail { u with pwr := { u.pwr with entry := none } } i stREJ_BUSY))) ∧
      (s.wakes n code.val = true → exec (.wakeEvent code) s = .next (s.abandon n id)) ∧
      (s.wakes n code.val = false → exec (.wakeEvent code) s = .next s)) ∧
    (1 ≤ n → n ≤ 3 → (s.retain n).get F.PWR_STATUS_STATE = n) ∧ (s.s4Enter 0x60).get F.PWR_STATUS_STATE = 4 ∧
    (s.pwr.entry = none → s.pwr.leaving = true → exec (.wakeEvent code) s = .next s) ∧
    (s.pwr.entry = none → s.pwr.leaving = false → n = s.get F.PWR_STATUS_STATE →
      (s.wakes n code.val = false → exec (.wakeEvent code) s = .next s) ∧
      (s.wakes n code.val = true → n ≠ 4 → exec (.wakeEvent code) s =
        .next ({ s.set F.PWR_WAKE_CAUSE code.val with pwr := { s.pwr with leaving := true } } : State)) ∧
      (s.wakes 4 code.val = true → n = 4 → ∃ u : State, exec (.wakeEvent code) s = .next u ∧ u.get F.PWR_WAKE_CAUSE = code.val ∧ u.pwr.leaving = true ∧
        u.pcie.wakeN = (s.pcie.wakeN || s.pcie.pmeOff) ∧ u = { s with regs := u.regs, pwr := { s.pwr with leaving := true }, pcie := u.pcie })) ∧
    (n = 0 → s.wakes n code.val = false) ∧
    (s.get64 F.PWR_WAKE_AT_LO = 0 → exec .wakeTimeReached s = .next s) ∧
    (s.get64 F.PWR_WAKE_AT_LO ≠ 0 → exec .wakeTimeReached s = .next ((s.advance (s.get64 F.PWR_WAKE_AT_LO)).wake 5)) ∧
    exec (.i3cWake v) s = .next (if v = 0xA5 then s.wake 4 else s) ∧
    (s.pwr.leaving = false → exec .stateExitComplete s = .next s) ∧
    (∀ u, s.pwr.leaving = true → n = s.get F.PWR_STATUS_STATE →
      u = State.powerTrace { s.set F.PWR_STATUS_STATE 0 with pwr := { s.pwr with leaving := false, auto := false } } (if s.pwr.auto then 3 else 2) n →
      u.get F.PWR_STATUS_STATE = 0 ∧
      (n < 3 → exec .stateExitComplete s = .next u.lpeUpdate) ∧
      (n = 3 → exec .stateExitComplete s = .next u.portsTrain.limitUpdate.lpeUpdate) ∧
      (n = 4 → exec .stateExitComplete s = .next (({ u with lpe := { u.lpe with unpowered := false } } : State).bootStages 1 2 true))) ∧
    (s.on F.PWR_CTRL_AUTO_HOLD = true → s.get F.PWR_STATUS_STATE = 0 → s.pwr.entry = none → s.boot.phase = .run → s.entryDrained 1 none = true →
      exec .autoHoldEntry s = .next (State.retain { s.powerTrace 3 1 with pwr := { s.pwr with auto := true } } 1)) ∧
    (s.on F.PWR_CTRL_AUTO_HOLD = false ∨ s.get F.PWR_STATUS_STATE ≠ 0 ∨ s.pwr.entry ≠ none ∨ s.boot.phase ≠ .run ∨ s.entryDrained 1 none = false →
      exec .autoHoldEntry s = .next s) ∧
    exec .autoHoldExit s = .next (s.wake 10)

/-- POWER_SAMPLE, THERMAL_SAMPLE, THERMAL_RESUME, I3C_CAP_WRITE, I3C_STATUS_READ, I3C_CCC (R476, R479 to R481, R483, R485): the average
of the last 100 samples is what PWR_MEAS shows in units of 250 mW, and one above the limit engages the first throttle step; a reading
shows in TJ_NOW and TJ_PEAK, sets or lowers the thermal limit at THROTTLE, holds ECLK at 800 MHz from 105 °C and trips at 115 °C; a
second below RESUME ends a trip; a cap of 0 or of 40 to 360 W is taken and another refused; a read of STATUS clears CAP_REFUSED; each
common command of I3C has its effect. The duty a step takes is a free value below the one before, and what the target answers to a
command of no effect is the model's own (log entry 39). -/
def Obligations.SamplesAndCapsSetTheLimit : Prop :=
  ∀ (s : State) (mw : Nat) (tj : BitVec 8) (w : BitVec 16) (code i : Nat) (d : List Byte),
    (∀ l avg a, l = (mw :: s.pwr.samples).take 100 → avg = l.sum / l.length → a = s.advance (s.cad.time + 10000) →
      ∃ u : State, exec (.powerSample mw) s = .next ((u.limitUpdate).throttle avg) ∧
        u.get F.PWR_MEAS = min 0xFFFF (avg / 250) ∧ u.pwr.samples = l ∧ u = { a with regs := u.regs, pwr := u.pwr }) ∧
    (s.limit.1 < 4000 * mw → s.get F.PWR_STATUS_STEP = 0 → (s.throttle mw).get F.PWR_STATUS_STEP = 1 ∧
      (0 < s.get F.PWR_THROT_UNT_DUTY → (s.throttle mw).get F.PWR_THROT_UNT_DUTY < s.get F.PWR_THROT_UNT_DUTY)) ∧
    (∀ a b c e, a = (s.set F.PWR_TJ_NOW tj.toNat).set F.PWR_TJ_PEAK (unsigned 8 (max (signed 8 (s.get F.PWR_TJ_PEAK)) tj.toInt)) →
      b = a.thermalLimit tj.toInt (signed 8 (s.get F.PWR_THERM_THROTTLE)) (decide (signed 8 (s.get F.PWR_TJ_NOW) < signed 8 (s.get F.PWR_THERM_THROTTLE))) →
      c = (if 105 ≤ tj.toInt then (b.set F.PWR_STATUS_ECLK_MHZ 800).set F.PWR_STATUS_STEP 5 else b) → e = (if 115 ≤ tj.toInt then c.thermalTrip else c) →
      (∀ m, m = (if tj.toInt < signed 8 (e.get F.PWR_THERM_RESUME) then some (e.pwr.coolSince.getD e.cad.time) else none) →
        exec (.thermalSample tj) s = .next (({ e with pwr := { e.pwr with coolSince := m } } : State).limitUpdate)) ∧
      (tj.toInt < signed 8 (s.get F.PWR_THERM_THROTTLE) → s.pwr.thermal = none → b = a) ∧
      (signed 8 (s.get F.PWR_THERM_THROTTLE) ≤ tj.toInt → s.pwr.thermal = none → b.pwr.thermal = some (1000000 * s.get F.PWR_MEAS) ∧
        (signed 8 (s.get F.PWR_TJ_NOW) < signed 8 (s.get F.PWR_THERM_THROTTLE) → b.on F.PWR_HOT_HOT = true)) ∧
      (∀ l, signed 8 (s.get F.PWR_THERM_THROTTLE) ≤ tj.toInt → s.pwr.thermal = some l → b.pwr.thermal =
        some (if s.pwr.thermAt + 1000000 ≤ s.cad.time then l * 95 / 100 else l)) ∧
      (∀ x, 115 ≤ tj.toInt → c.pwr.trip = false →
        x = State.ibi (State.stickIrq { c with pwr := { c.pwr with trip := true, coolSince := none } } F.PWR_TRIP_TRIP 13) →
        e = if s.boot.phase = .run then x.restart 3 0x30 0xFF 0 0 [] else (x.fault 9 0x30 0xC0 0 0 0 0 3 []).lastWords 0x30 0xFF 0 0)) ∧
    (∀ c, s.pwr.coolSince = some c → s.pwr.trip = true → exec .thermalResume s =
      .next { s.advance (c + 1000000000) with pwr := { s.pwr with trip := false } }) ∧
    (s.pwr.trip = false ∨ s.pwr.coolSince = none → exec .thermalResume s = .next s) ∧
    (w = 0 ∨ (40 ≤ w.toNat ∧ w.toNat ≤ 360) → exec (.i3cCapWrite w) s = .next (State.limitUpdate { s with pwr := { s.pwr with cap := w.toNat } })) ∧
    (¬(w = 0 ∨ (40 ≤ w.toNat ∧ w.toNat ≤ 360)) → exec (.i3cCapWrite w) s = .next (State.ibi { s with pwr := { s.pwr with capRefused := true } })) ∧
    exec .i3cStatusRead s = .next { s with pwr := { s.pwr with capRefused := false, i3cIndex := 0x24 }, outbox := s.outbox ++ [.i3c 1 (leBytes 1 s.i3cStatus)] } ∧
    (i ≠ 0x24 → exec (.i3cCcc (.read i)) s = .next { s with pwr := { s.pwr with i3cIndex := i }, outbox := s.outbox ++ [.i3c 1 (s.i3cReg i)] }) ∧
    (s.i3cReg 0x10 = leBytes 2 s.pwr.cap ∧ s.i3cReg 0x12 = leBytes 2 (s.limit.1 / 4000000) ∧ s.i3cReg 0x20 = leBytes 2 (s.get F.PWR_MEAS) ∧
      s.i3cReg 0x22 = leBytes 1 (s.get F.PWR_TJ_NOW) ∧ s.i3cReg 0x23 = leBytes 1 (s.get F.PWR_STATUS_STATE)) ∧
    exec (.i3cCcc (.read 0x24)) s = exec .i3cStatusRead s ∧
    (code = 0x00 ∨ code = 0x80 → exec (.i3cCcc (.ccc code d)) s = .next { s with pwr := { s.pwr with ibiOn := s.pwr.ibiOn || bit (leAt d 0 1) 0 } }) ∧
    (code = 0x01 ∨ code = 0x81 → exec (.i3cCcc (.ccc code d)) s = .next { s with pwr := { s.pwr with ibiOn := s.pwr.ibiOn && !(bit (leAt d 0 1) 0) } }) ∧
    exec (.i3cCcc (.ccc 0x06 d)) s = .next { s with pwr := { s.pwr with i3cAddr := none } } ∧
    (s.pwr.i3cAddr = none → exec (.i3cCcc (.ccc 0x07 d)) s = .next { s with pwr := { s.pwr with i3cAddr := some (leAt d 0 1) } }) ∧
    (s.pwr.i3cAddr = none → leAt d 0 1 = 0x4A → exec (.i3cCcc (.ccc 0x87 d)) s = .next { s with pwr := { s.pwr with i3cAddr := some (leAt d 1 1) } }) ∧
    (s.pwr.i3cAddr ≠ none → exec (.i3cCcc (.ccc 0x07 d)) s = .next s ∧ exec (.i3cCcc (.ccc 0x87 d)) s = .next s) ∧
    (leAt d 0 1 ≠ 0x4A → exec (.i3cCcc (.ccc 0x87 d)) s = .next s) ∧
    (code ∉ [0x00, 0x80, 0x01, 0x81, 0x06, 0x07, 0x87] → exec (.i3cCcc (.ccc code d)) s = .next (s.out (.i3c 2 (Config.i3cAnswer code d))))

/-- POR_N_ASSERT, COLD_BOOT, COMMAND_READY, FW_CONFIRM, AUTO_CONFIRM, FW_REBOOT (R442, R486 to R489, R495, R497, R498): held in reset
the device keeps fuses, monotonic store, flash and what is outside; a cold boot with TEST_EN high stays in reset; command-ready
comes once per boot, in RECOVERY where no CF was chosen, and makes HBM ready after a cold boot; a TRIAL slot that is confirmed is GOOD and preferred, and without one the write sets CFG; only RECOVERY
reboots by FW_CTRL. -/
def Obligations.BootsKeepWhatSurvivesAReset : Prop :=
  ∀ (s : State) (good : Bool),
    (∃ u : State, exec .porNAssert s = .next u ∧ u.boot.porLow = true ∧ u.boot.phase = .off ∧ u.boot.flash = s.boot.flash ∧ u.boot.rec0 = s.boot.rec0 ∧
      u.boot.rec1 = s.boot.rec1 ∧ u.sec.slots = s.sec.slots ∧ u.sec.creds = s.sec.creds ∧ u.sec.siteHash = s.sec.siteHash ∧
      u.sec.dbgHash = s.sec.dbgHash ∧ u.sec.revoke = s.sec.revoke ∧ u.sec.udsKill = s.sec.udsKill ∧ u.cad.stored = s.cad.stored ∧
      u.cmds = [] ∧ u.mem.sram = [] ∧ u.wins = [] ∧ u.ext = s.ext ∧ u.outbox = s.outbox ∧ u.fresh = s.fresh) ∧
    exec .testEnHigh s = exec .porNAssert s ∧
    exec .railUndervoltage s = exec .porNAssert s ∧
    exec (.coldBoot good true) s = exec .porNAssert s ∧
    exec (.coldBoot good false) s = .next (State.bootStages (State.newChal (State.timeBoot
      { s.coldBase with boot := { s.coldBase.boot with porLow := false } })) 0 2 good) ∧
    (s.boot.phase ≠ .boot → exec .commandReady s = .next s) ∧
    (s.boot.phase = .boot → ∃ u : State, exec .commandReady s =
      .next u.elect.lpeUpdate.crsSettle ∧ u.boot.phase = (if s.get F.FW_STATUS_PAIRING = 2 then .recovery else .run) ∧
      (s.get F.FW_STATUS_BOOT_KIND = 0 → s.get F.FW_STATUS_PAIRING ≠ 2 → u.on F.MEM_STATUS_HBM_READY = true) ∧
      (s.get F.FW_STATUS_BOOT_KIND ≠ 0 ∨ s.get F.FW_STATUS_PAIRING = 2 → u.get F.MEM_STATUS_HBM_READY = s.get F.MEM_STATUS_HBM_READY) ∧ u.boot.confirmFrom = s.cad.time ∧ u.lpe.down = none ∧ u.get F.FW_STATUS_CMD_READY = 1 ∧
      u.get F.FW_BOOT_MS = min 0xFFFF ((s.cad.time - s.boot.began) / 1000000) ∧ u = { s with regs := u.regs, boot := u.boot, lpe := u.lpe }) ∧
    (s.trialSlot = none → exec .fwConfirm s = .next (s.stick F.FW_CFG_CFG) ∧ exec .autoConfirm s = .next s) ∧
    (∀ x, s.trialSlot = some x → exec .fwConfirm s = .next (s.confirm x) ∧
      (s.get F.FW_CONFIRM_AUTO_S = 0 ∨ s.get F.FW_STATUS_PAIRING ≠ 0 ∨ 2 < s.get F.PWR_STATUS_STATE ∨ s.boot.phase ≠ .run → exec .autoConfirm s = .next s) ∧
      (s.get F.FW_CONFIRM_AUTO_S ≠ 0 → s.get F.FW_STATUS_PAIRING = 0 → s.get F.PWR_STATUS_STATE ≤ 2 → s.boot.phase = .run → exec .autoConfirm s =
        .next ((s.advance (s.boot.confirmFrom + 1000000000 * s.get F.FW_CONFIRM_AUTO_S)).confirm x))) ∧
    (∀ x r, (s.confirm x).bootRec = some r → r.pref = x ∧ r.st x = 3) ∧
    (s.boot.phase ≠ .recovery → exec .fwReboot s = .next (s.stick F.FW_CFG_CFG)) ∧
    (s.boot.phase = .recovery → exec .fwReboot s = .next (s.reboot 0x60 1 2))

/-- FW_RESTART, PLL_UNLOCK, CONTROL_CORE_EXCEPTION, CONTROL_CORE_WATCHDOG, SAFE_STATE_RESTART, RESTART_COMPLETE (R501 to R506, R515 to
R521): the key starts a restart and another value sets CFG; a trigger while a restart is in progress joins it and is logged; a restart
stops every command with ABORT_RESET, and one too many in its window is a storm reboot; a core's exception is recorded and restarts the
device, and one on the fault stack halts its core; a restart whose image verifies, in memory or read again, goes on, and completes where
nothing holds it: the context resets it absorbed end and the postponed ones begin. -/
def Obligations.RestartsStopEveryCommand : Prop :=
  ∀ (s : State) (v : Word) (c : CoreIx) (k : Fin 5) (pc : DWord) (sp : Word) (code : Fin 6) (ok : Bool),
    (v = 0x53414645 → exec (.fwRestart v) s = .next (s.restart 4 0x32 0xFF 0 0 [])) ∧
    (v ≠ 0x53414645 → exec (.fwRestart v) s = .next (s.stick F.FW_CFG_CFG)) ∧
    exec .pllUnlock s = .next (s.restart 6 0x31 0xFF 0 0 []) ∧
    (∀ a b d e f l, (s.boot.phase = .restart → s.restart a b d e f l = s.triggerFault a b d l) ∧
      (s.boot.phase ≠ .run → s.boot.phase ≠ .restart → s.restart a b d e f l = s) ∧
      (∀ near, near = s.boot.restarts.filter (fun t => decide (s.cad.time < t + 1000000000 * s.get F.FW_RLIM_WINDOW_S)) → s.boot.phase = .run →
        (s.get F.FW_RLIM_COUNT ≤ near.length → s.restart a b d e f l = (s.triggerFault a b d l).stormReboot) ∧
        (near.length < s.get F.FW_RLIM_COUNT → a < 8 → ∃ u : State, s.restart a b d e f l = u.lpeUpdate ∧ u.boot.phase = .restart ∧
          u.get F.FW_STATUS_CMD_READY = 0 ∧ u.get F.FW_STATUS_LAST_CAUSE = a ∧ u.boot.restarts = near ++ [s.cad.time] ∧ u.boot.verified = false ∧
          u.boot.session = none ∧ u.pwr.entry = none ∧ (∀ x ∈ u.cmds, x.phase = .ended ∧ x.status = stABORT_RESET) ∧
          (∀ x ∈ s.cmds, ∃ y ∈ u.cmds, y.id = x.id) ∧ u.cf = [] ∧ u.planJobs = [] ∧ u.graphs = [] ∧ u.lockSeqs = [] ∧ u.wins = s.wins))) ∧
    (c.val ∈ s.boot.halted → exec (.controlCoreException c k pc sp ok) s = .next s) ∧
    (c.val ∉ s.boot.halted → ∃ a u : State, exec (.controlCoreException c k pc sp true) s =
      .next (u.fault 7 8 (0x40 + c.val) 0 0 0 0 0 (leBytes 8 pc.toNat ++ leBytes 4 sp.toNat ++ leBytes 1 c.val)) ∧
      u = { a with boot := { a.boot with halted := a.boot.halted ++ [c.val] } } ∧ a = s.excRecord c.val 8 pc.toNat sp.toNat ∧
      u.get (F.FW_EXC_CAUSE c.val) = 8 ∧ u.get64 (F.FW_EXC_PC_LO c.val) = pc.toNat ∧ u.get (F.FW_EXC_SP c.val) = sp.toNat) ∧
    (∀ n t dt, c.val ∉ s.boot.halted → n = (if s.spValid c.val sp.toNat then k.val + 2 else 1) → t = (if k.val = 2 then 5 else 1) →
      dt = leBytes 8 pc.toNat ++ leBytes 4 sp.toNat ++ leBytes 1 c.val →
      (s.boot.phase = .run → exec (.controlCoreException c k pc sp false) s =
        .next ((s.excRecord c.val n pc.toNat sp.toNat).restart t n c.val pc.toNat sp.toNat dt)) ∧
      (s.boot.phase ≠ .run → exec (.controlCoreException c k pc sp false) s =
        .next ((s.excRecord c.val n pc.toNat sp.toNat).triggerFault t n c.val dt))) ∧
    (s.boot.phase ≠ .run → exec (.controlCoreWatchdog c) s = .next s) ∧
    (s.boot.phase = .run → exec (.controlCoreWatchdog c) s = .next (((s.set (F.FW_EXC_CAUSE c.val) 7).stick F.FW_CFAULT_CFAULT).restart
      2 7 c.val 0 0 (leBytes 12 0 ++ leBytes 1 c.val))) ∧
    (∀ r x, s.boot.phase = .restart → s.boot.verified = false → r = s.resetParts → x = r.get F.FW_STATUS_BOOT_SLOT →
      exec (.safeStateRestart code true) s = .next { r with boot := { r.boot with verified := true } } ∧
      (r.imagePasses 0 (2 * x) = true → slice (r.flashRegion (2 * x)) 32 48 = slice r.boot.cf 32 48 → exec (.safeStateRestart code false) s =
        .next { r with boot := { r.boot with verified := true, cf := imageOf (r.flashRegion (2 * x)) } }) ∧
      (r.imagePasses 0 (2 * x) = false ∨ slice (r.flashRegion (2 * x)) 32 48 ≠ slice r.boot.cf 32 48 →
        exec (.safeStateRestart code false) s = .next r.stormReboot)) ∧
    ((s.boot.phase = .restart ∧ s.boot.verified = true) ∨ (s.boot.phase ≠ .restart ∧ s.boot.phase ≠ .run) →
      exec (.safeStateRestart code ok) s = .next s) ∧
    (s.boot.phase = .run → exec (.safeStateRestart code ok) s = exec (.safeStateRestart code ok) (s.restart (code.val + 1)
      (match code.val + 1 with | 3 => 0x30 | 4 => 0x32 | 5 => 0x13 | 6 => 0x31 | 2 => 0x07 | _ => 0x50) 0xFF 0 0 [])) ∧
    (s.boot.phase ≠ .restart ∨ s.boot.verified = false ∨ s.pwr.trip = true ∨ s.boot.sysLost = true → exec .restartComplete s = .next s) ∧
    (s.boot.phase = .restart → s.boot.verified = true → s.pwr.trip = false → s.boot.sysLost = false →
      ∀ a, a = ((List.range 16).foldl (fun (s : State) t => s.preRecords t) s).restartEpochs → ∃ b : State, b.boot.phase = .run ∧
        b.get F.FW_STATUS_CMD_READY = 1 ∧ b.get F.PWR_STATUS_STATE = 0 ∧ b.boot.halted = [] ∧ b.pwr.leaving = false ∧
        b = { a with regs := b.regs, boot := b.boot, pwr := b.pwr, fresh := b.fresh } ∧
        ∀ d e, d = (a.pcie.ctxRst.map (fun (x : Nat × Bool) => x.1)).foldl (fun (s : State) t => s.ctxFinish t) b →
          e = d.pcie.ctxLater.foldl (fun (s : State) (x : Nat × Nat) => s.ctxReset x.1 x.2) { d with pcie := { d.pcie with ctxLater := [] } } →
          exec .restartComplete s = .next (((if e.on F.LPE_CTRL_RESTART_AUTO then e else e.set F.LPE_STATUS_LATCH 1).irq 9).lpeUpdate.crsSettle))

/-- TCXO_LOSS, TCXO_RETURN, SYSCLK_LOSS, SYSCLK_RETURN, REFCLK_LOSS, RAIL_UNDERVOLTAGE, VDD_LPE_UNDERVOLTAGE, VDD_LPE_RETURN,
VDD_AO_LOSS (R390, R525, R533, R535, R539): a lost TCXO sets SRC and the widest holdover bound once; a lost SYSCLK restarts the
device and a return lets it go on, the Rein and ETH ports going down; a lost REFCLK is a host reset; a lost rail of the Loupe holds it in reset until it returns; a
lost VDD_AO loses the last words too. -/
def Obligations.ClocksAndRailsFail : Prop :=
  ∀ (s : State),
    (s.boot.tcxoLost = true → exec .tcxoLoss s = .next s) ∧
    (s.boot.tcxoLost = false → ∃ u : State, exec .tcxoLoss s = .next u ∧ u.boot.tcxoLost = true ∧ u.on F.CAD_SRC_SRC = true ∧
      u.get F.CAD_HOLD_ERR = 0xFFFFFFFF ∧ u.get F.CAD_STATUS_HOLD_IN_SPEC = 0 ∧ u.cmds = s.cmds ∧ u.mem = s.mem) ∧
    (s.boot.tcxoLost = false → exec .tcxoReturn s = .next s) ∧
    (s.boot.tcxoLost = true → s.get F.CAD_STATUS_SOURCE ≠ 6 → exec .tcxoReturn s =
      .next (State.holdRefresh (State.set { s with boot := { s.boot with tcxoLost := false } } F.CAD_HOLD_ERR 0))) ∧
    (s.boot.tcxoLost = true → s.get F.CAD_STATUS_SOURCE = 6 → exec .tcxoReturn s = .next { s with boot := { s.boot with tcxoLost := false } }) ∧
    (∀ r, r = State.restart { s with boot := { s.boot with sysLost := true } } 6 0x31 0xFF 0 0 [] →
      exec .sysclkLoss s = .next ((((List.range 12).foldl (fun (s : State) n => if s.portState n = 0 ∨ s.portState n = 8 then s
        else s.portLost n 8 0) r).ethLink 0 false).ethLink 1 false)) ∧
    exec .sysclkReturn s = .next { s with boot := { s.boot with sysLost := false } } ∧
    exec .refclkLoss s = exec (.hostReset 2) s ∧
    exec .vddLpeUndervoltage s = .next (State.lpeUpdate { s with lpe := { s.lpe with unpowered := true, down := some .restart } }) ∧
    (s.lpe.unpowered = true → s.get F.PWR_STATUS_STATE < 4 → exec .vddLpeReturn s =
      .next (State.loupeRestart { s with lpe := { s.lpe with unpowered := false } } false)) ∧
    (s.lpe.unpowered = false ∨ 4 ≤ s.get F.PWR_STATUS_STATE → exec .vddLpeReturn s = .next s) ∧
    (∃ u : State, exec .vddAoLoss s = .next u ∧ (∀ k, k < 16 → u.rd (0x100 + 4 * k) = 0) ∧ u.boot.porLow = true ∧ u.sec.slots = s.sec.slots)
end

