-- ==== Sys2Proof/Laws/Sparse.lean ====
section
/-! SUPPORT. Laws of the association lists and of the sparse maps: reads after writes, and the canonical form. -/
namespace Sys2Proof.Machine

/-! ### Association lists -/

theorem kvFind_nil {α : Type} (k : Nat) : kvFind ([] : List (Nat × α)) k = none := rfl

theorem kvFind_cons {α : Type} (p : Nat × α) (t : List (Nat × α)) (k : Nat) :
    kvFind (p :: t) k = if p.1 = k then some p.2 else kvFind t k := by
  unfold kvFind
  by_cases h : p.1 = k
  · simp [List.find?, h]
  · simp [List.find?, h, beq_eq_false_iff_ne.mpr h]

/-- Reading the key just written gives the value written. -/
theorem kvFind_kvIns_same {α : Type} (k : Nat) (v : α) (l : List (Nat × α)) : kvFind (kvIns k v l) k = some v := by
  induction l with
  | nil => simp [kvIns, kvFind_cons]
  | cons p t ih =>
    unfold kvIns
    split
    · simp [kvFind_cons]
    · split
      · simp [kvFind_cons]
      · rw [kvFind_cons, if_neg (by omega), ih]

/-- A write leaves every other key alone. -/
theorem kvFind_kvIns_other {α : Type} (k j : Nat) (v : α) (l : List (Nat × α)) (h : j ≠ k) :
    kvFind (kvIns k v l) j = kvFind l j := by
  induction l with
  | nil => simp [kvIns, kvFind_cons, kvFind_nil, Ne.symm h]
  | cons p t ih =>
    unfold kvIns
    split
    · rw [kvFind_cons, if_neg (Ne.symm h)]
    · split
      · next _ h2 => rw [kvFind_cons, if_neg (Ne.symm h), kvFind_cons, if_neg (by omega)]
      · rw [kvFind_cons, kvFind_cons, ih]

/-! ### Reads of sparse maps -/

theorem spGet_nil {α : Type} (d : Nat → α) (k : Nat) : spGet d [] k = d k := rfl

theorem spGet_cons {α : Type} (d : Nat → α) (p : Nat × α) (t : List (Nat × α)) (k : Nat) :
    spGet d (p :: t) k = if k = p.1 then p.2 else spGet d t k := rfl

theorem spGet_kvDel_same {α : Type} (d : Nat → α) (l : List (Nat × α)) (k : Nat) : spGet d (kvDel l k) k = d k := by
  induction l with
  | nil => rfl
  | cons p t ih =>
    unfold kvDel at *
    by_cases h : p.1 = k
    · simpa [h] using ih
    · simp [h, spGet_cons, Ne.symm h, ih]

theorem spGet_kvDel_other {α : Type} (d : Nat → α) (l : List (Nat × α)) (k j : Nat) (h : j ≠ k) :
    spGet d (kvDel l k) j = spGet d l j := by
  induction l with
  | nil => rfl
  | cons p t ih =>
    unfold kvDel at *
    by_cases hp : p.1 = k
    · simp [hp, spGet_cons, h, ih]
    · simp [hp, spGet_cons, ih]

theorem spGet_kvIns_same {α : Type} (d : Nat → α) (l : List (Nat × α)) (k : Nat) (v : α) : spGet d (kvIns k v l) k = v := by
  induction l with
  | nil => simp [kvIns, spGet_cons]
  | cons p t ih =>
    unfold kvIns
    split
    · simp [spGet_cons]
    · split
      · simp [spGet_cons]
      · next h1 h2 => simp [spGet_cons, h2, ih]

theorem spGet_kvIns_other {α : Type} (d : Nat → α) (l : List (Nat × α)) (k j : Nat) (v : α) (h : j ≠ k) :
    spGet d (kvIns k v l) j = spGet d l j := by
  induction l with
  | nil => simp [kvIns, spGet_cons, spGet_nil, h]
  | cons p t ih =>
    unfold kvIns
    split
    · simp [spGet_cons, h]
    · split
      · next _ h2 => simp [spGet_cons, h, ← h2]
      · simp [spGet_cons, ih]

/-- Reading the key just written gives the value written. -/
@[simp] theorem spGet_spSet_same {α : Type} [DecidableEq α] (d : Nat → α) (l : List (Nat × α)) (k : Nat) (v : α) :
    spGet d (spSet d l k v) k = v := by
  unfold spSet
  split
  · next h => rw [spGet_kvDel_same, h]
  · exact spGet_kvIns_same d l k v

/-- A write leaves every other key alone. -/
theorem spGet_spSet_other {α : Type} [DecidableEq α] (d : Nat → α) (l : List (Nat × α)) (k j : Nat) (v : α) (h : j ≠ k) :
    spGet d (spSet d l k v) j = spGet d l j := by
  unfold spSet
  split
  · exact spGet_kvDel_other d l k j h
  · exact spGet_kvIns_other d l k j v h

/-! ### The canonical form -/

theorem spWfFrom_mono {α : Type} [DecidableEq α] (d : Nat → α) (a b : Nat) (l : List (Nat × α)) (h : a ≤ b)
    (w : spWfFrom d b l = true) : spWfFrom d a l = true := by
  cases l with
  | nil => rfl
  | cons p t =>
    simp only [spWfFrom, Bool.and_eq_true, decide_eq_true_eq] at *
    exact ⟨⟨by omega, w.1.2⟩, w.2⟩

/-- Dropping entries keeps the canonical form. -/
theorem spWfFrom_filter {α : Type} [DecidableEq α] (d : Nat → α) (f : Nat × α → Bool) (lo : Nat) (l : List (Nat × α))
    (w : spWfFrom d lo l = true) : spWfFrom d lo (l.filter f) = true := by
  induction l generalizing lo with
  | nil => rfl
  | cons p t ih =>
    simp only [spWfFrom, Bool.and_eq_true, decide_eq_true_eq] at w
    by_cases h : f p
    · simp only [List.filter_cons, h, if_true, spWfFrom, Bool.and_eq_true, decide_eq_true_eq]
      exact ⟨w.1, ih _ w.2⟩
    · simp only [List.filter_cons, h, Bool.false_eq_true, if_false]
      exact ih lo (spWfFrom_mono d lo (p.1 + 1) t (by omega) w.2)

theorem spWf_filter {α : Type} [DecidableEq α] (d : Nat → α) (f : Nat × α → Bool) (l : List (Nat × α))
    (w : spWf d l = true) : spWf d (l.filter f) = true := spWfFrom_filter d f 0 l w

/-- Changing or dropping values keeps the canonical form where what stays keeps its key and is no unlisted value. -/
theorem spWfFrom_filterMap {α : Type} [DecidableEq α] (d : Nat → α) (f : Nat × α → Option (Nat × α))
    (hf : ∀ p q, p.2 ≠ d p.1 → f p = some q → q.1 = p.1 ∧ q.2 ≠ d q.1) (lo : Nat) (l : List (Nat × α))
    (w : spWfFrom d lo l = true) : spWfFrom d lo (l.filterMap f) = true := by
  induction l generalizing lo with
  | nil => rfl
  | cons p t ih =>
    simp only [spWfFrom, Bool.and_eq_true, decide_eq_true_eq] at w
    cases h : f p with
    | none =>
      rw [List.filterMap_cons_none h]
      exact ih lo (spWfFrom_mono d lo (p.1 + 1) t (by omega) w.2)
    | some q =>
      rw [List.filterMap_cons_some h]
      have hq := hf p q w.1.2 h
      simp only [spWfFrom, Bool.and_eq_true, decide_eq_true_eq]
      exact ⟨⟨by omega, hq.2⟩, by rw [hq.1]; exact ih _ w.2⟩

/-- Changing every value and dropping what then reads as unlisted keeps the canonical form. -/
theorem spWf_mapDrop {α : Type} [DecidableEq α] (d : α) (g : Nat × α → α) (l : List (Nat × α)) (w : spWf (fun _ => d) l = true) :
    spWf (fun _ => d) (l.filterMap fun p => if g p = d then none else some (p.1, g p)) = true := by
  refine spWfFrom_filterMap _ _ (fun p r _ hr => ?_) 0 l w
  split at hr
  · exact (Option.some_ne_none _ hr.symm).elim
  · next hne => cases hr; exact ⟨rfl, hne⟩

theorem spWfFrom_kvIns {α : Type} [DecidableEq α] (d : Nat → α) (k : Nat) (v : α) (hv : v ≠ d k) (lo : Nat) (hlo : lo ≤ k)
    (l : List (Nat × α)) (w : spWfFrom d lo l = true) : spWfFrom d lo (kvIns k v l) = true := by
  induction l generalizing lo with
  | nil => simp [kvIns, spWfFrom, hlo, hv]
  | cons p t ih =>
    simp only [spWfFrom, Bool.and_eq_true, decide_eq_true_eq] at w
    unfold kvIns
    split
    · simp only [spWfFrom, Bool.and_eq_true, decide_eq_true_eq]
      exact ⟨⟨hlo, hv⟩, ⟨by omega, w.1.2⟩, w.2⟩
    · split
      · next _ h =>
        simp only [spWfFrom, Bool.and_eq_true, decide_eq_true_eq]
        exact ⟨⟨hlo, hv⟩, h ▸ w.2⟩
      · simp only [spWfFrom, Bool.and_eq_true, decide_eq_true_eq]
        exact ⟨w.1, ih _ (by omega) w.2⟩

/-- A write keeps the canonical form. -/
theorem spWf_spSet {α : Type} [DecidableEq α] (d : Nat → α) (l : List (Nat × α)) (k : Nat) (v : α) (w : spWf d l = true) :
    spWf d (spSet d l k v) = true := by
  unfold spSet
  split
  · exact spWf_filter d _ l w
  · next h => exact spWfFrom_kvIns d k v h 0 (Nat.zero_le k) l w

theorem spWfFrom_get {α : Type} [DecidableEq α] (d : Nat → α) (lo : Nat) (l : List (Nat × α)) (w : spWfFrom d lo l = true)
    (k : Nat) (hk : k < lo) : spGet d l k = d k := by
  induction l generalizing lo with
  | nil => rfl
  | cons p t ih =>
    simp only [spWfFrom, Bool.and_eq_true, decide_eq_true_eq] at w
    rw [spGet_cons, if_neg (by omega)]
    exact ih (p.1 + 1) w.2 (by omega)

/-- Two canonical maps that read alike are the same list. -/
theorem spWfFrom_ext {α : Type} [DecidableEq α] (d : Nat → α) (lo : Nat) (l m : List (Nat × α)) (wl : spWfFrom d lo l = true)
    (wm : spWfFrom d lo m = true) (h : ∀ k, spGet d l k = spGet d m k) : l = m := by
  induction l generalizing lo m with
  | nil =>
    cases m with
    | nil => rfl
    | cons q u =>
      simp only [spWfFrom, Bool.and_eq_true, decide_eq_true_eq] at wm
      exact absurd (by simpa [spGet_cons, spGet_nil] using (h q.1).symm) wm.1.2
  | cons p t ih =>
    simp only [spWfFrom, Bool.and_eq_true, decide_eq_true_eq] at wl
    cases m with
    | nil => exact absurd (by simpa [spGet_cons, spGet_nil] using h p.1) wl.1.2
    | cons q u =>
      simp only [spWfFrom, Bool.and_eq_true, decide_eq_true_eq] at wm
      have hk : p.1 = q.1 := by
        rcases Nat.lt_trichotomy p.1 q.1 with hlt | he | hgt
        · have := h p.1
          rw [spGet_cons, if_pos rfl, spGet_cons, if_neg (by omega), spWfFrom_get d _ u wm.2 _ (by omega)] at this
          exact absurd this wl.1.2
        · exact he
        · have := h q.1
          rw [spGet_cons, if_neg (by omega), spWfFrom_get d _ t wl.2 _ (by omega), spGet_cons, if_pos rfl] at this
          exact absurd this.symm wm.1.2
      have hv : p.2 = q.2 := by
        have := h p.1
        rwa [spGet_cons, if_pos rfl, spGet_cons, if_pos hk] at this
      have ht : t = u := by
        refine ih (p.1 + 1) u wl.2 (hk ▸ wm.2) fun k => ?_
        by_cases e : k = p.1
        · rw [e, spWfFrom_get d _ t wl.2 _ (by omega), spWfFrom_get d _ u (hk ▸ wm.2) _ (by omega)]
        · have := h k
          rwa [spGet_cons, if_neg e, spGet_cons, if_neg (hk ▸ e)] at this
      rw [ht, Prod.ext hk hv]

end Sys2Proof.Machine
end

