-- ==== Sys2Proof/Laws/Memory.lean ====
section
/-! SUPPORT. Laws of the device memories: reads after writes, and the canonical form every memory operation keeps. -/
namespace Sys2Proof.Machine

/-! ### Reads after writes -/

/-- The three memories by their space number; every other number stands for STAGE. -/
theorem Mem.cells_setCells_same (m : Mem) (sp : Nat) (c : List Host.Cell) : (m.setCells sp c).cells sp = c := by
  unfold Mem.setCells
  split <;> first | rfl | (unfold Mem.cells; split <;> first | rfl | contradiction)

/-- A write to one memory leaves another alone. -/
theorem Mem.cells_setCells_other (m : Mem) (sp sq : Nat) (c : List Host.Cell) (h : sp ≠ sq) (h1 : sp = 1 ∨ sp = 2 ∨ sp = 3)
    (h2 : sq = 1 ∨ sq = 2 ∨ sq = 3) : (m.setCells sp c).cells sq = m.cells sq := by
  rcases h1 with rfl | rfl | rfl <;> rcases h2 with rfl | rfl | rfl <;> first | contradiction | rfl

/-- The byte just written reads as written. -/
theorem Mem.byte_putByte_same (m : Mem) (sp a : Nat) (b : BitVec 8) : (m.putByte sp a b).byte sp a = b := by
  simp [Mem.byte, Mem.putByte, Mem.cells_setCells_same]

/-- A byte write leaves every other byte of its memory alone. -/
theorem Mem.byte_putByte_addr (m : Mem) (sp a x : Nat) (b : BitVec 8) (h : x ≠ a) : (m.putByte sp a b).byte sp x = m.byte sp x := by
  simp [Mem.byte, Mem.putByte, Mem.cells_setCells_same, spGet_spSet_other _ _ _ _ _ h]

/-- A byte write leaves the other memories alone. -/
theorem Mem.byte_putByte_space (m : Mem) (sp sq a x : Nat) (b : BitVec 8) (h : sp ≠ sq) (h1 : sp = 1 ∨ sp = 2 ∨ sp = 3)
    (h2 : sq = 1 ∨ sq = 2 ∨ sq = 3) : (m.putByte sp a b).byte sq x = m.byte sq x := by
  simp [Mem.byte, Mem.putByte, Mem.cells_setCells_other _ _ _ _ h h1 h2]

/-- Writing cells leaves every address they do not name alone. -/
theorem Mem.byte_putCells_addr (l : List Host.Cell) (m : Mem) (sp x : Nat) (h : ∀ c ∈ l, c.1 ≠ x) :
    (m.putCells sp l).byte sp x = m.byte sp x := by
  induction l generalizing m with
  | nil => rfl
  | cons c t ih =>
    have hc : x ≠ c.1 := fun e => h c (List.mem_cons_self ..) e.symm
    exact (ih (m.putByte sp c.1 c.2) fun d hd => h d (List.mem_cons_of_mem _ hd)).trans (Mem.byte_putByte_addr m sp c.1 x c.2 hc)

/-- Writing cells leaves the other memories alone. -/
theorem Mem.byte_putCells_space (l : List Host.Cell) (m : Mem) (sp sq x : Nat) (h : sp ≠ sq) (h1 : sp = 1 ∨ sp = 2 ∨ sp = 3)
    (h2 : sq = 1 ∨ sq = 2 ∨ sq = 3) : (m.putCells sp l).byte sq x = m.byte sq x := by
  induction l generalizing m with
  | nil => rfl
  | cons c t ih => exact (ih (m.putByte sp c.1 c.2)).trans (Mem.byte_putByte_space m sp sq c.1 x c.2 h h1 h2)

/-! ### The canonical form -/

theorem Mem.wf_iff (m : Mem) :
    m.wf = true ↔ spWf zeroByte m.sram = true ∧ spWf zeroByte m.hbm = true ∧ spWf zeroByte m.stage = true := by
  simp [Mem.wf, Bool.and_eq_true, and_assoc]

theorem Mem.wf_cells (m : Mem) (sp : Nat) (h : m.wf = true) : spWf zeroByte (m.cells sp) = true := by
  rw [Mem.wf_iff] at h
  unfold Mem.cells
  split
  · exact h.1
  · exact h.2.1
  · exact h.2.2

theorem Mem.wf_setCells (m : Mem) (sp : Nat) (c : List Host.Cell) (h : m.wf = true) (hc : spWf zeroByte c = true) :
    (m.setCells sp c).wf = true := by
  rw [Mem.wf_iff] at *
  unfold Mem.setCells
  split
  · exact ⟨hc, h.2.1, h.2.2⟩
  · exact ⟨h.1, hc, h.2.2⟩
  · exact ⟨h.1, h.2.1, hc⟩

/-- A byte write keeps the canonical form. -/
theorem Mem.wf_putByte (m : Mem) (sp a : Nat) (b : BitVec 8) (h : m.wf = true) : (m.putByte sp a b).wf = true :=
  Mem.wf_setCells m sp _ h (spWf_spSet zeroByte _ a b (Mem.wf_cells m sp h))

/-- Writing cells keeps the canonical form. -/
theorem Mem.wf_putCells (sp : Nat) (l : List Host.Cell) (m : Mem) (h : m.wf = true) : (m.putCells sp l).wf = true := by
  induction l generalizing m with
  | nil => exact h
  | cons c t ih => exact ih (m.putByte sp c.1 c.2) (Mem.wf_putByte m sp c.1 c.2 h)

/-- Zeroing a range keeps the canonical form. -/
theorem Mem.wf_zeroRange (m : Mem) (sp a n : Nat) (h : m.wf = true) : (m.zeroRange sp a n).wf = true :=
  Mem.wf_setCells m sp _ h (spWf_filter zeroByte _ _ (Mem.wf_cells m sp h))

/-- Writing a plan entry keeps the canonical form. -/
theorem Mem.wf_putPlan (m : Mem) (i : Nat) (sig : List Nat) (h : m.wf = true) : (m.putPlan i sig).wf = true :=
  Mem.wf_putCells _ _ _ (Mem.wf_zeroRange _ _ _ _ h)

/-- Writing the plans of some entries keeps the canonical form. -/
theorem Mem.wf_putPlans (m : Mem) (l : List PlanEntry) (h : m.wf = true) : (m.putPlans l).wf = true := by
  unfold Mem.putPlans
  induction l generalizing m with
  | nil => exact h
  | cons p t ih =>
    rw [List.foldl_cons]
    refine ih _ ?_
    split
    · exact Mem.wf_putPlan _ _ _ h
    · exact h

/-- Invalidating a weight-cache sector changes no memory contents. -/
theorem Mem.wf_wcInvalidate (m : Mem) (a : Nat) (h : m.wf = true) : (m.wcInvalidate a).wf = true := h

/-- The keys of what is known of outside memory keep rising. -/
theorem kvWfFrom_kvIns {α : Type} (k : Nat) (v : α) (lo : Nat) (hlo : lo ≤ k) (l : List (Nat × α)) (w : kvWfFrom lo l = true) :
    kvWfFrom lo (kvIns k v l) = true := by
  induction l generalizing lo with
  | nil => simp [kvIns, kvWfFrom, hlo]
  | cons p t ih =>
    simp only [kvWfFrom, Bool.and_eq_true, decide_eq_true_eq] at w
    unfold kvIns
    split
    · simp only [kvWfFrom, Bool.and_eq_true, decide_eq_true_eq]
      exact ⟨hlo, by omega, w.2⟩
    · split
      · next _ h2 =>
        subst h2
        simp only [kvWfFrom, Bool.and_eq_true, decide_eq_true_eq]
        exact ⟨hlo, w.2⟩
      · simp only [kvWfFrom, Bool.and_eq_true, decide_eq_true_eq]
        exact ⟨w.1, ih (p.1 + 1) (by omega) w.2⟩

theorem kvWf_kvIns {α : Type} (k : Nat) (v : α) (l : List (Nat × α)) (w : kvWf l = true) : kvWf (kvIns k v l) = true :=
  kvWfFrom_kvIns k v 0 (Nat.zero_le _) l w

end Sys2Proof.Machine
end

