-- ==== Sys2Proof/Laws/Keeps.lean ====
section
/-! SUPPORT. What every operation of the block keeps: the queue of waiting commands, rack time (which never decreases, R36),
and the canonical forms of `State.inv`. `Keeps pend tmin t` says that `t` has queue `pend`, rack time `tmin` or later, and the canonical
forms; one lemma per operation, in the files of Laws/Keeps, says that it answers such a state for such a state. -/
namespace Sys2Proof.Machine

/-- The state has queue `pend`, rack time at least `tmin`, and the canonical forms. -/
structure Keeps (pend : List Instr) (tmin : Nat) (t : State) : Prop where
  pending : t.pending = pend
  time : tmin ≤ t.cad.time
  inv : t.inv = true

theorem State.inv_iff (s : State) :
    s.inv = true ↔ spWf resetWord s.regs = true ∧ s.mem.wf = true ∧ s.sync.wf = true ∧ kvWf s.ext = true := by
  simp [State.inv, Bool.and_eq_true, and_assoc]

theorem Sync.wf_iff (y : Sync) :
    y.wf = true ↔ spWf (fun _ => 0) y.cnt = true ∧ spWf (fun _ => 0) y.cst = true ∧ spWf (fun _ => barZero) y.bars = true
      ∧ spWf (fun _ => lockZero) y.locks = true ∧ spWf (fun _ => 0) y.flags = true := by
  simp [Sync.wf, Bool.and_eq_true, and_assoc]

variable {pend : List Instr} {tmin : Nat}

/-- A state that has the register file, queue and outside memory of `x`, and this rack time unit, memories and synchronization
maps. -/
def KeepsU (pend : List Instr) (tmin : Nat) (x : State) (cad : Cad) (mem : Mem) (sync : Sync) : Prop :=
  Keeps pend tmin { x with cad := cad, mem := mem, sync := sync }

/-- A record update that leaves the register file, the queue and outside memory alone. -/
theorem Keeps.update {x : State} {cad : Cad} {mem : Mem} {wins descs plans planJobs latches cmds cf nextId nextOrder queues tenants lockSeqs}
    {engines streams lanes} {sync : Sync} {graphs lastGraphTenant rein pcie errs lpe eth boot sec pwr outbox csrLater fresh} :
    Keeps pend tmin ⟨x.regs, cad, mem, wins, descs, plans, planJobs, latches, cmds, cf, nextId, nextOrder, queues, tenants, lockSeqs, engines,
      streams, lanes, sync, graphs, lastGraphTenant, rein, pcie, errs, lpe, eth, boot, sec, pwr, x.ext, outbox, csrLater, fresh,
      x.pending⟩ ↔ KeepsU pend tmin x cad mem sync := by
  constructor <;> exact fun h => ⟨h.pending, h.time, h.inv⟩

/-- Rack time is not earlier, and the memories and synchronization maps keep their canonical forms. -/
theorem KeepsU.of {x : State} {cad : Cad} {mem : Mem} {sync : Sync} (h : Keeps pend tmin x) (hc : x.cad.time ≤ cad.time)
    (hm : x.mem.wf = true → mem.wf = true) (hy : x.sync.wf = true → sync.wf = true) : KeepsU pend tmin x cad mem sync := by
  have hi := (State.inv_iff x).mp h.inv
  exact ⟨h.pending, Nat.le_trans h.time hc, (State.inv_iff _).mpr ⟨hi.1, hm hi.2.1, hy hi.2.2.1, hi.2.2.2⟩⟩

/-- The same where rack time's unit, the memories and the maps do not change. -/
theorem KeepsU.all {x : State} (h : Keeps pend tmin x) : KeepsU pend tmin x x.cad x.mem x.sync := KeepsU.of h (Nat.le_refl _) id id

/-- The same where only the memories may change. -/
theorem KeepsU.mem {x : State} {mem : Mem} (h : Keeps pend tmin x) (hm : x.mem.wf = true → mem.wf = true) :
    KeepsU pend tmin x x.cad mem x.sync := KeepsU.of h (Nat.le_refl _) hm id

/-- The same where only the synchronization maps may change. -/
theorem KeepsU.sync {x : State} {sync : Sync} (h : Keeps pend tmin x) (hy : x.sync.wf = true → sync.wf = true) :
    KeepsU pend tmin x x.cad x.mem sync := KeepsU.of h (Nat.le_refl _) id hy

/-- The same where fields of rack time's unit change but not rack time. -/
theorem KeepsU.time {x : State} {latches stored timeSet resumed acquired acceptSrc joinHold joining joinFirst slew slewPart swTick swPeriod tickOut
      tickOutFall ppsOut ppsOutFall ppsIn ptp ledger admitted model lockSeconds holdSince temp}
    (h : Keeps pend tmin x) :
    KeepsU pend tmin x ⟨x.cad.time, latches, stored, timeSet, resumed, acquired, acceptSrc, joinHold, joining, joinFirst, slew,
      slewPart, swTick, swPeriod, tickOut, tickOutFall, ppsOut, ppsOutFall, ppsIn, ptp, ledger, admitted, model, lockSeconds,
      holdSince, temp⟩ x.mem x.sync :=
  KeepsU.of h (Nat.le_refl _) id id

/-- A change of the register file that keeps its canonical form. -/
theorem Keeps.regs {x : State} {r : List (Nat × BitVec 32)} (h : Keeps pend tmin x)
    (hr : spWf resetWord x.regs = true → spWf resetWord r = true) : Keeps pend tmin { x with regs := r } := by
  have hi := (State.inv_iff x).mp h.inv
  exact ⟨h.pending, h.time, (State.inv_iff _).mpr ⟨hr hi.1, hi.2⟩⟩

/-- Registers return to their reset values, and nothing else of what is kept changes. -/
theorem Keeps.filterRegs {x : State} {f : Nat × BitVec 32 → Bool} {wins descs plans planJobs latches cmds cf nextId nextOrder queues}
    {tenants lockSeqs engines streams lanes graphs lastGraphTenant rein pcie errs lpe eth boot sec pwr outbox csrLater fresh}
    (h : Keeps pend tmin x) :
    Keeps pend tmin ⟨x.regs.filter f, x.cad, x.mem, wins, descs, plans, planJobs, latches, cmds, cf, nextId, nextOrder, queues, tenants,
      lockSeqs, engines, streams, lanes, x.sync, graphs, lastGraphTenant, rein, pcie, errs, lpe, eth, boot, sec, pwr, x.ext, outbox,
      csrLater, fresh, x.pending⟩ := by
  have hi := (State.inv_iff x).mp h.inv
  exact ⟨h.pending, h.time, (State.inv_iff _).mpr ⟨spWf_filter _ _ _ hi.1, hi.2⟩⟩

/-- A state given field by field. -/
theorem Keeps.parts {regs cad mem wins descs plans planJobs latches cmds cf nextId nextOrder queues tenants lockSeqs engines streams
    lanes sync graphs lastGraphTenant rein pcie errs lpe eth boot sec pwr ext outbox csrLater fresh pending}
    (hp : pending = pend) (ht : tmin ≤ cad.time) (hr : spWf resetWord regs = true) (hm : mem.wf = true) (hy : sync.wf = true)
    (he : kvWf ext = true) :
Keeps pend tmin ⟨regs, cad, mem, wins, descs, plans, planJobs, latches, cmds, cf, nextId, nextOrder, queues, tenants, lockSeqs,
      engines, streams, lanes, sync, graphs, lastGraphTenant, rein, pcie, errs, lpe, eth, boot, sec, pwr, ext, outbox,
      csrLater, fresh, pending⟩ :=
  ⟨hp, ht, (State.inv_iff _).mpr ⟨hr, hm, hy, he⟩⟩

/-- Without the bound on rack time. -/
theorem Keeps.zero {x : State} (h : Keeps pend tmin x) : Keeps pend 0 x := ⟨h.pending, Nat.zero_le _, h.inv⟩

/-- A change of what is known of outside memory that keeps its canonical form. -/
theorem Keeps.ext {x : State} {e : List Host.Cell} (h : Keeps pend tmin x) (he : kvWf x.ext = true → kvWf e = true) :
    Keeps pend tmin { x with ext := e } := by
  have hi := (State.inv_iff x).mp h.inv
  exact ⟨h.pending, h.time, (State.inv_iff _).mpr ⟨hi.1, hi.2.1, hi.2.2.1, he hi.2.2.2⟩⟩

theorem Keeps.ite {c : Prop} [Decidable c] {a b : State} (ha : Keeps pend tmin a) (hb : Keeps pend tmin b) : Keeps pend tmin (if c then a else b) := by
  split <;> assumption

theorem Keeps.ite_snd {α : Type} {c : Prop} [Decidable c] {a b : α × State} (ha : Keeps pend tmin a.2) (hb : Keeps pend tmin b.2) :
    Keeps pend tmin (if c then a else b).2 := by split <;> assumption

theorem Keeps.foldl {α : Type} {f : State → α → State} {l : List α} {s : State} (h : Keeps pend tmin s)
    (hf : ∀ x a, Keeps pend tmin x → Keeps pend tmin (f x a)) : Keeps pend tmin (l.foldl f s) := by
  induction l generalizing s with
  | nil => exact h
  | cons a t ih => exact ih (hf s a h)

/-- The state part of a fold over a pair. -/
theorem Keeps.foldl_snd {α β : Type} {f : β × State → α → β × State} {l : List α} {p : β × State} (h : Keeps pend tmin p.2)
    (hf : ∀ x a, Keeps pend tmin x.2 → Keeps pend tmin (f x a).2) : Keeps pend tmin (l.foldl f p).2 := by
  induction l generalizing p with
  | nil => exact h
  | cons a t ih => exact ih (hf p a h)

theorem Keeps.of_snd {α : Type} {p : α × State} {a : α} {t : State} (e : p = (a, t)) (h : Keeps pend tmin p.2) : Keeps pend tmin t := by
  subst e; exact h

/-! The synchronization maps keep their canonical forms under one write. -/

theorem Sync.wf_cnt (y : Sync) (k : Nat) (v : Nat) (w : y.wf = true) :
    ({ y with cnt := spSet (fun _ => 0) y.cnt k v } : Sync).wf = true := by
  rw [Sync.wf_iff] at *
  exact ⟨spWf_spSet _ _ _ _ w.1, w.2.1, w.2.2.1, w.2.2.2.1, w.2.2.2.2⟩

theorem Sync.wf_cst (y : Sync) (k : Nat) (v : Nat) (w : y.wf = true) :
    ({ y with cst := spSet (fun _ => 0) y.cst k v } : Sync).wf = true := by
  rw [Sync.wf_iff] at *
  exact ⟨w.1, spWf_spSet _ _ _ _ w.2.1, w.2.2.1, w.2.2.2.1, w.2.2.2.2⟩

theorem Sync.wf_bars (y : Sync) (k : Nat) (v : Bar) (w : y.wf = true) :
    ({ y with bars := spSet (fun _ => barZero) y.bars k v } : Sync).wf = true := by
  rw [Sync.wf_iff] at *
  exact ⟨w.1, w.2.1, spWf_spSet _ _ _ _ w.2.2.1, w.2.2.2.1, w.2.2.2.2⟩

theorem Sync.wf_locks (y : Sync) (k : Nat) (v : Lock) (w : y.wf = true) :
    ({ y with locks := spSet (fun _ => lockZero) y.locks k v } : Sync).wf = true := by
  rw [Sync.wf_iff] at *
  exact ⟨w.1, w.2.1, w.2.2.1, spWf_spSet _ _ _ _ w.2.2.2.1, w.2.2.2.2⟩

theorem Sync.wf_flags (y : Sync) (k : Nat) (v : Nat) (w : y.wf = true) :
    ({ y with flags := spSet (fun _ => 0) y.flags k v } : Sync).wf = true := by
  rw [Sync.wf_iff] at *
  exact ⟨w.1, w.2.1, w.2.2.1, w.2.2.2.1, spWf_spSet _ _ _ _ w.2.2.2.2⟩

/-- Every state an operation answers, if it answers one, keeps what it is to keep. -/
def KeepsO (pend : List Instr) (tmin : Nat) (o : Option State) : Prop := ∀ t, o = some t → Keeps pend tmin t

theorem KeepsO.none : KeepsO pend tmin none := fun _ e => (Option.some_ne_none _ e.symm).elim

theorem KeepsO.some {t : State} (h : Keeps pend tmin t) : KeepsO pend tmin (some t) :=
  fun _ e => Option.some.inj e ▸ h

theorem KeepsO.ite {c : Prop} [Decidable c] {a b : Option State} (ha : KeepsO pend tmin a) (hb : KeepsO pend tmin b) :
    KeepsO pend tmin (if c then a else b) := by split <;> assumption

theorem Keeps.of_some {o : Option State} {t : State} (e : o = .some t) (h : KeepsO pend tmin o) : Keeps pend tmin t := h t e

theorem Keeps.getD {o : Option State} {d : State} (h : KeepsO pend tmin o) (hd : Keeps pend tmin d) : Keeps pend tmin (o.getD d) := by
  cases o with
  | none => exact hd
  | some t => exact h t rfl

/-- The same where a value comes with the state. -/
def KeepsOP {α : Type} (pend : List Instr) (tmin : Nat) (o : Option (α × State)) : Prop := ∀ a t, o = some (a, t) → Keeps pend tmin t

theorem KeepsOP.none {α : Type} : KeepsOP pend tmin (none : Option (α × State)) :=
  fun _ _ e => (Option.some_ne_none _ e.symm).elim

theorem KeepsOP.some {α : Type} {a : α} {t : State} (h : Keeps pend tmin t) : KeepsOP pend tmin (some (a, t)) :=
  fun _ _ e => (Prod.mk.inj (Option.some.inj e)).2 ▸ h

theorem KeepsOP.ite {α : Type} {c : Prop} [Decidable c] {a b : Option (α × State)} (ha : KeepsOP pend tmin a)
    (hb : KeepsOP pend tmin b) : KeepsOP pend tmin (if c then a else b) := by split <;> assumption

theorem Keeps.of_some_snd {α : Type} {o : Option (α × State)} {a : α} {t : State} (e : o = .some (a, t))
    (h : KeepsOP pend tmin o) : Keeps pend tmin t := h a t e

/-- The outcome of a meaning is a next state that keeps what its state part keeps. -/
def KeepsR (pend : List Instr) (tmin : Nat) (r : Host.Outcome State Fault Refusal) : Prop := ∀ t, r = .next t → Keeps pend tmin t

theorem KeepsR.next {t : State} (h : Keeps pend tmin t) : KeepsR pend tmin (.next t) := by
  intro u e
  cases e
  exact h

theorem KeepsR.ite {c : Prop} [Decidable c] {a b : Host.Outcome State Fault Refusal} (ha : KeepsR pend tmin a)
    (hb : KeepsR pend tmin b) : KeepsR pend tmin (if c then a else b) := by split <;> assumption

end Sys2Proof.Machine
end

