-- ==== Sys2Proof/Laws/Keeps/Ops.lean ====
section
/-! SUPPORT. The operations of Machine/Ops.lean keep the queue, rack time and the canonical forms (see Laws/Keeps). -/
namespace Sys2Proof.Machine
variable {pend : List Instr} {tmin : Nat}

theorem Mem.wf_wcInvalidates (cs : List Host.Cell) (m : Mem) (w : m.wf = true) :
    (cs.foldl (fun m c => m.wcInvalidate c.1) m).wf = true := by
  induction cs generalizing m with
  | nil => exact w
  | cons c t ih => exact ih _ (Mem.wf_wcInvalidate m c.1 w)

/-- The one write of the register file. -/
theorem State.wr_keeps {s : State} {a v : Nat} (h : Keeps pend tmin s) : Keeps pend tmin (State.wr s a v) :=
  Keeps.regs h (spWf_spSet resetWord _ _ _)

theorem State.set_keeps {s : State} {f : Fld} {v : Nat} (hk : Keeps pend tmin s) :
    Keeps pend tmin (State.set s f v) := by
  unfold State.set
  repeat' first
    | with_reducible assumption | with_reducible refine State.wr_keeps ?_ | split | dsimp only

theorem State.set64_keeps {s : State} {lo : Fld} {v : Nat} (hk : Keeps pend tmin s) :
    Keeps pend tmin (State.set64 s lo v) := by
  unfold State.set64
  repeat' first
    | with_reducible assumption | with_reducible refine State.wr_keeps ?_ | split | dsimp only

theorem State.bump_keeps {s : State} {f : Fld} {k : Nat} (hk : Keeps pend tmin s) :
    Keeps pend tmin (State.bump s f k) := by
  unfold State.bump
  repeat' first
    | with_reducible assumption | with_reducible refine State.set_keeps ?_ | split | dsimp only

theorem State.putRw_keeps {s : State} {a : Nat} {v : Nat} (hk : Keeps pend tmin s) :
    Keeps pend tmin (State.putRw s a v) := by
  unfold State.putRw
  repeat' first
    | with_reducible assumption | with_reducible refine State.wr_keeps ?_ | split | dsimp only

theorem State.out_keeps {s : State} {o : Output} (hk : Keeps pend tmin s) :
    Keeps pend tmin (State.out s o) := by
  unfold State.out
  repeat' first
    | with_reducible assumption | simp only [Keeps.update] | with_reducible refine KeepsU.all ?_ | split | dsimp only

theorem State.draw_keeps {s : State} (hk : Keeps pend tmin s) :
    Keeps pend tmin (State.draw s) := by
  unfold State.draw
  repeat' first
    | with_reducible assumption | simp only [Keeps.update] | with_reducible refine KeepsU.all ?_ | split | dsimp only

theorem State.msix_keeps {s : State} {fn : Nat} {vec : Nat} (hk : Keeps pend tmin s) :
    Keeps pend tmin (State.msix s fn vec) := by
  unfold State.msix
  repeat' first
    | with_reducible assumption | with_reducible refine Keeps.ite ?_ ?_ | with_reducible refine State.out_keeps ?_
    | simp only [Keeps.update] | with_reducible refine KeepsU.all ?_ | split | dsimp only

theorem State.irq_keeps {s : State} {vec : Nat} (hk : Keeps pend tmin s) :
    Keeps pend tmin (State.irq s vec) := by
  unfold State.irq
  repeat' first
    | with_reducible assumption | with_reducible refine Keeps.ite ?_ ?_ | with_reducible refine Keeps.ite_snd ?_ ?_
    | with_reducible refine State.msix_keeps ?_ | simp only [Keeps.update] | with_reducible refine KeepsU.all ?_
    | (with_reducible refine Keeps.of_snd (by with_reducible assumption) ?_) | split | dsimp only

theorem State.stick_keeps {s : State} {f : Fld} (hk : Keeps pend tmin s) :
    Keeps pend tmin (State.stick s f) := by
  unfold State.stick
  repeat' first
    | with_reducible assumption | with_reducible refine State.set_keeps ?_ | split | dsimp only

theorem State.unstick_keeps {s : State} {f : Fld} (hk : Keeps pend tmin s) :
    Keeps pend tmin (State.unstick s f) := by
  unfold State.unstick
  repeat' first
    | with_reducible assumption | with_reducible refine State.set_keeps ?_ | split | dsimp only

theorem State.stickIrq_keeps {s : State} {f : Fld} {vec : Nat} (hk : Keeps pend tmin s) :
    Keeps pend tmin (State.stickIrq s f vec) := by
  unfold State.stickIrq
  repeat' first
    | with_reducible assumption | with_reducible refine State.stick_keeps ?_ | with_reducible refine State.irq_keeps ?_
    | split | dsimp only

theorem State.fault_keeps {s : State} {cls : Nat} {cause : Nat} {unit : Nat} {status : Nat} {iid : Nat} {da : Nat} {seq : Nat} {trigger : Nat} {detail : List (BitVec 8)} (hk : Keeps pend tmin s) :
    Keeps pend tmin (State.fault s cls cause unit status iid da seq trigger detail) := by
  unfold State.fault
  repeat' first
    | with_reducible assumption | with_reducible refine Keeps.ite ?_ ?_ | with_reducible refine State.stick_keeps ?_
    | with_reducible refine State.set_keeps ?_ | with_reducible refine State.irq_keeps ?_ | simp only [Keeps.update]
    | with_reducible refine KeepsU.all ?_ | split | dsimp only

theorem State.logUE_keeps {s : State} {sp : Nat} {word : Nat} {iid : Nat} {scrub : Bool} {st : Nat} {seq : Nat} (hk : Keeps pend tmin s) :
    Keeps pend tmin (State.logUE s sp word iid scrub st seq) := by
  unfold State.logUE
  repeat' first
    | with_reducible assumption | with_reducible refine Keeps.ite ?_ ?_ | with_reducible refine State.stickIrq_keeps ?_
    | with_reducible refine State.set64_keeps ?_ | with_reducible refine State.set_keeps ?_
    | with_reducible refine State.fault_keeps ?_ | (with_reducible refine Keeps.of_snd (by with_reducible assumption) ?_)
    | split | dsimp only

theorem State.correct_keeps {s : State} {sp : Nat} {word : Nat} (hk : Keeps pend tmin s) :
    Keeps pend tmin (State.correct s sp word) := by
  unfold State.correct
  repeat' first
    | with_reducible assumption | with_reducible refine Keeps.ite ?_ ?_ | with_reducible refine State.bump_keeps ?_
    | with_reducible refine State.stick_keeps ?_ | simp only [Keeps.update] | with_reducible refine KeepsU.all ?_
    | with_reducible refine KeepsU.mem ?_ ?_ | exact fun w => w | split | dsimp only

theorem State.readWords_keeps {s : State} {sp : Nat} {ws : List Nat} {iid : Nat} {st : Nat} {seq : Nat} (hk : Keeps pend tmin s) :
    Keeps pend tmin (State.readWords s sp ws iid st seq) := by
  unfold State.readWords
  repeat' first
    | with_reducible assumption | with_reducible refine Keeps.ite ?_ ?_ | with_reducible refine State.logUE_keeps ?_
    | with_reducible refine State.correct_keeps ?_ | with_reducible refine Keeps.foldl ?_ (fun _ _ _ => ?_)
    | with_reducible refine Keeps.foldl_snd ?_ (fun _ _ _ => ?_) | split | dsimp only

theorem State.memRead_keeps {s : State} {sp : Nat} {a : Nat} {n : Nat} {iid : Nat} {st : Nat} {seq : Nat} (hk : Keeps pend tmin s) :
    Keeps pend tmin (State.memRead s sp a n iid st seq).2 := by
  unfold State.memRead
  repeat' first
    | with_reducible assumption | with_reducible refine Keeps.ite ?_ ?_ | with_reducible refine Keeps.ite_snd ?_ ?_
    | with_reducible refine State.readWords_keeps ?_ | split | dsimp only

theorem State.memReadFree_keeps {s : State} {sp : Nat} {a : Nat} {n : Nat} {iid : Nat} (hk : Keeps pend tmin s) :
    Keeps pend tmin (State.memReadFree s sp a n iid).2 := by
  unfold State.memReadFree
  repeat' first
    | with_reducible assumption | with_reducible refine State.memRead_keeps ?_ | with_reducible refine State.draw_keeps ?_
    | (with_reducible refine Keeps.of_snd (by with_reducible assumption) ?_) | split | dsimp only

theorem State.writeWord_keeps {s : State} {sp word : Nat} {cells : List Host.Cell} (h : Keeps pend tmin s) :
    Keeps pend tmin (State.writeWord s sp word cells) := by
  unfold State.writeWord
  refine Keeps.ite (Keeps.update.mpr <| KeepsU.of h (Nat.le_refl _) (fun w => Mem.wf_putCells _ _ _ w) id) (Keeps.ite h ?_)
  exact Keeps.update.mpr <| KeepsU.of (State.correct_keeps h) (Nat.le_refl _) (Mem.wf_putCells _ _ _) id

theorem State.memWrite_keeps {s : State} {sp : Nat} {cells : List Host.Cell} (h : Keeps pend tmin s) :
    Keeps pend tmin (State.memWrite s sp cells) := by
  unfold State.memWrite
  refine Keeps.foldl (Keeps.ite (Keeps.update.mpr <| KeepsU.of h (Nat.le_refl _) (Mem.wf_wcInvalidates _ _) id) h) fun _ _ k => State.writeWord_keeps k

/-- The one write of outside memory. -/
theorem State.extWrite_keeps {s : State} {space a : Nat} {l : List (BitVec 8)} (h : Keeps pend tmin s) : Keeps pend tmin (State.extWrite s space a l) := by
  refine Keeps.ext h fun w => ?_
  generalize cellsAt a l = cs
  generalize s.ext = e at w
  induction cs generalizing e with
  | nil => exact w
  | cons c t ih => exact ih _ (kvWf_kvIns _ _ _ w)

theorem State.tracePut_keeps {s : State} {r : List (BitVec 8)} (hk : Keeps pend tmin s) :
    Keeps pend tmin (State.tracePut s r) := by
  unfold State.tracePut
  repeat' first
    | with_reducible assumption | with_reducible refine Keeps.ite ?_ ?_ | with_reducible refine State.memWrite_keeps ?_
    | with_reducible refine State.set_keeps ?_ | with_reducible refine State.bump_keeps ?_ | split | dsimp only

theorem State.traceDrop_keeps {s : State} (hk : Keeps pend tmin s) :
    Keeps pend tmin (State.traceDrop s) := by
  unfold State.traceDrop
  repeat' first
    | with_reducible assumption | with_reducible refine State.bump_keeps ?_ | with_reducible refine State.stickIrq_keeps ?_
    | simp only [Keeps.update] | with_reducible refine KeepsU.all ?_ | split | dsimp only

theorem State.traceOverflow_keeps {s : State} (hk : Keeps pend tmin s) :
    Keeps pend tmin (State.traceOverflow s) := by
  unfold State.traceOverflow
  repeat' first
    | with_reducible assumption | with_reducible refine State.tracePut_keeps ?_ | simp only [Keeps.update]
    | with_reducible refine KeepsU.all ?_ | split | dsimp only

theorem State.traceEvent_keeps {s : State} {r : List (BitVec 8)} (hk : Keeps pend tmin s) :
    Keeps pend tmin (State.traceEvent s r) := by
  unfold State.traceEvent
  repeat' first
    | with_reducible assumption | with_reducible refine Keeps.ite ?_ ?_ | with_reducible refine State.traceDrop_keeps ?_
    | with_reducible refine State.tracePut_keeps ?_ | with_reducible refine State.traceOverflow_keeps ?_ | split
    | dsimp only

theorem State.trace_keeps {s : State} {type : Nat} {unit : Nat} {ten : Nat} {seq : Nat} {payload : List (BitVec 8)} (hk : Keeps pend tmin s) :
    Keeps pend tmin (State.trace s type unit ten seq payload) := by
  unfold State.trace
  repeat' first
    | with_reducible assumption | with_reducible refine Keeps.ite ?_ ?_ | with_reducible refine State.traceEvent_keeps ?_
    | split | dsimp only

theorem State.lastWords_keeps {s : State} {cause : Nat} {core : Nat} {pc : Nat} {sp : Nat} (hk : Keeps pend tmin s) :
    Keeps pend tmin (State.lastWords s cause core pc sp) := by
  unfold State.lastWords
  repeat' first
    | with_reducible assumption | with_reducible refine State.wr_keeps ?_
    | with_reducible refine Keeps.foldl ?_ (fun _ _ _ => ?_) | with_reducible refine Keeps.foldl_snd ?_ (fun _ _ _ => ?_)
    | split | dsimp only

theorem State.closeSession_keeps {s : State} (hk : Keeps pend tmin s) :
    Keeps pend tmin (State.closeSession s) := by
  unfold State.closeSession
  repeat' first
    | with_reducible assumption | with_reducible refine State.set_keeps ?_ | simp only [Keeps.update]
    | with_reducible refine KeepsU.all ?_ | split | dsimp only

theorem State.holdRefresh_keeps {s : State} (hk : Keeps pend tmin s) :
    Keeps pend tmin (State.holdRefresh s) := by
  unfold State.holdRefresh
  repeat' first
    | with_reducible assumption | with_reducible refine Keeps.ite ?_ ?_ | with_reducible refine State.set_keeps ?_ | split
    | dsimp only

/-- Rack time moves forward only (R36). -/
theorem State.advance_keeps {s : State} {t : Nat} (h : Keeps pend tmin s) : Keeps pend tmin (State.advance s t) := by
  unfold State.advance
  split
  · exact h
  · next hc =>
    dsimp only
    refine State.holdRefresh_keeps (State.set_keeps (Keeps.update.mpr <| KeepsU.of h ?_ id id))
    simp only [Bool.or_eq_true, decide_eq_true_eq, not_or] at hc
    exact Nat.le_of_lt (Nat.lt_of_not_le hc.2)

end Sys2Proof.Machine
end

