-- ==== Sys2Proof/Laws/Keeps/Operands.lean ====
section
/-! SUPPORT. The operations of Machine/Operands.lean keep the queue, rack time and the canonical forms (see Laws/Keeps). -/
namespace Sys2Proof.Machine
variable {pend : List Instr} {tmin : Nat}

theorem State.atsUse_keeps {s : State} {t : Nat} {as : List Nat} (hk : Keeps pend tmin s) :
    Keeps pend tmin (State.atsUse s t as) := by
  unfold State.atsUse
  repeat' first
    | with_reducible assumption | with_reducible refine Keeps.ite ?_ ?_ | simp only [Keeps.update]
    | with_reducible refine KeepsU.all ?_ | split | dsimp only

theorem State.bridle_keeps {s : State} {f : Nat} {t : Nat} {agent : Nat} {cls : Nat} {wr : Bool} {units : List Nat} (hk : Keeps pend tmin s) :
    Keeps pend tmin (State.bridle s f t agent cls wr units).2 := by
  unfold State.bridle
  repeat' first
    | with_reducible assumption | with_reducible refine Keeps.ite ?_ ?_ | with_reducible refine Keeps.ite_snd ?_ ?_
    | with_reducible refine State.stick_keeps ?_ | with_reducible refine State.wr_keeps ?_
    | with_reducible refine State.set_keeps ?_ | (with_reducible refine Keeps.of_snd (by with_reducible assumption) ?_)
    | split | dsimp only

theorem State.bridleRange_keeps {s : State} {sp : Nat} {t : Nat} {agent : Nat} {cls : Nat} {wr : Bool} {off : Nat} {n : Nat} (hk : Keeps pend tmin s) :
    Keeps pend tmin (State.bridleRange s sp t agent cls wr off n).2 := by
  unfold State.bridleRange
  repeat' first
    | with_reducible assumption | with_reducible refine State.bridle_keeps ?_ | with_reducible refine State.wr_keeps ?_
    | (with_reducible refine Keeps.of_snd (by with_reducible assumption) ?_) | split | dsimp only

end Sys2Proof.Machine
end

