-- ==== Sys2Proof/Laws/Keeps/Fit.lean ====
section
/-! SUPPORT. The operations of Machine/Fit.lean keep the queue, rack time and the canonical forms (see Laws/Keeps). -/
namespace Sys2Proof.Machine
variable {pend : List Instr} {tmin : Nat}

theorem State.setTick_keeps {s : State} {n : Nat} (hk : Keeps pend tmin s) :
    Keeps pend tmin (State.setTick s n) := by
  unfold State.setTick
  repeat' first
    | with_reducible assumption | with_reducible refine State.set_keeps ?_ | split | dsimp only

theorem State.charge_keeps {s : State} {t : Nat} {tick : Nat} {seg : Nat} {costs : List (Resource × Nat)} {cf : Nat} (hk : Keeps pend tmin s) :
    Keeps pend tmin (State.charge s t tick seg costs cf) := by
  unfold State.charge
  repeat' first
    | with_reducible assumption | simp only [Keeps.update] | with_reducible refine KeepsU.all ?_
    | with_reducible refine KeepsU.time ?_ | (with_reducible refine Keeps.of_snd (by with_reducible assumption) ?_) | split
    | dsimp only

theorem State.admitCmd_keeps {s : State} {t : Nat} {timed : Option Nat} {costs : List (Resource × Nat)} {cf : Nat} (hk : Keeps pend tmin s) :
    KeepsOP pend tmin (State.admitCmd s t timed costs cf) := by
  unfold State.admitCmd
  repeat' first
    | with_reducible assumption | with_reducible refine Keeps.ite ?_ ?_ | with_reducible refine Keeps.ite_snd ?_ ?_
    | with_reducible refine State.charge_keeps ?_ | (with_reducible refine Keeps.of_snd (by with_reducible assumption) ?_)
    | (with_reducible refine Keeps.of_some_snd (by with_reducible assumption) ?_) | with_reducible exact KeepsOP.none
    | with_reducible refine KeepsOP.some ?_ | with_reducible refine KeepsOP.ite ?_ ?_ | split | dsimp only

end Sys2Proof.Machine
end

