-- ==== Sys2Proof/Laws/Keeps/Memory.lean ====
section
/-! SUPPORT. The operations of Machine/Memory.lean keep the queue, rack time and the canonical forms (see Laws/Keeps). -/
namespace Sys2Proof.Machine
variable {pend : List Instr} {tmin : Nat}

theorem State.scrubWord_keeps {s : State} {sp : Nat} {w : Nat} (hk : Keeps pend tmin s) :
    Keeps pend tmin (State.scrubWord s sp w) := by
  unfold State.scrubWord
  repeat' first
    | with_reducible assumption | with_reducible refine Keeps.ite ?_ ?_ | with_reducible refine State.logUE_keeps ?_
    | with_reducible refine State.correct_keeps ?_ | split | dsimp only

theorem State.scrubStep_keeps {s : State} (hk : Keeps pend tmin s) :
    Keeps pend tmin (State.scrubStep s) := by
  unfold State.scrubStep
  repeat' first
    | with_reducible assumption | with_reducible refine Keeps.ite ?_ ?_ | with_reducible refine State.scrubWord_keeps ?_
    | with_reducible refine State.set_keeps ?_ | with_reducible refine Keeps.foldl ?_ (fun _ _ _ => ?_)
    | with_reducible refine Keeps.foldl_snd ?_ (fun _ _ _ => ?_)
    | (with_reducible refine Keeps.of_snd (by with_reducible assumption) ?_) | split | dsimp only

theorem State.hbmScrubStep_keeps {s : State} (hk : Keeps pend tmin s) :
    Keeps pend tmin (State.hbmScrubStep s) := by
  unfold State.hbmScrubStep
  repeat' first
    | with_reducible assumption | with_reducible refine Keeps.ite ?_ ?_ | with_reducible refine State.scrubWord_keeps ?_
    | with_reducible refine State.set_keeps ?_ | with_reducible refine Keeps.foldl ?_ (fun _ _ _ => ?_)
    | with_reducible refine Keeps.foldl_snd ?_ (fun _ _ _ => ?_) | split | dsimp only

theorem execScrubStep_keeps {s : State} (hk : Keeps pend tmin s) :
    KeepsR pend tmin (execScrubStep s) := by
  unfold execScrubStep
  repeat' first
    | with_reducible assumption | with_reducible refine KeepsR.next ?_ | with_reducible refine State.scrubStep_keeps ?_
    | split | dsimp only

theorem execHbmScrubStep_keeps {s : State} (hk : Keeps pend tmin s) :
    KeepsR pend tmin (execHbmScrubStep s) := by
  unfold execHbmScrubStep
  repeat' first
    | with_reducible assumption | with_reducible refine KeepsR.next ?_ | with_reducible refine State.hbmScrubStep_keeps ?_
    | split | dsimp only

theorem State.hbmReady_keeps {s : State} (hk : Keeps pend tmin s) :
    Keeps pend tmin (State.hbmReady s) := by
  unfold State.hbmReady
  repeat' first
    | with_reducible assumption | with_reducible refine Keeps.ite ?_ ?_ | with_reducible refine State.set_keeps ?_ | split
    | dsimp only

theorem execHbmReady_keeps {s : State} (hk : Keeps pend tmin s) :
    KeepsR pend tmin (execHbmReady s) := by
  unfold execHbmReady
  repeat' first
    | with_reducible assumption | with_reducible refine KeepsR.next ?_ | with_reducible refine State.hbmReady_keeps ?_
    | split | dsimp only

theorem State.wcResize_keeps {s : State} {v : Nat} (hk : Keeps pend tmin s) :
    Keeps pend tmin (State.wcResize s v) := by
  unfold State.wcResize
  repeat' first
    | with_reducible assumption | with_reducible refine Keeps.ite ?_ ?_ | with_reducible refine State.stick_keeps ?_
    | with_reducible refine State.set_keeps ?_ | simp only [Keeps.update] | with_reducible refine KeepsU.all ?_
    | with_reducible refine KeepsU.mem ?_ ?_ | exact fun w => w | split | dsimp only

theorem execWcResize_keeps {v : Fin 8} {s : State} (hk : Keeps pend tmin s) :
    KeepsR pend tmin (execWcResize v s) := by
  unfold execWcResize
  repeat' first
    | with_reducible assumption | with_reducible refine KeepsR.next ?_ | with_reducible refine Keeps.ite ?_ ?_
    | with_reducible refine KeepsR.ite ?_ ?_ | with_reducible refine State.wcResize_keeps ?_ | split | dsimp only

theorem State.wcFill_keeps {s : State} {line : Nat} {sector : Nat} (hk : Keeps pend tmin s) :
    Keeps pend tmin (State.wcFill s line sector) := by
  unfold State.wcFill
  repeat' first
    | with_reducible assumption | with_reducible refine Keeps.ite ?_ ?_ | with_reducible refine State.correct_keeps ?_
    | with_reducible refine Keeps.foldl ?_ (fun _ _ _ => ?_) | with_reducible refine Keeps.foldl_snd ?_ (fun _ _ _ => ?_)
    | simp only [Keeps.update] | with_reducible refine KeepsU.all ?_ | with_reducible refine KeepsU.mem ?_ ?_
    | exact fun w => w | split | dsimp only

theorem execWcFillComplete_keeps {line : Nat} {sector : Fin 16} {s : State} (hk : Keeps pend tmin s) :
    KeepsR pend tmin (execWcFillComplete line sector s) := by
  unfold execWcFillComplete
  repeat' first
    | with_reducible assumption | with_reducible refine KeepsR.next ?_ | with_reducible refine State.wcFill_keeps ?_ | split
    | dsimp only

theorem State.wcResizeEnd_keeps {s : State} (hk : Keeps pend tmin s) :
    Keeps pend tmin (State.wcResizeEnd s) := by
  unfold State.wcResizeEnd
  repeat' first
    | with_reducible assumption | with_reducible refine State.wcFill_keeps ?_ | with_reducible refine State.set_keeps ?_
    | with_reducible refine Keeps.foldl ?_ (fun _ _ _ => ?_) | with_reducible refine Keeps.foldl_snd ?_ (fun _ _ _ => ?_)
    | simp only [Keeps.update] | with_reducible refine KeepsU.all ?_ | with_reducible refine KeepsU.mem ?_ ?_
    | exact fun w => w | (with_reducible refine Keeps.of_snd (by with_reducible assumption) ?_) | split | dsimp only

theorem execWcResizeComplete_keeps {s : State} (hk : Keeps pend tmin s) :
    KeepsR pend tmin (execWcResizeComplete s) := by
  unfold execWcResizeComplete
  repeat' first
    | with_reducible assumption | with_reducible refine KeepsR.next ?_ | with_reducible refine State.wcResizeEnd_keeps ?_
    | split | dsimp only

theorem State.wcPinWrite_keeps {s : State} {k : Nat} {w : Nat} (hk : Keeps pend tmin s) :
    Keeps pend tmin (State.wcPinWrite s k w) := by
  unfold State.wcPinWrite
  repeat' first
    | with_reducible assumption | with_reducible refine Keeps.ite ?_ ?_ | with_reducible refine State.set_keeps ?_
    | with_reducible refine State.stick_keeps ?_ | split | dsimp only

theorem execWcPinEnable_keeps {k : Fin 4} {w : Word} {s : State} (hk : Keeps pend tmin s) :
    KeepsR pend tmin (execWcPinEnable k w s) := by
  unfold execWcPinEnable
  repeat' first
    | with_reducible assumption | with_reducible refine KeepsR.next ?_ | with_reducible refine Keeps.ite ?_ ?_
    | with_reducible refine KeepsR.ite ?_ ?_ | with_reducible refine State.wcPinWrite_keeps ?_ | split | dsimp only

theorem State.wcAllocate_keeps {s : State} {line : Nat} (hk : Keeps pend tmin s) :
    KeepsO pend tmin (State.wcAllocate s line) := by
  unfold State.wcAllocate
  repeat' first
    | with_reducible assumption | with_reducible refine Keeps.ite ?_ ?_ | with_reducible refine Keeps.ite_snd ?_ ?_
    | with_reducible refine State.set_keeps ?_ | with_reducible refine Keeps.foldl ?_ (fun _ _ _ => ?_)
    | with_reducible refine Keeps.foldl_snd ?_ (fun _ _ _ => ?_) | simp only [Keeps.update]
    | with_reducible refine KeepsU.all ?_ | with_reducible refine KeepsU.mem ?_ ?_ | exact fun w => w
    | (with_reducible refine Keeps.of_snd (by with_reducible assumption) ?_)
    | (with_reducible refine Keeps.of_some (by with_reducible assumption) ?_) | with_reducible exact KeepsO.none
    | with_reducible refine KeepsO.some ?_ | with_reducible refine KeepsO.ite ?_ ?_ | split | dsimp only

theorem State.wcUe_keeps {s : State} {line : Nat} {sector : Nat} (hk : Keeps pend tmin s) :
    Keeps pend tmin (State.wcUe s line sector) := by
  unfold State.wcUe
  repeat' first
    | with_reducible assumption | with_reducible refine State.stick_keeps ?_ | simp only [Keeps.update]
    | with_reducible refine KeepsU.all ?_ | with_reducible refine KeepsU.mem ?_ ?_ | exact fun w => w | split | dsimp only

theorem State.wcTouch_keeps {s : State} {line : Nat} (hk : Keeps pend tmin s) :
    Keeps pend tmin (State.wcTouch s line) := by
  unfold State.wcTouch
  repeat' first
    | with_reducible assumption | with_reducible refine Keeps.ite ?_ ?_ | simp only [Keeps.update]
    | with_reducible refine KeepsU.all ?_ | with_reducible refine KeepsU.mem ?_ ?_ | exact fun w => w | split | dsimp only

theorem State.wcStartFill_keeps {s : State} {line : Nat} {sector : Nat} {rank : Nat} {tick : Nat} (hk : Keeps pend tmin s) :
    Keeps pend tmin (State.wcStartFill s line sector rank tick) := by
  unfold State.wcStartFill
  repeat' first
    | with_reducible assumption | with_reducible refine Keeps.ite ?_ ?_ | with_reducible refine State.raise_keeps ?_
    | simp only [Keeps.update] | with_reducible refine KeepsU.all ?_ | with_reducible refine KeepsU.mem ?_ ?_
    | exact fun w => w | split | dsimp only

theorem State.wcLook_keeps {s : State} {l : WcLine} {sector : Nat} {rank : Nat} {tick : Nat} (hk : Keeps pend tmin s) :
    Keeps pend tmin (State.wcLook s l sector rank tick).2 := by
  unfold State.wcLook
  repeat' first
    | with_reducible assumption | with_reducible refine Keeps.ite ?_ ?_ | with_reducible refine Keeps.ite_snd ?_ ?_
    | with_reducible refine State.wcTouch_keeps ?_ | with_reducible refine State.bump_keeps ?_
    | with_reducible refine State.wcUe_keeps ?_ | with_reducible refine State.wcStartFill_keeps ?_ | split | dsimp only

theorem State.wcRead_keeps {s : State} {line : Nat} {sector : Nat} {rank : Nat} {tick : Nat} (hk : Keeps pend tmin s) :
    Keeps pend tmin (State.wcRead s line sector rank tick).2 := by
  unfold State.wcRead
  repeat' first
    | with_reducible assumption | with_reducible refine Keeps.ite ?_ ?_ | with_reducible refine Keeps.ite_snd ?_ ?_
    | with_reducible refine State.wcLook_keeps ?_ | with_reducible refine State.wcAllocate_keeps ?_
    | with_reducible refine State.stick_keeps ?_ | with_reducible refine State.bump_keeps ?_
    | with_reducible refine State.wcStartFill_keeps ?_
    | (with_reducible refine Keeps.of_snd (by with_reducible assumption) ?_)
    | (with_reducible refine Keeps.of_some (by with_reducible assumption) ?_) | with_reducible exact KeepsO.none
    | with_reducible refine KeepsO.some ?_ | with_reducible refine KeepsO.ite ?_ ?_ | split | dsimp only

theorem State.facetWrite_keeps {s : State} {t : Nat} {k : Nat} {w : Nat} (hk : Keeps pend tmin s) :
    Keeps pend tmin (State.facetWrite s t k w) := by
  unfold State.facetWrite
  repeat' first
    | with_reducible assumption | with_reducible refine Keeps.ite ?_ ?_ | with_reducible refine State.set_keeps ?_
    | with_reducible refine State.stick_keeps ?_ | split | dsimp only

theorem execFacetRegisterWrite_keeps {t : Tenant} {k : Fin 4} {w : Word} {s : State} (hk : Keeps pend tmin s) :
    KeepsR pend tmin (execFacetRegisterWrite t k w s) := by
  unfold execFacetRegisterWrite
  repeat' first
    | with_reducible assumption | with_reducible refine KeepsR.next ?_ | with_reducible refine Keeps.ite ?_ ?_
    | with_reducible refine KeepsR.ite ?_ ?_ | with_reducible refine State.facetWrite_keeps ?_ | split | dsimp only

theorem State.rsvd_keeps {s : State} {off : Nat} {n : Nat} (hk : Keeps pend tmin s) :
    Keeps pend tmin (State.rsvd s off n) := by
  unfold State.rsvd
  repeat' first
    | with_reducible assumption | with_reducible refine Keeps.ite ?_ ?_ | with_reducible refine State.stick_keeps ?_ | split
    | dsimp only

theorem State.bar2Read_keeps {s : State} {off : Nat} {n : Nat} {secure : Bool} (hk : Keeps pend tmin s) :
    Keeps pend tmin (State.bar2Read s off n secure) := by
  unfold State.bar2Read
  repeat' first
    | with_reducible assumption | with_reducible refine Keeps.ite ?_ ?_ | with_reducible refine Keeps.ite_snd ?_ ?_
    | with_reducible refine State.stick_keeps ?_ | with_reducible refine State.out_keeps ?_
    | with_reducible refine State.rsvd_keeps ?_ | with_reducible refine State.bridle_keeps ?_
    | with_reducible refine State.readWords_keeps ?_
    | (with_reducible refine Keeps.of_snd (by with_reducible assumption) ?_) | split | dsimp only

theorem State.bar2Write_keeps {s : State} {off : Nat} {data : List (BitVec 8)} {poisoned : Bool} {secure : Bool} (hk : Keeps pend tmin s) :
    Keeps pend tmin (State.bar2Write s off data poisoned secure) := by
  unfold State.bar2Write
  repeat' first
    | with_reducible assumption | with_reducible refine Keeps.ite ?_ ?_ | with_reducible refine Keeps.ite_snd ?_ ?_
    | with_reducible refine State.stick_keeps ?_ | with_reducible refine State.out_keeps ?_
    | with_reducible refine State.rsvd_keeps ?_ | with_reducible refine State.bridle_keeps ?_
    | with_reducible refine State.memWrite_keeps ?_ | (with_reducible refine Keeps.of_snd (by with_reducible assumption) ?_)
    | split | dsimp only

end Sys2Proof.Machine
end

