-- ==== Sys2Proof/Laws/Keeps/ReinTx.lean ====
section
/-! SUPPORT. The operations of Machine/ReinTx.lean keep the queue, rack time and the canonical forms (see Laws/Keeps). -/
namespace Sys2Proof.Machine
variable {pend : List Instr} {tmin : Nat}

theorem State.setPort_keeps {s : State} {n : Nat} {p : PortSt} (hk : Keeps pend tmin s) :
    Keeps pend tmin (State.setPort s n p) := by
  unfold State.setPort
  repeat' first
    | with_reducible assumption | simp only [Keeps.update] | with_reducible refine KeepsU.all ?_ | split | dsimp only

theorem State.emitFlit_keeps {s : State} {n : Nat} {f : Flit} {lseq : Nat} {nak : Bool} (hk : Keeps pend tmin s) :
    Keeps pend tmin (State.emitFlit s n f lseq nak) := by
  unfold State.emitFlit
  repeat' first
    | with_reducible assumption | with_reducible refine State.out_keeps ?_ | with_reducible refine State.setPort_keeps ?_
    | simp only [Keeps.update] | with_reducible refine KeepsU.all ?_ | split | dsimp only

theorem State.sendFlit_keeps {s : State} {n : Nat} {f : Flit} (hk : Keeps pend tmin s) :
    Keeps pend tmin (State.sendFlit s n f) := by
  unfold State.sendFlit
  repeat' first
    | with_reducible assumption | with_reducible refine State.setPort_keeps ?_
    | with_reducible refine State.emitFlit_keeps ?_ | simp only [Keeps.update] | with_reducible refine KeepsU.all ?_ | split
    | dsimp only

theorem State.pumpN_keeps {k : Nat} {s : State} {n : Nat} (hk : Keeps pend tmin s) : Keeps pend tmin (State.pumpN k s n) := by
  induction k generalizing s with
  | zero => exact hk
  | succ k ih =>
    unfold State.pumpN
    repeat' first
      | with_reducible assumption | with_reducible refine Keeps.ite ?_ ?_ | with_reducible refine ih ?_
      | with_reducible refine State.sendFlit_keeps ?_ | with_reducible refine State.setPort_keeps ?_ | split | dsimp only

theorem State.pump_keeps {s : State} {n : Nat} (hk : Keeps pend tmin s) :
    Keeps pend tmin (State.pump s n) := by
  unfold State.pump
  repeat' first
    | with_reducible assumption | with_reducible refine Keeps.ite ?_ ?_ | with_reducible refine State.pumpN_keeps ?_ | split
    | dsimp only

theorem State.enqueue_keeps {s : State} {n : Nat} {fs : List Flit} (hk : Keeps pend tmin s) :
    Keeps pend tmin (State.enqueue s n fs) := by
  unfold State.enqueue
  repeat' first
    | with_reducible assumption | with_reducible refine State.setPort_keeps ?_ | with_reducible refine State.pump_keeps ?_
    | simp only [Keeps.update] | with_reducible refine KeepsU.all ?_ | split | dsimp only

theorem State.routeMulti_keeps {s : State} {n : Nat} {dest : Nat} (hk : Keeps pend tmin s) :
    Keeps pend tmin (State.routeMulti s n dest) := by
  unfold State.routeMulti
  repeat' first
    | with_reducible assumption | with_reducible refine State.stick_keeps ?_
    | (with_reducible refine Keeps.of_snd (by with_reducible assumption) ?_) | split | dsimp only

theorem State.originate_keeps {s : State} {m : Msg} (hk : Keeps pend tmin s) :
    Keeps pend tmin (State.originate s m) := by
  unfold State.originate
  repeat' first
    | with_reducible assumption | with_reducible refine Keeps.ite ?_ ?_ | with_reducible refine Keeps.ite_snd ?_ ?_
    | with_reducible refine State.routeMulti_keeps ?_ | with_reducible refine State.out_keeps ?_
    | with_reducible refine State.enqueue_keeps ?_ | simp only [Keeps.update] | with_reducible refine KeepsU.all ?_
    | (with_reducible refine Keeps.of_snd (by with_reducible assumption) ?_) | split | dsimp only

theorem State.sendVc3_keeps {s : State} {n : Nat} {m : Msg} (hk : Keeps pend tmin s) :
    Keeps pend tmin (State.sendVc3 s n m) := by
  unfold State.sendVc3
  repeat' first
    | with_reducible assumption | with_reducible refine Keeps.ite ?_ ?_ | with_reducible refine State.out_keeps ?_
    | with_reducible refine State.enqueue_keeps ?_ | simp only [Keeps.update] | with_reducible refine KeepsU.all ?_ | split
    | dsimp only

theorem State.setTx_keeps {s : State} {d : Nat} {p : TxPair} (hk : Keeps pend tmin s) :
    Keeps pend tmin (State.setTx s d p) := by
  unfold State.setTx
  repeat' first
    | with_reducible assumption | with_reducible refine State.set_keeps ?_ | simp only [Keeps.update]
    | with_reducible refine KeepsU.all ?_ | split | dsimp only

theorem State.txSend_keeps {s : State} {d : Nat} {x : TxMsg} (hk : Keeps pend tmin s) :
    Keeps pend tmin (State.txSend s d x) := by
  unfold State.txSend
  repeat' first
    | with_reducible assumption | with_reducible refine State.setTx_keeps ?_
    | with_reducible refine State.originate_keeps ?_ | simp only [Keeps.update] | with_reducible refine KeepsU.all ?_
    | split | dsimp only

theorem State.txDrain_keeps {s : State} {d : Nat} (hk : Keeps pend tmin s) :
    Keeps pend tmin (State.txDrain s d) := by
  unfold State.txDrain
  repeat' first
    | with_reducible assumption | with_reducible refine Keeps.ite ?_ ?_ | with_reducible refine State.setTx_keeps ?_
    | with_reducible refine State.txSend_keeps ?_ | with_reducible refine Keeps.foldl ?_ (fun _ _ _ => ?_)
    | with_reducible refine Keeps.foldl_snd ?_ (fun _ _ _ => ?_) | simp only [Keeps.update]
    | with_reducible refine KeepsU.all ?_ | split | dsimp only

theorem State.vc1_keeps {s : State} {d : Nat} {m : Msg} {cmd : Option Nat} (hk : Keeps pend tmin s) :
    Keeps pend tmin (State.vc1 s d m cmd) := by
  unfold State.vc1
  repeat' first
    | with_reducible assumption | with_reducible refine State.setTx_keeps ?_ | with_reducible refine State.txDrain_keeps ?_
    | simp only [Keeps.update] | with_reducible refine KeepsU.all ?_ | split | dsimp only

theorem State.vc0_keeps {s : State} {d : Nat} {m : Msg} {cmd : Nat} {off : Nat} {len : Nat} (hk : Keeps pend tmin s) :
    Keeps pend tmin (State.vc0 s d m cmd off len) := by
  unfold State.vc0
  repeat' first
    | with_reducible assumption | with_reducible refine State.originate_keeps ?_ | simp only [Keeps.update]
    | with_reducible refine KeepsU.all ?_ | split | dsimp only

theorem State.configSend_keeps {s : State} (hk : Keeps pend tmin s) :
    Keeps pend tmin (State.configSend s) := by
  unfold State.configSend
  repeat' first
    | with_reducible assumption | with_reducible refine State.sendVc3_keeps ?_
    | with_reducible refine Keeps.foldl ?_ (fun _ _ _ => ?_) | with_reducible refine Keeps.foldl_snd ?_ (fun _ _ _ => ?_)
    | simp only [Keeps.update] | with_reducible refine KeepsU.all ?_ | split | dsimp only

end Sys2Proof.Machine
end

