-- ==== Sys2Proof/Laws/Keeps/Cadence.lean ====
section
/-! SUPPORT. The operations of Machine/Cadence.lean keep the queue, rack time and the canonical forms (see Laws/Keeps). -/
namespace Sys2Proof.Machine
variable {pend : List Instr} {tmin : Nat}

theorem execCadTimeLoRead_keeps {fn : Tenant} {s : State} (hk : Keeps pend tmin s) :
    KeepsR pend tmin (execCadTimeLoRead fn s) := by
  unfold execCadTimeLoRead
  repeat' first
    | with_reducible assumption | with_reducible refine KeepsR.next ?_ | with_reducible refine Keeps.ite ?_ ?_
    | with_reducible refine KeepsR.ite ?_ ?_ | with_reducible refine State.out_keeps ?_ | simp only [Keeps.update]
    | with_reducible refine KeepsU.all ?_ | with_reducible refine KeepsU.time ?_ | split | dsimp only

theorem State.timeHi_keeps {s : State} {fn : Nat} (hk : Keeps pend tmin s) :
    Keeps pend tmin (State.timeHi s fn).2 := by
  unfold State.timeHi
  repeat' first
    | with_reducible assumption | simp only [Keeps.update] | with_reducible refine KeepsU.all ?_
    | with_reducible refine KeepsU.time ?_ | (with_reducible refine Keeps.of_snd (by with_reducible assumption) ?_) | split
    | dsimp only

theorem State.retick_keeps {s : State} (hk : Keeps pend tmin s) :
    Keeps pend tmin (State.retick s) := by
  unfold State.retick
  repeat' first
    | with_reducible assumption | with_reducible refine Keeps.ite ?_ ?_ | with_reducible refine State.setTick_keeps ?_
    | split | dsimp only

theorem State.cadEnable_keeps {s : State} (hk : Keeps pend tmin s) :
    Keeps pend tmin (State.cadEnable s) := by
  unfold State.cadEnable
  repeat' first
    | with_reducible assumption | with_reducible refine Keeps.ite ?_ ?_ | with_reducible refine State.stick_keeps ?_
    | with_reducible refine State.set_keeps ?_ | with_reducible refine State.retick_keeps ?_
    | with_reducible refine State.configSend_keeps ?_ | split | dsimp only

theorem State.cadDisable_keeps {s : State} (hk : Keeps pend tmin s) :
    Keeps pend tmin (State.cadDisable s) := by
  unfold State.cadDisable
  repeat' first
    | with_reducible assumption | with_reducible refine Keeps.ite ?_ ?_ | with_reducible refine State.stick_keeps ?_
    | with_reducible refine State.set_keeps ?_ | with_reducible refine State.configSend_keeps ?_ | split | dsimp only

theorem State.switchArm_keeps {s : State} (hk : Keeps pend tmin s) :
    Keeps pend tmin (State.switchArm s) := by
  unfold State.switchArm
  repeat' first
    | with_reducible assumption | with_reducible refine Keeps.ite ?_ ?_ | with_reducible refine State.set_keeps ?_
    | with_reducible refine State.configSend_keeps ?_ | with_reducible refine State.stick_keeps ?_
    | simp only [Keeps.update] | with_reducible refine KeepsU.all ?_ | with_reducible refine KeepsU.time ?_ | split
    | dsimp only

theorem State.slewTo_keeps {s : State} {off : Int} (hk : Keeps pend tmin s) :
    Keeps pend tmin (State.slewTo s off) := by
  unfold State.slewTo
  repeat' first
    | with_reducible assumption | with_reducible refine State.set_keeps ?_ | simp only [Keeps.update]
    | with_reducible refine KeepsU.all ?_ | with_reducible refine KeepsU.time ?_ | split | dsimp only

theorem State.stepTime_keeps {s : State} {t : Nat} (h : Keeps pend tmin s) : Keeps pend tmin (State.stepTime s t) := by
  unfold State.stepTime
  split
  · exact State.retick_keeps (State.set_keeps (Keeps.update.mpr (KeepsU.of h ‹_› (fun w => w) fun w => w)))
  · exact State.slewTo_keeps (Keeps.update.mpr (KeepsU.of h (Nat.le_refl _) (fun w => w) fun w => w))

theorem State.setTime_keeps {s : State} (hk : Keeps pend tmin s) :
    Keeps pend tmin (State.setTime s) := by
  unfold State.setTime
  repeat' first
    | with_reducible assumption | with_reducible refine Keeps.ite ?_ ?_ | with_reducible refine State.stepTime_keeps ?_
    | with_reducible refine State.stick_keeps ?_ | split | dsimp only

theorem State.holdRate_keeps {s : State} (hk : Keeps pend tmin s) :
    Keeps pend tmin (State.holdRate s) := by
  unfold State.holdRate
  repeat' first
    | with_reducible assumption | with_reducible refine State.set_keeps ?_ | split | dsimp only

theorem State.enterHoldover_keeps {s : State} (hk : Keeps pend tmin s) :
    Keeps pend tmin (State.enterHoldover s) := by
  unfold State.enterHoldover
  repeat' first
    | with_reducible assumption | with_reducible refine State.set_keeps ?_ | with_reducible refine State.holdRate_keeps ?_
    | with_reducible refine State.holdRefresh_keeps ?_ | simp only [Keeps.update] | with_reducible refine KeepsU.all ?_
    | with_reducible refine KeepsU.time ?_ | split | dsimp only

theorem State.factoryModel_keeps {s : State} (hk : Keeps pend tmin s) :
    Keeps pend tmin (State.factoryModel s) := by
  unfold State.factoryModel
  repeat' first
    | with_reducible assumption | with_reducible refine Keeps.ite ?_ ?_ | with_reducible refine State.set_keeps ?_
    | simp only [Keeps.update] | with_reducible refine KeepsU.all ?_ | with_reducible refine KeepsU.time ?_ | split
    | dsimp only

theorem State.takeSource_keeps {s : State} {code : Nat} {off : Int} (hk : Keeps pend tmin s) :
    Keeps pend tmin (State.takeSource s code off) := by
  unfold State.takeSource
  repeat' first
    | with_reducible assumption | with_reducible refine Keeps.ite ?_ ?_ | with_reducible refine State.acquired_keeps ?_
    | with_reducible refine State.set_keeps ?_ | with_reducible refine State.factoryModel_keeps ?_
    | with_reducible refine State.stepTime_keeps ?_ | with_reducible refine State.slewTo_keeps ?_ | simp only [Keeps.update]
    | with_reducible refine KeepsU.all ?_ | with_reducible refine KeepsU.time ?_ | split | dsimp only

theorem State.selectSource_keeps {s : State} {new : Nat} (hk : Keeps pend tmin s) :
    Keeps pend tmin (State.selectSource s new) := by
  unfold State.selectSource
  repeat' first
    | with_reducible assumption | with_reducible refine Keeps.ite ?_ ?_ | with_reducible refine Keeps.ite_snd ?_ ?_
    | with_reducible refine State.enterHoldover_keeps ?_ | with_reducible refine State.stickIrq_keeps ?_
    | with_reducible refine State.slewTo_keeps ?_ | with_reducible refine State.takeSource_keeps ?_
    | (with_reducible refine Keeps.of_snd (by with_reducible assumption) ?_) | split | dsimp only

theorem State.acceptSource_keeps {s : State} (hk : Keeps pend tmin s) :
    Keeps pend tmin (State.acceptSource s) := by
  unfold State.acceptSource
  repeat' first
    | with_reducible assumption | with_reducible refine State.selectSource_keeps ?_ | simp only [Keeps.update]
    | with_reducible refine KeepsU.all ?_ | with_reducible refine KeepsU.time ?_ | split | dsimp only

theorem State.cadCtrlWrite_keeps {s : State} {w : Nat} (hk : Keeps pend tmin s) :
    Keeps pend tmin (State.cadCtrlWrite s w) := by
  unfold State.cadCtrlWrite
  repeat' first
    | with_reducible assumption | with_reducible refine Keeps.ite ?_ ?_ | with_reducible refine State.wr_keeps ?_
    | with_reducible refine State.cadEnable_keeps ?_ | with_reducible refine State.cadDisable_keeps ?_
    | with_reducible refine State.switchArm_keeps ?_ | with_reducible refine State.setTime_keeps ?_
    | with_reducible refine State.acceptSource_keeps ?_ | split | dsimp only

theorem execCadenceEnable_keeps {s : State} (hk : Keeps pend tmin s) :
    KeepsR pend tmin (execCadenceEnable s) := by
  unfold execCadenceEnable
  repeat' first
    | with_reducible assumption | with_reducible refine KeepsR.next ?_ | with_reducible refine Keeps.ite ?_ ?_
    | with_reducible refine KeepsR.ite ?_ ?_ | with_reducible refine State.cadEnable_keeps ?_ | split | dsimp only

theorem execCadenceDisable_keeps {s : State} (hk : Keeps pend tmin s) :
    KeepsR pend tmin (execCadenceDisable s) := by
  unfold execCadenceDisable
  repeat' first
    | with_reducible assumption | with_reducible refine KeepsR.next ?_ | with_reducible refine Keeps.ite ?_ ?_
    | with_reducible refine KeepsR.ite ?_ ?_ | with_reducible refine State.cadDisable_keeps ?_ | split | dsimp only

theorem execSwitchArm_keeps {s : State} (hk : Keeps pend tmin s) :
    KeepsR pend tmin (execSwitchArm s) := by
  unfold execSwitchArm
  repeat' first
    | with_reducible assumption | with_reducible refine KeepsR.next ?_ | with_reducible refine Keeps.ite ?_ ?_
    | with_reducible refine KeepsR.ite ?_ ?_ | with_reducible refine State.switchArm_keeps ?_ | split | dsimp only

theorem execSetTime_keeps {s : State} (hk : Keeps pend tmin s) :
    KeepsR pend tmin (execSetTime s) := by
  unfold execSetTime
  repeat' first
    | with_reducible assumption | with_reducible refine KeepsR.next ?_ | with_reducible refine Keeps.ite ?_ ?_
    | with_reducible refine KeepsR.ite ?_ ?_ | with_reducible refine State.setTime_keeps ?_ | split | dsimp only

theorem execAcceptSrc_keeps {s : State} (hk : Keeps pend tmin s) :
    KeepsR pend tmin (execAcceptSrc s) := by
  unfold execAcceptSrc
  repeat' first
    | with_reducible assumption | with_reducible refine KeepsR.next ?_ | with_reducible refine Keeps.ite ?_ ?_
    | with_reducible refine KeepsR.ite ?_ ?_ | with_reducible refine State.acceptSource_keeps ?_ | split | dsimp only

theorem State.cadDomainWrite_keeps {s : State} {a : Nat} {w : Nat} (hk : Keeps pend tmin s) :
    Keeps pend tmin (State.cadDomainWrite s a w) := by
  unfold State.cadDomainWrite
  repeat' first
    | with_reducible assumption | with_reducible refine Keeps.ite ?_ ?_ | with_reducible refine State.stick_keeps ?_
    | with_reducible refine State.wr_keeps ?_ | with_reducible refine State.configSend_keeps ?_ | split | dsimp only

theorem State.cadDomainWide_keeps {s : State} {a : Nat} {lo : Nat} {hi : Nat} (hk : Keeps pend tmin s) :
    Keeps pend tmin (State.cadDomainWide s a lo hi) := by
  unfold State.cadDomainWide
  repeat' first
    | with_reducible assumption | with_reducible refine Keeps.ite ?_ ?_ | with_reducible refine State.stick_keeps ?_
    | with_reducible refine State.wr_keeps ?_ | with_reducible refine State.configSend_keeps ?_ | split | dsimp only

theorem State.applySwitch_keeps {s : State} {edge : Nat} (hk : Keeps pend tmin s) :
    Keeps pend tmin (State.applySwitch s edge) := by
  unfold State.applySwitch
  repeat' first
    | with_reducible assumption | with_reducible refine Keeps.ite ?_ ?_ | with_reducible refine State.set_keeps ?_
    | with_reducible refine State.set64_keeps ?_ | with_reducible refine State.configSend_keeps ?_ | split | dsimp only

theorem State.tickDrive_keeps {s : State} {b : Bool} {t : Nat} (hk : Keeps pend tmin s) :
    Keeps pend tmin (State.tickDrive s b t) := by
  unfold State.tickDrive
  repeat' first
    | with_reducible assumption | with_reducible refine State.out_keeps ?_ | simp only [Keeps.update]
    | with_reducible refine KeepsU.all ?_ | with_reducible refine KeepsU.time ?_
    | (with_reducible refine Keeps.of_snd (by with_reducible assumption) ?_) | split | dsimp only

theorem State.ppsDrive_keeps {s : State} {b : Bool} {t : Nat} (hk : Keeps pend tmin s) :
    Keeps pend tmin (State.ppsDrive s b t) := by
  unfold State.ppsDrive
  repeat' first
    | with_reducible assumption | with_reducible refine State.out_keeps ?_ | simp only [Keeps.update]
    | with_reducible refine KeepsU.all ?_ | with_reducible refine KeepsU.time ?_
    | (with_reducible refine Keeps.of_snd (by with_reducible assumption) ?_) | split | dsimp only

theorem State.armAgain_keeps {s : State} (hk : Keeps pend tmin s) :
    Keeps pend tmin (State.armAgain s) := by
  unfold State.armAgain
  repeat' first
    | with_reducible assumption | with_reducible refine State.switchArm_keeps ?_ | with_reducible refine State.set_keeps ?_
    | split | dsimp only

theorem execTickEdge_keeps {arm : Bool} {s : State} (hk : Keeps pend tmin s) :
    KeepsR pend tmin (execTickEdge arm s) := by
  unfold execTickEdge
  repeat' first
    | with_reducible assumption | with_reducible refine KeepsR.next ?_ | with_reducible refine Keeps.ite ?_ ?_
    | with_reducible refine KeepsR.ite ?_ ?_ | with_reducible refine State.set_keeps ?_
    | with_reducible refine State.advance_keeps ?_ | with_reducible refine State.setTick_keeps ?_
    | with_reducible refine State.applySwitch_keeps ?_ | with_reducible refine State.armAgain_keeps ?_
    | with_reducible refine State.admitted_keeps ?_ | with_reducible refine State.tickDrive_keeps ?_
    | with_reducible refine State.trace_keeps ?_ | simp only [Keeps.update] | with_reducible refine KeepsU.all ?_
    | with_reducible refine KeepsU.time ?_ | split | dsimp only

theorem execTickOutFall_keeps {s : State} (hk : Keeps pend tmin s) :
    KeepsR pend tmin (execTickOutFall s) := by
  unfold execTickOutFall
  repeat' first
    | with_reducible assumption | with_reducible refine KeepsR.next ?_ | with_reducible refine Keeps.ite ?_ ?_
    | with_reducible refine KeepsR.ite ?_ ?_ | with_reducible refine State.advance_keeps ?_
    | with_reducible refine State.tickDrive_keeps ?_ | split | dsimp only

theorem execPpsOutRise_keeps {s : State} (hk : Keeps pend tmin s) :
    KeepsR pend tmin (execPpsOutRise s) := by
  unfold execPpsOutRise
  repeat' first
    | with_reducible assumption | with_reducible refine KeepsR.next ?_ | with_reducible refine Keeps.ite ?_ ?_
    | with_reducible refine KeepsR.ite ?_ ?_ | with_reducible refine State.advance_keeps ?_
    | with_reducible refine State.ppsDrive_keeps ?_ | simp only [Keeps.update] | with_reducible refine KeepsU.all ?_
    | with_reducible refine KeepsU.time ?_ | split | dsimp only

theorem execPpsOutFall_keeps {s : State} (hk : Keeps pend tmin s) :
    KeepsR pend tmin (execPpsOutFall s) := by
  unfold execPpsOutFall
  repeat' first
    | with_reducible assumption | with_reducible refine KeepsR.next ?_ | with_reducible refine Keeps.ite ?_ ?_
    | with_reducible refine KeepsR.ite ?_ ?_ | with_reducible refine State.advance_keeps ?_
    | with_reducible refine State.ppsDrive_keeps ?_ | split | dsimp only

theorem execPpsInEdge_keeps {at_ : Nat} {s : State} (hk : Keeps pend tmin s) :
    KeepsR pend tmin (execPpsInEdge at_ s) := by
  unfold execPpsInEdge
  repeat' first
    | with_reducible assumption | with_reducible refine KeepsR.next ?_ | with_reducible refine State.advance_keeps ?_
    | with_reducible refine State.set64_keeps ?_ | with_reducible refine State.selectSource_keeps ?_
    | simp only [Keeps.update] | with_reducible refine KeepsU.all ?_ | with_reducible refine KeepsU.time ?_ | split
    | dsimp only

theorem execPpsInTimeout_keeps {s : State} (hk : Keeps pend tmin s) :
    KeepsR pend tmin (execPpsInTimeout s) := by
  unfold execPpsInTimeout
  repeat' first
    | with_reducible assumption | with_reducible refine KeepsR.next ?_ | with_reducible refine Keeps.ite ?_ ?_
    | with_reducible refine KeepsR.ite ?_ ?_ | with_reducible refine Keeps.ite_snd ?_ ?_
    | with_reducible refine State.advance_keeps ?_ | with_reducible refine State.stick_keeps ?_
    | with_reducible refine State.selectSource_keeps ?_ | simp only [Keeps.update] | with_reducible refine KeepsU.all ?_
    | with_reducible refine KeepsU.time ?_ | (with_reducible refine Keeps.of_snd (by with_reducible assumption) ?_) | split
    | dsimp only

theorem State.setPtp_keeps {s : State} {p : Nat} {x : PtpPort} (hk : Keeps pend tmin s) :
    Keeps pend tmin (State.setPtp s p x) := by
  unfold State.setPtp
  repeat' first
    | with_reducible assumption | with_reducible refine Keeps.ite ?_ ?_ | simp only [Keeps.update]
    | with_reducible refine KeepsU.all ?_ | with_reducible refine KeepsU.time ?_ | split | dsimp only

theorem State.ptpByLink_keeps {s : State} {p : Nat} (hk : Keeps pend tmin s) :
    Keeps pend tmin (State.ptpByLink s p) := by
  unfold State.ptpByLink
  repeat' first
    | with_reducible assumption | with_reducible refine State.setPtp_keeps ?_
    | with_reducible refine State.selectSource_keeps ?_ | simp only [Keeps.update] | with_reducible refine KeepsU.all ?_
    | (with_reducible refine Keeps.of_snd (by with_reducible assumption) ?_) | split | dsimp only

theorem State.ptpIn_keeps {s : State} {p : Nat} {m : PtpMsg} (hk : Keeps pend tmin s) :
    Keeps pend tmin (State.ptpIn s p m) := by
  unfold State.ptpIn
  repeat' first
    | with_reducible assumption | with_reducible refine Keeps.ite ?_ ?_ | with_reducible refine Keeps.ite_snd ?_ ?_
    | with_reducible refine State.advance_keeps ?_ | with_reducible refine State.setPtp_keeps ?_
    | with_reducible refine State.ptpByLink_keeps ?_ | with_reducible refine State.selectSource_keeps ?_
    | with_reducible refine State.out_keeps ?_ | simp only [Keeps.update] | with_reducible refine KeepsU.all ?_
    | (with_reducible refine Keeps.of_snd (by with_reducible assumption) ?_) | split | dsimp only

theorem execPtpMessage_keeps {p : EthPort} {m : PtpMsg} {s : State} (hk : Keeps pend tmin s) :
    KeepsR pend tmin (execPtpMessage p m s) := by
  unfold execPtpMessage
  repeat' first
    | with_reducible assumption | with_reducible refine KeepsR.next ?_ | with_reducible refine State.ptpIn_keeps ?_ | split
    | dsimp only

theorem execPtpSourceLost_keeps {p : EthPort} {s : State} (hk : Keeps pend tmin s) :
    KeepsR pend tmin (execPtpSourceLost p s) := by
  unfold execPtpSourceLost
  repeat' first
    | with_reducible assumption | with_reducible refine KeepsR.next ?_ | with_reducible refine Keeps.ite ?_ ?_
    | with_reducible refine KeepsR.ite ?_ ?_ | with_reducible refine State.setPtp_keeps ?_
    | with_reducible refine State.stickIrq_keeps ?_ | with_reducible refine State.selectSource_keeps ?_
    | simp only [Keeps.update] | with_reducible refine KeepsU.all ?_ | split | dsimp only

theorem execPtpTransmitInterval_keeps {p : EthPort} {twoStep : Bool} {peer : Bool} {s : State} (hk : Keeps pend tmin s) :
    KeepsR pend tmin (execPtpTransmitInterval p twoStep peer s) := by
  unfold execPtpTransmitInterval
  repeat' first
    | with_reducible assumption | with_reducible refine KeepsR.next ?_ | with_reducible refine Keeps.ite ?_ ?_
    | with_reducible refine KeepsR.ite ?_ ?_ | with_reducible refine State.setPtp_keeps ?_
    | with_reducible refine State.out_keeps ?_ | with_reducible refine State.draw_keeps ?_ | simp only [Keeps.update]
    | with_reducible refine KeepsU.all ?_ | split | dsimp only

theorem execHoldoverRecord_keeps {freq : Int} {temp : Int} {s : State} (hk : Keeps pend tmin s) :
    KeepsR pend tmin (execHoldoverRecord freq temp s) := by
  unfold execHoldoverRecord
  repeat' first
    | with_reducible assumption | with_reducible refine KeepsR.next ?_ | with_reducible refine Keeps.ite ?_ ?_
    | with_reducible refine KeepsR.ite ?_ ?_ | with_reducible refine State.set_keeps ?_
    | with_reducible refine State.holdRate_keeps ?_ | with_reducible refine State.holdRefresh_keeps ?_
    | simp only [Keeps.update] | with_reducible refine KeepsU.all ?_ | with_reducible refine KeepsU.time ?_ | split
    | dsimp only

theorem execRackTimeStore_keeps {s : State} (hk : Keeps pend tmin s) :
    KeepsR pend tmin (execRackTimeStore s) := by
  unfold execRackTimeStore
  repeat' first
    | with_reducible assumption | with_reducible refine KeepsR.next ?_ | with_reducible refine Keeps.ite ?_ ?_
    | with_reducible refine KeepsR.ite ?_ ?_ | with_reducible refine State.advance_keeps ?_
    | with_reducible refine State.bump_keeps ?_ | simp only [Keeps.update] | with_reducible refine KeepsU.all ?_
    | with_reducible refine KeepsU.time ?_ | split | dsimp only

theorem execJoinHoldRelease_keeps {s : State} (hk : Keeps pend tmin s) :
    KeepsR pend tmin (execJoinHoldRelease s) := by
  unfold execJoinHoldRelease
  repeat' first
    | with_reducible assumption | with_reducible refine KeepsR.next ?_ | simp only [Keeps.update]
    | with_reducible refine KeepsU.all ?_ | with_reducible refine KeepsU.time ?_ | split | dsimp only

theorem State.idle_keeps {s : State} (hk : Keeps pend tmin s) :
    Keeps pend tmin (State.idle s) := by
  unfold State.idle
  repeat' first
    | with_reducible assumption | with_reducible refine State.advance_keeps ?_ | split | dsimp only

end Sys2Proof.Machine
end

