-- ==== Sys2Proof/Laws/Keeps/Lanes.lean ====
section
/-! SUPPORT. The operations of Machine/Lanes.lean keep the queue, rack time and the canonical forms (see Laws/Keeps). -/
namespace Sys2Proof.Machine
variable {pend : List Instr} {tmin : Nat}

theorem State.setLane_keeps {s : State} {l : Nat} {x : LaneSt} (hk : Keeps pend tmin s) :
    Keeps pend tmin (State.setLane s l x) := by
  unfold State.setLane
  repeat' first
    | with_reducible assumption | simp only [Keeps.update] | with_reducible refine KeepsU.all ?_ | split | dsimp only

theorem State.dropGrants_keeps {s : State} {e : Nat} (hk : Keeps pend tmin s) :
    Keeps pend tmin (State.dropGrants s e) := by
  unfold State.dropGrants
  repeat' first
    | with_reducible assumption | with_reducible refine Keeps.ite ?_ ?_ | simp only [Keeps.update]
    | with_reducible refine KeepsU.all ?_ | (with_reducible refine Keeps.of_snd (by with_reducible assumption) ?_) | split
    | dsimp only

end Sys2Proof.Machine
end

