-- ==== Sys2Proof/Laws/Keeps/Flags.lean ====
section
/-! SUPPORT. The operations of Machine/Flags.lean keep the queue, rack time and the canonical forms (see Laws/Keeps). -/
namespace Sys2Proof.Machine
variable {pend : List Instr} {tmin : Nat}

theorem State.setFlagWord_keeps {s : State} {t : Nat} {w : Nat} {v : Nat} (hk : Keeps pend tmin s) :
    Keeps pend tmin (State.setFlagWord s t w v) := by
  unfold State.setFlagWord
  repeat' first
    | with_reducible assumption | simp only [Keeps.update] | with_reducible refine KeepsU.all ?_
    | with_reducible refine KeepsU.sync ?_ ?_ | exact Sync.wf_cnt _ _ _ | exact Sync.wf_cst _ _ _ | exact Sync.wf_bars _ _ _
    | exact Sync.wf_locks _ _ _ | exact Sync.wf_flags _ _ _ | exact fun w => w | split | dsimp only

theorem State.modNode_keeps {s : State} {t : Nat} {k : Nat} {f : Node → Node} (hk : Keeps pend tmin s) :
    Keeps pend tmin (State.modNode s t k f) := by
  unfold State.modNode
  repeat' first
    | with_reducible assumption | with_reducible refine Keeps.ite ?_ ?_ | simp only [Keeps.update]
    | with_reducible refine KeepsU.all ?_ | split | dsimp only

theorem State.makeReady_keeps {s : State} {t : Nat} {k : Nat} (hk : Keeps pend tmin s) :
    Keeps pend tmin (State.makeReady s t k) := by
  unfold State.makeReady
  repeat' first
    | with_reducible assumption | with_reducible refine Keeps.ite ?_ ?_ | with_reducible refine State.modNode_keeps ?_
    | simp only [Keeps.update] | with_reducible refine KeepsU.all ?_ | split | dsimp only

theorem State.evalFlags_keeps {s : State} {t : Nat} {w : Nat} (hk : Keeps pend tmin s) :
    Keeps pend tmin (State.evalFlags s t w) := by
  unfold State.evalFlags
  repeat' first
    | with_reducible assumption | with_reducible refine Keeps.ite ?_ ?_ | with_reducible refine Keeps.ite_snd ?_ ?_
    | with_reducible refine State.makeReady_keeps ?_ | with_reducible refine State.setFlagWord_keeps ?_
    | with_reducible refine Keeps.foldl ?_ (fun _ _ _ => ?_) | with_reducible refine Keeps.foldl_snd ?_ (fun _ _ _ => ?_)
    | (with_reducible refine Keeps.of_snd (by with_reducible assumption) ?_) | split | dsimp only

theorem State.flagUpdate_keeps {s : State} {t : Nat} {w : Nat} {set : Nat} {clr : Nat} (hk : Keeps pend tmin s) :
    Keeps pend tmin (State.flagUpdate s t w set clr) := by
  unfold State.flagUpdate
  repeat' first
    | with_reducible assumption | with_reducible refine State.setFlagWord_keeps ?_
    | with_reducible refine State.set_keeps ?_ | with_reducible refine State.evalFlags_keeps ?_ | split | dsimp only

theorem State.refillReady_keeps {s : State} {t : Nat} (hk : Keeps pend tmin s) :
    Keeps pend tmin (State.refillReady s t) := by
  unfold State.refillReady
  repeat' first
    | with_reducible assumption | with_reducible refine Keeps.ite ?_ ?_ | with_reducible refine State.modNode_keeps ?_
    | with_reducible refine Keeps.foldl ?_ (fun _ _ _ => ?_) | with_reducible refine Keeps.foldl_snd ?_ (fun _ _ _ => ?_)
    | simp only [Keeps.update] | with_reducible refine KeepsU.all ?_ | split | dsimp only

theorem State.setCntVal_keeps {s : State} {n : Nat} {v : Nat} (hk : Keeps pend tmin s) :
    Keeps pend tmin (State.setCntVal s n v) := by
  unfold State.setCntVal
  repeat' first
    | with_reducible assumption | simp only [Keeps.update] | with_reducible refine KeepsU.all ?_
    | with_reducible refine KeepsU.sync ?_ ?_ | exact Sync.wf_cnt _ _ _ | exact Sync.wf_cst _ _ _ | exact Sync.wf_bars _ _ _
    | exact Sync.wf_locks _ _ _ | exact Sync.wf_flags _ _ _ | exact fun w => w | split | dsimp only

theorem State.setCntSt_keeps {s : State} {n : Nat} {v : Nat} (hk : Keeps pend tmin s) :
    Keeps pend tmin (State.setCntSt s n v) := by
  unfold State.setCntSt
  repeat' first
    | with_reducible assumption | simp only [Keeps.update] | with_reducible refine KeepsU.all ?_
    | with_reducible refine KeepsU.sync ?_ ?_ | exact Sync.wf_cnt _ _ _ | exact Sync.wf_cst _ _ _ | exact Sync.wf_bars _ _ _
    | exact Sync.wf_locks _ _ _ | exact Sync.wf_flags _ _ _ | exact fun w => w | split | dsimp only

theorem State.cntFlag_keeps {s : State} {t : Nat} {n : Nat} {k : Nat} (hk : Keeps pend tmin s) :
    Keeps pend tmin (State.cntFlag s t n k) := by
  unfold State.cntFlag
  repeat' first
    | with_reducible assumption | with_reducible refine Keeps.ite ?_ ?_ | with_reducible refine State.setCntSt_keeps ?_
    | with_reducible refine State.stick_keeps ?_ | split | dsimp only

theorem State.cntAdd_keeps {s : State} {t : Nat} {n : Nat} {v : Nat} (hk : Keeps pend tmin s) :
    Keeps pend tmin (State.cntAdd s t n v) := by
  unfold State.cntAdd
  repeat' first
    | with_reducible assumption | with_reducible refine Keeps.ite ?_ ?_ | with_reducible refine State.setCntVal_keeps ?_
    | with_reducible refine State.cntFlag_keeps ?_ | split | dsimp only

theorem State.cntSub_keeps {s : State} {t : Nat} {n : Nat} {v : Nat} (hk : Keeps pend tmin s) :
    Keeps pend tmin (State.cntSub s t n v) := by
  unfold State.cntSub
  repeat' first
    | with_reducible assumption | with_reducible refine Keeps.ite ?_ ?_ | with_reducible refine State.setCntVal_keeps ?_
    | with_reducible refine State.cntFlag_keeps ?_ | split | dsimp only

theorem State.cntSet_keeps {s : State} {n : Nat} {v : Nat} (hk : Keeps pend tmin s) :
    Keeps pend tmin (State.cntSet s n v) := by
  unfold State.cntSet
  repeat' first
    | with_reducible assumption | with_reducible refine State.setCntVal_keeps ?_ | split | dsimp only

end Sys2Proof.Machine
end

