-- ==== Sys2Proof/Laws/Keeps/LoupeCore.lean ====
section
/-! SUPPORT. The operations of Machine/LoupeCore.lean keep the queue, rack time and the canonical forms (see Laws/Keeps). -/
namespace Sys2Proof.Machine
variable {pend : List Instr} {tmin : Nat}

theorem State.lpFrame_keeps {s : State} {type : Nat} {event : List (BitVec 8)} (hk : Keeps pend tmin s) :
    Keeps pend tmin (State.lpFrame s type event) := by
  unfold State.lpFrame
  repeat' first
    | with_reducible assumption | with_reducible refine Keeps.ite ?_ ?_ | with_reducible refine State.out_keeps ?_
    | simp only [Keeps.update] | with_reducible refine KeepsU.all ?_ | split | dsimp only

theorem State.elogWrite_keeps {s : State} {r : List (BitVec 8)} (hk : Keeps pend tmin s) :
    Keeps pend tmin (State.elogWrite s r).2 := by
  unfold State.elogWrite
  repeat' first
    | with_reducible assumption | with_reducible refine Keeps.ite ?_ ?_ | with_reducible refine Keeps.ite_snd ?_ ?_
    | with_reducible refine State.bridleRange_keeps ?_ | with_reducible refine State.memWrite_keeps ?_
    | with_reducible refine State.set_keeps ?_ | (with_reducible refine Keeps.of_snd (by with_reducible assumption) ?_)
    | split | dsimp only

theorem State.elogKeep_keeps {s : State} {r : List (BitVec 8)} (hk : Keeps pend tmin s) :
    Keeps pend tmin (State.elogKeep s r) := by
  unfold State.elogKeep
  repeat' first
    | with_reducible assumption | with_reducible refine Keeps.ite ?_ ?_ | with_reducible refine State.stick_keeps ?_
    | simp only [Keeps.update] | with_reducible refine KeepsU.all ?_ | split | dsimp only

theorem State.event_keeps {s : State} {r : List (BitVec 8)} (hk : Keeps pend tmin s) :
    Keeps pend tmin (State.event s r) := by
  unfold State.event
  repeat' first
    | with_reducible assumption | with_reducible refine Keeps.ite ?_ ?_ | with_reducible refine Keeps.ite_snd ?_ ?_
    | with_reducible refine State.lpFrame_keeps ?_ | with_reducible refine State.elogKeep_keeps ?_
    | with_reducible refine State.elogWrite_keeps ?_
    | (with_reducible refine Keeps.of_snd (by with_reducible assumption) ?_) | split | dsimp only

theorem State.lpeUpdate_keeps {s : State} (hk : Keeps pend tmin s) :
    Keeps pend tmin (State.lpeUpdate s) := by
  unfold State.lpeUpdate
  repeat' first
    | with_reducible assumption | with_reducible refine Keeps.ite ?_ ?_ | with_reducible refine State.set_keeps ?_
    | with_reducible refine State.event_keeps ?_ | with_reducible refine State.irq_keeps ?_ | split | dsimp only

theorem State.patHold_keeps {s : State} {p : Nat} (hk : Keeps pend tmin s) :
    Keeps pend tmin (State.patHold s p) := by
  unfold State.patHold
  repeat' first
    | with_reducible assumption | with_reducible refine Keeps.ite ?_ ?_ | simp only [Keeps.update]
    | with_reducible refine KeepsU.all ?_ | split | dsimp only

theorem State.raise_keeps {s : State} {action : Nat} {by_ : Option Nat} (hk : Keeps pend tmin s) :
    Keeps pend tmin (State.raise s action by_) := by
  unfold State.raise
  repeat' first
    | with_reducible assumption | with_reducible refine Keeps.ite ?_ ?_ | with_reducible refine State.patHold_keeps ?_
    | with_reducible refine State.set_keeps ?_ | simp only [Keeps.update] | with_reducible refine KeepsU.all ?_ | split
    | dsimp only

theorem State.verdict_keeps {s : State} {id : Nat} {r : List (BitVec 8)} {pass : Bool} (hk : Keeps pend tmin s) :
    Keeps pend tmin (State.verdict s id r pass) := by
  unfold State.verdict
  repeat' first
    | with_reducible assumption | with_reducible refine Keeps.ite ?_ ?_ | simp only [Keeps.update]
    | with_reducible refine KeepsU.all ?_ | split | dsimp only

theorem State.pairFail_keeps {s : State} {i : Nat} {cause : Nat} {r : List (BitVec 8)} (hk : Keeps pend tmin s) :
    Keeps pend tmin (State.pairFail s i cause r) := by
  unfold State.pairFail
  repeat' first
    | with_reducible assumption | with_reducible refine State.raise_keeps ?_ | with_reducible refine State.stick_keeps ?_
    | with_reducible refine State.event_keeps ?_ | split | dsimp only

theorem State.missing_keeps {s : State} {u : Unpaired} (hk : Keeps pend tmin s) :
    Keeps pend tmin (State.missing s u) := by
  unfold State.missing
  repeat' first
    | with_reducible assumption | with_reducible refine State.pairFail_keeps ?_
    | with_reducible refine State.verdict_keeps ?_ | with_reducible refine State.lpeUpdate_keeps ?_
    | simp only [Keeps.update] | with_reducible refine KeepsU.all ?_ | split | dsimp only

theorem State.summaryLost_keeps {s : State} {r : List (BitVec 8)} (hk : Keeps pend tmin s) :
    Keeps pend tmin (State.summaryLost s r) := by
  unfold State.summaryLost
  repeat' first
    | with_reducible assumption | with_reducible refine Keeps.ite ?_ ?_ | with_reducible refine Keeps.ite_snd ?_ ?_
    | with_reducible refine State.stick_keeps ?_ | with_reducible refine State.event_keeps ?_
    | with_reducible refine State.missing_keeps ?_ | simp only [Keeps.update] | with_reducible refine KeepsU.all ?_
    | (with_reducible refine Keeps.of_snd (by with_reducible assumption) ?_) | split | dsimp only

end Sys2Proof.Machine
end

