-- ==== Sys2Proof/Laws/Keeps/Summary.lean ====
section
/-! SUPPORT. The operations of Machine/Summary.lean keep the queue, rack time and the canonical forms (see Laws/Keeps). -/
namespace Sys2Proof.Machine
variable {pend : List Instr} {tmin : Nat}

theorem State.sendSummary_keeps {s : State} {c : Cmd} {st : Nat} (hk : Keeps pend tmin s) :
    Keeps pend tmin (State.sendSummary s c st).2 := by
  unfold State.sendSummary
  repeat' first
    | with_reducible assumption | with_reducible refine Keeps.ite ?_ ?_ | with_reducible refine Keeps.ite_snd ?_ ?_
    | with_reducible refine State.bump_keeps ?_ | with_reducible refine State.summaryLost_keeps ?_
    | simp only [Keeps.update] | with_reducible refine KeepsU.all ?_ | split | dsimp only

end Sys2Proof.Machine
end

