-- ==== Sys2Proof/Laws/Keeps/Records.lean ====
section
/-! SUPPORT. The operations of Machine/Records.lean keep the queue, rack time and the canonical forms (see Laws/Keeps). -/
namespace Sys2Proof.Machine
variable {pend : List Instr} {tmin : Nat}

theorem State.setCmd_keeps {s : State} {c : Cmd} (hk : Keeps pend tmin s) :
    Keeps pend tmin (State.setCmd s c) := by
  unfold State.setCmd
  repeat' first
    | with_reducible assumption | with_reducible refine Keeps.ite ?_ ?_ | simp only [Keeps.update]
    | with_reducible refine KeepsU.all ?_ | split | dsimp only

theorem State.modCmd_keeps {s : State} {id : Nat} {f : Cmd → Cmd} (hk : Keeps pend tmin s) :
    Keeps pend tmin (State.modCmd s id f) := by
  unfold State.modCmd
  repeat' first
    | with_reducible assumption | with_reducible refine Keeps.ite ?_ ?_ | simp only [Keeps.update]
    | with_reducible refine KeepsU.all ?_ | split | dsimp only

theorem State.setQueue_keeps {s : State} {x : QueueSt} (hk : Keeps pend tmin s) :
    Keeps pend tmin (State.setQueue s x) := by
  unfold State.setQueue
  repeat' first
    | with_reducible assumption | simp only [Keeps.update] | with_reducible refine KeepsU.all ?_ | split | dsimp only

theorem State.setTenant_keeps {s : State} {x : TenantSt} (hk : Keeps pend tmin s) :
    Keeps pend tmin (State.setTenant s x) := by
  unfold State.setTenant
  repeat' first
    | with_reducible assumption | simp only [Keeps.update] | with_reducible refine KeepsU.all ?_ | split | dsimp only

theorem State.traceDecode_keeps {s : State} {c : Cmd} (hk : Keeps pend tmin s) :
    Keeps pend tmin (State.traceDecode s c) := by
  unfold State.traceDecode
  repeat' first
    | with_reducible assumption | with_reducible refine Keeps.ite ?_ ?_ | with_reducible refine State.trace_keeps ?_ | split
    | dsimp only

theorem State.addCmd_keeps {s : State} {c : Cmd} (hk : Keeps pend tmin s) :
    Keeps pend tmin (State.addCmd s c) := by
  unfold State.addCmd
  repeat' first
    | with_reducible assumption | with_reducible refine Keeps.ite ?_ ?_ | with_reducible refine Keeps.ite_snd ?_ ?_
    | with_reducible refine State.setQueue_keeps ?_ | with_reducible refine State.traceDecode_keeps ?_
    | simp only [Keeps.update] | with_reducible refine KeepsU.all ?_
    | (with_reducible refine Keeps.of_snd (by with_reducible assumption) ?_) | split | dsimp only

theorem State.admitted_keeps {s : State} {id : Nat} {tick : Nat} (hk : Keeps pend tmin s) :
    Keeps pend tmin (State.admitted s id tick) := by
  unfold State.admitted
  repeat' first
    | with_reducible assumption | with_reducible refine State.modCmd_keeps ?_
    | with_reducible refine State.traceDecode_keeps ?_ | simp only [Keeps.update] | with_reducible refine KeepsU.all ?_
    | (with_reducible refine Keeps.of_snd (by with_reducible assumption) ?_) | split | dsimp only

theorem State.areaWrite_keeps {s : State} {t : Nat} {da : Nat} {l : List (BitVec 8)} (hk : Keeps pend tmin s) :
    KeepsO pend tmin (State.areaWrite s t da l) := by
  unfold State.areaWrite
  repeat' first
    | with_reducible assumption | with_reducible refine Keeps.ite ?_ ?_ | with_reducible refine Keeps.ite_snd ?_ ?_
    | with_reducible refine State.extWrite_keeps ?_ | with_reducible refine State.atsUse_keeps ?_
    | with_reducible refine State.memWrite_keeps ?_ | with_reducible refine Keeps.foldl ?_ (fun _ _ _ => ?_)
    | with_reducible refine Keeps.foldl_snd ?_ (fun _ _ _ => ?_)
    | (with_reducible refine Keeps.of_snd (by with_reducible assumption) ?_)
    | (with_reducible refine Keeps.of_some (by with_reducible assumption) ?_) | with_reducible exact KeepsO.none
    | with_reducible refine KeepsO.some ?_ | with_reducible refine KeepsO.ite ?_ ?_ | split | dsimp only

theorem State.irqRecord_keeps {s : State} {t : Nat} {irq : Bool} (hk : Keeps pend tmin s) :
    Keeps pend tmin (State.irqRecord s t irq) := by
  unfold State.irqRecord
  repeat' first
    | with_reducible assumption | with_reducible refine Keeps.ite ?_ ?_ | with_reducible refine State.irq_keeps ?_
    | with_reducible refine State.setTenant_keeps ?_ | with_reducible refine State.msix_keeps ?_ | simp only [Keeps.update]
    | with_reducible refine KeepsU.all ?_ | split | dsimp only

theorem State.cqPut_keeps {s : State} {t : Nat} {r : List (BitVec 8)} {irq : Bool} (hk : Keeps pend tmin s) :
    KeepsO pend tmin (State.cqPut s t r irq) := by
  unfold State.cqPut
  repeat' first
    | with_reducible assumption | with_reducible refine Keeps.ite ?_ ?_ | with_reducible refine Keeps.ite_snd ?_ ?_
    | with_reducible refine State.areaWrite_keeps ?_ | with_reducible refine State.set_keeps ?_
    | with_reducible refine State.irqRecord_keeps ?_ | with_reducible refine State.irq_keeps ?_
    | (with_reducible refine Keeps.of_snd (by with_reducible assumption) ?_)
    | (with_reducible refine Keeps.of_some (by with_reducible assumption) ?_) | with_reducible exact KeepsO.none
    | with_reducible refine KeepsO.some ?_ | with_reducible refine KeepsO.ite ?_ ?_ | split | dsimp only

theorem State.haltNote_keeps {s : State} {t : Nat} {was : Bool} (hk : Keeps pend tmin s) :
    Keeps pend tmin (State.haltNote s t was) := by
  unfold State.haltNote
  repeat' first
    | with_reducible assumption | with_reducible refine Keeps.ite ?_ ?_ | with_reducible refine State.stick_keeps ?_
    | with_reducible refine State.msix_keeps ?_ | with_reducible refine State.irq_keeps ?_ | split | dsimp only

theorem State.haltCq_keeps {s : State} {t : Nat} (hk : Keeps pend tmin s) :
    Keeps pend tmin (State.haltCq s t) := by
  unfold State.haltCq
  repeat' first
    | with_reducible assumption | with_reducible refine State.set_keeps ?_ | with_reducible refine State.haltNote_keeps ?_
    | split | dsimp only

theorem State.record_keeps {s : State} {t : Nat} {r : List (BitVec 8)} {irq : Bool} {q : Nat} (hk : Keeps pend tmin s) :
    Keeps pend tmin (State.record s t r irq q) := by
  unfold State.record
  repeat' first
    | with_reducible assumption | with_reducible refine Keeps.ite ?_ ?_ | with_reducible refine Keeps.ite_snd ?_ ?_
    | with_reducible refine State.setTenant_keeps ?_ | with_reducible refine State.irq_keeps ?_
    | with_reducible refine State.cqPut_keeps ?_ | with_reducible refine State.haltCq_keeps ?_ | simp only [Keeps.update]
    | with_reducible refine KeepsU.all ?_ | (with_reducible refine Keeps.of_snd (by with_reducible assumption) ?_)
    | (with_reducible refine Keeps.of_some (by with_reducible assumption) ?_) | with_reducible exact KeepsO.none
    | with_reducible refine KeepsO.some ?_ | with_reducible refine KeepsO.ite ?_ ?_ | split | dsimp only

theorem State.cqResume_keeps {s : State} {t : Nat} (hk : Keeps pend tmin s) :
    Keeps pend tmin (State.cqResume s t) := by
  unfold State.cqResume
  repeat' first
    | with_reducible assumption | with_reducible refine State.set_keeps ?_ | with_reducible refine State.setTenant_keeps ?_
    | with_reducible refine State.record_keeps ?_ | with_reducible refine Keeps.foldl ?_ (fun _ _ _ => ?_)
    | with_reducible refine Keeps.foldl_snd ?_ (fun _ _ _ => ?_) | simp only [Keeps.update]
    | with_reducible refine KeepsU.all ?_ | (with_reducible refine Keeps.of_snd (by with_reducible assumption) ?_) | split
    | dsimp only

theorem State.nodeRecorded_keeps {s : State} {t : Nat} {slot : Nat} (hk : Keeps pend tmin s) :
    Keeps pend tmin (State.nodeRecorded s t slot) := by
  unfold State.nodeRecorded
  repeat' first
    | with_reducible assumption | with_reducible refine State.modNode_keeps ?_ | simp only [Keeps.update]
    | with_reducible refine KeepsU.all ?_ | split | dsimp only

theorem State.noteLoose_keeps {s : State} {c : Cmd} (hk : Keeps pend tmin s) :
    Keeps pend tmin (State.noteLoose s c) := by
  unfold State.noteLoose
  repeat' first
    | with_reducible assumption | with_reducible refine Keeps.ite ?_ ?_ | with_reducible refine State.setQueue_keeps ?_
    | simp only [Keeps.update] | with_reducible refine KeepsU.all ?_ | split | dsimp only

theorem State.writeRecord_keeps {s : State} {c : Cmd} (hk : Keeps pend tmin s) :
    Keeps pend tmin (State.writeRecord s c) := by
  unfold State.writeRecord
  repeat' first
    | with_reducible assumption | with_reducible refine Keeps.ite ?_ ?_ | with_reducible refine Keeps.ite_snd ?_ ?_
    | with_reducible refine State.trace_keeps ?_ | with_reducible refine State.record_keeps ?_
    | with_reducible refine State.noteLoose_keeps ?_ | with_reducible refine State.nodeRecorded_keeps ?_
    | simp only [Keeps.update] | with_reducible refine KeepsU.all ?_
    | (with_reducible refine Keeps.of_snd (by with_reducible assumption) ?_) | split | dsimp only

theorem State.flush_keeps {s : State} {t : Nat} {q : Nat} (hk : Keeps pend tmin s) :
    Keeps pend tmin (State.flush s t q) := by
  unfold State.flush
  repeat' first
    | with_reducible assumption | with_reducible refine Keeps.ite ?_ ?_ | with_reducible refine Keeps.ite_snd ?_ ?_
    | with_reducible refine State.setQueue_keeps ?_ | with_reducible refine State.writeRecord_keeps ?_
    | with_reducible refine Keeps.foldl ?_ (fun _ _ _ => ?_) | with_reducible refine Keeps.foldl_snd ?_ (fun _ _ _ => ?_)
    | simp only [Keeps.update] | with_reducible refine KeepsU.all ?_
    | (with_reducible refine Keeps.of_snd (by with_reducible assumption) ?_) | split | dsimp only

theorem State.nodeFlags_keeps {s : State} {t : Nat} {slot : Nat} {st : Nat} (hk : Keeps pend tmin s) :
    Keeps pend tmin (State.nodeFlags s t slot st) := by
  unfold State.nodeFlags
  repeat' first
    | with_reducible assumption | with_reducible refine Keeps.ite ?_ ?_ | with_reducible refine Keeps.ite_snd ?_ ?_
    | with_reducible refine State.flagUpdate_keeps ?_
    | (with_reducible refine Keeps.of_snd (by with_reducible assumption) ?_) | split | dsimp only

theorem State.endNode_keeps {s : State} {c : Cmd} {slot : Nat} (hk : Keeps pend tmin s) :
    Keeps pend tmin (State.endNode s c slot) := by
  unfold State.endNode
  repeat' first
    | with_reducible assumption | with_reducible refine Keeps.ite ?_ ?_ | with_reducible refine State.setCmd_keeps ?_
    | with_reducible refine State.nodeFlags_keeps ?_ | with_reducible refine State.writeRecord_keeps ?_
    | simp only [Keeps.update] | with_reducible refine KeepsU.all ?_ | split | dsimp only

theorem State.seqUnopened_keeps {s : State} {c : Cmd} (hk : Keeps pend tmin s) :
    Keeps pend tmin (State.seqUnopened s c) := by
  unfold State.seqUnopened
  repeat' first
    | with_reducible assumption | with_reducible refine Keeps.ite ?_ ?_ | with_reducible refine State.setQueue_keeps ?_
    | simp only [Keeps.update] | with_reducible refine KeepsU.all ?_ | split | dsimp only

theorem State.finish_keeps {s : State} {id : Nat} {st : Nat} {result : Nat} (hk : Keeps pend tmin s) :
    Keeps pend tmin (State.finish s id st result) := by
  unfold State.finish
  repeat' first
    | with_reducible assumption | with_reducible refine Keeps.ite ?_ ?_ | with_reducible refine Keeps.ite_snd ?_ ?_
    | with_reducible refine State.traceDecode_keeps ?_ | with_reducible refine State.sendSummary_keeps ?_
    | with_reducible refine State.stickIrq_keeps ?_ | with_reducible refine State.seqUnopened_keeps ?_
    | with_reducible refine State.endNode_keeps ?_ | with_reducible refine State.setCmd_keeps ?_
    | with_reducible refine State.flush_keeps ?_ | simp only [Keeps.update] | with_reducible refine KeepsU.all ?_
    | (with_reducible refine Keeps.of_snd (by with_reducible assumption) ?_) | split | dsimp only

theorem State.rejFormat_keeps {s : State} {id : Nat} {i : Nat} (hk : Keeps pend tmin s) :
    Keeps pend tmin (State.rejFormat s id i) := by
  unfold State.rejFormat
  repeat' first
    | with_reducible assumption | with_reducible refine State.finish_keeps ?_ | split | dsimp only

theorem State.fail_keeps {s : State} {id : Nat} {st : Nat} (hk : Keeps pend tmin s) :
    Keeps pend tmin (State.fail s id st) := by
  unfold State.fail
  repeat' first
    | with_reducible assumption | with_reducible refine State.finish_keeps ?_ | split | dsimp only

theorem State.internalFail_keeps {s : State} {id : Nat} (hk : Keeps pend tmin s) :
    Keeps pend tmin (State.internalFail s id) := by
  unfold State.internalFail
  repeat' first
    | with_reducible assumption | with_reducible refine State.fault_keeps ?_ | with_reducible refine State.fail_keeps ?_
    | (with_reducible refine Keeps.of_snd (by with_reducible assumption) ?_) | split | dsimp only

theorem State.powerTrace_keeps {s : State} {k : Nat} {n : Nat} (hk : Keeps pend tmin s) :
    Keeps pend tmin (State.powerTrace s k n) := by
  unfold State.powerTrace
  repeat' first
    | with_reducible assumption | with_reducible refine State.trace_keeps ?_ | split | dsimp only

theorem State.abandon_keeps {s : State} {n : Nat} {id : Option Nat} (hk : Keeps pend tmin s) :
    Keeps pend tmin (State.abandon s n id) := by
  unfold State.abandon
  repeat' first
    | with_reducible assumption | with_reducible refine State.finish_keeps ?_
    | with_reducible refine State.powerTrace_keeps ?_ | with_reducible refine State.stick_keeps ?_
    | simp only [Keeps.update] | with_reducible refine KeepsU.all ?_
    | (with_reducible refine Keeps.of_snd (by with_reducible assumption) ?_) | split | dsimp only

theorem State.wake_keeps {s : State} {code : Nat} (hk : Keeps pend tmin s) :
    Keeps pend tmin (State.wake s code) := by
  unfold State.wake
  repeat' first
    | with_reducible assumption | with_reducible refine Keeps.ite ?_ ?_ | with_reducible refine Keeps.ite_snd ?_ ?_
    | with_reducible refine State.abandon_keeps ?_ | with_reducible refine State.set_keeps ?_ | simp only [Keeps.update]
    | with_reducible refine KeepsU.all ?_ | (with_reducible refine Keeps.of_snd (by with_reducible assumption) ?_) | split
    | dsimp only

theorem State.irqTimer_keeps {s : State} {t : Nat} (hk : Keeps pend tmin s) :
    Keeps pend tmin (State.irqTimer s t) := by
  unfold State.irqTimer
  repeat' first
    | with_reducible assumption | with_reducible refine Keeps.ite ?_ ?_ | with_reducible refine State.advance_keeps ?_
    | with_reducible refine State.setTenant_keeps ?_ | with_reducible refine State.msix_keeps ?_ | simp only [Keeps.update]
    | with_reducible refine KeepsU.all ?_ | split | dsimp only

theorem execIrqModerationTimer_keeps {t : Tenant} {s : State} (hk : Keeps pend tmin s) :
    KeepsR pend tmin (execIrqModerationTimer t s) := by
  unfold execIrqModerationTimer
  repeat' first
    | with_reducible assumption | with_reducible refine KeepsR.next ?_ | with_reducible refine State.irqTimer_keeps ?_
    | split | dsimp only

end Sys2Proof.Machine
end

