-- ==== Sys2Proof/Laws/Keeps/Prism.lean ====
section
/-! SUPPORT. The operations of Machine/Prism.lean keep the queue, rack time and the canonical forms (see Laws/Keeps). -/
namespace Sys2Proof.Machine
variable {pend : List Instr} {tmin : Nat}

theorem State.planPlace_keeps {s : State} {t : Nat} (hk : Keeps pend tmin s) :
    KeepsOP pend tmin (State.planPlace s t) := by
  unfold State.planPlace
  repeat' first
    | with_reducible assumption | with_reducible refine Keeps.ite ?_ ?_ | with_reducible refine Keeps.ite_snd ?_ ?_
    | simp only [Keeps.update] | with_reducible refine KeepsU.all ?_
    | (with_reducible refine Keeps.of_snd (by with_reducible assumption) ?_)
    | (with_reducible refine Keeps.of_some_snd (by with_reducible assumption) ?_) | with_reducible exact KeepsOP.none
    | with_reducible refine KeepsOP.some ?_ | with_reducible refine KeepsOP.ite ?_ ?_ | split | dsimp only

theorem State.planPut_keeps {s : State} {t : Nat} {sig : List Nat} {pins : List Nat} {ready : Bool} (hk : Keeps pend tmin s) :
    KeepsO pend tmin (State.planPut s t sig pins ready) := by
  unfold State.planPut
  split
  · exact KeepsO.none
  · next e =>
    refine KeepsO.some (Keeps.update.mpr (KeepsU.mem (Keeps.of_some_snd e (State.planPlace_keeps hk)) ?_))
    cases ready
    · exact fun w => w
    · exact Mem.wf_putPlan _ _ _

theorem State.planTouch_keeps {s : State} {i : Nat} (hk : Keeps pend tmin s) :
    Keeps pend tmin (State.planTouch s i) := by
  unfold State.planTouch
  repeat' first
    | with_reducible assumption | with_reducible refine Keeps.ite ?_ ?_ | simp only [Keeps.update]
    | with_reducible refine KeepsU.all ?_ | split | dsimp only

theorem State.planPinHeld_keeps {s : State} {t : Nat} {tick : Nat} {gs : List (List Nat)} (hk : Keeps pend tmin s) :
    Keeps pend tmin (State.planPinHeld s t tick gs) := by
  unfold State.planPinHeld
  repeat' first
    | with_reducible assumption | with_reducible refine Keeps.ite ?_ ?_ | simp only [Keeps.update]
    | with_reducible refine KeepsU.all ?_ | split | dsimp only

theorem State.planPinNew_keeps {s : State} {t tick : Nat} {l : List (List Nat)} (h : Keeps pend tmin s) :
    KeepsO pend tmin (State.planPinNew s t tick l) := by
  induction l generalizing s with
  | nil => exact KeepsO.some h
  | cons g r ih =>
    unfold State.planPinNew
    repeat' first
      | with_reducible assumption | with_reducible refine KeepsO.ite ?_ ?_ | with_reducible refine State.planPut_keeps ?_
      | with_reducible refine ih ?_ | with_reducible exact KeepsO.none
      | (with_reducible refine Keeps.of_some (by with_reducible assumption) ?_) | split | dsimp only

theorem State.planPin_keeps {s : State} {t : Nat} {tick : Nat} {gs : List (List Nat)} (hk : Keeps pend tmin s) :
    KeepsO pend tmin (State.planPin s t tick gs) := by
  unfold State.planPin
  repeat' first
    | with_reducible assumption | with_reducible refine State.planPinHeld_keeps ?_
    | with_reducible refine State.planPinNew_keeps ?_
    | (with_reducible refine Keeps.of_some (by with_reducible assumption) ?_) | with_reducible exact KeepsO.none
    | with_reducible refine KeepsO.some ?_ | with_reducible refine KeepsO.ite ?_ ?_ | split | dsimp only

theorem State.planMiss_keeps {s : State} {c : Cmd} {sig : List Nat} (hk : Keeps pend tmin s) :
    Keeps pend tmin (State.planMiss s c sig) := by
  unfold State.planMiss
  repeat' first
    | with_reducible assumption | with_reducible refine Keeps.ite ?_ ?_ | with_reducible refine State.bump_keeps ?_
    | simp only [Keeps.update] | with_reducible refine KeepsU.all ?_ | split | dsimp only

theorem State.planLookup_keeps {s : State} {c : Cmd} {sig : List Nat} (hk : Keeps pend tmin s) :
    Keeps pend tmin (State.planLookup s c sig).2 := by
  unfold State.planLookup
  repeat' first
    | with_reducible assumption | with_reducible refine Keeps.ite ?_ ?_ | with_reducible refine Keeps.ite_snd ?_ ?_
    | with_reducible refine State.planMiss_keeps ?_ | with_reducible refine State.stick_keeps ?_
    | with_reducible refine State.logUE_keeps ?_ | with_reducible refine State.readWords_keeps ?_
    | with_reducible refine State.planTouch_keeps ?_ | with_reducible refine State.bump_keeps ?_ | simp only [Keeps.update]
    | with_reducible refine KeepsU.all ?_ | (with_reducible refine Keeps.of_snd (by with_reducible assumption) ?_) | split
    | dsimp only

theorem State.plansFor_keeps {s : State} {id : Nat} (hk : Keeps pend tmin s) :
    Keeps pend tmin (State.plansFor s id) := by
  unfold State.plansFor
  repeat' first
    | with_reducible assumption | with_reducible refine Keeps.ite ?_ ?_ | with_reducible refine Keeps.ite_snd ?_ ?_
    | with_reducible refine State.planLookup_keeps ?_ | with_reducible refine State.modCmd_keeps ?_
    | with_reducible refine Keeps.foldl ?_ (fun _ _ _ => ?_) | with_reducible refine Keeps.foldl_snd ?_ (fun _ _ _ => ?_)
    | simp only [Keeps.update] | with_reducible refine KeepsU.all ?_
    | (with_reducible refine Keeps.of_snd (by with_reducible assumption) ?_) | split | dsimp only

theorem State.planDone_keeps {s : State} {j : PlanJob} (hk : Keeps pend tmin s) :
    Keeps pend tmin (State.planDone s j) := by
  unfold State.planDone
  repeat' first
    | with_reducible assumption | with_reducible refine Keeps.ite ?_ ?_ | with_reducible refine Keeps.ite_snd ?_ ?_
    | with_reducible refine State.planPut_keeps ?_ | with_reducible refine State.modCmd_keeps ?_
    | with_reducible refine Keeps.foldl ?_ (fun _ _ _ => ?_) | with_reducible refine Keeps.foldl_snd ?_ (fun _ _ _ => ?_)
    | simp only [Keeps.update] | with_reducible refine KeepsU.all ?_ | with_reducible refine KeepsU.mem ?_ ?_
    | exact Mem.wf_putPlan _ _ _ | exact fun w => w | (with_reducible refine Keeps.of_snd (by with_reducible assumption) ?_)
    | (with_reducible refine Keeps.of_some (by with_reducible assumption) ?_) | with_reducible exact KeepsO.none
    | with_reducible refine KeepsO.some ?_ | with_reducible refine KeepsO.ite ?_ ?_ | split | dsimp only

theorem State.latchUse_keeps {s : State} {e : Nat} {sig : List Nat} (hk : Keeps pend tmin s) :
    Keeps pend tmin (State.latchUse s e sig) := by
  unfold State.latchUse
  repeat' first
    | with_reducible assumption | with_reducible refine Keeps.ite ?_ ?_ | with_reducible refine Keeps.ite_snd ?_ ?_
    | simp only [Keeps.update] | with_reducible refine KeepsU.all ?_
    | (with_reducible refine Keeps.of_snd (by with_reducible assumption) ?_) | split | dsimp only

theorem State.planComplete_keeps {s : State} (hk : Keeps pend tmin s) :
    Keeps pend tmin (State.planComplete s) := by
  unfold State.planComplete
  repeat' first
    | with_reducible assumption | with_reducible refine State.planDone_keeps ?_
    | (with_reducible refine Keeps.of_snd (by with_reducible assumption) ?_) | split | dsimp only

theorem execPlanComputeComplete_keeps {s : State} (hk : Keeps pend tmin s) :
    KeepsR pend tmin (execPlanComputeComplete s) := by
  unfold execPlanComputeComplete
  repeat' first
    | with_reducible assumption | with_reducible refine KeepsR.next ?_ | with_reducible refine State.planComplete_keeps ?_
    | split | dsimp only

theorem State.planDrop_keeps {s : State} {t : Nat} {keepPinned : Bool} (hk : Keeps pend tmin s) :
    Keeps pend tmin (State.planDrop s t keepPinned) := by
  unfold State.planDrop
  repeat' first
    | with_reducible assumption | with_reducible refine Keeps.ite ?_ ?_ | simp only [Keeps.update]
    | with_reducible refine KeepsU.all ?_ | split | dsimp only

theorem State.planRenumber_keeps {s : State} {t : Nat} (hk : Keeps pend tmin s) :
    Keeps pend tmin (State.planRenumber s t) := by
  unfold State.planRenumber
  repeat' first
    | with_reducible assumption | simp only [Keeps.update] | with_reducible refine KeepsU.all ?_
    | with_reducible refine KeepsU.mem ?_ ?_ | exact Mem.wf_putPlans _ _ | exact Mem.wf_putPlan _ _ _ | exact fun w => w
    | split | dsimp only

theorem State.priPartWrite_keeps {s : State} {t : Nat} {base : Nat} {count : Nat} (hk : Keeps pend tmin s) :
    Keeps pend tmin (State.priPartWrite s t base count) := by
  unfold State.priPartWrite
  repeat' first
    | with_reducible assumption | with_reducible refine Keeps.ite ?_ ?_ | with_reducible refine State.stick_keeps ?_
    | with_reducible refine State.set_keeps ?_ | with_reducible refine State.planDrop_keeps ?_
    | with_reducible refine State.planRenumber_keeps ?_ | split | dsimp only

theorem execPriPartWrite_keeps {t : Tenant} {w : Word} {s : State} (hk : Keeps pend tmin s) :
    KeepsR pend tmin (execPriPartWrite t w s) := by
  unfold execPriPartWrite
  repeat' first
    | with_reducible assumption | with_reducible refine KeepsR.next ?_ | with_reducible refine Keeps.ite ?_ ?_
    | with_reducible refine KeepsR.ite ?_ ?_ | with_reducible refine State.priPartWrite_keeps ?_ | split | dsimp only

theorem State.priInval_keeps {s : State} {w : Nat} (hk : Keeps pend tmin s) :
    Keeps pend tmin (State.priInval s w) := by
  unfold State.priInval
  repeat' first
    | with_reducible assumption | with_reducible refine Keeps.ite ?_ ?_ | with_reducible refine State.planDrop_keeps ?_
    | with_reducible refine Keeps.foldl ?_ (fun _ _ _ => ?_) | with_reducible refine Keeps.foldl_snd ?_ (fun _ _ _ => ?_)
    | split | dsimp only

theorem execPriInval_keeps {w : Word} {s : State} (hk : Keeps pend tmin s) :
    KeepsR pend tmin (execPriInval w s) := by
  unfold execPriInval
  repeat' first
    | with_reducible assumption | with_reducible refine KeepsR.next ?_ | with_reducible refine Keeps.ite ?_ ?_
    | with_reducible refine KeepsR.ite ?_ ?_ | with_reducible refine State.priInval_keeps ?_ | split | dsimp only

end Sys2Proof.Machine
end

