-- ==== Sys2Proof/Laws/Keeps/Sync.lean ====
section
/-! SUPPORT. The operations of Machine/Sync.lean keep the queue, rack time and the canonical forms (see Laws/Keeps). -/
namespace Sys2Proof.Machine
variable {pend : List Instr} {tmin : Nat}

theorem State.consume_keeps {s : State} {t : Nat} {w : WaitCond} (hk : Keeps pend tmin s) :
    Keeps pend tmin (State.consume s t w) := by
  unfold State.consume
  repeat' first
    | with_reducible assumption | with_reducible refine Keeps.ite ?_ ?_ | with_reducible refine Keeps.ite_snd ?_ ?_
    | with_reducible refine State.cntSub_keeps ?_ | (with_reducible refine Keeps.of_snd (by with_reducible assumption) ?_)
    | split | dsimp only

theorem State.endWait_keeps {s : State} {c : Cmd} (hk : Keeps pend tmin s) :
    Keeps pend tmin (State.endWait s c) := by
  unfold State.endWait
  repeat' first
    | with_reducible assumption | with_reducible refine Keeps.ite ?_ ?_ | with_reducible refine Keeps.ite_snd ?_ ?_
    | with_reducible refine State.consume_keeps ?_ | with_reducible refine State.modCmd_keeps ?_
    | with_reducible refine State.fail_keeps ?_ | with_reducible refine Keeps.foldl ?_ (fun _ _ _ => ?_)
    | with_reducible refine Keeps.foldl_snd ?_ (fun _ _ _ => ?_) | simp only [Keeps.update]
    | with_reducible refine KeepsU.all ?_ | (with_reducible refine Keeps.of_snd (by with_reducible assumption) ?_) | split
    | dsimp only

theorem State.evalWaitsN_keeps {n : Nat} {s : State} {t : Nat} (h : Keeps pend tmin s) : Keeps pend tmin (State.evalWaitsN n s t) := by
  induction n generalizing s with
  | zero => exact h
  | succ n ih =>
    unfold State.evalWaitsN
    split
    · exact ih (State.endWait_keeps h)
    · exact h

theorem State.evalWaits_keeps {s : State} {t : Nat} (hk : Keeps pend tmin s) :
    Keeps pend tmin (State.evalWaits s t) := by
  unfold State.evalWaits
  repeat' first
    | with_reducible assumption | with_reducible refine State.evalWaitsN_keeps ?_ | split | dsimp only

theorem State.counterOp_keeps {s : State} {t : Nat} {op : Nat} {i : Nat} {v : Nat} (hk : Keeps pend tmin s) :
    Keeps pend tmin (State.counterOp s t op i v) := by
  unfold State.counterOp
  repeat' first
    | with_reducible assumption | with_reducible refine Keeps.ite ?_ ?_ | with_reducible refine Keeps.ite_snd ?_ ?_
    | with_reducible refine State.cntAdd_keeps ?_ | with_reducible refine State.cntSub_keeps ?_
    | with_reducible refine State.cntSet_keeps ?_ | with_reducible refine State.evalWaits_keeps ?_
    | (with_reducible refine Keeps.of_snd (by with_reducible assumption) ?_) | split | dsimp only

theorem State.counterWrite_keeps {s : State} {t : Nat} {op : Nat} {i : Nat} {v : Nat} (hk : Keeps pend tmin s) :
    Keeps pend tmin (State.counterWrite s t op i v) := by
  unfold State.counterWrite
  repeat' first
    | with_reducible assumption | with_reducible refine Keeps.ite ?_ ?_ | with_reducible refine State.counterOp_keeps ?_
    | with_reducible refine State.stick_keeps ?_ | split | dsimp only

theorem execCounterSet_keeps {t : Tenant} {i : Nat} {v : Word} {s : State} (hk : Keeps pend tmin s) :
    KeepsR pend tmin (execCounterSet t i v s) := by
  unfold execCounterSet
  repeat' first
    | with_reducible assumption | with_reducible refine KeepsR.next ?_ | with_reducible refine Keeps.ite ?_ ?_
    | with_reducible refine KeepsR.ite ?_ ?_ | with_reducible refine State.counterWrite_keeps ?_ | split | dsimp only

theorem execCounterAdd_keeps {t : Tenant} {i : Nat} {v : Word} {s : State} (hk : Keeps pend tmin s) :
    KeepsR pend tmin (execCounterAdd t i v s) := by
  unfold execCounterAdd
  repeat' first
    | with_reducible assumption | with_reducible refine KeepsR.next ?_ | with_reducible refine Keeps.ite ?_ ?_
    | with_reducible refine KeepsR.ite ?_ ?_ | with_reducible refine State.counterWrite_keeps ?_ | split | dsimp only

theorem execCounterSub_keeps {t : Tenant} {i : Nat} {v : Word} {s : State} (hk : Keeps pend tmin s) :
    KeepsR pend tmin (execCounterSub t i v s) := by
  unfold execCounterSub
  repeat' first
    | with_reducible assumption | with_reducible refine KeepsR.next ?_ | with_reducible refine Keeps.ite ?_ ?_
    | with_reducible refine KeepsR.ite ?_ ?_ | with_reducible refine State.counterWrite_keeps ?_ | split | dsimp only

theorem State.waitTimeout_keeps {s : State} {id : Nat} (hk : Keeps pend tmin s) :
    Keeps pend tmin (State.waitTimeout s id) := by
  unfold State.waitTimeout
  repeat' first
    | with_reducible assumption | with_reducible refine Keeps.ite ?_ ?_ | with_reducible refine Keeps.ite_snd ?_ ?_
    | with_reducible refine State.advance_keeps ?_ | with_reducible refine State.fail_keeps ?_
    | (with_reducible refine Keeps.of_snd (by with_reducible assumption) ?_) | split | dsimp only

theorem execWaitTimeout_keeps {id : Nat} {s : State} (hk : Keeps pend tmin s) :
    KeepsR pend tmin (execWaitTimeout id s) := by
  unfold execWaitTimeout
  repeat' first
    | with_reducible assumption | with_reducible refine KeepsR.next ?_ | with_reducible refine State.waitTimeout_keeps ?_
    | split | dsimp only

theorem State.modSeq_keeps {s : State} {id : Nat} {f : LockSeq → LockSeq} (hk : Keeps pend tmin s) :
    Keeps pend tmin (State.modSeq s id f) := by
  unfold State.modSeq
  repeat' first
    | with_reducible assumption | with_reducible refine Keeps.ite ?_ ?_ | simp only [Keeps.update]
    | with_reducible refine KeepsU.all ?_ | split | dsimp only

theorem State.sigLocal_keeps {s : State} {t : Nat} {g : Sig} (hk : Keeps pend tmin s) :
    Keeps pend tmin (State.sigLocal s t g) := by
  unfold State.sigLocal
  repeat' first
    | with_reducible assumption | with_reducible refine Keeps.ite ?_ ?_ | with_reducible refine State.counterOp_keeps ?_
    | with_reducible refine State.flagUpdate_keeps ?_ | with_reducible refine State.msix_keeps ?_ | split | dsimp only

theorem State.sigIssue_keeps {s : State} {c : Cmd} {g : Sig} {last : Bool} (hk : Keeps pend tmin s) :
    Keeps pend tmin (State.sigIssue s c g last) := by
  unfold State.sigIssue
  repeat' first
    | with_reducible assumption | with_reducible refine Keeps.ite ?_ ?_ | with_reducible refine State.sigLocal_keeps ?_
    | with_reducible refine State.vc1_keeps ?_ | split | dsimp only

theorem State.ridx_keeps {s : State} {i : Nat} {t : Nat} {src : Nat} (hk : Keeps pend tmin s) :
    Keeps pend tmin (State.ridx s i t src) := by
  unfold State.ridx
  repeat' first
    | with_reducible assumption | with_reducible refine State.stick_keeps ?_ | with_reducible refine State.set_keeps ?_
    | split | dsimp only

theorem State.sigRemote_keeps {s : State} {t : Nat} {src : Nat} {g : Sig} (hk : Keeps pend tmin s) :
    Keeps pend tmin (State.sigRemote s t src g) := by
  unfold State.sigRemote
  repeat' first
    | with_reducible assumption | with_reducible refine Keeps.ite ?_ ?_ | with_reducible refine State.ridx_keeps ?_
    | with_reducible refine State.sigLocal_keeps ?_ | split | dsimp only

theorem State.setBar_keeps {s : State} {n : Nat} {x : Bar} (hk : Keeps pend tmin s) :
    Keeps pend tmin (State.setBar s n x) := by
  unfold State.setBar
  repeat' first
    | with_reducible assumption | simp only [Keeps.update] | with_reducible refine KeepsU.all ?_
    | with_reducible refine KeepsU.sync ?_ ?_ | exact Sync.wf_cnt _ _ _ | exact Sync.wf_cst _ _ _ | exact Sync.wf_bars _ _ _
    | exact Sync.wf_locks _ _ _ | exact Sync.wf_flags _ _ _ | exact fun w => w | split | dsimp only

theorem State.releaseBar_keeps {s : State} {t : Nat} {b : Nat} {home : Nat} {z : Bool} {sat : Bool} (hk : Keeps pend tmin s) :
    Keeps pend tmin (State.releaseBar s t b home z sat) := by
  unfold State.releaseBar
  repeat' first
    | with_reducible assumption | with_reducible refine Keeps.ite ?_ ?_ | with_reducible refine State.modCmd_keeps ?_
    | with_reducible refine State.fail_keeps ?_ | with_reducible refine Keeps.foldl ?_ (fun _ _ _ => ?_)
    | with_reducible refine Keeps.foldl_snd ?_ (fun _ _ _ => ?_) | simp only [Keeps.update]
    | with_reducible refine KeepsU.all ?_ | split | dsimp only

theorem State.barComplete_keeps {s : State} {t : Nat} {b : Nat} {n : Nat} (hk : Keeps pend tmin s) :
    Keeps pend tmin (State.barComplete s t b n) := by
  unfold State.barComplete
  repeat' first
    | with_reducible assumption | with_reducible refine Keeps.ite ?_ ?_ | with_reducible refine Keeps.ite_snd ?_ ?_
    | with_reducible refine State.cntSub_keeps ?_ | with_reducible refine State.cntAdd_keeps ?_
    | with_reducible refine State.setBar_keeps ?_ | with_reducible refine State.releaseBar_keeps ?_
    | with_reducible refine State.ridx_keeps ?_ | with_reducible refine State.vc1_keeps ?_
    | with_reducible refine State.evalWaits_keeps ?_ | with_reducible refine Keeps.foldl ?_ (fun _ _ _ => ?_)
    | with_reducible refine Keeps.foldl_snd ?_ (fun _ _ _ => ?_) | simp only [Keeps.update]
    | with_reducible refine KeepsU.all ?_ | (with_reducible refine Keeps.of_snd (by with_reducible assumption) ?_) | split
    | dsimp only

theorem State.barArrive_keeps {s : State} {t : Nat} {b : Nat} {remote : Option Nat} {wait : Bool} (hk : Keeps pend tmin s) :
    KeepsOP pend tmin (State.barArrive s t b remote wait) := by
  unfold State.barArrive
  repeat' first
    | with_reducible assumption | with_reducible refine Keeps.ite ?_ ?_ | with_reducible refine Keeps.ite_snd ?_ ?_
    | with_reducible refine State.cntAdd_keeps ?_ | with_reducible refine State.setBar_keeps ?_
    | with_reducible refine State.barComplete_keeps ?_ | with_reducible refine State.evalWaits_keeps ?_
    | simp only [Keeps.update] | with_reducible refine KeepsU.all ?_
    | (with_reducible refine Keeps.of_snd (by with_reducible assumption) ?_)
    | (with_reducible refine Keeps.of_some_snd (by with_reducible assumption) ?_) | with_reducible exact KeepsOP.none
    | with_reducible refine KeepsOP.some ?_ | with_reducible refine KeepsOP.ite ?_ ?_ | split | dsimp only

theorem State.startArrive_keeps {s : State} {c : Cmd} (hk : Keeps pend tmin s) :
    Keeps pend tmin (State.startArrive s c) := by
  unfold State.startArrive
  repeat' first
    | with_reducible assumption | with_reducible refine Keeps.ite ?_ ?_ | with_reducible refine Keeps.ite_snd ?_ ?_
    | with_reducible refine State.modCmd_keeps ?_ | with_reducible refine State.barArrive_keeps ?_
    | with_reducible refine State.fail_keeps ?_ | with_reducible refine State.vc1_keeps ?_ | simp only [Keeps.update]
    | with_reducible refine KeepsU.all ?_ | (with_reducible refine Keeps.of_snd (by with_reducible assumption) ?_)
    | (with_reducible refine Keeps.of_some_snd (by with_reducible assumption) ?_) | with_reducible exact KeepsOP.none
    | with_reducible refine KeepsOP.some ?_ | with_reducible refine KeepsOP.ite ?_ ?_ | split | dsimp only

theorem State.barTimeout_keeps {s : State} {id : Nat} (hk : Keeps pend tmin s) :
    Keeps pend tmin (State.barTimeout s id) := by
  unfold State.barTimeout
  repeat' first
    | with_reducible assumption | with_reducible refine Keeps.ite ?_ ?_ | with_reducible refine Keeps.ite_snd ?_ ?_
    | with_reducible refine State.advance_keeps ?_ | with_reducible refine State.fail_keeps ?_
    | (with_reducible refine Keeps.of_snd (by with_reducible assumption) ?_) | split | dsimp only

theorem execBarrierWaitTimeout_keeps {id : Nat} {s : State} (hk : Keeps pend tmin s) :
    KeepsR pend tmin (execBarrierWaitTimeout id s) := by
  unfold execBarrierWaitTimeout
  repeat' first
    | with_reducible assumption | with_reducible refine KeepsR.next ?_ | with_reducible refine State.barTimeout_keeps ?_
    | split | dsimp only

theorem State.barEnable_keeps {s : State} {t : Nat} {b : Nat} {a : Nat} (hk : Keeps pend tmin s) :
    Keeps pend tmin (State.barEnable s t b a) := by
  unfold State.barEnable
  repeat' first
    | with_reducible assumption | with_reducible refine Keeps.ite ?_ ?_ | with_reducible refine Keeps.ite_snd ?_ ?_
    | with_reducible refine State.stick_keeps ?_ | with_reducible refine State.setBar_keeps ?_ | simp only [Keeps.update]
    | with_reducible refine KeepsU.all ?_ | (with_reducible refine Keeps.of_snd (by with_reducible assumption) ?_) | split
    | dsimp only

theorem State.barDisable_keeps {s : State} {t : Nat} {b : Nat} {a : Nat} (hk : Keeps pend tmin s) :
    Keeps pend tmin (State.barDisable s t b a) := by
  unfold State.barDisable
  repeat' first
    | with_reducible assumption | with_reducible refine Keeps.ite ?_ ?_ | with_reducible refine Keeps.ite_snd ?_ ?_
    | with_reducible refine State.stick_keeps ?_ | with_reducible refine State.setBar_keeps ?_ | simp only [Keeps.update]
    | with_reducible refine KeepsU.all ?_ | (with_reducible refine Keeps.of_snd (by with_reducible assumption) ?_) | split
    | dsimp only

theorem execBarrierEnable_keeps {t : Tenant} {b : Nat} {a : Nat} {s : State} (hk : Keeps pend tmin s) :
    KeepsR pend tmin (execBarrierEnable t b a s) := by
  unfold execBarrierEnable
  repeat' first
    | with_reducible assumption | with_reducible refine KeepsR.next ?_ | with_reducible refine Keeps.ite ?_ ?_
    | with_reducible refine KeepsR.ite ?_ ?_ | with_reducible refine State.barEnable_keeps ?_ | split | dsimp only

theorem execBarrierDisable_keeps {t : Tenant} {b : Nat} {a : Nat} {s : State} (hk : Keeps pend tmin s) :
    KeepsR pend tmin (execBarrierDisable t b a s) := by
  unfold execBarrierDisable
  repeat' first
    | with_reducible assumption | with_reducible refine KeepsR.next ?_ | with_reducible refine Keeps.ite ?_ ?_
    | with_reducible refine KeepsR.ite ?_ ?_ | with_reducible refine State.barDisable_keeps ?_ | split | dsimp only

theorem State.barConfig_keeps {s : State} {t : Nat} {b : Nat} {j : Nat} {w : Nat} (hk : Keeps pend tmin s) :
    Keeps pend tmin (State.barConfig s t b j w) := by
  unfold State.barConfig
  repeat' first
    | with_reducible assumption | with_reducible refine Keeps.ite ?_ ?_ | with_reducible refine Keeps.ite_snd ?_ ?_
    | with_reducible refine State.stick_keeps ?_ | with_reducible refine State.setBar_keeps ?_ | simp only [Keeps.update]
    | with_reducible refine KeepsU.all ?_ | (with_reducible refine Keeps.of_snd (by with_reducible assumption) ?_) | split
    | dsimp only

theorem State.setLock_keeps {s : State} {n : Nat} {x : Lock} (hk : Keeps pend tmin s) :
    Keeps pend tmin (State.setLock s n x) := by
  unfold State.setLock
  repeat' first
    | with_reducible assumption | simp only [Keeps.update] | with_reducible refine KeepsU.all ?_
    | with_reducible refine KeepsU.sync ?_ ?_ | exact Sync.wf_cnt _ _ _ | exact Sync.wf_cst _ _ _ | exact Sync.wf_bars _ _ _
    | exact Sync.wf_locks _ _ _ | exact Sync.wf_flags _ _ _ | exact fun w => w | split | dsimp only

theorem State.openSeq_keeps {s : State} {id : Nat} {lock : Option (Nat × Nat)} (hk : Keeps pend tmin s) :
    Keeps pend tmin (State.openSeq s id lock) := by
  unfold State.openSeq
  repeat' first
    | with_reducible assumption | with_reducible refine State.modSeq_keeps ?_ | simp only [Keeps.update]
    | with_reducible refine KeepsU.all ?_ | split | dsimp only

theorem State.acquired_keeps {s : State} {c : Cmd} (hk : Keeps pend tmin s) :
    Keeps pend tmin (State.acquired s c) := by
  unfold State.acquired
  repeat' first
    | with_reducible assumption | with_reducible refine Keeps.ite ?_ ?_ | with_reducible refine State.openSeq_keeps ?_
    | with_reducible refine State.modCmd_keeps ?_ | with_reducible refine State.fail_keeps ?_ | simp only [Keeps.update]
    | with_reducible refine KeepsU.all ?_ | split | dsimp only

theorem State.takeLock_keeps {s : State} {n : Nat} {q : Nat} {chip : Nat} {tag : Nat} (hk : Keeps pend tmin s) :
    Keeps pend tmin (State.takeLock s n q chip tag).2 := by
  unfold State.takeLock
  repeat' first
    | with_reducible assumption | with_reducible refine State.setLock_keeps ?_ | simp only [Keeps.update]
    | with_reducible refine KeepsU.all ?_ | split | dsimp only

theorem State.localTaken_keeps {s : State} {c : Cmd} {n : Nat} (hk : Keeps pend tmin s) :
    Keeps pend tmin (State.localTaken s c n) := by
  unfold State.localTaken
  repeat' first
    | with_reducible assumption | with_reducible refine Keeps.ite ?_ ?_ | with_reducible refine Keeps.ite_snd ?_ ?_
    | with_reducible refine State.takeLock_keeps ?_ | with_reducible refine State.setCmd_keeps ?_
    | with_reducible refine State.acquired_keeps ?_ | with_reducible refine State.vc0_keeps ?_ | simp only [Keeps.update]
    | with_reducible refine KeepsU.all ?_ | (with_reducible refine Keeps.of_snd (by with_reducible assumption) ?_) | split
    | dsimp only

theorem State.grantRemote_keeps {s : State} {t : Nat} {n : Nat} {l : Nat} {w : LockWaiter} (hk : Keeps pend tmin s) :
    Keeps pend tmin (State.grantRemote s t n l w) := by
  unfold State.grantRemote
  repeat' first
    | with_reducible assumption | with_reducible refine State.takeLock_keeps ?_
    | with_reducible refine State.originate_keeps ?_ | simp only [Keeps.update] | with_reducible refine KeepsU.all ?_
    | (with_reducible refine Keeps.of_snd (by with_reducible assumption) ?_) | split | dsimp only

theorem State.lockFreed_keeps {s : State} {t : Nat} {l : Nat} {n : Nat} (hk : Keeps pend tmin s) :
    Keeps pend tmin (State.lockFreed s t l n) := by
  unfold State.lockFreed
  repeat' first
    | with_reducible assumption | with_reducible refine Keeps.ite ?_ ?_ | with_reducible refine Keeps.ite_snd ?_ ?_
    | with_reducible refine State.localTaken_keeps ?_ | with_reducible refine State.setLock_keeps ?_
    | with_reducible refine State.grantRemote_keeps ?_ | simp only [Keeps.update] | with_reducible refine KeepsU.all ?_
    | (with_reducible refine Keeps.of_snd (by with_reducible assumption) ?_) | split | dsimp only

theorem State.releaseLock_keeps {s : State} {t : Nat} {l : Nat} {broken : Bool} (hk : Keeps pend tmin s) :
    Keeps pend tmin (State.releaseLock s t l broken) := by
  unfold State.releaseLock
  repeat' first
    | with_reducible assumption | with_reducible refine State.setLock_keeps ?_
    | with_reducible refine State.lockFreed_keeps ?_ | simp only [Keeps.update] | with_reducible refine KeepsU.all ?_
    | (with_reducible refine Keeps.of_snd (by with_reducible assumption) ?_) | split | dsimp only

theorem State.releaseBoth_keeps {s : State} {t : Nat} {q : Nat} {l : Nat} {chip : Nat} {broken : Bool} (hk : Keeps pend tmin s) :
    Keeps pend tmin (State.releaseBoth s t q l chip broken) := by
  unfold State.releaseBoth
  repeat' first
    | with_reducible assumption | with_reducible refine Keeps.ite ?_ ?_ | with_reducible refine State.vc1_keeps ?_
    | with_reducible refine State.releaseLock_keeps ?_ | simp only [Keeps.update] | with_reducible refine KeepsU.all ?_
    | split | dsimp only

theorem State.tryAcquire_keeps {s : State} {c : Cmd} (hk : Keeps pend tmin s) :
    Keeps pend tmin (State.tryAcquire s c) := by
  unfold State.tryAcquire
  repeat' first
    | with_reducible assumption | with_reducible refine Keeps.ite ?_ ?_ | with_reducible refine Keeps.ite_snd ?_ ?_
    | with_reducible refine State.setCmd_keeps ?_ | with_reducible refine State.localTaken_keeps ?_
    | simp only [Keeps.update] | with_reducible refine KeepsU.all ?_
    | (with_reducible refine Keeps.of_snd (by with_reducible assumption) ?_) | split | dsimp only

theorem State.breakSeq_keeps {s : State} {id : Nat} {st : Nat} (hk : Keeps pend tmin s) :
    Keeps pend tmin (State.breakSeq s id st) := by
  unfold State.breakSeq
  repeat' first
    | with_reducible assumption | with_reducible refine State.modSeq_keeps ?_ | with_reducible refine State.fail_keeps ?_
    | with_reducible refine Keeps.foldl ?_ (fun _ _ _ => ?_) | with_reducible refine Keeps.foldl_snd ?_ (fun _ _ _ => ?_)
    | simp only [Keeps.update] | with_reducible refine KeepsU.all ?_ | split | dsimp only

theorem State.breakLock_keeps {s : State} {x : LockSeq} (hk : Keeps pend tmin s) :
    Keeps pend tmin (State.breakLock s x) := by
  unfold State.breakLock
  repeat' first
    | with_reducible assumption | with_reducible refine State.releaseBoth_keeps ?_
    | (with_reducible refine Keeps.of_snd (by with_reducible assumption) ?_) | split | dsimp only

theorem State.acquireTimeout_keeps {s : State} {id : Nat} (hk : Keeps pend tmin s) :
    Keeps pend tmin (State.acquireTimeout s id) := by
  unfold State.acquireTimeout
  repeat' first
    | with_reducible assumption | with_reducible refine Keeps.ite ?_ ?_ | with_reducible refine Keeps.ite_snd ?_ ?_
    | with_reducible refine State.advance_keeps ?_ | with_reducible refine State.releaseLock_keeps ?_
    | with_reducible refine State.breakSeq_keeps ?_ | simp only [Keeps.update] | with_reducible refine KeepsU.all ?_
    | (with_reducible refine Keeps.of_snd (by with_reducible assumption) ?_) | split | dsimp only

theorem execLockAcquireTimeout_keeps {id : Nat} {s : State} (hk : Keeps pend tmin s) :
    KeepsR pend tmin (execLockAcquireTimeout id s) := by
  unfold execLockAcquireTimeout
  repeat' first
    | with_reducible assumption | with_reducible refine KeepsR.next ?_ | with_reducible refine State.acquireTimeout_keeps ?_
    | split | dsimp only

theorem State.lockWaitExpiry_keeps {s : State} {t : Nat} {l : Nat} (hk : Keeps pend tmin s) :
    Keeps pend tmin (State.lockWaitExpiry s t l) := by
  unfold State.lockWaitExpiry
  repeat' first
    | with_reducible assumption | with_reducible refine State.advance_keeps ?_
    | with_reducible refine State.setLock_keeps ?_ | with_reducible refine State.originate_keeps ?_
    | simp only [Keeps.update] | with_reducible refine KeepsU.all ?_
    | (with_reducible refine Keeps.of_snd (by with_reducible assumption) ?_) | split | dsimp only

theorem execLockWaitExpiry_keeps {t : Tenant} {l : Nat} {s : State} (hk : Keeps pend tmin s) :
    KeepsR pend tmin (execLockWaitExpiry t l s) := by
  unfold execLockWaitExpiry
  repeat' first
    | with_reducible assumption | with_reducible refine KeepsR.next ?_ | with_reducible refine State.lockWaitExpiry_keeps ?_
    | split | dsimp only

theorem State.backoffExpiry_keeps {s : State} {id : Nat} (hk : Keeps pend tmin s) :
    Keeps pend tmin (State.backoffExpiry s id) := by
  unfold State.backoffExpiry
  repeat' first
    | with_reducible assumption | with_reducible refine State.advance_keeps ?_
    | with_reducible refine State.tryAcquire_keeps ?_
    | (with_reducible refine Keeps.of_snd (by with_reducible assumption) ?_) | split | dsimp only

theorem execLockBackoffExpiry_keeps {id : Nat} {s : State} (hk : Keeps pend tmin s) :
    KeepsR pend tmin (execLockBackoffExpiry id s) := by
  unfold execLockBackoffExpiry
  repeat' first
    | with_reducible assumption | with_reducible refine KeepsR.next ?_ | with_reducible refine State.backoffExpiry_keeps ?_
    | split | dsimp only

theorem State.lockReap_keeps {s : State} {t : Nat} {l : Nat} (hk : Keeps pend tmin s) :
    Keeps pend tmin (State.lockReap s t l) := by
  unfold State.lockReap
  repeat' first
    | with_reducible assumption | with_reducible refine Keeps.ite ?_ ?_ | with_reducible refine Keeps.ite_snd ?_ ?_
    | with_reducible refine State.advance_keeps ?_ | with_reducible refine State.setLock_keeps ?_
    | with_reducible refine State.stick_keeps ?_ | with_reducible refine State.lockFreed_keeps ?_ | simp only [Keeps.update]
    | with_reducible refine KeepsU.all ?_ | (with_reducible refine Keeps.of_snd (by with_reducible assumption) ?_) | split
    | dsimp only

theorem execLockReap_keeps {t : Tenant} {l : Nat} {s : State} (hk : Keeps pend tmin s) :
    KeepsR pend tmin (execLockReap t l s) := by
  unfold execLockReap
  repeat' first
    | with_reducible assumption | with_reducible refine KeepsR.next ?_ | with_reducible refine State.lockReap_keeps ?_
    | split | dsimp only

theorem State.partWrite_keeps {s : State} {k : Nat} {t : Nat} {base : Nat} {count : Nat} (hk : Keeps pend tmin s) :
    Keeps pend tmin (State.partWrite s k t base count) := by
  unfold State.partWrite
  repeat' first
    | with_reducible assumption | with_reducible refine Keeps.ite ?_ ?_ | with_reducible refine State.stick_keeps ?_
    | with_reducible refine State.set_keeps ?_ | simp only [Keeps.update] | with_reducible refine KeepsU.all ?_
    | with_reducible refine KeepsU.sync ?_ ?_
    | (intro w; rw [Sync.wf_iff] at w ⊢; exact ⟨by first | exact w.1 | exact spWf_filter _ _ _ w.1, by first | exact w.2.1 | exact spWf_filter _ _ _ w.2.1, by first | exact w.2.2.1 | exact spWf_filter _ _ _ w.2.2.1, by first | exact w.2.2.2.1 | exact spWf_filter _ _ _ w.2.2.2.1, by first | exact w.2.2.2.2 | exact spWf_filter _ _ _ w.2.2.2.2⟩)
    | exact Sync.wf_cnt _ _ _ | exact Sync.wf_cst _ _ _ | exact Sync.wf_bars _ _ _ | exact Sync.wf_locks _ _ _
    | exact Sync.wf_flags _ _ _ | exact fun w => w | (with_reducible refine Keeps.of_snd (by with_reducible assumption) ?_)
    | split | dsimp only

theorem execSynPartitionWrite_keeps {k : Fin 3} {t : Tenant} {w : Word} {s : State} (hk : Keeps pend tmin s) :
    KeepsR pend tmin (execSynPartitionWrite k t w s) := by
  unfold execSynPartitionWrite
  repeat' first
    | with_reducible assumption | with_reducible refine KeepsR.next ?_ | with_reducible refine Keeps.ite ?_ ?_
    | with_reducible refine KeepsR.ite ?_ ?_ | with_reducible refine State.partWrite_keeps ?_ | split | dsimp only

end Sys2Proof.Machine
end

