-- ==== Sys2Proof/Laws/Keeps/Commands.lean ====
section
/-! SUPPORT. The operations of Machine/Commands.lean keep the queue, rack time and the canonical forms (see Laws/Keeps). -/
namespace Sys2Proof.Machine
variable {pend : List Instr} {tmin : Nat}

theorem State.areaCheck_keeps {s : State} {t : Nat} {da : Nat} {win : Nat} {gen : Nat} {n : Nat} {wr : Bool} (hk : Keeps pend tmin s) :
    Keeps pend tmin (State.areaCheck s t da win gen n wr).2 := by
  unfold State.areaCheck
  repeat' first
    | with_reducible assumption | with_reducible refine Keeps.ite ?_ ?_ | with_reducible refine Keeps.ite_snd ?_ ?_
    | with_reducible refine State.wr_keeps ?_ | with_reducible refine State.bridleRange_keeps ?_
    | (with_reducible refine Keeps.of_snd (by with_reducible assumption) ?_) | split | dsimp only

theorem State.areaRead_keeps {s : State} {t : Nat} {seq : Nat} {da : Nat} {n : Nat} {fails : Bool} (hk : Keeps pend tmin s) :
    Keeps pend tmin (State.areaRead s t seq da n fails).2 := by
  unfold State.areaRead
  repeat' first
    | with_reducible assumption | with_reducible refine Keeps.ite ?_ ?_ | with_reducible refine Keeps.ite_snd ?_ ?_
    | with_reducible refine State.atsUse_keeps ?_ | with_reducible refine State.memRead_keeps ?_
    | (with_reducible refine Keeps.of_snd (by with_reducible assumption) ?_) | split | dsimp only

theorem State.reject_keeps {s : State} {id : Nat} {r : Nat × Nat} (hk : Keeps pend tmin s) :
    Keeps pend tmin (State.reject s id r) := by
  unfold State.reject
  repeat' first
    | with_reducible assumption | with_reducible refine Keeps.ite ?_ ?_ | with_reducible refine State.rejFormat_keeps ?_
    | with_reducible refine State.fail_keeps ?_ | (with_reducible refine Keeps.of_snd (by with_reducible assumption) ?_)
    | split | dsimp only

theorem State.flushed_keeps {s : State} {t : Nat} {q : Nat} (hk : Keeps pend tmin s) :
    Keeps pend tmin (State.flushed s t q) := by
  unfold State.flushed
  repeat' first
    | with_reducible assumption | with_reducible refine State.setQueue_keeps ?_ | simp only [Keeps.update]
    | with_reducible refine KeepsU.all ?_ | split | dsimp only

theorem State.seqJoin_keeps {s : State} {id : Nat} (hk : Keeps pend tmin s) :
    Keeps pend tmin (State.seqJoin s id) := by
  unfold State.seqJoin
  repeat' first
    | with_reducible assumption | with_reducible refine State.setQueue_keeps ?_
    | with_reducible refine State.openSeq_keeps ?_ | with_reducible refine State.modCmd_keeps ?_
    | with_reducible refine State.modSeq_keeps ?_ | simp only [Keeps.update] | with_reducible refine KeepsU.all ?_
    | (with_reducible refine Keeps.of_snd (by with_reducible assumption) ?_) | split | dsimp only

theorem State.seqTrim_keeps {s : State} {q : Option Nat} (hk : Keeps pend tmin s) :
    Keeps pend tmin (State.seqTrim s q) := by
  unfold State.seqTrim
  repeat' first
    | with_reducible assumption | simp only [Keeps.update] | with_reducible refine KeepsU.all ?_
    | (with_reducible refine Keeps.of_snd (by with_reducible assumption) ?_) | split | dsimp only

theorem State.seqClose_keeps {s : State} {q : Nat} (hk : Keeps pend tmin s) :
    Keeps pend tmin (State.seqClose s q) := by
  unfold State.seqClose
  repeat' first
    | with_reducible assumption | simp only [Keeps.update] | with_reducible refine KeepsU.all ?_ | split | dsimp only

end Sys2Proof.Machine
end

