-- ==== Sys2Proof/Laws/Keeps/Windows.lean ====
section
/-! SUPPORT. The operations of Machine/Windows.lean keep the queue, rack time and the canonical forms (see Laws/Keeps). -/
namespace Sys2Proof.Machine
variable {pend : List Instr} {tmin : Nat}

theorem State.setWin_keeps {s : State} {id : Nat} {x : WinSlot} (hk : Keeps pend tmin s) :
    Keeps pend tmin (State.setWin s id x) := by
  unfold State.setWin
  repeat' first
    | with_reducible assumption | simp only [Keeps.update] | with_reducible refine KeepsU.all ?_ | split | dsimp only

theorem State.winCreate_keeps {s : State} {id : Nat} (hk : Keeps pend tmin s) :
    Keeps pend tmin (State.winCreate s id) := by
  unfold State.winCreate
  repeat' first
    | with_reducible assumption | with_reducible refine State.reject_keeps ?_ | with_reducible refine State.setWin_keeps ?_
    | with_reducible refine State.finish_keeps ?_ | (with_reducible refine Keeps.of_snd (by with_reducible assumption) ?_)
    | split | dsimp only

theorem State.winRevoke_keeps {s : State} {id : Nat} {destroy : Bool} (hk : Keeps pend tmin s) :
    Keeps pend tmin (State.winRevoke s id destroy) := by
  unfold State.winRevoke
  repeat' first
    | with_reducible assumption | with_reducible refine Keeps.ite ?_ ?_ | with_reducible refine Keeps.ite_snd ?_ ?_
    | with_reducible refine State.fail_keeps ?_ | with_reducible refine State.setWin_keeps ?_
    | with_reducible refine State.setCmd_keeps ?_ | simp only [Keeps.update] | with_reducible refine KeepsU.all ?_
    | (with_reducible refine Keeps.of_snd (by with_reducible assumption) ?_) | split | dsimp only

theorem State.winDrained_keeps {s : State} {id : Nat} (hk : Keeps pend tmin s) :
    Keeps pend tmin (State.winDrained s id) := by
  unfold State.winDrained
  repeat' first
    | with_reducible assumption | with_reducible refine Keeps.ite ?_ ?_ | with_reducible refine Keeps.ite_snd ?_ ?_
    | with_reducible refine State.fail_keeps ?_ | (with_reducible refine Keeps.of_snd (by with_reducible assumption) ?_)
    | split | dsimp only

theorem execWindowDrainComplete_keeps {id : Nat} {s : State} (hk : Keeps pend tmin s) :
    KeepsR pend tmin (execWindowDrainComplete id s) := by
  unfold execWindowDrainComplete
  repeat' first
    | with_reducible assumption | with_reducible refine KeepsR.next ?_ | with_reducible refine State.winDrained_keeps ?_
    | split | dsimp only

theorem State.setDesc_keeps {s : State} {i : Nat} {x : DescSlot} (hk : Keeps pend tmin s) :
    Keeps pend tmin (State.setDesc s i x) := by
  unfold State.setDesc
  repeat' first
    | with_reducible assumption | simp only [Keeps.update] | with_reducible refine KeepsU.all ?_ | split | dsimp only

theorem State.descEnd_keeps {s : State} {c : Cmd} {st : Nat} (hk : Keeps pend tmin s) :
    Keeps pend tmin (State.descEnd s c st) := by
  unfold State.descEnd
  repeat' first
    | with_reducible assumption | with_reducible refine Keeps.ite ?_ ?_ | with_reducible refine State.finish_keeps ?_
    | split | dsimp only

theorem State.descStore_keeps {s : State} {c : Cmd} {raw : List (BitVec 8)} {d : Desc} (hk : Keeps pend tmin s) :
    Keeps pend tmin (State.descStore s c raw d).2 := by
  unfold State.descStore
  repeat' first
    | with_reducible assumption | with_reducible refine Keeps.ite ?_ ?_ | with_reducible refine Keeps.ite_snd ?_ ?_
    | with_reducible refine State.draw_keeps ?_ | with_reducible refine State.setDesc_keeps ?_
    | with_reducible refine State.setCmd_keeps ?_ | with_reducible refine State.areaWrite_keeps ?_
    | simp only [Keeps.update] | with_reducible refine KeepsU.all ?_
    | (with_reducible refine Keeps.of_snd (by with_reducible assumption) ?_)
    | (with_reducible refine Keeps.of_some (by with_reducible assumption) ?_) | with_reducible exact KeepsO.none
    | with_reducible refine KeepsO.some ?_ | with_reducible refine KeepsO.ite ?_ ?_ | split | dsimp only

theorem State.descEntry_keeps {s : State} {id : Nat} {fails : Bool} (hk : Keeps pend tmin s) :
    Keeps pend tmin (State.descEntry s id fails).2 := by
  unfold State.descEntry
  repeat' first
    | with_reducible assumption | with_reducible refine Keeps.ite ?_ ?_ | with_reducible refine Keeps.ite_snd ?_ ?_
    | with_reducible refine State.descEnd_keeps ?_ | with_reducible refine State.areaRead_keeps ?_
    | with_reducible refine State.setCmd_keeps ?_ | with_reducible refine State.vc0_keeps ?_
    | with_reducible refine State.descStore_keeps ?_ | simp only [Keeps.update] | with_reducible refine KeepsU.all ?_
    | (with_reducible refine Keeps.of_snd (by with_reducible assumption) ?_) | split | dsimp only

theorem State.descRun_keeps {s : State} {id : Nat} {fails : Bool} {k : Nat} (h : Keeps pend tmin s) :
    Keeps pend tmin (State.descRun s id fails k) := by
  induction k generalizing s with
  | zero => exact h
  | succ k ih =>
    unfold State.descRun
    repeat' first
      | with_reducible assumption | with_reducible refine State.descEntry_keeps ?_ | with_reducible refine ih ?_
      | with_reducible refine Keeps.ite ?_ ?_ | exact Nat.le_refl _ | exact fun w => w
      | (with_reducible refine Keeps.of_snd (by with_reducible assumption) ?_)
      | (with_reducible refine Keeps.of_some (by with_reducible assumption) ?_) | split | dsimp only

theorem State.descCreate_keeps {s : State} {id : Nat} {fails : Bool} (hk : Keeps pend tmin s) :
    Keeps pend tmin (State.descCreate s id fails) := by
  unfold State.descCreate
  repeat' first
    | with_reducible assumption | with_reducible refine Keeps.ite ?_ ?_ | with_reducible refine Keeps.ite_snd ?_ ?_
    | with_reducible refine State.areaCheck_keeps ?_ | with_reducible refine State.finish_keeps ?_
    | with_reducible refine State.setCmd_keeps ?_ | with_reducible refine State.descRun_keeps ?_ | simp only [Keeps.update]
    | with_reducible refine KeepsU.all ?_ | (with_reducible refine Keeps.of_snd (by with_reducible assumption) ?_) | split
    | dsimp only

theorem State.descAnswer_keeps {s : State} {id : Nat} {w : Option (Window × Nat)} (hk : Keeps pend tmin s) :
    Keeps pend tmin (State.descAnswer s id w) := by
  unfold State.descAnswer
  repeat' first
    | with_reducible assumption | with_reducible refine State.descEnd_keeps ?_
    | with_reducible refine State.descStore_keeps ?_ | with_reducible refine State.descRun_keeps ?_
    | (with_reducible refine Keeps.of_snd (by with_reducible assumption) ?_) | split | dsimp only

theorem State.winQueryTimeout_keeps {s : State} {id : Nat} (hk : Keeps pend tmin s) :
    Keeps pend tmin (State.winQueryTimeout s id) := by
  unfold State.winQueryTimeout
  repeat' first
    | with_reducible assumption | with_reducible refine State.advance_keeps ?_
    | with_reducible refine State.descEnd_keeps ?_ | simp only [Keeps.update] | with_reducible refine KeepsU.all ?_
    | (with_reducible refine Keeps.of_snd (by with_reducible assumption) ?_) | split | dsimp only

theorem execWinQueryTimeout_keeps {id : Nat} {s : State} (hk : Keeps pend tmin s) :
    KeepsR pend tmin (execWinQueryTimeout id s) := by
  unfold execWinQueryTimeout
  repeat' first
    | with_reducible assumption | with_reducible refine KeepsR.next ?_
    | with_reducible refine State.winQueryTimeout_keeps ?_ | split | dsimp only

theorem State.descDestroy_keeps {s : State} {id : Nat} (hk : Keeps pend tmin s) :
    Keeps pend tmin (State.descDestroy s id) := by
  unfold State.descDestroy
  repeat' first
    | with_reducible assumption | with_reducible refine Keeps.ite ?_ ?_ | with_reducible refine Keeps.ite_snd ?_ ?_
    | with_reducible refine State.fail_keeps ?_ | with_reducible refine State.setDesc_keeps ?_
    | with_reducible refine Keeps.foldl ?_ (fun _ _ _ => ?_) | with_reducible refine Keeps.foldl_snd ?_ (fun _ _ _ => ?_)
    | (with_reducible refine Keeps.of_snd (by with_reducible assumption) ?_) | split | dsimp only

end Sys2Proof.Machine
end

