-- ==== Sys2Proof/Laws/Keeps/Moves.lean ====
section
/-! SUPPORT. The operations of Machine/Moves.lean keep the queue, rack time and the canonical forms (see Laws/Keeps). -/
namespace Sys2Proof.Machine
variable {pend : List Instr} {tmin : Nat}

theorem State.sidePerm_keeps {s : State} {t : Nat} {d : Desc} {right : Bool} {wr : Bool} (hk : Keeps pend tmin s) :
    Keeps pend tmin (State.sidePerm s t d right wr).2 := by
  unfold State.sidePerm
  repeat' first
    | with_reducible assumption | with_reducible refine Keeps.ite ?_ ?_ | with_reducible refine Keeps.ite_snd ?_ ?_
    | with_reducible refine State.wr_keeps ?_ | with_reducible refine State.bridleRange_keeps ?_
    | with_reducible refine Keeps.foldl ?_ (fun _ _ _ => ?_) | with_reducible refine Keeps.foldl_snd ?_ (fun _ _ _ => ?_)
    | (with_reducible refine Keeps.of_snd (by with_reducible assumption) ?_) | split | dsimp only

theorem State.setEngine_keeps {s : State} {e : Nat} {x : EngineSt} (hk : Keeps pend tmin s) :
    Keeps pend tmin (State.setEngine s e x) := by
  unfold State.setEngine
  repeat' first
    | with_reducible assumption | simp only [Keeps.update] | with_reducible refine KeepsU.all ?_ | split | dsimp only

theorem State.launchLate_keeps {s : State} {id : Nat} (hk : Keeps pend tmin s) :
    Keeps pend tmin (State.launchLate s id) := by
  unfold State.launchLate
  repeat' first
    | with_reducible assumption | with_reducible refine Keeps.ite ?_ ?_ | with_reducible refine Keeps.ite_snd ?_ ?_
    | with_reducible refine State.modCmd_keeps ?_ | with_reducible refine State.stick_keeps ?_ | simp only [Keeps.update]
    | with_reducible refine KeepsU.all ?_ | (with_reducible refine Keeps.of_snd (by with_reducible assumption) ?_) | split
    | dsimp only

theorem State.place_keeps {s : State} {id : Nat} {e : Nat} (hk : Keeps pend tmin s) :
    Keeps pend tmin (State.place s id e) := by
  unfold State.place
  repeat' first
    | with_reducible assumption | with_reducible refine Keeps.ite ?_ ?_ | with_reducible refine Keeps.ite_snd ?_ ?_
    | with_reducible refine State.setCmd_keeps ?_ | with_reducible refine State.modNode_keeps ?_
    | with_reducible refine State.setQueue_keeps ?_ | with_reducible refine State.launchLate_keeps ?_
    | simp only [Keeps.update] | with_reducible refine KeepsU.all ?_
    | (with_reducible refine Keeps.of_snd (by with_reducible assumption) ?_) | split | dsimp only

theorem State.dispatch_keeps {s : State} {id : Nat} (hk : Keeps pend tmin s) :
    Keeps pend tmin (State.dispatch s id) := by
  unfold State.dispatch
  repeat' first
    | with_reducible assumption | with_reducible refine State.plansFor_keeps ?_ | with_reducible refine State.place_keeps ?_
    | with_reducible refine State.modCmd_keeps ?_ | simp only [Keeps.update] | with_reducible refine KeepsU.all ?_
    | (with_reducible refine Keeps.of_snd (by with_reducible assumption) ?_) | split | dsimp only

theorem State.joinRun_keeps {s : State} {id : Nat} (hk : Keeps pend tmin s) :
    Keeps pend tmin (State.joinRun s id) := by
  unfold State.joinRun
  repeat' first
    | with_reducible assumption | with_reducible refine Keeps.ite ?_ ?_ | with_reducible refine Keeps.ite_snd ?_ ?_
    | with_reducible refine State.setCmd_keeps ?_ | simp only [Keeps.update] | with_reducible refine KeepsU.all ?_
    | (with_reducible refine Keeps.of_snd (by with_reducible assumption) ?_) | split | dsimp only

theorem State.deferredMove_keeps {s : State} {id : Nat} (hk : Keeps pend tmin s) :
    Keeps pend tmin (State.deferredMove s id) := by
  unfold State.deferredMove
  repeat' first
    | with_reducible assumption | with_reducible refine Keeps.ite ?_ ?_ | with_reducible refine Keeps.ite_snd ?_ ?_
    | with_reducible refine State.joinRun_keeps ?_ | with_reducible refine State.place_keeps ?_
    | (with_reducible refine Keeps.of_snd (by with_reducible assumption) ?_) | split | dsimp only

theorem State.moveCheck_keeps {s : State} {t : Nat} {m : Move} {fits : Bool} (hk : Keeps pend tmin s) :
    Keeps pend tmin (State.moveCheck s t m fits).2 := by
  unfold State.moveCheck
  repeat' first
    | with_reducible assumption | with_reducible refine Keeps.ite ?_ ?_ | with_reducible refine Keeps.ite_snd ?_ ?_
    | with_reducible refine State.sidePerm_keeps ?_ | (with_reducible refine Keeps.of_snd (by with_reducible assumption) ?_)
    | split | dsimp only

theorem State.movesCheck_keeps {s : State} {c : Cmd} {l : List Move} (h : Keeps pend tmin s) :
    Keeps pend tmin (State.movesCheck s c l).2 := by
  induction l generalizing s with
  | nil => exact h
  | cons m r ih =>
    unfold State.movesCheck
    repeat' first
      | with_reducible assumption | with_reducible refine State.moveCheck_keeps ?_ | with_reducible refine ih ?_
      | (with_reducible refine Keeps.of_snd (by with_reducible assumption) ?_) | split | dsimp only

theorem State.admitMoves_keeps {s : State} {c : Cmd} {ms : List Move} (hk : Keeps pend tmin s) :
    KeepsOP pend tmin (State.admitMoves s c ms) := by
  unfold State.admitMoves
  repeat' first
    | with_reducible assumption | with_reducible refine Keeps.ite ?_ ?_ | with_reducible refine Keeps.ite_snd ?_ ?_
    | with_reducible refine State.admitCmd_keeps ?_ | with_reducible refine State.planPin_keeps ?_
    | (with_reducible refine Keeps.of_snd (by with_reducible assumption) ?_)
    | (with_reducible refine Keeps.of_some (by with_reducible assumption) ?_)
    | (with_reducible refine Keeps.of_some_snd (by with_reducible assumption) ?_) | with_reducible exact KeepsO.none
    | with_reducible refine KeepsO.some ?_ | with_reducible refine KeepsO.ite ?_ ?_ | with_reducible exact KeepsOP.none
    | with_reducible refine KeepsOP.some ?_ | with_reducible refine KeepsOP.ite ?_ ?_ | split | dsimp only

theorem State.fitRefused_keeps {s : State} {c : Cmd} {ms : List Move} (hk : Keeps pend tmin s) :
    Keeps pend tmin (State.fitRefused s c ms) := by
  unfold State.fitRefused
  repeat' first
    | with_reducible assumption | with_reducible refine Keeps.ite ?_ ?_ | with_reducible refine Keeps.ite_snd ?_ ?_
    | with_reducible refine State.admitCmd_keeps ?_ | with_reducible refine State.stick_keeps ?_
    | with_reducible refine State.fail_keeps ?_ | (with_reducible refine Keeps.of_snd (by with_reducible assumption) ?_)
    | (with_reducible refine Keeps.of_some_snd (by with_reducible assumption) ?_) | with_reducible exact KeepsOP.none
    | with_reducible refine KeepsOP.some ?_ | with_reducible refine KeepsOP.ite ?_ ?_ | split | dsimp only

theorem State.moveReady_keeps {s : State} {id : Nat} (hk : Keeps pend tmin s) :
    Keeps pend tmin (State.moveReady s id) := by
  unfold State.moveReady
  repeat' first
    | with_reducible assumption | with_reducible refine Keeps.ite ?_ ?_ | with_reducible refine Keeps.ite_snd ?_ ?_
    | with_reducible refine State.movesCheck_keeps ?_ | with_reducible refine State.fail_keeps ?_
    | with_reducible refine State.setCmd_keeps ?_ | with_reducible refine State.admitMoves_keeps ?_
    | with_reducible refine State.admitted_keeps ?_ | with_reducible refine State.dispatch_keeps ?_
    | with_reducible refine State.fitRefused_keeps ?_ | simp only [Keeps.update] | with_reducible refine KeepsU.all ?_
    | (with_reducible refine Keeps.of_snd (by with_reducible assumption) ?_)
    | (with_reducible refine Keeps.of_some_snd (by with_reducible assumption) ?_) | with_reducible exact KeepsOP.none
    | with_reducible refine KeepsOP.some ?_ | with_reducible refine KeepsOP.ite ?_ ?_ | split | dsimp only

theorem State.decodeMove_keeps {s : State} {id : Nat} (hk : Keeps pend tmin s) :
    Keeps pend tmin (State.decodeMove s id) := by
  unfold State.decodeMove
  repeat' first
    | with_reducible assumption | with_reducible refine Keeps.ite ?_ ?_ | with_reducible refine Keeps.ite_snd ?_ ?_
    | with_reducible refine State.reject_keeps ?_ | with_reducible refine State.fail_keeps ?_
    | with_reducible refine State.rejFormat_keeps ?_ | with_reducible refine State.setCmd_keeps ?_
    | with_reducible refine State.moveReady_keeps ?_ | with_reducible refine State.areaCheck_keeps ?_
    | with_reducible refine State.modCmd_keeps ?_ | simp only [Keeps.update] | with_reducible refine KeepsU.all ?_
    | (with_reducible refine Keeps.of_snd (by with_reducible assumption) ?_) | split | dsimp only

theorem State.decodeChain_keeps {s : State} {id : Nat} (hk : Keeps pend tmin s) :
    Keeps pend tmin (State.decodeChain s id) := by
  unfold State.decodeChain
  repeat' first
    | with_reducible assumption | with_reducible refine State.reject_keeps ?_
    | with_reducible refine State.areaCheck_keeps ?_ | with_reducible refine State.fail_keeps ?_
    | with_reducible refine State.modCmd_keeps ?_ | simp only [Keeps.update] | with_reducible refine KeepsU.all ?_
    | (with_reducible refine Keeps.of_snd (by with_reducible assumption) ?_) | split | dsimp only

theorem State.readList_keeps {s : State} {t : Nat} {p : Packet} {fails : Bool} (hk : Keeps pend tmin s) :
    Keeps pend tmin (State.readList s t p fails).2 := by
  unfold State.readList
  repeat' first
    | with_reducible assumption | with_reducible refine State.areaRead_keeps ?_
    | (with_reducible refine Keeps.of_snd (by with_reducible assumption) ?_) | split | dsimp only

theorem State.stages_keeps {s : State} {t : Nat} {recs : List Packet} {fails fits : Bool} {i : Nat} {prev : Option Desc}
    {acc : List Move} (h : Keeps pend tmin s) : Keeps pend tmin (State.stages s t recs fails fits i prev acc).2 := by
  induction recs generalizing s fits i prev acc with
  | nil => exact h
  | cons r rest ih =>
    unfold State.stages
    dsimp only
    repeat' first
      | with_reducible assumption | with_reducible refine State.areaCheck_keeps ?_
      | with_reducible refine State.readList_keeps ?_ | with_reducible refine State.moveCheck_keeps ?_
      | with_reducible refine ih ?_ | with_reducible refine Keeps.ite ?_ ?_ | with_reducible refine Keeps.ite_snd ?_ ?_
      | (with_reducible refine Keeps.of_snd (by with_reducible assumption) ?_) | split | dsimp only

theorem State.metadataDone_keeps {s : State} {id : Nat} {fails : Bool} (hk : Keeps pend tmin s) :
    Keeps pend tmin (State.metadataDone s id fails) := by
  unfold State.metadataDone
  repeat' first
    | with_reducible assumption | with_reducible refine Keeps.ite ?_ ?_ | with_reducible refine Keeps.ite_snd ?_ ?_
    | with_reducible refine State.modCmd_keeps ?_ | with_reducible refine State.areaRead_keeps ?_
    | with_reducible refine State.fail_keeps ?_ | with_reducible refine State.finish_keeps ?_
    | with_reducible refine State.stages_keeps ?_ | with_reducible refine State.moveReady_keeps ?_
    | with_reducible refine State.readList_keeps ?_ | simp only [Keeps.update] | with_reducible refine KeepsU.all ?_
    | (with_reducible refine Keeps.of_snd (by with_reducible assumption) ?_) | split | dsimp only

end Sys2Proof.Machine
end

