-- ==== Sys2Proof/Laws/Keeps/Engines.lean ====
section
/-! SUPPORT. The operations of Machine/Engines.lean keep the queue, rack time and the canonical forms (see Laws/Keeps). -/
namespace Sys2Proof.Machine
variable {pend : List Instr} {tmin : Nat}

theorem State.markStarted_keeps {s : State} {c : Cmd} (hk : Keeps pend tmin s) :
    Keeps pend tmin (State.markStarted s c) := by
  unfold State.markStarted
  repeat' first
    | with_reducible assumption | with_reducible refine Keeps.ite ?_ ?_ | with_reducible refine State.setCmd_keeps ?_
    | with_reducible refine State.openSeq_keeps ?_ | with_reducible refine State.trace_keeps ?_ | simp only [Keeps.update]
    | with_reducible refine KeepsU.all ?_ | split | dsimp only

theorem State.enter_keeps {s : State} {id : Nat} (hk : Keeps pend tmin s) :
    Keeps pend tmin (State.enter s id) := by
  unfold State.enter
  repeat' first
    | with_reducible assumption | with_reducible refine State.setCmd_keeps ?_ | simp only [Keeps.update]
    | with_reducible refine KeepsU.all ?_ | (with_reducible refine Keeps.of_snd (by with_reducible assumption) ?_) | split
    | dsimp only

theorem State.activate_keeps {s : State} {id : Nat} (hk : Keeps pend tmin s) :
    Keeps pend tmin (State.activate s id) := by
  unfold State.activate
  repeat' first
    | with_reducible assumption | with_reducible refine Keeps.ite ?_ ?_ | with_reducible refine Keeps.ite_snd ?_ ?_
    | with_reducible refine State.enter_keeps ?_ | (with_reducible refine Keeps.of_snd (by with_reducible assumption) ?_)
    | split | dsimp only

theorem execCommandActivate_keeps {id : Nat} {s : State} (hk : Keeps pend tmin s) :
    KeepsR pend tmin (execCommandActivate id s) := by
  unfold execCommandActivate
  repeat' first
    | with_reducible assumption | with_reducible refine KeepsR.next ?_ | with_reducible refine State.activate_keeps ?_
    | split | dsimp only

theorem State.takeEngine_keeps {s : State} {c : Cmd} (hk : Keeps pend tmin s) :
    Keeps pend tmin (State.takeEngine s c) := by
  unfold State.takeEngine
  repeat' first
    | with_reducible assumption | with_reducible refine Keeps.ite ?_ ?_ | with_reducible refine Keeps.ite_snd ?_ ?_
    | with_reducible refine State.modCmd_keeps ?_ | with_reducible refine State.enter_keeps ?_
    | with_reducible refine State.launchLate_keeps ?_ | simp only [Keeps.update] | with_reducible refine KeepsU.all ?_
    | (with_reducible refine Keeps.of_snd (by with_reducible assumption) ?_) | split | dsimp only

theorem State.launchCmd_keeps {s : State} {id : Nat} (hk : Keeps pend tmin s) :
    Keeps pend tmin (State.launchCmd s id) := by
  unfold State.launchCmd
  repeat' first
    | with_reducible assumption | with_reducible refine Keeps.ite ?_ ?_ | with_reducible refine Keeps.ite_snd ?_ ?_
    | with_reducible refine State.advance_keeps ?_ | with_reducible refine State.launchLate_keeps ?_
    | with_reducible refine State.joinRun_keeps ?_ | with_reducible refine State.markStarted_keeps ?_
    | with_reducible refine State.takeEngine_keeps ?_
    | (with_reducible refine Keeps.of_snd (by with_reducible assumption) ?_) | split | dsimp only

theorem State.setStream_keeps {s : State} {n : Nat} {x : StreamSt} (hk : Keeps pend tmin s) :
    Keeps pend tmin (State.setStream s n x) := by
  unfold State.setStream
  repeat' first
    | with_reducible assumption | simp only [Keeps.update] | with_reducible refine KeepsU.all ?_ | split | dsimp only

theorem State.streamReady_keeps {s : State} {n : Nat} (hk : Keeps pend tmin s) :
    Keeps pend tmin (State.streamReady s n) := by
  unfold State.streamReady
  repeat' first
    | with_reducible assumption | with_reducible refine Keeps.ite ?_ ?_ | with_reducible refine State.setStream_keeps ?_
    | split | dsimp only

theorem State.streamsReady_keeps {s : State} {now : List Nat} (hk : Keeps pend tmin s) :
    Keeps pend tmin (State.streamsReady s now) := by
  unfold State.streamsReady
  repeat' first
    | with_reducible assumption | with_reducible refine State.streamReady_keeps ?_
    | with_reducible refine Keeps.foldl ?_ (fun _ _ _ => ?_) | with_reducible refine Keeps.foldl_snd ?_ (fun _ _ _ => ?_)
    | simp only [Keeps.update] | with_reducible refine KeepsU.all ?_
    | (with_reducible refine Keeps.of_snd (by with_reducible assumption) ?_) | split | dsimp only

theorem State.dlMiss_keeps {s : State} {n : Nat} (hk : Keeps pend tmin s) :
    Keeps pend tmin (State.dlMiss s n) := by
  unfold State.dlMiss
  repeat' first
    | with_reducible assumption | with_reducible refine Keeps.ite ?_ ?_ | with_reducible refine State.stick_keeps ?_ | split
    | dsimp only

theorem State.served_keeps {s : State} {e : Nat} {c : Cmd} {b : Nat} (hk : Keeps pend tmin s) :
    Keeps pend tmin (State.served s e c b) := by
  unfold State.served
  repeat' first
    | with_reducible assumption | with_reducible refine Keeps.ite ?_ ?_ | with_reducible refine State.setEngine_keeps ?_
    | with_reducible refine State.setStream_keeps ?_ | simp only [Keeps.update] | with_reducible refine KeepsU.all ?_
    | split | dsimp only

theorem State.starve_keeps {s : State} {id : Nat} (hk : Keeps pend tmin s) :
    Keeps pend tmin (State.starve s id) := by
  unfold State.starve
  repeat' first
    | with_reducible assumption | with_reducible refine Keeps.ite ?_ ?_ | with_reducible refine Keeps.ite_snd ?_ ?_
    | with_reducible refine State.advance_keeps ?_ | with_reducible refine State.modCmd_keeps ?_
    | with_reducible refine State.stick_keeps ?_ | simp only [Keeps.update] | with_reducible refine KeepsU.all ?_
    | (with_reducible refine Keeps.of_snd (by with_reducible assumption) ?_) | split | dsimp only

theorem execStarveTimeout_keeps {id : Nat} {s : State} (hk : Keeps pend tmin s) :
    KeepsR pend tmin (execStarveTimeout id s) := by
  unfold execStarveTimeout
  repeat' first
    | with_reducible assumption | with_reducible refine KeepsR.next ?_ | with_reducible refine State.starve_keeps ?_ | split
    | dsimp only

theorem State.dropReads_keeps {s : State} {id : Nat} (hk : Keeps pend tmin s) :
    Keeps pend tmin (State.dropReads s id) := by
  unfold State.dropReads
  repeat' first
    | with_reducible assumption | simp only [Keeps.update] | with_reducible refine KeepsU.all ?_ | split | dsimp only

theorem State.dropWaiting_keeps {s : State} {id : Nat} (hk : Keeps pend tmin s) :
    Keeps pend tmin (State.dropWaiting s id) := by
  unfold State.dropWaiting
  repeat' first
    | with_reducible assumption | simp only [Keeps.update] | with_reducible refine KeepsU.all ?_
    | (with_reducible refine Keeps.of_snd (by with_reducible assumption) ?_) | split | dsimp only

theorem State.breakSeqOf_keeps {s : State} {c : Cmd} {st : Nat} (hk : Keeps pend tmin s) :
    Keeps pend tmin (State.breakSeqOf s c st) := by
  unfold State.breakSeqOf
  repeat' first
    | with_reducible assumption | with_reducible refine Keeps.ite ?_ ?_ | with_reducible refine Keeps.ite_snd ?_ ?_
    | with_reducible refine State.breakLock_keeps ?_ | with_reducible refine State.breakSeq_keeps ?_
    | with_reducible refine State.stick_keeps ?_ | (with_reducible refine Keeps.of_snd (by with_reducible assumption) ?_)
    | split | dsimp only

theorem State.engineReset_keeps {s : State} {e : Nat} (hk : Keeps pend tmin s) :
    Keeps pend tmin (State.engineReset s e) := by
  unfold State.engineReset
  repeat' first
    | with_reducible assumption | with_reducible refine Keeps.ite ?_ ?_ | with_reducible refine State.closeSession_keeps ?_
    | with_reducible refine State.trace_keeps ?_ | with_reducible refine State.set_keeps ?_
    | with_reducible refine State.setEngine_keeps ?_ | with_reducible refine State.dropGrants_keeps ?_
    | with_reducible refine State.dropWaiting_keeps ?_ | with_reducible refine State.breakSeqOf_keeps ?_
    | with_reducible refine State.fail_keeps ?_ | with_reducible refine Keeps.foldl ?_ (fun _ _ _ => ?_)
    | with_reducible refine Keeps.foldl_snd ?_ (fun _ _ _ => ?_) | simp only [Keeps.update]
    | with_reducible refine KeepsU.all ?_ | split | dsimp only

theorem execEngineReset_keeps {e : Engine} {s : State} (hk : Keeps pend tmin s) :
    KeepsR pend tmin (execEngineReset e s) := by
  unfold execEngineReset
  repeat' first
    | with_reducible assumption | with_reducible refine KeepsR.next ?_ | with_reducible refine Keeps.ite ?_ ?_
    | with_reducible refine KeepsR.ite ?_ ?_ | with_reducible refine State.engineReset_keeps ?_ | split | dsimp only

theorem State.engineResetEnd_keeps {s : State} {e : Nat} (hk : Keeps pend tmin s) :
    Keeps pend tmin (State.engineResetEnd s e) := by
  unfold State.engineResetEnd
  repeat' first
    | with_reducible assumption | with_reducible refine Keeps.ite ?_ ?_ | with_reducible refine State.setEngine_keeps ?_
    | with_reducible refine State.set_keeps ?_ | simp only [Keeps.update] | with_reducible refine KeepsU.all ?_ | split
    | dsimp only

theorem execEngineResetComplete_keeps {e : Engine} {same : Bool} {s : State} (hk : Keeps pend tmin s) :
    KeepsR pend tmin (execEngineResetComplete e same s) := by
  unfold execEngineResetComplete
  repeat' first
    | with_reducible assumption | with_reducible refine KeepsR.next ?_ | with_reducible refine Keeps.ite ?_ ?_
    | with_reducible refine KeepsR.ite ?_ ?_ | with_reducible refine State.engineResetEnd_keeps ?_
    | with_reducible refine State.engineReset_keeps ?_ | split | dsimp only

theorem State.engineOffline_keeps {s : State} {e : Nat} {v : Bool} (hk : Keeps pend tmin s) :
    Keeps pend tmin (State.engineOffline s e v) := by
  unfold State.engineOffline
  repeat' first
    | with_reducible assumption | with_reducible refine State.set_keeps ?_ | split | dsimp only

theorem execEngineOffline_keeps {e : Engine} {v : Bool} {s : State} (hk : Keeps pend tmin s) :
    KeepsR pend tmin (execEngineOffline e v s) := by
  unfold execEngineOffline
  repeat' first
    | with_reducible assumption | with_reducible refine KeepsR.next ?_ | with_reducible refine Keeps.ite ?_ ?_
    | with_reducible refine KeepsR.ite ?_ ?_ | with_reducible refine State.engineOffline_keeps ?_ | split | dsimp only

theorem State.spartWrite_keeps {s : State} {t : Nat} {base : Nat} {count : Nat} (hk : Keeps pend tmin s) :
    Keeps pend tmin (State.spartWrite s t base count) := by
  unfold State.spartWrite
  repeat' first
    | with_reducible assumption | with_reducible refine Keeps.ite ?_ ?_ | with_reducible refine State.stick_keeps ?_
    | with_reducible refine State.set_keeps ?_ | simp only [Keeps.update] | with_reducible refine KeepsU.all ?_ | split
    | dsimp only

theorem execEngSpartWrite_keeps {t : Tenant} {w : Word} {s : State} (hk : Keeps pend tmin s) :
    KeepsR pend tmin (execEngSpartWrite t w s) := by
  unfold execEngSpartWrite
  repeat' first
    | with_reducible assumption | with_reducible refine KeepsR.next ?_ | with_reducible refine Keeps.ite ?_ ?_
    | with_reducible refine KeepsR.ite ?_ ?_ | with_reducible refine State.spartWrite_keeps ?_ | split | dsimp only

end Sys2Proof.Machine
end

