-- ==== Sys2Proof/Laws/Keeps/Registers.lean ====
section
/-! SUPPORT. The operations of Machine/Registers.lean keep the queue, rack time and the canonical forms (see Laws/Keeps). -/
namespace Sys2Proof.Machine
variable {pend : List Instr} {tmin : Nat}

theorem State.readClear_keeps {s : State} {a : Nat} (hk : Keeps pend tmin s) :
    Keeps pend tmin (State.readClear s a) := by
  unfold State.readClear
  repeat' first
    | with_reducible assumption | with_reducible refine Keeps.ite ?_ ?_ | with_reducible refine State.set_keeps ?_
    | with_reducible refine State.wr_keeps ?_ | split | dsimp only

theorem State.leRead_keeps {s : State} {sp : Nat} {a : Nat} {n : Nat} {iid : Nat} (hk : Keeps pend tmin s) :
    Keeps pend tmin (State.leRead s sp a n iid).2 := by
  unfold State.leRead
  repeat' first
    | with_reducible assumption | with_reducible refine State.memReadFree_keeps ?_
    | (with_reducible refine Keeps.of_snd (by with_reducible assumption) ?_) | split | dsimp only

theorem State.windowRead_keeps {s : State} {a : Nat} (hk : Keeps pend tmin s) :
    Keeps pend tmin (State.windowRead s a).2 := by
  unfold State.windowRead
  repeat' first
    | with_reducible assumption | with_reducible refine State.leRead_keeps ?_ | split | dsimp only

theorem State.csrRead_keeps {s : State} {fn : Nat} {a : Nat} (hk : Keeps pend tmin s) :
    Keeps pend tmin (State.csrRead s fn a).2 := by
  unfold State.csrRead
  cases s.word a with
  | none => exact State.stick_keeps hk
  | some v =>
    refine Keeps.ite_snd (Keeps.update.mpr (KeepsU.time hk)) (Keeps.ite_snd (State.timeHi_keeps hk) ?_)
    exact Keeps.ite_snd (State.windowRead_keeps hk) (Keeps.ite (State.readClear_keeps hk) hk)

theorem State.csrWrite_keeps {s : State} {_fn : Nat} {a : Nat} {v : Nat} (hk : Keeps pend tmin s) :
    Keeps pend tmin (State.csrWrite s _fn a v) := by
  unfold State.csrWrite
  repeat' first
    | with_reducible assumption | simp only [Keeps.update] | with_reducible refine KeepsU.all ?_ | split | dsimp only

end Sys2Proof.Machine
end

