-- ==== Sys2Proof/Laws/Keeps/Serve.lean ====
section
/-! SUPPORT. The operations of Machine/Serve.lean keep the queue, rack time and the canonical forms (see Laws/Keeps). -/
namespace Sys2Proof.Machine
variable {pend : List Instr} {tmin : Nat}

theorem State.askRange_keeps {s : State} {id : Nat} {m : Move} {r : Nat × Nat} {last : Bool} (hk : Keeps pend tmin s) :
    Keeps pend tmin (State.askRange s id m r last) := by
  unfold State.askRange
  repeat' first
    | with_reducible assumption | with_reducible refine Keeps.ite ?_ ?_ | with_reducible refine Keeps.ite_snd ?_ ?_
    | with_reducible refine State.setCmd_keeps ?_ | with_reducible refine State.vc0_keeps ?_ | simp only [Keeps.update]
    | with_reducible refine KeepsU.all ?_ | (with_reducible refine Keeps.of_snd (by with_reducible assumption) ?_) | split
    | dsimp only

theorem State.lookSector_keeps {s : State} {id : Nat} {b : Nat} (hk : Keeps pend tmin s) :
    Keeps pend tmin (State.lookSector s id b) := by
  unfold State.lookSector
  repeat' first
    | with_reducible assumption | with_reducible refine Keeps.ite ?_ ?_ | with_reducible refine Keeps.ite_snd ?_ ?_
    | with_reducible refine State.wcRead_keeps ?_ | with_reducible refine State.modCmd_keeps ?_ | simp only [Keeps.update]
    | with_reducible refine KeepsU.all ?_ | (with_reducible refine Keeps.of_snd (by with_reducible assumption) ?_) | split
    | dsimp only

theorem State.takeBlock_keeps {s : State} {id : Nat} {cached : Bool} {b : Nat} (hk : Keeps pend tmin s) :
    Keeps pend tmin (State.takeBlock s id cached b) := by
  unfold State.takeBlock
  repeat' first
    | with_reducible assumption | with_reducible refine Keeps.ite ?_ ?_ | with_reducible refine Keeps.ite_snd ?_ ?_
    | with_reducible refine State.lookSector_keeps ?_ | with_reducible refine State.setCmd_keeps ?_
    | simp only [Keeps.update] | with_reducible refine KeepsU.all ?_
    | (with_reducible refine Keeps.of_snd (by with_reducible assumption) ?_) | split | dsimp only

theorem State.issueReads_keeps {s : State} {id : Nat} (hk : Keeps pend tmin s) :
    Keeps pend tmin (State.issueReads s id) := by
  unfold State.issueReads
  repeat' first
    | with_reducible assumption | with_reducible refine Keeps.ite ?_ ?_ | with_reducible refine Keeps.ite_snd ?_ ?_
    | with_reducible refine State.askRange_keeps ?_ | with_reducible refine State.takeBlock_keeps ?_
    | with_reducible refine Keeps.foldl ?_ (fun _ _ _ => ?_) | with_reducible refine Keeps.foldl_snd ?_ (fun _ _ _ => ?_)
    | (with_reducible refine Keeps.of_snd (by with_reducible assumption) ?_) | split | dsimp only

theorem State.gatherSrc_keeps {s : State} {c : Cmd} {m : Move} {all : List Nat} {fails : Bool} (hk : Keeps pend tmin s) :
    Keeps pend tmin (State.gatherSrc s c m all fails).2 := by
  unfold State.gatherSrc
  repeat' first
    | with_reducible assumption | with_reducible refine Keeps.ite ?_ ?_ | with_reducible refine Keeps.ite_snd ?_ ?_
    | with_reducible refine State.atsUse_keeps ?_ | with_reducible refine State.csrRead_keeps ?_
    | with_reducible refine State.readWords_keeps ?_ | with_reducible refine Keeps.foldl ?_ (fun _ _ _ => ?_)
    | with_reducible refine Keeps.foldl_snd ?_ (fun _ _ _ => ?_)
    | (with_reducible refine Keeps.of_snd (by with_reducible assumption) ?_) | split | dsimp only

theorem State.dirtied_keeps {s : State} {t : Nat} {q : Nat} {out : Nat} (hk : Keeps pend tmin s) :
    Keeps pend tmin (State.dirtied s t q out) := by
  unfold State.dirtied
  repeat' first
    | with_reducible assumption | with_reducible refine Keeps.ite ?_ ?_ | with_reducible refine State.out_keeps ?_
    | with_reducible refine State.setQueue_keeps ?_ | simp only [Keeps.update] | with_reducible refine KeepsU.all ?_ | split
    | dsimp only

theorem State.committed_keeps {s : State} {c : Cmd} {d : Desc} {n : Nat} (hk : Keeps pend tmin s) :
    Keeps pend tmin (State.committed s c d n) := by
  unfold State.committed
  repeat' first
    | with_reducible assumption | with_reducible refine Keeps.ite ?_ ?_ | with_reducible refine State.modCmd_keeps ?_
    | simp only [Keeps.update] | with_reducible refine KeepsU.all ?_ | split | dsimp only

theorem State.commitCells_keeps {s : State} {c : Cmd} {d : Desc} {cells : List Host.Cell} {last : Bool} (hk : Keeps pend tmin s) :
    KeepsO pend tmin (State.commitCells s c d cells last) := by
  unfold State.commitCells
  repeat' first
    | with_reducible assumption | with_reducible refine Keeps.ite ?_ ?_ | with_reducible refine Keeps.ite_snd ?_ ?_
    | with_reducible refine State.vc1_keeps ?_ | with_reducible refine State.committed_keeps ?_
    | with_reducible refine State.extWrite_keeps ?_ | with_reducible refine State.dirtied_keeps ?_
    | with_reducible refine State.atsUse_keeps ?_ | with_reducible refine State.csrWrite_keeps ?_
    | with_reducible refine State.memWrite_keeps ?_ | with_reducible refine Keeps.foldl ?_ (fun _ _ _ => ?_)
    | with_reducible refine Keeps.foldl_snd ?_ (fun _ _ _ => ?_) | simp only [Keeps.update]
    | with_reducible refine KeepsU.all ?_ | (with_reducible refine Keeps.of_snd (by with_reducible assumption) ?_)
    | (with_reducible refine Keeps.of_some (by with_reducible assumption) ?_) | with_reducible exact KeepsO.none
    | with_reducible refine KeepsO.some ?_ | with_reducible refine KeepsO.ite ?_ ?_ | split | dsimp only

theorem State.settle_keeps {s : State} {id : Nat} (hk : Keeps pend tmin s) :
    Keeps pend tmin (State.settle s id) := by
  unfold State.settle
  repeat' first
    | with_reducible assumption | with_reducible refine Keeps.ite ?_ ?_ | with_reducible refine Keeps.ite_snd ?_ ?_
    | with_reducible refine State.setCmd_keeps ?_ | with_reducible refine State.sendSummary_keeps ?_
    | with_reducible refine State.modCmd_keeps ?_ | with_reducible refine State.verdict_keeps ?_ | simp only [Keeps.update]
    | with_reducible refine KeepsU.all ?_ | (with_reducible refine Keeps.of_snd (by with_reducible assumption) ?_) | split
    | dsimp only

theorem State.dataSent_keeps {s : State} {id : Nat} {m : Move} (hk : Keeps pend tmin s) :
    Keeps pend tmin (State.dataSent s id m) := by
  unfold State.dataSent
  repeat' first
    | with_reducible assumption | with_reducible refine Keeps.ite ?_ ?_ | with_reducible refine Keeps.ite_snd ?_ ?_
    | with_reducible refine State.modCmd_keeps ?_ | with_reducible refine State.sigIssue_keeps ?_
    | with_reducible refine State.settle_keeps ?_ | simp only [Keeps.update] | with_reducible refine KeepsU.all ?_
    | (with_reducible refine Keeps.of_snd (by with_reducible assumption) ?_) | split | dsimp only

theorem State.stageEnd_keeps {s : State} {id : Nat} {m : Move} (hk : Keeps pend tmin s) :
    Keeps pend tmin (State.stageEnd s id m) := by
  unfold State.stageEnd
  repeat' first
    | with_reducible assumption | with_reducible refine State.setCmd_keeps ?_ | with_reducible refine State.joinRun_keeps ?_
    | with_reducible refine State.dataSent_keeps ?_ | simp only [Keeps.update] | with_reducible refine KeepsU.all ?_
    | (with_reducible refine Keeps.of_snd (by with_reducible assumption) ?_) | split | dsimp only

theorem State.placeChunk_keeps {s : State} {c : Cmd} {m : Move} {src : List Host.Cell} {n : Nat} (hk : Keeps pend tmin s) :
    Keeps pend tmin (State.placeChunk s c m src n) := by
  unfold State.placeChunk
  repeat' first
    | with_reducible assumption | with_reducible refine Keeps.ite ?_ ?_ | with_reducible refine Keeps.ite_snd ?_ ?_
    | with_reducible refine State.draw_keeps ?_ | with_reducible refine State.out_keeps ?_
    | with_reducible refine State.setCmd_keeps ?_ | with_reducible refine State.commitCells_keeps ?_
    | with_reducible refine State.fail_keeps ?_ | with_reducible refine State.stageEnd_keeps ?_ | simp only [Keeps.update]
    | with_reducible refine KeepsU.all ?_ | (with_reducible refine Keeps.of_snd (by with_reducible assumption) ?_)
    | (with_reducible refine Keeps.of_some (by with_reducible assumption) ?_) | with_reducible exact KeepsO.none
    | with_reducible refine KeepsO.some ?_ | with_reducible refine KeepsO.ite ?_ ?_ | split | dsimp only

theorem State.stopAtWord_keeps {s : State} {c : Cmd} {m : Move} (hk : Keeps pend tmin s) :
    Keeps pend tmin (State.stopAtWord s c m) := by
  unfold State.stopAtWord
  repeat' first
    | with_reducible assumption | with_reducible refine Keeps.ite ?_ ?_ | with_reducible refine Keeps.ite_snd ?_ ?_
    | with_reducible refine State.gatherSrc_keeps ?_ | with_reducible refine State.placeChunk_keeps ?_
    | with_reducible refine State.fail_keeps ?_ | (with_reducible refine Keeps.of_snd (by with_reducible assumption) ?_)
    | split | dsimp only

theorem State.serveChunk_keeps {s : State} {c : Cmd} {fails : Bool} {cut : Nat} (hk : Keeps pend tmin s) :
    Keeps pend tmin (State.serveChunk s c fails cut) := by
  unfold State.serveChunk
  repeat' first
    | with_reducible assumption | with_reducible refine Keeps.ite ?_ ?_ | with_reducible refine Keeps.ite_snd ?_ ?_
    | with_reducible refine State.served_keeps ?_ | with_reducible refine State.latchUse_keeps ?_
    | with_reducible refine State.gatherSrc_keeps ?_ | with_reducible refine State.stopAtWord_keeps ?_
    | with_reducible refine State.fail_keeps ?_ | with_reducible refine State.placeChunk_keeps ?_
    | (with_reducible refine Keeps.of_snd (by with_reducible assumption) ?_) | split | dsimp only

theorem State.landed_keeps {s : State} {e : Nat} (hk : Keeps pend tmin s) :
    Keeps pend tmin (State.landed s e) := by
  unfold State.landed
  repeat' first
    | with_reducible assumption | with_reducible refine Keeps.ite ?_ ?_ | simp only [Keeps.update]
    | with_reducible refine KeepsU.all ?_ | split | dsimp only

theorem State.chunkDecision_keeps {s : State} {e : Nat} {fails : Bool} {cut : Nat} (hk : Keeps pend tmin s) :
    Keeps pend tmin (State.chunkDecision s e fails cut) := by
  unfold State.chunkDecision
  repeat' first
    | with_reducible assumption | with_reducible refine State.landed_keeps ?_
    | with_reducible refine State.issueReads_keeps ?_ | with_reducible refine State.streamsReady_keeps ?_
    | with_reducible refine State.dlMiss_keeps ?_ | with_reducible refine State.setEngine_keeps ?_
    | with_reducible refine State.serveChunk_keeps ?_ | with_reducible refine Keeps.foldl ?_ (fun _ _ _ => ?_)
    | with_reducible refine Keeps.foldl_snd ?_ (fun _ _ _ => ?_) | simp only [Keeps.update]
    | with_reducible refine KeepsU.all ?_ | (with_reducible refine Keeps.of_snd (by with_reducible assumption) ?_) | split
    | dsimp only

theorem State.sendSigAfter_keeps {s : State} {id : Nat} (hk : Keeps pend tmin s) :
    Keeps pend tmin (State.sendSigAfter s id) := by
  unfold State.sendSigAfter
  repeat' first
    | with_reducible assumption | with_reducible refine Keeps.ite ?_ ?_ | with_reducible refine Keeps.ite_snd ?_ ?_
    | with_reducible refine State.setCmd_keeps ?_ | with_reducible refine State.sigIssue_keeps ?_ | simp only [Keeps.update]
    | with_reducible refine KeepsU.all ?_ | (with_reducible refine Keeps.of_snd (by with_reducible assumption) ?_) | split
    | dsimp only

theorem execSigAfterSend_keeps {id : Nat} {s : State} (hk : Keeps pend tmin s) :
    KeepsR pend tmin (execSigAfterSend id s) := by
  unfold execSigAfterSend
  repeat' first
    | with_reducible assumption | with_reducible refine KeepsR.next ?_ | with_reducible refine State.sendSigAfter_keeps ?_
    | split | dsimp only

theorem State.completeCmd_keeps {s : State} {id : Nat} (hk : Keeps pend tmin s) :
    Keeps pend tmin (State.completeCmd s id) := by
  unfold State.completeCmd
  repeat' first
    | with_reducible assumption | with_reducible refine Keeps.ite ?_ ?_ | with_reducible refine Keeps.ite_snd ?_ ?_
    | with_reducible refine State.verdict_keeps ?_ | with_reducible refine State.fail_keeps ?_
    | (with_reducible refine Keeps.of_snd (by with_reducible assumption) ?_) | split | dsimp only

theorem execCommandComplete_keeps {id : Nat} {s : State} (hk : Keeps pend tmin s) :
    KeepsR pend tmin (execCommandComplete id s) := by
  unfold execCommandComplete
  repeat' first
    | with_reducible assumption | with_reducible refine KeepsR.next ?_ | with_reducible refine State.completeCmd_keeps ?_
    | split | dsimp only

end Sys2Proof.Machine
end

