-- ==== Sys2Proof/Laws/Keeps/Awl.lean ====
section
/-! SUPPORT. The operations of Machine/Awl.lean keep the queue, rack time and the canonical forms (see Laws/Keeps). -/
namespace Sys2Proof.Machine
variable {pend : List Instr} {tmin : Nat}

theorem State.awlPerm_keeps {s : State} {t : Nat} {d : Desc} {n : Nat} {wr : Bool} (hk : Keeps pend tmin s) :
    Keeps pend tmin (State.awlPerm s t d n wr).2 := by
  unfold State.awlPerm
  repeat' first
    | with_reducible assumption | with_reducible refine Keeps.ite ?_ ?_ | with_reducible refine Keeps.ite_snd ?_ ?_
    | with_reducible refine State.wr_keeps ?_ | with_reducible refine State.bridleRange_keeps ?_
    | (with_reducible refine Keeps.of_snd (by with_reducible assumption) ?_) | split | dsimp only

theorem State.awlJoin_keeps {s : State} {id : Nat} (hk : Keeps pend tmin s) :
    Keeps pend tmin (State.awlJoin s id) := by
  unfold State.awlJoin
  repeat' first
    | with_reducible assumption | with_reducible refine Keeps.ite ?_ ?_ | with_reducible refine Keeps.ite_snd ?_ ?_
    | with_reducible refine State.setCmd_keeps ?_ | simp only [Keeps.update] | with_reducible refine KeepsU.all ?_
    | (with_reducible refine Keeps.of_snd (by with_reducible assumption) ?_) | split | dsimp only

theorem State.awlQueue_keeps {s : State} {id : Nat} (hk : Keeps pend tmin s) :
    Keeps pend tmin (State.awlQueue s id) := by
  unfold State.awlQueue
  repeat' first
    | with_reducible assumption | with_reducible refine Keeps.ite ?_ ?_ | with_reducible refine Keeps.ite_snd ?_ ?_
    | with_reducible refine State.setCmd_keeps ?_ | with_reducible refine State.launchLate_keeps ?_
    | with_reducible refine State.awlJoin_keeps ?_ | simp only [Keeps.update] | with_reducible refine KeepsU.all ?_
    | (with_reducible refine Keeps.of_snd (by with_reducible assumption) ?_) | split | dsimp only

theorem State.decodeAwl_keeps {s : State} {id : Nat} (hk : Keeps pend tmin s) :
    Keeps pend tmin (State.decodeAwl s id) := by
  unfold State.decodeAwl
  repeat' first
    | with_reducible assumption | with_reducible refine Keeps.ite ?_ ?_ | with_reducible refine Keeps.ite_snd ?_ ?_
    | with_reducible refine State.reject_keeps ?_ | with_reducible refine State.fail_keeps ?_
    | with_reducible refine State.awlPerm_keeps ?_ | with_reducible refine State.setCmd_keeps ?_
    | with_reducible refine State.admitCmd_keeps ?_ | with_reducible refine State.admitted_keeps ?_
    | with_reducible refine State.awlQueue_keeps ?_ | simp only [Keeps.update] | with_reducible refine KeepsU.all ?_
    | (with_reducible refine Keeps.of_snd (by with_reducible assumption) ?_)
    | (with_reducible refine Keeps.of_some_snd (by with_reducible assumption) ?_) | with_reducible exact KeepsOP.none
    | with_reducible refine KeepsOP.some ?_ | with_reducible refine KeepsOP.ite ?_ ?_ | split | dsimp only

theorem State.deferredAwl_keeps {s : State} {id : Nat} (hk : Keeps pend tmin s) :
    Keeps pend tmin (State.deferredAwl s id) := by
  unfold State.deferredAwl
  repeat' first
    | with_reducible assumption | with_reducible refine Keeps.ite ?_ ?_ | with_reducible refine Keeps.ite_snd ?_ ?_
    | with_reducible refine State.awlJoin_keeps ?_ | (with_reducible refine Keeps.of_snd (by with_reducible assumption) ?_)
    | split | dsimp only

theorem State.awlAsk_keeps {s : State} {c : Cmd} {m : Move} (hk : Keeps pend tmin s) :
    Keeps pend tmin (State.awlAsk s c m) := by
  unfold State.awlAsk
  repeat' first
    | with_reducible assumption | with_reducible refine Keeps.ite ?_ ?_ | with_reducible refine State.setCmd_keeps ?_
    | with_reducible refine State.vc0_keeps ?_ | simp only [Keeps.update] | with_reducible refine KeepsU.all ?_ | split
    | dsimp only

theorem State.awlPerform_keeps {s : State} {c : Cmd} {m : Move} {fails : Bool} (hk : Keeps pend tmin s) :
    Keeps pend tmin (State.awlPerform s c m fails) := by
  unfold State.awlPerform
  repeat' first
    | with_reducible assumption | with_reducible refine State.gatherSrc_keeps ?_ | with_reducible refine State.fail_keeps ?_
    | with_reducible refine State.commitCells_keeps ?_ | with_reducible refine State.dataSent_keeps ?_
    | (with_reducible refine Keeps.of_snd (by with_reducible assumption) ?_)
    | (with_reducible refine Keeps.of_some (by with_reducible assumption) ?_) | with_reducible exact KeepsO.none
    | with_reducible refine KeepsO.some ?_ | with_reducible refine KeepsO.ite ?_ ?_ | split | dsimp only

theorem State.awlOperation_keeps {s : State} {fails : Bool} (hk : Keeps pend tmin s) :
    Keeps pend tmin (State.awlOperation s fails) := by
  unfold State.awlOperation
  repeat' first
    | with_reducible assumption | with_reducible refine Keeps.ite ?_ ?_ | with_reducible refine Keeps.ite_snd ?_ ?_
    | with_reducible refine State.awlPerform_keeps ?_ | with_reducible refine State.awlAsk_keeps ?_
    | (with_reducible refine Keeps.of_snd (by with_reducible assumption) ?_) | split | dsimp only

end Sys2Proof.Machine
end

