-- ==== Sys2Proof/Laws/Keeps/Graph.lean ====
section
/-! SUPPORT. The operations of Machine/Graph.lean keep the queue, rack time and the canonical forms (see Laws/Keeps). -/
namespace Sys2Proof.Machine
variable {pend : List Instr} {tmin : Nat}

theorem State.dropGraph_keeps {s : State} {t : Nat} {id : Nat} (hk : Keeps pend tmin s) :
    Keeps pend tmin (State.dropGraph s t id) := by
  unfold State.dropGraph
  repeat' first
    | with_reducible assumption | simp only [Keeps.update] | with_reducible refine KeepsU.all ?_ | split | dsimp only

theorem State.modGraph_keeps {s : State} {t : Nat} {id : Nat} {f : Graph → Graph} (hk : Keeps pend tmin s) :
    Keeps pend tmin (State.modGraph s t id f) := by
  unfold State.modGraph
  repeat' first
    | with_reducible assumption | with_reducible refine Keeps.ite ?_ ?_ | simp only [Keeps.update]
    | with_reducible refine KeepsU.all ?_ | split | dsimp only

theorem State.loadArea_keeps {s : State} {t : Nat} {p : Packet} (hk : Keeps pend tmin s) :
    Keeps pend tmin (State.loadArea s t p).2 := by
  unfold State.loadArea
  repeat' first
    | with_reducible assumption | with_reducible refine Keeps.ite ?_ ?_ | with_reducible refine Keeps.ite_snd ?_ ?_
    | with_reducible refine State.areaCheck_keeps ?_
    | (with_reducible refine Keeps.of_snd (by with_reducible assumption) ?_) | split | dsimp only

theorem State.gerr_keeps {s : State} {t : Nat} {i : Nat} {b : Nat} (hk : Keeps pend tmin s) :
    Keeps pend tmin (State.gerr s t i b) := by
  unfold State.gerr
  repeat' first
    | with_reducible assumption | with_reducible refine State.set_keeps ?_ | split | dsimp only

theorem State.graphLoad_keeps {s : State} {id : Nat} {fails : Bool} (hk : Keeps pend tmin s) :
    Keeps pend tmin (State.graphLoad s id fails) := by
  unfold State.graphLoad
  repeat' first
    | with_reducible assumption | with_reducible refine State.fail_keeps ?_ | with_reducible refine State.loadArea_keeps ?_
    | with_reducible refine State.areaRead_keeps ?_ | with_reducible refine State.gerr_keeps ?_
    | with_reducible refine State.dropGraph_keeps ?_ | with_reducible refine State.idle_keeps ?_ | simp only [Keeps.update]
    | with_reducible refine KeepsU.all ?_ | (with_reducible refine Keeps.of_snd (by with_reducible assumption) ?_) | split
    | dsimp only

theorem State.graphUnload_keeps {s : State} {id : Nat} (hk : Keeps pend tmin s) :
    Keeps pend tmin (State.graphUnload s id) := by
  unfold State.graphUnload
  repeat' first
    | with_reducible assumption | with_reducible refine Keeps.ite ?_ ?_ | with_reducible refine Keeps.ite_snd ?_ ?_
    | with_reducible refine State.fail_keeps ?_ | with_reducible refine State.dropGraph_keeps ?_
    | (with_reducible refine Keeps.of_snd (by with_reducible assumption) ?_) | split | dsimp only

theorem State.admitNode_keeps {s : State} {t : Nat} {q : Nat} {tick : Nat} {base : Nat} {pins : Bool} {n : Node} (hk : Keeps pend tmin s) :
    KeepsO pend tmin (State.admitNode s t q tick base pins n) := by
  unfold State.admitNode
  repeat' first
    | with_reducible assumption | with_reducible refine Keeps.ite ?_ ?_ | with_reducible refine Keeps.ite_snd ?_ ?_
    | with_reducible refine State.charge_keeps ?_ | with_reducible refine State.planPin_keeps ?_
    | (with_reducible refine Keeps.of_snd (by with_reducible assumption) ?_)
    | (with_reducible refine Keeps.of_some (by with_reducible assumption) ?_) | with_reducible exact KeepsO.none
    | with_reducible refine KeepsO.some ?_ | with_reducible refine KeepsO.ite ?_ ?_ | split | dsimp only

theorem State.admitAll_keeps {s : State} {t q tick base : Nat} {pins : Bool} {ns : List Node} (h : Keeps pend tmin s) :
    KeepsO pend tmin (State.admitAll s t q tick base pins ns) := by
  unfold State.admitAll
  have hs : KeepsO pend tmin (some s) := KeepsO.some h
  generalize some s = o at hs
  induction ns generalizing o with
  | nil => exact hs
  | cons n r ih =>
    refine ih _ ?_
    dsimp only
    split
    · next u => exact State.admitNode_keeps (hs u rfl)
    · exact KeepsO.none

theorem State.admitGraph_keeps {s t : State} {c : Cmd} {g : Graph} {pins : Bool} {a : Option Nat} {b : Nat} (h : Keeps pend tmin s)
    (e : State.admitGraph s c g pins = some (a, b, t)) : Keeps pend tmin t := by
  have one : ∀ n base (f : State → Nat), (s.admitAll c.tenant c.queue n base pins g.tickedNodes).map (fun u => (some n, f u, u)) = some (a, b, t) →
      Keeps pend tmin t := by
    intro n base f e
    obtain ⟨u, hu, e⟩ := Option.map_eq_some_iff.mp e
    rw [← (Prod.mk.inj (Prod.mk.inj e).2).2]
    exact State.admitAll_keeps h u hu
  unfold State.admitGraph at e
  dsimp only at e
  split at e
  · rw [← (Prod.mk.inj (Prod.mk.inj (Option.some.inj e)).2).2]
    exact h
  · split at e
    · exact (Option.some_ne_none _ e.symm).elim
    · split at e
      · split at e
        · exact one _ _ (fun _ => c.launch) e
        · exact (Option.some_ne_none _ e.symm).elim
      · obtain ⟨n, _, e⟩ := List.exists_of_findSome?_eq_some e
        exact one n _ (fun u => u.edgeOf n) e

theorem State.releaseGraph_keeps {s : State} {t : Nat} {id : Nat} (hk : Keeps pend tmin s) :
    Keeps pend tmin (State.releaseGraph s t id) := by
  unfold State.releaseGraph
  repeat' first
    | with_reducible assumption | with_reducible refine Keeps.ite ?_ ?_ | with_reducible refine Keeps.ite_snd ?_ ?_
    | with_reducible refine State.modGraph_keeps ?_ | with_reducible refine State.flagUpdate_keeps ?_
    | with_reducible refine State.modNode_keeps ?_ | with_reducible refine State.evalFlags_keeps ?_
    | with_reducible refine State.fail_keeps ?_ | with_reducible refine Keeps.foldl ?_ (fun _ _ _ => ?_)
    | with_reducible refine Keeps.foldl_snd ?_ (fun _ _ _ => ?_) | simp only [Keeps.update]
    | with_reducible refine KeepsU.all ?_ | (with_reducible refine Keeps.of_snd (by with_reducible assumption) ?_) | split
    | dsimp only

theorem State.launchGraph_keeps {s : State} {id : Nat} (hk : Keeps pend tmin s) :
    Keeps pend tmin (State.launchGraph s id) := by
  unfold State.launchGraph
  repeat' first
    | with_reducible assumption | with_reducible refine Keeps.ite ?_ ?_ | with_reducible refine Keeps.ite_snd ?_ ?_
    | with_reducible refine State.fail_keeps ?_ | with_reducible refine State.setCmd_keeps ?_
    | with_reducible refine State.admitGraph_keeps ?_ | with_reducible refine State.stick_keeps ?_
    | with_reducible refine State.modGraph_keeps ?_ | with_reducible refine State.idle_keeps ?_
    | with_reducible refine State.launchLate_keeps ?_ | with_reducible refine State.releaseGraph_keeps ?_
    | simp only [Keeps.update] | with_reducible refine KeepsU.all ?_
    | (with_reducible refine Keeps.of_snd (by with_reducible assumption) ?_)
    | (with_reducible refine Keeps.of_some_snd (by with_reducible assumption) ?_) | with_reducible exact KeepsOP.none
    | with_reducible refine KeepsOP.some ?_ | with_reducible refine KeepsOP.ite ?_ ?_
    | (with_reducible refine State.admitGraph_keeps ?_ (by with_reducible assumption)) | split | dsimp only

theorem State.graphRelease_keeps {s : State} {t : Nat} {id : Nat} (hk : Keeps pend tmin s) :
    Keeps pend tmin (State.graphRelease s t id) := by
  unfold State.graphRelease
  repeat' first
    | with_reducible assumption | with_reducible refine Keeps.ite ?_ ?_ | with_reducible refine Keeps.ite_snd ?_ ?_
    | with_reducible refine State.advance_keeps ?_ | with_reducible refine State.releaseGraph_keeps ?_
    | (with_reducible refine Keeps.of_snd (by with_reducible assumption) ?_) | split | dsimp only

theorem execGraphRelease_keeps {t : Tenant} {graph : BitVec 8} {s : State} (hk : Keeps pend tmin s) :
    KeepsR pend tmin (execGraphRelease t graph s) := by
  unfold execGraphRelease
  repeat' first
    | with_reducible assumption | with_reducible refine KeepsR.next ?_ | with_reducible refine State.graphRelease_keeps ?_
    | split | dsimp only

theorem State.nodeTimeout_keeps {s : State} {t : Nat} {id : Nat} {i : Nat} (hk : Keeps pend tmin s) :
    Keeps pend tmin (State.nodeTimeout s t id i) := by
  unfold State.nodeTimeout
  repeat' first
    | with_reducible assumption | with_reducible refine Keeps.ite ?_ ?_ | with_reducible refine Keeps.ite_snd ?_ ?_
    | with_reducible refine State.advance_keeps ?_ | with_reducible refine State.modNode_keeps ?_
    | with_reducible refine State.endNode_keeps ?_ | simp only [Keeps.update] | with_reducible refine KeepsU.all ?_
    | (with_reducible refine Keeps.of_snd (by with_reducible assumption) ?_) | split | dsimp only

theorem execNodeTimeout_keeps {t : Tenant} {graph : BitVec 8} {i : Nat} {s : State} (hk : Keeps pend tmin s) :
    KeepsR pend tmin (execNodeTimeout t graph i s) := by
  unfold execNodeTimeout
  repeat' first
    | with_reducible assumption | with_reducible refine KeepsR.next ?_ | with_reducible refine State.nodeTimeout_keeps ?_
    | split | dsimp only

theorem State.schPartWrite_keeps {s : State} {t : Nat} {base : Nat} {count : Nat} (hk : Keeps pend tmin s) :
    Keeps pend tmin (State.schPartWrite s t base count) := by
  unfold State.schPartWrite
  repeat' first
    | with_reducible assumption | with_reducible refine Keeps.ite ?_ ?_ | with_reducible refine State.stick_keeps ?_
    | with_reducible refine State.set_keeps ?_ | split | dsimp only

theorem execSchPartWrite_keeps {t : Tenant} {w : Word} {s : State} (hk : Keeps pend tmin s) :
    KeepsR pend tmin (execSchPartWrite t w s) := by
  unfold execSchPartWrite
  repeat' first
    | with_reducible assumption | with_reducible refine KeepsR.next ?_ | with_reducible refine Keeps.ite ?_ ?_
    | with_reducible refine KeepsR.ite ?_ ?_ | with_reducible refine State.schPartWrite_keeps ?_ | split | dsimp only

theorem State.evfSet_keeps {s : State} {t : Nat} {w : Nat} {h : Nat} {v : Nat} (hk : Keeps pend tmin s) :
    Keeps pend tmin (State.evfSet s t w h v) := by
  unfold State.evfSet
  repeat' first
    | with_reducible assumption | with_reducible refine State.flagUpdate_keeps ?_ | split | dsimp only

theorem execEvfSetWrite_keeps {t : Tenant} {w : Fin 16} {h : Fin 2} {v : Word} {s : State} (hk : Keeps pend tmin s) :
    KeepsR pend tmin (execEvfSetWrite t w h v s) := by
  unfold execEvfSetWrite
  repeat' first
    | with_reducible assumption | with_reducible refine KeepsR.next ?_ | with_reducible refine Keeps.ite ?_ ?_
    | with_reducible refine KeepsR.ite ?_ ?_ | with_reducible refine State.evfSet_keeps ?_ | split | dsimp only

theorem State.evfClr_keeps {s : State} {t : Nat} {w : Nat} {h : Nat} {v : Nat} (hk : Keeps pend tmin s) :
    Keeps pend tmin (State.evfClr s t w h v) := by
  unfold State.evfClr
  repeat' first
    | with_reducible assumption | with_reducible refine State.flagUpdate_keeps ?_ | split | dsimp only

theorem State.evfSet64_keeps {s : State} {t : Nat} {w : Nat} {v : Nat} (hk : Keeps pend tmin s) :
    Keeps pend tmin (State.evfSet64 s t w v) := by
  unfold State.evfSet64
  repeat' first
    | with_reducible assumption | with_reducible refine State.evfSet_keeps ?_ | split | dsimp only

theorem State.evfClr64_keeps {s : State} {t : Nat} {w : Nat} {v : Nat} (hk : Keeps pend tmin s) :
    Keeps pend tmin (State.evfClr64 s t w v) := by
  unfold State.evfClr64
  repeat' first
    | with_reducible assumption | with_reducible refine State.evfClr_keeps ?_ | split | dsimp only

theorem execEvfClrWrite_keeps {t : Tenant} {w : Fin 16} {h : Fin 2} {v : Word} {s : State} (hk : Keeps pend tmin s) :
    KeepsR pend tmin (execEvfClrWrite t w h v s) := by
  unfold execEvfClrWrite
  repeat' first
    | with_reducible assumption | with_reducible refine KeepsR.next ?_ | with_reducible refine Keeps.ite ?_ ?_
    | with_reducible refine KeepsR.ite ?_ ?_ | with_reducible refine State.evfClr_keeps ?_ | split | dsimp only

end Sys2Proof.Machine
end

