-- ==== Sys2Proof/Laws/Keeps/Loupe.lean ====
section
/-! SUPPORT. The operations of Machine/Loupe.lean keep the queue, rack time and the canonical forms (see Laws/Keeps). -/
namespace Sys2Proof.Machine
variable {pend : List Instr} {tmin : Nat}

theorem State.alarmWake_keeps {s : State} (hk : Keeps pend tmin s) :
    Keeps pend tmin (State.alarmWake s) := by
  unfold State.alarmWake
  repeat' first
    | with_reducible assumption | with_reducible refine Keeps.ite ?_ ?_ | with_reducible refine State.wake_keeps ?_
    | simp only [Keeps.update] | with_reducible refine KeepsU.all ?_ | split | dsimp only

theorem State.refresh_keeps {s : State} {w : Nat} (hk : Keeps pend tmin s) :
    Keeps pend tmin (State.refresh s w) := by
  unfold State.refresh
  repeat' first
    | with_reducible assumption | with_reducible refine Keeps.ite ?_ ?_ | with_reducible refine State.patHold_keeps ?_
    | with_reducible refine State.event_keeps ?_ | with_reducible refine State.lpeUpdate_keeps ?_ | simp only [Keeps.update]
    | with_reducible refine KeepsU.all ?_ | split | dsimp only

theorem State.watchExpire_keeps {s : State} {w : Nat} (hk : Keeps pend tmin s) :
    Keeps pend tmin (State.watchExpire s w) := by
  unfold State.watchExpire
  repeat' first
    | with_reducible assumption | with_reducible refine Keeps.ite ?_ ?_ | with_reducible refine Keeps.ite_snd ?_ ?_
    | with_reducible refine State.advance_keeps ?_ | with_reducible refine State.raise_keeps ?_
    | with_reducible refine State.stick_keeps ?_ | with_reducible refine State.event_keeps ?_
    | with_reducible refine State.lpeUpdate_keeps ?_ | simp only [Keeps.update] | with_reducible refine KeepsU.all ?_
    | (with_reducible refine Keeps.of_snd (by with_reducible assumption) ?_) | split | dsimp only

theorem execWatcherExpiry_keeps {w : Fin 256} {s : State} (hk : Keeps pend tmin s) :
    KeepsR pend tmin (execWatcherExpiry w s) := by
  unfold execWatcherExpiry
  repeat' first
    | with_reducible assumption | with_reducible refine KeepsR.next ?_ | with_reducible refine State.watchExpire_keeps ?_
    | with_reducible refine State.alarmWake_keeps ?_ | split | dsimp only

theorem State.heartbeat_keeps {s : State} {w : Nat} (hk : Keeps pend tmin s) :
    Keeps pend tmin (State.heartbeat s w) := by
  unfold State.heartbeat
  repeat' first
    | with_reducible assumption | with_reducible refine Keeps.ite ?_ ?_ | with_reducible refine State.refresh_keeps ?_
    | split | dsimp only

theorem State.safeApply_keeps {s : State} {id : Nat} {kind : Nat} {first : Nat} {count : Nat} {b : List (BitVec 8)} (hk : Keeps pend tmin s) :
    Keeps pend tmin (State.safeApply s id kind first count b) := by
  unfold State.safeApply
  repeat' first
    | with_reducible assumption | with_reducible refine Keeps.ite ?_ ?_ | with_reducible refine State.fail_keeps ?_
    | with_reducible refine State.refresh_keeps ?_ | with_reducible refine State.set_keeps ?_
    | with_reducible refine State.lpeUpdate_keeps ?_ | with_reducible refine Keeps.foldl ?_ (fun _ _ _ => ?_)
    | with_reducible refine Keeps.foldl_snd ?_ (fun _ _ _ => ?_) | simp only [Keeps.update]
    | with_reducible refine KeepsU.all ?_ | (with_reducible refine Keeps.of_snd (by with_reducible assumption) ?_) | split
    | dsimp only

theorem State.safeConfig_keeps {s : State} {id : Nat} {fails : Bool} (hk : Keeps pend tmin s) :
    Keeps pend tmin (State.safeConfig s id fails) := by
  unfold State.safeConfig
  repeat' first
    | with_reducible assumption | with_reducible refine Keeps.ite ?_ ?_ | with_reducible refine Keeps.ite_snd ?_ ?_
    | with_reducible refine State.fail_keeps ?_ | with_reducible refine State.areaCheck_keeps ?_
    | with_reducible refine State.areaRead_keeps ?_ | with_reducible refine State.internalFail_keeps ?_
    | with_reducible refine State.safeApply_keeps ?_
    | (with_reducible refine Keeps.of_snd (by with_reducible assumption) ?_) | split | dsimp only

theorem State.judge_keeps {s : State} {r : List (BitVec 8)} (hk : Keeps pend tmin s) :
    Keeps pend tmin (State.judge s r).2 := by
  unfold State.judge
  repeat' first
    | with_reducible assumption | with_reducible refine State.raise_keeps ?_ | with_reducible refine State.stick_keeps ?_
    | with_reducible refine State.event_keeps ?_ | with_reducible refine Keeps.foldl ?_ (fun _ _ _ => ?_)
    | with_reducible refine Keeps.foldl_snd ?_ (fun _ _ _ => ?_)
    | (with_reducible refine Keeps.of_snd (by with_reducible assumption) ?_) | split | dsimp only

theorem State.refreshAll_keeps {s : State} {r : List (BitVec 8)} (hk : Keeps pend tmin s) :
    Keeps pend tmin (State.refreshAll s r) := by
  unfold State.refreshAll
  repeat' first
    | with_reducible assumption | with_reducible refine State.refresh_keeps ?_
    | with_reducible refine Keeps.foldl ?_ (fun _ _ _ => ?_) | with_reducible refine Keeps.foldl_snd ?_ (fun _ _ _ => ?_)
    | split | dsimp only

theorem State.mirror_keeps {s : State} {id : Nat} {i : Nat} {side : Bool} {ok : Bool} {r : List (BitVec 8)} (hk : Keeps pend tmin s) :
    Keeps pend tmin (State.mirror s id i side ok r) := by
  unfold State.mirror
  repeat' first
    | with_reducible assumption | with_reducible refine Keeps.ite ?_ ?_ | with_reducible refine Keeps.ite_snd ?_ ?_
    | with_reducible refine State.refreshAll_keeps ?_ | with_reducible refine State.verdict_keeps ?_
    | with_reducible refine State.pairFail_keeps ?_ | with_reducible refine State.missing_keeps ?_
    | simp only [Keeps.update] | with_reducible refine KeepsU.all ?_
    | (with_reducible refine Keeps.of_snd (by with_reducible assumption) ?_) | split | dsimp only

theorem State.evaluate_keeps {s : State} {id : Nat} {r : List (BitVec 8)} (hk : Keeps pend tmin s) :
    Keeps pend tmin (State.evaluate s id r) := by
  unfold State.evaluate
  repeat' first
    | with_reducible assumption | with_reducible refine Keeps.ite ?_ ?_ | with_reducible refine Keeps.ite_snd ?_ ?_
    | with_reducible refine State.stick_keeps ?_ | with_reducible refine State.event_keeps ?_
    | with_reducible refine State.verdict_keeps ?_ | with_reducible refine State.judge_keeps ?_
    | with_reducible refine State.mirror_keeps ?_ | with_reducible refine State.refreshAll_keeps ?_
    | (with_reducible refine Keeps.of_snd (by with_reducible assumption) ?_) | split | dsimp only

theorem State.summaryNext_keeps {s : State} (hk : Keeps pend tmin s) :
    Keeps pend tmin (State.summaryNext s) := by
  unfold State.summaryNext
  repeat' first
    | with_reducible assumption | with_reducible refine Keeps.ite ?_ ?_ | with_reducible refine Keeps.ite_snd ?_ ?_
    | with_reducible refine State.evaluate_keeps ?_ | with_reducible refine State.lpeUpdate_keeps ?_
    | with_reducible refine State.verdict_keeps ?_ | simp only [Keeps.update] | with_reducible refine KeepsU.all ?_
    | (with_reducible refine Keeps.of_snd (by with_reducible assumption) ?_) | split | dsimp only

theorem execSummaryEvaluate_keeps {s : State} (hk : Keeps pend tmin s) :
    KeepsR pend tmin (execSummaryEvaluate s) := by
  unfold execSummaryEvaluate
  repeat' first
    | with_reducible assumption | with_reducible refine KeepsR.next ?_ | with_reducible refine State.summaryNext_keeps ?_
    | with_reducible refine State.alarmWake_keeps ?_ | split | dsimp only

theorem State.mirrorExpire_keeps {s : State} {i : Nat} (hk : Keeps pend tmin s) :
    Keeps pend tmin (State.mirrorExpire s i) := by
  unfold State.mirrorExpire
  repeat' first
    | with_reducible assumption | with_reducible refine State.advance_keeps ?_
    | with_reducible refine State.missing_keeps ?_ | (with_reducible refine Keeps.of_snd (by with_reducible assumption) ?_)
    | split | dsimp only

theorem execMirrorWindowExpiry_keeps {i : Fin 64} {s : State} (hk : Keeps pend tmin s) :
    KeepsR pend tmin (execMirrorWindowExpiry i s) := by
  unfold execMirrorWindowExpiry
  repeat' first
    | with_reducible assumption | with_reducible refine KeepsR.next ?_ | with_reducible refine State.mirrorExpire_keeps ?_
    | with_reducible refine State.alarmWake_keeps ?_ | split | dsimp only

theorem State.verdictIn_keeps {s : State} {id : Nat} (hk : Keeps pend tmin s) :
    Keeps pend tmin (State.verdictIn s id) := by
  unfold State.verdictIn
  repeat' first
    | with_reducible assumption | with_reducible refine Keeps.ite ?_ ?_ | with_reducible refine Keeps.ite_snd ?_ ?_
    | with_reducible refine State.modCmd_keeps ?_ | with_reducible refine State.verdict_keeps ?_
    | with_reducible refine State.fail_keeps ?_ | simp only [Keeps.update] | with_reducible refine KeepsU.all ?_
    | (with_reducible refine Keeps.of_snd (by with_reducible assumption) ?_) | split | dsimp only

theorem execGatedVerdict_keeps {id : Nat} {s : State} (hk : Keeps pend tmin s) :
    KeepsR pend tmin (execGatedVerdict id s) := by
  unfold execGatedVerdict
  repeat' first
    | with_reducible assumption | with_reducible refine KeepsR.next ?_ | with_reducible refine State.verdictIn_keeps ?_
    | split | dsimp only

theorem State.patEnded_keeps {s : State} {p : Nat} {was : Bool} (hk : Keeps pend tmin s) :
    Keeps pend tmin (State.patEnded s p was) := by
  unfold State.patEnded
  repeat' first
    | with_reducible assumption | with_reducible refine Keeps.ite ?_ ?_ | with_reducible refine State.event_keeps ?_ | split
    | dsimp only

theorem State.holdExpire_keeps {s : State} {p : Nat} (hk : Keeps pend tmin s) :
    Keeps pend tmin (State.holdExpire s p) := by
  unfold State.holdExpire
  repeat' first
    | with_reducible assumption | with_reducible refine State.advance_keeps ?_
    | with_reducible refine State.patEnded_keeps ?_ | with_reducible refine State.lpeUpdate_keeps ?_
    | simp only [Keeps.update] | with_reducible refine KeepsU.all ?_
    | (with_reducible refine Keeps.of_snd (by with_reducible assumption) ?_) | split | dsimp only

theorem execPatternHoldExpiry_keeps {p : Fin 15} {s : State} (hk : Keeps pend tmin s) :
    KeepsR pend tmin (execPatternHoldExpiry p s) := by
  unfold execPatternHoldExpiry
  repeat' first
    | with_reducible assumption | with_reducible refine KeepsR.next ?_ | with_reducible refine State.holdExpire_keeps ?_
    | split | dsimp only

theorem State.alarmClear_keeps {s : State} {v : Nat} (hk : Keeps pend tmin s) :
    Keeps pend tmin (State.alarmClear s v) := by
  unfold State.alarmClear
  repeat' first
    | with_reducible assumption | with_reducible refine Keeps.ite ?_ ?_ | with_reducible refine State.patEnded_keeps ?_
    | with_reducible refine State.lpeUpdate_keeps ?_ | with_reducible refine Keeps.foldl ?_ (fun _ _ _ => ?_)
    | with_reducible refine Keeps.foldl_snd ?_ (fun _ _ _ => ?_) | simp only [Keeps.update]
    | with_reducible refine KeepsU.all ?_ | split | dsimp only

theorem execAlarmClear_keeps {v : Word} {s : State} (hk : Keeps pend tmin s) :
    KeepsR pend tmin (execAlarmClear v s) := by
  unfold execAlarmClear
  repeat' first
    | with_reducible assumption | with_reducible refine KeepsR.next ?_ | with_reducible refine State.alarmClear_keeps ?_
    | split | dsimp only

theorem State.faultClear_keeps {s : State} {v : Nat} (hk : Keeps pend tmin s) :
    Keeps pend tmin (State.faultClear s v) := by
  unfold State.faultClear
  repeat' first
    | with_reducible assumption | with_reducible refine Keeps.ite ?_ ?_ | with_reducible refine State.set_keeps ?_
    | with_reducible refine State.lpeUpdate_keeps ?_ | simp only [Keeps.update] | with_reducible refine KeepsU.all ?_
    | split | dsimp only

theorem execFaultClear_keeps {v : Word} {s : State} (hk : Keeps pend tmin s) :
    KeepsR pend tmin (execFaultClear v s) := by
  unfold execFaultClear
  repeat' first
    | with_reducible assumption | with_reducible refine KeepsR.next ?_ | with_reducible refine State.faultClear_keeps ?_
    | split | dsimp only

theorem State.lpeCtrl_keeps {s : State} {v : Nat} (hk : Keeps pend tmin s) :
    Keeps pend tmin (State.lpeCtrl s v) := by
  unfold State.lpeCtrl
  repeat' first
    | with_reducible assumption | with_reducible refine State.putRw_keeps ?_
    | with_reducible refine State.lpeUpdate_keeps ?_ | split | dsimp only

theorem execSafeEnable_keeps {v : Word} {s : State} (hk : Keeps pend tmin s) :
    KeepsR pend tmin (execSafeEnable v s) := by
  unfold execSafeEnable
  repeat' first
    | with_reducible assumption | with_reducible refine KeepsR.next ?_ | with_reducible refine State.lpeCtrl_keeps ?_
    | split | dsimp only

theorem State.tripNext_keeps {s : State} (hk : Keeps pend tmin s) :
    Keeps pend tmin (State.tripNext s) := by
  unfold State.tripNext
  repeat' first
    | with_reducible assumption | with_reducible refine Keeps.ite ?_ ?_ | with_reducible refine Keeps.ite_snd ?_ ?_
    | with_reducible refine State.raise_keeps ?_ | with_reducible refine State.event_keeps ?_
    | with_reducible refine State.lpeUpdate_keeps ?_ | simp only [Keeps.update] | with_reducible refine KeepsU.all ?_
    | (with_reducible refine Keeps.of_snd (by with_reducible assumption) ?_) | split | dsimp only

theorem execTripwireRecord_keeps {s : State} (hk : Keeps pend tmin s) :
    KeepsR pend tmin (execTripwireRecord s) := by
  unfold execTripwireRecord
  repeat' first
    | with_reducible assumption | with_reducible refine KeepsR.next ?_ | with_reducible refine State.tripNext_keeps ?_
    | with_reducible refine State.alarmWake_keeps ?_ | split | dsimp only

theorem State.lpStatus_keeps {s : State} (hk : Keeps pend tmin s) :
    Keeps pend tmin (State.lpStatus s) := by
  unfold State.lpStatus
  repeat' first
    | with_reducible assumption | with_reducible refine State.lpFrame_keeps ?_ | split | dsimp only

theorem execLpStatusFrame_keeps {s : State} (hk : Keeps pend tmin s) :
    KeepsR pend tmin (execLpStatusFrame s) := by
  unfold execLpStatusFrame
  repeat' first
    | with_reducible assumption | with_reducible refine KeepsR.next ?_ | with_reducible refine State.lpStatus_keeps ?_
    | split | dsimp only

theorem execLpFrameReceived_keeps {_frame : List (BitVec 8)} {s : State} (hk : Keeps pend tmin s) :
    KeepsR pend tmin (execLpFrameReceived _frame s) := by
  unfold execLpFrameReceived
  repeat' first
    | with_reducible assumption | with_reducible refine KeepsR.next ?_ | split | dsimp only

theorem State.elogFlush_keeps {s : State} (hk : Keeps pend tmin s) :
    Keeps pend tmin (State.elogFlush s) := by
  unfold State.elogFlush
  repeat' first
    | with_reducible assumption | with_reducible refine Keeps.ite ?_ ?_ | with_reducible refine Keeps.ite_snd ?_ ?_
    | with_reducible refine State.elogWrite_keeps ?_ | with_reducible refine Keeps.foldl ?_ (fun _ _ _ => ?_)
    | with_reducible refine Keeps.foldl_snd ?_ (fun _ _ _ => ?_) | simp only [Keeps.update]
    | with_reducible refine KeepsU.all ?_ | (with_reducible refine Keeps.of_snd (by with_reducible assumption) ?_) | split
    | dsimp only

theorem execEventRingFlush_keeps {s : State} (hk : Keeps pend tmin s) :
    KeepsR pend tmin (execEventRingFlush s) := by
  unfold execEventRingFlush
  repeat' first
    | with_reducible assumption | with_reducible refine KeepsR.next ?_ | with_reducible refine Keeps.ite ?_ ?_
    | with_reducible refine KeepsR.ite ?_ ?_ | with_reducible refine State.elogFlush_keeps ?_ | split | dsimp only

theorem State.hwFault_keeps {s : State} (hk : Keeps pend tmin s) :
    Keeps pend tmin (State.hwFault s) := by
  unfold State.hwFault
  repeat' first
    | with_reducible assumption | with_reducible refine Keeps.ite ?_ ?_ | with_reducible refine State.fault_keeps ?_
    | with_reducible refine State.lpeUpdate_keeps ?_ | with_reducible refine State.lastWords_keeps ?_
    | simp only [Keeps.update] | with_reducible refine KeepsU.all ?_ | split | dsimp only

theorem execLockstepMismatch_keeps {s : State} (hk : Keeps pend tmin s) :
    KeepsR pend tmin (execLockstepMismatch s) := by
  unfold execLockstepMismatch
  repeat' first
    | with_reducible assumption | with_reducible refine KeepsR.next ?_ | with_reducible refine State.hwFault_keeps ?_
    | split | dsimp only

theorem State.clockFault_keeps {s : State} (hk : Keeps pend tmin s) :
    Keeps pend tmin (State.clockFault s) := by
  unfold State.clockFault
  repeat' first
    | with_reducible assumption | with_reducible refine State.hwFault_keeps ?_ | split | dsimp only

theorem execLoupeClockFault_keeps {s : State} (hk : Keeps pend tmin s) :
    KeepsR pend tmin (execLoupeClockFault s) := by
  unfold execLoupeClockFault
  repeat' first
    | with_reducible assumption | with_reducible refine KeepsR.next ?_ | with_reducible refine State.clockFault_keeps ?_
    | split | dsimp only

theorem State.loupeRestart_keeps {s : State} {bad : Bool} (hk : Keeps pend tmin s) :
    Keeps pend tmin (State.loupeRestart s bad) := by
  unfold State.loupeRestart
  repeat' first
    | with_reducible assumption | with_reducible refine State.closeSession_keeps ?_
    | with_reducible refine State.trace_keeps ?_ | with_reducible refine State.fault_keeps ?_
    | with_reducible refine State.lpeUpdate_keeps ?_ | simp only [Keeps.update] | with_reducible refine KeepsU.all ?_
    | split | dsimp only

theorem State.loupeException_keeps {s : State} {onFaultStack : Bool} {spValid : Bool} (hk : Keeps pend tmin s) :
    Keeps pend tmin (State.loupeException s onFaultStack spValid) := by
  unfold State.loupeException
  repeat' first
    | with_reducible assumption | with_reducible refine Keeps.ite ?_ ?_ | with_reducible refine State.hwFault_keeps ?_
    | with_reducible refine State.loupeRestart_keeps ?_ | split | dsimp only

theorem execLoupeException_keeps {onFaultStack : Bool} {spValid : Bool} {s : State} (hk : Keeps pend tmin s) :
    KeepsR pend tmin (execLoupeException onFaultStack spValid s) := by
  unfold execLoupeException
  repeat' first
    | with_reducible assumption | with_reducible refine KeepsR.next ?_ | with_reducible refine State.loupeException_keeps ?_
    | split | dsimp only

theorem State.lfWatchdog_keeps {s : State} (hk : Keeps pend tmin s) :
    Keeps pend tmin (State.lfWatchdog s) := by
  unfold State.lfWatchdog
  repeat' first
    | with_reducible assumption | with_reducible refine State.loupeRestart_keeps ?_ | split | dsimp only

theorem execLfWatchdogExpiry_keeps {s : State} (hk : Keeps pend tmin s) :
    KeepsR pend tmin (execLfWatchdogExpiry s) := by
  unfold execLfWatchdogExpiry
  repeat' first
    | with_reducible assumption | with_reducible refine KeepsR.next ?_ | with_reducible refine State.lfWatchdog_keeps ?_
    | split | dsimp only

theorem State.loupeUe_keeps {s : State} (hk : Keeps pend tmin s) :
    Keeps pend tmin (State.loupeUe s) := by
  unfold State.loupeUe
  repeat' first
    | with_reducible assumption | with_reducible refine State.loupeRestart_keeps ?_ | split | dsimp only

theorem execLoupeSramUe_keeps {s : State} (hk : Keeps pend tmin s) :
    KeepsR pend tmin (execLoupeSramUe s) := by
  unfold execLoupeSramUe
  repeat' first
    | with_reducible assumption | with_reducible refine KeepsR.next ?_ | with_reducible refine State.loupeUe_keeps ?_
    | split | dsimp only

theorem State.loupeBack_keeps {s : State} {ok : Bool} (hk : Keeps pend tmin s) :
    Keeps pend tmin (State.loupeBack s ok) := by
  unfold State.loupeBack
  repeat' first
    | with_reducible assumption | with_reducible refine Keeps.ite ?_ ?_ | with_reducible refine Keeps.ite_snd ?_ ?_
    | with_reducible refine State.lpeUpdate_keeps ?_ | with_reducible refine State.refresh_keeps ?_
    | with_reducible refine State.set_keeps ?_ | with_reducible refine State.stick_keeps ?_
    | with_reducible refine Keeps.foldl ?_ (fun _ _ _ => ?_) | with_reducible refine Keeps.foldl_snd ?_ (fun _ _ _ => ?_)
    | simp only [Keeps.update] | with_reducible refine KeepsU.all ?_
    | (with_reducible refine Keeps.of_snd (by with_reducible assumption) ?_) | split | dsimp only

theorem execLoupeRestartComplete_keeps {ok : Bool} {s : State} (hk : Keeps pend tmin s) :
    KeepsR pend tmin (execLoupeRestartComplete ok s) := by
  unfold execLoupeRestartComplete
  repeat' first
    | with_reducible assumption | with_reducible refine KeepsR.next ?_ | with_reducible refine State.loupeBack_keeps ?_
    | split | dsimp only

theorem State.lpeReset_keeps {s : State} {v : Nat} (hk : Keeps pend tmin s) :
    Keeps pend tmin (State.lpeReset s v) := by
  unfold State.lpeReset
  repeat' first
    | with_reducible assumption | with_reducible refine Keeps.ite ?_ ?_ | with_reducible refine State.closeSession_keeps ?_
    | with_reducible refine State.set_keeps ?_ | with_reducible refine State.lpeUpdate_keeps ?_
    | with_reducible refine State.stick_keeps ?_ | simp only [Keeps.update] | with_reducible refine KeepsU.all ?_
    | (with_reducible refine Keeps.of_snd (by with_reducible assumption) ?_) | split | dsimp only

theorem execLpeReset_keeps {v : Word} {s : State} (hk : Keeps pend tmin s) :
    KeepsR pend tmin (execLpeReset v s) := by
  unfold execLpeReset
  repeat' first
    | with_reducible assumption | with_reducible refine KeepsR.next ?_ | with_reducible refine State.lpeReset_keeps ?_
    | split | dsimp only

end Sys2Proof.Machine
end

