-- ==== Sys2Proof/Laws/Keeps/Fast.lean ====
section
/-! SUPPORT. The operations of Machine/Fast.lean keep the queue, rack time and the canonical forms (see Laws/Keeps). -/
namespace Sys2Proof.Machine
variable {pend : List Instr} {tmin : Nat}

theorem State.decodeFront_keeps {s : State} {id : Nat} (hk : Keeps pend tmin s) :
    Keeps pend tmin (State.decodeFront s id) := by
  unfold State.decodeFront
  repeat' first
    | with_reducible assumption | with_reducible refine Keeps.ite ?_ ?_ | with_reducible refine Keeps.ite_snd ?_ ?_
    | with_reducible refine State.reject_keeps ?_ | with_reducible refine State.fail_keeps ?_
    | with_reducible refine State.setCmd_keeps ?_ | with_reducible refine State.launchLate_keeps ?_
    | simp only [Keeps.update] | with_reducible refine KeepsU.all ?_
    | (with_reducible refine Keeps.of_snd (by with_reducible assumption) ?_) | split | dsimp only

theorem State.ringBell_keeps {s : State} {t : Nat} {q : Nat} {new : Nat} (hk : Keeps pend tmin s) :
    Keeps pend tmin (State.ringBell s t q new).2 := by
  unfold State.ringBell
  repeat' first
    | with_reducible assumption | with_reducible refine Keeps.ite ?_ ?_ | with_reducible refine Keeps.ite_snd ?_ ?_
    | with_reducible refine State.set_keeps ?_ | with_reducible refine State.stick_keeps ?_
    | with_reducible refine State.msix_keeps ?_ | split | dsimp only

theorem State.runSignal_keeps {s : State} {c : Cmd} (hk : Keeps pend tmin s) :
    Keeps pend tmin (State.runSignal s c) := by
  unfold State.runSignal
  repeat' first
    | with_reducible assumption | with_reducible refine Keeps.ite ?_ ?_ | with_reducible refine Keeps.ite_snd ?_ ?_
    | with_reducible refine State.setCmd_keeps ?_ | with_reducible refine State.sigIssue_keeps ?_
    | with_reducible refine State.fail_keeps ?_ | with_reducible refine Keeps.foldl ?_ (fun _ _ _ => ?_)
    | with_reducible refine Keeps.foldl_snd ?_ (fun _ _ _ => ?_) | simp only [Keeps.update]
    | with_reducible refine KeepsU.all ?_ | (with_reducible refine Keeps.of_snd (by with_reducible assumption) ?_) | split
    | dsimp only

theorem State.runFront_keeps {s : State} {c : Cmd} (hk : Keeps pend tmin s) :
    Keeps pend tmin (State.runFront s c) := by
  unfold State.runFront
  repeat' first
    | with_reducible assumption | with_reducible refine Keeps.ite ?_ ?_ | with_reducible refine Keeps.ite_snd ?_ ?_
    | with_reducible refine State.fail_keeps ?_ | with_reducible refine State.runSignal_keeps ?_
    | with_reducible refine State.setCmd_keeps ?_ | with_reducible refine State.endWait_keeps ?_
    | with_reducible refine State.evalWaits_keeps ?_ | with_reducible refine State.startArrive_keeps ?_
    | with_reducible refine State.tryAcquire_keeps ?_ | with_reducible refine State.releaseBoth_keeps ?_
    | with_reducible refine State.flagUpdate_keeps ?_ | with_reducible refine State.ringBell_keeps ?_
    | with_reducible refine State.launchGraph_keeps ?_ | with_reducible refine State.heartbeat_keeps ?_
    | simp only [Keeps.update] | with_reducible refine KeepsU.all ?_
    | (with_reducible refine Keeps.of_snd (by with_reducible assumption) ?_) | split | dsimp only

theorem State.startNow_keeps {s : State} {id : Nat} {fails : Bool} (hk : Keeps pend tmin s) :
    Keeps pend tmin (State.startNow s id fails) := by
  unfold State.startNow
  repeat' first
    | with_reducible assumption | with_reducible refine Keeps.ite ?_ ?_ | with_reducible refine Keeps.ite_snd ?_ ?_
    | with_reducible refine State.fail_keeps ?_ | with_reducible refine State.flushed_keeps ?_
    | with_reducible refine State.markStarted_keeps ?_ | with_reducible refine State.setCmd_keeps ?_
    | with_reducible refine State.runFront_keeps ?_ | simp only [Keeps.update] | with_reducible refine KeepsU.all ?_
    | (with_reducible refine Keeps.of_snd (by with_reducible assumption) ?_) | split | dsimp only

theorem State.commandStart_keeps {s : State} {id : Nat} {fails : Bool} (hk : Keeps pend tmin s) :
    Keeps pend tmin (State.commandStart s id fails) := by
  unfold State.commandStart
  repeat' first
    | with_reducible assumption | with_reducible refine Keeps.ite ?_ ?_ | with_reducible refine Keeps.ite_snd ?_ ?_
    | with_reducible refine State.startNow_keeps ?_ | with_reducible refine State.launchGraph_keeps ?_
    | (with_reducible refine Keeps.of_snd (by with_reducible assumption) ?_) | split | dsimp only

theorem execCommandStart_keeps {id : Nat} {fails : Bool} {s : State} (hk : Keeps pend tmin s) :
    KeepsR pend tmin (execCommandStart id fails s) := by
  unfold execCommandStart
  repeat' first
    | with_reducible assumption | with_reducible refine KeepsR.next ?_ | with_reducible refine State.commandStart_keeps ?_
    | split | dsimp only

theorem State.timedLaunch_keeps {s : State} {id : Nat} (hk : Keeps pend tmin s) :
    Keeps pend tmin (State.timedLaunch s id) := by
  unfold State.timedLaunch
  repeat' first
    | with_reducible assumption | with_reducible refine Keeps.ite ?_ ?_ | with_reducible refine Keeps.ite_snd ?_ ?_
    | with_reducible refine State.launchCmd_keeps ?_ | with_reducible refine State.advance_keeps ?_
    | with_reducible refine State.launchLate_keeps ?_ | with_reducible refine State.awlJoin_keeps ?_
    | with_reducible refine State.modCmd_keeps ?_ | with_reducible refine State.startNow_keeps ?_ | simp only [Keeps.update]
    | with_reducible refine KeepsU.all ?_ | (with_reducible refine Keeps.of_snd (by with_reducible assumption) ?_) | split
    | dsimp only

theorem execTimedLaunch_keeps {id : Nat} {s : State} (hk : Keeps pend tmin s) :
    KeepsR pend tmin (execTimedLaunch id s) := by
  unfold execTimedLaunch
  repeat' first
    | with_reducible assumption | with_reducible refine KeepsR.next ?_ | with_reducible refine State.timedLaunch_keeps ?_
    | split | dsimp only

theorem State.joinStart_keeps {s : State} {id : Nat} {fails : Bool} (hk : Keeps pend tmin s) :
    Keeps pend tmin (State.joinStart s id fails) := by
  unfold State.joinStart
  repeat' first
    | with_reducible assumption | with_reducible refine Keeps.ite ?_ ?_ | with_reducible refine Keeps.ite_snd ?_ ?_
    | with_reducible refine State.seqJoin_keeps ?_ | with_reducible refine State.fail_keeps ?_
    | with_reducible refine State.seqTrim_keeps ?_ | with_reducible refine State.startNow_keeps ?_
    | (with_reducible refine Keeps.of_snd (by with_reducible assumption) ?_) | split | dsimp only

theorem State.decodeFast_keeps {s : State} {id : Nat} {op : Nat} {fails : Bool} (hk : Keeps pend tmin s) :
    Keeps pend tmin (State.decodeFast s id op fails) := by
  unfold State.decodeFast
  repeat' first
    | with_reducible assumption | with_reducible refine Keeps.ite ?_ ?_ | with_reducible refine State.decodeChain_keeps ?_
    | with_reducible refine State.decodeMove_keeps ?_ | with_reducible refine State.decodeAwl_keeps ?_
    | with_reducible refine State.decodeFront_keeps ?_ | with_reducible refine State.joinStart_keeps ?_ | split | dsimp only

theorem State.metadataRead_keeps {s : State} {id : Nat} {fails : Bool} (hk : Keeps pend tmin s) :
    Keeps pend tmin (State.metadataRead s id fails) := by
  unfold State.metadataRead
  repeat' first
    | with_reducible assumption | with_reducible refine Keeps.ite ?_ ?_ | with_reducible refine Keeps.ite_snd ?_ ?_
    | with_reducible refine State.metadataDone_keeps ?_ | with_reducible refine State.startNow_keeps ?_
    | (with_reducible refine Keeps.of_snd (by with_reducible assumption) ?_) | split | dsimp only

theorem execMetadataReadComplete_keeps {id : Nat} {fails : Bool} {s : State} (hk : Keeps pend tmin s) :
    KeepsR pend tmin (execMetadataReadComplete id fails s) := by
  unfold execMetadataReadComplete
  repeat' first
    | with_reducible assumption | with_reducible refine KeepsR.next ?_ | with_reducible refine State.metadataRead_keeps ?_
    | split | dsimp only

theorem State.deferredDispatch_keeps {s : State} {id : Nat} (hk : Keeps pend tmin s) :
    Keeps pend tmin (State.deferredDispatch s id) := by
  unfold State.deferredDispatch
  repeat' first
    | with_reducible assumption | with_reducible refine Keeps.ite ?_ ?_ | with_reducible refine Keeps.ite_snd ?_ ?_
    | with_reducible refine State.deferredMove_keeps ?_ | with_reducible refine State.deferredAwl_keeps ?_
    | with_reducible refine State.startNow_keeps ?_ | (with_reducible refine Keeps.of_snd (by with_reducible assumption) ?_)
    | split | dsimp only

theorem execDeferredDispatch_keeps {id : Nat} {s : State} (hk : Keeps pend tmin s) :
    KeepsR pend tmin (execDeferredDispatch id s) := by
  unfold execDeferredDispatch
  repeat' first
    | with_reducible assumption | with_reducible refine KeepsR.next ?_
    | with_reducible refine State.deferredDispatch_keeps ?_ | split | dsimp only

theorem State.applyHeld_keeps {s : State} {c : Cmd} (hk : Keeps pend tmin s) :
    Keeps pend tmin (State.applyHeld s c) := by
  unfold State.applyHeld
  repeat' first
    | with_reducible assumption | with_reducible refine Keeps.ite ?_ ?_ | with_reducible refine Keeps.ite_snd ?_ ?_
    | with_reducible refine State.setCmd_keeps ?_ | with_reducible refine State.launchGraph_keeps ?_
    | with_reducible refine State.nodeFlags_keeps ?_ | with_reducible refine State.writeRecord_keeps ?_
    | with_reducible refine State.runFront_keeps ?_ | simp only [Keeps.update] | with_reducible refine KeepsU.all ?_
    | (with_reducible refine Keeps.of_snd (by with_reducible assumption) ?_) | split | dsimp only

theorem State.applyAllHeld_keeps {s : State} {t : Nat} (hk : Keeps pend tmin s) :
    Keeps pend tmin (State.applyAllHeld s t) := by
  unfold State.applyAllHeld
  repeat' first
    | with_reducible assumption | with_reducible refine Keeps.ite ?_ ?_ | with_reducible refine Keeps.ite_snd ?_ ?_
    | with_reducible refine State.applyHeld_keeps ?_ | with_reducible refine Keeps.foldl ?_ (fun _ _ _ => ?_)
    | with_reducible refine Keeps.foldl_snd ?_ (fun _ _ _ => ?_)
    | (with_reducible refine Keeps.of_snd (by with_reducible assumption) ?_) | split | dsimp only

theorem State.heldApply_keeps {s : State} {t : Nat} (hk : Keeps pend tmin s) :
    Keeps pend tmin (State.heldApply s t) := by
  unfold State.heldApply
  repeat' first
    | with_reducible assumption | with_reducible refine Keeps.ite ?_ ?_ | with_reducible refine State.refillReady_keeps ?_
    | with_reducible refine State.applyAllHeld_keeps ?_ | split | dsimp only

theorem execHeldSetApply_keeps {t : Tenant} {s : State} (hk : Keeps pend tmin s) :
    KeepsR pend tmin (execHeldSetApply t s) := by
  unfold execHeldSetApply
  repeat' first
    | with_reducible assumption | with_reducible refine KeepsR.next ?_ | with_reducible refine State.heldApply_keeps ?_
    | split | dsimp only

theorem State.dispatchNode_keeps {s : State} {t : Nat} {k : Nat} (hk : Keeps pend tmin s) :
    Keeps pend tmin (State.dispatchNode s t k) := by
  unfold State.dispatchNode
  repeat' first
    | with_reducible assumption | with_reducible refine Keeps.ite ?_ ?_ | with_reducible refine Keeps.ite_snd ?_ ?_
    | with_reducible refine State.modNode_keeps ?_ | with_reducible refine State.addCmd_keeps ?_
    | with_reducible refine State.refillReady_keeps ?_ | with_reducible refine State.reject_keeps ?_
    | with_reducible refine State.decodeFast_keeps ?_ | simp only [Keeps.update] | with_reducible refine KeepsU.all ?_
    | (with_reducible refine Keeps.of_snd (by with_reducible assumption) ?_) | split | dsimp only

theorem State.nodeDispatch_keeps {s : State} (hk : Keeps pend tmin s) :
    Keeps pend tmin (State.nodeDispatch s) := by
  unfold State.nodeDispatch
  repeat' first
    | with_reducible assumption | with_reducible refine State.dispatchNode_keeps ?_
    | (with_reducible refine Keeps.of_snd (by with_reducible assumption) ?_) | split | dsimp only

theorem execNodeDispatch_keeps {s : State} (hk : Keeps pend tmin s) :
    KeepsR pend tmin (execNodeDispatch s) := by
  unfold execNodeDispatch
  repeat' first
    | with_reducible assumption | with_reducible refine KeepsR.next ?_ | with_reducible refine State.nodeDispatch_keeps ?_
    | split | dsimp only

end Sys2Proof.Machine
end

