-- ==== Sys2Proof/Laws/Keeps/Arbiter.lean ====
section
/-! SUPPORT. The operations of Machine/Arbiter.lean keep the queue, rack time and the canonical forms (see Laws/Keeps). -/
namespace Sys2Proof.Machine
variable {pend : List Instr} {tmin : Nat}

theorem State.meetSeqs_keeps {s : State} {a : Arb} {reqs : List ArbReq} (hk : Keeps pend tmin s) :
    Keeps pend tmin (State.meetSeqs s a reqs) := by
  unfold State.meetSeqs
  repeat' first
    | with_reducible assumption | with_reducible refine Keeps.ite ?_ ?_ | with_reducible refine Keeps.ite_snd ?_ ?_
    | with_reducible refine Keeps.foldl ?_ (fun _ _ _ => ?_) | with_reducible refine Keeps.foldl_snd ?_ (fun _ _ _ => ?_)
    | simp only [Keeps.update] | with_reducible refine KeepsU.all ?_
    | (with_reducible refine Keeps.of_snd (by with_reducible assumption) ?_) | split | dsimp only

theorem State.beat_keeps {s : State} {lane : Nat} {a : Arb} {who : Nat} {vc : Nat} {lockedBy : Option Nat} (hk : Keeps pend tmin s) :
    Keeps pend tmin (State.beat s lane a who vc lockedBy) := by
  unfold State.beat
  repeat' first
    | with_reducible assumption | with_reducible refine Keeps.ite ?_ ?_ | with_reducible refine Keeps.ite_snd ?_ ?_
    | with_reducible refine State.setLane_keeps ?_ | with_reducible refine State.modSeq_keeps ?_ | simp only [Keeps.update]
    | with_reducible refine KeepsU.all ?_ | (with_reducible refine Keeps.of_snd (by with_reducible assumption) ?_) | split
    | dsimp only

theorem State.grant_keeps {s : State} {lane : Nat} {a : Arb} {r : ArbReq} (hk : Keeps pend tmin s) :
    Keeps pend tmin (State.grant s lane a r) := by
  unfold State.grant
  repeat' first
    | with_reducible assumption | with_reducible refine Keeps.ite ?_ ?_ | with_reducible refine State.setLane_keeps ?_
    | with_reducible refine State.beat_keeps ?_ | simp only [Keeps.update] | with_reducible refine KeepsU.all ?_ | split
    | dsimp only

theorem State.decide__keeps {s : State} {lane : Nat} {a : Arb} {reqs : List ArbReq} (hk : Keeps pend tmin s) :
    Keeps pend tmin (State.decide_ s lane a reqs) := by
  unfold State.decide_
  repeat' first
    | with_reducible assumption | with_reducible refine State.setLane_keeps ?_ | with_reducible refine State.grant_keeps ?_
    | (with_reducible refine Keeps.of_snd (by with_reducible assumption) ?_) | split | dsimp only

theorem State.holdOn_keeps {s : State} {lane : Nat} {a : Arb} {h : Nat} {reqs : List ArbReq} {locks : Option Nat} (hk : Keeps pend tmin s) :
    Keeps pend tmin (State.holdOn s lane a h reqs locks) := by
  unfold State.holdOn
  repeat' first
    | with_reducible assumption | with_reducible refine State.setLane_keeps ?_ | with_reducible refine State.beat_keeps ?_
    | with_reducible refine Keeps.foldl ?_ (fun _ _ _ => ?_) | with_reducible refine Keeps.foldl_snd ?_ (fun _ _ _ => ?_)
    | simp only [Keeps.update] | with_reducible refine KeepsU.all ?_ | split | dsimp only

theorem State.lockedBeat_keeps {s : State} {lane : Nat} {a : Arb} {h : Nat} {q : Nat} {idle : Bool} {reqs : List ArbReq} (hk : Keeps pend tmin s) :
    Keeps pend tmin (State.lockedBeat s lane a h q idle reqs) := by
  unfold State.lockedBeat
  repeat' first
    | with_reducible assumption | with_reducible refine Keeps.ite ?_ ?_ | with_reducible refine Keeps.ite_snd ?_ ?_
    | with_reducible refine State.idle_keeps ?_ | with_reducible refine State.holdOn_keeps ?_
    | with_reducible refine State.setLane_keeps ?_ | simp only [Keeps.update] | with_reducible refine KeepsU.all ?_
    | (with_reducible refine Keeps.of_snd (by with_reducible assumption) ?_) | split | dsimp only

theorem State.ordinaryBeat_keeps {s : State} {lane : Nat} {a : Arb} {h : Nat} {idle : Bool} {reqs : List ArbReq} (hk : Keeps pend tmin s) :
    Keeps pend tmin (State.ordinaryBeat s lane a h idle reqs) := by
  unfold State.ordinaryBeat
  repeat' first
    | with_reducible assumption | with_reducible refine Keeps.ite ?_ ?_ | with_reducible refine Keeps.ite_snd ?_ ?_
    | with_reducible refine State.idle_keeps ?_ | with_reducible refine State.setLane_keeps ?_
    | with_reducible refine State.decide__keeps ?_ | with_reducible refine State.bump_keeps ?_
    | with_reducible refine State.grant_keeps ?_ | with_reducible refine State.holdOn_keeps ?_ | simp only [Keeps.update]
    | with_reducible refine KeepsU.all ?_ | (with_reducible refine Keeps.of_snd (by with_reducible assumption) ?_) | split
    | dsimp only

theorem State.noteAsked_keeps {s : State} {a : Arb} {lane : Nat} {reqs : List ArbReq} (hk : Keeps pend tmin s) :
    Keeps pend tmin (State.noteAsked s a lane reqs) := by
  unfold State.noteAsked
  repeat' first
    | with_reducible assumption | with_reducible refine State.modSeq_keeps ?_
    | with_reducible refine Keeps.foldl ?_ (fun _ _ _ => ?_) | with_reducible refine Keeps.foldl_snd ?_ (fun _ _ _ => ?_)
    | simp only [Keeps.update] | with_reducible refine KeepsU.all ?_
    | (with_reducible refine Keeps.of_snd (by with_reducible assumption) ?_) | split | dsimp only

theorem State.arbitrate_keeps {s : State} {lane : Nat} {idle : Bool} {reqs : List ArbReq} (hk : Keeps pend tmin s) :
    Keeps pend tmin (State.arbitrate s lane idle reqs) := by
  unfold State.arbitrate
  repeat' first
    | with_reducible assumption | with_reducible refine Keeps.ite ?_ ?_ | with_reducible refine Keeps.ite_snd ?_ ?_
    | with_reducible refine State.meetSeqs_keeps ?_ | with_reducible refine State.noteAsked_keeps ?_
    | with_reducible refine State.beat_keeps ?_ | with_reducible refine State.decide__keeps ?_
    | with_reducible refine State.lockedBeat_keeps ?_ | with_reducible refine State.idle_keeps ?_
    | with_reducible refine State.ordinaryBeat_keeps ?_
    | (with_reducible refine Keeps.of_snd (by with_reducible assumption) ?_) | split | dsimp only

theorem execArbiterDecision_keeps {lane : Nat} {idle : Bool} {reqs : List ArbReq} {s : State} (hk : Keeps pend tmin s) :
    KeepsR pend tmin (execArbiterDecision lane idle reqs s) := by
  unfold execArbiterDecision
  repeat' first
    | with_reducible assumption | with_reducible refine KeepsR.next ?_ | with_reducible refine State.arbitrate_keeps ?_
    | with_reducible refine State.idle_keeps ?_ | split | dsimp only

theorem State.dropLocked_keeps {s : State} {q : Nat} (hk : Keeps pend tmin s) :
    Keeps pend tmin (State.dropLocked s q) := by
  unfold State.dropLocked
  repeat' first
    | with_reducible assumption | with_reducible refine Keeps.ite ?_ ?_ | simp only [Keeps.update]
    | with_reducible refine KeepsU.all ?_ | (with_reducible refine Keeps.of_snd (by with_reducible assumption) ?_) | split
    | dsimp only

theorem State.endByBound_keeps {s : State} {x : LockSeq} {beats : Bool} (hk : Keeps pend tmin s) :
    Keeps pend tmin (State.endByBound s x beats) := by
  unfold State.endByBound
  repeat' first
    | with_reducible assumption | with_reducible refine State.dropLocked_keeps ?_
    | with_reducible refine State.dropWaiting_keeps ?_ | with_reducible refine State.breakLock_keeps ?_
    | with_reducible refine State.breakSeq_keeps ?_ | with_reducible refine State.set_keeps ?_
    | with_reducible refine State.stick_keeps ?_ | with_reducible refine Keeps.foldl ?_ (fun _ _ _ => ?_)
    | with_reducible refine Keeps.foldl_snd ?_ (fun _ _ _ => ?_) | split | dsimp only

theorem State.lockedBound_keeps {s : State} {t : Nat} {q : Nat} {beats : Bool} (hk : Keeps pend tmin s) :
    Keeps pend tmin (State.lockedBound s t q beats) := by
  unfold State.lockedBound
  repeat' first
    | with_reducible assumption | with_reducible refine Keeps.ite ?_ ?_ | with_reducible refine Keeps.ite_snd ?_ ?_
    | with_reducible refine State.endByBound_keeps ?_ | with_reducible refine State.advance_keeps ?_
    | with_reducible refine Keeps.foldl ?_ (fun _ _ _ => ?_) | with_reducible refine Keeps.foldl_snd ?_ (fun _ _ _ => ?_)
    | (with_reducible refine Keeps.of_snd (by with_reducible assumption) ?_) | split | dsimp only

theorem execLockedBoundExpiry_keeps {t : Tenant} {q : Fin 72} {beats : Bool} {s : State} (hk : Keeps pend tmin s) :
    KeepsR pend tmin (execLockedBoundExpiry t q beats s) := by
  unfold execLockedBoundExpiry
  repeat' first
    | with_reducible assumption | with_reducible refine KeepsR.next ?_ | with_reducible refine State.lockedBound_keeps ?_
    | split | dsimp only

end Sys2Proof.Machine
end

