-- ==== Sys2Proof/Laws/Keeps/ReinVc.lean ====
section
/-! SUPPORT. The operations of Machine/ReinVc.lean keep the queue, rack time and the canonical forms (see Laws/Keeps). -/
namespace Sys2Proof.Machine
variable {pend : List Instr} {tmin : Nat}

theorem State.openEpoch_keeps {s : State} {d : Nat} (hk : Keeps pend tmin s) :
    Keeps pend tmin (State.openEpoch s d) := by
  unfold State.openEpoch
  repeat' first
    | with_reducible assumption | with_reducible refine Keeps.ite ?_ ?_ | with_reducible refine State.setTx_keeps ?_
    | with_reducible refine State.txSend_keeps ?_ | with_reducible refine State.txDrain_keeps ?_
    | with_reducible refine Keeps.foldl ?_ (fun _ _ _ => ?_) | with_reducible refine Keeps.foldl_snd ?_ (fun _ _ _ => ?_)
    | simp only [Keeps.update] | with_reducible refine KeepsU.all ?_
    | (with_reducible refine Keeps.of_snd (by with_reducible assumption) ?_) | split | dsimp only

theorem State.raiseEpoch_keeps {s : State} {d : Nat} (hk : Keeps pend tmin s) :
    Keeps pend tmin (State.raiseEpoch s d) := by
  unfold State.raiseEpoch
  repeat' first
    | with_reducible assumption | with_reducible refine State.set_keeps ?_ | with_reducible refine State.setTx_keeps ?_
    | with_reducible refine State.breakSeqOf_keeps ?_ | with_reducible refine State.fail_keeps ?_
    | with_reducible refine State.fault_keeps ?_ | with_reducible refine State.openEpoch_keeps ?_
    | with_reducible refine Keeps.foldl ?_ (fun _ _ _ => ?_) | with_reducible refine Keeps.foldl_snd ?_ (fun _ _ _ => ?_)
    | simp only [Keeps.update] | with_reducible refine KeepsU.all ?_
    | (with_reducible refine Keeps.of_snd (by with_reducible assumption) ?_) | split | dsimp only

theorem State.pathCheck_keeps {s : State} (hk : Keeps pend tmin s) :
    Keeps pend tmin (State.pathCheck s) := by
  unfold State.pathCheck
  repeat' first
    | with_reducible assumption | with_reducible refine Keeps.ite ?_ ?_ | with_reducible refine State.raiseEpoch_keeps ?_
    | with_reducible refine State.openEpoch_keeps ?_ | with_reducible refine State.txDrain_keeps ?_
    | with_reducible refine Keeps.foldl ?_ (fun _ _ _ => ?_) | with_reducible refine Keeps.foldl_snd ?_ (fun _ _ _ => ?_)
    | split | dsimp only

theorem State.e2eAck_keeps {s : State} {m : Msg} (hk : Keeps pend tmin s) :
    Keeps pend tmin (State.e2eAck s m) := by
  unfold State.e2eAck
  repeat' first
    | with_reducible assumption | with_reducible refine Keeps.ite ?_ ?_ | with_reducible refine Keeps.ite_snd ?_ ?_
    | with_reducible refine State.setTx_keeps ?_ | with_reducible refine State.modCmd_keeps ?_
    | with_reducible refine State.txDrain_keeps ?_ | with_reducible refine State.settle_keeps ?_
    | with_reducible refine Keeps.foldl ?_ (fun _ _ _ => ?_) | with_reducible refine Keeps.foldl_snd ?_ (fun _ _ _ => ?_)
    | simp only [Keeps.update] | with_reducible refine KeepsU.all ?_
    | (with_reducible refine Keeps.of_snd (by with_reducible assumption) ?_) | split | dsimp only

theorem State.refused_keeps {s : State} {m : Msg} (hk : Keeps pend tmin s) :
    Keeps pend tmin (State.refused s m) := by
  unfold State.refused
  repeat' first
    | with_reducible assumption | with_reducible refine Keeps.ite ?_ ?_ | with_reducible refine Keeps.ite_snd ?_ ?_
    | with_reducible refine State.endByBound_keeps ?_ | with_reducible refine State.dropReads_keeps ?_
    | with_reducible refine State.dropWaiting_keeps ?_ | with_reducible refine State.releaseLock_keeps ?_
    | with_reducible refine State.finish_keeps ?_ | with_reducible refine State.breakSeq_keeps ?_
    | (with_reducible refine Keeps.of_snd (by with_reducible assumption) ?_) | split | dsimp only

theorem State.takeReq_keeps {s : State} {m : Msg} (hk : Keeps pend tmin s) :
    Keeps pend tmin (State.takeReq s m).2 := by
  unfold State.takeReq
  repeat' first
    | with_reducible assumption | simp only [Keeps.update] | with_reducible refine KeepsU.all ?_
    | (with_reducible refine Keeps.of_snd (by with_reducible assumption) ?_) | split | dsimp only

theorem State.readCpl_keeps {s : State} {m : Msg} (hk : Keeps pend tmin s) :
    Keeps pend tmin (State.readCpl s m) := by
  unfold State.readCpl
  repeat' first
    | with_reducible assumption | with_reducible refine Keeps.ite ?_ ?_ | with_reducible refine Keeps.ite_snd ?_ ?_
    | with_reducible refine State.takeReq_keeps ?_ | with_reducible refine State.fail_keeps ?_
    | with_reducible refine State.modCmd_keeps ?_ | simp only [Keeps.update] | with_reducible refine KeepsU.all ?_
    | (with_reducible refine Keeps.of_snd (by with_reducible assumption) ?_) | split | dsimp only

theorem State.winAnswered_keeps {s : State} {m : Msg} (hk : Keeps pend tmin s) :
    Keeps pend tmin (State.winAnswered s m) := by
  unfold State.winAnswered
  repeat' first
    | with_reducible assumption | with_reducible refine State.takeReq_keeps ?_
    | with_reducible refine State.descAnswer_keeps ?_
    | (with_reducible refine Keeps.of_snd (by with_reducible assumption) ?_) | split | dsimp only

theorem State.lockGranted_keeps {s : State} {m : Msg} (hk : Keeps pend tmin s) :
    Keeps pend tmin (State.lockGranted s m) := by
  unfold State.lockGranted
  repeat' first
    | with_reducible assumption | with_reducible refine Keeps.ite ?_ ?_ | with_reducible refine Keeps.ite_snd ?_ ?_
    | with_reducible refine State.takeReq_keeps ?_ | with_reducible refine State.setCmd_keeps ?_
    | with_reducible refine State.acquired_keeps ?_ | with_reducible refine State.vc1_keeps ?_ | simp only [Keeps.update]
    | with_reducible refine KeepsU.all ?_ | (with_reducible refine Keeps.of_snd (by with_reducible assumption) ?_) | split
    | dsimp only

theorem State.lockBusy_keeps {s : State} {m : Msg} (hk : Keeps pend tmin s) :
    Keeps pend tmin (State.lockBusy s m) := by
  unfold State.lockBusy
  repeat' first
    | with_reducible assumption | with_reducible refine Keeps.ite ?_ ?_ | with_reducible refine Keeps.ite_snd ?_ ?_
    | with_reducible refine State.takeReq_keeps ?_ | with_reducible refine State.draw_keeps ?_
    | with_reducible refine State.setCmd_keeps ?_ | with_reducible refine State.stick_keeps ?_
    | with_reducible refine State.releaseLock_keeps ?_ | with_reducible refine State.vc0_keeps ?_ | simp only [Keeps.update]
    | with_reducible refine KeepsU.all ?_ | (with_reducible refine Keeps.of_snd (by with_reducible assumption) ?_) | split
    | dsimp only

theorem State.barAck_keeps {s : State} {m : Msg} (hk : Keeps pend tmin s) :
    Keeps pend tmin (State.barAck s m) := by
  unfold State.barAck
  repeat' first
    | with_reducible assumption | with_reducible refine Keeps.ite ?_ ?_ | with_reducible refine Keeps.ite_snd ?_ ?_
    | with_reducible refine State.fail_keeps ?_ | with_reducible refine State.setCmd_keeps ?_ | simp only [Keeps.update]
    | with_reducible refine KeepsU.all ?_ | (with_reducible refine Keeps.of_snd (by with_reducible assumption) ?_) | split
    | dsimp only

theorem State.pathLost_keeps {s : State} {m : Msg} (hk : Keeps pend tmin s) :
    Keeps pend tmin (State.pathLost s m) := by
  unfold State.pathLost
  repeat' first
    | with_reducible assumption | with_reducible refine State.raiseEpoch_keeps ?_ | split | dsimp only

theorem State.gapNak_keeps {s : State} {m : Msg} (hk : Keeps pend tmin s) :
    Keeps pend tmin (State.gapNak s m) := by
  unfold State.gapNak
  repeat' first
    | with_reducible assumption | with_reducible refine State.raiseEpoch_keeps ?_ | split | dsimp only

theorem State.setRx_keeps {s : State} {d : Nat} {p : RxPair} (hk : Keeps pend tmin s) :
    Keeps pend tmin (State.setRx s d p) := by
  unfold State.setRx
  repeat' first
    | with_reducible assumption | simp only [Keeps.update] | with_reducible refine KeepsU.all ?_ | split | dsimp only

theorem State.answer_keeps {s : State} {m : Msg} {a : Msg} (hk : Keeps pend tmin s) :
    Keeps pend tmin (State.answer s m a) := by
  unfold State.answer
  repeat' first
    | with_reducible assumption | with_reducible refine State.originate_keeps ?_ | simp only [Keeps.update]
    | with_reducible refine KeepsU.all ?_ | split | dsimp only

theorem State.sendAck_keeps {s : State} {d : Nat} (hk : Keeps pend tmin s) :
    Keeps pend tmin (State.sendAck s d) := by
  unfold State.sendAck
  repeat' first
    | with_reducible assumption | with_reducible refine State.setRx_keeps ?_
    | with_reducible refine State.originate_keeps ?_ | simp only [Keeps.update] | with_reducible refine KeepsU.all ?_
    | split | dsimp only

theorem State.inboundCheck_keeps {s : State} {port : Nat} {m : Msg} {n : Nat} {wr : Bool} (hk : Keeps pend tmin s) :
    Keeps pend tmin (State.inboundCheck s port m n wr).2 := by
  unfold State.inboundCheck
  repeat' first
    | with_reducible assumption | with_reducible refine Keeps.ite ?_ ?_ | with_reducible refine Keeps.ite_snd ?_ ?_
    | with_reducible refine State.bridleRange_keeps ?_ | with_reducible refine State.wr_keeps ?_
    | (with_reducible refine Keeps.of_snd (by with_reducible assumption) ?_) | split | dsimp only

theorem State.accept_keeps {s : State} {m : Msg} (hk : Keeps pend tmin s) :
    Keeps pend tmin (State.accept s m) := by
  unfold State.accept
  repeat' first
    | with_reducible assumption | with_reducible refine Keeps.ite ?_ ?_ | simp only [Keeps.update]
    | with_reducible refine KeepsU.all ?_ | split | dsimp only

theorem State.refuse_keeps {s : State} {m : Msg} {st : Nat} (hk : Keeps pend tmin s) :
    Keeps pend tmin (State.refuse s m st) := by
  unfold State.refuse
  repeat' first
    | with_reducible assumption | with_reducible refine Keeps.ite ?_ ?_ | with_reducible refine State.refused_keeps ?_
    | with_reducible refine State.setRx_keeps ?_ | with_reducible refine State.answer_keeps ?_ | simp only [Keeps.update]
    | with_reducible refine KeepsU.all ?_ | split | dsimp only

theorem State.unlessRestart_keeps {s : State} {m : Msg} {k : State} (h : Keeps pend tmin s) (hk : Keeps pend tmin k) :
    Keeps pend tmin (State.unlessRestart s m k) := Keeps.ite (State.refuse_keeps h) hk

theorem State.readReq_keeps {s : State} {port : Nat} {m : Msg} (hk : Keeps pend tmin s) :
    Keeps pend tmin (State.readReq s port m) := by
  unfold State.readReq
  repeat' first
    | with_reducible assumption | with_reducible refine Keeps.ite ?_ ?_ | with_reducible refine Keeps.ite_snd ?_ ?_
    | with_reducible refine State.unlessRestart_keeps ?_ ?_ | with_reducible refine State.inboundCheck_keeps ?_
    | with_reducible refine State.refuse_keeps ?_ | with_reducible refine State.accept_keeps ?_
    | with_reducible refine State.csrRead_keeps ?_ | with_reducible refine State.answer_keeps ?_
    | with_reducible refine State.memRead_keeps ?_ | with_reducible refine Keeps.foldl ?_ (fun _ _ _ => ?_)
    | with_reducible refine Keeps.foldl_snd ?_ (fun _ _ _ => ?_) | simp only [Keeps.update]
    | with_reducible refine KeepsU.all ?_ | (with_reducible refine Keeps.of_snd (by with_reducible assumption) ?_) | split
    | dsimp only

theorem State.winQuery_keeps {s : State} {m : Msg} (hk : Keeps pend tmin s) :
    Keeps pend tmin (State.winQuery s m) := by
  unfold State.winQuery
  repeat' first
    | with_reducible assumption | with_reducible refine State.unlessRestart_keeps ?_ ?_
    | with_reducible refine State.answer_keeps ?_ | split | dsimp only

theorem State.lockReq_keeps {s : State} {m : Msg} (hk : Keeps pend tmin s) :
    Keeps pend tmin (State.lockReq s m) := by
  unfold State.lockReq
  repeat' first
    | with_reducible assumption | with_reducible refine Keeps.ite ?_ ?_ | with_reducible refine Keeps.ite_snd ?_ ?_
    | with_reducible refine State.unlessRestart_keeps ?_ ?_ | with_reducible refine State.refuse_keeps ?_
    | with_reducible refine State.setLock_keeps ?_ | with_reducible refine State.grantRemote_keeps ?_
    | simp only [Keeps.update] | with_reducible refine KeepsU.all ?_
    | (with_reducible refine Keeps.of_snd (by with_reducible assumption) ?_) | split | dsimp only

theorem State.writeIn_keeps {s : State} {port : Nat} {m : Msg} (hk : Keeps pend tmin s) :
    Keeps pend tmin (State.writeIn s port m) := by
  unfold State.writeIn
  repeat' first
    | with_reducible assumption | with_reducible refine Keeps.ite ?_ ?_ | with_reducible refine Keeps.ite_snd ?_ ?_
    | with_reducible refine State.inboundCheck_keeps ?_ | with_reducible refine State.refuse_keeps ?_
    | with_reducible refine State.accept_keeps ?_ | with_reducible refine State.csrWrite_keeps ?_
    | with_reducible refine State.memWrite_keeps ?_ | with_reducible refine Keeps.foldl ?_ (fun _ _ _ => ?_)
    | with_reducible refine Keeps.foldl_snd ?_ (fun _ _ _ => ?_)
    | (with_reducible refine Keeps.of_snd (by with_reducible assumption) ?_) | split | dsimp only

theorem State.signalIn_keeps {s : State} {m : Msg} (hk : Keeps pend tmin s) :
    Keeps pend tmin (State.signalIn s m) := by
  unfold State.signalIn
  repeat' first
    | with_reducible assumption | with_reducible refine State.sigRemote_keeps ?_
    | with_reducible refine State.accept_keeps ?_ | split | dsimp only

theorem State.barArriveIn_keeps {s : State} {m : Msg} (hk : Keeps pend tmin s) :
    Keeps pend tmin (State.barArriveIn s m) := by
  unfold State.barArriveIn
  repeat' first
    | with_reducible assumption | with_reducible refine State.barArrive_keeps ?_
    | with_reducible refine State.answer_keeps ?_ | with_reducible refine State.refuse_keeps ?_ | simp only [Keeps.update]
    | with_reducible refine KeepsU.all ?_ | (with_reducible refine Keeps.of_snd (by with_reducible assumption) ?_)
    | (with_reducible refine Keeps.of_some_snd (by with_reducible assumption) ?_) | with_reducible exact KeepsOP.none
    | with_reducible refine KeepsOP.some ?_ | with_reducible refine KeepsOP.ite ?_ ?_ | split | dsimp only

theorem State.phaseDone_keeps {s : State} {m : Msg} (hk : Keeps pend tmin s) :
    Keeps pend tmin (State.phaseDone s m) := by
  unfold State.phaseDone
  repeat' first
    | with_reducible assumption | with_reducible refine Keeps.ite ?_ ?_ | with_reducible refine State.releaseBar_keeps ?_
    | simp only [Keeps.update] | with_reducible refine KeepsU.all ?_ | split | dsimp only

theorem State.lockReleaseIn_keeps {s : State} {m : Msg} (hk : Keeps pend tmin s) :
    Keeps pend tmin (State.lockReleaseIn s m) := by
  unfold State.lockReleaseIn
  repeat' first
    | with_reducible assumption | with_reducible refine Keeps.ite ?_ ?_ | with_reducible refine Keeps.ite_snd ?_ ?_
    | with_reducible refine State.setLock_keeps ?_ | with_reducible refine State.releaseLock_keeps ?_
    | simp only [Keeps.update] | with_reducible refine KeepsU.all ?_
    | (with_reducible refine Keeps.of_snd (by with_reducible assumption) ?_) | split | dsimp only

theorem State.staleNotice_keeps {s : State} {m : Msg} (hk : Keeps pend tmin s) :
    Keeps pend tmin (State.staleNotice s m) := by
  unfold State.staleNotice
  repeat' first
    | with_reducible assumption | with_reducible refine Keeps.ite ?_ ?_ | with_reducible refine Keeps.ite_snd ?_ ?_
    | with_reducible refine State.cntFlag_keeps ?_ | with_reducible refine State.ridx_keeps ?_
    | (with_reducible refine Keeps.of_snd (by with_reducible assumption) ?_) | split | dsimp only

theorem State.epochOpen_keeps {s : State} {m : Msg} (hk : Keeps pend tmin s) :
    Keeps pend tmin (State.epochOpen s m) := by
  unfold State.epochOpen
  repeat' first
    | with_reducible assumption | with_reducible refine Keeps.ite ?_ ?_ | with_reducible refine State.setRx_keeps ?_
    | with_reducible refine State.refused_keeps ?_ | with_reducible refine State.set_keeps ?_
    | with_reducible refine State.stickIrq_keeps ?_ | with_reducible refine State.sendAck_keeps ?_
    | with_reducible refine State.stick_keeps ?_ | simp only [Keeps.update] | with_reducible refine KeepsU.all ?_ | split
    | dsimp only

theorem State.seqDone_keeps {s : State} {m : Msg} (hk : Keeps pend tmin s) :
    Keeps pend tmin (State.seqDone s m) := by
  unfold State.seqDone
  repeat' first
    | with_reducible assumption | with_reducible refine Keeps.ite ?_ ?_ | with_reducible refine Keeps.ite_snd ?_ ?_
    | with_reducible refine State.dropLocked_keeps ?_ | with_reducible refine State.seqClose_keeps ?_
    | (with_reducible refine Keeps.of_snd (by with_reducible assumption) ?_) | split | dsimp only

theorem State.unlessEnded_keeps {s : State} {m : Msg} {k : State → State} (h : Keeps pend tmin s)
    (hf : ∀ u, Keeps pend tmin u → Keeps pend tmin (k u)) : Keeps pend tmin (State.unlessEnded s m k) := by
  unfold State.unlessEnded
  split
  · exact Keeps.ite (State.refuse_keeps (State.seqClose_keeps h)) (hf _ (State.seqDone_keeps h))
  · exact hf _ (State.seqDone_keeps h)

theorem State.vc1Effect_keeps {s : State} {port : Nat} {m : Msg} (hk : Keeps pend tmin s) :
    Keeps pend tmin (State.vc1Effect s port m) := by
  unfold State.vc1Effect
  repeat' first
    | with_reducible assumption | with_reducible refine State.unlessRestart_keeps ?_ ?_
    | with_reducible refine State.writeIn_keeps ?_ | with_reducible refine State.signalIn_keeps ?_
    | with_reducible refine State.barArriveIn_keeps ?_ | with_reducible refine State.phaseDone_keeps ?_
    | with_reducible refine State.lockReleaseIn_keeps ?_ | with_reducible refine State.staleNotice_keeps ?_
    | (with_reducible refine Keeps.of_snd (by with_reducible assumption) ?_) | split | dsimp only

theorem State.vc1In_keeps {s : State} {port : Nat} {m : Msg} (hk : Keeps pend tmin s) :
    Keeps pend tmin (State.vc1In s port m) := by
  unfold State.vc1In
  repeat' first
    | with_reducible assumption | with_reducible refine Keeps.ite ?_ ?_ | with_reducible refine State.wake_keeps ?_
    | with_reducible refine State.epochOpen_keeps ?_ | with_reducible refine State.stick_keeps ?_
    | with_reducible refine State.setRx_keeps ?_ | with_reducible refine State.answer_keeps ?_
    | with_reducible refine State.refused_keeps ?_ | with_reducible refine State.unlessEnded_keeps ?_ (fun _ _ => ?_)
    | with_reducible refine State.vc1Effect_keeps ?_ | with_reducible refine State.sendAck_keeps ?_
    | simp only [Keeps.update] | with_reducible refine KeepsU.all ?_ | split | dsimp only

theorem State.vc02In_keeps {s : State} {port : Nat} {m : Msg} (hk : Keeps pend tmin s) :
    Keeps pend tmin (State.vc02In s port m) := by
  unfold State.vc02In
  repeat' first
    | with_reducible assumption | with_reducible refine Keeps.ite ?_ ?_ | with_reducible refine Keeps.ite_snd ?_ ?_
    | with_reducible refine State.wake_keeps ?_ | with_reducible refine State.unlessEnded_keeps ?_ (fun _ _ => ?_)
    | with_reducible refine State.readReq_keeps ?_ | with_reducible refine State.winQuery_keeps ?_
    | with_reducible refine State.lockReq_keeps ?_ | with_reducible refine State.readCpl_keeps ?_
    | with_reducible refine State.winAnswered_keeps ?_ | with_reducible refine State.lockGranted_keeps ?_
    | with_reducible refine State.lockBusy_keeps ?_ | with_reducible refine State.barAck_keeps ?_
    | with_reducible refine State.e2eAck_keeps ?_ | with_reducible refine State.refused_keeps ?_
    | with_reducible refine State.pathLost_keeps ?_ | with_reducible refine State.gapNak_keeps ?_ | simp only [Keeps.update]
    | with_reducible refine KeepsU.all ?_ | (with_reducible refine Keeps.of_snd (by with_reducible assumption) ?_) | split
    | dsimp only

theorem State.ackTimer_keeps {s : State} {d : Nat} (hk : Keeps pend tmin s) :
    Keeps pend tmin (State.ackTimer s d) := by
  unfold State.ackTimer
  repeat' first
    | with_reducible assumption | with_reducible refine State.advance_keeps ?_
    | with_reducible refine State.sendAck_keeps ?_ | (with_reducible refine Keeps.of_snd (by with_reducible assumption) ?_)
    | split | dsimp only

theorem State.e2eTimeout_keeps {s : State} {d : Nat} (hk : Keeps pend tmin s) :
    Keeps pend tmin (State.e2eTimeout s d) := by
  unfold State.e2eTimeout
  repeat' first
    | with_reducible assumption | with_reducible refine State.advance_keeps ?_
    | with_reducible refine State.raiseEpoch_keeps ?_
    | (with_reducible refine Keeps.of_snd (by with_reducible assumption) ?_) | split | dsimp only

theorem State.requestTimeout_keeps {s : State} {tag : Nat} (hk : Keeps pend tmin s) :
    Keeps pend tmin (State.requestTimeout s tag) := by
  unfold State.requestTimeout
  repeat' first
    | with_reducible assumption | with_reducible refine Keeps.ite ?_ ?_ | with_reducible refine Keeps.ite_snd ?_ ?_
    | with_reducible refine State.advance_keeps ?_ | with_reducible refine State.releaseLock_keeps ?_
    | with_reducible refine State.fail_keeps ?_ | with_reducible refine State.breakSeq_keeps ?_ | simp only [Keeps.update]
    | with_reducible refine KeepsU.all ?_ | (with_reducible refine Keeps.of_snd (by with_reducible assumption) ?_) | split
    | dsimp only

theorem execReadReq_keeps {p : Port} {m : Msg} {s : State} (hk : Keeps pend tmin s) :
    KeepsR pend tmin (execReadReq p m s) := by
  unfold execReadReq
  repeat' first
    | with_reducible assumption | with_reducible refine KeepsR.next ?_ | with_reducible refine State.vc02In_keeps ?_ | split
    | dsimp only

theorem execWinQuery_keeps {m : Msg} {s : State} (hk : Keeps pend tmin s) :
    KeepsR pend tmin (execWinQuery m s) := by
  unfold execWinQuery
  repeat' first
    | with_reducible assumption | with_reducible refine KeepsR.next ?_ | with_reducible refine State.vc02In_keeps ?_ | split
    | dsimp only

theorem execLockReq_keeps {p : Port} {m : Msg} {s : State} (hk : Keeps pend tmin s) :
    KeepsR pend tmin (execLockReq p m s) := by
  unfold execLockReq
  repeat' first
    | with_reducible assumption | with_reducible refine KeepsR.next ?_ | with_reducible refine State.vc02In_keeps ?_ | split
    | dsimp only

theorem execReinSignal_keeps {p : Port} {m : Msg} {s : State} (hk : Keeps pend tmin s) :
    KeepsR pend tmin (execReinSignal p m s) := by
  unfold execReinSignal
  repeat' first
    | with_reducible assumption | with_reducible refine KeepsR.next ?_ | with_reducible refine State.vc1In_keeps ?_ | split
    | dsimp only

theorem execBarArrive_keeps {p : Port} {m : Msg} {s : State} (hk : Keeps pend tmin s) :
    KeepsR pend tmin (execBarArrive p m s) := by
  unfold execBarArrive
  repeat' first
    | with_reducible assumption | with_reducible refine KeepsR.next ?_ | with_reducible refine State.vc1In_keeps ?_ | split
    | dsimp only

theorem execPhaseDone_keeps {p : Port} {m : Msg} {s : State} (hk : Keeps pend tmin s) :
    KeepsR pend tmin (execPhaseDone p m s) := by
  unfold execPhaseDone
  repeat' first
    | with_reducible assumption | with_reducible refine KeepsR.next ?_ | with_reducible refine State.vc1In_keeps ?_ | split
    | dsimp only

theorem execReinLockRelease_keeps {p : Port} {m : Msg} {s : State} (hk : Keeps pend tmin s) :
    KeepsR pend tmin (execReinLockRelease p m s) := by
  unfold execReinLockRelease
  repeat' first
    | with_reducible assumption | with_reducible refine KeepsR.next ?_ | with_reducible refine State.vc1In_keeps ?_ | split
    | dsimp only

theorem execEpochOpen_keeps {p : Port} {m : Msg} {s : State} (hk : Keeps pend tmin s) :
    KeepsR pend tmin (execEpochOpen p m s) := by
  unfold execEpochOpen
  repeat' first
    | with_reducible assumption | with_reducible refine KeepsR.next ?_ | with_reducible refine State.vc1In_keeps ?_ | split
    | dsimp only

theorem execStaleNotice_keeps {p : Port} {m : Msg} {s : State} (hk : Keeps pend tmin s) :
    KeepsR pend tmin (execStaleNotice p m s) := by
  unfold execStaleNotice
  repeat' first
    | with_reducible assumption | with_reducible refine KeepsR.next ?_ | with_reducible refine State.vc1In_keeps ?_ | split
    | dsimp only

theorem execReadCpl_keeps {m : Msg} {s : State} (hk : Keeps pend tmin s) :
    KeepsR pend tmin (execReadCpl m s) := by
  unfold execReadCpl
  repeat' first
    | with_reducible assumption | with_reducible refine KeepsR.next ?_ | with_reducible refine State.vc02In_keeps ?_ | split
    | dsimp only

theorem execWinAnswer_keeps {m : Msg} {s : State} (hk : Keeps pend tmin s) :
    KeepsR pend tmin (execWinAnswer m s) := by
  unfold execWinAnswer
  repeat' first
    | with_reducible assumption | with_reducible refine KeepsR.next ?_ | with_reducible refine State.vc02In_keeps ?_ | split
    | dsimp only

theorem execLockGrant_keeps {m : Msg} {s : State} (hk : Keeps pend tmin s) :
    KeepsR pend tmin (execLockGrant m s) := by
  unfold execLockGrant
  repeat' first
    | with_reducible assumption | with_reducible refine KeepsR.next ?_ | with_reducible refine State.vc02In_keeps ?_ | split
    | dsimp only

theorem execLockBusy_keeps {m : Msg} {s : State} (hk : Keeps pend tmin s) :
    KeepsR pend tmin (execLockBusy m s) := by
  unfold execLockBusy
  repeat' first
    | with_reducible assumption | with_reducible refine KeepsR.next ?_ | with_reducible refine State.vc02In_keeps ?_ | split
    | dsimp only

theorem execBarAck_keeps {m : Msg} {s : State} (hk : Keeps pend tmin s) :
    KeepsR pend tmin (execBarAck m s) := by
  unfold execBarAck
  repeat' first
    | with_reducible assumption | with_reducible refine KeepsR.next ?_ | with_reducible refine State.vc02In_keeps ?_ | split
    | dsimp only

theorem execE2eAck_keeps {m : Msg} {s : State} (hk : Keeps pend tmin s) :
    KeepsR pend tmin (execE2eAck m s) := by
  unfold execE2eAck
  repeat' first
    | with_reducible assumption | with_reducible refine KeepsR.next ?_ | with_reducible refine State.vc02In_keeps ?_ | split
    | dsimp only

theorem execRefuse_keeps {m : Msg} {s : State} (hk : Keeps pend tmin s) :
    KeepsR pend tmin (execRefuse m s) := by
  unfold execRefuse
  repeat' first
    | with_reducible assumption | with_reducible refine KeepsR.next ?_ | with_reducible refine State.vc02In_keeps ?_ | split
    | dsimp only

theorem execPathLost_keeps {m : Msg} {s : State} (hk : Keeps pend tmin s) :
    KeepsR pend tmin (execPathLost m s) := by
  unfold execPathLost
  repeat' first
    | with_reducible assumption | with_reducible refine KeepsR.next ?_ | with_reducible refine State.vc02In_keeps ?_ | split
    | dsimp only

theorem execGapNak_keeps {m : Msg} {s : State} (hk : Keeps pend tmin s) :
    KeepsR pend tmin (execGapNak m s) := by
  unfold execGapNak
  repeat' first
    | with_reducible assumption | with_reducible refine KeepsR.next ?_ | with_reducible refine State.vc02In_keeps ?_ | split
    | dsimp only

theorem execE2eAckTimer_keeps {d : Chip} {s : State} (hk : Keeps pend tmin s) :
    KeepsR pend tmin (execE2eAckTimer d s) := by
  unfold execE2eAckTimer
  repeat' first
    | with_reducible assumption | with_reducible refine KeepsR.next ?_ | with_reducible refine State.ackTimer_keeps ?_
    | split | dsimp only

theorem execE2eTimeout_keeps {d : Chip} {s : State} (hk : Keeps pend tmin s) :
    KeepsR pend tmin (execE2eTimeout d s) := by
  unfold execE2eTimeout
  repeat' first
    | with_reducible assumption | with_reducible refine KeepsR.next ?_ | with_reducible refine State.e2eTimeout_keeps ?_
    | split | dsimp only

theorem execRequestTimeout_keeps {tag : Nat} {s : State} (hk : Keeps pend tmin s) :
    KeepsR pend tmin (execRequestTimeout tag s) := by
  unfold execRequestTimeout
  repeat' first
    | with_reducible assumption | with_reducible refine KeepsR.next ?_ | with_reducible refine State.requestTimeout_keeps ?_
    | split | dsimp only

end Sys2Proof.Machine
end

