-- ==== Sys2Proof/Laws/Keeps/ReinLink.lean ====
section
/-! SUPPORT. The operations of Machine/ReinLink.lean keep the queue, rack time and the canonical forms (see Laws/Keeps). -/
namespace Sys2Proof.Machine
variable {pend : List Instr} {tmin : Nat}

theorem State.setPortState_keeps {s : State} {n : Nat} {st : Nat} (hk : Keeps pend tmin s) :
    Keeps pend tmin (State.setPortState s n st) := by
  unfold State.setPortState
  repeat' first
    | with_reducible assumption | with_reducible refine Keeps.ite ?_ ?_ | with_reducible refine State.set_keeps ?_
    | with_reducible refine State.trace_keeps ?_ | split | dsimp only

theorem State.truncate_keeps {s : State} {n : Nat} (hk : Keeps pend tmin s) :
    Keeps pend tmin (State.truncate s n) := by
  unfold State.truncate
  repeat' first
    | with_reducible assumption | simp only [Keeps.update] | with_reducible refine KeepsU.all ?_
    | (with_reducible refine Keeps.of_snd (by with_reducible assumption) ?_) | split | dsimp only

theorem State.portLost_keeps {s : State} {n : Nat} {st : Nat} {cause : Nat} (hk : Keeps pend tmin s) :
    Keeps pend tmin (State.portLost s n st cause) := by
  unfold State.portLost
  repeat' first
    | with_reducible assumption | with_reducible refine Keeps.ite ?_ ?_ | with_reducible refine State.truncate_keeps ?_
    | with_reducible refine State.setPort_keeps ?_ | with_reducible refine State.setPortState_keeps ?_
    | with_reducible refine State.set_keeps ?_ | with_reducible refine State.stickIrq_keeps ?_
    | with_reducible refine State.fault_keeps ?_ | with_reducible refine State.raiseEpoch_keeps ?_
    | with_reducible refine State.originate_keeps ?_ | with_reducible refine State.pathCheck_keeps ?_
    | with_reducible refine Keeps.foldl ?_ (fun _ _ _ => ?_) | with_reducible refine Keeps.foldl_snd ?_ (fun _ _ _ => ?_)
    | simp only [Keeps.update] | with_reducible refine KeepsU.all ?_
    | (with_reducible refine Keeps.of_snd (by with_reducible assumption) ?_) | split | dsimp only

theorem State.portEnable_keeps {s : State} {n : Nat} {en : Bool} (hk : Keeps pend tmin s) :
    Keeps pend tmin (State.portEnable s n en) := by
  unfold State.portEnable
  repeat' first
    | with_reducible assumption | with_reducible refine Keeps.ite ?_ ?_ | with_reducible refine State.set_keeps ?_
    | with_reducible refine State.setPortState_keeps ?_ | with_reducible refine State.portLost_keeps ?_ | split | dsimp only

theorem execPortEnable_keeps {p : Port} {en : Bool} {s : State} (hk : Keeps pend tmin s) :
    KeepsR pend tmin (execPortEnable p en s) := by
  unfold execPortEnable
  repeat' first
    | with_reducible assumption | with_reducible refine KeepsR.next ?_ | with_reducible refine Keeps.ite ?_ ?_
    | with_reducible refine KeepsR.ite ?_ ?_ | with_reducible refine State.portEnable_keeps ?_ | split | dsimp only

theorem State.trainStep_keeps {s : State} {n : Nat} {half : Bool} (hk : Keeps pend tmin s) :
    Keeps pend tmin (State.trainStep s n half) := by
  unfold State.trainStep
  repeat' first
    | with_reducible assumption | with_reducible refine Keeps.ite ?_ ?_ | with_reducible refine Keeps.ite_snd ?_ ?_
    | with_reducible refine State.setPortState_keeps ?_ | with_reducible refine State.set_keeps ?_
    | (with_reducible refine Keeps.of_snd (by with_reducible assumption) ?_) | split | dsimp only

theorem execTrainingStateAdvance_keeps {p : Port} {half : Bool} {s : State} (hk : Keeps pend tmin s) :
    KeepsR pend tmin (execTrainingStateAdvance p half s) := by
  unfold execTrainingStateAdvance
  repeat' first
    | with_reducible assumption | with_reducible refine KeepsR.next ?_ | with_reducible refine State.trainStep_keeps ?_
    | split | dsimp only

theorem State.portUp_keeps {s : State} {n : Nat} {chip : Nat} {port : Nat} (hk : Keeps pend tmin s) :
    Keeps pend tmin (State.portUp s n chip port) := by
  unfold State.portUp
  repeat' first
    | with_reducible assumption | with_reducible refine State.set_keeps ?_ | with_reducible refine State.setPort_keeps ?_
    | with_reducible refine State.setPortState_keeps ?_ | with_reducible refine State.pathCheck_keeps ?_
    | simp only [Keeps.update] | with_reducible refine KeepsU.all ?_ | split | dsimp only

theorem State.paramExchange_keeps {s : State} {n : Nat} {serial : Nat} {chip : Nat} {port : Nat} {major : Nat} {width : Bool} (hk : Keeps pend tmin s) :
    Keeps pend tmin (State.paramExchange s n serial chip port major width) := by
  unfold State.paramExchange
  repeat' first
    | with_reducible assumption | with_reducible refine Keeps.ite ?_ ?_ | with_reducible refine State.setPort_keeps ?_
    | with_reducible refine State.set_keeps ?_ | with_reducible refine State.portLost_keeps ?_
    | with_reducible refine State.stickIrq_keeps ?_ | with_reducible refine State.portUp_keeps ?_ | simp only [Keeps.update]
    | with_reducible refine KeepsU.all ?_ | split | dsimp only

theorem execParamExchange_keeps {p : Port} {serial : DWord} {chip : Chip} {port : Port} {major : BitVec 8} {width : Bool} {s : State} (hk : Keeps pend tmin s) :
    KeepsR pend tmin (execParamExchange p serial chip port major width s) := by
  unfold execParamExchange
  repeat' first
    | with_reducible assumption | with_reducible refine KeepsR.next ?_ | with_reducible refine State.paramExchange_keeps ?_
    | split | dsimp only

theorem State.downRetry_keeps {s : State} {n : Nat} (hk : Keeps pend tmin s) :
    Keeps pend tmin (State.downRetry s n) := by
  unfold State.downRetry
  repeat' first
    | with_reducible assumption | with_reducible refine Keeps.ite ?_ ?_ | with_reducible refine State.setPortState_keeps ?_
    | split | dsimp only

theorem execDownRetry_keeps {p : Port} {s : State} (hk : Keeps pend tmin s) :
    KeepsR pend tmin (execDownRetry p s) := by
  unfold execDownRetry
  repeat' first
    | with_reducible assumption | with_reducible refine KeepsR.next ?_ | with_reducible refine State.downRetry_keeps ?_
    | split | dsimp only

theorem State.trainingBound_keeps {s : State} {n : Nat} (hk : Keeps pend tmin s) :
    Keeps pend tmin (State.trainingBound s n) := by
  unfold State.trainingBound
  repeat' first
    | with_reducible assumption | with_reducible refine Keeps.ite ?_ ?_ | with_reducible refine State.portLost_keeps ?_
    | split | dsimp only

theorem execTrainingBoundExpiry_keeps {p : Port} {s : State} (hk : Keeps pend tmin s) :
    KeepsR pend tmin (execTrainingBoundExpiry p s) := by
  unfold execTrainingBoundExpiry
  repeat' first
    | with_reducible assumption | with_reducible refine KeepsR.next ?_ | with_reducible refine State.trainingBound_keeps ?_
    | split | dsimp only

theorem State.retrain_keeps {s : State} {n : Nat} (hk : Keeps pend tmin s) :
    Keeps pend tmin (State.retrain s n) := by
  unfold State.retrain
  repeat' first
    | with_reducible assumption | with_reducible refine Keeps.ite ?_ ?_ | with_reducible refine State.setPort_keeps ?_
    | with_reducible refine State.setPortState_keeps ?_ | simp only [Keeps.update] | with_reducible refine KeepsU.all ?_
    | split | dsimp only

theorem execRetrainTrigger_keeps {p : Port} {s : State} (hk : Keeps pend tmin s) :
    KeepsR pend tmin (execRetrainTrigger p s) := by
  unfold execRetrainTrigger
  repeat' first
    | with_reducible assumption | with_reducible refine KeepsR.next ?_ | with_reducible refine State.retrain_keeps ?_
    | split | dsimp only

theorem State.replayAll_keeps {s : State} {n : Nat} (hk : Keeps pend tmin s) :
    Keeps pend tmin (State.replayAll s n) := by
  unfold State.replayAll
  repeat' first
    | with_reducible assumption | with_reducible refine State.emitFlit_keeps ?_ | with_reducible refine State.bump_keeps ?_
    | with_reducible refine Keeps.foldl ?_ (fun _ _ _ => ?_) | with_reducible refine Keeps.foldl_snd ?_ (fun _ _ _ => ?_)
    | (with_reducible refine Keeps.of_snd (by with_reducible assumption) ?_) | split | dsimp only

theorem State.retrainEnd_keeps {s : State} {n : Nat} {ok : Bool} {half : Bool} (hk : Keeps pend tmin s) :
    Keeps pend tmin (State.retrainEnd s n ok half) := by
  unfold State.retrainEnd
  repeat' first
    | with_reducible assumption | with_reducible refine Keeps.ite ?_ ?_ | with_reducible refine State.set_keeps ?_
    | with_reducible refine State.setPortState_keeps ?_ | with_reducible refine State.stick_keeps ?_
    | with_reducible refine State.replayAll_keeps ?_ | with_reducible refine State.pump_keeps ?_
    | with_reducible refine State.pathCheck_keeps ?_ | with_reducible refine State.setPort_keeps ?_
    | with_reducible refine State.portLost_keeps ?_ | simp only [Keeps.update] | with_reducible refine KeepsU.all ?_ | split
    | dsimp only

theorem execRetrainAttemptEnd_keeps {p : Port} {ok : Bool} {half : Bool} {s : State} (hk : Keeps pend tmin s) :
    KeepsR pend tmin (execRetrainAttemptEnd p ok half s) := by
  unfold execRetrainAttemptEnd
  repeat' first
    | with_reducible assumption | with_reducible refine KeepsR.next ?_ | with_reducible refine State.retrainEnd_keeps ?_
    | split | dsimp only

theorem State.lackTo_keeps {s : State} {n : Nat} {lack : Nat} (hk : Keeps pend tmin s) :
    Keeps pend tmin (State.lackTo s n lack) := by
  unfold State.lackTo
  repeat' first
    | with_reducible assumption | with_reducible refine State.setPort_keeps ?_ | simp only [Keeps.update]
    | with_reducible refine KeepsU.all ?_ | split | dsimp only

theorem State.nakIn_keeps {s : State} {n : Nat} {lack : Nat} (hk : Keeps pend tmin s) :
    Keeps pend tmin (State.nakIn s n lack) := by
  unfold State.nakIn
  repeat' first
    | with_reducible assumption | with_reducible refine Keeps.ite ?_ ?_ | with_reducible refine Keeps.ite_snd ?_ ?_
    | with_reducible refine State.lackTo_keeps ?_ | with_reducible refine State.setPort_keeps ?_
    | with_reducible refine State.retrain_keeps ?_ | with_reducible refine State.replayAll_keeps ?_
    | simp only [Keeps.update] | with_reducible refine KeepsU.all ?_
    | (with_reducible refine Keeps.of_snd (by with_reducible assumption) ?_) | split | dsimp only

theorem execNakReceived_keeps {p : Port} {lack : Fin 4096} {s : State} (hk : Keeps pend tmin s) :
    KeepsR pend tmin (execNakReceived p lack s) := by
  unfold execNakReceived
  repeat' first
    | with_reducible assumption | with_reducible refine KeepsR.next ?_ | with_reducible refine State.nakIn_keeps ?_ | split
    | dsimp only

theorem State.idleSend_keeps {s : State} {n : Nat} (hk : Keeps pend tmin s) :
    Keeps pend tmin (State.idleSend s n) := by
  unfold State.idleSend
  repeat' first
    | with_reducible assumption | with_reducible refine Keeps.ite ?_ ?_ | with_reducible refine State.advance_keeps ?_
    | with_reducible refine State.emitFlit_keeps ?_ | split | dsimp only

theorem execIdleFlitSend_keeps {p : Port} {s : State} (hk : Keeps pend tmin s) :
    KeepsR pend tmin (execIdleFlitSend p s) := by
  unfold execIdleFlitSend
  repeat' first
    | with_reducible assumption | with_reducible refine KeepsR.next ?_ | with_reducible refine State.idleSend_keeps ?_
    | split | dsimp only

theorem State.nakOut_keeps {s : State} {n : Nat} {bad : Bool} (hk : Keeps pend tmin s) :
    Keeps pend tmin (State.nakOut s n bad) := by
  unfold State.nakOut
  repeat' first
    | with_reducible assumption | with_reducible refine Keeps.ite ?_ ?_ | with_reducible refine State.bump_keeps ?_
    | with_reducible refine State.setPort_keeps ?_ | with_reducible refine State.emitFlit_keeps ?_
    | simp only [Keeps.update] | with_reducible refine KeepsU.all ?_ | split | dsimp only

theorem State.misroute_keeps {s : State} {n : Nat} {cause : Nat} {f : Flit} (hk : Keeps pend tmin s) :
    Keeps pend tmin (State.misroute s n cause f) := by
  unfold State.misroute
  repeat' first
    | with_reducible assumption | with_reducible refine Keeps.ite ?_ ?_ | with_reducible refine Keeps.ite_snd ?_ ?_
    | with_reducible refine State.set_keeps ?_ | with_reducible refine State.stick_keeps ?_
    | with_reducible refine State.originate_keeps ?_ | simp only [Keeps.update] | with_reducible refine KeepsU.all ?_
    | (with_reducible refine Keeps.of_snd (by with_reducible assumption) ?_) | split | dsimp only

theorem State.discard_keeps {s : State} {n : Nat} {f : Flit} (hk : Keeps pend tmin s) :
    Keeps pend tmin (State.discard s n f) := by
  unfold State.discard
  repeat' first
    | with_reducible assumption | with_reducible refine Keeps.ite ?_ ?_ | with_reducible refine Keeps.ite_snd ?_ ?_
    | with_reducible refine State.misroute_keeps ?_ | with_reducible refine State.originate_keeps ?_
    | simp only [Keeps.update] | with_reducible refine KeepsU.all ?_
    | (with_reducible refine Keeps.of_snd (by with_reducible assumption) ?_) | split | dsimp only

end Sys2Proof.Machine
end

