-- ==== Sys2Proof/Laws/Keeps/Domain.lean ====
section
/-! SUPPORT. The operations of Machine/Domain.lean keep the queue, rack time and the canonical forms (see Laws/Keeps). -/
namespace Sys2Proof.Machine
variable {pend : List Instr} {tmin : Nat}

theorem State.adoptResumed_keeps {s : State} (hk : Keeps pend tmin s) :
    Keeps pend tmin (State.adoptResumed s) := by
  unfold State.adoptResumed
  repeat' first
    | with_reducible assumption | with_reducible exact KeepsU.of (by assumption) (Nat.le_add_right _ _) id id
    | with_reducible refine Keeps.ite ?_ ?_ | with_reducible refine State.acquired_keeps ?_
    | with_reducible refine State.set_keeps ?_ | simp only [Keeps.update] | with_reducible refine KeepsU.all ?_
    | with_reducible refine KeepsU.time ?_ | split | dsimp only

theorem State.joinDomain_keeps {s : State} (hk : Keeps pend tmin s) :
    Keeps pend tmin (State.joinDomain s) := by
  unfold State.joinDomain
  repeat' first
    | with_reducible assumption | with_reducible refine State.set_keeps ?_ | with_reducible refine State.stickIrq_keeps ?_
    | simp only [Keeps.update] | with_reducible refine KeepsU.all ?_ | with_reducible refine KeepsU.time ?_ | split
    | dsimp only

theorem State.masterSelf_keeps {s : State} {was : Bool} (hk : Keeps pend tmin s) :
    Keeps pend tmin (State.masterSelf s was) := by
  unfold State.masterSelf
  repeat' first
    | with_reducible assumption | with_reducible refine Keeps.ite ?_ ?_ | with_reducible refine State.set_keeps ?_
    | with_reducible refine State.selectSource_keeps ?_ | with_reducible refine State.adoptResumed_keeps ?_
    | simp only [Keeps.update] | with_reducible refine KeepsU.all ?_ | with_reducible refine KeepsU.time ?_ | split
    | dsimp only

theorem State.electBy_keeps {s : State} {loss : Bool} (hk : Keeps pend tmin s) :
    Keeps pend tmin (State.electBy s loss) := by
  unfold State.electBy
  repeat' first
    | with_reducible assumption | with_reducible refine Keeps.ite ?_ ?_ | with_reducible refine Keeps.ite_snd ?_ ?_
    | with_reducible refine State.set_keeps ?_ | with_reducible refine State.masterSelf_keeps ?_
    | with_reducible refine State.joinDomain_keeps ?_ | with_reducible refine Keeps.foldl ?_ (fun _ _ _ => ?_)
    | with_reducible refine Keeps.foldl_snd ?_ (fun _ _ _ => ?_) | simp only [Keeps.update]
    | with_reducible refine KeepsU.all ?_ | (with_reducible refine Keeps.of_snd (by with_reducible assumption) ?_) | split
    | dsimp only

theorem State.elect_keeps {s : State} (hk : Keeps pend tmin s) :
    Keeps pend tmin (State.elect s) := by
  unfold State.elect
  repeat' first
    | with_reducible assumption | with_reducible refine State.electBy_keeps ?_ | split | dsimp only

theorem State.announce_keeps {s : State} (hk : Keeps pend tmin s) :
    Keeps pend tmin (State.announce s) := by
  unfold State.announce
  repeat' first
    | with_reducible assumption | with_reducible refine State.elect_keeps ?_ | with_reducible refine State.sendVc3_keeps ?_
    | with_reducible refine Keeps.foldl ?_ (fun _ _ _ => ?_) | with_reducible refine Keeps.foldl_snd ?_ (fun _ _ _ => ?_)
    | split | dsimp only

theorem execDomainAnnounce_keeps {s : State} (hk : Keeps pend tmin s) :
    KeepsR pend tmin (execDomainAnnounce s) := by
  unfold execDomainAnnounce
  repeat' first
    | with_reducible assumption | with_reducible refine KeepsR.next ?_ | with_reducible refine State.announce_keeps ?_
    | split | dsimp only

theorem State.domainIn_keeps {s : State} {n : Nat} {m : Msg} (hk : Keeps pend tmin s) :
    Keeps pend tmin (State.domainIn s n m) := by
  unfold State.domainIn
  repeat' first
    | with_reducible assumption | with_reducible refine Keeps.ite ?_ ?_ | with_reducible refine State.setPort_keeps ?_
    | with_reducible refine State.stickIrq_keeps ?_ | with_reducible refine State.elect_keeps ?_ | simp only [Keeps.update]
    | with_reducible refine KeepsU.all ?_ | split | dsimp only

theorem execDomain_keeps {p : Port} {m : Msg} {s : State} (hk : Keeps pend tmin s) :
    KeepsR pend tmin (execDomain p m s) := by
  unfold execDomain
  repeat' first
    | with_reducible assumption | with_reducible refine KeepsR.next ?_ | with_reducible refine State.domainIn_keeps ?_
    | split | dsimp only

theorem State.masterLoss_keeps {s : State} (hk : Keeps pend tmin s) :
    Keeps pend tmin (State.masterLoss s) := by
  unfold State.masterLoss
  repeat' first
    | with_reducible assumption | with_reducible refine Keeps.ite ?_ ?_ | with_reducible refine Keeps.ite_snd ?_ ?_
    | with_reducible refine State.enterHoldover_keeps ?_ | with_reducible refine State.electBy_keeps ?_
    | simp only [Keeps.update] | with_reducible refine KeepsU.all ?_
    | (with_reducible refine Keeps.of_snd (by with_reducible assumption) ?_) | split | dsimp only

theorem execMasterLoss_keeps {s : State} (hk : Keeps pend tmin s) :
    KeepsR pend tmin (execMasterLoss s) := by
  unfold execMasterLoss
  repeat' first
    | with_reducible assumption | with_reducible refine KeepsR.next ?_ | with_reducible refine State.masterLoss_keeps ?_
    | split | dsimp only

theorem State.timeStart_keeps {s : State} {n : Nat} (hk : Keeps pend tmin s) :
    Keeps pend tmin (State.timeStart s n) := by
  unfold State.timeStart
  repeat' first
    | with_reducible assumption | with_reducible refine Keeps.ite ?_ ?_ | with_reducible refine State.setPort_keeps ?_
    | with_reducible refine State.sendVc3_keeps ?_ | simp only [Keeps.update] | with_reducible refine KeepsU.all ?_ | split
    | dsimp only

theorem execTimeExchangeStart_keeps {p : Port} {s : State} (hk : Keeps pend tmin s) :
    KeepsR pend tmin (execTimeExchangeStart p s) := by
  unfold execTimeExchangeStart
  repeat' first
    | with_reducible assumption | with_reducible refine KeepsR.next ?_ | with_reducible refine State.timeStart_keeps ?_
    | split | dsimp only

theorem State.timeSync_keeps {s : State} {n : Nat} (hk : Keeps pend tmin s) :
    Keeps pend tmin (State.timeSync s n) := by
  unfold State.timeSync
  repeat' first
    | with_reducible assumption | with_reducible refine State.setPort_keeps ?_ | simp only [Keeps.update]
    | with_reducible refine KeepsU.all ?_ | split | dsimp only

theorem execTimeSync_keeps {p : Port} {s : State} (hk : Keeps pend tmin s) :
    KeepsR pend tmin (execTimeSync p s) := by
  unfold execTimeSync
  repeat' first
    | with_reducible assumption | with_reducible refine KeepsR.next ?_ | with_reducible refine State.timeSync_keeps ?_
    | split | dsimp only

theorem State.timeFollow_keeps {s : State} {n : Nat} {t1 : Nat} (hk : Keeps pend tmin s) :
    Keeps pend tmin (State.timeFollow s n t1) := by
  unfold State.timeFollow
  repeat' first
    | with_reducible assumption | with_reducible refine State.setPort_keeps ?_
    | with_reducible refine State.sendVc3_keeps ?_ | simp only [Keeps.update] | with_reducible refine KeepsU.all ?_ | split
    | dsimp only

theorem execTimeFollow_keeps {p : Port} {t1 : DWord} {s : State} (hk : Keeps pend tmin s) :
    KeepsR pend tmin (execTimeFollow p t1 s) := by
  unfold execTimeFollow
  repeat' first
    | with_reducible assumption | with_reducible refine KeepsR.next ?_ | with_reducible refine State.timeFollow_keeps ?_
    | split | dsimp only

theorem State.timeDreq_keeps {s : State} {n : Nat} (hk : Keeps pend tmin s) :
    Keeps pend tmin (State.timeDreq s n) := by
  unfold State.timeDreq
  repeat' first
    | with_reducible assumption | with_reducible refine Keeps.ite ?_ ?_ | with_reducible refine State.sendVc3_keeps ?_
    | simp only [Keeps.update] | with_reducible refine KeepsU.all ?_ | split | dsimp only

theorem execTimeDreq_keeps {p : Port} {s : State} (hk : Keeps pend tmin s) :
    KeepsR pend tmin (execTimeDreq p s) := by
  unfold execTimeDreq
  repeat' first
    | with_reducible assumption | with_reducible refine KeepsR.next ?_ | with_reducible refine State.timeDreq_keeps ?_
    | split | dsimp only

theorem State.joinBy_keeps {s : State} {delta : Int} (hk : Keeps pend tmin s) :
    Keeps pend tmin (State.joinBy s delta) := by
  unfold State.joinBy
  repeat' first
    | with_reducible assumption | with_reducible refine Keeps.ite ?_ ?_ | with_reducible refine State.stepTime_keeps ?_
    | with_reducible refine State.slewTo_keeps ?_ | simp only [Keeps.update] | with_reducible refine KeepsU.all ?_
    | with_reducible refine KeepsU.time ?_ | split | dsimp only

theorem State.followMaster_keeps {s : State} (hk : Keeps pend tmin s) :
    Keeps pend tmin (State.followMaster s) := by
  unfold State.followMaster
  repeat' first
    | with_reducible assumption | with_reducible refine Keeps.ite ?_ ?_ | with_reducible refine State.set_keeps ?_ | split
    | dsimp only

theorem State.timeDresp_keeps {s : State} {n : Nat} {t4 : Nat} (hk : Keeps pend tmin s) :
    Keeps pend tmin (State.timeDresp s n t4) := by
  unfold State.timeDresp
  repeat' first
    | with_reducible assumption | with_reducible refine Keeps.ite ?_ ?_ | with_reducible refine State.setPort_keeps ?_
    | with_reducible refine State.holdRate_keeps ?_ | with_reducible refine State.followMaster_keeps ?_
    | with_reducible refine State.joinBy_keeps ?_ | with_reducible refine State.slewTo_keeps ?_
    | with_reducible refine State.stickIrq_keeps ?_ | with_reducible refine State.set_keeps ?_ | simp only [Keeps.update]
    | with_reducible refine KeepsU.all ?_ | with_reducible refine KeepsU.time ?_ | split | dsimp only

theorem execTimeDresp_keeps {p : Port} {t4 : DWord} {s : State} (hk : Keeps pend tmin s) :
    KeepsR pend tmin (execTimeDresp p t4 s) := by
  unfold execTimeDresp
  repeat' first
    | with_reducible assumption | with_reducible refine KeepsR.next ?_ | with_reducible refine State.timeDresp_keeps ?_
    | split | dsimp only

theorem State.reselect_keeps {s : State} (hk : Keeps pend tmin s) :
    Keeps pend tmin (State.reselect s) := by
  unfold State.reselect
  repeat' first
    | with_reducible assumption | with_reducible refine State.advance_keeps ?_
    | with_reducible refine State.setPort_keeps ?_ | with_reducible refine State.elect_keeps ?_ | simp only [Keeps.update]
    | with_reducible refine KeepsU.all ?_ | (with_reducible refine Keeps.of_snd (by with_reducible assumption) ?_) | split
    | dsimp only

theorem execUpstreamReselect_keeps {s : State} (hk : Keeps pend tmin s) :
    KeepsR pend tmin (execUpstreamReselect s) := by
  unfold execUpstreamReselect
  repeat' first
    | with_reducible assumption | with_reducible refine KeepsR.next ?_ | with_reducible refine State.reselect_keeps ?_
    | split | dsimp only

theorem State.configIn_keeps {s : State} {n : Nat} {m : Msg} (hk : Keeps pend tmin s) :
    Keeps pend tmin (State.configIn s n m) := by
  unfold State.configIn
  repeat' first
    | with_reducible assumption | with_reducible refine Keeps.ite ?_ ?_ | with_reducible refine State.set_keeps ?_
    | with_reducible refine State.set64_keeps ?_ | with_reducible refine State.retick_keeps ?_
    | with_reducible refine State.sendVc3_keeps ?_ | with_reducible refine Keeps.foldl ?_ (fun _ _ _ => ?_)
    | with_reducible refine Keeps.foldl_snd ?_ (fun _ _ _ => ?_) | simp only [Keeps.update]
    | with_reducible refine KeepsU.all ?_ | with_reducible refine KeepsU.time ?_ | split | dsimp only

theorem execConfig_keeps {p : Port} {m : Msg} {s : State} (hk : Keeps pend tmin s) :
    KeepsR pend tmin (execConfig p m s) := by
  unfold execConfig
  repeat' first
    | with_reducible assumption | with_reducible refine KeepsR.next ?_ | with_reducible refine State.configIn_keeps ?_
    | split | dsimp only

theorem State.configTimer_keeps {s : State} (hk : Keeps pend tmin s) :
    Keeps pend tmin (State.configTimer s) := by
  unfold State.configTimer
  repeat' first
    | with_reducible assumption | with_reducible refine Keeps.ite ?_ ?_ | with_reducible refine State.sendVc3_keeps ?_
    | with_reducible refine Keeps.foldl ?_ (fun _ _ _ => ?_) | with_reducible refine Keeps.foldl_snd ?_ (fun _ _ _ => ?_)
    | split | dsimp only

theorem execConfigSend_keeps {s : State} (hk : Keeps pend tmin s) :
    KeepsR pend tmin (execConfigSend s) := by
  unfold execConfigSend
  repeat' first
    | with_reducible assumption | with_reducible refine KeepsR.next ?_ | with_reducible refine State.configTimer_keeps ?_
    | split | dsimp only

theorem State.routeWrite_keeps {s : State} {n : Nat} {e : Nat} {w : Nat} {v : Nat} (hk : Keeps pend tmin s) :
    Keeps pend tmin (State.routeWrite s n e w v) := by
  unfold State.routeWrite
  repeat' first
    | with_reducible assumption | with_reducible refine Keeps.ite ?_ ?_ | with_reducible refine State.wr_keeps ?_
    | with_reducible refine State.pathCheck_keeps ?_ | with_reducible refine State.stick_keeps ?_ | split | dsimp only

theorem execRoutingEntryWrite_keeps {n : Fin 13} {e : Fin 64} {w : Fin 2} {v : Word} {s : State} (hk : Keeps pend tmin s) :
    KeepsR pend tmin (execRoutingEntryWrite n e w v s) := by
  unfold execRoutingEntryWrite
  repeat' first
    | with_reducible assumption | with_reducible refine KeepsR.next ?_ | with_reducible refine Keeps.ite ?_ ?_
    | with_reducible refine KeepsR.ite ?_ ?_ | with_reducible refine State.routeWrite_keeps ?_ | split | dsimp only

theorem State.reiIdWrite_keeps {s : State} {v : Nat} (hk : Keeps pend tmin s) :
    Keeps pend tmin (State.reiIdWrite s v) := by
  unfold State.reiIdWrite
  repeat' first
    | with_reducible assumption | with_reducible refine Keeps.ite ?_ ?_ | with_reducible refine State.stick_keeps ?_
    | with_reducible refine State.set_keeps ?_ | simp only [Keeps.update] | with_reducible refine KeepsU.all ?_ | split
    | dsimp only

end Sys2Proof.Machine
end

