-- ==== Sys2Proof/Laws/Keeps/Ingest.lean ====
section
/-! SUPPORT. The operations of Machine/Ingest.lean keep the queue, rack time and the canonical forms (see Laws/Keeps). -/
namespace Sys2Proof.Machine
variable {pend : List Instr} {tmin : Nat}

theorem State.putSa_keeps {s : State} {x : MacSa} (hk : Keeps pend tmin s) :
    Keeps pend tmin (State.putSa s x) := by
  unfold State.putSa
  repeat' first
    | with_reducible assumption | simp only [Keeps.update] | with_reducible refine KeepsU.all ?_ | split | dsimp only

theorem State.macsecIn_keeps {s : State} {p : Nat} {f : List (BitVec 8)} (hk : Keeps pend tmin s) :
    Keeps pend tmin (State.macsecIn s p f).2 := by
  unfold State.macsecIn
  repeat' first
    | with_reducible assumption | with_reducible refine Keeps.ite ?_ ?_ | with_reducible refine Keeps.ite_snd ?_ ?_
    | with_reducible refine State.putSa_keeps ?_ | simp only [Keeps.update] | with_reducible refine KeepsU.all ?_
    | (with_reducible refine Keeps.of_snd (by with_reducible assumption) ?_) | split | dsimp only

theorem State.ethSend_keeps {s : State} {p : Nat} {f : List (BitVec 8)} (hk : Keeps pend tmin s) :
    Keeps pend tmin (State.ethSend s p f) := by
  unfold State.ethSend
  repeat' first
    | with_reducible assumption | with_reducible refine Keeps.ite ?_ ?_ | with_reducible refine Keeps.ite_snd ?_ ?_
    | with_reducible refine State.putSa_keeps ?_ | with_reducible refine State.out_keeps ?_ | simp only [Keeps.update]
    | with_reducible refine KeepsU.all ?_ | (with_reducible refine Keeps.of_snd (by with_reducible assumption) ?_) | split
    | dsimp only

theorem State.saInstall_keeps {s : State} {p : Nat} {c : Nat} {an : Nat} (hk : Keeps pend tmin s) :
    Keeps pend tmin (State.saInstall s p c an) := by
  unfold State.saInstall
  repeat' first
    | with_reducible assumption | with_reducible refine State.set_keeps ?_ | with_reducible refine State.putSa_keeps ?_
    | simp only [Keeps.update] | with_reducible refine KeepsU.all ?_ | split | dsimp only

theorem execSaInstall_keeps {p : EthPort} {c : Fin 512} {an : Fin 4} {s : State} (hk : Keeps pend tmin s) :
    KeepsR pend tmin (execSaInstall p c an s) := by
  unfold execSaInstall
  repeat' first
    | with_reducible assumption | with_reducible refine KeepsR.next ?_ | with_reducible refine Keeps.ite ?_ ?_
    | with_reducible refine KeepsR.ite ?_ ?_ | with_reducible refine State.saInstall_keeps ?_ | split | dsimp only

theorem State.mkaSak_keeps {s : State} {p : Nat} {c : Nat} {cak : List (BitVec 8)} (hk : Keeps pend tmin s) :
    Keeps pend tmin (State.mkaSak s p c cak) := by
  unfold State.mkaSak
  repeat' first
    | with_reducible assumption | with_reducible refine State.set_keeps ?_ | with_reducible refine State.putSa_keeps ?_
    | simp only [Keeps.update] | with_reducible refine KeepsU.all ?_ | split | dsimp only

theorem State.mkaFrame_keeps {s : State} {p : Nat} {f : List (BitVec 8)} (hk : Keeps pend tmin s) :
    Keeps pend tmin (State.mkaFrame s p f) := by
  unfold State.mkaFrame
  repeat' first
    | with_reducible assumption | with_reducible refine Keeps.ite ?_ ?_ | with_reducible refine Keeps.ite_snd ?_ ?_
    | with_reducible refine State.mkaSak_keeps ?_ | with_reducible refine State.set64_keeps ?_
    | with_reducible refine State.set_keeps ?_ | (with_reducible refine Keeps.of_snd (by with_reducible assumption) ?_)
    | split | dsimp only

theorem execMkaFrame_keeps {p : EthPort} {f : List (BitVec 8)} {s : State} (hk : Keeps pend tmin s) :
    KeepsR pend tmin (execMkaFrame p f s) := by
  unfold execMkaFrame
  repeat' first
    | with_reducible assumption | with_reducible refine KeepsR.next ?_ | with_reducible refine State.mkaFrame_keeps ?_
    | split | dsimp only

theorem State.mkaRekey_keeps {s : State} {p : Nat} {c : Nat} (hk : Keeps pend tmin s) :
    Keeps pend tmin (State.mkaRekey s p c) := by
  unfold State.mkaRekey
  repeat' first
    | with_reducible assumption | with_reducible refine Keeps.ite ?_ ?_ | with_reducible refine Keeps.ite_snd ?_ ?_
    | with_reducible refine State.mkaSak_keeps ?_ | (with_reducible refine Keeps.of_snd (by with_reducible assumption) ?_)
    | split | dsimp only

theorem execMkaRekey_keeps {p : EthPort} {c : Fin 512} {s : State} (hk : Keeps pend tmin s) :
    KeepsR pend tmin (execMkaRekey p c s) := by
  unfold execMkaRekey
  repeat' first
    | with_reducible assumption | with_reducible refine KeepsR.next ?_ | with_reducible refine State.mkaRekey_keeps ?_
    | split | dsimp only

theorem State.arpIn_keeps {s : State} {p : Nat} {f : List (BitVec 8)} (hk : Keeps pend tmin s) :
    Keeps pend tmin (State.arpIn s p f) := by
  unfold State.arpIn
  repeat' first
    | with_reducible assumption | with_reducible refine Keeps.ite ?_ ?_ | with_reducible refine State.ethSend_keeps ?_
    | (with_reducible refine Keeps.of_snd (by with_reducible assumption) ?_) | split | dsimp only

theorem execArpRequest_keeps {p : EthPort} {f : List (BitVec 8)} {s : State} (hk : Keeps pend tmin s) :
    KeepsR pend tmin (execArpRequest p f s) := by
  unfold execArpRequest
  repeat' first
    | with_reducible assumption | with_reducible refine KeepsR.next ?_ | with_reducible refine State.arpIn_keeps ?_ | split
    | dsimp only

theorem State.nsIn_keeps {s : State} {p : Nat} {f : List (BitVec 8)} (hk : Keeps pend tmin s) :
    Keeps pend tmin (State.nsIn s p f) := by
  unfold State.nsIn
  repeat' first
    | with_reducible assumption | with_reducible refine Keeps.ite ?_ ?_ | with_reducible refine State.ethSend_keeps ?_
    | (with_reducible refine Keeps.of_snd (by with_reducible assumption) ?_) | split | dsimp only

theorem execNeighbourSolicitation_keeps {p : EthPort} {f : List (BitVec 8)} {s : State} (hk : Keeps pend tmin s) :
    KeepsR pend tmin (execNeighbourSolicitation p f s) := by
  unfold execNeighbourSolicitation
  repeat' first
    | with_reducible assumption | with_reducible refine KeepsR.next ?_ | with_reducible refine State.nsIn_keeps ?_ | split
    | dsimp only

theorem State.camDone_keeps {s : State} {dup : Bool} (hk : Keeps pend tmin s) :
    Keeps pend tmin (State.camDone s dup) := by
  unfold State.camDone
  repeat' first
    | with_reducible assumption | with_reducible refine State.set_keeps ?_ | split | dsimp only

theorem State.camInsert_keeps {s : State} (hk : Keeps pend tmin s) :
    Keeps pend tmin (State.camInsert s) := by
  unfold State.camInsert
  repeat' first
    | with_reducible assumption | with_reducible refine Keeps.ite ?_ ?_ | with_reducible refine State.stick_keeps ?_
    | with_reducible refine State.camDone_keeps ?_ | with_reducible refine State.set_keeps ?_ | simp only [Keeps.update]
    | with_reducible refine KeepsU.all ?_ | (with_reducible refine Keeps.of_snd (by with_reducible assumption) ?_) | split
    | dsimp only

theorem execCamInsert_keeps {s : State} (hk : Keeps pend tmin s) :
    KeepsR pend tmin (execCamInsert s) := by
  unfold execCamInsert
  repeat' first
    | with_reducible assumption | with_reducible refine KeepsR.next ?_ | with_reducible refine Keeps.ite ?_ ?_
    | with_reducible refine KeepsR.ite ?_ ?_ | with_reducible refine State.camInsert_keeps ?_ | split | dsimp only

theorem State.camDelete_keeps {s : State} (hk : Keeps pend tmin s) :
    Keeps pend tmin (State.camDelete s) := by
  unfold State.camDelete
  repeat' first
    | with_reducible assumption | with_reducible refine State.set_keeps ?_ | with_reducible refine State.camDone_keeps ?_
    | simp only [Keeps.update] | with_reducible refine KeepsU.all ?_ | split | dsimp only

theorem execCamDelete_keeps {s : State} (hk : Keeps pend tmin s) :
    KeepsR pend tmin (execCamDelete s) := by
  unfold execCamDelete
  repeat' first
    | with_reducible assumption | with_reducible refine KeepsR.next ?_ | with_reducible refine Keeps.ite ?_ ?_
    | with_reducible refine KeepsR.ite ?_ ?_ | with_reducible refine State.camDelete_keeps ?_ | split | dsimp only

theorem State.camRead_keeps {s : State} (hk : Keeps pend tmin s) :
    Keeps pend tmin (State.camRead s) := by
  unfold State.camRead
  repeat' first
    | with_reducible assumption | with_reducible refine State.set_keeps ?_ | with_reducible refine State.camDone_keeps ?_
    | with_reducible refine Keeps.foldl ?_ (fun _ _ _ => ?_) | with_reducible refine Keeps.foldl_snd ?_ (fun _ _ _ => ?_)
    | split | dsimp only

theorem execCamRead_keeps {s : State} (hk : Keeps pend tmin s) :
    KeepsR pend tmin (execCamRead s) := by
  unfold execCamRead
  repeat' first
    | with_reducible assumption | with_reducible refine KeepsR.next ?_ | with_reducible refine Keeps.ite ?_ ?_
    | with_reducible refine KeepsR.ite ?_ ?_ | with_reducible refine State.camRead_keeps ?_ | split | dsimp only

theorem State.ruleWrite_keeps {s : State} {r : Nat} {j : Nat} {v : Nat} (hk : Keeps pend tmin s) :
    Keeps pend tmin (State.ruleWrite s r j v) := by
  unfold State.ruleWrite
  repeat' first
    | with_reducible assumption | with_reducible refine Keeps.ite ?_ ?_ | with_reducible refine State.set_keeps ?_
    | with_reducible refine State.stick_keeps ?_ | split | dsimp only

theorem execSteeringRuleWrite_keeps {r : Fin 256} {j : Fin 12} {v : Word} {s : State} (hk : Keeps pend tmin s) :
    KeepsR pend tmin (execSteeringRuleWrite r j v s) := by
  unfold execSteeringRuleWrite
  repeat' first
    | with_reducible assumption | with_reducible refine KeepsR.next ?_ | with_reducible refine Keeps.ite ?_ ?_
    | with_reducible refine KeepsR.ite ?_ ?_ | with_reducible refine State.ruleWrite_keeps ?_ | split | dsimp only

theorem State.stranger_keeps {s : State} {p : Nat} {reason : Nat} {src : List (BitVec 8)} {camera : Nat} (hk : Keeps pend tmin s) :
    Keeps pend tmin (State.stranger s p reason src camera) := by
  unfold State.stranger
  repeat' first
    | with_reducible assumption | with_reducible refine Keeps.ite ?_ ?_ | with_reducible refine Keeps.ite_snd ?_ ?_
    | with_reducible refine State.stick_keeps ?_ | with_reducible refine State.set_keeps ?_
    | with_reducible refine Keeps.foldl ?_ (fun _ _ _ => ?_) | with_reducible refine Keeps.foldl_snd ?_ (fun _ _ _ => ?_)
    | simp only [Keeps.update] | with_reducible refine KeepsU.all ?_
    | (with_reducible refine Keeps.of_snd (by with_reducible assumption) ?_) | split | dsimp only

theorem State.pfc_keeps {s : State} {p : Nat} (hk : Keeps pend tmin s) :
    Keeps pend tmin (State.pfc s p) := by
  unfold State.pfc
  repeat' first
    | with_reducible assumption | with_reducible refine Keeps.ite ?_ ?_ | with_reducible refine State.out_keeps ?_
    | simp only [Keeps.update] | with_reducible refine KeepsU.all ?_ | split | dsimp only

theorem State.pfcRepeat_keeps {s : State} {p : Nat} (hk : Keeps pend tmin s) :
    Keeps pend tmin (State.pfcRepeat s p) := by
  unfold State.pfcRepeat
  repeat' first
    | with_reducible assumption | with_reducible refine Keeps.ite ?_ ?_ | with_reducible refine State.out_keeps ?_
    | with_reducible refine State.pfc_keeps ?_ | split | dsimp only

theorem execPfcRepeat_keeps {p : EthPort} {s : State} (hk : Keeps pend tmin s) :
    KeepsR pend tmin (execPfcRepeat p s) := by
  unfold execPfcRepeat
  repeat' first
    | with_reducible assumption | with_reducible refine KeepsR.next ?_ | with_reducible refine State.pfcRepeat_keeps ?_
    | split | dsimp only

theorem State.ethDrop_keeps {s : State} {p : Nat} {c : Nat} (hk : Keeps pend tmin s) :
    Keeps pend tmin (State.ethDrop s p c) := by
  unfold State.ethDrop
  repeat' first
    | with_reducible assumption | with_reducible refine State.bump_keeps ?_ | split | dsimp only

theorem State.setCam_keeps {s : State} {n : Nat} {c : Camera} (hk : Keeps pend tmin s) :
    Keeps pend tmin (State.setCam s n c) := by
  unfold State.setCam
  repeat' first
    | with_reducible assumption | simp only [Keeps.update] | with_reducible refine KeepsU.all ?_ | split | dsimp only

theorem State.camDrop_keeps {s : State} {p : Nat} {c : Nat} {n : Nat} (hk : Keeps pend tmin s) :
    Keeps pend tmin (State.camDrop s p c n) := by
  unfold State.camDrop
  repeat' first
    | with_reducible assumption | with_reducible refine State.ethDrop_keeps ?_ | with_reducible refine State.setCam_keeps ?_
    | simp only [Keeps.update] | with_reducible refine KeepsU.all ?_
    | (with_reducible refine Keeps.of_snd (by with_reducible assumption) ?_) | split | dsimp only

theorem State.tripPut_keeps {s : State} {r : TripRec} (hk : Keeps pend tmin s) :
    Keeps pend tmin (State.tripPut s r) := by
  unfold State.tripPut
  repeat' first
    | with_reducible assumption | with_reducible refine Keeps.ite ?_ ?_ | with_reducible refine State.stick_keeps ?_
    | simp only [Keeps.update] | with_reducible refine KeepsU.all ?_ | split | dsimp only

theorem State.tripForward_keeps {s : State} {p : Nat} {n : Nat} {c : Camera} {k : List (BitVec 8)} (hk : Keeps pend tmin s) :
    Keeps pend tmin (State.tripForward s p n c k) := by
  unfold State.tripForward
  repeat' first
    | with_reducible assumption | with_reducible refine Keeps.ite ?_ ?_ | with_reducible refine State.setCam_keeps ?_
    | with_reducible refine State.tripPut_keeps ?_ | with_reducible refine State.wake_keeps ?_
    | with_reducible refine State.stickIrq_keeps ?_ | simp only [Keeps.update] | with_reducible refine KeepsU.all ?_ | split
    | dsimp only

theorem State.ktdRest_keeps {s : State} {p : Nat} {n : Nat} {k : List (BitVec 8)} (hk : Keeps pend tmin s) :
    Keeps pend tmin (State.ktdRest s p n k) := by
  unfold State.ktdRest
  repeat' first
    | with_reducible assumption | with_reducible refine Keeps.ite ?_ ?_ | with_reducible refine Keeps.ite_snd ?_ ?_
    | with_reducible refine State.camDrop_keeps ?_ | with_reducible refine State.setCam_keeps ?_
    | with_reducible refine State.stick_keeps ?_ | with_reducible refine State.stickIrq_keeps ?_
    | with_reducible refine State.pfc_keeps ?_ | with_reducible refine State.wake_keeps ?_ | simp only [Keeps.update]
    | with_reducible refine KeepsU.all ?_ | (with_reducible refine Keeps.of_snd (by with_reducible assumption) ?_) | split
    | dsimp only

theorem State.ktdIn_keeps {s : State} {p : Nat} {sc : Option Nat} {src : List (BitVec 8)} {k : List (BitVec 8)} (hk : Keeps pend tmin s) :
    Keeps pend tmin (State.ktdIn s p sc src k) := by
  unfold State.ktdIn
  repeat' first
    | with_reducible assumption | with_reducible refine Keeps.ite ?_ ?_ | with_reducible refine Keeps.ite_snd ?_ ?_
    | with_reducible refine State.ethDrop_keeps ?_ | with_reducible refine State.stranger_keeps ?_
    | with_reducible refine State.camDrop_keeps ?_ | with_reducible refine State.setCam_keeps ?_
    | with_reducible refine State.tripForward_keeps ?_ | with_reducible refine State.ktdRest_keeps ?_
    | (with_reducible refine Keeps.of_snd (by with_reducible assumption) ?_) | split | dsimp only

theorem State.ethConsumer_keeps {s : State} {p : Nat} {f : List (BitVec 8)} (hk : Keeps pend tmin s) :
    KeepsO pend tmin (State.ethConsumer s p f) := by
  unfold State.ethConsumer
  repeat' first
    | with_reducible assumption | with_reducible refine Keeps.ite ?_ ?_ | with_reducible refine Keeps.ite_snd ?_ ?_
    | with_reducible refine State.arpIn_keeps ?_ | with_reducible refine State.nsIn_keeps ?_
    | with_reducible refine State.mkaFrame_keeps ?_ | with_reducible refine State.ptpIn_keeps ?_
    | (with_reducible refine Keeps.of_snd (by with_reducible assumption) ?_)
    | (with_reducible refine Keeps.of_some (by with_reducible assumption) ?_) | with_reducible exact KeepsO.none
    | with_reducible refine KeepsO.some ?_ | with_reducible refine KeepsO.ite ?_ ?_ | split | dsimp only

theorem State.ethIn_keeps {s : State} {p : Nat} {f : List (BitVec 8)} (hk : Keeps pend tmin s) :
    Keeps pend tmin (State.ethIn s p f) := by
  unfold State.ethIn
  repeat' first
    | with_reducible assumption | with_reducible refine Keeps.ite ?_ ?_ | with_reducible refine Keeps.ite_snd ?_ ?_
    | with_reducible refine State.ethDrop_keeps ?_ | with_reducible refine State.macsecIn_keeps ?_
    | with_reducible refine State.ktdIn_keeps ?_ | with_reducible refine State.ethConsumer_keeps ?_
    | (with_reducible refine Keeps.of_snd (by with_reducible assumption) ?_)
    | (with_reducible refine Keeps.of_some (by with_reducible assumption) ?_) | with_reducible refine Keeps.getD ?_ ?_
    | with_reducible exact KeepsO.none | with_reducible refine KeepsO.some ?_ | with_reducible refine KeepsO.ite ?_ ?_
    | split | dsimp only

theorem execEthFrameReceive_keeps {p : EthPort} {f : List (BitVec 8)} {s : State} (hk : Keeps pend tmin s) :
    KeepsR pend tmin (execEthFrameReceive p f s) := by
  unfold execEthFrameReceive
  repeat' first
    | with_reducible assumption | with_reducible refine KeepsR.next ?_ | with_reducible refine State.ethIn_keeps ?_ | split
    | dsimp only

theorem State.presence_keeps {s : State} {at_ : Nat} (hk : Keeps pend tmin s) :
    Keeps pend tmin (State.presence s at_).2 := by
  unfold State.presence
  repeat' first
    | with_reducible assumption | with_reducible refine State.memReadFree_keeps ?_ | split | dsimp only

theorem State.landOk_keeps {s : State} {w : List Nat} {lo : Nat} {n : Nat} {rec' : Nat} (hk : Keeps pend tmin s) :
    Keeps pend tmin (State.landOk s w lo n rec').2 := by
  unfold State.landOk
  repeat' first
    | with_reducible assumption | with_reducible refine Keeps.ite ?_ ?_ | with_reducible refine Keeps.ite_snd ?_ ?_
    | with_reducible refine State.bridleRange_keeps ?_
    | (with_reducible refine Keeps.of_snd (by with_reducible assumption) ?_) | split | dsimp only

theorem State.land_keeps {s : State} {d : Datagram} (hk : Keeps pend tmin s) :
    Keeps pend tmin (State.land s d) := by
  unfold State.land
  repeat' first
    | with_reducible assumption | with_reducible refine Keeps.ite ?_ ?_ | with_reducible refine Keeps.ite_snd ?_ ?_
    | with_reducible refine State.landOk_keeps ?_ | with_reducible refine State.camDrop_keeps ?_
    | with_reducible refine State.stickIrq_keeps ?_ | with_reducible refine State.presence_keeps ?_
    | with_reducible refine State.memWrite_keeps ?_ | with_reducible refine State.bump_keeps ?_
    | with_reducible refine State.counterOp_keeps ?_ | with_reducible refine State.ridx_keeps ?_
    | with_reducible refine Keeps.foldl ?_ (fun _ _ _ => ?_) | with_reducible refine Keeps.foldl_snd ?_ (fun _ _ _ => ?_)
    | (with_reducible refine Keeps.of_snd (by with_reducible assumption) ?_) | split | dsimp only

theorem State.landNext_keeps {s : State} {p : Nat} (hk : Keeps pend tmin s) :
    Keeps pend tmin (State.landNext s p) := by
  unfold State.landNext
  repeat' first
    | with_reducible assumption | with_reducible refine Keeps.ite ?_ ?_ | with_reducible refine Keeps.ite_snd ?_ ?_
    | with_reducible refine State.land_keeps ?_ | with_reducible refine State.pfc_keeps ?_ | simp only [Keeps.update]
    | with_reducible refine KeepsU.all ?_ | (with_reducible refine Keeps.of_snd (by with_reducible assumption) ?_) | split
    | dsimp only

theorem execDatagramLanding_keeps {p : EthPort} {s : State} (hk : Keeps pend tmin s) :
    KeepsR pend tmin (execDatagramLanding p s) := by
  unfold execDatagramLanding
  repeat' first
    | with_reducible assumption | with_reducible refine KeepsR.next ?_ | with_reducible refine State.landNext_keeps ?_
    | split | dsimp only

theorem State.ingestDiscard_keeps {s : State} (hk : Keeps pend tmin s) :
    Keeps pend tmin (State.ingestDiscard s) := by
  unfold State.ingestDiscard
  repeat' first
    | with_reducible assumption | with_reducible refine State.camDrop_keeps ?_ | with_reducible refine State.pfc_keeps ?_
    | with_reducible refine Keeps.foldl ?_ (fun _ _ _ => ?_) | with_reducible refine Keeps.foldl_snd ?_ (fun _ _ _ => ?_)
    | simp only [Keeps.update] | with_reducible refine KeepsU.all ?_ | split | dsimp only

theorem State.ethLink_keeps {s : State} {p : Nat} {up : Bool} (hk : Keeps pend tmin s) :
    Keeps pend tmin (State.ethLink s p up) := by
  unfold State.ethLink
  repeat' first
    | with_reducible assumption | with_reducible refine Keeps.ite ?_ ?_ | with_reducible refine State.trace_keeps ?_
    | simp only [Keeps.update] | with_reducible refine KeepsU.all ?_ | split | dsimp only

theorem execEthLinkChange_keeps {p : EthPort} {up : Bool} {s : State} (hk : Keeps pend tmin s) :
    KeepsR pend tmin (execEthLinkChange p up s) := by
  unfold execEthLinkChange
  repeat' first
    | with_reducible assumption | with_reducible refine KeepsR.next ?_ | with_reducible refine Keeps.ite ?_ ?_
    | with_reducible refine KeepsR.ite ?_ ?_ | with_reducible refine State.ethLink_keeps ?_ | split | dsimp only

end Sys2Proof.Machine
end

