-- ==== Sys2Proof/Laws/Keeps/Tenants.lean ====
section
/-! SUPPORT. The operations of Machine/Tenants.lean keep the queue, rack time and the canonical forms (see Laws/Keeps). -/
namespace Sys2Proof.Machine
variable {pend : List Instr} {tmin : Nat}

theorem State.hwinWrite_keeps {s : State} {t : Nat} {k : Nat} {j : Nat} {v : Nat} (hk : Keeps pend tmin s) :
    Keeps pend tmin (State.hwinWrite s t k j v) := by
  unfold State.hwinWrite
  repeat' first
    | with_reducible assumption | with_reducible refine Keeps.ite ?_ ?_ | with_reducible refine State.putRw_keeps ?_
    | with_reducible refine State.stick_keeps ?_ | split | dsimp only

theorem execHostWindowWrite_keeps {t : Tenant} {k : Fin 16} {j : Fin 5} {v : Word} {s : State} (hk : Keeps pend tmin s) :
    KeepsR pend tmin (execHostWindowWrite t k j v s) := by
  unfold execHostWindowWrite
  repeat' first
    | with_reducible assumption | with_reducible refine KeepsR.next ?_ | with_reducible refine Keeps.ite ?_ ?_
    | with_reducible refine KeepsR.ite ?_ ?_ | with_reducible refine State.hwinWrite_keeps ?_ | split | dsimp only

theorem State.p2pWrite_keeps {s : State} {w : Nat} {j : Nat} {v : Nat} (hk : Keeps pend tmin s) :
    Keeps pend tmin (State.p2pWrite s w j v) := by
  unfold State.p2pWrite
  repeat' first
    | with_reducible assumption | with_reducible refine Keeps.ite ?_ ?_ | with_reducible refine State.putRw_keeps ?_
    | with_reducible refine State.stick_keeps ?_ | split | dsimp only

theorem execP2pWindowWrite_keeps {w : Fin 64} {j : Fin 5} {v : Word} {s : State} (hk : Keeps pend tmin s) :
    KeepsR pend tmin (execP2pWindowWrite w j v s) := by
  unfold execP2pWindowWrite
  repeat' first
    | with_reducible assumption | with_reducible refine KeepsR.next ?_ | with_reducible refine Keeps.ite ?_ ?_
    | with_reducible refine KeepsR.ite ?_ ?_ | with_reducible refine State.p2pWrite_keeps ?_ | split | dsimp only

theorem State.apinWrite_keeps {s : State} {i : Nat} {j : Nat} {v : Nat} (hk : Keeps pend tmin s) :
    Keeps pend tmin (State.apinWrite s i j v) := by
  unfold State.apinWrite
  repeat' first
    | with_reducible assumption | with_reducible refine Keeps.ite ?_ ?_ | with_reducible refine Keeps.ite_snd ?_ ?_
    | with_reducible refine State.putRw_keeps ?_ | with_reducible refine State.stick_keeps ?_
    | (with_reducible refine Keeps.of_snd (by with_reducible assumption) ?_) | split | dsimp only

theorem execApertureWrite_keeps {i : Fin 64} {j : Fin 7} {v : Word} {s : State} (hk : Keeps pend tmin s) :
    KeepsR pend tmin (execApertureWrite i j v s) := by
  unfold execApertureWrite
  repeat' first
    | with_reducible assumption | with_reducible refine KeepsR.next ?_ | with_reducible refine Keeps.ite ?_ ?_
    | with_reducible refine KeepsR.ite ?_ ?_ | with_reducible refine State.apinWrite_keeps ?_ | split | dsimp only

theorem State.apDeny_keeps {s : State} {l : Nat} {i : Nat} {cause : Nat} {addr : Nat} {read : Bool} (hk : Keeps pend tmin s) :
    Keeps pend tmin (State.apDeny s l i cause addr read) := by
  unfold State.apDeny
  repeat' first
    | with_reducible assumption | with_reducible refine Keeps.ite ?_ ?_ | with_reducible refine State.stick_keeps ?_
    | with_reducible refine State.set_keeps ?_ | with_reducible refine State.out_keeps ?_ | split | dsimp only

theorem State.apCounterWrite_keeps {s : State} {t : Nat} {off : Nat} {v : Nat} (hk : Keeps pend tmin s) :
    Keeps pend tmin (State.apCounterWrite s t off v) := by
  unfold State.apCounterWrite
  repeat' first
    | with_reducible assumption | with_reducible refine Keeps.ite ?_ ?_ | with_reducible refine Keeps.ite_snd ?_ ?_
    | with_reducible refine State.counterWrite_keeps ?_ | with_reducible refine State.setCntSt_keeps ?_
    | with_reducible refine State.stick_keeps ?_ | with_reducible refine Keeps.foldl ?_ (fun _ _ _ => ?_)
    | with_reducible refine Keeps.foldl_snd ?_ (fun _ _ _ => ?_)
    | (with_reducible refine Keeps.of_snd (by with_reducible assumption) ?_) | split | dsimp only

theorem State.apCounterWords_keeps {s : State} {t : Nat} {off : Nat} {data : List (BitVec 8)} (hk : Keeps pend tmin s) :
    Keeps pend tmin (State.apCounterWords s t off data) := by
  unfold State.apCounterWords
  repeat' first
    | with_reducible assumption | with_reducible refine Keeps.ite ?_ ?_
    | with_reducible refine State.apCounterWrite_keeps ?_ | with_reducible refine Keeps.foldl ?_ (fun _ _ _ => ?_)
    | with_reducible refine Keeps.foldl_snd ?_ (fun _ _ _ => ?_) | simp only [Keeps.update]
    | with_reducible refine KeepsU.all ?_ | split | dsimp only

theorem State.apRequest_keeps {s : State} {l : Nat} {addr : Nat} {n : Nat} {read : Bool} {data : List (BitVec 8)} {poisoned : Bool} {secure : Bool} (hk : Keeps pend tmin s) :
    Keeps pend tmin (State.apRequest s l addr n read data poisoned secure) := by
  unfold State.apRequest
  repeat' first
    | with_reducible assumption | with_reducible refine Keeps.ite ?_ ?_ | with_reducible refine Keeps.ite_snd ?_ ?_
    | with_reducible refine State.stick_keeps ?_ | with_reducible refine State.out_keeps ?_
    | with_reducible refine State.apDeny_keeps ?_ | with_reducible refine State.apCounterWords_keeps ?_
    | with_reducible refine State.bridleRange_keeps ?_ | with_reducible refine State.memRead_keeps ?_
    | with_reducible refine State.memWrite_keeps ?_ | (with_reducible refine Keeps.of_snd (by with_reducible assumption) ?_)
    | split | dsimp only

theorem execApInboundRequest_keeps {l : ApLink} {addr : DWord} {n : Fin 4097} {read : Bool} {data : List (BitVec 8)} {poisoned : Bool} {secure : Bool} {s : State} (hk : Keeps pend tmin s) :
    KeepsR pend tmin (execApInboundRequest l addr n read data poisoned secure s) := by
  unfold execApInboundRequest
  repeat' first
    | with_reducible assumption | with_reducible refine KeepsR.next ?_ | with_reducible refine Keeps.ite ?_ ?_
    | with_reducible refine KeepsR.ite ?_ ?_ | with_reducible refine State.wake_keeps ?_
    | with_reducible refine State.apRequest_keeps ?_ | split | dsimp only

theorem State.bar2Wake_keeps {s : State} (hk : Keeps pend tmin s) :
    Keeps pend tmin (State.bar2Wake s) := by
  unfold State.bar2Wake
  repeat' first
    | with_reducible assumption | with_reducible refine Keeps.ite ?_ ?_ | with_reducible refine State.wake_keeps ?_ | split
    | dsimp only

theorem execBar2Read_keeps {off : BitVec 30} {n : Fin 4097} {secure : Bool} {s : State} (hk : Keeps pend tmin s) :
    KeepsR pend tmin (execBar2Read off n secure s) := by
  unfold execBar2Read
  repeat' first
    | with_reducible assumption | with_reducible refine KeepsR.next ?_ | with_reducible refine State.bar2Wake_keeps ?_
    | with_reducible refine State.bar2Read_keeps ?_ | split | dsimp only

theorem execBar2Write_keeps {off : BitVec 30} {data : List (BitVec 8)} {poisoned : Bool} {secure : Bool} {s : State} (hk : Keeps pend tmin s) :
    KeepsR pend tmin (execBar2Write off data poisoned secure s) := by
  unfold execBar2Write
  repeat' first
    | with_reducible assumption | with_reducible refine KeepsR.next ?_ | with_reducible refine State.bar2Wake_keeps ?_
    | with_reducible refine State.bar2Write_keeps ?_ | split | dsimp only

theorem State.apWrite_keeps {s : State} {v : Nat} (hk : Keeps pend tmin s) :
    Keeps pend tmin (State.apWrite s v) := by
  unfold State.apWrite
  repeat' first
    | with_reducible assumption | with_reducible refine Keeps.ite ?_ ?_ | with_reducible refine State.stick_keeps ?_
    | with_reducible refine State.putRw_keeps ?_ | split | dsimp only

theorem State.apLink_keeps {s : State} {l : Nat} {speed : Nat} {width : Nat} {up : Bool} (hk : Keeps pend tmin s) :
    Keeps pend tmin (State.apLink s l speed width up) := by
  unfold State.apLink
  repeat' first
    | with_reducible assumption | with_reducible refine Keeps.ite ?_ ?_ | with_reducible refine State.set_keeps ?_
    | with_reducible refine State.trace_keeps ?_ | simp only [Keeps.update] | with_reducible refine KeepsU.all ?_ | split
    | dsimp only

theorem execApLinkChange_keeps {l : ApLink} {speed : Fin 7} {width : Fin 17} {up : Bool} {s : State} (hk : Keeps pend tmin s) :
    KeepsR pend tmin (execApLinkChange l speed width up s) := by
  unfold execApLinkChange
  repeat' first
    | with_reducible assumption | with_reducible refine KeepsR.next ?_ | with_reducible refine State.apLink_keeps ?_ | split
    | dsimp only

theorem State.apConfig_keeps {s : State} {w2 : Nat} {answer : Option Word} (hk : Keeps pend tmin s) :
    Keeps pend tmin (State.apConfig s w2 answer) := by
  unfold State.apConfig
  repeat' first
    | with_reducible assumption | with_reducible refine Keeps.ite ?_ ?_ | with_reducible refine Keeps.ite_snd ?_ ?_
    | with_reducible refine State.wr_keeps ?_ | with_reducible refine State.set_keeps ?_
    | with_reducible refine State.out_keeps ?_ | with_reducible refine State.answer_keeps ?_
    | (with_reducible refine Keeps.of_snd (by with_reducible assumption) ?_) | split | dsimp only

theorem execApcfgMailbox_keeps {w2 : Word} {answer : Option Word} {s : State} (hk : Keeps pend tmin s) :
    KeepsR pend tmin (execApcfgMailbox w2 answer s) := by
  unfold execApcfgMailbox
  repeat' first
    | with_reducible assumption | with_reducible refine KeepsR.next ?_ | with_reducible refine Keeps.ite ?_ ?_
    | with_reducible refine KeepsR.ite ?_ ?_ | with_reducible refine State.apConfig_keeps ?_
    | with_reducible refine State.answer_keeps ?_ | split | dsimp only

theorem State.brdWrite_keeps {s : State} {f : Nat} {r : Nat} {j : Nat} {v : Nat} (hk : Keeps pend tmin s) :
    Keeps pend tmin (State.brdWrite s f r j v) := by
  unfold State.brdWrite
  repeat' first
    | with_reducible assumption | with_reducible refine Keeps.ite ?_ ?_ | with_reducible refine State.set_keeps ?_
    | with_reducible refine State.stick_keeps ?_ | split | dsimp only

theorem execBrdRegionWrite_keeps {f : Fin 3} {r : Fin 256} {j : Fin 4} {v : Word} {s : State} (hk : Keeps pend tmin s) :
    KeepsR pend tmin (execBrdRegionWrite f r j v s) := by
  unfold execBrdRegionWrite
  repeat' first
    | with_reducible assumption | with_reducible refine KeepsR.next ?_ | with_reducible refine Keeps.ite ?_ ?_
    | with_reducible refine KeepsR.ite ?_ ?_ | with_reducible refine State.brdWrite_keeps ?_ | split | dsimp only

theorem State.brdSync_keeps {s : State} (hk : Keeps pend tmin s) :
    Keeps pend tmin (State.brdSync s) := by
  unfold State.brdSync
  repeat' first
    | with_reducible assumption | with_reducible refine State.set_keeps ?_ | simp only [Keeps.update]
    | with_reducible refine KeepsU.all ?_ | split | dsimp only

theorem execBrdSync_keeps {s : State} (hk : Keeps pend tmin s) :
    KeepsR pend tmin (execBrdSync s) := by
  unfold execBrdSync
  repeat' first
    | with_reducible assumption | with_reducible refine KeepsR.next ?_ | with_reducible refine Keeps.ite ?_ ?_
    | with_reducible refine KeepsR.ite ?_ ?_ | with_reducible refine State.brdSync_keeps ?_ | split | dsimp only

theorem State.brdSyncEnd_keeps {s : State} (hk : Keeps pend tmin s) :
    Keeps pend tmin (State.brdSyncEnd s) := by
  unfold State.brdSyncEnd
  repeat' first
    | with_reducible assumption | with_reducible refine Keeps.ite ?_ ?_ | with_reducible refine Keeps.ite_snd ?_ ?_
    | with_reducible refine State.brdSync_keeps ?_ | with_reducible refine State.set_keeps ?_ | simp only [Keeps.update]
    | with_reducible refine KeepsU.all ?_ | (with_reducible refine Keeps.of_snd (by with_reducible assumption) ?_) | split
    | dsimp only

theorem execBrdSyncComplete_keeps {same : Bool} {s : State} (hk : Keeps pend tmin s) :
    KeepsR pend tmin (execBrdSyncComplete same s) := by
  unfold execBrdSyncComplete
  repeat' first
    | with_reducible assumption | with_reducible refine KeepsR.next ?_ | with_reducible refine Keeps.ite ?_ ?_
    | with_reducible refine KeepsR.ite ?_ ?_ | with_reducible refine State.brdSyncEnd_keeps ?_
    | with_reducible refine State.brdSync_keeps ?_ | split | dsimp only

theorem State.dropCmd_keeps {s : State} {c : Cmd} (hk : Keeps pend tmin s) :
    Keeps pend tmin (State.dropCmd s c) := by
  unfold State.dropCmd
  repeat' first
    | with_reducible assumption | with_reducible refine Keeps.ite ?_ ?_ | with_reducible refine State.setQueue_keeps ?_
    | simp only [Keeps.update] | with_reducible refine KeepsU.all ?_ | split | dsimp only

theorem State.abortCmd_keeps {s : State} {c : Cmd} {st : Nat} {rec' : Bool} (hk : Keeps pend tmin s) :
    Keeps pend tmin (State.abortCmd s c st rec') := by
  unfold State.abortCmd
  repeat' first
    | with_reducible assumption | with_reducible refine Keeps.ite ?_ ?_ | with_reducible refine Keeps.ite_snd ?_ ?_
    | with_reducible refine State.dropWaiting_keeps ?_ | with_reducible refine State.dropReads_keeps ?_
    | with_reducible refine State.breakSeqOf_keeps ?_ | with_reducible refine State.fail_keeps ?_
    | with_reducible refine State.sendSummary_keeps ?_ | with_reducible refine State.writeRecord_keeps ?_
    | with_reducible refine State.dropCmd_keeps ?_ | simp only [Keeps.update] | with_reducible refine KeepsU.all ?_
    | (with_reducible refine Keeps.of_snd (by with_reducible assumption) ?_) | split | dsimp only

theorem State.dropGraphs_keeps {s : State} {t : Nat} {st : Nat} {rec' : Bool} (hk : Keeps pend tmin s) :
    Keeps pend tmin (State.dropGraphs s t st rec') := by
  unfold State.dropGraphs
  repeat' first
    | with_reducible assumption | with_reducible refine Keeps.ite ?_ ?_ | with_reducible refine Keeps.ite_snd ?_ ?_
    | with_reducible refine State.writeRecord_keeps ?_ | with_reducible refine Keeps.foldl ?_ (fun _ _ _ => ?_)
    | with_reducible refine Keeps.foldl_snd ?_ (fun _ _ _ => ?_) | simp only [Keeps.update]
    | with_reducible refine KeepsU.all ?_ | with_reducible refine KeepsU.sync ?_ ?_
    | (intro w; rw [Sync.wf_iff] at w ⊢; exact ⟨by first | exact w.1 | exact spWf_filter _ _ _ w.1, by first | exact w.2.1 | exact spWf_filter _ _ _ w.2.1, by first | exact w.2.2.1 | exact spWf_filter _ _ _ w.2.2.1, by first | exact w.2.2.2.1 | exact spWf_filter _ _ _ w.2.2.2.1, by first | exact w.2.2.2.2 | exact spWf_filter _ _ _ w.2.2.2.2⟩)
    | exact Sync.wf_cnt _ _ _ | exact Sync.wf_cst _ _ _ | exact Sync.wf_bars _ _ _ | exact Sync.wf_locks _ _ _
    | exact Sync.wf_flags _ _ _ | exact fun w => w | (with_reducible refine Keeps.of_snd (by with_reducible assumption) ?_)
    | split | dsimp only

theorem State.abortTenant_keeps {s : State} {t : Nat} {st : Nat} {rec' : Bool} (hk : Keeps pend tmin s) :
    Keeps pend tmin (State.abortTenant s t st rec') := by
  unfold State.abortTenant
  repeat' first
    | with_reducible assumption | with_reducible refine State.abortCmd_keeps ?_
    | with_reducible refine State.dropGraphs_keeps ?_ | with_reducible refine Keeps.foldl ?_ (fun _ _ _ => ?_)
    | with_reducible refine Keeps.foldl_snd ?_ (fun _ _ _ => ?_)
    | (with_reducible refine Keeps.of_snd (by with_reducible assumption) ?_) | split | dsimp only

theorem State.ctxReset_keeps {s : State} {t : Nat} {kind : Nat} (hk : Keeps pend tmin s) :
    Keeps pend tmin (State.ctxReset s t kind) := by
  unfold State.ctxReset
  repeat' first
    | with_reducible assumption | with_reducible refine Keeps.ite ?_ ?_ | with_reducible refine State.set_keeps ?_
    | with_reducible refine State.closeSession_keeps ?_ | with_reducible refine State.trace_keeps ?_
    | with_reducible refine State.abortTenant_keeps ?_ | simp only [Keeps.update] | with_reducible refine KeepsU.all ?_
    | split | dsimp only

theorem execContextReset_keeps {t : Tenant} {s : State} (hk : Keeps pend tmin s) :
    KeepsR pend tmin (execContextReset t s) := by
  unfold execContextReset
  repeat' first
    | with_reducible assumption | with_reducible refine KeepsR.next ?_ | with_reducible refine Keeps.ite ?_ ?_
    | with_reducible refine KeepsR.ite ?_ ?_ | with_reducible refine State.ctxReset_keeps ?_ | split | dsimp only

theorem State.clearSync_keeps {s : State} {t : Nat} (hk : Keeps pend tmin s) :
    Keeps pend tmin (State.clearSync s t) := by
  unfold State.clearSync
  repeat' first
    | with_reducible assumption | with_reducible refine State.setLock_keeps ?_
    | with_reducible refine Keeps.foldl ?_ (fun _ _ _ => ?_) | with_reducible refine Keeps.foldl_snd ?_ (fun _ _ _ => ?_)
    | simp only [Keeps.update] | with_reducible refine KeepsU.all ?_ | with_reducible refine KeepsU.sync ?_ ?_
    | (intro w; rw [Sync.wf_iff] at w ⊢; exact ⟨by first | exact w.1 | exact spWf_filter _ _ _ w.1, by first | exact w.2.1 | exact spWf_filter _ _ _ w.2.1, by first | exact w.2.2.1 | exact spWf_filter _ _ _ w.2.2.1, by first | exact w.2.2.2.1 | exact spWf_filter _ _ _ w.2.2.2.1, by first | exact w.2.2.2.2 | exact spWf_filter _ _ _ w.2.2.2.2⟩)
    | exact Sync.wf_cnt _ _ _ | exact Sync.wf_cst _ _ _ | exact Sync.wf_bars _ _ _ | exact Sync.wf_locks _ _ _
    | exact Sync.wf_flags _ _ _ | exact fun w => w | (with_reducible refine Keeps.of_snd (by with_reducible assumption) ?_)
    | split | dsimp only

theorem State.clearDescs_keeps {s : State} {t : Nat} (hk : Keeps pend tmin s) :
    Keeps pend tmin (State.clearDescs s t) := by
  unfold State.clearDescs
  repeat' first
    | with_reducible assumption | with_reducible refine Keeps.ite ?_ ?_ | with_reducible refine Keeps.ite_snd ?_ ?_
    | simp only [Keeps.update] | with_reducible refine KeepsU.all ?_
    | (with_reducible refine Keeps.of_snd (by with_reducible assumption) ?_) | split | dsimp only

theorem State.clearPlans_keeps {s : State} {t : Nat} (hk : Keeps pend tmin s) :
    Keeps pend tmin (State.clearPlans s t) := by
  unfold State.clearPlans
  repeat' first
    | with_reducible assumption | with_reducible refine Keeps.ite ?_ ?_ | simp only [Keeps.update]
    | with_reducible refine KeepsU.all ?_ | split | dsimp only

theorem State.clearPage_keeps {s : State} {t : Nat} (hk : Keeps pend tmin s) :
    Keeps pend tmin (State.clearPage s t) := by
  unfold State.clearPage
  repeat' first
    | with_reducible assumption | with_reducible refine Keeps.ite ?_ ?_ | with_reducible refine Keeps.filterRegs ?_
    | simp only [Keeps.update] | with_reducible refine KeepsU.all ?_
    | (with_reducible refine Keeps.of_snd (by with_reducible assumption) ?_) | split | dsimp only

theorem State.wipeTenant_keeps {s : State} {t : Nat} (hk : Keeps pend tmin s) :
    Keeps pend tmin (State.wipeTenant s t) := by
  unfold State.wipeTenant
  repeat' first
    | with_reducible assumption | with_reducible refine Keeps.ite ?_ ?_ | with_reducible refine Keeps.ite_snd ?_ ?_
    | with_reducible refine State.out_keeps ?_ | with_reducible refine Keeps.foldl ?_ (fun _ _ _ => ?_)
    | with_reducible refine Keeps.foldl_snd ?_ (fun _ _ _ => ?_) | simp only [Keeps.update]
    | with_reducible refine KeepsU.all ?_ | with_reducible refine KeepsU.mem ?_ ?_ | exact Mem.wf_zeroRange _ _ _ _
    | exact fun w => w | (with_reducible refine Keeps.of_snd (by with_reducible assumption) ?_) | split | dsimp only

theorem State.ctxClear_keeps {s : State} {t : Nat} (hk : Keeps pend tmin s) :
    Keeps pend tmin (State.ctxClear s t) := by
  unfold State.ctxClear
  repeat' first
    | with_reducible assumption | with_reducible refine State.clearSync_keeps ?_
    | with_reducible refine State.clearPlans_keeps ?_ | with_reducible refine State.clearDescs_keeps ?_
    | with_reducible refine State.clearPage_keeps ?_ | split | dsimp only

theorem State.ctxApplyHeld_keeps {s : State} {t : Nat} (hk : Keeps pend tmin s) :
    Keeps pend tmin (State.ctxApplyHeld s t) := by
  unfold State.ctxApplyHeld
  repeat' first
    | with_reducible assumption | with_reducible refine Keeps.ite ?_ ?_ | with_reducible refine State.lockReq_keeps ?_
    | with_reducible refine State.vc1Effect_keeps ?_ | with_reducible refine State.apCounterWrite_keeps ?_
    | with_reducible refine Keeps.foldl ?_ (fun _ _ _ => ?_) | with_reducible refine Keeps.foldl_snd ?_ (fun _ _ _ => ?_)
    | simp only [Keeps.update] | with_reducible refine KeepsU.all ?_
    | (with_reducible refine Keeps.of_snd (by with_reducible assumption) ?_) | split | dsimp only

theorem State.crsSettle_keeps {s : State} (hk : Keeps pend tmin s) :
    Keeps pend tmin (State.crsSettle s) := by
  unfold State.crsSettle
  repeat' first
    | with_reducible assumption | with_reducible refine Keeps.ite ?_ ?_ | simp only [Keeps.update]
    | with_reducible refine KeepsU.all ?_ | split | dsimp only

theorem State.vaultPut_keeps {s : State} {x : Sec} (hk : Keeps pend tmin s) :
    Keeps pend tmin (State.vaultPut s x) := by
  unfold State.vaultPut
  repeat' first
    | with_reducible assumption | with_reducible refine State.set_keeps ?_ | simp only [Keeps.update]
    | with_reducible refine KeepsU.all ?_ | split | dsimp only

theorem State.eraseKeys_keeps {s : State} (hk : Keeps pend tmin s) :
    Keeps pend tmin (State.eraseKeys s) := by
  unfold State.eraseKeys
  repeat' first
    | with_reducible assumption | with_reducible refine State.vaultPut_keeps ?_ | with_reducible refine Keeps.filterRegs ?_
    | simp only [Keeps.update] | with_reducible refine KeepsU.all ?_ | split | dsimp only

theorem State.wipeStart_keeps {s : State} (hk : Keeps pend tmin s) :
    Keeps pend tmin (State.wipeStart s) := by
  unfold State.wipeStart
  repeat' first
    | with_reducible assumption | with_reducible refine Keeps.ite ?_ ?_ | with_reducible refine State.eraseKeys_keeps ?_
    | split | dsimp only

theorem State.ctxFinish_keeps {s : State} {t : Nat} (hk : Keeps pend tmin s) :
    Keeps pend tmin (State.ctxFinish s t) := by
  unfold State.ctxFinish
  repeat' first
    | with_reducible assumption | with_reducible refine Keeps.ite ?_ ?_ | with_reducible refine Keeps.ite_snd ?_ ?_
    | with_reducible refine State.ctxClear_keeps ?_ | with_reducible refine State.wipeTenant_keeps ?_
    | with_reducible refine State.set_keeps ?_ | with_reducible refine State.ctxApplyHeld_keeps ?_
    | with_reducible refine State.wipeStart_keeps ?_ | with_reducible refine State.crsSettle_keeps ?_
    | simp only [Keeps.update] | with_reducible refine KeepsU.all ?_
    | (with_reducible refine Keeps.of_snd (by with_reducible assumption) ?_) | split | dsimp only

theorem State.ctxComplete_keeps {s : State} {t : Nat} (hk : Keeps pend tmin s) :
    Keeps pend tmin (State.ctxComplete s t) := by
  unfold State.ctxComplete
  repeat' first
    | with_reducible assumption | with_reducible refine Keeps.ite ?_ ?_ | with_reducible refine State.ctxFinish_keeps ?_
    | split | dsimp only

theorem execContextResetComplete_keeps {t : Tenant} {same : Bool} {s : State} (hk : Keeps pend tmin s) :
    KeepsR pend tmin (execContextResetComplete t same s) := by
  unfold execContextResetComplete
  repeat' first
    | with_reducible assumption | with_reducible refine KeepsR.next ?_ | with_reducible refine Keeps.ite ?_ ?_
    | with_reducible refine KeepsR.ite ?_ ?_ | with_reducible refine State.ctxComplete_keeps ?_
    | with_reducible refine State.ctxReset_keeps ?_ | split | dsimp only

theorem State.cfgClear_keeps {s : State} {f : Nat} (hk : Keeps pend tmin s) :
    Keeps pend tmin (State.cfgClear s f) := by
  unfold State.cfgClear
  repeat' first
    | with_reducible assumption | simp only [Keeps.update] | with_reducible refine KeepsU.all ?_ | split | dsimp only

theorem State.vfClear_keeps {s : State} {kind : Nat} (hk : Keeps pend tmin s) :
    Keeps pend tmin (State.vfClear s kind) := by
  unfold State.vfClear
  repeat' first
    | with_reducible assumption | with_reducible refine State.cfgClear_keeps ?_
    | with_reducible refine State.ctxReset_keeps ?_ | with_reducible refine Keeps.foldl ?_ (fun _ _ _ => ?_)
    | with_reducible refine Keeps.foldl_snd ?_ (fun _ _ _ => ?_) | simp only [Keeps.update]
    | with_reducible refine KeepsU.all ?_ | split | dsimp only

theorem execVfEnableClear_keeps {s : State} (hk : Keeps pend tmin s) :
    KeepsR pend tmin (execVfEnableClear s) := by
  unfold execVfEnableClear
  repeat' first
    | with_reducible assumption | with_reducible refine KeepsR.next ?_ | with_reducible refine State.vfClear_keeps ?_
    | split | dsimp only

theorem State.flr_keeps {s : State} {f : Nat} (hk : Keeps pend tmin s) :
    Keeps pend tmin (State.flr s f) := by
  unfold State.flr
  repeat' first
    | with_reducible assumption | with_reducible refine Keeps.ite ?_ ?_ | with_reducible refine State.cfgClear_keeps ?_
    | with_reducible refine State.ctxReset_keeps ?_ | with_reducible refine State.vfClear_keeps ?_
    | simp only [Keeps.update] | with_reducible refine KeepsU.all ?_ | split | dsimp only

theorem execFlr_keeps {f : Tenant} {s : State} (hk : Keeps pend tmin s) :
    KeepsR pend tmin (execFlr f s) := by
  unfold execFlr
  repeat' first
    | with_reducible assumption | with_reducible refine KeepsR.next ?_ | with_reducible refine State.flr_keeps ?_ | split
    | dsimp only

theorem State.hostReset_keeps {s : State} {cause : Nat} (hk : Keeps pend tmin s) :
    Keeps pend tmin (State.hostReset s cause) := by
  unfold State.hostReset
  repeat' first
    | with_reducible assumption | with_reducible refine State.cfgClear_keeps ?_ | with_reducible refine State.trace_keeps ?_
    | with_reducible refine State.fault_keeps ?_ | with_reducible refine State.ctxReset_keeps ?_
    | with_reducible refine Keeps.foldl ?_ (fun _ _ _ => ?_) | with_reducible refine Keeps.foldl_snd ?_ (fun _ _ _ => ?_)
    | simp only [Keeps.update] | with_reducible refine KeepsU.all ?_ | split | dsimp only

theorem execHostReset_keeps {cause : Fin 3} {s : State} (hk : Keeps pend tmin s) :
    KeepsR pend tmin (execHostReset cause s) := by
  unfold execHostReset
  repeat' first
    | with_reducible assumption | with_reducible refine KeepsR.next ?_ | with_reducible refine State.hostReset_keeps ?_
    | split | dsimp only

theorem State.perstRelease_keeps {s : State} (hk : Keeps pend tmin s) :
    Keeps pend tmin (State.perstRelease s) := by
  unfold State.perstRelease
  repeat' first
    | with_reducible assumption | with_reducible refine Keeps.ite ?_ ?_ | with_reducible refine State.wake_keeps ?_
    | simp only [Keeps.update] | with_reducible refine KeepsU.all ?_ | split | dsimp only

theorem execPerstNDeassert_keeps {s : State} (hk : Keeps pend tmin s) :
    KeepsR pend tmin (execPerstNDeassert s) := by
  unfold execPerstNDeassert
  repeat' first
    | with_reducible assumption | with_reducible refine KeepsR.next ?_ | with_reducible refine State.perstRelease_keeps ?_
    | split | dsimp only

theorem State.hpUp_keeps {s : State} {speed : Nat} {width : Nat} (hk : Keeps pend tmin s) :
    Keeps pend tmin (State.hpUp s speed width) := by
  unfold State.hpUp
  repeat' first
    | with_reducible assumption | with_reducible refine Keeps.ite ?_ ?_ | with_reducible refine State.trace_keeps ?_
    | with_reducible refine State.crsSettle_keeps ?_ | simp only [Keeps.update] | with_reducible refine KeepsU.all ?_
    | split | dsimp only

theorem execHpLinkUp_keeps {speed : Fin 7} {width : Fin 17} {s : State} (hk : Keeps pend tmin s) :
    KeepsR pend tmin (execHpLinkUp speed width s) := by
  unfold execHpLinkUp
  repeat' first
    | with_reducible assumption | with_reducible refine KeepsR.next ?_ | with_reducible refine State.hpUp_keeps ?_ | split
    | dsimp only

theorem State.bmeClear_keeps {s : State} {f : Nat} (hk : Keeps pend tmin s) :
    Keeps pend tmin (State.bmeClear s f) := by
  unfold State.bmeClear
  repeat' first
    | with_reducible assumption | simp only [Keeps.update] | with_reducible refine KeepsU.all ?_ | split | dsimp only

theorem execBusMasterEnableClear_keeps {f : Tenant} {s : State} (hk : Keeps pend tmin s) :
    KeepsR pend tmin (execBusMasterEnableClear f s) := by
  unfold execBusMasterEnableClear
  repeat' first
    | with_reducible assumption | with_reducible refine KeepsR.next ?_ | with_reducible refine State.bmeClear_keeps ?_
    | split | dsimp only

theorem State.sendPending_keeps {s : State} {f : Nat} (hk : Keeps pend tmin s) :
    Keeps pend tmin (State.sendPending s f) := by
  unfold State.sendPending
  repeat' first
    | with_reducible assumption | with_reducible refine State.msix_keeps ?_
    | with_reducible refine Keeps.foldl ?_ (fun _ _ _ => ?_) | with_reducible refine Keeps.foldl_snd ?_ (fun _ _ _ => ?_)
    | simp only [Keeps.update] | with_reducible refine KeepsU.all ?_
    | (with_reducible refine Keeps.of_snd (by with_reducible assumption) ?_) | split | dsimp only

theorem State.bmeSet_keeps {s : State} {f : Nat} (hk : Keeps pend tmin s) :
    Keeps pend tmin (State.bmeSet s f) := by
  unfold State.bmeSet
  repeat' first
    | with_reducible assumption | with_reducible refine State.sendPending_keeps ?_ | simp only [Keeps.update]
    | with_reducible refine KeepsU.all ?_ | split | dsimp only

theorem State.fnMask_keeps {s : State} {f : Nat} {mask : Bool} (hk : Keeps pend tmin s) :
    Keeps pend tmin (State.fnMask s f mask) := by
  unfold State.fnMask
  repeat' first
    | with_reducible assumption | with_reducible refine Keeps.ite ?_ ?_ | with_reducible refine State.sendPending_keeps ?_
    | simp only [Keeps.update] | with_reducible refine KeepsU.all ?_ | split | dsimp only

theorem State.cfgWrite_keeps {s : State} {f : Nat} {reg : Nat} {v : Nat} (hk : Keeps pend tmin s) :
    Keeps pend tmin (State.cfgWrite s f reg v) := by
  unfold State.cfgWrite
  repeat' first
    | with_reducible assumption | with_reducible refine Keeps.ite ?_ ?_ | with_reducible refine State.bmeSet_keeps ?_
    | with_reducible refine State.bmeClear_keeps ?_ | with_reducible refine State.flr_keeps ?_
    | with_reducible refine State.fnMask_keeps ?_ | with_reducible refine State.vfClear_keeps ?_ | simp only [Keeps.update]
    | with_reducible refine KeepsU.all ?_ | (with_reducible refine Keeps.of_snd (by with_reducible assumption) ?_) | split
    | dsimp only

theorem State.cfgRequest_keeps {s : State} {f : Nat} {reg : Nat} {w : Option Word} (hk : Keeps pend tmin s) :
    Keeps pend tmin (State.cfgRequest s f reg w) := by
  unfold State.cfgRequest
  repeat' first
    | with_reducible assumption | with_reducible refine Keeps.ite ?_ ?_ | with_reducible refine Keeps.ite_snd ?_ ?_
    | with_reducible refine State.hpUp_keeps ?_ | with_reducible refine State.out_keeps ?_
    | with_reducible refine State.cfgWrite_keeps ?_ | (with_reducible refine Keeps.of_snd (by with_reducible assumption) ?_)
    | split | dsimp only

theorem execConfigRequest_keeps {f : Tenant} {reg : Fin 1024} {w : Option Word} {s : State} (hk : Keeps pend tmin s) :
    KeepsR pend tmin (execConfigRequest f reg w s) := by
  unfold execConfigRequest
  repeat' first
    | with_reducible assumption | with_reducible refine KeepsR.next ?_ | with_reducible refine State.cfgRequest_keeps ?_
    | split | dsimp only

theorem State.atsInvalidate_keeps {s : State} {f : Nat} {page : Nat} {r : Bool} {w : Bool} (hk : Keeps pend tmin s) :
    Keeps pend tmin (State.atsInvalidate s f page r w) := by
  unfold State.atsInvalidate
  repeat' first
    | with_reducible assumption | with_reducible refine Keeps.ite ?_ ?_ | with_reducible refine State.out_keeps ?_
    | simp only [Keeps.update] | with_reducible refine KeepsU.all ?_
    | (with_reducible refine Keeps.of_snd (by with_reducible assumption) ?_) | split | dsimp only

theorem execAtsInvalidate_keeps {f : Tenant} {page : BitVec 52} {r : Bool} {w : Bool} {s : State} (hk : Keeps pend tmin s) :
    KeepsR pend tmin (execAtsInvalidate f page r w s) := by
  unfold execAtsInvalidate
  repeat' first
    | with_reducible assumption | with_reducible refine KeepsR.next ?_ | with_reducible refine State.atsInvalidate_keeps ?_
    | split | dsimp only

theorem State.pmeTurnOff_keeps {s : State} (hk : Keeps pend tmin s) :
    Keeps pend tmin (State.pmeTurnOff s) := by
  unfold State.pmeTurnOff
  repeat' first
    | with_reducible assumption | with_reducible refine State.out_keeps ?_ | simp only [Keeps.update]
    | with_reducible refine KeepsU.all ?_ | split | dsimp only

theorem execPmeTurnOff_keeps {s : State} (hk : Keeps pend tmin s) :
    KeepsR pend tmin (execPmeTurnOff s) := by
  unfold execPmeTurnOff
  repeat' first
    | with_reducible assumption | with_reducible refine KeepsR.next ?_ | with_reducible refine State.pmeTurnOff_keeps ?_
    | split | dsimp only

end Sys2Proof.Machine
end

