-- ==== Sys2Proof/Laws/Keeps/Security.lean ====
section
/-! SUPPORT. The operations of Machine/Security.lean keep the queue, rack time and the canonical forms (see Laws/Keeps). -/
namespace Sys2Proof.Machine
variable {pend : List Instr} {tmin : Nat}

theorem State.kmbRead_keeps {s : State} {n : Nat} {fails : Bool} (hk : Keeps pend tmin s) :
    Keeps pend tmin (State.kmbRead s n fails).2 := by
  unfold State.kmbRead
  repeat' first
    | with_reducible assumption | with_reducible refine Keeps.ite ?_ ?_ | with_reducible refine Keeps.ite_snd ?_ ?_
    | with_reducible refine State.areaCheck_keeps ?_ | with_reducible refine State.areaRead_keeps ?_
    | with_reducible refine State.memRead_keeps ?_ | (with_reducible refine Keeps.of_snd (by with_reducible assumption) ?_)
    | split | dsimp only

theorem State.kmbZero_keeps {s : State} {n : Nat} (hk : Keeps pend tmin s) :
    Keeps pend tmin (State.kmbZero s n) := by
  unfold State.kmbZero
  repeat' first
    | with_reducible assumption | with_reducible refine Keeps.ite ?_ ?_ | with_reducible refine Keeps.ite_snd ?_ ?_
    | with_reducible refine State.extWrite_keeps ?_ | with_reducible refine State.memWrite_keeps ?_
    | with_reducible refine Keeps.foldl ?_ (fun _ _ _ => ?_) | with_reducible refine Keeps.foldl_snd ?_ (fun _ _ _ => ?_)
    | (with_reducible refine Keeps.of_snd (by with_reducible assumption) ?_) | split | dsimp only

theorem State.kmbEnd_keeps {s : State} {code : Nat} (hk : Keeps pend tmin s) :
    Keeps pend tmin (State.kmbEnd s code) := by
  unfold State.kmbEnd
  repeat' first
    | with_reducible assumption | with_reducible refine State.set_keeps ?_ | split | dsimp only

theorem State.kmb_keeps {s : State} {f : State → Nat × State} (h : Keeps pend tmin s)
    (hf : ∀ u, Keeps pend tmin u → Keeps pend tmin (f u).2) : Keeps pend tmin (State.kmb s f) :=
  Keeps.ite (State.stick_keeps h) (State.kmbEnd_keeps (hf s h))

theorem State.kmbBuf_keeps {s : State} {n : Nat} {secret fails : Bool} {f : State → List (BitVec 8) → Nat × State}
    (h : Keeps pend tmin s) (hf : ∀ u b, Keeps pend tmin u → Keeps pend tmin (f u b).2) :
    Keeps pend tmin (State.kmbBuf s n secret fails f) := by
  unfold State.kmbBuf
  refine State.kmb_keeps h fun u hu => ?_
  repeat' first
    | with_reducible assumption | with_reducible refine State.kmbRead_keeps ?_ | with_reducible refine State.kmbZero_keeps ?_
    | exact hf _ _ ‹_› | with_reducible refine hf _ _ ?_ | with_reducible refine Keeps.ite ?_ ?_
    | with_reducible refine Keeps.ite_snd ?_ ?_ | exact Nat.le_refl _ | exact fun w => w
    | (with_reducible refine Keeps.of_snd (by with_reducible assumption) ?_)
    | (with_reducible refine Keeps.of_some (by with_reducible assumption) ?_) | split | dsimp only

theorem State.secTrace_keeps {s : State} {k : Nat} {slot : Nat} {arg : Nat} (hk : Keeps pend tmin s) :
    Keeps pend tmin (State.secTrace s k slot arg) := by
  unfold State.secTrace
  repeat' first
    | with_reducible assumption | with_reducible refine State.trace_keeps ?_ | split | dsimp only

theorem State.keyInstall_keeps {s : State} {slot : Nat} {b : List (BitVec 8)} (hk : Keeps pend tmin s) :
    Keeps pend tmin (State.keyInstall s slot b).2 := by
  unfold State.keyInstall
  repeat' first
    | with_reducible assumption | with_reducible refine Keeps.ite ?_ ?_ | with_reducible refine Keeps.ite_snd ?_ ?_
    | with_reducible refine State.vaultPut_keeps ?_ | with_reducible refine State.secTrace_keeps ?_
    | simp only [Keeps.update] | with_reducible refine KeepsU.all ?_ | split | dsimp only

theorem execKeyInstall_keeps {slot : Fin 32} {fails : Bool} {s : State} (hk : Keeps pend tmin s) :
    KeepsR pend tmin (execKeyInstall slot fails s) := by
  unfold execKeyInstall
  repeat' first
    | with_reducible assumption | with_reducible refine KeepsR.next ?_ | with_reducible refine Keeps.ite ?_ ?_
    | with_reducible refine KeepsR.ite ?_ ?_ | with_reducible refine Keeps.ite_snd ?_ ?_
    | with_reducible refine State.kmb_keeps ?_ (fun _ _ => ?_)
    | with_reducible refine State.kmbBuf_keeps ?_ (fun _ _ _ => ?_) | with_reducible refine State.keyInstall_keeps ?_
    | split | dsimp only

theorem State.keyErase_keeps {s : State} {slot : Nat} (hk : Keeps pend tmin s) :
    Keeps pend tmin (State.keyErase s slot) := by
  unfold State.keyErase
  repeat' first
    | with_reducible assumption | with_reducible refine Keeps.ite ?_ ?_ | with_reducible refine State.vaultPut_keeps ?_
    | with_reducible refine State.secTrace_keeps ?_ | simp only [Keeps.update] | with_reducible refine KeepsU.all ?_ | split
    | dsimp only

theorem execKeyErase_keeps {slot : Fin 32} {s : State} (hk : Keeps pend tmin s) :
    KeepsR pend tmin (execKeyErase slot s) := by
  unfold execKeyErase
  repeat' first
    | with_reducible assumption | with_reducible refine KeepsR.next ?_ | with_reducible refine Keeps.ite ?_ ?_
    | with_reducible refine KeepsR.ite ?_ ?_ | with_reducible refine State.kmb_keeps ?_ (fun _ _ => ?_)
    | with_reducible refine State.keyErase_keeps ?_ | split | dsimp only

theorem State.putLpKey_keeps {s : State} {b : List (BitVec 8)} (hk : Keeps pend tmin s) :
    Keeps pend tmin (State.putLpKey s b) := by
  unfold State.putLpKey
  repeat' first
    | with_reducible assumption | with_reducible refine State.set_keeps ?_
    | with_reducible refine Keeps.foldl ?_ (fun _ _ _ => ?_) | with_reducible refine Keeps.foldl_snd ?_ (fun _ _ _ => ?_)
    | split | dsimp only

theorem execLpKey_keeps {fails : Bool} {s : State} (hk : Keeps pend tmin s) :
    KeepsR pend tmin (execLpKey fails s) := by
  unfold execLpKey
  repeat' first
    | with_reducible assumption | with_reducible refine KeepsR.next ?_ | with_reducible refine Keeps.ite ?_ ?_
    | with_reducible refine KeepsR.ite ?_ ?_ | with_reducible refine State.kmbBuf_keeps ?_ (fun _ _ _ => ?_)
    | with_reducible refine State.vaultPut_keeps ?_ | with_reducible refine State.putLpKey_keeps ?_
    | with_reducible refine State.secTrace_keeps ?_ | simp only [Keeps.update] | with_reducible refine KeepsU.all ?_ | split
    | dsimp only

theorem State.credInstall_keeps {s : State} {c : List (BitVec 8)} (hk : Keeps pend tmin s) :
    Keeps pend tmin (State.credInstall s c).2 := by
  unfold State.credInstall
  repeat' first
    | with_reducible assumption | with_reducible refine Keeps.ite ?_ ?_ | with_reducible refine Keeps.ite_snd ?_ ?_
    | with_reducible refine State.vaultPut_keeps ?_ | with_reducible refine State.secTrace_keeps ?_
    | with_reducible refine State.set_keeps ?_ | simp only [Keeps.update] | with_reducible refine KeepsU.all ?_ | split
    | dsimp only

theorem execCredInstall_keeps {fails : Bool} {s : State} (hk : Keeps pend tmin s) :
    KeepsR pend tmin (execCredInstall fails s) := by
  unfold execCredInstall
  repeat' first
    | with_reducible assumption | with_reducible refine KeepsR.next ?_ | with_reducible refine Keeps.ite ?_ ?_
    | with_reducible refine KeepsR.ite ?_ ?_ | with_reducible refine Keeps.ite_snd ?_ ?_
    | with_reducible refine State.kmb_keeps ?_ (fun _ _ => ?_)
    | with_reducible refine State.kmbBuf_keeps ?_ (fun _ _ _ => ?_) | with_reducible refine State.credInstall_keeps ?_
    | split | dsimp only

theorem State.credEval_keeps {s : State} {t : Nat} (hk : Keeps pend tmin s) :
    Keeps pend tmin (State.credEval s t) := by
  unfold State.credEval
  repeat' first
    | with_reducible assumption | with_reducible refine Keeps.ite ?_ ?_ | with_reducible refine State.set_keeps ?_
    | with_reducible refine State.stickIrq_keeps ?_ | with_reducible refine State.secTrace_keeps ?_
    | simp only [Keeps.update] | with_reducible refine KeepsU.all ?_ | split | dsimp only

theorem State.credEvalAll_keeps {s : State} (hk : Keeps pend tmin s) :
    Keeps pend tmin (State.credEvalAll s) := by
  unfold State.credEvalAll
  repeat' first
    | with_reducible assumption | with_reducible refine Keeps.ite ?_ ?_ | with_reducible refine State.credEval_keeps ?_
    | with_reducible refine Keeps.foldl ?_ (fun _ _ _ => ?_) | with_reducible refine Keeps.foldl_snd ?_ (fun _ _ _ => ?_)
    | split | dsimp only

theorem execCredentialEvaluate_keeps {s : State} (hk : Keeps pend tmin s) :
    KeepsR pend tmin (execCredentialEvaluate s) := by
  unfold execCredentialEvaluate
  repeat' first
    | with_reducible assumption | with_reducible refine KeepsR.next ?_ | with_reducible refine State.credEvalAll_keeps ?_
    | split | dsimp only

theorem execCredRevoke_keeps {arg : BitVec 16} {s : State} (hk : Keeps pend tmin s) :
    KeepsR pend tmin (execCredRevoke arg s) := by
  unfold execCredRevoke
  repeat' first
    | with_reducible assumption | with_reducible refine KeepsR.next ?_ | with_reducible refine Keeps.ite ?_ ?_
    | with_reducible refine KeepsR.ite ?_ ?_ | with_reducible refine State.kmb_keeps ?_ (fun _ _ => ?_)
    | with_reducible refine State.set_keeps ?_ | with_reducible refine State.credEvalAll_keeps ?_ | split | dsimp only

theorem State.authSet_keeps {s : State} {arg : Nat} {b : List (BitVec 8)} (hk : Keeps pend tmin s) :
    Keeps pend tmin (State.authSet s arg b).2 := by
  unfold State.authSet
  repeat' first
    | with_reducible assumption | with_reducible refine Keeps.ite ?_ ?_ | with_reducible refine Keeps.ite_snd ?_ ?_
    | simp only [Keeps.update] | with_reducible refine KeepsU.all ?_ | split | dsimp only

theorem execAuthSet_keeps {arg : BitVec 16} {fails : Bool} {s : State} (hk : Keeps pend tmin s) :
    KeepsR pend tmin (execAuthSet arg fails s) := by
  unfold execAuthSet
  repeat' first
    | with_reducible assumption | with_reducible refine KeepsR.next ?_ | with_reducible refine Keeps.ite ?_ ?_
    | with_reducible refine KeepsR.ite ?_ ?_ | with_reducible refine Keeps.ite_snd ?_ ?_
    | with_reducible refine State.kmb_keeps ?_ (fun _ _ => ?_)
    | with_reducible refine State.kmbBuf_keeps ?_ (fun _ _ _ => ?_) | with_reducible refine State.authSet_keeps ?_ | split
    | dsimp only

theorem State.lifecycle_keeps {s : State} {l : Nat} (hk : Keeps pend tmin s) :
    Keeps pend tmin (State.lifecycle s l) := by
  unfold State.lifecycle
  repeat' first
    | with_reducible assumption | with_reducible refine State.set_keeps ?_ | with_reducible refine State.secTrace_keeps ?_
    | split | dsimp only

theorem State.decomStart_keeps {s : State} (hk : Keeps pend tmin s) :
    Keeps pend tmin (State.decomStart s) := by
  unfold State.decomStart
  repeat' first
    | with_reducible assumption | with_reducible refine State.set_keeps ?_ | with_reducible refine State.ctxReset_keeps ?_
    | with_reducible refine Keeps.foldl ?_ (fun _ _ _ => ?_) | with_reducible refine Keeps.foldl_snd ?_ (fun _ _ _ => ?_)
    | simp only [Keeps.update] | with_reducible refine KeepsU.all ?_ | split | dsimp only

theorem State.lcAdvance_keeps {s : State} {arg : Nat} (hk : Keeps pend tmin s) :
    Keeps pend tmin (State.lcAdvance s arg) := by
  unfold State.lcAdvance
  repeat' first
    | with_reducible assumption | with_reducible refine Keeps.ite ?_ ?_ | with_reducible refine State.stick_keeps ?_
    | with_reducible refine State.lifecycle_keeps ?_ | with_reducible refine State.kmbEnd_keeps ?_
    | with_reducible refine State.decomStart_keeps ?_ | split | dsimp only

theorem execLcAdvance_keeps {arg : BitVec 16} {s : State} (hk : Keeps pend tmin s) :
    KeepsR pend tmin (execLcAdvance arg s) := by
  unfold execLcAdvance
  repeat' first
    | with_reducible assumption | with_reducible refine KeepsR.next ?_ | with_reducible refine Keeps.ite ?_ ?_
    | with_reducible refine KeepsR.ite ?_ ?_ | with_reducible refine State.lcAdvance_keeps ?_ | split | dsimp only

theorem State.wipeMemory_keeps {s : State} {keepCf : Bool} (h : Keeps pend tmin s) : Keeps pend tmin (State.wipeMemory s keepCf) := by
  unfold State.wipeMemory
  refine State.set_keeps (State.set_keeps (State.set_keeps ?_))
  cases keepCf <;> simp only [Bool.false_eq_true, if_true, if_false]
  · refine Keeps.update.mpr (KeepsU.of h (Nat.le_refl _) ?_ fun w => w)
    exact fun w => Mem.wf_zeroRange _ _ _ _ (Mem.wf_zeroRange _ _ _ _ (Mem.wf_zeroRange _ _ _ _ w))
  · refine Keeps.update.mpr (KeepsU.of h (Nat.le_refl _) ?_ fun w => w)
    exact fun w => Mem.wf_zeroRange _ _ _ _ (Mem.wf_zeroRange _ _ _ _ (Mem.wf_zeroRange _ _ _ _ (Mem.wf_zeroRange _ _ _ _ w)))

theorem State.decomEnd_keeps {s : State} (hk : Keeps pend tmin s) :
    Keeps pend tmin (State.decomEnd s) := by
  unfold State.decomEnd
  repeat' first
    | with_reducible assumption | with_reducible refine Keeps.ite ?_ ?_ | with_reducible refine State.eraseKeys_keeps ?_
    | with_reducible refine State.wipeMemory_keeps ?_ | with_reducible refine State.lifecycle_keeps ?_
    | with_reducible refine State.kmbEnd_keeps ?_ | simp only [Keeps.update] | with_reducible refine KeepsU.all ?_ | split
    | dsimp only

theorem execDecommissionComplete_keeps {s : State} (hk : Keeps pend tmin s) :
    KeepsR pend tmin (execDecommissionComplete s) := by
  unfold execDecommissionComplete
  repeat' first
    | with_reducible assumption | with_reducible refine KeepsR.next ?_ | with_reducible refine State.decomEnd_keeps ?_
    | split | dsimp only

theorem State.svnAdvance_keeps {s : State} (hk : Keeps pend tmin s) :
    Keeps pend tmin (State.svnAdvance s) := by
  unfold State.svnAdvance
  repeat' first
    | with_reducible assumption | with_reducible refine Keeps.ite ?_ ?_ | with_reducible refine State.set_keeps ?_
    | with_reducible refine State.secTrace_keeps ?_ | simp only [Keeps.update] | with_reducible refine KeepsU.all ?_ | split
    | dsimp only

theorem execSvnAdvance_keeps {s : State} (hk : Keeps pend tmin s) :
    KeepsR pend tmin (execSvnAdvance s) := by
  unfold execSvnAdvance
  repeat' first
    | with_reducible assumption | with_reducible refine KeepsR.next ?_ | with_reducible refine Keeps.ite ?_ ?_
    | with_reducible refine KeepsR.ite ?_ ?_ | with_reducible refine State.kmb_keeps ?_ (fun _ _ => ?_)
    | with_reducible refine State.svnAdvance_keeps ?_ | split | dsimp only

theorem State.debugTrace_keeps {s : State} {k : Nat} {old : Nat} {new : Nat} (hk : Keeps pend tmin s) :
    Keeps pend tmin (State.debugTrace s k old new) := by
  unfold State.debugTrace
  repeat' first
    | with_reducible assumption | with_reducible refine State.trace_keeps ?_ | split | dsimp only

theorem State.newChal_keeps {s : State} (hk : Keeps pend tmin s) :
    Keeps pend tmin (State.newChal s) := by
  unfold State.newChal
  repeat' first
    | with_reducible assumption | with_reducible refine State.set64_keeps ?_ | with_reducible refine State.draw_keeps ?_
    | with_reducible refine Keeps.foldl ?_ (fun _ _ _ => ?_) | with_reducible refine Keeps.foldl_snd ?_ (fun _ _ _ => ?_)
    | split | dsimp only

theorem State.detach_keeps {s : State} (hk : Keeps pend tmin s) :
    Keeps pend tmin (State.detach s) := by
  unfold State.detach
  repeat' first
    | with_reducible assumption | with_reducible refine Keeps.ite ?_ ?_ | with_reducible refine State.set_keeps ?_
    | with_reducible refine State.debugTrace_keeps ?_ | split | dsimp only

theorem State.setLevel_keeps {s : State} {l : Nat} (hk : Keeps pend tmin s) :
    Keeps pend tmin (State.setLevel s l) := by
  unfold State.setLevel
  repeat' first
    | with_reducible assumption | with_reducible refine Keeps.ite ?_ ?_ | with_reducible refine State.detach_keeps ?_
    | with_reducible refine State.set_keeps ?_ | with_reducible refine State.debugTrace_keeps ?_ | split | dsimp only

theorem State.raiseLevel_keeps {s : State} {l : Nat} (hk : Keeps pend tmin s) :
    Keeps pend tmin (State.raiseLevel s l) := by
  unfold State.raiseLevel
  repeat' first
    | with_reducible assumption | with_reducible refine Keeps.ite ?_ ?_ | with_reducible refine State.set_keeps ?_
    | with_reducible refine State.lpeUpdate_keeps ?_ | with_reducible refine State.ctxReset_keeps ?_
    | with_reducible refine State.setLevel_keeps ?_ | with_reducible refine Keeps.foldl ?_ (fun _ _ _ => ?_)
    | with_reducible refine Keeps.foldl_snd ?_ (fun _ _ _ => ?_) | simp only [Keeps.update]
    | with_reducible refine KeepsU.all ?_ | split | dsimp only

theorem State.token_keeps {s : State} {b : List (BitVec 8)} (hk : Keeps pend tmin s) :
    Keeps pend tmin (State.token s b).2 := by
  unfold State.token
  repeat' first
    | with_reducible assumption | with_reducible refine Keeps.ite ?_ ?_ | with_reducible refine Keeps.ite_snd ?_ ?_
    | with_reducible refine State.set_keeps ?_ | with_reducible refine State.newChal_keeps ?_
    | with_reducible refine State.raiseLevel_keeps ?_ | with_reducible refine State.stickIrq_keeps ?_
    | with_reducible refine State.debugTrace_keeps ?_ | split | dsimp only

theorem execDbgToken_keeps {jtag : Option (List Byte)} {fails : Bool} {s : State} (hk : Keeps pend tmin s) :
    KeepsR pend tmin (execDbgToken jtag fails s) := by
  unfold execDbgToken
  repeat' first
    | with_reducible assumption | with_reducible refine KeepsR.next ?_ | with_reducible refine Keeps.ite ?_ ?_
    | with_reducible refine KeepsR.ite ?_ ?_ | with_reducible refine Keeps.ite_snd ?_ ?_
    | with_reducible refine State.token_keeps ?_ | with_reducible refine State.kmbBuf_keeps ?_ (fun _ _ _ => ?_)
    | simp only [Keeps.update] | with_reducible refine KeepsU.all ?_
    | (with_reducible refine Keeps.of_snd (by with_reducible assumption) ?_) | split | dsimp only

theorem State.unlockEnd_keeps {s : State} (hk : Keeps pend tmin s) :
    Keeps pend tmin (State.unlockEnd s) := by
  unfold State.unlockEnd
  repeat' first
    | with_reducible assumption | with_reducible refine Keeps.ite ?_ ?_ | with_reducible refine Keeps.ite_snd ?_ ?_
    | with_reducible refine State.eraseKeys_keeps ?_ | with_reducible refine State.wipeMemory_keeps ?_
    | with_reducible refine State.set_keeps ?_ | with_reducible refine State.debugTrace_keeps ?_ | simp only [Keeps.update]
    | with_reducible refine KeepsU.all ?_ | (with_reducible refine Keeps.of_snd (by with_reducible assumption) ?_) | split
    | dsimp only

theorem execD2UnlockComplete_keeps {s : State} (hk : Keeps pend tmin s) :
    KeepsR pend tmin (execD2UnlockComplete s) := by
  unfold execD2UnlockComplete
  repeat' first
    | with_reducible assumption | with_reducible refine KeepsR.next ?_ | with_reducible refine State.unlockEnd_keeps ?_
    | split | dsimp only

theorem State.levelWrite_keeps {s : State} {v : Nat} {jtag : Bool} (hk : Keeps pend tmin s) :
    Keeps pend tmin (State.levelWrite s v jtag) := by
  unfold State.levelWrite
  repeat' first
    | with_reducible assumption | with_reducible refine Keeps.ite ?_ ?_ | with_reducible refine State.stick_keeps ?_
    | with_reducible refine State.set_keeps ?_ | with_reducible refine State.setLevel_keeps ?_
    | with_reducible refine State.raiseLevel_keeps ?_ | split | dsimp only

theorem execDebugLevelWrite_keeps {v : Word} {jtag : Bool} {s : State} (hk : Keeps pend tmin s) :
    KeepsR pend tmin (execDebugLevelWrite v jtag s) := by
  unfold execDebugLevelWrite
  repeat' first
    | with_reducible assumption | with_reducible refine KeepsR.next ?_ | with_reducible refine Keeps.ite ?_ ?_
    | with_reducible refine KeepsR.ite ?_ ?_ | with_reducible refine State.levelWrite_keeps ?_ | split | dsimp only

theorem State.tapTo_keeps {s : State} {i : Nat} (hk : Keeps pend tmin s) :
    Keeps pend tmin (State.tapTo s i) := by
  unfold State.tapTo
  repeat' first
    | with_reducible assumption | simp only [Keeps.update] | with_reducible refine KeepsU.all ?_ | split | dsimp only

theorem execDbgChal_keeps {s : State} (hk : Keeps pend tmin s) :
    KeepsR pend tmin (execDbgChal s) := by
  unfold execDbgChal
  repeat' first
    | with_reducible assumption | with_reducible refine KeepsR.next ?_ | with_reducible refine State.tapTo_keeps ?_
    | with_reducible refine State.out_keeps ?_ | split | dsimp only

theorem execIdcode_keeps {s : State} (hk : Keeps pend tmin s) :
    KeepsR pend tmin (execIdcode s) := by
  unfold execIdcode
  repeat' first
    | with_reducible assumption | with_reducible refine KeepsR.next ?_ | with_reducible refine State.tapTo_keeps ?_
    | with_reducible refine State.out_keeps ?_ | split | dsimp only

theorem execBypass_keeps {s : State} (hk : Keeps pend tmin s) :
    KeepsR pend tmin (execBypass s) := by
  unfold execBypass
  repeat' first
    | with_reducible assumption | with_reducible refine KeepsR.next ?_ | with_reducible refine State.tapTo_keeps ?_ | split
    | dsimp only

theorem execSamplePreload_keeps {data : List Bool} {s : State} (hk : Keeps pend tmin s) :
    KeepsR pend tmin (execSamplePreload data s) := by
  unfold execSamplePreload
  repeat' first
    | with_reducible assumption | with_reducible refine KeepsR.next ?_ | with_reducible refine State.tapTo_keeps ?_
    | with_reducible refine State.out_keeps ?_ | with_reducible refine State.draw_keeps ?_ | simp only [Keeps.update]
    | with_reducible refine KeepsU.all ?_ | split | dsimp only

theorem execExtest_keeps {s : State} (hk : Keeps pend tmin s) :
    KeepsR pend tmin (execExtest s) := by
  unfold execExtest
  repeat' first
    | with_reducible assumption | with_reducible refine KeepsR.next ?_ | with_reducible refine Keeps.ite ?_ ?_
    | with_reducible refine KeepsR.ite ?_ ?_ | with_reducible refine State.tapTo_keeps ?_ | split | dsimp only

theorem execClamp_keeps {s : State} (hk : Keeps pend tmin s) :
    KeepsR pend tmin (execClamp s) := by
  unfold execClamp
  repeat' first
    | with_reducible assumption | with_reducible refine KeepsR.next ?_ | with_reducible refine Keeps.ite ?_ ?_
    | with_reducible refine KeepsR.ite ?_ ?_ | with_reducible refine State.tapTo_keeps ?_ | split | dsimp only

theorem execHighz_keeps {s : State} (hk : Keeps pend tmin s) :
    KeepsR pend tmin (execHighz s) := by
  unfold execHighz
  repeat' first
    | with_reducible assumption | with_reducible refine KeepsR.next ?_ | with_reducible refine Keeps.ite ?_ ?_
    | with_reducible refine KeepsR.ite ?_ ?_ | with_reducible refine State.tapTo_keeps ?_ | split | dsimp only

theorem execTrstNAssert_keeps {s : State} (hk : Keeps pend tmin s) :
    KeepsR pend tmin (execTrstNAssert s) := by
  unfold execTrstNAssert
  repeat' first
    | with_reducible assumption | with_reducible refine KeepsR.next ?_ | with_reducible refine State.tapTo_keeps ?_ | split
    | dsimp only

theorem State.traceRead_keeps {s : State} {i : Nat} (hk : Keeps pend tmin s) :
    Keeps pend tmin (State.traceRead s i).2 := by
  unfold State.traceRead
  repeat' first
    | with_reducible assumption | with_reducible refine Keeps.ite ?_ ?_ | with_reducible refine Keeps.ite_snd ?_ ?_
    | with_reducible refine State.memReadFree_keeps ?_ | split | dsimp only

theorem execDbgTrace_keeps {reg : Bool} {i : Fin 131072} {s : State} (hk : Keeps pend tmin s) :
    KeepsR pend tmin (execDbgTrace reg i s) := by
  unfold execDbgTrace
  repeat' first
    | with_reducible assumption | with_reducible refine KeepsR.next ?_ | with_reducible refine Keeps.ite ?_ ?_
    | with_reducible refine KeepsR.ite ?_ ?_ | with_reducible refine Keeps.ite_snd ?_ ?_
    | with_reducible refine State.tapTo_keeps ?_ | with_reducible refine State.out_keeps ?_
    | with_reducible refine State.traceRead_keeps ?_
    | (with_reducible refine Keeps.of_snd (by with_reducible assumption) ?_) | split | dsimp only

theorem State.attach_keeps {s : State} (hk : Keeps pend tmin s) :
    Keeps pend tmin (State.attach s) := by
  unfold State.attach
  repeat' first
    | with_reducible assumption | with_reducible refine Keeps.ite ?_ ?_ | with_reducible refine State.set_keeps ?_
    | with_reducible refine State.debugTrace_keeps ?_ | split | dsimp only

theorem execDebuggerAttach_keeps {s : State} (hk : Keeps pend tmin s) :
    KeepsR pend tmin (execDebuggerAttach s) := by
  unfold execDebuggerAttach
  repeat' first
    | with_reducible assumption | with_reducible refine KeepsR.next ?_ | with_reducible refine State.attach_keeps ?_ | split
    | dsimp only

theorem execDebuggerDetach_keeps {s : State} (hk : Keeps pend tmin s) :
    KeepsR pend tmin (execDebuggerDetach s) := by
  unfold execDebuggerDetach
  repeat' first
    | with_reducible assumption | with_reducible refine KeepsR.next ?_ | with_reducible refine State.detach_keeps ?_ | split
    | dsimp only

theorem State.trcUser_keeps {s : State} {v : Nat} (hk : Keeps pend tmin s) :
    Keeps pend tmin (State.trcUser s v) := by
  unfold State.trcUser
  repeat' first
    | with_reducible assumption | with_reducible refine State.set_keeps ?_ | with_reducible refine State.trace_keeps ?_
    | split | dsimp only

theorem execTrcUser_keeps {v : Word} {s : State} (hk : Keeps pend tmin s) :
    KeepsR pend tmin (execTrcUser v s) := by
  unfold execTrcUser
  repeat' first
    | with_reducible assumption | with_reducible refine KeepsR.next ?_ | with_reducible refine Keeps.ite ?_ ?_
    | with_reducible refine KeepsR.ite ?_ ?_ | with_reducible refine State.trcUser_keeps ?_ | split | dsimp only

theorem State.spdmError_keeps {s : State} {code : Nat} {data : Nat} (hk : Keeps pend tmin s) :
    Keeps pend tmin (State.spdmError s code data) := by
  unfold State.spdmError
  repeat' first
    | with_reducible assumption | with_reducible refine State.out_keeps ?_ | split | dsimp only

theorem State.spdmReply_keeps {s : State} {c : Nat} {req : List (BitVec 8)} (hk : Keeps pend tmin s) :
    Keeps pend tmin (State.spdmReply s c req) := by
  unfold State.spdmReply
  repeat' first
    | with_reducible assumption | with_reducible refine Keeps.ite ?_ ?_ | with_reducible refine State.out_keeps ?_ | split
    | dsimp only

theorem State.setSession_keeps {s : State} {k : Nat} {x : Option Bool} (hk : Keeps pend tmin s) :
    Keeps pend tmin (State.setSession s k x) := by
  unfold State.setSession
  repeat' first
    | with_reducible assumption | simp only [Keeps.update] | with_reducible refine KeepsU.all ?_
    | (with_reducible refine Keeps.of_snd (by with_reducible assumption) ?_) | split | dsimp only

theorem State.ideKm_keeps {s : State} {req : List (BitVec 8)} (hk : Keeps pend tmin s) :
    Keeps pend tmin (State.ideKm s req) := by
  unfold State.ideKm
  repeat' first
    | with_reducible assumption | with_reducible refine Keeps.ite ?_ ?_ | simp only [Keeps.update]
    | with_reducible refine KeepsU.all ?_ | split | dsimp only

theorem State.spdm_keeps {s : State} {c : Nat} {n : Option Nat} {req : List (BitVec 8)} (hk : Keeps pend tmin s) :
    Keeps pend tmin (State.spdm s c n req) := by
  unfold State.spdm
  repeat' first
    | with_reducible assumption | with_reducible refine Keeps.ite ?_ ?_ | with_reducible refine Keeps.ite_snd ?_ ?_
    | with_reducible refine State.spdmError_keeps ?_ | with_reducible refine State.spdmReply_keeps ?_
    | with_reducible refine State.setSession_keeps ?_ | with_reducible refine State.ideKm_keeps ?_
    | (with_reducible refine Keeps.of_snd (by with_reducible assumption) ?_) | split | dsimp only

theorem execSpdmRequest_keeps {code : Byte} {session : Option (Fin 4)} {req : List Byte} {s : State} (hk : Keeps pend tmin s) :
    KeepsR pend tmin (execSpdmRequest code session req s) := by
  unfold execSpdmRequest
  repeat' first
    | with_reducible assumption | with_reducible refine KeepsR.next ?_ | with_reducible refine State.spdm_keeps ?_ | split
    | dsimp only

theorem State.attest_keeps {s : State} {id : Nat} {fails : Bool} (hk : Keeps pend tmin s) :
    Keeps pend tmin (State.attest s id fails) := by
  unfold State.attest
  repeat' first
    | with_reducible assumption | with_reducible refine Keeps.ite ?_ ?_ | with_reducible refine Keeps.ite_snd ?_ ?_
    | with_reducible refine State.out_keeps ?_ | with_reducible refine State.fail_keeps ?_
    | with_reducible refine State.areaCheck_keeps ?_ | with_reducible refine State.areaWrite_keeps ?_
    | with_reducible refine State.modCmd_keeps ?_ | with_reducible refine State.finish_keeps ?_ | simp only [Keeps.update]
    | with_reducible refine KeepsU.all ?_ | (with_reducible refine Keeps.of_snd (by with_reducible assumption) ?_)
    | (with_reducible refine Keeps.of_some (by with_reducible assumption) ?_) | with_reducible exact KeepsO.none
    | with_reducible refine KeepsO.some ?_ | with_reducible refine KeepsO.ite ?_ ?_ | split | dsimp only

end Sys2Proof.Machine
end

