-- ==== Sys2Proof/Laws/Keeps/Power.lean ====
section
/-! SUPPORT. The operations of Machine/Power.lean keep the queue, rack time and the canonical forms (see Laws/Keeps). -/
namespace Sys2Proof.Machine
variable {pend : List Instr} {tmin : Nat}

theorem State.limitUpdate_keeps {s : State} (hk : Keeps pend tmin s) :
    Keeps pend tmin (State.limitUpdate s) := by
  unfold State.limitUpdate
  repeat' first
    | with_reducible assumption | with_reducible refine State.set_keeps ?_
    | (with_reducible refine Keeps.of_snd (by with_reducible assumption) ?_) | split | dsimp only

theorem State.stepDeepen_keeps {s : State} {k : Nat} (hk : Keeps pend tmin s) :
    Keeps pend tmin (State.stepDeepen s k) := by
  unfold State.stepDeepen
  repeat' first
    | with_reducible assumption | with_reducible refine State.set_keeps ?_ | with_reducible refine State.draw_keeps ?_
    | (with_reducible refine Keeps.of_snd (by with_reducible assumption) ?_) | split | dsimp only

theorem State.stepRelease_keeps {s : State} {k : Nat} (hk : Keeps pend tmin s) :
    Keeps pend tmin (State.stepRelease s k) := by
  unfold State.stepRelease
  repeat' first
    | with_reducible assumption | with_reducible refine State.set_keeps ?_
    | (with_reducible refine Keeps.of_snd (by with_reducible assumption) ?_) | split | dsimp only

theorem State.throttleMore_keeps {s : State} (hk : Keeps pend tmin s) :
    Keeps pend tmin (State.throttleMore s) := by
  unfold State.throttleMore
  repeat' first
    | with_reducible assumption | with_reducible refine Keeps.ite ?_ ?_ | with_reducible refine Keeps.ite_snd ?_ ?_
    | with_reducible refine State.stepDeepen_keeps ?_ | with_reducible refine State.stickIrq_keeps ?_
    | with_reducible refine State.set_keeps ?_ | (with_reducible refine Keeps.of_snd (by with_reducible assumption) ?_)
    | split | dsimp only

theorem State.throttle_keeps {s : State} {avg : Nat} (hk : Keeps pend tmin s) :
    Keeps pend tmin (State.throttle s avg) := by
  unfold State.throttle
  repeat' first
    | with_reducible assumption | with_reducible refine Keeps.ite ?_ ?_ | with_reducible refine Keeps.ite_snd ?_ ?_
    | with_reducible refine State.throttleMore_keeps ?_ | with_reducible refine State.stepRelease_keeps ?_
    | simp only [Keeps.update] | with_reducible refine KeepsU.all ?_
    | (with_reducible refine Keeps.of_snd (by with_reducible assumption) ?_) | split | dsimp only

theorem State.powerSample_keeps {s : State} {mw : Nat} (hk : Keeps pend tmin s) :
    Keeps pend tmin (State.powerSample s mw) := by
  unfold State.powerSample
  repeat' first
    | with_reducible assumption | with_reducible refine State.advance_keeps ?_ | with_reducible refine State.set_keeps ?_
    | with_reducible refine State.limitUpdate_keeps ?_ | with_reducible refine State.throttle_keeps ?_
    | simp only [Keeps.update] | with_reducible refine KeepsU.all ?_ | split | dsimp only

theorem execPowerSample_keeps {mw : Nat} {s : State} (hk : Keeps pend tmin s) :
    KeepsR pend tmin (execPowerSample mw s) := by
  unfold execPowerSample
  repeat' first
    | with_reducible assumption | with_reducible refine KeepsR.next ?_ | with_reducible refine State.powerSample_keeps ?_
    | split | dsimp only

theorem State.grantFor_keeps {s : State} {c : Nat} (hk : Keeps pend tmin s) :
    Keeps pend tmin (State.grantFor s c).2 := by
  unfold State.grantFor
  repeat' first
    | with_reducible assumption | with_reducible refine Keeps.ite ?_ ?_ | with_reducible refine Keeps.ite_snd ?_ ?_
    | with_reducible refine State.stick_keeps ?_ | (with_reducible refine Keeps.of_snd (by with_reducible assumption) ?_)
    | split | dsimp only

theorem State.takeLease_keeps {s : State} {n : Nat} {e : Nat} (hk : Keeps pend tmin s) :
    Keeps pend tmin (State.takeLease s n e) := by
  unfold State.takeLease
  repeat' first
    | with_reducible assumption | with_reducible refine State.limitUpdate_keeps ?_ | simp only [Keeps.update]
    | with_reducible refine KeepsU.all ?_ | split | dsimp only

theorem State.girthAnswer_keeps {s : State} {c : Nat} (hk : Keeps pend tmin s) :
    Keeps pend tmin (State.girthAnswer s c) := by
  unfold State.girthAnswer
  repeat' first
    | with_reducible assumption | with_reducible refine Keeps.ite ?_ ?_ | with_reducible refine Keeps.ite_snd ?_ ?_
    | with_reducible refine State.grantFor_keeps ?_ | with_reducible refine State.set_keeps ?_
    | with_reducible refine State.takeLease_keeps ?_ | with_reducible refine State.sendVc3_keeps ?_
    | simp only [Keeps.update] | with_reducible refine KeepsU.all ?_
    | (with_reducible refine Keeps.of_snd (by with_reducible assumption) ?_) | split | dsimp only

theorem State.putAsk_keeps {s : State} {a : Ask} (hk : Keeps pend tmin s) :
    Keeps pend tmin (State.putAsk s a) := by
  unfold State.putAsk
  repeat' first
    | with_reducible assumption | simp only [Keeps.update] | with_reducible refine KeepsU.all ?_ | split | dsimp only

theorem State.girthAsk_keeps {s : State} {a : Ask} (hk : Keeps pend tmin s) :
    Keeps pend tmin (State.girthAsk s a) := by
  unfold State.girthAsk
  repeat' first
    | with_reducible assumption | with_reducible refine Keeps.ite ?_ ?_ | with_reducible refine Keeps.ite_snd ?_ ?_
    | with_reducible refine State.putAsk_keeps ?_ | with_reducible refine State.girthAnswer_keeps ?_
    | with_reducible refine State.sendVc3_keeps ?_ | (with_reducible refine Keeps.of_snd (by with_reducible assumption) ?_)
    | split | dsimp only

theorem execGirthRequestTimer_keeps {s : State} (hk : Keeps pend tmin s) :
    KeepsR pend tmin (execGirthRequestTimer s) := by
  unfold execGirthRequestTimer
  repeat' first
    | with_reducible assumption | with_reducible refine KeepsR.next ?_ | with_reducible refine State.girthAsk_keeps ?_
    | split | dsimp only

theorem State.girthReq_keeps {s : State} {p : Nat} {m : Msg} (hk : Keeps pend tmin s) :
    Keeps pend tmin (State.girthReq s p m) := by
  unfold State.girthReq
  repeat' first
    | with_reducible assumption | with_reducible refine State.girthAsk_keeps ?_
    | (with_reducible refine Keeps.of_snd (by with_reducible assumption) ?_) | split | dsimp only

theorem execGirthReq_keeps {p : Port} {m : Msg} {s : State} (hk : Keeps pend tmin s) :
    KeepsR pend tmin (execGirthReq p m s) := by
  unfold execGirthReq
  repeat' first
    | with_reducible assumption | with_reducible refine KeepsR.next ?_ | with_reducible refine State.girthReq_keeps ?_
    | split | dsimp only

theorem State.girthGrant_keeps {s : State} {m : Msg} (hk : Keeps pend tmin s) :
    Keeps pend tmin (State.girthGrant s m) := by
  unfold State.girthGrant
  repeat' first
    | with_reducible assumption | with_reducible refine Keeps.ite ?_ ?_ | with_reducible refine Keeps.ite_snd ?_ ?_
    | with_reducible refine State.takeLease_keeps ?_ | with_reducible refine State.sendVc3_keeps ?_
    | (with_reducible refine Keeps.of_snd (by with_reducible assumption) ?_) | split | dsimp only

theorem execGirthGrant_keeps {m : Msg} {s : State} (hk : Keeps pend tmin s) :
    KeepsR pend tmin (execGirthGrant m s) := by
  unfold execGirthGrant
  repeat' first
    | with_reducible assumption | with_reducible refine KeepsR.next ?_ | with_reducible refine State.girthGrant_keeps ?_
    | split | dsimp only

theorem State.girthRet_keeps {s : State} {m : Msg} (hk : Keeps pend tmin s) :
    Keeps pend tmin (State.girthRet s m) := by
  unfold State.girthRet
  repeat' first
    | with_reducible assumption | with_reducible refine Keeps.ite ?_ ?_ | with_reducible refine Keeps.ite_snd ?_ ?_
    | with_reducible refine State.set_keeps ?_ | with_reducible refine State.sendVc3_keeps ?_ | simp only [Keeps.update]
    | with_reducible refine KeepsU.all ?_ | (with_reducible refine Keeps.of_snd (by with_reducible assumption) ?_) | split
    | dsimp only

theorem execGirthRet_keeps {m : Msg} {s : State} (hk : Keeps pend tmin s) :
    KeepsR pend tmin (execGirthRet m s) := by
  unfold execGirthRet
  repeat' first
    | with_reducible assumption | with_reducible refine KeepsR.next ?_ | with_reducible refine State.girthRet_keeps ?_
    | split | dsimp only

theorem State.leaseExpire_keeps {s : State} (hk : Keeps pend tmin s) :
    Keeps pend tmin (State.leaseExpire s) := by
  unfold State.leaseExpire
  repeat' first
    | with_reducible assumption | with_reducible refine State.advance_keeps ?_
    | with_reducible refine State.limitUpdate_keeps ?_ | simp only [Keeps.update] | with_reducible refine KeepsU.all ?_
    | (with_reducible refine Keeps.of_snd (by with_reducible assumption) ?_) | split | dsimp only

theorem execLeaseExpiry_keeps {s : State} (hk : Keeps pend tmin s) :
    KeepsR pend tmin (execLeaseExpiry s) := by
  unfold execLeaseExpiry
  repeat' first
    | with_reducible assumption | with_reducible refine KeepsR.next ?_ | with_reducible refine State.leaseExpire_keeps ?_
    | split | dsimp only

theorem execMasterGraceEnd_keeps {s : State} (hk : Keeps pend tmin s) :
    KeepsR pend tmin (execMasterGraceEnd s) := by
  unfold execMasterGraceEnd
  repeat' first
    | with_reducible assumption | with_reducible refine KeepsR.next ?_ | with_reducible refine State.advance_keeps ?_
    | split | dsimp only

theorem State.girthReturn_keeps {s : State} (hk : Keeps pend tmin s) :
    Keeps pend tmin (State.girthReturn s) := by
  unfold State.girthReturn
  repeat' first
    | with_reducible assumption | with_reducible refine Keeps.ite ?_ ?_ | with_reducible refine Keeps.ite_snd ?_ ?_
    | with_reducible refine State.takeLease_keeps ?_ | with_reducible refine State.girthRet_keeps ?_
    | (with_reducible refine Keeps.of_snd (by with_reducible assumption) ?_) | split | dsimp only

theorem State.ibi_keeps {s : State} (hk : Keeps pend tmin s) :
    Keeps pend tmin (State.ibi s) := by
  unfold State.ibi
  repeat' first
    | with_reducible assumption | with_reducible refine Keeps.ite ?_ ?_ | with_reducible refine State.out_keeps ?_ | split
    | dsimp only

theorem State.i3cCap_keeps {s : State} {w : Nat} (hk : Keeps pend tmin s) :
    Keeps pend tmin (State.i3cCap s w) := by
  unfold State.i3cCap
  repeat' first
    | with_reducible assumption | with_reducible refine Keeps.ite ?_ ?_ | with_reducible refine State.limitUpdate_keeps ?_
    | with_reducible refine State.ibi_keeps ?_ | simp only [Keeps.update] | with_reducible refine KeepsU.all ?_ | split
    | dsimp only

theorem execI3cCapWrite_keeps {w : BitVec 16} {s : State} (hk : Keeps pend tmin s) :
    KeepsR pend tmin (execI3cCapWrite w s) := by
  unfold execI3cCapWrite
  repeat' first
    | with_reducible assumption | with_reducible refine KeepsR.next ?_ | with_reducible refine State.i3cCap_keeps ?_ | split
    | dsimp only

theorem State.i3cStatusRead_keeps {s : State} (hk : Keeps pend tmin s) :
    Keeps pend tmin (State.i3cStatusRead s) := by
  unfold State.i3cStatusRead
  repeat' first
    | with_reducible assumption | with_reducible refine State.out_keeps ?_ | simp only [Keeps.update]
    | with_reducible refine KeepsU.all ?_ | split | dsimp only

theorem execI3cStatusRead_keeps {s : State} (hk : Keeps pend tmin s) :
    KeepsR pend tmin (execI3cStatusRead s) := by
  unfold execI3cStatusRead
  repeat' first
    | with_reducible assumption | with_reducible refine KeepsR.next ?_ | with_reducible refine State.i3cStatusRead_keeps ?_
    | split | dsimp only

theorem State.i3cCcc_keeps {s : State} {code : Nat} {d : List (BitVec 8)} (hk : Keeps pend tmin s) :
    Keeps pend tmin (State.i3cCcc s code d) := by
  unfold State.i3cCcc
  repeat' first
    | with_reducible assumption | with_reducible refine Keeps.ite ?_ ?_ | with_reducible refine Keeps.ite_snd ?_ ?_
    | with_reducible refine State.out_keeps ?_ | simp only [Keeps.update] | with_reducible refine KeepsU.all ?_
    | (with_reducible refine Keeps.of_snd (by with_reducible assumption) ?_) | split | dsimp only

theorem execI3cCcc_keeps {op : I3cOp} {s : State} (hk : Keeps pend tmin s) :
    KeepsR pend tmin (execI3cCcc op s) := by
  unfold execI3cCcc
  repeat' first
    | with_reducible assumption | with_reducible refine KeepsR.next ?_ | with_reducible refine State.i3cCcc_keeps ?_
    | with_reducible refine State.i3cStatusRead_keeps ?_ | with_reducible refine State.out_keeps ?_
    | simp only [Keeps.update] | with_reducible refine KeepsU.all ?_
    | (with_reducible refine Keeps.of_snd (by with_reducible assumption) ?_) | split | dsimp only

theorem State.pwrRequest_keeps {s : State} {id : Nat} (hk : Keeps pend tmin s) :
    Keeps pend tmin (State.pwrRequest s id) := by
  unfold State.pwrRequest
  repeat' first
    | with_reducible assumption | with_reducible refine Keeps.ite ?_ ?_ | with_reducible refine Keeps.ite_snd ?_ ?_
    | with_reducible refine State.debugTrace_keeps ?_ | with_reducible refine State.fail_keeps ?_
    | with_reducible refine State.modCmd_keeps ?_ | simp only [Keeps.update] | with_reducible refine KeepsU.all ?_
    | (with_reducible refine Keeps.of_snd (by with_reducible assumption) ?_) | split | dsimp only

theorem State.dropMemory_keeps {s : State} {n : Nat} (hk : Keeps pend tmin s) :
    Keeps pend tmin (State.dropMemory s n) := by
  unfold State.dropMemory
  repeat' first
    | with_reducible assumption
    | exact fun w => Mem.wf_zeroRange _ _ _ _ (Mem.wf_zeroRange _ _ _ _ (Mem.wf_zeroRange _ _ _ _ w))
    | with_reducible refine Keeps.ite ?_ ?_ | simp only [Keeps.update] | with_reducible refine KeepsU.all ?_
    | with_reducible refine KeepsU.mem ?_ ?_ | exact Mem.wf_zeroRange _ _ _ _ | exact fun w => w | split | dsimp only

theorem State.portsDown_keeps {s : State} (hk : Keeps pend tmin s) :
    Keeps pend tmin (State.portsDown s) := by
  unfold State.portsDown
  repeat' first
    | with_reducible assumption | with_reducible refine Keeps.ite ?_ ?_ | with_reducible refine State.portLost_keeps ?_
    | with_reducible refine State.ethLink_keeps ?_ | with_reducible refine State.apLink_keeps ?_
    | with_reducible refine Keeps.foldl ?_ (fun _ _ _ => ?_) | with_reducible refine Keeps.foldl_snd ?_ (fun _ _ _ => ?_)
    | split | dsimp only

theorem State.retain_keeps {s : State} {n : Nat} (hk : Keeps pend tmin s) :
    Keeps pend tmin (State.retain s n) := by
  unfold State.retain
  repeat' first
    | with_reducible assumption | with_reducible refine Keeps.ite ?_ ?_ | with_reducible refine State.girthReturn_keeps ?_
    | with_reducible refine State.detach_keeps ?_ | with_reducible refine State.portsDown_keeps ?_
    | with_reducible refine State.set_keeps ?_ | with_reducible refine State.dropMemory_keeps ?_
    | with_reducible refine State.lpeUpdate_keeps ?_ | simp only [Keeps.update] | with_reducible refine KeepsU.all ?_
    | split | dsimp only

theorem State.autoHold_keeps {s : State} (hk : Keeps pend tmin s) :
    Keeps pend tmin (State.autoHold s) := by
  unfold State.autoHold
  repeat' first
    | with_reducible assumption | with_reducible refine Keeps.ite ?_ ?_ | with_reducible refine State.powerTrace_keeps ?_
    | with_reducible refine State.retain_keeps ?_ | simp only [Keeps.update] | with_reducible refine KeepsU.all ?_ | split
    | dsimp only

theorem execAutoHoldEntry_keeps {s : State} (hk : Keeps pend tmin s) :
    KeepsR pend tmin (execAutoHoldEntry s) := by
  unfold execAutoHoldEntry
  repeat' first
    | with_reducible assumption | with_reducible refine KeepsR.next ?_ | with_reducible refine State.autoHold_keeps ?_
    | split | dsimp only

theorem State.drainTimeout_keeps {s : State} (hk : Keeps pend tmin s) :
    Keeps pend tmin (State.drainTimeout s) := by
  unfold State.drainTimeout
  repeat' first
    | with_reducible assumption | with_reducible refine State.advance_keeps ?_ | with_reducible refine State.fail_keeps ?_
    | simp only [Keeps.update] | with_reducible refine KeepsU.all ?_
    | (with_reducible refine Keeps.of_snd (by with_reducible assumption) ?_) | split | dsimp only

theorem execDrainTimeout_keeps {s : State} (hk : Keeps pend tmin s) :
    KeepsR pend tmin (execDrainTimeout s) := by
  unfold execDrainTimeout
  repeat' first
    | with_reducible assumption | with_reducible refine KeepsR.next ?_ | with_reducible refine State.drainTimeout_keeps ?_
    | split | dsimp only

end Sys2Proof.Machine
end

