-- ==== Sys2Proof/Laws/Keeps/Startup.lean ====
section
/-! SUPPORT. The operations of Machine/Startup.lean keep the queue, rack time and the canonical forms (see Laws/Keeps). -/
namespace Sys2Proof.Machine
variable {pend : List Instr} {tmin : Nat}

theorem spWf_keepRegs {s : State} {keep : Nat → Bool} (w : spWf resetWord s.regs = true) : spWf resetWord (s.keepRegs keep) = true := by
  refine spWfFrom_filterMap resetWord _ (fun p r hp hr => ?_) 0 s.regs w
  dsimp only at hr
  split at hr
  · cases hr; exact ⟨rfl, hp⟩
  · split at hr
    · exact (Option.some_ne_none _ hr.symm).elim
    · next hne => cases hr; exact ⟨rfl, hne⟩

/-- A reset that loses rack time keeps the queue and the canonical forms. -/
theorem State.coldBase_keeps {s : State} (h : Keeps pend 0 s) : Keeps pend 0 (State.coldBase s) := by
  have hi := (State.inv_iff s).mp h.inv
  unfold State.coldBase
  exact State.set_keeps ⟨h.pending, Nat.zero_le _, (State.inv_iff _).mpr ⟨spWf_keepRegs hi.1, rfl, rfl, hi.2.2.2⟩⟩

theorem State.s4Base_keeps {s : State} (h : Keeps pend tmin s) : Keeps pend tmin (State.s4Base s) := by
  have hi := (State.inv_iff s).mp h.inv
  have hb := State.coldBase_keeps h.zero
  have hc := (State.inv_iff _).mp hb.inv
  unfold State.s4Base
  dsimp only
  repeat' first
    | with_reducible assumption | with_reducible refine State.set_keeps ?_ | with_reducible refine State.holdRefresh_keeps ?_
    | with_reducible refine State.enterHoldover_keeps ?_ | with_reducible refine Keeps.ite ?_ ?_
    | exact Keeps.parts hb.pending h.time (spWf_keepRegs hi.1) hc.2.1 hc.2.2.1 hc.2.2.2

theorem State.s4Enter_keeps {s : State} {cause : Nat} (hk : Keeps pend tmin s) :
    Keeps pend tmin (State.s4Enter s cause) := by
  unfold State.s4Enter
  repeat' first
    | with_reducible assumption | with_reducible refine State.fault_keeps ?_
    | with_reducible refine State.lastWords_keeps ?_ | with_reducible refine State.s4Base_keeps ?_ | split | dsimp only

theorem State.putRec_keeps {s : State} {r : BootRec} (hk : Keeps pend tmin s) :
    Keeps pend tmin (State.putRec s r) := by
  unfold State.putRec
  repeat' first
    | with_reducible assumption | with_reducible refine Keeps.ite ?_ ?_ | with_reducible refine Keeps.ite_snd ?_ ?_
    | simp only [Keeps.update] | with_reducible refine KeepsU.all ?_
    | (with_reducible refine Keeps.of_snd (by with_reducible assumption) ?_) | split | dsimp only

theorem State.slotTo_keeps {s : State} {slot : Nat} {x : Nat} (hk : Keeps pend tmin s) :
    Keeps pend tmin (State.slotTo s slot x) := by
  unfold State.slotTo
  repeat' first
    | with_reducible assumption | with_reducible refine State.putRec_keeps ?_ | split | dsimp only

theorem State.dropTrials_keeps {s : State} (hk : Keeps pend tmin s) :
    Keeps pend tmin (State.dropTrials s) := by
  unfold State.dropTrials
  repeat' first
    | with_reducible assumption | with_reducible refine Keeps.ite ?_ ?_ | with_reducible refine State.slotTo_keeps ?_
    | with_reducible refine State.stick_keeps ?_ | with_reducible refine Keeps.foldl ?_ (fun _ _ _ => ?_)
    | with_reducible refine Keeps.foldl_snd ?_ (fun _ _ _ => ?_) | split | dsimp only

theorem State.tryCandidate_keeps {a : Option Nat × State} {x : Nat} (hk : Keeps pend tmin a.2) :
    Keeps pend tmin (State.tryCandidate a x).2 := by
  unfold State.tryCandidate
  repeat' first
    | with_reducible assumption | with_reducible refine Keeps.ite ?_ ?_ | with_reducible refine Keeps.ite_snd ?_ ?_
    | with_reducible refine State.slotTo_keeps ?_ | (with_reducible refine Keeps.of_snd (by with_reducible assumption) ?_)
    | split | dsimp only

theorem State.tryGood_keeps {excluded : Nat} {a : Option Nat × State} {x : Nat} (hk : Keeps pend tmin a.2) :
    Keeps pend tmin (State.tryGood excluded a x).2 := by
  unfold State.tryGood
  repeat' first
    | with_reducible assumption | with_reducible refine Keeps.ite ?_ ?_ | with_reducible refine Keeps.ite_snd ?_ ?_
    | with_reducible refine State.slotTo_keeps ?_ | (with_reducible refine Keeps.of_snd (by with_reducible assumption) ?_)
    | split | dsimp only

theorem State.chooseCf_keeps {s : State} {excluded : Nat} (h : Keeps pend tmin s) : Keeps pend tmin (State.chooseCf s excluded).2 :=
  Keeps.foldl_snd (Keeps.foldl_snd (State.dropTrials_keeps h) fun _ _ k => State.tryCandidate_keeps k) fun _ _ k => State.tryGood_keeps k

theorem State.slotRegs_keeps {s : State} (hk : Keeps pend tmin s) :
    Keeps pend tmin (State.slotRegs s) := by
  unfold State.slotRegs
  repeat' first
    | with_reducible assumption | with_reducible refine State.set_keeps ?_
    | with_reducible refine Keeps.foldl ?_ (fun _ _ _ => ?_) | with_reducible refine Keeps.foldl_snd ?_ (fun _ _ _ => ?_)
    | split | dsimp only

theorem State.pair_keeps {s : State} (hk : Keeps pend tmin s) :
    Keeps pend tmin (State.pair s) := by
  unfold State.pair
  repeat' first
    | with_reducible assumption | with_reducible refine Keeps.ite ?_ ?_ | with_reducible refine Keeps.ite_snd ?_ ?_
    | with_reducible refine State.set_keeps ?_ | with_reducible refine Keeps.foldl ?_ (fun _ _ _ => ?_)
    | with_reducible refine Keeps.foldl_snd ?_ (fun _ _ _ => ?_) | simp only [Keeps.update]
    | with_reducible refine KeepsU.all ?_ | (with_reducible refine Keeps.of_snd (by with_reducible assumption) ?_) | split
    | dsimp only

theorem State.calBoot_keeps {s : State} {cold : Bool} (hk : Keeps pend tmin s) :
    Keeps pend tmin (State.calBoot s cold) := by
  unfold State.calBoot
  repeat' first
    | with_reducible assumption | with_reducible refine Keeps.ite ?_ ?_ | with_reducible refine Keeps.ite_snd ?_ ?_
    | with_reducible refine State.stick_keeps ?_ | with_reducible refine State.set_keeps ?_ | simp only [Keeps.update]
    | with_reducible refine KeepsU.all ?_ | with_reducible refine KeepsU.time ?_
    | (with_reducible refine Keeps.of_snd (by with_reducible assumption) ?_) | split | dsimp only

theorem State.dice_keeps {s : State} (hk : Keeps pend tmin s) :
    Keeps pend tmin (State.dice s) := by
  unfold State.dice
  repeat' first
    | with_reducible assumption | with_reducible refine Keeps.ite ?_ ?_ | simp only [Keeps.update]
    | with_reducible refine KeepsU.all ?_ | split | dsimp only

theorem State.vaultLoad_keeps {s : State} {good : Bool} (hk : Keeps pend tmin s) :
    Keeps pend tmin (State.vaultLoad s good) := by
  unfold State.vaultLoad
  repeat' first
    | with_reducible assumption | with_reducible refine Keeps.ite ?_ ?_ | with_reducible refine Keeps.ite_snd ?_ ?_
    | with_reducible refine State.putLpKey_keeps ?_ | with_reducible refine State.stickIrq_keeps ?_
    | with_reducible refine State.secTrace_keeps ?_ | simp only [Keeps.update] | with_reducible refine KeepsU.all ?_
    | (with_reducible refine Keeps.of_snd (by with_reducible assumption) ?_) | split | dsimp only

theorem State.stacks_keeps {s : State} (hk : Keeps pend tmin s) :
    Keeps pend tmin (State.stacks s) := by
  unfold State.stacks
  repeat' first
    | with_reducible assumption | with_reducible refine State.set_keeps ?_ | with_reducible refine State.draw_keeps ?_
    | with_reducible refine Keeps.foldl ?_ (fun _ _ _ => ?_) | with_reducible refine Keeps.foldl_snd ?_ (fun _ _ _ => ?_)
    | split | dsimp only

theorem State.bootStages_keeps {s : State} {kind : Nat} {excluded : Nat} {vaultGood : Bool} (hk : Keeps pend tmin s) :
    Keeps pend tmin (State.bootStages s kind excluded vaultGood) := by
  unfold State.bootStages
  repeat' first
    | with_reducible assumption | with_reducible refine Keeps.ite ?_ ?_ | with_reducible refine Keeps.ite_snd ?_ ?_
    | with_reducible refine State.putRec_keeps ?_ | with_reducible refine State.stick_keeps ?_
    | with_reducible refine State.set_keeps ?_ | with_reducible refine State.calBoot_keeps ?_
    | with_reducible refine State.chooseCf_keeps ?_ | with_reducible refine State.slotRegs_keeps ?_
    | with_reducible refine State.dice_keeps ?_ | with_reducible refine State.secTrace_keeps ?_
    | with_reducible refine State.pair_keeps ?_ | with_reducible refine State.vaultLoad_keeps ?_
    | with_reducible refine State.stacks_keeps ?_ | simp only [Keeps.update] | with_reducible refine KeepsU.all ?_
    | (with_reducible refine Keeps.of_snd (by with_reducible assumption) ?_) | split | dsimp only

theorem State.porAssert_keeps {s : State} (hk : Keeps pend 0 s) :
    Keeps pend 0 (State.porAssert s) := by
  unfold State.porAssert
  repeat' first
    | with_reducible assumption | with_reducible refine State.coldBase_keeps ?_ | simp only [Keeps.update]
    | with_reducible refine KeepsU.all ?_ | split | dsimp only

theorem execPorNAssert_keeps {s : State} (hk : Keeps pend 0 s) :
    KeepsR pend 0 (execPorNAssert s) := by
  unfold execPorNAssert
  repeat' first
    | with_reducible assumption | with_reducible refine KeepsR.next ?_ | with_reducible refine State.porAssert_keeps ?_
    | split | dsimp only

theorem State.timeBoot_keeps {s : State} (h : Keeps pend 0 s) : Keeps pend 0 (State.timeBoot s) := by
  have k := State.bump_keeps (f := F.CAD_OFFLINE) (k := s.get F.CAD_OFFLINE_CFG_BOOT_CHARGE) h
  have kc := (State.inv_iff _).mp k.inv
  unfold State.timeBoot
  exact Keeps.ite (State.set_keeps k) (State.set_keeps (State.set_keeps (Keeps.parts k.pending (Nat.zero_le _) kc.1 kc.2.1 kc.2.2.1 kc.2.2.2)))

theorem State.coldBoot_keeps {s : State} {vaultGood : Bool} {testEn : Bool} (hk : Keeps pend 0 s) :
    Keeps pend 0 (State.coldBoot s vaultGood testEn) := by
  unfold State.coldBoot
  repeat' first
    | with_reducible assumption | with_reducible refine Keeps.ite ?_ ?_ | with_reducible refine State.porAssert_keeps ?_
    | with_reducible refine State.coldBase_keeps ?_ | with_reducible refine State.timeBoot_keeps ?_
    | with_reducible refine State.newChal_keeps ?_ | with_reducible refine State.bootStages_keeps ?_
    | simp only [Keeps.update] | with_reducible refine KeepsU.all ?_ | split | dsimp only

theorem execColdBoot_keeps {vaultGood : Bool} {testEn : Bool} {s : State} (hk : Keeps pend 0 s) :
    KeepsR pend 0 (execColdBoot vaultGood testEn s) := by
  unfold execColdBoot
  repeat' first
    | with_reducible assumption | with_reducible refine KeepsR.next ?_ | with_reducible refine State.coldBoot_keeps ?_
    | split | dsimp only

theorem State.commandReady_keeps {s : State} (hk : Keeps pend tmin s) :
    Keeps pend tmin (State.commandReady s) := by
  unfold State.commandReady
  repeat' first
    | with_reducible assumption | with_reducible refine Keeps.ite ?_ ?_ | with_reducible refine State.set_keeps ?_
    | with_reducible refine State.elect_keeps ?_ | with_reducible refine State.lpeUpdate_keeps ?_
    | with_reducible refine State.crsSettle_keeps ?_ | simp only [Keeps.update] | with_reducible refine KeepsU.all ?_
    | split | dsimp only

theorem execCommandReady_keeps {s : State} (hk : Keeps pend tmin s) :
    KeepsR pend tmin (execCommandReady s) := by
  unfold execCommandReady
  repeat' first
    | with_reducible assumption | with_reducible refine KeepsR.next ?_ | with_reducible refine State.commandReady_keeps ?_
    | split | dsimp only

theorem State.reboot_keeps {s : State} {cause : Nat} {kind : Nat} {excluded : Nat} (hk : Keeps pend tmin s) :
    Keeps pend tmin (State.reboot s cause kind excluded) := by
  unfold State.reboot
  repeat' first
    | with_reducible assumption | with_reducible refine State.s4Enter_keeps ?_ | with_reducible refine State.set_keeps ?_
    | with_reducible refine State.powerTrace_keeps ?_ | with_reducible refine State.bootStages_keeps ?_
    | simp only [Keeps.update] | with_reducible refine KeepsU.all ?_ | split | dsimp only

theorem State.stormReboot_keeps {s : State} (hk : Keeps pend tmin s) :
    Keeps pend tmin (State.stormReboot s) := by
  unfold State.stormReboot
  repeat' first
    | with_reducible assumption | with_reducible refine Keeps.ite ?_ ?_ | with_reducible refine State.slotTo_keeps ?_
    | with_reducible refine State.reboot_keeps ?_ | simp only [Keeps.update] | with_reducible refine KeepsU.all ?_ | split
    | dsimp only

theorem State.stopCommands_keeps {s : State} (hk : Keeps pend tmin s) :
    Keeps pend tmin (State.stopCommands s) := by
  unfold State.stopCommands
  repeat' first
    | with_reducible assumption | with_reducible refine State.set_keeps ?_ | simp only [Keeps.update]
    | with_reducible refine KeepsU.all ?_ | split | dsimp only

theorem State.stopGraphs_keeps {s : State} (hk : Keeps pend tmin s) :
    Keeps pend tmin (State.stopGraphs s) := by
  unfold State.stopGraphs
  repeat' first
    | with_reducible assumption | (intro w; rw [Sync.wf_iff] at w ⊢; exact ⟨w.1, w.2.1, w.2.2.1, w.2.2.2.1, rfl⟩)
    | with_reducible refine Keeps.ite ?_ ?_ | with_reducible refine Keeps.ite_snd ?_ ?_
    | with_reducible refine Keeps.foldl ?_ (fun _ _ _ => ?_) | with_reducible refine Keeps.foldl_snd ?_ (fun _ _ _ => ?_)
    | simp only [Keeps.update] | with_reducible refine KeepsU.all ?_ | with_reducible refine KeepsU.sync ?_ ?_
    | exact Sync.wf_cnt _ _ _ | exact Sync.wf_cst _ _ _ | exact Sync.wf_bars _ _ _ | exact Sync.wf_locks _ _ _
    | exact Sync.wf_flags _ _ _ | exact fun w => w | (with_reducible refine Keeps.of_snd (by with_reducible assumption) ?_)
    | split | dsimp only

theorem State.stopSync_keeps {s : State} (h : Keeps pend tmin s) : Keeps pend tmin (State.stopSync s) := by
  refine Keeps.update.mpr (KeepsU.sync h fun w => ?_)
  rw [Sync.wf_iff] at w ⊢
  exact ⟨w.1, w.2.1, spWf_mapDrop barZero (fun p => { p.2 with waiters := [] }) _ w.2.2.1,
    spWf_mapDrop lockZero
      (fun p => if p.2.held then { lockZero with broken := true, reaped := p.2.reaped } else { p.2 with queue := [] }) _ w.2.2.2.1,
    w.2.2.2.2⟩

theorem State.triggerFault_keeps {s : State} {code : Nat} {cause : Nat} {core : Nat} {detail : List (BitVec 8)} (hk : Keeps pend tmin s) :
    Keeps pend tmin (State.triggerFault s code cause core detail) := by
  unfold State.triggerFault
  repeat' first
    | with_reducible assumption | with_reducible refine Keeps.ite ?_ ?_ | with_reducible refine State.fault_keeps ?_ | split
    | dsimp only

theorem State.restart_keeps {s : State} {code : Nat} {cause : Nat} {core : Nat} {pc : Nat} {sp : Nat} {detail : List (BitVec 8)} (hk : Keeps pend tmin s) :
    Keeps pend tmin (State.restart s code cause core pc sp detail) := by
  unfold State.restart
  repeat' first
    | with_reducible assumption | with_reducible refine Keeps.ite ?_ ?_ | with_reducible refine State.triggerFault_keeps ?_
    | with_reducible refine State.stormReboot_keeps ?_ | with_reducible refine State.set_keeps ?_
    | with_reducible refine State.bump_keeps ?_ | with_reducible refine State.lastWords_keeps ?_
    | with_reducible refine State.trace_keeps ?_ | with_reducible refine State.closeSession_keeps ?_
    | with_reducible refine State.stopGraphs_keeps ?_ | with_reducible refine State.stopCommands_keeps ?_
    | with_reducible refine State.stopSync_keeps ?_ | with_reducible refine State.lpeUpdate_keeps ?_
    | simp only [Keeps.update] | with_reducible refine KeepsU.all ?_ | split | dsimp only

theorem State.resetParts_keeps {s : State} (hk : Keeps pend tmin s) :
    Keeps pend tmin (State.resetParts s) := by
  unfold State.resetParts
  repeat' first
    | with_reducible assumption | with_reducible refine State.openSeq_keeps ?_
    | with_reducible refine State.brdSync_keeps ?_ | with_reducible refine State.set_keeps ?_
    | with_reducible refine State.ingestDiscard_keeps ?_ | with_reducible refine Keeps.foldl ?_ (fun _ _ _ => ?_)
    | with_reducible refine Keeps.foldl_snd ?_ (fun _ _ _ => ?_) | simp only [Keeps.update]
    | with_reducible refine KeepsU.all ?_ | with_reducible refine KeepsU.mem ?_ ?_ | exact Mem.wf_zeroRange _ _ _ _
    | exact fun w => w | split | dsimp only

theorem State.restartStep_keeps {s : State} {code : Nat} {memOk : Bool} (hk : Keeps pend tmin s) :
    Keeps pend tmin (State.restartStep s code memOk) := by
  unfold State.restartStep
  repeat' first
    | with_reducible assumption | with_reducible refine Keeps.ite ?_ ?_ | with_reducible refine Keeps.ite_snd ?_ ?_
    | with_reducible refine State.restart_keeps ?_ | with_reducible refine State.resetParts_keeps ?_
    | with_reducible refine State.stormReboot_keeps ?_ | simp only [Keeps.update] | with_reducible refine KeepsU.all ?_
    | (with_reducible refine Keeps.of_snd (by with_reducible assumption) ?_) | split | dsimp only

theorem execSafeStateRestart_keeps {code : Fin 6} {memOk : Bool} {s : State} (hk : Keeps pend tmin s) :
    KeepsR pend tmin (execSafeStateRestart code memOk s) := by
  unfold execSafeStateRestart
  repeat' first
    | with_reducible assumption | with_reducible refine KeepsR.next ?_ | with_reducible refine State.restartStep_keeps ?_
    | split | dsimp only

theorem State.preRecords_keeps {s : State} {t : Nat} (hk : Keeps pend tmin s) :
    Keeps pend tmin (State.preRecords s t) := by
  unfold State.preRecords
  repeat' first
    | with_reducible assumption | with_reducible refine State.flush_keeps ?_
    | with_reducible refine State.writeRecord_keeps ?_ | with_reducible refine Keeps.foldl ?_ (fun _ _ _ => ?_)
    | with_reducible refine Keeps.foldl_snd ?_ (fun _ _ _ => ?_) | split | dsimp only

theorem State.restartEpochs_keeps {s : State} (hk : Keeps pend tmin s) :
    Keeps pend tmin (State.restartEpochs s) := by
  unfold State.restartEpochs
  repeat' first
    | with_reducible assumption | with_reducible refine Keeps.ite ?_ ?_ | with_reducible refine State.raiseEpoch_keeps ?_
    | with_reducible refine Keeps.foldl ?_ (fun _ _ _ => ?_) | with_reducible refine Keeps.foldl_snd ?_ (fun _ _ _ => ?_)
    | (with_reducible refine Keeps.of_snd (by with_reducible assumption) ?_) | split | dsimp only

theorem State.restartEnd_keeps {s : State} (hk : Keeps pend tmin s) :
    Keeps pend tmin (State.restartEnd s) := by
  unfold State.restartEnd
  repeat' first
    | with_reducible assumption | with_reducible refine Keeps.ite ?_ ?_ | with_reducible refine State.restart_keeps ?_
    | with_reducible refine State.preRecords_keeps ?_ | with_reducible refine State.restartEpochs_keeps ?_
    | with_reducible refine State.stacks_keeps ?_ | with_reducible refine State.set_keeps ?_
    | with_reducible refine State.ctxFinish_keeps ?_ | with_reducible refine State.ctxReset_keeps ?_
    | with_reducible refine State.irq_keeps ?_ | with_reducible refine State.lpeUpdate_keeps ?_
    | with_reducible refine State.crsSettle_keeps ?_ | with_reducible refine Keeps.foldl ?_ (fun _ _ _ => ?_)
    | with_reducible refine Keeps.foldl_snd ?_ (fun _ _ _ => ?_) | simp only [Keeps.update]
    | with_reducible refine KeepsU.all ?_ | (with_reducible refine Keeps.of_snd (by with_reducible assumption) ?_) | split
    | dsimp only

theorem execRestartComplete_keeps {s : State} (hk : Keeps pend tmin s) :
    KeepsR pend tmin (execRestartComplete s) := by
  unfold execRestartComplete
  repeat' first
    | with_reducible assumption | with_reducible refine KeepsR.next ?_ | with_reducible refine State.restartEnd_keeps ?_
    | split | dsimp only

end Sys2Proof.Machine
end

