-- ==== Sys2Proof/Laws/Keeps/Wake.lean ====
section
/-! SUPPORT. The operations of Machine/Wake.lean keep the queue, rack time and the canonical forms (see Laws/Keeps). -/
namespace Sys2Proof.Machine
variable {pend : List Instr} {tmin : Nat}

theorem execWakeEvent_keeps {code : Fin 11} {s : State} (hk : Keeps pend tmin s) :
    KeepsR pend tmin (execWakeEvent code s) := by
  unfold execWakeEvent
  repeat' first
    | with_reducible assumption | with_reducible refine KeepsR.next ?_ | with_reducible refine State.wake_keeps ?_ | split
    | dsimp only

theorem State.wakeTime_keeps {s : State} (hk : Keeps pend tmin s) :
    Keeps pend tmin (State.wakeTime s) := by
  unfold State.wakeTime
  repeat' first
    | with_reducible assumption | with_reducible refine Keeps.ite ?_ ?_ | with_reducible refine State.advance_keeps ?_
    | with_reducible refine State.wake_keeps ?_ | split | dsimp only

theorem execWakeTimeReached_keeps {s : State} (hk : Keeps pend tmin s) :
    KeepsR pend tmin (execWakeTimeReached s) := by
  unfold execWakeTimeReached
  repeat' first
    | with_reducible assumption | with_reducible refine KeepsR.next ?_ | with_reducible refine State.wakeTime_keeps ?_
    | split | dsimp only

theorem execI3cWake_keeps {v : Byte} {s : State} (hk : Keeps pend tmin s) :
    KeepsR pend tmin (execI3cWake v s) := by
  unfold execI3cWake
  repeat' first
    | with_reducible assumption | with_reducible refine KeepsR.next ?_ | with_reducible refine Keeps.ite ?_ ?_
    | with_reducible refine KeepsR.ite ?_ ?_ | with_reducible refine State.wake_keeps ?_ | split | dsimp only

theorem State.autoLeave_keeps {s : State} (hk : Keeps pend tmin s) :
    Keeps pend tmin (State.autoLeave s) := by
  unfold State.autoLeave
  repeat' first
    | with_reducible assumption | with_reducible refine State.wake_keeps ?_ | split | dsimp only

theorem execAutoHoldExit_keeps {s : State} (hk : Keeps pend tmin s) :
    KeepsR pend tmin (execAutoHoldExit s) := by
  unfold execAutoHoldExit
  repeat' first
    | with_reducible assumption | with_reducible refine KeepsR.next ?_ | with_reducible refine State.autoLeave_keeps ?_
    | split | dsimp only

theorem State.drainEnd_keeps {s : State} (hk : Keeps pend tmin s) :
    Keeps pend tmin (State.drainEnd s) := by
  unfold State.drainEnd
  repeat' first
    | with_reducible assumption | with_reducible refine Keeps.ite ?_ ?_ | with_reducible refine Keeps.ite_snd ?_ ?_
    | with_reducible refine State.finish_keeps ?_ | with_reducible refine State.powerTrace_keeps ?_
    | with_reducible refine State.girthReturn_keeps ?_ | with_reducible refine State.detach_keeps ?_
    | with_reducible refine State.portsDown_keeps ?_ | with_reducible refine State.s4Enter_keeps ?_
    | with_reducible refine State.retain_keeps ?_ | simp only [Keeps.update] | with_reducible refine KeepsU.all ?_
    | (with_reducible refine Keeps.of_snd (by with_reducible assumption) ?_) | split | dsimp only

theorem execDrainComplete_keeps {s : State} (hk : Keeps pend tmin s) :
    KeepsR pend tmin (execDrainComplete s) := by
  unfold execDrainComplete
  repeat' first
    | with_reducible assumption | with_reducible refine KeepsR.next ?_ | with_reducible refine State.drainEnd_keeps ?_
    | split | dsimp only

theorem State.portsTrain_keeps {s : State} (hk : Keeps pend tmin s) :
    Keeps pend tmin (State.portsTrain s) := by
  unfold State.portsTrain
  repeat' first
    | with_reducible assumption | with_reducible refine Keeps.ite ?_ ?_ | with_reducible refine State.setPortState_keeps ?_
    | with_reducible refine Keeps.foldl ?_ (fun _ _ _ => ?_) | with_reducible refine Keeps.foldl_snd ?_ (fun _ _ _ => ?_)
    | split | dsimp only

theorem State.exitEnd_keeps {s : State} (hk : Keeps pend tmin s) :
    Keeps pend tmin (State.exitEnd s) := by
  unfold State.exitEnd
  repeat' first
    | with_reducible assumption | with_reducible refine Keeps.ite ?_ ?_ | with_reducible refine State.set_keeps ?_
    | with_reducible refine State.powerTrace_keeps ?_ | with_reducible refine State.bootStages_keeps ?_
    | with_reducible refine State.portsTrain_keeps ?_ | with_reducible refine State.limitUpdate_keeps ?_
    | with_reducible refine State.lpeUpdate_keeps ?_ | simp only [Keeps.update] | with_reducible refine KeepsU.all ?_
    | split | dsimp only

theorem execStateExitComplete_keeps {s : State} (hk : Keeps pend tmin s) :
    KeepsR pend tmin (execStateExitComplete s) := by
  unfold execStateExitComplete
  repeat' first
    | with_reducible assumption | with_reducible refine KeepsR.next ?_ | with_reducible refine State.exitEnd_keeps ?_
    | split | dsimp only

theorem State.thermalTrip_keeps {s : State} (hk : Keeps pend tmin s) :
    Keeps pend tmin (State.thermalTrip s) := by
  unfold State.thermalTrip
  repeat' first
    | with_reducible assumption | with_reducible refine Keeps.ite ?_ ?_ | with_reducible refine State.stickIrq_keeps ?_
    | with_reducible refine State.ibi_keeps ?_ | with_reducible refine State.restart_keeps ?_
    | with_reducible refine State.fault_keeps ?_ | with_reducible refine State.lastWords_keeps ?_ | simp only [Keeps.update]
    | with_reducible refine KeepsU.all ?_ | split | dsimp only

theorem State.thermalLimit_keeps {s : State} {tj : Int} {thr : Int} {rising : Bool} (hk : Keeps pend tmin s) :
    Keeps pend tmin (State.thermalLimit s tj thr rising) := by
  unfold State.thermalLimit
  repeat' first
    | with_reducible assumption | with_reducible refine Keeps.ite ?_ ?_ | with_reducible refine Keeps.ite_snd ?_ ?_
    | with_reducible refine State.stickIrq_keeps ?_ | with_reducible refine State.ibi_keeps ?_ | simp only [Keeps.update]
    | with_reducible refine KeepsU.all ?_ | (with_reducible refine Keeps.of_snd (by with_reducible assumption) ?_) | split
    | dsimp only

theorem State.thermalSample_keeps {s : State} {v : BitVec 8} (hk : Keeps pend tmin s) :
    Keeps pend tmin (State.thermalSample s v) := by
  unfold State.thermalSample
  repeat' first
    | with_reducible assumption | with_reducible refine Keeps.ite ?_ ?_ | with_reducible refine State.set_keeps ?_
    | with_reducible refine State.thermalLimit_keeps ?_ | with_reducible refine State.thermalTrip_keeps ?_
    | with_reducible refine State.limitUpdate_keeps ?_ | simp only [Keeps.update] | with_reducible refine KeepsU.all ?_
    | split | dsimp only

theorem execThermalSample_keeps {tj : BitVec 8} {s : State} (hk : Keeps pend tmin s) :
    KeepsR pend tmin (execThermalSample tj s) := by
  unfold execThermalSample
  repeat' first
    | with_reducible assumption | with_reducible refine KeepsR.next ?_ | with_reducible refine State.thermalSample_keeps ?_
    | split | dsimp only

theorem State.thermalResume_keeps {s : State} (hk : Keeps pend tmin s) :
    Keeps pend tmin (State.thermalResume s) := by
  unfold State.thermalResume
  repeat' first
    | with_reducible assumption | with_reducible refine Keeps.ite ?_ ?_ | with_reducible refine Keeps.ite_snd ?_ ?_
    | with_reducible refine State.advance_keeps ?_ | simp only [Keeps.update] | with_reducible refine KeepsU.all ?_
    | (with_reducible refine Keeps.of_snd (by with_reducible assumption) ?_) | split | dsimp only

theorem execThermalResume_keeps {s : State} (hk : Keeps pend tmin s) :
    KeepsR pend tmin (execThermalResume s) := by
  unfold execThermalResume
  repeat' first
    | with_reducible assumption | with_reducible refine KeepsR.next ?_ | with_reducible refine State.thermalResume_keeps ?_
    | split | dsimp only

theorem State.confirm_keeps {s : State} {x : Nat} (hk : Keeps pend tmin s) :
    Keeps pend tmin (State.confirm s x) := by
  unfold State.confirm
  repeat' first
    | with_reducible assumption | with_reducible refine State.putRec_keeps ?_ | with_reducible refine State.set_keeps ?_
    | with_reducible refine State.slotRegs_keeps ?_ | simp only [Keeps.update] | with_reducible refine KeepsU.all ?_ | split
    | dsimp only

theorem State.fwConfirm_keeps {s : State} (hk : Keeps pend tmin s) :
    Keeps pend tmin (State.fwConfirm s) := by
  unfold State.fwConfirm
  repeat' first
    | with_reducible assumption | with_reducible refine State.confirm_keeps ?_ | with_reducible refine State.stick_keeps ?_
    | (with_reducible refine Keeps.of_snd (by with_reducible assumption) ?_) | split | dsimp only

theorem execFwConfirm_keeps {s : State} (hk : Keeps pend tmin s) :
    KeepsR pend tmin (execFwConfirm s) := by
  unfold execFwConfirm
  repeat' first
    | with_reducible assumption | with_reducible refine KeepsR.next ?_ | with_reducible refine State.fwConfirm_keeps ?_
    | split | dsimp only

theorem State.autoConfirm_keeps {s : State} (hk : Keeps pend tmin s) :
    Keeps pend tmin (State.autoConfirm s) := by
  unfold State.autoConfirm
  repeat' first
    | with_reducible assumption | with_reducible refine Keeps.ite ?_ ?_ | with_reducible refine Keeps.ite_snd ?_ ?_
    | with_reducible refine State.advance_keeps ?_ | with_reducible refine State.confirm_keeps ?_
    | (with_reducible refine Keeps.of_snd (by with_reducible assumption) ?_) | split | dsimp only

theorem execAutoConfirm_keeps {s : State} (hk : Keeps pend tmin s) :
    KeepsR pend tmin (execAutoConfirm s) := by
  unfold execAutoConfirm
  repeat' first
    | with_reducible assumption | with_reducible refine KeepsR.next ?_ | with_reducible refine State.autoConfirm_keeps ?_
    | split | dsimp only

theorem State.fwReboot_keeps {s : State} (hk : Keeps pend tmin s) :
    Keeps pend tmin (State.fwReboot s) := by
  unfold State.fwReboot
  repeat' first
    | with_reducible assumption | with_reducible refine Keeps.ite ?_ ?_ | with_reducible refine State.reboot_keeps ?_
    | with_reducible refine State.stick_keeps ?_ | split | dsimp only

theorem execFwReboot_keeps {s : State} (hk : Keeps pend tmin s) :
    KeepsR pend tmin (execFwReboot s) := by
  unfold execFwReboot
  repeat' first
    | with_reducible assumption | with_reducible refine KeepsR.next ?_ | with_reducible refine State.fwReboot_keeps ?_
    | split | dsimp only

theorem State.fwRestart_keeps {s : State} {v : Nat} (hk : Keeps pend tmin s) :
    Keeps pend tmin (State.fwRestart s v) := by
  unfold State.fwRestart
  repeat' first
    | with_reducible assumption | with_reducible refine Keeps.ite ?_ ?_ | with_reducible refine State.restart_keeps ?_
    | with_reducible refine State.stick_keeps ?_ | split | dsimp only

theorem execFwRestart_keeps {v : Word} {s : State} (hk : Keeps pend tmin s) :
    KeepsR pend tmin (execFwRestart v s) := by
  unfold execFwRestart
  repeat' first
    | with_reducible assumption | with_reducible refine KeepsR.next ?_ | with_reducible refine State.fwRestart_keeps ?_
    | split | dsimp only

theorem State.excRecord_keeps {s : State} {c : Nat} {cause : Nat} {pc : Nat} {sp : Nat} (hk : Keeps pend tmin s) :
    Keeps pend tmin (State.excRecord s c cause pc sp) := by
  unfold State.excRecord
  repeat' first
    | with_reducible assumption | with_reducible refine State.set_keeps ?_ | with_reducible refine State.set64_keeps ?_
    | with_reducible refine State.stick_keeps ?_ | split | dsimp only

theorem State.coreException_keeps {s : State} {c : Nat} {k : Nat} {pc : Nat} {sp : Nat} {onFault : Bool} (hk : Keeps pend tmin s) :
    Keeps pend tmin (State.coreException s c k pc sp onFault) := by
  unfold State.coreException
  repeat' first
    | with_reducible assumption | with_reducible refine Keeps.ite ?_ ?_ | with_reducible refine State.excRecord_keeps ?_
    | with_reducible refine State.fault_keeps ?_ | with_reducible refine State.restart_keeps ?_
    | with_reducible refine State.triggerFault_keeps ?_ | simp only [Keeps.update] | with_reducible refine KeepsU.all ?_
    | split | dsimp only

theorem execControlCoreException_keeps {c : CoreIx} {kind : Fin 5} {pc : DWord} {sp : Word} {onFault : Bool} {s : State} (hk : Keeps pend tmin s) :
    KeepsR pend tmin (execControlCoreException c kind pc sp onFault s) := by
  unfold execControlCoreException
  repeat' first
    | with_reducible assumption | with_reducible refine KeepsR.next ?_ | with_reducible refine State.coreException_keeps ?_
    | split | dsimp only

theorem State.coreWatchdog_keeps {s : State} {c : Nat} (hk : Keeps pend tmin s) :
    Keeps pend tmin (State.coreWatchdog s c) := by
  unfold State.coreWatchdog
  repeat' first
    | with_reducible assumption | with_reducible refine Keeps.ite ?_ ?_ | with_reducible refine State.set_keeps ?_
    | with_reducible refine State.stick_keeps ?_ | with_reducible refine State.restart_keeps ?_ | split | dsimp only

theorem execControlCoreWatchdog_keeps {c : CoreIx} {s : State} (hk : Keeps pend tmin s) :
    KeepsR pend tmin (execControlCoreWatchdog c s) := by
  unfold execControlCoreWatchdog
  repeat' first
    | with_reducible assumption | with_reducible refine KeepsR.next ?_ | with_reducible refine State.coreWatchdog_keeps ?_
    | split | dsimp only

theorem execPllUnlock_keeps {s : State} (hk : Keeps pend tmin s) :
    KeepsR pend tmin (execPllUnlock s) := by
  unfold execPllUnlock
  repeat' first
    | with_reducible assumption | with_reducible refine KeepsR.next ?_ | with_reducible refine State.restart_keeps ?_
    | split | dsimp only

theorem State.tcxoLoss_keeps {s : State} (hk : Keeps pend tmin s) :
    Keeps pend tmin (State.tcxoLoss s) := by
  unfold State.tcxoLoss
  repeat' first
    | with_reducible assumption | with_reducible refine Keeps.ite ?_ ?_ | with_reducible refine State.stickIrq_keeps ?_
    | with_reducible refine State.set_keeps ?_ | simp only [Keeps.update] | with_reducible refine KeepsU.all ?_ | split
    | dsimp only

theorem execTcxoLoss_keeps {s : State} (hk : Keeps pend tmin s) :
    KeepsR pend tmin (execTcxoLoss s) := by
  unfold execTcxoLoss
  repeat' first
    | with_reducible assumption | with_reducible refine KeepsR.next ?_ | with_reducible refine State.tcxoLoss_keeps ?_
    | split | dsimp only

theorem State.tcxoReturn_keeps {s : State} (hk : Keeps pend tmin s) :
    Keeps pend tmin (State.tcxoReturn s) := by
  unfold State.tcxoReturn
  repeat' first
    | with_reducible assumption | with_reducible refine Keeps.ite ?_ ?_ | with_reducible refine Keeps.ite_snd ?_ ?_
    | with_reducible refine State.set_keeps ?_ | with_reducible refine State.holdRefresh_keeps ?_ | simp only [Keeps.update]
    | with_reducible refine KeepsU.all ?_ | (with_reducible refine Keeps.of_snd (by with_reducible assumption) ?_) | split
    | dsimp only

theorem execTcxoReturn_keeps {s : State} (hk : Keeps pend tmin s) :
    KeepsR pend tmin (execTcxoReturn s) := by
  unfold execTcxoReturn
  repeat' first
    | with_reducible assumption | with_reducible refine KeepsR.next ?_ | with_reducible refine State.tcxoReturn_keeps ?_
    | split | dsimp only

theorem State.sysLoss_keeps {s : State} (hk : Keeps pend tmin s) :
    Keeps pend tmin (State.sysLoss s) := by
  unfold State.sysLoss
  repeat' first
    | with_reducible assumption | with_reducible refine Keeps.ite ?_ ?_ | with_reducible refine State.restart_keeps ?_
    | with_reducible refine State.portLost_keeps ?_ | with_reducible refine State.ethLink_keeps ?_
    | with_reducible refine Keeps.foldl ?_ (fun _ _ _ => ?_) | with_reducible refine Keeps.foldl_snd ?_ (fun _ _ _ => ?_)
    | simp only [Keeps.update] | with_reducible refine KeepsU.all ?_ | split | dsimp only

theorem execSysclkLoss_keeps {s : State} (hk : Keeps pend tmin s) :
    KeepsR pend tmin (execSysclkLoss s) := by
  unfold execSysclkLoss
  repeat' first
    | with_reducible assumption | with_reducible refine KeepsR.next ?_ | with_reducible refine State.sysLoss_keeps ?_
    | split | dsimp only

theorem execSysclkReturn_keeps {s : State} (hk : Keeps pend tmin s) :
    KeepsR pend tmin (execSysclkReturn s) := by
  unfold execSysclkReturn
  repeat' first
    | with_reducible assumption | with_reducible refine KeepsR.next ?_ | simp only [Keeps.update]
    | with_reducible refine KeepsU.all ?_ | split | dsimp only

theorem execRefclkLoss_keeps {s : State} (hk : Keeps pend tmin s) :
    KeepsR pend tmin (execRefclkLoss s) := by
  unfold execRefclkLoss
  repeat' first
    | with_reducible assumption | with_reducible refine KeepsR.next ?_ | with_reducible refine State.hostReset_keeps ?_
    | split | dsimp only

theorem execRailUndervoltage_keeps {s : State} (hk : Keeps pend 0 s) :
    KeepsR pend 0 (execRailUndervoltage s) := by
  unfold execRailUndervoltage
  repeat' first
    | with_reducible assumption | with_reducible refine KeepsR.next ?_ | with_reducible refine State.porAssert_keeps ?_
    | split | dsimp only

theorem State.lpeRailLow_keeps {s : State} (hk : Keeps pend tmin s) :
    Keeps pend tmin (State.lpeRailLow s) := by
  unfold State.lpeRailLow
  repeat' first
    | with_reducible assumption | with_reducible refine State.restart_keeps ?_
    | with_reducible refine State.lpeUpdate_keeps ?_ | simp only [Keeps.update] | with_reducible refine KeepsU.all ?_
    | split | dsimp only

theorem execVddLpeUndervoltage_keeps {s : State} (hk : Keeps pend tmin s) :
    KeepsR pend tmin (execVddLpeUndervoltage s) := by
  unfold execVddLpeUndervoltage
  repeat' first
    | with_reducible assumption | with_reducible refine KeepsR.next ?_ | with_reducible refine State.lpeRailLow_keeps ?_
    | split | dsimp only

theorem State.lpeRailBack_keeps {s : State} (hk : Keeps pend tmin s) :
    Keeps pend tmin (State.lpeRailBack s) := by
  unfold State.lpeRailBack
  repeat' first
    | with_reducible assumption | with_reducible refine Keeps.ite ?_ ?_ | with_reducible refine State.loupeRestart_keeps ?_
    | simp only [Keeps.update] | with_reducible refine KeepsU.all ?_ | split | dsimp only

theorem execVddLpeReturn_keeps {s : State} (hk : Keeps pend tmin s) :
    KeepsR pend tmin (execVddLpeReturn s) := by
  unfold execVddLpeReturn
  repeat' first
    | with_reducible assumption | with_reducible refine KeepsR.next ?_ | with_reducible refine State.lpeRailBack_keeps ?_
    | split | dsimp only

theorem State.aoLoss_keeps {s : State} (hk : Keeps pend 0 s) :
    Keeps pend 0 (State.aoLoss s) := by
  unfold State.aoLoss
  repeat' first
    | with_reducible assumption | with_reducible refine State.porAssert_keeps ?_ | with_reducible refine Keeps.filterRegs ?_
    | simp only [Keeps.update] | with_reducible refine KeepsU.all ?_ | split | dsimp only

theorem execVddAoLoss_keeps {s : State} (hk : Keeps pend 0 s) :
    KeepsR pend 0 (execVddAoLoss s) := by
  unfold execVddAoLoss
  repeat' first
    | with_reducible assumption | with_reducible refine KeepsR.next ?_ | with_reducible refine State.aoLoss_keeps ?_ | split
    | dsimp only

theorem State.testHold_keeps {s : State} (hk : Keeps pend 0 s) :
    Keeps pend 0 (State.testHold s) := by
  unfold State.testHold
  repeat' first
    | with_reducible assumption | with_reducible refine State.porAssert_keeps ?_ | split | dsimp only

theorem execTestEnHigh_keeps {s : State} (hk : Keeps pend 0 s) :
    KeepsR pend 0 (execTestEnHigh s) := by
  unfold execTestEnHigh
  repeat' first
    | with_reducible assumption | with_reducible refine KeepsR.next ?_ | with_reducible refine State.testHold_keeps ?_
    | split | dsimp only

theorem State.apPerst_keeps {s : State} {k : Nat} (hk : Keeps pend tmin s) :
    Keeps pend tmin (State.apPerst s k) := by
  unfold State.apPerst
  repeat' first
    | with_reducible assumption | with_reducible refine Keeps.ite ?_ ?_ | with_reducible refine State.apLink_keeps ?_
    | split | dsimp only

theorem execApPerstAssert_keeps {k : ApLink} {s : State} (hk : Keeps pend tmin s) :
    KeepsR pend tmin (execApPerstAssert k s) := by
  unfold execApPerstAssert
  repeat' first
    | with_reducible assumption | with_reducible refine KeepsR.next ?_ | with_reducible refine State.apPerst_keeps ?_
    | split | dsimp only

theorem State.apRelease_keeps {s : State} {k : Nat} (hk : Keeps pend tmin s) :
    Keeps pend tmin (State.apRelease s k) := by
  unfold State.apRelease
  repeat' first
    | with_reducible assumption | with_reducible refine Keeps.ite ?_ ?_ | with_reducible refine State.apPerst_keeps ?_
    | simp only [Keeps.update] | with_reducible refine KeepsU.all ?_ | split | dsimp only

theorem execApPerstRelease_keeps {k : ApLink} {s : State} (hk : Keeps pend tmin s) :
    KeepsR pend tmin (execApPerstRelease k s) := by
  unfold execApPerstRelease
  repeat' first
    | with_reducible assumption | with_reducible refine KeepsR.next ?_ | with_reducible refine State.apRelease_keeps ?_
    | split | dsimp only

end Sys2Proof.Machine
end

