-- ==== Sys2Proof/Laws/Keeps/Firmware.lean ====
section
/-! SUPPORT. The operations of Machine/Firmware.lean keep the queue, rack time and the canonical forms (see Laws/Keeps). -/
namespace Sys2Proof.Machine
variable {pend : List Instr} {tmin : Nat}

theorem State.putSession_keeps {s : State} {x : Session} (hk : Keeps pend tmin s) :
    Keeps pend tmin (State.putSession s x) := by
  unfold State.putSession
  repeat' first
    | with_reducible assumption | with_reducible refine State.set_keeps ?_ | with_reducible refine State.slotRegs_keeps ?_
    | simp only [Keeps.update] | with_reducible refine KeepsU.all ?_ | split | dsimp only

theorem State.fwBegin_keeps {s : State} {id : Nat} (hk : Keeps pend tmin s) :
    Keeps pend tmin (State.fwBegin s id) := by
  unfold State.fwBegin
  repeat' first
    | with_reducible assumption | with_reducible refine Keeps.ite ?_ ?_ | with_reducible refine Keeps.ite_snd ?_ ?_
    | with_reducible refine State.fail_keeps ?_ | with_reducible refine State.slotTo_keeps ?_
    | with_reducible refine State.putSession_keeps ?_ | with_reducible refine State.finish_keeps ?_
    | (with_reducible refine Keeps.of_snd (by with_reducible assumption) ?_) | split | dsimp only

theorem State.fwData_keeps {s : State} {id : Nat} {fails : Bool} (hk : Keeps pend tmin s) :
    Keeps pend tmin (State.fwData s id fails) := by
  unfold State.fwData
  repeat' first
    | with_reducible assumption | with_reducible refine Keeps.ite ?_ ?_ | with_reducible refine Keeps.ite_snd ?_ ?_
    | with_reducible refine State.fail_keeps ?_ | with_reducible refine State.areaCheck_keeps ?_
    | with_reducible refine State.areaRead_keeps ?_ | with_reducible refine State.putSession_keeps ?_
    | with_reducible refine State.finish_keeps ?_ | simp only [Keeps.update] | with_reducible refine KeepsU.all ?_
    | (with_reducible refine Keeps.of_snd (by with_reducible assumption) ?_) | split | dsimp only

theorem State.fwCommit_keeps {s : State} {id : Nat} (hk : Keeps pend tmin s) :
    Keeps pend tmin (State.fwCommit s id) := by
  unfold State.fwCommit
  repeat' first
    | with_reducible assumption | with_reducible refine Keeps.ite ?_ ?_ | with_reducible refine Keeps.ite_snd ?_ ?_
    | with_reducible refine State.fail_keeps ?_ | with_reducible refine State.closeSession_keeps ?_
    | with_reducible refine State.slotTo_keeps ?_ | with_reducible refine State.slotRegs_keeps ?_
    | with_reducible refine State.finish_keeps ?_ | (with_reducible refine Keeps.of_snd (by with_reducible assumption) ?_)
    | split | dsimp only

theorem State.fwAbort_keeps {s : State} {id : Nat} (hk : Keeps pend tmin s) :
    Keeps pend tmin (State.fwAbort s id) := by
  unfold State.fwAbort
  repeat' first
    | with_reducible assumption | with_reducible refine State.closeSession_keeps ?_
    | with_reducible refine State.finish_keeps ?_ | split | dsimp only

theorem State.calStart_keeps {s : State} {id : Nat} (hk : Keeps pend tmin s) :
    Keeps pend tmin (State.calStart s id) := by
  unfold State.calStart
  repeat' first
    | with_reducible assumption | with_reducible refine Keeps.ite ?_ ?_ | with_reducible refine Keeps.ite_snd ?_ ?_
    | with_reducible refine State.fail_keeps ?_ | with_reducible refine State.modCmd_keeps ?_
    | with_reducible refine State.set_keeps ?_ | with_reducible refine State.retrain_keeps ?_
    | with_reducible refine State.ethLink_keeps ?_ | with_reducible refine Keeps.foldl ?_ (fun _ _ _ => ?_)
    | with_reducible refine Keeps.foldl_snd ?_ (fun _ _ _ => ?_) | simp only [Keeps.update]
    | with_reducible refine KeepsU.all ?_ | (with_reducible refine Keeps.of_snd (by with_reducible assumption) ?_) | split
    | dsimp only

theorem State.calEnd_keeps {s : State} {failed : Nat} {ports : Bool} {settled : Bool} (hk : Keeps pend tmin s) :
    Keeps pend tmin (State.calEnd s failed ports settled) := by
  unfold State.calEnd
  repeat' first
    | with_reducible assumption | with_reducible refine Keeps.ite ?_ ?_ | with_reducible refine Keeps.ite_snd ?_ ?_
    | with_reducible refine State.draw_keeps ?_ | with_reducible refine State.set_keeps ?_
    | with_reducible refine State.finish_keeps ?_ | with_reducible refine State.stick_keeps ?_
    | with_reducible refine State.internalFail_keeps ?_ | with_reducible refine Keeps.foldl ?_ (fun _ _ _ => ?_)
    | with_reducible refine Keeps.foldl_snd ?_ (fun _ _ _ => ?_) | simp only [Keeps.update]
    | with_reducible refine KeepsU.all ?_ | (with_reducible refine Keeps.of_snd (by with_reducible assumption) ?_) | split
    | dsimp only

theorem execCalRunComplete_keeps {failed : BitVec 6} {ports : Bool} {settled : Bool} {s : State} (hk : Keeps pend tmin s) :
    KeepsR pend tmin (execCalRunComplete failed ports settled s) := by
  unfold execCalRunComplete
  repeat' first
    | with_reducible assumption | with_reducible refine KeepsR.next ?_ | with_reducible refine State.calEnd_keeps ?_ | split
    | dsimp only

theorem State.calSave_keeps {s : State} {id : Nat} (hk : Keeps pend tmin s) :
    Keeps pend tmin (State.calSave s id) := by
  unfold State.calSave
  repeat' first
    | with_reducible assumption | with_reducible refine Keeps.ite ?_ ?_ | with_reducible refine Keeps.ite_snd ?_ ?_
    | with_reducible refine State.set_keeps ?_ | with_reducible refine State.finish_keeps ?_ | simp only [Keeps.update]
    | with_reducible refine KeepsU.all ?_ | (with_reducible refine Keeps.of_snd (by with_reducible assumption) ?_) | split
    | dsimp only

theorem State.calFactory_keeps {s : State} {id : Nat} (hk : Keeps pend tmin s) :
    Keeps pend tmin (State.calFactory s id) := by
  unfold State.calFactory
  repeat' first
    | with_reducible assumption | with_reducible refine Keeps.ite ?_ ?_ | with_reducible refine State.set_keeps ?_
    | with_reducible refine State.factoryModel_keeps ?_ | with_reducible refine State.finish_keeps ?_
    | simp only [Keeps.update] | with_reducible refine KeepsU.all ?_ | split | dsimp only

end Sys2Proof.Machine
end

