-- ==== Sys2Proof/Laws/Keeps/Queues.lean ====
section
/-! SUPPORT. The operations of Machine/Queues.lean keep the queue, rack time and the canonical forms (see Laws/Keeps). -/
namespace Sys2Proof.Machine
variable {pend : List Instr} {tmin : Nat}

theorem State.pageRefused_keeps {s : State} {t : Nat} (hk : Keeps pend tmin s) :
    Keeps pend tmin (State.pageRefused s t) := by
  unfold State.pageRefused
  repeat' first
    | with_reducible assumption | with_reducible refine State.stick_keeps ?_ | split | dsimp only

theorem State.queueEnable_keeps {s : State} {t : Nat} {q : Nat} (hk : Keeps pend tmin s) :
    Keeps pend tmin (State.queueEnable s t q) := by
  unfold State.queueEnable
  repeat' first
    | with_reducible assumption | with_reducible refine Keeps.ite ?_ ?_ | with_reducible refine State.credEvalAll_keeps ?_
    | with_reducible refine State.pageRefused_keeps ?_ | with_reducible refine State.set_keeps ?_
    | with_reducible refine State.setQueue_keeps ?_ | with_reducible refine State.openSeq_keeps ?_
    | simp only [Keeps.update] | with_reducible refine KeepsU.all ?_ | split | dsimp only

theorem execQueueEnable_keeps {t : Tenant} {q : Queue} {s : State} (hk : Keeps pend tmin s) :
    KeepsR pend tmin (execQueueEnable t q s) := by
  unfold execQueueEnable
  repeat' first
    | with_reducible assumption | with_reducible refine KeepsR.next ?_ | with_reducible refine Keeps.ite ?_ ?_
    | with_reducible refine KeepsR.ite ?_ ?_ | with_reducible refine State.queueEnable_keeps ?_ | split | dsimp only

theorem State.queueDisable_keeps {s : State} {t : Nat} {q : Nat} (hk : Keeps pend tmin s) :
    Keeps pend tmin (State.queueDisable s t q) := by
  unfold State.queueDisable
  repeat' first
    | with_reducible assumption | with_reducible refine State.set_keeps ?_ | split | dsimp only

theorem execQueueDisable_keeps {t : Tenant} {q : Queue} {s : State} (hk : Keeps pend tmin s) :
    KeepsR pend tmin (execQueueDisable t q s) := by
  unfold execQueueDisable
  repeat' first
    | with_reducible assumption | with_reducible refine KeepsR.next ?_ | with_reducible refine Keeps.ite ?_ ?_
    | with_reducible refine KeepsR.ite ?_ ?_ | with_reducible refine State.queueDisable_keeps ?_ | split | dsimp only

theorem State.queueResume_keeps {s : State} {t : Nat} {q : Nat} (hk : Keeps pend tmin s) :
    Keeps pend tmin (State.queueResume s t q) := by
  unfold State.queueResume
  repeat' first
    | with_reducible assumption | with_reducible refine Keeps.ite ?_ ?_ | with_reducible refine State.set_keeps ?_ | split
    | dsimp only

theorem execQueueResume_keeps {t : Tenant} {q : Queue} {s : State} (hk : Keeps pend tmin s) :
    KeepsR pend tmin (execQueueResume t q s) := by
  unfold execQueueResume
  repeat' first
    | with_reducible assumption | with_reducible refine KeepsR.next ?_ | with_reducible refine Keeps.ite ?_ ?_
    | with_reducible refine KeepsR.ite ?_ ?_ | with_reducible refine State.queueResume_keeps ?_ | split | dsimp only

theorem State.queueWin_keeps {s : State} {t : Nat} {q : Nat} {v : Nat} (hk : Keeps pend tmin s) :
    Keeps pend tmin (State.queueWin s t q v) := by
  unfold State.queueWin
  repeat' first
    | with_reducible assumption | with_reducible refine Keeps.ite ?_ ?_ | with_reducible refine State.putRw_keeps ?_
    | with_reducible refine State.pageRefused_keeps ?_ | split | dsimp only

theorem execQueueWinWrite_keeps {t : Tenant} {q : Queue} {v : Word} {s : State} (hk : Keeps pend tmin s) :
    KeepsR pend tmin (execQueueWinWrite t q v s) := by
  unfold execQueueWinWrite
  repeat' first
    | with_reducible assumption | with_reducible refine KeepsR.next ?_ | with_reducible refine Keeps.ite ?_ ?_
    | with_reducible refine KeepsR.ite ?_ ?_ | with_reducible refine State.queueWin_keeps ?_ | split | dsimp only

theorem State.cqEnable_keeps {s : State} {t : Nat} (hk : Keeps pend tmin s) :
    Keeps pend tmin (State.cqEnable s t) := by
  unfold State.cqEnable
  repeat' first
    | with_reducible assumption | with_reducible refine Keeps.ite ?_ ?_ | with_reducible refine State.pageRefused_keeps ?_
    | with_reducible refine State.set_keeps ?_ | with_reducible refine State.setTenant_keeps ?_ | simp only [Keeps.update]
    | with_reducible refine KeepsU.all ?_ | split | dsimp only

theorem execCqEnable_keeps {t : Tenant} {s : State} (hk : Keeps pend tmin s) :
    KeepsR pend tmin (execCqEnable t s) := by
  unfold execCqEnable
  repeat' first
    | with_reducible assumption | with_reducible refine KeepsR.next ?_ | with_reducible refine Keeps.ite ?_ ?_
    | with_reducible refine KeepsR.ite ?_ ?_ | with_reducible refine State.cqEnable_keeps ?_ | split | dsimp only

theorem State.cqDisable_keeps {s : State} {t : Nat} (hk : Keeps pend tmin s) :
    Keeps pend tmin (State.cqDisable s t) := by
  unfold State.cqDisable
  repeat' first
    | with_reducible assumption | with_reducible refine Keeps.ite ?_ ?_ | with_reducible refine State.pageRefused_keeps ?_
    | with_reducible refine State.set_keeps ?_ | split | dsimp only

theorem execCqDisable_keeps {t : Tenant} {s : State} (hk : Keeps pend tmin s) :
    KeepsR pend tmin (execCqDisable t s) := by
  unfold execCqDisable
  repeat' first
    | with_reducible assumption | with_reducible refine KeepsR.next ?_ | with_reducible refine Keeps.ite ?_ ?_
    | with_reducible refine KeepsR.ite ?_ ?_ | with_reducible refine State.cqDisable_keeps ?_ | split | dsimp only

theorem execCqResume_keeps {t : Tenant} {s : State} (hk : Keeps pend tmin s) :
    KeepsR pend tmin (execCqResume t s) := by
  unfold execCqResume
  repeat' first
    | with_reducible assumption | with_reducible refine KeepsR.next ?_ | with_reducible refine Keeps.ite ?_ ?_
    | with_reducible refine KeepsR.ite ?_ ?_ | with_reducible refine State.cqResume_keeps ?_ | split | dsimp only

theorem State.cqWin_keeps {s : State} {t : Nat} {v : Nat} (hk : Keeps pend tmin s) :
    Keeps pend tmin (State.cqWin s t v) := by
  unfold State.cqWin
  repeat' first
    | with_reducible assumption | with_reducible refine Keeps.ite ?_ ?_ | with_reducible refine State.putRw_keeps ?_
    | with_reducible refine State.pageRefused_keeps ?_ | split | dsimp only

theorem execCqWinWrite_keeps {t : Tenant} {v : Word} {s : State} (hk : Keeps pend tmin s) :
    KeepsR pend tmin (execCqWinWrite t v s) := by
  unfold execCqWinWrite
  repeat' first
    | with_reducible assumption | with_reducible refine KeepsR.next ?_ | with_reducible refine Keeps.ite ?_ ?_
    | with_reducible refine KeepsR.ite ?_ ?_ | with_reducible refine State.cqWin_keeps ?_ | split | dsimp only

theorem State.doorbell_keeps {s : State} {t : Nat} {q : Nat} {v : Nat} (hk : Keeps pend tmin s) :
    Keeps pend tmin (State.doorbell s t q v) := by
  unfold State.doorbell
  repeat' first
    | with_reducible assumption | with_reducible refine State.wake_keeps ?_ | with_reducible refine State.ringBell_keeps ?_
    | (with_reducible refine Keeps.of_snd (by with_reducible assumption) ?_) | split | dsimp only

theorem execDoorbell_keeps {t : Tenant} {q : Queue} {v : Word} {s : State} (hk : Keeps pend tmin s) :
    KeepsR pend tmin (execDoorbell t q v s) := by
  unfold execDoorbell
  repeat' first
    | with_reducible assumption | with_reducible refine KeepsR.next ?_ | with_reducible refine Keeps.ite ?_ ?_
    | with_reducible refine KeepsR.ite ?_ ?_ | with_reducible refine State.doorbell_keeps ?_ | split | dsimp only

theorem State.cqBell_keeps {s : State} {t : Nat} {v : Nat} (hk : Keeps pend tmin s) :
    Keeps pend tmin (State.cqBell s t v) := by
  unfold State.cqBell
  repeat' first
    | with_reducible assumption | with_reducible refine Keeps.ite ?_ ?_ | with_reducible refine State.set_keeps ?_
    | with_reducible refine State.setTenant_keeps ?_ | with_reducible refine State.stick_keeps ?_
    | with_reducible refine State.msix_keeps ?_ | simp only [Keeps.update] | with_reducible refine KeepsU.all ?_ | split
    | dsimp only

theorem execCqDoorbell_keeps {t : Tenant} {v : Word} {s : State} (hk : Keeps pend tmin s) :
    KeepsR pend tmin (execCqDoorbell t v s) := by
  unfold execCqDoorbell
  repeat' first
    | with_reducible assumption | with_reducible refine KeepsR.next ?_ | with_reducible refine Keeps.ite ?_ ?_
    | with_reducible refine KeepsR.ite ?_ ?_ | with_reducible refine State.wake_keeps ?_
    | with_reducible refine State.cqBell_keeps ?_ | split | dsimp only

theorem execCmqStopWrite_keeps {v : BitVec 16} {s : State} (hk : Keeps pend tmin s) :
    KeepsR pend tmin (execCmqStopWrite v s) := by
  unfold execCmqStopWrite
  repeat' first
    | with_reducible assumption | with_reducible refine KeepsR.next ?_ | with_reducible refine Keeps.ite ?_ ?_
    | with_reducible refine KeepsR.ite ?_ ?_ | with_reducible refine State.set_keeps ?_ | split | dsimp only

theorem State.haltQueue_keeps {s : State} {t : Nat} {q : Nat} {cause : Nat} (hk : Keeps pend tmin s) :
    Keeps pend tmin (State.haltQueue s t q cause) := by
  unfold State.haltQueue
  repeat' first
    | with_reducible assumption | with_reducible refine State.set_keeps ?_ | with_reducible refine State.haltNote_keeps ?_
    | split | dsimp only

theorem State.readSlot_keeps {s : State} {t : Nat} {q : Nat} {i : Nat} (hk : Keeps pend tmin s) :
    Keeps pend tmin (State.readSlot s t q i).2 := by
  unfold State.readSlot
  repeat' first
    | with_reducible assumption | with_reducible refine Keeps.ite ?_ ?_ | with_reducible refine Keeps.ite_snd ?_ ?_
    | with_reducible refine State.areaRead_keeps ?_ | (with_reducible refine Keeps.of_snd (by with_reducible assumption) ?_)
    | split | dsimp only

theorem State.readSlots_keeps {s : State} {t q i n : Nat} (h : Keeps pend tmin s) : Keeps pend tmin (State.readSlots s t q i n).2 := by
  induction n with
  | zero => exact h
  | succ n ih =>
    unfold State.readSlots
    repeat' first
      | with_reducible assumption | with_reducible refine State.readSlot_keeps ?_ | exact Nat.le_refl _ | exact fun w => w
      | (with_reducible refine Keeps.of_snd (by with_reducible assumption) ?_)
      | (with_reducible refine Keeps.of_some (by with_reducible assumption) ?_) | split | dsimp only

theorem State.fetchPackets_keeps {s : State} {t q tail room n : Nat} (h : Keeps pend tmin s) :
    Keeps pend tmin (State.fetchPackets s t q tail room n) := by
  induction n generalizing s room with
  | zero => exact h
  | succ n ih =>
    unfold State.fetchPackets
    repeat' first
      | with_reducible assumption | with_reducible refine State.readSlot_keeps ?_
      | with_reducible refine State.readSlots_keeps ?_ | with_reducible refine State.haltQueue_keeps ?_
      | with_reducible refine State.set_keeps ?_ | with_reducible refine State.setQueue_keeps ?_ | with_reducible refine ih ?_
      | with_reducible refine Keeps.ite ?_ ?_ | exact Nat.le_refl _ | exact fun w => w
      | (with_reducible refine Keeps.of_snd (by with_reducible assumption) ?_)
      | (with_reducible refine Keeps.of_some (by with_reducible assumption) ?_) | split | dsimp only

theorem State.queueFetch_keeps {s : State} {t : Nat} {q : Nat} (hk : Keeps pend tmin s) :
    Keeps pend tmin (State.queueFetch s t q) := by
  unfold State.queueFetch
  repeat' first
    | with_reducible assumption | with_reducible refine Keeps.ite ?_ ?_ | with_reducible refine State.set_keeps ?_
    | with_reducible refine State.fetchPackets_keeps ?_ | split | dsimp only

theorem execQueueFetch_keeps {t : Tenant} {q : Queue} {same : Bool} {s : State} (hk : Keeps pend tmin s) :
    KeepsR pend tmin (execQueueFetch t q same s) := by
  unfold execQueueFetch
  repeat' first
    | with_reducible assumption | with_reducible refine KeepsR.next ?_ | with_reducible refine Keeps.ite ?_ ?_
    | with_reducible refine KeepsR.ite ?_ ?_ | with_reducible refine State.queueFetch_keeps ?_
    | with_reducible refine State.set_keeps ?_ | split | dsimp only

theorem State.fetchFail_keeps {s : State} {t : Nat} {q : Nat} (hk : Keeps pend tmin s) :
    Keeps pend tmin (State.fetchFail s t q) := by
  unfold State.fetchFail
  repeat' first
    | with_reducible assumption | with_reducible refine Keeps.ite ?_ ?_ | with_reducible refine Keeps.ite_snd ?_ ?_
    | with_reducible refine State.haltQueue_keeps ?_ | with_reducible refine State.readSlot_keeps ?_
    | (with_reducible refine Keeps.of_snd (by with_reducible assumption) ?_) | split | dsimp only

theorem execQueueFetchFail_keeps {t : Tenant} {q : Queue} {s : State} (hk : Keeps pend tmin s) :
    KeepsR pend tmin (execQueueFetchFail t q s) := by
  unfold execQueueFetchFail
  repeat' first
    | with_reducible assumption | with_reducible refine KeepsR.next ?_ | with_reducible refine State.fetchFail_keeps ?_
    | split | dsimp only

end Sys2Proof.Machine
end

