-- ==== Sys2Proof/Laws/Keeps/Opcodes.lean ====
section
/-! SUPPORT. The operations of Machine/Opcodes.lean keep the queue, rack time and the canonical forms (see Laws/Keeps). -/
namespace Sys2Proof.Machine
variable {pend : List Instr} {tmin : Nat}

theorem State.formatSet_keeps {s : State} {t : Nat} {m : Nat} (hk : Keeps pend tmin s) :
    Keeps pend tmin (State.formatSet s t m) := by
  unfold State.formatSet
  repeat' first
    | with_reducible assumption | with_reducible refine State.set_keeps ?_ | split | dsimp only

theorem State.hello_keeps {s : State} {id : Nat} (hk : Keeps pend tmin s) :
    Keeps pend tmin (State.hello s id) := by
  unfold State.hello
  repeat' first
    | with_reducible assumption | with_reducible refine Keeps.ite ?_ ?_ | with_reducible refine Keeps.ite_snd ?_ ?_
    | with_reducible refine State.finish_keeps ?_ | with_reducible refine State.fail_keeps ?_
    | with_reducible refine State.formatSet_keeps ?_ | simp only [Keeps.update] | with_reducible refine KeepsU.all ?_
    | (with_reducible refine Keeps.of_snd (by with_reducible assumption) ?_) | split | dsimp only

theorem State.cfRun_keeps {s : State} {id : Nat} {op : Nat} {fails : Bool} (hk : Keeps pend tmin s) :
    Keeps pend tmin (State.cfRun s id op fails) := by
  unfold State.cfRun
  repeat' first
    | with_reducible assumption | with_reducible refine State.hello_keeps ?_
    | with_reducible refine State.winCreate_keeps ?_ | with_reducible refine State.winRevoke_keeps ?_
    | with_reducible refine State.descCreate_keeps ?_ | with_reducible refine State.descDestroy_keeps ?_
    | with_reducible refine State.graphLoad_keeps ?_ | with_reducible refine State.graphUnload_keeps ?_
    | with_reducible refine State.pwrRequest_keeps ?_ | with_reducible refine State.calStart_keeps ?_
    | with_reducible refine State.calSave_keeps ?_ | with_reducible refine State.calFactory_keeps ?_
    | with_reducible refine State.attest_keeps ?_ | with_reducible refine State.fwBegin_keeps ?_
    | with_reducible refine State.fwData_keeps ?_ | with_reducible refine State.fwCommit_keeps ?_
    | with_reducible refine State.fwAbort_keeps ?_ | with_reducible refine State.safeConfig_keeps ?_
    | (with_reducible refine Keeps.of_snd (by with_reducible assumption) ?_) | split | dsimp only

theorem State.cfStart_keeps {s : State} {id : Nat} {fails : Bool} (hk : Keeps pend tmin s) :
    Keeps pend tmin (State.cfStart s id fails) := by
  unfold State.cfStart
  repeat' first
    | with_reducible assumption | with_reducible refine State.modCmd_keeps ?_ | with_reducible refine State.cfRun_keeps ?_
    | simp only [Keeps.update] | with_reducible refine KeepsU.all ?_
    | (with_reducible refine Keeps.of_snd (by with_reducible assumption) ?_) | split | dsimp only

theorem State.cfAccept_keeps {s : State} {id : Nat} {fails : Bool} (hk : Keeps pend tmin s) :
    Keeps pend tmin (State.cfAccept s id fails) := by
  unfold State.cfAccept
  repeat' first
    | with_reducible assumption | with_reducible refine Keeps.ite ?_ ?_ | with_reducible refine Keeps.ite_snd ?_ ?_
    | with_reducible refine State.fail_keeps ?_ | with_reducible refine State.flushed_keeps ?_
    | with_reducible refine State.cfStart_keeps ?_ | (with_reducible refine Keeps.of_snd (by with_reducible assumption) ?_)
    | split | dsimp only

theorem State.cfWork_keeps {s : State} {fails : Bool} (hk : Keeps pend tmin s) :
    Keeps pend tmin (State.cfWork s fails) := by
  unfold State.cfWork
  repeat' first
    | with_reducible assumption | with_reducible refine Keeps.ite ?_ ?_ | with_reducible refine Keeps.ite_snd ?_ ?_
    | with_reducible refine State.cfAccept_keeps ?_ | simp only [Keeps.update] | with_reducible refine KeepsU.all ?_
    | (with_reducible refine Keeps.of_snd (by with_reducible assumption) ?_) | split | dsimp only

theorem execCfWorkStart_keeps {fails : Bool} {s : State} (hk : Keeps pend tmin s) :
    KeepsR pend tmin (execCfWorkStart fails s) := by
  unfold execCfWorkStart
  repeat' first
    | with_reducible assumption | with_reducible refine KeepsR.next ?_ | with_reducible refine State.cfWork_keeps ?_ | split
    | dsimp only

theorem State.toCf_keeps {s : State} {id : Nat} (hk : Keeps pend tmin s) :
    Keeps pend tmin (State.toCf s id) := by
  unfold State.toCf
  repeat' first
    | with_reducible assumption | with_reducible refine Keeps.ite ?_ ?_ | with_reducible refine State.stick_keeps ?_
    | with_reducible refine State.fail_keeps ?_ | with_reducible refine State.modCmd_keeps ?_
    | with_reducible refine State.set_keeps ?_ | simp only [Keeps.update] | with_reducible refine KeepsU.all ?_ | split
    | dsimp only

theorem State.issue_keeps {s : State} {t : Nat} {q : Nat} {p : Packet} {fails : Bool} (hk : Keeps pend tmin s) :
    Keeps pend tmin (State.issue s t q p fails) := by
  unfold State.issue
  repeat' first
    | with_reducible assumption | with_reducible refine Keeps.ite ?_ ?_ | with_reducible refine Keeps.ite_snd ?_ ?_
    | with_reducible refine State.addCmd_keeps ?_ | with_reducible refine State.joinStart_keeps ?_
    | with_reducible refine State.reject_keeps ?_ | with_reducible refine State.toCf_keeps ?_
    | with_reducible refine State.decodeFast_keeps ?_
    | (with_reducible refine Keeps.of_snd (by with_reducible assumption) ?_) | split | dsimp only

theorem State.issueBad_keeps {s : State} {t : Nat} {q : Nat} {p : Packet} {result : Nat} (hk : Keeps pend tmin s) :
    Keeps pend tmin (State.issueBad s t q p result) := by
  unfold State.issueBad
  repeat' first
    | with_reducible assumption | with_reducible refine State.addCmd_keeps ?_ | with_reducible refine State.finish_keeps ?_
    | split | dsimp only

theorem State.packetDecode_keeps {s : State} {t : Nat} {q : Nat} {fails : Bool} (hk : Keeps pend tmin s) :
    Keeps pend tmin (State.packetDecode s t q fails) := by
  unfold State.packetDecode
  repeat' first
    | with_reducible assumption | with_reducible refine Keeps.ite ?_ ?_ | with_reducible refine Keeps.ite_snd ?_ ?_
    | with_reducible refine State.setTenant_keeps ?_ | with_reducible refine State.stick_keeps ?_
    | with_reducible refine State.msix_keeps ?_ | with_reducible refine State.setQueue_keeps ?_
    | with_reducible refine State.set_keeps ?_ | with_reducible refine State.haltQueue_keeps ?_
    | with_reducible refine State.issueBad_keeps ?_ | with_reducible refine State.issue_keeps ?_ | simp only [Keeps.update]
    | with_reducible refine KeepsU.all ?_ | (with_reducible refine Keeps.of_snd (by with_reducible assumption) ?_) | split
    | dsimp only

theorem execPacketDecode_keeps {t : Tenant} {q : Queue} {fails : Bool} {s : State} (hk : Keeps pend tmin s) :
    KeepsR pend tmin (execPacketDecode t q fails s) := by
  unfold execPacketDecode
  repeat' first
    | with_reducible assumption | with_reducible refine KeepsR.next ?_ | with_reducible refine State.packetDecode_keeps ?_
    | split | dsimp only

theorem State.opcode_keeps {s : State} {t : Nat} {q : Nat} {op : Nat} {p : List (BitVec 8)} {fails : Bool} (hk : Keeps pend tmin s) :
    Keeps pend tmin (State.opcode s t q op p fails) := by
  unfold State.opcode
  repeat' first
    | with_reducible assumption | with_reducible refine Keeps.ite ?_ ?_ | with_reducible refine Keeps.ite_snd ?_ ?_
    | with_reducible refine State.issueBad_keeps ?_ | with_reducible refine State.issue_keeps ?_
    | with_reducible refine State.cfAccept_keeps ?_ | (with_reducible refine Keeps.of_snd (by with_reducible assumption) ?_)
    | split | dsimp only

theorem execNop_keeps {t : Tenant} {q : Queue} {p : List Byte} {s : State} (hk : Keeps pend tmin s) :
    KeepsR pend tmin (execNop t q p s) := by
  unfold execNop
  repeat' first
    | with_reducible assumption | with_reducible refine KeepsR.next ?_ | with_reducible refine State.opcode_keeps ?_ | split
    | dsimp only

theorem execFence_keeps {t : Tenant} {q : Queue} {p : List Byte} {fails : Bool} {s : State} (hk : Keeps pend tmin s) :
    KeepsR pend tmin (execFence t q p fails s) := by
  unfold execFence
  repeat' first
    | with_reducible assumption | with_reducible refine KeepsR.next ?_ | with_reducible refine State.opcode_keeps ?_ | split
    | dsimp only

theorem execHello_keeps {t : Tenant} {q : Queue} {p : List Byte} {s : State} (hk : Keeps pend tmin s) :
    KeepsR pend tmin (execHello t q p s) := by
  unfold execHello
  repeat' first
    | with_reducible assumption | with_reducible refine KeepsR.next ?_ | with_reducible refine State.opcode_keeps ?_ | split
    | dsimp only

theorem execWinCreate_keeps {t : Tenant} {q : Queue} {p : List Byte} {s : State} (hk : Keeps pend tmin s) :
    KeepsR pend tmin (execWinCreate t q p s) := by
  unfold execWinCreate
  repeat' first
    | with_reducible assumption | with_reducible refine KeepsR.next ?_ | with_reducible refine State.opcode_keeps ?_ | split
    | dsimp only

theorem execWinRevoke_keeps {t : Tenant} {q : Queue} {p : List Byte} {s : State} (hk : Keeps pend tmin s) :
    KeepsR pend tmin (execWinRevoke t q p s) := by
  unfold execWinRevoke
  repeat' first
    | with_reducible assumption | with_reducible refine KeepsR.next ?_ | with_reducible refine State.opcode_keeps ?_ | split
    | dsimp only

theorem execWinDestroy_keeps {t : Tenant} {q : Queue} {p : List Byte} {s : State} (hk : Keeps pend tmin s) :
    KeepsR pend tmin (execWinDestroy t q p s) := by
  unfold execWinDestroy
  repeat' first
    | with_reducible assumption | with_reducible refine KeepsR.next ?_ | with_reducible refine State.opcode_keeps ?_ | split
    | dsimp only

theorem execDescCreate_keeps {t : Tenant} {q : Queue} {p : List Byte} {fails : Bool} {s : State} (hk : Keeps pend tmin s) :
    KeepsR pend tmin (execDescCreate t q p fails s) := by
  unfold execDescCreate
  repeat' first
    | with_reducible assumption | with_reducible refine KeepsR.next ?_ | with_reducible refine State.opcode_keeps ?_ | split
    | dsimp only

theorem execDescDestroy_keeps {t : Tenant} {q : Queue} {p : List Byte} {s : State} (hk : Keeps pend tmin s) :
    KeepsR pend tmin (execDescDestroy t q p s) := by
  unfold execDescDestroy
  repeat' first
    | with_reducible assumption | with_reducible refine KeepsR.next ?_ | with_reducible refine State.opcode_keeps ?_ | split
    | dsimp only

theorem execMove_keeps {t : Tenant} {q : Queue} {p : List Byte} {fails : Bool} {s : State} (hk : Keeps pend tmin s) :
    KeepsR pend tmin (execMove t q p fails s) := by
  unfold execMove
  repeat' first
    | with_reducible assumption | with_reducible refine KeepsR.next ?_ | with_reducible refine State.opcode_keeps ?_ | split
    | dsimp only

theorem execMovePlain_keeps {t : Tenant} {q : Queue} {p : List Byte} {fails : Bool} {s : State} (hk : Keeps pend tmin s) :
    KeepsR pend tmin (execMovePlain t q p fails s) := by
  unfold execMovePlain
  repeat' first
    | with_reducible assumption | with_reducible refine KeepsR.next ?_ | with_reducible refine State.opcode_keeps ?_ | split
    | dsimp only

theorem execGatherPages_keeps {t : Tenant} {q : Queue} {p : List Byte} {fails : Bool} {s : State} (hk : Keeps pend tmin s) :
    KeepsR pend tmin (execGatherPages t q p fails s) := by
  unfold execGatherPages
  repeat' first
    | with_reducible assumption | with_reducible refine KeepsR.next ?_ | with_reducible refine State.opcode_keeps ?_ | split
    | dsimp only

theorem execScatterPages_keeps {t : Tenant} {q : Queue} {p : List Byte} {fails : Bool} {s : State} (hk : Keeps pend tmin s) :
    KeepsR pend tmin (execScatterPages t q p fails s) := by
  unfold execScatterPages
  repeat' first
    | with_reducible assumption | with_reducible refine KeepsR.next ?_ | with_reducible refine State.opcode_keeps ?_ | split
    | dsimp only

theorem execChain_keeps {t : Tenant} {q : Queue} {p : List Byte} {fails : Bool} {s : State} (hk : Keeps pend tmin s) :
    KeepsR pend tmin (execChain t q p fails s) := by
  unfold execChain
  repeat' first
    | with_reducible assumption | with_reducible refine KeepsR.next ?_ | with_reducible refine State.opcode_keeps ?_ | split
    | dsimp only

theorem execShortWrite_keeps {t : Tenant} {q : Queue} {p : List Byte} {fails : Bool} {s : State} (hk : Keeps pend tmin s) :
    KeepsR pend tmin (execShortWrite t q p fails s) := by
  unfold execShortWrite
  repeat' first
    | with_reducible assumption | with_reducible refine KeepsR.next ?_ | with_reducible refine State.opcode_keeps ?_ | split
    | dsimp only

theorem execShortCopy_keeps {t : Tenant} {q : Queue} {p : List Byte} {fails : Bool} {s : State} (hk : Keeps pend tmin s) :
    KeepsR pend tmin (execShortCopy t q p fails s) := by
  unfold execShortCopy
  repeat' first
    | with_reducible assumption | with_reducible refine KeepsR.next ?_ | with_reducible refine State.opcode_keeps ?_ | split
    | dsimp only

theorem execSignal_keeps {t : Tenant} {q : Queue} {p : List Byte} {fails : Bool} {s : State} (hk : Keeps pend tmin s) :
    KeepsR pend tmin (execSignal t q p fails s) := by
  unfold execSignal
  repeat' first
    | with_reducible assumption | with_reducible refine KeepsR.next ?_ | with_reducible refine State.opcode_keeps ?_ | split
    | dsimp only

theorem execWait_keeps {t : Tenant} {q : Queue} {p : List Byte} {fails : Bool} {s : State} (hk : Keeps pend tmin s) :
    KeepsR pend tmin (execWait t q p fails s) := by
  unfold execWait
  repeat' first
    | with_reducible assumption | with_reducible refine KeepsR.next ?_ | with_reducible refine State.opcode_keeps ?_ | split
    | dsimp only

theorem execBarrierArrive_keeps {t : Tenant} {q : Queue} {p : List Byte} {fails : Bool} {s : State} (hk : Keeps pend tmin s) :
    KeepsR pend tmin (execBarrierArrive t q p fails s) := by
  unfold execBarrierArrive
  repeat' first
    | with_reducible assumption | with_reducible refine KeepsR.next ?_ | with_reducible refine State.opcode_keeps ?_ | split
    | dsimp only

theorem execLockAcquire_keeps {t : Tenant} {q : Queue} {p : List Byte} {fails : Bool} {s : State} (hk : Keeps pend tmin s) :
    KeepsR pend tmin (execLockAcquire t q p fails s) := by
  unfold execLockAcquire
  repeat' first
    | with_reducible assumption | with_reducible refine KeepsR.next ?_ | with_reducible refine State.opcode_keeps ?_ | split
    | dsimp only

theorem execLockRelease_keeps {t : Tenant} {q : Queue} {p : List Byte} {fails : Bool} {s : State} (hk : Keeps pend tmin s) :
    KeepsR pend tmin (execLockRelease t q p fails s) := by
  unfold execLockRelease
  repeat' first
    | with_reducible assumption | with_reducible refine KeepsR.next ?_ | with_reducible refine State.opcode_keeps ?_ | split
    | dsimp only

theorem execFlagSet_keeps {t : Tenant} {q : Queue} {p : List Byte} {fails : Bool} {s : State} (hk : Keeps pend tmin s) :
    KeepsR pend tmin (execFlagSet t q p fails s) := by
  unfold execFlagSet
  repeat' first
    | with_reducible assumption | with_reducible refine KeepsR.next ?_ | with_reducible refine State.opcode_keeps ?_ | split
    | dsimp only

theorem execFlagClear_keeps {t : Tenant} {q : Queue} {p : List Byte} {fails : Bool} {s : State} (hk : Keeps pend tmin s) :
    KeepsR pend tmin (execFlagClear t q p fails s) := by
  unfold execFlagClear
  repeat' first
    | with_reducible assumption | with_reducible refine KeepsR.next ?_ | with_reducible refine State.opcode_keeps ?_ | split
    | dsimp only

theorem execRing_keeps {t : Tenant} {q : Queue} {p : List Byte} {fails : Bool} {s : State} (hk : Keeps pend tmin s) :
    KeepsR pend tmin (execRing t q p fails s) := by
  unfold execRing
  repeat' first
    | with_reducible assumption | with_reducible refine KeepsR.next ?_ | with_reducible refine State.opcode_keeps ?_ | split
    | dsimp only

theorem execGraphLoad_keeps {t : Tenant} {q : Queue} {p : List Byte} {fails : Bool} {s : State} (hk : Keeps pend tmin s) :
    KeepsR pend tmin (execGraphLoad t q p fails s) := by
  unfold execGraphLoad
  repeat' first
    | with_reducible assumption | with_reducible refine KeepsR.next ?_ | with_reducible refine State.opcode_keeps ?_ | split
    | dsimp only

theorem execGraphLaunch_keeps {t : Tenant} {q : Queue} {p : List Byte} {fails : Bool} {s : State} (hk : Keeps pend tmin s) :
    KeepsR pend tmin (execGraphLaunch t q p fails s) := by
  unfold execGraphLaunch
  repeat' first
    | with_reducible assumption | with_reducible refine KeepsR.next ?_ | with_reducible refine State.opcode_keeps ?_ | split
    | dsimp only

theorem execGraphUnload_keeps {t : Tenant} {q : Queue} {p : List Byte} {s : State} (hk : Keeps pend tmin s) :
    KeepsR pend tmin (execGraphUnload t q p s) := by
  unfold execGraphUnload
  repeat' first
    | with_reducible assumption | with_reducible refine KeepsR.next ?_ | with_reducible refine State.opcode_keeps ?_ | split
    | dsimp only

theorem execPwrRequest_keeps {t : Tenant} {q : Queue} {p : List Byte} {s : State} (hk : Keeps pend tmin s) :
    KeepsR pend tmin (execPwrRequest t q p s) := by
  unfold execPwrRequest
  repeat' first
    | with_reducible assumption | with_reducible refine KeepsR.next ?_ | with_reducible refine State.opcode_keeps ?_ | split
    | dsimp only

theorem execCalRun_keeps {t : Tenant} {q : Queue} {p : List Byte} {s : State} (hk : Keeps pend tmin s) :
    KeepsR pend tmin (execCalRun t q p s) := by
  unfold execCalRun
  repeat' first
    | with_reducible assumption | with_reducible refine KeepsR.next ?_ | with_reducible refine State.opcode_keeps ?_ | split
    | dsimp only

theorem execCalSave_keeps {t : Tenant} {q : Queue} {p : List Byte} {s : State} (hk : Keeps pend tmin s) :
    KeepsR pend tmin (execCalSave t q p s) := by
  unfold execCalSave
  repeat' first
    | with_reducible assumption | with_reducible refine KeepsR.next ?_ | with_reducible refine State.opcode_keeps ?_ | split
    | dsimp only

theorem execRestoreFactory_keeps {t : Tenant} {q : Queue} {p : List Byte} {s : State} (hk : Keeps pend tmin s) :
    KeepsR pend tmin (execRestoreFactory t q p s) := by
  unfold execRestoreFactory
  repeat' first
    | with_reducible assumption | with_reducible refine KeepsR.next ?_ | with_reducible refine State.opcode_keeps ?_ | split
    | dsimp only

theorem execAttestQuote_keeps {t : Tenant} {q : Queue} {p : List Byte} {fails : Bool} {s : State} (hk : Keeps pend tmin s) :
    KeepsR pend tmin (execAttestQuote t q p fails s) := by
  unfold execAttestQuote
  repeat' first
    | with_reducible assumption | with_reducible refine KeepsR.next ?_ | with_reducible refine State.opcode_keeps ?_ | split
    | dsimp only

theorem execFwBegin_keeps {t : Tenant} {q : Queue} {p : List Byte} {s : State} (hk : Keeps pend tmin s) :
    KeepsR pend tmin (execFwBegin t q p s) := by
  unfold execFwBegin
  repeat' first
    | with_reducible assumption | with_reducible refine KeepsR.next ?_ | with_reducible refine State.opcode_keeps ?_ | split
    | dsimp only

theorem execFwData_keeps {t : Tenant} {q : Queue} {p : List Byte} {fails : Bool} {s : State} (hk : Keeps pend tmin s) :
    KeepsR pend tmin (execFwData t q p fails s) := by
  unfold execFwData
  repeat' first
    | with_reducible assumption | with_reducible refine KeepsR.next ?_ | with_reducible refine State.opcode_keeps ?_ | split
    | dsimp only

theorem execFwCommit_keeps {t : Tenant} {q : Queue} {p : List Byte} {s : State} (hk : Keeps pend tmin s) :
    KeepsR pend tmin (execFwCommit t q p s) := by
  unfold execFwCommit
  repeat' first
    | with_reducible assumption | with_reducible refine KeepsR.next ?_ | with_reducible refine State.opcode_keeps ?_ | split
    | dsimp only

theorem execFwAbort_keeps {t : Tenant} {q : Queue} {p : List Byte} {s : State} (hk : Keeps pend tmin s) :
    KeepsR pend tmin (execFwAbort t q p s) := by
  unfold execFwAbort
  repeat' first
    | with_reducible assumption | with_reducible refine KeepsR.next ?_ | with_reducible refine State.opcode_keeps ?_ | split
    | dsimp only

theorem execSafeConfig_keeps {t : Tenant} {q : Queue} {p : List Byte} {fails : Bool} {s : State} (hk : Keeps pend tmin s) :
    KeepsR pend tmin (execSafeConfig t q p fails s) := by
  unfold execSafeConfig
  repeat' first
    | with_reducible assumption | with_reducible refine KeepsR.next ?_ | with_reducible refine State.opcode_keeps ?_ | split
    | dsimp only

theorem execSafeHeartbeat_keeps {t : Tenant} {q : Queue} {p : List Byte} {fails : Bool} {s : State} (hk : Keeps pend tmin s) :
    KeepsR pend tmin (execSafeHeartbeat t q p fails s) := by
  unfold execSafeHeartbeat
  repeat' first
    | with_reducible assumption | with_reducible refine KeepsR.next ?_ | with_reducible refine State.opcode_keeps ?_ | split
    | dsimp only

end Sys2Proof.Machine
end

