-- ==== Sys2Proof/Laws/Keeps/Flits.lean ====
section
/-! SUPPORT. The operations of Machine/Flits.lean keep the queue, rack time and the canonical forms (see Laws/Keeps). -/
namespace Sys2Proof.Machine
variable {pend : List Instr} {tmin : Nat}

theorem State.creditsIn_keeps {s : State} {n : Nat} {vc : Nat} {k : Nat} (hk : Keeps pend tmin s) :
    Keeps pend tmin (State.creditsIn s n vc k) := by
  unfold State.creditsIn
  repeat' first
    | with_reducible assumption | with_reducible refine State.setPort_keeps ?_ | with_reducible refine State.pump_keeps ?_
    | simp only [Keeps.update] | with_reducible refine KeepsU.all ?_ | split | dsimp only

theorem State.deliver_keeps {s : State} {n : Nat} {m : Msg} (hk : Keeps pend tmin s) :
    Keeps pend tmin (State.deliver s n m) := by
  unfold State.deliver
  repeat' first
    | with_reducible assumption | with_reducible refine Keeps.ite ?_ ?_ | with_reducible refine Keeps.ite_snd ?_ ?_
    | with_reducible refine State.domainIn_keeps ?_ | with_reducible refine State.timeSync_keeps ?_
    | with_reducible refine State.timeFollow_keeps ?_ | with_reducible refine State.timeDreq_keeps ?_
    | with_reducible refine State.timeDresp_keeps ?_ | with_reducible refine State.configIn_keeps ?_
    | with_reducible refine State.girthReq_keeps ?_ | with_reducible refine State.girthGrant_keeps ?_
    | with_reducible refine State.girthRet_keeps ?_ | with_reducible refine State.vc1In_keeps ?_
    | with_reducible refine State.vc02In_keeps ?_ | (with_reducible refine Keeps.of_snd (by with_reducible assumption) ?_)
    | split | dsimp only

theorem State.collect_keeps {s : State} {n : Nat} {f : Flit} (hk : Keeps pend tmin s) :
    Keeps pend tmin (State.collect s n f) := by
  unfold State.collect
  repeat' first
    | with_reducible assumption | with_reducible refine Keeps.ite ?_ ?_ | with_reducible refine Keeps.ite_snd ?_ ?_
    | with_reducible refine State.setPort_keeps ?_ | with_reducible refine State.deliver_keeps ?_ | simp only [Keeps.update]
    | with_reducible refine KeepsU.all ?_ | (with_reducible refine Keeps.of_snd (by with_reducible assumption) ?_) | split
    | dsimp only

theorem State.transitNote_keeps {s : State} {n : Nat} {k : Nat} {f : Flit} (hk : Keeps pend tmin s) :
    Keeps pend tmin (State.transitNote s n k f) := by
  unfold State.transitNote
  repeat' first
    | with_reducible assumption | with_reducible refine Keeps.ite ?_ ?_ | with_reducible refine State.setPort_keeps ?_
    | simp only [Keeps.update] | with_reducible refine KeepsU.all ?_ | split | dsimp only

theorem State.transit_keeps {s : State} {n : Nat} {f : Flit} (hk : Keeps pend tmin s) :
    Keeps pend tmin (State.transit s n f) := by
  unfold State.transit
  repeat' first
    | with_reducible assumption | with_reducible refine Keeps.ite ?_ ?_ | with_reducible refine Keeps.ite_snd ?_ ?_
    | with_reducible refine State.transitNote_keeps ?_ | with_reducible refine State.routeMulti_keeps ?_
    | with_reducible refine State.enqueue_keeps ?_ | with_reducible refine State.discard_keeps ?_ | simp only [Keeps.update]
    | with_reducible refine KeepsU.all ?_ | (with_reducible refine Keeps.of_snd (by with_reducible assumption) ?_) | split
    | dsimp only

theorem State.flitAccepted_keeps {s : State} {n : Nat} {f : Flit} (hk : Keeps pend tmin s) :
    Keeps pend tmin (State.flitAccepted s n f) := by
  unfold State.flitAccepted
  repeat' first
    | with_reducible assumption | with_reducible refine Keeps.ite ?_ ?_ | with_reducible refine State.transitNote_keeps ?_
    | with_reducible refine State.stick_keeps ?_ | with_reducible refine State.collect_keeps ?_
    | with_reducible refine State.transit_keeps ?_ | split | dsimp only

theorem State.flitIn_keeps {s : State} {n : Nat} {b : List (BitVec 8)} (hk : Keeps pend tmin s) :
    Keeps pend tmin (State.flitIn s n b) := by
  unfold State.flitIn
  repeat' first
    | with_reducible assumption | with_reducible refine Keeps.ite ?_ ?_ | with_reducible refine State.nakOut_keeps ?_
    | with_reducible refine State.nakIn_keeps ?_ | with_reducible refine State.lackTo_keeps ?_
    | with_reducible refine State.creditsIn_keeps ?_ | with_reducible refine State.setPort_keeps ?_
    | with_reducible refine State.flitAccepted_keeps ?_ | simp only [Keeps.update] | with_reducible refine KeepsU.all ?_
    | split | dsimp only

end Sys2Proof.Machine
end

