-- ==== Sys2Proof/Laws/Keeps/RegWrite.lean ====
section
/-! SUPPORT. The operations of Machine/RegWrite.lean keep the queue, rack time and the canonical forms (see Laws/Keeps). -/
namespace Sys2Proof.Machine
variable {pend : List Instr} {tmin : Nat}

theorem State.regRefused_keeps {s : State} {a : Nat} (hk : Keeps pend tmin s) :
    Keeps pend tmin (State.regRefused s a) := by
  unfold State.regRefused
  repeat' first
    | with_reducible assumption | with_reducible refine State.stick_keeps ?_ | split | dsimp only

theorem State.putWord_keeps {s : State} {a : Nat} {v : Nat} (hk : Keeps pend tmin s) :
    Keeps pend tmin (State.putWord s a v) := by
  unfold State.putWord
  repeat' first
    | with_reducible assumption | with_reducible refine State.wr_keeps ?_ | split | dsimp only

theorem State.clearFlags_keeps {s : State} {a : Nat} {v : Nat} (hk : Keeps pend tmin s) :
    Keeps pend tmin (State.clearFlags s a v) := by
  unfold State.clearFlags
  repeat' first
    | with_reducible assumption | with_reducible refine Keeps.ite ?_ ?_ | with_reducible refine State.unstick_keeps ?_
    | with_reducible refine Keeps.foldl ?_ (fun _ _ _ => ?_) | with_reducible refine Keeps.foldl_snd ?_ (fun _ _ _ => ?_)
    | split | dsimp only

theorem State.regPlain_keeps {s : State} {a : Nat} {v : Nat} (hk : Keeps pend tmin s) :
    Keeps pend tmin (State.regPlain s a v) := by
  unfold State.regPlain
  repeat' first
    | with_reducible assumption | with_reducible refine Keeps.ite ?_ ?_ | with_reducible refine State.putWord_keeps ?_
    | with_reducible refine State.clearFlags_keeps ?_ | with_reducible refine State.regRefused_keeps ?_ | split | dsimp only

theorem State.regGlb_keeps {s : State} {a : Nat} {v : Nat} (hk : Keeps pend tmin s) :
    Keeps pend tmin (State.regGlb s a v) := by
  unfold State.regGlb
  repeat' first
    | with_reducible assumption | with_reducible refine Keeps.ite ?_ ?_ | with_reducible refine State.set_keeps ?_
    | with_reducible refine State.regRefused_keeps ?_ | with_reducible refine State.regPlain_keeps ?_ | split | dsimp only

theorem State.regFw_keeps {s : State} {a : Nat} {v : Nat} (hk : Keeps pend tmin s) :
    Keeps pend tmin (State.regFw s a v) := by
  unfold State.regFw
  repeat' first
    | with_reducible assumption | with_reducible refine Keeps.ite ?_ ?_ | with_reducible refine State.fwConfirm_keeps ?_
    | with_reducible refine State.fwReboot_keeps ?_ | with_reducible refine State.fwRestart_keeps ?_
    | with_reducible refine State.regPlain_keeps ?_ | split | dsimp only

theorem State.ingestBase_keeps {s : State} {v : Nat} (hk : Keeps pend tmin s) :
    Keeps pend tmin (State.ingestBase s v) := by
  unfold State.ingestBase
  repeat' first
    | with_reducible assumption | with_reducible refine Keeps.ite ?_ ?_ | with_reducible refine State.wr_keeps ?_
    | with_reducible refine State.regRefused_keeps ?_ | with_reducible refine State.putWord_keeps ?_
    | (with_reducible refine Keeps.of_snd (by with_reducible assumption) ?_) | split | dsimp only

theorem State.regMem_keeps {s : State} {a : Nat} {v : Nat} (hk : Keeps pend tmin s) :
    Keeps pend tmin (State.regMem s a v) := by
  unfold State.regMem
  repeat' first
    | with_reducible assumption | with_reducible refine Keeps.ite ?_ ?_ | with_reducible refine State.wcResize_keeps ?_
    | with_reducible refine State.ingestBase_keeps ?_ | with_reducible refine State.wcPinWrite_keeps ?_
    | with_reducible refine State.set_keeps ?_ | with_reducible refine State.regRefused_keeps ?_
    | with_reducible refine State.facetWrite_keeps ?_ | with_reducible refine State.regPlain_keeps ?_ | split | dsimp only

theorem State.regPri_keeps {s : State} {a : Nat} {v : Nat} (hk : Keeps pend tmin s) :
    Keeps pend tmin (State.regPri s a v) := by
  unfold State.regPri
  repeat' first
    | with_reducible assumption | with_reducible refine Keeps.ite ?_ ?_ | with_reducible refine State.priPartWrite_keeps ?_
    | with_reducible refine State.priInval_keeps ?_ | with_reducible refine State.regPlain_keeps ?_ | split | dsimp only

theorem State.regEng_keeps {s : State} {a : Nat} {v : Nat} (hk : Keeps pend tmin s) :
    Keeps pend tmin (State.regEng s a v) := by
  unfold State.regEng
  repeat' first
    | with_reducible assumption | with_reducible refine Keeps.ite ?_ ?_ | with_reducible refine State.putWord_keeps ?_
    | with_reducible refine State.regRefused_keeps ?_ | with_reducible refine State.set_keeps ?_
    | with_reducible refine State.engineOffline_keeps ?_ | with_reducible refine State.engineReset_keeps ?_
    | with_reducible refine State.spartWrite_keeps ?_ | with_reducible refine State.regPlain_keeps ?_ | split | dsimp only

theorem State.regSyn_keeps {s : State} {a : Nat} {v : Nat} (hk : Keeps pend tmin s) :
    Keeps pend tmin (State.regSyn s a v) := by
  unfold State.regSyn
  repeat' first
    | with_reducible assumption | with_reducible refine Keeps.ite ?_ ?_ | with_reducible refine State.partWrite_keeps ?_
    | with_reducible refine State.regPlain_keeps ?_ | split | dsimp only

theorem State.regSch_keeps {s : State} {a : Nat} {v : Nat} (hk : Keeps pend tmin s) :
    Keeps pend tmin (State.regSch s a v) := by
  unfold State.regSch
  repeat' first
    | with_reducible assumption | with_reducible refine Keeps.ite ?_ ?_ | with_reducible refine State.schPartWrite_keeps ?_
    | with_reducible refine State.regPlain_keeps ?_ | split | dsimp only

theorem State.regCad_keeps {s : State} {a : Nat} {v : Nat} (hk : Keeps pend tmin s) :
    Keeps pend tmin (State.regCad s a v) := by
  unfold State.regCad
  repeat' first
    | with_reducible assumption | with_reducible refine Keeps.ite ?_ ?_ | with_reducible refine State.cadCtrlWrite_keeps ?_
    | with_reducible refine State.cadDomainWrite_keeps ?_ | with_reducible refine State.regPlain_keeps ?_
    | with_reducible refine State.elect_keeps ?_ | with_reducible refine State.holdRefresh_keeps ?_ | split | dsimp only

theorem State.regRei_keeps {s : State} {a : Nat} {v : Nat} (hk : Keeps pend tmin s) :
    Keeps pend tmin (State.regRei s a v) := by
  unfold State.regRei
  repeat' first
    | with_reducible assumption | with_reducible refine Keeps.ite ?_ ?_ | with_reducible refine State.reiIdWrite_keeps ?_
    | with_reducible refine State.elect_keeps ?_ | with_reducible refine State.putWord_keeps ?_
    | with_reducible refine State.portEnable_keeps ?_ | with_reducible refine State.routeWrite_keeps ?_
    | with_reducible refine State.regPlain_keeps ?_ | split | dsimp only

theorem State.ethCtrl_keeps {s : State} {v : Nat} (hk : Keeps pend tmin s) :
    Keeps pend tmin (State.ethCtrl s v) := by
  unfold State.ethCtrl
  repeat' first
    | with_reducible assumption | with_reducible refine Keeps.ite ?_ ?_ | with_reducible refine State.regRefused_keeps ?_
    | with_reducible refine State.ethLink_keeps ?_ | with_reducible refine State.putWord_keeps ?_
    | with_reducible refine Keeps.foldl ?_ (fun _ _ _ => ?_) | with_reducible refine Keeps.foldl_snd ?_ (fun _ _ _ => ?_)
    | split | dsimp only

theorem State.regEth_keeps {s : State} {a : Nat} {v : Nat} (hk : Keeps pend tmin s) :
    Keeps pend tmin (State.regEth s a v) := by
  unfold State.regEth
  repeat' first
    | with_reducible assumption | with_reducible refine Keeps.ite ?_ ?_ | with_reducible refine Keeps.ite_snd ?_ ?_
    | with_reducible refine State.ethCtrl_keeps ?_ | with_reducible refine State.putWord_keeps ?_
    | with_reducible refine State.regRefused_keeps ?_ | with_reducible refine State.regPlain_keeps ?_
    | with_reducible refine State.camInsert_keeps ?_ | with_reducible refine State.camDelete_keeps ?_
    | with_reducible refine State.camRead_keeps ?_ | with_reducible refine State.ruleWrite_keeps ?_
    | with_reducible refine State.saInstall_keeps ?_ | with_reducible refine State.putRw_keeps ?_
    | (with_reducible refine Keeps.of_snd (by with_reducible assumption) ?_) | split | dsimp only

theorem State.regTen_keeps {s : State} {a : Nat} {v : Nat} (hk : Keeps pend tmin s) :
    Keeps pend tmin (State.regTen s a v) := by
  unfold State.regTen
  repeat' first
    | with_reducible assumption | with_reducible refine Keeps.ite ?_ ?_ | with_reducible refine State.ctxReset_keeps ?_
    | with_reducible refine State.putWord_keeps ?_ | with_reducible refine State.regRefused_keeps ?_
    | with_reducible refine State.apWrite_keeps ?_ | with_reducible refine State.apConfig_keeps ?_
    | with_reducible refine State.p2pWrite_keeps ?_ | with_reducible refine State.apinWrite_keeps ?_
    | with_reducible refine State.regPlain_keeps ?_ | with_reducible refine Keeps.foldl ?_ (fun _ _ _ => ?_)
    | with_reducible refine Keeps.foldl_snd ?_ (fun _ _ _ => ?_) | split | dsimp only

theorem State.regBrd_keeps {s : State} {a : Nat} {v : Nat} (hk : Keeps pend tmin s) :
    Keeps pend tmin (State.regBrd s a v) := by
  unfold State.regBrd
  repeat' first
    | with_reducible assumption | with_reducible refine Keeps.ite ?_ ?_ | with_reducible refine State.brdWrite_keeps ?_
    | with_reducible refine State.brdSync_keeps ?_ | with_reducible refine State.regPlain_keeps ?_ | split | dsimp only

theorem State.regLpe_keeps {s : State} {a : Nat} {v : Nat} (hk : Keeps pend tmin s) :
    Keeps pend tmin (State.regLpe s a v) := by
  unfold State.regLpe
  repeat' first
    | with_reducible assumption | with_reducible refine Keeps.ite ?_ ?_ | with_reducible refine State.lpeCtrl_keeps ?_
    | with_reducible refine State.faultClear_keeps ?_ | with_reducible refine State.alarmClear_keeps ?_
    | with_reducible refine State.putWord_keeps ?_ | with_reducible refine State.lpeUpdate_keeps ?_
    | with_reducible refine State.lpeReset_keeps ?_ | with_reducible refine State.regPlain_keeps ?_ | split | dsimp only

theorem State.kmbCommand_keeps {s : State} {cmd : Nat} {slot : Nat} {arg : Nat} {fails : Bool} (hk : Keeps pend tmin s) :
    Keeps pend tmin (State.kmbCommand s cmd slot arg fails) := by
  unfold State.kmbCommand
  repeat' first
    | with_reducible assumption | with_reducible refine Keeps.ite ?_ ?_ | with_reducible refine Keeps.ite_snd ?_ ?_
    | with_reducible refine State.kmb_keeps ?_ (fun _ _ => ?_)
    | with_reducible refine State.kmbBuf_keeps ?_ (fun _ _ _ => ?_) | with_reducible refine State.keyInstall_keeps ?_
    | with_reducible refine State.keyErase_keeps ?_ | with_reducible refine State.vaultPut_keeps ?_
    | with_reducible refine State.putLpKey_keeps ?_ | with_reducible refine State.secTrace_keeps ?_
    | with_reducible refine State.credInstall_keeps ?_ | with_reducible refine State.set_keeps ?_
    | with_reducible refine State.credEvalAll_keeps ?_ | with_reducible refine State.authSet_keeps ?_
    | with_reducible refine State.lcAdvance_keeps ?_ | with_reducible refine State.token_keeps ?_
    | with_reducible refine State.svnAdvance_keeps ?_ | with_reducible refine State.regRefused_keeps ?_
    | simp only [Keeps.update] | with_reducible refine KeepsU.all ?_
    | (with_reducible refine Keeps.of_snd (by with_reducible assumption) ?_) | split | dsimp only

theorem State.regSec_keeps {s : State} {a : Nat} {v : Nat} (hk : Keeps pend tmin s) :
    Keeps pend tmin (State.regSec s a v) := by
  unfold State.regSec
  repeat' first
    | with_reducible assumption | with_reducible refine Keeps.ite ?_ ?_ | with_reducible refine State.levelWrite_keeps ?_
    | with_reducible refine State.kmbCommand_keeps ?_ | with_reducible refine State.regPlain_keeps ?_ | split | dsimp only

theorem State.regPwr_keeps {s : State} {a : Nat} {v : Nat} (hk : Keeps pend tmin s) :
    Keeps pend tmin (State.regPwr s a v) := by
  unfold State.regPwr
  repeat' first
    | with_reducible assumption | with_reducible refine Keeps.ite ?_ ?_ | with_reducible refine State.regRefused_keeps ?_
    | with_reducible refine State.regPlain_keeps ?_ | with_reducible refine State.limitUpdate_keeps ?_ | split | dsimp only

theorem State.regTrc_keeps {s : State} {a : Nat} {v : Nat} (hk : Keeps pend tmin s) :
    Keeps pend tmin (State.regTrc s a v) := by
  unfold State.regTrc
  repeat' first
    | with_reducible assumption | with_reducible refine Keeps.ite ?_ ?_ | with_reducible refine State.regRefused_keeps ?_
    | with_reducible refine State.regPlain_keeps ?_ | with_reducible refine State.trcUser_keeps ?_ | split | dsimp only

theorem State.regQueue_keeps {s : State} {t : Nat} {q : Nat} {j : Nat} {a : Nat} {v : Nat} (hk : Keeps pend tmin s) :
    Keeps pend tmin (State.regQueue s t q j a v) := by
  unfold State.regQueue
  repeat' first
    | with_reducible assumption | with_reducible refine Keeps.ite ?_ ?_ | with_reducible refine State.pageRefused_keeps ?_
    | with_reducible refine State.regPlain_keeps ?_ | with_reducible refine State.queueWin_keeps ?_
    | with_reducible refine State.queueEnable_keeps ?_ | with_reducible refine State.queueDisable_keeps ?_
    | with_reducible refine State.queueResume_keeps ?_ | split | dsimp only

theorem State.regCq_keeps {s : State} {t : Nat} {o : Nat} {a : Nat} {v : Nat} (hk : Keeps pend tmin s) :
    Keeps pend tmin (State.regCq s t o a v) := by
  unfold State.regCq
  repeat' first
    | with_reducible assumption | with_reducible refine Keeps.ite ?_ ?_ | with_reducible refine State.pageRefused_keeps ?_
    | with_reducible refine State.regPlain_keeps ?_ | with_reducible refine State.cqWin_keeps ?_
    | with_reducible refine State.cqEnable_keeps ?_ | with_reducible refine State.cqDisable_keeps ?_
    | with_reducible refine State.cqResume_keeps ?_ | split | dsimp only

theorem State.irqWrite_keeps {s : State} {t : Nat} {a : Nat} {v : Nat} (hk : Keeps pend tmin s) :
    Keeps pend tmin (State.irqWrite s t a v) := by
  unfold State.irqWrite
  repeat' first
    | with_reducible assumption | with_reducible refine Keeps.ite ?_ ?_ | with_reducible refine State.pageRefused_keeps ?_
    | with_reducible refine State.regPlain_keeps ?_ | with_reducible refine State.setTenant_keeps ?_
    | with_reducible refine State.msix_keeps ?_ | simp only [Keeps.update] | with_reducible refine KeepsU.all ?_ | split
    | dsimp only

theorem State.regPage_keeps {s : State} {t : Nat} {o : Nat} {a : Nat} {v : Nat} (hk : Keeps pend tmin s) :
    Keeps pend tmin (State.regPage s t o a v) := by
  unfold State.regPage
  repeat' first
    | with_reducible assumption | with_reducible refine Keeps.ite ?_ ?_ | with_reducible refine State.regQueue_keeps ?_
    | with_reducible refine State.doorbell_keeps ?_ | with_reducible refine State.cqBell_keeps ?_
    | with_reducible refine State.regCq_keeps ?_ | with_reducible refine State.irqWrite_keeps ?_
    | with_reducible refine State.apCounterWrite_keeps ?_ | with_reducible refine State.barEnable_keeps ?_
    | with_reducible refine State.barDisable_keeps ?_ | with_reducible refine State.barConfig_keeps ?_
    | with_reducible refine State.evfSet_keeps ?_ | with_reducible refine State.evfClr_keeps ?_
    | with_reducible refine State.hwinWrite_keeps ?_ | with_reducible refine State.regPlain_keeps ?_ | split | dsimp only

theorem State.regEffect_keeps {s : State} {a : Nat} {v : Nat} (hk : Keeps pend tmin s) :
    Keeps pend tmin (State.regEffect s a v) := by
  unfold State.regEffect
  repeat' first
    | with_reducible assumption | with_reducible refine Keeps.ite ?_ ?_ | with_reducible refine Keeps.ite_snd ?_ ?_
    | with_reducible refine State.regPage_keeps ?_ | with_reducible refine State.regGlb_keeps ?_
    | with_reducible refine State.regFw_keeps ?_ | with_reducible refine State.regMem_keeps ?_
    | with_reducible refine State.regPri_keeps ?_ | with_reducible refine State.regEng_keeps ?_
    | with_reducible refine State.regSyn_keeps ?_ | with_reducible refine State.regSch_keeps ?_
    | with_reducible refine State.regCad_keeps ?_ | with_reducible refine State.regRei_keeps ?_
    | with_reducible refine State.regEth_keeps ?_ | with_reducible refine State.regTen_keeps ?_
    | with_reducible refine State.regBrd_keeps ?_ | with_reducible refine State.regLpe_keeps ?_
    | with_reducible refine State.regSec_keeps ?_ | with_reducible refine State.regPwr_keeps ?_
    | with_reducible refine State.regTrc_keeps ?_ | with_reducible refine State.regPlain_keeps ?_
    | (with_reducible refine Keeps.of_snd (by with_reducible assumption) ?_) | split | dsimp only

theorem State.regWrite_keeps {s : State} {fn : Nat} {a : Nat} {v : Nat} (hk : Keeps pend tmin s) :
    Keeps pend tmin (State.regWrite s fn a v) := by
  unfold State.regWrite
  repeat' first
    | with_reducible assumption | with_reducible refine Keeps.ite ?_ ?_ | with_reducible refine State.stick_keeps ?_
    | with_reducible refine State.regEffect_keeps ?_ | split | dsimp only

theorem State.csrSettle_keeps {s : State} (hk : Keeps pend tmin s) :
    Keeps pend tmin (State.csrSettle s) := by
  unfold State.csrSettle
  repeat' first
    | with_reducible assumption | with_reducible refine State.regWrite_keeps ?_
    | with_reducible refine Keeps.foldl ?_ (fun _ _ _ => ?_) | with_reducible refine Keeps.foldl_snd ?_ (fun _ _ _ => ?_)
    | simp only [Keeps.update] | with_reducible refine KeepsU.all ?_
    | (with_reducible refine Keeps.of_snd (by with_reducible assumption) ?_) | split | dsimp only

theorem State.hostIn_keeps {s : State} {fn : Nat} {secure : Bool} {k : State → State} (h : Keeps pend tmin s)
    (hk : Keeps pend tmin (k s)) : Keeps pend tmin (State.hostIn s fn secure k) :=
  Keeps.ite h (Keeps.ite (State.stick_keeps h) hk)

theorem State.hostWrite_keeps {s : State} {fn : Nat} {off : Nat} {v : Nat} (hk : Keeps pend tmin s) :
    Keeps pend tmin (State.hostWrite s fn off v) := by
  unfold State.hostWrite
  repeat' first
    | with_reducible assumption | with_reducible refine Keeps.ite ?_ ?_ | with_reducible refine Keeps.ite_snd ?_ ?_
    | with_reducible refine State.regWrite_keeps ?_ | with_reducible refine State.stick_keeps ?_
    | (with_reducible refine Keeps.of_snd (by with_reducible assumption) ?_) | split | dsimp only

theorem State.pairEffect_keeps {s : State} {a : Nat} {lo : Nat} {hi : Nat} (hk : Keeps pend tmin s) :
    Keeps pend tmin (State.pairEffect s a lo hi) := by
  unfold State.pairEffect
  repeat' first
    | with_reducible assumption | with_reducible refine Keeps.ite ?_ ?_ | with_reducible refine State.cadDomainWide_keeps ?_
    | with_reducible refine State.evfSet64_keeps ?_ | with_reducible refine State.evfClr64_keeps ?_ | split | dsimp only

theorem State.hostWriteWide_keeps {s : State} {fn : Nat} {off : Nat} {lo : Nat} {hi : Nat} (hk : Keeps pend tmin s) :
    Keeps pend tmin (State.hostWriteWide s fn off lo hi) := by
  unfold State.hostWriteWide
  repeat' first
    | with_reducible assumption | with_reducible refine Keeps.ite ?_ ?_ | with_reducible refine Keeps.ite_snd ?_ ?_
    | with_reducible refine State.pairEffect_keeps ?_ | with_reducible refine State.hostWrite_keeps ?_
    | (with_reducible refine Keeps.of_snd (by with_reducible assumption) ?_) | split | dsimp only

theorem execRegisterWrite_keeps {fn : Tenant} {off : BitVec 25} {v : Word} {hi : Option Word} {poisoned : Bool} {secure : Bool} {s : State} (hk : Keeps pend tmin s) :
    KeepsR pend tmin (execRegisterWrite fn off v hi poisoned secure s) := by
  unfold execRegisterWrite
  repeat' first
    | with_reducible assumption | with_reducible refine KeepsR.next ?_ | with_reducible refine Keeps.ite ?_ ?_
    | with_reducible refine KeepsR.ite ?_ ?_ | with_reducible refine Keeps.ite_snd ?_ ?_
    | with_reducible refine State.hostIn_keeps ?_ ?_ | with_reducible refine State.stick_keeps ?_
    | with_reducible refine State.out_keeps ?_ | with_reducible refine State.hostWrite_keeps ?_
    | with_reducible refine State.hostWriteWide_keeps ?_
    | (with_reducible refine Keeps.of_snd (by with_reducible assumption) ?_) | split | dsimp only

theorem State.hostRead_keeps {s : State} {fn : Nat} {off : Nat} (hk : Keeps pend tmin s) :
    Keeps pend tmin (State.hostRead s fn off) := by
  unfold State.hostRead
  repeat' first
    | with_reducible assumption | with_reducible refine Keeps.ite ?_ ?_ | with_reducible refine Keeps.ite_snd ?_ ?_
    | with_reducible refine State.out_keeps ?_ | with_reducible refine State.csrRead_keeps ?_
    | with_reducible refine State.stick_keeps ?_ | (with_reducible refine Keeps.of_snd (by with_reducible assumption) ?_)
    | split | dsimp only

theorem State.wordRead_keeps {s : State} {fn : Nat} {off : Nat} (hk : Keeps pend tmin s) :
    Keeps pend tmin (State.wordRead s fn off).2 := by
  unfold State.wordRead
  repeat' first
    | with_reducible assumption | with_reducible refine Keeps.ite ?_ ?_ | with_reducible refine Keeps.ite_snd ?_ ?_
    | with_reducible refine State.csrRead_keeps ?_ | with_reducible refine State.stick_keeps ?_
    | (with_reducible refine Keeps.of_snd (by with_reducible assumption) ?_) | split | dsimp only

theorem State.hostReadWide_keeps {s : State} {fn : Nat} {off : Nat} (hk : Keeps pend tmin s) :
    Keeps pend tmin (State.hostReadWide s fn off) := by
  unfold State.hostReadWide
  repeat' first
    | with_reducible assumption | with_reducible refine Keeps.ite ?_ ?_ | with_reducible refine Keeps.ite_snd ?_ ?_
    | with_reducible refine State.out_keeps ?_ | with_reducible refine State.wordRead_keeps ?_
    | (with_reducible refine Keeps.of_snd (by with_reducible assumption) ?_) | split | dsimp only

theorem execInvalidRegisterAccess_keeps {fn : Tenant} {off : BitVec 25} {size : Fin 65} {v : DWord} {read : Bool} {secure : Bool} {s : State} (hk : Keeps pend tmin s) :
    KeepsR pend tmin (execInvalidRegisterAccess fn off size v read secure s) := by
  unfold execInvalidRegisterAccess
  repeat' first
    | with_reducible assumption | with_reducible refine KeepsR.next ?_ | with_reducible refine Keeps.ite ?_ ?_
    | with_reducible refine KeepsR.ite ?_ ?_ | with_reducible refine State.hostIn_keeps ?_ ?_
    | with_reducible refine State.hostRead_keeps ?_ | with_reducible refine State.hostWrite_keeps ?_
    | with_reducible refine State.hostReadWide_keeps ?_ | with_reducible refine State.hostWriteWide_keeps ?_
    | with_reducible refine State.stick_keeps ?_ | with_reducible refine State.out_keeps ?_ | split | dsimp only

theorem execRcRead_keeps {fn : Tenant} {off : BitVec 25} {wide : Bool} {secure : Bool} {s : State} (hk : Keeps pend tmin s) :
    KeepsR pend tmin (execRcRead fn off wide secure s) := by
  unfold execRcRead
  repeat' first
    | with_reducible assumption | with_reducible refine KeepsR.next ?_ | with_reducible refine Keeps.ite ?_ ?_
    | with_reducible refine KeepsR.ite ?_ ?_ | with_reducible refine State.hostIn_keeps ?_ ?_
    | with_reducible refine State.hostReadWide_keeps ?_ | with_reducible refine State.hostRead_keeps ?_ | split | dsimp only

theorem State.flagsClear_keeps {s : State} {a : Nat} {v : Nat} {same : Nat} (hk : Keeps pend tmin s) :
    Keeps pend tmin (State.flagsClear s a v same) := by
  unfold State.flagsClear
  repeat' first
    | with_reducible assumption | with_reducible refine Keeps.ite ?_ ?_ | with_reducible refine Keeps.ite_snd ?_ ?_
    | with_reducible refine State.apCounterWrite_keeps ?_ | with_reducible refine State.setCntSt_keeps ?_
    | with_reducible refine State.regWrite_keeps ?_ | with_reducible refine State.set_keeps ?_
    | with_reducible refine Keeps.foldl ?_ (fun _ _ _ => ?_) | with_reducible refine Keeps.foldl_snd ?_ (fun _ _ _ => ?_)
    | (with_reducible refine Keeps.of_snd (by with_reducible assumption) ?_) | split | dsimp only

theorem execStickyFlagClear_keeps {fn : Tenant} {off : BitVec 25} {v : Word} {same : Nat} {secure : Bool} {s : State} (hk : Keeps pend tmin s) :
    KeepsR pend tmin (execStickyFlagClear fn off v same secure s) := by
  unfold execStickyFlagClear
  repeat' first
    | with_reducible assumption | with_reducible refine KeepsR.next ?_ | with_reducible refine Keeps.ite ?_ ?_
    | with_reducible refine KeepsR.ite ?_ ?_ | with_reducible refine Keeps.ite_snd ?_ ?_
    | with_reducible refine State.hostIn_keeps ?_ ?_ | with_reducible refine State.stick_keeps ?_
    | with_reducible refine State.flagsClear_keeps ?_
    | (with_reducible refine Keeps.of_snd (by with_reducible assumption) ?_) | split | dsimp only

theorem execWrite_keeps {p : Port} {m : Msg} {s : State} (hk : Keeps pend tmin s) :
    KeepsR pend tmin (execWrite p m s) := by
  unfold execWrite
  repeat' first
    | with_reducible assumption | with_reducible refine KeepsR.next ?_ | with_reducible refine State.vc1In_keeps ?_
    | with_reducible refine State.csrSettle_keeps ?_ | split | dsimp only

theorem execAwlOperation_keeps {fails : Bool} {s : State} (hk : Keeps pend tmin s) :
    KeepsR pend tmin (execAwlOperation fails s) := by
  unfold execAwlOperation
  repeat' first
    | with_reducible assumption | with_reducible refine KeepsR.next ?_ | with_reducible refine State.awlOperation_keeps ?_
    | with_reducible refine State.csrSettle_keeps ?_ | split | dsimp only

theorem execEngineChunkDecision_keeps {e : Engine} {fails : Bool} {cut : Fin 17} {s : State} (hk : Keeps pend tmin s) :
    KeepsR pend tmin (execEngineChunkDecision e fails cut s) := by
  unfold execEngineChunkDecision
  repeat' first
    | with_reducible assumption | with_reducible refine KeepsR.next ?_ | with_reducible refine State.chunkDecision_keeps ?_
    | with_reducible refine State.csrSettle_keeps ?_ | split | dsimp only

theorem execFlitReceive_keeps {p : Port} {b : List Byte} {s : State} (hk : Keeps pend tmin s) :
    KeepsR pend tmin (execFlitReceive p b s) := by
  unfold execFlitReceive
  repeat' first
    | with_reducible assumption | with_reducible refine KeepsR.next ?_ | with_reducible refine State.flitIn_keeps ?_
    | with_reducible refine State.csrSettle_keeps ?_ | split | dsimp only

theorem State.dbgRead_keeps {s : State} {da : Nat} {n : Nat} (hk : Keeps pend tmin s) :
    Keeps pend tmin (State.dbgRead s da n).2 := by
  unfold State.dbgRead
  repeat' first
    | with_reducible assumption | with_reducible refine Keeps.ite ?_ ?_ | with_reducible refine Keeps.ite_snd ?_ ?_
    | with_reducible refine State.memRead_keeps ?_ | with_reducible refine State.csrRead_keeps ?_
    | with_reducible refine Keeps.foldl ?_ (fun _ _ _ => ?_) | with_reducible refine Keeps.foldl_snd ?_ (fun _ _ _ => ?_)
    | (with_reducible refine Keeps.of_snd (by with_reducible assumption) ?_) | split | dsimp only

theorem State.dbgWrite_keeps {s : State} {da : Nat} {b : List (BitVec 8)} (hk : Keeps pend tmin s) :
    Keeps pend tmin (State.dbgWrite s da b) := by
  unfold State.dbgWrite
  repeat' first
    | with_reducible assumption | with_reducible refine Keeps.ite ?_ ?_ | with_reducible refine Keeps.ite_snd ?_ ?_
    | with_reducible refine State.memWrite_keeps ?_ | with_reducible refine State.regWrite_keeps ?_
    | with_reducible refine State.extWrite_keeps ?_ | with_reducible refine Keeps.foldl ?_ (fun _ _ _ => ?_)
    | with_reducible refine Keeps.foldl_snd ?_ (fun _ _ _ => ?_)
    | (with_reducible refine Keeps.of_snd (by with_reducible assumption) ?_) | split | dsimp only

theorem State.dbgAp_keeps {s : State} {op : DbgOp} (hk : Keeps pend tmin s) :
    Keeps pend tmin (State.dbgAp s op) := by
  unfold State.dbgAp
  repeat' first
    | with_reducible assumption | with_reducible refine Keeps.ite ?_ ?_ | with_reducible refine Keeps.ite_snd ?_ ?_
    | with_reducible refine State.tapTo_keeps ?_ | with_reducible refine State.draw_keeps ?_
    | with_reducible refine State.out_keeps ?_ | with_reducible refine State.dbgRead_keeps ?_
    | with_reducible refine State.dbgWrite_keeps ?_ | simp only [Keeps.update] | with_reducible refine KeepsU.all ?_
    | (with_reducible refine Keeps.of_snd (by with_reducible assumption) ?_) | split | dsimp only

theorem execDbgAp_keeps {op : DbgOp} {s : State} (hk : Keeps pend tmin s) :
    KeepsR pend tmin (execDbgAp op s) := by
  unfold execDbgAp
  repeat' first
    | with_reducible assumption | with_reducible refine KeepsR.next ?_ | with_reducible refine Keeps.ite ?_ ?_
    | with_reducible refine KeepsR.ite ?_ ?_ | with_reducible refine State.dbgAp_keeps ?_
    | with_reducible refine State.tapTo_keeps ?_ | split | dsimp only

end Sys2Proof.Machine
end

