-- ==== Sys2Proof/Laws/Registers.lean ====
section
/-! SUPPORT. Laws of bit fields and of the register file: what a register reads as after a write of a word, of a field, of a
sticky flag. -/
namespace Sys2Proof.Machine

/-! ### Bit fields -/

theorem bitsOf_lt (w lo n : Nat) : bitsOf w lo n < 2 ^ n := Nat.mod_lt _ (Nat.two_pow_pos n)

/-- A field just put reads back, cut to its width. -/
theorem bitsOf_putBits_same (w lo n v : Nat) : bitsOf (putBits w lo n v) lo n = v % 2 ^ n := by
  unfold bitsOf putBits
  have h1 : 2 ^ (lo + n) = 2 ^ n * 2 ^ lo := by rw [Nat.pow_add, Nat.mul_comm]
  have h2 : w % 2 ^ lo < 2 ^ lo := Nat.mod_lt _ (Nat.two_pow_pos lo)
  rw [h1]
  generalize w / (2 ^ n * 2 ^ lo) = a
  have h3 : a * (2 ^ n * 2 ^ lo) + v % 2 ^ n * 2 ^ lo + w % 2 ^ lo = w % 2 ^ lo + 2 ^ lo * (a * 2 ^ n + v % 2 ^ n) := by
    rw [Nat.mul_add, Nat.mul_comm (2 ^ lo) (a * 2 ^ n), Nat.mul_assoc, Nat.mul_comm (2 ^ lo) (v % 2 ^ n)]; omega
  rw [h3, Nat.add_mul_div_left _ _ (Nat.two_pow_pos lo), Nat.div_eq_of_lt h2, Nat.zero_add, Nat.mul_comm a, Nat.mul_add_mod,
    Nat.mod_mod]

/-- Bit `i` of a number with a field put, outside the field. -/
theorem testBit_putBits (w lo n v i : Nat) :
    (putBits w lo n v).testBit i = if i < lo then w.testBit i else if i < lo + n then v.testBit (i - lo) else w.testBit i := by
  unfold putBits
  have h2 : w % 2 ^ lo < 2 ^ lo := Nat.mod_lt _ (Nat.two_pow_pos lo)
  have h1 : w / 2 ^ (lo + n) * 2 ^ (lo + n) + v % 2 ^ n * 2 ^ lo + w % 2 ^ lo
      = 2 ^ lo * (2 ^ n * (w / 2 ^ (lo + n)) + v % 2 ^ n) + w % 2 ^ lo := by
    rw [Nat.mul_add, ← Nat.mul_assoc, ← Nat.pow_add, Nat.mul_comm (2 ^ (lo + n)), Nat.mul_comm (2 ^ lo) (v % 2 ^ n)]
  rw [h1, Nat.testBit_two_pow_mul_add _ h2]
  split
  · next h => rw [Nat.testBit_mod_two_pow]; simp [h]
  · next h =>
    rw [Nat.testBit_two_pow_mul_add _ (Nat.mod_lt _ (Nat.two_pow_pos n))]
    split
    · next h3 => rw [if_pos (by omega), Nat.testBit_mod_two_pow]; simp [h3]
    · next h3 => rw [if_neg (by omega), Nat.testBit_div_two_pow]; congr 1; omega

theorem testBit_bitsOf (w lo n i : Nat) : (bitsOf w lo n).testBit i = (decide (i < n) && w.testBit (i + lo)) := by
  unfold bitsOf
  rw [Nat.testBit_mod_two_pow, Nat.testBit_div_two_pow]

/-- A field reads as before where another, disjoint field was put. -/
theorem bitsOf_putBits_other (w lo n v lo' n' : Nat) (h : lo' + n' ≤ lo ∨ lo + n ≤ lo') :
    bitsOf (putBits w lo n v) lo' n' = bitsOf w lo' n' := by
  apply Nat.eq_of_testBit_eq
  intro i
  rw [testBit_bitsOf, testBit_bitsOf, testBit_putBits]
  by_cases hi : i < n'
  · rcases h with h | h
    · rw [if_pos (by omega)]
    · rw [if_neg (by omega), if_neg (by omega)]
  · simp [hi]

/-- A word with a field put stays a 32-bit word. -/
theorem putBits_lt (w lo n v : Nat) (hw : w < 2 ^ 32) (h : lo + n ≤ 32) : putBits w lo n v < 2 ^ 32 := by
  apply Nat.lt_pow_two_of_testBit
  intro i hi
  rw [testBit_putBits, if_neg (by omega), if_neg (by omega)]
  exact Nat.testBit_lt_two_pow (Nat.lt_of_lt_of_le hw (Nat.pow_le_pow_right (by omega) hi))

/-! ### The register file -/

theorem State.rd_lt (s : State) (a : Nat) : s.rd a < 2 ^ 32 := (spGet resetWord s.regs a).isLt

/-- A register reads as written, cut to 32 bits. -/
@[simp] theorem State.rd_wr_same (s : State) (a v : Nat) : (s.wr a v).rd a = v % 2 ^ 32 := by
  simp [State.rd, State.wr]

/-- A write leaves every other register alone. -/
theorem State.rd_wr_other (s : State) (a b v : Nat) (h : b ≠ a) : (s.wr a v).rd b = s.rd b := by
  simp only [State.rd, State.wr]
  rw [spGet_spSet_other _ _ _ _ _ h]

theorem State.rd_wr (s : State) (a b v : Nat) : (s.wr a v).rd b = if b = a then v % 2 ^ 32 else s.rd b := by
  split
  · next h => rw [h, State.rd_wr_same]
  · next h => exact State.rd_wr_other s a b v h

/-- A field write leaves every other register alone. -/
theorem State.rd_set_other (s : State) (f : Fld) (v b : Nat) (h : b ≠ f.addr) : (s.set f v).rd b = s.rd b :=
  State.rd_wr_other s f.addr b _ h

/-- A field that lies in its word. -/
def Fld.inWord (f : Fld) : Prop := f.lo + f.n ≤ 32

theorem State.rd_set_same (s : State) (f : Fld) (v : Nat) (h : f.inWord) :
    (s.set f v).rd f.addr = putBits (s.rd f.addr) f.lo f.n v := by
  unfold State.set
  rw [State.rd_wr_same, Nat.mod_eq_of_lt (putBits_lt _ _ _ _ (s.rd_lt _) h)]

/-- A field reads as written, cut to its width. -/
theorem State.get_set_same (s : State) (f : Fld) (v : Nat) (h : f.inWord) : (s.set f v).get f = v % 2 ^ f.n := by
  unfold State.get
  rw [State.rd_set_same s f v h, bitsOf_putBits_same]

/-- A field of another register, or a disjoint field of the same one, is not changed by a field write. -/
theorem State.get_set_other (s : State) (f g : Fld) (v : Nat) (h : f.inWord)
    (d : g.addr ≠ f.addr ∨ g.lo + g.n ≤ f.lo ∨ f.lo + f.n ≤ g.lo) : (s.set f v).get g = s.get g := by
  unfold State.get
  by_cases e : g.addr = f.addr
  · rw [e, State.rd_set_same s f v h]
    exact bitsOf_putBits_other _ _ _ _ _ _ (d.resolve_left (fun hn => hn e))
  · rw [State.rd_set_other s f v _ e]

/-- A word write leaves the fields of other registers alone. -/
theorem State.get_wr_other (s : State) (a v : Nat) (g : Fld) (h : g.addr ≠ a) : (s.wr a v).get g = s.get g := by
  unfold State.get
  rw [State.rd_wr_other s a _ v h]

theorem State.get_lt (s : State) (f : Fld) : s.get f < 2 ^ f.n := bitsOf_lt _ _ _

/-- A sticky flag that an event sets is 1 (R20). -/
theorem State.get_stick_same (s : State) (f : Fld) (h : f.lo + 16 ≤ 32) (h1 : f.n = 1) : (s.stick f).get f = 1 := by
  unfold State.stick
  rw [State.get_set_other _ _ _ _ (by simp only [Fld.inWord, Fld.cnt]; omega) (by simp only [Fld.cnt]; omega),
    State.get_set_same _ _ _ (by simp only [Fld.inWord]; omega)]
  simp [h1]

/-- Its count is one more, saturating at 255 (R20). -/
theorem State.get_stick_cnt (s : State) (f : Fld) (h : f.lo + 16 ≤ 32) :
    (s.stick f).get f.cnt = satAdd 255 (s.get f.cnt) 1 := by
  unfold State.stick
  rw [State.get_set_same _ _ _ (by simp only [Fld.inWord, Fld.cnt]; omega)]
  apply Nat.mod_eq_of_lt
  have hle : ∀ a, satAdd 255 a 1 ≤ 255 := fun a => by unfold satAdd; split <;> omega
  exact Nat.lt_of_le_of_lt (hle _) (by simp [Fld.cnt])

/-- A sticky event leaves every other register alone. -/
theorem State.rd_stick_other (s : State) (f : Fld) (b : Nat) (h : b ≠ f.addr) : (s.stick f).rd b = s.rd b := by
  unfold State.stick
  rw [State.rd_set_other _ _ _ _ (by simpa [Fld.cnt] using h), State.rd_set_other _ _ _ _ h]

/-- A cleared flag reads 0 (R21). -/
theorem State.get_unstick_same (s : State) (f : Fld) (h : f.lo + 16 ≤ 32) (h1 : f.n = 1) : (s.unstick f).get f = 0 := by
  unfold State.unstick
  rw [State.get_set_other _ _ _ _ (by simp only [Fld.inWord, Fld.cnt]; omega) (by simp only [Fld.cnt]; omega),
    State.get_set_same _ _ _ (by simp only [Fld.inWord]; omega), Nat.zero_mod]

/-- So does its count (R21). -/
theorem State.get_unstick_cnt (s : State) (f : Fld) (h : f.lo + 16 ≤ 32) : (s.unstick f).get f.cnt = 0 := by
  unfold State.unstick
  rw [State.get_set_same _ _ _ (by simp only [Fld.inWord, Fld.cnt]; omega), Nat.zero_mod]

/-- Clearing a flag leaves every other register alone. -/
theorem State.rd_unstick_other (s : State) (f : Fld) (b : Nat) (h : b ≠ f.addr) : (s.unstick f).rd b = s.rd b := by
  unfold State.unstick
  rw [State.rd_set_other _ _ _ _ (by simpa [Fld.cnt] using h), State.rd_set_other _ _ _ _ h]

end Sys2Proof.Machine
end

