-- ==== Sys2Proof/Laws/State.lean ====
section
/-! SUPPORT. What the named updates of the state leave alone: one lemma per field per update. -/
namespace Sys2Proof.Machine

/-! `State.wr` changes `regs` only. -/

@[simp] theorem State.wr_cad (s : State) (a v : Nat) : (s.wr a v).cad = s.cad := rfl
@[simp] theorem State.wr_mem (s : State) (a v : Nat) : (s.wr a v).mem = s.mem := rfl
@[simp] theorem State.wr_wins (s : State) (a v : Nat) : (s.wr a v).wins = s.wins := rfl
@[simp] theorem State.wr_descs (s : State) (a v : Nat) : (s.wr a v).descs = s.descs := rfl
@[simp] theorem State.wr_plans (s : State) (a v : Nat) : (s.wr a v).plans = s.plans := rfl
@[simp] theorem State.wr_planJobs (s : State) (a v : Nat) : (s.wr a v).planJobs = s.planJobs := rfl
@[simp] theorem State.wr_latches (s : State) (a v : Nat) : (s.wr a v).latches = s.latches := rfl
@[simp] theorem State.wr_cmds (s : State) (a v : Nat) : (s.wr a v).cmds = s.cmds := rfl
@[simp] theorem State.wr_cf (s : State) (a v : Nat) : (s.wr a v).cf = s.cf := rfl
@[simp] theorem State.wr_nextId (s : State) (a v : Nat) : (s.wr a v).nextId = s.nextId := rfl
@[simp] theorem State.wr_nextOrder (s : State) (a v : Nat) : (s.wr a v).nextOrder = s.nextOrder := rfl
@[simp] theorem State.wr_queues (s : State) (a v : Nat) : (s.wr a v).queues = s.queues := rfl
@[simp] theorem State.wr_tenants (s : State) (a v : Nat) : (s.wr a v).tenants = s.tenants := rfl
@[simp] theorem State.wr_lockSeqs (s : State) (a v : Nat) : (s.wr a v).lockSeqs = s.lockSeqs := rfl
@[simp] theorem State.wr_engines (s : State) (a v : Nat) : (s.wr a v).engines = s.engines := rfl
@[simp] theorem State.wr_streams (s : State) (a v : Nat) : (s.wr a v).streams = s.streams := rfl
@[simp] theorem State.wr_lanes (s : State) (a v : Nat) : (s.wr a v).lanes = s.lanes := rfl
@[simp] theorem State.wr_sync (s : State) (a v : Nat) : (s.wr a v).sync = s.sync := rfl
@[simp] theorem State.wr_graphs (s : State) (a v : Nat) : (s.wr a v).graphs = s.graphs := rfl
@[simp] theorem State.wr_lastGraphTenant (s : State) (a v : Nat) : (s.wr a v).lastGraphTenant = s.lastGraphTenant := rfl
@[simp] theorem State.wr_rein (s : State) (a v : Nat) : (s.wr a v).rein = s.rein := rfl
@[simp] theorem State.wr_pcie (s : State) (a v : Nat) : (s.wr a v).pcie = s.pcie := rfl
@[simp] theorem State.wr_errs (s : State) (a v : Nat) : (s.wr a v).errs = s.errs := rfl
@[simp] theorem State.wr_lpe (s : State) (a v : Nat) : (s.wr a v).lpe = s.lpe := rfl
@[simp] theorem State.wr_eth (s : State) (a v : Nat) : (s.wr a v).eth = s.eth := rfl
@[simp] theorem State.wr_boot (s : State) (a v : Nat) : (s.wr a v).boot = s.boot := rfl
@[simp] theorem State.wr_sec (s : State) (a v : Nat) : (s.wr a v).sec = s.sec := rfl
@[simp] theorem State.wr_pwr (s : State) (a v : Nat) : (s.wr a v).pwr = s.pwr := rfl
@[simp] theorem State.wr_ext (s : State) (a v : Nat) : (s.wr a v).ext = s.ext := rfl
@[simp] theorem State.wr_outbox (s : State) (a v : Nat) : (s.wr a v).outbox = s.outbox := rfl
@[simp] theorem State.wr_csrLater (s : State) (a v : Nat) : (s.wr a v).csrLater = s.csrLater := rfl
@[simp] theorem State.wr_fresh (s : State) (a v : Nat) : (s.wr a v).fresh = s.fresh := rfl
@[simp] theorem State.wr_pending (s : State) (a v : Nat) : (s.wr a v).pending = s.pending := rfl

/-! `State.set` changes `regs` only. -/

@[simp] theorem State.set_cad (s : State) (f : Fld) (v : Nat) : (s.set f v).cad = s.cad := rfl
@[simp] theorem State.set_mem (s : State) (f : Fld) (v : Nat) : (s.set f v).mem = s.mem := rfl
@[simp] theorem State.set_wins (s : State) (f : Fld) (v : Nat) : (s.set f v).wins = s.wins := rfl
@[simp] theorem State.set_descs (s : State) (f : Fld) (v : Nat) : (s.set f v).descs = s.descs := rfl
@[simp] theorem State.set_plans (s : State) (f : Fld) (v : Nat) : (s.set f v).plans = s.plans := rfl
@[simp] theorem State.set_planJobs (s : State) (f : Fld) (v : Nat) : (s.set f v).planJobs = s.planJobs := rfl
@[simp] theorem State.set_latches (s : State) (f : Fld) (v : Nat) : (s.set f v).latches = s.latches := rfl
@[simp] theorem State.set_cmds (s : State) (f : Fld) (v : Nat) : (s.set f v).cmds = s.cmds := rfl
@[simp] theorem State.set_cf (s : State) (f : Fld) (v : Nat) : (s.set f v).cf = s.cf := rfl
@[simp] theorem State.set_nextId (s : State) (f : Fld) (v : Nat) : (s.set f v).nextId = s.nextId := rfl
@[simp] theorem State.set_nextOrder (s : State) (f : Fld) (v : Nat) : (s.set f v).nextOrder = s.nextOrder := rfl
@[simp] theorem State.set_queues (s : State) (f : Fld) (v : Nat) : (s.set f v).queues = s.queues := rfl
@[simp] theorem State.set_tenants (s : State) (f : Fld) (v : Nat) : (s.set f v).tenants = s.tenants := rfl
@[simp] theorem State.set_lockSeqs (s : State) (f : Fld) (v : Nat) : (s.set f v).lockSeqs = s.lockSeqs := rfl
@[simp] theorem State.set_engines (s : State) (f : Fld) (v : Nat) : (s.set f v).engines = s.engines := rfl
@[simp] theorem State.set_streams (s : State) (f : Fld) (v : Nat) : (s.set f v).streams = s.streams := rfl
@[simp] theorem State.set_lanes (s : State) (f : Fld) (v : Nat) : (s.set f v).lanes = s.lanes := rfl
@[simp] theorem State.set_sync (s : State) (f : Fld) (v : Nat) : (s.set f v).sync = s.sync := rfl
@[simp] theorem State.set_graphs (s : State) (f : Fld) (v : Nat) : (s.set f v).graphs = s.graphs := rfl
@[simp] theorem State.set_lastGraphTenant (s : State) (f : Fld) (v : Nat) : (s.set f v).lastGraphTenant = s.lastGraphTenant := rfl
@[simp] theorem State.set_rein (s : State) (f : Fld) (v : Nat) : (s.set f v).rein = s.rein := rfl
@[simp] theorem State.set_pcie (s : State) (f : Fld) (v : Nat) : (s.set f v).pcie = s.pcie := rfl
@[simp] theorem State.set_errs (s : State) (f : Fld) (v : Nat) : (s.set f v).errs = s.errs := rfl
@[simp] theorem State.set_lpe (s : State) (f : Fld) (v : Nat) : (s.set f v).lpe = s.lpe := rfl
@[simp] theorem State.set_eth (s : State) (f : Fld) (v : Nat) : (s.set f v).eth = s.eth := rfl
@[simp] theorem State.set_boot (s : State) (f : Fld) (v : Nat) : (s.set f v).boot = s.boot := rfl
@[simp] theorem State.set_sec (s : State) (f : Fld) (v : Nat) : (s.set f v).sec = s.sec := rfl
@[simp] theorem State.set_pwr (s : State) (f : Fld) (v : Nat) : (s.set f v).pwr = s.pwr := rfl
@[simp] theorem State.set_ext (s : State) (f : Fld) (v : Nat) : (s.set f v).ext = s.ext := rfl
@[simp] theorem State.set_outbox (s : State) (f : Fld) (v : Nat) : (s.set f v).outbox = s.outbox := rfl
@[simp] theorem State.set_csrLater (s : State) (f : Fld) (v : Nat) : (s.set f v).csrLater = s.csrLater := rfl
@[simp] theorem State.set_fresh (s : State) (f : Fld) (v : Nat) : (s.set f v).fresh = s.fresh := rfl
@[simp] theorem State.set_pending (s : State) (f : Fld) (v : Nat) : (s.set f v).pending = s.pending := rfl

/-! `State.set64` changes `regs` only. -/

@[simp] theorem State.set64_cad (s : State) (f : Fld) (v : Nat) : (s.set64 f v).cad = s.cad := rfl
@[simp] theorem State.set64_mem (s : State) (f : Fld) (v : Nat) : (s.set64 f v).mem = s.mem := rfl
@[simp] theorem State.set64_wins (s : State) (f : Fld) (v : Nat) : (s.set64 f v).wins = s.wins := rfl
@[simp] theorem State.set64_descs (s : State) (f : Fld) (v : Nat) : (s.set64 f v).descs = s.descs := rfl
@[simp] theorem State.set64_plans (s : State) (f : Fld) (v : Nat) : (s.set64 f v).plans = s.plans := rfl
@[simp] theorem State.set64_planJobs (s : State) (f : Fld) (v : Nat) : (s.set64 f v).planJobs = s.planJobs := rfl
@[simp] theorem State.set64_latches (s : State) (f : Fld) (v : Nat) : (s.set64 f v).latches = s.latches := rfl
@[simp] theorem State.set64_cmds (s : State) (f : Fld) (v : Nat) : (s.set64 f v).cmds = s.cmds := rfl
@[simp] theorem State.set64_cf (s : State) (f : Fld) (v : Nat) : (s.set64 f v).cf = s.cf := rfl
@[simp] theorem State.set64_nextId (s : State) (f : Fld) (v : Nat) : (s.set64 f v).nextId = s.nextId := rfl
@[simp] theorem State.set64_nextOrder (s : State) (f : Fld) (v : Nat) : (s.set64 f v).nextOrder = s.nextOrder := rfl
@[simp] theorem State.set64_queues (s : State) (f : Fld) (v : Nat) : (s.set64 f v).queues = s.queues := rfl
@[simp] theorem State.set64_tenants (s : State) (f : Fld) (v : Nat) : (s.set64 f v).tenants = s.tenants := rfl
@[simp] theorem State.set64_lockSeqs (s : State) (f : Fld) (v : Nat) : (s.set64 f v).lockSeqs = s.lockSeqs := rfl
@[simp] theorem State.set64_engines (s : State) (f : Fld) (v : Nat) : (s.set64 f v).engines = s.engines := rfl
@[simp] theorem State.set64_streams (s : State) (f : Fld) (v : Nat) : (s.set64 f v).streams = s.streams := rfl
@[simp] theorem State.set64_lanes (s : State) (f : Fld) (v : Nat) : (s.set64 f v).lanes = s.lanes := rfl
@[simp] theorem State.set64_sync (s : State) (f : Fld) (v : Nat) : (s.set64 f v).sync = s.sync := rfl
@[simp] theorem State.set64_graphs (s : State) (f : Fld) (v : Nat) : (s.set64 f v).graphs = s.graphs := rfl
@[simp] theorem State.set64_lastGraphTenant (s : State) (f : Fld) (v : Nat) : (s.set64 f v).lastGraphTenant = s.lastGraphTenant := rfl
@[simp] theorem State.set64_rein (s : State) (f : Fld) (v : Nat) : (s.set64 f v).rein = s.rein := rfl
@[simp] theorem State.set64_pcie (s : State) (f : Fld) (v : Nat) : (s.set64 f v).pcie = s.pcie := rfl
@[simp] theorem State.set64_errs (s : State) (f : Fld) (v : Nat) : (s.set64 f v).errs = s.errs := rfl
@[simp] theorem State.set64_lpe (s : State) (f : Fld) (v : Nat) : (s.set64 f v).lpe = s.lpe := rfl
@[simp] theorem State.set64_eth (s : State) (f : Fld) (v : Nat) : (s.set64 f v).eth = s.eth := rfl
@[simp] theorem State.set64_boot (s : State) (f : Fld) (v : Nat) : (s.set64 f v).boot = s.boot := rfl
@[simp] theorem State.set64_sec (s : State) (f : Fld) (v : Nat) : (s.set64 f v).sec = s.sec := rfl
@[simp] theorem State.set64_pwr (s : State) (f : Fld) (v : Nat) : (s.set64 f v).pwr = s.pwr := rfl
@[simp] theorem State.set64_ext (s : State) (f : Fld) (v : Nat) : (s.set64 f v).ext = s.ext := rfl
@[simp] theorem State.set64_outbox (s : State) (f : Fld) (v : Nat) : (s.set64 f v).outbox = s.outbox := rfl
@[simp] theorem State.set64_csrLater (s : State) (f : Fld) (v : Nat) : (s.set64 f v).csrLater = s.csrLater := rfl
@[simp] theorem State.set64_fresh (s : State) (f : Fld) (v : Nat) : (s.set64 f v).fresh = s.fresh := rfl
@[simp] theorem State.set64_pending (s : State) (f : Fld) (v : Nat) : (s.set64 f v).pending = s.pending := rfl

/-! `State.bump` changes `regs` only. -/

@[simp] theorem State.bump_cad (s : State) (f : Fld) (k : Nat) : (s.bump f k).cad = s.cad := rfl
@[simp] theorem State.bump_mem (s : State) (f : Fld) (k : Nat) : (s.bump f k).mem = s.mem := rfl
@[simp] theorem State.bump_wins (s : State) (f : Fld) (k : Nat) : (s.bump f k).wins = s.wins := rfl
@[simp] theorem State.bump_descs (s : State) (f : Fld) (k : Nat) : (s.bump f k).descs = s.descs := rfl
@[simp] theorem State.bump_plans (s : State) (f : Fld) (k : Nat) : (s.bump f k).plans = s.plans := rfl
@[simp] theorem State.bump_planJobs (s : State) (f : Fld) (k : Nat) : (s.bump f k).planJobs = s.planJobs := rfl
@[simp] theorem State.bump_latches (s : State) (f : Fld) (k : Nat) : (s.bump f k).latches = s.latches := rfl
@[simp] theorem State.bump_cmds (s : State) (f : Fld) (k : Nat) : (s.bump f k).cmds = s.cmds := rfl
@[simp] theorem State.bump_cf (s : State) (f : Fld) (k : Nat) : (s.bump f k).cf = s.cf := rfl
@[simp] theorem State.bump_nextId (s : State) (f : Fld) (k : Nat) : (s.bump f k).nextId = s.nextId := rfl
@[simp] theorem State.bump_nextOrder (s : State) (f : Fld) (k : Nat) : (s.bump f k).nextOrder = s.nextOrder := rfl
@[simp] theorem State.bump_queues (s : State) (f : Fld) (k : Nat) : (s.bump f k).queues = s.queues := rfl
@[simp] theorem State.bump_tenants (s : State) (f : Fld) (k : Nat) : (s.bump f k).tenants = s.tenants := rfl
@[simp] theorem State.bump_lockSeqs (s : State) (f : Fld) (k : Nat) : (s.bump f k).lockSeqs = s.lockSeqs := rfl
@[simp] theorem State.bump_engines (s : State) (f : Fld) (k : Nat) : (s.bump f k).engines = s.engines := rfl
@[simp] theorem State.bump_streams (s : State) (f : Fld) (k : Nat) : (s.bump f k).streams = s.streams := rfl
@[simp] theorem State.bump_lanes (s : State) (f : Fld) (k : Nat) : (s.bump f k).lanes = s.lanes := rfl
@[simp] theorem State.bump_sync (s : State) (f : Fld) (k : Nat) : (s.bump f k).sync = s.sync := rfl
@[simp] theorem State.bump_graphs (s : State) (f : Fld) (k : Nat) : (s.bump f k).graphs = s.graphs := rfl
@[simp] theorem State.bump_lastGraphTenant (s : State) (f : Fld) (k : Nat) : (s.bump f k).lastGraphTenant = s.lastGraphTenant := rfl
@[simp] theorem State.bump_rein (s : State) (f : Fld) (k : Nat) : (s.bump f k).rein = s.rein := rfl
@[simp] theorem State.bump_pcie (s : State) (f : Fld) (k : Nat) : (s.bump f k).pcie = s.pcie := rfl
@[simp] theorem State.bump_errs (s : State) (f : Fld) (k : Nat) : (s.bump f k).errs = s.errs := rfl
@[simp] theorem State.bump_lpe (s : State) (f : Fld) (k : Nat) : (s.bump f k).lpe = s.lpe := rfl
@[simp] theorem State.bump_eth (s : State) (f : Fld) (k : Nat) : (s.bump f k).eth = s.eth := rfl
@[simp] theorem State.bump_boot (s : State) (f : Fld) (k : Nat) : (s.bump f k).boot = s.boot := rfl
@[simp] theorem State.bump_sec (s : State) (f : Fld) (k : Nat) : (s.bump f k).sec = s.sec := rfl
@[simp] theorem State.bump_pwr (s : State) (f : Fld) (k : Nat) : (s.bump f k).pwr = s.pwr := rfl
@[simp] theorem State.bump_ext (s : State) (f : Fld) (k : Nat) : (s.bump f k).ext = s.ext := rfl
@[simp] theorem State.bump_outbox (s : State) (f : Fld) (k : Nat) : (s.bump f k).outbox = s.outbox := rfl
@[simp] theorem State.bump_csrLater (s : State) (f : Fld) (k : Nat) : (s.bump f k).csrLater = s.csrLater := rfl
@[simp] theorem State.bump_fresh (s : State) (f : Fld) (k : Nat) : (s.bump f k).fresh = s.fresh := rfl
@[simp] theorem State.bump_pending (s : State) (f : Fld) (k : Nat) : (s.bump f k).pending = s.pending := rfl

/-! `State.putRw` changes `regs` only. -/

@[simp] theorem State.putRw_cad (s : State) (a v : Nat) : (s.putRw a v).cad = s.cad := rfl
@[simp] theorem State.putRw_mem (s : State) (a v : Nat) : (s.putRw a v).mem = s.mem := rfl
@[simp] theorem State.putRw_wins (s : State) (a v : Nat) : (s.putRw a v).wins = s.wins := rfl
@[simp] theorem State.putRw_descs (s : State) (a v : Nat) : (s.putRw a v).descs = s.descs := rfl
@[simp] theorem State.putRw_plans (s : State) (a v : Nat) : (s.putRw a v).plans = s.plans := rfl
@[simp] theorem State.putRw_planJobs (s : State) (a v : Nat) : (s.putRw a v).planJobs = s.planJobs := rfl
@[simp] theorem State.putRw_latches (s : State) (a v : Nat) : (s.putRw a v).latches = s.latches := rfl
@[simp] theorem State.putRw_cmds (s : State) (a v : Nat) : (s.putRw a v).cmds = s.cmds := rfl
@[simp] theorem State.putRw_cf (s : State) (a v : Nat) : (s.putRw a v).cf = s.cf := rfl
@[simp] theorem State.putRw_nextId (s : State) (a v : Nat) : (s.putRw a v).nextId = s.nextId := rfl
@[simp] theorem State.putRw_nextOrder (s : State) (a v : Nat) : (s.putRw a v).nextOrder = s.nextOrder := rfl
@[simp] theorem State.putRw_queues (s : State) (a v : Nat) : (s.putRw a v).queues = s.queues := rfl
@[simp] theorem State.putRw_tenants (s : State) (a v : Nat) : (s.putRw a v).tenants = s.tenants := rfl
@[simp] theorem State.putRw_lockSeqs (s : State) (a v : Nat) : (s.putRw a v).lockSeqs = s.lockSeqs := rfl
@[simp] theorem State.putRw_engines (s : State) (a v : Nat) : (s.putRw a v).engines = s.engines := rfl
@[simp] theorem State.putRw_streams (s : State) (a v : Nat) : (s.putRw a v).streams = s.streams := rfl
@[simp] theorem State.putRw_lanes (s : State) (a v : Nat) : (s.putRw a v).lanes = s.lanes := rfl
@[simp] theorem State.putRw_sync (s : State) (a v : Nat) : (s.putRw a v).sync = s.sync := rfl
@[simp] theorem State.putRw_graphs (s : State) (a v : Nat) : (s.putRw a v).graphs = s.graphs := rfl
@[simp] theorem State.putRw_lastGraphTenant (s : State) (a v : Nat) : (s.putRw a v).lastGraphTenant = s.lastGraphTenant := rfl
@[simp] theorem State.putRw_rein (s : State) (a v : Nat) : (s.putRw a v).rein = s.rein := rfl
@[simp] theorem State.putRw_pcie (s : State) (a v : Nat) : (s.putRw a v).pcie = s.pcie := rfl
@[simp] theorem State.putRw_errs (s : State) (a v : Nat) : (s.putRw a v).errs = s.errs := rfl
@[simp] theorem State.putRw_lpe (s : State) (a v : Nat) : (s.putRw a v).lpe = s.lpe := rfl
@[simp] theorem State.putRw_eth (s : State) (a v : Nat) : (s.putRw a v).eth = s.eth := rfl
@[simp] theorem State.putRw_boot (s : State) (a v : Nat) : (s.putRw a v).boot = s.boot := rfl
@[simp] theorem State.putRw_sec (s : State) (a v : Nat) : (s.putRw a v).sec = s.sec := rfl
@[simp] theorem State.putRw_pwr (s : State) (a v : Nat) : (s.putRw a v).pwr = s.pwr := rfl
@[simp] theorem State.putRw_ext (s : State) (a v : Nat) : (s.putRw a v).ext = s.ext := rfl
@[simp] theorem State.putRw_outbox (s : State) (a v : Nat) : (s.putRw a v).outbox = s.outbox := rfl
@[simp] theorem State.putRw_csrLater (s : State) (a v : Nat) : (s.putRw a v).csrLater = s.csrLater := rfl
@[simp] theorem State.putRw_fresh (s : State) (a v : Nat) : (s.putRw a v).fresh = s.fresh := rfl
@[simp] theorem State.putRw_pending (s : State) (a v : Nat) : (s.putRw a v).pending = s.pending := rfl

/-! `State.stick` changes `regs` only. -/

@[simp] theorem State.stick_cad (s : State) (f : Fld) : (s.stick f).cad = s.cad := rfl
@[simp] theorem State.stick_mem (s : State) (f : Fld) : (s.stick f).mem = s.mem := rfl
@[simp] theorem State.stick_wins (s : State) (f : Fld) : (s.stick f).wins = s.wins := rfl
@[simp] theorem State.stick_descs (s : State) (f : Fld) : (s.stick f).descs = s.descs := rfl
@[simp] theorem State.stick_plans (s : State) (f : Fld) : (s.stick f).plans = s.plans := rfl
@[simp] theorem State.stick_planJobs (s : State) (f : Fld) : (s.stick f).planJobs = s.planJobs := rfl
@[simp] theorem State.stick_latches (s : State) (f : Fld) : (s.stick f).latches = s.latches := rfl
@[simp] theorem State.stick_cmds (s : State) (f : Fld) : (s.stick f).cmds = s.cmds := rfl
@[simp] theorem State.stick_cf (s : State) (f : Fld) : (s.stick f).cf = s.cf := rfl
@[simp] theorem State.stick_nextId (s : State) (f : Fld) : (s.stick f).nextId = s.nextId := rfl
@[simp] theorem State.stick_nextOrder (s : State) (f : Fld) : (s.stick f).nextOrder = s.nextOrder := rfl
@[simp] theorem State.stick_queues (s : State) (f : Fld) : (s.stick f).queues = s.queues := rfl
@[simp] theorem State.stick_tenants (s : State) (f : Fld) : (s.stick f).tenants = s.tenants := rfl
@[simp] theorem State.stick_lockSeqs (s : State) (f : Fld) : (s.stick f).lockSeqs = s.lockSeqs := rfl
@[simp] theorem State.stick_engines (s : State) (f : Fld) : (s.stick f).engines = s.engines := rfl
@[simp] theorem State.stick_streams (s : State) (f : Fld) : (s.stick f).streams = s.streams := rfl
@[simp] theorem State.stick_lanes (s : State) (f : Fld) : (s.stick f).lanes = s.lanes := rfl
@[simp] theorem State.stick_sync (s : State) (f : Fld) : (s.stick f).sync = s.sync := rfl
@[simp] theorem State.stick_graphs (s : State) (f : Fld) : (s.stick f).graphs = s.graphs := rfl
@[simp] theorem State.stick_lastGraphTenant (s : State) (f : Fld) : (s.stick f).lastGraphTenant = s.lastGraphTenant := rfl
@[simp] theorem State.stick_rein (s : State) (f : Fld) : (s.stick f).rein = s.rein := rfl
@[simp] theorem State.stick_pcie (s : State) (f : Fld) : (s.stick f).pcie = s.pcie := rfl
@[simp] theorem State.stick_errs (s : State) (f : Fld) : (s.stick f).errs = s.errs := rfl
@[simp] theorem State.stick_lpe (s : State) (f : Fld) : (s.stick f).lpe = s.lpe := rfl
@[simp] theorem State.stick_eth (s : State) (f : Fld) : (s.stick f).eth = s.eth := rfl
@[simp] theorem State.stick_boot (s : State) (f : Fld) : (s.stick f).boot = s.boot := rfl
@[simp] theorem State.stick_sec (s : State) (f : Fld) : (s.stick f).sec = s.sec := rfl
@[simp] theorem State.stick_pwr (s : State) (f : Fld) : (s.stick f).pwr = s.pwr := rfl
@[simp] theorem State.stick_ext (s : State) (f : Fld) : (s.stick f).ext = s.ext := rfl
@[simp] theorem State.stick_outbox (s : State) (f : Fld) : (s.stick f).outbox = s.outbox := rfl
@[simp] theorem State.stick_csrLater (s : State) (f : Fld) : (s.stick f).csrLater = s.csrLater := rfl
@[simp] theorem State.stick_fresh (s : State) (f : Fld) : (s.stick f).fresh = s.fresh := rfl
@[simp] theorem State.stick_pending (s : State) (f : Fld) : (s.stick f).pending = s.pending := rfl

/-! `State.unstick` changes `regs` only. -/

@[simp] theorem State.unstick_cad (s : State) (f : Fld) : (s.unstick f).cad = s.cad := rfl
@[simp] theorem State.unstick_mem (s : State) (f : Fld) : (s.unstick f).mem = s.mem := rfl
@[simp] theorem State.unstick_wins (s : State) (f : Fld) : (s.unstick f).wins = s.wins := rfl
@[simp] theorem State.unstick_descs (s : State) (f : Fld) : (s.unstick f).descs = s.descs := rfl
@[simp] theorem State.unstick_plans (s : State) (f : Fld) : (s.unstick f).plans = s.plans := rfl
@[simp] theorem State.unstick_planJobs (s : State) (f : Fld) : (s.unstick f).planJobs = s.planJobs := rfl
@[simp] theorem State.unstick_latches (s : State) (f : Fld) : (s.unstick f).latches = s.latches := rfl
@[simp] theorem State.unstick_cmds (s : State) (f : Fld) : (s.unstick f).cmds = s.cmds := rfl
@[simp] theorem State.unstick_cf (s : State) (f : Fld) : (s.unstick f).cf = s.cf := rfl
@[simp] theorem State.unstick_nextId (s : State) (f : Fld) : (s.unstick f).nextId = s.nextId := rfl
@[simp] theorem State.unstick_nextOrder (s : State) (f : Fld) : (s.unstick f).nextOrder = s.nextOrder := rfl
@[simp] theorem State.unstick_queues (s : State) (f : Fld) : (s.unstick f).queues = s.queues := rfl
@[simp] theorem State.unstick_tenants (s : State) (f : Fld) : (s.unstick f).tenants = s.tenants := rfl
@[simp] theorem State.unstick_lockSeqs (s : State) (f : Fld) : (s.unstick f).lockSeqs = s.lockSeqs := rfl
@[simp] theorem State.unstick_engines (s : State) (f : Fld) : (s.unstick f).engines = s.engines := rfl
@[simp] theorem State.unstick_streams (s : State) (f : Fld) : (s.unstick f).streams = s.streams := rfl
@[simp] theorem State.unstick_lanes (s : State) (f : Fld) : (s.unstick f).lanes = s.lanes := rfl
@[simp] theorem State.unstick_sync (s : State) (f : Fld) : (s.unstick f).sync = s.sync := rfl
@[simp] theorem State.unstick_graphs (s : State) (f : Fld) : (s.unstick f).graphs = s.graphs := rfl
@[simp] theorem State.unstick_lastGraphTenant (s : State) (f : Fld) : (s.unstick f).lastGraphTenant = s.lastGraphTenant := rfl
@[simp] theorem State.unstick_rein (s : State) (f : Fld) : (s.unstick f).rein = s.rein := rfl
@[simp] theorem State.unstick_pcie (s : State) (f : Fld) : (s.unstick f).pcie = s.pcie := rfl
@[simp] theorem State.unstick_errs (s : State) (f : Fld) : (s.unstick f).errs = s.errs := rfl
@[simp] theorem State.unstick_lpe (s : State) (f : Fld) : (s.unstick f).lpe = s.lpe := rfl
@[simp] theorem State.unstick_eth (s : State) (f : Fld) : (s.unstick f).eth = s.eth := rfl
@[simp] theorem State.unstick_boot (s : State) (f : Fld) : (s.unstick f).boot = s.boot := rfl
@[simp] theorem State.unstick_sec (s : State) (f : Fld) : (s.unstick f).sec = s.sec := rfl
@[simp] theorem State.unstick_pwr (s : State) (f : Fld) : (s.unstick f).pwr = s.pwr := rfl
@[simp] theorem State.unstick_ext (s : State) (f : Fld) : (s.unstick f).ext = s.ext := rfl
@[simp] theorem State.unstick_outbox (s : State) (f : Fld) : (s.unstick f).outbox = s.outbox := rfl
@[simp] theorem State.unstick_csrLater (s : State) (f : Fld) : (s.unstick f).csrLater = s.csrLater := rfl
@[simp] theorem State.unstick_fresh (s : State) (f : Fld) : (s.unstick f).fresh = s.fresh := rfl
@[simp] theorem State.unstick_pending (s : State) (f : Fld) : (s.unstick f).pending = s.pending := rfl

/-! `State.out` changes `outbox` only. -/

@[simp] theorem State.out_regs (s : State) (o : Output) : (s.out o).regs = s.regs := rfl
@[simp] theorem State.out_cad (s : State) (o : Output) : (s.out o).cad = s.cad := rfl
@[simp] theorem State.out_mem (s : State) (o : Output) : (s.out o).mem = s.mem := rfl
@[simp] theorem State.out_wins (s : State) (o : Output) : (s.out o).wins = s.wins := rfl
@[simp] theorem State.out_descs (s : State) (o : Output) : (s.out o).descs = s.descs := rfl
@[simp] theorem State.out_plans (s : State) (o : Output) : (s.out o).plans = s.plans := rfl
@[simp] theorem State.out_planJobs (s : State) (o : Output) : (s.out o).planJobs = s.planJobs := rfl
@[simp] theorem State.out_latches (s : State) (o : Output) : (s.out o).latches = s.latches := rfl
@[simp] theorem State.out_cmds (s : State) (o : Output) : (s.out o).cmds = s.cmds := rfl
@[simp] theorem State.out_cf (s : State) (o : Output) : (s.out o).cf = s.cf := rfl
@[simp] theorem State.out_nextId (s : State) (o : Output) : (s.out o).nextId = s.nextId := rfl
@[simp] theorem State.out_nextOrder (s : State) (o : Output) : (s.out o).nextOrder = s.nextOrder := rfl
@[simp] theorem State.out_queues (s : State) (o : Output) : (s.out o).queues = s.queues := rfl
@[simp] theorem State.out_tenants (s : State) (o : Output) : (s.out o).tenants = s.tenants := rfl
@[simp] theorem State.out_lockSeqs (s : State) (o : Output) : (s.out o).lockSeqs = s.lockSeqs := rfl
@[simp] theorem State.out_engines (s : State) (o : Output) : (s.out o).engines = s.engines := rfl
@[simp] theorem State.out_streams (s : State) (o : Output) : (s.out o).streams = s.streams := rfl
@[simp] theorem State.out_lanes (s : State) (o : Output) : (s.out o).lanes = s.lanes := rfl
@[simp] theorem State.out_sync (s : State) (o : Output) : (s.out o).sync = s.sync := rfl
@[simp] theorem State.out_graphs (s : State) (o : Output) : (s.out o).graphs = s.graphs := rfl
@[simp] theorem State.out_lastGraphTenant (s : State) (o : Output) : (s.out o).lastGraphTenant = s.lastGraphTenant := rfl
@[simp] theorem State.out_rein (s : State) (o : Output) : (s.out o).rein = s.rein := rfl
@[simp] theorem State.out_pcie (s : State) (o : Output) : (s.out o).pcie = s.pcie := rfl
@[simp] theorem State.out_errs (s : State) (o : Output) : (s.out o).errs = s.errs := rfl
@[simp] theorem State.out_lpe (s : State) (o : Output) : (s.out o).lpe = s.lpe := rfl
@[simp] theorem State.out_eth (s : State) (o : Output) : (s.out o).eth = s.eth := rfl
@[simp] theorem State.out_boot (s : State) (o : Output) : (s.out o).boot = s.boot := rfl
@[simp] theorem State.out_sec (s : State) (o : Output) : (s.out o).sec = s.sec := rfl
@[simp] theorem State.out_pwr (s : State) (o : Output) : (s.out o).pwr = s.pwr := rfl
@[simp] theorem State.out_ext (s : State) (o : Output) : (s.out o).ext = s.ext := rfl
@[simp] theorem State.out_csrLater (s : State) (o : Output) : (s.out o).csrLater = s.csrLater := rfl
@[simp] theorem State.out_fresh (s : State) (o : Output) : (s.out o).fresh = s.fresh := rfl
@[simp] theorem State.out_pending (s : State) (o : Output) : (s.out o).pending = s.pending := rfl

/-! `State.draw` changes `fresh` only. -/

@[simp] theorem State.draw_regs (s : State) : (s.draw).regs = s.regs := rfl
@[simp] theorem State.draw_cad (s : State) : (s.draw).cad = s.cad := rfl
@[simp] theorem State.draw_mem (s : State) : (s.draw).mem = s.mem := rfl
@[simp] theorem State.draw_wins (s : State) : (s.draw).wins = s.wins := rfl
@[simp] theorem State.draw_descs (s : State) : (s.draw).descs = s.descs := rfl
@[simp] theorem State.draw_plans (s : State) : (s.draw).plans = s.plans := rfl
@[simp] theorem State.draw_planJobs (s : State) : (s.draw).planJobs = s.planJobs := rfl
@[simp] theorem State.draw_latches (s : State) : (s.draw).latches = s.latches := rfl
@[simp] theorem State.draw_cmds (s : State) : (s.draw).cmds = s.cmds := rfl
@[simp] theorem State.draw_cf (s : State) : (s.draw).cf = s.cf := rfl
@[simp] theorem State.draw_nextId (s : State) : (s.draw).nextId = s.nextId := rfl
@[simp] theorem State.draw_nextOrder (s : State) : (s.draw).nextOrder = s.nextOrder := rfl
@[simp] theorem State.draw_queues (s : State) : (s.draw).queues = s.queues := rfl
@[simp] theorem State.draw_tenants (s : State) : (s.draw).tenants = s.tenants := rfl
@[simp] theorem State.draw_lockSeqs (s : State) : (s.draw).lockSeqs = s.lockSeqs := rfl
@[simp] theorem State.draw_engines (s : State) : (s.draw).engines = s.engines := rfl
@[simp] theorem State.draw_streams (s : State) : (s.draw).streams = s.streams := rfl
@[simp] theorem State.draw_lanes (s : State) : (s.draw).lanes = s.lanes := rfl
@[simp] theorem State.draw_sync (s : State) : (s.draw).sync = s.sync := rfl
@[simp] theorem State.draw_graphs (s : State) : (s.draw).graphs = s.graphs := rfl
@[simp] theorem State.draw_lastGraphTenant (s : State) : (s.draw).lastGraphTenant = s.lastGraphTenant := rfl
@[simp] theorem State.draw_rein (s : State) : (s.draw).rein = s.rein := rfl
@[simp] theorem State.draw_pcie (s : State) : (s.draw).pcie = s.pcie := rfl
@[simp] theorem State.draw_errs (s : State) : (s.draw).errs = s.errs := rfl
@[simp] theorem State.draw_lpe (s : State) : (s.draw).lpe = s.lpe := rfl
@[simp] theorem State.draw_eth (s : State) : (s.draw).eth = s.eth := rfl
@[simp] theorem State.draw_boot (s : State) : (s.draw).boot = s.boot := rfl
@[simp] theorem State.draw_sec (s : State) : (s.draw).sec = s.sec := rfl
@[simp] theorem State.draw_pwr (s : State) : (s.draw).pwr = s.pwr := rfl
@[simp] theorem State.draw_ext (s : State) : (s.draw).ext = s.ext := rfl
@[simp] theorem State.draw_outbox (s : State) : (s.draw).outbox = s.outbox := rfl
@[simp] theorem State.draw_csrLater (s : State) : (s.draw).csrLater = s.csrLater := rfl
@[simp] theorem State.draw_pending (s : State) : (s.draw).pending = s.pending := rfl

/-! `State.setQueue` changes `queues` only. -/

@[simp] theorem State.setQueue_regs (s : State) (x : QueueSt) : (s.setQueue x).regs = s.regs := rfl
@[simp] theorem State.setQueue_cad (s : State) (x : QueueSt) : (s.setQueue x).cad = s.cad := rfl
@[simp] theorem State.setQueue_mem (s : State) (x : QueueSt) : (s.setQueue x).mem = s.mem := rfl
@[simp] theorem State.setQueue_wins (s : State) (x : QueueSt) : (s.setQueue x).wins = s.wins := rfl
@[simp] theorem State.setQueue_descs (s : State) (x : QueueSt) : (s.setQueue x).descs = s.descs := rfl
@[simp] theorem State.setQueue_plans (s : State) (x : QueueSt) : (s.setQueue x).plans = s.plans := rfl
@[simp] theorem State.setQueue_planJobs (s : State) (x : QueueSt) : (s.setQueue x).planJobs = s.planJobs := rfl
@[simp] theorem State.setQueue_latches (s : State) (x : QueueSt) : (s.setQueue x).latches = s.latches := rfl
@[simp] theorem State.setQueue_cmds (s : State) (x : QueueSt) : (s.setQueue x).cmds = s.cmds := rfl
@[simp] theorem State.setQueue_cf (s : State) (x : QueueSt) : (s.setQueue x).cf = s.cf := rfl
@[simp] theorem State.setQueue_nextId (s : State) (x : QueueSt) : (s.setQueue x).nextId = s.nextId := rfl
@[simp] theorem State.setQueue_nextOrder (s : State) (x : QueueSt) : (s.setQueue x).nextOrder = s.nextOrder := rfl
@[simp] theorem State.setQueue_tenants (s : State) (x : QueueSt) : (s.setQueue x).tenants = s.tenants := rfl
@[simp] theorem State.setQueue_lockSeqs (s : State) (x : QueueSt) : (s.setQueue x).lockSeqs = s.lockSeqs := rfl
@[simp] theorem State.setQueue_engines (s : State) (x : QueueSt) : (s.setQueue x).engines = s.engines := rfl
@[simp] theorem State.setQueue_streams (s : State) (x : QueueSt) : (s.setQueue x).streams = s.streams := rfl
@[simp] theorem State.setQueue_lanes (s : State) (x : QueueSt) : (s.setQueue x).lanes = s.lanes := rfl
@[simp] theorem State.setQueue_sync (s : State) (x : QueueSt) : (s.setQueue x).sync = s.sync := rfl
@[simp] theorem State.setQueue_graphs (s : State) (x : QueueSt) : (s.setQueue x).graphs = s.graphs := rfl
@[simp] theorem State.setQueue_lastGraphTenant (s : State) (x : QueueSt) : (s.setQueue x).lastGraphTenant = s.lastGraphTenant := rfl
@[simp] theorem State.setQueue_rein (s : State) (x : QueueSt) : (s.setQueue x).rein = s.rein := rfl
@[simp] theorem State.setQueue_pcie (s : State) (x : QueueSt) : (s.setQueue x).pcie = s.pcie := rfl
@[simp] theorem State.setQueue_errs (s : State) (x : QueueSt) : (s.setQueue x).errs = s.errs := rfl
@[simp] theorem State.setQueue_lpe (s : State) (x : QueueSt) : (s.setQueue x).lpe = s.lpe := rfl
@[simp] theorem State.setQueue_eth (s : State) (x : QueueSt) : (s.setQueue x).eth = s.eth := rfl
@[simp] theorem State.setQueue_boot (s : State) (x : QueueSt) : (s.setQueue x).boot = s.boot := rfl
@[simp] theorem State.setQueue_sec (s : State) (x : QueueSt) : (s.setQueue x).sec = s.sec := rfl
@[simp] theorem State.setQueue_pwr (s : State) (x : QueueSt) : (s.setQueue x).pwr = s.pwr := rfl
@[simp] theorem State.setQueue_ext (s : State) (x : QueueSt) : (s.setQueue x).ext = s.ext := rfl
@[simp] theorem State.setQueue_outbox (s : State) (x : QueueSt) : (s.setQueue x).outbox = s.outbox := rfl
@[simp] theorem State.setQueue_csrLater (s : State) (x : QueueSt) : (s.setQueue x).csrLater = s.csrLater := rfl
@[simp] theorem State.setQueue_fresh (s : State) (x : QueueSt) : (s.setQueue x).fresh = s.fresh := rfl
@[simp] theorem State.setQueue_pending (s : State) (x : QueueSt) : (s.setQueue x).pending = s.pending := rfl

/-! `State.setTenant` changes `tenants` only. -/

@[simp] theorem State.setTenant_regs (s : State) (x : TenantSt) : (s.setTenant x).regs = s.regs := rfl
@[simp] theorem State.setTenant_cad (s : State) (x : TenantSt) : (s.setTenant x).cad = s.cad := rfl
@[simp] theorem State.setTenant_mem (s : State) (x : TenantSt) : (s.setTenant x).mem = s.mem := rfl
@[simp] theorem State.setTenant_wins (s : State) (x : TenantSt) : (s.setTenant x).wins = s.wins := rfl
@[simp] theorem State.setTenant_descs (s : State) (x : TenantSt) : (s.setTenant x).descs = s.descs := rfl
@[simp] theorem State.setTenant_plans (s : State) (x : TenantSt) : (s.setTenant x).plans = s.plans := rfl
@[simp] theorem State.setTenant_planJobs (s : State) (x : TenantSt) : (s.setTenant x).planJobs = s.planJobs := rfl
@[simp] theorem State.setTenant_latches (s : State) (x : TenantSt) : (s.setTenant x).latches = s.latches := rfl
@[simp] theorem State.setTenant_cmds (s : State) (x : TenantSt) : (s.setTenant x).cmds = s.cmds := rfl
@[simp] theorem State.setTenant_cf (s : State) (x : TenantSt) : (s.setTenant x).cf = s.cf := rfl
@[simp] theorem State.setTenant_nextId (s : State) (x : TenantSt) : (s.setTenant x).nextId = s.nextId := rfl
@[simp] theorem State.setTenant_nextOrder (s : State) (x : TenantSt) : (s.setTenant x).nextOrder = s.nextOrder := rfl
@[simp] theorem State.setTenant_queues (s : State) (x : TenantSt) : (s.setTenant x).queues = s.queues := rfl
@[simp] theorem State.setTenant_lockSeqs (s : State) (x : TenantSt) : (s.setTenant x).lockSeqs = s.lockSeqs := rfl
@[simp] theorem State.setTenant_engines (s : State) (x : TenantSt) : (s.setTenant x).engines = s.engines := rfl
@[simp] theorem State.setTenant_streams (s : State) (x : TenantSt) : (s.setTenant x).streams = s.streams := rfl
@[simp] theorem State.setTenant_lanes (s : State) (x : TenantSt) : (s.setTenant x).lanes = s.lanes := rfl
@[simp] theorem State.setTenant_sync (s : State) (x : TenantSt) : (s.setTenant x).sync = s.sync := rfl
@[simp] theorem State.setTenant_graphs (s : State) (x : TenantSt) : (s.setTenant x).graphs = s.graphs := rfl
@[simp] theorem State.setTenant_lastGraphTenant (s : State) (x : TenantSt) : (s.setTenant x).lastGraphTenant = s.lastGraphTenant := rfl
@[simp] theorem State.setTenant_rein (s : State) (x : TenantSt) : (s.setTenant x).rein = s.rein := rfl
@[simp] theorem State.setTenant_pcie (s : State) (x : TenantSt) : (s.setTenant x).pcie = s.pcie := rfl
@[simp] theorem State.setTenant_errs (s : State) (x : TenantSt) : (s.setTenant x).errs = s.errs := rfl
@[simp] theorem State.setTenant_lpe (s : State) (x : TenantSt) : (s.setTenant x).lpe = s.lpe := rfl
@[simp] theorem State.setTenant_eth (s : State) (x : TenantSt) : (s.setTenant x).eth = s.eth := rfl
@[simp] theorem State.setTenant_boot (s : State) (x : TenantSt) : (s.setTenant x).boot = s.boot := rfl
@[simp] theorem State.setTenant_sec (s : State) (x : TenantSt) : (s.setTenant x).sec = s.sec := rfl
@[simp] theorem State.setTenant_pwr (s : State) (x : TenantSt) : (s.setTenant x).pwr = s.pwr := rfl
@[simp] theorem State.setTenant_ext (s : State) (x : TenantSt) : (s.setTenant x).ext = s.ext := rfl
@[simp] theorem State.setTenant_outbox (s : State) (x : TenantSt) : (s.setTenant x).outbox = s.outbox := rfl
@[simp] theorem State.setTenant_csrLater (s : State) (x : TenantSt) : (s.setTenant x).csrLater = s.csrLater := rfl
@[simp] theorem State.setTenant_fresh (s : State) (x : TenantSt) : (s.setTenant x).fresh = s.fresh := rfl
@[simp] theorem State.setTenant_pending (s : State) (x : TenantSt) : (s.setTenant x).pending = s.pending := rfl

/-! `State.setCmd` changes `cmds` only. -/

@[simp] theorem State.setCmd_regs (s : State) (c : Cmd) : (s.setCmd c).regs = s.regs := rfl
@[simp] theorem State.setCmd_cad (s : State) (c : Cmd) : (s.setCmd c).cad = s.cad := rfl
@[simp] theorem State.setCmd_mem (s : State) (c : Cmd) : (s.setCmd c).mem = s.mem := rfl
@[simp] theorem State.setCmd_wins (s : State) (c : Cmd) : (s.setCmd c).wins = s.wins := rfl
@[simp] theorem State.setCmd_descs (s : State) (c : Cmd) : (s.setCmd c).descs = s.descs := rfl
@[simp] theorem State.setCmd_plans (s : State) (c : Cmd) : (s.setCmd c).plans = s.plans := rfl
@[simp] theorem State.setCmd_planJobs (s : State) (c : Cmd) : (s.setCmd c).planJobs = s.planJobs := rfl
@[simp] theorem State.setCmd_latches (s : State) (c : Cmd) : (s.setCmd c).latches = s.latches := rfl
@[simp] theorem State.setCmd_cf (s : State) (c : Cmd) : (s.setCmd c).cf = s.cf := rfl
@[simp] theorem State.setCmd_nextId (s : State) (c : Cmd) : (s.setCmd c).nextId = s.nextId := rfl
@[simp] theorem State.setCmd_nextOrder (s : State) (c : Cmd) : (s.setCmd c).nextOrder = s.nextOrder := rfl
@[simp] theorem State.setCmd_queues (s : State) (c : Cmd) : (s.setCmd c).queues = s.queues := rfl
@[simp] theorem State.setCmd_tenants (s : State) (c : Cmd) : (s.setCmd c).tenants = s.tenants := rfl
@[simp] theorem State.setCmd_lockSeqs (s : State) (c : Cmd) : (s.setCmd c).lockSeqs = s.lockSeqs := rfl
@[simp] theorem State.setCmd_engines (s : State) (c : Cmd) : (s.setCmd c).engines = s.engines := rfl
@[simp] theorem State.setCmd_streams (s : State) (c : Cmd) : (s.setCmd c).streams = s.streams := rfl
@[simp] theorem State.setCmd_lanes (s : State) (c : Cmd) : (s.setCmd c).lanes = s.lanes := rfl
@[simp] theorem State.setCmd_sync (s : State) (c : Cmd) : (s.setCmd c).sync = s.sync := rfl
@[simp] theorem State.setCmd_graphs (s : State) (c : Cmd) : (s.setCmd c).graphs = s.graphs := rfl
@[simp] theorem State.setCmd_lastGraphTenant (s : State) (c : Cmd) : (s.setCmd c).lastGraphTenant = s.lastGraphTenant := rfl
@[simp] theorem State.setCmd_rein (s : State) (c : Cmd) : (s.setCmd c).rein = s.rein := rfl
@[simp] theorem State.setCmd_pcie (s : State) (c : Cmd) : (s.setCmd c).pcie = s.pcie := rfl
@[simp] theorem State.setCmd_errs (s : State) (c : Cmd) : (s.setCmd c).errs = s.errs := rfl
@[simp] theorem State.setCmd_lpe (s : State) (c : Cmd) : (s.setCmd c).lpe = s.lpe := rfl
@[simp] theorem State.setCmd_eth (s : State) (c : Cmd) : (s.setCmd c).eth = s.eth := rfl
@[simp] theorem State.setCmd_boot (s : State) (c : Cmd) : (s.setCmd c).boot = s.boot := rfl
@[simp] theorem State.setCmd_sec (s : State) (c : Cmd) : (s.setCmd c).sec = s.sec := rfl
@[simp] theorem State.setCmd_pwr (s : State) (c : Cmd) : (s.setCmd c).pwr = s.pwr := rfl
@[simp] theorem State.setCmd_ext (s : State) (c : Cmd) : (s.setCmd c).ext = s.ext := rfl
@[simp] theorem State.setCmd_outbox (s : State) (c : Cmd) : (s.setCmd c).outbox = s.outbox := rfl
@[simp] theorem State.setCmd_csrLater (s : State) (c : Cmd) : (s.setCmd c).csrLater = s.csrLater := rfl
@[simp] theorem State.setCmd_fresh (s : State) (c : Cmd) : (s.setCmd c).fresh = s.fresh := rfl
@[simp] theorem State.setCmd_pending (s : State) (c : Cmd) : (s.setCmd c).pending = s.pending := rfl

/-! `State.modCmd` changes `cmds` only. -/

@[simp] theorem State.modCmd_regs (s : State) (id : Nat) (f : Cmd → Cmd) : (s.modCmd id f).regs = s.regs := rfl
@[simp] theorem State.modCmd_cad (s : State) (id : Nat) (f : Cmd → Cmd) : (s.modCmd id f).cad = s.cad := rfl
@[simp] theorem State.modCmd_mem (s : State) (id : Nat) (f : Cmd → Cmd) : (s.modCmd id f).mem = s.mem := rfl
@[simp] theorem State.modCmd_wins (s : State) (id : Nat) (f : Cmd → Cmd) : (s.modCmd id f).wins = s.wins := rfl
@[simp] theorem State.modCmd_descs (s : State) (id : Nat) (f : Cmd → Cmd) : (s.modCmd id f).descs = s.descs := rfl
@[simp] theorem State.modCmd_plans (s : State) (id : Nat) (f : Cmd → Cmd) : (s.modCmd id f).plans = s.plans := rfl
@[simp] theorem State.modCmd_planJobs (s : State) (id : Nat) (f : Cmd → Cmd) : (s.modCmd id f).planJobs = s.planJobs := rfl
@[simp] theorem State.modCmd_latches (s : State) (id : Nat) (f : Cmd → Cmd) : (s.modCmd id f).latches = s.latches := rfl
@[simp] theorem State.modCmd_cf (s : State) (id : Nat) (f : Cmd → Cmd) : (s.modCmd id f).cf = s.cf := rfl
@[simp] theorem State.modCmd_nextId (s : State) (id : Nat) (f : Cmd → Cmd) : (s.modCmd id f).nextId = s.nextId := rfl
@[simp] theorem State.modCmd_nextOrder (s : State) (id : Nat) (f : Cmd → Cmd) : (s.modCmd id f).nextOrder = s.nextOrder := rfl
@[simp] theorem State.modCmd_queues (s : State) (id : Nat) (f : Cmd → Cmd) : (s.modCmd id f).queues = s.queues := rfl
@[simp] theorem State.modCmd_tenants (s : State) (id : Nat) (f : Cmd → Cmd) : (s.modCmd id f).tenants = s.tenants := rfl
@[simp] theorem State.modCmd_lockSeqs (s : State) (id : Nat) (f : Cmd → Cmd) : (s.modCmd id f).lockSeqs = s.lockSeqs := rfl
@[simp] theorem State.modCmd_engines (s : State) (id : Nat) (f : Cmd → Cmd) : (s.modCmd id f).engines = s.engines := rfl
@[simp] theorem State.modCmd_streams (s : State) (id : Nat) (f : Cmd → Cmd) : (s.modCmd id f).streams = s.streams := rfl
@[simp] theorem State.modCmd_lanes (s : State) (id : Nat) (f : Cmd → Cmd) : (s.modCmd id f).lanes = s.lanes := rfl
@[simp] theorem State.modCmd_sync (s : State) (id : Nat) (f : Cmd → Cmd) : (s.modCmd id f).sync = s.sync := rfl
@[simp] theorem State.modCmd_graphs (s : State) (id : Nat) (f : Cmd → Cmd) : (s.modCmd id f).graphs = s.graphs := rfl
@[simp] theorem State.modCmd_lastGraphTenant (s : State) (id : Nat) (f : Cmd → Cmd) : (s.modCmd id f).lastGraphTenant = s.lastGraphTenant := rfl
@[simp] theorem State.modCmd_rein (s : State) (id : Nat) (f : Cmd → Cmd) : (s.modCmd id f).rein = s.rein := rfl
@[simp] theorem State.modCmd_pcie (s : State) (id : Nat) (f : Cmd → Cmd) : (s.modCmd id f).pcie = s.pcie := rfl
@[simp] theorem State.modCmd_errs (s : State) (id : Nat) (f : Cmd → Cmd) : (s.modCmd id f).errs = s.errs := rfl
@[simp] theorem State.modCmd_lpe (s : State) (id : Nat) (f : Cmd → Cmd) : (s.modCmd id f).lpe = s.lpe := rfl
@[simp] theorem State.modCmd_eth (s : State) (id : Nat) (f : Cmd → Cmd) : (s.modCmd id f).eth = s.eth := rfl
@[simp] theorem State.modCmd_boot (s : State) (id : Nat) (f : Cmd → Cmd) : (s.modCmd id f).boot = s.boot := rfl
@[simp] theorem State.modCmd_sec (s : State) (id : Nat) (f : Cmd → Cmd) : (s.modCmd id f).sec = s.sec := rfl
@[simp] theorem State.modCmd_pwr (s : State) (id : Nat) (f : Cmd → Cmd) : (s.modCmd id f).pwr = s.pwr := rfl
@[simp] theorem State.modCmd_ext (s : State) (id : Nat) (f : Cmd → Cmd) : (s.modCmd id f).ext = s.ext := rfl
@[simp] theorem State.modCmd_outbox (s : State) (id : Nat) (f : Cmd → Cmd) : (s.modCmd id f).outbox = s.outbox := rfl
@[simp] theorem State.modCmd_csrLater (s : State) (id : Nat) (f : Cmd → Cmd) : (s.modCmd id f).csrLater = s.csrLater := rfl
@[simp] theorem State.modCmd_fresh (s : State) (id : Nat) (f : Cmd → Cmd) : (s.modCmd id f).fresh = s.fresh := rfl
@[simp] theorem State.modCmd_pending (s : State) (id : Nat) (f : Cmd → Cmd) : (s.modCmd id f).pending = s.pending := rfl

/-! Registers after the updates that leave the register file alone. -/

@[simp] theorem State.rd_out (s : State) (o : Output) (a : Nat) : (s.out o).rd a = s.rd a := rfl
@[simp] theorem State.rd_draw (s : State) (a : Nat) : s.draw.rd a = s.rd a := rfl
@[simp] theorem State.rd_setQueue (s : State) (x : QueueSt) (a : Nat) : (s.setQueue x).rd a = s.rd a := rfl
@[simp] theorem State.rd_setTenant (s : State) (x : TenantSt) (a : Nat) : (s.setTenant x).rd a = s.rd a := rfl
@[simp] theorem State.rd_setCmd (s : State) (c : Cmd) (a : Nat) : (s.setCmd c).rd a = s.rd a := rfl
@[simp] theorem State.rd_modCmd (s : State) (id : Nat) (f : Cmd → Cmd) (a : Nat) : (s.modCmd id f).rd a = s.rd a := rfl

end Sys2Proof.Machine
end

