-- ==== Sys2Proof/Laws/Rows.lean ====
section
/-! SUPPORT. The decode of an opcode row's packet, in its parts: a row whose packet passes is the path of its opcode; a front-end row
that starts at once is the effect of its command; a firmware-path row that CF may take is what CF does with it. -/
namespace Sys2Proof.Machine

/-- The opcode of a row's packet is the row's. -/
theorem rowPacket_op (op : Nat) (h : op < 256) (p : List (BitVec 8)) : pOp (rowPacket op p) = op := by
  unfold pOp rowPacket
  obtain ⟨n, hn⟩ : ∃ n, 64 * ((p.getD 1 0).toNat % 4 + 1) = n + 1 := ⟨64 * ((p.getD 1 0).toNat % 4 + 1) - 1, by omega⟩
  rw [hn]
  simp only [slice, List.range_succ_eq_map, List.map_cons, leAt, List.drop_zero, List.take_succ_cons, List.take_zero, ofLE]
  simp
  omega

/-- A row whose packet passes takes the path of its opcode. -/
theorem State.opcode_passes (s : State) (t q op : Nat) (p : List (BitVec 8)) (fails : Bool) (hop : op < 256)
    (h : s.rowPasses t q op p fails = true) :
    s.opcode t q op p fails =
      if isFirmware op then
        (if ((s.rowDecoded t q op p).toCf s.nextId).cfFree s.nextId then
          ((s.rowDecoded t q op p).toCf s.nextId).cfAccept s.nextId fails else (s.rowDecoded t q op p).toCf s.nextId)
      else (s.rowDecoded t q op p).decodeFast s.nextId op fails := by
  unfold State.rowPasses at h
  simp only [Bool.and_eq_true, Option.isNone_iff_eq_none, Bool.not_eq_true'] at h
  obtain ⟨⟨⟨⟨⟨h0, h1⟩, hd⟩, _⟩, h2⟩, h3⟩ := h
  have e : s.issue t q (rowPacket op p) fails = if isFirmware op then (s.rowDecoded t q op p).toCf s.nextId
      else (s.rowDecoded t q op p).decodeFast s.nextId op fails := by
    unfold State.issue
    simp only [rowPacket_op op hop]
    unfold State.rowDecoded at *
    rw [hd, h3]
    rfl
  unfold State.opcode
  simp only [h0, h1, h2, e, rowPacket_op op hop]
  cases isFirmware op <;> simp

/-! ### What the parts do to the commands -/

/-- A change that keeps the id of a command is a change of what its id finds. -/
theorem State.cmd?_modCmd (s : State) (id : Nat) (f : Cmd → Cmd) (hf : ∀ c, (f c).id = c.id) :
    (s.modCmd id f).cmd? id = (s.cmd? id).map f := by
  unfold State.modCmd State.cmd?
  simp only
  induction s.cmds with
  | nil => rfl
  | cons c t ih =>
    rw [List.map_cons, List.find?_cons, List.find?_cons]
    by_cases h : c.id = id
    · simp [h, hf]
    · have hb : (c.id == id) = false := beq_eq_false_iff_ne.mpr h
      rw [if_neg h, hb]
      exact ih

/-- Putting a command that the state holds. -/
theorem State.cmd?_setCmd (s : State) (c : Cmd) (h : (s.cmd? c.id).isSome) : (s.setCmd c).cmd? c.id = some c := by
  unfold State.setCmd
  unfold State.cmd? at *
  simp only
  revert h
  induction s.cmds with
  | nil => intro h; simp at h
  | cons d t ih =>
    intro h
    rw [List.map_cons, List.find?_cons]
    rw [List.find?_cons] at h
    by_cases hd : d.id = c.id
    · simp [hd]
    · have hb : (d.id == c.id) = false := beq_eq_false_iff_ne.mpr hd
      rw [if_neg hd, hb]
      rw [hb] at h
      exact ih h

/-- The commands of a choice of states. -/
theorem State.cmds_ite (c : Prop) [Decidable c] (a b : State) : (if c then a else b).cmds = if c then a.cmds else b.cmds := by
  split <;> rfl

/-- The commands of a choice of states that have the same. -/
theorem State.cmds_of_ite {c : Prop} [Decidable c] {a b : State} {l : List Cmd} (ha : a.cmds = l) (hb : b.cmds = l) :
    (if c then a else b).cmds = l := by
  split <;> assumption

/-- The commands where the error records change. -/
theorem State.cmds_errs (s : State) (e : Errs) : ({ s with errs := e } : State).cmds = s.cmds := rfl

/-- A write of memory changes no command. -/
theorem State.cmds_memWrite (s : State) (sp : Nat) (l : List Host.Cell) : (s.memWrite sp l).cmds = s.cmds := by
  have one : ∀ (u : State) (w : Nat) (m : List Host.Cell), (u.writeWord sp w m).cmds = u.cmds := by
    intro u w m
    unfold State.writeWord
    refine State.cmds_of_ite rfl (State.cmds_of_ite rfl ?_)
    show (u.correct sp w).cmds = u.cmds
    unfold State.correct
    exact State.cmds_of_ite (by rw [State.stick_cmds, State.bump_cmds]) rfl
  have all : ∀ (ws : List Nat) (f : Nat → List Host.Cell) (u : State), (ws.foldl (fun u w => u.writeWord sp w (f w)) u).cmds = u.cmds := by
    intro ws f
    induction ws with
    | nil => exact fun _ => rfl
    | cons w r ih => exact fun u => (ih _).trans (one u w (f w))
  unfold State.memWrite
  dsimp only
  rw [all]
  exact State.cmds_of_ite rfl rfl

/-- Writing a trace record changes no command. -/
theorem State.cmds_tracePut (s : State) (r : List (BitVec 8)) : (s.tracePut r).cmds = s.cmds := by
  unfold State.tracePut
  rw [State.cmds_ite, State.bump_cmds, ite_self, State.set_cmds, State.cmds_memWrite]

/-- A vector changes no command. -/
theorem State.cmds_msix (s : State) (fn v : Nat) : (s.msix fn v).cmds = s.cmds := by
  unfold State.msix
  rw [State.cmds_ite, State.cmds_ite, State.cmds_ite, State.out_cmds, ite_self, ite_self, ite_self]

/-- A device-wide vector changes no command. -/
theorem State.cmds_irq (s : State) (v : Nat) : (s.irq v).cmds = s.cmds := by
  unfold State.irq
  rw [State.cmds_ite, State.cmds_msix, ite_self]

/-- A lost trace event changes no command. -/
theorem State.cmds_traceDrop (s : State) : s.traceDrop.cmds = s.cmds := by
  unfold State.traceDrop State.stickIrq
  rw [State.cmds_irq, State.stick_cmds, State.bump_cmds]

/-- An OVERFLOW record changes no command. -/
theorem State.cmds_traceOverflow (s : State) : s.traceOverflow.cmds = s.cmds :=
  (State.cmds_errs _ _).trans (State.cmds_tracePut _ _)

/-- An event that the filters let through changes no command. -/
theorem State.cmds_traceEvent (s : State) (r : List (BitVec 8)) : (s.traceEvent r).cmds = s.cmds := by
  unfold State.traceEvent
  exact State.cmds_of_ite (State.cmds_traceDrop s) (State.cmds_of_ite (State.cmds_tracePut s r)
    (State.cmds_of_ite ((State.cmds_traceDrop _).trans (State.cmds_traceOverflow s)) ((State.cmds_tracePut _ r).trans (State.cmds_traceOverflow s))))

/-- A trace event changes no command. -/
theorem State.cmds_trace (s : State) (a b c d : Nat) (l : List (BitVec 8)) : (s.trace a b c d l).cmds = s.cmds := by
  unfold State.trace
  exact State.cmds_of_ite rfl (State.cmds_of_ite rfl (State.cmds_traceEvent s _))

/-- The commands after one is added. -/
theorem State.cmds_addCmd (s : State) (c : Cmd) : (s.addCmd c).cmds = s.cmds ++ [c] := by
  unfold State.addCmd State.traceDecode
  cases c.node with
  | some n => rfl
  | none =>
    simp only [State.cmds_ite, State.cmds_trace, State.setQueue_cmds, ite_self]

/-- A row's command is the one decoded. -/
theorem State.cmd?_rowDecoded (s : State) (t q op : Nat) (p : List (BitVec 8)) (h : (s.cmd? s.nextId).isNone) :
    (s.rowDecoded t q op p).cmd? s.nextId = some (s.freshCmd t q (rowPacket op p) none) := by
  unfold State.rowDecoded State.cmd? at *
  rw [State.cmds_addCmd, List.find?_append]
  rw [Option.isNone_iff_eq_none] at h
  rw [h]
  simp [State.freshCmd]

/-- Joining a locked sequence changes a command in its sequence alone. -/
theorem State.cmd?_seqJoin (s : State) (id : Nat) (c : Cmd) (h : s.cmd? id = some c) :
    ∃ x, (s.seqJoin id).cmd? id = some { c with seqId := x } := by
  unfold State.seqJoin
  simp only [h]
  split
  · refine ⟨some id, ?_⟩
    rw [State.cmd?_modCmd _ _ _ (by intro c; rfl)]
    show Option.map _ (s.cmd? id) = _
    rw [h]; rfl
  · refine ⟨(s.queueSt c.tenant c.queue).openSeq, ?_⟩
    rw [State.cmd?_modCmd _ _ _ (by intro c; rfl), h]; rfl
  · refine ⟨(s.queueSt c.tenant c.queue).openSeq, ?_⟩
    rw [State.cmd?_modCmd _ _ _ (by intro c; rfl)]
    split
    · show Option.map _ (s.cmd? id) = _
      rw [h]; rfl
    · show Option.map _ (s.cmd? id) = _
      rw [h]; rfl
  · exact ⟨c.seqId, h⟩

/-- A start changes a command in its start alone. -/
theorem State.cmd?_markStarted (s : State) (c : Cmd) (h : s.cmd? c.id = some c) :
    (s.markStarted c).cmd? c.id =
      some { c with started := true, startedAt := s.cad.time, startOrder := s.nextOrder, servedAt := s.cad.time } := by
  have e : (s.markStarted c).cmds = (s.setCmd
      { c with started := true, startedAt := s.cad.time, startOrder := s.nextOrder, servedAt := s.cad.time }).cmds := by
    unfold State.markStarted State.openSeq State.modSeq
    simp only [State.cmds_ite, State.cmds_trace, ite_self]
  unfold State.cmd?
  rw [e]
  exact State.cmd?_setCmd s { c with started := true, startedAt := s.cad.time, startOrder := s.nextOrder, servedAt := s.cad.time }
    (by simp [h])

/-- What finding a command says of its id. -/
theorem State.cmd?_id (s : State) (id : Nat) (c : Cmd) (h : s.cmd? id = some c) : c.id = id := by
  have := List.find?_some h
  simpa using this

/-- A front-end row that starts at once is the effect of its command. -/
theorem State.opcode_starts (s : State) (t q op : Nat) (p : List (BitVec 8)) (fails : Bool) (hop : op < 256)
    (hf : isFirmware op = false) (he : isEngineOp op = false) (ha : isAwlOp op = false) (h : s.rowStarts t q op p fails = true) :
    ∃ c, (s.rowStarted t q op p).cmd? s.nextId = some c ∧ c.id = s.nextId ∧ c.tenant = t ∧ c.queue = q ∧ c.pkt = rowPacket op p ∧ c.op = op
      ∧ (op ≠ 0x29 → c.timed = false) ∧ c.node = none ∧ s.opcode t q op p fails = (s.rowStarted t q op p).runFront c := by
  unfold State.rowStarts at h
  simp only [Bool.and_eq_true] at h
  obtain ⟨⟨⟨hp, h1⟩, h2⟩, h3⟩ := h
  have hn : (s.cmd? s.nextId).isNone := by
    unfold State.rowPasses at hp
    simp only [Bool.and_eq_true] at hp
    exact hp.1.1.2
  have hd := s.cmd?_rowDecoded t q op p hn
  simp only [hd, Bool.and_eq_true, Bool.or_eq_true, beq_iff_eq, Option.isNone_iff_eq_none, Bool.not_eq_true'] at h1
  obtain ⟨x, hj⟩ := State.cmd?_seqJoin _ _ _ hd
  have hj' : (s.rowJoined t q op p).cmd? s.nextId = some { s.freshCmd t q (rowPacket op p) none with seqId := x } := hj
  generalize hc : ({ s.freshCmd t q (rowPacket op p) none with seqId := x } : Cmd) = c at *
  have c1 : c.id = s.nextId := by subst hc; rfl
  have c2 : c.tenant = t := by subst hc; rfl
  have c3 : c.queue = q := by subst hc; rfl
  have c4 : c.pkt = rowPacket op p := by subst hc; rfl
  have c5 : c.op = op := by unfold Cmd.op; rw [c4, rowPacket_op op hop]
  have c6 : c.node = none := by subst hc; rfl
  have c7 : c.phase = .front := by subst hc; rfl
  have c8 : op ≠ 0x29 → c.timed = false := by subst hc; exact fun h => h1.2.resolve_right fun e => h e.1
  simp only [hj', Bool.and_eq_true, Option.isNone_iff_eq_none, Bool.not_eq_true'] at h2
  have hs : (s.rowStarted t q op p).cmd? s.nextId = some
      { c with started := true, startedAt := (s.rowJoined t q op p).cad.time, startOrder := (s.rowJoined t q op p).nextOrder,
               servedAt := (s.rowJoined t q op p).cad.time } := by
    have e : s.rowStarted t q op p = (if isFence c.pkt = true then (s.rowJoined t q op p).flushed c.tenant c.queue
        else s.rowJoined t q op p).markStarted c := by
      unfold State.rowStarted
      simp only [hj']
    rw [e, ← c1]
    split
    · exact State.cmd?_markStarted ((s.rowJoined t q op p).flushed c.tenant c.queue) c (by rw [c1]; exact hj')
    · exact State.cmd?_markStarted (s.rowJoined t q op p) c (by rw [c1]; exact hj')
  obtain ⟨d, hd0⟩ : ∃ d : Cmd, d = { c with
      started := true
      startedAt := (s.rowJoined t q op p).cad.time
      startOrder := (s.rowJoined t q op p).nextOrder
      servedAt := (s.rowJoined t q op p).cad.time } := ⟨_, rfl⟩
  rw [← hd0] at hs
  have d1 : d.id = s.nextId := by rw [hd0]; exact c1
  have d2 : d.tenant = t := by rw [hd0]; exact c2
  have d3 : d.queue = q := by rw [hd0]; exact c3
  have d4 : d.pkt = rowPacket op p := by rw [hd0]; exact c4
  have d5 : d.op = op := by unfold Cmd.op; rw [d4, rowPacket_op op hop]
  have d6 : d.node = none := by rw [hd0]; exact c6
  have d7 : d.phase = .front := by rw [hd0]; exact c7
  have d8 : op ≠ 0x29 → d.timed = false := by
    intro h
    rw [← c8 h]
    unfold Cmd.timed Cmd.flags
    rw [c4, d4]
  clear hd0
  refine ⟨d, hs, d1, d2, d3, d4, d5, d8, d6, ?_⟩
  simp only [hs, Bool.not_eq_true'] at h3
  rw [State.opcode_passes s t q op p fails hop hp, hf]
  simp only [Bool.false_eq_true, if_false]
  have hdf : (s.rowDecoded t q op p).decodeFront s.nextId = s.rowDecoded t q op p := by
    have t1 : (s.rowDecoded t q op p).timedCheck (s.freshCmd t q (rowPacket op p) none) = none := by
      rcases h1.2 with h | h
      · unfold State.timedCheck
        simp [h]
      · exact h.2
    have t2 : ((s.freshCmd t q (rowPacket op p) none).timed && (s.freshCmd t q (rowPacket op p) none).op != 0x29) = false := by
      rcases h1.2 with h | h
      · simp [h]
      · have e1 : (s.freshCmd t q (rowPacket op p) none).op = op := by unfold Cmd.op; exact rowPacket_op op hop p
        rw [e1, h.1]
        exact Bool.and_false _
    unfold State.decodeFront
    simp only [hd, h1.1, t1, t2, Bool.false_eq_true, if_false]
  have hop14 : ¬ op = 0x14 := by rintro rfl; exact absurd he (by decide)
  have hph : (s.freshCmd t q (rowPacket op p) none).phase = .front := rfl
  have hnd : (s.freshCmd t q (rowPacket op p) none).node = none := rfl
  unfold State.decodeFast State.joinStart
  simp only [hop14, he, ha, if_false, Bool.false_eq_true, hdf, hd, hph, hnd, Option.isNone_none, if_true]
  have hj2 : ((s.rowDecoded t q op p).seqJoin s.nextId).cmd? s.nextId = some c := hj'
  have b1 : ((s.rowDecoded t q op p).seqJoin s.nextId).seqBroken c = none := h2.1.1
  have b2 : ((s.rowDecoded t q op p).seqJoin s.nextId).mayStart c = true := h2.1.2
  simp only [hj2, b1, b2, if_true, show (Phase.front == Phase.ended) = false from rfl, Bool.false_eq_true, if_false]
  unfold State.startNow
  simp only [hj2]
  have b3 := h2.2
  have hu : s.rowStarted t q op p = (if isFence c.pkt = true then (s.rowJoined t q op p).flushed c.tenant c.queue
      else s.rowJoined t q op p).markStarted c := by
    unfold State.rowStarted
    simp only [hj']
  rw [if_neg]
  · have hu' : ((if isFence c.pkt = true then ((s.rowDecoded t q op p).seqJoin s.nextId).flushed c.tenant c.queue
      else (s.rowDecoded t q op p).seqJoin s.nextId).markStarted c) = s.rowStarted t q op p := hu.symm
    rw [hu', hs]
    simp only [d7]
    rw [h3]
    rfl
  · intro hx
    have : ((isFence c.pkt && (s.rowJoined t q op p).flushFails c.tenant
      ((s.rowJoined t q op p).queueSt c.tenant c.queue).dirty fails)) = true := hx
    rw [this] at b3
    exact absurd b3 (by decide)

/-- A firmware-path row that CF may take is what CF does with it. -/
theorem State.opcode_taken (s : State) (t q op : Nat) (p : List (BitVec 8)) (fails : Bool) (hop : op < 256)
    (hf : isFirmware op = true) (h : s.rowAccepted t q op p fails = true) :
    ∃ c, (s.rowTaken t q op p).cmd? s.nextId = some c ∧ c.id = s.nextId ∧ c.tenant = t ∧ c.queue = q ∧ c.pkt = rowPacket op p ∧ c.op = op
      ∧ s.opcode t q op p fails = (s.rowTaken t q op p).cfRun s.nextId op fails := by
  unfold State.rowAccepted at h
  rw [Bool.and_eq_true, Bool.and_eq_true, Bool.and_eq_true, decide_eq_true_eq, Bool.not_eq_true'] at h
  obtain ⟨⟨⟨hp, hlt⟩, hacc⟩, hfl⟩ := h
  have hn : (s.cmd? s.nextId).isNone := by
    unfold State.rowPasses at hp
    simp only [Bool.and_eq_true] at hp
    exact hp.1.1.2
  have hd := s.cmd?_rowDecoded t q op p hn
  generalize hc0 : s.freshCmd t q (rowPacket op p) none = c0 at hd
  have hlen : ¬ 256 ≤ (s.rowDecoded t q op p).cf.length := by omega
  have hcf : ((s.rowDecoded t q op p).toCf s.nextId).cmd? s.nextId = some { c0 with phase := .atCF } := by
    unfold State.toCf
    rw [if_neg hlen]
    show (State.modCmd _ _ _).cmd? s.nextId = _
    rw [State.cmd?_modCmd _ _ _ (by intro c; rfl)]
    show Option.map _ ((s.rowDecoded t q op p).cmd? s.nextId) = _
    rw [hd]; rfl
  generalize hd1 : (s.rowDecoded t q op p).toCf s.nextId = d at hcf hacc hfl
  have hx : (if isFence (rowPacket op p) = true then d.flushed t q else d).cmd? s.nextId = some { c0 with phase := .atCF } := by
    split <;> exact hcf
  have ht : ∃ n, (s.rowTaken t q op p).cmd? s.nextId = some { c0 with phase := .running, started := true, startedAt := n } := by
    refine ⟨(if isFence (rowPacket op p) = true then d.flushed t q else d).cad.time, ?_⟩
    unfold State.rowTaken
    rw [hd1, State.cmd?_modCmd _ _ _ (by intro c; rfl)]
    show Option.map _ ((if isFence (rowPacket op p) = true then d.flushed t q else d).cmd? s.nextId) = _
    rw [hx]; rfl
  obtain ⟨n, ht⟩ := ht
  have c4 : c0.pkt = rowPacket op p := by subst hc0; rfl
  have c5 : pOp c0.pkt = op := by rw [c4, rowPacket_op op hop]
  have c6 : c0.tenant = t := by subst hc0; rfl
  have c7 : c0.queue = q := by subst hc0; rfl
  refine ⟨_, ht, by subst hc0; rfl, c6, c7, c4, c5, ?_⟩
  rw [State.opcode_passes s t q op p fails hop hp, hf]
  simp only [if_true, hd1, hacc]
  unfold State.cfAccept
  rw [hcf]
  simp only [c4, c6, c7, hfl, Bool.false_eq_true, if_false]
  have e : State.cfStart (if isFence (rowPacket op p) = true then d.flushed t q else d) s.nextId fails =
      match (s.rowTaken t q op p).cmd? s.nextId with
      | none => s.rowTaken t q op p
      | some c => (s.rowTaken t q op p).cfRun s.nextId c.op fails := by
    unfold State.cfStart State.rowTaken
    subst hd1
    rfl
  rw [e, ht]
  simp only [Cmd.op, c5]

end Sys2Proof.Machine
end

