-- ==== Sys2Proof/Machine/Package.lean ====
section
/-! DEFINITION. The package of chapter 20: the ball grid, the balls of the lanes, the state of the pins while POR_N is low, and
the lid's marking (R528, R530 to R532, R551). -/
namespace Sys2Proof.Machine

/-- A ball: row index 1 to 69 (A to CM) and column 1 to 69. -/
structure Ball where
  row : Nat
  col : Nat
  deriving DecidableEq, Repr

/-- The 19 row letters: A to Z without I, O, Q, R, S, X and Z (R528). -/
def rowLetters : List Char := ['A', 'B', 'C', 'D', 'E', 'F', 'G', 'H', 'J', 'K', 'L', 'M', 'N', 'P', 'T', 'U', 'V', 'W', 'Y']

/-- Letters of a row index: one letter up to 19, then two, index 19 × x + y (R528). -/
def rowName (i : Nat) : List Char :=
  if i ≤ 19 then (rowLetters[i - 1]?).toList
  else (rowLetters[(i - 1) / 19 - 1]?).toList ++ (rowLetters[(i - 1) % 19]?).toList

/-- Index of a row's letters. -/
def rowIndex (l : List Char) : Nat := l.foldl (fun n c => 19 * n + (rowLetters.idxOf c + 1)) 0

/-- The position carries a ball: on the 69 × 69 grid and outside the keep-out of rows AN to AY and columns 32 to 38 (R528). -/
def Ball.present (b : Ball) : Bool :=
  decide (1 ≤ b.row) && decide (b.row ≤ 69) && decide (1 ≤ b.col) && decide (b.col ≤ 69)
    && !(decide (rowIndex ['A', 'N'] ≤ b.row) && decide (b.row ≤ rowIndex ['A', 'Y']) && decide (32 ≤ b.col) && decide (b.col ≤ 38))

/-- Balls of a differential lane, positive then negative. -/
def lanePair (row col : Nat) : Ball × Ball := (⟨row, col⟩, ⟨row, col + 1⟩)

/-- Rein lane `l` of port `p`, TX or RX (R530): ports 0 to 5 along the top edge, 6 to 11 along the bottom edge. -/
def reinBalls (p l : Nat) (rx : Bool) : Ball × Ball :=
  let k := 2 * (if rx then 1 else 0) + l / 4
  let top := [['B'], ['D'], ['F'], ['H']]
  let bottom := [['C', 'L'], ['C', 'J'], ['C', 'G'], ['C', 'E']]
  lanePair (rowIndex (((if p < 6 then top else bottom)[k]?).getD [])) (2 + 11 * (p % 6) + 3 * (l % 4))

/-- Rows of the 16 HP lanes, which AP lanes share (R531). -/
def hostRows : List (List Char) :=
  [['J'], ['K'], ['L'], ['M'], ['N'], ['P'], ['T'], ['U'], ['V'], ['W'], ['Y'], ['A', 'A'], ['A', 'B'], ['A', 'C'], ['A', 'D'], ['A', 'E']]

/-- HP lane `l`, TX or RX (R531). -/
def hpBalls (l : Nat) (rx : Bool) : Ball × Ball := lanePair (rowIndex ((hostRows[l]?).getD [])) (if rx then 6 else 2)

/-- AP lane `l`, TX or RX (R531). -/
def apBalls (l : Nat) (rx : Bool) : Ball × Ball := lanePair (rowIndex ((hostRows[l]?).getD [])) (if rx then 67 else 63)

/-- ETH lane `l` of port `p`, TX or RX (R531). -/
def ethBalls (p l : Nat) (rx : Bool) : Ball × Ball :=
  let rows := if p = 0 then [['A', 'F'], ['A', 'G'], ['A', 'H'], ['A', 'J']] else [['B', 'A'], ['B', 'B'], ['B', 'C'], ['B', 'D']]
  lanePair (rowIndex ((rows[l]?).getD [])) (if rx then 6 else 2)

/-- The LP lane, TX or RX (R531). -/
def lpBalls (rx : Bool) : Ball × Ball := lanePair (rowIndex (if rx then ['B', 'J'] else ['B', 'G'])) 2

/-- The AP link a lane belongs to under TEN_AP.BIF: 0 is 1 × x16, 1 is 2 × x8, 2 is 4 × x4 (R393, R531). -/
def apLinkOf (mode l : Nat) : Nat := match mode with | 0 => 0 | 1 => l / 8 | _ => l / 4

/-- What a pin shows. -/
inductive PinState where
  | undriven | released | low | high
  deriving DecidableEq, Repr

/-- The output pins of Table 20.3. -/
inductive Pin where
  | apRefclk | wakeN | ppsOut | tickOut | i3c | qspiClk | qspiCsN | qspiIo | tdo | apPerstN
  deriving DecidableEq, Repr

/-- The state of an output pin while POR_N is low (R532). -/
def Pin.atPor : Pin → PinState
  | .apRefclk | .qspiIo | .tdo => .undriven
  | .wakeN | .i3c => .released
  | .ppsOut | .tickOut | .qspiClk | .apPerstN => .low
  | .qspiCsN => .high

/-- A hexadecimal digit. -/
def hexDigit (n : Nat) : Char := (['0', '1', '2', '3', '4', '5', '6', '7', '8', '9', 'A', 'B', 'C', 'D', 'E', 'F'][n]?).getD '0'

/-- The text of the lid's symbol: REI_SERIAL as 16 hexadecimal digits (R551). -/
def lidSymbol (serial : Nat) : List Char := (List.range 16).map fun k => hexDigit (serial / 16 ^ (15 - k) % 16)

/-- Line 2 of the lid and the ordering code of a variant of GLB_ID.VARIANT (R550, R551). -/
def orderingCode (variant : Nat) : String := if variant = 0x16 then "GSM-4180-16C-B0-T" else "GSM-4180-14E-B0-T"

end Sys2Proof.Machine
end

