-- ==== Sys2Proof/WellFormed.lean ====
section
/-! DEFINITION. Well-formed commands: operands within the ranges their tables give, where their types do not say so already. The
meanings are total: they read an ill-formed operand by its low bits, as the hardware would its wires. -/
namespace Sys2Proof

/-- A packet of an opcode: byte 0 is the opcode, and the packet has the 1 to 4 slots of 64 bytes that its LEN names (Table 6.1). -/
def wfPacket (op : Nat) (p : List Byte) : Bool :=
  (p.getD 0 0).toNat == op && p.length == 64 * ((p.getD 1 0).toNat % 4 + 1)

/-- A Rein message: its fields fit the header of Table 12.4, and its data the 4,096 bytes of 16 DATA flits (R337). -/
def wfMsg (m : Msg) : Bool :=
  decide (m.vc < 4) && decide (m.mop < 256) && decide (m.src < 64) && decide (m.dest < 64) && decide (m.tenant < 16)
    && decide (m.eseq < 65536) && decide (m.epoch < 65536) && decide (m.da < 2 ^ 64) && decide (m.operand < 2 ^ 64)
    && decide (m.data.length ≤ 4096)

/-- An Ethernet frame has its header and is no longer than the largest MTU (Table 13.9). -/
def wfFrame (f : List Byte) : Bool := decide (14 ≤ f.length) && decide (f.length ≤ 9216)

/-- A request at an arbiter has a rank of Table 9.2 and a virtual channel of Table 12.3. -/
def wfReq (r : ArbReq) : Bool := decide (1 ≤ r.rank) && decide (r.rank ≤ 3) && decide (r.vc < 4)

/-- A debugger names one of the six cores, or a 64-bit device address. -/
def wfDbg : DbgOp → Bool
  | .halt c => decide (c < 6)
  | .resume c => decide (c < 6)
  | .step c => decide (c < 6)
  | .coreRead c _ => decide (c < 6)
  | .coreWrite c _ v => decide (c < 6) && decide (v < 2 ^ 64)
  | .read da n => decide (da < 2 ^ 64) && decide (n ≤ 4096)
  | .write da b => decide (da < 2 ^ 64) && decide (b.length ≤ 4096)

/-- A command is well formed. -/
def Instr.wf (i : Instr) : Bool :=
  match i with
  | .registerWrite _ off _ hi _ _ => off.toNat % (if hi.isSome then 8 else 4) == 0
  | .invalidRegisterAccess _ _ _ _ _ _ => true
  | .rcRead _ off wide _ => off.toNat % (if wide then 8 else 4) == 0
  | .stickyFlagClear _ off _ _ _ => off.toNat % 4 == 0
  | .cadTimeLoRead _ => true
  | .cadenceEnable => true
  | .cadenceDisable => true
  | .switchArm => true
  | .setTime => true
  | .acceptSrc => true
  | .tickEdge _ => true
  | .tickOutFall => true
  | .ppsOutRise => true
  | .ppsOutFall => true
  | .ppsInEdge at_ => decide (at_ < 2 ^ 64)
  | .ppsInTimeout => true
  | .ptpMessage _ m => decide (m.kind < 16) && decide (m.rx < 2 ^ 64)
  | .ptpSourceLost _ => true
  | .holdoverRecord _ _ => true
  | .rackTimeStore => true
  | .joinHoldRelease => true
  | .masterLoss => true
  | .timedLaunch _ => true
  | .scrubStep => true
  | .hbmScrubStep => true
  | .hbmReady => true
  | .wcResize _ => true
  | .wcResizeComplete => true
  | .wcPinEnable _ _ => true
  | .wcFillComplete line _ => decide (line < 37748736)
  | .facetRegisterWrite _ _ _ => true
  | .bar2Read off n _ => decide (off.toNat + n.val ≤ 2 ^ 30)
  | .bar2Write off data _ _ => decide (data.length ≤ 4096) && decide (off.toNat + data.length ≤ 2 ^ 30)
  | .nop _ _ p => wfPacket 0x00 p
  | .fence _ _ p _ => wfPacket 0x01 p
  | .hello _ _ p => wfPacket 0x02 p
  | .winCreate _ _ p => wfPacket 0x08 p
  | .winRevoke _ _ p => wfPacket 0x09 p
  | .winDestroy _ _ p => wfPacket 0x0A p
  | .windowDrainComplete _ => true
  | .descCreate _ _ p _ => wfPacket 0x0C p
  | .winQueryTimeout _ => true
  | .descDestroy _ _ p => wfPacket 0x0D p
  | .move _ _ p _ => wfPacket 0x10 p
  | .movePlain _ _ p _ => wfPacket 0x11 p
  | .gatherPages _ _ p _ => wfPacket 0x12 p
  | .scatterPages _ _ p _ => wfPacket 0x13 p
  | .chain _ _ p _ => wfPacket 0x14 p
  | .metadataReadComplete _ _ => true
  | .shortWrite _ _ p _ => wfPacket 0x18 p
  | .shortCopy _ _ p _ => wfPacket 0x19 p
  | .awlOperation _ => true
  | .signal _ _ p _ => wfPacket 0x20 p
  | .wait _ _ p _ => wfPacket 0x21 p
  | .waitTimeout _ => true
  | .barrierArrive _ _ p _ => wfPacket 0x22 p
  | .barrierWaitTimeout _ => true
  | .lockAcquire _ _ p _ => wfPacket 0x23 p
  | .lockRelease _ _ p _ => wfPacket 0x24 p
  | .lockAcquireTimeout _ => true
  | .lockWaitExpiry _ l => decide (l < 256)
  | .lockBackoffExpiry _ => true
  | .lockReap _ l => decide (l < 256)
  | .flagSet _ _ p _ => wfPacket 0x25 p
  | .flagClear _ _ p _ => wfPacket 0x26 p
  | .ring _ _ p _ => wfPacket 0x27 p
  | .graphLoad _ _ p _ => wfPacket 0x28 p
  | .graphLaunch _ _ p _ => wfPacket 0x29 p
  | .graphRelease _ _ => true
  | .graphUnload _ _ p => wfPacket 0x2A p
  | .pwrRequest _ _ p => wfPacket 0x30 p
  | .calRun _ _ p => wfPacket 0x34 p
  | .calRunComplete _ _ _ => true
  | .calSave _ _ p => wfPacket 0x35 p
  | .restoreFactory _ _ p => wfPacket 0x36 p
  | .attestQuote _ _ p _ => wfPacket 0x38 p
  | .fwBegin _ _ p => wfPacket 0x3C p
  | .fwData _ _ p _ => wfPacket 0x3D p
  | .fwCommit _ _ p => wfPacket 0x3E p
  | .fwAbort _ _ p => wfPacket 0x3F p
  | .safeConfig _ _ p _ => wfPacket 0x40 p
  | .safeHeartbeat _ _ p _ => wfPacket 0x41 p
  | .queueEnable _ _ => true
  | .queueDisable _ _ => true
  | .queueResume _ _ => true
  | .queueWinWrite _ _ _ => true
  | .cqEnable _ => true
  | .cqDisable _ => true
  | .cqResume _ => true
  | .cqWinWrite _ _ => true
  | .doorbell _ _ _ => true
  | .cqDoorbell _ _ => true
  | .cmqStopWrite _ => true
  | .queueFetch _ _ _ => true
  | .queueFetchFail _ _ => true
  | .packetDecode _ _ _ => true
  | .deferredDispatch _ => true
  | .cfWorkStart _ => true
  | .planComputeComplete => true
  | .priPartWrite _ _ => true
  | .priInval _ => true
  | .commandStart _ _ => true
  | .commandActivate _ => true
  | .engineChunkDecision _ _ _ => true
  | .starveTimeout _ => true
  | .sigAfterSend _ => true
  | .commandComplete _ => true
  | .irqModerationTimer _ => true
  | .engineReset _ => true
  | .engineResetComplete _ _ => true
  | .engineOffline _ _ => true
  | .engSpartWrite _ _ => true
  | .arbiterDecision _ _ reqs => reqs.all wfReq
  | .lockedBoundExpiry _ _ _ => true
  | .counterSet _ i _ => decide (i < 16384)
  | .counterAdd _ i _ => decide (i < 16384)
  | .counterSub _ i _ => decide (i < 16384)
  | .barrierEnable _ b a => decide (b < 1024) && decide (a < 16384)
  | .barrierDisable _ b a => decide (b < 1024) && decide (a < 16384)
  | .synPartitionWrite _ _ _ => true
  | .evfSetWrite _ _ _ _ => true
  | .evfClrWrite _ _ _ _ => true
  | .nodeDispatch => true
  | .heldSetApply _ => true
  | .nodeTimeout _ _ i => decide (i < 65536)
  | .schPartWrite _ _ => true
  | .portEnable _ _ => true
  | .trainingStateAdvance _ _ => true
  | .paramExchange _ _ _ _ _ _ => true
  | .downRetry _ => true
  | .retrainTrigger _ => true
  | .retrainAttemptEnd _ _ _ => true
  | .flitReceive _ b => b.length == 272
  | .nakReceived _ _ => true
  | .idleFlitSend _ => true
  | .readReq _ m => wfMsg m
  | .winQuery m => wfMsg m
  | .lockReq _ m => wfMsg m
  | .write _ m => wfMsg m
  | .reinSignal _ m => wfMsg m
  | .barArrive _ m => wfMsg m
  | .phaseDone _ m => wfMsg m
  | .reinLockRelease _ m => wfMsg m
  | .epochOpen _ m => wfMsg m
  | .staleNotice _ m => wfMsg m
  | .readCpl m => wfMsg m
  | .winAnswer m => wfMsg m
  | .lockGrant m => wfMsg m
  | .lockBusy m => wfMsg m
  | .barAck m => wfMsg m
  | .e2eAck m => wfMsg m
  | .e2eAckTimer _ => true
  | .refuse m => wfMsg m
  | .pathLost m => wfMsg m
  | .gapNak m => wfMsg m
  | .e2eTimeout _ => true
  | .requestTimeout tag => decide (tag < 65536)
  | .domain _ m => wfMsg m
  | .domainAnnounce => true
  | .timeExchangeStart _ => true
  | .timeSync _ => true
  | .timeFollow _ _ => true
  | .timeDreq _ => true
  | .timeDresp _ _ => true
  | .upstreamReselect => true
  | .config _ m => wfMsg m
  | .configSend => true
  | .girthRequestTimer => true
  | .girthReq _ m => wfMsg m
  | .girthGrant m => wfMsg m
  | .girthRet m => wfMsg m
  | .leaseExpiry => true
  | .masterGraceEnd => true
  | .routingEntryWrite _ _ _ _ => true
  | .ethFrameReceive _ f => wfFrame f
  | .pfcRepeat _ => true
  | .datagramLanding _ => true
  | .arpRequest _ f => wfFrame f
  | .neighbourSolicitation _ f => wfFrame f
  | .mkaFrame _ f => wfFrame f
  | .mkaRekey _ _ => true
  | .saInstall _ _ _ => true
  | .camInsert => true
  | .camDelete => true
  | .camRead => true
  | .steeringRuleWrite _ _ _ => true
  | .ethLinkChange _ _ => true
  | .hostWindowWrite _ _ _ _ => true
  | .p2pWindowWrite _ _ _ => true
  | .apertureWrite _ _ _ => true
  | .apcfgMailbox _ _ => true
  | .apInboundRequest _ _ n read data _ _ => read || data.length == n.val
  | .apPerstAssert _ => true
  | .configRequest _ _ _ => true
  | .flr _ => true
  | .vfEnableClear => true
  | .hostReset _ => true
  | .busMasterEnableClear _ => true
  | .atsInvalidate _ _ _ _ => true
  | .pmeTurnOff => true
  | .contextReset _ => true
  | .contextResetComplete _ _ => true
  | .brdRegionWrite _ _ _ _ => true
  | .brdSync => true
  | .brdSyncComplete _ => true
  | .summaryEvaluate => true
  | .mirrorWindowExpiry _ => true
  | .gatedVerdict _ => true
  | .watcherExpiry _ => true
  | .patternHoldExpiry _ => true
  | .tripwireRecord => true
  | .safeEnable _ => true
  | .faultClear _ => true
  | .alarmClear _ => true
  | .lpeReset _ => true
  | .lockstepMismatch => true
  | .loupeClockFault => true
  | .loupeException _ _ => true
  | .lfWatchdogExpiry => true
  | .loupeSramUe => true
  | .loupeRestartComplete _ => true
  | .lpStatusFrame => true
  | .lpFrameReceived frame => wfFrame frame
  | .eventRingFlush => true
  | .keyInstall _ _ => true
  | .keyErase _ => true
  | .lpKey _ => true
  | .credInstall _ => true
  | .credRevoke _ => true
  | .authSet _ _ => true
  | .lcAdvance _ => true
  | .dbgToken _ _ => true
  | .d2UnlockComplete => true
  | .svnAdvance => true
  | .credentialEvaluate => true
  | .debugLevelWrite _ _ => true
  | .dbgChal => true
  | .idcode => true
  | .bypass => true
  | .samplePreload _ => true
  | .extest => true
  | .clamp => true
  | .highz => true
  | .dbgTrace _ _ => true
  | .dbgAp op => wfDbg op
  | .debuggerAttach => true
  | .debuggerDetach => true
  | .trstNAssert => true
  | .trcUser _ => true
  | .drainComplete => true
  | .drainTimeout => true
  | .wakeEvent _ => true
  | .wakeTimeReached => true
  | .i3cWake _ => true
  | .stateExitComplete => true
  | .autoHoldEntry => true
  | .autoHoldExit => true
  | .powerSample mw => decide (mw < 2 ^ 24)
  | .thermalSample _ => true
  | .thermalResume => true
  | .i3cCapWrite _ => true
  | .i3cStatusRead => true
  | .i3cCcc _ => true
  | .porNAssert => true
  | .coldBoot _ _ => true
  | .commandReady => true
  | .fwConfirm => true
  | .autoConfirm => true
  | .fwReboot => true
  | .fwRestart _ => true
  | .controlCoreException _ _ _ _ _ => true
  | .controlCoreWatchdog _ => true
  | .pllUnlock => true
  | .safeStateRestart _ _ => true
  | .restartComplete => true
  | .tcxoLoss => true
  | .tcxoReturn => true
  | .sysclkLoss => true
  | .sysclkReturn => true
  | .refclkLoss => true
  | .railUndervoltage => true
  | .vddLpeUndervoltage => true
  | .vddAoLoss => true
  | .testEnHigh => true
  | .ptpTransmitInterval _ _ _ => true
  | .trainingBoundExpiry _ => true
  | .spdmRequest _ _ _ => true
  | .perstNDeassert => true
  | .hpLinkUp _ _ => true
  | .apLinkChange _ _ _ _ => true
  | .apPerstRelease _ => true
  | .vddLpeReturn => true
  | .decommissionComplete => true

end Sys2Proof
end

