-- ==== Sys2Proof/Tests/Slice0.lean ====
section
/-! SUPPORT. Tests: ill-formed terms that `Instr.wf` refuses, states that meet the hypotheses of the statements, and single steps
whose expected values come from the spec. The hypotheses on values of Config without a body (signatures, digests, outside memory, fused
numbers) have no witness here, since nothing evaluates them. -/
namespace Sys2Proof.Tests
open Sys2Proof Sys2Proof.Machine

set_option Elab.async false

/-! ### Small states -/

/-- A running device in S0 with its host link up. The fused words are listed, so that nothing here rests on Config. -/
def base : State := { State.reset with
  regs := [(0, 0x418016B0), (0x280008, 0x11), (0x28000C, 0), (0x400004, 0x06400000)]
  boot := { State.reset.boot with phase := .run }
  pcie := { State.reset.pcie with hpUp := true, perst := false, crs := false }
  lpe := { State.reset.lpe with down := none, lf := true } }

/-- The running device with register fields set. -/
def st (l : List (Fld × Nat)) : State := l.foldl (fun s x => s.set x.1 x.2) base

/-- A state in power state `n`. -/
def inState (n : Nat) (s : State) : State := { s with regs := s.regs.map fun x =>
  if x.1 = 0x400004 then (x.1, BitVec.ofNat 32 (putBits x.2.toNat F.PWR_STATUS_STATE.lo F.PWR_STATUS_STATE.n n)) else x }

/-- A state in a boot phase. -/
def inPhase (p : BootPhase) (s : State) : State := { s with boot := { s.boot with phase := p } }

/-- A packet of 64 bytes, or of its LEN, with some bytes. -/
def pk (l : List (Nat × Nat)) : List Byte := (List.range 256).map fun i => BitVec.ofNat 8 ((l.find? (fun x => x.1 == i)).elim 0 (·.2))

/-- A state whose tenant 0 has negotiated format 3.0. -/
def fmt (l : List (Fld × Nat)) : State := st ([(F.TP_FMT_SET 0, 1), (F.TP_FMT_MAJOR 0, 3)] ++ l)

/-- What a field reads in the next state. -/
def after (r : Result) (f : State → Nat) : Option Nat :=
  match r with
  | .next s => some (f s)
  | _ => none


/-! Parts of a state changed. -/

/-- A state with its time unit changed. -/
def cadW (s : State) (f : Cad → Cad) : State := { s with cad := f s.cad }
/-- A state with its memories changed. -/
def memW (s : State) (f : Mem → Mem) : State := { s with mem := f s.mem }
/-- A state with Rein changed. -/
def reinW (s : State) (f : Rein → Rein) : State := { s with rein := f s.rein }
/-- A state with its PCIe side changed. -/
def pcieW (s : State) (f : Pcie → Pcie) : State := { s with pcie := f s.pcie }
/-- A state with the Loupe changed. -/
def lpeW (s : State) (f : Loupe → Loupe) : State := { s with lpe := f s.lpe }
/-- A state with its boot data changed. -/
def bootW (s : State) (f : Boot → Boot) : State := { s with boot := f s.boot }
/-- A state with its security data changed. -/
def secW (s : State) (f : Sec → Sec) : State := { s with sec := f s.sec }
/-- A state with its power data changed. -/
def pwrW (s : State) (f : Pwr → Pwr) : State := { s with pwr := f s.pwr }
/-- A state with its Ethernet side changed. -/
def ethW (s : State) (f : Eth → Eth) : State := { s with eth := f s.eth }

/-- Command 0 of tenant 0, queue 0, with an opcode and some packet bytes, changed. -/
def cm (op : Nat) (l : List (Nat × Nat)) (f : Cmd → Cmd) : Cmd := f (base.freshCmd 0 0 (rowPacket op (pk l)) none)

/-- A state with one command. -/
def oneCmd (s : State) (c : Cmd) : State := { s with cmds := [c], nextId := 1 }

/-! ### States that meet the hypotheses of the statements -/
theorem witness_EmptyQueueStepPassesANanosecond :
    base.pending = [] ∧ base.cad.joinHold = false ∧ (cadW base fun x => { x with joinHold := true }).cad.joinHold = true := by decide +kernel

theorem witness_StepKeepsTheCanonicalForms :
    State.reset.inv = true ∧ after (step State.reset) (fun t => t.cad.time) = some 1 := by decide +kernel

/-- A word of ARB, an unmapped word, a page of another tenant, and a locked RWL word in DEPLOYED. -/
theorem witness_RegisterWriteHasItsEffect :
    (base.hostReaches 0 false = true ∧ base.regHeld 0 0x180000 = false ∧ fnAddr 0 0x180000 = some 0x180000) ∧
    ((base.word 0x180000).isSome = true ∧ base.rwlLocked 0x180000 = false ∧ 0x180000 / 0x40000 = 6) ∧
    (base.hostReaches 0 true = true ∧ fnAddr 0 0x4C0000 = some 0x4C0000 ∧ base.word 0x4C0000 = none) ∧
    (fnAddr 0 0x1100014 = some 0x1100014 ∧ (base.word 0x1100014).isSome = true ∧ (0x1100014 - 0x1000000) / 0x100000 ≠ 0) ∧
    ((pcieW base fun x => { x with ctxRst := [(0, false)] }).hostReaches 0 false = true ∧ (pcieW base fun x => { x with ctxRst := [(0, false)] }).ctxBusy 0 = true) ∧
    (fnAddr 0 0x1000014 = some 0x1000014 ∧ (base.word 0x1000014).isSome = true ∧ base.ctxBusy 0 = false) ∧
    ((st [(F.SEC_LC_STATE, 2)]).rwlLocked 0x380018 = true ∧ ((st [(F.SEC_LC_STATE, 2)]).word 0x380018).isSome = true) ∧
    ((st [(F.TEN_ACTIVE, 2)]).hostReaches 0 true = true ∧ fnAddr 1 0x100000 = none) ∧
    (base.pcie.hpUp = true ∧ base.fnPresent 0 = true ∧ (st [(F.TEN_HP_IDE_REQ, 1)]).on F.TEN_HP_IDE_REQ = true) ∧
    ((inPhase .restart base).hostReaches 0 false = true ∧ (inPhase .restart base).regHeld 0 0x180000 = true) ∧
    (pairAtOnce 0x180000 = false ∧ fnAddr 0 0x240018 = some 0x240018 ∧ base.regHeld 0 0x240018 = false ∧ base.regHeld 0 0x240030 = false) ∧
    (base.on F.CAD_STATUS_MASTER = false ∧ (st [(F.CAD_STATUS_MASTER, 1)]).on F.CAD_STATUS_MASTER = true ∧ base.on F.CAD_CTRL_EN = false) ∧
    (st [(F.CAD_CTRL_EN, 1)]).on F.CAD_CTRL_EN = true := by decide +kernel

theorem witness_ReadsAnswerAndInvalidAccessesSetAccess :
    (base.blockOpen = true ∧ (inPhase .restart base).blockOpen = false ∧ base.hostReaches 0 false = true ∧ base.regHeld 0 0x180000 = false) ∧
    (base.word 0x180000 = some ((base.word 0x180000).getD 0) ∧ ownerOf 0x180000 = 0 ∧ ownerOf 0x1100014 ≠ 0 ∧ (base.word 0x1100014).isSome = true ∧ base.word 0x4C0000 = none) ∧
    ((inPhase .restart base).hostReaches 0 false = true ∧ (inPhase .restart base).regHeld 0 0x180000 = true ∧ (inPhase .restart base).regHeld 0 0x180002 = true ∧ accessOk 0x180002 4 = false) ∧
    (fnAddr 0 0x24000C = some 0x24000C ∧ kvFind (cadW base fun x => { x with latches := [(0, 7)] }).cad.latches 0 = some 7 ∧ fnAddr 1 0x100000 = none) ∧
    (fnAddr 0 0x481000 = some 0x481000 ∧ (base.word 0x481000).isSome = true ∧ base.get F.PWR_STATUS_STATE = 0 ∧ (inState 2 base).get F.PWR_STATUS_STATE = 2) ∧
    (fnAddr 0 0x80004 = some 0x80004 ∧ fnAddr 0 0x400024 = some 0x400024 ∧ (base.word 0x80004).isSome = true ∧ (base.word 0x400024).isSome = true) ∧
    (fnAddr 0 0x240008 = some 0x240008 ∧ base.regHeld 0 0x240008 = false) ∧
    (base.pcie.hpUp = true ∧ base.fnPresent 0 = true ∧ (st [(F.TEN_HP_IDE_REQ, 1)]).on F.TEN_HP_IDE_REQ = true) ∧
    (accessOk 2 4 = false ∧ accessOk 0x180000 2 = false ∧ accessOk 0x180000 4 = true ∧ accessOk 0x180000 8 = true) := by decide +kernel

theorem witness_FlagsCountAndSetsWinOverClears :
    (F.GLB_ERR_ACCESS.n = 1 ∧ F.GLB_ERR_ACCESS.lo + 16 ≤ 32 ∧ F.GLB_ERR_LOCKED.lo + 16 = 32) ∧
    (base.hostReaches 0 false = true ∧ base.regHeld 0 0x10 = false ∧ fnAddr 0 0x10 = some 0x10 ∧ (base.word 0x10).isSome = true) ∧
    base.rwlLocked 0x10 = false ∧ (∃ r ∈ rowsAt 0x10, r.acc = Access.w1c ∧ r.n = 1 ∧ r.lo + 16 ≤ 32 ∧ bit 1 r.lo = true) ∧
    (∀ r ∈ rowsAt 0x10, ∀ x ∈ rowsAt 0x10, x.acc = Access.w1c → r.acc = Access.w1c → x.lo = r.lo ∨ (x.lo + 16 ≤ 32 ∧ (x.lo + 16 ≤ r.lo ∨ r.lo + 16 ≤ x.lo))) := by decide +kernel

/-- The last counter of a share of 64, with its third flag; and a word of GLB. -/
theorem witness_FlagClearZeroesFlagAndCount :
    (∃ r ∈ rowsAt 0x10, r.acc = Access.w1c ∧ bit 1 r.lo = true) ∧
    ((st [(F.SYN_PART_COUNT 0, 1)]).poolCnt 0 63 = some 63 ∧ bit 0x4000000 26 = true ∧ (st [(F.SYN_PART_COUNT 0, 1)]).poolCnt 0 64 = none) ∧
    (accMask (fun x => x == Access.w1c) 0x10 ≠ 0 ∧ base.regEffect 0x10 1 = base.regPlain 0x10 1 ∧ fieldsInRange 0x10 1 = true) ∧
    (base.hostReaches 0 false = true ∧ base.regHeld 0 0x10 = false ∧ (base.word 0x10).isSome = true ∧ base.rwlLocked 0x10 = false) := by decide +kernel

/-- 32 + 16 + 16 is the split of 64; 33 + 16 + 16 is refused. -/
theorem witness_EngineSharesSumTo64 :
    (base.hostReaches 0 false = true ∧ base.regHeld 0 0x140004 = false) ∧ bitsOf 0x101020 0 7 + bitsOf 0x101020 8 7 + bitsOf 0x101020 16 7 = 64 ∧
    bitsOf 0x101021 0 7 + bitsOf 0x101021 8 7 + bitsOf 0x101021 16 7 ≠ 64 := by decide +kernel

/-- Periods at both ends of 100 µs to 1 s, and beside them. -/
theorem witness_CadenceAndTimeControlFollowTheirConditions :
    (base.blockOpen = true ∧ base.on F.CAD_CTRL_EN = false ∧ (inPhase .restart base).blockOpen = false) ∧
    ((st [(F.CAD_STATUS_MASTER, 1), (F.CAD_PERIOD, 100000)]).period = 100000 ∧ (st [(F.CAD_STATUS_MASTER, 1), (F.CAD_PERIOD, 1000000000)]).period = 1000000000) ∧
    ((st [(F.CAD_STATUS_MASTER, 1)]).on F.CAD_STATUS_MASTER = true ∧ base.epoch ≤ base.cad.time ∧ base.on F.CAD_STATUS_SWITCH_PENDING = false) ∧
    ((st [(F.CAD_PERIOD, 99999)]).period < 100000 ∧ 1000000000 < (st [(F.CAD_PERIOD, 1000000001)]).period) ∧
    base.cad.time < (st [(F.CAD_EPOCH_LO, 1)]).epoch ∧
    ((st [(F.CAD_CTRL_EN, 1), (F.CAD_STATUS_MASTER, 1)]).on F.CAD_CTRL_EN = true ∧ (st [(F.CAD_CTRL_EN, 1)]).on F.CAD_STATUS_MASTER = false) ∧
    base.tick + base.get F.CAD_FIT_HORIZON < (st [(F.CAD_SWITCH_TICK_LO, 5)]).switchReg ∧
    ((st [(F.CAD_SWITCH_TICK_LO, 4)]).switchReg ≤ base.tick + base.get F.CAD_FIT_HORIZON ∧ 100000 ≤ base.get F.CAD_NEXT_PERIOD ∧ base.get F.CAD_NEXT_PERIOD ≤ 1000000000) ∧
    (base.cad.time ≤ base.get64 F.CAD_TIME_SET_LO ∧ base.get64 F.CAD_TIME_SET_LO < (cadW base fun x => { x with time := 1 }).cad.time) ∧
    (base.sources = [] ∧ ¬(1 ≤ base.get F.CAD_STATUS_SOURCE ∧ base.get F.CAD_STATUS_SOURCE ≤ 4)) ∧
    (cadW base fun x => { x with ptp := [⟨true, [6], 0, 0, 0, 0, 0, 0, 0, 0, none⟩] }).sources = [(1, 0)] ∧
    (st [(F.CAD_STATUS_SOURCE, 1)]).get F.CAD_STATUS_SOURCE = 1 := by decide +kernel

theorem witness_TickEdgesAndPulsesFollowRackTime :
    ((st [(F.CAD_CTRL_EN, 1)]).on F.CAD_CTRL_EN = true ∧ base.cad.joinHold = false ∧ base.tick + 1 < 2 ^ 48 ∧ base.on F.CAD_CTRL_EN = false) ∧
    ((cadW base fun x => { x with joinHold := true }).cad.joinHold = true ∧ base.on F.CAD_STATUS_SWITCH_PENDING = false) ∧
    ((st [(F.CAD_STATUS_SWITCH_PENDING, 1)]).on F.CAD_STATUS_SWITCH_PENDING = true ∧ (cadW base fun x => { x with swTick := 1, swPeriod := 100000 }).cad.swTick = base.tick + 1) ∧
    (st [(F.CAD_CTRL_EN, 1), (F.CAD_TICK_LO, 0xFFFFFFFF), (F.CAD_TICK_HI, 0xFFFF)]).tick = 2 ^ 48 - 1 ∧
    ((st [(F.CAD_TICK_OUT_OE, 1)]).on F.CAD_TICK_OUT_OE = true ∧ (st [(F.CAD_TICK_OUT_OE, 0)]).on F.CAD_TICK_OUT_OE = false) ∧
    ((st [(F.CAD_PPS_OUT_OE, 1)]).on F.CAD_PPS_OUT_OE = true ∧ (st [(F.CAD_PPS_OUT_OE, 0)]).on F.CAD_PPS_OUT_OE = false) ∧
    ((cadW base fun x => { x with tickOut := true }).cad.tickOut = true ∧ (cadW base fun x => { x with ppsOut := true }).cad.ppsOut = true) ∧
    (base.cad.tickOut = false ∧ base.cad.ppsOut = false ∧ base.get F.CAD_STATUS_SOURCE ≠ 3 ∧ base.cad.ppsIn = none) ∧
    ((st [(F.CAD_STATUS_SOURCE, 3)]).get F.CAD_STATUS_SOURCE = 3 ∧ (cadW base fun x => { x with ppsIn := some 5 }).cad.ppsIn = some 5) ∧
    ((st [(F.CAD_STATUS_MASTER, 1)]).on F.CAD_STATUS_MASTER = true ∧ base.on F.CAD_STATUS_MASTER = false) := by decide +kernel

theorem witness_TransmitterAdvertisesItsClockClass :
    ((st [(F.CAD_CTRL_ETH0_ROLE, 2)]).ptpRole 0 = 2 ∧ (st [(F.CAD_CTRL_ETH1_ROLE, 2)]).ptpRole 1 = 2) ∧
    ((st [(F.CAD_CTRL_ETH0_ROLE, 2)]).ptpTransmits 0 = true ∧ (st [(F.CAD_CTRL_ETH1_ROLE, 2)]).ptpTransmits 1 = true) ∧
    ((st [(F.CAD_STATUS_SOURCE, 1)]).get F.CAD_STATUS_SOURCE = 1 ∧ (st [(F.CAD_STATUS_SOURCE, 2)]).get F.CAD_STATUS_SOURCE = 2) ∧
    (st [(F.CAD_STATUS_SOURCE, 5), (F.CAD_STATUS_HOLD_IN_SPEC, 1)]).get F.CAD_STATUS_SOURCE = 5 ∧
    (st [(F.CAD_STATUS_SOURCE, 5), (F.CAD_STATUS_HOLD_IN_SPEC, 1)]).on F.CAD_STATUS_HOLD_IN_SPEC = true ∧
    (base.on F.CAD_STATUS_HOLD_IN_SPEC = false ∧ base.get F.CAD_STATUS_SOURCE = 0 ∧ (st [(F.CAD_STATUS_SOURCE, 6)]).get F.CAD_STATUS_SOURCE = 6) := by decide +kernel

theorem witness_TimeSourcesAndStoresAreKept :
    (base.ptpRole 0 = 0 ∧ (st [(F.CAD_CTRL_ETH0_ROLE, 1)]).ptpRole 0 = 1 ∧ (st [(F.CAD_CTRL_ETH1_ROLE, 3)]).ptpRole 1 = 3) ∧
    (((st [(F.CAD_CTRL_ETH0_ROLE, 1)]).advance 7).ptpReceives 0 = true ∧ ((st [(F.CAD_CTRL_ETH1_ROLE, 2)]).advance 7).ptpTransmits 1 = true) ∧
    ((st [(F.CAD_CTRL_ETH0_ROLE, 1)]).ptpReceives 0 = true ∧ (st [(F.CAD_CTRL_ETH0_ROLE, 1)]).ptpTransmits 0 = false) ∧
    ((base.ptpPort 1).dataset = [] ∧ lexLt [6] [7] = true ∧ (base.ptpPort 0).link = none) ∧
    ((cadW base fun x => { x with ptp := [⟨true, [6], 0, 0, 0, 0, 0, 0, 0, 0, some 9⟩] }).ptpPort 0).link = some 9 ∧
    ((cadW base fun x => { x with ptp := [⟨true, [6, 0, 0, 0, 0, 5], 0, 0, 0, 0, 0, 0, 0, 0, none⟩] }).ptpPort 0).dataset.getD 5 0 = 5 ∧
    (base.on F.CAD_CTRL_PROFILE = false ∧ (st [(F.CAD_CTRL_PROFILE, 1)]).on F.CAD_CTRL_PROFILE = true) ∧
    ((st [(F.CAD_STATUS_MASTER, 1), (F.CAD_STATUS_SOURCE, 2)]).get F.CAD_STATUS_SOURCE = 1 + 1 ∧ base.get F.CAD_STATUS_SOURCE ≠ 1) ∧
    (st [(F.CAD_STATUS_MASTER, 1), (F.CAD_STATUS_SOURCE, 2)]).on F.CAD_STATUS_MASTER = true ∧
    ((st [(F.CAD_STATUS_SOURCE, 1)]).get F.CAD_STATUS_SOURCE = 1 ∧ (st [(F.CAD_STATUS_SOURCE, 3)]).get F.CAD_STATUS_SOURCE = 3 ∧ (st [(F.CAD_STATUS_SOURCE, 4)]).get F.CAD_STATUS_SOURCE = 4) ∧
    ((st [(F.CAD_STATUS_SOURCE, 5)]).get F.CAD_STATUS_SOURCE = 5 ∧ base.get F.CAD_STATUS_SOURCE = 0) ∧
    (base.cad.joinHold = false ∧ (cadW base fun x => { x with joinHold := true }).cad.joinHold = true) := by decide +kernel

theorem witness_MemoriesAreScrubbedAndCached :
    (base.get F.PWR_STATUS_STATE ≤ 1 ∧ (inState 1 base).get F.PWR_STATUS_STATE ≤ 1 ∧ base.get F.PWR_STATUS_STEP < 2 ∧ 2 ≤ (inState 2 base).get F.PWR_STATUS_STATE) ∧
    ((st [(F.MEM_CTRL_SCRUB_EN, 0)]).on F.MEM_CTRL_SCRUB_EN = false ∧ (st [(F.MEM_CTRL_HBM_SCRUB_EN, 0)]).on F.MEM_CTRL_HBM_SCRUB_EN = false ∧ 2 ≤ ({ base with regs := [(0x400004, 0x06400200)] } : State).get F.PWR_STATUS_STEP) ∧
    (base.on F.MEM_CTRL_SCRUB_EN = true ∧ base.on F.MEM_CTRL_HBM_SCRUB_EN = true ∧ (st [(F.MEM_STATUS_HBM_READY, 1)]).on F.MEM_STATUS_HBM_READY = true ∧ base.on F.MEM_STATUS_HBM_READY = false) ∧
    (base.blockOpen = true ∧ base.wcCollides 4 = false ∧ 2 * (4096 * base.pinTotal) ≤ wcBytes 4) ∧
    ({ base with wins := [(0, ⟨0, some ⟨1, 0x3FF00000, 0x1000, 0, true, true⟩⟩)] } : State).wcCollides 4 = true ∧
    wcBytes 0 < 2 * (4096 * (st [(F.MEM_WC_PIN_EN 3, 1), (F.MEM_WC_PIN_LIMIT 3, 5)]).pinTotal) ∧
    ((memW base fun x => { x with resize := some 4 }).mem.resize = some 4 ∧ base.mem.resize = none) ∧
    (memW base fun x => { x with fills := [⟨37748735, 15, 2, 0⟩] }).mem.filling 37748735 15 = true ∧
    (base.mem.badWord 2 (sectorWords 37748735 15) = none ∧ ((memW base fun x => { x with ue := [(2, 37748735 * 512 + 480)] }).mem.badWord 2 (sectorWords 37748735 15)).isSome = true) ∧
    ((st [(F.MEM_WC_PIN_EN 3, 1), (F.MEM_WC_PIN_BASE 3, 5)]).on (F.MEM_WC_PIN_EN 3) = true ∧ base.on (F.MEM_WC_PIN_EN 3) = false) ∧
    (base.wcLeast = wcBytes (base.get F.MEM_WC_SIZE) ∧ (memW base fun x => { x with resize := some 0 }).wcLeast = 0) ∧
    (facetParamsOk 0 0 0 = true ∧ facetParamsOk 15 7 0 = false ∧ (inPhase .restart base).blockOpen = false) := by decide +kernel

/-- Eight bytes at the start of TSM, and the last eight of the BAR's 1 GB. -/
theorem witness_Bar2ReadsAndStoresItsBytes :
    (base.wake 1 = base ∧ base.pcie.hpUp = true ∧ State.reset.pcie.hpUp = false) ∧
    ((st [(F.TEN_HP_IDE_REQ, 1)]).wake 1).on F.TEN_HP_IDE_REQ = true ∧
    (base.on F.TEN_HP_IDE_REQ = false ∧ base.boot.phase ≠ .restart ∧ ((inPhase .restart base).wake 1).boot.phase = .restart) ∧
    ((base.rsvd 0x10000000 8).bridle 0 0 0x30 clsHOST false (((base.judged 0x10000000 8).map (· / 4096)).eraseDups)).1 = true ∧
    (base.mem.badWord 1 (wordsOf (base.judged 0x10000000 8)) = none ∧ base.internalByte 0x10000000 = false) ∧
    ((base.rsvd 0x3FFFFFF8 8).bridle 0 0 0x30 clsHOST true (((base.judged 0x3FFFFFF8 8).map (· / 4096)).eraseDups)).1 = true ∧
    (((st [(F.BRD_REG 0 255 0, 0x10000), (F.BRD_REG 0 255 1, 0x10000), (F.BRD_REG 0 255 3, 0x8000FF00)]).rsvd 0x10000000 8).bridle 0 0 0x30 clsHOST true ((((st [(F.BRD_REG 0 255 0, 0x10000), (F.BRD_REG 0 255 1, 0x10000), (F.BRD_REG 0 255 3, 0x8000FF00)]).judged 0x10000000 8).map (· / 4096)).eraseDups)).1 = false ∧
    (∀ j ∈ List.range 8, base.internalByte (0x10000000 + j) = false ∧ 0x10000000 + j < 0x40000000) := by decide +kernel

def da (space off : Nat) : Nat := space * 2 ^ 56 + 0x3F * 2 ^ 50 + off

def le (i n v : Nat) : List (Nat × Nat) := (List.range n).map fun k => (i + k, v / 256 ^ k % 256)

/-- The running device with tenant 0's ring of 64 slots and its CQ in a window of TSM, the CQ enabled, and format 3.0 negotiated. -/
def qs (l : List (Fld × Nat)) : State := { fmt ([(F.TP_Q_BASE_LO 0 0, 0x10000000), (F.TP_Q_BASE_HI 0 0, da 1 0 / 2 ^ 32),
    (F.TP_Q_CFG_SIZE 0 0, 6), (F.TP_CQ_BASE_LO 0, 0x10080000), (F.TP_CQ_BASE_HI 0, da 1 0 / 2 ^ 32), (F.TP_CQ_CFG_SIZE 0, 6),
    (F.TP_CQ_CTRL_EN 0, 1), (F.TP_Q_WIN_ID 0 0, 0), (F.TP_CQ_WIN_ID 0, 0)] ++ l) with wins := [(0, ⟨0, some ⟨1, 0x10000000, 0x100000, 0, true, true⟩⟩)] }

/-- A ring of 64 slots in its window passes, under a stale generation it does not. -/
theorem witness_QueuesAndRingsFollowTheirControl :
    (base.pageOpen 0 = true ∧ (inPhase .restart base).pageOpen 0 = false ∧ (qs []).pageOpen 0 = true ∧ (qs []).credEvalAll.on (F.TP_Q_CTRL_EN 0 0) = false) ∧
    ((qs []).credEvalAll.qRingOk 0 0 ((qs []).get (F.TP_Q_WIN_ID 0 0)) ((qs []).get (F.TP_Q_WIN_GEN 0 0)) = true ∧ (qs []).credEvalAll.qRingOk 0 0 0 1 = false) ∧
    ((qs []).credEvalAll.on (F.TP_CQ_CTRL_EN 0) = true ∧ (qs []).credEvalAll.on F.SEC_CTRL_CRED_REQ = false ∧ (st [(F.SEC_CTRL_CRED_REQ, 1)]).credEvalAll.on F.SEC_CTRL_CRED_REQ = true) ∧
    ((st [(F.SEC_CTRL_CRED_REQ, 1)]).credEvalAll.credValid 3 = false ∧ (qs [(F.TP_Q_CTRL_EN 0 0, 1)]).credEvalAll.on (F.TP_Q_CTRL_EN 0 0) = true) ∧
    ((qs []).cqRingOk 0 ((qs []).get (F.TP_CQ_WIN_ID 0)) ((qs []).get (F.TP_CQ_WIN_GEN 0)) = true ∧ (qs []).cqRingOk 0 1 0 = false ∧ base.on (F.TP_CQ_CTRL_EN 0) = false) ∧
    ((qs [(F.TP_Q_STATUS_HALT 0 0, 1), (F.TP_Q_CTRL_EN 0 0, 1)]).on (F.TP_Q_STATUS_HALT 0 0) = true ∧ (qs []).on (F.TP_Q_STATUS_HALT 0 0) = false) ∧
    ((qs []).qRingOk 0 0 (0 % 65536) (0 / 65536 % 65536) = true ∧ (qs []).qRingOk 0 0 (65536 % 65536) (65536 / 65536 % 65536) = false) ∧
    (qs [(F.TP_CQ_STATUS_HALT 0, 1)]).on (F.TP_CQ_STATUS_HALT 0) = true ∧
    (qs [(F.TP_Q_CTRL_EN 0 0, 1)]).on (F.TP_Q_CTRL_EN 0 0) = true ∧
    (∀ q ∈ List.range 8, (qs []).on (F.TP_Q_CTRL_EN 0 q) = false) := by decide +kernel

/-- TAIL at the ring's end, and one beyond it. -/
theorem witness_DoorbellsAndFetchesStayInsideTheirRings :
    ((qs []).pageOpen 0 = true ∧ (qs []).pwr.entry = none ∧ (qs []).get F.PWR_STATUS_STATE = 0 ∧ (inPhase .restart base).pageOpen 0 = false ∧ (inPhase .restart base).blockOpen = false) ∧
    ((qs [(F.TP_Q_CTRL_EN 0 0, 1)]).on (F.TP_Q_CTRL_EN 0 0) = true ∧ (qs []).on (F.TP_Q_CTRL_EN 0 0) = false) ∧
    (64 + 2 ^ 32 - (qs []).get (F.TP_Q_TAIL 0 0)) % 2 ^ 32 + ((qs []).get (F.TP_Q_TAIL 0 0) + 2 ^ 32 - (qs []).get (F.TP_Q_HEAD 0 0)) % 2 ^ 32 ≤ 2 ^ (qs []).get (F.TP_Q_CFG_SIZE 0 0) ∧
    2 ^ (qs []).get (F.TP_Q_CFG_SIZE 0 0) < (65 + 2 ^ 32 - (qs []).get (F.TP_Q_TAIL 0 0)) % 2 ^ 32 ∧
    (3 + 2 ^ 32 - (qs []).get (F.TP_CQ_HEAD 0)) % 2 ^ 32 ≤ ((qs [(F.TP_CQ_TAIL 0, 3)]).get (F.TP_CQ_TAIL 0) + 2 ^ 32 - (qs []).get (F.TP_CQ_HEAD 0)) % 2 ^ 32 ∧
    ((qs [(F.TP_CQ_TAIL 0, 3)]).get (F.TP_CQ_TAIL 0) + 2 ^ 32 - (qs []).get (F.TP_CQ_HEAD 0)) % 2 ^ 32 < (4 + 2 ^ 32 - (qs []).get (F.TP_CQ_HEAD 0)) % 2 ^ 32 ∧
    ((qs [(F.TP_Q_CTRL_EN 0 0, 1)]).mayFetch 0 0 = true ∧ (qs []).mayFetch 0 0 = false ∧ (qs []).get (F.TP_Q_TAIL 0 0) = (qs []).get (F.TP_Q_HEAD 0 0)) ∧
    ((qs [(F.TP_Q_CTRL_EN 0 0, 1), (F.TP_Q_TAIL 0 0, 1)]).mayFetch 0 0 = true ∧ (qs [(F.TP_Q_CTRL_EN 0 0, 1), (F.TP_Q_TAIL 0 0, 1)]).get (F.TP_Q_TAIL 0 0) ≠ (qs []).get (F.TP_Q_HEAD 0 0)) ∧
    ((qs [(F.TP_Q_CTRL_RESUME 0 0, 1)]).on (F.TP_Q_CTRL_RESUME 0 0) = true ∧ (qs []).on (F.TP_Q_CTRL_RESUME 0 0) = false) ∧
    (((qs [(F.TP_Q_TAIL 0 0, 1)]).readSlot 0 0 0).1 = some (List.replicate 64 0) ∧ leAt (List.replicate 64 0) 4 4 = (qs []).get (F.TP_Q_SEQ_NEXT 0 0)) ∧
    (((qs [(F.TP_Q_TAIL 0 0, 1)]).readSlots 0 0 0 1).1 = some (List.replicate 64 0) ∧ ((qs []).queueSt 0 0).slots < 256) ∧
    ((memW (qs []) fun x => { x with ue := [(1, 0x2000000)] }).readSlot 0 0 0).1 = none ∧
    (daSpace ((qs []).qBase 0 0) ≠ 4 ∧ daSpace ((qs [(F.TP_Q_BASE_HI 0 0, da 4 0 / 2 ^ 32)]).qBase 0 0) = 4) := by decide +kernel

/-- A queue with one fetched packet. -/
def qp (l : List (Fld × Nat)) (p : Packet) : State := (qs l).setQueue { (qs l).queueSt 0 0 with shadow := [p] }

/-- A NOP with SEQ 0 is expected; with SEQ 1 it is not; with a reserved byte set it fails; a CQ of which every slot is used is full. -/
theorem witness_DecodeFollowsTheSequence :
    (((qp [] (rowPacket 0 (pk []))).queueSt 0 0).shadow = [rowPacket 0 (pk [])] ∧ (qp [] (pk [])).boot.phase = .run) ∧
    ((qp [] (pk [])).get F.PWR_STATUS_STATE = 0 ∧ (qp [] (pk [])).ctxBusy 0 = false ∧ (qp [] (pk [])).on (F.TP_CQ_CTRL_EN 0) = true) ∧
    ((qp [] (pk [])).on (F.TP_CQ_STATUS_HALT 0) = false ∧ (qp [] (pk [])).decodeHeld 0 0 = false ∧ (qp [] (pk [])).cqFree 0 ≠ 0) ∧
    (qp [(F.TP_CQ_TAIL 0, 64)] (pk [])).cqFree 0 = 0 ∧
    (pSeq (pk [(4, 1)]) ≠ (qs []).get (F.TP_Q_SEQ_NEXT 0 0) ∧ pSeq (rowPacket 0 (pk [])) = (qs []).get (F.TP_Q_SEQ_NEXT 0 0)) ∧
    (qp [] (rowPacket 0 (pk []))).marksOk 0 0 (rowPacket 0 (pk [])) false = true ∧ (qp [] (pk [])).seqDead 0 0 = false ∧ flLOCK (pFlags (rowPacket 0 (pk []))) < 2 ∧
    ((qs []).headerCheck 0 0 (rowPacket 0 (pk [])) = none ∧ (qs []).headerCheck 0 0 (rowPacket 0x77 (pk [])) = some 0 ∧ base.on (F.TP_FMT_SET 0) = false) := by decide +kernel

/-- Tenant 0 has watcher 255, of tenant 0 or another. -/
def ws (ten : Nat) : State := { qs [] with lpe := { (qs []).lpe with watchers := [(255, [0, 0, BitVec.ofNat 8 (0x80 + ten)] ++ List.replicate 13 0)] } }

theorem witness_PlainFrontCommandsTakeEffectAndEnd :
    (qs []).rowStarts 0 0 0x00 (pk []) false = true ∧ (qs []).rowStarts 0 0 0x01 (pk []) false = true ∧
    (qs []).rowStarts 0 0 0x25 (pk [(24, 15), (32, 1)]) false = true ∧ (qs []).rowStarts 0 0 0x26 (pk [(24, 15), (32, 1)]) false = true ∧
    (qs []).rowStarts 0 0 0x27 (pk [(24, 0)]) false = true ∧ (qs []).rowStarts 0 0 0x41 (pk [(24, 255)]) true = false ∧
    (ws 0).rowStarts 0 0 0x41 (pk [(24, 255)]) true = true := by decide +kernel

theorem witness_HeartbeatsAnswerByTheirWatcher :
    ((qs []).rowPasses 0 0 0x41 (pk [(24, 255)]) false = true ∧ (qs []).rowPasses 0 0 0x41 (pk (le 24 2 256)) false = true) ∧
    (leAt (rowPacket 0x41 (pk [(24, 255)])) 24 2 = 255 ∧ leAt (rowPacket 0x41 (pk (le 24 2 256))) 24 2 = 256) ∧
    rlValid (((qs []).rowDecoded 0 0 0x41 (pk [(24, 255)])).lpeWatch 255) = false ∧
    (rlValid ((ws 1).lpeWatch 255) = true ∧ rlTen ((ws 1).lpeWatch 255) = 1) ∧
    (rlValid ((ws 0).lpeWatch 255) = true ∧ rlTen ((ws 0).lpeWatch 255) = 0 ∧ (ws 0).rowStarts 0 0 0x41 (pk [(24, 255)]) false = true) ∧
    (lpeW (ws 0) fun x => { x with down := some .restart }).rowStarts 0 0 0x41 (pk [(24, 255)]) false = true := by decide +kernel

/-- Tenant 0 has 64 counters, 16 barriers and 256 locks. -/
def sy (l : List (Fld × Nat)) : State := qs ([(F.SYN_PART_COUNT 0, 1), (F.SYN_BPART_COUNT 0, 1), (F.SYN_LPART_COUNT 0, 16)] ++ l)

/-- The same with an origin-table entry for every chip. -/
def rt : State := let s := sy []; s.wr (0x281000 + 0x200 * 12) 0x80000000

/-- The body of a SIGNAL with one local spec: counter 63 of 64 gets the value 1 by an operation. -/
def sg (op : Nat) : List (Nat × Nat) := [(24, 1), (32, op), (33, 0x3F), (34, 63), (36, 1)]

theorem witness_SynchronizationCommandsTakeEffect :
    ((sy []).rowStarts 0 0 0x20 (pk (sg 1)) false = true ∧ (sy []).rowStarts 0 0 0x20 (pk (sg 3)) false = true) ∧
    ((((sy []).rowStarted 0 0 0x20 (pk (sg 1))).cmd? 0).isSome = true ∧ leAt (rowPacket 0x20 (pk (sg 1))) 24 1 = 1) ∧
    (1 ≤ (sigAt (rowPacket 0x20 (pk (sg 1))) 32).op ∧ (sigAt (rowPacket 0x20 (pk (sg 3))) 32).op ≤ 3) ∧
    ((sy []).rowStarted 0 0 0x20 (pk (sg 1))).isLocal (sigAt (rowPacket 0x20 (pk (sg 1))) 32).chip = true ∧
    (sy []).rowStarts 0 0 0x21 (pk ([(24, 1), (28, 10), (36, 0)])) false = true ∧
    ((sy []).rowStarts 0 0 0x22 (pk [(24, 15), (26, 0x3F)]) false = true ∧ (sy []).poolBar 0 15 = some 15 ∧ (sy []).poolBar 0 16 = none) ∧
    (baWait (rowPacket 0x22 (pk [(24, 15), (26, 0x3F)])) = false ∧ (sy []).barArrive 0 15 none false = none) ∧
    (((sy []).setBar 15 { barZero with en := true, parts := 2, arriveIdx := 1, phaseIdx := 2 }).barArrive 0 15 none false).isSome = true ∧
    (base.isLocal 1 = false ∧ base.isLocal 0x3F = true ∧ (1 ≤ (⟨6, 0x3F, 2047, 0⟩ : Sig).op ∧ (⟨6, 0x3F, 2047, 0⟩ : Sig).op ≤ 6)) ∧
    ((((sy []).rowStarted 0 0 0x21 (pk ([(24, 1), (28, 10), (36, 0)]))).cmd? 0).isSome = true ∧ (((sy []).rowStarted 0 0 0x22 (pk [(24, 15), (26, 0x3F)])).cmd? 0).isSome = true) ∧
    ((sy []).rowStarts 0 0 0x22 (pk [(24, 15), (26, 0x3F), (27, 1), (28, 100)]) false = true ∧ baWait (rowPacket 0x22 (pk [(24, 15), (26, 0x3F), (27, 1), (28, 100)])) = true) ∧
    (rt.rowStarts 0 0 0x22 (pk [(24, 15), (26, 5)]) false = true ∧ (rt.rowStarted 0 0 0x22 (pk [(24, 15), (26, 5)])).isLocal (baChip (rowPacket 0x22 (pk [(24, 15), (26, 5)]))) = false) ∧
    (((sy []).setBar 15 { barZero with en := true, parts := 2, arriveIdx := 1, phaseIdx := 2 }).barArrive 0 15 none true).isSome = true := by decide +kernel

/-- A LOCK_ACQUIRE of lock 255 of this chip, marked as the first of its sequence. -/
def lk : List (Nat × Nat) := [(2, 0x20), (24, 255), (25, 0x3F), (28, 100)]

/-- The sequence that acquired lock 255 is open on queue 0. -/
def sq : State := { (sy []).setQueue { (sy []).queueSt 0 0 with openSeq := some 9 } with lockSeqs := [⟨9, 0, 0, none, some (0x3F, 255), [], 0, 0xFF, none, false⟩] }

/-- The device of `sy` with an empty graph 7 of tenant 0. -/
def ga : State := { sy [(F.SCH_PART_COUNT 0, 256)] with graphs := [⟨0, 7, 0, [], 0, none⟩] }

theorem witness_LocksAndLaunchesTakeEffect :
    ((sy []).rowStarts 0 0 0x23 (pk lk) false = true ∧ (((sy []).rowStarted 0 0 0x23 (pk lk)).cmd? 0).isSome = true) ∧
    (((sy []).rowStarted 0 0 0x23 (pk lk)).poolLock 0 (lkLock (rowPacket 0x23 (pk lk))) = some 255 ∧ ((sy []).lock 255).held = false) ∧
    sq.rowStarts 0 0 0x24 (pk [(2, 0x60), (24, 255), (25, 0x3F)]) false = true ∧
    (((sy []).setLock 255 { lockZero with held := true }).lock 255).held = true ∧
    ((sy []).isLocal (lkChip (rowPacket 0x23 (pk lk))) = true ∧ rt.isLocal (lkChip (rowPacket 0x23 (pk [(2, 0x20), (24, 255), (25, 7), (28, 100)]))) = false) ∧
    (rt.rowStarts 0 0 0x23 (pk [(2, 0x20), (24, 255), (25, 7), (28, 100)]) false = true ∧ ((sy []).setLock 255 { lockZero with held := true }).rowStarts 0 0 0x23 (pk lk) false = true) ∧
    ((qs []).rowStarts 0 0 0x29 (pk [(24, 7)]) false = true ∧ (((qs []).rowStarted 0 0 0x29 (pk [(24, 7)])).cmd? 0).isSome = true ∧ (qs []).graph? 0 7 = none) ∧
    (ga.graph? 0 7).isSome = true ∧ ga.cqFree 0 = 64 ∧ ga.tenantHeld 0 = false ∧ ga.timedUsed = 0 ∧
    ({ ga with graphs := [⟨0, 7, 0, [⟨[], none, .heldReady, 0⟩], 0, none⟩] } : State).tenantHeld 0 = true ∧
    (ga.admitGraph (cm 0x29 [] id) ⟨0, 7, 0, [], 0, none⟩ true).isSome = true ∧ (ga.admitGraph (cm 0x29 [] id) ⟨0, 7, 0, [⟨pk [(64, 0x10), (66, 4)], none, .idle, 0⟩], 0, none⟩ true).isSome = false := by decide +kernel

/-- A WIN_CREATE of 1 MB of HBM at offset 0 for tenant 15, readable and writable. -/
def wc : List (Nat × Nat) := le 24 8 (da 2 0) ++ le 32 8 0x100000 ++ [(40, 15), (41, 3)]

/-- Tenant 0 with window 4095 of generation 0xFFFE. -/
def wx : State := { qs [] with wins := [(4095, ⟨0xFFFE, some ⟨2, 0, 4096, 0, true, true⟩⟩)] }

/-- A window of HBM, one of no size; the last slot under its last generation but one; a handle of no descriptor. -/
theorem witness_WindowsAndDescriptorsAreCreatedAndRevoked :
    ((qs []).rowAccepted 0 0 0x08 (pk wc) false = true ∧ ((qs []).rowTaken 0 0 0x08 (pk wc)).winCheck (rowPacket 0x08 (pk wc)) = none) ∧
    ((qs []).rowTaken 0 0 0x08 (pk [])).winCheck (rowPacket 0x08 (pk (le 24 8 (da 2 0)))) = some (stREJ_FORMAT, 32) ∧
    wx.rowAccepted 0 0 0x09 (pk (le 24 2 4095 ++ le 26 2 0xFFFE ++ [(28, 1), (29, 1)])) false = true ∧
    (((wx.rowTaken 0 0 0x09 (pk [])).winSlot 4095).win = some ⟨2, 0, 4096, 0, true, true⟩ ∧ (wx.winSlot 4095).gen < 0xFFFF) ∧
    wx.rowAccepted 0 0 0x0A (pk (le 24 2 4095 ++ le 26 2 0xFFFE)) false = true ∧
    (oneCmd base (cm 0x09 [] fun c => { c with phase := .running })).drained (cm 0x09 [] fun c => { c with phase := .running }) = true ∧
    ((oneCmd base (cm 0x0A [] fun c => { c with drain := [0] })).drained (cm 0x0A [] fun c => { c with drain := [0] })) = false ∧
    (qs []).rowAccepted 0 0 0x0C (pk (le 24 8 (da 1 0x10000000) ++ [(36, 1)])) false = true ∧
    (((qs []).rowTaken 0 0 0x0C (pk (le 24 8 (da 1 0x10000000) ++ [(36, 1)]))).areaCheck 0 (da 1 0x10000000) 0 0 128 false).1 = none ∧
    ((qs []).rowAccepted 0 0 0x0D (pk [(24, 1)]) false = true ∧ ((qs []).rowTaken 0 0 0x0D (pk [(24, 1)])).handleAny 0 0 = none) ∧
    (({ qs [] with descs := [(0, ⟨0, some (0, ⟨da 2 0, 0, 1, 0, 0, 0, 0, 0, 0, 0, [1], [1], 0, 1, false, 0, false⟩)⟩)] } : State).handleAny 0 0).isSome = true ∧
    ((reinW base fun x => { x with reqs := [⟨0, 0, 0, 1, 2, 0, 0, 0⟩] }).advance 100000).rein.reqs.find? (fun x => x.cmd == 0 && x.mop == 2) = some ⟨0, 0, 0, 1, 2, 0, 0, 0⟩ ∧
    (dcEcho (rowPacket 0x0C (pk (le 24 8 (da 1 0x10000000) ++ [(36, 1)]))) = 0 ∧ dcBack (rowPacket 0x0C (pk (le 24 8 (da 1 0x10000000) ++ [(36, 1)]))) = false) ∧
    (((qs []).areaCheck 0 (da 1 0x20000000) 0 0 128 false).1.isSome = true ∧ ((qs []).areaCheck 0 (da 1 0x20000000) 0 0 128 true).1.isSome = true) ∧
    ((oneCmd base (cm 0x09 [] fun c => { c with phase := .running })).cmd? 0).isSome = true ∧
    ([0, 1] : List Nat).Nodup := by decide +kernel

/-- Tenant 0 may hold graphs of 256 nodes; graph 7 of it has no launch. -/
def gs : State := { qs [(F.SCH_PART_COUNT 0, 256)] with graphs := [⟨0, 7, 0, [], 0, none⟩] }

theorem witness_FormatsAndGraphsAreLoaded :
    (base.rowAccepted 0 0 0x02 (pk [(24, 3)]) false = true ∧ base.rowAccepted 0 0 0x02 (pk [(24, 2)]) false = true) ∧
    (base.rowAccepted 0 0 0x02 (pk [(24, 4)]) false = true ∧ (base.rowTaken 0 0 0x02 (pk [(24, 3)])).on (F.TP_FMT_SET 0) = false) ∧
    gs.rowAccepted 0 0 0x28 (pk (le 32 2 1 ++ le 36 8 (da 1 0x10000000))) false = true ∧
    (gs.rowStarts 0 0 0x29 (pk [(24, 7)]) false = true ∧ ((gs.rowStarted 0 0 0x29 (pk [(24, 7)])).graph? 0 7).isSome = true) ∧
    (gs.rowAccepted 0 0 0x2A (pk [(24, 7)]) false = true ∧ ((gs.rowTaken 0 0 0x2A (pk [(24, 7)])).graph? 0 7).isSome = true) ∧
    ((qs []).rowAccepted 0 0 0x02 (pk [(24, 3)]) false = true ∧ ((qs []).rowTaken 0 0 0x02 (pk [(24, 3)])).on (F.TP_FMT_SET 0) = true ∧ ((qs []).rowTaken 0 0 0x02 (pk [(24, 3)])).get (F.TP_FMT_MAJOR 0) = 3) ∧
    ((((qs []).rowTaken 0 0 0x02 (pk [(24, 2)])).cmds.any fun (x : Cmd) => x.tenant == 0 && x.id != 0) = false ∧ ((oneCmd (qs []) (cm 0 [] id)).cmds.any fun (x : Cmd) => x.tenant == 0 && x.id != 1) = true) ∧
    ((qs [(F.SCH_PART_COUNT 0, 0)]).loadCheck 0 (rowPacket 0x28 (pk (le 32 2 1 ++ le 36 8 (da 1 0x10000000)))) = some stREJ_QUOTA ∧ gs.loadCheck 0 (rowPacket 0x28 (pk (le 32 2 1 ++ le 36 8 (da 1 0x10000000) ++ [(24, 1)]))) = none) ∧
    ((gs.loadArea 0 (rowPacket 0x28 (pk (le 32 2 1 ++ le 36 8 (da 1 0x10000000))))).1 = none ∧ (gs.loadArea 0 (rowPacket 0x28 (pk (le 32 2 1 ++ le 36 8 (da 1 0x20000000))))).1.isSome = true) ∧
    ((gs.areaRead 0 0 (da 1 0x10000000) 320 false).1.toOption.isSome = true ∧ ((memW gs fun x => { x with ue := [(1, 0x2000000)] }).areaRead 0 0 (da 1 0x10000000) 320 false).1.toOption.isSome = false) ∧
    ((gs.nodeCheck 0 (List.replicate 320 0)).isSome = true ∧ gs.nodeCheck 0 (pk ([(0, 1)] ++ le 12 4 1 ++ [(64, 0)]) ++ List.replicate 64 0) = none) ∧
    (({ gs with graphs := [⟨0, 7, 0, [], 0, some ⟨0, 0, 0, none, 0, 0, 0, none⟩⟩] } : State).graph? 0 7).isSome = true ∧ (qs []).rowAccepted 0 0 0x2A (pk [(24, 8)]) false = true ∧ gs.graph? 0 8 = none := by decide +kernel

/-- The whole CF region of 4 MB fits, one byte more does not; data follow in order; a run of the calibration scope of bit 1. -/
theorem witness_FirmwareAndCalibrationKeepTheirRecords :
    ((qs []).rowAccepted 0 0 0x3C (pk ([(24, 1)] ++ le 28 4 0x400000)) false = true ∧ ((qs []).rowTaken 0 0 0x3C (pk [(24, 1)])).boot.session = none) ∧
    (((qs []).rowTaken 0 0 0x3C (pk [(24, 1)])).get F.FW_STATUS_BOOT_SLOT = 0 ∧ leAt (rowPacket 0x3C (pk ([(24, 1)] ++ le 28 4 0x400000))) 28 4 ≤ 0x400000) ∧
    (bootW (qs []) fun x => { x with session := some ⟨2, 512, []⟩ }).rowAccepted 0 0 0x3D (pk (le 24 8 (da 1 0x10000000) ++ le 40 4 512)) false = true ∧
    ((bootW (qs []) fun x => { x with session := some ⟨2, 512, []⟩ }).areaCheck 0 (da 1 0x10000000) 0 0 512 false).1 = none ∧
    leAt (rowPacket 0x3D (pk (le 24 8 (da 1 0x10000000) ++ le 40 4 512))) 36 4 + leAt (rowPacket 0x3D (pk (le 24 8 (da 1 0x10000000) ++ le 40 4 512))) 40 4 ≤ 512 ∧
    ((qs []).rowAccepted 0 0 0x3E (pk []) false = true ∧ (qs []).rowAccepted 0 0 0x3F (pk []) false = true) ∧
    (bootW (qs []) fun x => { x with session := some ⟨2, 512, []⟩ }).commitCheck ⟨2, 512, []⟩ = stREJ_BOUNDS ∧
    ((qs []).rowAccepted 0 0 0x34 (pk [(24, 2)]) false = true ∧ ((qs []).rowTaken 0 0 0x34 (pk [(24, 2)])).ticksOpen = false) ∧
    ((oneCmd base (cm 0x34 [] id)).cmd? 0 = some (cm 0x34 [] id) ∧ (0 : Nat) &&& 2 &&& (63 - base.calSkips 2 false true) = 0) ∧
    ((qs []).rowAccepted 0 0 0x35 (pk []) false = true ∧ (qs []).rowAccepted 0 0 0x36 (pk (le 24 4 0x46414354)) false = true ∧ ((qs []).rowTaken 0 0 0x35 (pk [])).userCal = none) ∧
    ((bootW (qs []) fun x => { x with session := some ⟨2, 512, []⟩ }).boot.session ≠ none ∧ (qs []).get F.FW_STATUS_BOOT_SLOT = leAt (rowPacket 0x3C (pk [(24, 0)])) 24 1 ∧ 0x400000 < leAt (rowPacket 0x3C (pk ([(24, 1)] ++ le 28 4 0x400001))) 28 4) ∧
    (leAt (rowPacket 0x3D (pk (le 36 4 4))) 36 4 ≠ 0 ∧ 512 < leAt (rowPacket 0x3D (pk (le 40 4 513))) 40 4) ∧
    ((qs []).areaRead 0 0 (da 1 0x10000000) 512 false).1.toOption.isSome = true ∧ ((qs []).areaRead 0 0 (da 4 0) 512 true).1.toOption.isSome = false ∧ ((qs []).areaCheck 0 (da 1 0x20000000) 0 0 512 false).1.isSome = true ∧
    (({ base with cmds := [cm 0x10 [(2, 4)] fun c => { c with admTick := some 5 }] } : State).ticksOpen = true ∧ bit 3 0 = true ∧ bit 4 2 = true) ∧
    ((63 : Nat) &&& 2 &&& (63 - base.calSkips 2 false true) ≠ 0 ∧ base.boot.calRun = none) := by decide +kernel

theorem witness_DeviceServicesTakeEffect :
    ((qs []).rowAccepted 0 0 0x30 (pk [(24, 1)]) false = true ∧ ((qs []).rowTaken 0 0 0x30 (pk [(24, 1)])).pwrRefusal 1 = none) ∧
    ((qs []).rowAccepted 0 0 0x38 (pk ([(1, 1)] ++ le 56 8 (da 1 0x10001000) ++ le 68 2 4096)) false = true ∧ (qs []).dead = false) ∧
    (((qs []).rowTaken 0 0 0x38 (pk [])).areaCheck 0 (da 1 0x10001000) 0 0 4096 true).1 = none ∧
    ((qs []).rowAccepted 0 0 0x40 (pk (le 28 2 1 ++ le 32 8 (da 1 0x10000000))) false = true ∧ entryRangeOk 0 0 1 = true ∧ entryRangeOk 0 0xFFFF 2 = false) ∧
    (base.boot.phase = .run ∧ (oneCmd base (cm 0x3F [] fun c => { c with phase := .atCF })).acceptable 0 = true) ∧
    ([⟨0, [], true, false, false, []⟩] : List PlanJob).find? (·.ticked) = some ⟨0, [], true, false, false, []⟩ ∧
    (base.pwrRefusal 4 = none ∧ (pwrW (qs []) fun x => { x with trip := true }).pwrRefusal 1 = some stREJ_BUSY ∧ (st [(F.SEC_DBG_ATTACHED, 1)]).pwrRefusal 2 = some stREJ_PERM) ∧
    (leAt (rowPacket 0x38 (pk ([(1, 1)] ++ le 68 2 4095))) 68 2 < 4096 ∧ 4096 ≤ leAt (rowPacket 0x38 (pk ([(1, 1)] ++ le 68 2 4096))) 68 2 ∧ (true && daSpace (da 4 0) == 4) = true ∧ (true && daSpace (da 1 0) == 4) = false) ∧
    ((qs []).areaWrite 0 (da 1 0x10001000) (List.replicate 64 1)).isSome = true ∧ ((qs []).areaCheck 0 (da 1 0x20000000) 0 0 4096 true).1.isSome = true ∧
    (leAt (rowPacket 0x40 (pk [])) 28 2 = 0 ∧ entryRangeOk 0 0 0 = true ∧ ((qs []).areaCheck 0 (da 1 0x10000000) 0 0 16 false).1 = none ∧ ((qs []).areaRead 0 0 (da 1 0x10000000) 16 false).1.toOption.isSome = true) ∧
    (([⟨0, [], false, false, false, []⟩] : List PlanJob).find? (·.ticked) = none ∧ (([⟨0, [], false, true, false, []⟩] : List PlanJob).any (·.started)) = true) ∧
    (({ oneCmd base (cm 0x3F [] fun c => { c with phase := .atCF }) with cf := [0] } : State).cf.find? (({ oneCmd base (cm 0x3F [] fun c => { c with phase := .atCF }) with cf := [0] } : State).acceptable ·) = some 0) := by decide +kernel

/-- A descriptor of 64 bytes of local HBM, and a move of them to SRAM. -/
def dh : Desc := ⟨da 2 0, 0, 1, 0, 0, 0, 0, 0, 0, 0, [64], [1], 0, 64, false, 0, false⟩

def mv : Move := ⟨dh, { dh with base := da 1 0x10000000 }, true, true, viewAt 0x10 (rowPacket 0x10 (pk ([(1, 1), (68, 1), (74, 1)] ++ le 60 4 64))), 0, [], 0, [], true⟩

theorem witness_EngineRowsDecodeJoinAndStart :
    ((qs []).rowPasses 0 0 0x10 (pk [(1, 1)]) false = true ∧ (qs []).rowPasses 0 0 0x11 (pk []) false = true) ∧
    (qs []).rowPasses 0 0 0x12 (pk ([(1, 1), (64, 1)] ++ le 56 8 (da 1 0x10000000))) false = true ∧
    (qs []).rowPasses 0 0 0x13 (pk ([(1, 1), (64, 1)] ++ le 56 8 (da 1 0x10000000))) false = true ∧
    (qs []).rowPasses 0 0 0x14 (pk ([(24, 2)] ++ le 32 8 (da 1 0x10000000))) false = true ∧
    ((qs []).rowPasses 0 0 0x18 (pk [(1, 1), (36, 48)]) false = true ∧ (qs []).rowPasses 0 0 0x19 (pk (le 48 2 256)) false = true) ∧
    (qs []).headerCheck 0 0 (rowPacket 0x10 (pk [])) = some 1 ∧
    ((oneCmd base (cm 0x10 [] id)).cmd? 0 = some (cm 0x10 [] id) ∧ (cm 0x10 [] id).node = none) ∧
    (oneCmd base (cm 0x10 [] fun c => { c with phase := .ended })).cmd? 0 = some (cm 0x10 [] fun c => { c with phase := .ended }) ∧
    (({ qs [] with cmds := [cm 0x02 [] fun c => { c with phase := .atCF }] } : State).decodeHeld 0 0 = true ∧ (qs []).decodeHeld 0 0 = false ∧ (qs []).marksOk 0 0 (rowPacket 0x10 (pk [])) false = true) ∧
    (((oneCmd base (cm 0x10 [] id)).seqJoin 0).cmd? 0).any (fun e => (((oneCmd base (cm 0x10 [] id)).seqJoin 0).seqBroken e).isNone) = true := by decide +kernel

theorem witness_CommandsReachTheirEngines :
    ((cm 0x12 [] fun c => { c with phase := .metadata }).phase = .metadata ∧ (cm 0x12 [] fun c => { c with phase := .metadata }).op ≠ 0x14) ∧
    (oneCmd base (cm 0x10 [] fun c => { c with phase := .deferred })).pick ((oneCmd base (cm 0x10 [] id)).maskOf (cm 0x10 [] id)) ((oneCmd base (cm 0x10 [] id)).prefOf (cm 0x10 [] id)) ≠ none ∧
    (oneCmd base (cm 0x10 [] fun c => { c with phase := .runList })).mayStart (cm 0x10 [] fun c => { c with phase := .runList }) = true ∧
    (oneCmd base (cm 0x10 [] fun c => { c with phase := .active })).mayStart (cm 0x10 [] fun c => { c with phase := .active }) = false ∧
    (oneCmd base (cm 0x10 [] fun c => { c with phase := .timed, launch := 1000000 })).launchOk (cm 0x10 [] fun c => { c with phase := .timed, launch := 1000000 }) = true ∧
    (oneCmd base (cm 0x10 [] id)).startable (cm 0x10 [] id) = true ∧
    ((oneCmd base (cm 0x10 [] id)).headOfRank (cm 0x10 [] id) = true ∧ ((oneCmd base (cm 0x10 [] id)).activeOn 0).length < 16) ∧
    (oneCmd base (cm 0x10 [] id)).poolFits (cm 0x10 [] id) = true ∧
    16 ≤ (({ base with cmds := List.replicate 16 (cm 0x10 [] fun c => { c with phase := .active }) } : State).activeOn 0).length ∧
    ((qs []).readList 0 (pk ([(1, 1), (64, 1)] ++ le 56 8 (da 1 0x10000000))) false).1.toOption.isSome = true ∧ ((qs []).readList 0 (pk ([(1, 1), (64, 1)] ++ le 56 8 (da 4 0))) true).1.toOption.isSome = false ∧
    ((cm 0x14 [] fun c => { c with phase := .metadata }).phase = .metadata ∧ (cm 0x14 [] id).op = 0x14 ∧ ((qs []).areaRead 0 0 (da 1 0x10000000) 512 false).1.toOption.isSome = true) ∧
    ((cm 0x10 [] fun c => { c with phase := .deferred, placed := true }).placed = true ∧ isEngineOp 0x10 = true ∧ isAwlOp 0x18 = true ∧ isEngineOp 0x20 = false ∧ isAwlOp 0x20 = false) ∧
    ((List.range 32).foldl (fun s e => s.set (F.ENG_ECTRL_OFFLINE e) 1) base).pick (base.maskOf (cm 0x10 [] id)) (base.prefOf (cm 0x10 [] id)) = none ∧
    ((cadW base fun x => { x with joinHold := true }).launchHeld (cm 0x10 [] fun c => { c with phase := .timed, launch := 5 }) = true ∧ base.launchHeld (cm 0x10 [] fun c => { c with phase := .timed, launch := 5 }) = false) ∧
    ((oneCmd base (cm 0x10 [] fun c => { c with phase := .entering })).mayEnter (cm 0x10 [] fun c => { c with phase := .entering }) = true ∧ base.mayEnter (cm 0x10 [] id) = false) ∧
    ((cm 0x29 [] fun c => { c with started := true }).phase = .front ∧ (oneCmd base (cm 0x29 [] fun c => { c with started := true })).mayStart (cm 0x29 [] fun c => { c with started := true }) = false) := by decide +kernel

/-- A move of 64 bytes of HBM that is active, its block at hand; and the same on the Awl path. -/
def ac : Cmd := cm 0x10 [(1, 1)] fun c => { c with phase := .active, started := true, moves := [mv], looked := [0] }

def aw : Cmd := cm 0x18 [(1, 1), (36, 1)] fun c => { c with phase := .awl, started := true, moves := [mv] }

theorem witness_DataIsServedThenAnnouncedThenRecorded :
    ((oneCmd base ac).activeOn 0 = [ac] ∧ ac.cur = some mv ∧ base.srcRemote mv = false ∧ base.cached mv = false ∧ ac.stream = 4096) ∧
    (oneCmd base ac).chunkReady ac = true ∧ ((oneCmd base aw).awlOrder = [aw] ∧ (oneCmd base aw).awlReady aw mv = true) ∧
    (oneCmd base { aw with moves := [{ mv with src := { dh with base := 2 * 2 ^ 56 + 2 ^ 50 } }] }).awlReady aw { mv with src := { dh with base := 2 * 2 ^ 56 + 2 ^ 50 } } = false ∧
    (cm 0x10 ([(1, 1), (2, 0x80)] ++ [(48, 1), (49, 0x3F), (52, 1)]) fun c => { c with phase := .drained }).sigAfter = some ⟨1, 0x3F, 0, 1⟩ ∧
    (cm 0x10 ([(1, 1), (2, 0x80)] ++ [(48, 1), (49, 0x3F), (52, 1)]) fun c => { c with phase := .drained }).announceable = true ∧
    (cm 0x10 [(44, 1), (45, 0x80)] fun c => { c with phase := .drained, verdict := some false }).gate = true ∧
    ((cm 0x10 [] fun c => { c with phase := .drained }).sigAfter = none ∧ base.vc1Open 0 = []) ∧
    ((cm 0x10 [] fun c => { c with phase := .active }).phase = .active ∧ (oneCmd base (cm 0x10 [] id)).rankOf (cm 0x10 [] id) = 3) ∧
    ((oneCmd base ac).pickChunk 0 ((oneCmd base ac).engineSt 0) [ac]).isSome = true ∧ base.pickChunk 0 (base.engineSt 0) [] = none ∧
    (base.isLocal 0x3F = true ∧ ({ base with graphs := [⟨0, 7, 0, [⟨[], none, .heldReady, 0⟩], 0, none⟩] } : State).tenantHeld 0 = true) := by decide +kernel

/-- Tenant 15's four streams from 60 on fit, and a fifth does not. -/
theorem witness_EnginesResetAndPartitionsAreTaken :
    ((st [(F.TP_IRQ_TIME 0, 10)]).get (F.TP_IRQ_TIME 0) ≠ 0 ∧ ((base.setTenant { base.tenantSt 0 with irqCount := 1 }).tenantSt 0).irqCount ≠ 0) ∧
    (base.get (F.TP_IRQ_TIME 0) = 0 ∧ base.blockOpen = true ∧ (base.engineSt 7).resetting = false ∧ base.cmds = []) ∧
    (st [(F.TRC_CTRL_EN, 0)]).on F.TRC_CTRL_EN = false ∧
    (bitsOf 0x4003C 0 6 + bitsOf 0x4003C 16 7 = 64 ∧ bitsOf 0x5003C 0 6 + bitsOf 0x5003C 16 7 = 65) ∧
    (∀ u ∈ List.range 16, u ≠ 15 → rangesMeet 60 4 (base.get (F.ENG_SPART_BASE u)) (base.get (F.ENG_SPART_COUNT u)) = false) ∧
    ((base.setEngine 7 { base.engineSt 7 with resetting := true }).engineSt 7).resetting = true ∧ base.rein.reqs = [] ∧ (reinW base fun x => { x with reqs := [⟨0, 0, 7, 1, 2, 0, 0, 0⟩] }).rein.reqs.any (·.engine == 7) = true ∧
    (base.blockOpen = true ∧ (inPhase .restart base).blockOpen = false ∧ rangesMeet 60 4 63 1 = true) ∧
    ((cm 0x10 [] fun c => { c with stream := 64 * 59 }).stream < 4096 ∧ isEngineOp (cm 0x10 [] id).op = true ∧ (cm 0x10 [] fun c => { c with phase := .active }).phase ≠ .ended) := by decide +kernel

/-- Tenant 15's 16 sets from 240 on fit, a 17th does not; a request wins an idle lane; a holder within its grant keeps it. -/
theorem witness_PlansAndLanesFollowTheirArbiters :
    ([⟨0, [], true, true, true, []⟩] : List PlanJob).find? (·.started) = some ⟨0, [], true, true, true, []⟩ ∧
    ({ base with plans := [⟨3, 0, [7], [], 0, false⟩], planJobs := [⟨0, [7], true, true, false, []⟩] } : State).planAt 0 [7] = some ⟨3, 0, [7], [], 0, false⟩ ∧
    (base.planJobs = [] ∧ base.blockOpen = true ∧ base.planPinned 15 = 0 ∧ bitsOf 0x1000F0 0 9 + bitsOf 0x1000F0 16 9 = 256) ∧
    bitsOf 0x1100F0 0 9 + bitsOf 0x1100F0 16 9 = 257 ∧
    (∀ u ∈ List.range 16, u ≠ 15 → rangesMeet 240 16 (base.get (F.PRI_PART_BASE u)) (base.get (F.PRI_PART_COUNT u)) = false) ∧
    (arbOf 1000000 = .none ∧ arbOf 0 ≠ .none ∧ (base.lane 0).holder = none) ∧
    ((base.winner (arbOf 0) (base.lane 0) [⟨2, 1, 0, none, 0, 0, 0, false⟩]).isSome = true ∧ base.winner (arbOf 0) (base.lane 0) [] = none) ∧
    (((base.setLane 0 { base.lane 0 with holder := some 2, rank := 1 }).lane 0).holder = some 2 ∧ (base.lane 0).lockedBy = none ∧ (base.lane 0).beats < (arbOf 0).maxGrant) ∧
    ([⟨9, 0, 0, some 5, none, [(0, 64)], 0, 0, none, false⟩] : List LockSeq).find? (fun x => x.tenant == 0 && x.queue == 0 && x.openedAt.isSome && x.broken.isNone) = some ⟨9, 0, 0, some 5, none, [(0, 64)], 0, 0, none, false⟩ ∧
    (base.laneHere 0 = true ∧ base.laneHere 1000000 = false ∧ arbOf 0xC0 = .rein ∧ (base.lane 0xC0).vc3Room = true) ∧
    (oldest ([⟨33, 0, 0, none, 0, 3, 0, false⟩] : List ArbReq) = some ⟨33, 0, 0, none, 0, 3, 0, false⟩ ∧ oldest [] = none) ∧
    ((inPhase .restart base).blockOpen = false ∧ base.takesPart (arbOf 0) 0 ⟨2, 1, 0, none, 0, 0, 0, false⟩ = true ∧ preempts 1 2 = true) ∧
    (base.winner (arbOf 0) { base.lane 0 with holder := some 2, rank := 2 } [⟨3, 1, 0, none, 0, 0, 0, false⟩]).isSome = true ∧
    (({ base with lockSeqs := [⟨9, 0, 0, some 5, none, [(0, 63)], 0, 0, none, false⟩] } : State).seqOpen 9 = true ∧ ({ base with lockSeqs := [⟨9, 0, 0, some 5, none, [(0, 63)], 0, 0, none, false⟩] } : State).seqBeats 9 0 = 63 ∧ ({ base with lockSeqs := [⟨9, 0, 0, some 5, none, [(0, 64)], 0, 0, none, false⟩] } : State).seqBeats 9 0 = 64) := by decide +kernel

/-- The last of 64 counters, and one beyond. -/
theorem witness_CountersTakeTheirOperations :
    ((sy []).pageOpen 0 = true ∧ 63 < 64 * (sy []).get (F.SYN_PART_COUNT 0) ∧ (sy []).cmds = [] ∧ 64 * (sy []).get (F.SYN_PART_COUNT 0) ≤ 64) ∧
    ((inPhase .restart (sy [])).pageOpen 0 = false ∧ (cm 0x21 [(24, 1)] fun c => { c with started := true, deadline := some 5 }).waiting = true) := by decide +kernel

/-- Barrier 15 of tenant 0 with two participants and counter 62 as its phase, enabled or not. -/
def bs (en : Bool) : State := (sy []).setBar 15 { barZero with parts := 2, phaseIdx := 62, en := en }

theorem witness_BarriersWaitsAndLocksFollowTheirConditions :
    ((bs false).pageOpen 0 = true ∧ (bs false).poolBar 0 15 = some 15 ∧ ((bs false).bar 15).en = false ∧ ((bs true).bar 15).en = true) ∧
    (1 ≤ ((bs false).bar 15).parts ∧ ((bs false).bar 15).parts ≤ 4096 ∧ ((bs false).poolCnt 0 63).isSome = true) ∧
    (((bs false).poolCnt 0 ((bs false).bar 15).phaseIdx).isSome = true ∧ 63 ≠ ((bs false).bar 15).phaseIdx ∧ bit ((bs false).bar 15).notify 63 = false) ∧
    ((bs true).setBar 15 { (bs true).bar 15 with waiters := [(true, 0)] }).barHeld 0 15 15 = true ∧
    ((sy []).blockOpen = true ∧ (sy [(F.TP_Q_CTRL_EN 0 7, 1)]).on (F.TP_Q_CTRL_EN 0 7) = true) ∧
    (∀ q ∈ List.range 8, (sy []).on (F.TP_Q_CTRL_EN 0 q) = false) ∧ (240 + 16 = partTotal 0 ∧ 60 + 4 = partTotal 1 ∧ 15 + 1 = partTotal 2) ∧
    (∀ u ∈ List.range 15, rangesMeet 240 16 (base.get (partBase 0 u)) (base.get (partCount 0 u)) = false) ∧
    (∀ u ∈ List.range 15, rangesMeet 60 4 (base.get (partBase 1 u)) (base.get (partCount 1 u)) = false) ∧
    (∀ u ∈ List.range 15, rangesMeet 15 1 (base.get (partBase 2 u)) (base.get (partCount 2 u)) = false) ∧
    ((sy []).sync.bars = [] ∧ (sy []).sync.locks = []) ∧
    ((cm 0x21 [] fun c => { c with started := true, deadline := some 5 }).waiting = true ∧ (cm 0x22 [] id).phase = .front) ∧
    ((cm 0x23 [] id).lockTry ≠ .homeWait ∧ (cm 0x23 [] fun c => { c with lockTry := .backoff 7 }).lockTry = .backoff 7) ∧
    ((sy []).poolLock 0 255 = some 255 ∧ ((sy []).lock 255).queue = []) ∧
    ((((sy []).setLock 255 { lockZero with held := true, holderChip := 5, queue := [⟨1, 2, 3, 4⟩] }).lock 255).queue = [⟨1, 2, 3, 4⟩] ∧ 5 ≠ (sy []).chip) ∧
    ((sy []).poolBar 0 16 = none ∧ (bs false).barHeld 0 15 15 = false ∧ (cm 0x10 [] id).waiting = false ∧ ((sy []).setLock 255 { lockZero with held := true }).poolLock 0 255 = some 255) ∧
    (rangesMeet 240 16 255 1 = true ∧ inPart 1 60 4 (16 * 63) = true ∧ inPart 2 15 1 (16 * 15) = true) := by decide +kernel

/-- Graph 7 of tenant 0 with one node in a state, launched, and released at a time or not. -/
def gl (x : NodeSt) (r : Option Nat) : State := { gs with graphs := [⟨0, 7, 0, [⟨List.replicate 320 0, none, x, 0⟩], 1, some ⟨0, 0, 0, none, 0, 0, 0, r⟩⟩] }

theorem witness_GraphsRunByTheirFlags :
    (gs.pageOpen 0 = true ∧ gs.blockOpen = true ∧ gs.nextNode = none ∧ (gs.refillReady 0).tenantHeld 0 = false) ∧
    ((gl .armed none).graph? 0 7 ≠ none ∧ ((gl .armed (some 9)).graph? 0 7).bind (·.launch) ≠ none) ∧ (gl .ready (some 9)).nextNode = some (0, 0) ∧
    (({ gs with graphs := (List.range 32).map (fun k => ⟨0, k, 16 * k, List.replicate 16 ⟨[], none, .ready, 0⟩, 1, none⟩) ++ [⟨0, 32, 512, [⟨[], none, .heldReady, 0⟩], 1, none⟩] } : State).refillReady 0).tenantHeld 0 = true ∧
    (256 < bitsOf 0x1100F0 0 8 + bitsOf 0x1100F0 16 9 ∧ bitsOf 0x1000F0 0 8 + bitsOf 0x1000F0 16 9 ≤ 256) ∧
    (∀ u ∈ List.range 15, rangesMeet 240 16 (base.get (F.SCH_PART_BASE u)) (base.get (F.SCH_PART_COUNT u)) = false) ∧
    ((gl .armed none).graph? 0 7).bind (·.launch) = some ⟨0, 0, 0, none, 0, 0, 0, none⟩ ∧ ((gl .armed (some 9)).graph? 0 7).bind (·.nodes[0]?) = some ⟨List.replicate 320 0, none, .armed, 0⟩ ∧
    (gs.graph? 0 8 = none ∧ (inPhase .restart gs).blockOpen = false ∧ (inPhase .restart gs).pageOpen 0 = false) := by decide +kernel

/-- A flit of VC `v`; and a DATA flit of LSEQ 0 as it is on the wire, with its CRC. -/
def fl (v : Nat) : Flit := ⟨1, v, false, true, 0, 0, 1, 0, 0, List.replicate 256 0⟩

def fh : List Byte := [1, 0, 0, 0, 0, 0, 0, 0, 0, 0, 0, 0]

def fg : List Byte := fh ++ (leBytes 4 (crc32 (fh ++ List.replicate 256 0)) ++ List.replicate 256 0)

/-- A port in a training state, enabled. -/
def ps (n x : Nat) : State := (st [(F.REI_P_CTRL_EN n, 1), (F.REI_ID_VALID, 1)]).set (F.REI_P_STATUS_STATE n) x

theorem witness_PortsTrainRetryAndComeUp :
    (base.blockOpen = true ∧ base.portState 11 = 0 ∧ (st [(F.REI_ID_VALID, 1)]).on F.REI_ID_VALID = true ∧ base.on F.REI_ID_VALID = false) ∧
    (∀ x ∈ List.range 9, (ps 11 x).portState 11 = x) ∧
    (((ps 11 6).set (F.REI_P_CTRL_EN 11) 0).portState 11 ≠ 0 ∧ (ps 3 3).on (F.REI_P_CTRL_HALF_OK 3) = false) ∧
    ((st [(F.REI_P_CTRL_HALF_OK 3, 1)]).on (F.REI_P_CTRL_HALF_OK 3) = true ∧ (ps 0 8).on (F.REI_P_CTRL_EN 0) = true ∧ base.on (F.REI_P_CTRL_EN 0) = false) ∧
    (base.get64 F.REI_SERIAL_LO = 0x11 ∧ base.chip = 0) ∧
    ((ps 0 6).portActive 0 = true ∧ (ps 0 7).portActive 0 = false ∧ ((ps 0 7).port 0).attempts < 2) ∧
    2 ≤ (((ps 0 7).setPort 0 { (ps 0 7).port 0 with attempts := 2 }).port 0).attempts ∧
    ((((ps 0 6).lackTo 0 5).port 0).replay = [] ∧ ((ps 0 6).port 0).egress = []) ∧
    (((ps 0 6).setPort 0 { (ps 0 6).port 0 with replay := [(6, fl 0)], replayedSeq := 4096 }).lackTo 0 5 |>.port 0).replay = [(6, fl 0)] ∧
    (((ps 0 6).setPort 0 { (ps 0 6).port 0 with egress := [fl 0] }).port 0).egress ≠ [] ∧ (bit (leAt fg 6 2) 12 = false ∧ (flitOf fg).kind ≠ 0) ∧
    bitsOf (leAt fg 4 2) 0 12 = ((((ps 0 6).lackTo 0 (bitsOf (leAt fg 6 2) 0 12)).creditsIn 0 0 0).port 0).rxSeq ∧
    ((inPhase .restart base).blockOpen = false ∧ ((ps 11 0).set (F.REI_P_CTRL_EN 11) 0).portState 11 = 0 ∧ (ps 3 5).portState 3 = 5) ∧
    ((ps 3 5).get64 F.REI_SERIAL_LO < 0x12 ∧ (ps 3 5).chip = 0 ∧ (1 : Nat) ≠ (ps 3 5).chip) ∧
    base.portActive 0 = false := by decide +kernel

/-- A message of chip 1 for tenant 0. -/
def ms (f : Msg → Msg) : Msg := f { msgZero with src := 1 }

/-- Window 5 of tenant 0: 4 KB of HBM, readable. -/
def rs : State := { sy [(F.MEM_STATUS_HBM_READY, 1)] with wins := [(5, ⟨0, some ⟨2, 0, 4096, 0, true, false⟩⟩)] }

/-- A command that awaits the answer to its request 9 at chip 1. -/
def rq (c : Cmd) : State := reinW (oneCmd base c) fun x => { x with reqs := [⟨9, 0, 0, 1, 1, 0, 8, 0⟩] }

/-- A sequence of chip 1 and tenant 0 that a bound has ended here. -/
def endedSt : State := { base with lockSeqs := [⟨9, 0, 9, some 5, none, [], 0, 0, some stABORT_TIMEOUT, false⟩] }

theorem witness_RequestsAndAnswersMeet :
    (rs.boot.phase ≠ .restart ∧ rs.pcie.ctxRst = []) ∧
    (rs.inboundCheck 0 (asMop (ms fun m => { m with win := 5, da := da 2 0, operand := 4096 }) 0 0x01) 4096 false).1 = none ∧
    (rs.inboundCheck 0 (asMop (ms fun m => { m with win := 5, da := da 2 0, operand := 4096 }) 0 0x01) 4097 false).1 ≠ none ∧ daSpace (da 2 0) ≠ 6 ∧
    (rs.poolLock 0 (255 % 256) = some 255 ∧ (rs.lock 255).held = false ∧ ((rs.setLock 255 { lockZero with held := true }).lock 255).held = true) ∧
    (st [(F.SYN_LPART_COUNT 0, 1)]).poolLock 0 (16 % 256) = none ∧
    (((rq (cm 0x23 [] fun c => { c with lockTry := .homeWait })).takeReq (asMop (ms fun m => { m with rtag := 9 }) 2 0x20)).2.cmd? 0).isSome = true ∧
    ((rq (cm 0x23 [] id)).takeReq (asMop (ms fun m => { m with rtag := 9 }) 2 0x23)).1 = some ⟨9, 0, 0, 1, 1, 0, 8, 0⟩ ∧
    ((reinW (rq (cm 0x23 [] id)) fun x => x).chip ≤ (ms id).src ∧ (ms id).src < (st [(F.REI_ID_CHIP, 2)]).chip) ∧
    ((oneCmd base (cm 0x22 [(27, 1)] id)).cmdOfTag 0 = some (cm 0x22 [(27, 1)] id) ∧ baWait (cm 0x22 [(27, 1)] id).pkt = true) ∧
    base.cmdOfTag 0 = none ∧
    ((base.wake 3).endedHere (asMop (ms id) 0 0x01) = none ∧ (inPhase .restart base).boot.phase = .restart ∧ ((rs.inboundCheck 0 (asMop (ms fun m => { m with win := 5, da := da 2 0, operand := 4096 }) 0 0x01) 4096 false).2.memRead 2 0 64 0x40 0 0).1.isSome = true) ∧
    (endedSt.endedHere (asMop (ms fun m => { m with lock := true }) 0 0x01)).isSome = true ∧
    ((memW rs fun x => { x with ue := [(2, 0)] }).memRead 2 0 64 0x40 0 0).1 = none ∧
    ((pcieW rs fun x => { x with ctxRst := [(0, true)] }).holdsMsg (asMop (ms id) 0 0x03) = true ∧ rs.holdsMsg (asMop (ms id) 0 0x03) = false) ∧
    (((base.takeReq (ms id)).1 = none) ∧ (ms id).status = 0 ∧ (ms fun m => { m with status := 0x21 }).status ≠ 0) ∧
    (bit (ms fun m => { m with operand := 256 }).operand 8 = true ∧ (cm 0x23 [] fun c => { c with lockTry := .homeWait }).lockTry = .homeWait) ∧
    ((cm 0x22 [(27, 1)] fun c => { c with cursor := 2 }).cursor = 1 + b2n (bit 0x10000 16) ∧ (cm 0x22 [(27, 1)] id).cursor ≠ 1 + b2n (bit 0 16)) ∧
    ((oneCmd base (cm 0x10 [] id)).endedThere (asMop (ms id) 2 0x26) (cm 0x10 [] id) = none) := by decide +kernel

/-- An expected message, one after a gap, an epoch newer by 127 and one newer by 128. -/
theorem witness_PostedMessagesKeepOrderAndEpochs :
    (base.boot.phase ≠ .restart ∧ base.pcie.ctxRst = [] ∧ (base.rxPair 1).refused = [] ∧ (base.rxPair 1).gap = false) ∧
    ((ms fun m => { m with eseq := (base.rxPair 1).expect }).eseq = (base.rxPair 1).expect ∧ (base.rxPair 1).epoch = (ms id).epoch) ∧
    ((base.setRx 1 { base.rxPair 1 with gap := true }).rxPair 1).gap = true ∧
    ((ms id).epoch = base.get (F.REI_TXE_EPOCH 1) ∧ (base.txPair 1).sent = []) ∧
    (((base.setRx 63 { base.rxPair 63 with owedSince := some 7 }).rxPair 63).owedSince = some 7 ∧ (base.rxPair 63).owedSince = none) ∧
    ((base.setTx 1 { base.txPair 1 with sent := [⟨ms id, none, 0⟩] }).txPair 1).sent = [⟨ms id, none, 0⟩] ∧
    ((rq (cm 0x10 [] id)).advance 100000).rein.reqs.find? (fun r => r.tag == 9) = some ⟨9, 0, 0, 1, 1, 0, 8, 0⟩ ∧
    (1 ≤ (127 + 256 - (base.rxPair 1).epoch) % 256 ∧ (127 + 256 - (base.rxPair 1).epoch) % 256 ≤ 127 ∧ 127 < (128 + 256 - (base.rxPair 1).epoch) % 256) ∧
    (((inPhase .restart base).boot.phase = .restart) ∧ (base.wake 3 = base) ∧ (base.rxPair 1).epoch ≠ (ms fun m => { m with epoch := 9 }).epoch) ∧
    (base.rxPair 1).expect ≠ (ms fun m => { m with eseq := 9 }).eseq ∧
    (base.endedHere (ms id) = none ∧ (endedSt.endedHere (asMop (ms fun m => { m with lock := true }) 1 0x10)).isSome = true) ∧
    (base.rein.reqs.find? (·.tag == 9) = none ∧ (cm 0x23 [] fun c => { c with lockTry := .homeWait }).op = 0x23) := by decide +kernel

/-- Egress 11 is the last port; 12 names none. -/
theorem witness_DomainElectsAndAligns :
    (base.rein.master ≠ base.chip ∧ (domFields (ms fun m => { m with data := [5] })).getD 0 63 ≠ base.chip) ∧
    ((domFields (ms id)).getD 0 63 = base.chip ∧ base.get64 F.REI_SERIAL_LO < (domFields (ms fun m => { m with data := [0, 0x12] })).getD 1 0) ∧
    (List.range 12).find? (fun k => (st [(F.REI_P_STATUS_UPSTREAM 11, 1)]).on (F.REI_P_STATUS_UPSTREAM k)) = some 11 ∧
    (List.range 12).find? (fun k => base.on (F.REI_P_STATUS_UPSTREAM k)) = none ∧
    (routeWordOk 0 0xFB0000 = true ∧ routeWordOk 0 0xFC0000 = false ∧ routeWordOk 0 0xCB0000 = false ∧ routeWordOk 1 0xFFFFFFFF = true) ∧
    (((ps 4 6).set (F.REI_P_CTRL_TIME_EN 4) 1).sendsTime 4 = true ∧ base.sendsTime 4 = false) ∧
    (base.isMaster = false ∧ (st [(F.CAD_STATUS_MASTER, 1)]).isMaster = true ∧ base.rein.gen < 1) ∧
    ((((ps 4 6).set (F.REI_P_STATUS_UPSTREAM 4) 1).port 4).spoilt = false ∧ base.cad.joining = false) ∧
    (((ps 4 6).setPort 4 { (ps 4 6).port 4 with spoilt := true }).port 4).spoilt = true ∧
    ((reinW (st [(F.CAD_STATUS_SOURCE, 4)]) fun x => { x with master := 5 }).get F.CAD_STATUS_SOURCE = 4 ∧ base.get F.CAD_STATUS_SOURCE ≠ 4) ∧
    ((reinW base fun x => { x with master := 0 }).rein.master = base.chip ∧ (inPhase .restart base).blockOpen = false ∧ (st [(F.REI_ID_VALID, 1)]).on F.REI_ID_VALID = true) ∧
    ((cadW (ps 4 6) fun x => { x with joinFirst := true }).cad.joinFirst = true ∧ base.cad.joinFirst = false ∧ base.cad.joinHold = false ∧ (cadW base fun x => { x with joinHold := true }).cad.joinHold = true) ∧
    ((base.exchangeOffset 4 0).natAbs ≤ 300 ∧ 1000 < -(((cadW (base.setPort 4 { base.port 4 with t1 := 100000 }) id).exchangeOffset 4 100000 + 10) / 20) ∧ -((((base.setPort 4 { base.port 4 with t2 := 100000, t3 := 100000 }).exchangeOffset 4 0) + 10) / 20) < -1000) ∧
    (base.rein.gen < (ms fun m => { m with operand := 1 }).operand ∧ (ms id).operand ≤ base.rein.gen) := by decide +kernel

theorem witness_TokensAreLeasedAndReturned :
    (girthOf (ms fun m => { m with operand := 0x0501E00280 }) = (0x280, 0x1E0, 5) ∧ base.chip ≠ 5) ∧
    ((st [(F.CAD_STATUS_MASTER, 1)]).isMaster = true ∧ base.isMaster = false ∧ base.upstream = none) ∧
    (st [(F.REI_P_STATUS_UPSTREAM 11, 1)]).upstream = some 11 ∧
    (reinW base fun x => { x with asks := [⟨5, 0x280, 0x1E0, 3⟩] }).rein.asks.find? (fun a => a.chip == 5) = some ⟨5, 0x280, 0x1E0, 3⟩ ∧
    ((reinW base fun x => { x with lease := some (640, 9) }).rein.lease = some (640, 9) ∧ base.rein.lease = none) ∧
    (base.pwr.thermal = none ∧ base.pwr.cap = 0 ∧ base.get F.PWR_LOCAL_CAP = 0) ∧
    ((base.putAsk ⟨0, 1, 2, 12⟩).isMaster = false ∧ ((st [(F.CAD_STATUS_MASTER, 1)]).putAsk ⟨0, 1, 2, 12⟩).isMaster = true) := by decide +kernel

/-- Zeros behind 16 bytes read as zeros. -/
theorem slice_zeros (n : Nat) (p : List Byte) (hp : p.length = 16) : slice (p ++ List.replicate n 0) 16 n = List.replicate n 0 := by
  simp only [slice]
  rw [List.eq_replicate_iff]
  refine ⟨by simp, fun b hb => ?_⟩
  obtain ⟨k, hk, rfl⟩ := List.mem_map.mp hb
  rw [List.getD_eq_getElem?_getD, List.getElem?_append_right (by omega)]
  rw [List.getElem?_replicate]
  split <;> rfl

/-- A flit with the CRC of its other bytes is good. -/
theorem witness_goodFlit : flitGood fg = true := by
  have ha : ∀ r : List Byte, slice (fh ++ r) 0 12 = fh := fun _ => rfl
  have hc : ∀ (c : Nat) (r : List Byte), c < 2 ^ 32 → leAt (fh ++ (leBytes 4 c ++ r)) 12 4 = c := by
    intro c r h
    have : leAt (fh ++ (leBytes 4 c ++ r)) 12 4 = ofLE (leBytes 4 c) := rfl
    rw [this]
    simp only [leBytes, ofLE, BitVec.toNat_ofNat]
    omega
  have hb : ∀ l, crc32 l < 2 ^ 32 := fun _ => BitVec.isLt _
  simp only [flitGood, beq_iff_eq]
  rw [fg, hc _ _ (hb _), ha, ← List.append_assoc, slice_zeros _ _ rfl]

/-- Of two flits that differ in the CRC alone one is bad. -/
theorem witness_badFlit : ∃ b, flitGood b = false := by
  refine Classical.byContradiction fun h => ?_
  have g : ∀ b, flitGood b = true := fun b => by
    cases hb : flitGood b with
    | true => rfl
    | false => exact absurd ⟨b, hb⟩ h
  have h0 := g (fh ++ (leBytes 4 0 ++ List.replicate 256 0))
  have h1 := g (fh ++ (leBytes 4 1 ++ List.replicate 256 0))
  have e : ∀ c, slice (fh ++ (leBytes 4 c ++ List.replicate 256 0)) 0 12 = fh ∧
      slice (fh ++ (leBytes 4 c ++ List.replicate 256 0)) 16 256 = List.replicate 256 0 := fun c =>
    ⟨rfl, by rw [← List.append_assoc]; exact slice_zeros _ _ rfl⟩
  simp only [flitGood, (e 0).1, (e 0).2, (e 1).1, (e 1).2, beq_iff_eq] at h0 h1
  exact absurd (h0.trans h1.symm) (by decide)

/-- Port 1 of Ethernet is enabled and up. -/
def eu (l : List (Fld × Nat)) : State := ethW (st ([(F.ETH_CTRL_EN, 2)] ++ l)) fun x => { x with up := 2 }

/-- A frame of 64 bytes with an EtherType and a good FCS. -/
def fr (t : Nat) : List Byte := (List.replicate 12 0 ++ beBytes 2 t ++ List.replicate 46 0) ++
  leBytes 4 (crc32 (List.replicate 12 0 ++ beBytes 2 t ++ List.replicate 46 0))

/-- An ARP request for 10.0.0.1, and a neighbour solicitation for an address that ends in 1. -/
def ar : List Byte := List.replicate 12 1 ++ [8, 6] ++ [0, 1, 8, 0, 6, 4, 0, 1] ++ List.replicate 16 2 ++ [10, 0, 0, 1]

def ns : List Byte := List.replicate 12 1 ++ [0x86, 0xDD] ++ List.replicate 6 0 ++ [58, 255] ++ List.replicate 16 3 ++ List.replicate 16 0
    ++ [135] ++ List.replicate 7 0 ++ List.replicate 15 0 ++ [1]

/-- Frames of 64 bytes and of the MTU are of a size to take; 63 bytes are not. -/
theorem witness_FramesAreCheckedAndPortsKeyed :
    (base.ethLive 1 = false ∧ (eu []).ethLive 1 = true ∧ ((fr 0x0800).take 63).length < 64) ∧
    ((fr 0x9999).length = 64 ∧ 64 ≤ (eu []).get F.ETH_CTRL_MTU ∧ leAt (fr 0x9999) 60 4 = crc32 ((fr 0x9999).take 60)) ∧
    (((eu [(F.ETH_CTRL_MSEC_REQ, 2)]).macsecIn 1 ((fr 0x9999).take 60)).1 = none ∧ ((eu []).macsecIn 1 ((fr 0x9999).take 60)).1 = some (none, (fr 0x9999).take 60)) ∧
    ((eu []).ktdPayload 1 ((fr 0x9999).take 60) = none ∧ ((eu []).ethConsumer 1 ((fr 0x9999).take 60)).isNone = true) ∧
    (bit (ethW base fun x => { x with paused := 2 }).eth.paused 1 = true ∧ bit ((eu [(F.ETH_CTRL_PFC, 2)]).get F.ETH_CTRL_PFC) 1 = true) ∧
    262144 * (eu [(F.ETH_PFC_XON, 0)]).get F.ETH_PFC_XON < (ethW (eu [(F.ETH_PFC_XON, 0)]) fun x => { x with buffer := [⟨1, List.replicate 48 0, [0], [], 0, 0⟩] }).ingestUsed 1 ∧
    (bit base.eth.paused 1 = false ∧ bit (eu []).eth.up 1 = true ∧ bit base.eth.up 1 = false ∧ bit (base.get F.ETH_CTRL_EN) 1 = false) ∧
    ((eu [(F.ETH_CTRL_LAND_EN, 1)]).landHalted = false ∧ (st [(F.ETH_CTRL_LAND_EN, 0)]).landHalted = true ∧ (eu []).get F.PWR_STATUS_STATE = 0) ∧
    (bit ((eu [(F.ETH_IP_EN 1, 3)]).get (F.ETH_IP_EN 1)) 1 = true ∧ (etherType ar) = (0x0806, 14) ∧ slice ar 14 8 = [0, 1, 8, 0, 6, 4, 0, 1]) ∧
    slice ar (14 + 24) 4 = (eu [(F.ETH_IP_V4 1, 0x0100000A)]).ethV4 1 ∧
    (bit (base.get (F.ETH_IP_EN 1)) 1 = false ∧ bit (base.get (F.ETH_IP_EN 1)) 0 = false) ∧
    ((etherType ns) = (0x86DD, 14) ∧ leAt ns 20 1 = 58 ∧ leAt ns 54 1 = 135 ∧ slice ns 62 16 = (eu [(F.ETH_IP_V6 1 3, 0x01000000)]).ethV6 1) ∧
    slice ns 22 16 ≠ List.replicate 16 0 ∧ (bit (base.get F.ETH_CTRL_MKA) 1 = false ∧ bit ((eu [(F.ETH_CTRL_MKA, 2)]).get F.ETH_CTRL_MKA) 1 = true) ∧
    ((secW base fun x => { x with slots := [(3, [1, 2] ++ List.replicate 78 0)] }).cakFor 1).isSome = true ∧
    (List.range 512).find? (fun k => (eu [(F.ETH_MSC_CTRL_EN 1 0, 1)]).on (F.ETH_MSC_CTRL_EN 1 k) && (eu [(F.ETH_MSC_CTRL_EN 1 0, 1)]).mscSci 1 k == slice (List.replicate 40 0) 22 8) = some 0 ∧
    (ethW base fun x => { x with sas := [⟨1, 511, 0, [], 1, true⟩] }).eth.sas = [⟨1, 511, 0, [], 1, true⟩] ∧
    ((eu [(F.ETH_CTRL_LAND_EN, 1)]).eth.buffer = [] ∧ (bit (eu []).eth.up 1 ≠ false) ∧ bit ((eu []).get F.ETH_CTRL_EN) 1 = true ∧ (eu []).get F.PWR_STATUS_STATE ≤ 2) ∧
    ((inState 3 base).get F.PWR_STATUS_STATE = 3 ∧ (etherType ns).1 ≠ 0x0806 ∧ (etherType ar).1 ≠ 0x86DD) := by decide +kernel

/-- A camera with some entry, on slot 4095. -/
def ca : Camera := ⟨leBytes 32 7, none, 0, 0, 0, 0, 0⟩

def cs : State := ethW (st [(F.ETH_CAM_SEL, 4095)]) fun x => { x with cams := [(4095, ca)] }

theorem witness_CamerasAndRulesAreKept :
    (base.blockOpen = true ∧ (kvFind base.eth.cams (base.get F.ETH_CAM_SEL)).isNone = true ∧ base.eth.cams = []) ∧
    kvFind cs.eth.cams (cs.get F.ETH_CAM_SEL) = some ca ∧
    (base.ruleOk 255 7 8960 = true ∧ base.ruleOk 255 7 8961 = false ∧ base.ruleOk 255 7 0 = false ∧ base.ruleOk 255 2 0xF00000 = false) ∧
    ((inPhase .restart base).boot.phase = .restart ∧ (inPhase .restart base).blockOpen = false) := by decide +kernel

/-- Two windows of one page that touch are apart; two at one place are not. An aperture of a doorbell kind has 64 pages. -/
theorem witness_WindowsStaySizedAndApart :
    (base.pageOpen 0 = true ∧ base.ctxBusy 0 = false ∧ base.blockOpen = true) ∧
    (st [(F.TP_HWIN_VALID 0 15, 1), (F.TP_HWIN_SIZE 0 15, 1), (F.TP_HWIN_OFFSET 0 15, 1), (F.TP_HWIN_VALID 0 0, 1), (F.TP_HWIN_SIZE 0 0, 1)]).hwinOk 0 15 = true ∧
    (st [(F.TP_HWIN_VALID 0 15, 1), (F.TP_HWIN_SIZE 0 15, 1), (F.TP_HWIN_VALID 0 0, 1), (F.TP_HWIN_SIZE 0 0, 1)]).hwinOk 0 15 = false ∧
    ((st [(F.TEN_P2P_VALID 63, 1), (F.TEN_P2P_SIZE 63, 1)]).p2pOk 63 = true ∧ (st [(F.TEN_P2P_VALID 63, 1)]).p2pOk 63 = false) ∧
    (st [(F.TEN_APIN_VALID 63, 1), (F.TEN_APIN_KIND 63, 1), (F.TEN_APIN_SIZE 63, 64)]).apinOk 63 = true ∧
    (st [(F.TEN_APIN_VALID 63, 1), (F.TEN_APIN_KIND 63, 1), (F.TEN_APIN_SIZE 63, 63)]).apinOk 63 = false ∧
    (bit ((st [(F.BRD_REG 2 0 3, 2 ^ 31)]).get (F.BRD_REG 2 0 3)) 31 = true ∧ (st [(F.BRD_REG 2 0 0, 5), (F.BRD_REG 2 0 1, 4)]).get (F.BRD_REG 2 0 1) < 5) ∧
    ((st [(F.BRD_REG 2 0 0, 5), (F.BRD_REG 2 0 1, 5)]).get (F.BRD_REG 2 0 0) ≤ 5 ∧ bitsOf 96 5 3 = 3) := by decide +kernel

/-- Link 3 of the accelerator port is up, with aperture 63 of one page at 0 that allows reads only. -/
def al (l : List (Fld × Nat)) : State := st ([(F.TEN_APL_UP 3, 1), (F.TEN_APIN_VALID 63, 1), (F.TEN_APIN_R 63, 1), (F.TEN_APIN_SIZE 63, 1),
  (F.TEN_APIN_LINK 63, 3)] ++ l)

/-- The same with a window of TSM behind the aperture. -/
def aw5 : State := { al [(F.TEN_APIN_TARGET 63 1, 0x01FC0000), (F.TEN_APIN_TARGET 63 0, 0x10000000)] with wins := [(0, ⟨0, some ⟨1, 0x10000000, 4096, 0, true, true⟩⟩)] }

theorem witness_AcceleratorPortIsGuarded :
    ((al []).on (F.TEN_APL_UP 3) = true ∧ (al []).get F.PWR_STATUS_STATE ≤ 2 ∧ (al []).boot.phase ≠ .restart ∧ base.on (F.TEN_APL_UP 3) = false) ∧
    bit ((al [(F.TEN_AP_IDE_REQ, 8)]).get F.TEN_AP_IDE_REQ) 3 = true ∧
    (∀ i ∈ List.range 64, (al []).on (F.TEN_APIN_VALID i) = true → ((al []).apinRange i).1 + ((al []).apinRange i).2 < 4093 + 4) ∧
    (List.range 64).find? (fun i => (al []).on (F.TEN_APIN_VALID i) && (al []).get (F.TEN_APIN_LINK i) == 3 && decide (((al []).apinRange i).1 ≤ 4092) && decide (4092 + 4 ≤ ((al []).apinRange i).1 + ((al []).apinRange i).2)) = some 63 ∧
    ((al []).on (F.TEN_APIN_KIND 63) = false ∧ (al []).on (F.TEN_APIN_W 63) = false ∧ bit ((st [(F.TEN_AP_EN, 0)]).get F.TEN_AP_EN) 3 = false) ∧
    (base.on F.TEN_AP_MODE = false ∧ (st [(F.TEN_AP_MODE, 1)]).on F.TEN_AP_MODE = true ∧ bit ((st [(F.TEN_AP_EN, 8)]).get F.TEN_AP_EN) 3 = true) ∧
    (base.blockOpen = true ∧ bit 0xFFFFFFFE 0 = false ∧ bit 1 0 = true ∧ (st [(F.TRC_CTRL_EN, 0)]).on F.TRC_CTRL_EN = false) ∧
    ((al []).wake 2 = al [] ∧ (inPhase .restart (al [])).boot.phase = .restart ∧ ((inState 3 (al [])).get F.PWR_STATUS_STATE = 3)) ∧
    ((al []).on F.TEN_AP_MODE = false ∧ 2 ^ (al []).get F.TEN_AP_BAR0_SIZE < 0x7FFFFFFFFFFFFFFF + 4 ∧ 4092 + 4 ≤ 2 ^ (al []).get F.TEN_AP_BAR0_SIZE) ∧
    ((al [(F.TEN_APIN_KIND 63, 1)]).on (F.TEN_APIN_KIND 63) = true ∧ (al []).on (F.TEN_APIN_R 63) = true) ∧
    ((al []).window 0 ((al []).get (F.TEN_APIN_WIN 63)) ((al []).get (F.TEN_APIN_GEN 63)) = none ∧ (aw5.window 0 (aw5.get (F.TEN_APIN_WIN 63)) (aw5.get (F.TEN_APIN_GEN 63))).isSome = true) ∧
    ((⟨1, 0x10000000, 4096, 0, true, true⟩ : Window) |> fun w => (aw5.insideWindow w 1 0x10000000 4 = true ∧ aw5.insideWindow w 1 0x10000FFF 4 = false)) ∧
    ((aw5.bridleRange 1 0 0x34 clsAPORT true 0x10000000 4).1 = true ∧ (aw5.memRead 1 0x10000000 4 0x34 0 0).1.isSome = true) ∧
    ((st [(F.TEN_AP_EN, 8), (F.TEN_AP_BIF, 2)]).apLinks = 4 ∧ 1 ≤ apLanes 2 ∧ (st [(F.TEN_AP_MODE, 1)]).on F.TEN_AP_MODE = true) := by decide +kernel

/-- Functions 1 to 15 are present. -/
def vf : State := pcieW base fun x => { x with vfEnable := true, numVfs := 15 }

theorem witness_FunctionsAnswerAndReset :
    (State.reset.pcie.hpUp = false ∧ base.pcie.hpUp = true ∧ base.pcie.crs = false ∧ (pcieW base fun x => { x with crs := true }).pcie.crs = true) ∧
    (vf.fnPresent 15 = true ∧ base.fnPresent 1 = false ∧ base.fnPresent 0 = true) ∧
    (State.reset.pcie.perst = true ∧ base.pcie.perst = false ∧ base.get F.PWR_STATUS_STATE < 4) ∧
    (base.boot.porLow = false ∧ (bootW base fun x => { x with porLow := true }).boot.porLow = true ∧ (inState 4 base).get F.PWR_STATUS_STATE = 4) := by decide +kernel

theorem witness_ContextResetsAndSyncsComplete :
    (base.blockOpen = true ∧ base.ctxBusy 15 = false ∧ (pcieW base fun x => { x with ctxRst := [(15, true)] }).ctxBusy 15 = true) ∧
    ((st [(F.TRC_CTRL_EN, 0)]).on F.TRC_CTRL_EN = false ∧ (pcieW base fun x => { x with ctxRst := [(15, true)] }).ctxDrained 15 = true) ∧
    (base.setTx 1 { base.txPair 1 with waiting := [⟨ms fun m => { m with tenant := 15 }, none, 0⟩] }).ctxDrained 15 = false ∧
    (pcieW base fun x => { x with brdSync := some [0] }).pcie.brdSync = some [0] ∧
    ((oneCmd base (cm 0x10 [] id)).cmd? 0 = some (cm 0x10 [] id) ∧ (cm 0x10 [] id).isEnded = false ∧ (cm 0x10 [] fun c => { c with phase := .ended }).isEnded = true) ∧
    ((inPhase .restart base).boot.phase = .restart ∧ (pcieW base fun x => { x with brdSync := some [0] }).blockOpen = true ∧ base.pcie.brdSync = none) := by decide +kernel

/-- A summary of channel 5, tenant 3; a rule on it that holds or not; and a pair of it with channel 6. -/
def sm (chan mirror : Nat) : List Byte := [BitVec.ofNat 8 chan, 0, BitVec.ofNat 8 (3 + 16 * mirror)] ++ List.replicate 93 0

def rl (hi : Nat) : List Byte := [5, 0, 0x83, 1, 2, 0, 0, 0] ++ leBytes 8 hi ++ leBytes 8 hi

/-- A summary of the other side of a pair that was lost, with the tag of `sm`. -/
def i5 (p : Nat) : Nat × Bool × Nat := (p, true, smUtag (sm 5 1))

def pa : List Byte := [5, 0, 6, 0, 0x33, 0x80, 2, 0] ++ leBytes 4 100 ++ List.replicate 12 0

/-- The Loupe is ready and holds a summary, rules, pairs and unpaired summaries. -/
def ls (r : List Byte) (rules pairs : List (Nat × List Byte)) (u : List Unpaired) : State :=
  lpeW (st [(F.LPE_STATUS_SAFE_READY, 1), (F.LPE_STATUS_ARMED, 1)]) fun x => { x with inbox := [(0, r)], rules := rules, pairs := pairs, unpaired := u }

theorem witness_LoupeJudgesItsSummaries :
    (base.lpe.inbox = [] ∧ (lpeW base fun x => { x with unpowered := true }).lpe.unpowered = true) ∧
    ((ls (sm 5 0) [] [] []).lpe.inbox = [(0, sm 5 0)] ∧ (ls (sm 5 0) [] [] []).lpe.down = none ∧ (ls (sm 5 0) [] [] []).lpe.unpowered = false) ∧
    ((ls (sm 5 0) [] [] []).on F.LPE_STATUS_SAFE_READY = true ∧ base.on F.LPE_STATUS_SAFE_READY = false) ∧
    ((ls (sm 5 0) [] [] []).rulesFor (sm 5 0) = [] ∧ (ls (sm 5 0) [] [] []).watchersFor (sm 5 0) = [] ∧ (ls (sm 5 0) [] [] []).pairOf 5 3 = none) ∧
    (smMirror (sm 5 0) = false ∧ smMirror (sm 5 1) = true ∧ smChan (sm 5 0) = 5 ∧ smTen (sm 5 1) = 3) ∧
    ((ls (sm 5 0) [(1023, rl 0)] [] []).rulesFor (sm 5 0) = [(1023, rl 0)] ∧ ruleHolds (rl 0) (sm 5 0) = true ∧ ruleHolds (rl 1) (sm 5 0) = false) ∧
    ((ls (sm 5 1) [] [(63, pa)] []).pairOf 5 3 = some (63, false) ∧ (ls (sm 5 1) [] [(63, pa)] []).pairOf 6 3 = some (63, true)) ∧
    (isGood (smStatus (sm 5 1)) = true ∧ smUtag (sm 6 1) = smUtag (sm 5 1)) ∧
    (pairCompare pa (sm 5 1) (sm 6 1) = none ∧ pairCompare pa (sm 5 1) ((sm 6 1).take 40 ++ [1] ++ List.replicate 55 0) = some 2) ∧
    (([(0, false)] : List (Nat × Bool)).find? (fun v => v.1 == 0) = some (0, false) ∧ (cm 0x10 [] fun c => { c with phase := .drained }).phase = .drained) ∧
    ([⟨63, true, 1, sm 6 1, true, 0⟩] : List Unpaired).find? (fun x => x.pair == 63) = some ⟨63, true, 1, sm 6 1, true, 0⟩ ∧
    ((lpeW base fun x => { x with raised := true }).lpe.raised = true ∧ base.alarmWake = base) ∧
    (isGood (smStatus (sm 5 1)) = true ∧ (i5 63 ∉ (ls (sm 5 1) [] [(63, pa)] []).lpe.lostMates) ∧ i5 63 ∈ (lpeW base fun x => { x with lostMates := [i5 63] }).lpe.lostMates) ∧
    (16 ≤ (List.replicate 16 (⟨63, true, 1, sm 6 1, true, 0⟩ : Unpaired)).length ∧ ((ls (sm 5 1) [] [(63, pa)] []).judge (sm 5 1)).1 = true) := by decide +kernel

theorem witness_LoupeRaisesAndClearsItsAlarms :
    (kvFind (lpeW (ws 0) fun x => { x with refreshed := [(255, 7, 0)] }).lpe.refreshed 255 = some (7, 0) ∧ waTicks ((ws 0).lpeWatch 255) = false) ∧
    (rlValid ((ws 0).lpeWatch 255) = true ∧ (ls (sm 5 0) [] [] []).on F.LPE_STATUS_ARMED = true ∧ base.on F.LPE_STATUS_ARMED = false ∧ 255 ∉ base.lpe.expired) ∧
    (kvFind (lpeW base fun x => { x with holds := [(14, 9)] }).lpe.holds 14 = some 9 ∧ kvFind base.lpe.holds 14 = none) ∧
    (base.lpe.down = none ∧ (lpeW base fun x => { x with trips := [⟨1, 2, 63, 0, 0, 0⟩] }).lpe.trips = [⟨1, 2, 63, 0, 0, 0⟩] ∧ base.lpe.trips = []) ∧
    (base.lpe.latchBy = none ∧ bit 1 0 = true ∧ bit 2 0 = false ∧ base.lpe.latched = 0) ∧
    ((st [(F.LPE_CTRL_LP_EN, 1)]).on F.LPE_CTRL_LP_EN = true ∧ base.on F.LPE_CTRL_LP_EN = false ∧ base.lpe.unpowered = false) ∧
    ((st [(F.LPE_ELOG_WIN_ID, 0xFFFF)]).get F.LPE_ELOG_WIN_ID = 0xFFFF ∧ (st [(F.LPE_ELOG_WIN_ID, 0)]).get F.LPE_ELOG_WIN_ID ≠ 0xFFFF ∧ base.lpe.kept = []) ∧
    ((lpeW (ws 0) fun x => { x with refreshed := [(255, 7, 0)] }).watchDeadline 255).isSome = true ∧ base.watchDeadline 255 = none ∧
    ((lpeW base fun x => { x with kept := [List.replicate 64 0] }).lpe.kept ≠ [] ∧ (lpeW base fun x => { x with latched := 4 }).lpe.latched = 4 ∧ bit 4 2 = true) ∧
    ((lpeW base fun x => { x with latchBy := some 9, expired := [9] }).lpe.latchBy = some 9 ∧ (lpeW base fun x => { x with down := some .restart }).lpe.down.isSome = true) := by decide +kernel

theorem witness_LoupeFaultsLatchAndRestart :
    ((0x4C525354 : Word) ≠ 0x4C525355 ∧ base.lpe.hwLatch = false ∧ (lpeW base fun x => { x with hwLatch := true }).lpe.hwLatch = true) ∧
    (base.lpe.down = none ∧ (lpeW base fun x => { x with down := some .restart }).lpe.down = some .restart ∧ State.reset.lpe.down = some .start) ∧
    (base.lpe.unpowered = false ∧ base.lpe.watchers = []) := by decide +kernel

/-- The mailbox buffer lies in window 0 of T0 at an offset of TSM, with some bytes there. -/
def kb (l : List (Fld × Nat)) (b : List Byte) : State :=
  (qs ([(F.SEC_KMB_BUF 0, 0x10000000), (F.SEC_KMB_BUF 1, da 1 0 / 2 ^ 32), (F.SEC_KMB_WIN_ID, 0), (F.SEC_KMB_WIN_GEN, 0)] ++ l)).memWrite 1
    (cellsAt 0x10000000 b)

/-- A key for port 0 is well formed; a key of version 2 is not. -/
theorem witness_MailboxCommandsKeepTheVault :
    (base.blockOpen = true ∧ (st [(F.SEC_KMB_STATUS_BUSY, 1)]).on F.SEC_KMB_STATUS_BUSY = true ∧ (kb [] [1, 3]).on F.SEC_KMB_STATUS_BUSY = false) ∧
    ((st [(F.SEC_LC_STATE, 3)]).dead = true ∧ (kb [] [1, 3]).dead = false) ∧
    (match (base.kmbRead 80 false).1 with | .error _ => true | .ok _ => false) = true ∧
    (match ((kb [] [1, 3]).kmbRead 80 false).1 with | .error _ => false | .ok b => leAt b 0 1 == 1 && leAt b 1 1 == 3 && zeros b 2 14) = true ∧
    (match ((kb [] [2]).kmbRead 80 false).1 with | .error _ => false | .ok b => leAt b 0 1 != 1) = true ∧
    (((kb [] [1, 3]).kmbRead 80 false).2.kmbZero 80).sec.slots = (kb [] [1, 3]).sec.slots ∧
    ((kvFind (secW base fun x => { x with slots := [(31, [])] }).sec.slots 31).isSome = true ∧ kvFind base.sec.slots 31 = none) ∧
    (match ((kb [] []).kmbRead 256 false).1 with | .error _ => false | .ok c => base.credCheck c == stREJ_FORMAT) = true ∧
    (base.on F.SEC_CTRL_CRED_REQ = false ∧ (st [(F.TRC_CTRL_EN, 0)]).on F.TRC_CTRL_EN = false ∧ base.get F.SEC_LC_STATE < 2) ∧
    (2 ≤ (st [(F.SEC_LC_STATE, 2)]).get F.SEC_LC_STATE ∧ base.sec.siteHash = none ∧ base.sec.creds = []) ∧
    (secW base fun x => { x with siteHash := some [] }).sec.siteHash ≠ none ∧
    ((inPhase .restart base).boot.phase = .restart ∧ 1 < (2 : BitVec 16).toNat ∧ (match ((kb [] []).kmbRead 32 false).1 with | .error _ => false | .ok _ => true) = true) ∧
    ((match ((kb [] []).kmbRead 96 false).1 with | .error _ => false | .ok _ => true) = true ∧ (match (base.kmbRead 96 true).1 with | .error _ => true | .ok _ => false) = true) ∧
    ((kvFind (secW (st [(F.SEC_CTRL_CRED_REQ, 1)]) fun x => { x with creds := [(3, [])] }).sec.creds 3).isSome = true ∧ (secW (st [(F.SEC_CTRL_CRED_REQ, 1)]) fun x => { x with creds := [(3, [])], lapsed := 8 }).credValid 3 = false) ∧
    ((secW (st [(F.SEC_MC 5 0, 1)]) fun x => { x with creds := [(3, [])] }).credValid 3 = false ∧ bit (secW (st [(F.SEC_MC 5 0, 1)]) fun x => { x with creds := [(3, [])] }).sec.lapsed 3 = false) := by decide +kernel

theorem witness_LifecycleAndDebugLevelsMoveByTheirRules :
    (base.blockOpen = true ∧ base.on F.SEC_KMB_STATUS_BUSY = false ∧ base.get F.SEC_LC_STATE = 0) ∧
    (∀ x ∈ List.range 4, (st [(F.SEC_LC_STATE, x)]).get F.SEC_LC_STATE = x) ∧
    (∀ x ∈ List.range 3, (st [(F.SEC_DBG_LEVEL, x)]).get F.SEC_DBG_LEVEL = x) ∧
    ((secW base fun x => { x with siteHash := some [] }).sec.siteHash.isSome = true ∧ (secW base fun x => { x with dbgHash := some [] }).sec.dbgHash.isSome = true) ∧
    ((secW base fun x => { x with decom := true }).sec.decom = true ∧ base.sec.decom = false ∧ base.pcie.ctxRst = []) ∧
    ((secW base fun x => { x with unlock := some 0 }).sec.unlock = some 0 ∧ base.sec.unlock = none ∧ base.tokenOk [] = false) ∧
    (match ((kb [] []).kmbRead 256 false).1 with | .error _ => false | .ok _ => true) = true ∧
    ((inPhase .restart base).boot.phase = .restart ∧ (match (base.kmbRead 256 true).1 with | .error _ => true | .ok _ => false) = true ∧ (7 : Nat) % 4 = 3) := by decide +kernel

theorem witness_TapInstructionsAndSpdmAnswer :
    (base.get F.SEC_LC_STATE = 0 ∧ (st [(F.SEC_LC_STATE, 2)]).get F.SEC_LC_STATE = 2 ∧ (st [(F.SEC_DBG_LEVEL, 1)]).get F.SEC_DBG_LEVEL ≠ 2) ∧
    ((st [(F.SEC_DBG_LEVEL, 0)]).get F.SEC_DBG_LEVEL = 0 ∧ (st [(F.SEC_DBG_LEVEL, 1)]).get F.SEC_DBG_LEVEL ≠ 0 ∧ base.get F.PWR_STATUS_STATE = 0) ∧
    ((st [(F.SEC_DBG_LEVEL, 2)]).get F.SEC_DBG_LEVEL = 2 ∧ base.dbgCore 3 = true ∧ 3 ∉ base.boot.halted) ∧
    (base.on F.SEC_DBG_ATTACHED = false ∧ (st [(F.SEC_DBG_ATTACHED, 1)]).on F.SEC_DBG_ATTACHED = true ∧ base.blockOpen = true) ∧
    (base.dead = false ∧ (st [(F.SEC_LC_STATE, 3)]).get F.SEC_LC_STATE = 3) ∧
    (∀ k ∈ List.range 4, ((secW base fun x => { x with sessions := [(0, false), (1, true), (2, true), (3, true)] }).spdmSession (some k)).isSome = true) ∧
    (secW base fun x => { x with sessions := [(3, true)] }).spdmSession (some 3) = some (3, true) ∧
    (0x85 : Byte).toNat ∉ [0x84, 0xE1, 0xE3, 0x81, 0x82, 0x83, 0xE0, 0xE4, 0xE5, 0xEC, 0xFE] ∧
    ((inState 3 (st [(F.SEC_DBG_LEVEL, 1)])).get F.PWR_STATUS_STATE = 3 ∧ (inPhase .restart base).boot.phase = .restart ∧ (0xE1 : Byte).toNat ∈ [0xE1, 0xE3, 0x81, 0x82, 0x83, 0xE0]) ∧
    ((List.range 4).find? (fun k => (base.spdmSession (some k)).isNone) = some 0 ∧ (secW base fun x => { x with sessions := [(3, false)] }).spdmSession (some 3) = some (3, false)) ∧
    (base.spdmSession none = none ∧ base.spdmSession (some 2) = none) := by decide +kernel

/-- STOP with 131,071 records in the ring, and with 131,072. -/
theorem witness_TraceUnitWrapsOrStops :
    (base.on F.TRC_CTRL_EN = true ∧ bit (base.rd F.TRC_TYPEMASK.addr) 2 = true ∧ bit (base.get F.TRC_TENMASK) (15 % 16) = true) ∧
    ((st [(F.TRC_CTRL_MODE, 0)]).on F.TRC_CTRL_MODE = false ∧ base.errs.traceLost = 0) ∧
    ((st [(F.TRC_CTRL_MODE, 1), (F.TRC_WPTR, 131071)]).traceUsed < 131072 ∧ 131072 ≤ (st [(F.TRC_CTRL_MODE, 1), (F.TRC_WPTR, 131072)]).traceUsed) ∧
    (st [(F.TRC_CTRL_MODE, 1)]).on F.TRC_CTRL_MODE = true ∧ ({ base with errs := { base.errs with traceLost := 3 } } : State).errs.traceLost ≠ 0 := by decide +kernel

/-- The newest fault record: of cause 7, unit 0x40, time 0 and count 1, at place 1023. -/
def fo : List Byte := leBytes 8 0 ++ [1, 7, 0x40, 0, 0, 0, 1, 0]

theorem witness_FaultLogAppendsOrFolds :
    (base.get F.GLB_FLOG_TAIL = 0 ∧ 0 < (st [(F.GLB_FLOG_TAIL, 1024)]).get F.GLB_FLOG_TAIL ∧ fo ≠ [] ∧ 16 ≤ fo.length) ∧
    (kvFind ({ base with errs := { base.errs with flog := [(1023, fo)] } } : State).errs.flog ((1024 + 1023) % 1024)).getD [] = fo ∧
    (leAt fo 9 1 = 7 ∧ leAt fo 10 1 = 0x40 ∧ base.cad.time < leAt fo 0 8 + 1000000) ∧
    leAt fo 0 8 + 1000000 ≤ (cadW base fun x => { x with time := 1000000 }).cad.time ∧
    ((1024 + 2 ^ 32 - (st [(F.GLB_FLOG_HEAD, 1)]).get F.GLB_FLOG_HEAD) % 2 ^ 32 < 1024 ∧ 1024 ≤ (1024 + 2 ^ 32 - base.get F.GLB_FLOG_HEAD) % 2 ^ 32) := by decide +kernel

/-- An entry into a power state is in progress, for command 0 or none. -/
def pe (n : Nat) (id : Option Nat) : State := pwrW base fun x => { x with entry := some (n, id) }

theorem witness_StatesAreEnteredAndLeft :
    (base.pwr.entry = none ∧ (pe 2 none).pwr.entry = some (2, none) ∧ (pe 4 (some 0)).pwr.entry = some (4, some 0)) ∧
    ((pe 2 none).entryDrained 2 none = true ∧ (oneCmd (pe 2 none) (cm 0x10 [] id)).entryDrained 2 none = false) ∧
    (oneCmd (pe 4 (some 0)) (cm 0x30 [] id)).entryDrained 4 (some 0) = true ∧
    (base.wakes 1 10 = true ∧ base.wakes 2 10 = false ∧ base.wakes 3 1 = true ∧ base.wakes 4 1 = false ∧ base.wakes 4 4 = true ∧ base.wakes 3 2 = false) ∧
    (base.pwr.leaving = false ∧ (pwrW base fun x => { x with leaving := true }).pwr.leaving = true) ∧
    (∀ n ∈ List.range 5, (inState n base).get F.PWR_STATUS_STATE = n) ∧
    (base.get64 F.PWR_WAKE_AT_LO = 0 ∧ (st [(F.PWR_WAKE_AT_LO, 9)]).get64 F.PWR_WAKE_AT_LO ≠ 0) ∧
    ((st [(F.PWR_CTRL_AUTO_HOLD, 1)]).on F.PWR_CTRL_AUTO_HOLD = true ∧ (st [(F.PWR_CTRL_AUTO_HOLD, 0)]).on F.PWR_CTRL_AUTO_HOLD = false ∧ base.boot.phase = .run) ∧
    base.entryDrained 1 none = true ∧
    ((pwrW base fun x => { x with leaving := true }).get F.PWR_STATUS_STATE = 0 ∧ base.wakes 0 1 = false ∧ (inPhase .restart base).boot.phase ≠ .run) := by decide +kernel

/-- The caps 40 and 360 are taken, 39 and 361 refused. -/
theorem witness_SamplesAndCapsSetTheLimit :
    (base.pwr.samples = [] ∧ base.cad.joinHold = false ∧ base.pwr.thermal = none) ∧
    ((20 : Int) < signed 8 (base.get F.PWR_THERM_THROTTLE) - 3 ∧ (20 : Int) < signed 8 (base.get F.PWR_THERM_RESUME)) ∧
    ((pwrW base fun x => { x with coolSince := some 7, trip := true }).pwr.trip = true ∧ base.pwr.trip = false) ∧
    (pwrW base fun x => { x with coolSince := some 7, trip := true }).pwr.coolSince = some 7 ∧
    ((40 ≤ (40 : BitVec 16).toNat ∧ (360 : BitVec 16).toNat ≤ 360) ∧ ¬((39 : BitVec 16) = 0 ∨ 40 ≤ (39 : BitVec 16).toNat) ∧ ¬((361 : BitVec 16).toNat ≤ 360)) ∧
    0x08 ∉ [0x00, 0x80, 0x01, 0x81, 0x06, 0x07, 0x87] ∧
    (base.limit.1 < 4000 * 500000 ∧ base.get F.PWR_STATUS_STEP = 0 ∧ 0 < base.get F.PWR_THROT_UNT_DUTY) ∧
    (signed 8 (base.get F.PWR_THERM_THROTTLE) ≤ 120 ∧ (105 : Int) ≤ (120 : BitVec 8).toInt ∧ (115 : Int) ≤ (120 : BitVec 8).toInt) ∧
    (signed 8 (base.get F.PWR_TJ_NOW) < signed 8 (base.get F.PWR_THERM_THROTTLE) ∧ (pwrW base fun x => { x with thermal := some 5 }).pwr.thermal = some 5) ∧
    (base.pwr.i3cAddr = none ∧ (pwrW base fun x => { x with i3cAddr := some 9 }).pwr.i3cAddr ≠ none ∧ leAt [0x4A, 9] 0 1 = 0x4A ∧ leAt ([0x4B] : List Byte) 0 1 ≠ 0x4A) := by decide +kernel

/-- Slot 1 is TRIAL. -/
def tr : State := bootW base fun x => { x with rec0 := some ⟨1, 0, 3, 2⟩ }

theorem witness_BootsKeepWhatSurvivesAReset :
    (base.boot.phase ≠ .boot ∧ (inPhase .boot base).boot.phase = .boot ∧ (inPhase .boot base).get F.FW_STATUS_PAIRING ≠ 2) ∧
    (st [(F.FW_STATUS_BOOT_KIND, 1)]).get F.FW_STATUS_BOOT_KIND ≠ 0 ∧
    (base.trialSlot = none ∧ tr.trialSlot = some 1 ∧ ((tr.confirm 1).bootRec).isSome = true) ∧
    ((st [(F.FW_CONFIRM_AUTO_S, 0)]).get F.FW_CONFIRM_AUTO_S = 0 ∧ (st [(F.FW_CONFIRM_AUTO_S, 1)]).get F.FW_CONFIRM_AUTO_S ≠ 0) ∧
    (tr.get F.FW_STATUS_PAIRING = 0 ∧ tr.get F.PWR_STATUS_STATE ≤ 2 ∧ tr.boot.phase = .run) ∧
    (base.boot.phase ≠ .recovery ∧ (inPhase .recovery base).boot.phase = .recovery) ∧
    ((tr.confirm 1).bootRec.any fun r => r.pref == 1 && r.st 1 == 3) = true ∧ (st [(F.FW_STATUS_PAIRING, 2)]).get F.FW_STATUS_PAIRING = 2 := by decide +kernel

theorem witness_RestartsStopEveryCommand :
    ((0x53414646 : Word) ≠ 0x53414645 ∧ base.boot.phase = .run ∧ (inPhase .restart base).boot.phase ≠ .run ∧ base.get F.FW_RLIM_COUNT ≠ 0) ∧
    (base.boot.restarts = [] ∧ (st [(F.TRC_CTRL_EN, 0)]).on F.TRC_CTRL_EN = false ∧ base.graphs = []) ∧
    (5 ∉ base.boot.halted ∧ 5 ∈ (bootW base fun x => { x with halted := [5] }).boot.halted) ∧
    ((inPhase .restart base).boot.verified = false ∧ (bootW (inPhase .restart base) fun x => { x with verified := true }).boot.verified = true) ∧
    (base.pwr.trip = false ∧ base.boot.sysLost = false) ∧
    (((List.range 16).foldl (fun (s : State) t => s.preRecords t) (bootW (inPhase .restart base) fun x => { x with verified := true })).restartEpochs).pcie.ctxRst = [] ∧
    (((List.range 16).foldl (fun (s : State) t => s.preRecords t) (bootW (inPhase .restart base) fun x => { x with verified := true })).restartEpochs).pcie.ctxLater = [] ∧
    ((inPhase .restart base).boot.phase = .restart ∧ (inPhase .boot base).boot.phase ≠ .restart ∧ base.get F.FW_RLIM_COUNT ≤ (List.replicate 255 (0 : Nat)).length) ∧
    ((bootW (inPhase .restart base) fun x => { x with sysLost := true }).boot.sysLost = true ∧ (pwrW base fun x => { x with trip := true }).pwr.trip = true) := by decide +kernel

theorem witness_ClocksAndRailsFail :
    (base.boot.tcxoLost = false ∧ (bootW base fun x => { x with tcxoLost := true }).boot.tcxoLost = true) ∧
    (base.get F.CAD_STATUS_SOURCE ≠ 5 ∧ base.get F.CAD_STATUS_SOURCE ≠ 6 ∧ (st [(F.CAD_STATUS_SOURCE, 6)]).get F.CAD_STATUS_SOURCE = 6) ∧
    (∀ n ∈ List.range 12, (State.restart { base with boot := { base.boot with sysLost := true } } 6 0x31 0xFF 0 0 []).portState n = 0) ∧
    ((lpeW base fun x => { x with unpowered := true }).lpe.unpowered = true ∧ base.lpe.unpowered = false ∧ base.get F.PWR_STATUS_STATE < 4) := by decide +kernel

/-! ### Ill-formed commands are refused by `Instr.wf`, well-formed ones are not -/
theorem wf_packet_needs_its_opcode_and_length :
    ((Instr.nop 0 0 ((pk []).take 64)).wf = true ∧ (Instr.nop 0 0 ((pk [(0, 1)]).take 64)).wf = false) ∧
    ((Instr.nop 0 0 (pk [])).wf = false ∧ (Instr.move 0 0 ((pk [(0, 0x10), (1, 1)]).take 128) false).wf = true) := by decide +kernel

theorem wf_register_offset_is_a_word :
    ((Instr.registerWrite 0 0x10 0 none false true).wf = true ∧ (Instr.registerWrite 0 0x12 0 none false true).wf = false) ∧
    ((Instr.rcRead 0 1 false true).wf = false ∧ (Instr.stickyFlagClear 0 2 0 0 false).wf = false) := by decide +kernel

theorem wf_times_and_ptp_fields_are_in_range :
    ((Instr.ppsInEdge (2 ^ 64)).wf = false ∧ (Instr.ppsInEdge (2 ^ 64 - 1)).wf = true ∧ (Instr.powerSample (2 ^ 24)).wf = false) := by decide +kernel

theorem wf_bar2_stays_in_the_bar :
    ((Instr.bar2Read 0x3FFFF000 4096 false).wf = true ∧ (Instr.bar2Read 0x3FFFF001 4096 false).wf = false) ∧
    ((Instr.bar2Write 0x3FFFFFFF [0, 0] false false).wf = false ∧ (Instr.bar2Write 0 (List.replicate 4097 0) false false).wf = false) := by decide +kernel

theorem wf_indices_are_in_range :
    ((Instr.lockWaitExpiry 0 256).wf = false ∧ (Instr.lockReap 0 256).wf = false ∧ (Instr.lockReap 0 255).wf = true) ∧
    ((Instr.counterSet 0 16384 0).wf = false ∧ (Instr.counterAdd 0 16384 0).wf = false ∧ (Instr.counterSub 0 16383 0).wf = true) ∧
    ((Instr.barrierEnable 0 1024 0).wf = false ∧ (Instr.barrierDisable 0 0 16384).wf = false ∧ (Instr.nodeTimeout 0 0 65536).wf = false) ∧
    ((Instr.requestTimeout 65536).wf = false ∧ (Instr.wcFillComplete 37748736 0).wf = false ∧ (Instr.wcFillComplete 37748735 15).wf = true) := by decide +kernel

theorem wf_requests_have_a_rank :
    ((Instr.arbiterDecision 0 true [⟨0, 0, 0, none, 0, 0, 0, false⟩]).wf = false ∧ (Instr.arbiterDecision 0 true [⟨0, 4, 0, none, 0, 0, 0, false⟩]).wf = false) ∧
    (Instr.arbiterDecision 0 true [⟨0, 1, 0, none, 0, 0, 0, false⟩]).wf = true := by decide +kernel

theorem wf_messages_fit_their_header :
    ((Instr.winQuery msgZero).wf = true ∧ (Instr.winQuery { msgZero with src := 64 }).wf = false ∧ (Instr.winQuery { msgZero with dest := 64 }).wf = false) ∧
    ((Instr.winQuery { msgZero with tenant := 16 }).wf = false ∧ (Instr.winQuery { msgZero with vc := 4 }).wf = false) ∧
    ((Instr.winQuery { msgZero with mop := 256 }).wf = false ∧ (Instr.winQuery { msgZero with eseq := 65536 }).wf = false) ∧
    ((Instr.winQuery { msgZero with epoch := 65536 }).wf = false ∧ (Instr.winQuery { msgZero with da := 2 ^ 64 }).wf = false) ∧
    ((Instr.winQuery { msgZero with operand := 2 ^ 64 }).wf = false ∧ (Instr.winQuery { msgZero with data := List.replicate 4097 0 }).wf = false) := by decide +kernel

theorem wf_flits_and_frames_have_their_size :
    ((Instr.flitReceive 0 (List.replicate 271 0)).wf = false ∧ (Instr.flitReceive 0 (List.replicate 272 0)).wf = true) ∧
    ((Instr.ethFrameReceive 0 (List.replicate 13 0)).wf = false ∧ (Instr.ethFrameReceive 0 (List.replicate 9217 0)).wf = false) ∧
    ((Instr.lpFrameReceived (List.replicate 14 0)).wf = true ∧ (Instr.lpFrameReceived []).wf = false) := by decide +kernel

theorem wf_inbound_write_has_its_bytes :
    ((Instr.apInboundRequest 0 0 4 false [0, 0] false false).wf = false ∧ (Instr.apInboundRequest 0 0 4 true [] false false).wf = true) := by decide +kernel

theorem wf_debugger_names_a_core_and_an_address :
    ((Instr.dbgAp (.halt 6)).wf = false ∧ (Instr.dbgAp (.resume 6)).wf = false ∧ (Instr.dbgAp (.step 5)).wf = true) ∧
    ((Instr.dbgAp (.coreRead 6 0)).wf = false ∧ (Instr.dbgAp (.coreWrite 0 0 (2 ^ 64))).wf = false) ∧
    ((Instr.dbgAp (.read (2 ^ 64) 1)).wf = false ∧ (Instr.dbgAp (.read 0 4097)).wf = false ∧ (Instr.dbgAp (.write 0 (List.replicate 4097 0))).wf = false) := by decide +kernel

/-! ### Single steps, with values from the spec -/

/-- R243: 32 + 16 + 16 = 64. -/
theorem test_registerWrite_takes_the_split :
    after (exec (.registerWrite 0 0x140004 0x101020 none false true) base) (·.get F.ENG_SPLIT_READ) = some 32 ∧
    after (exec (.registerWrite 0 0x140004 0x101021 none false true) base) (·.get F.ENG_CFG_CFG) = some 1 := by decide +kernel

/-- R5: GLB_ERR.ACCESS with a count of 1. -/
theorem test_unmapped_read_sets_access :
    after (exec (.rcRead 0 0x4C0000 false true) base) (·.get F.GLB_ERR_ACCESS) = some 1 ∧
    after (exec (.rcRead 0 0x4C0000 false true) base) (·.get F.GLB_ERR_ACCESS.cnt) = some 1 := by decide +kernel

/-- R21, R22. -/
theorem test_stickyFlagClear_counts_the_sets_of_its_cycle :
    after (exec (.stickyFlagClear 0 0x10 1 0 false) (base.stick F.GLB_ERR_ACCESS)) (·.get F.GLB_ERR_ACCESS) = some 0 ∧
    after (exec (.stickyFlagClear 0 0x10 1 2 false) (base.stick F.GLB_ERR_ACCESS)) (·.get F.GLB_ERR_ACCESS.cnt) = some 2 := by decide +kernel

/-- R49: the second tick begins one period of 1 ms after the epoch. -/
theorem test_tickEdge_is_one_period_on :
    after (exec (.tickEdge false) (st [(F.CAD_CTRL_EN, 1), (F.CAD_PERIOD, 1000000), (F.TRC_CTRL_EN, 0)])) (·.cad.time) = some 1000000 ∧
    after (exec (.tickEdge false) (st [(F.CAD_CTRL_EN, 1), (F.CAD_PERIOD, 1000000), (F.TRC_CTRL_EN, 0)])) (·.tick) = some 1 := by decide +kernel

theorem test_ppsOutRise_is_at_a_whole_second :
    after (exec .ppsOutRise (cadW base fun x => { x with time := 1 })) (·.cad.time) = some 1000000000 := by decide +kernel

/-- R43: a device without a source advertises clockClass 248. -/
theorem test_ptpTransmitInterval_advertises_248 :
    after (exec (.ptpTransmitInterval 1 false false) (st [(F.CAD_CTRL_ETH1_ROLE, 2)])) (fun t => b2n (t.outbox == [.ptp 1 0x0B 248 0, .ptp 1 0x00 248 t.cad.time])) = some 1 := by decide +kernel

theorem test_scrubStep_moves_on :
    after (exec .scrubStep base) (·.get F.MEM_SCRUB_POS) = some 1 ∧
    after (exec .scrubStep (st [(F.MEM_SCRUB_POS, 0x203FFFF)])) (·.get F.MEM_SCRUB_POS) = some 0 := by decide +kernel

theorem test_bar2Write_stores_its_bytes :
    after (exec (.bar2Write 0x10000000 [0xAB, 0xCD] false false) base) (fun t => (t.mem.byte 1 0x10000001).toNat) = some 0xCD ∧
    after (exec (.bar2Read 0x10000000 2 false) base) (fun t => b2n (t.outbox == [.readCompletion 0 0x10000000 [0, 0] false])) = some 1 := by decide +kernel

/-- R173: one record in the CQ. -/
theorem test_nop_writes_its_record :
    after (exec (.nop 0 0 (pk [])) (qs [])) (·.get (F.TP_CQ_TAIL 0)) = some 1 ∧ after (exec (.nop 0 0 (pk [])) (qs [])) (·.cmds.length) = some 0 := by decide +kernel

/-- R176. -/
theorem test_hello_sets_the_format :
    after (exec (.hello 0 0 (pk [(24, 3)])) base) (·.get (F.TP_FMT_MAJOR 0)) = some 3 ∧
    after (exec (.hello 0 0 (pk [(24, 4)])) base) (·.get (F.TP_FMT_SET 0)) = some 0 := by decide +kernel

/-- R100: slot 0 is live, so the window is number 1, owned by tenant 15. -/
theorem test_winCreate_takes_the_lowest_free_slot :
    after (exec (.winCreate 0 0 (pk wc)) (qs [])) (fun t => ((t.winSlot 1).win.elim 0 (·.owner))) = some 15 := by decide +kernel

theorem test_flagSet_and_evfClr :
    after (exec (.flagSet 0 0 (pk [(24, 15), (32, 5)]) false) (qs [])) (fun t => t.flagWord 0 15) = some 5 ∧
    after (exec (.evfClrWrite 0 15 0 1) ((qs []).flagUpdate 0 15 5 0)) (fun t => t.flagWord 0 15) = some 4 := by decide +kernel

/-- Table 7.3: operation 1 adds. -/
theorem test_signal_adds :
    after (exec (.signal 0 0 (pk (sg 1)) false) (sy [])) (fun t => t.cntVal 63) = some 1 := by decide +kernel

/-- Table 10.1. -/
theorem test_counters_saturate :
    after (exec (.counterAdd 0 0 1) ((sy []).setCntVal 0 0xFFFFFFFF)) (fun t => t.cntVal 0) = some 0xFFFFFFFF ∧
    after (exec (.counterSub 0 0 1) (sy [])) (fun t => t.cntVal 0) = some 0 := by decide +kernel

theorem test_lockAcquire_takes_the_lock :
    after (exec (.lockAcquire 0 0 (pk lk) false) (sy [])) (fun t => b2n (t.lock 255).held) = some 1 := by decide +kernel

/-- R298: the second of two arrivals turns the sense. -/
theorem test_barrierArrive_completes_the_barrier :
    after (exec (.barrierArrive 0 0 (pk [(24, 15), (26, 0x3F)]) false) ((bs true).setCntVal 0 1)) (fun t => b2n (t.bar 15).sense) = some 1 := by decide +kernel

/-- R151, R155: SEQ_NEXT takes SEQ_INIT; TAIL 65 lies beyond 64 slots. -/
theorem test_queueEnable_and_doorbell :
    after (exec (.queueEnable 0 0) (qs [(F.TP_Q_SEQ_INIT 0 0, 77)])) (·.get (F.TP_Q_SEQ_NEXT 0 0)) = some 77 ∧
    after (exec (.doorbell 0 0 65) (qs [(F.TP_Q_CTRL_EN 0 0, 1)])) (·.get (F.TP_QOVR_QOVR 0)) = some 1 := by decide +kernel

/-- R156: one packet of one slot. -/
theorem test_queueFetch_reads_its_ring :
    after (exec (.queueFetch 0 0 false) (qs [(F.TP_Q_CTRL_EN 0 0, 1), (F.TP_Q_TAIL 0 0, 1)])) (fun t => (t.queueSt 0 0).shadow.length) = some 1 ∧
    after (exec (.packetDecode 0 0 false) (qp [(F.TP_Q_CTRL_EN 0 0, 1)] (rowPacket 0 (pk [])))) (·.get (F.TP_Q_SEQ_NEXT 0 0)) = some 1 := by decide +kernel

/-- R241: the 64 bytes of the source land at the destination. -/
theorem test_engine_moves_bytes :
    after (exec (.engineChunkDecision 0 false 16) ((oneCmd base ac).memWrite 2 [(63, 0x5A)])) (fun t => (t.mem.byte 1 0x1000003F).toNat) = some 0x5A ∧
    after (exec (.awlOperation false) ((oneCmd base aw).memWrite 2 [(0, 0x5A)])) (fun t => (t.mem.byte 1 0x10000000).toNat) = some 0x5A := by decide +kernel

theorem test_arbiterDecision_grants_the_higher_rank :
    after (exec (.arbiterDecision 0 true [⟨2, 2, 0, none, 0, 0, 0, false⟩, ⟨5, 1, 0, none, 0, 0, 0, false⟩]) base) (fun t => (t.lane 0).holder.getD 99) = some 5 := by decide +kernel

theorem test_graph_node_is_dispatched :
    after (exec (.graphUnload 0 0 (pk [(24, 7)])) gs) (·.graphs.length) = some 0 ∧
    after (exec .nodeDispatch (gl .ready (some 9))) (fun t => (t.graph? 0 7).elim 0 (fun g => g.nodes.countP (·.st == .ready))) = some 0 := by decide +kernel

/-- Table 12.2; a peer with this device's serial number is DOWN. -/
theorem test_portEnable_goes_to_detect :
    after (exec (.portEnable 11 true) (st [(F.REI_ID_VALID, 1)])) (·.portState 11) = some 1 ∧
    after (exec (.paramExchange 3 0x11 5 0 1 true) (ps 3 5)) (·.portState 3) = some 8 := by decide +kernel

/-- R275: the answer names lock 255 and its holder is chip 1. -/
theorem test_lockReq_grants :
    after (exec (.lockReq 0 (ms fun m => { m with operand := 255 })) rs) (fun t => (t.lock 255).holderChip) = some 1 ∧
    after (exec (.epochOpen 0 (ms fun m => { m with epoch := 9 })) base) (fun t => (t.rxPair 1).epoch) = some 9 := by decide +kernel

theorem test_routingEntry_is_stored :
    after (exec (.routingEntryWrite 12 63 0 0xF10000) base) (·.route 12 63 0) = some 0xF10000 ∧
    after (exec (.girthReq 3 (ms fun m => { m with operand := 0x0501E00280 })) base) (·.rein.asks.length) = some 1 := by decide +kernel

theorem test_short_frame_is_dropped_for_reason_1 :
    after (exec (.ethFrameReceive 1 (List.replicate 63 0)) (eu [])) (·.get (F.ETH_DROP 1 1)) = some 1 := by decide +kernel

theorem test_camInsert_and_delete :
    after (exec .camDelete cs) (·.eth.cams.length) = some 0 ∧ after (exec .camRead cs) (·.get (F.ETH_CAM_DATA 0)) = some 7 := by decide +kernel

/-- R391, R472. -/
theorem test_busMaster_and_pme :
    after (exec (.busMasterEnableClear 0) base) (·.pcie.bme) = some 0 ∧
    after (exec .pmeTurnOff base) (fun t => b2n (t.outbox == [.pmeToAck])) = some 1 := by decide +kernel

theorem test_hostWindow_overlap_is_refused :
    after (exec (.hostWindowWrite 0 15 0 1) (st [(F.TP_HWIN_SIZE 0 15, 1), (F.TP_HWIN_VALID 0 0, 1), (F.TP_HWIN_SIZE 0 0, 1)])) (·.get (F.TP_CFG_CFG 0)) = some 1 ∧
    after (exec (.brdRegionWrite 2 255 1 4) (st [(F.BRD_REG 2 255 3, 2 ^ 31), (F.BRD_REG 2 255 0, 5)])) (·.get F.BRD_CFG_CFG) = some 1 := by decide +kernel

/-- R417: the verdict of a gated command is kept for it. -/
theorem test_summary_passes_its_rule :
    after (exec .summaryEvaluate (ls ((sm 5 0).take 2 ++ [0x23] ++ List.replicate 93 0) [(0, rl 0)] [] [])) (fun t => b2n (t.lpe.verdicts == [(0, true)])) = some 1 ∧
    after (exec .summaryEvaluate (ls ((sm 5 0).take 2 ++ [0x23] ++ List.replicate 93 0) [(0, rl 1)] [] [])) (·.get F.LPE_FAIL_FAIL) = some 1 := by decide +kernel

theorem test_lpeReset_needs_its_key :
    after (exec (.lpeReset 0) base) (·.get F.LPE_CFG_CFG) = some 1 ∧
    after (exec (.faultClear 1) (st [(F.LPE_STATUS_LATCH, 1)])) (·.get F.LPE_STATUS_LATCH) = some 0 := by decide +kernel

/-- R447, R453: erasing an empty slot is DONE; the revocation counter rises. -/
theorem test_mailbox_codes :
    after (exec (.keyErase 31) base) (·.get F.SEC_KMB_STATUS_CODE) = some stDONE ∧ after (exec (.credRevoke 9) base) (·.get (F.SEC_MC 5 0)) = some 9 := by decide +kernel

/-- R454. -/
theorem test_lifecycle_has_no_way_back :
    after (exec (.lcAdvance 0) base) (·.get F.SEC_KMB_STATUS_CODE) = some stREJ_PERM ∧
    after (exec (.debugLevelWrite 2 false) (st [(F.SEC_DBG_LEVEL, 0)])) (·.get F.SEC_CFG_CFG) = some 1 := by decide +kernel

/-- Table 16.10. -/
theorem test_tap_acts_as_bypass_when_deployed :
    after (exec .extest (st [(F.SEC_LC_STATE, 2), (F.SEC_DBG_LEVEL, 0)])) (·.sec.tap) = some 1 ∧ after (exec .extest base) (·.sec.tap) = some 3 := by decide +kernel

/-- Table 17.2: after DRAIN_US. -/
theorem test_drainTimeout_ends_the_entry :
    after (exec .drainTimeout (pe 2 none)) (fun t => b2n t.pwr.entry.isNone) = some 1 ∧
    after (exec .drainTimeout (pwrW (pe 2 none) fun x => { x with entryAt := 5 })) (·.cad.time) = some (5 + 1000 * base.get F.PWR_ENTRY_DRAIN_US) := by decide +kernel

theorem test_thermalSample_and_resume :
    after (exec (.thermalSample 0xFB) base) (fun t => b2n t.pwr.coolSince.isSome) = some 1 ∧
    after (exec .thermalResume (pwrW base fun x => { x with coolSince := some 7, trip := true })) (·.cad.time) = some 1000000007 := by decide +kernel

/-- R485: 40 W to 360 W, or none. -/
theorem test_i3c_caps :
    after (exec (.i3cCapWrite 40) base) (·.pwr.cap) = some 40 ∧ after (exec (.i3cCapWrite 39) base) (fun t => b2n t.pwr.capRefused) = some 1 := by decide +kernel

theorem test_commandReady_and_restart :
    after (exec .commandReady (inPhase .boot (st [(F.FW_STATUS_BOOT_KIND, 1)]))) (·.get F.FW_STATUS_CMD_READY) = some 1 ∧
    after (exec (.fwRestart 0) base) (·.get F.FW_CFG_CFG) = some 1 := by decide +kernel

theorem test_porNAssert_empties_the_device :
    after (exec .porNAssert (oneCmd base ac)) (·.cmds.length) = some 0 := by decide +kernel

/-- R533. -/
theorem test_tcxoLoss_widens_the_bound :
    after (exec .tcxoLoss base) (·.get F.CAD_HOLD_ERR) = some 0xFFFFFFFF ∧
    after (exec .vddLpeUndervoltage base) (fun t => b2n t.lpe.unpowered) = some 1 := by decide +kernel

theorem test_planCompute_and_engineReset :
    after (exec .planComputeComplete { base with planJobs := [⟨0, [7], false, true, true, []⟩] }) (·.planJobs.length) = some 0 ∧
    after (exec (.engineReset 7) base) (·.get (F.ENG_ECTRL_RESET 7)) = some 1 := by decide +kernel

/-! ### Package: the examples of R528 and R530 -/

/-- R530's example: RL3_TX5 lies at D38 and D39. -/
theorem test_rein_lane_balls :
    reinBalls 3 5 false = (⟨rowIndex ['D'], 38⟩, ⟨rowIndex ['D'], 39⟩) := by decide

/-- R528's examples: AA is 20, BA 39 and CM 69, and the names come back. -/
theorem test_ball_rows :
    rowIndex ['A', 'A'] = 20 ∧ rowIndex ['B', 'A'] = 39 ∧ rowIndex ['C', 'M'] = 69
      ∧ rowName 20 = ['A', 'A'] ∧ rowName 38 = ['A', 'Y'] ∧ rowName 69 = ['C', 'M'] := by decide

end Sys2Proof.Tests
end

section
/-! What a PTP time transmitter sends (R42, R43), in two halves: the clockClass of each source state, and the messages of one
transmit interval with the state they leave. -/
namespace Sys2Proof.Machine

/-! ### The clockClass of each source state (R43) -/

/-- While locked to PTP, the value the source on that port advertises. -/
theorem State.clockClass_lockedToPtp {s : State} {p : EthPort} (h : s.get F.CAD_STATUS_SOURCE = 1 + p.val) :
    s.clockClass = (s.ptpPort p.val).clockClass := by
  match p with
  | 0 => simp [State.clockClass, h]
  | 1 => simp [State.clockClass, h]

theorem State.clockClass_holdover {s : State} (h : s.get F.CAD_STATUS_SOURCE = 5) :
    s.clockClass = if s.on F.CAD_STATUS_HOLD_IN_SPEC then 7 else 52 := by
  simp [State.clockClass, h]

/-- Source codes 0 and 6 are FREE and RESUMED. -/
theorem State.clockClass_freeOrResumed {s : State} (h : s.get F.CAD_STATUS_SOURCE = 0 ∨ s.get F.CAD_STATUS_SOURCE = 6) :
    s.clockClass = 248 := by
  obtain h | h := h <;> simp [State.clockClass, h]

/-! ### One transmit interval (R42) -/

theorem State.ptpTransmits_of_transmitterRole {s : State} {p : Nat} (h : s.ptpRole p = 2) : s.ptpTransmits p = true := by
  simp [State.ptpTransmits, h]

/-- What one transmit interval sends at time `time` with clockClass `c`: Announce, Sync and, in two steps, Follow_Up. The message
that carries the time of departure is the last one. -/
def ptpTransmission (p c time : Nat) (twoStep : Bool) : List Output :=
  [.ptp p 0x0B c 0, .ptp p 0x00 c (if twoStep then 0 else time)] ++ (if twoStep then [.ptp p 0x08 c time] else [])

theorem exec_ptpTransmitInterval_of_transmits {s : State} {p : EthPort} (h : s.ptpTransmits p.val = true) (twoStep peer : Bool) :
    exec (.ptpTransmitInterval p twoStep peer) s = .next { s with
      outbox := s.outbox ++ ptpTransmission p.val s.clockClass s.cad.time twoStep
      fresh := s.fresh + 1 } := by
  have hexec : exec (.ptpTransmitInterval p twoStep peer) s = execPtpTransmitInterval p twoStep peer s := rfl
  rw [hexec]
  unfold execPtpTransmitInterval
  cases twoStep with
  | false => simp [h, ptpTransmission, State.out, State.draw]
  | true => simp [h, ptpTransmission, State.out, State.draw]

/-- Settles O13: the class sent is `State.clockClass`. -/
theorem transmitterAdvertisesItsClockClass : Obligations.TransmitterAdvertisesItsClockClass := by
  unfold Obligations.TransmitterAdvertisesItsClockClass
  intro s p twoStep peer
  refine ⟨State.ptpTransmits_of_transmitterRole, fun htx => ?_⟩
  refine ⟨s.clockClass, exec_ptpTransmitInterval_of_transmits htx twoStep peer, ?_, ?_, ?_, ?_, ?_⟩
  · exact State.clockClass_lockedToPtp (p := 0)
  · exact State.clockClass_lockedToPtp (p := 1)
  · intro hsrc hspec
    simp [State.clockClass_holdover hsrc, hspec]
  · intro hsrc hspec
    simp [State.clockClass_holdover hsrc, hspec]
  · exact State.clockClass_freeOrResumed

end Sys2Proof.Machine
end

section
/-! A host's write of ENG_SPLIT (R243), in three layers: a host's 32-bit write that reaches its word, the fields a stored word
shows, and ENG_SPLIT itself. -/
namespace Sys2Proof.Machine

/-! ### A host's 32-bit write (R5, R6, R389) -/

theorem State.hostIn_of_hostReaches {s : State} {fn : Nat} {secure : Bool} (k : State → State)
    (h : s.hostReaches fn secure = true) : s.hostIn fn secure k = k s := by
  simp only [State.hostReaches, Bool.and_eq_true, Bool.or_eq_true] at h
  obtain ⟨⟨hup, hfn⟩, hsecure | hreq⟩ := h
  · simp [State.hostIn, hup, hfn, hsecure]
  · have hopen : s.on F.TEN_HP_IDE_REQ = false := by simpa using hreq
    simp [State.hostIn, hup, hfn, hopen]

theorem exec_registerWrite_of_hostReaches {s : State} {fn : Tenant} {secure : Bool} (off : BitVec 25) (v : Word)
    (h : s.hostReaches fn.val secure = true) :
    exec (.registerWrite fn off v none false secure) s = .next (s.hostWrite fn.val (off.toNat / 4 * 4) v.toNat) :=
  congrArg _ (State.hostIn_of_hostReaches _ h)

/-- PF0's write of a word that is no tenant page's (R150): it has no context reset to wait for. -/
theorem State.hostWrite_pf0 {s : State} {a : Nat} (v : Nat) (hheld : s.regHeld 0 a = false) (ha : a < 0x1000000)
    (hmap : (s.word a).isSome = true) (hlock : s.rwlLocked a = false) : s.hostWrite 0 a v = s.regEffect a v := by
  have haddr : fnAddr 0 a = some a := by simp [fnAddr]; omega
  have hpage : ¬ 0x1000000 ≤ a := by omega
  have hsome : (s.word a).isNone = false := by simpa using hmap
  simp [State.hostWrite, hheld, haddr, State.regWrite, hsome, hpage, hlock]

/-! ### The fields of a stored word (R7) -/

/-- The bits of the word at `a` that a write stores. -/
def storeMask (a : Nat) : Nat := accMask (fun x => x == Access.rw || x == Access.rwl || x == Access.wo) a

theorem State.putWord_eq_wr (s : State) (a v : Nat) :
    s.putWord a v = s.wr a ((s.rd a &&& (0xFFFFFFFF - storeMask a)) ||| (v &&& storeMask a)) := rfl

theorem State.putWord_changes_regs_only (s : State) (a v : Nat) :
    s.putWord a v = { s with regs := (s.putWord a v).regs } := rfl

theorem State.rd_putWord_other (s : State) (a v b : Nat) (h : b ≠ a) : (s.putWord a v).rd b = s.rd b :=
  State.rd_wr_other s a b _ h

/-- A bit that a write stores shows the value written. -/
theorem State.testBit_rd_putWord (s : State) (a v i : Nat) (hi : i < 32) (hmask : storeMask a < 2 ^ 32)
    (h : (storeMask a).testBit i = true) : ((s.putWord a v).rd a).testBit i = v.testBit i := by
  have hkept : (0xFFFFFFFF - storeMask a).testBit i = false := by
    have hsub : 0xFFFFFFFF - storeMask a = 2 ^ 32 - (storeMask a + 1) := by omega
    rw [hsub, Nat.testBit_two_pow_sub_succ hmask, h]
    simp
  rw [State.putWord_eq_wr, State.rd_wr_same, Nat.testBit_mod_two_pow]
  simp [hi, h, hkept]

/-- A field of which a write stores every bit reads as written. -/
theorem State.get_putWord_same (s : State) (f : Fld) (v : Nat) (hf : f.inWord) (hmask : storeMask f.addr < 2 ^ 32)
    (hstored : bitsOf (storeMask f.addr) f.lo f.n = 2 ^ f.n - 1) : (s.putWord f.addr v).get f = bitsOf v f.lo f.n := by
  apply Nat.eq_of_testBit_eq
  intro i
  rw [State.get, testBit_bitsOf, testBit_bitsOf]
  by_cases hi : i < f.n
  · have hbit : (storeMask f.addr).testBit (i + f.lo) = true := by
      have hall := testBit_bitsOf (storeMask f.addr) f.lo f.n i
      rw [hstored, Nat.testBit_two_pow_sub_one] at hall
      simpa [hi] using hall.symm
    have hword : i + f.lo < 32 := by unfold Fld.inWord at hf; omega
    rw [State.testBit_rd_putWord s f.addr v _ hword hmask hbit]
  · simp [hi]

/-! ### ENG_SPLIT (R243, Table 8.3) -/

/-- The three shares, of seven bits each, are what a write of ENG_SPLIT stores. -/
theorem storeMask_engSplit : storeMask 0x140004 = 0x7F7F7F := by decide

theorem State.word_engSplit_isSome (s : State) : (s.word 0x140004).isSome = true := by
  have hmap : mapped 0x140004 = true := by decide
  simp [State.word, hmap, State.view]

theorem State.rwlLocked_engSplit (s : State) : s.rwlLocked 0x140004 = false := by
  have hmask : accMask (fun x => x == Access.rwl) 0x140004 = 0 := by decide
  simp [State.rwlLocked, hmask]

/-- R243. -/
theorem State.regEffect_engSplit (s : State) (v : Nat) :
    s.regEffect 0x140004 v =
      if bitsOf v 0 7 + bitsOf v 8 7 + bitsOf v 16 7 = 64 then s.putWord 0x140004 v else s.stick F.ENG_CFG_CFG := rfl

theorem exec_registerWrite_engSplit {s : State} {off : BitVec 25} {secure : Bool} (v : Word)
    (hoff : off.toNat / 4 * 4 = 0x140004) (hreach : s.hostReaches 0 secure = true)
    (hheld : s.regHeld 0 0x140004 = false) :
    exec (.registerWrite 0 off v none false secure) s = .next (s.regEffect 0x140004 v.toNat) := by
  rw [exec_registerWrite_of_hostReaches (fn := 0) off v hreach, hoff]
  exact congrArg _ (State.hostWrite_pf0 v.toNat hheld (by decide) s.word_engSplit_isSome s.rwlLocked_engSplit)

/-- A share reads as written. -/
theorem State.get_putWord_engSplit (s : State) (v : Nat) {lo : Nat}
    (hstored : bitsOf 0x7F7F7F lo 7 = 2 ^ 7 - 1) (hlo : lo + 7 ≤ 32) :
    (s.putWord 0x140004 v).get ⟨0x140004, lo, 7⟩ = bitsOf v lo 7 :=
  State.get_putWord_same s ⟨0x140004, lo, 7⟩ v hlo (by rw [storeMask_engSplit]; decide)
    (by rw [storeMask_engSplit]; exact hstored)

/-- Settles O10, by the two cases of `State.regEffect_engSplit`. -/
theorem engineSharesSumTo64 : Obligations.EngineSharesSumTo64 := by
  unfold Obligations.EngineSharesSumTo64
  intro s off v secure hoff hreach hheld
  rw [exec_registerWrite_engSplit v hoff hreach hheld, State.regEffect_engSplit]
  refine ⟨fun hsum => by rw [if_neg hsum], fun hsum => ?_⟩
  rw [if_pos hsum]
  refine ⟨s.putWord 0x140004 v.toNat, rfl, ?_, ?_, ?_, ?_, ?_⟩
  · exact s.get_putWord_engSplit v.toNat (lo := 0) rfl (by decide)
  · exact s.get_putWord_engSplit v.toNat (lo := 8) rfl (by decide)
  · exact s.get_putWord_engSplit v.toNat (lo := 16) rfl (by decide)
  · exact s.rd_putWord_other 0x140004 v.toNat
  · exact s.putWord_changes_regs_only 0x140004 v.toNat

end Sys2Proof.Machine
end

section
/-! SAFE_HEARTBEAT (R424), in three layers: a front-end row whose own check refuses it, the check and the refresh of a watcher, and the
answers of the row. -/
namespace Sys2Proof.Machine

/-! ### A front-end row that its own check refuses (R213) -/

/-- A command that has ended, or is gone, neither joins a sequence nor starts. -/
theorem State.joinStart_of_ended {s : State} {id : Nat} (fails : Bool) (h : ∀ c, s.cmd? id = some c → c.phase = .ended) :
    s.joinStart id fails = s := by
  unfold State.joinStart
  cases hc : s.cmd? id with
  | none => rfl
  | some c => simp [h c hc]

theorem State.reject_of_ne_format (s : State) (id : Nat) {r : Nat × Nat} (h : r.1 ≠ stREJ_FORMAT) :
    s.reject id r = s.fail id r.1 := by
  simp [State.reject, h]

theorem State.decodeFront_of_refused {s : State} {id : Nat} {c : Cmd} {r : Nat × Nat} (hc : s.cmd? id = some c)
    (hr : s.frontCheck c = some r) : s.decodeFront id = s.reject id r := by
  simp [State.decodeFront, hc, hr]

theorem State.decodeFast_of_front (s : State) (id : Nat) {op : Nat} (fails : Bool) (he : isEngineOp op = false)
    (ha : isAwlOp op = false) : s.decodeFast id op fails = (s.decodeFront id).joinStart id fails := by
  have hchain : op ≠ 0x14 := by
    rintro rfl
    exact absurd he (by decide)
  simp [State.decodeFast, hchain, he, ha]

/-- A row that passes has an id that no command bears. -/
theorem State.cmd?_nextId_isNone_of_rowPasses {s : State} {t q op : Nat} {p : List (BitVec 8)} {fails : Bool}
    (h : s.rowPasses t q op p fails = true) : (s.cmd? s.nextId).isNone = true := by
  simp only [State.rowPasses, Bool.and_eq_true] at h
  obtain ⟨⟨⟨_, hfresh⟩, _⟩, _⟩ := h
  exact hfresh

/-- A front-end row that passes and that its own check refuses with a status other than REJ_FORMAT ends with it. -/
theorem State.opcode_of_refused {s : State} {t q op : Nat} {p : List (BitVec 8)} {fails : Bool} {r : Nat × Nat} (hop : op < 256)
    (hf : isFirmware op = false) (he : isEngineOp op = false) (ha : isAwlOp op = false) (h : s.rowPasses t q op p fails = true)
    (hr : (s.rowDecoded t q op p).frontCheck (s.freshCmd t q (rowPacket op p) none) = some r) (hne : r.1 ≠ stREJ_FORMAT) :
    s.opcode t q op p fails = ((s.rowDecoded t q op p).fail s.nextId r.1).joinStart s.nextId fails := by
  have hc := s.cmd?_rowDecoded t q op p (State.cmd?_nextId_isNone_of_rowPasses h)
  rw [State.opcode_passes s t q op p fails hop h, hf, if_neg Bool.false_ne_true, State.decodeFast_of_front _ _ _ he ha,
    State.decodeFront_of_refused hc hr, State.reject_of_ne_format _ _ hne]

/-! ### A heartbeat's watcher (R225, R424) -/

theorem State.frontCheck_safeHeartbeat (s : State) {c : Cmd} (hop : c.op = 0x41) :
    s.frontCheck c = (s.heartbeatCheck c.tenant (leAt c.pkt 24 2)).map (·, 0) := by
  simp [State.frontCheck, hop]

theorem State.runFront_safeHeartbeat (s : State) {c : Cmd} (hop : c.op = 0x41) :
    s.runFront c = (s.heartbeat (leAt c.pkt 24 2)).fail c.id stDONE := by
  simp [State.runFront, hop]

theorem State.heartbeatCheck_of_outOfRange (s : State) (t : Nat) {w : Nat} (h : 256 ≤ w) :
    s.heartbeatCheck t w = some stREJ_BOUNDS := by
  simp [State.heartbeatCheck, h]

theorem State.heartbeatCheck_of_notValid {s : State} (t : Nat) {w : Nat} (h : w < 256) (hv : rlValid (s.lpeWatch w) = false) :
    s.heartbeatCheck t w = some stREJ_HANDLE := by
  simp [State.heartbeatCheck, Nat.not_le.mpr h, hv]

theorem State.heartbeatCheck_of_otherTenant {s : State} {t w : Nat} (h : w < 256) (hv : rlValid (s.lpeWatch w) = true)
    (ht : rlTen (s.lpeWatch w) ≠ t) : s.heartbeatCheck t w = some stREJ_PERM := by
  simp [State.heartbeatCheck, Nat.not_le.mpr h, hv, ht]

theorem State.heartbeat_of_down {s : State} (w : Nat) (h : s.lpe.down.isSome = true) : s.heartbeat w = s := by
  simp [State.heartbeat, h]

/-! ### The answers of SAFE_HEARTBEAT (R424) -/

theorem exec_safeHeartbeat (t : Tenant) (q : Queue) (p : List Byte) (fails : Bool) (s : State) :
    exec (.safeHeartbeat t q p fails) s = .next (s.opcode t.val q.val 0x41 p fails) := rfl

theorem exec_safeHeartbeat_of_refused {s : State} {t : Tenant} {q : Queue} {p : List Byte} {fails : Bool} {st : Nat}
    (h : s.rowPasses t.val q.val 0x41 p fails = true)
    (hst : (s.rowDecoded t.val q.val 0x41 p).heartbeatCheck t.val (leAt (rowPacket 0x41 p) 24 2) = some st) (hne : st ≠ stREJ_FORMAT) :
    exec (.safeHeartbeat t q p fails) s =
      .next (((s.rowDecoded t.val q.val 0x41 p).fail s.nextId st).joinStart s.nextId fails) := by
  have hop : (s.freshCmd t.val q.val (rowPacket 0x41 p) none).op = 0x41 := rowPacket_op 0x41 (by decide) p
  have hcheck : (s.rowDecoded t.val q.val 0x41 p).frontCheck (s.freshCmd t.val q.val (rowPacket 0x41 p) none) = some (st, 0) :=
    (State.frontCheck_safeHeartbeat _ hop).trans (congrArg (Option.map (·, 0)) hst)
  rw [exec_safeHeartbeat, State.opcode_of_refused (by decide) rfl rfl rfl h hcheck hne]

theorem exec_safeHeartbeat_of_rowStarts {s : State} {t : Tenant} {q : Queue} {p : List Byte} {fails : Bool}
    (h : s.rowStarts t.val q.val 0x41 p fails = true) :
    exec (.safeHeartbeat t q p fails) s =
      .next (((s.rowStarted t.val q.val 0x41 p).heartbeat (leAt (rowPacket 0x41 p) 24 2)).fail s.nextId stDONE) := by
  obtain ⟨c, -, hid, -, -, hpkt, hop, -, -, hrun⟩ := State.opcode_starts s t.val q.val 0x41 p fails (by decide) rfl rfl rfl h
  rw [exec_safeHeartbeat, hrun, State.runFront_safeHeartbeat _ hop, hpkt, hid]

/-- Settles O21: each refusal is a value of `State.heartbeatCheck`, and a heartbeat of a Loupe that is down changes nothing. -/
theorem heartbeatsAnswerByTheirWatcher : Obligations.HeartbeatsAnswerByTheirWatcher := by
  unfold Obligations.HeartbeatsAnswerByTheirWatcher
  rintro s t q p fails w d rfl rfl
  refine ⟨fun hpass => ⟨fun hw => ?_, fun hw hv => ?_, fun hw hv ht => ?_⟩, fun hstart hdown => ?_, fun u => ?_⟩
  · exact exec_safeHeartbeat_of_refused hpass (State.heartbeatCheck_of_outOfRange _ _ hw) (by decide)
  · exact exec_safeHeartbeat_of_refused hpass (State.heartbeatCheck_of_notValid _ hw hv) (by decide)
  · exact exec_safeHeartbeat_of_refused hpass (State.heartbeatCheck_of_otherTenant hw hv ht) (by decide)
  · rw [exec_safeHeartbeat_of_rowStarts hstart, State.heartbeat_of_down _ (by rw [hdown]; rfl)]
  · exact State.joinStart_of_ended fails

end Sys2Proof.Machine
end

section
/-! The trace unit (R463), in four layers: a write of whole words to a device memory, one record put into the ring, the event that is
lost, and the answer to an event its filters let through. -/
namespace Sys2Proof.Machine

/-! ### Cells put into a device memory (R79) -/

/-- Where the cells agree that the byte at `x` is `b`, and one of them names it or it is `b` already, it reads `b`. -/
theorem Mem.byte_putCells_of_agree (l : List Host.Cell) {m : Mem} {sp x : Nat} {b : BitVec 8} (hagree : ∀ c ∈ l, c.1 = x → c.2 = b)
    (h : x ∈ l.map (·.1) ∨ m.byte sp x = b) : (m.putCells sp l).byte sp x = b := by
  induction l generalizing m with
  | nil => simpa [Mem.putCells] using h
  | cons c t ih =>
    refine ih (m := m.putByte sp c.1 c.2) (fun d hd => hagree d (List.mem_cons_of_mem _ hd)) ?_
    by_cases hc : x = c.1
    · right
      rw [hc, Mem.byte_putByte_same, hagree c (List.mem_cons_self ..) hc.symm]
    · rw [Mem.byte_putByte_addr _ _ _ _ _ hc]
      simpa [hc] using h

/-- The cells name all eight bytes of word `w`. -/
def wholeWord (cells : List Host.Cell) (w : Nat) : Prop := ∀ k, k < 8 → 8 * w + k ∈ cells.map (·.1)

theorem wholeWord_filter {cells : List Host.Cell} {w : Nat} (h : wholeWord cells w) :
    wholeWord (cells.filter fun c => c.1 / 8 == w) w := by
  intro k hk
  obtain ⟨c, hc, hck⟩ := List.mem_map.mp (h k hk)
  exact List.mem_map.mpr ⟨c, List.mem_filter.mpr ⟨hc, beq_iff_eq.mpr (by omega)⟩, hck⟩

/-- A whole word is replaced with valid ECC, and nothing but the memory changes (R79). -/
theorem State.writeWord_of_wholeWord (s : State) (sp w : Nat) {cells : List Host.Cell} (h : wholeWord cells w) :
    s.writeWord sp w cells = { s with mem := Mem.putCells { s.mem with
      ce := s.mem.ce.filter (· != (sp, w)), ue := s.mem.ue.filter (· != (sp, w)) } sp cells } := by
  have hall : ((List.range 8).all fun k => cells.any fun c => c.1 == 8 * w + k) = true := by
    simpa [wholeWord] using h
  rw [State.writeWord, if_pos hall]

theorem State.byte_writeWord_of_agree (s : State) {sp w x : Nat} {b : BitVec 8} {cells : List Host.Cell} (hwhole : wholeWord cells w)
    (hagree : ∀ c ∈ cells, c.1 = x → c.2 = b) (h : x ∈ cells.map (·.1) ∨ s.mem.byte sp x = b) :
    (s.writeWord sp w cells).mem.byte sp x = b := by
  rw [State.writeWord_of_wholeWord s sp w hwhole]
  exact Mem.byte_putCells_of_agree cells hagree h

/-- The words of a list, each written with the cells that lie in it. -/
def State.writeWords (s : State) (sp : Nat) (ws : List Nat) (cells : List Host.Cell) : State :=
  ws.foldl (fun s w => s.writeWord sp w (cells.filter fun c => c.1 / 8 == w)) s

theorem State.regs_writeWords_of_wholeWord (ws : List Nat) {s : State} {sp : Nat} {cells : List Host.Cell}
    (hwhole : ∀ w ∈ ws, wholeWord cells w) : (s.writeWords sp ws cells).regs = s.regs := by
  induction ws generalizing s with
  | nil => rfl
  | cons w t ih =>
    have hword : (s.writeWord sp w (cells.filter fun c => c.1 / 8 == w)).regs = s.regs := by
      rw [State.writeWord_of_wholeWord s sp w (wholeWord_filter (hwhole w (List.mem_cons_self ..)))]
    exact (ih fun v hv => hwhole v (List.mem_cons_of_mem _ hv)).trans hword

theorem State.byte_writeWords_of_agree (ws : List Nat) {s : State} {sp x : Nat} {b : BitVec 8} {cells : List Host.Cell}
    (hwhole : ∀ w ∈ ws, wholeWord cells w) (hagree : ∀ c ∈ cells, c.1 = x → c.2 = b)
    (h : (x / 8 ∈ ws ∧ x ∈ cells.map (·.1)) ∨ s.mem.byte sp x = b) : (s.writeWords sp ws cells).mem.byte sp x = b := by
  induction ws generalizing s with
  | nil => simpa [State.writeWords] using h
  | cons w t ih =>
    have hword : x ∈ (cells.filter fun c => c.1 / 8 == w).map (·.1) ∨ s.mem.byte sp x = b →
        (s.writeWord sp w (cells.filter fun c => c.1 / 8 == w)).mem.byte sp x = b :=
      State.byte_writeWord_of_agree s (wholeWord_filter (hwhole w (List.mem_cons_self ..)))
        fun c hc => hagree c (List.mem_filter.mp hc).1
    refine ih (fun v hv => hwhole v (List.mem_cons_of_mem _ hv)) ?_
    rcases h with ⟨hx, hnamed⟩ | hb
    · rcases List.mem_cons.mp hx with hw | ht
      · obtain ⟨c, hc, hcx⟩ := List.mem_map.mp hnamed
        exact .inr (hword (.inl (List.mem_map.mpr ⟨c, List.mem_filter.mpr ⟨hc, beq_iff_eq.mpr (hcx ▸ hw)⟩, hcx⟩)))
      · exact .inl ⟨ht, hnamed⟩
    · exact .inr (hword (.inr hb))

/-! ### Consecutive bytes in whole words -/

theorem mem_cellsAt {a : Nat} {l : List (BitVec 8)} {c : Host.Cell} (h : c ∈ cellsAt a l) :
    a ≤ c.1 ∧ c.1 < a + l.length ∧ c.2 = l.getD (c.1 - a) 0 := by
  obtain ⟨k, hk, rfl⟩ := List.mem_map.mp h
  have hlt := List.mem_range.mp hk
  exact ⟨Nat.le_add_right a k, Nat.add_lt_add_left hlt a, by rw [Nat.add_sub_cancel_left]⟩

theorem mem_addrs_cellsAt {a x : Nat} {l : List (BitVec 8)} : x ∈ (cellsAt a l).map (·.1) ↔ a ≤ x ∧ x < a + l.length := by
  simp only [cellsAt, List.map_map, List.mem_map, List.mem_range, Function.comp_apply]
  exact ⟨fun ⟨k, hk, hx⟩ => by omega, fun h => ⟨x - a, by omega, by omega⟩⟩

theorem mem_wordsOf {l : List Nat} {w : Nat} : w ∈ wordsOf l ↔ ∃ a ∈ l, a / 8 = w := by
  simp [wordsOf]

theorem wholeWord_cellsAt {a w : Nat} {l : List (BitVec 8)} (ha : a % 8 = 0) (hl : l.length % 8 = 0)
    (hw : w ∈ wordsOf ((cellsAt a l).map (·.1))) : wholeWord (cellsAt a l) w := by
  obtain ⟨x, hx, hxw⟩ := mem_wordsOf.mp hw
  have hin := mem_addrs_cellsAt.mp hx
  exact fun k hk => mem_addrs_cellsAt.mpr (by omega)

/-- Outside HBM a write of cells that the space holds is the write of their words (R74). -/
theorem State.memWrite_cellsAt {s : State} {sp a : Nat} {l : List (BitVec 8)} (hsp : sp ≠ 2) (hin : a + l.length ≤ spaceSize sp) :
    s.memWrite sp (cellsAt a l) = s.writeWords sp (wordsOf ((cellsAt a l).map (·.1))) (cellsAt a l) := by
  have hfit : ((cellsAt a l).filter fun c => decide (c.1 < spaceSize sp)) = cellsAt a l :=
    List.filter_eq_self.mpr fun c hc => decide_eq_true (Nat.lt_of_lt_of_le (mem_addrs_cellsAt.mp (List.mem_map_of_mem hc)).2 hin)
  simp only [State.memWrite, hfit, if_neg hsp, State.writeWords]

/-- A write of consecutive bytes in whole words changes no register. -/
theorem State.regs_memWrite_cellsAt (s : State) {sp a : Nat} {l : List (BitVec 8)} (hsp : sp ≠ 2) (ha : a % 8 = 0)
    (hl : l.length % 8 = 0) (hin : a + l.length ≤ spaceSize sp) : (s.memWrite sp (cellsAt a l)).regs = s.regs := by
  rw [State.memWrite_cellsAt hsp hin]
  exact State.regs_writeWords_of_wholeWord _ fun w hw => wholeWord_cellsAt ha hl hw

/-- It stores its bytes at their places, and every other byte of the memory stays. -/
theorem State.byte_memWrite_cellsAt (s : State) {sp a : Nat} {l : List (BitVec 8)} (x : Nat) (hsp : sp ≠ 2) (ha : a % 8 = 0)
    (hl : l.length % 8 = 0) (hin : a + l.length ≤ spaceSize sp) :
    (s.memWrite sp (cellsAt a l)).mem.byte sp x = if a ≤ x ∧ x < a + l.length then l.getD (x - a) 0 else s.mem.byte sp x := by
  rw [State.memWrite_cellsAt hsp hin]
  refine State.byte_writeWords_of_agree _ (fun w hw => wholeWord_cellsAt ha hl hw) (fun c hc hcx => ?_) ?_
  · obtain ⟨hge, hlt, hval⟩ := mem_cellsAt hc
    rw [hval, if_pos (by omega), hcx]
  · by_cases hx : a ≤ x ∧ x < a + l.length
    · exact .inl ⟨mem_wordsOf.mpr ⟨x, mem_addrs_cellsAt.mpr hx, rfl⟩, mem_addrs_cellsAt.mpr hx⟩
    · exact .inr (if_neg hx).symm

/-! ### Registers and counts -/

theorem State.get_of_regs {s u : State} (h : u.regs = s.regs) (f : Fld) : u.get f = s.get f := by
  unfold State.get State.rd
  rw [h]

theorem satAdd_eq_min (m a b : Nat) : satAdd m a b = min m (a + b) := by
  unfold satAdd
  split <;> omega

/-- A saturating count after an event. -/
theorem State.get_bump_same (s : State) (f : Fld) (k : Nat) (h : f.inWord) :
    (s.bump f k).get f = min (2 ^ f.n - 1) (s.get f + k) := by
  have hpos := Nat.two_pow_pos f.n
  rw [State.bump, State.get_set_same _ _ _ h, satAdd_eq_min, Nat.mod_eq_of_lt (by omega)]

theorem State.get_bump_other (s : State) (f g : Fld) (k : Nat) (h : g.addr ≠ f.addr) : (s.bump f k).get g = s.get g :=
  State.get_wr_other _ _ _ g h

theorem State.get_stick_other (s : State) (f g : Fld) (h : g.addr ≠ f.addr) : (s.stick f).get g = s.get g := by
  unfold State.get
  rw [State.rd_stick_other s f _ h]

theorem trcWptr_inWord : F.TRC_WPTR.inWord := Nat.le_refl 32
theorem trcWraps_inWord : F.TRC_WRAPS.inWord := Nat.le_refl 32
theorem trcLost_inWord : F.TRC_LOST.inWord := Nat.le_refl 32

/-! ### One record in the ring (R462, R463) -/

theorem length_leBytes (n v : Nat) : (leBytes n v).length = n := by
  induction n generalizing v with
  | zero => rfl
  | succ n ih => rw [leBytes, List.length_cons, ih]

theorem length_traceRecord (time type unit ten seq : Nat) (b : List (BitVec 8)) :
    (traceRecord time type unit ten seq b).length = 32 := by
  simp [traceRecord, length_leBytes, slice]

/-- The place of the next trace record in the device-reserved region of tier 0. -/
def State.tracePlace (s : State) : Nat := 0x5000000 + 32 * (s.get F.TRC_WPTR % traceSlots)

/-- The place is aligned to a word and lies, with its record, in tier 0. -/
theorem State.tracePlace_fits (s : State) : s.tracePlace % 8 = 0 ∧ s.tracePlace + 32 ≤ spaceSize 1 := by
  simp only [State.tracePlace, traceSlots, spaceSize]
  omega

/-- The memory a record leaves: its 32 bytes at the place, every other byte as before. -/
theorem State.byte_tracePut (s : State) {r : List (BitVec 8)} (hr : r.length = 32) (x : Nat) :
    (s.tracePut r).mem.byte 1 x =
      if s.tracePlace ≤ x ∧ x < s.tracePlace + 32 then r.getD (x - s.tracePlace) 0 else s.mem.byte 1 x := by
  obtain ⟨halign, hfit⟩ := s.tracePlace_fits
  have hmem : (s.tracePut r).mem = (s.memWrite 1 (cellsAt s.tracePlace r)).mem := by
    unfold State.tracePut
    dsimp only
    split
    · rw [State.bump_mem, State.set_mem]; rfl
    · rw [State.set_mem]; rfl
  rw [hmem, State.byte_memWrite_cellsAt s x (by decide) halign (by omega) (by omega), hr]

theorem State.byte_tracePut_place (s : State) {r : List (BitVec 8)} (hr : r.length = 32) {k : Nat} (hk : k < 32) :
    (s.tracePut r).mem.byte 1 (s.tracePlace + k) = r.getD k 0 := by
  rw [State.byte_tracePut s hr, if_pos (by omega), Nat.add_sub_cancel_left]

theorem State.byte_tracePut_other (s : State) {r : List (BitVec 8)} (hr : r.length = 32) {x : Nat}
    (hx : x < s.tracePlace ∨ s.tracePlace + 32 ≤ x) : (s.tracePut r).mem.byte 1 x = s.mem.byte 1 x := by
  rw [State.byte_tracePut s hr, if_neg (by omega)]

/-- The registers a record leaves: TRC_WPTR one on, and in WRAP mode a pass counted at the ring's end. -/
theorem State.tracePut_registers (s : State) {r : List (BitVec 8)} (hr : r.length = 32) :
    (s.tracePut r).get F.TRC_WPTR = (s.get F.TRC_WPTR + 1) % 2 ^ 32 ∧
    (s.tracePut r).get F.TRC_WRAPS = if (s.get F.TRC_WPTR + 1) % traceSlots = 0 ∧ s.on F.TRC_CTRL_MODE = false then
      min (2 ^ 32 - 1) (s.get F.TRC_WRAPS + 1) else s.get F.TRC_WRAPS := by
  obtain ⟨halign, hfit⟩ := s.tracePlace_fits
  have hwrite (f : Fld) : (s.memWrite 1 (cellsAt s.tracePlace r)).get f = s.get f :=
    State.get_of_regs (State.regs_memWrite_cellsAt s (by decide) halign (by omega) (by omega)) f
  generalize hv : (s.memWrite 1 (cellsAt s.tracePlace r)).set F.TRC_WPTR ((s.get F.TRC_WPTR + 1) % 2 ^ 32) = v
  have hother (f : Fld) (h : f.addr ≠ F.TRC_WPTR.addr) : v.get f = s.get f := by
    rw [← hv, State.get_set_other _ _ _ _ trcWptr_inWord (.inl h), hwrite]
  have hwptr : v.get F.TRC_WPTR = (s.get F.TRC_WPTR + 1) % 2 ^ 32 := by
    rw [← hv, State.get_set_same _ _ _ trcWptr_inWord]
    exact Nat.mod_mod _ _
  have hmode : v.on F.TRC_CTRL_MODE = s.on F.TRC_CTRL_MODE := by rw [State.on, State.on, hother _ (by decide)]
  have hput : s.tracePut r = if (s.get F.TRC_WPTR + 1) % traceSlots = 0 && !(v.on F.TRC_CTRL_MODE) then v.bump F.TRC_WRAPS 1 else v := by
    rw [← hv]
    rfl
  rw [hmode] at hput
  simp only [Bool.and_eq_true, decide_eq_true_eq, Bool.not_eq_true'] at hput
  rw [hput]
  split
  · exact ⟨(State.get_bump_other v _ _ 1 (by decide)).trans hwptr,
      (State.get_bump_same v _ 1 trcWraps_inWord).trans (by rw [hother _ (by decide)]; rfl)⟩
  · exact ⟨hwptr, hother _ (by decide)⟩

/-! ### A lost event (R462) -/

theorem State.msix_frame (s : State) (fn vec : Nat) :
    (s.msix fn vec).mem = s.mem ∧ (s.msix fn vec).regs = s.regs ∧ (s.msix fn vec).errs = s.errs := by
  unfold State.msix
  split
  · exact ⟨rfl, rfl, rfl⟩
  · split
    · exact ⟨rfl, rfl, rfl⟩
    · split <;> exact ⟨rfl, rfl, rfl⟩

/-- A choice between two states is one of them. -/
theorem State.ite_eq_left_or_right {c : Prop} [Decidable c] (a b : State) : (if c then a else b) = a ∨ (if c then a else b) = b := by
  by_cases h : c
  · exact .inl (if_pos h)
  · exact .inr (if_neg h)

/-- A device-wide vector changes neither memory nor registers, nor the number of lost trace records. -/
theorem State.irq_frame (s : State) (vec : Nat) :
    (s.irq vec).mem = s.mem ∧ (s.irq vec).regs = s.regs ∧ (s.irq vec).errs.traceLost = s.errs.traceLost := by
  have hcases : s.irq vec = ({ s with errs := { s.errs with vecSent := kvIns vec s.cad.time s.errs.vecSent } } : State).msix 0 vec ∨
      s.irq vec = s := State.ite_eq_left_or_right _ _
  rcases hcases with hsent | hnone
  · obtain ⟨hmem, hregs, herrs⟩ :=
      ({ s with errs := { s.errs with vecSent := kvIns vec s.cad.time s.errs.vecSent } } : State).msix_frame 0 vec
    rw [hsent]
    exact ⟨hmem, hregs, by rw [herrs]⟩
  · rw [hnone]
    exact ⟨rfl, rfl, rfl⟩

/-- A lost event is counted, and its registers are those of a count in TRC_LOST and of the sticky flag TRC_OVF. -/
theorem State.traceDrop_frame (s : State) :
    s.traceDrop.mem = s.mem ∧ s.traceDrop.errs.traceLost = s.errs.traceLost + 1 ∧
    ∀ f, s.traceDrop.get f = ((s.bump F.TRC_LOST 1).stick F.TRC_OVF_OVF).get f := by
  obtain ⟨hmem, hregs, hlost⟩ := State.irq_frame
    ((({ s with errs := { s.errs with traceLost := s.errs.traceLost + 1 } } : State).bump F.TRC_LOST 1).stick F.TRC_OVF_OVF) 18
  rw [State.stick_mem, State.bump_mem] at hmem
  rw [State.stick_errs, State.bump_errs] at hlost
  exact ⟨hmem, hlost, State.get_of_regs hregs⟩

/-- A lost event leaves TRC_WPTR, is counted in TRC_LOST and sets TRC_OVF. -/
theorem State.traceDrop_registers (s : State) :
    s.traceDrop.get F.TRC_WPTR = s.get F.TRC_WPTR ∧ s.traceDrop.get F.TRC_LOST = min (2 ^ 32 - 1) (s.get F.TRC_LOST + 1) ∧
    s.traceDrop.get F.TRC_OVF_OVF = 1 := by
  obtain ⟨-, -, hget⟩ := s.traceDrop_frame
  refine ⟨?_, ?_, ?_⟩
  · rw [hget, State.get_stick_other _ _ _ (by decide), State.get_bump_other _ _ _ _ (by decide)]
  · rw [hget, State.get_stick_other _ _ _ (by decide)]
    exact State.get_bump_same _ _ _ trcLost_inWord
  · rw [hget, State.get_stick_same _ _ (by decide) rfl]

/-! ### An event (R463) -/

theorem State.traceFull_eq_true {s : State} (hstop : s.on F.TRC_CTRL_MODE = true) (hfull : traceSlots ≤ s.traceUsed) :
    s.traceFull = true := by
  simp [State.traceFull, hstop, hfull]

/-- In WRAP mode the ring is never full, in STOP mode it is not with fewer than 131,072 unread records. -/
theorem State.traceFull_eq_false {s : State} (h : s.on F.TRC_CTRL_MODE = false ∨ s.traceUsed < traceSlots) : s.traceFull = false := by
  rcases h with hwrap | hspace
  · simp [State.traceFull, hwrap]
  · simp [State.traceFull, hspace]

theorem State.trace_of_filters {s : State} {ty ten : Nat} (unit seq : Nat) (b : List (BitVec 8)) (hen : s.on F.TRC_CTRL_EN = true)
    (hclock : s.get F.PWR_STATUS_STATE < 2) (hty : bit (s.rd F.TRC_TYPEMASK.addr) ty = true)
    (hten : bit (s.get F.TRC_TENMASK) (ten % 16) = true) :
    s.trace ty unit ten seq b = s.traceEvent (traceRecord s.cad.time ty unit ten seq b) := by
  simp [State.trace, hen, hty, hten, Nat.not_le.mpr hclock]

theorem State.traceEvent_of_full {s : State} (r : List (BitVec 8)) (h : s.traceFull = true) : s.traceEvent r = s.traceDrop := if_pos h

theorem State.traceEvent_of_space {s : State} (r : List (BitVec 8)) (h : s.traceFull = false) (hlost : s.errs.traceLost = 0) :
    s.traceEvent r = s.tracePut r := by
  simp [State.traceEvent, h, hlost]

/-- The event after a loss: the OVERFLOW record first, then the event's own record, or its loss where the ring is full again. -/
theorem State.traceEvent_of_lost {s : State} (r : List (BitVec 8)) (h : s.traceFull = false) (hlost : s.errs.traceLost ≠ 0) :
    s.traceEvent r = if s.traceOverflow.traceFull then s.traceOverflow.traceDrop else s.traceOverflow.tracePut r := by
  simp [State.traceEvent, h, hlost]

/-- The record that says how many events were lost. -/
def State.overflowRecord (s : State) : List (BitVec 8) := traceRecord s.cad.time 0x0B 0 0 0 (leBytes 4 (min s.errs.traceLost 0xFFFFFFFF))

theorem State.byte_traceOverflow (s : State) {k : Nat} (hk : k < 32) :
    s.traceOverflow.mem.byte 1 (s.tracePlace + k) = s.overflowRecord.getD k 0 :=
  s.byte_tracePut_place (length_traceRecord ..) hk

/-- The record after the OVERFLOW record has the next place of the ring. -/
theorem State.tracePlace_traceOverflow (s : State) :
    s.traceOverflow.tracePlace + 32 ≤ s.tracePlace ∨ s.tracePlace + 32 ≤ s.traceOverflow.tracePlace := by
  have hw : s.traceOverflow.get F.TRC_WPTR = (s.get F.TRC_WPTR + 1) % 2 ^ 32 :=
    (s.tracePut_registers (length_traceRecord ..)).1
  simp only [State.tracePlace, hw, traceSlots]
  omega

/-- What follows the OVERFLOW record does not overwrite it. -/
theorem State.byte_traceEvent_of_lost {s : State} {r : List (BitVec 8)} (hr : r.length = 32) (h : s.traceFull = false)
    (hlost : s.errs.traceLost ≠ 0) {k : Nat} (hk : k < 32) :
    (s.traceEvent r).mem.byte 1 (s.tracePlace + k) = s.overflowRecord.getD k 0 := by
  rw [State.traceEvent_of_lost r h hlost, ← s.byte_traceOverflow hk]
  split
  · obtain ⟨hmem, -, -⟩ := s.traceOverflow.traceDrop_frame
    rw [hmem]
  · have hnext := s.tracePlace_traceOverflow
    exact State.byte_tracePut_other _ hr (by omega)

/-- Settles O53: the three branches of `State.traceEvent`. -/
theorem traceUnitWrapsOrStops : Obligations.TraceUnitWrapsOrStops := by
  unfold Obligations.TraceUnitWrapsOrStops
  rintro s ty unit ten seq b r hen hclock hty hten rfl
  have hr := length_traceRecord s.cad.time ty unit ten seq b
  rw [State.trace_of_filters unit seq b hen hclock hty hten]
  refine ⟨fun hspace hlost => ⟨_, rfl, ?_⟩, fun hstop hfull => ⟨_, rfl, ?_⟩, fun hspace hlost => ⟨_, rfl, fun k hk => ?_⟩⟩
  · rw [State.traceEvent_of_space _ (State.traceFull_eq_false hspace) hlost]
    exact ⟨fun k hk => s.byte_tracePut_place hr hk, fun a ha => s.byte_tracePut_other hr ha, s.tracePut_registers hr⟩
  · rw [State.traceEvent_of_full _ (State.traceFull_eq_true hstop hfull)]
    obtain ⟨hmem, hlost, -⟩ := s.traceDrop_frame
    obtain ⟨hwptr, hcount, hflag⟩ := s.traceDrop_registers
    exact ⟨hmem, hwptr, hcount, hflag, hlost⟩
  · exact State.byte_traceEvent_of_lost hr (State.traceFull_eq_false hspace) hlost hk

end Sys2Proof.Machine
end

section
/-! What holds of every command and of every step, whichever command it is: the front of the queue runs, there is a next state, and the
canonical forms are kept from reset on. -/
namespace Sys2Proof.Machine

/-- Settles O1: the second branch of `step`. -/
theorem stepRunsTheFrontCommand : Obligations.StepRunsTheFrontCommand := by
  unfold Obligations.StepRunsTheFrontCommand
  exact fun _ _ _ => rfl

/-! ### Every command answers -/

/-- A choice between two next states is a next state. -/
theorem exists_next_ite {c : Prop} [Decidable c] {a b : Host.Outcome State Fault Refusal} (ha : ∃ t, a = .next t) (hb : ∃ t, b = .next t) :
    ∃ t, (if c then a else b) = .next t := by
  split <;> assumption

/-- Settles O3: four meanings choose between next states, and each other one is a next state outright. -/
theorem everyCommandAnswersANextState : Obligations.EveryCommandAnswersANextState := by
  unfold Obligations.EveryCommandAnswersANextState
  intro c s
  cases c with
  | tickEdge arm => exact exists_next_ite ⟨_, rfl⟩ (exists_next_ite ⟨_, rfl⟩ ⟨_, rfl⟩)
  | ppsInTimeout => exact exists_next_ite ⟨_, rfl⟩ ⟨_, rfl⟩
  | ptpSourceLost p => exact exists_next_ite ⟨_, rfl⟩ ⟨_, rfl⟩
  | rackTimeStore => exact exists_next_ite ⟨_, rfl⟩ ⟨_, rfl⟩
  | _ => exact ⟨_, rfl⟩

/-! ### Reset and the canonical forms (R486) -/

/-- Settles O4: every map of the reset state is empty. -/
theorem resetIsWellKept : Obligations.ResetIsWellKept := by
  unfold Obligations.ResetIsWellKept
  exact ⟨by decide, fun a => congrArg BitVec.toNat (spGet_nil resetWord a), rfl, rfl, rfl, rfl, rfl, rfl⟩

/-- Each command keeps the queue and the canonical forms, by the lemma of its meaning. -/
theorem exec_keeps {pend : List Instr} (c : Instr) {s : State} (h : Keeps pend 0 s) : KeepsR pend 0 (exec c s) := by
  cases c with
  | registerWrite => exact execRegisterWrite_keeps h
  | invalidRegisterAccess => exact execInvalidRegisterAccess_keeps h
  | rcRead => exact execRcRead_keeps h
  | stickyFlagClear => exact execStickyFlagClear_keeps h
  | cadTimeLoRead => exact execCadTimeLoRead_keeps h
  | cadenceEnable => exact execCadenceEnable_keeps h
  | cadenceDisable => exact execCadenceDisable_keeps h
  | switchArm => exact execSwitchArm_keeps h
  | setTime => exact execSetTime_keeps h
  | acceptSrc => exact execAcceptSrc_keeps h
  | tickEdge => exact execTickEdge_keeps h
  | tickOutFall => exact execTickOutFall_keeps h
  | ppsOutRise => exact execPpsOutRise_keeps h
  | ppsOutFall => exact execPpsOutFall_keeps h
  | ppsInEdge => exact execPpsInEdge_keeps h
  | ppsInTimeout => exact execPpsInTimeout_keeps h
  | ptpMessage => exact execPtpMessage_keeps h
  | ptpSourceLost => exact execPtpSourceLost_keeps h
  | holdoverRecord => exact execHoldoverRecord_keeps h
  | rackTimeStore => exact execRackTimeStore_keeps h
  | joinHoldRelease => exact execJoinHoldRelease_keeps h
  | masterLoss => exact execMasterLoss_keeps h
  | timedLaunch => exact execTimedLaunch_keeps h
  | scrubStep => exact execScrubStep_keeps h
  | hbmScrubStep => exact execHbmScrubStep_keeps h
  | hbmReady => exact execHbmReady_keeps h
  | wcResize => exact execWcResize_keeps h
  | wcResizeComplete => exact execWcResizeComplete_keeps h
  | wcPinEnable => exact execWcPinEnable_keeps h
  | wcFillComplete => exact execWcFillComplete_keeps h
  | facetRegisterWrite => exact execFacetRegisterWrite_keeps h
  | bar2Read => exact execBar2Read_keeps h
  | bar2Write => exact execBar2Write_keeps h
  | nop => exact execNop_keeps h
  | fence => exact execFence_keeps h
  | hello => exact execHello_keeps h
  | winCreate => exact execWinCreate_keeps h
  | winRevoke => exact execWinRevoke_keeps h
  | winDestroy => exact execWinDestroy_keeps h
  | windowDrainComplete => exact execWindowDrainComplete_keeps h
  | descCreate => exact execDescCreate_keeps h
  | winQueryTimeout => exact execWinQueryTimeout_keeps h
  | descDestroy => exact execDescDestroy_keeps h
  | move => exact execMove_keeps h
  | movePlain => exact execMovePlain_keeps h
  | gatherPages => exact execGatherPages_keeps h
  | scatterPages => exact execScatterPages_keeps h
  | chain => exact execChain_keeps h
  | metadataReadComplete => exact execMetadataReadComplete_keeps h
  | shortWrite => exact execShortWrite_keeps h
  | shortCopy => exact execShortCopy_keeps h
  | awlOperation => exact execAwlOperation_keeps h
  | signal => exact execSignal_keeps h
  | wait => exact execWait_keeps h
  | waitTimeout => exact execWaitTimeout_keeps h
  | barrierArrive => exact execBarrierArrive_keeps h
  | barrierWaitTimeout => exact execBarrierWaitTimeout_keeps h
  | lockAcquire => exact execLockAcquire_keeps h
  | lockRelease => exact execLockRelease_keeps h
  | lockAcquireTimeout => exact execLockAcquireTimeout_keeps h
  | lockWaitExpiry => exact execLockWaitExpiry_keeps h
  | lockBackoffExpiry => exact execLockBackoffExpiry_keeps h
  | lockReap => exact execLockReap_keeps h
  | flagSet => exact execFlagSet_keeps h
  | flagClear => exact execFlagClear_keeps h
  | ring => exact execRing_keeps h
  | graphLoad => exact execGraphLoad_keeps h
  | graphLaunch => exact execGraphLaunch_keeps h
  | graphRelease => exact execGraphRelease_keeps h
  | graphUnload => exact execGraphUnload_keeps h
  | pwrRequest => exact execPwrRequest_keeps h
  | calRun => exact execCalRun_keeps h
  | calRunComplete => exact execCalRunComplete_keeps h
  | calSave => exact execCalSave_keeps h
  | restoreFactory => exact execRestoreFactory_keeps h
  | attestQuote => exact execAttestQuote_keeps h
  | fwBegin => exact execFwBegin_keeps h
  | fwData => exact execFwData_keeps h
  | fwCommit => exact execFwCommit_keeps h
  | fwAbort => exact execFwAbort_keeps h
  | safeConfig => exact execSafeConfig_keeps h
  | safeHeartbeat => exact execSafeHeartbeat_keeps h
  | queueEnable => exact execQueueEnable_keeps h
  | queueDisable => exact execQueueDisable_keeps h
  | queueResume => exact execQueueResume_keeps h
  | queueWinWrite => exact execQueueWinWrite_keeps h
  | cqEnable => exact execCqEnable_keeps h
  | cqDisable => exact execCqDisable_keeps h
  | cqResume => exact execCqResume_keeps h
  | cqWinWrite => exact execCqWinWrite_keeps h
  | doorbell => exact execDoorbell_keeps h
  | cqDoorbell => exact execCqDoorbell_keeps h
  | cmqStopWrite => exact execCmqStopWrite_keeps h
  | queueFetch => exact execQueueFetch_keeps h
  | queueFetchFail => exact execQueueFetchFail_keeps h
  | packetDecode => exact execPacketDecode_keeps h
  | deferredDispatch => exact execDeferredDispatch_keeps h
  | cfWorkStart => exact execCfWorkStart_keeps h
  | planComputeComplete => exact execPlanComputeComplete_keeps h
  | priPartWrite => exact execPriPartWrite_keeps h
  | priInval => exact execPriInval_keeps h
  | commandStart => exact execCommandStart_keeps h
  | commandActivate => exact execCommandActivate_keeps h
  | engineChunkDecision => exact execEngineChunkDecision_keeps h
  | starveTimeout => exact execStarveTimeout_keeps h
  | sigAfterSend => exact execSigAfterSend_keeps h
  | commandComplete => exact execCommandComplete_keeps h
  | irqModerationTimer => exact execIrqModerationTimer_keeps h
  | engineReset => exact execEngineReset_keeps h
  | engineResetComplete => exact execEngineResetComplete_keeps h
  | engineOffline => exact execEngineOffline_keeps h
  | engSpartWrite => exact execEngSpartWrite_keeps h
  | arbiterDecision => exact execArbiterDecision_keeps h
  | lockedBoundExpiry => exact execLockedBoundExpiry_keeps h
  | counterSet => exact execCounterSet_keeps h
  | counterAdd => exact execCounterAdd_keeps h
  | counterSub => exact execCounterSub_keeps h
  | barrierEnable => exact execBarrierEnable_keeps h
  | barrierDisable => exact execBarrierDisable_keeps h
  | synPartitionWrite => exact execSynPartitionWrite_keeps h
  | evfSetWrite => exact execEvfSetWrite_keeps h
  | evfClrWrite => exact execEvfClrWrite_keeps h
  | nodeDispatch => exact execNodeDispatch_keeps h
  | heldSetApply => exact execHeldSetApply_keeps h
  | nodeTimeout => exact execNodeTimeout_keeps h
  | schPartWrite => exact execSchPartWrite_keeps h
  | portEnable => exact execPortEnable_keeps h
  | trainingStateAdvance => exact execTrainingStateAdvance_keeps h
  | paramExchange => exact execParamExchange_keeps h
  | downRetry => exact execDownRetry_keeps h
  | retrainTrigger => exact execRetrainTrigger_keeps h
  | retrainAttemptEnd => exact execRetrainAttemptEnd_keeps h
  | flitReceive => exact execFlitReceive_keeps h
  | nakReceived => exact execNakReceived_keeps h
  | idleFlitSend => exact execIdleFlitSend_keeps h
  | readReq => exact execReadReq_keeps h
  | winQuery => exact execWinQuery_keeps h
  | lockReq => exact execLockReq_keeps h
  | write => exact execWrite_keeps h
  | reinSignal => exact execReinSignal_keeps h
  | barArrive => exact execBarArrive_keeps h
  | phaseDone => exact execPhaseDone_keeps h
  | reinLockRelease => exact execReinLockRelease_keeps h
  | epochOpen => exact execEpochOpen_keeps h
  | staleNotice => exact execStaleNotice_keeps h
  | readCpl => exact execReadCpl_keeps h
  | winAnswer => exact execWinAnswer_keeps h
  | lockGrant => exact execLockGrant_keeps h
  | lockBusy => exact execLockBusy_keeps h
  | barAck => exact execBarAck_keeps h
  | e2eAck => exact execE2eAck_keeps h
  | e2eAckTimer => exact execE2eAckTimer_keeps h
  | refuse => exact execRefuse_keeps h
  | pathLost => exact execPathLost_keeps h
  | gapNak => exact execGapNak_keeps h
  | e2eTimeout => exact execE2eTimeout_keeps h
  | requestTimeout => exact execRequestTimeout_keeps h
  | domain => exact execDomain_keeps h
  | domainAnnounce => exact execDomainAnnounce_keeps h
  | timeExchangeStart => exact execTimeExchangeStart_keeps h
  | timeSync => exact execTimeSync_keeps h
  | timeFollow => exact execTimeFollow_keeps h
  | timeDreq => exact execTimeDreq_keeps h
  | timeDresp => exact execTimeDresp_keeps h
  | upstreamReselect => exact execUpstreamReselect_keeps h
  | config => exact execConfig_keeps h
  | configSend => exact execConfigSend_keeps h
  | girthRequestTimer => exact execGirthRequestTimer_keeps h
  | girthReq => exact execGirthReq_keeps h
  | girthGrant => exact execGirthGrant_keeps h
  | girthRet => exact execGirthRet_keeps h
  | leaseExpiry => exact execLeaseExpiry_keeps h
  | masterGraceEnd => exact execMasterGraceEnd_keeps h
  | routingEntryWrite => exact execRoutingEntryWrite_keeps h
  | ethFrameReceive => exact execEthFrameReceive_keeps h
  | pfcRepeat => exact execPfcRepeat_keeps h
  | datagramLanding => exact execDatagramLanding_keeps h
  | arpRequest => exact execArpRequest_keeps h
  | neighbourSolicitation => exact execNeighbourSolicitation_keeps h
  | mkaFrame => exact execMkaFrame_keeps h
  | mkaRekey => exact execMkaRekey_keeps h
  | saInstall => exact execSaInstall_keeps h
  | camInsert => exact execCamInsert_keeps h
  | camDelete => exact execCamDelete_keeps h
  | camRead => exact execCamRead_keeps h
  | steeringRuleWrite => exact execSteeringRuleWrite_keeps h
  | ethLinkChange => exact execEthLinkChange_keeps h
  | hostWindowWrite => exact execHostWindowWrite_keeps h
  | p2pWindowWrite => exact execP2pWindowWrite_keeps h
  | apertureWrite => exact execApertureWrite_keeps h
  | apcfgMailbox => exact execApcfgMailbox_keeps h
  | apInboundRequest => exact execApInboundRequest_keeps h
  | apPerstAssert => exact execApPerstAssert_keeps h
  | configRequest => exact execConfigRequest_keeps h
  | flr => exact execFlr_keeps h
  | vfEnableClear => exact execVfEnableClear_keeps h
  | hostReset => exact execHostReset_keeps h
  | busMasterEnableClear => exact execBusMasterEnableClear_keeps h
  | atsInvalidate => exact execAtsInvalidate_keeps h
  | pmeTurnOff => exact execPmeTurnOff_keeps h
  | contextReset => exact execContextReset_keeps h
  | contextResetComplete => exact execContextResetComplete_keeps h
  | brdRegionWrite => exact execBrdRegionWrite_keeps h
  | brdSync => exact execBrdSync_keeps h
  | brdSyncComplete => exact execBrdSyncComplete_keeps h
  | summaryEvaluate => exact execSummaryEvaluate_keeps h
  | mirrorWindowExpiry => exact execMirrorWindowExpiry_keeps h
  | gatedVerdict => exact execGatedVerdict_keeps h
  | watcherExpiry => exact execWatcherExpiry_keeps h
  | patternHoldExpiry => exact execPatternHoldExpiry_keeps h
  | tripwireRecord => exact execTripwireRecord_keeps h
  | safeEnable => exact execSafeEnable_keeps h
  | faultClear => exact execFaultClear_keeps h
  | alarmClear => exact execAlarmClear_keeps h
  | lpeReset => exact execLpeReset_keeps h
  | lockstepMismatch => exact execLockstepMismatch_keeps h
  | loupeClockFault => exact execLoupeClockFault_keeps h
  | loupeException => exact execLoupeException_keeps h
  | lfWatchdogExpiry => exact execLfWatchdogExpiry_keeps h
  | loupeSramUe => exact execLoupeSramUe_keeps h
  | loupeRestartComplete => exact execLoupeRestartComplete_keeps h
  | lpStatusFrame => exact execLpStatusFrame_keeps h
  | lpFrameReceived frame => exact execLpFrameReceived_keeps (_frame := frame) h
  | eventRingFlush => exact execEventRingFlush_keeps h
  | keyInstall => exact execKeyInstall_keeps h
  | keyErase => exact execKeyErase_keeps h
  | lpKey => exact execLpKey_keeps h
  | credInstall => exact execCredInstall_keeps h
  | credRevoke => exact execCredRevoke_keeps h
  | authSet => exact execAuthSet_keeps h
  | lcAdvance => exact execLcAdvance_keeps h
  | dbgToken => exact execDbgToken_keeps h
  | d2UnlockComplete => exact execD2UnlockComplete_keeps h
  | svnAdvance => exact execSvnAdvance_keeps h
  | credentialEvaluate => exact execCredentialEvaluate_keeps h
  | debugLevelWrite => exact execDebugLevelWrite_keeps h
  | dbgChal => exact execDbgChal_keeps h
  | idcode => exact execIdcode_keeps h
  | bypass => exact execBypass_keeps h
  | samplePreload => exact execSamplePreload_keeps h
  | extest => exact execExtest_keeps h
  | clamp => exact execClamp_keeps h
  | highz => exact execHighz_keeps h
  | dbgTrace => exact execDbgTrace_keeps h
  | dbgAp => exact execDbgAp_keeps h
  | debuggerAttach => exact execDebuggerAttach_keeps h
  | debuggerDetach => exact execDebuggerDetach_keeps h
  | trstNAssert => exact execTrstNAssert_keeps h
  | trcUser => exact execTrcUser_keeps h
  | drainComplete => exact execDrainComplete_keeps h
  | drainTimeout => exact execDrainTimeout_keeps h
  | wakeEvent => exact execWakeEvent_keeps h
  | wakeTimeReached => exact execWakeTimeReached_keeps h
  | i3cWake => exact execI3cWake_keeps h
  | stateExitComplete => exact execStateExitComplete_keeps h
  | autoHoldEntry => exact execAutoHoldEntry_keeps h
  | autoHoldExit => exact execAutoHoldExit_keeps h
  | powerSample => exact execPowerSample_keeps h
  | thermalSample => exact execThermalSample_keeps h
  | thermalResume => exact execThermalResume_keeps h
  | i3cCapWrite => exact execI3cCapWrite_keeps h
  | i3cStatusRead => exact execI3cStatusRead_keeps h
  | i3cCcc => exact execI3cCcc_keeps h
  | porNAssert => exact execPorNAssert_keeps h
  | coldBoot => exact execColdBoot_keeps h
  | commandReady => exact execCommandReady_keeps h
  | fwConfirm => exact execFwConfirm_keeps h
  | autoConfirm => exact execAutoConfirm_keeps h
  | fwReboot => exact execFwReboot_keeps h
  | fwRestart => exact execFwRestart_keeps h
  | controlCoreException => exact execControlCoreException_keeps h
  | controlCoreWatchdog => exact execControlCoreWatchdog_keeps h
  | pllUnlock => exact execPllUnlock_keeps h
  | safeStateRestart => exact execSafeStateRestart_keeps h
  | restartComplete => exact execRestartComplete_keeps h
  | tcxoLoss => exact execTcxoLoss_keeps h
  | tcxoReturn => exact execTcxoReturn_keeps h
  | sysclkLoss => exact execSysclkLoss_keeps h
  | sysclkReturn => exact execSysclkReturn_keeps h
  | refclkLoss => exact execRefclkLoss_keeps h
  | railUndervoltage => exact execRailUndervoltage_keeps h
  | vddLpeUndervoltage => exact execVddLpeUndervoltage_keeps h
  | vddAoLoss => exact execVddAoLoss_keeps h
  | testEnHigh => exact execTestEnHigh_keeps h
  | ptpTransmitInterval => exact execPtpTransmitInterval_keeps h
  | trainingBoundExpiry => exact execTrainingBoundExpiry_keeps h
  | spdmRequest => exact execSpdmRequest_keeps h
  | perstNDeassert => exact execPerstNDeassert_keeps h
  | hpLinkUp => exact execHpLinkUp_keeps h
  | apLinkChange => exact execApLinkChange_keeps h
  | apPerstRelease => exact execApPerstRelease_keeps h
  | vddLpeReturn => exact execVddLpeReturn_keeps h
  | decommissionComplete => exact execDecommissionComplete_keeps h

/-- Settles O5: a command keeps the forms by `exec_keeps`, and so does a nanosecond without one. -/
theorem stepKeepsTheCanonicalForms : Obligations.StepKeepsTheCanonicalForms := by
  unfold Obligations.StepKeepsTheCanonicalForms
  intro s t hs hstep
  unfold step at hstep
  split at hstep
  · cases hstep
    exact (State.idle_keeps (⟨rfl, Nat.zero_le _, hs⟩ : Keeps s.pending 0 s)).inv
  · next c rest _ =>
    have hkeeps : Keeps rest 0 ({ s with pending := rest } : State) := ⟨rfl, Nat.zero_le _, hs⟩
    exact (exec_keeps c hkeeps t hstep).inv

end Sys2Proof.Machine
end

section
/-! A host's register accesses (R5 to R9, R150, R387, R389, R406, R502, R552, R553): how a request reaches its word, and what a write, a
read and a clear of flags do there. -/
namespace Sys2Proof.Machine

/-! ### Requests that a Secure stream lacks (R389) -/

theorem State.hostIn_of_insecure {s : State} {fn : Nat} (k : State → State) (hup : s.pcie.hpUp = true) (hfn : s.fnPresent fn = true)
    (hreq : s.on F.TEN_HP_IDE_REQ = true) : s.hostIn fn false k = s.stick F.TEN_IDEDROP_IDEDROP := by
  simp [State.hostIn, hup, hfn, hreq]

/-! ### The checks of a write at its word (R6, R9, R150, R406) -/

theorem State.hostWrite_of_held {s : State} {fn off : Nat} (v : Nat) (h : s.regHeld fn off = true) : s.hostWrite fn off v = s := if_pos h

theorem State.hostWrite_of_addr {s : State} {fn off a : Nat} (v : Nat) (h : s.regHeld fn off = false) (ha : fnAddr fn off = some a) :
    s.hostWrite fn off v = s.regWrite fn a v := by
  simp [State.hostWrite, h, ha]

theorem State.hostWrite_of_noAddr {s : State} {fn off : Nat} (v : Nat) (h : s.regHeld fn off = false) (ha : fnAddr fn off = none) :
    s.hostWrite fn off v = s.stick F.GLB_ERR_ACCESS := by
  simp [State.hostWrite, h, ha]

theorem State.regWrite_of_unmapped {s : State} {a : Nat} (fn v : Nat) (h : s.word a = none) :
    s.regWrite fn a v = s.stick F.GLB_ERR_ACCESS := by
  simp [State.regWrite, h]

theorem State.regWrite_of_otherPage {s : State} {fn a : Nat} (v : Nat) (h : (s.word a).isSome = true) (ha : 0x1000000 ≤ a)
    (hpage : (a - 0x1000000) / 0x100000 ≠ fn) : s.regWrite fn a v = s.stick F.GLB_ERR_ACCESS := by
  simp [State.regWrite, Option.isSome_iff_ne_none.mp h, ha, Ne.symm hpage]

theorem State.regWrite_of_ctxBusy {s : State} {fn a : Nat} (v : Nat) (h : (s.word a).isSome = true) (ha : 0x1000000 ≤ a)
    (hpage : (a - 0x1000000) / 0x100000 = fn) (hbusy : s.ctxBusy fn = true) : s.regWrite fn a v = s := by
  simp [State.regWrite, Option.isSome_iff_ne_none.mp h, ha, hpage, hbusy]

/-- A mapped word that takes the writes of function `fn`: the lifecycle check is the last one. -/
theorem State.regWrite_of_taken {s : State} {fn a : Nat} (v : Nat) (h : (s.word a).isSome = true)
    (hpage : a < 0x1000000 ∨ ((a - 0x1000000) / 0x100000 = fn ∧ s.ctxBusy fn = false)) :
    s.regWrite fn a v = if s.rwlLocked a then s.stick F.GLB_ERR_LOCKED else s.regEffect a v := by
  obtain ha | ⟨rfl, hbusy⟩ := hpage
  · have hpage : ¬ 0x1000000 ≤ a := by omega
    simp [State.regWrite, Option.isSome_iff_ne_none.mp h, hpage]
  · simp [State.regWrite, Option.isSome_iff_ne_none.mp h, hbusy]

theorem State.regEffect_arb (s : State) {a : Nat} (v : Nat) (h : a / 0x40000 = 6) :
    s.regEffect a v = if fieldsInRange a v then (s.putWord a v).clearFlags a v else s.stick F.ARB_CFG_CFG := by
  have hpage : ¬ 0x1000000 ≤ a := by omega
  simp [State.regEffect, hpage, h, State.regPlain, State.regRefused, cfgFlag]

/-! ### A 64-bit write (R5, R48, R552) -/

theorem exec_registerWrite_wide {s : State} {fn : Tenant} {secure : Bool} (off : BitVec 25) (v h : Word)
    (hreach : s.hostReaches fn.val secure = true) : exec (.registerWrite fn off v (some h) false secure) s =
      .next (s.hostWriteWide fn.val (off.toNat / 8 * 8) v.toNat h.toNat) :=
  congrArg _ (State.hostIn_of_hostReaches _ hreach)

/-- Of two words that are no pair the lower one is written first. -/
theorem State.hostWriteWide_of_noPair {s : State} {fn off : Nat} (lo hi : Nat)
    (h : fnAddr fn off = none ∨ ∃ a, fnAddr fn off = some a ∧ pairAtOnce a = false) :
    s.hostWriteWide fn off lo hi = (s.hostWrite fn off lo).hostWrite fn (off + 4) hi := by
  obtain h | ⟨a, ha, hpair⟩ := h
  · simp [State.hostWriteWide, h]
  · simp [State.hostWriteWide, ha, hpair]

/-- CAD_EPOCH and CAD_SWITCH_TICK. -/
theorem State.hostWriteWide_cadence {s : State} {o : Nat} (lo hi : Nat) (ho : o = 0x240018 ∨ o = 0x240030) (h : s.regHeld 0 o = false) :
    s.hostWriteWide 0 o lo hi = s.cadDomainWide o lo hi := by
  obtain rfl | rfl := ho <;> simp [State.hostWriteWide, fnAddr, pairAtOnce, h, State.pairEffect]

theorem State.cadDomainWide_refused {s : State} {o : Nat} (lo hi : Nat)
    (h : s.on F.CAD_STATUS_MASTER = false ∨ (s.on F.CAD_CTRL_EN = true ∧ o = 0x240018)) :
    s.cadDomainWide o lo hi = (s.stick F.CAD_CFG_CFG).stick F.CAD_CFG_CFG := by
  refine if_pos ?_
  obtain h | ⟨hen, rfl⟩ := h
  · simp [State.isMaster, h]
  · simp [hen]

theorem State.cadDomainWide_taken {s : State} {o hi : Nat} (lo : Nat) (hhi : hi < 2 ^ 32) (hmaster : s.on F.CAD_STATUS_MASTER = true)
    (h : ¬(s.on F.CAD_CTRL_EN = true ∧ o = 0x240018)) :
    s.cadDomainWide o lo hi = ((s.wr o lo).wr (o + 4) (if o = 0x240030 then hi % 2 ^ 16 else hi)).configSend := by
  have hkept : (if o = 0x240030 then hi % 2 ^ 16 else hi) = hi % (if o == 0x240030 then 2 ^ 16 else 2 ^ 32) := by
    by_cases ho : o = 0x240030
    · simp [ho]
    · rw [if_neg ho, if_neg (by simpa using ho), Nat.mod_eq_of_lt hhi]
  rw [hkept]
  refine if_neg ?_
  simpa [State.isMaster, hmaster] using h

/-- Settles O6, by where the write ends: at the link, at the block, at its address, at its word or in its effect. -/
theorem registerWriteHasItsEffect : Obligations.RegisterWriteHasItsEffect := by
  unfold Obligations.RegisterWriteHasItsEffect
  intro s fn off v hi secure
  refine ⟨fun hup hfn hreq b => ?_, fun hreach => ?_, fun hreach hheld => ?_, fun hreach hheld => ⟨fun hno => ?_, fun a ha => ?_⟩,
    fun hreach h o hhi ho => ⟨fun hpair => ?_, fun hcad hfn hheld => ⟨fun hrefused => ?_, fun hmaster htaken => ?_⟩⟩⟩
  · exact congrArg _ (State.hostIn_of_insecure _ hup hfn hreq)
  · exact congrArg _ (State.hostIn_of_hostReaches _ hreach)
  · rw [exec_registerWrite_of_hostReaches off v hreach, State.hostWrite_of_held _ hheld]
  · rw [exec_registerWrite_of_hostReaches off v hreach, State.hostWrite_of_noAddr _ hheld hno]
  · rw [exec_registerWrite_of_hostReaches off v hreach, State.hostWrite_of_addr _ hheld ha]
    refine ⟨fun hunmapped => ?_, fun hword hpage hother => ?_, fun hword hpage hown hbusy => ?_, fun hword hopen => ?_⟩
    · rw [State.regWrite_of_unmapped _ _ hunmapped]
    · rw [State.regWrite_of_otherPage _ hword hpage hother]
    · rw [State.regWrite_of_ctxBusy _ hword hpage hown hbusy]
    · rw [State.regWrite_of_taken _ hword hopen]
      exact ⟨fun hlocked => by rw [if_pos hlocked], fun hfree => by simp [hfree],
        fun hfree harb => by simp [hfree, State.regEffect_arb _ _ harb]⟩
  · subst hhi ho
    have hoff : (BitVec.ofNat 25 (off.toNat / 8 * 8)).toNat / 4 * 4 = off.toNat / 8 * 8 := by
      have hlt := off.isLt
      rw [BitVec.toNat_ofNat]
      omega
    exact ⟨_, by rw [exec_registerWrite_of_hostReaches _ v hreach, hoff],
      by rw [exec_registerWrite_wide off v h hreach, State.hostWriteWide_of_noPair _ _ hpair]⟩
  all_goals
    subst hhi
    rw [hfn] at hreach
    rw [exec_registerWrite_wide off v h (hfn ▸ hreach), ← ho, hfn, State.hostWriteWide_cadence _ _ hcad hheld]
  · rw [State.cadDomainWide_refused _ _ hrefused]
  · rw [State.cadDomainWide_taken _ h.isLt hmaster htaken]

/-! ### A host's 32-bit read (R5, R6, R8, R11, R553) -/

theorem exec_rcRead_of_hostReaches {s : State} {fn : Tenant} {secure : Bool} (off : BitVec 25) (hreach : s.hostReaches fn.val secure = true) :
    exec (.rcRead fn off false secure) s = .next (s.hostRead fn.val (off.toNat / 4 * 4)) :=
  congrArg _ (State.hostIn_of_hostReaches _ hreach)

theorem State.hostRead_of_held {s : State} {fn off : Nat} (h : s.regHeld fn off = true) :
    s.hostRead fn off = s.out (.readData fn off 0) := if_pos h

theorem State.hostRead_of_addr {s : State} {fn off a : Nat} (h : s.regHeld fn off = false) (ha : fnAddr fn off = some a) :
    s.hostRead fn off = (s.csrRead fn a).2.out (.readData fn off (s.csrRead fn a).1) := by
  simp [State.hostRead, h, ha]

theorem State.hostRead_of_noAddr {s : State} {fn off : Nat} (h : s.regHeld fn off = false) (ha : fnAddr fn off = none) :
    s.hostRead fn off = (s.stick F.GLB_ERR_ACCESS).out (.readData fn off 0) := by
  simp [State.hostRead, h, ha]

/-- Function 0's BAR0 begins below the pages, so an address below them is PF0's own. -/
theorem eq_of_fnAddr_eq_some {fn off a : Nat} (h : fnAddr fn off = some a) (ha : a < 0x1000000) : fn = 0 ∧ off = a := by
  unfold fnAddr at h
  split at h
  · split at h
    · exact ⟨by assumption, Option.some.inj h⟩
    · exact absurd h (by simp)
  · split at h
    · have := Option.some.inj h
      omega
    · exact absurd h (by simp)

theorem State.csrRead_of_unmapped {s : State} {a : Nat} (fn : Nat) (h : s.word a = none) :
    s.csrRead fn a = (0, s.stick F.GLB_ERR_ACCESS) := by
  simp [State.csrRead, h]

theorem State.word_cadTimeLo (s : State) : s.word 0x240008 = some (s.cad.time % 2 ^ 32) := by
  have hmap : mapped 0x240008 = true := by decide
  have hwo : woMask 0x240008 = 0 := by decide
  have hmask : s.cad.time % 2 ^ 32 &&& (2 ^ 32 - 1) = s.cad.time % 2 ^ 32 := by
    rw [Nat.and_two_pow_sub_one_eq_mod, Nat.mod_mod]
  simpa [State.word, hmap, hwo, State.view] using hmask

theorem State.csrRead_cadTimeLo (s : State) (fn : Nat) : s.csrRead fn 0x240008 = (s.cad.time % 2 ^ 32,
    { s with cad := { s.cad with latches := kvIns fn (s.cad.time / 2 ^ 32 % 2 ^ 32) s.cad.latches } }) := by
  simp [State.csrRead, State.word_cadTimeLo]

theorem State.csrRead_cadTimeHi {s : State} {fn h : Nat} (hlatch : kvFind s.cad.latches fn = some h) : s.csrRead fn 0x24000C =
    (h, { s with cad := { s.cad with latches := kvDel s.cad.latches fn } }) := by
  have hmap : mapped 0x24000C = true := by decide
  simp [State.csrRead, State.word, hmap, State.view, State.timeHi, hlatch]

/-- A word of the trace window is mapped. -/
theorem mapped_trcWindow {a : Nat} (hlo : 0x481000 ≤ a) (hhi : a < 0x482000) (ha : a % 4 = 0) : mapped a = true := by
  have hrows : blockRows a = rowsTRC := by
    have hblock : a / 0x40000 = 18 := by omega
    have h1 : ¬ 0x2000000 ≤ a := by omega
    have h2 : ¬ 0x1000000 ≤ a := by omega
    simp [blockRows, h1, h2, hblock]
  have hrow : (⟨0x481000, [(1024, 0x4)], 0, 32, .ro, 0x0, 0, none⟩ : RegRow) ∈ rowsAt a := by
    refine List.mem_filter.mpr ⟨hrows ▸ by decide, ?_⟩
    have hindex : (a - 0x481000) / 4 < 1024 := by omega
    have hrest : a - 0x481000 - (a - 0x481000) / 4 * 4 = 0 := by omega
    simp [RegRow.indexAt, hlo, dimIndex, hindex, hrest]
  have hne : rowsAt a ≠ [] := List.ne_nil_of_mem hrow
  simpa [mapped] using hne

theorem State.csrRead_trcWindow {s : State} {a : Nat} (fn : Nat) (hlo : 0x481000 ≤ a) (hhi : a < 0x482000) (ha : a % 4 = 0)
    (h2 : s.get F.PWR_STATUS_STATE ≠ 2) (h3 : s.get F.PWR_STATUS_STATE ≠ 3) : s.csrRead fn a = s.windowRead a := by
  have hview : (s.view a).isSome = true := by
    unfold State.view
    rw [if_neg (by omega)]
    iterate 14 rw [if_neg (by omega)]
    rw [if_pos ⟨hlo, hhi⟩]
    split <;> rfl
  obtain ⟨v, hv⟩ := Option.isSome_iff_exists.mp hview
  have h4 : a ≠ 0x240008 := by omega
  have h5 : a ≠ 0x24000C := by omega
  simp [State.csrRead, State.word, mapped_trcWindow hlo hhi ha, hv, h4, h5, hlo, hhi, h2, h3]

/-- An ordinary word: what it shows, and the owner's read clears. -/
theorem State.csrRead_of_plain {s : State} {a v : Nat} (fn : Nat) (hv : s.word a = some v) (h4 : a ≠ 0x240008) (h5 : a ≠ 0x24000C)
    (hwin : ¬(0x481000 ≤ a ∧ a < 0x482000 ∧ s.get F.PWR_STATUS_STATE ≠ 2 ∧ s.get F.PWR_STATUS_STATE ≠ 3)) :
    s.csrRead fn a = (v, if fn = ownerOf a then s.readClear a else s) := by
  simp only [State.csrRead, hv, if_neg h4, if_neg h5, if_neg hwin]

/-! ### Read-clear fields and peaks (R8, R553) -/

theorem State.readClear_frame (s : State) (a : Nat) : (∀ b, b ≠ a → (s.readClear a).rd b = s.rd b) ∧
    s.readClear a = { s with regs := (s.readClear a).regs } := by
  unfold State.readClear
  split
  · next h => exact ⟨fun b hb => State.rd_set_other s F.CMQ_FWQ_PEAK _ b (fun e => hb (e.trans h.symm)), rfl⟩
  · split
    · next h => exact ⟨fun b hb => State.rd_set_other s F.PWR_TJ_PEAK _ b (fun e => hb (e.trans h.symm)), rfl⟩
    · exact ⟨fun b hb => State.rd_wr_other _ _ _ _ hb, rfl⟩

theorem State.rd_readClear_same {s : State} {a : Nat} (h1 : a ≠ 0x80004) (h2 : a ≠ 0x400024) :
    (s.readClear a).rd a = s.rd a &&& (0xFFFFFFFF - accMask (fun x => x == Access.rc) a) := by
  rw [State.readClear, if_neg h1, if_neg h2, State.rd_wr_same]
  exact Nat.mod_eq_of_lt (Nat.lt_of_le_of_lt Nat.and_le_left (s.rd_lt a))

theorem State.get_readClear_fwqPeak (s : State) :
    (s.readClear 0x80004).get F.CMQ_FWQ_PEAK = s.cf.length % 2 ^ F.CMQ_FWQ_PEAK.n :=
  State.get_set_same s F.CMQ_FWQ_PEAK _ (by unfold Fld.inWord; decide)

theorem State.get_readClear_tjPeak (s : State) : (s.readClear 0x400024).get F.PWR_TJ_PEAK = s.get F.PWR_TJ_NOW :=
  (State.get_set_same s F.PWR_TJ_PEAK _ (by unfold Fld.inWord; decide)).trans (Nat.mod_eq_of_lt (s.get_lt F.PWR_TJ_NOW))

/-! ### A 64-bit read and an access that R5 does not allow -/

theorem exec_rcRead_wide {s : State} {fn : Tenant} {secure : Bool} (off : BitVec 25) (hreach : s.hostReaches fn.val secure = true) :
    exec (.rcRead fn off true secure) s = .next (s.hostReadWide fn.val (off.toNat / 8 * 8)) :=
  congrArg _ (State.hostIn_of_hostReaches _ hreach)

theorem State.hostReadWide_cadTime {s : State} (h : s.regHeld 0 0x240008 = false) :
    s.hostReadWide 0 0x240008 = s.out (.readData 0 0x240008 (s.cad.time % 2 ^ 64)) := by
  simp [State.hostReadWide, fnAddr, h]

/-- What a narrow or misaligned access leaves. -/
theorem exec_invalidRegisterAccess_of_hostReaches {s : State} {fn : Tenant} {off : BitVec 25} {size : Fin 65} {secure : Bool} (v : DWord)
    (read : Bool) (hreach : s.hostReaches fn.val secure = true) (hbad : accessOk off.toNat size.val = false) :
    exec (.invalidRegisterAccess fn off size v read secure) s =
      .next (if read then (if s.regHeld fn.val off.toNat then s else s.stick F.GLB_ERR_ACCESS).out (.readData fn.val off.toNat 0)
        else if s.regHeld fn.val off.toNat then s else s.stick F.GLB_ERR_ACCESS) := by
  have h := State.hostIn_of_hostReaches (fun s : State =>
    if read then (if s.regHeld fn.val off.toNat then s else s.stick F.GLB_ERR_ACCESS).out (.readData fn.val off.toNat 0)
    else if s.regHeld fn.val off.toNat then s else s.stick F.GLB_ERR_ACCESS) hreach
  have hexec : exec (.invalidRegisterAccess fn off size v read secure) s = execInvalidRegisterAccess fn off size v read secure s := rfl
  rw [hexec, ← h]
  simp only [execInvalidRegisterAccess, hbad, Bool.false_eq_true, if_false]

theorem State.regHeld_cadTime {s : State} : s.regHeld 0 0x240008 = !s.blockOpen := by
  simp [State.regHeld, State.blockOpen, bne]

/-- Settles O7, by the word read: CAD_TIME and its latch, the trace window, an ordinary word, or none. -/
theorem readsAnswerAndInvalidAccessesSetAccess : Obligations.ReadsAnswerAndInvalidAccessesSetAccess := by
  unfold Obligations.ReadsAnswerAndInvalidAccessesSetAccess
  have htimeLo (s : State) (fn : Tenant) : exec (.cadTimeLoRead fn) s = execCadTimeLoRead fn s := rfl
  refine ⟨fun s fn off secure => ⟨fun hopen => ?_, fun hshut => ?_, fun hup hfn hreq wide => ?_, fun hreach hheld => ?_,
    fun hreach hheld hfn hoff => ?_, fun hreach hheld => ⟨fun hno => ?_, fun a ha => ?_⟩⟩,
    fun s fn off size v secure => ⟨fun hup hfn hreq b => ?_, fun hreach hbad hheld => ?_, fun hreach hbad hheld => ?_⟩⟩
  · rw [htimeLo]
    simp [execCadTimeLoRead, hopen, State.out]
  · rw [htimeLo]
    simp [execCadTimeLoRead, hshut]
  · exact congrArg _ (State.hostIn_of_insecure _ hup hfn hreq)
  · rw [exec_rcRead_of_hostReaches off hreach, State.hostRead_of_held hheld]
  · rw [exec_rcRead_wide off hreach, hoff, hfn, State.hostReadWide_cadTime (hfn ▸ hheld)]
  · rw [exec_rcRead_of_hostReaches off hreach, State.hostRead_of_noAddr hheld hno]
  · rw [exec_rcRead_of_hostReaches off hreach, State.hostRead_of_addr hheld ha]
    refine ⟨fun hunmapped => ?_, fun hlo => ?_, fun hhi h hlatch => ?_, fun h1 h2 h3 h4 => ?_, fun v hv hlo hhi hwin => ?_⟩
    · rw [State.csrRead_of_unmapped _ hunmapped]
    · subst hlo
      obtain ⟨hfn, hoff⟩ := eq_of_fnAddr_eq_some ha (by decide)
      have hopen : s.blockOpen = true := by
        rw [hfn, hoff, State.regHeld_cadTime] at hheld
        simpa using hheld
      rw [htimeLo, State.csrRead_cadTimeLo, hoff]
      simp [execCadTimeLoRead, hopen]
    · subst hhi
      obtain ⟨-, hoff⟩ := eq_of_fnAddr_eq_some ha (by decide)
      rw [State.csrRead_cadTimeHi hlatch, hoff]
      rfl
    · obtain ⟨-, hoff⟩ := eq_of_fnAddr_eq_some ha (by omega)
      rw [State.csrRead_trcWindow _ h1 h2 (by omega) h3 h4]
    · rw [State.csrRead_of_plain _ hv hlo hhi hwin]
      refine ⟨fun hother => by rw [if_neg hother]; rfl, fun hown => ?_⟩
      rw [if_pos hown]
      obtain ⟨hrd, hframe⟩ := s.readClear_frame a
      have houtbox : (s.readClear a).outbox = s.outbox := by rw [hframe]
      refine ⟨_, rfl, congrArg (· ++ _) houtbox, fun h1 h2 => State.rd_readClear_same h1 h2, ?_, ?_, hrd, ?_⟩
      · rintro rfl
        exact s.get_readClear_fwqPeak
      · rintro rfl
        exact s.get_readClear_tjPeak
      · rw [hframe]
        rfl
  · exact congrArg _ (State.hostIn_of_insecure _ hup hfn hreq)
  · simp [exec_invalidRegisterAccess_of_hostReaches v _ hreach hbad, hheld]
  · simp [exec_invalidRegisterAccess_of_hostReaches v _ hreach hbad, hheld]

end Sys2Proof.Machine
end

section
/-! Sticky flags (R20 to R22): an event, a clear, and a clear in whose cycle events fall. -/
namespace Sys2Proof.Machine

/-- Two choices are equal when their conditions are equivalent and their branches equal. -/
theorem ite_of_iff {α : Sort _} {c d : Prop} [Decidable c] [Decidable d] {x y u v : α} (h : c ↔ d) (hx : x = u) (hy : y = v) :
    (if c then x else y) = if d then u else v := ite_congr (propext h) (fun _ => hx) fun _ => hy

/-- What every element of a list keeps holds after a fold over the list. -/
theorem foldl_keeps {α β : Type} {P : β → Prop} {f : β → α → β} {l : List α} (hkeep : ∀ b, ∀ y ∈ l, P b → P (f b y)) {b : β} (h : P b) :
    P (l.foldl f b) := by
  induction l generalizing b with
  | nil => exact h
  | cons y l ih => exact ih (fun b z hz => hkeep b z (List.mem_cons_of_mem _ hz)) (hkeep b y (List.mem_cons_self ..) h)

/-- What one element of a list establishes, under an invariant of the fold, and every element keeps holds after the fold. -/
theorem foldl_establishes_under {α β : Type} {I P : β → Prop} {f : β → α → β} {l : List α} {x : α} (hx : x ∈ l) {b : β} (hb : I b)
    (hinv : ∀ b, ∀ y ∈ l, I b → I (f b y)) (hset : ∀ b, I b → P (f b x)) (hkeep : ∀ b, ∀ y ∈ l, I b → P b → P (f b y)) :
    P (l.foldl f b) := by
  obtain ⟨l₁, l₂, rfl⟩ := List.append_of_mem hx
  rw [List.foldl_append, List.foldl_cons]
  have h₁ : I (l₁.foldl f b) := foldl_keeps (fun b y hy => hinv b y (List.mem_append_left _ hy)) hb
  have hmem {y : α} (hy : y ∈ l₂) : y ∈ l₁ ++ x :: l₂ := List.mem_append_right _ (List.mem_cons_of_mem _ hy)
  exact (foldl_keeps (P := fun b => I b ∧ P b) (fun b y hy h => ⟨hinv b y (hmem hy) h.1, hkeep b y (hmem hy) h.1 h.2⟩)
    ⟨hinv _ x hx h₁, hset _ h₁⟩).2

/-- The same without an invariant. -/
theorem foldl_establishes {α β : Type} {P : β → Prop} {f : β → α → β} {l : List α} {x : α} (hx : x ∈ l)
    (hset : ∀ b, P (f b x)) (hkeep : ∀ b, ∀ y ∈ l, P b → P (f b y)) (b : β) : P (l.foldl f b) :=
  foldl_establishes_under (I := fun _ => True) hx trivial (fun _ _ _ _ => trivial) (fun b _ => hset b) (fun b y hy _ => hkeep b y hy)

/-! ### Bits of a word after its fields are put -/

/-- A bit of a word after a field of it is put. -/
theorem State.testBit_rd_set (s : State) (f : Fld) (v i : Nat) : ((s.set f v).rd f.addr).testBit i =
    (decide (i < 32) && if i < f.lo then (s.rd f.addr).testBit i else if i < f.lo + f.n then v.testBit (i - f.lo)
      else (s.rd f.addr).testBit i) := by
  rw [State.set, State.rd_wr_same, Nat.testBit_mod_two_pow, testBit_putBits]

/-- Putting zeros clears the bits of the field and sets no other bit. -/
theorem testBit_putBits_zero {w lo n i : Nat} (h : (lo ≤ i ∧ i < lo + n) ∨ w.testBit i = false) :
    (putBits w lo n 0).testBit i = false := by
  rw [testBit_putBits, Nat.zero_testBit]
  split
  · exact h.resolve_left (by omega)
  split
  · rfl
  · exact h.resolve_left (by omega)

theorem State.testBit_rd_set_zero {s : State} {f : Fld} {i : Nat} (h : (f.lo ≤ i ∧ i < f.lo + f.n) ∨ (s.rd f.addr).testBit i = false) :
    ((s.set f 0).rd f.addr).testBit i = false := by
  rw [State.set, State.rd_wr_same, Nat.testBit_mod_two_pow, testBit_putBits_zero h, Bool.and_false]

/-- A clear of a flag clears the flag and its count, and sets no bit of their word. -/
theorem State.testBit_rd_unstick {s : State} {f : Fld} {i : Nat}
    (h : (f.lo ≤ i ∧ i < f.lo + f.n) ∨ (f.lo + 8 ≤ i ∧ i < f.lo + 16) ∨ (s.rd f.addr).testBit i = false) :
    ((s.unstick f).rd f.addr).testBit i = false := by
  obtain hflag | hcnt | hclear := h
  · exact State.testBit_rd_set_zero (f := f.cnt) (.inr (State.testBit_rd_set_zero (.inl hflag)))
  · exact State.testBit_rd_set_zero (f := f.cnt) (.inl hcnt)
  · exact State.testBit_rd_set_zero (f := f.cnt) (.inr (State.testBit_rd_set_zero (.inr hclear)))

/-- A field of which no bit is set is zero. -/
theorem bitsOf_eq_zero {w lo n : Nat} (h : ∀ i, lo ≤ i → i < lo + n → w.testBit i = false) : bitsOf w lo n = 0 := by
  refine Nat.eq_of_testBit_eq fun i => ?_
  rw [testBit_bitsOf, Nat.zero_testBit]
  by_cases hi : i < n
  · rw [h (i + lo) (by omega) (by omega), Bool.and_false]
  · simp [hi]

/-! ### A clear (R21) -/

/-- A bit of a flag written with 1, or of its count, is clear after the write. -/
theorem State.testBit_rd_clearFlags {s : State} {a v i : Nat} {r : RegRow} (hr : r ∈ rowsAt a) (hacc : r.acc = Access.w1c)
    (hv : bit v r.lo = true) (hi : (r.lo ≤ i ∧ i < r.lo + 1) ∨ (r.lo + 8 ≤ i ∧ i < r.lo + 16)) :
    ((s.clearFlags a v).rd a).testBit i = false := by
  refine foldl_establishes (P := fun s : State => (s.rd a).testBit i = false) hr (fun s => ?_) (fun s y _ h => ?_) s
  · rw [if_pos (by simp [hacc, hv])]
    exact State.testBit_rd_unstick (f := ⟨a, r.lo, 1⟩) (hi.imp_right .inl)
  · split
    · exact State.testBit_rd_unstick (f := ⟨a, y.lo, 1⟩) (.inr (.inr h))
    · exact h

theorem State.get_clearFlags {s : State} {a v : Nat} {r : RegRow} (hr : r ∈ rowsAt a) (hacc : r.acc = Access.w1c)
    (hv : bit v r.lo = true) : (s.clearFlags a v).get ⟨a, r.lo, 1⟩ = 0 ∧ (s.clearFlags a v).get ⟨a, r.lo + 8, 8⟩ = 0 :=
  ⟨bitsOf_eq_zero fun _ h1 h2 => State.testBit_rd_clearFlags hr hacc hv (.inl ⟨h1, h2⟩),
    bitsOf_eq_zero fun _ h1 h2 => State.testBit_rd_clearFlags hr hacc hv (.inr ⟨h1, by omega⟩)⟩

/-! ### The status word of a counter -/

/-- The status word `st` of a counter after a write of `v`: the flags written with 1 and their counts are cleared. -/
def cntStCleared (v st : Nat) : Nat :=
  (List.range 3).foldl (fun st k => if bit v (24 + k) then putBits (putBit st (24 + k) false) (8 * k) 8 0 else st) st

theorem State.apCounterWrite_status {s : State} {t i n : Nat} (v : Nat) (hn : s.poolCnt t i = some n) (hi : i < 16384) :
    s.apCounterWrite t (0x40000 + 4 * i) v = s.setCntSt n (cntStCleared v (s.cntSt n)) := by
  have h1 : ¬ (0x40000 + 4 * i) / 65536 = 1 := by omega
  have h2 : ¬ (0x40000 + 4 * i) / 65536 = 2 := by omega
  have h3 : ¬ (0x40000 + 4 * i) / 65536 = 3 := by omega
  have hindex : (0x40000 + 4 * i) % 65536 / 4 = i := by omega
  simp only [State.apCounterWrite, if_neg h1, if_neg h2, if_neg h3, hindex, hn]
  rfl

theorem testBit_cntStCleared {v i k : Nat} (st : Nat) (hk : k < 3) (hv : bit v (24 + k) = true)
    (hi : (24 + k ≤ i ∧ i < 24 + k + 1) ∨ (8 * k ≤ i ∧ i < 8 * k + 8)) : (cntStCleared v st).testBit i = false := by
  refine foldl_establishes (P := fun st : Nat => st.testBit i = false) (List.mem_range.mpr hk) (fun st => ?_) (fun st y _ h => ?_) st
  · rw [if_pos hv]
    exact testBit_putBits_zero (hi.symm.imp_right fun h => testBit_putBits_zero (.inl h))
  · split
    · exact testBit_putBits_zero (.inr (testBit_putBits_zero (.inr h)))
    · exact h

/-! ### STICKY_FLAG_CLEAR of a block's flag -/

/-- The word holds a W1C flag. -/
theorem accMask_w1c_ne_zero {a : Nat} {r : RegRow} (hr : r ∈ rowsAt a) (hacc : r.acc = Access.w1c) (hn : r.n = 1) :
    accMask (fun x => x == Access.w1c) a ≠ 0 := by
  have hbit : (accMask (fun x => x == Access.w1c) a).testBit r.lo = true := by
    refine foldl_establishes (P := fun m : Nat => m.testBit r.lo = true) hr (fun m => ?_) (fun m y _ h => ?_) 0
    · simp [hacc, hn]
    · split
      · simp [h]
      · exact h
  intro hzero
  rw [hzero, Nat.zero_testBit] at hbit
  exact absurd hbit (by decide)

theorem exec_stickyFlagClear_pf0 {s : State} {off : BitVec 25} {secure : Bool} {a : Nat} (v : Word) (same : Nat)
    (hreach : s.hostReaches 0 secure = true) (hheld : s.regHeld 0 off.toNat = false) (haddr : fnAddr 0 (off.toNat / 4 * 4) = some a)
    (ha : a < 0x1000000) (hword : (s.word a).isSome = true) (hmask : accMask (fun x => x == Access.w1c) a ≠ 0) :
    exec (.stickyFlagClear 0 off v same secure) s = .next (s.flagsClear a v.toNat same) := by
  have hpage : ¬ 0x1000000 ≤ a := by omega
  have hexec : exec (.stickyFlagClear 0 off v same secure) s = execStickyFlagClear 0 off v same secure s := rfl
  rw [hexec, execStickyFlagClear, State.hostIn_of_hostReaches (fn := (0 : Tenant).val) _ hreach]
  simp [hheld, haddr, Option.isSome_iff_ne_none.mp hword, ownerOf, hpage, hmask]

theorem State.flagsClear_pf0 {s : State} {a : Nat} (v same : Nat) (ha : a < 0x1000000) (hword : (s.word a).isSome = true)
    (hlock : s.rwlLocked a = false) : s.flagsClear a v same = if same = 0 then s.regEffect a v else
      (rowsAt a).foldl (fun (s : State) (r : RegRow) => if r.acc == Access.w1c && bit v r.lo then
        ((s.set ⟨a, r.lo, 1⟩ 1).set (Fld.cnt ⟨a, r.lo, 1⟩) (min 255 same)) else s) (s.regEffect a v) := by
  have hpage : ¬ 0x1000000 ≤ a := by omega
  have howner : ownerOf a = 0 := by simp [ownerOf, hpage]
  simp [State.flagsClear, hpage, howner, State.regWrite_of_taken v hword (.inl ha), hlock]

/-- Settles O9. -/
theorem flagClearZeroesFlagAndCount : Obligations.FlagClearZeroesFlagAndCount := by
  unfold Obligations.FlagClearZeroesFlagAndCount
  refine ⟨fun s a v r => State.get_clearFlags, fun s t i v n k hk hn hi hv => ?_,
    fun s off v secure a hreach hheld haddr ha hword hmask hlock hplain hrange => ?_⟩
  · refine ⟨_, State.apCounterWrite_status v hn hi, ?_, ?_⟩
    · rw [bit, bitsOf_eq_zero fun i h1 h2 => testBit_cntStCleared _ hk hv (.inl ⟨h1, h2⟩)]
      rfl
    · exact bitsOf_eq_zero fun i h1 h2 => testBit_cntStCleared _ hk hv (.inr ⟨h1, h2⟩)
  · rw [exec_stickyFlagClear_pf0 v 0 hreach hheld haddr ha hword hmask, State.flagsClear_pf0 _ _ ha hword hlock, if_pos rfl, hplain,
      State.regPlain, if_pos hrange]

/-! ### Events in the cycle of a clear (R20, R22) -/

/-- An event of the flag at bit `lo`, and `c` as its count. -/
def State.flagSetTo (s : State) (a lo c : Nat) : State := (s.set ⟨a, lo, 1⟩ 1).set (Fld.cnt ⟨a, lo, 1⟩) c

theorem State.get_flagSetTo_same (s : State) {a lo c : Nat} (hlo : lo + 16 ≤ 32) (hc : c < 256) :
    (s.flagSetTo a lo c).get ⟨a, lo, 1⟩ = 1 ∧ (s.flagSetTo a lo c).get ⟨a, lo + 8, 8⟩ = c := by
  have hflag : Fld.inWord ⟨a, lo, 1⟩ := by simp only [Fld.inWord]; omega
  have hcnt : (Fld.cnt ⟨a, lo, 1⟩).inWord := by simp only [Fld.inWord, Fld.cnt]; omega
  refine ⟨?_, ?_⟩
  · rw [State.flagSetTo, State.get_set_other _ _ _ _ hcnt (by simp only [Fld.cnt]; omega), State.get_set_same _ _ _ hflag]
    rfl
  · exact (State.get_set_same _ _ _ hcnt).trans (Nat.mod_eq_of_lt hc)

/-- A flag and a count apart from it leave a field alone. -/
theorem State.get_flagSetTo_other (s : State) {a lo c : Nat} {g : Fld} (hlo : lo + 16 ≤ 32)
    (h : g.lo + g.n ≤ lo ∨ (lo + 1 ≤ g.lo ∧ g.lo + g.n ≤ lo + 8) ∨ lo + 16 ≤ g.lo) : (s.flagSetTo a lo c).get g = s.get g := by
  have hflag : Fld.inWord ⟨a, lo, 1⟩ := by simp only [Fld.inWord]; omega
  have hcnt : (Fld.cnt ⟨a, lo, 1⟩).inWord := by simp only [Fld.inWord, Fld.cnt]; omega
  rw [State.flagSetTo, State.get_set_other _ _ _ _ hcnt (.inr (by simp only [Fld.cnt]; omega)),
    State.get_set_other _ _ _ _ hflag (.inr (by simp only; omega))]

/-- An event is its flag set, and its count one more. -/
theorem State.stick_eq_flagSetTo (s : State) {f : Fld} (hn : f.n = 1) : s.stick f = s.flagSetTo f.addr f.lo (min 255 (s.get f.cnt + 1)) := by
  obtain ⟨a, lo, n⟩ := f
  subst hn
  rw [State.stick, satAdd_eq_min]
  rfl

/-- Settles O8: an event and a clear in whose cycle events fall set the flag the same way (`State.flagSetTo`). -/
theorem flagsCountAndSetsWinOverClears : Obligations.FlagsCountAndSetsWinOverClears := by
  unfold Obligations.FlagsCountAndSetsWinOverClears
  refine ⟨fun s f hn hlo => ?_, fun s off v secure a same r hreach hheld haddr ha hword hlock hsame hr hacc hrn hrlo hv hrows => ?_⟩
  · have hstick := s.stick_eq_flagSetTo hn
    have hsame := s.get_flagSetTo_same (a := f.addr) (c := min 255 (s.get f.cnt + 1)) hlo (by omega)
    rw [← hstick] at hsame
    refine ⟨by simpa [State.get, hn] using hsame.1, hsame.2, fun b hb => State.rd_stick_other s f b hb, fun g _ hg => ?_, rfl⟩
    rw [hstick]
    exact State.get_flagSetTo_other s hlo hg
  · refine ⟨_, exec_stickyFlagClear_pf0 v same hreach hheld haddr ha hword (accMask_w1c_ne_zero hr hacc hrn), ?_⟩
    rw [State.flagsClear_pf0 _ _ ha hword hlock, if_neg (by omega)]
    refine foldl_establishes (P := fun u : State => u.get ⟨a, r.lo, 1⟩ = 1 ∧ u.get ⟨a, r.lo + 8, 8⟩ = min 255 same) hr
      (fun u => ?_) (fun u y hy h => ?_) (s.regEffect a v.toNat)
    · rw [if_pos (by simp [hacc, hv])]
      exact u.get_flagSetTo_same hrlo (by omega)
    · split
      · next hset =>
        have hyacc : y.acc = Access.w1c := by
          rw [Bool.and_eq_true, beq_iff_eq] at hset
          exact hset.1
        obtain heq | ⟨hylo, hapart⟩ := hrows y hy hyacc
        · rw [heq]
          exact u.get_flagSetTo_same hrlo (by omega)
        · exact ⟨(u.get_flagSetTo_other hylo (by simp only; omega)).trans h.1, (u.get_flagSetTo_other hylo (by simp only; omega)).trans h.2⟩
      · exact h

end Sys2Proof.Machine
end

section
/-! Cadence and time control (R37 to R39, R48 to R51): CAD_CTRL's fields on the master and elsewhere. -/
namespace Sys2Proof.Machine

/-! ### Fields of a word of which another field is put -/

/-- The fields share no bit. -/
abbrev Fld.Apart (g f : Fld) : Prop := g.addr ≠ f.addr ∨ g.lo + g.n ≤ f.lo ∨ f.lo + f.n ≤ g.lo

theorem State.get_set_apart {s : State} {f g : Fld} {v : Nat} (hf : f.lo + f.n ≤ 32) (hapart : g.Apart f) : (s.set f v).get g = s.get g :=
  State.get_set_other s f g v hf hapart

theorem State.on_set_apart {s : State} {f g : Fld} {v : Nat} (hf : f.lo + f.n ≤ 32) (hapart : g.Apart f) : (s.set f v).on g = s.on g := by
  rw [State.on, State.on, State.get_set_apart hf hapart]

theorem State.on_set_one {s : State} {f : Fld} (hf : f.lo + f.n ≤ 32) (hn : f.n = 1) : (s.set f 1).on f = true := by
  rw [State.on, State.get_set_same s f 1 hf, hn]
  rfl

theorem State.on_set_zero {s : State} {f : Fld} (hf : f.lo + f.n ≤ 32) : (s.set f 0).on f = false := by
  rw [State.on, State.get_set_same s f 0 hf, Nat.zero_mod]
  rfl

theorem State.on_of_regs {s u : State} (h : u.regs = s.regs) (f : Fld) : u.on f = s.on f := by
  rw [State.on, State.on, State.get_of_regs h]

/-! ### Updates of registers alone -/

/-- `u` is `s` with other registers. -/
def State.RegsOnly (s u : State) : Prop := u = { s with regs := u.regs }

theorem State.RegsOnly.trans {s u w : State} (h : s.RegsOnly u) (h' : u.RegsOnly w) : s.RegsOnly w := by
  unfold State.RegsOnly at *
  rw [h] at h'
  exact h'

theorem State.wr_regsOnly (s : State) (a v : Nat) : s.RegsOnly (s.wr a v) := rfl

theorem State.set_regsOnly (s : State) (f : Fld) (v : Nat) : s.RegsOnly (s.set f v) := rfl

theorem State.stick_regsOnly (s : State) (f : Fld) : s.RegsOnly (s.stick f) := rfl

theorem State.setTick_regsOnly (s : State) (n : Nat) : s.RegsOnly (s.setTick n) :=
  (s.set_regsOnly _ _).trans (State.set_regsOnly _ _ _)

/-! ### The tick number (R49) -/

theorem State.tick_setTick (s : State) {n : Nat} (h : n < 2 ^ 48) : (s.setTick n).tick = n := by
  have hlo : (s.setTick n).get F.CAD_TICK_LO = n % 2 ^ 32 :=
    (State.get_set_apart (by decide) (by decide)).trans ((State.get_set_same _ _ _ (by unfold Fld.inWord; decide)).trans (Nat.mod_mod _ _))
  have hhi : (s.setTick n).get F.CAD_TICK_HI = n / 2 ^ 32 :=
    (State.get_set_same _ _ _ (by unfold Fld.inWord; decide)).trans (Nat.mod_eq_of_lt (by simp only [F.CAD_TICK_HI]; omega))
  rw [State.tick, hlo, hhi]
  omega

theorem State.get_setTick (s : State) (n : Nat) {g : Fld} (h1 : g.addr ≠ F.CAD_TICK_LO.addr) (h2 : g.addr ≠ F.CAD_TICK_HI.addr) :
    (s.setTick n).get g = s.get g :=
  (State.get_set_apart (by decide) (.inl h2)).trans (State.get_set_apart (by decide) (.inl h1))

theorem State.retick_of_stopped {s : State} (h : s.on F.CAD_CTRL_EN = false) : s.retick = s := by simp [State.retick, h]

theorem State.retick_of_running {s : State} (h : s.on F.CAD_CTRL_EN = true) : s.retick = s.setTick (s.tickAt s.cad.time) := if_pos h

/-- Without a pending switch the current tick is counted from the epoch. -/
theorem State.tickAt_of_noSwitch {s : State} {t : Nat} (hpending : s.on F.CAD_STATUS_SWITCH_PENDING = false) (hepoch : s.epoch ≤ t)
    (ht : t < 2 ^ 64) (hperiod : 0 < s.period) : s.tickAt t = (t - s.epoch) / s.period := by
  have hdiff : (t + 2 ^ 64 - s.epoch) % 2 ^ 64 = t - s.epoch := by omega
  have hmax : max 1 s.period = s.period := by omega
  simp only [State.tickAt, hpending, Bool.false_and, Bool.false_eq_true, if_false, hdiff, hmax]

/-! ### EN and SWITCH_ARM (R48 to R51) -/

theorem periodOk_iff {p : Nat} : periodOk p = true ↔ 100000 ≤ p ∧ p ≤ 1000000000 := by simp [periodOk]

theorem State.cadEnable_of_allowed {s : State} (hen : s.on F.CAD_CTRL_EN = false) (hmaster : s.on F.CAD_STATUS_MASTER = true)
    (hperiod : 100000 ≤ s.period ∧ s.period ≤ 1000000000) (hepoch : s.epoch ≤ s.cad.time) :
    s.cadEnable = ((s.set F.CAD_CTRL_EN 1).retick).configSend := by
  have hcond : (!s.isMaster || !(periodOk s.period) || decide (s.cad.time < s.epoch)) = false := by
    rw [State.isMaster, hmaster, periodOk_iff.mpr hperiod, decide_eq_false (Nat.not_lt.mpr hepoch)]
    rfl
  simp only [State.cadEnable, hen, hcond, Bool.false_eq_true, if_false]

theorem State.cadEnable_of_refused {s : State} (hen : s.on F.CAD_CTRL_EN = false)
    (h : s.on F.CAD_STATUS_MASTER = false ∨ s.period < 100000 ∨ 1000000000 < s.period ∨ s.cad.time < s.epoch) :
    s.cadEnable = s.stick F.CAD_CFG_CFG := by
  have hcond : (!s.isMaster || !(periodOk s.period) || decide (s.cad.time < s.epoch)) = true := by
    obtain h | h | h | h := h
    · simp [State.isMaster, h]
    · simp [periodOk, Nat.not_le.mpr h]
    · simp [periodOk, Nat.not_le.mpr h]
    · simp [h]
  simp only [State.cadEnable, hen, hcond, if_true, Bool.false_eq_true, if_false]

/-- The state that a permitted enable sends: EN is 1 and CAD_TICK is the current tick. -/
theorem State.retick_enabled (s : State) : (s.set F.CAD_CTRL_EN 1).retick = (s.set F.CAD_CTRL_EN 1).setTick ((s.set F.CAD_CTRL_EN 1).tickAt s.cad.time) :=
  State.retick_of_running (State.on_set_one (by decide) rfl)

/-- The conditions of R51 for an arm. -/
theorem State.switchArm_eq (s : State) : s.switchArm =
    if s.on F.CAD_STATUS_MASTER = true ∧ s.on F.CAD_CTRL_EN = true ∧ s.on F.CAD_STATUS_SWITCH_PENDING = false ∧
        100000 ≤ s.get F.CAD_NEXT_PERIOD ∧ s.get F.CAD_NEXT_PERIOD ≤ 1000000000 ∧ s.tick + s.get F.CAD_FIT_HORIZON < s.switchReg then
      ((({ s with cad := { s.cad with swTick := s.switchReg, swPeriod := s.get F.CAD_NEXT_PERIOD } } : State).set
        F.CAD_CTRL_SWITCH_ARM 1).set F.CAD_STATUS_SWITCH_PENDING 1).configSend
    else s.stick F.CAD_CFG_CFG := by
  unfold State.switchArm
  refine ite_of_iff ?_ rfl rfl
  simp [State.isMaster, periodOk, and_assoc]

/-! ### SET_TIME and ACCEPT_SRC (R37 to R39) -/

theorem State.setTime_of_allowed {s : State} (hmaster : s.on F.CAD_STATUS_MASTER = true) (hen : s.on F.CAD_CTRL_EN = false) :
    s.setTime = s.stepTime (s.get64 F.CAD_TIME_SET_LO) := by
  simp [State.setTime, State.isMaster, hmaster, hen]

theorem State.setTime_of_refused {s : State} (h : s.on F.CAD_STATUS_MASTER = false ∨ s.on F.CAD_CTRL_EN = true) :
    s.setTime = s.stick F.CAD_CFG_CFG := by
  obtain h | h := h <;> simp [State.setTime, State.isMaster, h]

/-- With the cadence stopped there is no tick to recount. -/
theorem State.stepTime_forward {s : State} {t : Nat} (hen : s.on F.CAD_CTRL_EN = false) (h : s.cad.time ≤ t) :
    s.stepTime t = State.set { s with cad := { s.cad with time := t, slew := 0, slewPart := 0, timeSet := true } } F.CAD_STATUS_SLEWING 0 := by
  rw [State.stepTime, if_pos h]
  refine State.retick_of_stopped ?_
  rw [State.on_set_apart (by decide) (by decide), ← hen]
  exact State.on_of_regs rfl _

theorem State.stepTime_back {s : State} {t : Nat} (h : t < s.cad.time) : s.stepTime t = State.set { s with cad := { s.cad with
    slew := (t : Int) - s.cad.time, slewPart := 0, timeSet := true } } F.CAD_STATUS_SLEWING 1 := by
  have hne : ((t : Int) - s.cad.time != 0) = true := by
    rw [bne_iff_ne]
    omega
  rw [State.stepTime, if_neg (by omega), State.slewTo, hne]
  rfl

theorem mem_pair {α : Type} {x a b : α} : x ∈ [a, b] ↔ x = a ∨ x = b := by
  rw [List.mem_cons, List.mem_singleton]

/-- Codes of Table 2.1: no source has code 0. -/
theorem State.code_ne_zero_of_mem_sources {s : State} {x : Nat × Int} (h : x ∈ s.sources) : x.1 ≠ 0 := by
  unfold State.sources at h
  dsimp only at h
  generalize hptp : ((List.range 2).filterMap fun p => match s.cad.ptp[p]? with
    | some x => if x.usable then some (x.dataset, (1 + p, x.offset)) else none
    | none => none) = ptp at h
  have hcodes : ∀ y ∈ ptp, y.2.1 ≠ 0 := by
    intro y hy
    rw [← hptp, List.mem_filterMap] at hy
    obtain ⟨p, -, hp⟩ := hy
    split at hp
    · split at hp
      · rw [← Option.some.inj hp]
        exact Nat.ne_of_gt (Nat.lt_add_right p Nat.one_pos)
      · exact absurd hp (by simp)
    · exact absurd hp (by simp)
  rcases List.mem_append.mp h with hbest | hpps
  · split at hbest
    · next a b =>
      have hab : x = a.2 ∨ x = b.2 := by
        split at hbest
        · exact (mem_pair.mp hbest).symm
        · exact mem_pair.mp hbest
      obtain rfl | rfl := hab
      · exact hcodes a (by simp)
      · exact hcodes b (by simp)
    · obtain ⟨y, hy, rfl⟩ := List.mem_map.mp hbest
      exact hcodes y hy
  · split at hpps
    · split at hpps
      · rw [List.mem_singleton.mp hpps]
        exact Nat.succ_ne_zero 2
      · exact absurd hpps List.not_mem_nil
    · exact absurd hpps List.not_mem_nil

/-- The acceptance is noted. -/
def State.noteAccept (s : State) : State := { s with cad := { s.cad with acceptSrc := true } }

theorem State.acceptSource_of_follower {s : State} (h : s.on F.CAD_STATUS_MASTER = false) : s.acceptSource = s.noteAccept := by
  have hmaster : s.noteAccept.isMaster = false := (State.on_of_regs rfl _).trans h
  show s.noteAccept.selectSource 0 = _
  simp [State.selectSource, hmaster]

theorem State.acceptSource_of_noSource {s : State} (h : s.on F.CAD_STATUS_MASTER = true) (hsources : s.sources = [])
    (hcur : ¬(1 ≤ s.get F.CAD_STATUS_SOURCE ∧ s.get F.CAD_STATUS_SOURCE ≤ 4)) : s.acceptSource = s.noteAccept := by
  have hmaster : s.noteAccept.isMaster = true := (State.on_of_regs rfl _).trans h
  have hsame : s.noteAccept.sources = [] := hsources
  have hcur' : ¬(1 ≤ s.noteAccept.get F.CAD_STATUS_SOURCE ∧ s.noteAccept.get F.CAD_STATUS_SOURCE ≤ 4) := hcur
  show s.noteAccept.selectSource 0 = _
  simp only [State.selectSource, hmaster, hsame]
  simpa using fun h1 h2 => absurd ⟨h1, h2⟩ hcur'

theorem State.acceptSource_of_source {s : State} {code : Nat} {off : Int} {rest : List (Nat × Int)}
    (h : s.on F.CAD_STATUS_MASTER = true) (hsources : s.sources = (code, off) :: rest) : s.acceptSource =
    if code = s.get F.CAD_STATUS_SOURCE then s.noteAccept else s.noteAccept.takeSource code off := by
  have hmaster : s.noteAccept.isMaster = true := (State.on_of_regs rfl _).trans h
  have hsame : s.noteAccept.sources = (code, off) :: rest := hsources
  have hcur : s.noteAccept.get F.CAD_STATUS_SOURCE = s.get F.CAD_STATUS_SOURCE := rfl
  have haccept : s.noteAccept.cad.acceptSrc = true := rfl
  have hcode : code ≠ 0 := State.code_ne_zero_of_mem_sources (s := s) (x := (code, off)) (by simp [hsources])
  show s.noteAccept.selectSource 0 = _
  simp only [State.selectSource, hmaster, hsame, hcur, haccept, Bool.not_true, Bool.and_false, Bool.false_eq_true, if_false, beq_iff_eq,
    if_neg hcode.symm]

/-- Settles O11, field by field of CAD_CTRL. -/
theorem cadenceAndTimeControlFollowTheirConditions : Obligations.CadenceAndTimeControlFollowTheirConditions := by
  unfold Obligations.CadenceAndTimeControlFollowTheirConditions
  have henable (s : State) : exec .cadenceEnable s = .next (if s.blockOpen then s.cadEnable else s) := rfl
  have hdisable (s : State) : exec .cadenceDisable s = .next (if s.blockOpen then s.cadDisable else s) := rfl
  have harm (s : State) : exec .switchArm s = .next (if s.blockOpen then s.switchArm else s) := rfl
  have htime (s : State) : exec .setTime s = .next (if s.blockOpen then s.setTime else s) := rfl
  have haccept (s : State) : exec .acceptSrc s = .next (if s.blockOpen then s.acceptSource else s) := rfl
  refine ⟨fun s hopen => ?_, fun s hopen => ?_, fun s hshut => ?_⟩
  · rw [henable, hdisable, harm, if_pos hopen, if_pos hopen, if_pos hopen]
    refine ⟨fun hen hmaster hlo hhi hepoch => ?_, fun hen hrefused => ?_, fun hen => ?_, fun hen hmaster => ?_, fun hen hmaster => ?_,
      fun hen => ?_, ?_⟩
    · refine ⟨_, congrArg _ (State.cadEnable_of_allowed hen hmaster ⟨hlo, hhi⟩ hepoch), ?_, ?_, fun hpending htime => ?_⟩
      · rw [State.retick_enabled, State.on, State.get_setTick _ _ (by decide) (by decide)]
        exact State.on_set_one (by decide) rfl
      · rw [State.retick_enabled]
        exact (s.set_regsOnly _ _).trans (State.setTick_regsOnly _ _)
      · have hp : (s.set F.CAD_CTRL_EN 1).on F.CAD_STATUS_SWITCH_PENDING = false := (State.on_set_apart (by decide) (by decide)).trans hpending
        have hperiod : (s.set F.CAD_CTRL_EN 1).period = s.period := State.get_set_apart (by decide) (by decide)
        have hep : (s.set F.CAD_CTRL_EN 1).epoch = s.epoch := by
          rw [State.epoch, State.epoch, State.get64, State.get64, State.rd_set_other _ _ _ _ (by decide), State.rd_set_other _ _ _ _ (by decide)]
        have htick : (s.set F.CAD_CTRL_EN 1).tickAt s.cad.time = (s.cad.time - s.epoch) / s.period := by
          rw [State.tickAt_of_noSwitch hp (hep ▸ hepoch) htime (by omega), hep, hperiod]
        have hlt : (s.cad.time - s.epoch) / s.period < 2 ^ 48 :=
          Nat.div_lt_of_lt_mul (by have := Nat.mul_le_mul_right (2 ^ 48) hlo; omega)
        rw [State.retick_enabled, htick, State.tick_setTick _ hlt]
    · rw [State.cadEnable_of_refused hen hrefused]
    · simp [State.cadEnable, hen]
    · simp [State.cadDisable, hen, State.isMaster, hmaster]
    · simp [State.cadDisable, hen, State.isMaster, hmaster]
    · simp [State.cadDisable, hen]
    · rintro p rfl
      rw [State.switchArm_eq]
      refine ⟨fun h => ?_, fun h => by rw [if_neg h]⟩
      rw [if_pos h]
      refine ⟨_, rfl, ?_, State.on_set_one (by decide) rfl, fun b h1 h2 => ?_, rfl⟩
      · rw [State.on_set_apart (by decide) (by decide)]
        exact State.on_set_one (by decide) rfl
      · rw [State.rd_set_other _ _ _ _ h2, State.rd_set_other _ _ _ _ h1]
        rfl
  · rw [htime, haccept, if_pos hopen, if_pos hopen]
    refine ⟨fun hmaster hen h => ?_, fun hmaster hen h => ?_, fun h => ?_, ?_⟩
    · rw [State.setTime_of_allowed hmaster hen, State.stepTime_forward hen h]
    · rw [State.setTime_of_allowed hmaster hen, State.stepTime_back h]
    · rw [State.setTime_of_refused h]
    · rintro a rfl
      refine ⟨fun h => congrArg _ (State.acceptSource_of_follower h), fun h h1 h2 => congrArg _ (State.acceptSource_of_noSource h h1 h2),
        fun code off rest h h1 => ?_⟩
      rw [State.acceptSource_of_source h h1]
      exact ⟨fun hne => by rw [if_neg hne]; rfl, fun heq => by rw [if_pos heq]; rfl⟩
  · rw [henable, hdisable, harm, htime, haccept]
    simp [hshut]

end Sys2Proof.Machine
end

section
/-! Rack time moving forward, the sources of time, holdover and the monotonic store (R36, R38, R40 to R42, R47, R67, R70). -/
namespace Sys2Proof.Machine

/-! ### Updates of registers and of rack time's unit alone -/

/-- `u` is `s` with other registers and another rack time unit. -/
def State.RegsCadOnly (s u : State) : Prop := u = { s with regs := u.regs, cad := u.cad }

theorem State.RegsCadOnly.trans {s u w : State} (h : s.RegsCadOnly u) (h' : u.RegsCadOnly w) : s.RegsCadOnly w := by
  unfold State.RegsCadOnly at *
  rw [h] at h'
  exact h'

theorem State.RegsOnly.regsCad {s u : State} (h : s.RegsOnly u) : s.RegsCadOnly u := by
  unfold State.RegsOnly at h
  unfold State.RegsCadOnly
  rw [h]

theorem State.RegsOnly.cad {s u : State} (h : s.RegsOnly u) : u.cad = s.cad := by rw [h]

theorem State.regsCadOnly_cad (s : State) (c : Cad) : s.RegsCadOnly { s with cad := c } := rfl

theorem State.RegsOnly.ite {s a b : State} {c : Prop} [Decidable c] (ha : s.RegsOnly a) (hb : s.RegsOnly b) :
    s.RegsOnly (if c then a else b) := by
  split <;> assumption

/-! ### Rack time moves forward (R36) -/

theorem State.holdRefresh_regsOnly (s : State) : s.RegsOnly s.holdRefresh :=
  State.RegsOnly.ite ((s.set_regsOnly _ _).trans (State.set_regsOnly _ _ _)) rfl

theorem State.get_holdRefresh (s : State) {g : Fld} (h1 : g.Apart F.CAD_STATUS_HOLD_IN_SPEC) (h2 : g.Apart F.CAD_HOLD_ERR) :
    s.holdRefresh.get g = s.get g := by
  unfold State.holdRefresh
  dsimp only
  split
  · rw [State.get_set_apart (by decide) h1, State.get_set_apart (by decide) h2]
  · rfl

theorem State.advance_regsCadOnly (s : State) (t : Nat) : s.RegsCadOnly (s.advance t) := by
  unfold State.advance
  split
  · rfl
  · exact ((s.regsCadOnly_cad _).trans (State.set_regsOnly _ _ _).regsCad).trans (State.holdRefresh_regsOnly _).regsCad

/-- Of rack time's unit only the time and the slew change. -/
theorem State.cad_advance (s : State) (t : Nat) : (s.advance t).cad =
    { s.cad with time := (s.advance t).cad.time, slew := (s.advance t).cad.slew, slewPart := (s.advance t).cad.slewPart } := by
  unfold State.advance
  split
  · rfl
  · simp only [(State.holdRefresh_regsOnly _).cad, State.set_cad]

theorem State.time_advance {s : State} {t : Nat} (h : s.cad.joinHold = false) : (s.advance t).cad.time = max s.cad.time t := by
  unfold State.advance
  split
  · next hstay =>
    simp only [h, Bool.false_or, decide_eq_true_eq] at hstay
    omega
  · next hgo =>
    simp only [h, Bool.false_or, decide_eq_true_eq] at hgo
    simp only [(State.holdRefresh_regsOnly _).cad, State.set_cad]
    omega

theorem State.get_advance (s : State) (t : Nat) {g : Fld} (h1 : g.Apart F.CAD_STATUS_SLEWING) (h2 : g.Apart F.CAD_STATUS_HOLD_IN_SPEC)
    (h3 : g.Apart F.CAD_HOLD_ERR) : (s.advance t).get g = s.get g := by
  unfold State.advance
  split
  · rfl
  · exact (State.get_holdRefresh _ h2 h3).trans (State.get_set_apart (by decide) h1)

theorem State.on_advance (s : State) (t : Nat) {g : Fld} (h1 : g.Apart F.CAD_STATUS_SLEWING) (h2 : g.Apart F.CAD_STATUS_HOLD_IN_SPEC)
    (h3 : g.Apart F.CAD_HOLD_ERR) : (s.advance t).on g = s.on g := by
  rw [State.on, State.on, s.get_advance t h1 h2 h3]

/-! ### The PTP state of a port -/

theorem State.ptpPort_advance (s : State) (t p : Nat) : (s.advance t).ptpPort p = s.ptpPort p := by
  unfold State.ptpPort
  rw [s.cad_advance t]

theorem State.ptpRole_advance (s : State) (t p : Nat) : (s.advance t).ptpRole p = s.ptpRole p := by
  unfold State.ptpRole
  split <;> exact s.get_advance t (by decide) (by decide) (by decide)

theorem State.ptpPort_setPtp_same (s : State) (p : EthPort) (x : PtpPort) : (s.setPtp p.val x).ptpPort p.val = x := by
  have hp : p.val < 2 := p.isLt
  simp [State.ptpPort, State.setPtp, List.getD, hp]

/-- The last of two settings of a port counts. -/
theorem State.setPtp_setPtp (s : State) (p : EthPort) (x y : PtpPort) : (s.setPtp p.val x).setPtp p.val y = s.setPtp p.val y := by
  have hports : ((List.range 2).map fun i => if i = p.val then y else (s.setPtp p.val x).ptpPort i) =
      (List.range 2).map fun i => if i = p.val then y else s.ptpPort i := by
    refine List.map_congr_left fun i hi => ?_
    have hi : i < 2 := List.mem_range.mp hi
    by_cases hip : i = p.val
    · simp [hip]
    · simp [hip, State.ptpPort, State.setPtp, List.getD, hi]
  unfold State.setPtp at *
  simp only [hports]

theorem State.ptpRole_of_receives {s : State} {p : Nat} (h : s.ptpReceives p = true) : s.ptpRole p = 1 ∨ s.ptpRole p = 3 := by
  simp only [State.ptpReceives, Bool.or_eq_true, Bool.and_eq_true, beq_iff_eq] at h
  exact h.imp id (·.1.1)

theorem State.ptpRole_of_transmits {s : State} {p : Nat} (h : s.ptpTransmits p = true) : s.ptpRole p = 2 ∨ s.ptpRole p = 3 := by
  simp only [State.ptpTransmits, Bool.or_eq_true, Bool.and_eq_true, beq_iff_eq] at h
  exact h.imp id (·.1)

/-! ### Messages that arrive (R41, R42) -/

theorem exec_ptpMessage (s : State) (p : EthPort) (m : PtpMsg) : exec (.ptpMessage p m) s = .next (s.ptpIn p.val m) := rfl

theorem exec_ptpMessage_of_roleless {s : State} {p : EthPort} {m : PtpMsg} (h : s.ptpRole p.val = 0) :
    exec (.ptpMessage p m) s = .next (s.advance m.rx) := by
  simp [exec_ptpMessage, State.ptpIn, State.ptpRole_advance, h]

theorem exec_ptpMessage_announce {s : State} {p : EthPort} {m : PtpMsg} (hkind : m.kind = 0x0B)
    (hrole : s.ptpRole p.val = 1 ∨ s.ptpRole p.val = 3)
    (h : (s.ptpPort p.val).dataset = [] ∨ lexLt m.dataset (s.ptpPort p.val).dataset = true ∨
      (s.ptpPort p.val).dataset.getD 5 0 = m.dataset.getD 5 0) :
    exec (.ptpMessage p m) s = .next ((s.advance m.rx).setPtp p.val { s.ptpPort p.val with dataset := m.dataset }) := by
  have h0 : s.ptpRole p.val ≠ 0 := by omega
  have h2 : s.ptpRole p.val ≠ 2 := by omega
  have hkeep : ((s.ptpPort p.val).dataset.isEmpty || lexLt m.dataset (s.ptpPort p.val).dataset ||
      (s.ptpPort p.val).dataset.getD 5 0 == m.dataset.getD 5 0) = true := by
    rw [Bool.or_eq_true, Bool.or_eq_true, List.isEmpty_iff, beq_iff_eq, or_assoc]
    exact h
  simp only [exec_ptpMessage, State.ptpIn, State.ptpRole_advance, if_neg h0, hkind, State.ptpPort_advance, hkeep, Bool.and_true]
  exact congrArg _ (if_pos (by simp [h2]))

/-- A Sync on a port that receives: its two times, and where it is complete the offset over the link. -/
theorem exec_ptpMessage_sync {s : State} {p : EthPort} {m : PtpMsg} (hkind : m.kind = 0x00) (h : (s.advance m.rx).ptpReceives p.val = true) :
    exec (.ptpMessage p m) s = .next (if m.twoStep then (s.advance m.rx).setPtp p.val { s.ptpPort p.val with t1 := m.origin, t2 := m.rx }
      else ((s.advance m.rx).setPtp p.val { s.ptpPort p.val with t1 := m.origin, t2 := m.rx }).ptpByLink p.val) := by
  have h0 : s.ptpRole p.val ≠ 0 := by
    have := State.ptpRole_of_receives h
    rw [State.ptpRole_advance] at this
    omega
  simp only [exec_ptpMessage, State.ptpIn, State.ptpRole_advance, if_neg h0, hkind, State.ptpPort_advance, h, Bool.not_true, Bool.false_eq_true, if_false]

theorem exec_ptpMessage_delayResp {s : State} {p : EthPort} {m : PtpMsg} (hkind : m.kind = 0x09)
    (h : (s.advance m.rx).ptpReceives p.val = true) (x : PtpPort) (hx : x = s.ptpPort p.val) :
    exec (.ptpMessage p m) s = .next (if s.on F.CAD_CTRL_PROFILE then s.advance m.rx else
      ((s.advance m.rx).setPtp p.val { x with
        t4 := m.origin, usable := !x.dataset.isEmpty && x.t3 != 0 && x.t2 != 0
        offset := (((x.t1 : Int) - x.t2) + ((m.origin : Int) - x.t3)) / 2 }).selectSource (1 + p.val)) := by
  subst hx
  have h0 : s.ptpRole p.val ≠ 0 := by
    have := State.ptpRole_of_receives h
    rw [State.ptpRole_advance] at this
    omega
  have hprofile : (s.advance m.rx).on F.CAD_CTRL_PROFILE = s.on F.CAD_CTRL_PROFILE := s.on_advance _ (by decide) (by decide) (by decide)
  simp only [exec_ptpMessage, State.ptpIn, State.ptpRole_advance, if_neg h0, hkind, State.ptpPort_advance, h, Bool.not_true, Bool.false_or, hprofile]

theorem exec_ptpMessage_delayReq {s : State} {p : EthPort} {m : PtpMsg} (hkind : m.kind = 0x01)
    (h : (s.advance m.rx).ptpTransmits p.val = true) (hprofile : s.on F.CAD_CTRL_PROFILE = false) :
    exec (.ptpMessage p m) s = .next ((s.advance m.rx).out (.ptp p.val 0x09 0 m.rx)) := by
  have h0 : s.ptpRole p.val ≠ 0 := by
    have := State.ptpRole_of_transmits h
    rw [State.ptpRole_advance] at this
    omega
  have hprofile' : (s.advance m.rx).on F.CAD_CTRL_PROFILE = false := (s.on_advance _ (by decide) (by decide) (by decide)).trans hprofile
  simp [exec_ptpMessage, State.ptpIn, State.ptpRole_advance, h0, hkind, h, hprofile']

theorem exec_ptpMessage_pdelayReq {s : State} {p : EthPort} {m : PtpMsg} (hkind : m.kind = 0x02) (h : s.ptpRole p.val ≠ 0) :
    exec (.ptpMessage p m) s =
      .next (((s.advance m.rx).out (.ptp p.val 0x03 0 m.rx)).out (.ptp p.val 0x0A 0 (s.advance m.rx).cad.time)) := by
  simp [exec_ptpMessage, State.ptpIn, State.ptpRole_advance, h, hkind]

/-! ### A source that is lost, and a receiver's transmit interval (R38, R42) -/

theorem exec_ptpSourceLost (s : State) (p : EthPort) : exec (.ptpSourceLost p) s =
    if s.on F.CAD_STATUS_MASTER = true ∧ s.get F.CAD_STATUS_SOURCE = 1 + p.val then
      .next (((s.setPtp p.val { s.ptpPort p.val with usable := false, dataset := [] }).stickIrq F.CAD_SRC_SRC 15).selectSource 0)
    else .next (s.setPtp p.val { s.ptpPort p.val with usable := false, dataset := [] }) := by
  have hexec : exec (.ptpSourceLost p) s = execPtpSourceLost p s := rfl
  rw [hexec, execPtpSourceLost]
  refine ite_of_iff ?_ rfl rfl
  rw [Bool.and_eq_true, beq_iff_eq]
  exact Iff.rfl

theorem exec_ptpTransmitInterval_of_receives {s : State} {p : EthPort} (h : s.ptpTransmits p.val = false) (h' : s.ptpReceives p.val = true)
    (twoStep peer : Bool) : exec (.ptpTransmitInterval p twoStep peer) s =
      .next (if peer || s.on F.CAD_CTRL_PROFILE then
          (s.setPtp p.val { s.ptpPort p.val with p1 := s.cad.time }).out (.ptp p.val 0x02 0 s.cad.time)
        else (s.setPtp p.val { s.ptpPort p.val with t3 := s.cad.time }).out (.ptp p.val 0x01 0 s.cad.time)) := by
  have hexec : exec (.ptpTransmitInterval p twoStep peer) s = execPtpTransmitInterval p twoStep peer s := rfl
  rw [hexec]
  simp only [execPtpTransmitInterval, h, h', Bool.false_eq_true, if_false, if_true]

/-! ### Holdover and the monotonic store (R40, R67, R70) -/

/-- The temperature of the time base is read. -/
def State.readTemp (s : State) (temp : Int) : State := { s with cad := { s.cad with temp := temp } }

/-- Offset and temperature are recorded, and a second of lock is counted. -/
def State.recordLock (s : State) (freq temp : Int) : State :=
  { s with cad := { s.cad with temp := temp, model := s.cad.model ++ [(freq, temp)], lockSeconds := s.cad.lockSeconds + 1 } }

theorem exec_holdoverRecord (s : State) (freq temp : Int) : exec (.holdoverRecord freq temp) s =
    .next (if s.get F.CAD_STATUS_SOURCE = 1 ∨ s.get F.CAD_STATUS_SOURCE = 2 ∨ s.get F.CAD_STATUS_SOURCE = 3 then
        ((s.recordLock freq temp).set F.CAD_HOLD_LEARN_HOURS (min 0xFFFF ((s.cad.lockSeconds + 1) / 3600))).set F.CAD_RATE_ADJ
          (unsigned 32 (-freq))
      else if s.get F.CAD_STATUS_SOURCE = 5 then (s.readTemp temp).holdRate.holdRefresh
      else s.readTemp temp) := rfl

theorem unsigned_lt (n : Nat) (v : Int) : unsigned n v < 2 ^ n := by
  have hpos : (0 : Int) < ((2 ^ n : Nat) : Int) := by exact_mod_cast Nat.two_pow_pos n
  have h1 := Int.emod_nonneg v (Int.ne_of_gt hpos)
  have h2 := Int.emod_lt_of_pos v hpos
  unfold unsigned
  omega

theorem exec_rackTimeStore {s : State} (h : s.cad.joinHold = false) (a : State)
    (ha : a = s.advance ((s.cad.time / 900000000000 + 1) * 900000000000)) : exec .rackTimeStore s =
      .next (State.bump { a with cad := { a.cad with stored := max a.cad.stored a.cad.time } } F.CAD_OFFLINE 1) := by
  subst ha
  have hexec : exec .rackTimeStore s = execRackTimeStore s := rfl
  rw [hexec, execRackTimeStore, h]
  rfl

/-- Settles O14, message kind by message kind; a time stamp message of a receiver ends in source selection. -/
theorem timeSourcesAndStoresAreKept : Obligations.TimeSourcesAndStoresAreKept := by
  unfold Obligations.TimeSourcesAndStoresAreKept
  refine ⟨?_, fun s freq temp => ⟨fun hlo hhi => ?_, fun hsrc => ?_, fun hsrc => ?_, fun hjoin => ?_, fun hjoin => ?_, rfl⟩⟩
  · rintro s p m a rfl
    refine ⟨exec_ptpMessage_of_roleless, exec_ptpMessage_announce, fun hreceives => ⟨fun hkind h => ?_, fun d hkind hone hlink => ?_,
      fun hkind hprofile => ?_, fun hkind hprofile => ?_⟩, fun h1 h2 h3 => exec_ptpMessage_delayReq h3 h1 h2,
      fun h1 h2 => exec_ptpMessage_pdelayReq h2 h1, fun h1 h2 => ?_, fun h => ?_, fun twoStep peer h1 h2 => ⟨fun hpeer hprofile => ?_, fun h => ?_⟩⟩
    · rw [exec_ptpMessage_sync hkind hreceives]
      obtain htwo | hlink := h
      · rw [if_pos htwo]
      · simp [State.ptpByLink, State.ptpPort_setPtp_same, hlink]
    · rw [exec_ptpMessage_sync hkind hreceives]
      refine ⟨{ s.ptpPort p.val with
        t1 := m.origin, t2 := m.rx, offset := (m.origin : Int) + d - m.rx, usable := !(s.ptpPort p.val).dataset.isEmpty }, rfl, rfl, rfl, ?_⟩
      simp [State.ptpByLink, State.ptpPort_setPtp_same, State.setPtp_setPtp, hlink, hone]
    · rw [exec_ptpMessage_delayResp hkind hreceives _ rfl, hprofile]
      exact ⟨_, rfl, rfl, rfl⟩
    · rw [exec_ptpMessage_delayResp hkind hreceives _ rfl, hprofile]
      rfl
    · rw [exec_ptpSourceLost, if_pos ⟨h1, h2⟩]
    · rw [exec_ptpSourceLost, if_neg]
      rintro ⟨h1, h2⟩
      simp [h1, h2] at h
    · rw [exec_ptpTransmitInterval_of_receives h1 h2, hpeer, hprofile]
      rfl
    · have hask : (peer || s.on F.CAD_CTRL_PROFILE) = true := by rwa [Bool.or_eq_true]
      rw [exec_ptpTransmitInterval_of_receives h1 h2, hask]
      rfl
  · rw [exec_holdoverRecord, if_pos (by omega)]
    refine ⟨_, rfl, by rw [State.set_cad, State.set_cad]; rfl, ?_, ?_, fun b h1 h2 => ?_,
      (s.regsCadOnly_cad _).trans ((State.set_regsOnly _ _ _).trans (State.set_regsOnly _ _ _)).regsCad⟩
    · rw [State.get_set_apart (by decide) (by decide), State.get_set_same _ _ _ (by unfold Fld.inWord; decide)]
      exact Nat.mod_eq_of_lt (by simp only [F.CAD_HOLD_LEARN_HOURS]; omega)
    · rw [State.get_set_same _ _ _ (by unfold Fld.inWord; decide)]
      exact Nat.mod_eq_of_lt (unsigned_lt _ _)
    · rw [State.rd_set_other _ _ _ _ h2, State.rd_set_other _ _ _ _ h1]
      rfl
  · rw [exec_holdoverRecord, if_neg (by omega), if_pos hsrc]
    rfl
  · rw [exec_holdoverRecord, if_neg (by omega), if_neg (by omega)]
    rfl
  · rw [exec_rackTimeStore hjoin _ rfl]
    have hstored (t : Nat) : (s.advance t).cad.stored = s.cad.stored := by rw [s.cad_advance t]
    refine ⟨_, rfl, ?_, ?_, ?_, ?_⟩
    · rw [State.bump_cad]
      exact (State.time_advance hjoin).trans (by omega)
    · rw [State.bump_cad]
      exact congrArg (max · _) (hstored _)
    · rw [State.get_bump_same _ _ _ (by unfold Fld.inWord; decide)]
      exact congrArg (fun n => min (2 ^ 32 - 1) (n + 1)) (s.get_advance _ (by decide) (by decide) (by decide))
    · exact ((s.advance_regsCadOnly _).trans (State.regsCadOnly_cad _ _)).trans (State.set_regsOnly _ _ _).regsCad
  · have hexec : exec .rackTimeStore s = execRackTimeStore s := rfl
    rw [hexec, execRackTimeStore, hjoin]
    rfl

end Sys2Proof.Machine
end

section
/-! Tick edges and pulses (R12, R36, R38, R49, R51 to R53, R465). -/
namespace Sys2Proof.Machine

/-! ### What VC3 messages leave -/

/-- `u` is `s` with other links and outputs. -/
def State.LinksOnly (s u : State) : Prop := u = { s with rein := u.rein, outbox := u.outbox }

theorem State.LinksOnly.trans {s u w : State} (h : s.LinksOnly u) (h' : u.LinksOnly w) : s.LinksOnly w := by
  unfold State.LinksOnly at *
  rw [h] at h'
  exact h'

theorem State.LinksOnly.ite {s a b : State} {c : Prop} [Decidable c] (ha : s.LinksOnly a) (hb : s.LinksOnly b) :
    s.LinksOnly (if c then a else b) := by
  split <;> assumption

theorem State.LinksOnly.foldl {α : Type} {f : State → α → State} {l : List α} (s : State) (hf : ∀ (x : State) (a : α), x.LinksOnly (f x a)) :
    s.LinksOnly (l.foldl f s) := by
  induction l generalizing s with
  | nil => exact rfl
  | cons a l ih => exact (hf s a).trans (ih _)

theorem State.LinksOnly.regs {s u : State} (h : s.LinksOnly u) : u.regs = s.regs := by rw [h]

theorem State.LinksOnly.cad {s u : State} (h : s.LinksOnly u) : u.cad = s.cad := by rw [h]

theorem State.setPort_linksOnly (s : State) (n : Nat) (p : PortSt) : s.LinksOnly (s.setPort n p) := rfl

theorem State.out_linksOnly (s : State) (o : Output) : s.LinksOnly (s.out o) := rfl

theorem State.sendFlit_linksOnly (s : State) (n : Nat) (f : Flit) : s.LinksOnly (s.sendFlit n f) :=
  ((s.setPort_linksOnly _ _).trans (State.out_linksOnly _ _)).trans (State.setPort_linksOnly _ _ _)

theorem State.pumpN_linksOnly (k : Nat) (s : State) (n : Nat) : s.LinksOnly (State.pumpN k s n) := by
  induction k generalizing s with
  | zero => exact rfl
  | succ k ih =>
    unfold State.pumpN
    refine State.LinksOnly.ite rfl ?_
    cases (s.port n).nextFlit with
    | none => exact rfl
    | some f => exact ((s.setPort_linksOnly _ _).trans (State.sendFlit_linksOnly _ _ _)).trans (ih _)

theorem State.enqueue_linksOnly (s : State) (n : Nat) (fs : List Flit) : s.LinksOnly (s.enqueue n fs) :=
  (s.setPort_linksOnly _ _).trans (State.LinksOnly.ite (State.pumpN_linksOnly _ _ _) rfl)

theorem State.sendVc3_linksOnly (s : State) (n : Nat) (m : Msg) : s.LinksOnly (s.sendVc3 n m) :=
  State.LinksOnly.ite ((s.out_linksOnly _).trans (State.enqueue_linksOnly _ _ _)) rfl

theorem State.configSend_linksOnly (s : State) : s.LinksOnly s.configSend :=
  State.LinksOnly.trans (u := { s with rein := { s.rein with gen := s.rein.gen + 1 } }) rfl
    (State.LinksOnly.foldl _ fun x n => x.sendVc3_linksOnly n _)

/-! ### What a period switch and an arm may change -/

/-- `u` is `s` with other links, outputs and cadence, at the same rack time, and with registers of `l` changed alone. -/
structure State.CadenceStep (l : List Nat) (s u : State) : Prop where
  frame : u = { s with regs := u.regs, cad := u.cad, rein := u.rein, outbox := u.outbox }
  time : u.cad.time = s.cad.time
  rd : ∀ a, a ∉ l → u.rd a = s.rd a

variable {l : List Nat}

theorem State.CadenceStep.refl (s : State) : State.CadenceStep l s s := ⟨rfl, rfl, fun _ _ => rfl⟩

theorem State.CadenceStep.trans {s u w : State} (h : State.CadenceStep l s u) (h' : State.CadenceStep l u w) : State.CadenceStep l s w := by
  refine ⟨?_, h'.time.trans h.time, fun a ha => (h'.rd a ha).trans (h.rd a ha)⟩
  have hw := h'.frame
  rw [h.frame] at hw
  exact hw

theorem State.CadenceStep.ite {s a b : State} {c : Prop} [Decidable c] (ha : State.CadenceStep l s a) (hb : State.CadenceStep l s b) :
    State.CadenceStep l s (if c then a else b) := by
  split <;> assumption

theorem State.CadenceStep.set (s : State) (f : Fld) (v : Nat) (h : f.addr ∈ l) : State.CadenceStep l s (s.set f v) :=
  ⟨rfl, rfl, fun _ ha => State.rd_set_other s f v _ (ne_of_mem_of_not_mem h ha).symm⟩

theorem State.CadenceStep.set64 (s : State) (f : Fld) (v : Nat) (h : f.addr ∈ l) (h4 : f.addr + 4 ∈ l) :
    State.CadenceStep l s (s.set64 f v) :=
  ⟨rfl, rfl, fun _ ha => (State.rd_wr_other _ _ _ _ (ne_of_mem_of_not_mem h4 ha).symm).trans
    (State.rd_wr_other _ _ _ _ (ne_of_mem_of_not_mem h ha).symm)⟩

theorem State.CadenceStep.stick (s : State) (f : Fld) (h : f.addr ∈ l) : State.CadenceStep l s (s.stick f) :=
  ⟨rfl, rfl, fun _ ha => State.rd_stick_other s f _ (ne_of_mem_of_not_mem h ha).symm⟩

theorem State.LinksOnly.cadenceStep {s u : State} (h : s.LinksOnly u) : State.CadenceStep l s u := by
  refine ⟨?_, by rw [h], fun a _ => by rw [State.rd, State.rd, h.regs]⟩
  unfold State.LinksOnly at h
  rw [h]

theorem State.CadenceStep.get {s u : State} (h : State.CadenceStep l s u) {g : Fld} (hg : g.addr ∉ l) : u.get g = s.get g := by
  rw [State.get, State.get, h.rd _ hg]

theorem State.CadenceStep.on {s u : State} (h : State.CadenceStep l s u) {g : Fld} (hg : g.addr ∉ l) : u.on g = s.on g := by
  rw [State.on, State.on, h.get hg]

/-- CAD_CTRL, CAD_STATUS and the CFG flag. -/
def armRegs : List Nat := [0x240000, 0x240004, 0x240084]

/-- Those, CAD_EPOCH and CAD_PERIOD. -/
def switchRegs : List Nat := armRegs ++ [0x240018, 0x24001C, 0x240020]

theorem State.armAgain_cadenceStep (s : State) : State.CadenceStep armRegs s s.armAgain := by
  refine State.CadenceStep.trans ?_ (State.CadenceStep.set _ F.CAD_CTRL_SWITCH_ARM _ (by decide))
  have hswap (c : Cad) (hc : c.time = s.cad.time) : State.CadenceStep armRegs s { s with cad := c } := ⟨rfl, hc, fun _ _ => rfl⟩
  refine State.CadenceStep.ite ?_ (State.CadenceStep.stick _ F.CAD_CFG_CFG (by decide))
  refine State.CadenceStep.trans ?_ (State.configSend_linksOnly _).cadenceStep
  exact ((hswap { s.cad with swTick := s.switchReg, swPeriod := s.get F.CAD_NEXT_PERIOD } rfl).trans (State.CadenceStep.set (l := armRegs) _ F.CAD_CTRL_SWITCH_ARM _ (by decide))).trans
    (State.CadenceStep.set (l := armRegs) _ F.CAD_STATUS_SWITCH_PENDING _ (by decide))

/-- The registers of a switch that applies at rack time `edge`, before its CONFIG leaves. -/
def State.switchApplied (s : State) (edge : Nat) : State :=
  (((s.set F.CAD_PERIOD s.cad.swPeriod).set64 F.CAD_EPOCH_LO
    ((edge + 2 ^ 64 * (s.tick + 1) - s.tick * s.cad.swPeriod) % 2 ^ 64)).set F.CAD_CTRL_SWITCH_ARM 0).set F.CAD_STATUS_SWITCH_PENDING 0

theorem State.switchApplied_cadenceStep (s : State) (edge : Nat) : State.CadenceStep switchRegs s (s.switchApplied edge) :=
  (((State.CadenceStep.set _ F.CAD_PERIOD _ (by decide)).trans (State.CadenceStep.set64 _ F.CAD_EPOCH_LO _ (by decide) (by decide))).trans
    (State.CadenceStep.set _ F.CAD_CTRL_SWITCH_ARM _ (by decide))).trans (State.CadenceStep.set _ F.CAD_STATUS_SWITCH_PENDING _ (by decide))

theorem State.applySwitch_of_none {s : State} (edge : Nat)
    (h : s.on F.CAD_STATUS_SWITCH_PENDING = false ∨ s.tick ≠ s.cad.swTick) : s.applySwitch edge = s := by
  obtain h | h := h <;> simp [State.applySwitch, h]

theorem State.tick_set_epoch (s : State) (v : Nat) : (s.set F.CAD_PERIOD v).tick = s.tick := by
  rw [State.tick, State.tick, State.get_set_apart (by decide) (by decide), State.get_set_apart (by decide) (by decide)]

theorem State.applySwitch_of_switch {s : State} (edge : Nat) (hpending : s.on F.CAD_STATUS_SWITCH_PENDING = true)
    (htick : s.tick = s.cad.swTick) : s.applySwitch edge =
      if (s.switchApplied edge).isMaster then (s.switchApplied edge).configSend else s.switchApplied edge := by
  simp only [State.applySwitch, hpending, htick, BEq.rfl, Bool.and_self, if_true, State.tick_set_epoch, State.switchApplied]

theorem State.applySwitch_cadenceStep (s : State) (edge : Nat) : State.CadenceStep switchRegs s (s.applySwitch edge) := by
  by_cases h : s.on F.CAD_STATUS_SWITCH_PENDING = true ∧ s.tick = s.cad.swTick
  · rw [State.applySwitch_of_switch edge h.1 h.2]
    refine State.CadenceStep.ite ?_ (s.switchApplied_cadenceStep edge)
    exact (s.switchApplied_cadenceStep edge).trans (State.configSend_linksOnly _).cadenceStep
  · rw [State.applySwitch_of_none edge (by rw [← Bool.not_eq_true]; exact Classical.not_and_iff_not_or_not.mp h)]
    exact State.CadenceStep.refl s

/-- An applied switch leaves its period, its epoch, and nothing pending. -/
theorem State.switchApplied_registers {s : State} {edge : Nat} (hperiod : s.cad.swPeriod < 2 ^ 30) (u : State)
    (hu : u.regs = (s.switchApplied edge).regs) :
    u.period = s.cad.swPeriod ∧ u.epoch = (edge + 2 ^ 64 * (s.tick + 1) - s.tick * s.cad.swPeriod) % 2 ^ 64 ∧
    u.on F.CAD_STATUS_SWITCH_PENDING = false ∧ u.on F.CAD_CTRL_SWITCH_ARM = false := by
  have hrd (a : Nat) : u.rd a = (s.switchApplied edge).rd a := by rw [State.rd, State.rd, hu]
  refine ⟨?_, ?_, ?_, ?_⟩
  · have hother : ((s.set F.CAD_PERIOD s.cad.swPeriod).set64 F.CAD_EPOCH_LO
        ((edge + 2 ^ 64 * (s.tick + 1) - s.tick * s.cad.swPeriod) % 2 ^ 64)).get F.CAD_PERIOD =
        (s.set F.CAD_PERIOD s.cad.swPeriod).get F.CAD_PERIOD :=
      (State.get_wr_other _ _ _ _ (by decide)).trans (State.get_wr_other _ _ _ _ (by decide))
    rw [State.period, State.get_of_regs hu, State.switchApplied, State.get_set_apart (by decide) (by decide),
      State.get_set_apart (by decide) (by decide), hother, State.get_set_same _ _ _ (by unfold Fld.inWord; decide)]
    exact Nat.mod_eq_of_lt hperiod
  · rw [State.epoch, State.get64, hrd, hrd, State.switchApplied, State.rd_set_other _ _ _ _ (by decide),
      State.rd_set_other _ _ _ _ (by decide), State.rd_set_other _ _ _ _ (by decide), State.rd_set_other _ _ _ _ (by decide),
      State.set64, State.rd_wr_other _ _ _ _ (by decide), State.rd_wr_same, State.rd_wr_same]
    omega
  · rw [State.on_of_regs hu]
    exact State.on_set_zero (by decide)
  · rw [State.on_of_regs hu, State.switchApplied, State.on_set_apart (by decide) (by decide)]
    exact State.on_set_zero (by decide)

/-! ### A tick edge (R49, R51, R52) -/

/-- The state at the edge `e` of tick `n` once a switch has applied and, where one fell into its cycle, an arm was judged. -/
def State.tickSwitched (s : State) (arm : Bool) (n e : Nat) : State :=
  if arm && s.on F.CAD_STATUS_SWITCH_PENDING && n == s.cad.swTick then (((s.advance e).setTick n).applySwitch e).armAgain
  else ((s.advance e).setTick n).applySwitch e

/-- The fall of TICK_OUT is set, and what belongs to ticks before `n` is dropped. -/
def State.tickCleared (s : State) (n e : Nat) : State :=
  { s with
    cad := { s.cad with
      tickOutFall := e + min (8 * s.get F.CAD_TICK_OUT_WIDTH) (s.period / 2)
      ledger := s.cad.ledger.filter fun x => decide (n ≤ x.tick)
      admitted := s.cad.admitted.filter fun p => decide (n ≤ p.1) }
    plans := s.plans.map fun (p : PlanEntry) => { p with pins := p.pins.filter fun k => decide (n ≤ k) } }

/-- The state at the edge, with TICK_OUT risen. -/
def State.tickRisen (s : State) (arm : Bool) (n e : Nat) : State := ((s.tickSwitched arm n e).tickCleared n e).tickDrive true e

theorem State.tickDrive_frame (s : State) (b : Bool) (t : Nat) : s.tickDrive b t =
    { s with cad := { s.cad with tickOut := b }, outbox := (s.tickDrive b t).outbox } := by
  unfold State.tickDrive
  dsimp only
  split <;> rfl

theorem State.tickDrive_outbox (s : State) (b : Bool) (t : Nat) : (s.tickDrive b t).outbox =
    if s.on F.CAD_TICK_OUT_OE then s.outbox ++ [.tickPin (b != s.on F.CAD_TICK_OUT_POL) (t - s.get F.CAD_TICK_OUT_COMP)] else s.outbox := by
  have hlevel : State.tickLevel { s with cad := { s.cad with tickOut := b } } =
      if s.on F.CAD_TICK_OUT_OE then some (b != s.on F.CAD_TICK_OUT_POL) else none := rfl
  unfold State.tickDrive
  dsimp only
  rw [hlevel]
  split
  · next l hl =>
    split at hl
    · next hoe =>
      cases hl
      rw [if_pos hoe]
      rfl
    · exact absurd hl (by simp)
  · next hl =>
    split at hl
    · exact absurd hl (by simp)
    · next hoe => rw [if_neg hoe]

theorem exec_tickEdge {s : State} (arm : Bool) (hen : s.on F.CAD_CTRL_EN = true) (hjoin : s.cad.joinHold = false)
    (hlast : s.tick ≠ 2 ^ 48 - 1) (u : State) (hu : u = s.tickRisen arm (s.tick + 1) (s.edgeOf (s.tick + 1))) :
    exec (.tickEdge arm) s = .next (u.trace 4 0 0 0 (leBytes 6 (s.tick + 1) ++ leBytes 2 0 ++ leBytes 8 u.period)) := by
  have hperiod : u.period = ((s.tickSwitched arm (s.tick + 1) (s.edgeOf (s.tick + 1))).tickCleared (s.tick + 1) (s.edgeOf (s.tick + 1))).period := by
    rw [hu, State.tickRisen, State.tickDrive_frame]
    rfl
  have hexec : exec (.tickEdge arm) s = execTickEdge arm s := rfl
  rw [hperiod, hu, hexec, execTickEdge, if_neg (by simp [hen, hjoin]), if_neg hlast]
  rfl

section edge
variable {s : State} {arm : Bool} {n e : Nat}

/-- Before a switch applies, rack time has reached the edge and CAD_TICK is the new number. -/
theorem State.get_edge {g : Fld} (h0 : g.Apart F.CAD_STATUS_SLEWING) (h1 : g.Apart F.CAD_STATUS_HOLD_IN_SPEC) (h2 : g.Apart F.CAD_HOLD_ERR)
    (h3 : g.addr ≠ F.CAD_TICK_LO.addr) (h4 : g.addr ≠ F.CAD_TICK_HI.addr) : ((s.advance e).setTick n).get g = s.get g :=
  (State.get_setTick _ _ h3 h4).trans (s.get_advance e h0 h1 h2)

theorem State.cad_edge : ((s.advance e).setTick n).cad = (s.advance e).cad := (State.setTick_regsOnly _ n).cad

theorem State.frame_edge : s.RegsCadOnly ((s.advance e).setTick n) := (s.advance_regsCadOnly e).trans (State.setTick_regsOnly _ n).regsCad

theorem State.tickSwitched_cadenceStep : State.CadenceStep switchRegs ((s.advance e).setTick n) (s.tickSwitched arm n e) := by
  refine State.CadenceStep.ite ((State.applySwitch_cadenceStep _ e).trans ?_) (State.applySwitch_cadenceStep _ e)
  have harm := (((s.advance e).setTick n).applySwitch e).armAgain_cadenceStep
  exact ⟨harm.frame, harm.time, fun a ha => harm.rd a fun h => ha (List.mem_append_left _ h)⟩

theorem State.get_tickSwitched {g : Fld} (h0 : g.Apart F.CAD_STATUS_SLEWING) (h1 : g.Apart F.CAD_STATUS_HOLD_IN_SPEC) (h2 : g.Apart F.CAD_HOLD_ERR)
    (h3 : g.addr ≠ F.CAD_TICK_LO.addr) (h4 : g.addr ≠ F.CAD_TICK_HI.addr) (hg : g.addr ∉ switchRegs) :
    (s.tickSwitched arm n e).get g = s.get g :=
  (State.tickSwitched_cadenceStep.get hg).trans (State.get_edge h0 h1 h2 h3 h4)

theorem State.tick_tickSwitched (hn : n < 2 ^ 48) : (s.tickSwitched arm n e).tick = n := by
  rw [State.tick, State.tickSwitched_cadenceStep.get (by decide), State.tickSwitched_cadenceStep.get (by decide)]
  exact State.tick_setTick _ hn

theorem State.time_tickSwitched (hjoin : s.cad.joinHold = false) : (s.tickSwitched arm n e).cad.time = max s.cad.time e := by
  rw [State.tickSwitched_cadenceStep.time, State.cad_edge, State.time_advance hjoin]

/-- Besides registers, cadence, links and outputs nothing changes. -/
theorem State.frame_tickSwitched : s.tickSwitched arm n e = { s with
    regs := (s.tickSwitched arm n e).regs, cad := (s.tickSwitched arm n e).cad
    rein := (s.tickSwitched arm n e).rein, outbox := (s.tickSwitched arm n e).outbox } := by
  have hstep := (State.tickSwitched_cadenceStep (s := s) (arm := arm) (n := n) (e := e)).frame
  have hedge : s.RegsCadOnly ((s.advance e).setTick n) := State.frame_edge
  unfold State.RegsCadOnly at hedge
  rw [hedge] at hstep
  exact hstep

/-- At the edge a switch is pending for it, or none is. -/
theorem State.pending_edge : ((s.advance e).setTick n).on F.CAD_STATUS_SWITCH_PENDING = s.on F.CAD_STATUS_SWITCH_PENDING := by
  rw [State.on, State.on, State.get_edge (by decide) (by decide) (by decide) (by decide) (by decide)]

theorem State.swTick_edge : ((s.advance e).setTick n).cad.swTick = s.cad.swTick := by rw [State.cad_edge, s.cad_advance e]

theorem State.swPeriod_edge : ((s.advance e).setTick n).cad.swPeriod = s.cad.swPeriod := by rw [State.cad_edge, s.cad_advance e]

theorem State.tickSwitched_of_none (hn : n < 2 ^ 48) (h : s.on F.CAD_STATUS_SWITCH_PENDING = false ∨ n ≠ s.cad.swTick) :
    s.tickSwitched arm n e = (s.advance e).setTick n := by
  have hno : (arm && s.on F.CAD_STATUS_SWITCH_PENDING && n == s.cad.swTick) = false := by
    obtain h | h := h <;> simp [h]
  rw [State.tickSwitched, hno, if_neg Bool.false_ne_true]
  exact State.applySwitch_of_none e (by rwa [State.pending_edge, State.swTick_edge, State.tick_setTick _ hn])

/-- The registers of a switch that applies at its edge; an arm in its cycle changes CAD_CTRL, CAD_STATUS and a flag only. -/
theorem State.tickSwitched_of_switch (hn : n < 2 ^ 48) (hpending : s.on F.CAD_STATUS_SWITCH_PENDING = true) (htick : n = s.cad.swTick)
    (hperiod : s.cad.swPeriod < 2 ^ 30) :
    (s.tickSwitched arm n e).period = s.cad.swPeriod ∧
    (s.tickSwitched arm n e).epoch = (e + 2 ^ 64 * (n + 1) - n * s.cad.swPeriod) % 2 ^ 64 ∧
    (arm = false → (s.tickSwitched arm n e).on F.CAD_STATUS_SWITCH_PENDING = false ∧
      (s.tickSwitched arm n e).on F.CAD_CTRL_SWITCH_ARM = false) ∧
    (arm = true → (s.tickSwitched arm n e).on F.CAD_CTRL_SWITCH_ARM = true) := by
  have happly := State.applySwitch_of_switch e (State.pending_edge.trans hpending)
    ((State.tick_setTick (s.advance e) hn).trans (htick.trans State.swTick_edge.symm))
  have hregs : (((s.advance e).setTick n).applySwitch e).regs = (((s.advance e).setTick n).switchApplied e).regs := by
    rw [happly]
    split
    · exact (State.configSend_linksOnly _).regs
    · rfl
  obtain ⟨h1, h2, h3, h4⟩ := State.switchApplied_registers (by rwa [State.swPeriod_edge]) _ hregs
  rw [State.swPeriod_edge] at h1 h2
  rw [State.tick_setTick _ hn] at h2
  cases arm with
  | false =>
    have hno : s.tickSwitched false n e = ((s.advance e).setTick n).applySwitch e := by simp [State.tickSwitched]
    rw [hno]
    exact ⟨h1, h2, fun _ => ⟨h3, h4⟩, fun h => absurd h (by decide)⟩
  | true =>
    have hyes : s.tickSwitched true n e = (((s.advance e).setTick n).applySwitch e).armAgain := by
      simp [State.tickSwitched, hpending, htick]
    have harm := (((s.advance e).setTick n).applySwitch e).armAgain_cadenceStep
    rw [hyes]
    refine ⟨(harm.get (by decide)).trans h1, ?_, fun h => absurd h (by decide), fun _ => State.on_set_one (by decide) rfl⟩
    rw [State.epoch, State.get64, harm.rd _ (by decide), harm.rd _ (by decide)]
    exact h2

end edge

/-- The edge of the tick of a switch is where it was. -/
theorem State.edgeOf_swTick {s : State} : s.edgeOf s.cad.swTick = s.edgeNow s.cad.swTick := by
  unfold State.edgeOf
  split
  · rw [Nat.sub_self, Nat.zero_mul, Nat.add_zero]
  · rfl

/-- The epoch a switch leaves puts tick `n` at the edge `e`. -/
theorem epoch_of_switch {m n p e : Nat} (hp : p ≤ m) (he : e < m) : ((e + m * (n + 1) - n * p) % m + n * p) % m = e := by
  have hle : n * p ≤ m * (n + 1) := by
    calc n * p ≤ (n + 1) * m := Nat.mul_le_mul (by omega) hp
      _ = m * (n + 1) := Nat.mul_comm _ _
  rw [Nat.mod_add_mod, Nat.sub_add_cancel (by omega), Nat.add_mul_mod_self_left, Nat.mod_eq_of_lt he]

/-! ### PPS_OUT and PPS_IN (R38, R53) -/

theorem State.ppsDrive_frame (s : State) (b : Bool) (t : Nat) : s.ppsDrive b t =
    { s with cad := { s.cad with ppsOut := b }, outbox := (s.ppsDrive b t).outbox } := by
  unfold State.ppsDrive
  dsimp only
  split <;> rfl

theorem State.ppsDrive_outbox (s : State) (b : Bool) (t : Nat) : (s.ppsDrive b t).outbox =
    if s.on F.CAD_PPS_OUT_OE then s.outbox ++ [.ppsPin b t] else s.outbox := by
  have hlevel : State.ppsLevel { s with cad := { s.cad with ppsOut := b } } = if s.on F.CAD_PPS_OUT_OE then some b else none := rfl
  unfold State.ppsDrive
  dsimp only
  rw [hlevel]
  cases s.on F.CAD_PPS_OUT_OE <;> rfl

/-- Rack time has reached `t`, where PPS_OUT is to rise, and the end of the pulse is set. -/
def State.ppsRising (s : State) (t : Nat) : State :=
  { s.advance t with cad := { (s.advance t).cad with ppsOutFall := t + 1000 * (s.advance t).get F.CAD_PPS_OUT_WIDTH } }

theorem exec_ppsOutRise {s : State} {t : Nat} (h : s.cad.joinHold = false) (ht : t = (s.cad.time / 1000000000 + 1) * 1000000000) :
    exec .ppsOutRise s = .next ((s.ppsRising t).ppsDrive true t) := by
  subst ht
  have hexec : exec .ppsOutRise s = execPpsOutRise s := rfl
  rw [hexec, execPpsOutRise, h, if_neg Bool.false_ne_true]
  rfl

theorem State.get64_set64 (s : State) (f : Fld) (v : Nat) : (s.set64 f v).get64 f = v % 2 ^ 64 := by
  rw [State.get64, State.set64, State.rd_wr_other _ _ _ _ (by omega), State.rd_wr_same, State.rd_wr_same]
  omega

/-- The state at an edge of PPS_IN, timestamped. -/
def State.ppsStamped (s : State) (x : Nat) : State :=
  let a := (s.advance x).set64 F.CAD_PPS_IN_TS_LO (s.advance x).cad.time
  { a with cad := { a.cad with ppsIn := some a.cad.time } }

theorem exec_ppsInEdge (s : State) (x : Nat) : exec (.ppsInEdge x) s = .next ((s.ppsStamped x).selectSource 3) := rfl

/-- Rack time when the wait for an edge of PPS_IN ends. -/
def State.ppsWaited (s : State) : State := match s.cad.ppsIn with | some t => s.advance (t + 1001000000) | none => s

/-- PPSIN is set and PPS is no source any more. -/
def State.ppsLost (s : State) : State :=
  let a := s.ppsWaited.stick F.CAD_PPSIN_PPSIN
  { a with cad := { a.cad with ppsIn := none } }

theorem exec_ppsInTimeout (s : State) : exec .ppsInTimeout s =
    if s.get F.CAD_STATUS_SOURCE = 3 then .next (s.ppsLost.selectSource 0) else .next s := rfl

theorem State.ppsLost_regs (s : State) : s.ppsLost.regs = (s.ppsWaited.stick F.CAD_PPSIN_PPSIN).regs := rfl

theorem State.get_ppsLost (s : State) {g : Fld} (h0 : g.Apart F.CAD_STATUS_SLEWING) (h1 : g.Apart F.CAD_STATUS_HOLD_IN_SPEC)
    (h2 : g.Apart F.CAD_HOLD_ERR) (h3 : g.addr ≠ F.CAD_PPSIN_PPSIN.addr) : s.ppsLost.get g = s.get g := by
  rw [State.get_of_regs s.ppsLost_regs, State.get_stick_other _ _ _ h3, State.ppsWaited]
  split
  · exact s.get_advance _ h0 h1 h2
  · rfl

theorem State.ppsLost_regsCadOnly (s : State) : s.RegsCadOnly s.ppsLost := by
  have hwaited : s.RegsCadOnly s.ppsWaited := by
    unfold State.ppsWaited
    split
    · exact s.advance_regsCadOnly _
    · rfl
  exact (hwaited.trans (s.ppsWaited.stick_regsOnly _).regsCad).trans (State.regsCadOnly_cad _ _)

/-- Where no other source is to be had, the master holds over. -/
theorem State.selectSource_holdover {s : State} (hmaster : s.isMaster = true) (hsources : s.sources = [])
    (hcur : s.get F.CAD_STATUS_SOURCE = 3) : s.selectSource 0 = s.enterHoldover := by
  simp [State.selectSource, hmaster, hsources, hcur]

theorem State.isMaster_ppsLost (s : State) : s.ppsLost.isMaster = s.on F.CAD_STATUS_MASTER := by
  rw [State.isMaster, State.on, State.on, s.get_ppsLost (by decide) (by decide) (by decide) (by decide)]

theorem State.time_ppsLost (s : State) : s.ppsLost.cad.time = s.ppsWaited.cad.time := by
  show (s.ppsWaited.stick F.CAD_PPSIN_PPSIN).cad.time = _
  rw [State.stick_cad]

/-- A follower's PPS_IN edge is timestamped and serves no selection. -/
theorem State.isMaster_ppsStamped (s : State) (x : Nat) : (s.ppsStamped x).isMaster = s.on F.CAD_STATUS_MASTER := by
  have hregs : (s.ppsStamped x).regs = ((s.advance x).set64 F.CAD_PPS_IN_TS_LO (s.advance x).cad.time).regs := rfl
  rw [State.isMaster, State.on_of_regs hregs, State.on, State.set64, State.get_wr_other _ _ _ _ (by decide),
    State.get_wr_other _ _ _ _ (by decide)]
  exact s.on_advance x (by decide) (by decide) (by decide)

/-! ### The state at the edge -/

section risen
variable {s : State} {arm : Bool} {n e : Nat}

theorem State.tickRisen_eq : s.tickRisen arm n e = { (s.tickSwitched arm n e).tickCleared n e with
    cad := { ((s.tickSwitched arm n e).tickCleared n e).cad with tickOut := true }, outbox := (s.tickRisen arm n e).outbox } := by
  rw [State.tickRisen, State.tickDrive_frame]

theorem State.tickRisen_regs : (s.tickRisen arm n e).regs = (s.tickSwitched arm n e).regs := by
  rw [State.tickRisen_eq]
  rfl

theorem State.tickRisen_cad : (s.tickRisen arm n e).cad = { (s.tickSwitched arm n e).cad with
    tickOut := true
    tickOutFall := e + min (8 * (s.tickSwitched arm n e).get F.CAD_TICK_OUT_WIDTH) ((s.tickSwitched arm n e).period / 2)
    ledger := (s.tickSwitched arm n e).cad.ledger.filter fun x => decide (n ≤ x.tick)
    admitted := (s.tickSwitched arm n e).cad.admitted.filter fun p => decide (n ≤ p.1) } := by
  rw [State.tickRisen_eq]
  rfl

theorem State.tickRisen_plans : (s.tickRisen arm n e).plans =
    (s.tickSwitched arm n e).plans.map fun (p : PlanEntry) => { p with pins := p.pins.filter fun k => decide (n ≤ k) } := by
  rw [State.tickRisen_eq]
  rfl

theorem State.tickRisen_rein : (s.tickRisen arm n e).rein = (s.tickSwitched arm n e).rein := by
  rw [State.tickRisen_eq]
  rfl

/-- Neither memory nor synchronization, commands or queues change at an edge. -/
theorem State.tickRisen_frame : (s.tickRisen arm n e).mem = s.mem ∧ (s.tickRisen arm n e).sync = s.sync ∧
    (s.tickRisen arm n e).cmds = s.cmds ∧ (s.tickRisen arm n e).queues = s.queues := by
  rw [State.tickRisen_eq, State.tickCleared, State.frame_tickSwitched]
  exact ⟨rfl, rfl, rfl, rfl⟩

theorem State.tickRisen_period : (s.tickRisen arm n e).period = (s.tickSwitched arm n e).period := State.get_of_regs State.tickRisen_regs _

theorem State.tickRisen_epoch : (s.tickRisen arm n e).epoch = (s.tickSwitched arm n e).epoch := by
  simp only [State.epoch, State.get64, State.rd, State.tickRisen_regs]

theorem State.tickRisen_outbox (hoe : s.on F.CAD_TICK_OUT_OE = true) : (s.tickRisen arm n e).outbox = (s.tickSwitched arm n e).outbox ++
    [.tickPin (!(s.on F.CAD_TICK_OUT_POL)) (e - s.get F.CAD_TICK_OUT_COMP)] := by
  have hget {g : Fld} (h0 : g.Apart F.CAD_STATUS_SLEWING) (h1 : g.Apart F.CAD_STATUS_HOLD_IN_SPEC) (h2 : g.Apart F.CAD_HOLD_ERR)
      (h3 : g.addr ≠ F.CAD_TICK_LO.addr) (h4 : g.addr ≠ F.CAD_TICK_HI.addr) (hg : g.addr ∉ switchRegs) :
      ((s.tickSwitched arm n e).tickCleared n e).get g = s.get g := State.get_tickSwitched h0 h1 h2 h3 h4 hg
  have hdrives : (s.get F.CAD_TICK_OUT_OE == 1) = true := hoe
  rw [State.tickRisen, State.tickDrive_outbox, State.on, State.on,
    hget (g := F.CAD_TICK_OUT_OE) (by decide) (by decide) (by decide) (by decide) (by decide) (by decide),
    hget (g := F.CAD_TICK_OUT_POL) (by decide) (by decide) (by decide) (by decide) (by decide) (by decide),
    hget (g := F.CAD_TICK_OUT_COMP) (by decide) (by decide) (by decide) (by decide) (by decide) (by decide), if_pos hdrives, Bool.true_bne]
  rfl

end risen

theorem State.rd_eq_get (s : State) (a : Nat) : s.rd a = s.get ⟨a, 0, 32⟩ := by
  rw [State.get, bitsOf, Nat.pow_zero, Nat.div_one, Nat.mod_eq_of_lt (s.rd_lt a)]

theorem State.epoch_edge (s : State) (n e : Nat) : ((s.advance e).setTick n).epoch = s.epoch := by
  simp only [State.epoch, State.get64, State.rd_eq_get]
  rw [State.get_edge (by decide) (by decide) (by decide) (by decide) (by decide),
    State.get_edge (by decide) (by decide) (by decide) (by decide) (by decide)]

/-- Without a switch at this tick its registers and links stay. -/
theorem State.tickRisen_of_none {s : State} {n : Nat} (arm : Bool) (e : Nat) (hn : n < 2 ^ 48)
    (h : s.on F.CAD_STATUS_SWITCH_PENDING = false ∨ n ≠ s.cad.swTick) :
    (s.tickRisen arm n e).period = s.period ∧ (s.tickRisen arm n e).epoch = s.epoch ∧ (s.tickRisen arm n e).rein = s.rein ∧
    (s.tickRisen arm n e).on F.CAD_STATUS_SWITCH_PENDING = s.on F.CAD_STATUS_SWITCH_PENDING := by
  have hnone := State.tickSwitched_of_none (e := e) (arm := arm) hn h
  rw [State.tickRisen_period, State.tickRisen_epoch, State.tickRisen_rein, State.on_of_regs State.tickRisen_regs, hnone]
  exact ⟨State.get_edge (by decide) (by decide) (by decide) (by decide) (by decide), s.epoch_edge n e,
    by rw [State.frame_edge], State.pending_edge⟩

/-- A switch at this tick. -/
theorem State.tickRisen_of_switch {s : State} {n e : Nat} (arm : Bool) (hn : n < 2 ^ 48) (he : s.edgeOf n = e)
    (hpending : s.on F.CAD_STATUS_SWITCH_PENDING = true) (htick : n = s.cad.swTick) (hperiod : s.cad.swPeriod < 2 ^ 30) :
    (s.tickRisen arm n e).period = s.cad.swPeriod ∧ ((s.tickRisen arm n e).epoch + n * s.cad.swPeriod) % 2 ^ 64 = s.edgeNow n ∧
    (arm = false → (s.tickRisen arm n e).on F.CAD_STATUS_SWITCH_PENDING = false ∧ (s.tickRisen arm n e).on F.CAD_CTRL_SWITCH_ARM = false) ∧
    (arm = true → (s.tickRisen arm n e).on F.CAD_CTRL_SWITCH_ARM = true) := by
  obtain ⟨h1, h2, h3, h4⟩ := State.tickSwitched_of_switch (e := e) (arm := arm) hn hpending htick hperiod
  have hedge : e = s.edgeNow n := by rw [← he, htick, State.edgeOf_swTick]
  rw [State.tickRisen_period, State.tickRisen_epoch, State.on_of_regs State.tickRisen_regs, State.on_of_regs State.tickRisen_regs, h2, ← hedge]
  exact ⟨h1, epoch_of_switch (by omega) (hedge ▸ Nat.mod_lt _ (Nat.two_pow_pos 64)), h3, h4⟩

/-! ### The pulses -/

/-- TICK_OUT falls once rack time has reached the end of the pulse. -/
theorem exec_tickOutFall {s : State} (h : s.cad.tickOut = true) : ∃ t : State, exec .tickOutFall s = .next t ∧ t.cad.tickOut = false ∧
    t.cad.time = (s.advance s.cad.tickOutFall).cad.time ∧
    (s.on F.CAD_TICK_OUT_OE = true → t.outbox = s.outbox ++ [.tickPin (s.on F.CAD_TICK_OUT_POL) (s.cad.tickOutFall - s.get F.CAD_TICK_OUT_COMP)]) ∧
    (s.on F.CAD_TICK_OUT_OE = false → t.outbox = s.outbox) ∧ t = { s with regs := t.regs, cad := t.cad, outbox := t.outbox } := by
  have hexec : exec .tickOutFall s = .next ((s.advance s.cad.tickOutFall).tickDrive false s.cad.tickOutFall) := congrArg _ (if_pos h)
  have hbox := (s.advance s.cad.tickOutFall).tickDrive_outbox false s.cad.tickOutFall
  have hframe := (s.advance s.cad.tickOutFall).tickDrive_frame false s.cad.tickOutFall
  have hadv := s.advance_regsCadOnly s.cad.tickOutFall
  rw [s.on_advance _ (by decide) (by decide) (by decide), s.on_advance _ (by decide) (by decide) (by decide),
    s.get_advance _ (by decide) (by decide) (by decide), Bool.false_bne] at hbox
  generalize (s.advance s.cad.tickOutFall).tickDrive false s.cad.tickOutFall = u at hexec hbox hframe
  generalize s.advance s.cad.tickOutFall = a at hbox hframe hadv ⊢
  rw [show a.outbox = s.outbox by rw [hadv]] at hbox
  refine ⟨u, hexec, by rw [hframe], by rw [hframe], fun hoe => by rw [hbox, if_pos hoe], fun hoe => by simp [hbox, hoe], ?_⟩
  rw [hadv] at hframe
  rw [hframe]

/-- PPS_OUT changes at rack time `t`, reached from `s` by registers and rack time alone. -/
theorem State.ppsDrive_of_regsCadOnly {s a : State} (b : Bool) (t : Nat) (h : s.RegsCadOnly a)
    (hoe : a.on F.CAD_PPS_OUT_OE = s.on F.CAD_PPS_OUT_OE) : (a.ppsDrive b t).cad = { a.cad with ppsOut := b } ∧
    (s.on F.CAD_PPS_OUT_OE = true → (a.ppsDrive b t).outbox = s.outbox ++ [.ppsPin b t]) ∧
    (s.on F.CAD_PPS_OUT_OE = false → (a.ppsDrive b t).outbox = s.outbox) ∧
    a.ppsDrive b t = { s with regs := (a.ppsDrive b t).regs, cad := (a.ppsDrive b t).cad, outbox := (a.ppsDrive b t).outbox } := by
  have hframe := a.ppsDrive_frame b t
  have hbox := a.ppsDrive_outbox b t
  rw [hoe, show a.outbox = s.outbox by rw [h]] at hbox
  generalize a.ppsDrive b t = u at *
  refine ⟨by rw [hframe], fun hoe => by rw [hbox, if_pos hoe], fun hoe => by simp [hbox, hoe], ?_⟩
  rw [h] at hframe
  rw [hframe]

/-- Settles O12: a tick edge by the state at it (`State.tickRisen`), the pulses by what drives their pins. -/
theorem tickEdgesAndPulsesFollowRackTime : Obligations.TickEdgesAndPulsesFollowRackTime := by
  unfold Obligations.TickEdgesAndPulsesFollowRackTime
  refine ⟨?_, fun s x => ⟨exec_tickOutFall, fun hout => ?_, fun hjoin => ?_, fun hjoin => ?_, fun hout => ?_, fun hout => ?_,
    ⟨s.ppsStamped x, exec_ppsInEdge s x, rfl, ?_, rfl, rfl, fun hmaster => ?_⟩, fun hsrc => ?_, fun hsrc => ?_⟩⟩
  · rintro s arm n e rfl rfl
    refine ⟨fun h => ?_, fun hen hjoin hlast => ?_, fun hen hjoin hn => ?_⟩
    · exact if_pos (by obtain h | h := h <;> simp [h])
    · have hexec : exec (.tickEdge arm) s = execTickEdge arm s := rfl
      rw [hexec, execTickEdge, if_neg (by simp [hen, hjoin]), if_pos hlast]
    · have hexec := exec_tickEdge arm hen hjoin (by omega) _ rfl
      generalize he : s.edgeOf (s.tick + 1) = e at hexec ⊢
      generalize s.tick + 1 = n at hn he hexec ⊢
      obtain ⟨hmem, hsync, hcmds, hqueues⟩ := State.tickRisen_frame (s := s) (arm := arm) (n := n) (e := e)
      have hcad := State.tickRisen_cad (s := s) (arm := arm) (n := n) (e := e)
      have hwidth : (s.tickSwitched arm n e).get F.CAD_TICK_OUT_WIDTH = s.get F.CAD_TICK_OUT_WIDTH :=
        State.get_tickSwitched (by decide) (by decide) (by decide) (by decide) (by decide) (by decide)
      refine ⟨_, hexec, ?_, ?_, by rw [hcad], ?_, fun hoe => ⟨_, State.tickRisen_outbox hoe⟩, fun y hy => ?_, fun p hp => ?_, fun p hp k hk => ?_,
        hmem, hsync, hcmds, hqueues, State.tickRisen_of_none arm e hn, State.tickRisen_of_switch arm hn he⟩
      · have htick := State.tick_tickSwitched hn (s := s) (arm := arm) (e := e)
        simpa only [State.tick, State.get_of_regs State.tickRisen_regs] using htick
      · rw [hcad]
        exact State.time_tickSwitched hjoin
      · rw [hcad, State.tickRisen_period, hwidth]
      · rw [hcad] at hy
        exact of_decide_eq_true (List.mem_filter.mp hy).2
      · rw [hcad] at hp
        exact of_decide_eq_true (List.mem_filter.mp hp).2
      · rw [State.tickRisen_plans] at hp
        obtain ⟨p', -, rfl⟩ := List.mem_map.mp hp
        exact of_decide_eq_true (List.mem_filter.mp hk).2
  · exact congrArg _ (if_neg (by simp [hout]))
  · exact congrArg _ (if_pos hjoin)
  · generalize ht : (s.cad.time / 1000000000 + 1) * 1000000000 = t
    have htime : (s.advance t).cad.time = t := by
      rw [State.time_advance hjoin]
      omega
    obtain ⟨hcad, hbox, hquiet, hframe⟩ := State.ppsDrive_of_regsCadOnly (s := s) (a := s.ppsRising t) true t
      ((s.advance_regsCadOnly t).trans (State.regsCadOnly_cad _ _)) (s.on_advance t (by decide) (by decide) (by decide))
    have hrise : ((s.ppsRising t).ppsDrive true t).cad.time = t := by
      rw [hcad]
      exact htime
    refine ⟨_, exec_ppsOutRise hjoin ht.symm, by rw [hcad], hrise, ?_, by rwa [hrise], hquiet, hframe⟩
    rw [hrise, hcad]
    exact congrArg (fun w => t + 1000 * w) (s.get_advance t (by decide) (by decide) (by decide))
  · have hexec : exec .ppsOutFall s = .next ((s.advance s.cad.ppsOutFall).ppsDrive false s.cad.ppsOutFall) := congrArg _ (if_pos hout)
    obtain ⟨hcad, hbox, hquiet, hframe⟩ := State.ppsDrive_of_regsCadOnly (s := s) false s.cad.ppsOutFall (s.advance_regsCadOnly s.cad.ppsOutFall)
      (s.on_advance _ (by decide) (by decide) (by decide))
    exact ⟨_, hexec, by rw [hcad], by rw [hcad], hbox, hquiet, hframe⟩
  · exact congrArg _ (if_neg (by simp [hout]))
  · have hregs : (s.ppsStamped x).regs = ((s.advance x).set64 F.CAD_PPS_IN_TS_LO (s.advance x).cad.time).regs := rfl
    rw [State.get64, State.rd, State.rd, hregs]
    exact State.get64_set64 _ _ _
  · simp [State.selectSource, (s.isMaster_ppsStamped x).trans hmaster]
  · rw [exec_ppsInTimeout, if_neg hsrc]
  · rw [exec_ppsInTimeout, if_pos hsrc]
    refine ⟨_, rfl, (State.get_of_regs s.ppsLost_regs _).trans (State.get_stick_same _ _ (by decide) rfl), rfl, fun t ht => ?_, fun hnone => ?_, s.ppsLost_regsCadOnly,
      fun hmaster hsources => State.selectSource_holdover (s.isMaster_ppsLost.trans hmaster) hsources
        ((s.get_ppsLost (by decide) (by decide) (by decide) (by decide)).trans hsrc)⟩
    · rw [State.time_ppsLost, State.ppsWaited, ht]
    · rw [State.time_ppsLost, State.ppsWaited, hnone]

end Sys2Proof.Machine
end

section
/-! Scrubbing, the weight cache and the facet registers (R76, R77, R80, R81, R86, R87, R89, R95, R97). -/
namespace Sys2Proof.Machine

/-! ### Corrections and logged errors change no byte (R77, R79) -/

/-- `m'` has the bytes and the uncorrectable words of `m`, and no other single-bit errors. -/
structure Mem.Corrected (m m' : Mem) : Prop where
  byte : ∀ sp a, m'.byte sp a = m.byte sp a
  ue : m'.ue = m.ue
  ce : m'.ce ⊆ m.ce

theorem Mem.Corrected.refl (m : Mem) : m.Corrected m := ⟨fun _ _ => rfl, rfl, fun _ h => h⟩

theorem Mem.Corrected.trans {m m' m'' : Mem} (h : m.Corrected m') (h' : m'.Corrected m'') : m.Corrected m'' :=
  ⟨fun sp a => (h'.byte sp a).trans (h.byte sp a), h'.ue.trans h.ue, fun _ hx => h.ce (h'.ce hx)⟩

/-- A list of single-bit errors shrinks. -/
theorem Mem.corrected_ce (m : Mem) {l : List (Nat × Nat)} (h : l ⊆ m.ce) : m.Corrected { m with ce := l } :=
  ⟨fun sp a => by unfold Mem.byte Mem.cells; split <;> rfl, rfl, h⟩

theorem State.mem_irq (s : State) (vec : Nat) : (s.irq vec).mem = s.mem := (s.irq_frame vec).1

theorem State.mem_fault (s : State) (cls cause unit status iid da seq trigger : Nat) (detail : List (BitVec 8)) :
    (s.fault cls cause unit status iid da seq trigger detail).mem = s.mem := by
  unfold State.fault
  dsimp only
  split
  · rfl
  · rw [State.mem_irq, State.set_mem]
    split
    · show (s.stick F.GLB_FLOGOVF_FLOGOVF).mem = s.mem
      rw [State.stick_mem]
    · rfl

/-- The registers show the last uncorrectable error. -/
def State.ueNoted (s : State) (da iid : Nat) (scrub : Bool) : State :=
  (((s.stickIrq F.MEM_UE_UE 11).set64 F.MEM_UE_ADDR_LO da).set F.MEM_UE_INFO_IID iid).set F.MEM_UE_INFO_SCRUB (b2n scrub)

theorem State.logUE_eq_fault (s : State) (sp word iid : Nat) (scrub : Bool) (st seq : Nat) : ∃ da cls cause unit trigger,
    s.logUE sp word iid scrub st seq = (s.ueNoted da iid scrub).fault cls cause unit st iid da seq trigger [] := ⟨_, _, _, _, _, rfl⟩

theorem State.mem_logUE (s : State) (sp word iid : Nat) (scrub : Bool) (st seq : Nat) : (s.logUE sp word iid scrub st seq).mem = s.mem := by
  obtain ⟨da, cls, cause, unit, trigger, h⟩ := s.logUE_eq_fault sp word iid scrub st seq
  rw [h, State.mem_fault, State.ueNoted, State.set_mem, State.set_mem, State.set64_mem, State.stickIrq, State.mem_irq, State.stick_mem]

theorem State.mem_correct (s : State) (sp word : Nat) : (s.correct sp word).mem = { s.mem with ce := s.mem.ce.filter (· != (sp, word)) } := by
  unfold State.correct
  split
  · simp only [State.stick_mem, State.bump_mem]
  · next h =>
    have hkept : s.mem.ce.filter (· != (sp, word)) = s.mem.ce := by
      refine List.filter_eq_self.mpr fun x hx => bne_iff_ne.mpr ?_
      rintro rfl
      exact h (List.contains_iff_mem.mpr hx)
    rw [hkept]

theorem State.correct_corrected (s : State) (sp word : Nat) : s.mem.Corrected (s.correct sp word).mem := by
  rw [State.mem_correct]
  exact Mem.corrected_ce _ (fun _ hx => (List.mem_filter.mp hx).1)

theorem State.not_mem_ce_correct (s : State) (sp word : Nat) : (sp, word) ∉ (s.correct sp word).mem.ce := by
  rw [State.mem_correct]
  simp

/-! ### Scrub (R80, R81) -/

theorem State.scrubWord_corrected (s : State) (sp w : Nat) : s.mem.Corrected (s.scrubWord sp w).mem := by
  unfold State.scrubWord
  split
  · rw [State.mem_logUE]
    exact Mem.Corrected.refl _
  · exact s.correct_corrected sp w

theorem State.not_mem_ce_scrubWord {s : State} {sp w : Nat} (h : (sp, w) ∉ s.mem.ue) : (sp, w) ∉ (s.scrubWord sp w).mem.ce := by
  have hue : s.mem.ue.contains (sp, w) = false := by simpa using h
  simp only [State.scrubWord, hue, Bool.false_eq_true, if_false]
  exact s.not_mem_ce_correct sp w

/-- The scrub of `n` words from word `w`. -/
def State.scrubWords (s : State) (sp w n : Nat) : State := (List.range n).foldl (fun s k => s.scrubWord sp (w + k)) s

theorem State.scrubWords_corrected (s : State) (sp w n : Nat) : s.mem.Corrected (s.scrubWords sp w n).mem :=
  foldl_keeps (P := fun u : State => s.mem.Corrected u.mem) (fun u _ _ h => h.trans (u.scrubWord_corrected _ _)) (Mem.Corrected.refl _)

theorem State.not_mem_ce_scrubWords {s : State} {sp w n k : Nat} (hk : k < n) (h : (sp, w + k) ∉ s.mem.ue) :
    (sp, w + k) ∉ (s.scrubWords sp w n).mem.ce :=
  foldl_establishes_under (I := fun u : State => s.mem.Corrected u.mem) (P := fun u : State => (sp, w + k) ∉ u.mem.ce)
    (List.mem_range.mpr hk) (Mem.Corrected.refl _) (fun u _ _ hu => hu.trans (u.scrubWord_corrected _ _))
    (fun u hu => State.not_mem_ce_scrubWord (by rwa [hu.ue])) (fun u _ _ _ hu hx => hu ((u.scrubWord_corrected _ _).ce hx))

theorem exec_scrubStep (s : State) : exec .scrubStep s = .next
    (if s.on F.MEM_CTRL_SCRUB_EN && s.memAwake && decide (s.get F.PWR_STATUS_STEP < 2) then
      (s.scrubWords (scrubPlace (s.get F.MEM_SCRUB_POS)).1 (scrubPlace (s.get F.MEM_SCRUB_POS)).2 4).set F.MEM_SCRUB_POS
        (if s.get F.MEM_SCRUB_POS + 1 < 0x2040000 then s.get F.MEM_SCRUB_POS + 1 else 0) else s) := rfl

theorem exec_hbmScrubStep (s : State) : exec .hbmScrubStep s = .next
    (if s.on F.MEM_CTRL_HBM_SCRUB_EN && s.memAwake && decide (s.get F.PWR_STATUS_STEP < 2) && s.on F.MEM_STATUS_HBM_READY then
      (s.scrubWords 2 (32 * s.get F.MEM_HBM_SCRUB_POS) 32).set F.MEM_HBM_SCRUB_POS
        (if s.get F.MEM_HBM_SCRUB_POS + 1 < hbmGranules then s.get F.MEM_HBM_SCRUB_POS + 1 else 0) else s) := rfl

theorem State.memAwake_iff (s : State) : s.memAwake = true ↔ s.get F.PWR_STATUS_STATE ≤ 1 := by simp [State.memAwake]

/-! ### The weight cache (R86, R87) -/

theorem bit_putBit (w i : Nat) (b : Bool) : bit (putBit w i b) i = b := by
  rw [bit, putBit, bitsOf_putBits_same]
  cases b <;> rfl

/-- `u` is `s` with other registers, memories and commands. -/
def State.CacheOnly (s u : State) : Prop := u = { s with regs := u.regs, mem := u.mem, cmds := u.cmds }

theorem State.CacheOnly.trans {s u w : State} (h : s.CacheOnly u) (h' : u.CacheOnly w) : s.CacheOnly w := by
  unfold State.CacheOnly at *
  rw [h] at h'
  exact h'

theorem State.RegsOnly.cacheOnly {s u : State} (h : s.RegsOnly u) : s.CacheOnly u := by
  unfold State.RegsOnly at h
  unfold State.CacheOnly
  rw [h]

theorem State.cacheOnly_mem (s : State) (m : Mem) : s.CacheOnly { s with mem := m } := rfl

theorem State.correct_cacheOnly (s : State) (sp w : Nat) : s.CacheOnly (s.correct sp w) := by
  unfold State.correct
  split
  · exact (s.cacheOnly_mem _).trans (((State.set_regsOnly _ _ _)).trans (State.stick_regsOnly _ _)).cacheOnly
  · rfl

/-- The words of the sector that are not uncorrectable are corrected, where its fill is in flight. -/
def State.sectorCorrected (s : State) (line sector : Nat) : State :=
  if s.mem.filling line sector then
    ((sectorWords line sector).filter fun w => !(s.mem.ue.contains (2, w))).foldl (fun s w => s.correct 2 w) s
  else s

theorem State.sectorCorrected_mem (s : State) (line sector : Nat) :
    s.mem.Corrected (s.sectorCorrected line sector).mem ∧ (s.sectorCorrected line sector).mem.wc = s.mem.wc ∧
    (s.sectorCorrected line sector).mem.fills = s.mem.fills := by
  unfold State.sectorCorrected
  split
  · refine foldl_keeps (P := fun u : State => s.mem.Corrected u.mem ∧ u.mem.wc = s.mem.wc ∧ u.mem.fills = s.mem.fills)
      (fun u w _ h => ?_) ⟨Mem.Corrected.refl _, rfl, rfl⟩
    obtain ⟨hcorr, hwc, hfills⟩ := h
    exact ⟨hcorr.trans (u.correct_corrected _ _), by rw [State.mem_correct]; exact hwc, by rw [State.mem_correct]; exact hfills⟩
  · exact ⟨Mem.Corrected.refl _, rfl, rfl⟩

theorem State.not_mem_ce_sectorCorrected {s : State} {line sector w : Nat} (hfill : s.mem.filling line sector = true)
    (hw : w ∈ sectorWords line sector) (hue : (2, w) ∉ s.mem.ue) : (2, w) ∉ (s.sectorCorrected line sector).mem.ce := by
  rw [State.sectorCorrected, if_pos hfill]
  refine foldl_establishes (P := fun u : State => (2, w) ∉ u.mem.ce) (List.mem_filter.mpr ⟨hw, by simpa using hue⟩)
    (fun u => u.not_mem_ce_correct 2 w) (fun u y _ h hx => h ((u.correct_corrected _ _).ce hx)) s

theorem State.sectorCorrected_cacheOnly (s : State) (line sector : Nat) : s.CacheOnly (s.sectorCorrected line sector) := by
  unfold State.sectorCorrected
  split
  · exact foldl_keeps (P := fun u : State => s.CacheOnly u) (fun u w _ h => h.trans (u.correct_cacheOnly _ _)) rfl
  · rfl

/-- The sector is held once its fill ends. -/
def State.wcHolds (s : State) (line sector : Nat) : Bool := s.mem.filling line sector && (s.mem.badWord 2 (sectorWords line sector)).isNone

/-- The lines of the cache, the bytes and the commands once a fill ends. -/
theorem State.wcFill_parts (s : State) (line sector : Nat) :
    (s.wcFill line sector).mem.wc = (s.mem.wc.map fun l => if l.line = line then { l with sectors := putBit l.sectors sector false } else l).map
      (fun l => if s.wcHolds line sector && l.line == line then { l with sectors := putBit l.sectors sector true } else l) ∧
    (s.wcFill line sector).mem.fills = s.mem.fills.filter (fun f => !(f.line == line && f.sector == sector)) ∧
    s.mem.Corrected (s.wcFill line sector).mem ∧
    (s.wcFill line sector).mem.ce = (s.sectorCorrected line sector).mem.ce ∧
    (s.wcFill line sector).cmds = s.cmds.map (fun (c : Cmd) => c.fillDone line sector (s.wcHolds line sector)) ∧
    s.CacheOnly (s.wcFill line sector) := by
  obtain ⟨hcorr, hwc, hfills⟩ := s.sectorCorrected_mem line sector
  have hframe := s.sectorCorrected_cacheOnly line sector
  have hcmds : (s.sectorCorrected line sector).cmds = s.cmds := by
    unfold State.sectorCorrected
    split
    · refine foldl_keeps (P := fun u : State => u.cmds = s.cmds) (fun u w _ h => ?_) rfl
      unfold State.correct
      split
      · rwa [State.stick_cmds, State.bump_cmds]
      · exact h
    · rfl
  have hfill : s.wcFill line sector =
      { s.sectorCorrected line sector with
        mem := { (s.sectorCorrected line sector).mem.wcDrop line sector with
          fills := (s.sectorCorrected line sector).mem.fills.filter fun f => !(f.line == line && f.sector == sector)
          wc := ((s.sectorCorrected line sector).mem.wcDrop line sector).wc.map fun l =>
            if s.wcHolds line sector && l.line == line then { l with sectors := putBit l.sectors sector true } else l }
        cmds := (s.sectorCorrected line sector).cmds.map fun (c : Cmd) => c.fillDone line sector (s.wcHolds line sector) } := rfl
  rw [hfill]
  refine ⟨?_, ?_, ⟨fun sp a => ?_, hcorr.ue, hcorr.ce⟩, rfl, ?_, ?_⟩
  · exact congrArg (fun l => (List.map _ l).map _) hwc
  · exact congrArg (List.filter _) hfills
  · rw [← hcorr.byte sp a]
    unfold Mem.byte Mem.cells
    split <;> rfl
  · exact congrArg (List.map _) hcmds
  · rw [hframe]
    rfl

theorem Cmd.waitFills_fillDone (c : Cmd) (line sector : Nat) (held : Bool) : (c.fillDone line sector held).waitFills ⊆ c.waitFills := by
  unfold Cmd.fillDone
  split
  · exact fun _ hx => (List.mem_filter.mp hx).1
  · exact fun _ hx => hx

theorem Cmd.not_mem_waitFills_fillDone (c : Cmd) (line sector : Nat) (held : Bool) :
    (line, sector) ∉ (c.fillDone line sector held).waitFills := by
  unfold Cmd.fillDone
  split
  · simp
  · next h =>
    simp at h
    exact h

/-- No command waits on the sector. -/
def State.NoWaiter (line sector : Nat) (s : State) : Prop := ∀ c ∈ s.cmds, (line, sector) ∉ c.waitFills

theorem State.noWaiter_wcFill (s : State) (line sector : Nat) : (s.wcFill line sector).NoWaiter line sector := by
  intro c hc
  obtain ⟨-, -, -, -, hcmds, -⟩ := s.wcFill_parts line sector
  rw [hcmds] at hc
  obtain ⟨c', -, rfl⟩ := List.mem_map.mp hc
  exact c'.not_mem_waitFills_fillDone line sector _

theorem State.NoWaiter.wcFill {s : State} {line sector : Nat} (h : s.NoWaiter line sector) (line' sector' : Nat) :
    (s.wcFill line' sector').NoWaiter line sector := by
  intro c hc
  obtain ⟨-, -, -, -, hcmds, -⟩ := s.wcFill_parts line' sector'
  rw [hcmds] at hc
  obtain ⟨c', hc', rfl⟩ := List.mem_map.mp hc
  exact fun hx => h c' hc' (c'.waitFills_fillDone line' sector' _ hx)

/-- The sector of its line once the fill ends: it is held, or shows nothing. -/
theorem State.bit_sectors_wcFill {s : State} {line sector : Nat} {l : WcLine} (hl : l ∈ (s.wcFill line sector).mem.wc) (h : l.line = line) :
    bit l.sectors sector = s.wcHolds line sector := by
  obtain ⟨hwc, -⟩ := s.wcFill_parts line sector
  rw [hwc, List.map_map] at hl
  obtain ⟨x, -, rfl⟩ := List.mem_map.mp hl
  by_cases hx : x.line = line
  · cases s.wcHolds line sector <;> simp [hx, bit_putBit]
  · exact absurd (by simpa only [Function.comp, if_neg hx, decide_eq_false hx, Bool.and_false, beq_eq_false_iff_ne.mpr hx, Bool.false_eq_true, if_false] using h) hx

/-- The state in which every fill in flight has landed. -/
def State.fillsLanded (s : State) : State := s.mem.fills.foldl (fun s f => s.wcFill f.line f.sector) s

theorem State.fillsLanded_noWaiter {s : State} {f : Fill} (hf : f ∈ s.mem.fills) : s.fillsLanded.NoWaiter f.line f.sector :=
  foldl_establishes hf (fun u => u.noWaiter_wcFill f.line f.sector) (fun _ y _ h => h.wcFill y.line y.sector) s

theorem State.fillsLanded_frame (s : State) : s.mem.Corrected s.fillsLanded.mem ∧ s.CacheOnly s.fillsLanded := by
  refine foldl_keeps (P := fun u : State => s.mem.Corrected u.mem ∧ s.CacheOnly u) (fun u f _ h => ?_) ⟨Mem.Corrected.refl _, rfl⟩
  obtain ⟨-, -, hcorr, -, -, hcache⟩ := u.wcFill_parts f.line f.sector
  exact ⟨h.1.trans hcorr, h.2.trans hcache⟩

theorem exec_wcResizeComplete_of_resize {s : State} {v : Nat} (h : s.mem.resize = some v) : exec .wcResizeComplete s =
    .next ((State.set { s.fillsLanded with mem := { s.fillsLanded.mem with wc := [], fills := [], wcBad := [], resize := none } }
      F.MEM_WC_SIZE v).set F.MEM_STATUS_WC_RESIZE_BUSY 0) := by
  have hexec : exec .wcResizeComplete s = .next s.wcResizeEnd := rfl
  rw [hexec, State.wcResizeEnd, h]
  rfl

/-! ### Register writes of the cache and of facets (R86, R89, R95, R97) -/

theorem exec_wcResize {s : State} (hopen : s.blockOpen = true) (v : Fin 8) : exec (.wcResize v) s = .next (s.wcResize v.val) :=
  congrArg _ (if_pos hopen)

theorem exec_wcPinEnable {s : State} (hopen : s.blockOpen = true) (k : Fin 4) (w : Word) :
    exec (.wcPinEnable k w) s = .next (s.wcPinWrite k.val w.toNat) :=
  congrArg _ (if_pos hopen)

theorem exec_facetRegisterWrite {s : State} (hopen : s.blockOpen = true) (t : Tenant) (k : Fin 4) (w : Word) :
    exec (.facetRegisterWrite t k w) s = .next (s.facetWrite t.val k.val w.toNat) :=
  congrArg _ (if_pos hopen)

/-- The next place of a cursor that wraps lies below its bound. -/
theorem wrapped_lt {p n : Nat} (hn : 0 < n) : (if p + 1 < n then p + 1 else 0) < n := by
  split <;> omega

/-- The four fields of a facet's word. -/
theorem State.facetWrite_fields {s : State} {t k w : Nat} (h : facetParamsOk (bitsOf w 0 4) (bitsOf w 8 3) (bitsOf w 16 5) = true) (u : State)
    (hu : u = s.facetWrite t k w) : u.get (F.MEM_FACET_A t k) = bitsOf w 0 4 ∧ u.get (F.MEM_FACET_W t k) = bitsOf w 8 3 ∧
    u.get (F.MEM_FACET_Y t k) = bitsOf w 16 5 ∧ u.get (F.MEM_FACET_VALID t k) = bitsOf w 31 1 ∧
    (∀ b, b ≠ (F.MEM_FACET_A t k).addr → u.rd b = s.rd b) ∧ s.RegsOnly u := by
  rw [State.facetWrite, if_pos h] at hu
  have hword (f g : Fld) (hf : f.lo + f.n ≤ 32) (happ : g.lo + g.n ≤ f.lo ∨ f.lo + f.n ≤ g.lo) (x : State) (v : Nat) :
      (x.set f v).get g = x.get g := State.get_set_apart hf (.inr happ)
  have hv := hword (F.MEM_FACET_VALID t k) (hf := by simp [F.MEM_FACET_VALID])
  have hy := hword (F.MEM_FACET_Y t k) (hf := by simp [F.MEM_FACET_Y])
  have hw := hword (F.MEM_FACET_W t k) (hf := by simp [F.MEM_FACET_W])
  subst hu
  refine ⟨?_, ?_, ?_, ?_, fun b hb => ?_, ?_⟩
  · rw [hv (F.MEM_FACET_A t k) (by simp [F.MEM_FACET_VALID, F.MEM_FACET_A]), hy (F.MEM_FACET_A t k) (by simp [F.MEM_FACET_Y, F.MEM_FACET_A]),
      hw (F.MEM_FACET_A t k) (by simp [F.MEM_FACET_W, F.MEM_FACET_A]), State.get_set_same _ _ _ (by simp [Fld.inWord, F.MEM_FACET_A]), bitsOf,
      Nat.pow_zero, Nat.div_one]
    rfl
  · rw [hv (F.MEM_FACET_W t k) (by simp [F.MEM_FACET_VALID, F.MEM_FACET_W]), hy (F.MEM_FACET_W t k) (by simp [F.MEM_FACET_Y, F.MEM_FACET_W]),
      State.get_set_same _ _ _ (by simp [Fld.inWord, F.MEM_FACET_W])]
    rfl
  · rw [hv (F.MEM_FACET_Y t k) (by simp [F.MEM_FACET_VALID, F.MEM_FACET_Y]), State.get_set_same _ _ _ (by simp [Fld.inWord, F.MEM_FACET_Y])]
    rfl
  · rw [State.get_set_same _ _ _ (by simp [Fld.inWord, F.MEM_FACET_VALID])]
    rfl
  · rw [State.rd_set_other _ (F.MEM_FACET_VALID t k) _ _ hb, State.rd_set_other _ (F.MEM_FACET_Y t k) _ _ hb,
      State.rd_set_other _ (F.MEM_FACET_W t k) _ _ hb, State.rd_set_other _ (F.MEM_FACET_A t k) _ _ hb]
  · exact (((s.set_regsOnly _ _).trans (State.set_regsOnly _ _ _)).trans (State.set_regsOnly _ _ _)).trans (State.set_regsOnly _ _ _)

/-- Settles O15: what scrubs and fills do to a word is a correction (`Mem.Corrected`). -/
theorem memoriesAreScrubbedAndCached : Obligations.MemoriesAreScrubbedAndCached := by
  unfold Obligations.MemoriesAreScrubbedAndCached
  refine ⟨fun s => ⟨fun h => ?_, fun h => ?_⟩, fun s hawake hstep => ⟨fun hen => ?_, fun hen hready => ?_⟩,
    fun s => ⟨fun h => ?_, fun h => ?_, fun h => ?_, fun v h => ?_, fun line sector h => ?_⟩,
    fun s hopen => ⟨fun v hv hcollides hpins => ?_, fun v h => ?_, fun k w => ⟨_, rfl, fun h => ?_, fun hon hpins => ?_⟩⟩,
    fun s hshut => ⟨fun v => ?_, fun k w => ?_, fun t k w => ?_⟩, fun s t k w hopen => ⟨fun h => ?_, fun h => ?_⟩⟩
  · rw [exec_scrubStep, if_neg]
    simp only [Bool.and_eq_true, decide_eq_true_eq, State.memAwake_iff]
    rintro ⟨⟨h1, h2⟩, h3⟩
    obtain h | h | h := h
    · simp [h] at h1
    · omega
    · omega
  · rw [exec_hbmScrubStep, if_neg]
    simp only [Bool.and_eq_true, decide_eq_true_eq, State.memAwake_iff]
    rintro ⟨⟨⟨h1, h2⟩, h3⟩, h4⟩
    obtain h | h | h | h := h
    · simp [h] at h1
    · simp [h] at h4
    · omega
    · omega
  · rw [exec_scrubStep, if_pos (by simp [hen, s.memAwake_iff.mpr hawake, hstep])]
    refine ⟨_, rfl, ?_, fun sp a => ?_, fun k hk hue => ?_⟩
    · rw [State.get_set_same _ _ _ (by unfold Fld.inWord; decide)]
      exact Nat.mod_eq_of_lt (Nat.lt_of_le_of_lt (Nat.le_sub_one_of_lt (wrapped_lt (by decide))) (by decide))
    · rw [State.set_mem]
      exact (s.scrubWords_corrected _ _ _).byte sp a
    · rw [State.set_mem]
      exact State.not_mem_ce_scrubWords hk hue
  · rw [exec_hbmScrubStep, if_pos (by simp [hen, hready, s.memAwake_iff.mpr hawake, hstep])]
    have hgranules : hbmGranules = 603979776 := rfl
    rw [hgranules]
    refine ⟨_, rfl, ?_, fun sp a => ?_, fun k hk hue => ?_⟩
    · rw [State.get_set_same _ _ _ (by unfold Fld.inWord; decide)]
      exact Nat.mod_eq_of_lt (Nat.lt_of_le_of_lt (Nat.le_sub_one_of_lt (wrapped_lt (by decide))) (by decide))
    · rw [State.set_mem]
      exact (s.scrubWords_corrected _ _ _).byte sp a
    · rw [State.set_mem]
      exact State.not_mem_ce_scrubWords hk hue
  · exact congrArg _ (if_pos (s.memAwake_iff.mpr h))
  · exact congrArg _ (if_neg (fun hawake => by have := s.memAwake_iff.mp hawake; omega))
  · have hexec : exec .wcResizeComplete s = .next s.wcResizeEnd := rfl
    rw [hexec, State.wcResizeEnd, h]
  · rw [exec_wcResizeComplete_of_resize h]
    obtain ⟨hcorr, hframe⟩ := s.fillsLanded_frame
    refine ⟨_, rfl, ?_, ?_, ?_, ?_, ?_, fun f hf c hc => ?_, fun sp a => ?_, ?_⟩
    · rw [State.set_mem, State.set_mem]
    · rw [State.set_mem, State.set_mem]
    · rw [State.set_mem, State.set_mem]
    · rw [State.get_set_apart (by decide) (by decide), State.get_set_same _ _ _ (by unfold Fld.inWord; decide)]
      rfl
    · rw [State.get_set_same _ _ _ (by unfold Fld.inWord; decide)]
      rfl
    · rw [State.set_cmds, State.set_cmds] at hc
      exact State.fillsLanded_noWaiter hf c hc
    · rw [State.set_mem, State.set_mem, ← hcorr.byte sp a]
      unfold Mem.byte Mem.cells
      split <;> rfl
    · exact (hframe.trans (State.cacheOnly_mem _ _)).trans ((State.set_regsOnly _ _ _).trans (State.set_regsOnly _ _ _)).cacheOnly
  · obtain ⟨-, hfills, hcorr, hce, hcmds, hcache⟩ := s.wcFill_parts line sector.val
    refine ⟨_, rfl, ?_, fun hgood l hl hline => ?_, fun hbad l hl hline => ?_, fun w hw hue => ?_, s.noWaiter_wcFill line sector.val, hcorr.byte,
      hcache⟩
    · rw [Mem.filling, hfills, List.any_eq_false]
      intro x hx
      exact Bool.not_eq_true _ ▸ Bool.not_eq_true' _ ▸ (List.mem_filter.mp hx).2
    · rw [State.bit_sectors_wcFill hl hline, State.wcHolds, h, hgood]
      rfl
    · rw [State.bit_sectors_wcFill hl hline, State.wcHolds, h, Option.isNone_eq_false_iff.mpr hbad]
      rfl
    · rw [hce]
      exact State.not_mem_ce_sectorCorrected h hw hue
  · rw [exec_wcResize hopen, State.wcResize, if_neg]
    simp only [hcollides, Bool.or_false, Bool.or_eq_true, decide_eq_true_eq]
    omega
  · rw [exec_wcResize hopen, State.wcResize, if_pos]
    simp only [Bool.or_eq_true, decide_eq_true_eq, or_assoc]
    exact h
  · rw [exec_wcPinEnable hopen]
    refine congrArg _ (if_neg ?_)
    simp only [Bool.and_eq_true, decide_eq_true_eq, Classical.not_and_iff_not_or_not, Bool.not_eq_true, Nat.not_lt]
    exact h
  · rw [exec_wcPinEnable hopen]
    refine congrArg _ (if_pos ?_)
    simp only [Bool.and_eq_true, decide_eq_true_eq]
    exact ⟨hon, hpins⟩
  · exact congrArg _ (if_neg (by simp [hshut]))
  · exact congrArg _ (if_neg (by simp [hshut]))
  · exact congrArg _ (if_neg (by simp [hshut]))
  · rw [exec_facetRegisterWrite hopen, State.facetWrite, h, if_neg Bool.false_ne_true]
  · exact ⟨_, exec_facetRegisterWrite hopen t k w, State.facetWrite_fields h _ rfl⟩

end Sys2Proof.Machine
end


section

/-! The fault log, and the windows of the host, of peers, of accelerators and of the firewall. -/

namespace Sys2Proof.Machine

/-! ### The fault log (R524, R526) -/

theorem ofLE_leBytes_two {v : Nat} (hv : v ≤ 0xFFFF) : ofLE (leBytes 2 v) = v := by
  simp only [leBytes, ofLE, BitVec.toNat_ofNat]
  omega

/-- A folded record: the two bytes of its count are replaced. -/
theorem leAt_folded {old : List Byte} (h : 16 ≤ old.length) {v : Nat} (hv : v ≤ 0xFFFF) :
    leAt (old.take 14 ++ leBytes 2 v ++ old.drop 16) 14 2 = v := by
  have hlen : (old.take 14).length = 14 := List.length_take_of_le (by omega)
  rw [leAt, List.append_assoc, List.drop_append_of_le_length (by omega), List.drop_of_length_le (by omega), List.nil_append,
    List.take_append_of_le_length (Nat.le_of_eq (length_leBytes 2 v).symm), List.take_of_length_le (Nat.le_of_eq (length_leBytes 2 v)), ofLE_leBytes_two hv]

theorem getD_folded {old : List Byte} (h : 16 ≤ old.length) (v : Nat) {k : Nat} (h14 : k ≠ 14) (h15 : k ≠ 15) :
    (old.take 14 ++ leBytes 2 v ++ old.drop 16).getD k 0 = old.getD k 0 := by
  have hlen : (old.take 14).length = 14 := List.length_take_of_le (by omega)
  rw [List.getD_eq_getElem?_getD, List.getD_eq_getElem?_getD, List.append_assoc]
  congr 1
  rcases Nat.lt_or_ge k 14 with hk | hk
  · rw [List.getElem?_append_left (by omega), List.getElem?_take_of_lt hk]
  · rw [List.getElem?_append_right (by omega), List.getElem?_append_right (by rw [length_leBytes]; omega), List.getElem?_drop, length_leBytes, hlen]
    congr 1
    omega

/-- Whether a fault folds into the newest record of the log (R526). -/
def State.faultFolds (s : State) (cause unit : Nat) (old : List Byte) : Bool :=
  decide (0 < s.get F.GLB_FLOG_TAIL) && !old.isEmpty && leAt old 9 1 == cause && leAt old 10 1 == unit
    && decide (s.cad.time < leAt old 0 8 + 1000000)

theorem State.faultFolds_iff {s : State} {cause unit : Nat} {old : List Byte} : s.faultFolds cause unit old = true ↔
    0 < s.get F.GLB_FLOG_TAIL ∧ old ≠ [] ∧ leAt old 9 1 = cause ∧ leAt old 10 1 = unit ∧ s.cad.time < leAt old 0 8 + 1000000 := by
  simp [State.faultFolds, and_assoc]

/-- The log before a new record is put into it: a full ring is noted. -/
def State.flogFull (s : State) : State :=
  if 1024 ≤ (s.get F.GLB_FLOG_TAIL + 2 ^ 32 - s.get F.GLB_FLOG_HEAD) % 2 ^ 32 then s.stick F.GLB_FLOGOVF_FLOGOVF else s

/-- The log with a new record at its tail. -/
def State.flogAppend (s : State) (r : List Byte) : State :=
  State.set { s.flogFull with errs := { s.flogFull.errs with flog := kvIns (s.get F.GLB_FLOG_TAIL % 1024) r s.flogFull.errs.flog } } F.GLB_FLOG_TAIL
    ((s.get F.GLB_FLOG_TAIL + 1) % 2 ^ 32)

theorem State.flogFull_errs (s : State) : s.flogFull.errs = s.errs := by
  unfold State.flogFull
  split <;> rfl

theorem State.flogFull_regsOnly (s : State) : s.RegsOnly s.flogFull := by
  unfold State.flogFull
  split
  · exact s.stick_regsOnly _
  · rfl

section
variable (s : State) {cls cause unit status iid da seq trig : Nat} {det old : List Byte}

theorem State.fault_of_not_folds
    (h : s.faultFolds cause unit ((kvFind s.errs.flog ((s.get F.GLB_FLOG_TAIL + 1023) % 1024)).getD []) = false) :
    s.fault cls cause unit status iid da seq trig det =
      (s.flogAppend (leBytes 8 s.cad.time ++ leBytes 1 cls ++ leBytes 1 cause ++ leBytes 1 unit ++ leBytes 1 status ++ leBytes 2 iid ++
        leBytes 2 1 ++ leBytes 8 da ++ leBytes 4 seq ++ leBytes 4 trig ++ slice det 0 32)).irq 8 := by
  unfold State.faultFolds at h
  rw [State.fault, if_neg (Bool.eq_false_iff.mp h)]
  rfl

theorem State.fault_of_folds
    (h : s.faultFolds cause unit ((kvFind s.errs.flog ((s.get F.GLB_FLOG_TAIL + 1023) % 1024)).getD []) = true) :
    s.fault cls cause unit status iid da seq trig det = { s with errs := { s.errs with
      flog := kvIns ((s.get F.GLB_FLOG_TAIL + 1023) % 1024)
        (((kvFind s.errs.flog ((s.get F.GLB_FLOG_TAIL + 1023) % 1024)).getD []).take 14 ++
          leBytes 2 (satAdd 0xFFFF (leAt ((kvFind s.errs.flog ((s.get F.GLB_FLOG_TAIL + 1023) % 1024)).getD []) 14 2) 1) ++
          ((kvFind s.errs.flog ((s.get F.GLB_FLOG_TAIL + 1023) % 1024)).getD []).drop 16) s.errs.flog } } :=
  if_pos h

end

/-- Settles O54: a fault folds into the newest record or is appended after it. -/
theorem faultLogAppendsOrFolds : Obligations.FaultLogAppendsOrFolds := by
  unfold Obligations.FaultLogAppendsOrFolds
  rintro s cls cause unit status iid da seq trig det tail old rfl rfl
  refine ⟨fun h => ⟨_, s.fault_of_not_folds (Bool.eq_false_iff.mpr fun hfolds => ?_), ?_, ?_, fun k hk => ?_, fun hroom => ?_, fun hfull => ?_⟩,
    fun h0 hold hcause hunit htime => ⟨_, s.fault_of_folds (State.faultFolds_iff.mpr ⟨h0, hold, hcause, hunit, htime⟩), rfl, fun k hk => ?_,
      fun hlen => ⟨_, kvFind_kvIns_same _ _ _, ?_, fun k h14 h15 => getD_folded hlen _ h14 h15⟩⟩⟩
  · obtain ⟨h0, hold, hcause, hunit, htime⟩ := State.faultFolds_iff.mp hfolds
    obtain h | h | h | h | h := h
    · omega
    · exact hold h
    · exact h hcause
    · exact h hunit
    · omega
  · rw [State.flogAppend, State.get_set_same _ _ _ (by unfold Fld.inWord; decide)]
    exact Nat.mod_eq_of_lt (Nat.mod_lt _ (Nat.two_pow_pos 32))
  · exact kvFind_kvIns_same _ _ _
  · rw [State.flogAppend, State.set_errs]
    exact (kvFind_kvIns_other _ _ _ _ hk).trans (by rw [State.flogFull_errs])
  · rw [State.flogAppend, State.flogFull, if_neg (Nat.not_le.mpr hroom)]
    rfl
  · rw [State.flogAppend, State.get_set_apart (by decide) (by decide), State.flogFull, if_pos hfull]
    exact s.get_stick_same F.GLB_FLOGOVF_FLOGOVF (by decide) rfl
  · exact kvFind_kvIns_other _ _ _ _ hk
  · rw [satAdd_eq_min]
    exact leAt_folded hlen (Nat.min_le_left _ _)

/-! ### Host windows, apertures and firewall regions (R392, R394, R395, R403, R409) -/

theorem State.pageOpen_eq_false {s : State} {t : Nat} (h : s.ctxBusy t = true ∨ s.boot.phase = .restart) : s.pageOpen t = false := by
  unfold State.pageOpen State.blockOpen
  obtain h | h := h <;> simp [h]

theorem State.blockOpen_eq_false {s : State} (h : s.boot.phase = .restart) : s.blockOpen = false := by
  simp [State.blockOpen, h]

section
variable {s : State}

theorem exec_hostWindowWrite {t : Tenant} (hopen : s.pageOpen t.val = true) (k : Fin 16) (j : Fin 5) (v : Word) :
    exec (.hostWindowWrite t k j v) s = .next
      (if ((j.val == 3 && v.toNat % 4096 != 0) || (j.val == 2 && v.toNat == 0) ||
          !((s.putRw ((F.TP_HWIN_VALID t.val k.val).addr + 4 * j.val) v.toNat).hwinOk t.val k.val)) = true
        then s.stick (F.TP_CFG_CFG t.val) else s.putRw ((F.TP_HWIN_VALID t.val k.val).addr + 4 * j.val) v.toNat) := by
  have hbusy : ¬ s.ctxBusy t.val = true := fun h => by simp [State.pageOpen_eq_false (.inl h)] at hopen
  have hexec : exec (.hostWindowWrite t k j v) s = .next (if s.pageOpen t.val then s.hwinWrite t.val k.val j.val v.toNat else s) := rfl
  rw [hexec, if_pos hopen, State.hwinWrite, if_neg hbusy]

theorem exec_p2pWindowWrite (hopen : s.blockOpen = true) (w : Fin 64) (j : Fin 5) (v : Word) :
    exec (.p2pWindowWrite w j v) s = .next
      (if ((j.val == 3 && v.toNat % 4096 != 0) || (j.val == 2 && v.toNat == 0) || (j.val == 0 && decide (3 < bitsOf v.toNat 5 3)) ||
          !((s.putRw ((F.TEN_P2P_VALID w.val).addr + 4 * j.val) v.toNat).p2pOk w.val)) = true
        then s.stick F.TEN_CFG_CFG else s.putRw ((F.TEN_P2P_VALID w.val).addr + 4 * j.val) v.toNat) :=
  congrArg _ (if_pos hopen)

theorem exec_apertureWrite (hopen : s.blockOpen = true) (i : Fin 64) (l : Fin 7) (v : Word) :
    exec (.apertureWrite i l v) s = .next (s.apinWrite i.val l.val v.toNat) :=
  congrArg _ (if_pos hopen)

theorem State.apinWrite_eq (s : State) (i j v : Nat) : s.apinWrite i j v =
    if (s.putRw ((F.TEN_APIN_VALID i).addr + 4 * j) v).apinOk i = false ∨ (j = 0 ∧ 3 < bitsOf v 4 3) ∨ ((j = 1 ∨ j = 4) ∧ v % 4096 ≠ 0) ∨
        (j = 5 ∧ ((daSpace (v * 2 ^ 32) ≠ 1 ∧ daSpace (v * 2 ^ 32) ≠ 2) ∨ s.isLocal (daChip (v * 2 ^ 32)) = false)) then
      s.stick F.TEN_CFG_CFG
    else s.putRw ((F.TEN_APIN_VALID i).addr + 4 * j) v := by
  generalize hu : s.putRw ((F.TEN_APIN_VALID i).addr + 4 * j) v = u
  unfold State.apinWrite
  rw [hu]
  refine ite_of_iff ?_ rfl rfl
  split
  · simp [or_comm]
  · simp [or_comm]
  · simp [or_comm]
  · simp [or_comm]
  · next h0 h1 h4 h5 =>
    have h0 : j ≠ 0 := h0
    have h1 : j ≠ 1 := h1
    have h4 : j ≠ 4 := h4
    have h5 : j ≠ 5 := h5
    simp [h0, h1, h4, h5]

theorem exec_brdRegionWrite (hopen : s.blockOpen = true) (f : Fin 3) (r : Fin 256) (j : Fin 4) (v : Word) :
    exec (.brdRegionWrite f r j v) s = .next (s.brdWrite f.val r.val j.val v.toNat) :=
  congrArg _ (if_pos hopen)

end

/-- Settles O43: each write is taken whole, or sets the block's CFG. -/
theorem windowsStaySizedAndApart : Obligations.WindowsStaySizedAndApart := by
  unfold Obligations.WindowsStaySizedAndApart
  intro s t k j w i l f r b v
  refine ⟨?_, ?_, ?_, ?_⟩
  · rintro u rfl
    refine ⟨fun hopen hok h3 h2 => ?_, fun hopen hbad => ?_, fun hshut => congrArg _ (if_neg (by simp [State.pageOpen_eq_false hshut]))⟩
    · rw [exec_hostWindowWrite hopen, if_neg]
      simp only [Bool.or_eq_true, Bool.and_eq_true, beq_iff_eq, bne_iff_ne, hok, Bool.not_true, Bool.false_eq_true, or_false]
      rintro (⟨hj, hv⟩ | ⟨hj, hv⟩)
      · exact hv (h3 hj)
      · exact h2 hj hv
    · rw [exec_hostWindowWrite hopen, if_pos]
      simpa [or_comm, or_assoc, or_left_comm] using hbad
  · rintro u rfl
    refine ⟨fun hopen hok h3 h2 h0 => ?_, fun hopen hbad => ?_, fun hshut => congrArg _ (if_neg (by simp [State.blockOpen_eq_false hshut]))⟩
    · rw [exec_p2pWindowWrite hopen, if_neg]
      simp only [Bool.or_eq_true, Bool.and_eq_true, beq_iff_eq, bne_iff_ne, decide_eq_true_eq, hok, Bool.not_true, Bool.false_eq_true, or_false]
      rintro ((⟨hj, hv⟩ | ⟨hj, hv⟩) | ⟨hj, hv⟩)
      · exact hv (h3 hj)
      · exact h2 hj hv
      · exact Nat.not_lt.mpr (h0 hj) hv
    · rw [exec_p2pWindowWrite hopen, if_pos]
      simpa [or_comm, or_assoc, or_left_comm] using hbad
  · rintro u sp rfl rfl
    refine ⟨fun hopen hok h0 h14 h5 => ?_, fun hopen hbad => ?_, fun hshut => congrArg _ (if_neg (by simp [State.blockOpen_eq_false hshut]))⟩
    · rw [exec_apertureWrite hopen, State.apinWrite_eq, if_neg]
      rintro (h | ⟨hl, hv⟩ | ⟨hl, hv⟩ | ⟨hl, hv⟩)
      · exact Bool.false_ne_true (h.symm.trans hok)
      · exact Nat.not_lt.mpr (h0 hl) hv
      · exact hv (h14 hl)
      · obtain ⟨hsp, hloc⟩ := h5 hl
        obtain ⟨h1, h2⟩ | hv := hv
        · exact hsp.elim h1 h2
        · exact Bool.false_ne_true (hv.symm.trans hloc)
    · rw [exec_apertureWrite hopen, State.apinWrite_eq, if_pos hbad]
  · rintro u rfl
    refine ⟨fun hopen hv hlt => ?_, fun hopen hok => ?_, fun hshut => congrArg _ (if_neg (by simp [State.blockOpen_eq_false hshut]))⟩
    · rw [exec_brdRegionWrite hopen, State.brdWrite, if_pos]
      simp only [hv, hlt, decide_true, Bool.and_self]
    · rw [exec_brdRegionWrite hopen, State.brdWrite, if_neg]
      obtain h | h := hok
      · simp only [Nat.not_lt.mpr h, decide_false, Bool.and_false, Bool.false_eq_true, not_false_eq_true]
      · simp only [h, Bool.false_and, Bool.false_eq_true, not_false_eq_true]

end Sys2Proof.Machine
end


section

/-! Losses of clocks and rails, resets and boots, and the confirmation of a firmware slot. -/

namespace Sys2Proof.Machine

/-! ### Clocks and rails (R535, R539) -/

theorem exec_tcxoLoss_of_lost {s : State} (h : s.boot.tcxoLost = true) : exec .tcxoLoss s = .next s := congrArg _ (if_pos h)

/-- The registers of a first loss of the TCXO. -/
def State.tcxoNoted (s : State) : State := ((s.stickIrq F.CAD_SRC_SRC 15).set F.CAD_HOLD_ERR 0xFFFFFFFF).set F.CAD_STATUS_HOLD_IN_SPEC 0

theorem State.irq_boot (s : State) (vec : Nat) : (s.irq vec).boot = s.boot := by
  unfold State.irq State.msix
  dsimp only
  (repeat' split) <;> rfl

theorem State.irq_cmds (s : State) (vec : Nat) : (s.irq vec).cmds = s.cmds := by
  unfold State.irq State.msix
  dsimp only
  (repeat' split) <;> rfl

theorem State.get_irq (s : State) (vec : Nat) (f : Fld) : (s.irq vec).get f = s.get f :=
  State.get_of_regs (s.irq_frame vec).2.1 f

theorem exec_tcxoLoss_of_kept {s : State} (h : s.boot.tcxoLost = false) :
    exec .tcxoLoss s = .next (State.tcxoNoted { s with boot := { s.boot with tcxoLost := true } }) :=
  congrArg _ (if_neg (by simp [h]))

theorem exec_tcxoReturn_of_lost {s : State} (h : s.boot.tcxoLost = true) : exec .tcxoReturn s = .next
    (if s.get F.CAD_STATUS_SOURCE = 6 then { s with boot := { s.boot with tcxoLost := false } }
      else State.holdRefresh (State.set { s with boot := { s.boot with tcxoLost := false } } F.CAD_HOLD_ERR 0)) := by
  have hexec : exec .tcxoReturn s = .next s.tcxoReturn := rfl
  have hsrc : State.get { s with boot := { s.boot with tcxoLost := false } } F.CAD_STATUS_SOURCE = s.get F.CAD_STATUS_SOURCE :=
    State.get_of_regs rfl _
  rw [hexec, State.tcxoReturn, if_neg (by simp [h])]
  dsimp only
  rw [hsrc]
  split
  · next h6 => rw [if_pos h6]
  · next h6 => rw [if_neg h6]

theorem exec_sysclkLoss (s : State) : exec .sysclkLoss s = .next ((((List.range 12).foldl (fun (s : State) n =>
    if s.portState n = 0 ∨ s.portState n = 8 then s else s.portLost n 8 0)
      (State.restart { s with boot := { s.boot with sysLost := true } } 6 0x31 0xFF 0 0 [])).ethLink 0 false).ethLink 1 false) := by
  have hexec : exec .sysclkLoss s = .next s.sysLoss := rfl
  have hstep : (fun (s : State) n => if (s.portState n = 0 || s.portState n = 8) = true then s else s.portLost n 8 0) =
      fun (s : State) n => if s.portState n = 0 ∨ s.portState n = 8 then s else s.portLost n 8 0 := by
    funext s n
    simp only [Bool.or_eq_true, decide_eq_true_eq]
  rw [hexec, State.sysLoss, hstep]

theorem exec_vddLpeReturn (s : State) : exec .vddLpeReturn s = .next
    (if s.lpe.unpowered = true ∧ s.get F.PWR_STATUS_STATE < 4 then State.loupeRestart { s with lpe := { s.lpe with unpowered := false } } false
      else s) := by
  have hexec : exec .vddLpeReturn s = .next s.lpeRailBack := rfl
  rw [hexec, State.lpeRailBack]
  simp only [Bool.and_eq_true, decide_eq_true_eq]

/-- The registers of the last words read 0 at reset. -/
theorem resetWord_lastWords {k : Nat} (hk : k < 16) : resetWord (0x100 + 4 * k) = 0 := by
  have h : ∀ k : Fin 16, resetWord (0x100 + 4 * k.val) = 0 := by decide
  exact h ⟨k, hk⟩

theorem spGet_of_notMem {α : Type} {d : Nat → α} {l : List (Nat × α)} {k : Nat} (h : ∀ p ∈ l, k ≠ p.1) : spGet d l k = d k := by
  induction l with
  | nil => rfl
  | cons p t ih => rw [spGet_cons, if_neg (h p List.mem_cons_self), ih fun q hq => h q (List.mem_cons_of_mem _ hq)]

/-- Settles O59. -/
theorem clocksAndRailsFail : Obligations.ClocksAndRailsFail := by
  unfold Obligations.ClocksAndRailsFail
  refine fun s => ⟨exec_tcxoLoss_of_lost, fun h => ⟨_, exec_tcxoLoss_of_kept h, ?_, ?_, ?_, ?_, ?_, ?_⟩, fun h => congrArg _ (if_pos (by simp [h])),
    fun h h6 => ?_, fun h h6 => ?_, fun r hr => ?_, rfl, rfl, rfl, fun h hst => ?_, fun h => ?_, _, rfl, fun k hk => ?_, rfl, rfl⟩
  · rw [State.tcxoNoted, State.set_boot, State.set_boot, State.stickIrq, State.irq_boot]
    rfl
  · rw [State.tcxoNoted, State.on_set_apart (by decide) (by decide), State.on_set_apart (by decide) (by decide), State.on, State.stickIrq, State.get_irq,
      State.get_stick_same _ _ (by decide) rfl]
    rfl
  · rw [State.tcxoNoted, State.get_set_apart (by decide) (by decide), State.get_set_same _ _ _ (by unfold Fld.inWord; decide)]
    rfl
  · rw [State.tcxoNoted, State.get_set_same _ _ _ (by unfold Fld.inWord; decide)]
    rfl
  · rw [State.tcxoNoted, State.set_cmds, State.set_cmds, State.stickIrq, State.irq_cmds]
    rfl
  · rw [State.tcxoNoted, State.set_mem, State.set_mem, State.stickIrq, (State.irq_frame _ _).1]
    rfl
  · rw [exec_tcxoReturn_of_lost h, if_neg h6]
  · rw [exec_tcxoReturn_of_lost h, if_pos h6]
  · rw [exec_sysclkLoss, hr]
  · rw [exec_vddLpeReturn, if_pos ⟨h, hst⟩]
  · rw [exec_vddLpeReturn, if_neg (by rintro ⟨hu, hst⟩; simp [hu] at h; omega)]
  · rw [State.rd, spGet_of_notMem (fun p hp => ?_), resetWord_lastWords hk]
    · rfl
    · intro hp1
      have hout := (List.mem_filter.mp hp).2
      simp only [Bool.not_eq_true', Bool.and_eq_false_iff, decide_eq_false_iff_not] at hout
      omega

/-! ### Boots (R486 to R489) -/

theorem State.coldBase_kept (s : State) : s.coldBase.boot.phase = .off ∧ s.coldBase.boot.flash = s.boot.flash ∧ s.coldBase.boot.rec0 = s.boot.rec0 ∧
    s.coldBase.boot.rec1 = s.boot.rec1 ∧ s.coldBase.sec.slots = s.sec.slots ∧ s.coldBase.sec.creds = s.sec.creds ∧
    s.coldBase.sec.siteHash = s.sec.siteHash ∧ s.coldBase.sec.dbgHash = s.sec.dbgHash ∧ s.coldBase.sec.revoke = s.sec.revoke ∧
    s.coldBase.sec.udsKill = s.sec.udsKill ∧ s.coldBase.cad.stored = s.cad.stored ∧ s.coldBase.cmds = [] ∧ s.coldBase.mem.sram = [] ∧
    s.coldBase.wins = [] ∧ s.coldBase.ext = s.ext ∧ s.coldBase.outbox = s.outbox ∧ s.coldBase.fresh = s.fresh :=
  ⟨rfl, rfl, rfl, rfl, rfl, rfl, rfl, rfl, rfl, rfl, rfl, rfl, rfl, rfl, rfl, rfl, rfl⟩

theorem exec_porNAssert (s : State) : exec .porNAssert s = .next { s.coldBase with boot := { s.coldBase.boot with porLow := true } } := rfl

theorem exec_coldBoot (s : State) (good : Bool) : exec (.coldBoot good false) s = .next (State.bootStages (State.newChal (State.timeBoot
    { s.coldBase with boot := { s.coldBase.boot with porLow := false } })) 0 2 good) :=
  rfl

/-- HBM is ready after a cold boot that found a CF. -/
def State.hbmBooted (s : State) : State :=
  if s.get F.FW_STATUS_BOOT_KIND = 0 && !(s.get F.FW_STATUS_PAIRING == 2) then s.set F.MEM_STATUS_HBM_READY 1 else s

theorem State.hbmBooted_regsOnly (s : State) : s.RegsOnly s.hbmBooted := by
  unfold State.hbmBooted
  split
  · exact s.set_regsOnly _ _
  · rfl

/-- The phase that command-ready enters, and the Loupe's start. -/
def State.phaseReady (s : State) : State :=
  { s with
    boot := { s.boot with phase := if s.get F.FW_STATUS_PAIRING == 2 then .recovery else .run, confirmFrom := s.cad.time }
    lpe := { s.lpe with down := none } }

/-- Command-ready before the election of a master. -/
def State.readyNoted (s : State) : State :=
  (s.phaseReady.hbmBooted.set F.FW_STATUS_CMD_READY 1).set F.FW_BOOT_MS (min 0xFFFF ((s.cad.time - s.boot.began) / 1000000))

theorem State.readyNoted_regsOnly (s : State) : s.phaseReady.RegsOnly s.readyNoted :=
  (s.phaseReady.hbmBooted_regsOnly.trans (State.set_regsOnly _ _ _)).trans (State.set_regsOnly _ _ _)

theorem State.readyNoted_boot (s : State) : s.readyNoted.boot = s.phaseReady.boot := by
  rw [s.readyNoted_regsOnly]

theorem State.readyNoted_lpe (s : State) : s.readyNoted.lpe = s.phaseReady.lpe := by
  rw [s.readyNoted_regsOnly]

/-- Only HBM_READY, CMD_READY and BOOT_MS change. -/
theorem State.get_readyNoted_hbm (s : State) : s.readyNoted.get F.MEM_STATUS_HBM_READY =
    if s.get F.FW_STATUS_BOOT_KIND = 0 ∧ s.get F.FW_STATUS_PAIRING ≠ 2 then 1 else s.get F.MEM_STATUS_HBM_READY := by
  have hphase (f : Fld) : s.phaseReady.get f = s.get f := State.get_of_regs rfl f
  rw [State.readyNoted, State.get_set_apart (by decide) (by decide), State.get_set_apart (by decide) (by decide), State.hbmBooted]
  simp only [hphase, Bool.and_eq_true, decide_eq_true_eq, Bool.not_eq_true', beq_eq_false_iff_ne]
  split
  · rw [State.get_set_same _ _ _ (by unfold Fld.inWord; decide)]
    rfl
  · exact hphase _

theorem exec_commandReady {s : State} (h : s.boot.phase = .boot) :
    exec .commandReady s = .next s.readyNoted.elect.lpeUpdate.crsSettle := by
  have hexec : exec .commandReady s = .next s.commandReady := rfl
  have hpair : s.phaseReady.get F.FW_STATUS_PAIRING = s.get F.FW_STATUS_PAIRING := State.get_of_regs rfl _
  have hnow : s.phaseReady.hbmBooted.cad.time - s.phaseReady.hbmBooted.boot.began = s.cad.time - s.boot.began := by
    rw [s.phaseReady.hbmBooted_regsOnly]
    rfl
  rw [hexec, State.commandReady, if_neg (by simp [h]), State.readyNoted, ← hnow, State.hbmBooted, hpair]
  rfl

/-! ### Confirmation and restarts of the firmware (R495, R497, R498) -/

theorem State.slotRegs_regsOnly (s : State) : s.RegsOnly s.slotRegs :=
  foldl_keeps (P := fun u => s.RegsOnly u) (fun _ _ _ h => h.trans ((((State.set_regsOnly _ _ _).trans (State.set_regsOnly _ _ _)).trans
    (State.set_regsOnly _ _ _)).trans (State.set_regsOnly _ _ _))) rfl

/-- The record that is written is the one in force. -/
theorem State.bootRec_putRec (s : State) (r : BootRec) (h : s.theRec.seq ≤ r.seq) : (s.putRec r).bootRec = some { r with seq := r.seq + 1 } := by
  cases h0 : s.boot.rec0 with
  | none =>
    cases h1 : s.boot.rec1 with
    | none => simp [State.bootRec, State.putRec, h0, h1]
    | some b =>
      have hb : b.seq ≤ r.seq := by simpa [State.theRec, State.bootRec, h0, h1] using h
      simp [State.bootRec, State.putRec, h0, h1, show ¬ r.seq + 1 < b.seq by omega]
  | some a =>
    cases h1 : s.boot.rec1 with
    | none =>
      have ha : a.seq ≤ r.seq := by simpa [State.theRec, State.bootRec, h0, h1] using h
      simp [State.bootRec, State.putRec, h0, h1, Nat.lt_succ_of_le ha]
    | some b =>
      rcases Nat.lt_or_ge a.seq b.seq with hab | hab
      · have hb : b.seq ≤ r.seq := by simpa [State.theRec, State.bootRec, h0, h1, hab] using h
        simp [State.bootRec, State.putRec, h0, h1, Nat.not_le.mpr hab, show ¬ r.seq + 1 < b.seq by omega]
      · have ha : a.seq ≤ r.seq := by simpa [State.theRec, State.bootRec, h0, h1, Nat.not_lt.mpr hab] using h
        simp [State.bootRec, State.putRec, h0, h1, hab, Nat.lt_succ_of_le ha]

theorem BootRec.st_withSt (r : BootRec) (slot x : Nat) : (r.withSt slot x).st slot = x := by
  unfold BootRec.st BootRec.withSt
  split <;> simp_all

theorem BootRec.seq_withSt (r : BootRec) (slot x : Nat) : (r.withSt slot x).seq = r.seq := by
  unfold BootRec.withSt
  split <;> rfl

/-- The record after a confirmation. -/
theorem State.bootRec_confirm (s : State) (x : Nat) :
    (s.confirm x).bootRec = some { s.theRec.withSt x 3 with pref := x, seq := s.theRec.seq + 1 } := by
  have hregs : (s.confirm x).boot = (s.putRec { s.theRec.withSt x 3 with pref := x }).boot := by
    have hframe := ((s.putRec { s.theRec.withSt x 3 with pref := x }).set_regsOnly F.FW_STATUS_TRIAL 0).trans (State.slotRegs_regsOnly _)
    rw [State.confirm, hframe]
  have hput := s.bootRec_putRec { s.theRec.withSt x 3 with pref := x } (Nat.le_of_eq (BootRec.seq_withSt _ _ _).symm)
  rw [State.bootRec] at hput ⊢
  rw [hregs, hput]
  simp only [BootRec.seq_withSt]

theorem exec_fwConfirm (s : State) : exec .fwConfirm s = .next (match s.trialSlot with
    | some x => s.confirm x
    | none => s.stick F.FW_CFG_CFG) := rfl

theorem exec_autoConfirm (s : State) : exec .autoConfirm s = .next (match s.trialSlot with
    | some x =>
      if (s.get F.FW_CONFIRM_AUTO_S != 0 && s.get F.FW_STATUS_PAIRING == 0 && decide (s.get F.PWR_STATUS_STATE ≤ 2) &&
          s.boot.phase == BootPhase.run) = true then
        (s.advance (s.boot.confirmFrom + 1000000000 * s.get F.FW_CONFIRM_AUTO_S)).confirm x
      else s
    | none => s) := rfl

/-- Settles O57. -/
theorem bootsKeepWhatSurvivesAReset : Obligations.BootsKeepWhatSurvivesAReset := by
  unfold Obligations.BootsKeepWhatSurvivesAReset
  intro s good
  refine ⟨⟨_, exec_porNAssert s, rfl, s.coldBase_kept⟩, rfl, rfl, rfl, exec_coldBoot s good,
    fun h => congrArg _ (if_pos (by simp [h])), fun h => ⟨_, exec_commandReady h, ?_, fun hk hp => ?_, fun hkp => ?_, ?_, ?_, ?_, ?_, ?_⟩,
    fun h => ⟨?_, ?_⟩, fun x h => ⟨?_, fun hno => ?_, fun hs hp hst hph => ?_⟩, fun x r h => ?_, fun h => congrArg _ (if_neg (by simp [h])),
    fun h => congrArg _ (if_pos (by simp [h]))⟩
  · rw [s.readyNoted_boot]
    simp [State.phaseReady]
  · rw [State.on, s.get_readyNoted_hbm, if_pos ⟨hk, hp⟩]
    rfl
  · rw [s.get_readyNoted_hbm, if_neg (by rintro ⟨hk, hp⟩; exact hkp.elim (· hk) hp)]
  · rw [s.readyNoted_boot]
    rfl
  · rw [s.readyNoted_lpe]
    rfl
  · rw [State.readyNoted, State.get_set_apart (by decide) (by decide), State.get_set_same _ _ _ (by unfold Fld.inWord; decide)]
    rfl
  · rw [State.readyNoted, State.get_set_same _ _ _ (by unfold Fld.inWord; decide)]
    exact Nat.mod_eq_of_lt (Nat.lt_of_le_of_lt (Nat.min_le_left _ _) (by decide))
  · rw [s.readyNoted_boot, s.readyNoted_lpe]
    exact s.readyNoted_regsOnly
  · rw [exec_fwConfirm, h]
  · rw [exec_autoConfirm, h]
  · rw [exec_fwConfirm, h]
  · rw [exec_autoConfirm, h]
    refine congrArg _ (if_neg ?_)
    simp only [Bool.and_eq_true, bne_iff_ne, beq_iff_eq, decide_eq_true_eq]
    rintro ⟨⟨⟨h1, h2⟩, h3⟩, h4⟩
    obtain h | h | h | h := hno
    · exact h1 h
    · exact h h2
    · omega
    · exact h h4
  · rw [exec_autoConfirm, h]
    exact congrArg _ (if_pos (by simp [hs, hp, hst, hph]))
  · obtain rfl := Option.some.inj (h.symm.trans (s.bootRec_confirm x))
    exact ⟨rfl, s.theRec.st_withSt x 3⟩

end Sys2Proof.Machine
end


section

/-! What the device's own notes change: interrupts, trace and fault records, the Loupe's events and states. -/

namespace Sys2Proof.Machine

/-- The blocks whose words a store changes: MEM and the firewalls. -/
def storeWord (b : Nat) : Bool := (decide (0xC0000 ≤ b) && decide (b < 0x100000)) || (decide (0x340000 ≤ b) && decide (b < 0x380000))

/-- `u` is `s` but for memory and the registers of the MEM block and the firewalls. -/
structure State.StoreOnly (s u : State) : Prop where
  frame : u = { s with regs := u.regs, mem := u.mem }
  rd : ∀ b, storeWord b = false → u.rd b = s.rd b

theorem State.StoreOnly.refl (s : State) : s.StoreOnly s := ⟨rfl, fun _ _ => rfl⟩

theorem State.StoreOnly.trans {s u w : State} (h : s.StoreOnly u) (h' : u.StoreOnly w) : s.StoreOnly w := by
  obtain ⟨hframe, hrd⟩ := h
  obtain ⟨hframe', hrd'⟩ := h'
  refine ⟨?_, fun b hb => (hrd' b hb).trans (hrd b hb)⟩
  rw [hframe', hframe]

theorem State.StoreOnly.get {s u : State} (h : s.StoreOnly u) (f : Fld) (hf : storeWord f.addr = false) : u.get f = s.get f := by
  rw [State.get, State.get, h.rd _ hf]

theorem State.StoreOnly.lpe_eq {s u : State} (h : s.StoreOnly u) : u.lpe = s.lpe := by rw [h.frame]

section
variable (s : State)

theorem State.set_storeOnly {f : Fld} (hf : storeWord f.addr = true) (v : Nat) : s.StoreOnly (s.set f v) :=
  ⟨rfl, fun _ hb => s.rd_set_other _ _ _ fun h => Bool.false_ne_true (hb.symm.trans (h ▸ hf))⟩

theorem State.stick_storeOnly {f : Fld} (hf : storeWord f.addr = true) : s.StoreOnly (s.stick f) :=
  (s.set_storeOnly hf 1).trans ((s.set f 1).set_storeOnly (f := f.cnt) hf (satAdd 255 (s.get f.cnt) 1))

theorem State.bump_storeOnly {f : Fld} (hf : storeWord f.addr = true) (k : Nat) : s.StoreOnly (s.bump f k) := s.set_storeOnly hf _

theorem State.mem_storeOnly (m : Mem) : s.StoreOnly { s with mem := m } := ⟨rfl, fun _ _ => rfl⟩

theorem State.correct_storeOnly (sp word : Nat) : s.StoreOnly (s.correct sp word) := by
  unfold State.correct
  split
  · exact ((s.mem_storeOnly _).trans (State.bump_storeOnly _ (by split <;> rfl) _)).trans (State.stick_storeOnly _ rfl)
  · exact .refl s

theorem State.writeWord_storeOnly (sp word : Nat) (cells : List Host.Cell) : s.StoreOnly (s.writeWord sp word cells) := by
  unfold State.writeWord
  dsimp only
  split
  · exact s.mem_storeOnly _
  split
  · exact .refl s
  · exact (s.correct_storeOnly sp word).trans (State.mem_storeOnly _ _)

theorem State.memWrite_storeOnly (sp : Nat) (cells : List Host.Cell) : s.StoreOnly (s.memWrite sp cells) := by
  unfold State.memWrite
  refine foldl_keeps (P := fun u => s.StoreOnly u) (fun u w _ h => h.trans (u.writeWord_storeOnly _ _ _)) ?_
  split
  · exact s.mem_storeOnly _
  · exact .refl s

/-! ### Firewalls (R403) -/

theorem State.bridle_storeOnly {f : Nat} (hf : f < 3) (t agent cls : Nat) (wr : Bool) (units : List Nat) : s.StoreOnly (s.bridle f t agent cls wr units).2 := by
  have hmulti : storeWord (F.BRD_MULTI_MULTI f).addr = true := by
    have hall : ∀ f, f < 3 → storeWord (F.BRD_MULTI_MULTI f).addr = true := by decide
    exact hall f hf
  unfold State.bridle
  have h : s.StoreOnly (if units.any (fun u => match s.regionFor f u with | some (_, b) => b | none => false) then s.stick (F.BRD_MULTI_MULTI f) else s) := by
    split
    · exact s.stick_storeOnly hmulti
    · exact .refl s
  dsimp only
  split
  · exact h
  · exact (((h.trans (State.stick_storeOnly _ rfl)).trans (State.set_storeOnly _ rfl _)).trans (State.set_storeOnly _ rfl _)).trans (State.set_storeOnly _ rfl _)

theorem brdOf_lt {sp f : Nat} (h : brdOf sp = some f) : f < 3 := by
  unfold brdOf at h
  (repeat' split at h) <;> simp at h <;> omega

theorem State.bridleRange_storeOnly (sp t agent cls : Nat) (wr : Bool) (off n : Nat) : s.StoreOnly (s.bridleRange sp t agent cls wr off n).2 := by
  unfold State.bridleRange
  split
  · exact .refl s
  · next f hf => exact s.bridle_storeOnly (brdOf_lt hf) _ _ _ _ _

end

/-- The blocks whose words the device's notes change: GLB, MEM, the firewalls, the Loupe and the trace unit. -/
def noteWord (b : Nat) : Bool :=
  decide (b < 0x40000) || (decide (0xC0000 ≤ b) && decide (b < 0x100000)) || (decide (0x340000 ≤ b) && decide (b < 0x3C0000)) ||
    (decide (0x480000 ≤ b) && decide (b < 0x4C0000))

/-- `u` is `s` but for notes: registers of the noting blocks, memory, logs, what the Loupe sends and keeps, and pending vectors. -/
structure State.Noted (s u : State) : Prop where
  frame : u = { s with regs := u.regs, mem := u.mem, errs := u.errs, lpe := u.lpe, outbox := u.outbox, pcie := u.pcie }
  pcie : u.pcie = { s.pcie with pendingVec := u.pcie.pendingVec }
  lpe : u.lpe = { s.lpe with lpSeq := u.lpe.lpSeq, kept := u.lpe.kept }
  rd : ∀ b, noteWord b = false → u.rd b = s.rd b

theorem State.Noted.refl (s : State) : s.Noted s := ⟨rfl, rfl, rfl, fun _ _ => rfl⟩

theorem State.Noted.trans {s u w : State} (h : s.Noted u) (h' : u.Noted w) : s.Noted w := by
  obtain ⟨hframe, hpcie, hlpe, hrd⟩ := h
  obtain ⟨hframe', hpcie', hlpe', hrd'⟩ := h'
  refine ⟨?_, ?_, ?_, fun b hb => (hrd' b hb).trans (hrd b hb)⟩
  · rw [hframe', hframe]
  · rw [hpcie', hpcie]
  · rw [hlpe', hlpe]

theorem State.Noted.get {s u : State} (h : s.Noted u) (f : Fld) (hf : noteWord f.addr = false) : u.get f = s.get f := by
  rw [State.get, State.get, h.rd _ hf]

theorem State.Noted.on {s u : State} (h : s.Noted u) (f : Fld) (hf : noteWord f.addr = false) : u.on f = s.on f := by
  rw [State.on, State.on, h.get f hf]

theorem State.Noted.cad_eq {s u : State} (h : s.Noted u) : u.cad = s.cad := by rw [h.frame]

theorem State.Noted.cmds_eq {s u : State} (h : s.Noted u) : u.cmds = s.cmds := by rw [h.frame]

theorem State.Noted.boot_eq {s u : State} (h : s.Noted u) : u.boot = s.boot := by rw [h.frame]

theorem State.Noted.pwr_eq {s u : State} (h : s.Noted u) : u.pwr = s.pwr := by rw [h.frame]

theorem State.Noted.rein_eq {s u : State} (h : s.Noted u) : u.rein = s.rein := by rw [h.frame]

theorem State.Noted.sync_eq {s u : State} (h : s.Noted u) : u.sync = s.sync := by rw [h.frame]

section
variable (s : State)

theorem State.wr_noted {a : Nat} (ha : noteWord a = true) (v : Nat) : s.Noted (s.wr a v) :=
  ⟨rfl, rfl, rfl, fun _ hb => s.rd_wr_other _ _ _ fun h => Bool.false_ne_true (hb.symm.trans (h ▸ ha))⟩

theorem State.set_noted {f : Fld} (hf : noteWord f.addr = true) (v : Nat) : s.Noted (s.set f v) := s.wr_noted hf _

theorem State.stick_noted {f : Fld} (hf : noteWord f.addr = true) : s.Noted (s.stick f) :=
  (s.set_noted hf 1).trans ((s.set f 1).set_noted (f := f.cnt) hf (satAdd 255 (s.get f.cnt) 1))

theorem State.bump_noted {f : Fld} (hf : noteWord f.addr = true) (k : Nat) : s.Noted (s.bump f k) := s.set_noted hf _

theorem State.mem_noted (m : Mem) : s.Noted { s with mem := m } := ⟨rfl, rfl, rfl, fun _ _ => rfl⟩

theorem State.StoreOnly.noted {s u : State} (h : s.StoreOnly u) : s.Noted u := by
  obtain ⟨hframe, hrd⟩ := h
  refine ⟨?_, ?_, ?_, fun b hb => hrd b ?_⟩
  · rw [hframe]
  · rw [hframe]
  · rw [hframe]
  · simp only [noteWord, storeWord, Bool.or_eq_false_iff, Bool.and_eq_false_iff, decide_eq_false_iff_not] at hb ⊢
    omega

theorem State.memWrite_noted (sp : Nat) (cells : List Host.Cell) : s.Noted (s.memWrite sp cells) := (s.memWrite_storeOnly sp cells).noted

theorem State.bridleRange_noted (sp t agent cls : Nat) (wr : Bool) (off n : Nat) : s.Noted (s.bridleRange sp t agent cls wr off n).2 :=
  (s.bridleRange_storeOnly sp t agent cls wr off n).noted

theorem State.errs_noted (e : Errs) : s.Noted { s with errs := e } := ⟨rfl, rfl, rfl, fun _ _ => rfl⟩

theorem State.out_noted (o : Output) : s.Noted (s.out o) := ⟨rfl, rfl, rfl, fun _ _ => rfl⟩

theorem State.msix_noted (fn vec : Nat) : s.Noted (s.msix fn vec) := by
  unfold State.msix
  split
  · exact .refl s
  split
  · exact s.out_noted _
  split
  · exact .refl s
  · exact ⟨rfl, rfl, rfl, fun _ _ => rfl⟩

theorem State.irq_noted (vec : Nat) : s.Noted (s.irq vec) := by
  have hcases : s.irq vec = ({ s with errs := { s.errs with vecSent := kvIns vec s.cad.time s.errs.vecSent } } : State).msix 0 vec ∨
      s.irq vec = s := State.ite_eq_left_or_right _ _
  rcases hcases with hsent | hnone
  · rw [hsent]
    exact (s.errs_noted _).trans (State.msix_noted _ _ _)
  · rw [hnone]
    exact .refl s

theorem State.stickIrq_noted {f : Fld} (hf : noteWord f.addr = true) (vec : Nat) : s.Noted (s.stickIrq f vec) :=
  (s.stick_noted hf).trans (State.irq_noted _ _)

/-! ### Trace records (R462, R463) -/

theorem State.tracePut_noted (r : List Byte) : s.Noted (s.tracePut r) := by
  have hput := (s.memWrite_noted 1 (cellsAt (0x5000000 + 32 * (s.get F.TRC_WPTR % traceSlots)) r)).trans
    (State.set_noted _ (f := F.TRC_WPTR) rfl ((s.get F.TRC_WPTR + 1) % 2 ^ 32))
  unfold State.tracePut
  dsimp only
  split
  · exact hput.trans (State.bump_noted _ rfl _)
  · exact hput

theorem State.traceDrop_noted : s.Noted s.traceDrop :=
  ((s.errs_noted _).trans (State.bump_noted _ rfl _)).trans (State.stickIrq_noted _ rfl _)

theorem State.traceOverflow_noted : s.Noted s.traceOverflow := (s.tracePut_noted _).trans (State.errs_noted _ _)

theorem State.trace_noted (type unit ten seq : Nat) (payload : List Byte) : s.Noted (s.trace type unit ten seq payload) := by
  unfold State.trace State.traceEvent
  split
  · exact .refl s
  split
  · exact .refl s
  split
  · exact s.traceDrop_noted
  split
  · exact s.tracePut_noted _
  split
  · exact s.traceOverflow_noted.trans (State.traceDrop_noted _)
  · exact s.traceOverflow_noted.trans (State.tracePut_noted _ _)

/-! ### Fault records (R524) -/

theorem State.flogFull_noted : s.Noted s.flogFull := by
  unfold State.flogFull
  split
  · exact s.stick_noted rfl
  · exact .refl s

theorem State.fault_noted (cls cause unit status iid da seq trigger : Nat) (detail : List Byte) :
    s.Noted (s.fault cls cause unit status iid da seq trigger detail) := by
  by_cases h : s.faultFolds cause unit ((kvFind s.errs.flog ((s.get F.GLB_FLOG_TAIL + 1023) % 1024)).getD []) = true
  · rw [s.fault_of_folds h]
    exact s.errs_noted _
  · rw [s.fault_of_not_folds (Bool.eq_false_iff.mpr h)]
    exact ((s.flogFull_noted.trans (State.errs_noted _ _)).trans (State.set_noted _ rfl _)).trans (State.irq_noted _ _)

theorem State.lastWords_noted (cause core pc sp : Nat) : s.Noted (s.lastWords cause core pc sp) :=
  foldl_keeps (P := fun u => s.Noted u)
    (fun _ _ hk h => h.trans (State.wr_noted _ (by have := List.mem_range.mp hk; simp [noteWord]; omega) _)) (.refl s)

/-! ### Events of the Loupe (R419, R429) -/

theorem State.kept_noted (l : List (List Byte)) : s.Noted { s with lpe := { s.lpe with kept := l } } := ⟨rfl, rfl, rfl, fun _ _ => rfl⟩

theorem State.lpFrame_noted (type : Nat) (e : List Byte) : s.Noted (s.lpFrame type e) := by
  unfold State.lpFrame
  dsimp only
  split
  · exact ⟨rfl, rfl, rfl, fun _ _ => rfl⟩
  · exact .refl s

theorem State.elogKeep_noted (r : List Byte) : s.Noted (s.elogKeep r) := by
  unfold State.elogKeep
  split
  · exact s.kept_noted _
  · exact (s.kept_noted _).trans (State.stick_noted _ rfl)

theorem State.elogWrite_noted (r : List Byte) : s.Noted (s.elogWrite r).2 := by
  unfold State.elogWrite
  dsimp only
  split
  · exact .refl s
  split
  · exact .refl s
  split
  · have h := s.bridleRange_noted (daSpace (s.get64 F.LPE_ELOG_BASE_LO)) 0 0x60 clsSYSTEM true
      (daOff (s.get64 F.LPE_ELOG_BASE_LO) + 32 * (s.get F.LPE_ELOG_TAIL % 2 ^ s.get F.LPE_ELOG_SIZE)) 32
    split
    · next u hu =>
      rw [hu] at h
      exact (h.trans (u.memWrite_noted _ _)).trans (State.set_noted _ rfl _)
    · next u hu => rwa [hu] at h
  · exact .refl s

theorem State.event_noted (r : List Byte) : s.Noted (s.event r) := by
  unfold State.event
  refine (s.lpFrame_noted 2 r).trans ?_
  generalize s.lpFrame 2 r = u
  dsimp only
  split
  · exact .refl u
  split
  · exact u.elogKeep_noted r
  have h := u.elogWrite_noted r
  split
  · next w hw => rwa [hw] at h
  · next w hw =>
    rw [hw] at h
    exact h.trans (w.elogKeep_noted r)

theorem State.lpeUpdate_noted : s.Noted s.lpeUpdate := by
  unfold State.lpeUpdate
  extract_lets was st ready armed s1 s2 s3 s4 s5
  have h4 : s.Noted s4 := (((((s.set_noted rfl _).trans (State.set_noted _ rfl _)).trans (State.set_noted _ rfl _)).trans
    (State.set_noted _ rfl _)).trans (State.set_noted _ rfl _)).trans (State.set_noted _ rfl _)
  have h5 : s.Noted s5 := by
    unfold s5
    split
    · exact h4
    · exact h4.trans (s4.event_noted _)
  split
  · exact h5
  · exact h5.trans (s5.irq_noted _)

end

end Sys2Proof.Machine
end


section

/-! Power states, and the power, temperature and I3C inputs. -/

namespace Sys2Proof.Machine

/-! ### Entries and exits (R470 to R475) -/

theorem pwrStatusState_inWord : F.PWR_STATUS_STATE.inWord := by
  unfold Fld.inWord
  decide

theorem State.get_powerTrace (s : State) (k n : Nat) (f : Fld) (hf : noteWord f.addr = false) : (s.powerTrace k n).get f = s.get f :=
  (s.trace_noted _ _ _ _ _).get f hf

theorem State.state_retain (s : State) {n : Nat} (hn : n ≤ 3) : (s.retain n).get F.PWR_STATUS_STATE = n := by
  unfold State.retain
  rw [(State.lpeUpdate_noted _).get _ rfl, State.get_set_same _ _ _ pwrStatusState_inWord]
  exact Nat.mod_eq_of_lt (Nat.lt_of_le_of_lt hn (by decide))

theorem State.state_s4Enter (s : State) (cause : Nat) : (s.s4Enter cause).get F.PWR_STATUS_STATE = 4 := by
  unfold State.s4Enter State.s4Base
  rw [State.get_set_same _ _ _ pwrStatusState_inWord]
  rfl

section
variable {s : State}

theorem State.wakes_zero (s : State) (code : Nat) : s.wakes 0 code = false := by
  unfold State.wakes
  split <;> simp

theorem exec_drainComplete_of_noEntry (h : s.pwr.entry = none) : exec .drainComplete s = .next s := by
  have hexec : exec .drainComplete s = .next s.drainEnd := rfl
  rw [hexec, State.drainEnd, h]

theorem exec_drainTimeout_of_noEntry (h : s.pwr.entry = none) : exec .drainTimeout s = .next s := by
  have hexec : exec .drainTimeout s = .next s.drainTimeout := rfl
  rw [hexec, State.drainTimeout, h]

/-- The request of an entry ends with DONE. -/
def State.entryDone (s : State) (id : Option Nat) : State := id.elim s fun i => s.finish i stDONE 0

theorem exec_drainComplete {n : Nat} {id : Option Nat} (h : s.pwr.entry = some (n, id)) : exec .drainComplete s = .next
    (if s.entryDrained n id then
      if n = 4 then
        (((((State.entryDone { s with pwr := { s.pwr with entry := none } } id).powerTrace (if n = 1 then 3 else 1) n).girthReturn).detach).portsDown).s4Enter 0x60
      else ((State.entryDone { s with pwr := { s.pwr with entry := none } } id).powerTrace (if n = 1 then 3 else 1) n).retain n
    else s) := by
  have hexec : exec .drainComplete s = .next s.drainEnd := rfl
  rw [hexec, State.drainEnd, h]
  cases id <;> rfl

/-- No entry is in progress. -/
def State.entryGone (s : State) : State := { s with pwr := { s.pwr with entry := none } }

theorem exec_drainTimeout {n : Nat} {id : Option Nat} (h : s.pwr.entry = some (n, id)) : exec .drainTimeout s = .next
    (id.elim (s.advance (s.pwr.entryAt + 1000 * s.get F.PWR_ENTRY_DRAIN_US)).entryGone fun i =>
      (s.advance (s.pwr.entryAt + 1000 * s.get F.PWR_ENTRY_DRAIN_US)).entryGone.fail i stREJ_BUSY) := by
  have hexec : exec .drainTimeout s = .next s.drainTimeout := rfl
  rw [hexec, State.drainTimeout, h]
  cases id <;> rfl

theorem exec_wakeEvent (code : Fin 11) : exec (.wakeEvent code) s = .next (s.wake code.val) := rfl

theorem State.wake_of_entry {n code : Nat} {id : Option Nat} (h : s.pwr.entry = some (n, id)) :
    s.wake code = if s.wakes n code then s.abandon n id else s := by
  rw [State.wake, h]

theorem State.wake_of_leaving {code : Nat} (h : s.pwr.entry = none) (hl : s.pwr.leaving = true) : s.wake code = s := by
  rw [State.wake, h]
  exact if_pos (by simp [hl])

/-- The device leaves its state for a source. -/
def State.woken (s : State) (code : Nat) : State := { s.set F.PWR_WAKE_CAUSE code with pwr := { s.pwr with leaving := true } }

theorem State.wake_of_unnamed {code : Nat} (h : s.pwr.entry = none) (hw : s.wakes (s.get F.PWR_STATUS_STATE) code = false) : s.wake code = s := by
  rw [State.wake, h]
  exact if_pos (by simp [hw])

theorem State.wake_of_named {code : Nat} (h : s.pwr.entry = none) (hl : s.pwr.leaving = false)
    (hw : s.wakes (s.get F.PWR_STATUS_STATE) code = true) : s.wake code = if s.get F.PWR_STATUS_STATE = 4 then
      { s.woken code with pcie := { s.pcie with wakeN := s.pcie.wakeN || s.pcie.pmeOff } } else s.woken code := by
  rw [State.wake, h]
  exact if_neg (by simp [hw, hl])

theorem exec_i3cWake (v : Byte) : exec (.i3cWake v) s = .next (if v.toNat = (0xA5 : Byte).toNat then s.wake 4 else s) := rfl

/-- The exit's record, with the state back at S0. -/
def State.exitNoted (s : State) : State :=
  State.powerTrace { s.set F.PWR_STATUS_STATE 0 with pwr := { s.pwr with leaving := false, auto := false } } (if s.pwr.auto then 3 else 2)
    (s.get F.PWR_STATUS_STATE)

theorem exec_stateExitComplete (h : s.pwr.leaving = true) : exec .stateExitComplete s = .next
    (if s.get F.PWR_STATUS_STATE = 4 then State.bootStages { s.exitNoted with lpe := { s.exitNoted.lpe with unpowered := false } } 1 2 true
      else if s.get F.PWR_STATUS_STATE = 3 then s.exitNoted.portsTrain.limitUpdate.lpeUpdate
      else s.exitNoted.lpeUpdate) :=
  congrArg _ (if_neg (by simp [h]))

theorem exec_autoHoldEntry : exec .autoHoldEntry s = .next
    (if s.on F.PWR_CTRL_AUTO_HOLD = true ∧ s.get F.PWR_STATUS_STATE = 0 ∧ s.pwr.entry = none ∧ s.boot.phase = .run ∧ s.entryDrained 1 none = true then
      State.retain { s.powerTrace 3 1 with pwr := { s.pwr with auto := true } } 1 else s) := by
  have hexec : exec .autoHoldEntry s = .next s.autoHold := rfl
  rw [hexec, State.autoHold]
  simp only [Bool.and_eq_true, beq_iff_eq, Option.isNone_iff_eq_none, and_assoc]

end

/-- Settles O55. -/
theorem statesAreEnteredAndLeft : Obligations.StatesAreEnteredAndLeft := by
  unfold Obligations.StatesAreEnteredAndLeft
  intro s code v n
  refine ⟨fun h => ⟨exec_drainComplete_of_noEntry h, exec_drainTimeout_of_noEntry h⟩, fun id h => ⟨fun hd => ?_, fun hd u hu => ⟨fun hn => ?_, fun hn => ?_⟩,
    fun u hu => ⟨?_, ?_⟩, fun hw => ?_, fun hw => ?_⟩, fun _ hn => s.state_retain hn, s.state_s4Enter _, fun h hl => ?_, fun h hl hn => ⟨?_, ?_, ?_⟩, ?_,
    fun h => congrArg _ (if_pos h), fun h => congrArg _ (if_neg h), ?_, fun h => congrArg _ (if_pos (by simp [h])), fun u h hn hu => ⟨?_, ?_, ?_, ?_⟩,
    fun h1 h2 h3 h4 h5 => ?_, fun h => ?_, rfl⟩
  · rw [exec_drainComplete h, if_neg (by simp [hd])]
  · rw [exec_drainComplete h, if_pos hd, if_neg hn, hu]
    cases id <;> rfl
  · rw [exec_drainComplete h, if_pos hd, if_pos hn, hu, hn]
    cases id <;> rfl
  · rintro rfl
    rw [exec_drainTimeout h, hu]
    rfl
  · rintro i rfl
    rw [exec_drainTimeout h, hu]
    rfl
  · rw [exec_wakeEvent, State.wake_of_entry h, if_pos hw]
  · rw [exec_wakeEvent, State.wake_of_entry h, if_neg (by simp [hw])]
  · rw [exec_wakeEvent, State.wake_of_leaving h hl]
  · intro hw
    rw [exec_wakeEvent, State.wake_of_unnamed h (hn ▸ hw)]
  · intro hw h4
    rw [exec_wakeEvent, State.wake_of_named h hl (hn ▸ hw), if_neg (hn ▸ h4)]
    rfl
  · intro hw h4
    rw [exec_wakeEvent, State.wake_of_named h hl (hn ▸ h4 ▸ hw), if_pos (hn ▸ h4)]
    refine ⟨_, rfl, (State.get_of_regs (s := s.set F.PWR_WAKE_CAUSE code.val) rfl _).trans ?_, rfl, rfl, rfl⟩
    rw [State.get_set_same _ _ _ (by unfold Fld.inWord; decide)]
    exact Nat.mod_eq_of_lt (Nat.lt_trans code.isLt (by decide))
  · rintro rfl
    exact s.wakes_zero _
  · rw [exec_i3cWake]
    exact congrArg _ (ite_of_iff (BitVec.toNat_inj (y := 0xA5)) rfl rfl)
  · rw [hu, State.get_powerTrace _ _ _ _ rfl]
    exact s.get_set_same F.PWR_STATUS_STATE 0 pwrStatusState_inWord
  · intro h3
    rw [exec_stateExitComplete h, if_neg (by omega), if_neg (by omega), hu, hn]
    rfl
  · intro h3
    rw [exec_stateExitComplete h, if_neg (by omega), if_pos (by omega), hu, hn]
    rfl
  · intro h4
    rw [exec_stateExitComplete h, if_pos (by omega), hu, hn]
    rfl
  · rw [exec_autoHoldEntry, if_pos ⟨h1, h2, h3, h4, h5⟩]
  · rw [exec_autoHoldEntry, if_neg]
    rintro ⟨h1, h2, h3, h4, h5⟩
    obtain h | h | h | h | h := h
    · exact Bool.false_ne_true (h.symm.trans h1)
    · exact h h2
    · exact h h3
    · exact h h4
    · exact Bool.false_ne_true (h.symm.trans h5)

/-! ### Samples (R476, R480, R481) -/

/-- The registers and samples of a power sample. -/
def State.powerNoted (s : State) (mw : Nat) : State :=
  State.set { s with pwr := { s.pwr with
    samples := (mw :: s.pwr.samples).take 100
    avgs := (s.cad.time, ((mw :: s.pwr.samples).take 100).sum / ((mw :: s.pwr.samples).take 100).length) ::
      s.pwr.avgs.filter fun (x : Nat × Nat) => decide (s.cad.time < x.1 + 100000000) } } F.PWR_MEAS
    (min 0xFFFF (((mw :: s.pwr.samples).take 100).sum / ((mw :: s.pwr.samples).take 100).length / 250))

theorem exec_powerSample (s : State) (mw : Nat) : exec (.powerSample mw) s = .next
    ((((s.advance (s.cad.time + 10000)).powerNoted mw).limitUpdate).throttle
      (((mw :: (s.advance (s.cad.time + 10000)).pwr.samples).take 100).sum / ((mw :: (s.advance (s.cad.time + 10000)).pwr.samples).take 100).length)) := rfl

theorem State.pwr_advance (s : State) (t : Nat) : (s.advance t).pwr = s.pwr := by
  rw [s.advance_regsCadOnly t]

/-- Above the limit in step 0 the first step engages, with a free duty below the one before. -/
theorem State.throttle_of_above {s : State} {avg : Nat} (h : s.limit.1 < 4000 * avg) (h0 : s.get F.PWR_STATUS_STEP = 0) : ∃ w : State,
    (∀ f, w.get f = s.get f) ∧ s.throttle avg =
      ((w.set F.PWR_STATUS_STEP 1).set F.PWR_THROT_UNT_DUTY (w.freeVal.toNat % max 1 ((w.set F.PWR_STATUS_STEP 1).get F.PWR_THROT_UNT_DUTY))).draw := by
  have hget (f : Fld) : State.get { s with pwr := { s.pwr with belowSince := none } } f = s.get f := State.get_of_regs rfl f
  have hfree : State.freeVal (State.set { s with pwr := { s.pwr with belowSince := none } } F.PWR_STATUS_STEP 1) =
    State.freeVal { s with pwr := { s.pwr with belowSince := none } } := rfl
  refine ⟨_, hget, ?_⟩
  rw [State.throttle]
  dsimp only
  rw [if_pos h, State.throttleMore, hget, h0, List.range_zero, List.find?_nil, if_neg (by decide), State.stepDeepen, hfree]

theorem State.throttle_first {s : State} {avg : Nat} (h : s.limit.1 < 4000 * avg) (h0 : s.get F.PWR_STATUS_STEP = 0) :
    (s.throttle avg).get F.PWR_STATUS_STEP = 1 ∧
    (0 < s.get F.PWR_THROT_UNT_DUTY → (s.throttle avg).get F.PWR_THROT_UNT_DUTY < s.get F.PWR_THROT_UNT_DUTY) := by
  obtain ⟨w, hw, heq⟩ := State.throttle_of_above h h0
  have hdraw (u : State) (f : Fld) : u.draw.get f = u.get f := State.get_of_regs rfl f
  rw [heq, hdraw, hdraw]
  refine ⟨?_, fun hpos => ?_⟩
  · rw [State.get_set_apart (by decide) (by decide), State.get_set_same _ _ _ (by unfold Fld.inWord; decide)]
    rfl
  · rw [State.get_set_same _ _ _ (by unfold Fld.inWord; decide), State.get_set_apart (by decide) (by decide), hw, Nat.max_eq_right hpos]
    exact Nat.lt_of_le_of_lt (Nat.mod_le _ _) (Nat.mod_lt _ hpos)

/-! ### Temperature (R483) -/

theorem State.stickIrq_parts (s : State) (f : Fld) (vec : Nat) : (s.stickIrq f vec).regs = (s.stick f).regs ∧
    (s.stickIrq f vec).pwr = s.pwr ∧ (s.stickIrq f vec).boot = s.boot ∧ (s.stickIrq f vec).cad = s.cad :=
  have h := (s.stick f).irq_noted vec
  ⟨(State.irq_frame _ _).2.1, h.pwr_eq, h.boot_eq, h.cad_eq⟩

theorem State.ibi_parts (s : State) : s.ibi.regs = s.regs ∧ s.ibi.pwr = s.pwr ∧ s.ibi.boot = s.boot ∧ s.ibi.cad = s.cad := by
  unfold State.ibi
  split <;> exact ⟨rfl, rfl, rfl, rfl⟩

/-- The notes of a rise to THROTTLE. -/
def State.hotNoted (s : State) (rising : Bool) : State := if rising then (s.stickIrq F.PWR_HOT_HOT 13).ibi else s

theorem State.hotNoted_parts (s : State) (rising : Bool) : (s.hotNoted rising).pwr = s.pwr ∧ (s.hotNoted rising).boot = s.boot ∧
    (s.hotNoted rising).cad = s.cad ∧ (s.hotNoted rising).get F.PWR_MEAS = s.get F.PWR_MEAS := by
  unfold State.hotNoted
  split
  · obtain ⟨hregs, hpwr, hboot, hcad⟩ := (s.stickIrq F.PWR_HOT_HOT 13).ibi_parts
    obtain ⟨hregs', hpwr', hboot', hcad'⟩ := s.stickIrq_parts F.PWR_HOT_HOT 13
    refine ⟨hpwr.trans hpwr', hboot.trans hboot', hcad.trans hcad', ?_⟩
    rw [State.get_of_regs (hregs.trans hregs'), State.get_stick_other _ _ _ (by decide)]
  · exact ⟨rfl, rfl, rfl, rfl⟩

theorem State.on_hotNoted (s : State) : (s.hotNoted true).on F.PWR_HOT_HOT = true := by
  obtain ⟨hregs, -⟩ := (s.stickIrq F.PWR_HOT_HOT 13).ibi_parts
  obtain ⟨hregs', -⟩ := s.stickIrq_parts F.PWR_HOT_HOT 13
  rw [State.hotNoted, if_pos rfl, State.on, State.get_of_regs (hregs.trans hregs'), State.get_stick_same _ _ (by decide) rfl]
  rfl

/-- At THROTTLE or above: the limit is set, or lowered once a millisecond has passed. -/
theorem State.thermalLimit_hot {s : State} {tj thr : Int} (h : thr ≤ tj) (rising : Bool) : s.thermalLimit tj thr rising =
    match s.pwr.thermal with
    | none => { s.hotNoted rising with pwr := { s.pwr with thermal := some (1000000 * s.get F.PWR_MEAS), thermAt := s.cad.time } }
    | some l =>
      if s.pwr.thermAt + 1000000 ≤ s.cad.time then
        { s.hotNoted rising with pwr := { s.pwr with thermal := some (l * 95 / 100), thermAt := s.pwr.thermAt + 1000000 } }
      else s.hotNoted rising := by
  obtain ⟨hpwr, -, hcad, hmeas⟩ := s.hotNoted_parts rising
  rw [← hpwr, ← hcad, ← hmeas, State.thermalLimit, if_pos h]
  rfl

theorem State.thermalLimit_cool {s : State} {tj thr : Int} (h : tj < thr) (rising : Bool) (hnone : s.pwr.thermal = none) :
    s.thermalLimit tj thr rising = s := by
  unfold State.thermalLimit
  rw [if_neg (Int.not_le.mpr h)]
  split
  · rw [hnone]
  · rfl

theorem State.boot_thermalLimit (s : State) (tj thr : Int) (rising : Bool) : (s.thermalLimit tj thr rising).boot = s.boot := by
  obtain ⟨-, hboot, -⟩ := s.hotNoted_parts rising
  by_cases h : thr ≤ tj
  · rw [State.thermalLimit_hot h]
    split
    · exact hboot
    split
    · exact hboot
    · exact hboot
  · unfold State.thermalLimit
    rw [if_neg h]
    split
    · split
      · rfl
      split <;> rfl
    · rfl

theorem State.thermalTrip_of_first {s : State} (h : s.pwr.trip = false) : s.thermalTrip =
    if s.boot.phase = .run then
      (State.ibi (State.stickIrq { s with pwr := { s.pwr with trip := true, coolSince := none } } F.PWR_TRIP_TRIP 13)).restart 3 0x30 0xFF 0 0 []
    else ((State.ibi (State.stickIrq { s with pwr := { s.pwr with trip := true, coolSince := none } } F.PWR_TRIP_TRIP 13)).fault
      9 0x30 0xC0 0 0 0 0 3 []).lastWords 0x30 0xFF 0 0 := by
  have hboot := (State.ibi_parts (State.stickIrq { s with pwr := { s.pwr with trip := true, coolSince := none } } F.PWR_TRIP_TRIP 13)).2.2.1.trans
    (State.stickIrq_parts { s with pwr := { s.pwr with trip := true, coolSince := none } } F.PWR_TRIP_TRIP 13).2.2.1
  rw [State.thermalTrip, if_neg (by simp [h])]
  dsimp only
  rw [hboot]
  exact ite_of_iff beq_iff_eq rfl rfl

theorem exec_thermalSample (s : State) (tj : BitVec 8) {b c e : State}
    (hb : b = ((s.set F.PWR_TJ_NOW tj.toNat).set F.PWR_TJ_PEAK (unsigned 8 (max (signed 8 (s.get F.PWR_TJ_PEAK)) tj.toInt))).thermalLimit tj.toInt
      (signed 8 (s.get F.PWR_THERM_THROTTLE)) (decide (signed 8 (s.get F.PWR_TJ_NOW) < signed 8 (s.get F.PWR_THERM_THROTTLE))))
    (hc : c = if 105 ≤ tj.toInt then (b.set F.PWR_STATUS_ECLK_MHZ 800).set F.PWR_STATUS_STEP 5 else b)
    (he : e = if 115 ≤ tj.toInt then c.thermalTrip else c) : exec (.thermalSample tj) s = .next (State.limitUpdate { e with pwr := { e.pwr with
      coolSince := if tj.toInt < signed 8 (e.get F.PWR_THERM_RESUME) then some (e.pwr.coolSince.getD e.cad.time) else none } }) := by
  have hexec : exec (.thermalSample tj) s = .next (s.thermalSample tj) := rfl
  rw [hexec, State.thermalSample]
  dsimp only
  rw [← hb, ← hc, ← he]
  by_cases h : tj.toInt < signed 8 (e.get F.PWR_THERM_RESUME)
  · rw [decide_eq_true h, if_pos h]
    rfl
  · rw [decide_eq_false h, if_neg h]
    rfl

/-! ### The I3C target (R485) -/

theorem exec_i3cCapWrite (s : State) (w : BitVec 16) : exec (.i3cCapWrite w) s = .next (s.i3cCap w.toNat) := rfl

theorem exec_i3cCcc_ccc (s : State) (code : Nat) (d : List Byte) : exec (.i3cCcc (.ccc code d)) s = .next (s.i3cCcc code d) := rfl

theorem exec_i3cCcc_read {i : Nat} (hi : i ≠ 0x24) (s : State) : exec (.i3cCcc (.read i)) s =
    .next { s with pwr := { s.pwr with i3cIndex := i }, outbox := s.outbox ++ [.i3c 1 (s.i3cReg i)] } := by
  have hexec : exec (.i3cCcc (.read i)) s = execI3cCcc (.read i) s := rfl
  rw [hexec, execI3cCcc]
  · rfl
  · exact hi

/-- Settles O56. -/
theorem samplesAndCapsSetTheLimit : Obligations.SamplesAndCapsSetTheLimit := by
  unfold Obligations.SamplesAndCapsSetTheLimit
  intro s mw tj w code i d
  refine ⟨?_, State.throttle_first, fun a b c e ha hb hc he => ⟨?_, fun hlt hnone => ?_, fun hle hnone => ?_, fun l hle hsome => ?_, fun x h115 htrip hx => ?_⟩,
    fun c hc ht => ?_, fun h => ?_, fun h => ?_, fun h => ?_, rfl, fun hi => ?_, ⟨rfl, rfl, rfl, rfl, rfl⟩, rfl, ?_, ?_, rfl, fun h => ?_, fun h h4a => ?_, fun h => ⟨?_, ?_⟩,
    fun h => ?_, fun h => ?_⟩
  · rintro l avg a rfl rfl rfl
    refine ⟨(s.advance (s.cad.time + 10000)).powerNoted mw, ?_, ?_, ?_, rfl⟩
    · rw [exec_powerSample, State.pwr_advance]
    · rw [State.powerNoted, State.get_set_same _ _ _ (by unfold Fld.inWord; decide), State.pwr_advance]
      exact Nat.mod_eq_of_lt (Nat.lt_of_le_of_lt (Nat.min_le_left _ _) (by decide))
    · rw [State.powerNoted, State.set_pwr, State.pwr_advance]
  · rintro m rfl
    exact exec_thermalSample s tj (ha ▸ hb) hc he
  · rw [hb]
    exact State.thermalLimit_cool hlt _ (by rw [ha, State.set_pwr, State.set_pwr, hnone])
  · have hthermal : a.pwr.thermal = none := by rw [ha, State.set_pwr, State.set_pwr, hnone]
    have hmeas : a.get F.PWR_MEAS = s.get F.PWR_MEAS := by
      rw [ha, State.get_set_apart (by decide) (by decide), State.get_set_apart (by decide) (by decide)]
    rw [hb, State.thermalLimit_hot hle, hthermal]
    refine ⟨by rw [hmeas], fun hrise => ?_⟩
    rw [decide_eq_true hrise]
    exact (State.on_of_regs rfl _).trans a.on_hotNoted
  · have hpwr : a.pwr = s.pwr := by rw [ha, State.set_pwr, State.set_pwr]
    have hcad : a.cad = s.cad := by rw [ha, State.set_cad, State.set_cad]
    rw [hb, State.thermalLimit_hot hle, hpwr, hsome, hcad]
    dsimp only
    split
    · rfl
    · rw [(a.hotNoted_parts _).1, hpwr, hsome]
  · have hboot : c.boot = s.boot := by
      have hbb : b.boot = s.boot := by rw [hb, State.boot_thermalLimit, ha, State.set_boot, State.set_boot]
      rw [hc]
      split
      · rw [State.set_boot, State.set_boot, hbb]
      · exact hbb
    rw [he, if_pos h115, State.thermalTrip_of_first htrip, hx, hboot]
  · have hexec : exec .thermalResume s = .next s.thermalResume := rfl
    rw [hexec, State.thermalResume, hc]
    dsimp only
    rw [if_pos ht]
  · have hexec : exec .thermalResume s = .next s.thermalResume := rfl
    rw [hexec, State.thermalResume]
    split
    · next c hc =>
      rw [if_neg]
      obtain h | h := h
      · simp [h]
      · exact absurd (hc.symm.trans h) (by simp)
    · rfl
  · rw [exec_i3cCapWrite, State.i3cCap, if_pos]
    simpa only [Bool.or_eq_true, Bool.and_eq_true, decide_eq_true_eq, ← BitVec.toNat_inj, BitVec.toNat_zero, BitVec.ofNat_eq_ofNat, BitVec.toNat_ofNat, Nat.zero_mod] using h
  · rw [exec_i3cCapWrite, State.i3cCap, if_neg]
    simpa only [Bool.or_eq_true, Bool.and_eq_true, decide_eq_true_eq, ← BitVec.toNat_inj, BitVec.toNat_zero, BitVec.ofNat_eq_ofNat, BitVec.toNat_ofNat, Nat.zero_mod] using h
  · exact exec_i3cCcc_read hi s
  · rintro (rfl | rfl) <;> rfl
  · rintro (rfl | rfl) <;> rfl
  · exact congrArg _ (if_pos (by simp [h]))
  · exact congrArg _ (if_pos (by simp [h, h4a]))
  · exact congrArg _ (if_neg (by simp [h]))
  · exact congrArg _ (if_neg (by simp [h]))
  · exact congrArg _ (if_neg (by simp [h]))
  · rw [exec_i3cCcc_ccc, State.i3cCcc]
    all_goals
      rintro rfl
      simp at h

end Sys2Proof.Machine
end


section

/-! Faults, restarts and alarms of the Loupe. -/

namespace Sys2Proof.Machine

section
variable {s : State}

/-! ### Faults of the Loupe (R431 to R433, R439) -/

/-- The ids of the gated commands whose summaries a reset of the Loupe drops. -/
def State.lostGates (s : State) : List Nat :=
  (s.lpe.inbox.filter fun (x : Nat × List Byte) => smGate x.2).map (·.1) ++ (s.lpe.unpaired.filter fun (u : Unpaired) => smGate u.rec').map (·.cmd)

/-- The Loupe without latches and queues, waiting for LF to start, and without a firmware session. -/
def State.lpeEmptied (s : State) : State :=
  { s with
    boot := { s.boot with session := none }
    lpe := { s.lpe with
      inbox := [], trips := [], unpaired := [], lostMates := [], raised := false, verdicts := s.lpe.verdicts ++ s.lostGates.map (fun i => (i, false))
      expired := [], holds := [], latched := 0, latchBy := none, hwLatch := false, down := some .start, kept := [] } }

/-- The emptied Loupe and the registers that show it. -/
def State.lpeCleared (s : State) : State :=
  (((((s.lpeEmptied.set F.FW_SESSION_OPEN 0).set F.FW_SESSION_SLOT 0).set F.FW_SESSION_KIND 0).set F.FW_SESSION_BYTES 0).set F.LPE_STATUS_LATCH 0).set
    F.LPE_STATUS_ARMED 0

theorem State.lpeCleared_regsOnly (s : State) : s.lpeEmptied.RegsOnly s.lpeCleared :=
  (((((State.set_regsOnly _ _ _).trans (State.set_regsOnly _ _ _)).trans (State.set_regsOnly _ _ _)).trans (State.set_regsOnly _ _ _)).trans
    (State.set_regsOnly _ _ _)).trans (State.set_regsOnly _ _ _)

theorem State.lpeCleared_lpe (s : State) : s.lpeCleared.lpe = s.lpeEmptied.lpe := by rw [s.lpeCleared_regsOnly]

theorem State.lpeCleared_boot (s : State) : s.lpeCleared.boot = s.lpeEmptied.boot := by rw [s.lpeCleared_regsOnly]

theorem State.lpeCleared_frame (s : State) : s.lpeCleared = { s with regs := s.lpeCleared.regs, lpe := s.lpeCleared.lpe, boot := s.lpeCleared.boot } := by
  rw [s.lpeCleared_lpe, s.lpeCleared_boot]
  exact s.lpeCleared_regsOnly

theorem exec_lpeReset_of_key {v : Word} (hv : v = 0x4C525354) : exec (.lpeReset v) s = .next s.lpeCleared.lpeUpdate :=
  congrArg _ (if_pos (congrArg BitVec.toNat hv))

theorem exec_lpeReset_of_other {v : Word} (hv : v ≠ 0x4C525354) : exec (.lpeReset v) s = .next (s.stick F.LPE_CFG_CFG) :=
  congrArg _ (if_neg fun h => hv (BitVec.eq_of_toNat_eq h))

theorem mem_lostGates_of_inbox {x : Nat × List Byte} (hx : x ∈ s.lpe.inbox) (hgate : smGate x.2 = true) : x.1 ∈ s.lostGates :=
  List.mem_append_left _ (List.mem_map.mpr ⟨x, List.mem_filter.mpr ⟨hx, hgate⟩, rfl⟩)

theorem mem_lostGates_of_unpaired {x : Unpaired} (hx : x ∈ s.lpe.unpaired) (hgate : smGate x.rec' = true) : x.cmd ∈ s.lostGates :=
  List.mem_append_right _ (List.mem_map.mpr ⟨x, List.mem_filter.mpr ⟨hx, hgate⟩, rfl⟩)

theorem State.failed_mem_lpeEmptied {id : Nat} (h : id ∈ s.lostGates) : (id, false) ∈ s.lpeEmptied.lpe.verdicts :=
  List.mem_append_right _ (List.mem_map.mpr ⟨id, h, rfl⟩)

theorem State.hwFault_of_latched (h : s.lpe.hwLatch = true) : s.hwFault = s := if_pos h

theorem State.hwFault_of_first (h : s.lpe.hwLatch = false) : s.hwFault =
    (State.lpeUpdate (State.fault { s with lpe := { s.lpe with hwLatch := true } } 8 0x41 0xA0 0 0x60 0 0 0 [])).lastWords 0x41 0xFF 0 0 :=
  if_neg (by simp [h])

theorem exec_lockstepMismatch (s : State) : exec .lockstepMismatch s = .next s.hwFault := rfl

theorem exec_loupeClockFault (s : State) : exec .loupeClockFault s = .next s.hwFault := by
  have hexec : exec .loupeClockFault s = .next s.clockFault := rfl
  rw [hexec, State.clockFault]

theorem exec_loupeException_of_fault (s : State) (sp : Bool) : exec (.loupeException true sp) s = .next s.hwFault := by
  have hexec : exec (.loupeException true sp) s = .next (s.loupeException true sp) := rfl
  rw [hexec, State.loupeException, if_pos rfl]

theorem exec_loupeException (s : State) (sp : Bool) : exec (.loupeException false sp) s = .next (s.loupeRestart (!sp)) := by
  have hexec : exec (.loupeException false sp) s = .next (s.loupeException false sp) := rfl
  rw [hexec, State.loupeException, if_neg Bool.false_ne_true]

theorem exec_lfWatchdogExpiry (s : State) : exec .lfWatchdogExpiry s = .next (s.loupeRestart false) := by
  have hexec : exec .lfWatchdogExpiry s = .next s.lfWatchdog := rfl
  rw [hexec, State.lfWatchdog]

theorem exec_loupeSramUe (s : State) : exec .loupeSramUe s = .next (s.loupeRestart false) := by
  have hexec : exec .loupeSramUe s = .next s.loupeUe := rfl
  rw [hexec, State.loupeUe]

theorem State.loupeRestart_eq (s : State) (bad : Bool) : s.loupeRestart bad =
    (((({ s with lpe := { s.lpe with down := some .restart } } : State).closeSession.trace 0x07 0xA0 0 0 (leBytes 1 5)).fault
      8 0x40 0xA0 0 0x60 0 0 0 (leBytes 1 (b2n bad)))).lpeUpdate := by
  rw [State.loupeRestart]

theorem exec_loupeRestartComplete_of_idle (ok : Bool) (h : s.lpe.down = none ∨ s.lpe.unpowered = true) :
    exec (.loupeRestartComplete ok) s = .next s := by
  have hexec : exec (.loupeRestartComplete ok) s = .next (s.loupeBack ok) := rfl
  rw [hexec, State.loupeBack]
  split
  · rfl
  · next hun =>
    rw [h.resolve_right hun]

theorem exec_loupeRestartComplete_of_start (ok : Bool) (hun : s.lpe.unpowered = false) (h : s.lpe.down = some .start) :
    exec (.loupeRestartComplete ok) s = .next (State.lpeUpdate { s with lpe := { s.lpe with
      down := none
      refreshed := (s.lpe.watchers.filter fun (x : Nat × List Byte) => rlValid x.2).map fun (x : Nat × List Byte) => (x.1, s.cad.time, s.tick) } }) := by
  have hexec : exec (.loupeRestartComplete ok) s = .next (s.loupeBack ok) := rfl
  rw [hexec, State.loupeBack, if_neg (by simp [hun]), h]

theorem exec_loupeRestartComplete_of_restart (ok : Bool) (hun : s.lpe.unpowered = false) (h : s.lpe.down = some .restart) {u : State}
    (hu : u = { s with lpe := { s.lpe with down := none, latchBy := none } }) : exec (.loupeRestartComplete ok) s = .next
      ((((if ok then (s.lpe.watchers.filter fun (x : Nat × List Byte) => rlValid x.2).foldl (fun (s : State) x => s.refresh x.1) u
        else { u with lpe := { u.lpe with cfCrc := none } }).set F.LPE_STATUS_LATCH 1).stick F.LPE_SELF_SELF).lpeUpdate) := by
  have hexec : exec (.loupeRestartComplete ok) s = .next (s.loupeBack ok) := rfl
  rw [hexec, State.loupeBack, if_neg (by simp [hun]), h, hu]

end

/-- Settles O49. -/
theorem loupeFaultsLatchAndRestart : Obligations.LoupeFaultsLatchAndRestart := by
  unfold Obligations.LoupeFaultsLatchAndRestart
  intro s v sp ok
  refine ⟨rfl, fun hv => ⟨s.lpeCleared, exec_lpeReset_of_key hv, ?_, ?_, ?_⟩, exec_lpeReset_of_other, fun h => ?_, fun h u hu => ?_,
    fun d hd => ⟨?_, ?_, ?_⟩, exec_loupeRestartComplete_of_idle ok, fun vs hvs hun => ⟨fun u h hu => ?_, fun h => ?_⟩⟩
  · rw [State.lpeCleared, State.get_set_apart (by decide) (by decide), State.get_set_same _ _ _ (by unfold Fld.inWord; decide)]
    rfl
  · rw [State.lpeCleared, State.get_set_same _ _ _ (by unfold Fld.inWord; decide)]
    rfl
  · rw [s.lpeCleared_frame.symm, s.lpeCleared_lpe, s.lpeCleared_boot]
    exact ⟨rfl, rfl, rfl, rfl, rfl, rfl, rfl, rfl, rfl, rfl, rfl, fun x hx hgate => State.failed_mem_lpeEmptied (mem_lostGates_of_inbox hx hgate),
      fun x hx hgate => State.failed_mem_lpeEmptied (mem_lostGates_of_unpaired hx hgate), fun x hx => List.mem_append_left _ hx, rfl, rfl, rfl, rfl, rfl⟩
  · rw [exec_lockstepMismatch, exec_loupeClockFault, exec_loupeException_of_fault, State.hwFault_of_latched h]
    exact ⟨rfl, rfl, rfl⟩
  · rw [exec_lockstepMismatch, exec_loupeClockFault, exec_loupeException_of_fault, State.hwFault_of_first h, hu]
    exact ⟨rfl, rfl, rfl⟩
  · rw [exec_loupeException, State.loupeRestart_eq, hd]
    cases sp <;> rfl
  · rw [exec_lfWatchdogExpiry, State.loupeRestart_eq, hd]
    rfl
  · rw [exec_loupeSramUe, State.loupeRestart_eq, hd]
    rfl
  · rw [exec_loupeRestartComplete_of_restart ok hun h hu, hvs]
  · rw [exec_loupeRestartComplete_of_start ok hun h, hvs]

end Sys2Proof.Machine
end


section

/-! The Loupe's judgement of summaries. -/

namespace Sys2Proof.Machine

/-! ### Summaries (R415 to R421) -/

section
variable {s : State}

theorem exec_summaryEvaluate_of_none (h : s.lpe.down.isSome = true ∨ s.lpe.unpowered = true ∨ s.lpe.inbox = []) :
    exec .summaryEvaluate s = .next s.alarmWake := by
  have hexec : exec .summaryEvaluate s = .next s.summaryNext.alarmWake := rfl
  rw [hexec, State.summaryNext]
  split
  · rfl
  · next hrun =>
    simp only [Bool.or_eq_true, not_or] at hrun
    obtain h | h | h := h
    · exact absurd h hrun.1
    · exact absurd h hrun.2
    · rw [h]

/-- The state after the oldest summary has been taken. -/
def State.inboxRest (s : State) (rest : List (Nat × List Byte)) : State := { s with lpe := { s.lpe with inbox := rest } }

theorem exec_summaryEvaluate {id : Nat} {r : List Byte} {rest : List (Nat × List Byte)} (hdown : s.lpe.down = none) (hun : s.lpe.unpowered = false)
    (hin : s.lpe.inbox = (id, r) :: rest) : exec .summaryEvaluate s = .next (State.alarmWake (if s.on F.LPE_STATUS_SAFE_READY = true then
      ((s.inboxRest rest).evaluate id r).lpeUpdate else (s.inboxRest rest).verdict id r false)) := by
  have hexec : exec .summaryEvaluate s = .next s.summaryNext.alarmWake := rfl
  have hready : (s.inboxRest rest).on F.LPE_STATUS_SAFE_READY = s.on F.LPE_STATUS_SAFE_READY := State.on_of_regs rfl _
  rw [hexec, State.summaryNext, if_neg (by simp [hdown, hun]), hin, ← hready]
  rfl

/-- Whether a summary is refused unjudged: nothing concerns it, or its pairing is not its channel's. -/
def State.noChannel (s : State) (r : List Byte) : Bool :=
  !(!(s.rulesFor r).isEmpty || !(s.watchersFor r).isEmpty || (s.pairOf (smChan r) (smTen r)).isSome) ||
    smMirror r != (s.pairOf (smChan r) (smTen r)).isSome

theorem State.noChannel_of {r : List Byte} (h : (s.rulesFor r = [] ∧ s.watchersFor r = [] ∧ s.pairOf (smChan r) (smTen r) = none) ∨
    (smMirror r = true ∧ s.pairOf (smChan r) (smTen r) = none) ∨ (smMirror r = false ∧ s.pairOf (smChan r) (smTen r) ≠ none)) :
    s.noChannel r = true := by
  unfold State.noChannel
  obtain ⟨h1, h2, h3⟩ | ⟨h1, h2⟩ | ⟨h1, h2⟩ := h
  · simp [h1, h2, h3]
  · simp [h1, h2]
  · simp [h1, Option.isSome_iff_ne_none.mpr h2]

theorem State.noChannel_of_rules {r : List Byte} (hp : s.pairOf (smChan r) (smTen r) = none) (hm : smMirror r = false)
    (h : s.rulesFor r ≠ [] ∨ s.watchersFor r ≠ []) : s.noChannel r = false := by
  unfold State.noChannel
  have hempty : ((s.rulesFor r).isEmpty && (s.watchersFor r).isEmpty) = false := by
    rcases h with h | h
    · rw [List.isEmpty_eq_false_iff.mpr h, Bool.false_and]
    · rw [List.isEmpty_eq_false_iff.mpr h, Bool.and_false]
  simp [hp, hm, hempty]

theorem State.noChannel_of_pair {r : List Byte} {x : Nat × Bool} (hp : s.pairOf (smChan r) (smTen r) = some x) (hm : smMirror r = true) :
    s.noChannel r = false := by
  unfold State.noChannel
  simp [hp, hm]

theorem State.evaluate_of_noChannel (id : Nat) {r : List Byte} (h : s.noChannel r = true) : s.evaluate id r =
    ((s.stick F.LPE_NOCHAN_NOCHAN).event ((s.stick F.LPE_NOCHAN_NOCHAN).eventRec 9 0 0 (smTen r) 0 (smChan r) (smSeq r) (smUtag r))).verdict
      id r false :=
  if_pos h

theorem State.evaluate_of_none (id : Nat) {r : List Byte} (h : s.noChannel r = false) (hp : s.pairOf (smChan r) (smTen r) = none) :
    s.evaluate id r = (if (s.judge r).1 then (s.judge r).2.refreshAll r else (s.judge r).2).verdict id r (s.judge r).1 := by
  refine (if_neg (Bool.not_eq_true _ ▸ h)).trans ?_
  rw [hp]

theorem State.evaluate_of_pair (id : Nat) {r : List Byte} {i : Nat} {side : Bool} (h : s.noChannel r = false)
    (hp : s.pairOf (smChan r) (smTen r) = some (i, side)) : s.evaluate id r = (s.judge r).2.mirror id i side (s.judge r).1 r := by
  refine (if_neg (Bool.not_eq_true _ ▸ h)).trans ?_
  rw [hp]

theorem State.judge_fst {r : List Byte} : (s.judge r).1 = true ↔ isGood (smStatus r) = true ∧ ∀ x ∈ s.rulesFor r, ruleHolds x.2 r = true := by
  unfold State.judge
  simp [List.filter_eq_nil_iff, and_comm]

theorem State.judge_snd_of_holds {r : List Byte} (h : ∀ x ∈ s.rulesFor r, ruleHolds x.2 r = true) : (s.judge r).2 = s := by
  unfold State.judge
  have hnone : (s.rulesFor r).filter (fun (x : Nat × List Byte) => !(ruleHolds x.2 r)) = [] := by
    simpa [List.filter_eq_nil_iff] using h
  simp only [hnone, List.foldl_nil]

/-- A summary of a pair's channel, judged. -/
theorem exec_summaryEvaluate_of_pair {id i : Nat} {r : List Byte} {rest : List (Nat × List Byte)} {u j : State} {side ok : Bool} (hdown : s.lpe.down = none)
    (hun : s.lpe.unpowered = false) (hin : s.lpe.inbox = (id, r) :: rest) (hu : u = { s with lpe := { s.lpe with inbox := rest } })
    (hready : s.on F.LPE_STATUS_SAFE_READY = true) (hj : u.judge r = (ok, j)) (hp : s.pairOf (smChan r) (smTen r) = some (i, side))
    (hm : smMirror r = true) : exec .summaryEvaluate s = .next ((j.mirror id i side ok r).lpeUpdate).alarmWake := by
  have hp : u.pairOf (smChan r) (smTen r) = some (i, side) := by rw [hu]; exact hp
  rw [exec_summaryEvaluate hdown hun hin, if_pos hready, State.inboxRest, ← hu, State.evaluate_of_pair id (State.noChannel_of_pair hp hm) hp, hj]

/-! ### Pairs (R420, R421) -/

section
variable (id i : Nat) (side ok : Bool) (r : List Byte)

/-- The oldest unpaired summary of the other side with the UTAG of `r`. -/
def State.mate (s : State) (i : Nat) (side : Bool) (r : List Byte) : Option Unpaired :=
  s.lpe.unpaired.find? fun (u : Unpaired) => u.pair == i && u.side != side && smUtag u.rec' == smUtag r

/-- The cause for which a pair fails, none where it passes. -/
def State.pairCause (s : State) (i : Nat) (side ok : Bool) (r : List Byte) (p : Unpaired) : Option Nat :=
  match pairCompare (s.lpePair i) (if side then p.rec' else r) (if side then r else p.rec') with
  | some c => some c
  | none => if ok && p.ok then none else some 4

theorem State.mirror_of_mate {p : Unpaired} {w : State} (hp : s.mate i side r = some p)
    (hw : w = { s with lpe := { s.lpe with unpaired := s.lpe.unpaired.erase p } }) : s.mirror id i side ok r =
    match s.pairCause i side ok r p with
    | none => (((w.refreshAll p.rec').refreshAll r).verdict p.cmd p.rec' true).verdict id r true
    | some c => ((w.pairFail i c r).verdict p.cmd p.rec' false).verdict id r false := by
  unfold State.mate at hp
  rw [State.mirror, hp, hw] <;> rfl

theorem State.mirror_of_none {w : State} (hp : s.mate i side r = none)
    (hw : w = { s with lpe := { s.lpe with unpaired := s.lpe.unpaired ++ [⟨i, side, id, r, ok, s.cad.time⟩] } }) : s.mirror id i side ok r =
    if w.lpe.lostMates.contains (i, !side, smUtag r) then
      State.missing { w with lpe := { w.lpe with lostMates := w.lpe.lostMates.erase (i, !side, smUtag r) } } ⟨i, side, id, r, ok, s.cad.time⟩
    else match s.lpe.unpaired.filter (fun (u : Unpaired) => u.pair == i && u.side == side) with
      | u :: _ => if 16 ≤ (s.lpe.unpaired.filter (fun (u : Unpaired) => u.pair == i && u.side == side)).length then w.missing u else w
      | [] => w := by
  unfold State.mate at hp
  rw [State.mirror, hp, hw] <;> rfl

end

/-! ### Verdicts (R419) -/

theorem exec_gatedVerdict_of_none {id : Nat} (h : s.lpe.verdicts.find? (fun v => v.1 == id) = none) : exec (.gatedVerdict id) s = .next s := by
  have hexec : exec (.gatedVerdict id) s = .next (s.verdictIn id) := rfl
  rw [hexec, State.verdictIn, h]

theorem exec_gatedVerdict {id : Nat} {pass : Bool} {w : State} (h : s.lpe.verdicts.find? (fun v => v.1 == id) = some (id, pass))
    (hw : w = ({ s with lpe := { s.lpe with verdicts := s.lpe.verdicts.erase (id, pass) } } : State).modCmd id
      (fun (x : Cmd) => { x with verdict := some pass })) :
    exec (.gatedVerdict id) s = .next ((s.cmd? id).elim w fun c => if pass = false ∧ c.phase = .drained then w.fail id stABORT_SAFETY else w) := by
  have hexec : exec (.gatedVerdict id) s = .next (s.verdictIn id) := rfl
  have hcmd : w.cmd? id = (s.cmd? id).map fun (x : Cmd) => { x with verdict := some pass } := by
    rw [hw]
    exact State.cmd?_modCmd _ _ _ fun _ => rfl
  rw [hexec, State.verdictIn, h]
  dsimp only
  rw [← hw, hcmd]
  cases s.cmd? id with
  | none => rfl
  | some c => exact congrArg _ (ite_of_iff (by simp) rfl rfl)

end

/-- Settles O47. -/
theorem loupeJudgesItsSummaries : Obligations.LoupeJudgesItsSummaries := by
  unfold Obligations.LoupeJudgesItsSummaries
  refine ⟨fun s id r rest u => ⟨exec_summaryEvaluate_of_none, fun hdown hun hin hu => ⟨fun hready => ?_, fun hready => ⟨fun hno => ?_, fun ok j hj =>
    ⟨?_, ?_, fun hm hp hconcern => ?_, fun i side hp hm => ⟨fun p w hfind hw => ⟨fun hok hpok hcmp => ?_, fun c hc => ?_⟩,
      fun me w hfind hme hw => ⟨fun hlost => ?_, fun hkept mine hmine => ⟨fun hlen => ?_, fun old more hold hlen => ?_⟩⟩⟩⟩⟩⟩⟩,
    fun s id => ⟨fun pass w hfind hw => ⟨fun hc => ?_, fun c hc => ?_⟩, fun hnone => ?_⟩, fun s i => ⟨fun p hp => ?_, fun hnone => ?_⟩, fun s => rfl⟩
  · rw [exec_summaryEvaluate hdown hun hin, if_neg (by simp [hready]), hu]
    rfl
  · have hno : u.noChannel r = true := State.noChannel_of (hu ▸ hno)
    rw [exec_summaryEvaluate hdown hun hin, if_pos hready, State.inboxRest, ← hu, State.evaluate_of_noChannel id hno]
  · rw [show s.rulesFor r = u.rulesFor r by rw [hu]; rfl, ← State.judge_fst, hj]
  · rw [show s.rulesFor r = u.rulesFor r by rw [hu]; rfl]
    exact fun h => (congrArg Prod.snd hj).symm.trans (State.judge_snd_of_holds h)
  · have hp : u.pairOf (smChan r) (smTen r) = none := by rw [hu]; exact hp
    have hno : u.noChannel r = false := State.noChannel_of_rules hp hm (by rw [hu]; exact hconcern)
    rw [exec_summaryEvaluate hdown hun hin, if_pos hready, State.inboxRest, ← hu, State.evaluate_of_none id hno hp, hj]
  · rw [exec_summaryEvaluate_of_pair hdown hun hin hu hready hj hp hm, State.mirror_of_mate id i side ok r hfind hw, State.pairCause, hcmp]
    simp only [hok, hpok, Bool.and_self, if_true]
  · have hcause : j.pairCause i side ok r p = some c := by
      unfold State.pairCause
      obtain hc | ⟨rfl, hbad, hc⟩ := hc
      · rw [hc]
      · rw [hc]
        obtain h | h := hbad <;> simp [h]
    rw [exec_summaryEvaluate_of_pair hdown hun hin hu hready hj hp hm, State.mirror_of_mate id i side ok r hfind hw, hcause]
  · rw [exec_summaryEvaluate_of_pair hdown hun hin hu hready hj hp hm, State.mirror_of_none id i side ok r hfind (hme ▸ hw), if_pos, hme]
    rw [hw]
    exact List.contains_iff_mem.mpr hlost
  · rw [exec_summaryEvaluate_of_pair hdown hun hin hu hready hj hp hm, State.mirror_of_none id i side ok r hfind (hme ▸ hw), if_neg, ← hmine]
    · cases mine with
      | nil => rfl
      | cons old more =>
        dsimp only
        rw [if_neg (Nat.not_le.mpr hlen)]
    · rw [hw]
      exact fun h => hkept (List.contains_iff_mem.mp h)
  · rw [exec_summaryEvaluate_of_pair hdown hun hin hu hready hj hp hm, State.mirror_of_none id i side ok r hfind (hme ▸ hw), if_neg, ← hmine, hold]
    · dsimp only
      rw [if_pos (hold ▸ hlen)]
    · rw [hw]
      exact fun h => hkept (List.contains_iff_mem.mp h)
  · rw [exec_gatedVerdict hfind hw, hc]
    rfl
  · rw [exec_gatedVerdict hfind hw, hc]
    rfl
  · exact exec_gatedVerdict_of_none hnone
  · have hexec : exec (.mirrorWindowExpiry i) s = .next (s.mirrorExpire i.val).alarmWake := rfl
    rw [hexec, State.mirrorExpire, hp]
  · have hexec : exec (.mirrorWindowExpiry i) s = .next (s.mirrorExpire i.val).alarmWake := rfl
    rw [hexec, State.mirrorExpire, List.find?_eq_none.mpr fun p hp => by simpa using hnone p hp]

end Sys2Proof.Machine
end


section

/-! Watchers, patterns, tripwires, the fault latch and the event ring of the Loupe. -/

namespace Sys2Proof.Machine

/-! ### Watchers, holds and tripwires (R422, R426, R428) -/

section
variable {s : State}

theorem exec_watcherExpiry_of_quiet {w : Fin 256} (h : s.on F.LPE_STATUS_ARMED = false ∨ w.val ∈ s.lpe.expired ∨ rlValid (s.lpeWatch w.val) = false ∨
    s.watchDeadline w.val = none) : exec (.watcherExpiry w) s = .next s.alarmWake := by
  have hexec : exec (.watcherExpiry w) s = .next (s.watchExpire w.val).alarmWake := rfl
  rw [hexec, State.watchExpire]
  dsimp only
  split
  · rfl
  · next d hd =>
    rw [if_neg]
    obtain h | h | h | h := h
    · simp [h]
    · simp [h]
    · simp [h]
    · exact absurd (hd.symm.trans h) (by simp)

theorem exec_watcherExpiry {w : Fin 256} {d : Nat} {a b : State} (hd : s.watchDeadline w.val = some d) (hvalid : rlValid (s.lpeWatch w.val) = true)
    (harmed : s.on F.LPE_STATUS_ARMED = true) (hnew : w.val ∉ s.lpe.expired)
    (ha : a = { s.advance d with lpe := { (s.advance d).lpe with expired := (s.advance d).lpe.expired ++ [w.val] } })
    (hb : b = (a.raise (waAction (s.lpeWatch w.val)) (some w.val)).stick F.LPE_AGE_AGE) : exec (.watcherExpiry w) s =
      .next ((b.event (b.eventRec 2 (waAction (s.lpeWatch w.val)) w.val (rlTen (s.lpeWatch w.val)) 0 (rlChan (s.lpeWatch w.val)) 0 0)).lpeUpdate).alarmWake := by
  have hexec : exec (.watcherExpiry w) s = .next (s.watchExpire w.val).alarmWake := rfl
  rw [hexec, State.watchExpire, hd]
  dsimp only
  rw [if_pos (by simp [hvalid, harmed, hnew]), ← ha, ← hb]

theorem exec_patternHoldExpiry {p : Fin 15} {t : Nat} (h : kvFind s.lpe.holds p.val = some t) : exec (.patternHoldExpiry p) s =
    .next ((State.patEnded { s.advance t with lpe := { (s.advance t).lpe with holds := kvDel (s.advance t).lpe.holds p.val } } p.val
      ((s.advance t).patActive p.val)).lpeUpdate) := by
  have hexec : exec (.patternHoldExpiry p) s = .next (s.holdExpire p.val) := rfl
  rw [hexec, State.holdExpire, h]

theorem exec_patternHoldExpiry_of_none {p : Fin 15} (h : kvFind s.lpe.holds p.val = none) : exec (.patternHoldExpiry p) s = .next s := by
  have hexec : exec (.patternHoldExpiry p) s = .next (s.holdExpire p.val) := rfl
  rw [hexec, State.holdExpire, h]

theorem exec_tripwireRecord_of_none (h : s.lpe.trips = [] ∨ s.lpe.down.isSome = true ∨ s.lpe.unpowered = true) :
    exec .tripwireRecord s = .next s.alarmWake := by
  have hexec : exec .tripwireRecord s = .next s.tripNext.alarmWake := rfl
  rw [hexec, State.tripNext]
  split
  · rfl
  · next hrun =>
    simp only [Bool.or_eq_true, not_or] at hrun
    obtain h | h | h := h
    · rw [h]
    · exact absurd h hrun.1
    · exact absurd h hrun.2

theorem exec_tripwireRecord {t : TripRec} {rest : List TripRec} {a b : State} {z : Nat} (hdown : s.lpe.down = none) (hun : s.lpe.unpowered = false)
    (htrips : s.lpe.trips = t :: rest) (ha : a = { s with lpe := { s.lpe with trips := rest } }) (hz : z = leAt (s.lpePat (256 + t.zone)) 0 1 % 16)
    (hb : b = a.raise z none) : exec .tripwireRecord s =
      .next (if s.on F.LPE_STATUS_ARMED then (b.event (b.eventRec 5 z t.zone 0 0 0 t.camera t.zone)).lpeUpdate else a).alarmWake := by
  have hexec : exec .tripwireRecord s = .next s.tripNext.alarmWake := rfl
  have harmed : a.on F.LPE_STATUS_ARMED = s.on F.LPE_STATUS_ARMED := by
    rw [ha]
    exact State.on_of_regs rfl _
  have hz' : z = leAt (a.lpePat (256 + t.zone)) 0 1 % 16 := by
    rw [hz, ha]
    rfl
  rw [hexec, State.tripNext, if_neg (by simp [hdown, hun]), htrips]
  dsimp only
  rw [← ha, harmed, ← hz', ← hb]

/-! ### The fault latch and latched alarms (R426, R427) -/

theorem exec_faultClear_of_free {v : Word} (h : ∀ k, s.lpe.latchBy = some k → k ∉ s.lpe.expired) (hv : bit v.toNat 0 = true) :
    exec (.faultClear v) s = .next (State.set { s with lpe := { s.lpe with latchBy := none } } F.LPE_STATUS_LATCH 0).lpeUpdate := by
  refine congrArg _ (if_pos ?_)
  rw [hv, Bool.true_and, Bool.not_eq_true', Option.any_eq_false]
  exact fun k hk => by simpa using h k hk

theorem exec_faultClear_of_held {v : Word} (h : bit v.toNat 0 = false ∨ ∃ k, s.lpe.latchBy = some k ∧ k ∈ s.lpe.expired) :
    exec (.faultClear v) s = .next s := by
  refine congrArg _ (if_neg ?_)
  obtain h | ⟨k, hk, hexp⟩ := h
  · simp [h]
  · simp [hk, hexp]

theorem State.event_of_quiet (hlp : s.on F.LPE_CTRL_LP_EN = false) (hring : s.get F.LPE_ELOG_WIN_ID = 0xFFFF) (r : List Byte) : s.event r = s := by
  have hframe : s.lpFrame 2 r = s := if_neg (by simp [hlp])
  have hoff : s.elogOn = false := by simp [State.elogOn, hring]
  rw [State.event, hframe]
  exact if_pos (by simp [hoff])

end

/-- One pattern of a write of LPE_ALARM_CLR. -/
def State.alarmStep (v : Nat) (s : State) (k : Nat) : State :=
  if bit v (k + 2) && bit s.lpe.latched (k + 2) then
    State.patEnded { s with lpe := { s.lpe with latched := putBit s.lpe.latched (k + 2) false } } (k + 2) (s.patActive (k + 2))
  else s

/-- The state after all patterns of a write of LPE_ALARM_CLR. -/
def State.alarmsCleared (s : State) (v : Nat) : State := (List.range 13).foldl (State.alarmStep v) s

theorem exec_alarmClear (s : State) (v : Word) : exec (.alarmClear v) s = .next (s.alarmsCleared v.toNat).lpeUpdate := rfl

theorem State.alarmStep_idle {v k : Nat} {s : State} (h : bit v (k + 2) = false ∨ bit s.lpe.latched (k + 2) = false) : s.alarmStep v k = s := by
  refine if_neg ?_
  obtain h | h := h <;> simp [h]

theorem State.patEnded_lpe (s : State) (p : Nat) (was : Bool) : (s.patEnded p was).lpe =
    { s.lpe with lpSeq := (s.patEnded p was).lpe.lpSeq, kept := (s.patEnded p was).lpe.kept } := by
  have h : s.Noted (s.patEnded p was) := by
    unfold State.patEnded
    split
    · exact s.event_noted _
    · exact .refl s
  exact h.lpe

/-- A step changes one latched bit, and else what an event of the Loupe changes. -/
theorem State.alarmStep_lpe (v k : Nat) (s : State) : (State.alarmStep v s k).lpe =
    { s.lpe with
      latched := if bit v (k + 2) && bit s.lpe.latched (k + 2) then putBit s.lpe.latched (k + 2) false else s.lpe.latched
      lpSeq := (State.alarmStep v s k).lpe.lpSeq, kept := (State.alarmStep v s k).lpe.kept } := by
  unfold State.alarmStep
  split
  · rw [State.patEnded_lpe]
  · rfl

theorem bit_putBit_other {i j : Nat} (h : j ≠ i) (w : Nat) (b : Bool) : bit (putBit w i b) j = bit w j := by
  rw [bit, putBit, bitsOf_putBits_other _ _ _ _ _ _ (by omega), bit]

theorem State.latched_alarmStep (v k : Nat) (s : State) (j : Nat) :
    bit (State.alarmStep v s k).lpe.latched j = (bit s.lpe.latched j && !(decide (j = k + 2) && bit v j)) := by
  rw [State.alarmStep_lpe]
  by_cases hj : j = k + 2
  · subst hj
    cases hv : bit v (k + 2) <;> cases hl : bit s.lpe.latched (k + 2) <;> simp [hl, bit_putBit]
  · simp only [hj, decide_false, Bool.false_and, Bool.not_false, Bool.and_true]
    split
    · exact bit_putBit_other hj _ _
    · rfl

theorem State.latched_alarmsCleared (s : State) (v j : Nat) :
    bit (s.alarmsCleared v).lpe.latched j = if 2 ≤ j ∧ j ≤ 14 ∧ bit v j = true then false else bit s.lpe.latched j := by
  have hfold (n : Nat) : bit ((List.range n).foldl (State.alarmStep v) s).lpe.latched j =
      if 2 ≤ j ∧ j < n + 2 ∧ bit v j = true then false else bit s.lpe.latched j := by
    induction n with
    | zero => rw [if_neg (by omega)]; rfl
    | succ n ih =>
      rw [List.range_succ, List.foldl_append, List.foldl_cons, List.foldl_nil, State.latched_alarmStep, ih]
      by_cases hj : j = n + 2
      · subst hj
        cases hv : bit v (n + 2) <;> simp
      · simp only [hj, decide_false, Bool.false_and, Bool.not_false, Bool.and_true, show j < n + 1 + 2 ↔ j < n + 2 by omega]
  rw [State.alarmsCleared, hfold]
  simp only [show j < 13 + 2 ↔ j ≤ 14 by omega]

theorem State.alarmsCleared_idle {s : State} {v : Nat} (h : ∀ k : Nat, 2 ≤ k → k ≤ 14 → bit v k = false ∨ bit s.lpe.latched k = false) :
    s.alarmsCleared v = s := by
  refine foldl_keeps (P := fun u => u = s) ?_ rfl
  rintro u k hk rfl
  have hk := List.mem_range.mp hk
  exact State.alarmStep_idle (h (k + 2) (by omega) (by omega))

/-- Nothing of the Loupe's alarms but the latched ones changes. -/
theorem State.alarmsCleared_lpe (s : State) (v : Nat) : (s.alarmsCleared v).lpe.holds = s.lpe.holds ∧ (s.alarmsCleared v).lpe.expired = s.lpe.expired := by
  refine foldl_keeps (P := fun u : State => u.lpe.holds = s.lpe.holds ∧ u.lpe.expired = s.lpe.expired) (fun u k _ h => ?_) ⟨rfl, rfl⟩
  rw [State.alarmStep_lpe]
  exact h

/-- Without a ring and frames an alarm's end leaves no trace. -/
theorem State.alarmsCleared_frame {s : State} (v : Nat) (hlp : s.on F.LPE_CTRL_LP_EN = false) (hring : s.get F.LPE_ELOG_WIN_ID = 0xFFFF) :
    s.alarmsCleared v = { s with lpe := { s.lpe with latched := (s.alarmsCleared v).lpe.latched } } := by
  refine foldl_keeps (P := fun u : State => u = { s with lpe := { s.lpe with latched := u.lpe.latched } }) (fun u k _ h => ?_) rfl
  have hregs : u.regs = s.regs := by rw [h]
  unfold State.alarmStep State.patEnded
  split
  · split
    · rw [State.event_of_quiet ((State.on_of_regs (by exact hregs) _).trans hlp) ((State.get_of_regs (by exact hregs) _).trans hring)]
      rw [h]
    · rw [h]
  · exact h

/-! ### Frames and the event ring (R429, R436) -/

theorem exec_lpStatusFrame (s : State) : exec .lpStatusFrame s = .next (s.lpFrame 1 []) := rfl

/-- What a record's write to the event ring leaves. -/
theorem State.elogWrite_kept (s : State) (r : List Byte) : (s.elogWrite r).2.lpe = s.lpe ∧
    (s.elogWrite r).2.get F.LPE_ELOG_WIN_ID = s.get F.LPE_ELOG_WIN_ID := by
  unfold State.elogWrite
  extract_lets da k tail off
  split
  · exact ⟨rfl, rfl⟩
  split
  · exact ⟨rfl, rfl⟩
  split
  · have h := s.bridleRange_storeOnly (daSpace da) 0 0x60 clsSYSTEM true off 32
    split
    · next u hu =>
      rw [hu] at h
      have hput := h.trans (u.memWrite_storeOnly (daSpace da) (cellsAt off r))
      dsimp only
      rw [State.set_lpe, State.get_set_apart (f := F.LPE_ELOG_TAIL) (by decide) (by decide), hput.lpe_eq, hput.get F.LPE_ELOG_WIN_ID rfl]
      exact ⟨rfl, rfl⟩
    · next u hu =>
      rw [hu] at h
      exact ⟨h.lpe_eq, h.get F.LPE_ELOG_WIN_ID rfl⟩
  · exact ⟨rfl, rfl⟩

/-- One kept record of a flush: the flag says whether the ring still takes records. -/
def State.flushStep (x : Bool × State) (r : List Byte) : Bool × State :=
  if x.1 then
    match x.2.elogWrite r with
    | (true, t) => (true, { t with lpe := { t.lpe with kept := t.lpe.kept.drop 1 } })
    | (false, t) => (false, t)
  else x

theorem State.elogFlush_eq (s : State) : s.elogFlush = (s.lpe.kept.foldl State.flushStep (true, s)).2 := rfl

theorem State.flushStep_of_stopped (l : List (List Byte)) (s : State) : l.foldl State.flushStep (false, s) = (false, s) :=
  foldl_keeps (P := fun x => x = (false, s)) (fun _ _ _ h => by rw [h]; rfl) rfl

theorem State.flushStep_of_write {s a : State} {r : List Byte} {b : Bool} (h : s.elogWrite r = (b, a)) : State.flushStep (true, s) r =
    if b then (true, { a with lpe := { a.lpe with kept := s.lpe.kept.drop 1 } }) else (false, a) := by
  have hlpe : a.lpe = s.lpe := by
    have hkept := (s.elogWrite_kept r).1
    rwa [h] at hkept
  rw [State.flushStep, if_pos rfl, ← hlpe]
  dsimp only
  rw [h]
  cases b <;> rfl

theorem exec_eventRingFlush (s : State) : exec .eventRingFlush s = .next (if s.elogOn then s.elogFlush else s) := rfl

theorem exec_eventRingFlush_of_none {s : State} (h : s.get F.LPE_ELOG_WIN_ID = 0xFFFF ∨ s.lpe.kept = []) : exec .eventRingFlush s = .next s := by
  rw [exec_eventRingFlush]
  obtain h | h := h
  · rw [if_neg (by simp [State.elogOn, h])]
  · rw [State.elogFlush_eq, h, List.foldl_nil, ite_self]

section
variable {s a : State} {r : List Byte} {rest : List (List Byte)} {b : Bool}

theorem exec_eventRingFlush_of_kept (hring : s.get F.LPE_ELOG_WIN_ID ≠ 0xFFFF) (hkept : s.lpe.kept = r :: rest) (h : s.elogWrite r = (b, a)) :
    exec .eventRingFlush s =
      .next (rest.foldl State.flushStep (if b then (true, { a with lpe := { a.lpe with kept := rest } }) else (false, a))).2 := by
  rw [exec_eventRingFlush, if_pos (by simp [State.elogOn, hring]), State.elogFlush_eq, hkept, List.foldl_cons, State.flushStep_of_write h, hkept,
    List.drop_one, List.tail_cons]

/-- What is kept after the first record is flushed as before. -/
theorem exec_eventRingFlush_of_written (hring : s.get F.LPE_ELOG_WIN_ID ≠ 0xFFFF) (h : s.elogWrite r = (true, a)) :
    exec .eventRingFlush ({ a with lpe := { a.lpe with kept := rest } } : State) =
      .next (rest.foldl State.flushStep (true, { a with lpe := { a.lpe with kept := rest } })).2 := by
  have hwin : a.get F.LPE_ELOG_WIN_ID = s.get F.LPE_ELOG_WIN_ID := by
    have hkept := (s.elogWrite_kept r).2
    rwa [h] at hkept
  have hget : State.get { a with lpe := { a.lpe with kept := rest } } F.LPE_ELOG_WIN_ID = s.get F.LPE_ELOG_WIN_ID :=
    (State.get_of_regs rfl _).trans hwin
  rw [exec_eventRingFlush, if_pos (by simp [State.elogOn, hget, hring])]
  rfl

end

/-- Settles O48. -/
theorem loupeRaisesAndClearsItsAlarms : Obligations.LoupeRaisesAndClearsItsAlarms := by
  unfold Obligations.LoupeRaisesAndClearsItsAlarms
  intro s w p v f
  refine ⟨fun d a b hd hvalid harmed hnew ha hb => exec_watcherExpiry hd hvalid harmed hnew ha hb, fun t n h => ?_, exec_watcherExpiry_of_quiet,
    fun t a h ha => ?_, exec_patternHoldExpiry_of_none, fun t rest a b z hdown hun htrips ha hz hb => exec_tripwireRecord hdown hun htrips ha hz hb,
    exec_tripwireRecord_of_none, exec_faultClear_of_free, exec_faultClear_of_held, fun h => ?_, ⟨s.alarmsCleared v.toNat, exec_alarmClear s v, s.latched_alarmsCleared v.toNat, ?_, ?_, ?_⟩, ?_, ?_, rfl, ?_, ?_⟩
  · rw [State.watchDeadline]
    rw [h]
  · rw [exec_patternHoldExpiry h, ha]
  · rw [exec_alarmClear, State.alarmsCleared_idle h]
  · exact (s.alarmsCleared_lpe _).1
  · exact (s.alarmsCleared_lpe _).2
  · exact State.alarmsCleared_frame _
  · intro h
    refine congrArg _ (if_neg ?_)
    obtain h | h := h <;> simp [h]
  · intro hlp hun
    rw [exec_lpStatusFrame, State.lpFrame, if_pos (by simp [hlp, hun])]
    exact ⟨_, rfl, rfl, ⟨_, rfl⟩, rfl⟩
  · exact exec_eventRingFlush_of_none
  · intro r rest a b hring hkept h
    rw [exec_eventRingFlush_of_kept hring hkept h]
    refine ⟨?_, ?_, ?_⟩
    · rintro rfl
      rw [if_neg Bool.false_ne_true, State.flushStep_of_stopped]
    · rintro rfl rfl
      rfl
    · rintro rfl
      rw [exec_eventRingFlush_of_written hring h, if_pos rfl]

end Sys2Proof.Machine
end


section

/-! The test access port, the debugger and SPDM. -/

namespace Sys2Proof.Machine

section
variable {s : State}

/-! ### TAP instructions and the debugger (Table 16.10, R456 to R459, R465) -/

theorem State.boundaryOpen_eq_true (h : s.get F.SEC_LC_STATE = 0 ∨ s.get F.SEC_LC_STATE = 3 ∨ s.get F.SEC_DBG_LEVEL = 2) : s.boundaryOpen = true := by
  unfold State.boundaryOpen
  obtain h | h | h := h <;> simp [h]

theorem State.boundaryOpen_eq_false (h : s.get F.SEC_LC_STATE = 1 ∨ s.get F.SEC_LC_STATE = 2) (hlevel : s.get F.SEC_DBG_LEVEL ≠ 2) :
    s.boundaryOpen = false := by
  unfold State.boundaryOpen
  obtain h | h := h <;> simp [h, hlevel]

theorem exec_pins (b : Bool) (h : s.boundaryOpen = b) : exec .extest s = .next (s.tapTo (if b then 3 else 1)) ∧
    exec .clamp s = .next (s.tapTo (if b then 4 else 1)) ∧ exec .highz s = .next (s.tapTo (if b then 5 else 1)) := by
  rw [← h]
  exact ⟨rfl, rfl, rfl⟩

theorem exec_dbgTrace (s : State) (reg : Bool) (i : Fin 131072) : exec (.dbgTrace reg i) s = .next (if s.get F.SEC_DBG_LEVEL = 0 then s.tapTo 1
    else if reg then (s.tapTo 8).out (.jtag (leBytes 4 ((s.word (F.TRC_CTRL_EN.addr + 4 * (i.val % 0x400))).getD 0)))
    else ((s.tapTo 8).traceRead i.val).2.out (.jtag ((s.tapTo 8).traceRead i.val).1)) := rfl

theorem State.traceRead_asleep {i : Nat} (h : s.get F.PWR_STATUS_STATE = 2 ∨ s.get F.PWR_STATUS_STATE = 3) :
    (s.tapTo 8).traceRead i = (List.replicate 32 0, s.tapTo 8) :=
  if_pos (by rw [Bool.or_eq_true, decide_eq_true_eq, decide_eq_true_eq, State.get_of_regs (s := s) (u := s.tapTo 8) rfl]; exact h)

theorem State.traceRead_awake {i : Nat} (h2 : s.get F.PWR_STATUS_STATE ≠ 2) (h3 : s.get F.PWR_STATUS_STATE ≠ 3) :
    (s.tapTo 8).traceRead i = (s.tapTo 8).memReadFree 1 (0x5000000 + 32 * i) 32 0x52 :=
  if_neg (by rw [Bool.or_eq_true, decide_eq_true_eq, decide_eq_true_eq, State.get_of_regs (s := s) (u := s.tapTo 8) rfl]; exact not_or.mpr ⟨h2, h3⟩)

theorem trcUser_inWord (j : Nat) : (F.TRC_USER j).inWord := Nat.le_refl 32

theorem State.trcUser_eq (s : State) (v : Word) : s.trcUser v.toNat = (s.set (F.TRC_USER 3) v.toNat).trace 0x0C 0x60 0 0
    (leBytes 4 (s.get (F.TRC_USER 0)) ++ leBytes 4 (s.get (F.TRC_USER 1)) ++ leBytes 4 (s.get (F.TRC_USER 2)) ++ leBytes 4 v.toNat) := by
  have h3 : (s.set (F.TRC_USER 3) v.toNat).get (F.TRC_USER 3) = v.toNat :=
    (State.get_set_same _ _ _ (trcUser_inWord 3)).trans (Nat.mod_eq_of_lt v.isLt)
  have hj (j : Nat) (hj : (F.TRC_USER j).Apart (F.TRC_USER 3)) : (s.set (F.TRC_USER 3) v.toNat).get (F.TRC_USER j) = s.get (F.TRC_USER j) :=
    State.get_set_apart (trcUser_inWord 3) hj
  have hlist : (List.range 4).flatMap (fun j => leBytes 4 ((s.set (F.TRC_USER 3) v.toNat).get (F.TRC_USER j))) =
      leBytes 4 (s.get (F.TRC_USER 0)) ++ leBytes 4 (s.get (F.TRC_USER 1)) ++ leBytes 4 (s.get (F.TRC_USER 2)) ++ leBytes 4 v.toNat := by
    simp only [List.range_succ, List.range_zero, List.nil_append, List.flatMap_append, List.flatMap_cons, List.flatMap_nil, List.append_nil,
      hj 0 (by decide), hj 1 (by decide), hj 2 (by decide), h3, List.append_assoc]
  rw [State.trcUser, hlist]

/-! ### SPDM (R445) -/

theorem exec_spdmRequest (s : State) (code : Byte) (n : Option (Fin 4)) (req : List Byte) :
    exec (.spdmRequest code n req) s = .next (s.spdm code.toNat (n.map (·.val)) req) := rfl

theorem State.spdmError_answer (s : State) (code data : Nat) : ∃ o, s.spdmError code data = s.out (.spdm o) ∧ leAt o 1 1 = 0x7F := ⟨_, rfl, rfl⟩

theorem State.spdm_of_dead {c : Nat} (h : s.dead = true) (hc : c ≠ 0x84) (n : Option Nat) (req : List Byte) : s.spdm c n req = s.spdmError 0x05 0 :=
  if_pos (by simp [h, hc])

theorem State.spdm_of_alive (h : s.dead = false) (c : Nat) (n : Option Nat) (req : List Byte) : s.spdm c n req =
    if [0x84, 0xE1, 0xE3, 0x81, 0x82, 0x83, 0xE0].contains c then s.spdmReply c req
    else if c = 0xE4 then
      match (List.range 4).find? fun k => (s.spdmSession (some k)).isNone with
      | none => s.spdmError 0x0A 0
      | some k => (s.setSession k (some false)).spdmReply c req
    else if c = 0xE5 then
      match n, s.spdmSession n with
      | some k, some (_, false) => if Config.spdmOk c req then (s.setSession k (some true)).spdmReply c req else s.spdmError 0x06 0
      | _, _ => s.spdmError 0x04 0
    else if c = 0xEC then
      match n, s.spdmSession n with
      | some k, some (_, true) => (s.setSession k none).spdmReply c req
      | _, _ => s.spdmError 0x04 0
    else if c = 0xFE then
      match s.spdmSession n with
      | some (_, true) => (s.ideKm req).spdmReply c req
      | _ => s.spdmError 0x07 c
    else s.spdmError 0x07 c :=
  if_neg (by simp [h])

section
variable (h : s.dead = false)
include h

/-- KEY_EXCHANGE opens the first free session. -/
theorem State.spdm_keyExchange (n : Option Nat) (req : List Byte) : s.spdm 0xE4 n req =
    match (List.range 4).find? fun k => (s.spdmSession (some k)).isNone with
    | none => s.spdmError 0x0A 0
    | some k => (s.setSession k (some false)).spdmReply 0xE4 req := by
  rw [State.spdm_of_alive h, if_neg (by decide), if_pos rfl]

/-- FINISH of an opened session. -/
theorem State.spdm_finish {k : Nat} (hk : s.spdmSession (some k) = some (k, false)) (req : List Byte) : s.spdm 0xE5 (some k) req =
    if Config.spdmOk 0xE5 req then (s.setSession k (some true)).spdmReply 0xE5 req else s.spdmError 0x06 0 := by
  rw [State.spdm_of_alive h, if_neg (by decide), if_neg (by decide), if_pos rfl, hk]

/-- END_SESSION of an established session. -/
theorem State.spdm_endSession {k : Nat} (hk : s.spdmSession (some k) = some (k, true)) (req : List Byte) : s.spdm 0xEC (some k) req =
    (s.setSession k none).spdmReply 0xEC req := by
  rw [State.spdm_of_alive h, if_neg (by decide), if_neg (by decide), if_neg (by decide), if_pos rfl, hk]

/-- A vendor request of an established session: IDE_KM. -/
theorem State.spdm_ideKm {k : Nat} (hk : s.spdmSession (some k) = some (k, true)) (req : List Byte) : s.spdm 0xFE (some k) req =
    (s.ideKm req).spdmReply 0xFE req := by
  rw [State.spdm_of_alive h, if_neg (by decide), if_neg (by decide), if_neg (by decide), if_neg (by decide), if_pos rfl, hk]

/-- A request of a session that is not open. -/
theorem State.spdm_of_closed {c : Nat} (hc : c = 0xE5 ∨ c = 0xEC ∨ c = 0xFE) {n : Option Nat} (hn : s.spdmSession n = none) (req : List Byte) :
    ∃ code data, s.spdm c n req = s.spdmError code data := by
  rw [State.spdm_of_alive h, hn]
  obtain rfl | rfl | rfl := hc
  · rw [if_neg (by decide), if_neg (by decide), if_pos rfl]
    exact ⟨0x04, 0, by cases n <;> rfl⟩
  · rw [if_neg (by decide), if_neg (by decide), if_neg (by decide), if_pos rfl]
    exact ⟨0x04, 0, by cases n <;> rfl⟩
  · rw [if_neg (by decide), if_neg (by decide), if_neg (by decide), if_neg (by decide), if_pos rfl]
    exact ⟨0x07, _, rfl⟩

theorem State.spdm_of_unknown {c : Nat} (hc : c ∉ [0x84, 0xE1, 0xE3, 0x81, 0x82, 0x83, 0xE0, 0xE4, 0xE5, 0xEC, 0xFE]) (n : Option Nat)
    (req : List Byte) : s.spdm c n req = s.spdmError 0x07 c := by
  simp only [List.mem_cons, List.not_mem_nil, or_false, not_or] at hc
  obtain ⟨h84, he1, he3, h81, h82, h83, he0, he4, he5, hec, hfe⟩ := hc
  rw [State.spdm_of_alive h, if_neg (by simp [h84, he1, he3, h81, h82, h83, he0]), if_neg he4, if_neg he5, if_neg hec, if_neg hfe]

end

end

/-- Settles O52. -/
theorem tapInstructionsAndSpdmAnswer : Obligations.TapInstructionsAndSpdmAnswer := by
  unfold Obligations.TapInstructionsAndSpdmAnswer
  intro s d reg i op v code n req
  refine ⟨rfl, rfl, rfl, fun h => exec_pins true (State.boundaryOpen_eq_true h), fun h hlevel => exec_pins false (State.boundaryOpen_eq_false h hlevel),
    rfl, rfl, fun h => ?_, fun h => ?_, fun h hst => ?_, fun l r h h2 h3 hread => ?_, fun h => congrArg _ (if_neg h), fun h => congrArg _ (if_pos h),
    fun c h hc hnew => ?_, fun h ha => congrArg _ (if_pos (by simp [h, ha])), fun h => congrArg _ (if_neg ?_), fun h => congrArg _ (if_pos h),
    fun h => congrArg _ (if_neg (by simp [h])), fun h => congrArg _ (if_neg (by simp [State.blockOpen_eq_false h])), fun h => ?_, fun hdead hc => ?_,
    fun hc => ?_, fun hal hc => ?_, fun hal hc hfull => ?_, fun k hal hc hk => ?_, fun k hal hc hn hk => ⟨fun hok => ?_, fun hok => ?_⟩, fun k hal hc hn hk => ?_,
    fun k hal hc hn hk => ?_, fun hal hc hnone => ?_, fun hal hc => ?_⟩
  · rw [exec_dbgTrace, if_pos h]
  · rw [exec_dbgTrace, if_neg h, if_pos rfl]
  · rw [exec_dbgTrace, if_neg h, if_neg Bool.false_ne_true, State.traceRead_asleep hst]
  · rw [exec_dbgTrace, if_neg h, if_neg Bool.false_ne_true, State.traceRead_awake h2 h3, hread]
  · have hexec : exec (.dbgAp (.halt c)) s = .next (if s.get F.SEC_DBG_LEVEL = 2 then s.dbgAp (.halt c) else s.tapTo 1) := rfl
    have hcore : (s.tapTo 9).dbgCore c = true := hc
    rw [hexec, if_pos h, State.dbgAp]
    dsimp only
    rw [hcore, if_pos (by simpa [State.tapTo] using hnew)]
    rfl
  · obtain h | h := h <;> simp [h]
  · have hexec : exec (.trcUser v) s = .next (if s.blockOpen then s.trcUser v.toNat else s) := rfl
    rw [hexec, if_pos (by simp [State.blockOpen, h]), State.trcUser_eq]
  · rw [exec_spdmRequest, State.spdm_of_dead (by simp [State.dead, hdead]) fun h => hc (BitVec.eq_of_toNat_eq h)]
    exact ⟨_, rfl, rfl⟩
  · rw [exec_spdmRequest, hc]
    refine ⟨_, congrArg _ ((if_neg (by simp)).trans (if_pos (by decide))), rfl⟩
  · rw [exec_spdmRequest, State.spdm_of_alive hal, if_pos (List.contains_iff_mem.mpr (List.mem_cons_of_mem _ hc))]
  · have hnone : (List.range 4).find? (fun k => (s.spdmSession (some k)).isNone) = none :=
      List.find?_eq_none.mpr fun k hk => by simpa [Option.isSome_iff_ne_none] using hfull k (List.mem_range.mp hk)
    have hcode : code.toNat = 0xE4 := congrArg BitVec.toNat hc
    rw [exec_spdmRequest, hcode, State.spdm_keyExchange hal, hnone]
    exact ⟨_, rfl, rfl⟩
  · have hcode : code.toNat = 0xE4 := congrArg BitVec.toNat hc
    rw [exec_spdmRequest, hcode, State.spdm_keyExchange hal, hk]
  · rw [exec_spdmRequest, hc, hn]
    exact congrArg _ ((State.spdm_finish hal hk req).trans (if_pos hok))
  · rw [exec_spdmRequest, hc, hn]
    exact ⟨_, congrArg _ ((State.spdm_finish hal hk req).trans (if_neg (by simp [hok]))), rfl⟩
  · rw [exec_spdmRequest, hc, hn]
    exact congrArg _ (State.spdm_endSession hal hk req)
  · rw [exec_spdmRequest, hc, hn]
    exact congrArg _ (State.spdm_ideKm hal hk req)
  · have hcode : code.toNat = 0xE5 ∨ code.toNat = 0xEC ∨ code.toNat = 0xFE := by
      obtain rfl | rfl | rfl := hc
      · exact .inl rfl
      · exact .inr (.inl rfl)
      · exact .inr (.inr rfl)
    obtain ⟨c, x, hans⟩ := State.spdm_of_closed hal hcode hnone req
    rw [exec_spdmRequest, hans]
    exact ⟨_, rfl, rfl⟩
  · rw [exec_spdmRequest, State.spdm_of_unknown hal hc]
    exact ⟨_, rfl, rfl⟩

end Sys2Proof.Machine
end


section

/-! Key mailbox commands, and credentials. -/

namespace Sys2Proof.Machine

theorem bit_eq_testBit (w i : Nat) : bit w i = w.testBit i := by
  rw [bit, bitsOf, Nat.testBit_eq_decide_div_mod_eq, Nat.pow_one]
  rfl

/-- A bit of a field of `n` bits into which a word is put. -/
theorem bit_mod_two_pow {i n : Nat} (h : i < n) (w : Nat) : bit (w % 2 ^ n) i = bit w i := by
  rw [bit_eq_testBit, bit_eq_testBit, Nat.testBit_mod_two_pow, decide_eq_true h, Bool.true_and]

theorem State.Noted.sec_eq {s u : State} (h : s.Noted u) : u.sec = s.sec := by rw [h.frame]

section
variable {s : State}

/-! ### The mailbox (R447) -/

theorem State.kmb_of_busy (h : s.on F.SEC_KMB_STATUS_BUSY = true) (f : State → Nat × State) : s.kmb f = s.stick F.SEC_CFG_CFG := if_pos h

theorem State.kmb_of_idle (h : s.on F.SEC_KMB_STATUS_BUSY = false) {f : State → Nat × State} {st : Nat} {u : State} (hf : f s = (st, u)) :
    s.kmb f = u.kmbEnd st := by
  rw [State.kmb, if_neg (by simp [h]), hf]

theorem State.kmb_pair (h : s.on F.SEC_KMB_STATUS_BUSY = false) (st : Nat) (g : State → State) : s.kmb (fun s => (st, g s)) = (g s).kmbEnd st :=
  State.kmb_of_idle h rfl

theorem State.kmbBuf_of_busy (h : s.on F.SEC_KMB_STATUS_BUSY = true) (n : Nat) (secret fails : Bool) (f : State → List Byte → Nat × State) :
    s.kmbBuf n secret fails f = s.stick F.SEC_CFG_CFG := if_pos h

theorem State.kmbBuf_of_error (h : s.on F.SEC_KMB_STATUS_BUSY = false) {n st : Nat} {secret fails : Bool} {r : State}
    (hread : s.kmbRead n fails = (.error st, r)) (f : State → List Byte → Nat × State) : s.kmbBuf n secret fails f = r.kmbEnd st :=
  State.kmb_of_idle h (by rw [hread])

theorem State.kmbBuf_of_ok (h : s.on F.SEC_KMB_STATUS_BUSY = false) {n : Nat} {secret fails : Bool} {b : List Byte} {r : State}
    (hread : s.kmbRead n fails = (.ok b, r)) {f : State → List Byte → Nat × State} {st : Nat} {u : State}
    (hf : f (if secret then r.kmbZero n else r) b = (st, u)) : s.kmbBuf n secret fails f = u.kmbEnd st :=
  State.kmb_of_idle h (by rw [hread, ← hf])

theorem exec_mailbox_of_shut (h : s.blockOpen = false) (slot : Fin 32) (fails : Bool) (arg : BitVec 16) :
    exec (.keyErase slot) s = .next s ∧ exec (.lpKey fails) s = .next s ∧ exec (.credRevoke arg) s = .next s ∧
      exec .svnAdvance s = .next s ∧ exec (.keyInstall slot fails) s = .next s ∧ exec (.credInstall fails) s = .next s ∧
      exec (.authSet arg fails) s = .next s := by
  have hopen : ¬ s.blockOpen = true := by simp [h]
  have hshut : (!s.blockOpen) = true := by simp [h]
  exact ⟨congrArg _ (if_neg hopen), congrArg _ (if_pos hshut), congrArg _ (if_pos hshut), congrArg _ (if_neg hopen), congrArg _ (if_pos hshut),
    congrArg _ (if_pos hshut), congrArg _ (if_pos hshut)⟩

section
variable (h : s.blockOpen = true)
include h

theorem exec_keyErase (slot : Fin 32) : exec (.keyErase slot) s = .next (s.kmb fun s => (stDONE, s.keyErase slot.val)) := congrArg _ (if_pos h)

theorem exec_lpKey (fails : Bool) : exec (.lpKey fails) s = .next (s.kmbBuf 32 true fails fun s b =>
    (stDONE, ((s.vaultPut { s.sec with lpKey := some b }).putLpKey b).secTrace 2 0 0)) := congrArg _ (if_neg (by simp [h]))

theorem exec_credRevoke (arg : BitVec 16) : exec (.credRevoke arg) s = .next (s.kmb fun s =>
    (stDONE, (s.set (F.SEC_MC 5 0) (max (s.get (F.SEC_MC 5 0)) arg.toNat)).credEvalAll)) := congrArg _ (if_neg (by simp [h]))

theorem exec_svnAdvance : exec .svnAdvance s = .next (s.kmb fun s => (stDONE, s.svnAdvance)) := congrArg _ (if_pos h)

theorem exec_keyInstall (slot : Fin 32) (fails : Bool) : exec (.keyInstall slot fails) s = .next (if s.dead then s.kmb (fun s => (stREJ_PERM, s))
    else s.kmbBuf 80 true fails fun s b => s.keyInstall slot.val b) := congrArg _ (if_neg (by simp [h]))

theorem exec_credInstall (fails : Bool) : exec (.credInstall fails) s = .next (if s.dead then s.kmb (fun s => (stREJ_PERM, s))
    else s.kmbBuf 256 false fails fun s c => s.credInstall c) := congrArg _ (if_neg (by simp [h]))

theorem exec_authSet (arg : BitVec 16) (fails : Bool) : exec (.authSet arg fails) s = .next (if 1 < arg.toNat then s.kmb (fun s => (stREJ_FORMAT, s))
    else if 2 ≤ s.get F.SEC_LC_STATE then s.kmb (fun s => (stREJ_PERM, s))
    else s.kmbBuf 96 false fails fun s b => s.authSet arg.toNat b) := congrArg _ (if_neg (by simp [h]))

end

theorem exec_authSet_of_read (hopen : s.blockOpen = true) (hidle : s.on F.SEC_KMB_STATUS_BUSY = false) {arg : BitVec 16} {fails : Bool} {b : List Byte}
    {r u : State} {st : Nat} (hlc : s.get F.SEC_LC_STATE < 2) (hread : s.kmbRead 96 fails = (.ok b, r)) (harg : arg.toNat ≤ 1)
    (hset : r.authSet arg.toNat b = (st, u)) : exec (.authSet arg fails) s = .next (u.kmbEnd st) := by
  rw [exec_authSet hopen, if_neg (Nat.not_lt.mpr harg), if_neg (Nat.not_le.mpr hlc), State.kmbBuf_of_ok hidle hread hset]

theorem exec_mailbox_of_busy (hopen : s.blockOpen = true) (hbusy : s.on F.SEC_KMB_STATUS_BUSY = true) (slot : Fin 32) (fails : Bool) (arg : BitVec 16) :
    exec (.keyErase slot) s = .next (s.stick F.SEC_CFG_CFG) ∧ exec (.lpKey fails) s = .next (s.stick F.SEC_CFG_CFG) ∧
      exec (.credRevoke arg) s = .next (s.stick F.SEC_CFG_CFG) ∧ exec .svnAdvance s = .next (s.stick F.SEC_CFG_CFG) ∧
      exec (.keyInstall slot fails) s = .next (s.stick F.SEC_CFG_CFG) ∧ exec (.credInstall fails) s = .next (s.stick F.SEC_CFG_CFG) ∧
      exec (.authSet arg fails) s = .next (s.stick F.SEC_CFG_CFG) := by
  rw [exec_keyErase hopen, exec_lpKey hopen, exec_credRevoke hopen, exec_svnAdvance hopen, exec_keyInstall hopen, exec_credInstall hopen,
    exec_authSet hopen]
  simp only [State.kmb_of_busy hbusy, State.kmbBuf_of_busy hbusy, ite_self, and_self]

/-! ### Credentials (R451 to R453) -/

/-- A tenant's credential lapses now. -/
def State.lapses (s : State) (t : Nat) : Bool :=
  t != 0 && (kvFind s.sec.creds t).isSome && !(s.credValid t) && !(bit s.sec.lapsed t)

theorem State.lapses_iff (s : State) (t : Nat) : s.lapses t = true ↔
    t ≠ 0 ∧ (kvFind s.sec.creds t).isSome = true ∧ s.credValid t = false ∧ bit s.sec.lapsed t = false := by
  simp [State.lapses, and_assoc]

/-- The state whose tenant `t` is stopped and marked as lapsed. -/
def State.lapsedMarked (s : State) (t : Nat) : State :=
  { s.set F.CMQ_STOP (putBit (s.get F.CMQ_STOP) t true) with sec := { s.sec with lapsed := putBit s.sec.lapsed t true } }

theorem State.credEval_eq (s : State) (t : Nat) : s.credEval t =
    if s.lapses t then ((s.lapsedMarked t).stickIrq F.SEC_CREDEXP_CREDEXP 14).secTrace 4 t 0 else s := rfl

/-- What the evaluation of a credential leaves: its creds, the words its time rests on, and every tenant's mark but its own. -/
structure State.CredKept (s u : State) : Prop where
  creds : u.sec.creds = s.sec.creds
  offline : u.get F.CAD_OFFLINE = s.get F.CAD_OFFLINE
  holdErr : u.get F.CAD_HOLD_ERR = s.get F.CAD_HOLD_ERR
  epoch : u.get (F.SEC_MC 5 0) = s.get (F.SEC_MC 5 0)

/-- The flag, the interrupt and the trace record of a lapse. -/
theorem State.lapseNoted_parts (s : State) (t : Nat) : ((s.stickIrq F.SEC_CREDEXP_CREDEXP 14).secTrace 4 t 0).sec = s.sec ∧
    ∀ f : Fld, noteWord f.addr = false → f.addr ≠ F.SEC_CREDEXP_CREDEXP.addr →
      ((s.stickIrq F.SEC_CREDEXP_CREDEXP 14).secTrace 4 t 0).get f = s.get f := by
  have hirq := (s.stick F.SEC_CREDEXP_CREDEXP).irq_noted 14
  have htrace := (s.stickIrq F.SEC_CREDEXP_CREDEXP 14).trace_noted 0x0A 0xA0 0 0 (leBytes 1 4 ++ leBytes 1 t ++ leBytes 2 0 ++ leBytes 4 0)
  refine ⟨htrace.sec_eq.trans (hirq.sec_eq.trans (State.stick_sec _ _)), fun f hnote hf => ?_⟩
  exact (htrace.get f hnote).trans ((hirq.get f hnote).trans (State.get_stick_other _ _ _ hf))

theorem bit_putBit_true (w i j : Nat) : bit (putBit w i true) j = (bit w j || decide (j = i)) := by
  by_cases h : j = i
  · subst h
    rw [bit_putBit, decide_eq_true rfl, Bool.or_true]
  · rw [bit_putBit_other h, decide_eq_false h, Bool.or_false]

theorem State.get_lapsedMarked (s : State) (t : Nat) {f : Fld} (hf : f.Apart F.CMQ_STOP) : (s.lapsedMarked t).get f = s.get f :=
  (State.get_of_regs (s := s.set F.CMQ_STOP (putBit (s.get F.CMQ_STOP) t true)) rfl f).trans (State.get_set_apart (by decide) hf)

theorem State.stop_lapsedMarked (s : State) (t j : Nat) (hj : j < 16) :
    bit ((s.lapsedMarked t).get F.CMQ_STOP) j = (bit (s.get F.CMQ_STOP) j || decide (j = t)) := by
  rw [State.get_of_regs (s := s.set F.CMQ_STOP (putBit (s.get F.CMQ_STOP) t true)) (u := s.lapsedMarked t) rfl F.CMQ_STOP,
    State.get_set_same _ _ _ (by unfold Fld.inWord; decide), bit_mod_two_pow (show j < F.CMQ_STOP.n from hj), bit_putBit_true]

theorem State.credEval_parts (s : State) (t : Nat) : s.CredKept (s.credEval t) ∧
    (∀ j, bit (s.credEval t).sec.lapsed j = (bit s.sec.lapsed j || (decide (j = t) && s.lapses t))) ∧
    (∀ j, j < 16 → bit ((s.credEval t).get F.CMQ_STOP) j = (bit (s.get F.CMQ_STOP) j || (decide (j = t) && s.lapses t))) := by
  rw [State.credEval_eq]
  split
  · next h =>
    obtain ⟨hsec, hget⟩ := (s.lapsedMarked t).lapseNoted_parts t
    simp only [h, Bool.and_true]
    refine ⟨⟨?_, ?_, ?_, ?_⟩, fun j => ?_, fun j hj => ?_⟩
    · rw [hsec]
      rfl
    · rw [hget _ rfl (by decide), s.get_lapsedMarked t (by decide)]
    · rw [hget _ rfl (by decide), s.get_lapsedMarked t (by decide)]
    · rw [hget _ rfl (by decide), s.get_lapsedMarked t (by decide)]
    · rw [hsec]
      exact bit_putBit_true _ _ _
    · rw [hget _ rfl (by decide), s.stop_lapsedMarked t j hj]
  · next h =>
    simp only [Bool.eq_false_iff.mpr h, Bool.and_false, Bool.or_false, implies_true, and_true]
    exact ⟨rfl, rfl, rfl, rfl⟩

theorem State.CredKept.lapses {s u : State} (h : s.CredKept u) {t : Nat} (ht : bit u.sec.lapsed t = bit s.sec.lapsed t) : u.lapses t = s.lapses t := by
  obtain ⟨hcreds, hoff, hhold, hepoch⟩ := h
  unfold State.lapses State.credValid State.credTime
  simp only [hcreds, hoff, hhold, hepoch, ht]

/-- The evaluation of the first `n` tenants. -/
theorem State.credEval_range (s : State) (n : Nat) : s.CredKept ((List.range n).foldl (fun (s : State) t => s.credEval t) s) ∧
    (∀ j, bit ((List.range n).foldl (fun (s : State) t => s.credEval t) s).sec.lapsed j = (bit s.sec.lapsed j || (decide (j < n) && s.lapses j))) ∧
    (∀ j, j < 16 → bit (((List.range n).foldl (fun (s : State) t => s.credEval t) s).get F.CMQ_STOP) j =
      (bit (s.get F.CMQ_STOP) j || (decide (j < n) && s.lapses j))) := by
  induction n with
  | zero =>
    simp only [List.range_zero, List.foldl_nil, Nat.not_lt_zero, decide_false, Bool.false_and, Bool.or_false, implies_true, and_true]
    exact ⟨rfl, rfl, rfl, rfl⟩
  | succ n ih =>
    rw [List.range_succ, List.foldl_append, List.foldl_cons, List.foldl_nil]
    obtain ⟨hkept, hlapsed, hstop⟩ := ih
    generalize (List.range n).foldl (fun (s : State) t => s.credEval t) s = u at hkept hlapsed hstop ⊢
    obtain ⟨hkept', hlapsed', hstop'⟩ := u.credEval_parts n
    have hn : u.lapses n = s.lapses n := hkept.lapses (by simp [hlapsed])
    have hdec (j : Nat) (x : Bool) : (x || (decide (j < n) && s.lapses j) || (decide (j = n) && s.lapses n)) =
        (x || (decide (j < n + 1) && s.lapses j)) := by
      by_cases hj : j = n
      · subst hj
        simp
      · simp [hj, show j < n + 1 ↔ j < n by omega]
    refine ⟨⟨hkept'.creds.trans hkept.creds, hkept'.offline.trans hkept.offline, hkept'.holdErr.trans hkept.holdErr,
      hkept'.epoch.trans hkept.epoch⟩, fun j => ?_, fun j hj => ?_⟩
    · rw [hlapsed', hlapsed, hn, hdec]
    · rw [hstop' j hj, hstop j hj, hn, hdec]

theorem State.credEvalAll_idle (h : ∀ t, t < 16 → t ≠ 0 → (kvFind s.sec.creds t).isSome = true → s.credValid t = true ∨ bit s.sec.lapsed t = true) :
    s.credEvalAll = s := by
  unfold State.credEvalAll
  split
  · refine foldl_keeps (P := fun u => u = s) ?_ rfl
    rintro u t ht rfl
    rw [State.credEval_eq, if_neg]
    rw [State.lapses_iff]
    rintro ⟨h0, hsome, hvalid, hlapsed⟩
    obtain h | h := h t (List.mem_range.mp ht) h0 hsome
    · exact Bool.false_ne_true (hvalid.symm.trans h)
    · exact Bool.false_ne_true (hlapsed.symm.trans h)
  · rfl

end

/-! ### The fuses and counters (R443, R447) -/

theorem secMc_inWord (k j : Nat) : (F.SEC_MC k j).inWord := Nat.le_refl 32

theorem ofLE_lt (l : List Byte) : ofLE l < 256 ^ l.length := by
  induction l with
  | nil => exact Nat.one_pos
  | cons b t ih =>
    rw [ofLE, List.length_cons, Nat.pow_succ]
    have hb := b.isLt
    omega

theorem leAt_lt (p : List Byte) (i n : Nat) : leAt p i n < 256 ^ n :=
  Nat.lt_of_lt_of_le (ofLE_lt _) (Nat.pow_le_pow_right (by decide) (List.length_take_le _ _))

/-- A counter rises to a value of four bytes. -/
theorem State.get_set_mc (s : State) (k : Nat) (p : List Byte) (i : Nat) :
    (s.set (F.SEC_MC k 0) (max (s.get (F.SEC_MC k 0)) (leAt p i 4))).get (F.SEC_MC k 0) = max (s.get (F.SEC_MC k 0)) (leAt p i 4) := by
  rw [State.get_set_same _ _ _ (secMc_inWord k 0)]
  exact Nat.mod_eq_of_lt (Nat.max_lt.mpr ⟨State.get_lt _ _, leAt_lt p i 4⟩)

/-- The SVN counters at their new values. -/
def State.svnRaised (s : State) : State :=
  let s := s.set (F.SEC_MC 2 0) (max (s.get (F.SEC_MC 2 0)) (leAt s.boot.cf 8 4))
  if s.boot.lf.isEmpty then s else s.set (F.SEC_MC 3 0) (max (s.get (F.SEC_MC 3 0)) (leAt s.boot.lf 8 4))

theorem State.svnRaised_regsOnly (s : State) : s.RegsOnly s.svnRaised := by
  unfold State.svnRaised
  dsimp only
  split
  · exact s.set_regsOnly _ _
  · exact (s.set_regsOnly _ _).trans (State.set_regsOnly _ _ _)

theorem State.svnRaised_cf (s : State) : s.svnRaised.get (F.SEC_MC 2 0) = max (s.get (F.SEC_MC 2 0)) (leAt s.boot.cf 8 4) := by
  unfold State.svnRaised
  dsimp only
  split
  · exact s.get_set_mc 2 _ _
  · rw [State.get_set_apart (f := F.SEC_MC 3 0) (by decide) (by decide), s.get_set_mc]

theorem State.svnRaised_lf (s : State) (h : s.boot.lf ≠ []) : s.svnRaised.get (F.SEC_MC 3 0) = max (s.get (F.SEC_MC 3 0)) (leAt s.boot.lf 8 4) := by
  unfold State.svnRaised
  dsimp only
  rw [State.set_boot, if_neg (by simpa using h), State.get_set_mc, State.get_set_apart (f := F.SEC_MC 2 0) (by decide) (by decide)]

/-- The key revocations that the running CF manifest adds. -/
def State.svnRevoke (s : State) : Nat := putBit (leAt s.boot.cf 24 1 % 16) (leAt s.boot.cf 3 1) false % 16

theorem State.svnAdvance_eq (s : State) : s.svnAdvance =
    State.secTrace { s.svnRaised with sec := { s.svnRaised.sec with revoke := s.svnRaised.sec.revoke ||| s.svnRevoke } } 6 0
      (State.get { s.svnRaised with sec := { s.svnRaised.sec with revoke := s.svnRaised.sec.revoke ||| s.svnRevoke } } (F.SEC_MC 2 0)) := by
  rw [State.svnAdvance, State.svnRaised]
  rfl

theorem State.svnAdvance_parts (s : State) : (∀ k, k < 8 → s.svnAdvance.get (F.SEC_MC k 0) = s.svnRaised.get (F.SEC_MC k 0)) ∧
    s.svnAdvance.sec = { s.sec with revoke := s.sec.revoke ||| s.svnRevoke } := by
  have htrace := State.trace_noted { s.svnRaised with sec := { s.svnRaised.sec with revoke := s.svnRaised.sec.revoke ||| s.svnRevoke } } 0x0A 0xA0 0 0
    (leBytes 1 6 ++ leBytes 1 0 ++ leBytes 2 0 ++
      leBytes 4 (State.get { s.svnRaised with sec := { s.svnRaised.sec with revoke := s.svnRaised.sec.revoke ||| s.svnRevoke } } (F.SEC_MC 2 0)))
  have hsec : s.svnRaised.sec = s.sec := by rw [s.svnRaised_regsOnly]
  rw [s.svnAdvance_eq]
  refine ⟨fun k hk => (htrace.get _ ?_).trans (State.get_of_regs rfl _), htrace.sec_eq.trans ?_⟩
  · have hnote : ∀ k, k < 8 → noteWord (F.SEC_MC k 0).addr = false := by decide
    exact hnote k hk
  · rw [hsec]

/-- Settles O50. -/
theorem mailboxCommandsKeepTheVault : Obligations.MailboxCommandsKeepTheVault := by
  unfold Obligations.MailboxCommandsKeepTheVault
  intro s slot fails arg
  refine ⟨fun h => exec_mailbox_of_shut (State.blockOpen_eq_false h) slot fails arg,
    fun h hbusy => exec_mailbox_of_busy (by simp [State.blockOpen, h]) hbusy slot fails arg, fun hph hidle => ?_, fun h => ?_, fun h => ?_, fun h => ?_⟩
  · have hopen : s.blockOpen = true := by simp [State.blockOpen, hph]
    refine ⟨fun hd => ?_, fun st r hd hread => ?_, fun b r z hd hread hz => ⟨fun hbad => ?_, fun h0 h1 h2 => ⟨fun hslot => ?_, fun hslot => ?_⟩⟩, fun hslot => ?_,
      fun hslot => ?_, fun st r hread => ?_, fun b r z hread hz => ?_, fun st r hd hread => ?_, fun c r hd hread => ⟨fun hbad => ?_, fun t v hok ht hv => ?_⟩, ?_,
      fun h1 => ?_, fun h1 h2 => ?_, fun st r h1 h2 hread => ?_, fun b r h2 hread => ⟨fun h0 hfree => ?_, fun h1 hfree => ?_, fun hbad => ?_⟩, ?_⟩
    · rw [exec_keyInstall hopen, exec_credInstall hopen, if_pos hd, if_pos hd, State.kmb_of_idle hidle rfl]
      exact ⟨rfl, rfl⟩
    · rw [exec_keyInstall hopen, if_neg (by simp [hd]), State.kmbBuf_of_error hidle hread]
    · rw [exec_keyInstall hopen, if_neg (by simp [hd]), State.kmbBuf_of_ok hidle hread (u := z) (st := stREJ_FORMAT)]
      rw [if_pos rfl, ← hz]
      exact if_pos (by simpa [or_assoc] using hbad)
    · rw [exec_keyInstall hopen, if_neg (by simp [hd]), State.kmbBuf_of_ok hidle hread (u := z) (st := stREJ_BUSY)]
      rw [if_pos rfl, ← hz]
      exact (if_neg (by simp [h0, h1, h2])).trans (if_pos hslot)
    · rw [exec_keyInstall hopen, if_neg (by simp [hd]), State.kmbBuf_of_ok hidle hread (st := stDONE)]
      rw [if_pos rfl, ← hz]
      exact (if_neg (by simp [h0, h1, h2])).trans (if_neg (by simp [hslot]))
    · rw [exec_keyErase hopen, State.kmb_pair hidle, State.keyErase, if_neg (by simp [hslot])]
    · rw [exec_keyErase hopen, State.kmb_pair hidle, State.keyErase, if_pos hslot]
    · rw [exec_lpKey hopen, State.kmbBuf_of_error hidle hread]
    · rw [exec_lpKey hopen, State.kmbBuf_of_ok hidle hread rfl, if_pos rfl, ← hz]
    · rw [exec_credInstall hopen, if_neg (by simp [hd]), State.kmbBuf_of_error hidle hread]
    · rw [exec_credInstall hopen, if_neg (by simp [hd]), State.kmbBuf_of_ok hidle hread (u := r) (st := r.credCheck c)]
      rw [if_neg Bool.false_ne_true]
      exact if_pos (by simpa using hbad)
    · have htrace := (r.vaultPut { r.sec with creds := kvIns t c r.sec.creds }).trace_noted 0x0A 0xA0 0 0
        (leBytes 1 3 ++ leBytes 1 t ++ leBytes 2 0 ++ leBytes 4 0)
      refine ⟨?_, ?_, ?_⟩
      · rw [exec_credInstall hopen, if_neg (by simp [hd]), State.kmbBuf_of_ok hidle hread (st := stDONE)]
        rw [if_neg Bool.false_ne_true, State.credInstall, if_neg (by simp [hok]), hv, ht]
      · rw [hv, State.secTrace, htrace.sec_eq]
        exact kvFind_kvIns_same _ _ _
      · rw [hv, State.secTrace, htrace.get _ rfl, State.vaultPut, State.get_set_same _ _ _ (secMc_inWord 4 0)]
        exact Nat.mod_eq_of_lt (Nat.mod_lt _ (Nat.two_pow_pos 32))
    · rw [exec_credRevoke hopen, State.kmb_pair hidle]
    · rw [exec_authSet hopen, if_pos h1, State.kmb_of_idle hidle rfl]
    · rw [exec_authSet hopen, if_neg (Nat.not_lt.mpr h1), if_pos h2, State.kmb_of_idle hidle rfl]
    · rw [exec_authSet hopen, if_neg (Nat.not_lt.mpr h1), if_neg (Nat.not_le.mpr h2), State.kmbBuf_of_error hidle hread]
    · rw [exec_authSet_of_read hopen hidle h2 hread (by simp [h0]) (u := { r with sec := { r.sec with siteHash := some (Config.sha384 b) } }) (st := stDONE)]
      rw [h0]
      exact if_pos (by simp [hfree])
    · rw [exec_authSet_of_read hopen hidle h2 hread (by simp [h1]) (u := { r with sec := { r.sec with dbgHash := some (Config.sha384 b) } }) (st := stDONE)]
      rw [h1]
      have h10 : ¬(decide ((1 : BitVec 16).toNat = 0) && r.sec.siteHash.isNone) = true := by simp
      rw [State.authSet, if_neg h10, if_pos (by simp [hfree])]
    · rw [exec_authSet_of_read hopen hidle h2 hread (by obtain ⟨h, -⟩ | ⟨h, -⟩ := hbad <;> simp [h]) (u := r) (st := stREJ_PERM)]
      unfold State.authSet
      obtain ⟨rfl, hset⟩ | ⟨rfl, hset⟩ := hbad
      · exact (if_neg (by simpa using hset)).trans (if_neg (by simp))
      · exact (if_neg (by simp)).trans (if_neg (by simpa using hset))
    · refine ⟨s.svnAdvance, ?_, ?_, fun hlf => ?_, s.svnAdvance_parts.2⟩
      · rw [exec_svnAdvance hopen, State.kmb_pair hidle]
      · rw [s.svnAdvance_parts.1 2 (by decide), s.svnRaised_cf]
      · rw [s.svnAdvance_parts.1 3 (by decide), s.svnRaised_lf hlf]
  · exact congrArg _ (if_neg (by simp [h]))
  · have hexec : exec .credentialEvaluate s = .next s.credEvalAll := rfl
    rw [hexec, State.credEvalAll, if_pos h]
    obtain ⟨hkept, hlapsed, hstop⟩ := s.credEval_range 16
    refine ⟨_, rfl, hkept.creds, fun t ht lapse hlapse => ⟨fun hl => ?_, fun hl => ?_⟩⟩
    · rw [hlapsed, hstop t ht, (s.lapses_iff t).mpr (hlapse.mp hl), decide_eq_true ht]
      simp
    · have hno : s.lapses t = false := Bool.eq_false_iff.mpr fun hl' => hl (hlapse.mpr ((s.lapses_iff t).mp hl'))
      rw [hlapsed, hstop t ht, hno]
      simp
  · exact congrArg _ (State.credEvalAll_idle h)

end Sys2Proof.Machine
end


section

/-! Life cycle, debug levels and the wipes that go with them. -/

namespace Sys2Proof.Machine

/-! ### Wipes (R456, R460) -/

theorem spGet_filter_same {α : Type} {d : Nat → α} {l : List (Nat × α)} {keep : Nat → Bool} {k : Nat} (h : keep k = true) :
    spGet d (l.filter fun p => keep p.1) k = spGet d l k := by
  induction l with
  | nil => rfl
  | cons p t ih =>
    rw [List.filter_cons]
    split
    · rw [spGet_cons, spGet_cons, ih]
    · next hp =>
      have hne : k ≠ p.1 := fun hk => hp (hk ▸ h)
      rw [ih, spGet_cons, if_neg hne]

theorem spGet_filter_dropped {α : Type} {d : Nat → α} {l : List (Nat × α)} {keep : Nat → Bool} {k : Nat} (h : keep k = false) :
    spGet d (l.filter fun p => keep p.1) k = d k := by
  refine spGet_of_notMem fun p hp hk => ?_
  have hkeep := (List.mem_filter.mp hp).2
  rw [← hk, h] at hkeep
  exact Bool.false_ne_true hkeep

/-- The cells of SRAM that a zeroed range of it leaves. -/
theorem Mem.cells_zeroRange_sram (m : Mem) (a n : Nat) :
    (m.zeroRange 1 a n).cells 1 = (m.cells 1).filter fun p => !(decide (a ≤ p.1) && decide (p.1 < a + n)) := rfl

theorem Mem.byte_zeroRange_sram_in {m : Mem} {a n x : Nat} (h1 : a ≤ x) (h2 : x < a + n) : (m.zeroRange 1 a n).byte 1 x = 0 := by
  rw [Mem.byte, Mem.cells_zeroRange_sram]
  exact spGet_filter_dropped (keep := fun k => !(decide (a ≤ k) && decide (k < a + n))) (by simp [h1, h2])

theorem Mem.byte_zeroRange_sram_out {m : Mem} {a n x : Nat} (h : x < a ∨ a + n ≤ x) : (m.zeroRange 1 a n).byte 1 x = m.byte 1 x := by
  rw [Mem.byte, Mem.cells_zeroRange_sram]
  exact spGet_filter_same (keep := fun k => !(decide (a ≤ k) && decide (k < a + n))) (by simp; omega)

theorem Mem.byte_zeroRange_hbm_in {m : Mem} {a n x : Nat} (h1 : a ≤ x) (h2 : x < a + n) : (m.zeroRange 2 a n).byte 2 x = 0 := by
  have hcells : (m.zeroRange 2 a n).cells 2 = (m.cells 2).filter fun p => !(decide (a ≤ p.1) && decide (p.1 < a + n)) := rfl
  rw [Mem.byte, hcells]
  exact spGet_filter_dropped (keep := fun k => !(decide (a ≤ k) && decide (k < a + n))) (by simp [h1, h2])

/-- What a wipe leaves in SRAM and HBM. -/
def Mem.wiped (m : Mem) (keepCf : Bool) : Mem :=
  ((if keepCf then (m.zeroRange 1 0 0x7E00000).zeroRange 1 0x8000000 0x38000000 else m.zeroRange 1 0 0x40000000).zeroRange 2 0 (spaceSize 2)).zeroRange
    3 0 (spaceSize 3)

theorem State.wipeMemory_mem (s : State) (keepCf : Bool) :
    (s.wipeMemory keepCf).mem = { s.mem.wiped keepCf with wc := [], fills := [], wcBad := [] } := by
  rw [State.wipeMemory, State.set_mem, State.set_mem, State.set_mem]
  cases keepCf
  · rw [if_neg Bool.false_ne_true]
    rfl
  · rw [if_pos rfl]
    rfl

theorem Mem.byte_wiped_caches (m : Mem) (sp a : Nat) : ({ m with wc := [], fills := [], wcBad := [] } : Mem).byte sp a = m.byte sp a := by
  unfold Mem.byte Mem.cells
  split <;> rfl

theorem Mem.byte_zeroRange_sram_of_other (m : Mem) {sp : Nat} (hsp : sp = 2 ∨ sp = 3) (a n x : Nat) : (m.zeroRange sp a n).byte 1 x = m.byte 1 x := by
  obtain rfl | rfl := hsp <;> rfl

theorem Mem.byte_wiped_sram (m : Mem) (keepCf : Bool) (x : Nat) : (m.wiped keepCf).byte 1 x =
    (if keepCf then (m.zeroRange 1 0 0x7E00000).zeroRange 1 0x8000000 0x38000000 else m.zeroRange 1 0 0x40000000).byte 1 x := by
  rw [Mem.wiped, Mem.byte_zeroRange_sram_of_other _ (.inr rfl), Mem.byte_zeroRange_sram_of_other _ (.inl rfl)]

/-- SRAM below the part that is kept, and HBM, hold zeros. -/
theorem State.byte_wipeMemory (s : State) (keepCf : Bool) :
    (∀ a, a < (if keepCf then 0x7E00000 else 0x40000000) → (s.wipeMemory keepCf).mem.byte 1 a = 0) ∧
    (∀ a, a < spaceSize 2 → (s.wipeMemory keepCf).mem.byte 2 a = 0) := by
  refine ⟨fun a ha => ?_, fun a ha => ?_⟩
  · rw [s.wipeMemory_mem, Mem.byte_wiped_caches, Mem.byte_wiped_sram]
    cases keepCf
    · rw [if_neg Bool.false_ne_true] at ha ⊢
      rw [Mem.byte_zeroRange_sram_in (Nat.zero_le a) (by omega)]
    · rw [if_pos rfl] at ha ⊢
      rw [Mem.byte_zeroRange_sram_out (.inl (by omega)), Mem.byte_zeroRange_sram_in (Nat.zero_le a) (by omega)]
  · rw [s.wipeMemory_mem, Mem.byte_wiped_caches, Mem.wiped]
    generalize (if keepCf then (s.mem.zeroRange 1 0 0x7E00000).zeroRange 1 0x8000000 0x38000000 else s.mem.zeroRange 1 0 0x40000000) = m
    generalize spaceSize 2 = n at ha ⊢
    exact Mem.byte_zeroRange_hbm_in (m := m) (Nat.zero_le a) (by omega)

theorem State.wipeMemory_sec (s : State) (keepCf : Bool) : (s.wipeMemory keepCf).sec = s.sec := by
  rw [State.wipeMemory, State.set_sec, State.set_sec, State.set_sec]
  cases keepCf <;> rfl

theorem State.wipeMemory_eth (s : State) (keepCf : Bool) : (s.wipeMemory keepCf).eth = s.eth := by
  rw [State.wipeMemory, State.set_eth, State.set_eth, State.set_eth]
  cases keepCf <;> rfl

theorem State.wipeMemory_plans (s : State) (keepCf : Bool) : (s.wipeMemory keepCf).plans = [] := by
  rw [State.wipeMemory, State.set_plans, State.set_plans, State.set_plans]
  cases keepCf <;> rfl

theorem State.wipeMemory_graphs (s : State) (keepCf : Bool) : (s.wipeMemory keepCf).graphs = [] := by
  rw [State.wipeMemory, State.set_graphs, State.set_graphs, State.set_graphs]
  cases keepCf <;> rfl

theorem State.wipeMemory_wins (s : State) (keepCf : Bool) : (s.wipeMemory keepCf).wins = if keepCf then s.wins else [] := by
  rw [State.wipeMemory, State.set_wins, State.set_wins, State.set_wins]
  cases keepCf <;> rfl

theorem State.eraseKeys_sec (s : State) : s.eraseKeys.sec = { s.sec with slots := [], creds := [], lpKey := none, sessions := [] } := by
  rw [State.eraseKeys, State.vaultPut, State.set_sec]

theorem State.eraseKeys_sas (s : State) : s.eraseKeys.eth.sas = [] := by rw [State.eraseKeys]

theorem State.eraseKeys_wins (s : State) : s.eraseKeys.wins = s.wins := by
  rw [State.eraseKeys, State.vaultPut, State.set_wins]

section
variable {s : State}

/-! ### The debug level (R458, R459) -/

theorem State.levelWrite_eq (s : State) (v : Nat) (jtag : Bool) : s.levelWrite v jtag =
    if v % 4 = 3 ∨ ¬(v % 4 ≤ s.get F.SEC_DBG_LEVEL ∨ (jtag = true ∧ (s.get F.SEC_LC_STATE = 0 ∨ s.get F.SEC_LC_STATE = 3)) ∨
        (jtag = false ∧ ¬(s.get F.SEC_LC_STATE = 0 ∨ s.get F.SEC_LC_STATE = 3) ∧ v % 4 ≤ 1)) then
      (if jtag then s else s.stick F.SEC_CFG_CFG)
    else if v % 4 ≤ s.get F.SEC_DBG_LEVEL then (s.set F.SEC_DBG_DBG_PWR_OVERRIDE (bitsOf v 3 1)).setLevel (v % 4)
    else (s.set F.SEC_DBG_DBG_PWR_OVERRIDE (bitsOf v 3 1)).raiseLevel (v % 4) := by
  unfold State.levelWrite
  dsimp only
  refine ite_of_iff ?_ rfl rfl
  have hfree : (s.get F.SEC_LC_STATE == 0 || s.get F.SEC_LC_STATE == 3) = true ↔ s.get F.SEC_LC_STATE = 0 ∨ s.get F.SEC_LC_STATE = 3 := by
    rw [Bool.or_eq_true, beq_iff_eq, beq_iff_eq]
  generalize (s.get F.SEC_LC_STATE == 0 || s.get F.SEC_LC_STATE == 3) = free at hfree ⊢
  simp only [← hfree, Bool.or_eq_true, Bool.and_eq_true, decide_eq_true_eq, Bool.not_eq_true',
    decide_eq_false_iff_not, ← Bool.not_eq_true, or_assoc, and_assoc]

/-- A new challenge leaves the registers outside the challenge's words. -/
theorem State.newChal_level (s : State) : s.newChal.get F.SEC_DBG_LEVEL = s.get F.SEC_DBG_LEVEL := by
  unfold State.newChal
  refine foldl_keeps (P := fun (u : State) => u.get F.SEC_DBG_LEVEL = s.get F.SEC_DBG_LEVEL) (fun u j hj hu => ?_) rfl
  refine Eq.trans ?_ hu
  refine (State.get_of_regs (s := u.set64 (F.SEC_DBG_CHAL (2 * j)) u.freeVal.toNat) rfl F.SEC_DBG_LEVEL).trans ?_
  rw [State.set64]
  have hlow : F.SEC_DBG_LEVEL.addr < (F.SEC_DBG_CHAL (2 * j)).addr := by
    simp only [F.SEC_DBG_LEVEL, F.SEC_DBG_CHAL]
    omega
  rw [State.get_wr_other _ _ _ _ (by omega), State.get_wr_other _ _ _ _ (by omega)]

/-! ### The commands -/

theorem State.lcAdvance_of_idle (h : s.on F.SEC_KMB_STATUS_BUSY = false) (arg : Nat) : s.lcAdvance arg =
    if arg = 1 ∧ s.get F.SEC_LC_STATE = 0 ∧ s.sec.siteHash.isSome = true then (s.lifecycle 1).kmbEnd stDONE
    else if arg = 2 ∧ s.get F.SEC_LC_STATE = 1 ∧ s.sec.dbgHash.isSome = true then (s.lifecycle 2).kmbEnd stDONE
    else if arg = 3 ∧ (s.get F.SEC_LC_STATE = 1 ∨ s.get F.SEC_LC_STATE = 2) then s.decomStart
    else s.kmbEnd stREJ_PERM := by
  unfold State.lcAdvance
  simp only [h, if_neg Bool.false_ne_true, Bool.and_eq_true, Bool.or_eq_true, decide_eq_true_eq, beq_iff_eq, and_assoc]

theorem exec_lcAdvance_of_idle (hopen : s.blockOpen = true) (h : s.on F.SEC_KMB_STATUS_BUSY = false) (arg : BitVec 16) : exec (.lcAdvance arg) s =
    .next (if arg.toNat = 1 ∧ s.get F.SEC_LC_STATE = 0 ∧ s.sec.siteHash.isSome = true then (s.lifecycle 1).kmbEnd stDONE
      else if arg.toNat = 2 ∧ s.get F.SEC_LC_STATE = 1 ∧ s.sec.dbgHash.isSome = true then (s.lifecycle 2).kmbEnd stDONE
      else if arg.toNat = 3 ∧ (s.get F.SEC_LC_STATE = 1 ∨ s.get F.SEC_LC_STATE = 2) then s.decomStart
      else s.kmbEnd stREJ_PERM) := by
  rw [← State.lcAdvance_of_idle h]
  exact congrArg _ (if_pos hopen)

theorem exec_decommissionComplete_of_drained (hd : s.sec.decom = true) (hrst : s.pcie.ctxRst = []) {u : State} (hu : (s.eraseKeys).wipeMemory false = u) :
    exec .decommissionComplete s =
      .next ((({ u with sec := { u.sec with decom := false, udsKill := true } } : State).lifecycle 3).kmbEnd stDONE) := by
  have hexec : exec .decommissionComplete s = .next s.decomEnd := rfl
  rw [hexec, State.decomEnd, if_pos (by simp [hd, hrst]), hu]

theorem exec_d2UnlockComplete_of_drained {old : Nat} (h : s.sec.unlock = some old) (hrst : s.pcie.ctxRst = []) {u : State}
    (hu : (s.eraseKeys).wipeMemory true = u) : exec .d2UnlockComplete s =
      .next ((({ u with sec := { u.sec with unlock := none } } : State).set F.SEC_DBG_LEVEL 2).debugTrace 1 old 2) := by
  have hexec : exec .d2UnlockComplete s = .next s.unlockEnd := rfl
  rw [hexec, State.unlockEnd, h]
  dsimp only
  rw [if_pos (by simp [hrst]), hu]

theorem exec_d2UnlockComplete_of_waiting (h : s.sec.unlock = none ∨ s.pcie.ctxRst ≠ []) : exec .d2UnlockComplete s = .next s := by
  have hexec : exec .d2UnlockComplete s = .next s.unlockEnd := rfl
  rw [hexec, State.unlockEnd]
  cases hu : s.sec.unlock with
  | none => rfl
  | some old =>
    dsimp only
    rw [if_neg (by simpa [hu] using h)]

theorem exec_dbgToken_jtag (s : State) (b : List Byte) (fails : Bool) :
    exec (.dbgToken (some b) fails) s = .next (({ s with sec := { s.sec with tap := 7 } } : State).token b).2 := rfl

theorem State.token_of_bad {b : List Byte} (h : s.tokenOk b = false) :
    s.token b = (stREJ_PERM, ((s.newChal).stickIrq F.SEC_DBGREF_DBGREF 14).debugTrace 4 (s.get F.SEC_DBG_LEVEL) (leAt b 3 1)) := by
  rw [State.token, if_neg (by simp [h])]

theorem State.token_of_ok {b : List Byte} (h : s.tokenOk b = true) {u : State} (hu : (s.set (F.SEC_MC 6 0) (leAt b 12 4)).newChal = u) :
    s.token b = (stDONE, if s.get F.SEC_DBG_LEVEL < leAt b 3 1 then u.raiseLevel (leAt b 3 1) else u) := by
  have hlevel : u.get F.SEC_DBG_LEVEL = s.get F.SEC_DBG_LEVEL := by
    rw [← hu, State.newChal_level]
    exact State.get_set_apart (by decide) (by decide)
  rw [State.token, if_pos h, hu]
  dsimp only
  rw [hlevel]

theorem exec_dbgToken (hopen : s.blockOpen = true) (fails : Bool) :
    exec (.dbgToken none fails) s = .next (s.kmbBuf 256 false fails fun s b => s.token b) := congrArg _ (if_neg (by simp [hopen]))

theorem exec_debugLevelWrite (s : State) (v : Word) (jtag : Bool) : exec (.debugLevelWrite v jtag) s =
    .next (if jtag || s.blockOpen then s.levelWrite v.toNat jtag else s) := rfl

theorem exec_debugLevelWrite_of_open {jtag : Bool} (h : jtag = true ∨ s.blockOpen = true) (v : Word) :
    exec (.debugLevelWrite v jtag) s = .next (s.levelWrite v.toNat jtag) := by
  rw [exec_debugLevelWrite, if_pos (by simpa using h)]

end

/-- Settles O51. -/
theorem lifecycleAndDebugLevelsMoveByTheirRules : Obligations.LifecycleAndDebugLevelsMoveByTheirRules := by
  unfold Obligations.LifecycleAndDebugLevelsMoveByTheirRules
  intro s arg b v fails
  refine ⟨fun h => ⟨?_, ?_, ?_⟩, fun hopen hbusy => ⟨?_, ?_⟩, fun hopen hidle => ⟨fun ha hl hs => ?_, fun ha hl hs => ?_, fun ha hl => ?_, fun hbad => ?_⟩,
    fun hd hrst => ?_, fun h => congrArg _ (if_neg ?_), fun old hu hrst => ?_, fun h => ?_, fun t ht => ⟨fun hbad => ?_, fun hok u hu => ⟨fun hlt => ?_, fun hle => ?_⟩⟩,
    fun hopen hidle r => ⟨fun hread => ?_, fun st hread => ?_⟩, fun l w hl hw => ⟨fun hle h3 => ⟨?_, fun hopen => ?_⟩, fun h3 => ⟨?_, fun hopen => ?_⟩,
      fun hlt h3 hlc => ?_, fun hlt hlc => ?_, fun hopen hlt hlc => ?_, fun hopen h0 h1 hlc => ?_⟩⟩
  · exact congrArg _ (if_neg (by simp [State.blockOpen_eq_false h]))
  · exact congrArg _ (if_pos (by simp [State.blockOpen_eq_false h]))
  · exact congrArg _ (if_neg (by simp [State.blockOpen_eq_false h]))
  · have hexec : exec (.lcAdvance arg) s = .next (s.lcAdvance arg.toNat) := congrArg _ (if_pos hopen)
    rw [hexec, State.lcAdvance, if_pos hbusy]
  · rw [exec_dbgToken hopen, State.kmbBuf_of_busy hbusy]
  · rw [exec_lcAdvance_of_idle hopen hidle, if_pos ⟨congrArg BitVec.toNat ha, hl, hs⟩]
  · subst ha
    rw [exec_lcAdvance_of_idle hopen hidle, if_neg (by simp), if_pos ⟨rfl, hl, hs⟩]
  · subst ha
    rw [exec_lcAdvance_of_idle hopen hidle, if_neg (by simp), if_neg (by simp), if_pos ⟨rfl, hl⟩]
  · rw [exec_lcAdvance_of_idle hopen hidle]
    simp only [← BitVec.toNat_inj] at hbad
    rw [if_neg, if_neg, if_neg]
    all_goals
      rintro ⟨ha, hl⟩
      simp [ha] at hbad
    · omega
    · simp [hl.1, Option.isSome_iff_ne_none.mp hl.2] at hbad
    · simp [hl.1, Option.isSome_iff_ne_none.mp hl.2] at hbad
  · generalize hu : (s.eraseKeys).wipeMemory false = u
    refine ⟨{ u with sec := { u.sec with decom := false, udsKill := true } }, exec_decommissionComplete_of_drained hd hrst hu, rfl, rfl, ?_, ?_, ?_, ?_, ?_, ?_, ?_, ?_, ?_, ?_⟩
    · show u.sec.slots = []
      rw [← hu, State.wipeMemory_sec, State.eraseKeys_sec]
    · show u.sec.creds = []
      rw [← hu, State.wipeMemory_sec, State.eraseKeys_sec]
    · show u.sec.lpKey = none
      rw [← hu, State.wipeMemory_sec, State.eraseKeys_sec]
    · show u.sec.sessions = []
      rw [← hu, State.wipeMemory_sec, State.eraseKeys_sec]
    · show u.eth.sas = []
      rw [← hu, State.wipeMemory_eth, State.eraseKeys_sas]
    · show ∀ a, a < 0x40000000 → u.mem.byte 1 a = 0
      exact hu ▸ (s.eraseKeys.byte_wipeMemory false).1
    · show ∀ a, a < spaceSize 2 → u.mem.byte 2 a = 0
      exact hu ▸ (s.eraseKeys.byte_wipeMemory false).2
    · show u.plans = []
      rw [← hu, State.wipeMemory_plans]
    · show u.graphs = []
      rw [← hu, State.wipeMemory_graphs]
    · show u.wins = []
      rw [← hu, State.wipeMemory_wins, if_neg Bool.false_ne_true]
  · obtain h | h := h <;> simp [h]
  · generalize hw : (s.eraseKeys).wipeMemory true = w
    refine ⟨{ w with sec := { w.sec with unlock := none } }, exec_d2UnlockComplete_of_drained hu hrst hw, rfl, ?_, ?_, ?_, ?_, ?_⟩
    · show w.sec.slots = []
      rw [← hw, State.wipeMemory_sec, State.eraseKeys_sec]
    · show w.plans = []
      rw [← hw, State.wipeMemory_plans]
    · show w.graphs = []
      rw [← hw, State.wipeMemory_graphs]
    · show w.wins = s.wins
      rw [← hw, State.wipeMemory_wins, if_pos rfl, State.eraseKeys_wins]
    · show ∀ a, a < 0x7E00000 → w.mem.byte 1 a = 0
      exact hw ▸ (s.eraseKeys.byte_wipeMemory true).1
  · exact exec_d2UnlockComplete_of_waiting h
  · rw [exec_dbgToken_jtag, ← ht, State.token_of_bad hbad, ht]
    rfl
  · rw [exec_dbgToken_jtag, ← ht, State.token_of_ok hok hu.symm, if_pos (by rw [ht]; exact hlt)]
  · rw [exec_dbgToken_jtag, ← ht, State.token_of_ok hok hu.symm, if_neg (by rw [ht]; exact Nat.not_lt.mpr hle)]
  · rw [exec_dbgToken hopen, State.kmbBuf_of_ok hidle hread (st := (r.token b).1) (u := (r.token b).2) rfl]
  · rw [exec_dbgToken hopen, State.kmbBuf_of_error hidle hread]
  all_goals subst hl
  all_goals rw [exec_debugLevelWrite_of_open (by simp [*]), State.levelWrite_eq]
  · rw [if_neg (by simp [hle, h3]), if_pos hle, hw]
  · rw [if_neg (by simp [hle, h3]), if_pos hle, hw]
  · rw [if_pos (.inl h3), if_pos rfl]
  · rw [if_pos (.inl h3), if_neg Bool.false_ne_true]
  · rw [if_neg (by simp [hlc, h3]), if_neg (Nat.not_le.mpr hlt), hw]
  · rw [if_pos (.inr (by simp; omega)), if_pos rfl]
  · rw [if_pos (.inr (by simp; omega)), if_neg Bool.false_ne_true]
  · rw [if_neg (by simp; omega), if_neg (by omega), hw, h1]
    exact congrArg _ (if_neg (show ¬ (1 : Nat) = 2 by decide))

end Sys2Proof.Machine
end


section

/-! Queues and completion queues: their control registers. -/

namespace Sys2Proof.Machine

@[simp] theorem State.set_queueSt (s : State) (f : Fld) (v t q : Nat) : (s.set f v).queueSt t q = s.queueSt t q := by
  rw [State.queueSt, State.queueSt, State.set_queues]

@[simp] theorem State.set_tenantSt (s : State) (f : Fld) (v t : Nat) : (s.set f v).tenantSt t = s.tenantSt t := by
  rw [State.tenantSt, State.tenantSt, State.set_tenants]

theorem State.RegsOnly.setQueue {s u : State} (h : s.RegsOnly u) (x : QueueSt) :
    u.setQueue x = { s with regs := (u.setQueue x).regs, queues := (u.setQueue x).queues } := by
  rw [h]
  rfl

theorem State.RegsOnly.setTenant {s u : State} (h : s.RegsOnly u) (x : TenantSt) :
    u.setTenant x = { s with regs := (u.setTenant x).regs, tenants := (u.setTenant x).tenants } := by
  rw [h]
  rfl

section
variable {s d : State}

/-! ### A queue's enable (R151, R153) -/

/-- Queue `q` of tenant `t` may be enabled by its ring, its completion queue and its credential. -/
def State.queueAdmitted (s : State) (t q : Nat) : Prop :=
  s.qRingOk t q (s.get (F.TP_Q_WIN_ID t q)) (s.get (F.TP_Q_WIN_GEN t q)) = true ∧ s.on (F.TP_CQ_CTRL_EN t) = true ∧
    (s.on F.SEC_CTRL_CRED_REQ = false ∨ t = 0 ∨ s.credValid t = true)

/-- HEAD and TAIL of a queue at 0. -/
def State.queueEmptied (s : State) (t q : Nat) : State := (s.set (F.TP_Q_HEAD t q) 0).set (F.TP_Q_TAIL t q) 0

/-- A queue whose halt is cleared, enabled. -/
def State.queueRunning (s : State) (t q : Nat) : State :=
  ((s.set (F.TP_Q_STATUS_HALT t q) 0).set (F.TP_Q_STATUS_CAUSE t q) 0).set (F.TP_Q_CTRL_EN t q) 1

/-- The registers of a queue just enabled. -/
def State.queueStarted (s : State) (t q : Nat) : State :=
  ((s.queueEmptied t q).set (F.TP_Q_SEQ_NEXT t q) ((s.queueEmptied t q).get (F.TP_Q_SEQ_INIT t q))).queueRunning t q

theorem State.queueEnable_of_enabled {t q : Nat} (hd : s.credEvalAll = d) (h : d.on (F.TP_Q_CTRL_EN t q) = true) : s.queueEnable t q = d := by
  rw [State.queueEnable, hd]
  exact if_pos h

theorem State.queueEnable_of_refused {t q : Nat} (hd : s.credEvalAll = d) (h : d.on (F.TP_Q_CTRL_EN t q) = false) (hno : ¬ d.queueAdmitted t q) :
    s.queueEnable t q = d.stick (F.TP_CFG_CFG t) := by
  rw [State.queueEnable, hd]
  refine (if_neg (by simp [h])).trans (if_pos ?_)
  simp only [State.queueAdmitted, Classical.not_and_iff_not_or_not, not_or, Bool.not_eq_true, Bool.not_eq_false] at hno
  simpa [or_assoc, and_assoc] using hno

theorem State.queueEnable_of_admitted {t q : Nat} (hd : s.credEvalAll = d) (h : d.on (F.TP_Q_CTRL_EN t q) = false) (hok : d.queueAdmitted t q) :
    s.queueEnable t q = (d.queueStarted t q).setQueue { d.queueSt t q with openSeq := none } := by
  rw [State.queueEnable, hd]
  refine (if_neg (by simp [h])).trans ((if_neg ?_).trans ?_)
  · obtain ⟨hring, hcq, hcred⟩ := hok
    simp only [hring, hcq, Bool.not_true, Bool.false_or]
    obtain hc | hc | hc := hcred <;> simp [hc]
  · rw [State.queueStarted, State.queueRunning, State.queueEmptied]
    simp only [State.set_queueSt]

theorem State.queueStarted_regsOnly (s : State) (t q : Nat) : s.RegsOnly (s.queueStarted t q) := by
  unfold State.queueStarted State.queueRunning State.queueEmptied
  iterate 5 refine State.RegsOnly.trans ?_ (State.set_regsOnly _ _ _)
  exact s.set_regsOnly _ _

theorem State.get_queueRunning {t q : Nat} {f : Fld} (h : f.addr ≠ (F.TP_Q_STATUS_HALT t q).addr) (h' : f.addr ≠ (F.TP_Q_CTRL_EN t q).addr) :
    (s.queueRunning t q).get f = s.get f := by
  rw [State.queueRunning, State.get_set_apart (f := F.TP_Q_CTRL_EN t q) (Nat.le_of_ble_eq_true rfl) (.inl h'),
    State.get_set_apart (f := F.TP_Q_STATUS_CAUSE t q) (Nat.le_of_ble_eq_true rfl) (.inl h),
    State.get_set_apart (f := F.TP_Q_STATUS_HALT t q) (Nat.le_of_ble_eq_true rfl) (.inl h)]

theorem State.queueRunning_parts (s : State) (t q : Nat) : (s.queueRunning t q).on (F.TP_Q_CTRL_EN t q) = true ∧
    (s.queueRunning t q).on (F.TP_Q_STATUS_HALT t q) = false := by
  refine ⟨State.on_set_one (Nat.le_of_ble_eq_true rfl) rfl, ?_⟩
  rw [State.queueRunning, State.on_set_apart (f := F.TP_Q_CTRL_EN t q) (g := F.TP_Q_STATUS_HALT t q) (Nat.le_of_ble_eq_true rfl),
    State.on_set_apart (f := F.TP_Q_STATUS_CAUSE t q) (g := F.TP_Q_STATUS_HALT t q) (Nat.le_of_ble_eq_true rfl) (.inr (.inl (Nat.le_refl 2))),
    State.on_set_zero (Nat.le_of_ble_eq_true rfl)]
  left
  simp only [F.TP_Q_STATUS_HALT, F.TP_Q_CTRL_EN]
  omega

theorem State.queueStarted_head (s : State) (t q : Nat) : (s.queueStarted t q).get (F.TP_Q_HEAD t q) = 0 ∧
    (s.queueStarted t q).get (F.TP_Q_TAIL t q) = 0 ∧
    (s.queueStarted t q).get (F.TP_Q_SEQ_NEXT t q) = s.get (F.TP_Q_SEQ_INIT t q) := by
  have hinit : (s.queueEmptied t q).get (F.TP_Q_SEQ_INIT t q) = s.get (F.TP_Q_SEQ_INIT t q) := by
    rw [State.queueEmptied, State.get_set_apart (f := F.TP_Q_TAIL t q) (Nat.le_refl 32), State.get_set_apart (f := F.TP_Q_HEAD t q) (Nat.le_refl 32)]
    all_goals
      left
      simp only [F.TP_Q_SEQ_INIT, F.TP_Q_HEAD, F.TP_Q_TAIL]
      omega
  rw [State.queueStarted, hinit]
  refine ⟨?_, ?_, ?_⟩
  · rw [State.get_queueRunning, State.get_set_apart (f := F.TP_Q_SEQ_NEXT t q) (Nat.le_refl 32), State.queueEmptied,
      State.get_set_apart (f := F.TP_Q_TAIL t q) (Nat.le_refl 32), State.get_set_same _ (F.TP_Q_HEAD t q) 0 (Nat.le_refl 32), Nat.zero_mod]
    · left
      simp only [F.TP_Q_HEAD, F.TP_Q_TAIL]
      omega
    · left
      simp only [F.TP_Q_HEAD, F.TP_Q_SEQ_NEXT]
      omega
    all_goals
      simp only [F.TP_Q_HEAD, F.TP_Q_STATUS_HALT, F.TP_Q_CTRL_EN]
      omega
  · rw [State.get_queueRunning, State.get_set_apart (f := F.TP_Q_SEQ_NEXT t q) (Nat.le_refl 32), State.queueEmptied,
      State.get_set_same _ (F.TP_Q_TAIL t q) 0 (Nat.le_refl 32), Nat.zero_mod]
    · left
      simp only [F.TP_Q_TAIL, F.TP_Q_SEQ_NEXT]
      omega
    all_goals
      simp only [F.TP_Q_TAIL, F.TP_Q_STATUS_HALT, F.TP_Q_CTRL_EN]
      omega
  · rw [State.get_queueRunning, State.get_set_same _ (F.TP_Q_SEQ_NEXT t q) _ (Nat.le_refl 32)]
    · exact Nat.mod_eq_of_lt (s.get_lt _)
    all_goals
      simp only [F.TP_Q_SEQ_NEXT, F.TP_Q_STATUS_HALT, F.TP_Q_CTRL_EN]
      omega

end

/-- The registers of a completion queue just enabled. -/
def State.cqStarted (s : State) (t : Nat) : State :=
  (((s.set (F.TP_CQ_HEAD t) 0).set (F.TP_CQ_TAIL t) 0).set (F.TP_CQ_STATUS_HALT t) 0).set (F.TP_CQ_CTRL_EN t) 1

theorem State.cqStarted_regsOnly (s : State) (t : Nat) : s.RegsOnly (s.cqStarted t) := by
  unfold State.cqStarted
  iterate 3 refine State.RegsOnly.trans ?_ (State.set_regsOnly _ _ _)
  exact s.set_regsOnly _ _

theorem State.cqStarted_parts (s : State) (t : Nat) : (s.cqStarted t).on (F.TP_CQ_CTRL_EN t) = true ∧ (s.cqStarted t).get (F.TP_CQ_HEAD t) = 0 ∧
    (s.cqStarted t).get (F.TP_CQ_TAIL t) = 0 ∧ (s.cqStarted t).on (F.TP_CQ_STATUS_HALT t) = false := by
  have hbit {f : Fld} (h : f.lo + f.n = 1) : f.lo + f.n ≤ 32 := by omega
  unfold State.cqStarted
  refine ⟨State.on_set_one (hbit rfl) rfl, ?_, ?_, ?_⟩
  · rw [State.get_set_apart (f := F.TP_CQ_CTRL_EN t) (hbit rfl), State.get_set_apart (f := F.TP_CQ_STATUS_HALT t) (hbit rfl),
      State.get_set_apart (f := F.TP_CQ_TAIL t) (Nat.le_refl 32), State.get_set_same _ (F.TP_CQ_HEAD t) 0 (Nat.le_refl 32), Nat.zero_mod]
    all_goals
      left
      simp only [F.TP_CQ_HEAD, F.TP_CQ_TAIL, F.TP_CQ_STATUS_HALT, F.TP_CQ_CTRL_EN]
      omega
  · rw [State.get_set_apart (f := F.TP_CQ_CTRL_EN t) (hbit rfl), State.get_set_apart (f := F.TP_CQ_STATUS_HALT t) (hbit rfl),
      State.get_set_same _ (F.TP_CQ_TAIL t) 0 (Nat.le_refl 32), Nat.zero_mod]
    all_goals
      left
      simp only [F.TP_CQ_TAIL, F.TP_CQ_STATUS_HALT, F.TP_CQ_CTRL_EN]
      omega
  · rw [State.on_set_apart (f := F.TP_CQ_CTRL_EN t) (hbit rfl), State.on_set_zero (hbit rfl)]
    left
    simp only [F.TP_CQ_STATUS_HALT, F.TP_CQ_CTRL_EN]
    omega

theorem State.cqEnable_of_admitted {s : State} {t : Nat} (h : s.on (F.TP_CQ_CTRL_EN t) = false)
    (hring : s.cqRingOk t (s.get (F.TP_CQ_WIN_ID t)) (s.get (F.TP_CQ_WIN_GEN t)) = true) :
    s.cqEnable t = (s.cqStarted t).setTenant { s.tenantSt t with cqFull := false } := by
  rw [State.cqEnable, if_neg (by simp [h]), if_neg (by simp [hring]), State.cqStarted]
  simp only [State.set_tenantSt]

/-! ### The registers of a page that takes writes, and of one that takes none -/

section
variable {s : State} {t : Tenant} (h : s.pageOpen t.val = true)
include h

theorem exec_queueEnable (q : Queue) : exec (.queueEnable t q) s = .next (s.queueEnable t.val q.val) := congrArg _ (if_pos h)

theorem exec_queueDisable (q : Queue) : exec (.queueDisable t q) s = .next (s.set (F.TP_Q_CTRL_EN t.val q.val) 0) := congrArg _ (if_pos h)

theorem exec_queueResume (q : Queue) : exec (.queueResume t q) s = .next (s.queueResume t.val q.val) := congrArg _ (if_pos h)

theorem exec_queueWinWrite (q : Queue) (v : Word) : exec (.queueWinWrite t q v) s = .next (s.queueWin t.val q.val v.toNat) := congrArg _ (if_pos h)

theorem exec_cqEnable : exec (.cqEnable t) s = .next (s.cqEnable t.val) := congrArg _ (if_pos h)

theorem exec_cqDisable : exec (.cqDisable t) s = .next (s.cqDisable t.val) := congrArg _ (if_pos h)

theorem exec_cqResume : exec (.cqResume t) s = .next (if s.on (F.TP_CQ_STATUS_HALT t.val) then s.cqResume t.val else s) := by
  have hexec : exec (.cqResume t) s = .next (if s.pageOpen t.val && s.on (F.TP_CQ_STATUS_HALT t.val) then s.cqResume t.val else s) := rfl
  rw [hexec, h, Bool.true_and]

theorem exec_cqWinWrite (v : Word) : exec (.cqWinWrite t v) s = .next (s.cqWin t.val v.toNat) := congrArg _ (if_pos h)

end

theorem exec_queueControl_of_shut {s : State} {t : Tenant} (h : s.pageOpen t.val = false) (q : Queue) (v : Word) :
    exec (.queueEnable t q) s = .next s ∧ exec (.queueDisable t q) s = .next s ∧ exec (.queueResume t q) s = .next s ∧
    exec (.queueWinWrite t q v) s = .next s ∧ exec (.cqEnable t) s = .next s ∧ exec (.cqDisable t) s = .next s ∧
    exec (.cqResume t) s = .next s ∧ exec (.cqWinWrite t v) s = .next s := by
  have hshut : ¬ s.pageOpen t.val = true := by simp [h]
  exact ⟨congrArg _ (if_neg hshut), congrArg _ (if_neg hshut), congrArg _ (if_neg hshut), congrArg _ (if_neg hshut), congrArg _ (if_neg hshut),
    congrArg _ (if_neg hshut), congrArg _ (if_neg (by simp [h])), congrArg _ (if_neg hshut)⟩

/-- Settles O17. -/
theorem queuesAndRingsFollowTheirControl : Obligations.QueuesAndRingsFollowTheirControl := by
  unfold Obligations.QueuesAndRingsFollowTheirControl
  refine ⟨fun s t q v hopen => ⟨fun d hd hen => ⟨fun hring hcq hcred => ?_, fun hno => ?_⟩, fun d hd hen => ?_, exec_queueDisable hopen q,
      fun hhalt => ?_, fun hhalt => ?_, fun hok => ?_, fun hen hno => ?_⟩,
    fun s t v hopen => ⟨fun hen => ⟨fun hring => ?_, fun hring => ?_⟩, fun hoff => ?_, fun q hq hen hqen => ?_, fun hhalt => ?_, fun hhalt => ?_,
      fun hen => ?_, fun hok => ?_, fun hen hno => ?_⟩, fun s t q v hshut => exec_queueControl_of_shut hshut q v⟩
  · have hrun := State.queueRunning_parts
      ((d.queueEmptied t.val q.val).set (F.TP_Q_SEQ_NEXT t.val q.val) ((d.queueEmptied t.val q.val).get (F.TP_Q_SEQ_INIT t.val q.val))) t.val q.val
    obtain ⟨hhead, htail, hseq⟩ := d.queueStarted_head t.val q.val
    have hregs := d.queueStarted_regsOnly t.val q.val
    rw [exec_queueEnable hopen, State.queueEnable_of_admitted hd.symm hen ⟨hring, hcq, hcred⟩]
    rw [← State.queueStarted] at hrun
    generalize d.queueStarted t.val q.val = u at *
    have hr : (u.setQueue { d.queueSt t.val q.val with openSeq := none }).regs = u.regs := rfl
    exact ⟨u.setQueue { d.queueSt t.val q.val with openSeq := none }, rfl, (State.on_of_regs hr _).trans hrun.1, (State.get_of_regs hr _).trans hhead,
      (State.get_of_regs hr _).trans htail, (State.get_of_regs hr _).trans hseq, (State.on_of_regs hr _).trans hrun.2, hregs.setQueue _⟩
  · rw [exec_queueEnable hopen, State.queueEnable_of_refused hd.symm hen]
    rintro ⟨hring, hcq, hcred⟩
    obtain h | h | ⟨h1, h2, h3⟩ := hno
    · exact Bool.false_ne_true (h.symm.trans hring)
    · exact Bool.false_ne_true (h.symm.trans hcq)
    · simp [h1, h2, h3] at hcred
  · rw [exec_queueEnable hopen, State.queueEnable_of_enabled hd.symm hen]
  · rw [exec_queueResume hopen, State.queueResume, if_pos hhalt]
  · rw [exec_queueResume hopen, State.queueResume, if_neg (by simp [hhalt])]
  · rw [exec_queueWinWrite hopen, State.queueWin, if_pos (by obtain h | h := hok <;> simp [h])]
  · rw [exec_queueWinWrite hopen, State.queueWin, if_neg (by obtain h | h := hno <;> simp [hen, h])]
    rfl
  · rw [exec_cqEnable hopen, State.cqEnable, if_neg (by simp [hen]), if_pos (by simp [hring])]
    rfl
  · obtain ⟨hcen, hhead, htail, hhalt⟩ := s.cqStarted_parts t.val
    have hregs := s.cqStarted_regsOnly t.val
    rw [exec_cqEnable hopen, State.cqEnable_of_admitted hen hring]
    generalize s.cqStarted t.val = u at *
    have hr : (u.setTenant { s.tenantSt t.val with cqFull := false }).regs = u.regs := rfl
    exact ⟨u.setTenant { s.tenantSt t.val with cqFull := false }, rfl, (State.on_of_regs hr _).trans hcen, (State.get_of_regs hr _).trans hhead,
      (State.get_of_regs hr _).trans htail, (State.on_of_regs hr _).trans hhalt, hregs.setTenant _⟩
  · have hnone : ¬ (s.on (F.TP_CQ_CTRL_EN t.val) && (List.range 8).any fun q => s.on (F.TP_Q_CTRL_EN t.val q)) = true := by
      simpa using fun _ q hq => hoff q hq
    rw [exec_cqDisable hopen, State.cqDisable, if_neg hnone]
  · have hany : (s.on (F.TP_CQ_CTRL_EN t.val) && (List.range 8).any fun q => s.on (F.TP_Q_CTRL_EN t.val q)) = true := by
      simpa [hen] using ⟨q, hq, hqen⟩
    rw [exec_cqDisable hopen, State.cqDisable, if_pos hany]
    rfl
  · rw [exec_cqResume hopen, if_pos hhalt, State.cqResume]
  · rw [exec_cqResume hopen, if_neg (by simp [hhalt])]
  · rw [exec_cqEnable hopen, State.cqEnable, if_pos hen]
  · rw [exec_cqWinWrite hopen, State.cqWin, if_pos (by obtain h | h := hok <;> simp [h])]
  · rw [exec_cqWinWrite hopen, State.cqWin, if_neg (by obtain h | h := hno <;> simp [hen, h])]
    rfl

end Sys2Proof.Machine
end


section

/-! What a read of an area in SRAM or in host memory changes: notes, and the tenant's translations. -/

namespace Sys2Proof.Machine

/-- `u` is `s` but for notes and the translations in use. -/
structure State.AreaUsed (s u : State) : Prop where
  frame : u = { s with regs := u.regs, mem := u.mem, errs := u.errs, lpe := u.lpe, outbox := u.outbox, pcie := u.pcie }
  pcie : u.pcie = { s.pcie with pendingVec := u.pcie.pendingVec, ats := u.pcie.ats }
  lpe : u.lpe = { s.lpe with lpSeq := u.lpe.lpSeq, kept := u.lpe.kept }
  rd : ∀ b, noteWord b = false → u.rd b = s.rd b

theorem State.Noted.areaUsed {s u : State} (h : s.Noted u) : s.AreaUsed u := by
  obtain ⟨hframe, hpcie, hlpe, hrd⟩ := h
  refine ⟨hframe, ?_, hlpe, hrd⟩
  rw [hpcie]

theorem State.AreaUsed.refl (s : State) : s.AreaUsed s := (State.Noted.refl s).areaUsed

theorem State.AreaUsed.trans {s u w : State} (h : s.AreaUsed u) (h' : u.AreaUsed w) : s.AreaUsed w := by
  obtain ⟨hframe, hpcie, hlpe, hrd⟩ := h
  obtain ⟨hframe', hpcie', hlpe', hrd'⟩ := h'
  refine ⟨?_, ?_, ?_, fun b hb => (hrd' b hb).trans (hrd b hb)⟩
  · rw [hframe', hframe]
  · rw [hpcie', hpcie]
  · rw [hlpe', hlpe]

section
variable {s u : State} (h : s.AreaUsed u)
include h

theorem State.AreaUsed.get (f : Fld) (hf : noteWord f.addr = false) : u.get f = s.get f := by
  rw [State.get, State.get, h.rd _ hf]

theorem State.AreaUsed.on (f : Fld) (hf : noteWord f.addr = false) : u.on f = s.on f := by
  rw [State.on, State.on, h.get f hf]

theorem State.AreaUsed.cmds_eq : u.cmds = s.cmds := by rw [h.frame]

theorem State.AreaUsed.cf_eq : u.cf = s.cf := by rw [h.frame]

theorem State.AreaUsed.queues_eq : u.queues = s.queues := by rw [h.frame]

theorem State.AreaUsed.queueSt_eq (t q : Nat) : u.queueSt t q = s.queueSt t q := by
  rw [State.queueSt, State.queueSt, h.queues_eq]

end

section
variable (s : State)

theorem State.logUE_noted (sp word iid : Nat) (scrub : Bool) (st seq : Nat) : s.Noted (s.logUE sp word iid scrub st seq) := by
  unfold State.logUE State.set64
  extract_lets da s1 s2 s3 k
  have h1 : s.Noted s1 := s.stickIrq_noted rfl _
  have h2 : s1.Noted s2 := (State.wr_noted _ (by decide) _).trans (State.wr_noted _ (by decide) _)
  have h3 : s2.Noted s3 := (State.set_noted _ rfl _).trans (State.set_noted _ rfl _)
  exact ((h1.trans h2).trans h3).trans (State.fault_noted _ _ _ _ _ _ _ _ _ _)

theorem State.readWords_noted (sp : Nat) (ws : List Nat) (iid st seq : Nat) : s.Noted (s.readWords sp ws iid st seq) := by
  unfold State.readWords
  refine foldl_keeps (P := fun u => s.Noted u) (fun u w _ h => h.trans ?_) (.refl s)
  split
  · exact u.logUE_noted _ _ _ _ _ _
  · exact (u.correct_storeOnly _ _).noted

theorem State.memRead_noted (sp a n iid st seq : Nat) : s.Noted (s.memRead sp a n iid st seq).2 := s.readWords_noted _ _ _ _ _

theorem State.ats_areaUsed (l : List (Nat × Nat)) : s.AreaUsed { s with pcie := { s.pcie with ats := l } } := ⟨rfl, rfl, rfl, fun _ _ => rfl⟩

theorem State.atsUse_areaUsed (t : Nat) (as : List Nat) : s.AreaUsed (s.atsUse t as) := by
  unfold State.atsUse
  split
  · exact s.ats_areaUsed _
  · exact .refl s

theorem State.areaRead_areaUsed (t seq da n : Nat) (fails : Bool) : s.AreaUsed (s.areaRead t seq da n fails).2 := by
  unfold State.areaRead
  split
  · split
    · exact .refl s
    · exact s.atsUse_areaUsed _ _
  have h := (s.memRead_noted 1 (daOff da) n (256 * t + 0x50) stFAULT_ECC seq).areaUsed
  split
  · next hr => rwa [hr] at h
  · next hr => rwa [hr] at h

theorem State.readSlot_areaUsed (t q i : Nat) : s.AreaUsed (s.readSlot t q i).2 := by
  unfold State.readSlot
  dsimp only
  split
  · exact .refl s
  have h := s.areaRead_areaUsed t 0 (s.qBase t q + 64 * (i % s.qSize t q)) 64 false
  split
  · next hr => rwa [hr] at h
  · next hr => rwa [hr] at h

theorem State.readSlots_areaUsed (t q i n : Nat) : s.AreaUsed (s.readSlots t q i n).2 := by
  induction n with
  | zero => exact .refl s
  | succ n ih =>
    unfold State.readSlots
    split
    · next hr => rwa [hr] at ih
    next u hr =>
    rw [hr] at ih
    have h := ih.trans (u.readSlot_areaUsed t q (i + n))
    split
    · next hx => rwa [hx] at h
    · next hx => rwa [hx] at h

end

end Sys2Proof.Machine
end


section

/-! Doorbells and fetches of queues. -/

namespace Sys2Proof.Machine

/-! ### What is kept of a queue -/

theorem State.queueSt_tenant (s : State) (t q : Nat) : (s.queueSt t q).tenant = t := by
  unfold State.queueSt
  cases h : s.queues.find? fun x => x.tenant == t && x.queue == q with
  | none => rfl
  | some x =>
    have hx : x.tenant = t ∧ x.queue = q := by simpa using List.find?_some h
    exact hx.1

theorem State.queueSt_queue (s : State) (t q : Nat) : (s.queueSt t q).queue = q := by
  unfold State.queueSt
  cases h : s.queues.find? fun x => x.tenant == t && x.queue == q with
  | none => rfl
  | some x =>
    have hx : x.tenant = t ∧ x.queue = q := by simpa using List.find?_some h
    exact hx.2

theorem State.queueSt_setQueue_same (s : State) {x : QueueSt} {t q : Nat} (ht : x.tenant = t) (hq : x.queue = q) : (s.setQueue x).queueSt t q = x := by
  subst ht hq
  have hnone : (s.queues.filter fun y => !(y.tenant == x.tenant && y.queue == x.queue)).find? (fun y => y.tenant == x.tenant && y.queue == x.queue) = none :=
    List.find?_eq_none.mpr fun y hy => by simpa [-not_and, Classical.not_and_iff_not_or_not] using (List.mem_filter.mp hy).2
  have hfind : (s.setQueue x).queues = (s.queues.filter fun y => !(y.tenant == x.tenant && y.queue == x.queue)) ++ [x] := rfl
  rw [State.queueSt, hfind, List.find?_append, hnone]
  simp

theorem head_addr_ne_resume (t q : Nat) : (F.TP_Q_HEAD t q).addr ≠ (F.TP_Q_CTRL_RESUME t q).addr := by
  simp only [F.TP_Q_HEAD, F.TP_Q_CTRL_RESUME]
  omega

theorem State.msix_mem (s : State) (fn vec : Nat) : (s.msix fn vec).mem = s.mem := by
  unfold State.msix
  (repeat' split) <;> rfl

theorem State.irq_mem (s : State) (vec : Nat) : (s.irq vec).mem = s.mem := by
  have hcases : s.irq vec = ({ s with errs := { s.errs with vecSent := kvIns vec s.cad.time s.errs.vecSent } } : State).msix 0 vec ∨
      s.irq vec = s := State.ite_eq_left_or_right _ _
  obtain h | h := hcases
  · rw [h, State.msix_mem]
  · rw [h]

theorem noteWord_of_page {a : Nat} (h : 0x1000000 ≤ a) : noteWord a = false := by
  simp [noteWord]
  omega

/-! ### A halt of a queue (R157, R161) -/

section
variable (s : State) (t q cause : Nat)

/-- The registers of a queue just halted. -/
def State.queueHalted : State :=
  ((s.set (F.TP_Q_STATUS_HALT t q) 1).set (F.TP_Q_STATUS_CAUSE t q) cause).stick (F.TP_HALT_HALT t)

theorem State.queueHalted_regsOnly : s.RegsOnly (s.queueHalted t q cause) :=
  ((s.set_regsOnly _ _).trans (State.set_regsOnly _ _ _)).trans (State.stick_regsOnly _ _)

theorem State.haltNote_noted (was : Bool) : (s.stick (F.TP_HALT_HALT t)).Noted (s.haltNote t was) ∧ (s.haltNote t was).mem = s.mem := by
  unfold State.haltNote
  have hmsix := (s.stick (F.TP_HALT_HALT t)).msix_noted t 1
  have hmem := ((s.stick (F.TP_HALT_HALT t)).msix_mem t 1).trans (State.stick_mem _ _)
  generalize (s.stick (F.TP_HALT_HALT t)).msix t 1 = u at hmsix hmem ⊢
  cases was
  · exact ⟨hmsix.trans (u.irq_noted 17), (u.irq_mem 17).trans hmem⟩
  · exact ⟨hmsix, hmem⟩

/-- A halt sets the queue's registers, then notes it. -/
theorem State.haltQueue_noted : (s.queueHalted t q cause).Noted (s.haltQueue t q cause) ∧ (s.haltQueue t q cause).mem = s.mem := by
  unfold State.haltQueue State.queueHalted
  exact State.haltNote_noted _ _ _

theorem State.get_queueHalted {f : Fld} (h : f.addr ≠ (F.TP_Q_STATUS_HALT t q).addr) (h' : f.addr ≠ (F.TP_HALT_HALT t).addr) :
    (s.queueHalted t q cause).get f = s.get f := by
  rw [State.queueHalted, State.get_stick_other _ _ _ h', State.get_set_apart (f := F.TP_Q_STATUS_CAUSE t q) (Nat.le_of_ble_eq_true rfl) (.inl h),
    State.get_set_apart (f := F.TP_Q_STATUS_HALT t q) (Nat.le_of_ble_eq_true rfl) (.inl h)]

theorem State.haltQueue_status (hq : q < 8) (hcause : cause < 4) : (s.haltQueue t q cause).on (F.TP_Q_STATUS_HALT t q) = true ∧
    (s.haltQueue t q cause).get (F.TP_Q_STATUS_CAUSE t q) = cause := by
  obtain ⟨hnoted, -⟩ := s.haltQueue_noted t q cause
  have hpage : noteWord (F.TP_Q_STATUS_HALT t q).addr = false := noteWord_of_page (by simp only [F.TP_Q_STATUS_HALT]; omega)
  have hother : (F.TP_Q_STATUS_HALT t q).addr ≠ (F.TP_HALT_HALT t).addr := by
    simp only [F.TP_Q_STATUS_HALT, F.TP_HALT_HALT]
    omega
  rw [hnoted.on _ hpage, hnoted.get (F.TP_Q_STATUS_CAUSE t q) hpage, State.queueHalted, State.on, State.get_stick_other _ _ _ hother,
    State.get_stick_other _ _ (F.TP_Q_STATUS_CAUSE t q) hother]
  refine ⟨?_, ?_⟩
  · rw [← State.on, State.on_set_apart (f := F.TP_Q_STATUS_CAUSE t q) (g := F.TP_Q_STATUS_HALT t q) (Nat.le_of_ble_eq_true rfl) (.inr (.inl (Nat.le_refl 2))),
      State.on_set_one (Nat.le_of_ble_eq_true rfl) rfl]
  · rw [State.get_set_same _ _ _ (Nat.le_of_ble_eq_true rfl)]
    exact Nat.mod_eq_of_lt hcause

/-- A halt leaves every other word of the tenants' pages. -/
theorem State.get_haltQueue {f : Fld} (hpage : 0x1000000 ≤ f.addr) (h : f.addr ≠ (F.TP_Q_STATUS_HALT t q).addr) (h' : f.addr ≠ (F.TP_HALT_HALT t).addr) :
    (s.haltQueue t q cause).get f = s.get f :=
  ((s.haltQueue_noted t q cause).1.get f (noteWord_of_page hpage)).trans (s.get_queueHalted t q cause h h')

theorem State.haltQueue_frame : (s.haltQueue t q cause).queues = s.queues ∧ (s.haltQueue t q cause).cmds = s.cmds := by
  obtain ⟨hnoted, -⟩ := s.haltQueue_noted t q cause
  have hregs := s.queueHalted_regsOnly t q cause
  rw [hnoted.frame, hregs]
  exact ⟨rfl, rfl⟩

end

/-! ### Fetches (R156, R157) -/

section
variable {s r : State} {t q : Nat}

theorem State.fetchPackets_of_empty {tail : Nat} (h : (tail + 2 ^ 32 - s.get (F.TP_Q_HEAD t q)) % 2 ^ 32 = 0) (room : Nat) :
    ∀ n, s.fetchPackets t q tail room n = s
  | 0 => rfl
  | n + 1 => by
    rw [State.fetchPackets]
    exact if_pos h

/-- A trusted packet of one slot, taken whole. -/
theorem State.fetchPackets_of_single {tail room n : Nat} {v w : State} {f b : List Byte} (havail : (tail + 2 ^ 32 - s.get (F.TP_Q_HEAD t q)) % 2 ^ 32 = 1)
    (hread : s.readSlot t q (s.get (F.TP_Q_HEAD t q)) = (some f, v)) (hslots : v.readSlots t q (s.get (F.TP_Q_HEAD t q)) 1 = (some b, w))
    (htrust : leAt f 4 4 = (v.get (F.TP_Q_SEQ_NEXT t q) + (v.queueSt t q).shadow.length) % 2 ^ 32) (hlen : leAt f 1 1 % 4 = 0)
    (hroom : (v.queueSt t q).slots < 256) (hroom' : 64 ≤ room) : s.fetchPackets t q tail room (n + 1) =
      ((w.setQueue { v.queueSt t q with shadow := (v.queueSt t q).shadow ++ [b] }).set (F.TP_Q_HEAD t q)
        ((s.get (F.TP_Q_HEAD t q) + 1) % 2 ^ 32)).fetchPackets t q tail (room - 64) n := by
  rw [State.fetchPackets]
  dsimp only
  rw [havail, if_neg (by decide), hread]
  dsimp only
  rw [← htrust, beq_self_eq_true, hlen, if_pos rfl, hslots, if_neg (by simp; omega)]
  rfl

theorem State.mayFetch_iff : s.mayFetch t q = true ↔ (s.on (F.TP_Q_CTRL_EN t q) = true ∧ s.on (F.TP_Q_STATUS_HALT t q) = false ∧
    bit (s.get F.CMQ_STOP) t = false ∧ s.pwr.entry = none ∧ s.get F.PWR_STATUS_STATE = 0 ∧
    (s.boot.phase = .run ∨ s.boot.phase = .recovery) ∧ s.ctxBusy t = false) := by
  simp [State.mayFetch, and_assoc]

theorem State.pageOpen_of_mayFetch (h : s.mayFetch t q = true) : s.pageOpen t = true := by
  obtain ⟨-, -, -, -, -, hphase, hbusy⟩ := State.mayFetch_iff.mp h
  obtain hp | hp := hphase <;> simp [State.pageOpen, State.blockOpen, hbusy, hp]

theorem State.queueFetch_of_may (h : s.mayFetch t q = true) :
    s.queueFetch t q = (s.set (F.TP_Q_CTRL_RESUME t q) 0).fetchPackets t q (s.get (F.TP_Q_TAIL t q)) 1024 16 := if_pos h

theorem State.get_resumeCleared (f : Fld) (h : f.addr ≠ (F.TP_Q_CTRL_RESUME t q).addr) : (s.set (F.TP_Q_CTRL_RESUME t q) 0).get f = s.get f :=
  State.get_set_apart (Nat.le_of_ble_eq_true rfl) (.inl h)

end

theorem exec_queueFetch (s : State) (t : Tenant) (q : Queue) (same : Bool) : exec (.queueFetch t q same) s =
    .next (if same && s.pageOpen t.val && s.on (F.TP_Q_CTRL_RESUME t.val q.val) then (s.queueFetch t.val q.val).set (F.TP_Q_CTRL_RESUME t.val q.val) 1
      else s.queueFetch t.val q.val) := rfl

theorem exec_queueFetchFail (s : State) (t : Tenant) (q : Queue) : exec (.queueFetchFail t q) s = .next (s.fetchFail t.val q.val) := rfl

section
variable {s : State} {t : Tenant} {q : Queue} {v : Word}

/-! ### Doorbells (R155, R167) -/

section
variable (h : s.pageOpen t.val = true)
include h

theorem exec_doorbell : exec (.doorbell t q v) s = .next ((s.wake 1).ringBell t.val q.val v.toNat).2 := congrArg _ (if_pos h)

theorem exec_cqDoorbell : exec (.cqDoorbell t v) s = .next ((s.wake 1).cqBell t.val v.toNat) := congrArg _ (if_pos h)

end

theorem State.cqBell_of_inside {w : State} {t v d : Nat} (hd : d = (v + 2 ^ 32 - w.get (F.TP_CQ_HEAD t)) % 2 ^ 32)
    (hle : d ≤ (w.get (F.TP_CQ_TAIL t) + 2 ^ 32 - w.get (F.TP_CQ_HEAD t)) % 2 ^ 32) : w.cqBell t v =
    if d = 0 then w.set (F.TP_CQ_HEAD t) v
    else (w.set (F.TP_CQ_HEAD t) v).setTenant { w.tenantSt t with cqFull := false } := by
  rw [State.cqBell]
  dsimp only
  rw [← hd, if_pos hle, State.set_tenantSt]

theorem State.cqBell_of_outside {w : State} {t v d : Nat} (hd : d = (v + 2 ^ 32 - w.get (F.TP_CQ_HEAD t)) % 2 ^ 32)
    (hlt : (w.get (F.TP_CQ_TAIL t) + 2 ^ 32 - w.get (F.TP_CQ_HEAD t)) % 2 ^ 32 < d) :
    w.cqBell t v = (w.stick (F.TP_CQOVR_CQOVR t)).msix t 1 := by
  rw [State.cqBell]
  dsimp only
  rw [← hd, if_neg (Nat.not_le.mpr hlt)]

/-- A doorbell of the completion queue takes HEAD and changes no other register. -/
theorem State.cqBell_parts {w : State} {t v d : Nat} (hv : v < 2 ^ 32) (hd : d = (v + 2 ^ 32 - w.get (F.TP_CQ_HEAD t)) % 2 ^ 32)
    (hle : d ≤ (w.get (F.TP_CQ_TAIL t) + 2 ^ 32 - w.get (F.TP_CQ_HEAD t)) % 2 ^ 32) : (w.cqBell t v).get (F.TP_CQ_HEAD t) = v ∧
    (∀ b, b ≠ (F.TP_CQ_HEAD t).addr → (w.cqBell t v).rd b = w.rd b) ∧
    w.cqBell t v = { w with regs := (w.cqBell t v).regs, tenants := (w.cqBell t v).tenants } := by
  have hget : (w.set (F.TP_CQ_HEAD t) v).get (F.TP_CQ_HEAD t) = v := by
    rw [State.get_set_same _ (F.TP_CQ_HEAD t) _ (Nat.le_refl 32)]
    exact Nat.mod_eq_of_lt hv
  have hrd (b : Nat) (hb : b ≠ (F.TP_CQ_HEAD t).addr) : (w.set (F.TP_CQ_HEAD t) v).rd b = w.rd b := w.rd_set_other _ _ _ hb
  have hregs := w.set_regsOnly (F.TP_CQ_HEAD t) v
  rw [State.cqBell_of_inside hd hle]
  split
  · refine ⟨hget, hrd, ?_⟩
    rw [hregs]
  · have hr : ((w.set (F.TP_CQ_HEAD t) v).setTenant { w.tenantSt t with cqFull := false }).regs = (w.set (F.TP_CQ_HEAD t) v).regs := rfl
    refine ⟨(State.get_of_regs hr _).trans hget, fun b hb => Eq.trans ?_ (hrd b hb), hregs.setTenant _⟩
    unfold State.rd
    rw [hr]

end

/-- Settles O18. -/
theorem doorbellsAndFetchesStayInsideTheirRings : Obligations.DoorbellsAndFetchesStayInsideTheirRings := by
  unfold Obligations.DoorbellsAndFetchesStayInsideTheirRings
  refine ⟨fun s w t q v d hopen hw => ⟨fun hentry hstate => ?_, fun hd => ⟨fun hen hle => ?_, fun hno => ?_⟩, fun hd => ⟨fun hle => ?_, fun hlt => ?_⟩⟩,
    fun s t q v m => ⟨fun hshut => ⟨?_, ?_⟩, fun hopen => congrArg _ (if_pos hopen), fun hshut => congrArg _ (if_neg (by simp [hshut]))⟩,
    fun s t q same h r hh hr => ⟨fun hmay => ⟨fun u hu => ⟨fun hsame => ?_, fun hsame hres => ?_⟩, fun htail => ?_, fun v w f b hread hslots htrust hlen hroom hone => ?_⟩,
      fun hmay htail => ⟨fun hsp => ?_, fun u hsp hread => ?_, fun f u hsp hread => ?_⟩, fun hmay => ?_, fun hno => ?_⟩⟩
  · rw [hw, State.wake_of_unnamed hentry (by rw [hstate]; exact s.wakes_zero 1)]
  · rw [exec_doorbell hopen, ← hw, State.ringBell]
    rw [if_pos]
    simpa [hen, hd] using hle
  · rw [exec_doorbell hopen, ← hw, State.ringBell]
    rw [if_neg]
    obtain hen | hlt := hno
    · simp [hen]
    · simpa [hd] using fun _ => hlt
  · obtain ⟨hget, hrd, hframe⟩ := State.cqBell_parts v.isLt hd hle
    exact ⟨w.cqBell t.val v.toNat, hw ▸ exec_cqDoorbell hopen, hget, hrd, hframe⟩
  · rw [exec_cqDoorbell hopen, ← hw, State.cqBell_of_outside hd hlt]
  · exact congrArg _ (if_neg (by simp [hshut]))
  · exact congrArg _ (if_neg (by simp [hshut]))
  · rw [exec_queueFetch, if_neg (by obtain h | h := hsame <;> simp [h]), State.queueFetch_of_may hmay, hu, hr]
  · rw [exec_queueFetch, if_pos (by simp [hsame, hres, State.pageOpen_of_mayFetch hmay]), State.queueFetch_of_may hmay, hu, hr]
  · have hhead : r.get (F.TP_Q_HEAD t.val q.val) = h := by
      rw [hh, hr]
      exact State.get_resumeCleared _ (head_addr_ne_resume _ _)
    rw [exec_queueFetch, Bool.false_and, Bool.false_and, if_neg Bool.false_ne_true, State.queueFetch_of_may hmay, ← hr, htail,
      State.fetchPackets_of_empty (by rw [hhead]; omega)]
  · have hhead : r.get (F.TP_Q_HEAD t.val q.val) = h := by
      rw [hh, hr]
      exact State.get_resumeCleared _ (head_addr_ne_resume _ _)
    have hv : r.AreaUsed v := by
      have hused := r.readSlot_areaUsed t.val q.val h
      rwa [hread] at hused
    have hvw : v.AreaUsed w := by
      have hused := v.readSlots_areaUsed t.val q.val h 1
      rwa [hslots] at hused
    have hseq : v.get (F.TP_Q_SEQ_NEXT t.val q.val) = s.get (F.TP_Q_SEQ_NEXT t.val q.val) := by
      rw [hv.get _ (noteWord_of_page (by simp only [F.TP_Q_SEQ_NEXT]; omega)), hr]
      exact State.get_resumeCleared _ (by simp only [F.TP_Q_SEQ_NEXT, F.TP_Q_CTRL_RESUME]; omega)
    have hst : v.queueSt t.val q.val = s.queueSt t.val q.val := by rw [hv.queueSt_eq, hr, State.set_queueSt]
    have hcmds : w.cmds = s.cmds := by rw [hvw.cmds_eq, hv.cmds_eq, hr, State.set_cmds]
    have hhlt : h < 2 ^ 32 := hh ▸ s.get_lt (F.TP_Q_HEAD t.val q.val)
    have hfetch := State.fetchPackets_of_single (s := r) (t := t.val) (q := q.val) (tail := s.get (F.TP_Q_TAIL t.val q.val)) (room := 1024) (n := 15)
      (v := v) (w := w) (f := f) (b := b) (by rw [hhead, ← hone]; omega) (hhead.symm ▸ hread) (hhead.symm ▸ hslots) (by rw [hseq, hst]; exact htrust) hlen
      (by rw [hst]; exact hroom) (by omega)
    rw [hhead, hst, hone] at hfetch
    have hdone : ((w.setQueue { s.queueSt t.val q.val with shadow := (s.queueSt t.val q.val).shadow ++ [b] }).set (F.TP_Q_HEAD t.val q.val)
        (s.get (F.TP_Q_TAIL t.val q.val))).get (F.TP_Q_HEAD t.val q.val) = s.get (F.TP_Q_TAIL t.val q.val) := by
      rw [State.get_set_same _ (F.TP_Q_HEAD t.val q.val) _ (Nat.le_refl 32)]
      exact Nat.mod_eq_of_lt (s.get_lt (F.TP_Q_TAIL t.val q.val))
    refine ⟨(w.setQueue { s.queueSt t.val q.val with shadow := (s.queueSt t.val q.val).shadow ++ [b] }).set (F.TP_Q_HEAD t.val q.val)
      (s.get (F.TP_Q_TAIL t.val q.val)), ?_, ?_, hdone, State.set_mem _ _ _, (State.set_cmds _ _ _).trans hcmds⟩
    · rw [exec_queueFetch, Bool.false_and, Bool.false_and, if_neg Bool.false_ne_true, State.queueFetch_of_may hmay, ← hr, hfetch,
        State.fetchPackets_of_empty (by rw [hdone]; omega)]
    · rw [State.set_queueSt, State.queueSt_setQueue_same]
      · exact s.queueSt_tenant _ _
      · exact s.queueSt_queue _ _
  · obtain ⟨hhalt, hcause⟩ := s.haltQueue_status t.val q.val 2 q.isLt (by decide)
    obtain ⟨hqueues, -⟩ := s.haltQueue_frame t.val q.val 2
    refine ⟨s.haltQueue t.val q.val 2, ?_, hhalt, hcause, ?_, hqueues, (s.haltQueue_noted t.val q.val 2).2⟩
    · rw [exec_queueFetchFail, State.fetchFail, if_pos (by simp [hmay, ← hh, htail]), if_pos hsp]
    · rw [hh]
      refine s.get_haltQueue t.val q.val 2 ?_ ?_ ?_
      all_goals
        simp only [F.TP_Q_HEAD, F.TP_Q_STATUS_HALT, F.TP_HALT_HALT]
        omega
  · rw [exec_queueFetchFail, State.fetchFail, if_pos (by simp [hmay, ← hh, htail]), if_neg hsp, ← hh, hread]
  · rw [exec_queueFetchFail, State.fetchFail, if_pos (by simp [hmay, ← hh, htail]), if_neg hsp, ← hh, hread]
  · rw [exec_queueFetch, Bool.false_and, Bool.false_and, if_neg Bool.false_ne_true, State.queueFetch, if_neg (by simp [hmay])]
  · rw [exec_queueFetchFail, State.fetchFail, if_neg]
    obtain hmay | htail := hno
    · simp [hmay]
    · simp [htail, hh]

end Sys2Proof.Machine
end


section

/-! Packets are decoded in the order of their sequence numbers. -/

namespace Sys2Proof.Machine

/-- Tenant `t`'s queue `q` may decode the packet at the front of its shadow. -/
def State.DecodeOpen (s : State) (t q : Nat) : Prop :=
  (s.boot.phase = .run ∨ s.boot.phase = .recovery) ∧ s.get F.PWR_STATUS_STATE = 0 ∧ s.ctxBusy t = false ∧ s.on (F.TP_CQ_CTRL_EN t) = true ∧
    s.on (F.TP_CQ_STATUS_HALT t) = false ∧ s.decodeHeld t q = false

/-- The state once packet `p` has left the shadow, of which `rest` stays. -/
def State.unshadowed (s : State) (t q : Nat) (p : Packet) (rest : List Packet) : State :=
  ((s.setQueue { s.queueSt t q with shadow := rest }).set (F.TP_Q_SEQ_NEXT t q) ((pSeq p + 1) % 2 ^ 32)).setTenant { s.tenantSt t with cqFull := false }

/-- A queue that may decode takes packet `p`, of which `rest` is what follows in the shadow. -/
def State.decodeNext (s : State) (t q : Nat) (p : Packet) (rest : List Packet) (fails : Bool) : State :=
  if s.cqFree t = 0 then
    if (s.tenantSt t).cqFull then s
    else ((s.setTenant { s.tenantSt t with cqFull := true }).stick (F.TP_CQFULL_CQFULL t)).msix t 1
  else if pSeq p ≠ s.get (F.TP_Q_SEQ_NEXT t q) then
    ((s.setQueue { s.queueSt t q with shadow := [] }).set (F.TP_Q_HEAD t q)
      ((s.get (F.TP_Q_HEAD t q) + 2 ^ 32 - (s.queueSt t q).slots) % 2 ^ 32)).haltQueue t q 1
  else if s.marksOk t q p fails = false then s
  else if (s.unshadowed t q p rest).on (F.TP_FMT_SET t) = false ∧ pOp p ≠ 2 then (s.unshadowed t q p rest).issueBad t q p (2 ^ 31)
  else
    match (s.unshadowed t q p rest).headerCheck t q p with
    | some b => (s.unshadowed t q p rest).issueBad t q p (2 ^ 31 + b)
    | none => (s.unshadowed t q p rest).issue t q p fails

section
variable {s : State} {t q : Nat} {p : Packet} {rest : List Packet} {fails : Bool}

theorem State.packetDecode_of_empty (h : (s.queueSt t q).shadow = []) : s.packetDecode t q fails = s := by
  rw [State.packetDecode]
  dsimp only
  rw [h]

theorem State.packetDecode_of_shadow (h : (s.queueSt t q).shadow = p :: rest) [Decidable (s.DecodeOpen t q)] :
    s.packetDecode t q fails = if s.DecodeOpen t q then s.decodeNext t q p rest fails else s := by
  rw [State.packetDecode]
  dsimp only
  rw [h]
  dsimp only
  split
  · next hshut =>
    rw [if_neg]
    rintro ⟨hphase, hstate, hbusy, hcq, hhalt, hheld⟩
    obtain hp | hp := hphase <;> simp [hp, hstate, hbusy, hcq, hhalt, hheld] at hshut
  · next hopen =>
    have hok : s.DecodeOpen t q := by
      simp only [Bool.or_eq_true, not_or, Bool.and_eq_true, bne_iff_ne, Classical.not_and_iff_not_or_not, Classical.not_not, Bool.not_eq_true', Bool.not_eq_false, Bool.not_eq_true] at hopen
      obtain ⟨⟨⟨⟨⟨hphase, hstate⟩, hbusy⟩, hcq⟩, hhalt⟩, hheld⟩ := hopen
      exact ⟨hphase, hstate, hbusy, hcq, hhalt, hheld⟩
    rw [if_pos hok, State.decodeNext]
    have hten : ((s.setQueue { s.queueSt t q with shadow := rest }).set (F.TP_Q_SEQ_NEXT t q) ((pSeq p + 1) % 2 ^ 32)).tenantSt t = s.tenantSt t :=
      State.set_tenantSt _ _ _ _
    rw [hten, ← State.unshadowed]
    refine ite_of_iff Iff.rfl rfl (ite_of_iff (by simp) rfl (ite_of_iff (by simp) rfl (ite_of_iff (by simp) rfl ?_)))
    cases (s.unshadowed t q p rest).headerCheck t q p <;> rfl

theorem State.decodeNext_of_full (h : s.cqFree t = 0) : s.decodeNext t q p rest fails =
    if (s.tenantSt t).cqFull then s else ((s.setTenant { s.tenantSt t with cqFull := true }).stick (F.TP_CQFULL_CQFULL t)).msix t 1 := if_pos h

section
variable (hfree : s.cqFree t ≠ 0)
include hfree

theorem State.decodeNext_of_otherSeq (h : pSeq p ≠ s.get (F.TP_Q_SEQ_NEXT t q)) : s.decodeNext t q p rest fails =
    ((s.setQueue { s.queueSt t q with shadow := [] }).set (F.TP_Q_HEAD t q)
      ((s.get (F.TP_Q_HEAD t q) + 2 ^ 32 - (s.queueSt t q).slots) % 2 ^ 32)).haltQueue t q 1 := by
  rw [State.decodeNext, if_neg hfree, if_pos h]

variable (hseq : pSeq p = s.get (F.TP_Q_SEQ_NEXT t q))
include hseq

theorem State.decodeNext_of_marked (h : s.marksOk t q p fails = false) : s.decodeNext t q p rest fails = s := by
  rw [State.decodeNext, if_neg hfree, if_neg (Classical.not_not.mpr hseq), if_pos h]

variable (hok : s.marksOk t q p fails = true)
include hok

theorem State.decodeNext_of_unformatted (h : (s.unshadowed t q p rest).on (F.TP_FMT_SET t) = false) (hop : pOp p ≠ 2) :
    s.decodeNext t q p rest fails = (s.unshadowed t q p rest).issueBad t q p (2 ^ 31) := by
  rw [State.decodeNext, if_neg hfree, if_neg (Classical.not_not.mpr hseq), if_neg (by simp [hok]), if_pos ⟨h, hop⟩]

variable (hfmt : (s.unshadowed t q p rest).on (F.TP_FMT_SET t) = true ∨ pOp p = 2)
include hfmt

theorem State.decodeNext_of_badHeader {b : Nat} (h : (s.unshadowed t q p rest).headerCheck t q p = some b) :
    s.decodeNext t q p rest fails = (s.unshadowed t q p rest).issueBad t q p (2 ^ 31 + b) := by
  rw [State.decodeNext, if_neg hfree, if_neg (Classical.not_not.mpr hseq), if_neg (by simp [hok]), if_neg, h]
  rintro ⟨hfmt', hop⟩
  obtain h | h := hfmt
  · exact Bool.false_ne_true (hfmt'.symm.trans h)
  · exact hop h

theorem State.decodeNext_of_header (h : (s.unshadowed t q p rest).headerCheck t q p = none) :
    s.decodeNext t q p rest fails = (s.unshadowed t q p rest).issue t q p fails := by
  rw [State.decodeNext, if_neg hfree, if_neg (Classical.not_not.mpr hseq), if_neg (by simp [hok]), if_neg, h]
  rintro ⟨hfmt', hop⟩
  obtain h | h := hfmt
  · exact Bool.false_ne_true (hfmt'.symm.trans h)
  · exact hop h

end

/-! ### A packet issued -/

theorem State.nextId_setTenant (s : State) (x : TenantSt) : (s.setTenant x).nextId = s.nextId := rfl

theorem State.nextId_setQueue (s : State) (x : QueueSt) : (s.setQueue x).nextId = s.nextId := rfl

theorem State.nextId_unshadowed (s : State) (t q : Nat) (p : Packet) (rest : List Packet) : (s.unshadowed t q p rest).nextId = s.nextId := by
  rw [State.unshadowed, State.nextId_setTenant, State.set_nextId, State.nextId_setQueue]

theorem State.issue_of_dead {d a : State} (ha : a = d.addCmd (d.freshCmd t q p none)) (hdead : a.seqDead t q = true) (hlock : 2 ≤ flLOCK (pFlags p)) :
    d.issue t q p fails = a.joinStart d.nextId fails := by
  rw [State.issue, ← ha]
  exact if_pos (by simp [hdead, hlock])

theorem State.issue_of_alive {d a : State} (ha : a = d.addCmd (d.freshCmd t q p none)) (halive : a.seqDead t q = false ∨ flLOCK (pFlags p) < 2) :
    d.issue t q p fails = match a.bodyCheck t (pOp p) p with
      | some r => a.reject d.nextId r
      | none => if isFirmware (pOp p) then a.toCf d.nextId else a.decodeFast d.nextId (pOp p) fails := by
  have hno : ¬ (a.seqDead t q && decide (2 ≤ flLOCK (pFlags p))) = true := by
    obtain h | h := halive <;> simp [h]
  unfold State.issue
  rw [← ha]
  refine (if_neg hno).trans ?_
  cases a.bodyCheck t (pOp p) p <;> rfl

end

/-- Settles O19. -/
theorem decodeFollowsTheSequence : Obligations.DecodeFollowsTheSequence := by
  classical
  unfold Obligations.DecodeFollowsTheSequence
  intro s t q fails
  have hexec : exec (.packetDecode t q fails) s = .next (s.packetDecode t.val q.val fails) := rfl
  rw [hexec]
  refine ⟨fun hno => ?_, fun p rest hshadow hphase hstate hbusy hcq hhalt hheld => ?_⟩
  · cases hshadow : (s.queueSt t.val q.val).shadow with
    | nil => rw [State.packetDecode_of_empty hshadow]
    | cons p rest =>
      rw [State.packetDecode_of_shadow hshadow, if_neg]
      rintro ⟨hphase, hstate, hbusy, hcq, hhalt, hheld⟩
      simp [hshadow, hstate, hbusy, hcq, hhalt, hheld] at hno
      obtain h | h := hphase <;> simp [h] at hno
  rw [State.packetDecode_of_shadow hshadow, if_pos ⟨hphase, hstate, hbusy, hcq, hhalt, hheld⟩]
  refine ⟨fun hfree hfull => ?_, fun hfree hfull => ?_, fun hfree hseq => ?_, fun hfree hseq hmarks => ?_, fun hfree hseq hmarks d a hd ha => ?_⟩
  · rw [State.decodeNext_of_full hfree, if_pos hfull]
  · rw [State.decodeNext_of_full hfree, if_neg (by simp [hfull])]
  · rw [State.decodeNext_of_otherSeq hfree hseq]
    generalize hhead : (s.get (F.TP_Q_HEAD t.val q.val) + 2 ^ 32 - (s.queueSt t.val q.val).slots) % 2 ^ 32 = head
    generalize hu : (s.setQueue { s.queueSt t.val q.val with shadow := [] }).set (F.TP_Q_HEAD t.val q.val) head = u
    obtain ⟨hon, hcause⟩ := u.haltQueue_status t.val q.val 1 q.isLt (by decide)
    obtain ⟨hqueues, hcmds⟩ := u.haltQueue_frame t.val q.val 1
    refine ⟨u.haltQueue t.val q.val 1, rfl, hon, hcause, ?_, ?_, ?_⟩
    · rw [State.queueSt, hqueues, ← State.queueSt, ← hu, State.set_queueSt, State.queueSt_setQueue_same]
      · exact s.queueSt_tenant _ _
      · exact s.queueSt_queue _ _
    · rw [u.get_haltQueue t.val q.val 1, ← hu, State.get_set_same _ (F.TP_Q_HEAD t.val q.val) _ (Nat.le_refl 32)]
      · exact Nat.mod_eq_of_lt (by rw [← hhead]; exact Nat.mod_lt _ (by decide))
      all_goals
        simp only [F.TP_Q_HEAD, F.TP_Q_STATUS_HALT, F.TP_HALT_HALT]
        omega
    · rw [hcmds, ← hu, State.set_cmds]
      rfl
  · rw [State.decodeNext_of_marked hfree hseq hmarks]
  rw [← State.unshadowed] at hd
  have hid : d.nextId = s.nextId := by rw [hd, State.nextId_unshadowed]
  refine ⟨fun hfmt hop => ?_, fun hfmt b hb => ?_, fun hfmt hheader => ?_⟩
  · rw [State.decodeNext_of_unformatted hfree hseq hmarks (hd ▸ hfmt) hop, ← hd, State.issueBad, ← ha, hid]
  · rw [State.decodeNext_of_badHeader hfree hseq hmarks (hd ▸ hfmt) (hd ▸ hb), ← hd, State.issueBad, ← ha, hid]
  rw [State.decodeNext_of_header hfree hseq hmarks (hd ▸ hfmt) (hd ▸ hheader), ← hd, ← hid]
  refine ⟨fun hdead hlock => ?_, fun halive => ⟨fun r hr => ?_, fun hbody hfw => ?_, fun hbody hfw => ?_⟩⟩
  · rw [State.issue_of_dead ha hdead hlock]
  · rw [State.issue_of_alive ha halive, hr]
  · rw [State.issue_of_alive ha halive, hbody]
    exact congrArg _ (if_pos hfw)
  · rw [State.issue_of_alive ha halive, hbody]
    exact congrArg _ (if_neg (by simp [hfw]))

end Sys2Proof.Machine
end


section

/-! Safe-state restarts. -/

namespace Sys2Proof.Machine

/-- `u` is `s` with commands added. -/
structure State.NodesAdded (s u : State) : Prop where
  frame : u = { s with cmds := u.cmds, nextId := u.nextId }
  cmds : s.cmds ⊆ u.cmds

theorem State.NodesAdded.refl (s : State) : s.NodesAdded s := ⟨rfl, fun _ h => h⟩

theorem State.NodesAdded.trans {s u w : State} (h : s.NodesAdded u) (h' : u.NodesAdded w) : s.NodesAdded w := by
  obtain ⟨hframe, hcmds⟩ := h
  obtain ⟨hframe', hcmds'⟩ := h'
  refine ⟨?_, fun _ hc => hcmds' (hcmds hc)⟩
  rw [hframe', hframe]

theorem State.nodesAdded_append (s : State) (n : Nat) (l : List Cmd) : s.NodesAdded { s with nextId := n, cmds := s.cmds ++ l } :=
  ⟨rfl, List.subset_append_left _ _⟩

section
variable (s : State)

/-! ### What triggers a restart (R501, R515) -/

theorem exec_fwRestart (v : Word) : exec (.fwRestart v) s = .next (s.fwRestart v.toNat) := rfl

theorem State.triggerFault_noted (code cause core : Nat) (detail : List Byte) : s.Noted (s.triggerFault code cause core detail) := by
  unfold State.triggerFault
  split
  · exact .refl s
  · exact s.fault_noted _ _ _ _ _ _ _ _ _

/-! ### What a restart stops (R503, R509) -/

/-- Graphs stop: the nodes of their launches that wait become commands, and every command stays. -/
theorem State.stopGraphs_parts : s.stopGraphs = { s with cmds := s.stopGraphs.cmds, nextId := s.stopGraphs.nextId, graphs := [], sync := { s.sync with flags := [] } } ∧
    s.cmds ⊆ s.stopGraphs.cmds := by
  unfold State.stopGraphs
  extract_lets u
  have hu : s.NodesAdded u := by
    refine foldl_keeps (P := fun w => s.NodesAdded w) (fun w g _ h => h.trans ?_) (.refl s)
    split
    · split
      · refine foldl_keeps (P := fun x => w.NodesAdded x) (fun x i _ hx => hx.trans ?_) (.refl w)
        split
        · split
          · exact x.nodesAdded_append _ _
          · exact .refl x
        · exact .refl x
      · exact .refl w
    · exact .refl w
  clear_value u
  exact ⟨congrArg (fun w : State => { w with graphs := [], sync := { w.sync with flags := [] } }) hu.frame, hu.cmds⟩

theorem State.stopCommands_cmds : ∀ x ∈ s.stopCommands.cmds, x.phase = .ended ∧ x.status = stABORT_RESET := by
  intro x hx
  obtain ⟨c, -, rfl⟩ := List.mem_map.mp hx
  exact ⟨rfl, rfl⟩

theorem State.stopCommands_ids {c : Cmd} (h : c ∈ s.cmds) : ∃ y ∈ s.stopCommands.cmds, y.id = c.id :=
  ⟨_, List.mem_map_of_mem h, rfl⟩

/-! ### What a core's exception records (R517) -/

theorem State.excRecord_regsOnly (c cause pc sp : Nat) : s.RegsOnly (s.excRecord c cause pc sp) := by
  unfold State.excRecord State.set64
  refine State.RegsOnly.trans ?_ (State.stick_regsOnly _ _)
  refine State.RegsOnly.trans (State.RegsOnly.trans ?_ (State.wr_regsOnly _ _ _)) (State.wr_regsOnly _ _ _)
  refine State.RegsOnly.trans ?_ (State.set_regsOnly _ _ _)
  exact ((s.set_regsOnly _ _).trans (State.wr_regsOnly _ _ _)).trans (State.wr_regsOnly _ _ _)

theorem State.excRecord_parts {c cause pc sp : Nat} (hc : c < 4) (hcause : cause < 256) (hpc : pc < 2 ^ 64) (hsp : sp < 2 ^ 32) :
    (s.excRecord c cause pc sp).get (F.FW_EXC_CAUSE c) = cause ∧ (s.excRecord c cause pc sp).get64 (F.FW_EXC_PC_LO c) = pc ∧
    (s.excRecord c cause pc sp).get (F.FW_EXC_SP c) = sp := by
  unfold State.excRecord State.set64
  refine ⟨?_, ?_, ?_⟩
  · rw [State.get_stick_other, State.get_wr_other, State.get_wr_other, State.get_set_apart (f := F.FW_EXC_SP c) (Nat.le_refl 32), State.get_wr_other,
      State.get_wr_other, State.get_set_same _ (F.FW_EXC_CAUSE c) _ (Nat.le_of_ble_eq_true rfl)]
    · exact Nat.mod_eq_of_lt hcause
    · simp only [F.FW_EXC_CAUSE, F.FW_EXC_PC_LO]
      omega
    · simp only [F.FW_EXC_CAUSE, F.FW_EXC_PC_LO]
      omega
    · left
      simp only [F.FW_EXC_CAUSE, F.FW_EXC_SP]
      omega
    all_goals
      simp only [F.FW_EXC_CAUSE, F.FW_EXC_TIME_LO, F.FW_CFAULT_CFAULT]
      omega
  · rw [State.get64, State.rd_stick_other, State.rd_wr_other, State.rd_wr_other, State.rd_set_other, State.rd_wr_other, State.rd_wr_same,
      State.rd_stick_other, State.rd_wr_other, State.rd_wr_other, State.rd_set_other, State.rd_wr_same]
    · omega
    all_goals
      simp only [F.FW_EXC_PC_LO, F.FW_EXC_SP, F.FW_EXC_TIME_LO, F.FW_CFAULT_CFAULT]
      omega
  · rw [State.get_stick_other, State.get_wr_other, State.get_wr_other, State.get_set_same _ (F.FW_EXC_SP c) _ (Nat.le_refl 32)]
    · exact Nat.mod_eq_of_lt hsp
    all_goals
      simp only [F.FW_EXC_SP, F.FW_EXC_TIME_LO, F.FW_CFAULT_CFAULT]
      omega

/-! ### Stacks' canaries (R519) -/

theorem State.stacks_parts : s.stacks = { s with regs := s.stacks.regs, fresh := s.stacks.fresh } ∧
    ∀ b, (b < 0x40100 ∨ 0x40120 ≤ b) → s.stacks.rd b = s.rd b := by
  unfold State.stacks
  refine foldl_keeps (P := fun (u : State) => u = { s with regs := u.regs, fresh := u.fresh } ∧ ∀ b, (b < 0x40100 ∨ 0x40120 ≤ b) → u.rd b = s.rd b)
    (fun u c hc h => ?_) ⟨rfl, fun _ _ => rfl⟩
  obtain ⟨hframe, hrd⟩ := h
  have hc4 := List.mem_range.mp hc
  extract_lets v
  clear_value v
  refine ⟨?_, fun b hb => ?_⟩
  · have hregs : u.RegsOnly ((u.set (F.FW_STK_BASE c) (v % 2 ^ 32)).set (F.FW_STK_LIMIT c) (v / 2 ^ 32)) :=
      (u.set_regsOnly _ _).trans (State.set_regsOnly _ _ _)
    generalize (u.set (F.FW_STK_BASE c) (v % 2 ^ 32)).set (F.FW_STK_LIMIT c) (v / 2 ^ 32) = w at hregs ⊢
    unfold State.RegsOnly at hregs
    rw [hregs, hframe, State.draw]
  · rw [State.rd_draw, State.rd_set_other, State.rd_set_other]
    · exact hrd b hb
    · simp only [F.FW_STK_BASE]
      omega
    · simp only [F.FW_STK_LIMIT]
      omega

end

/-- The registers of a restart that begins. -/
def State.restartRegs (s : State) (code : Nat) : State := ((s.set F.FW_STATUS_LAST_CAUSE code).set F.FW_STATUS_CMD_READY 0).bump F.FW_RESTARTS 1

/-- The boot and power parts of a restart that begins. -/
def State.restartPhase (s : State) (near : List Nat) : State :=
  { s with
    boot := { s.boot with phase := .restart, restarts := near ++ [s.cad.time], began := s.cad.time, verified := false }
    pwr := { s.pwr with entry := none } }

theorem State.restartPhase_regs (s : State) (near : List Nat) : (s.restartPhase near).regs = s.regs := rfl

/-- A restart of a device that runs, once its fault is noted. -/
def State.restartBegun (s : State) (code cause core pc sp : Nat) (near : List Nat) : State :=
  ((((s.restartRegs code).lastWords cause core pc sp).restartPhase near).trace 0x07 0x40 0 0 (leBytes 1 4)).closeSession

/-- The restarts that count for the limit. -/
def State.nearRestarts (s : State) : List Nat :=
  s.boot.restarts.filter fun t => decide (s.cad.time < t + 1000000000 * s.get F.FW_RLIM_WINDOW_S)

section
variable {s : State} {a b d e f : Nat} {l : List Byte}

theorem State.restart_of_restart (h : s.boot.phase = .restart) : s.restart a b d e f l = s.triggerFault a b d l := by
  rw [State.restart, if_pos (by simp [h]), if_pos (by simp [h])]

theorem State.restart_of_other (h : s.boot.phase ≠ .run) (h' : s.boot.phase ≠ .restart) : s.restart a b d e f l = s := by
  rw [State.restart, if_pos (by simp [h]), if_neg (by simp [h'])]

theorem State.restart_of_run (h : s.boot.phase = .run) : s.restart a b d e f l =
    if s.get F.FW_RLIM_COUNT ≤ s.nearRestarts.length then (s.triggerFault a b d l).stormReboot
    else ((((s.triggerFault a b d l).restartBegun a b d e f s.nearRestarts).stopGraphs.stopCommands).stopSync).lpeUpdate := by
  have hnoted := s.triggerFault_noted a b d l
  have hnear : (s.triggerFault a b d l).nearRestarts = s.nearRestarts := by
    unfold State.nearRestarts
    rw [hnoted.boot_eq, hnoted.cad_eq, hnoted.get F.FW_RLIM_WINDOW_S rfl]
  rw [← hnear, ← hnoted.get F.FW_RLIM_COUNT rfl, State.restart, if_neg (by simp [h]), State.restartBegun, State.restartPhase, State.restartRegs, State.nearRestarts]

end

/-! ### The state of a restart (R501 to R503) -/

theorem State.closeSession_parts (s : State) : s.closeSession = { s with regs := s.closeSession.regs, boot := { s.boot with session := none } } ∧
    ∀ b, b ≠ F.FW_SESSION_OPEN.addr → b ≠ F.FW_SESSION_BYTES.addr → s.closeSession.rd b = s.rd b := by
  have hregs : ({ s with boot := { s.boot with session := none } } : State).RegsOnly s.closeSession :=
    (((State.set_regsOnly _ _ _).trans (State.set_regsOnly _ _ _)).trans (State.set_regsOnly _ _ _)).trans (State.set_regsOnly _ _ _)
  refine ⟨hregs, fun b hb hb' => ?_⟩
  rw [State.closeSession, State.rd_set_other _ _ _ _ hb', State.rd_set_other _ F.FW_SESSION_KIND _ _ hb, State.rd_set_other _ F.FW_SESSION_SLOT _ _ hb,
    State.rd_set_other _ _ _ _ hb]
  rfl

theorem State.restartRegs_parts (s : State) {code : Nat} (h : code < 16) : s.RegsOnly (s.restartRegs code) ∧
    (s.restartRegs code).get F.FW_STATUS_CMD_READY = 0 ∧ (s.restartRegs code).get F.FW_STATUS_LAST_CAUSE = code := by
  unfold State.restartRegs
  refine ⟨((s.set_regsOnly _ _).trans (State.set_regsOnly _ _ _)).trans (State.set_regsOnly _ _ _), ?_, ?_⟩
  · rw [State.get_bump_other _ _ _ _ (by decide), State.get_set_same _ _ _ (by unfold Fld.inWord; decide), Nat.zero_mod]
  · rw [State.get_bump_other _ _ _ _ (by decide), State.get_set_apart (by decide) (by decide), State.get_set_same _ _ _ (by unfold Fld.inWord; decide)]
    exact Nat.mod_eq_of_lt h

theorem State.restartBegun_parts (s : State) {code : Nat} (h : code < 16) (cause core pc sp : Nat) (near : List Nat) {u : State}
    (hu : s.restartBegun code cause core pc sp near = u) :
    u.boot = { s.boot with phase := .restart, restarts := near ++ [s.cad.time], began := s.cad.time, verified := false, session := none } ∧
    u.pwr.entry = none ∧ u.cmds = s.cmds ∧ u.wins = s.wins ∧ u.get F.FW_STATUS_CMD_READY = 0 ∧ u.get F.FW_STATUS_LAST_CAUSE = code := by
  obtain ⟨hregs, hready, hcause⟩ := s.restartRegs_parts h
  have hwords := (s.restartRegs code).lastWords_noted cause core pc sp
  rw [State.restartBegun] at hu
  generalize s.restartRegs code = v at *
  generalize v.lastWords cause core pc sp = w at *
  have htrace := (w.restartPhase near).trace_noted 0x07 0x40 0 0 (leBytes 1 4)
  obtain ⟨hclose, hrd⟩ := ((w.restartPhase near).trace 0x07 0x40 0 0 (leBytes 1 4)).closeSession_parts
  have hphase : (w.restartPhase near).regs = w.regs := w.restartPhase_regs near
  generalize hx : w.restartPhase near = x at *
  generalize x.trace 0x07 0x40 0 0 (leBytes 1 4) = y at *
  have hget (f : Fld) (hf : noteWord f.addr = false) (hf' : f.addr ≠ F.FW_SESSION_OPEN.addr)
      (hf'' : f.addr ≠ F.FW_SESSION_BYTES.addr) : u.get f = v.get f := by
    rw [← hu, State.get, hrd _ hf' hf'', ← State.get, htrace.get f hf, State.get_of_regs hphase, hwords.get f hf]
  have hcad : w.cad = s.cad := by rw [hwords.cad_eq, hregs.cad]
  have hboot : w.boot = s.boot := by
    rw [hwords.boot_eq, hregs]
  refine ⟨?_, ?_, ?_, ?_, (hget _ rfl (by decide) (by decide)).trans hready, (hget _ rfl (by decide) (by decide)).trans hcause⟩
  · rw [← hu, hclose, htrace.boot_eq, ← hx, State.restartPhase, hcad, hboot]
  · rw [← hu, hclose, htrace.pwr_eq, ← hx, State.restartPhase]
  · rw [← hu, hclose, htrace.cmds_eq, ← hx, State.restartPhase, hwords.cmds_eq, hregs]
  · rw [← hu, hclose, htrace.frame, ← hx, State.restartPhase, hwords.frame, hregs]

/-- The calibration run ended. -/
def State.calStopped (s : State) : State :=
  (({ s with boot := { s.boot with calRun := none } } : State).set F.CAL_STATUS_BUSY 0).set F.CAL_STATUS_NOFIT 0

theorem State.calStopped_regsOnly (s : State) : ({ s with boot := { s.boot with calRun := none } } : State).RegsOnly s.calStopped :=
  (State.set_regsOnly _ _ _).trans (State.set_regsOnly _ _ _)

theorem State.rd_calStopped (s : State) {b : Nat} (hb : b ≠ F.CAL_STATUS_BUSY.addr) : s.calStopped.rd b = s.rd b := by
  rw [State.calStopped, State.rd_set_other _ F.CAL_STATUS_NOFIT _ _ hb, State.rd_set_other _ _ _ _ hb]
  rfl

theorem State.stopCommands_eq (s : State) : s.stopCommands = { s.calStopped with
    cmds := s.calStopped.cmds.map fun (c : Cmd) =>
      ({ c with phase := .ended, status := stABORT_RESET, result := 0, warn := putBit c.warn wBYTES_LB true } : Cmd)
    cf := [], planJobs := [] } := rfl

theorem State.stopCommands_parts (s : State) : s.stopCommands = { s with
      regs := s.stopCommands.regs, boot := { s.boot with calRun := none }, cmds := s.stopCommands.cmds, cf := [], planJobs := [] } ∧
    ∀ b, b ≠ F.CAL_STATUS_BUSY.addr → s.stopCommands.rd b = s.rd b := by
  have hregs := s.calStopped_regsOnly
  rw [State.stopCommands_eq]
  refine ⟨?_, fun b hb => Eq.trans rfl (s.rd_calStopped hb)⟩
  generalize s.calStopped = u at *
  unfold State.RegsOnly at hregs
  rw [hregs]

/-- What a restart stops, once it has begun. -/
def State.allStopped (s : State) : State := (s.stopGraphs.stopCommands).stopSync

theorem State.allStopped_parts (s : State) {u : State} (hu : s.allStopped = u) : u.boot = { s.boot with calRun := none } ∧ u.pwr = s.pwr ∧
    (∀ f : Fld, f.addr ≠ F.CAL_STATUS_BUSY.addr → u.get f = s.get f) ∧ (∀ x ∈ u.cmds, x.phase = .ended ∧ x.status = stABORT_RESET) ∧
    (∀ x ∈ s.cmds, ∃ y ∈ u.cmds, y.id = x.id) ∧ u.cf = [] ∧ u.planJobs = [] ∧ u.graphs = [] ∧ u.lockSeqs = [] ∧ u.wins = s.wins := by
  obtain ⟨hgraphs, hcmds⟩ := s.stopGraphs_parts
  have hended := s.stopGraphs.stopCommands_cmds
  have hids {c : Cmd} (hc : c ∈ s.cmds) := s.stopGraphs.stopCommands_ids (hcmds hc)
  obtain ⟨hstop, hrd⟩ := s.stopGraphs.stopCommands_parts
  unfold State.allStopped at hu
  generalize s.stopGraphs = g at *
  generalize g.stopCommands = w at *
  subst hu
  have hregs : w.stopSync.regs = w.regs := rfl
  refine ⟨?_, ?_, fun f hf => ?_, hended, fun x hx => hids hx, ?_, ?_, ?_, rfl, ?_⟩
  · show w.boot = _
    rw [hstop, hgraphs]
  · show w.pwr = _
    rw [hstop, hgraphs]
  · rw [State.get_of_regs hregs, State.get, hrd _ hf, ← State.get, hgraphs]
    rfl
  · show w.cf = _
    rw [hstop]
  · show w.planJobs = _
    rw [hstop]
  · show w.graphs = _
    rw [hstop, hgraphs]
  · show w.wins = _
    rw [hstop, hgraphs]

theorem State.restart_of_allowed {s : State} {a b d e f : Nat} {l : List Byte} (h : s.boot.phase = .run)
    (hfew : s.nearRestarts.length < s.get F.FW_RLIM_COUNT) (ha : a < 8) : ∃ u : State, s.restart a b d e f l = u.lpeUpdate ∧ u.boot.phase = .restart ∧
      u.get F.FW_STATUS_CMD_READY = 0 ∧ u.get F.FW_STATUS_LAST_CAUSE = a ∧ u.boot.restarts = s.nearRestarts ++ [s.cad.time] ∧ u.boot.verified = false ∧
      u.boot.session = none ∧ u.pwr.entry = none ∧ (∀ x ∈ u.cmds, x.phase = .ended ∧ x.status = stABORT_RESET) ∧
      (∀ x ∈ s.cmds, ∃ y ∈ u.cmds, y.id = x.id) ∧ u.cf = [] ∧ u.planJobs = [] ∧ u.graphs = [] ∧ u.lockSeqs = [] ∧ u.wins = s.wins := by
  have hnoted := s.triggerFault_noted a b d l
  have hwins : (s.triggerFault a b d l).wins = s.wins := by rw [hnoted.frame]
  rw [State.restart_of_run h, if_neg (Nat.not_le.mpr hfew), ← State.allStopped]
  generalize s.triggerFault a b d l = t at *
  generalize hnear : s.nearRestarts = near
  generalize hv : t.restartBegun a b d e f near = v
  obtain ⟨hboot, hentry, hcmds, hvwins, hready, hcause⟩ := t.restartBegun_parts (by omega) b d e f near hv
  generalize hu : v.allStopped = u
  obtain ⟨huboot, hupwr, hget, hended, hids, hcf, hjobs, hgraphs, hseqs, huwins⟩ := v.allStopped_parts hu
  rw [hboot] at huboot
  refine ⟨u, rfl, ?_, ?_, ?_, ?_, ?_, ?_, ?_, hended, fun x hx => hids x ?_, hcf, hjobs, hgraphs, hseqs, (huwins.trans hvwins).trans hwins⟩
  · rw [huboot]
  · exact (hget _ (by decide)).trans hready
  · exact (hget _ (by decide)).trans hcause
  · rw [huboot, hnoted.cad_eq]
  · rw [huboot]
  · rw [huboot]
  · rw [hupwr, hentry]
  · rw [hcmds, hnoted.cmds_eq]
    exact hx

/-! ### The phase through a boot (R487, R488) -/

/-- The boot's phase is the same. -/
def State.SamePhase (s u : State) : Prop := u.boot.phase = s.boot.phase

theorem State.SamePhase.refl (s : State) : s.SamePhase s := rfl

theorem State.SamePhase.trans {s u w : State} (h : s.SamePhase u) (h' : u.SamePhase w) : s.SamePhase w := Eq.trans h' h

theorem State.RegsOnly.samePhase {s u : State} (h : s.RegsOnly u) : s.SamePhase u := by
  unfold State.SamePhase
  rw [h]

theorem State.Noted.samePhase {s u : State} (h : s.Noted u) : s.SamePhase u := by
  unfold State.SamePhase
  rw [h.boot_eq]

section
variable (s : State)

theorem State.set_samePhase (f : Fld) (v : Nat) : s.SamePhase (s.set f v) := (s.set_regsOnly f v).samePhase

theorem State.stick_samePhase (f : Fld) : s.SamePhase (s.stick f) := (s.stick_regsOnly f).samePhase

theorem State.samePhase_calVal (l : List Nat) : s.SamePhase { s with boot := { s.boot with calVal := l } } := rfl

theorem State.samePhase_cad (c : Cad) : s.SamePhase { s with cad := c } := rfl

theorem State.samePhase_lpe (l : Loupe) : s.SamePhase { s with lpe := l } := rfl

theorem State.samePhase_images (l m : List Byte) : s.SamePhase { s with boot := { s.boot with cf := l, lf := m } } := rfl

theorem State.putRec_samePhase (r : BootRec) : s.SamePhase (s.putRec r) := by
  unfold State.SamePhase State.putRec
  dsimp only
  (repeat' split) <;> rfl

theorem State.slotTo_samePhase (x k : Nat) : s.SamePhase (s.slotTo x k) := s.putRec_samePhase _

theorem State.dropTrials_samePhase : s.SamePhase s.dropTrials := by
  unfold State.dropTrials
  refine foldl_keeps (P := fun u => s.SamePhase u) (fun u x _ h => h.trans ?_) (.refl s)
  split
  · exact (u.slotTo_samePhase _ _).trans (State.stick_samePhase _ _)
  · exact .refl u

theorem State.tryCandidate_samePhase (a : Option Nat × State) (x : Nat) : a.2.SamePhase (State.tryCandidate a x).2 := by
  obtain ⟨o, u⟩ := a
  cases o with
  | some y => exact .refl u
  | none =>
    unfold State.tryCandidate
    dsimp only
    split
    · split
      · exact u.slotTo_samePhase _ _
      · exact (u.slotTo_samePhase _ _).trans (State.slotTo_samePhase _ _ _)
    · exact .refl u

theorem State.tryGood_samePhase (excluded : Nat) (a : Option Nat × State) (x : Nat) : a.2.SamePhase (State.tryGood excluded a x).2 := by
  obtain ⟨o, u⟩ := a
  cases o with
  | some y => exact .refl u
  | none =>
    unfold State.tryGood
    dsimp only
    split
    · split
      · exact .refl u
      · exact u.slotTo_samePhase _ _
    · exact .refl u

theorem State.chooseCf_samePhase (excluded : Nat) : s.SamePhase (s.chooseCf excluded).2 := by
  unfold State.chooseCf
  refine s.dropTrials_samePhase.trans ?_
  generalize s.dropTrials = u
  dsimp only
  refine foldl_keeps (P := fun w : Option Nat × State => u.SamePhase w.2) (fun w x _ h => h.trans (State.tryGood_samePhase _ w x)) ?_
  exact foldl_keeps (P := fun w : Option Nat × State => u.SamePhase w.2) (fun w x _ h => h.trans (State.tryCandidate_samePhase w x)) (.refl u)

theorem State.calBoot_samePhase (cold : Bool) : s.SamePhase (s.calBoot cold) := by
  unfold State.calBoot
  extract_lets u
  have hu : s.SamePhase u := by
    unfold u
    split
    · exact .refl s
    · exact s.stick_samePhase _
  clear_value u
  refine hu.trans ?_
  split
  · exact ((u.set_samePhase _ _).trans (State.set_samePhase _ _ _)).trans (State.set_samePhase _ _ _)
  next r _ =>
    extract_lets ok v vals bt w cd x
    have hv : u.SamePhase v := u.set_samePhase _ _
    split
    · have hw : v.SamePhase w := v.samePhase_calVal _
      have hx : w.SamePhase x := by
        unfold x
        split
        · exact (w.samePhase_cad _).trans (State.set_samePhase _ _ _)
        · exact .refl w
      exact ((hv.trans hw).trans hx).trans ((x.set_samePhase _ _).trans (State.set_samePhase _ _ _))
    · exact ((hv.trans (v.stick_samePhase _)).trans (State.set_samePhase _ _ _)).trans (State.set_samePhase _ _ _)

theorem State.dice_samePhase : s.SamePhase s.dice := rfl

theorem State.secTrace_samePhase (k slot arg : Nat) : s.SamePhase (s.secTrace k slot arg) := (s.trace_noted _ _ _ _ _).samePhase

theorem State.pair_samePhase : s.SamePhase s.pair := by
  unfold State.pair
  extract_lets ps u v mode w
  have hu : s.SamePhase u := by
    refine foldl_keeps (P := fun x => s.SamePhase x) (fun x k _ h => h.trans ?_) (.refl s)
    split
    · exact ((x.set_samePhase _ _).trans (State.set_samePhase _ _ _)).trans (State.set_samePhase _ _ _)
    · exact ((x.set_samePhase _ _).trans (State.set_samePhase _ _ _)).trans (State.set_samePhase _ _ _)
  exact (hu.trans (u.set_samePhase F.FW_STATUS_PAIRING mode)).trans (w.samePhase_lpe _)

theorem State.vaultLoad_samePhase (good : Bool) : s.SamePhase (s.vaultLoad good) := by
  unfold State.vaultLoad
  split
  · split
    · exact foldl_keeps (P := fun u => s.SamePhase u) (fun u _ _ h => h.trans (u.set_samePhase _ _)) (.refl s)
    · exact .refl s
  · have hflag : ({ s with sec := { s.sec with slots := [], creds := [], lpKey := none } } : State).SamePhase
        (({ s with sec := { s.sec with slots := [], creds := [], lpKey := none } } : State).stickIrq F.SEC_VAULT_VAULT 14) :=
      (State.stick_samePhase _ _).trans (State.irq_noted _ _).samePhase
    exact State.SamePhase.trans (s := s) hflag (State.secTrace_samePhase _ _ _ _)

theorem State.stacks_samePhase : s.SamePhase s.stacks := by
  unfold State.SamePhase
  rw [s.stacks_parts.1]

theorem State.bootStages_phase (kind excluded : Nat) (vaultGood : Bool) : (s.bootStages kind excluded vaultGood).boot.phase = .boot := by
  have hstart : ({ s with boot := { s.boot with phase := .boot, began := s.cad.time } } : State).boot.phase = .boot := rfl
  unfold State.bootStages
  generalize ({ s with boot := { s.boot with phase := .boot, began := s.cad.time } } : State) = a at hstart ⊢
  extract_lets z b c pref
  have hb : a.SamePhase b := by
    unfold b
    split
    · exact (a.putRec_samePhase _).trans (State.stick_samePhase _ _)
    · exact .refl a
  have hc : a.SamePhase c := (hb.trans (b.set_samePhase _ _)).trans (State.calBoot_samePhase _ _)
  have hd := hc.trans (c.chooseCf_samePhase excluded)
  clear_value c
  generalize c.chooseCf excluded = y at hd ⊢
  rw [← hstart]
  split
  next slot u =>
  split
  · exact (((hd.trans (u.set_samePhase _ _)).trans (State.set_samePhase _ _ _)).trans (State.set_samePhase _ _ _)).trans (State.slotRegs_regsOnly _).samePhase
  next x =>
    extract_lets d lf bt e f g i j k
    have hd' : a.SamePhase d := by
      unfold d
      split
      · exact hd
      · exact hd.trans (u.stick_samePhase _)
    have he : a.SamePhase e := hd'.trans (d.samePhase_images _ _)
    have hf : a.SamePhase f := ((he.trans (e.set_samePhase _ _)).trans (State.set_samePhase _ _ _)).trans (State.set_samePhase _ _ _)
    have hg : a.SamePhase g := (hf.trans (f.set_samePhase _ _)).trans (State.set_samePhase _ _ _)
    have hi : a.SamePhase i := (hg.trans g.slotRegs_regsOnly.samePhase).trans (State.dice_samePhase _)
    have hj : a.SamePhase j := hi.trans (i.secTrace_samePhase _ _ _)
    have hk : a.SamePhase k := by
      unfold k
      split
      · exact hj.trans (j.secTrace_samePhase _ _ _)
      · exact hj
    exact ((hk.trans k.pair_samePhase).trans (State.vaultLoad_samePhase _ _)).trans (State.stacks_samePhase _)

end

/-! ### The steps of a restart (R504 to R506) -/

/-- The cause that a trigger of a safe-state restart logs. -/
def restartCause (code : Nat) : Nat :=
  match code with
  | 3 => 0x30
  | 4 => 0x32
  | 5 => 0x13
  | 6 => 0x31
  | 2 => 0x07
  | _ => 0x50

/-- A restart in progress resets the device's parts and verifies the image. -/
def State.restartVerify (s : State) (ok : Bool) : State :=
  if s.boot.phase != BootPhase.restart || s.boot.verified then s
  else
    let s := s.resetParts
    let x := s.get F.FW_STATUS_BOOT_SLOT
    if ok then { s with boot := { s.boot with verified := true } }
    else if s.imagePasses 0 (2 * x) && slice (s.flashRegion (2 * x)) 32 48 == slice s.boot.cf 32 48 then
      { s with boot := { s.boot with verified := true, cf := imageOf (s.flashRegion (2 * x)) } }
    else s.stormReboot

theorem State.restartStep_eq (s : State) (code : Nat) (ok : Bool) : s.restartStep code ok =
    (if s.boot.phase == BootPhase.run then s.restart code (restartCause code) 0xFF 0 0 [] else s).restartVerify ok := rfl

theorem exec_safeStateRestart (s : State) (code : Fin 6) (ok : Bool) : exec (.safeStateRestart code ok) s =
    .next ((if s.boot.phase == BootPhase.run then s.restart (code.val + 1) (restartCause (code.val + 1)) 0xFF 0 0 [] else s).restartVerify ok) := rfl

theorem exec_safeStateRestart_of_notRunning {s : State} (h : s.boot.phase ≠ .run) (code : Fin 6) (ok : Bool) :
    exec (.safeStateRestart code ok) s = .next (s.restartVerify ok) := by
  rw [exec_safeStateRestart, if_neg (by simp [h])]

theorem State.restartVerify_of_idle {s : State} (h : s.boot.phase ≠ .restart ∨ s.boot.verified = true) (ok : Bool) : s.restartVerify ok = s := by
  refine if_pos ?_
  obtain h | h := h <;> simp [h]

/-- The device once a restart's parts are reset: its image verifies in memory, or it is read again. -/
theorem State.restartVerify_of_waiting {s r : State} {x : Nat} (h : s.boot.phase = .restart) (hv : s.boot.verified = false) (hr : r = s.resetParts)
    (hx : x = r.get F.FW_STATUS_BOOT_SLOT) (ok : Bool) : s.restartVerify ok =
    if ok then { r with boot := { r.boot with verified := true } }
    else if r.imagePasses 0 (2 * x) && slice (r.flashRegion (2 * x)) 32 48 == slice r.boot.cf 32 48 then
      { r with boot := { r.boot with verified := true, cf := imageOf (r.flashRegion (2 * x)) } }
    else r.stormReboot := by
  rw [State.restartVerify, if_neg (by simp [h, hv]), ← hr, hx]

theorem State.reboot_phase (s : State) (cause kind excluded : Nat) : (s.reboot cause kind excluded).boot.phase = .boot := State.bootStages_phase _ _ _ _

theorem State.stormReboot_phase (s : State) : s.stormReboot.boot.phase = .boot := State.reboot_phase _ _ _ _

/-- A restart ends the running phase. -/
theorem State.restart_phase {s : State} (h : s.boot.phase = .run) (a b d e f : Nat) (l : List Byte) (ha : a < 8) :
    (s.restart a b d e f l).boot.phase ≠ .run := by
  by_cases hfew : s.nearRestarts.length < s.get F.FW_RLIM_COUNT
  · obtain ⟨u, hu, hphase, -⟩ := State.restart_of_allowed (b := b) (d := d) (e := e) (f := f) (l := l) h hfew ha
    rw [hu, u.lpeUpdate_noted.boot_eq, hphase]
    decide
  · rw [State.restart_of_run h, if_pos (Nat.le_of_not_lt hfew), State.stormReboot_phase]
    decide

theorem exec_safeStateRestart_of_running {s : State} (h : s.boot.phase = .run) (code : Fin 6) (ok : Bool) : exec (.safeStateRestart code ok) s =
    exec (.safeStateRestart code ok) (s.restart (code.val + 1) (restartCause (code.val + 1)) 0xFF 0 0 []) := by
  rw [exec_safeStateRestart_of_notRunning (State.restart_phase h _ _ _ _ _ _ (by omega)), exec_safeStateRestart, if_pos (by simp [h])]

/-- What holds the end of a restart. -/
def State.restartHeld (s : State) : Prop := s.boot.phase ≠ .restart ∨ s.boot.verified = false ∨ s.pwr.trip = true ∨ s.boot.sysLost = true

/-- The device in S0 again, once the records of before the restart are written. -/
def State.running (a : State) : State :=
  let s := ({ a with boot := { a.boot with phase := .run, confirmFrom := a.cad.time, halted := [] }, pwr := { a.pwr with leaving := false } } : State).stacks
  let s := (s.set F.FW_STATUS_CMD_READY 1).set F.FW_BOOT_MS (min 0xFFFF ((s.cad.time - s.boot.began) / 1000000))
  (s.set F.PWR_STATUS_STATE 0).set F.PWR_STATUS_ECLK_MHZ s.eclk.2

theorem State.restartEnd_of_held {s : State} (h : s.restartHeld) : s.restartEnd = s := by
  obtain h | h | h | h := h <;> simp [State.restartEnd, h]

/-- The context resets of before the restart end. -/
def State.resetsEnded (s : State) : State := (s.pcie.ctxRst.map fun (x : Nat × Bool) => x.1).foldl (fun (s : State) t => s.ctxFinish t) s

/-- The context resets that wait begin. -/
def State.resetsBegun (s : State) : State :=
  s.pcie.ctxLater.foldl (fun (s : State) (x : Nat × Nat) => s.ctxReset x.1 x.2) { s with pcie := { s.pcie with ctxLater := [] } }

theorem State.restartEnd_of_free {s : State} (h : s.boot.phase = .restart) (hv : s.boot.verified = true) (ht : s.pwr.trip = false)
    (hl : s.boot.sysLost = false) {a e : State} (ha : ((List.range 16).foldl (fun (s : State) t => s.preRecords t) s).restartEpochs = a)
    (he : a.running.resetsEnded.resetsBegun = e) :
    s.restartEnd = ((if e.on F.LPE_CTRL_RESTART_AUTO then e else e.set F.LPE_STATUS_LATCH 1).irq 9).lpeUpdate.crsSettle := by
  unfold State.restartEnd
  rw [if_neg (by simp [h, hv, ht, hl])]
  rw [← he, State.resetsBegun, State.resetsEnded, State.running, ← ha]

/-- The boot and power parts of a device that runs again. -/
def State.runAgain (a : State) : State :=
  { a with boot := { a.boot with phase := .run, confirmFrom := a.cad.time, halted := [] }, pwr := { a.pwr with leaving := false } }

/-- The registers of a device that runs again. -/
def State.runRegs (s : State) : State :=
  ((s.set F.FW_STATUS_CMD_READY 1).set F.FW_BOOT_MS (min 0xFFFF ((s.cad.time - s.boot.began) / 1000000))).set F.PWR_STATUS_STATE 0

theorem State.running_eq (a : State) : a.running = a.runAgain.stacks.runRegs.set F.PWR_STATUS_ECLK_MHZ a.runAgain.stacks.runRegs.eclk.2 := by
  rw [State.running, State.runAgain, State.runRegs]
  simp only [State.eclk]

theorem State.running_parts (a : State) {b : State} (hb : a.running = b) : b.boot.phase = .run ∧
    b.get F.FW_STATUS_CMD_READY = 1 ∧ b.get F.PWR_STATUS_STATE = 0 ∧ b.boot.halted = [] ∧ b.pwr.leaving = false ∧
    b = { a with regs := b.regs, boot := b.boot, pwr := b.pwr, fresh := b.fresh } := by
  obtain ⟨hstacks, -⟩ := a.runAgain.stacks_parts
  have hagain : a.runAgain.boot = { a.boot with phase := .run, confirmFrom := a.cad.time, halted := [] } := rfl
  have hpwr : a.runAgain.pwr = { a.pwr with leaving := false } := rfl
  have hframe : a.runAgain = { a with boot := a.runAgain.boot, pwr := a.runAgain.pwr } := rfl
  rw [State.running_eq] at hb
  generalize a.runAgain = x at *
  generalize x.stacks = y at *
  have hready : y.runRegs.get F.FW_STATUS_CMD_READY = 1 := by
    rw [State.runRegs, State.get_set_apart (by decide) (by decide), State.get_set_apart (by decide) (by decide),
      State.get_set_same _ _ _ (by unfold Fld.inWord; decide)]
    rfl
  have hs0 : y.runRegs.get F.PWR_STATUS_STATE = 0 := by
    rw [State.runRegs, State.get_set_same _ _ _ (by unfold Fld.inWord; decide), Nat.zero_mod]
  have hregs : y.RegsOnly (y.runRegs.set F.PWR_STATUS_ECLK_MHZ y.runRegs.eclk.2) :=
    (((y.set_regsOnly _ _).trans (State.set_regsOnly _ _ _)).trans (State.set_regsOnly _ _ _)).trans (State.set_regsOnly _ _ _)
  generalize y.runRegs = z at *
  have hready' : b.get F.FW_STATUS_CMD_READY = 1 := by
    rw [← hb, State.get_set_apart (by decide) (by decide), hready]
  have hs0' : b.get F.PWR_STATUS_STATE = 0 := by
    rw [← hb, State.get_set_apart (by decide) (by decide), hs0]
  rw [hb] at hregs
  clear hb
  unfold State.RegsOnly at hregs
  refine ⟨?_, hready', hs0', ?_, ?_, ?_⟩
  · rw [hregs, hstacks, hagain]
  · rw [hregs, hstacks, hagain]
  · rw [hregs, hstacks, hpwr]
  · rw [hregs, hstacks, hframe]

/-! ### Exceptions of the control cores (R516, R517) -/

/-- Core `c` is halted. -/
def State.haltCore (s : State) (c : Nat) : State := { s with boot := { s.boot with halted := s.boot.halted ++ [c] } }

theorem State.haltCore_regs (s : State) (c : Nat) : (s.haltCore c).regs = s.regs := rfl

theorem exec_controlCoreException (s : State) (c : CoreIx) (k : Fin 5) (pc : DWord) (sp : Word) (onFault : Bool) :
    exec (.controlCoreException c k pc sp onFault) s = .next (s.coreException c.val (k.val + 2) pc.toNat sp.toNat onFault) := rfl

theorem exec_controlCoreWatchdog (s : State) (c : CoreIx) : exec (.controlCoreWatchdog c) s = .next (s.coreWatchdog c.val) := rfl

theorem State.get64_of_regs {s u : State} (h : u.regs = s.regs) (f : Fld) : u.get64 f = s.get64 f := by
  simp only [State.get64, State.rd, h]

section
variable {s : State} {c k pc sp : Nat}

theorem State.coreException_of_halted (h : c ∈ s.boot.halted) (onFault : Bool) : s.coreException c k pc sp onFault = s :=
  if_pos (List.contains_iff_mem.mpr h)

variable (h : c ∉ s.boot.halted)
include h

theorem State.coreException_onFault : s.coreException c k pc sp true =
    ((s.excRecord c 8 pc sp).haltCore c).fault 7 8 (0x40 + c) 0 0 0 0 0 (leBytes 8 pc ++ leBytes 4 sp ++ leBytes 1 c) := by
  rw [State.coreException, if_neg (by simpa using h), State.haltCore]
  exact if_pos rfl

theorem State.coreException_of_plain : s.coreException c k pc sp false =
    if s.boot.phase = .run then (s.excRecord c (if s.spValid c sp then k else 1) pc sp).restart (if k = 4 then 5 else 1)
      (if s.spValid c sp then k else 1) c pc sp (leBytes 8 pc ++ leBytes 4 sp ++ leBytes 1 c)
    else (s.excRecord c (if s.spValid c sp then k else 1) pc sp).triggerFault (if k = 4 then 5 else 1)
      (if s.spValid c sp then k else 1) c (leBytes 8 pc ++ leBytes 4 sp ++ leBytes 1 c) := by
  have hphase (n : Nat) : (s.excRecord c n pc sp).boot = s.boot := by rw [s.excRecord_regsOnly c n pc sp]
  rw [State.coreException, if_neg (by simpa using h)]
  simp only [Bool.false_eq_true, if_false, hphase, beq_iff_eq]

end

/-- Settles O58. -/
theorem restartsStopEveryCommand : Obligations.RestartsStopEveryCommand := by
  unfold Obligations.RestartsStopEveryCommand
  intro s v c k pc sp code ok
  refine ⟨fun hv => ?_, fun hv => ?_, rfl, fun a b d e f l => ⟨State.restart_of_restart, State.restart_of_other, fun near hnear hrun => ⟨fun hfull => ?_, fun hfew ha => ?_⟩⟩,
    fun hc => ?_, fun hc => ?_, fun n t dt hc hn ht hdt => ⟨fun hrun => ?_, fun hrun => ?_⟩, fun hrun => ?_, fun hrun => ?_,
    fun r x hp hv hr hx => ⟨?_, fun hpass hsame => ?_, fun hbad => ?_⟩, fun h => ?_, fun hrun => ?_, fun h => ?_, fun hp hv ht hl a ha => ?_⟩
  · rw [exec_fwRestart, hv]
    rfl
  · rw [exec_fwRestart, State.fwRestart, if_neg (show ¬ v.toNat = 0x53414645 from fun h => hv (BitVec.eq_of_toNat_eq h))]
  · rw [← State.nearRestarts] at hnear
    rw [State.restart_of_run hrun, if_pos (hnear ▸ hfull)]
  · rw [← State.nearRestarts] at hnear
    subst hnear
    exact State.restart_of_allowed hrun hfew ha
  · rw [exec_controlCoreException, State.coreException_of_halted hc]
  · obtain ⟨hcause, hpc, hsp⟩ := s.excRecord_parts c.isLt (cause := 8) (by decide) pc.isLt sp.isLt
    rw [exec_controlCoreException, State.coreException_onFault hc]
    generalize s.excRecord c.val 8 pc.toNat sp.toNat = a at *
    have hregs := a.haltCore_regs c.val
    refine ⟨a, a.haltCore c.val, rfl, rfl, rfl, ?_, ?_, ?_⟩
    · rw [State.get_of_regs hregs, hcause]
    · rw [State.get64_of_regs hregs, hpc]
    · rw [State.get_of_regs hregs, hsp]
  · have hkind : (k.val + 2 = 4) = (k.val = 2) := by simp
    rw [exec_controlCoreException, State.coreException_of_plain hc, if_pos hrun, hn, ht, hdt]
    simp only [hkind]
  · have hkind : (k.val + 2 = 4) = (k.val = 2) := by simp
    rw [exec_controlCoreException, State.coreException_of_plain hc, if_neg hrun, hn, ht, hdt]
    simp only [hkind]
  · rw [exec_controlCoreWatchdog, State.coreWatchdog, if_pos (by simp [hrun])]
  · rw [exec_controlCoreWatchdog, State.coreWatchdog, if_neg (by simp [hrun])]
  · rw [exec_safeStateRestart_of_notRunning (by simp [hp]), State.restartVerify_of_waiting hp hv hr hx, if_pos rfl]
  · rw [exec_safeStateRestart_of_notRunning (by simp [hp]), State.restartVerify_of_waiting hp hv hr hx, if_neg Bool.false_ne_true, if_pos (by simp [hpass, hsame])]
  · rw [exec_safeStateRestart_of_notRunning (by simp [hp]), State.restartVerify_of_waiting hp hv hr hx, if_neg Bool.false_ne_true, if_neg]
    obtain h | h := hbad <;> simp [h]
  · obtain ⟨hp, hv⟩ | ⟨hp, hp'⟩ := h
    · rw [exec_safeStateRestart_of_notRunning (by simp [hp]), State.restartVerify_of_idle (.inr hv)]
    · rw [exec_safeStateRestart_of_notRunning hp', State.restartVerify_of_idle (.inl hp)]
  · exact exec_safeStateRestart_of_running hrun code ok
  · have hexec : exec .restartComplete s = .next s.restartEnd := rfl
    rw [hexec, State.restartEnd_of_held h]
  · obtain ⟨hphase, hready, hs0, hhalted, hleaving, hframe⟩ := a.running_parts rfl
    refine ⟨a.running, hphase, hready, hs0, hhalted, hleaving, hframe, fun d e hd he => ?_⟩
    have hexec : exec .restartComplete s = .next s.restartEnd := rfl
    rw [hexec, State.restartEnd_of_free hp hv ht hl ha.symm (e := e)]
    have hpcie : a.running.pcie = a.pcie := by rw [hframe]
    rw [he, hd, State.resetsBegun, State.resetsEnded, hpcie]

end Sys2Proof.Machine
end


section

/-! Graphs by their flags: releases, time limits, partitions. -/

namespace Sys2Proof.Machine

section
variable {s : State}

theorem exec_evf_of_shut {t : Tenant} (hshut : s.pageOpen t.val = false) (w : Fin 16) (h : Fin 2) (v : Word) :
    exec (.evfSetWrite t w h v) s = .next s ∧ exec (.evfClrWrite t w h v) s = .next s :=
  ⟨congrArg _ (if_neg (by simp [hshut])), congrArg _ (if_neg (by simp [hshut]))⟩

theorem exec_evf_of_open {t : Tenant} (hopen : s.pageOpen t.val = true) (w : Fin 16) (h : Fin 2) (v : Word) :
    exec (.evfSetWrite t w h v) s = .next (s.evfSet t.val w.val h.val v.toNat) ∧
    exec (.evfClrWrite t w h v) s = .next (s.evfClr t.val w.val h.val v.toNat) :=
  ⟨congrArg _ (if_pos hopen), congrArg _ (if_pos hopen)⟩

/-! ### Releases (R321) -/

theorem exec_graphRelease (t : Tenant) (gid : BitVec 8) : exec (.graphRelease t gid) s = .next (s.graphRelease t.val gid.toNat) := rfl

theorem State.graphRelease_of_launch {t id : Nat} {g : Graph} {l : Launch} (hg : s.graph? t id = some g) (hl : g.launch = some l) :
    s.graphRelease t id = if l.released = none then (s.advance l.base).releaseGraph t id else s := by
  rw [State.graphRelease, hg]
  dsimp only
  rw [hl]
  dsimp only
  exact ite_of_iff Option.isNone_iff_eq_none rfl rfl

theorem State.graphRelease_of_none {t id : Nat} (hg : s.graph? t id = none) : s.graphRelease t id = s := by
  rw [State.graphRelease, hg]

/-! ### Time limits of nodes (R323) -/

theorem exec_nodeTimeout (t : Tenant) (gid : BitVec 8) (i : Nat) : exec (.nodeTimeout t gid i) s = .next (s.nodeTimeout t.val gid.toNat i) := rfl

/-- The command of a node that is not ready in time. -/
def State.lateNodeCmd (s : State) (g : Graph) (l : Launch) (i : Nat) (n : Node) : Cmd :=
  { s.nodeCmd g l i n with unit := 4, status := stABORT_TIMEOUT, warn := 2 ^ wBYTES_LB }

/-- The state whose node at `k` is dispatched as command `c`. -/
def State.nodeTaken (s : State) (t k : Nat) (c : Cmd) : State :=
  let s := s.modNode t k fun (n : Node) => { n with st := .dispatched }
  { s with cmds := s.cmds ++ [c], nextId := s.nextId + 1 }

theorem State.nodeTimeout_of_armed {t id i r : Nat} {g : Graph} {l : Launch} {n : Node} (hg : s.graph? t id = some g) (hl : g.launch = some l)
    (hn : g.nodes[i]? = some n) (hr : l.released = some r) (ha : n.st = .armed) {a : State} (hadv : s.advance (r + 1000 * n.timeout) = a) :
    s.nodeTimeout t id i = (a.nodeTaken t (g.first + i) (a.lateNodeCmd g l i n)).endNode (a.lateNodeCmd g l i n) (g.first + i) := by
  rw [State.nodeTimeout, hg]
  dsimp only
  rw [hl, hn]
  dsimp only
  rw [hr]
  dsimp only
  rw [if_pos (by simp [ha]), hadv]
  rfl

theorem State.nodeTimeout_of_unarmed {t id i : Nat} {g : Graph} (hg : s.graph? t id = some g) (ha : ∀ n, g.nodes[i]? = some n → n.st ≠ .armed) :
    s.nodeTimeout t id i = s := by
  rw [State.nodeTimeout, hg]
  dsimp only
  split
  · next l n hl hn =>
    split
    · rw [if_neg (by simpa using ha n hn)]
    · rfl
  · rfl

theorem State.nodeTimeout_of_none {t id i : Nat} (hg : s.graph? t id = none) : s.nodeTimeout t id i = s := by
  rw [State.nodeTimeout, hg]

theorem State.advance_mem (s : State) (t : Nat) : (s.advance t).mem = s.mem := by
  rw [s.advance_regsCadOnly t]

/-! ### Held sets (R325) -/

theorem exec_heldSetApply (t : Tenant) : exec (.heldSetApply t) s =
    .next (if (s.refillReady t.val).tenantHeld t.val then s.refillReady t.val else (s.refillReady t.val).applyAllHeld t.val) := rfl

theorem exec_nodeDispatch : exec .nodeDispatch s = .next s.nodeDispatch := rfl

/-! ### Partitions (R311) -/

theorem State.schPartWrite_refused {t base count : Nat} (h : 256 < base + count ∨ (∃ g ∈ s.graphs, g.tenant = t) ∨
    ∃ u, u < 16 ∧ u ≠ t ∧ rangesMeet base count (s.get (F.SCH_PART_BASE u)) (s.get (F.SCH_PART_COUNT u)) = true) :
    s.schPartWrite t base count = s.stick F.SCH_CFG_CFG := by
  refine if_pos ?_
  simp only [Bool.or_eq_true, decide_eq_true_eq, List.any_eq_true, List.mem_range, Bool.and_eq_true, bne_iff_ne, beq_iff_eq]
  obtain h | h | h := h
  · exact .inl (.inr h)
  · exact .inr h
  · exact .inl (.inl h)

theorem State.schPartWrite_taken {t base count : Nat} (hfit : base + count ≤ 256) (hgraphs : ∀ g ∈ s.graphs, g.tenant ≠ t)
    (hapart : ∀ u, u < 16 → u ≠ t → rangesMeet base count (s.get (F.SCH_PART_BASE u)) (s.get (F.SCH_PART_COUNT u)) = false) :
    s.schPartWrite t base count = (s.set (F.SCH_PART_BASE t) base).set (F.SCH_PART_COUNT t) count := by
  refine if_neg ?_
  simp only [Bool.or_eq_true, decide_eq_true_eq, List.any_eq_true, List.mem_range, Bool.and_eq_true, bne_iff_ne, beq_iff_eq]
  rintro ((⟨u, hu, hne, hmeet⟩ | hlarge) | ⟨g, hg, ht⟩)
  · exact Bool.false_ne_true ((hapart u hu hne).symm.trans hmeet)
  · omega
  · exact hgraphs g hg ht

end

/-- Settles O35. -/
theorem graphsRunByTheirFlags : Obligations.GraphsRunByTheirFlags := by
  unfold Obligations.GraphsRunByTheirFlags
  intro s t w h v gid i
  refine ⟨fun hshut => exec_evf_of_shut hshut w h v, fun hopen => exec_evf_of_open hopen w h v, fun g l hg hl => ⟨fun hr => ?_, fun hr => ?_⟩, fun k u hk => ?_, fun hk => ?_,
    fun hheld => ?_, fun hheld => ?_, fun g l n r hg hl hn hr ha => ?_, fun g hg ha => ?_, fun hg => ⟨?_, ?_⟩, fun hshut => congrArg _ (if_neg (by simp [hshut])),
    fun hopen base count hbase hcount => ⟨fun hbad => ?_, fun hfit hgraphs hapart => ?_⟩⟩
  · rw [exec_graphRelease, State.graphRelease_of_launch hg hl, if_pos hr]
  · rw [exec_graphRelease, State.graphRelease_of_launch hg hl, if_neg hr]
  · rw [exec_nodeDispatch, State.nodeDispatch, hk]
  · rw [exec_nodeDispatch, State.nodeDispatch, hk]
  · rw [exec_heldSetApply, if_pos hheld]
  · rw [exec_heldSetApply, if_neg (by simp [hheld])]
  · have hmem := s.advance_mem (r + 1000 * n.timeout)
    have hexec := State.nodeTimeout_of_armed hg hl hn hr ha rfl
    generalize s.advance (r + 1000 * n.timeout) = a at *
    exact ⟨a.nodeTaken t.val (g.first + i) (a.lateNodeCmd g l i n), a.lateNodeCmd g l i n, (exec_nodeTimeout t gid i).trans (congrArg _ hexec), rfl, rfl, rfl,
      rfl, hmem⟩
  · rw [exec_nodeTimeout, State.nodeTimeout_of_unarmed hg ha]
  · rw [exec_nodeTimeout, State.nodeTimeout_of_none hg]
  · rw [exec_graphRelease, State.graphRelease_of_none hg]
  · have hexec : exec (.schPartWrite t v) s = .next (s.schPartWrite t.val (bitsOf v.toNat 0 8) (bitsOf v.toNat 16 9)) := congrArg _ (if_pos hopen)
    rw [hexec, ← hbase, ← hcount, State.schPartWrite_refused hbad]
  · have hexec : exec (.schPartWrite t v) s = .next (s.schPartWrite t.val (bitsOf v.toNat 0 8) (bitsOf v.toNat 16 9)) := congrArg _ (if_pos hopen)
    rw [hexec, ← hbase, ← hcount, State.schPartWrite_taken hfit hgraphs hapart]

end Sys2Proof.Machine
end


section

/-! Rein ports: enable, training, parameters, retries and flits. -/

namespace Sys2Proof.Machine

section
variable {s : State} {n : Nat}

/-! ### Training (R333, R334) -/

theorem State.portEnable_false : s.portEnable n false =
    if (s.set (F.REI_P_CTRL_EN n) 0).portState n = 0 then s.set (F.REI_P_CTRL_EN n) 0 else (s.set (F.REI_P_CTRL_EN n) 0).portLost n 0 0 := rfl

theorem State.portEnable_true {u : State} (hu : u = s.set (F.REI_P_CTRL_EN n) 1) : s.portEnable n true =
    if u.portState n = 0 ∧ u.on F.REI_ID_VALID = true then u.setPortState n 1 else u := by
  have h : s.portEnable n true = if decide ((s.set (F.REI_P_CTRL_EN n) 1).portState n = 0) && (s.set (F.REI_P_CTRL_EN n) 1).on F.REI_ID_VALID then
    (s.set (F.REI_P_CTRL_EN n) 1).setPortState n 1 else s.set (F.REI_P_CTRL_EN n) 1 := rfl
  rw [h, ← hu]
  exact ite_of_iff (by simp) rfl rfl

theorem State.trainStep_of_state {k : Nat} (h : s.portState n = k) (half : Bool) : s.trainStep n half =
    if k = 1 then s.setPortState n 2
    else if k = 2 then s.setPortState n 3
    else if k = 3 then
      if half = true ∧ s.on (F.REI_P_CTRL_HALF_OK n) = false then s else (s.set (F.REI_P_STATUS_WIDTH n) (if half then 1 else 2)).setPortState n 4
    else if k = 4 then s.setPortState n 5
    else s := by
  unfold State.trainStep
  rw [h]
  split
  · rfl
  · rfl
  · rw [if_neg (show ¬ (3 : Nat) = 1 by decide), if_neg (show ¬ (3 : Nat) = 2 by decide), if_pos (show (3 : Nat) = 3 from rfl)]
    exact ite_of_iff (by simp) rfl rfl
  · rfl
  · next h1 h2 h3 h4 => rw [if_neg h1, if_neg h2, if_neg h3, if_neg h4]

theorem exec_trainingStateAdvance (p : Port) (half : Bool) : exec (.trainingStateAdvance p half) s = .next (s.trainStep p.val half) := rfl

/-! ### The exchange of parameters (R334, R353) -/

/-- The state that keeps what the peer said of itself. -/
def State.peerKept (s : State) (n serial chip : Nat) : State :=
  (s.setPort n { s.port n with peerSerial := serial }).set (F.REI_P_STATUS_PEER_CHIP n) chip

theorem State.paramExchange_of_other (h : s.portState n ≠ 5) (serial chip port major : Nat) (width : Bool) :
    s.paramExchange n serial chip port major width = s := if_pos (by simpa using h)

section
variable {u : State} {serial chip port major : Nat} {width : Bool} (h : s.portState n = 5) (hu : u = s.peerKept n serial chip)
include h hu

theorem State.paramExchange_of_exchange : s.paramExchange n serial chip port major width =
    if serial = u.get64 F.REI_SERIAL_LO then u.portLost n 8 1
    else if major ≠ 1 then u.portLost n 8 2
    else if chip = u.chip then
      (if serial < (u.stickIrq F.REI_DUPID_DUPID 12).get64 F.REI_SERIAL_LO then
        { u.stickIrq F.REI_DUPID_DUPID 12 with rein := { (u.stickIrq F.REI_DUPID_DUPID 12).rein with vc3Only := true } }
        else u.stickIrq F.REI_DUPID_DUPID 12).portLost n 8 3
    else if width = false then u.portLost n 8 4
    else u.portUp n chip port := by
  subst hu
  unfold State.peerKept
  rw [State.paramExchange, if_neg (by simp [h])]
  exact ite_of_iff Iff.rfl rfl (ite_of_iff (by simp) rfl (ite_of_iff Iff.rfl rfl (ite_of_iff (by simp) rfl rfl)))

end

theorem exec_paramExchange (p : Port) (serial : DWord) (chip : Chip) (port : Port) (major : BitVec 8) (width : Bool) :
    exec (.paramExchange p serial chip port major width) s =
      .next (s.paramExchange p.val serial.toNat chip.val port.val major.toNat width) := rfl

/-! ### Retries (R335, R338) -/

theorem exec_retrainAttemptEnd (p : Port) (ok half : Bool) : exec (.retrainAttemptEnd p ok half) s = .next (s.retrainEnd p.val ok half) := rfl

theorem State.retrainEnd_of_other (h : s.portState n ≠ 7) (ok half : Bool) : s.retrainEnd n ok half = s := if_pos (by simpa using h)

theorem State.retrainEnd_of_success (h : s.portState n = 7) {half : Bool} (hok : half = false ∨ s.on (F.REI_P_CTRL_HALF_OK n) = true) :
    s.retrainEnd n true half =
      (((((if half then s.set (F.REI_P_STATUS_WIDTH n) 1 else s).setPortState n 6).stick F.REI_RETRAIN_RETRAIN).replayAll n).pump n).pathCheck := by
  rw [State.retrainEnd, if_neg (by simp [h]), if_pos]
  obtain hok | hok := hok <;> simp [hok]

theorem State.retrainEnd_of_failure (h : s.portState n = 7) {ok half : Bool} (hno : ok = false ∨ (half = true ∧ s.on (F.REI_P_CTRL_HALF_OK n) = false)) :
    s.retrainEnd n ok half = if (s.port n).attempts < 2 then s.setPort n { s.port n with attempts := (s.port n).attempts + 1 } else s.portLost n 8 5 := by
  rw [State.retrainEnd, if_neg (by simp [h]), if_neg]
  · exact ite_of_iff (by omega) rfl rfl
  · obtain hno | ⟨hhalf, hno⟩ := hno
    · simp [hno]
    · simp [hhalf, hno]

theorem exec_nakReceived (p : Port) (lack : Fin 4096) : exec (.nakReceived p lack) s = .next (s.nakIn p.val lack.val) := rfl

theorem State.nakIn_of_inactive (h : s.portActive n = false) (lack : Nat) : s.nakIn n lack = s := if_pos (by simp [h])

theorem State.nakIn_of_empty (h : s.portActive n = true) {lack : Nat} (he : ((s.lackTo n lack).port n).replay = []) : s.nakIn n lack = s.lackTo n lack := by
  rw [State.nakIn, if_neg (by simp [h])]
  dsimp only
  rw [he]

theorem State.lackTo_cad (lack : Nat) : (s.lackTo n lack).cad = s.cad := rfl

theorem State.nakIn_of_replay (h : s.portActive n = true) {lack k : Nat} {x : PortSt} {f : Nat × Flit} {r : List (Nat × Flit)} {recent : List Nat} {y : State}
    (hx : x = (s.lackTo n lack).port n) (hf : x.replay = f :: r) (hk : k = if x.replayedSeq = f.1 then x.replays + 1 else 1)
    (hrecent : recent = (x.naks.filter fun t => decide (s.cad.time < t + 10000)) ++ [s.cad.time])
    (hy : y = (s.lackTo n lack).setPort n { x with replays := k, replayedSeq := f.1, naks := recent,
                                                   spoilt := x.spoilt || x.replay.any fun z => z.2.vc == 3 }) :
    s.nakIn n lack = if 4 ≤ k ∨ 16 ≤ recent.length then y.retrain n else y.replayAll n := by
  rw [State.nakIn, if_neg (by simp [h])]
  dsimp only
  rw [← hx, hf]
  dsimp only
  rw [State.lackTo_cad, ← hrecent, ← hk, ← hf, ← hy]
  exact ite_of_iff (by simp) rfl rfl

/-! ### Flits (R338) -/

theorem exec_flitReceive (p : Port) (b : List Byte) : exec (.flitReceive p b) s = .next (s.flitIn p.val b).csrSettle := rfl

theorem State.flitIn_of_good {b : List Byte} {u : State} {f : Flit} (h : s.portActive n = true) (hb : flitGood b = true) (hf : f = flitOf b)
    (hu : u = (if bit (leAt b 6 2) 12 then s.nakIn n (bitsOf (leAt b 6 2) 0 12) else s.lackTo n (bitsOf (leAt b 6 2) 0 12)).creditsIn
        n (bitsOf (leAt b 8 1) 0 2) (bitsOf (leAt b 8 1) 2 6)) : s.flitIn n b =
    if f.kind = 0 then u
    else if bitsOf (leAt b 4 2) 0 12 ≠ (u.port n).rxSeq then u.nakOut n false
    else (u.setPort n { u.port n with
        rxSeq := ((u.port n).rxSeq + 1) % 4096, nakOut := false, owed := modNth (· + 1) f.vc (u.port n).owed }).flitAccepted n f := by
  rw [State.flitIn, if_neg (by simp [h]), if_neg (by simp [hb]), ← hf]
  dsimp only
  rw [← hu]
  exact ite_of_iff Iff.rfl rfl (ite_of_iff (by simp) rfl rfl)

end

/-- Settles O36. -/
theorem portsTrainRetryAndComeUp : Obligations.PortsTrainRetryAndComeUp := by
  unfold Obligations.PortsTrainRetryAndComeUp
  refine ⟨fun s p half width serial chip port major => ⟨fun hshut en => congrArg _ (if_neg (by simp [hshut])), fun hopen h0 => ?_,
      fun hopen u hu => ⟨fun h0 hid => ?_, fun hno => ?_⟩, fun hopen h0 => ?_, fun hst => ?_, fun hst => ?_, fun hst => ?_, fun hst hhalf => ?_, fun hst hhalf => ?_, fun hst => ?_,
      fun hst => ?_, fun hst => ?_, fun hst u hu => ⟨fun hser => ?_, fun hser hmaj => ?_, fun hser hmaj hchip d w hd hw => ?_, fun hser hmaj hchip => ⟨?_, ?_⟩⟩,
      fun hst hen => ?_, fun hno => ?_, fun h2 h5 => ?_, fun hno => ?_⟩,
    fun s p half lack b => ⟨fun hact => ?_, fun hact => ?_, fun hst ok => ?_, fun hst => ⟨?_, fun hhalf => ?_, fun hhalf => ?_, fun hfew => ?_, fun hmany => ?_⟩,
      fun hact => ?_, fun hact he => ?_, fun f r x k recent y hact hx hf hk hrecent hy => ⟨fun hk4 h16 => ?_, fun hmany => ?_⟩, fun hact he => ?_, fun hno => ?_, fun hact hb => ?_,
      fun hact => ?_, fun u v f hact hb hf hu => ⟨fun hkind => ?_, fun hkind hseq => ?_, fun hkind hseq hv => ?_⟩⟩⟩
  · have hexec : exec (.portEnable p false) s = .next (s.portEnable p.val false) := congrArg _ (if_pos hopen)
    rw [hexec, State.portEnable_false, if_pos h0]
  · have hexec : exec (.portEnable p true) s = .next (s.portEnable p.val true) := congrArg _ (if_pos hopen)
    rw [hexec, State.portEnable_true hu, if_pos ⟨h0, hid⟩]
  · have hexec : exec (.portEnable p true) s = .next (s.portEnable p.val true) := congrArg _ (if_pos hopen)
    rw [hexec, State.portEnable_true hu, if_neg]
    rintro ⟨h0, hid⟩
    obtain h | h := hno
    · exact h h0
    · exact Bool.false_ne_true (h.symm.trans hid)
  · have hexec : exec (.portEnable p false) s = .next (s.portEnable p.val false) := congrArg _ (if_pos hopen)
    rw [hexec, State.portEnable_false, if_neg h0]
  · rw [exec_trainingStateAdvance, State.trainStep_of_state hst, if_pos rfl]
  · rw [exec_trainingStateAdvance, State.trainStep_of_state hst, if_neg (by decide), if_pos rfl]
  · rw [exec_trainingStateAdvance, State.trainStep_of_state hst, if_neg (by decide), if_neg (by decide), if_pos rfl, if_neg (by simp), if_neg Bool.false_ne_true]
  · rw [exec_trainingStateAdvance, State.trainStep_of_state hst, if_neg (by decide), if_neg (by decide), if_pos rfl, if_neg (by simp [hhalf]), if_pos rfl]
  · rw [exec_trainingStateAdvance, State.trainStep_of_state hst, if_neg (by decide), if_neg (by decide), if_pos rfl, if_pos ⟨rfl, hhalf⟩]
  · rw [exec_trainingStateAdvance, State.trainStep_of_state hst, if_neg (by decide), if_neg (by decide), if_neg (by decide), if_pos rfl]
  · rw [exec_trainingStateAdvance, State.trainStep_of_state rfl, if_neg (by omega), if_neg (by omega), if_neg (by omega), if_neg (by omega)]
  · rw [exec_paramExchange, State.paramExchange_of_other hst]
  · rw [exec_paramExchange, State.paramExchange_of_exchange hst hu, if_pos hser]
  · rw [exec_paramExchange, State.paramExchange_of_exchange hst hu, if_neg hser, if_pos hmaj]
  · rw [exec_paramExchange, State.paramExchange_of_exchange hst hu, if_neg hser, if_neg (Classical.not_not.mpr hmaj), if_pos hchip, ← hd, ← hw]
  · rw [exec_paramExchange, State.paramExchange_of_exchange hst hu, if_neg hser, if_neg (Classical.not_not.mpr hmaj), if_neg hchip, if_pos rfl]
  · rw [exec_paramExchange, State.paramExchange_of_exchange hst hu, if_neg hser, if_neg (Classical.not_not.mpr hmaj), if_neg hchip, if_neg (by decide)]
  · exact congrArg _ (if_pos (by simp [hst, hen]))
  · exact congrArg _ (if_neg (by obtain h | h := hno <;> simp [h]))
  · exact congrArg _ (if_pos (by simp [h2, h5]))
  · exact congrArg _ (if_neg (by simp; omega))
  · exact congrArg _ (if_pos hact)
  · exact congrArg _ (if_neg (by simp [hact]))
  · rw [exec_retrainAttemptEnd, State.retrainEnd_of_other hst]
  · rw [exec_retrainAttemptEnd, State.retrainEnd_of_success hst (.inl rfl), if_neg Bool.false_ne_true]
  · rw [exec_retrainAttemptEnd, State.retrainEnd_of_success hst (.inr hhalf), if_pos rfl]
  · rw [exec_retrainAttemptEnd, exec_retrainAttemptEnd, State.retrainEnd_of_failure hst (.inr ⟨rfl, hhalf⟩), State.retrainEnd_of_failure hst (.inl rfl)]
  · rw [exec_retrainAttemptEnd, State.retrainEnd_of_failure hst (.inl rfl), if_pos hfew]
  · rw [exec_retrainAttemptEnd, State.retrainEnd_of_failure hst (.inl rfl), if_neg (Nat.not_lt.mpr hmany)]
  · rw [exec_nakReceived, State.nakIn_of_inactive hact]
  · rw [exec_nakReceived, State.nakIn_of_empty hact he]
  · rw [exec_nakReceived, State.nakIn_of_replay hact hx hf hk hrecent hy, if_neg (by omega)]
  · rw [exec_nakReceived, State.nakIn_of_replay hact hx hf hk hrecent hy, if_pos hmany]
  · exact congrArg _ (if_pos (by simp [hact, he]))
  · exact congrArg _ (if_neg (by obtain h | h := hno <;> simp [h]))
  · rw [exec_flitReceive, State.flitIn, if_neg (by simp [hact]), if_pos (by simp [hb])]
  · rw [exec_flitReceive, State.flitIn, if_pos (by simp [hact])]
  · rw [exec_flitReceive, State.flitIn_of_good hact hb hf hu, if_pos hkind]
  · rw [exec_flitReceive, State.flitIn_of_good hact hb hf hu, if_neg hkind, if_pos hseq]
  · rw [exec_flitReceive, State.flitIn_of_good hact hb hf hu, if_neg hkind, if_neg (Classical.not_not.mpr hseq), hv]

end Sys2Proof.Machine
end


section

/-! Plans and their partitions; lanes and their arbiters. -/

namespace Sys2Proof.Machine

section
variable {s : State}

/-! ### Plans (R143, R144, R147, R148) -/

theorem exec_planComputeComplete : exec .planComputeComplete s = .next s.planComplete := rfl

/-- The plan that a finished computation writes. -/
def State.planWritten (v : State) (j : PlanJob) : State :=
  if j.stale then v
  else
    match v.planAt j.tenant j.sig with
    | some p => { v with
        plans := v.plans.map fun (x : PlanEntry) => if x.index = p.index then { x with ready := true } else x
        mem := v.mem.putPlan p.index j.sig }
    | none => (v.planPut j.tenant j.sig [] true).getD v

theorem State.planDone_eq (j : PlanJob) : s.planDone j = j.waiters.foldl (fun (s : State) (id : Nat) => s.modCmd id fun (c : Cmd) =>
    { c with moves := c.moves.map (Move.hasPlan [j.sig]) }) (State.planWritten { s with planJobs := s.planJobs.erase j } j) := by
  have hput (v : State) : (match v.planPut j.tenant j.sig [] true with | some s => s | none => v) = (v.planPut j.tenant j.sig [] true).getD v := by
    cases v.planPut j.tenant j.sig [] true <;> rfl
  unfold State.planDone State.planWritten
  dsimp only
  rw [← hput] <;> rfl

theorem State.planComplete_of_started {j : PlanJob} (hj : s.planJobs.find? (·.started) = some j) : s.planComplete =
    j.waiters.foldl (fun (s : State) (id : Nat) => s.modCmd id fun (c : Cmd) =>
      { c with moves := c.moves.map (Move.hasPlan [j.sig]) }) (State.planWritten { s with planJobs := s.planJobs.erase j } j) := by
  rw [State.planComplete, hj, ← State.planDone_eq]

theorem State.planPartWrite_refused {t base count : Nat} (h : 256 < base + count ∨ 16 * count < s.planPinned t ∨
    ∃ u, u < 16 ∧ u ≠ t ∧ rangesMeet base count (s.get (F.PRI_PART_BASE u)) (s.get (F.PRI_PART_COUNT u)) = true) :
    s.priPartWrite t base count = s.stick F.PRI_CFG_CFG := by
  refine if_pos ?_
  simp only [Bool.or_eq_true, decide_eq_true_eq, List.any_eq_true, List.mem_range, Bool.and_eq_true, bne_iff_ne]
  obtain h | h | h := h
  · exact .inl (.inl (.inr h))
  · exact .inl (.inr h)
  · exact .inl (.inl (.inl h))

/-- The state whose partition of tenant `t` is put. -/
def State.planPart (s : State) (t base count : Nat) : State := (s.set (F.PRI_PART_BASE t) base).set (F.PRI_PART_COUNT t) count

theorem State.planPartWrite_taken {t base count : Nat} (hfit : base + count ≤ 256) (hpins : s.planPinned t ≤ 16 * count)
    (hapart : ∀ u, u < 16 → u ≠ t → rangesMeet base count (s.get (F.PRI_PART_BASE u)) (s.get (F.PRI_PART_COUNT u)) = false) :
    s.priPartWrite t base count = if base != s.get (F.PRI_PART_BASE t) || count != s.get (F.PRI_PART_COUNT t) then
      ((s.planPart t base count).planDrop t true).planRenumber t else s.planPart t base count := by
  refine if_neg ?_
  simp only [Bool.or_eq_true, decide_eq_true_eq, List.any_eq_true, List.mem_range, Bool.and_eq_true, bne_iff_ne]
  rintro (((⟨u, hu, hne, hmeet⟩ | hlarge) | hpinned) | hcount)
  · exact Bool.false_ne_true ((hapart u hu hne).symm.trans hmeet)
  · omega
  · omega
  · omega

theorem State.planPart_parts (t : Nat) {base count : Nat} (hbase : base < 512) (hcount : count < 512) : s.RegsOnly (s.planPart t base count) ∧
    (s.planPart t base count).get (F.PRI_PART_BASE t) = base ∧ (s.planPart t base count).get (F.PRI_PART_COUNT t) = count := by
  refine ⟨(s.set_regsOnly _ _).trans (State.set_regsOnly _ _ _), ?_, ?_⟩
  · rw [State.planPart, State.get_set_apart (f := F.PRI_PART_COUNT t) (g := F.PRI_PART_BASE t) (Nat.le_of_ble_eq_true rfl)
      (.inr (.inl (Nat.le_of_ble_eq_true rfl))), State.get_set_same _ (F.PRI_PART_BASE t) _ (Nat.le_of_ble_eq_true rfl)]
    exact Nat.mod_eq_of_lt hbase
  · rw [State.planPart, State.get_set_same _ (F.PRI_PART_COUNT t) _ (Nat.le_of_ble_eq_true rfl)]
    exact Nat.mod_eq_of_lt hcount

/-- A partition's change drops and renumbers plans of its tenant only. -/
theorem State.planDrop_renumber (s : State) (t : Nat) : (s.planDrop t true).planRenumber t =
      { s with plans := ((s.planDrop t true).planRenumber t).plans, planJobs := ((s.planDrop t true).planRenumber t).planJobs,
               mem := ((s.planDrop t true).planRenumber t).mem } ∧
    ∀ p ∈ s.plans, p.tenant ≠ t → p ∈ ((s.planDrop t true).planRenumber t).plans := by
  refine ⟨rfl, fun p hp ht => List.mem_append_left _ (List.mem_filter.mpr ⟨List.mem_filter.mpr ⟨hp, ?_⟩, by simpa using ht⟩)⟩
  simp [ht]

theorem State.planDrop_frame (s : State) (t : Nat) : s.planDrop t true = { s with plans := (s.planDrop t true).plans, planJobs := (s.planDrop t true).planJobs } ∧
    ∀ p, p ∈ (s.planDrop t true).plans ↔ p ∈ s.plans ∧ (p.tenant = t → p.pins ≠ []) := by
  refine ⟨rfl, fun p => ?_⟩
  refine List.mem_filter.trans (and_congr_right fun _ => ?_)
  by_cases h : p.tenant = t <;> simp [h]

theorem State.priInval_range (s : State) (w n : Nat) : ∃ u : State, (List.range n).foldl (fun (s : State) t => if bit w t then s.planDrop t true else s) s = u ∧
    (∀ p, p ∈ u.plans ↔ p ∈ s.plans ∧ (p.tenant < n → bit w p.tenant = true → p.pins ≠ [])) ∧ u = { s with plans := u.plans, planJobs := u.planJobs } := by
  induction n with
  | zero => exact ⟨s, rfl, fun p => by simp, rfl⟩
  | succ n ih =>
    obtain ⟨u, hu, hplans, hframe⟩ := ih
    rw [List.range_succ, List.foldl_append, hu, List.foldl_cons, List.foldl_nil]
    by_cases hbit : bit w n = true
    · obtain ⟨hdrop, hmem⟩ := u.planDrop_frame n
      rw [if_pos hbit]
      generalize u.planDrop n true = v at *
      refine ⟨v, rfl, fun p => ?_, ?_⟩
      · rw [hmem, hplans, and_assoc]
        refine and_congr_right fun _ => ?_
        by_cases hp : p.tenant = n
        · simp [hp, hbit]
        · simp [hp, show p.tenant < n + 1 ↔ p.tenant < n by omega]
      · rw [hdrop, hframe]
    · rw [if_neg hbit]
      refine ⟨u, rfl, fun p => ?_, hframe⟩
      rw [hplans]
      refine and_congr_right fun _ => ?_
      by_cases hp : p.tenant = n
      · simp [hp, hbit]
      · simp [show p.tenant < n + 1 ↔ p.tenant < n by omega]

end

/-! ### Lanes (R262, R263, R265 to R272) -/

theorem exec_arbiterDecision (s : State) (lane : Nat) (idle : Bool) (reqs : List ArbReq) : exec (.arbiterDecision lane idle reqs) s =
    .next (s.arbitrate lane idle reqs) := rfl

/-- The VC3 request that takes the beat at a Rein egress. -/
def State.urgent (u : State) (a : Arb) (lane : Nat) (all : List ArbReq) : Option ArbReq :=
  if a == .rein && (u.lane lane).vc3Room then oldest (all.filter (·.vc == 3)) else none

theorem State.urgent_of_plain {u : State} {a : Arb} {lane : Nat} {all : List ArbReq}
    (h : a = .rein → (u.lane lane).vc3Room = true → oldest (all.filter (·.vc == 3)) = none) : u.urgent a lane all = none := by
  unfold State.urgent
  split
  · next hr =>
    obtain ⟨hrein, hroom⟩ := Bool.and_eq_true_iff.mp hr
    exact h (eq_of_beq hrein) hroom
  · rfl

/-- The requests that compete for the lane. -/
def Arb.rivals (a : Arb) (all : List ArbReq) : List ArbReq := if a == .rein then all.filter (·.vc != 3) else all

/-- The decision at a lane at which no VC3 request takes the beat. -/
def State.laneBeat (u : State) (lane : Nat) (a : Arb) (idle : Bool) (rs : List ArbReq) : State :=
  match (u.lane lane).holder, (u.lane lane).lockedBy with
  | none, _ => u.decide_ lane a rs
  | some h, some q => if u.seqOpen q then u.lockedBeat lane a h q idle rs else u.decide_ lane a (rs.filter fun r => !r.mid)
  | some h, none => u.ordinaryBeat lane a h idle rs

section
variable {s u : State} {lane : Nat} {idle : Bool} {reqs all rs : List ArbReq} {a : Arb}

theorem State.arbitrate_of_absent (h : s.laneHere lane = false) : s.arbitrate lane idle reqs = s := if_pos (by simp [h])

section
variable (h : s.laneHere lane = true) (ha : a = arbOf lane) (hu : u = (s.meetSeqs a reqs).noteAsked a lane reqs)
  (hall : all = reqs.filter (u.takesPart a lane))
include h ha hu hall

theorem State.arbitrate_of_urgent {r : ArbReq} (hr : u.urgent a lane all = some r) : s.arbitrate lane idle reqs = u.beat lane a r.who 3 none := by
  unfold State.urgent at hr
  rw [State.arbitrate, if_neg (by simp [h]), ← ha]
  dsimp only
  rw [← hu, ← hall]
  rw [hr]

theorem State.arbitrate_of_plain (hrs : rs = a.rivals all) (hr : u.urgent a lane all = none) : s.arbitrate lane idle reqs = u.laneBeat lane a idle rs := by
  unfold State.urgent at hr
  unfold Arb.rivals at hrs
  rw [State.arbitrate, if_neg (by simp [h]), ← ha]
  dsimp only
  rw [← hu, ← hall]
  rw [hr, ← hrs] <;> rfl

end

end

section
variable {u : State} {lane : Nat} {a : Arb} {idle : Bool} {rs : List ArbReq} {h x : Nat}

theorem State.laneBeat_of_free (hh : (u.lane lane).holder = none) : u.laneBeat lane a idle rs = u.decide_ lane a rs := by
  rw [State.laneBeat, hh]

theorem State.laneBeat_of_ordinary (hh : (u.lane lane).holder = some h) (hl : (u.lane lane).lockedBy = none) :
    u.laneBeat lane a idle rs = u.ordinaryBeat lane a h idle rs := by
  rw [State.laneBeat, hh, hl]

theorem State.laneBeat_of_locked (hh : (u.lane lane).holder = some h) (hl : (u.lane lane).lockedBy = some x) (hopen : u.seqOpen x = true) :
    u.laneBeat lane a idle rs = u.lockedBeat lane a h x idle rs := by
  rw [State.laneBeat, hh, hl]
  exact if_pos hopen

theorem State.ordinaryBeat_of_holding (hidle : idle = false) (hbeats : (u.lane lane).beats < a.maxGrant)
    (hcredit : ¬(a = .sysPort ∧ (u.lane lane).credit.getD h 0 = 0)) : u.ordinaryBeat lane a h idle rs =
    match u.winner a (u.lane lane) (rs.filter fun (r : ArbReq) => preempts (u.rankAt a r).1 (u.lane lane).rank) with
    | some r => ((u.setLane lane { u.lane lane with preempted := (u.lane lane).preempted ++ [(h, (u.lane lane).beats)] }).bump F.ARB_PREEMPT 1).grant lane a r
    | none => u.holdOn lane a h rs none := by
  have hspent : ¬ (decide (a.maxGrant ≤ (u.lane lane).beats) || (a == .sysPort && (u.lane lane).credit.getD h 0 == 0)) = true := by
    rw [Bool.or_eq_true, not_or]
    refine ⟨by simpa using hbeats, fun hs => hcredit ?_⟩
    obtain ⟨hsys, hzero⟩ := Bool.and_eq_true_iff.mp hs
    exact ⟨eq_of_beq hsys, eq_of_beq hzero⟩
  rw [State.ordinaryBeat, if_neg (by simp [hidle])]
  exact (if_neg hspent).trans rfl

end

theorem exec_lockedBoundExpiry (s : State) (t : Tenant) (q : Fin 72) (beats : Bool) : exec (.lockedBoundExpiry t q beats) s =
    .next (s.lockedBound t.val q.val beats) := rfl

theorem State.lockedBound_of_seq {s : State} {t q : Nat} {beats : Bool} {live : List LockSeq} {x : LockSeq}
    (hlive : live = s.lockSeqs.filter fun (x : LockSeq) => x.openedAt.isSome && x.broken.isNone)
    (hx : live.find? (fun (x : LockSeq) => x.tenant == t && x.queue == q) = some x) : s.lockedBound t q beats =
    if beats then (if x.lanes.any fun p => decide (64 ≤ p.2) then s.endByBound x true else s)
    else (((live.filter fun y => y.endsBefore x).foldl (fun l y => insByEnd y l) []) ++ [x]).foldl (fun s y =>
      (s.advance (y.openedAt.getD 0 + 2000)).endByBound y false) s := by
  rw [State.lockedBound, ← hlive, hx]

/-- Settles O32. -/
theorem plansAndLanesFollowTheirArbiters : Obligations.PlansAndLanesFollowTheirArbiters := by
  unfold Obligations.PlansAndLanesFollowTheirArbiters
  refine ⟨fun s t w base count hbase hcount => ⟨fun j hj v load hv hload => ⟨fun hstale => ?_, fun p hstale hp => ?_, fun hstale hp => ?_⟩, fun hnone => ?_, fun hopen hbad => ?_,
      fun hopen hfit hpins hapart => ?_, fun hopen => ?_, fun hshut => ⟨congrArg _ (if_neg (by simp [hshut])), congrArg _ (if_neg (by simp [hshut]))⟩⟩,
    fun s lane idle reqs t q => ⟨fun hno => ?_, fun hhere a u all rs ha hu hall hrs => ⟨fun r hrein hroom hr => ?_, fun hplain => ⟨fun hfree v hv => ⟨fun r hr => ?_, fun hr => ?_⟩,
      fun h hh hl hidle hbeats hcredit up hup => ⟨fun hw => ?_, fun r hw => ?_⟩, fun h hh hl hidle => ?_, fun h x hh hx hopen => ⟨fun h64 => ?_, fun h64 hidle => ?_⟩⟩⟩,
      fun live x o hlive hx ho => ⟨fun hfirst => ?_, fun hlane => ?_, fun hlanes => ?_⟩⟩⟩
  · rw [exec_planComputeComplete, State.planComplete_of_started hj, hload, ← hv, State.planWritten, if_pos hstale]
  · rw [exec_planComputeComplete, State.planComplete_of_started hj, hload, ← hv, State.planWritten, if_neg (by simp [hstale]), hp]
  · rw [exec_planComputeComplete, State.planComplete_of_started hj, hload, ← hv, State.planWritten, if_neg (by simp [hstale]), hp]
  · rw [exec_planComputeComplete, State.planComplete, List.find?_eq_none.mpr fun j hj => by simp [hnone j hj]]
  · have hexec : exec (.priPartWrite t w) s = .next (s.priPartWrite t.val (bitsOf w.toNat 0 9) (bitsOf w.toNat 16 9)) := congrArg _ (if_pos hopen)
    rw [hexec, ← hbase, ← hcount, State.planPartWrite_refused hbad]
  · have hexec : exec (.priPartWrite t w) s = .next (s.priPartWrite t.val (bitsOf w.toNat 0 9) (bitsOf w.toNat 16 9)) := congrArg _ (if_pos hopen)
    obtain ⟨hregs, hb, hc⟩ := s.planPart_parts t.val (hbase ▸ bitsOf_lt w.toNat 0 9) (hcount ▸ bitsOf_lt w.toNat 16 9)
    rw [hexec, ← hbase, ← hcount, State.planPartWrite_taken hfit hpins hapart]
    generalize s.planPart t.val base count = v at *
    unfold State.RegsOnly at hregs
    have hplans : v.plans = s.plans := by rw [hregs]
    have hcmds : v.cmds = s.cmds := by rw [hregs]
    split
    · obtain ⟨hframe, hkept⟩ := v.planDrop_renumber t.val
      have hr : ((v.planDrop t.val true).planRenumber t.val).regs = v.regs := rfl
      generalize (v.planDrop t.val true).planRenumber t.val = u at *
      refine ⟨u, rfl, (State.get_of_regs hr _).trans hb, (State.get_of_regs hr _).trans hc, fun p hp ht => hkept p (hplans.symm ▸ hp) ht, ?_, ?_⟩
      · rw [hframe, hcmds]
      · rw [hframe, hregs]
    · refine ⟨v, rfl, hb, hc, fun p hp _ => hplans.symm ▸ hp, hcmds, ?_⟩
      rw [hregs]
  · obtain ⟨u, hu, hplans, hframe⟩ := s.priInval_range w.toNat 16
    exact ⟨u, (congrArg _ (if_pos hopen)).trans (congrArg _ hu), hplans, hframe⟩
  · rw [exec_arbiterDecision, State.arbitrate_of_absent hno]
  · rw [exec_arbiterDecision, State.arbitrate_of_urgent hhere ha hu hall]
    rw [State.urgent, if_pos (by simp [hrein, hroom]), hr]
  · rw [exec_arbiterDecision, State.arbitrate_of_plain hhere ha hu hall hrs (State.urgent_of_plain hplain), State.laneBeat_of_free hfree, State.decide_,
      LaneSt.release, ← hv, hr]
  · rw [exec_arbiterDecision, State.arbitrate_of_plain hhere ha hu hall hrs (State.urgent_of_plain hplain), State.laneBeat_of_free hfree, State.decide_,
      LaneSt.release, ← hv, hr]
  · rw [exec_arbiterDecision, State.arbitrate_of_plain hhere ha hu hall hrs (State.urgent_of_plain hplain), State.laneBeat_of_ordinary hh hl,
      State.ordinaryBeat_of_holding hidle hbeats hcredit, ← hup, hw]
  · rw [exec_arbiterDecision, State.arbitrate_of_plain hhere ha hu hall hrs (State.urgent_of_plain hplain), State.laneBeat_of_ordinary hh hl,
      State.ordinaryBeat_of_holding hidle hbeats hcredit, ← hup, hw]
  · rw [exec_arbiterDecision, State.arbitrate_of_plain hhere ha hu hall hrs (State.urgent_of_plain hplain), State.laneBeat_of_ordinary hh hl,
      State.ordinaryBeat, if_pos hidle]
  · rw [exec_arbiterDecision, State.arbitrate_of_plain hhere ha hu hall hrs (State.urgent_of_plain hplain), State.laneBeat_of_locked hh hx hopen,
      State.lockedBeat, if_pos h64]
  · rw [exec_arbiterDecision, State.arbitrate_of_plain hhere ha hu hall hrs (State.urgent_of_plain hplain), State.laneBeat_of_locked hh hx hopen,
      State.lockedBeat, if_neg (Nat.not_le.mpr h64), if_pos (by simp [hidle])]
  · have hnone : (live.filter fun y => y.endsBefore x) = [] := List.filter_eq_nil_iff.mpr fun y hy => by simp [hfirst y hy]
    rw [exec_lockedBoundExpiry, State.lockedBound_of_seq hlive hx, if_neg Bool.false_ne_true, hnone, List.foldl_nil, List.nil_append, List.foldl_cons,
      List.foldl_nil, ho]
    rfl
  · rw [exec_lockedBoundExpiry, State.lockedBound_of_seq hlive hx, if_pos rfl, if_pos (by simpa using hlane)]
  · rw [exec_lockedBoundExpiry, State.lockedBound_of_seq hlive hx, if_pos rfl, if_neg (by simpa using hlanes)]

end Sys2Proof.Machine
end


section

/-! Requests of other chips, and the answers to requests of this one. -/

namespace Sys2Proof.Machine

section
variable {s w : State} {p : Port} {m : Msg} (hw : w = s.wake 3)
include hw

/-! ### What a message of each row does to the device that it wakes -/

theorem exec_readReq : exec (.readReq p m) s = .next (w.unlessEnded (asMop m 0 0x01) fun s => s.readReq p.val (asMop m 0 0x01)) := by
  subst hw
  rfl

theorem exec_winQuery : exec (.winQuery m) s = .next (w.winQuery (asMop m 0 0x02)) := by
  subst hw
  rfl

theorem exec_lockReq : exec (.lockReq p m) s = .next (if w.holdsMsg (asMop m 0 0x03) then
    { w with rein := { w.rein with held := w.rein.held ++ [asMop m 0 0x03] } } else w.lockReq (asMop m 0 0x03)) := by
  subst hw
  rfl

theorem exec_readCpl : exec (.readCpl m) s = .next (w.readCpl (asMop m 2 0x20)) := by
  subst hw
  rfl

theorem exec_winAnswer : exec (.winAnswer m) s = .next (w.winAnswered (asMop m 2 0x21)) := by
  subst hw
  rfl

theorem exec_lockGrant : exec (.lockGrant m) s = .next (w.lockGranted (asMop m 2 0x22)) := by
  subst hw
  rfl

theorem exec_lockBusy : exec (.lockBusy m) s = .next (w.lockBusy (asMop m 2 0x23)) := by
  subst hw
  rfl

theorem exec_barAck : exec (.barAck m) s = .next (w.barAck (asMop m 2 0x24)) := by
  subst hw
  rfl

theorem exec_refuse : exec (.refuse m) s = .next (w.refused (asMop m 2 0x26)) := by
  subst hw
  rfl

end

section
variable {w : State} {x : Msg}

/-! ### Requests (R104, R273 to R275, R308, R346) -/

theorem State.unlessRestart_of_restart (h : w.boot.phase = .restart) (k : State) : w.unlessRestart x k = w.refuse x stABORT_RESET :=
  if_pos (by simp [h])

theorem State.unlessRestart_of_other (h : w.boot.phase ≠ .restart) (k : State) : w.unlessRestart x k = k := if_neg (by simp [h])

/-- The operations that a lock mark's ended sequence refuses. -/
def markable (mop : Nat) : Bool := mop == 0x01 || mop == 0x10 || mop == 0x11

theorem State.unlessEnded_of_ended {y : LockSeq} (h : w.endedHere x = some y) (hl : x.lock = true) (hm : markable x.mop = true) (k : State → State) :
    w.unlessEnded x k = (w.seqClose y.id).refuse x stABORT_TIMEOUT := by
  rw [State.unlessEnded, h]
  exact if_pos (Bool.and_eq_true_iff.mpr ⟨hl, hm⟩)

theorem State.unlessEnded_of_alive (h : w.endedHere x = none ∨ x.lock = false) (k : State → State) : w.unlessEnded x k = k (w.seqDone x) := by
  rw [State.unlessEnded]
  split
  · next y hy =>
    obtain h | h := h
    · simp [h] at hy
    · exact if_neg (by simp [h])
  · rfl

section
variable {v : State} (h : v.boot.phase ≠ .restart)
include h

theorem State.readReq_of_refused {p st : Nat} {u : State} (hcheck : v.inboundCheck p x (min 4096 x.operand) false = (some st, u)) :
    v.readReq p x = u.refuse x st := by
  rw [State.readReq, State.unlessRestart_of_other h]
  dsimp only
  rw [hcheck]

variable {p : Nat} {u : State} (hcheck : v.inboundCheck p x (min 4096 x.operand) false = (none, u))
include hcheck

theorem State.readReq_of_registers (hsp : daSpace x.da = 6) {c : List Byte × State}
    (hc : c = (List.range (ceilDiv (min 4096 x.operand) 4)).foldl (fun (acc : List Byte × State) k =>
      (acc.1 ++ leBytes 4 (acc.2.csrRead 0 (daOff x.da + 4 * k)).1, (acc.2.csrRead 0 (daOff x.da + 4 * k)).2)) ([], u.accept x)) :
    v.readReq p x = c.2.answer x { msgZero with mop := 0x20, data := c.1.take (min 4096 x.operand) } := by
  rw [State.readReq, State.unlessRestart_of_other h]
  dsimp only
  rw [hcheck]
  dsimp only
  rw [if_pos hsp, hc]

theorem State.readReq_of_data (hsp : daSpace x.da ≠ 6) {d : List Byte} {z : State}
    (hread : (u.accept x).memRead (daSpace x.da) (daOff x.da) (min 4096 x.operand) (256 * x.tenant + 0x40 + p) 0 0 = (some d, z)) :
    v.readReq p x = z.answer x { msgZero with mop := 0x20, data := d } := by
  rw [State.readReq, State.unlessRestart_of_other h]
  dsimp only
  rw [hcheck]
  dsimp only
  rw [if_neg hsp, hread]

theorem State.readReq_of_uncorrectable (hsp : daSpace x.da ≠ 6) {z : State}
    (hread : (u.accept x).memRead (daSpace x.da) (daOff x.da) (min 4096 x.operand) (256 * x.tenant + 0x40 + p) 0 0 = (none, z)) :
    v.readReq p x = z.answer x { msgZero with mop := 0x20, status := stFAULT_ECC } := by
  rw [State.readReq, State.unlessRestart_of_other h]
  dsimp only
  rw [hcheck]
  dsimp only
  rw [if_neg hsp, hread]

end

theorem State.lockReq_of_none (h : w.boot.phase ≠ .restart) (hn : w.poolLock x.tenant (x.operand % 256) = none) : w.lockReq x = w.refuse x stREJ_BOUNDS := by
  rw [State.lockReq, State.unlessRestart_of_other h]
  dsimp only
  rw [hn]

theorem State.lockReq_of_lock (h : w.boot.phase ≠ .restart) {n : Nat} (hn : w.poolLock x.tenant (x.operand % 256) = some n) {k : LockWaiter}
    (hk : k = ⟨x.src, x.rtag, x.operand / 256 % 8, w.cad.time⟩) : w.lockReq x =
    if (w.lock n).held then w.setLock n { w.lock n with queue := (w.lock n).queue ++ [k] } else w.grantRemote x.tenant n (x.operand % 256) k := by
  rw [State.lockReq, State.unlessRestart_of_other h]
  dsimp only
  rw [hn, hk]

/-! ### Answers (R104, R213, R275, R276, R279, R298) -/

theorem State.lockGranted_of_none {u : State} (h : w.takeReq x = (none, u)) :
    w.lockGranted x = u.vc1 x.src { msgZero with mop := 0x14, tenant := x.tenant, operand := x.operand % 256 } none := by
  rw [State.lockGranted, h]
  rfl

theorem State.lockGranted_of_req {r : Req} {u : State} {c : Cmd} (h : w.takeReq x = (some r, u)) (hc : u.cmd? r.cmd = some c) : w.lockGranted x =
    if c.lockTry == .homeWait then
      (u.setCmd (if bit x.operand 8 then { c with warn := putBit c.warn wLOCK_BROKEN true } else c)).acquired
        (if bit x.operand 8 then { c with warn := putBit c.warn wLOCK_BROKEN true } else c)
    else u := by
  rw [State.lockGranted, h]
  dsimp only [Option.bind_some]
  rw [hc]

/-- The command of a LOCK_BUSY with its backoff. -/
def Cmd.backedOff (c : Cmd) (at_ : Nat) : Cmd := { c with retry := min 255 (c.retry + 1), lockTry := .backoff at_ }

theorem State.lockBusy_of_none {u : State} (h : w.takeReq x = (none, u)) : w.lockBusy x = u := by
  rw [State.lockBusy, h]
  rfl

theorem State.lockBusy_of_req {r : Req} {u : State} {c : Cmd} (h : w.takeReq x = (some r, u)) (hc : u.cmd? r.cmd = some c) : w.lockBusy x =
    if x.src < u.chip then
      ((u.draw.setCmd (c.backedOff (u.cad.time + 1000 * (u.freeVal.toNat % 16 + 1)))).stick F.ARB_LRETRY_LRETRY).releaseLock c.tenant (lkLock c.pkt) false
    else u.vc0 x.src { msgZero with
        mop := 0x03, tenant := c.tenant, cmdTag := c.id % 65536, operand := lkLock c.pkt + 2 ^ 8 * c.queue } c.id 0 0 := by
  rw [State.lockBusy, h]
  dsimp only [Option.bind_some]
  rw [hc]
  rfl

theorem State.takeReq_asMop {m : Msg} {vc k : Nat} : w.takeReq (asMop m vc k) = w.takeReq m := rfl

theorem State.readCpl_of_none {u : State} (h : w.takeReq x = (none, u)) : w.readCpl x = u := by rw [State.readCpl, h]

theorem State.readCpl_of_req {r : Req} {u : State} (h : w.takeReq x = (some r, u)) : w.readCpl x =
    if x.status ≠ 0 then u.fail r.cmd x.status
    else u.modCmd r.cmd fun (c : Cmd) => { c with fetched := overlay c.fetched (cellsAt r.off (x.data.take r.len)) } := by
  rw [State.readCpl, h]
  exact ite_of_iff bne_iff_ne rfl rfl

theorem State.winAnswered_of_none {u : State} (h : w.takeReq x = (none, u)) : w.winAnswered x = u := by rw [State.winAnswered, h]

theorem State.winAnswered_of_req {r : Req} {u : State} (h : w.takeReq x = (some r, u)) :
    w.winAnswered x = u.descAnswer r.cmd (winOfAnswer x) := by rw [State.winAnswered, h]

theorem State.barAck_of_none (h : w.cmdOfTag x.rtag = none) : w.barAck x = w := by rw [State.barAck, h]

theorem State.barAck_of_cmd {c : Cmd} (h : w.cmdOfTag x.rtag = some c) : w.barAck x =
    if c.op ≠ 0x22 ∨ c.phase ≠ .front then w
    else if baWait c.pkt = false ∨ c.cursor = 1 + b2n (bit x.operand 16) then w.fail c.id stDONE
    else w.setCmd { c with sense := some (bit x.operand 16) } := by
  rw [State.barAck, h]
  exact ite_of_iff (by simp [bne_iff_ne]) rfl (ite_of_iff (by simp) rfl rfl)

/-- What a refusal takes off command `c`: what it reads, waits for and asks its lock's home for. -/
def State.unasked (w : State) (c : Cmd) : State :=
  if c.op = 0x23 ∧ c.lockTry = .homeWait then ((w.dropReads c.id).dropWaiting c.id).releaseLock c.tenant (lkLock c.pkt) false
  else (w.dropReads c.id).dropWaiting c.id

theorem State.refused_of_none (h : w.cmdOfTag x.cmdTag = none) : w.refused x = w := by rw [State.refused, h]

theorem State.refused_of_ended {c : Cmd} {y : LockSeq} (h : w.cmdOfTag x.cmdTag = some c) (hy : w.endedThere x c = some y) :
    w.refused x = w.endByBound y false := by
  rw [State.refused, h]
  dsimp only
  rw [hy]

theorem State.refused_of_alive {c : Cmd} (h : w.cmdOfTag x.cmdTag = some c) (hy : w.endedThere x c = none) : w.refused x =
    if c.op = 0x23 then ((w.unasked c).finish c.id x.status 0).breakSeq c.id stABORT_TIMEOUT else (w.unasked c).finish c.id x.status 0 := by
  have hun : (if c.op = 0x23 && c.lockTry == .homeWait then ((w.dropReads c.id).dropWaiting c.id).releaseLock c.tenant (lkLock c.pkt) false
      else (w.dropReads c.id).dropWaiting c.id) = w.unasked c := ite_of_iff (by simp) rfl rfl
  rw [State.refused, h]
  dsimp only
  rw [hy, hun]

end

/-- Settles O37. -/
theorem requestsAndAnswersMeet : Obligations.RequestsAndAnswersMeet := by
  unfold Obligations.RequestsAndAnswersMeet
  refine ⟨fun s p m w hw => ⟨fun x v hx hv => ⟨fun y hy hl => ?_, fun halive => ⟨fun hrst => ?_, fun hrst r u hcheck => ⟨fun st hr => ?_, fun hr hsp c hc => ?_,
      fun hr hsp l z hread => ⟨fun d hl => ?_, fun hl => ?_⟩⟩⟩⟩, fun hrst => ?_, fun hrst => ?_, fun hheld => ?_, fun hheld hrst => ?_,
      fun hheld hrst => ⟨fun hn => ?_, fun n hn k hk => ⟨fun hlock => ?_, fun hlock => ?_⟩⟩⟩,
    fun s m w hw => ⟨fun u hu => ⟨?_, ?_, ?_, ?_⟩, fun r u hu => ⟨fun hst => ?_, fun hst => ?_, ?_⟩, fun r u c hu hc => ⟨fun htry d hd => ?_, fun htry => ?_, fun hsrc => ?_, fun hsrc => ?_⟩,
      fun hnone => ?_, fun d hd => ⟨fun hno => ?_, fun hop hphase hdone => ?_, fun hop hphase hwait hcur => ?_⟩, fun hnone => ?_,
      fun d hd => ⟨fun x hx => ?_, fun hx u v hu hv => ?_⟩⟩⟩
  · rw [exec_readReq hw, ← hx, State.unlessEnded_of_ended hy (hx ▸ hl) (hx ▸ rfl)]
  · rw [exec_readReq hw, ← hx, State.unlessEnded_of_alive (hx ▸ halive), ← hv, State.readReq, State.unlessRestart_of_restart hrst]
  · rw [exec_readReq hw, ← hx, State.unlessEnded_of_alive (hx ▸ halive), ← hv]
    subst hr hx
    exact congrArg _ (State.readReq_of_refused hrst hcheck)
  · rw [exec_readReq hw, ← hx, State.unlessEnded_of_alive (hx ▸ halive), ← hv]
    subst hr hx
    exact congrArg _ (State.readReq_of_registers hrst hcheck hsp hc)
  · rw [exec_readReq hw, ← hx, State.unlessEnded_of_alive (hx ▸ halive), ← hv]
    subst hr hx hl
    exact congrArg _ (State.readReq_of_data hrst hcheck hsp hread)
  · rw [exec_readReq hw, ← hx, State.unlessEnded_of_alive (hx ▸ halive), ← hv]
    subst hr hx hl
    exact congrArg _ (State.readReq_of_uncorrectable hrst hcheck hsp hread)
  · rw [exec_winQuery hw, State.winQuery, State.unlessRestart_of_restart hrst]
  · rw [exec_winQuery hw, State.winQuery, State.unlessRestart_of_other hrst]
  · rw [exec_lockReq hw, if_pos hheld]
  · rw [exec_lockReq hw, if_neg (ne_true_of_eq_false hheld), State.lockReq, State.unlessRestart_of_restart hrst]
  · rw [exec_lockReq hw, if_neg (ne_true_of_eq_false hheld), State.lockReq_of_none (x := asMop m 0 0x03) hrst hn]
  · rw [exec_lockReq hw, if_neg (ne_true_of_eq_false hheld), State.lockReq_of_lock (x := asMop m 0 0x03) hrst hn hk, if_pos hlock]
  · rw [exec_lockReq hw, if_neg (ne_true_of_eq_false hheld), State.lockReq_of_lock (x := asMop m 0 0x03) hrst hn hk, if_neg (ne_true_of_eq_false hlock)]
    rfl
  · rw [exec_readCpl hw, State.readCpl_of_none (State.takeReq_asMop.trans hu)]
  · rw [exec_winAnswer hw, State.winAnswered_of_none (State.takeReq_asMop.trans hu)]
  · rw [exec_lockBusy hw, State.lockBusy_of_none (State.takeReq_asMop.trans hu)]
  · rw [exec_lockGrant hw, State.lockGranted_of_none (State.takeReq_asMop.trans hu)]
    rfl
  · rw [exec_readCpl hw, State.readCpl_of_req (State.takeReq_asMop.trans hu)]
    exact congrArg _ (if_pos hst)
  · rw [exec_readCpl hw, State.readCpl_of_req (State.takeReq_asMop.trans hu)]
    exact congrArg _ (if_neg (Classical.not_not.mpr hst))
  · rw [exec_winAnswer hw, State.winAnswered_of_req (State.takeReq_asMop.trans hu)]
  · rw [exec_lockGrant hw, State.lockGranted_of_req (State.takeReq_asMop.trans hu) hc, if_pos (by simp [htry]), hd]
    rfl
  · rw [exec_lockGrant hw, State.lockGranted_of_req (State.takeReq_asMop.trans hu) hc]
    exact congrArg _ (if_neg fun h => htry (eq_of_beq h))
  · refine ⟨u.draw.setCmd (c.backedOff (u.cad.time + 1000 * (u.freeVal.toNat % 16 + 1))), u.draw, _, ?_, rfl, rfl, ⟨u.freeVal.toNat % 16 + 1, by omega, by omega, rfl⟩, rfl⟩
    rw [exec_lockBusy hw, State.lockBusy_of_req (State.takeReq_asMop.trans hu) hc]
    exact congrArg _ (if_pos hsrc)
  · rw [exec_lockBusy hw, State.lockBusy_of_req (State.takeReq_asMop.trans hu) hc]
    exact congrArg _ (if_neg (Nat.not_lt.mpr hsrc))
  · rw [exec_barAck hw, State.barAck_of_none (x := asMop m 2 0x24) hnone]
  · rw [exec_barAck hw, State.barAck_of_cmd (x := asMop m 2 0x24) hd, if_pos hno]
  · rw [exec_barAck hw, State.barAck_of_cmd (x := asMop m 2 0x24) hd, if_neg (by simp [hop, hphase])]
    exact congrArg _ (if_pos hdone)
  · rw [exec_barAck hw, State.barAck_of_cmd (x := asMop m 2 0x24) hd, if_neg (by simp [hop, hphase])]
    exact congrArg _ (if_neg (not_or.mpr ⟨by simp [hwait], hcur⟩))
  · rw [exec_refuse hw, State.refused_of_none (x := asMop m 2 0x26) hnone]
  · rw [exec_refuse hw, State.refused_of_ended (x := asMop m 2 0x26) hd hx]
  · rw [exec_refuse hw, State.refused_of_alive (x := asMop m 2 0x26) hd hx, hv, hu]
    rfl

end Sys2Proof.Machine
end


section

/-! Posted messages, pair by pair and epoch by epoch. -/

namespace Sys2Proof.Machine

section
variable {s w : State} {M : Msg} {port : Nat} (hw : w = s.wake 3) (hmop : M.mop ≠ 0x15)
include hw hmop

/-! ### A VC1 message in its pair (R347, R348) -/

theorem State.vc1In_of_otherEpoch (h : M.epoch ≠ (w.rxPair M.src).epoch) : s.vc1In port M =
    if ((w.rxPair M.src).epoch + 256 - M.epoch) % 256 ≤ 127 then w.stick F.REI_OLD_OLD else w := by
  subst hw
  rw [State.vc1In]
  dsimp only
  rw [if_neg hmop, if_pos (bne_iff_ne.mpr h)]

variable (hepoch : M.epoch = (w.rxPair M.src).epoch)
include hepoch

theorem State.vc1In_of_gap (h : (w.rxPair M.src).gap = true) : s.vc1In port M = w := by
  subst hw
  rw [State.vc1In]
  dsimp only
  rw [if_neg hmop, if_neg (by simp [hepoch]), if_pos h]

variable (hgap : (w.rxPair M.src).gap = false)
include hgap

theorem State.vc1In_of_newGap (h : M.eseq ≠ (w.rxPair M.src).expect) : s.vc1In port M =
    (w.setRx M.src { w.rxPair M.src with gap := true }).answer M { msgZero with mop := 0x28 } := by
  subst hw
  rw [State.vc1In]
  dsimp only
  rw [if_neg hmop, if_neg (by simp [hepoch]), if_neg (ne_true_of_eq_false hgap), if_pos (bne_iff_ne.mpr h)]

/-- The pair of a message in turn after it. -/
def RxPair.taken (x : RxPair) (time : Nat) (M : Msg) : RxPair :=
  { x with expect := (x.expect + 1) % 65536, owedSince := some (x.owedSince.getD time)
           refused := if M.cmdLast then x.refused.filter (· != M.cmdTag) else x.refused }

/-- The effect of a message in turn of pair `x`, at state `u`. -/
def State.inTurn (u : State) (x : RxPair) (port : Nat) (M : Msg) : State :=
  if x.refused.contains M.cmdTag && (M.mop == 0x10 || M.mop == 0x11) then u
  else if u.holdsMsg M then { u with rein := { u.rein with held := u.rein.held ++ [M] } }
  else u.unlessEnded M fun z => z.vc1Effect port M

theorem State.vc1In_of_turn (h : M.eseq = (w.rxPair M.src).expect) {u v : State}
    (hu : u = w.setRx M.src ((w.rxPair M.src).taken w.cad.time M)) (hv : v = u.inTurn (w.rxPair M.src) port M) :
    s.vc1In port M = if M.ackReq then v.sendAck M.src else v := by
  subst hw hv hu
  rw [State.vc1In]
  dsimp only
  rw [if_neg hmop, if_neg (by simp [hepoch]), if_neg (ne_true_of_eq_false hgap), if_neg (by simp [h])]
  rfl

end

section
variable {u : State} {M : Msg} {port : Nat}

theorem State.vc1Effect_of_restart (h : u.boot.phase = .restart) : u.vc1Effect port M = u.refuse M stABORT_RESET := by
  rw [State.vc1Effect, State.unlessRestart_of_restart h]

/-! ### Openings of an epoch (R351) -/

/-- A pair at the start of epoch `n`. -/
def RxPair.opened (x : RxPair) (n : Nat) : RxPair := { x with epoch := n, expect := 1, gap := false, refused := [] }

/-- The writes of an earlier epoch forgotten and the new one shown. -/
def State.epochNoted (u : State) (M : Msg) : State :=
  ({ u with rein := { u.rein with accepted := u.rein.accepted.filter (·.chip != M.src) } }.set F.REI_EPOCH_INFO_SRC M.src).set F.REI_EPOCH_INFO_EPOCH M.epoch

theorem State.epochNoted_rein : (u.epochNoted M).rein = { u.rein with accepted := u.rein.accepted.filter (·.chip != M.src) } := rfl

theorem State.epochNoted_frame : u.epochNoted M = { u with regs := (u.epochNoted M).regs, rein := (u.epochNoted M).rein } := rfl

/-- An epoch is newer by 1 to 127, modulo 256. -/
def newer (new old : Nat) : Prop := 1 ≤ (new + 256 - old) % 256 ∧ (new + 256 - old) % 256 ≤ 127

theorem State.epochOpen_of_newer (h : newer M.epoch (u.rxPair M.src).epoch) : u.epochOpen M =
    (((u.setRx M.src ((u.rxPair M.src).opened M.epoch)).epochNoted M).stickIrq F.REI_LINK_EPOCH_LINK_EPOCH 12).sendAck M.src := by
  rw [State.epochOpen]
  dsimp only
  rw [if_pos (by simpa [newer] using h)]
  rfl

theorem State.epochOpen_of_old (h : ¬newer M.epoch (u.rxPair M.src).epoch) : u.epochOpen M = u.stick F.REI_OLD_OLD := by
  rw [State.epochOpen]
  exact if_neg (by simpa [newer] using h)

/-! ### Requests without an answer (R350) -/

theorem State.requestTimeout_of_none {tag : Nat} (h : u.rein.reqs.find? (·.tag == tag) = none) : u.requestTimeout tag = u := by
  rw [State.requestTimeout, h]

/-- The request tagged `tag` taken from those that wait. -/
def State.unrequested (u : State) (tag : Nat) : State := { u with rein := { u.rein with reqs := u.rein.reqs.filter (·.tag != tag) } }

section
variable {tag : Nat} {r : Req} {v : State} (h : u.rein.reqs.find? (·.tag == tag) = some r)
  (hv : v = (u.advance (r.at_ + 1000 * u.get F.REI_REQ_TIMEOUT_US)).unrequested tag)
include h hv

theorem State.requestTimeout_of_gone (hc : v.cmd? r.cmd = none) : u.requestTimeout tag = v := by
  subst hv
  unfold State.unrequested at hc
  rw [State.requestTimeout, h]
  dsimp only
  rw [hc]
  rfl

theorem State.requestTimeout_of_cmd {c : Cmd} (hc : v.cmd? r.cmd = some c) : u.requestTimeout tag =
    if c.op = 0x23 ∧ c.lockTry = .homeWait then
      ((v.releaseLock c.tenant (lkLock c.pkt) false).fail c.id stFAULT_LINK).breakSeq c.id stABORT_TIMEOUT
    else v.fail c.id stFAULT_LINK := by
  subst hv
  unfold State.unrequested at hc ⊢
  rw [State.requestTimeout, h]
  dsimp only
  rw [hc]
  exact ite_of_iff (by simp) rfl rfl

end

/-- A message with effect in its pair: its instruction runs `vc1In` and, a WRITE, the register writes it left. -/
theorem exec_posted {s : State} {p : Port} {m : Msg} {i : Instr} {k : Nat} {fin : State → State}
    (h : (i, k, fin) ∈ ([(.write p m, 0x10, State.csrSettle), (.reinSignal p m, 0x11, id), (.barArrive p m, 0x12, id),
        (.phaseDone p m, 0x13, id), (.reinLockRelease p m, 0x14, id), (.staleNotice p m, 0x16, id)] : List (Instr × Nat × (State → State)))) :
    exec i s = .next (fin (s.vc1In p.val (asMop m 1 k))) ∧ k ≠ 0x15 := by
  simp only [List.mem_cons, List.not_mem_nil, or_false, Prod.mk.injEq] at h
  obtain ⟨rfl, rfl, rfl⟩ | ⟨rfl, rfl, rfl⟩ | ⟨rfl, rfl, rfl⟩ | ⟨rfl, rfl, rfl⟩ | ⟨rfl, rfl, rfl⟩ | ⟨rfl, rfl, rfl⟩ := h
  all_goals exact ⟨rfl, by decide⟩

end

/-! ### Acknowledgements and the losses of a pair (R344, R347, R349) -/

section
variable {s w : State} {m : Msg} (hw : w = s.wake 3)
include hw

theorem exec_e2eAck : exec (.e2eAck m) s = .next (w.e2eAck (asMop m 2 0x25)) := by
  subst hw
  rfl

theorem exec_pathLost : exec (.pathLost m) s = .next (w.raiseEpoch (m.operand % 64)) := by
  subst hw
  rfl

theorem exec_gapNak : exec (.gapNak m) s = .next (w.raiseEpoch m.src) := by
  subst hw
  rfl

theorem exec_epochOpen {p : Port} : exec (.epochOpen p m) s = .next (w.epochOpen (asMop m 1 0x15)) := by
  subst hw
  have hopen : s.vc1In p.val (asMop m 1 0x15) = (s.wake 3).epochOpen (asMop m 1 0x15) := by
    rw [State.vc1In]
    exact if_pos rfl
  exact congrArg Host.Outcome.next hopen

end

section
variable {s : State}

theorem State.e2eAck_of_otherEpoch {m : Msg} (h : m.epoch ≠ s.get (F.REI_TXE_EPOCH m.src)) : s.e2eAck m = s := if_pos (bne_iff_ne.mpr h)

theorem State.ackTimer_of_owed {d t : Nat} (h : (s.rxPair d).owedSince = some t) : s.ackTimer d = (s.advance (t + 4000)).sendAck d := by
  rw [State.ackTimer, h]

theorem State.ackTimer_of_none {d : Nat} (h : (s.rxPair d).owedSince = none) : s.ackTimer d = s := by rw [State.ackTimer, h]

theorem State.e2eTimeout_of_cons {d : Nat} {x : TxMsg} {l : List TxMsg} (h : (s.txPair d).sent = x :: l) :
    s.e2eTimeout d = (s.advance (x.at_ + 1000 * s.get F.REI_E2E_TIMEOUT_US + 1)).raiseEpoch d := by rw [State.e2eTimeout, h]

theorem State.e2eTimeout_of_nil {d : Nat} (h : (s.txPair d).sent = []) : s.e2eTimeout d = s := by rw [State.e2eTimeout, h]

theorem exec_e2eAckTimer {d : Chip} : exec (.e2eAckTimer d) s = .next (s.ackTimer d.val) := rfl

theorem exec_e2eTimeout {d : Chip} : exec (.e2eTimeout d) s = .next (s.e2eTimeout d.val) := rfl

theorem exec_requestTimeout {tag : Nat} : exec (.requestTimeout tag) s = .next (s.requestTimeout tag) := rfl

end

/-- Settles O38. -/
theorem postedMessagesKeepOrderAndEpochs : Obligations.PostedMessagesKeepOrderAndEpochs := by
  unfold Obligations.PostedMessagesKeepOrderAndEpochs
  refine ⟨fun s p m w x hw hx => ⟨fun i k fin hi M hM => ⟨fun h => ?_, fun he hg => ?_, fun he hg hs => ?_, fun he hg hs u v hu hv => ?_⟩,
      fun u M k => ⟨fun h => State.unlessEnded_of_alive h k, fun y hy hl hm => State.unlessEnded_of_ended hy hl ?_ k⟩,
      fun u h M => State.vc1Effect_of_restart h, fun u h => ⟨?_, ?_, ?_, ?_, ?_, ?_⟩⟩,
    fun s p m d tag w hw => ⟨fun h => ?_, fun h e x done u v he hx hdone hu hv => ?_, fun t ht => ?_, fun hnone => ?_, exec_pathLost hw, exec_gapNak hw,
      fun x l hl => ?_, fun hl => ?_, fun hr => ?_, fun r u hr hu v hv => ⟨fun hc => ?_, fun c hc hno => ?_, fun c hc hop htry => ?_⟩, fun x hx h1 h2 => ?_, fun x hx h => ?_⟩⟩
  · obtain ⟨hexec, hk⟩ := exec_posted (s := s) hi
    subst hM hx
    rw [hexec, State.vc1In_of_otherEpoch (M := asMop m 1 k) hw hk h]
    rfl
  · obtain ⟨hexec, hk⟩ := exec_posted (s := s) hi
    subst hM hx
    rw [hexec, State.vc1In_of_gap (M := asMop m 1 k) hw hk he hg]
  · obtain ⟨hexec, hk⟩ := exec_posted (s := s) hi
    subst hM hx
    rw [hexec, State.vc1In_of_newGap (M := asMop m 1 k) hw hk he hg hs]
    rfl
  · obtain ⟨hexec, hk⟩ := exec_posted (s := s) hi
    subst hM hx
    rw [hexec, State.vc1In_of_turn (M := asMop m 1 k) hw hk he hg hs hu hv]
    rfl
  · obtain hm | hm := hm <;> rw [hm] <;> rfl
  · exact State.unlessRestart_of_other h _
  · exact State.unlessRestart_of_other h _
  · exact State.unlessRestart_of_other h _
  · exact State.unlessRestart_of_other h _
  · exact State.unlessRestart_of_other h _
  · exact State.unlessRestart_of_other h _
  · rw [exec_e2eAck hw]
    exact congrArg _ (State.e2eAck_of_otherEpoch (m := asMop m 2 0x25) h)
  · rw [exec_e2eAck hw, hv, hu, hdone, hx, he]
    exact congrArg _ (if_neg (by simp [h, asMop]))
  · rw [exec_e2eAckTimer, State.ackTimer_of_owed ht]
  · rw [exec_e2eAckTimer, State.ackTimer_of_none hnone]
  · rw [exec_e2eTimeout, State.e2eTimeout_of_cons hl]
  · rw [exec_e2eTimeout, State.e2eTimeout_of_nil hl]
  · rw [exec_requestTimeout, State.requestTimeout_of_none hr]
  · subst hu
    rw [exec_requestTimeout, State.requestTimeout_of_gone hr hv hc]
  · subst hu
    rw [exec_requestTimeout, State.requestTimeout_of_cmd hr hv hc, if_neg hno]
  · subst hu
    rw [exec_requestTimeout, State.requestTimeout_of_cmd hr hv hc, if_pos ⟨hop, htry⟩]
  · subst hx
    refine ⟨_, State.epochNoted (w.setRx m.src ((w.rxPair m.src).opened m.epoch)) (asMop m 1 0x15), ?_, rfl, State.epochNoted_rein, ?_⟩
    · rw [exec_epochOpen hw, State.epochOpen_of_newer (M := asMop m 1 0x15) ⟨h1, h2⟩]
      rfl
    · exact State.epochNoted_frame
  · subst hx
    rw [exec_epochOpen hw, State.epochOpen_of_old]
    rintro ⟨h1, h2⟩
    change 1 ≤ (m.epoch + 256 - (w.rxPair m.src).epoch) % 256 at h1
    change (m.epoch + 256 - (w.rxPair m.src).epoch) % 256 ≤ 127 at h2
    omega

end Sys2Proof.Machine
end


section

/-! The domain: its master, its routes and its time. -/

namespace Sys2Proof.Machine

/-! ### Masters (R46, R355) -/

/-- An announcement that does not name `m`. -/
def domNot (m : Nat) : Option (List Nat) → Option (List Nat)
  | some d => if d.getD 5 63 == m then none else some d
  | none => none

theorem ne_of_domNot {m : Nat} {o : Option (List Nat)} {d : List Nat} (h : domNot m o = some d) : d.getD 5 63 ≠ m := by
  cases o with
  | none => cases h
  | some e =>
    rw [domNot] at h
    split at h
    · cases h
    · next hne =>
      cases h
      simpa using hne

section
variable {s : State}

/-- No port keeps an announcement of the master that is lost. -/
def State.masterForgotten (s : State) : State :=
  { s with rein := { s.rein with ports := s.rein.ports.map fun (p : Nat × PortSt) => (p.1, { p.2 with dom := domNot s.rein.master p.2.dom }) } }

theorem kvFind_map_snd {α : Type} (f : α → α) (l : List (Nat × α)) (k : Nat) :
    kvFind (l.map fun p => (p.1, f p.2)) k = (kvFind l k).map f := by
  simp only [kvFind, List.find?_map, Option.map_map]
  rfl

theorem State.masterForgotten_dom {k : Nat} {d : List Nat} (h : (s.masterForgotten.port k).dom = some d) : d.getD 5 63 ≠ s.rein.master := by
  rw [State.port, State.masterForgotten, kvFind_map_snd (fun p : PortSt => { p with dom := domNot s.rein.master p.dom })] at h
  cases hp : kvFind s.rein.ports k with
  | none =>
    rw [hp] at h
    cases h
  | some p =>
    rw [hp] at h
    exact ne_of_domNot h

theorem exec_masterLoss : exec .masterLoss s = .next (if s.rein.master = s.chip then s.masterForgotten
    else (if s.get F.CAD_STATUS_SOURCE = 4 then s.masterForgotten.enterHoldover else s.masterForgotten).electBy true) := rfl

theorem exec_domainAnnounce : exec .domainAnnounce s = .next ((List.range 12).foldl (fun (s : State) k => s.sendVc3 k s.domMsg) s.elect) := rfl

/-- The announcement `m` kept at port `n`. -/
def State.domKept (s : State) (n : Nat) (m : Msg) : State := s.setPort n { s.port n with dom := some (domFields m) }

/-- A neighbour with this device's chip ID is flagged, and the one with the lower serial number goes on with VC3 only. -/
def State.duplicated (v : State) (serial : Nat) : State :=
  if serial < (v.stickIrq F.REI_DUPID_DUPID 12).get64 F.REI_SERIAL_LO then
    { v.stickIrq F.REI_DUPID_DUPID 12 with rein := { (v.stickIrq F.REI_DUPID_DUPID 12).rein with vc3Only := true } }
  else v.stickIrq F.REI_DUPID_DUPID 12

theorem exec_domain {p : Port} {m : Msg} : exec (.domain p m) s = .next (State.elect
    (if (domFields m).getD 0 63 = s.chip ∧ (domFields m).getD 1 0 ≠ s.get64 F.REI_SERIAL_LO ∧ s.on F.REI_ID_VALID = true then
      (s.domKept p.val m).duplicated ((domFields m).getD 1 0) else s.domKept p.val m)) := by
  have hexec : exec (.domain p m) s = .next (State.elect
      (if (domFields m).getD 0 63 = s.chip && (domFields m).getD 1 0 != s.get64 F.REI_SERIAL_LO && s.on F.REI_ID_VALID then
        (s.domKept p.val m).duplicated ((domFields m).getD 1 0) else s.domKept p.val m)) := rfl
  rw [hexec]
  exact congrArg (fun v => Host.Outcome.next (State.elect v)) (ite_of_iff (by simp [and_assoc]) rfl rfl)

theorem State.serial_stickIrq (v : State) : (v.stickIrq F.REI_DUPID_DUPID 12).get64 F.REI_SERIAL_LO = v.get64 F.REI_SERIAL_LO := by
  have hrd : ∀ b, b ≠ F.REI_DUPID_DUPID.addr → b ≠ F.REI_DUPID_DUPID.cnt.addr → (v.stickIrq F.REI_DUPID_DUPID 12).rd b = v.rd b := fun b h h' => by
    rw [State.stickIrq, State.rd, (State.irq_frame _ _).2.1]
    exact (State.rd_set_other (v.set F.REI_DUPID_DUPID 1) F.REI_DUPID_DUPID.cnt _ b h').trans (State.rd_set_other v F.REI_DUPID_DUPID _ b h)
  rw [State.get64, State.get64, hrd _ (by decide) (by decide), hrd _ (by decide) (by decide)]

section
variable {n serial : Nat} {m : Msg}

theorem State.duplicated_of_higher (h : s.get64 F.REI_SERIAL_LO < serial) :
    (s.domKept n m).duplicated serial = (s.domKept n m).stickIrq F.REI_DUPID_DUPID 12 :=
  if_neg fun hlt => Nat.lt_asymm h (by rwa [State.serial_stickIrq] at hlt)

theorem State.duplicated_of_lower (h : serial < s.get64 F.REI_SERIAL_LO) : (s.domKept n m).duplicated serial =
    { (s.domKept n m).stickIrq F.REI_DUPID_DUPID 12 with rein := { ((s.domKept n m).stickIrq F.REI_DUPID_DUPID 12).rein with vc3Only := true } } :=
  if_pos (by rwa [State.serial_stickIrq])

end

theorem State.reselect_of_some {k : Nat} (h : (List.range 12).find? (fun k => s.on (F.REI_P_STATUS_UPSTREAM k)) = some k) :
    s.reselect = ((s.advance ((s.port k).doneAt + 20000000)).setPort k { s.port k with dom := none }).elect := by
  rw [State.reselect, h]

theorem State.reselect_of_none (h : (List.range 12).find? (fun k => s.on (F.REI_P_STATUS_UPSTREAM k)) = none) : s.reselect = s.elect := by
  rw [State.reselect, h]

/-! ### The time of the master (R47, R354) -/

/-- What an exchange that finds `ns` does to rack time. -/
def State.timed (v : State) (ns : Int) : State := if v.cad.joinFirst then v.joinBy ns else if v.cad.joinHold then v else v.slewTo ns

/-- ALIGNED after an exchange, with its flag. -/
def State.aligned (v : State) (near : Bool) : State :=
  (if v.on F.CAD_STATUS_ALIGNED && !near && !v.cad.joining then v.stickIrq F.CAD_ALIGN_ALIGN 15 else v).set F.CAD_STATUS_ALIGNED (b2n near)

/-- The end of an exchange with offset `off`. -/
def State.exchangeEnd (v : State) (off : Int) : State :=
  if decide (off.natAbs ≤ 300) && !v.cad.joinHold then
    { v.aligned (decide (off.natAbs ≤ 300) && !v.cad.joinHold) with
      cad := { (v.aligned (decide (off.natAbs ≤ 300) && !v.cad.joinHold)).cad with joining := false } }
  else v.aligned (decide (off.natAbs ≤ 300) && !v.cad.joinHold)

/-- The port of an exchange that is complete, of a device that follows its master. -/
def State.exchanged (s : State) (n : Nat) : State := (s.setPort n { s.port n with doneAt := s.cad.time }).followMaster

theorem State.timeDresp_of_offset {n t4 : Nat} (hup : s.on (F.REI_P_STATUS_UPSTREAM n) = true) (hsp : (s.port n).spoilt = false) :
    s.timeDresp n t4 = ((s.exchanged n).timed (-((s.exchangeOffset n t4 + 10) / 20))).exchangeEnd (s.exchangeOffset n t4) := by
  rw [State.timeDresp]
  dsimp only
  rw [if_neg (by simp [hup]), if_neg (by simp [hsp])]
  rfl

theorem State.irq_rein (vec : Nat) : (s.irq vec).rein = s.rein := by
  unfold State.irq State.msix
  dsimp only
  (repeat' split) <;> rfl

theorem State.stickIrq_rein (f : Fld) (vec : Nat) : (s.stickIrq f vec).rein = s.rein := State.irq_rein vec

theorem State.followMaster_regsOnly : s.RegsOnly s.followMaster := by
  unfold State.followMaster
  split
  · rfl
  · exact ((s.set_regsOnly _ _).trans (State.set_regsOnly _ _ _)).trans (State.set_regsOnly _ _ _)

theorem State.source_followMaster : s.followMaster.get F.CAD_STATUS_SOURCE = 4 := by
  unfold State.followMaster
  split
  · next h => exact h
  · exact (State.get_set_apart (by decide) (by decide)).trans ((State.get_set_apart (by decide) (by decide)).trans
      (State.get_set_same _ _ _ (by unfold Fld.inWord; decide)))

section
variable {b : Bool} {off : Int}

theorem State.aligned_parts : (s.aligned b).cad = s.cad ∧ (s.aligned b).mem = s.mem ∧ (s.aligned b).rein = s.rein := by
  unfold State.aligned
  simp only [State.set_cad, State.set_mem, State.set_rein]
  split
  · exact ⟨(s.stickIrq_parts _ _).2.2.2, State.irq_mem _ _, State.stickIrq_rein _ _⟩
  · exact ⟨rfl, rfl, rfl⟩

theorem State.on_aligned : (s.aligned b).on F.CAD_STATUS_ALIGNED = b := by
  cases b
  · exact State.on_set_zero (by decide)
  · exact State.on_set_one (by decide) rfl

theorem State.source_aligned : (s.aligned b).get F.CAD_STATUS_SOURCE = s.get F.CAD_STATUS_SOURCE := by
  refine (State.get_set_apart (by decide) (by decide)).trans ?_
  split
  · rw [State.stickIrq, State.get_irq]
    exact State.get_stick_other s F.CAD_ALIGN_ALIGN F.CAD_STATUS_SOURCE (by decide)
  · rfl

/-- The exchange found the device aligned. -/
def State.near (v : State) (off : Int) : Bool := decide (off.natAbs ≤ 300) && !v.cad.joinHold

theorem State.exchangeEnd_cad : (s.exchangeEnd off).cad = { s.cad with joining := s.cad.joining && !s.near off } := by
  unfold State.exchangeEnd
  rw [← State.near]
  cases hn : s.near off
  · rw [if_neg Bool.false_ne_true, State.aligned_parts.1, Bool.not_false, Bool.and_true]
  · rw [if_pos rfl]
    dsimp only
    rw [State.aligned_parts.1, Bool.not_true, Bool.and_false]

theorem State.exchangeEnd_regs : (s.exchangeEnd off).regs = (s.aligned (s.near off)).regs := by
  unfold State.exchangeEnd
  rw [← State.near]
  split <;> rfl

theorem State.exchangeEnd_mem : (s.exchangeEnd off).mem = s.mem := by
  unfold State.exchangeEnd
  split <;> exact State.aligned_parts.2.1

theorem State.exchangeEnd_port (k : Nat) : (s.exchangeEnd off).port k = s.port k := by
  have h : (s.exchangeEnd off).rein = s.rein := by
    unfold State.exchangeEnd
    split <;> exact State.aligned_parts.2.2
  rw [State.port, State.port, h]

theorem State.exchangeEnd_aligned : (s.exchangeEnd off).on F.CAD_STATUS_ALIGNED = s.near off :=
  (State.on_of_regs State.exchangeEnd_regs _).trans State.on_aligned

theorem State.exchangeEnd_source : (s.exchangeEnd off).get F.CAD_STATUS_SOURCE = s.get F.CAD_STATUS_SOURCE :=
  (State.get_of_regs State.exchangeEnd_regs _).trans State.source_aligned

end

section
variable {n : Nat}

theorem State.exchanged_parts : (s.exchanged n).cad = s.cad ∧ (s.exchanged n).mem = s.mem ∧
    (s.exchanged n).rein = (s.setPort n { s.port n with doneAt := s.cad.time }).rein := by
  rw [State.exchanged, State.followMaster_regsOnly]
  exact ⟨rfl, rfl, rfl⟩

theorem State.exchanged_first (h : s.cad.joinFirst = true) : (s.exchanged n).cad.joinFirst = true := by
  rw [State.exchanged_parts.1, h]

theorem State.exchanged_port : ((s.exchanged n).port n).doneAt = s.cad.time := by
  rw [State.port, State.exchanged_parts.2.2]
  simp only [State.setPort]
  rw [kvFind_kvIns_same]
  rfl

end

theorem State.slewTo_cad (ns : Int) : (s.slewTo ns).cad = { s.cad with slew := ns, slewPart := 0 } := rfl

theorem State.slewTo_mem (ns : Int) : (s.slewTo ns).mem = s.mem := rfl

theorem State.slewTo_port (ns : Int) (k : Nat) : (s.slewTo ns).port k = s.port k := rfl

theorem State.source_slewTo (ns : Int) : (s.slewTo ns).get F.CAD_STATUS_SOURCE = s.get F.CAD_STATUS_SOURCE := by
  rw [State.slewTo, State.get_set_apart (by decide) (by decide)]
  exact State.get_of_regs rfl _

theorem State.retick_regsOnly : s.RegsOnly s.retick := by
  unfold State.retick
  split
  · exact s.setTick_regsOnly _
  · rfl

theorem State.stepTime_later {t : Nat} (h : s.cad.time ≤ t) :
    (s.stepTime t).cad = { s.cad with time := t, slew := 0, slewPart := 0, timeSet := true } ∧ (s.stepTime t).mem = s.mem := by
  rw [State.stepTime, if_pos h]
  dsimp only
  rw [State.retick_regsOnly]
  exact ⟨rfl, rfl⟩

/-- The first exchange of a joining device is over. -/
def State.joined (v : State) : State := { v with cad := { v.cad with joinFirst := false } }

theorem State.timed_of_first {ns : Int} (h : s.cad.joinFirst = true) : s.timed ns =
    if ns < -1000 then { s.joined with cad := { s.joined.cad with joinHold := true } }
    else if 1000 < ns then s.joined.stepTime (s.joined.cad.time + ns : Int).toNat
    else s.joined.slewTo ns := if_pos h

theorem exec_timeDresp {p : Port} {t : DWord} : exec (.timeDresp p t) s = .next (s.timeDresp p.val t.toNat) := rfl

/-! ### The configuration of the domain (R48, R51, R356) -/

/-- The generation and the switch of a CONFIG. -/
def State.configTaken (s : State) (m : Msg) : State :=
  { s with cad := { s.cad with swTick := leAt m.data 23 6, swPeriod := leAt m.data 29 4 }, rein := { s.rein with gen := m.operand } }

theorem State.configTaken_parts {m : Msg} {v : State} (h : (s.configTaken m).RegsOnly v) : v.rein = { s.rein with gen := m.operand } ∧
    v.cad = { s.cad with swTick := leAt m.data 23 6, swPeriod := leAt m.data 29 4 } ∧ v = { s with rein := v.rein, regs := v.regs, cad := v.cad } := by
  rw [h]
  exact ⟨rfl, rfl, rfl⟩

/-- The cadence's registers of a CONFIG. -/
def State.configRegs (s : State) (d : List Byte) : State :=
  ((((((s.set F.CAD_CTRL_EN (leAt d 0 1 % 2)).set F.CAD_STATUS_SWITCH_PENDING (bitsOf (leAt d 0 1) 1 1)).set64 F.CAD_EPOCH_LO (leAt d 1 8)).set
    F.CAD_PERIOD (leAt d 9 4)).set F.CAD_NEXT_PERIOD (leAt d 13 4)).set F.CAD_SWITCH_TICK_LO (leAt d 17 4)).set F.CAD_SWITCH_TICK_HI (leAt d 21 2)

theorem State.configRegs_regsOnly (d : List Byte) : s.RegsOnly (s.configRegs d) := by
  have hepoch : s.RegsOnly (((s.set F.CAD_CTRL_EN (leAt d 0 1 % 2)).set F.CAD_STATUS_SWITCH_PENDING (bitsOf (leAt d 0 1) 1 1)).set64 F.CAD_EPOCH_LO (leAt d 1 8)) :=
    (((s.set_regsOnly _ _).trans (State.set_regsOnly _ _ _)).trans (State.wr_regsOnly _ _ _)).trans (State.wr_regsOnly _ _ _)
  exact (((hepoch.trans (State.set_regsOnly _ _ _)).trans (State.set_regsOnly _ _ _)).trans (State.set_regsOnly _ _ _)).trans (State.set_regsOnly _ _ _)

theorem State.configIn_of_newer {n : Nat} {m : Msg} (hmaster : s.isMaster = false) (hgen : s.rein.gen < m.operand) : s.configIn n m =
    (List.range 12).foldl (fun (s : State) k => if k = n || s.on (F.REI_P_STATUS_UPSTREAM k) then s else s.sendVc3 k s.configMsg)
      ((s.configTaken m).configRegs m.data).retick := by
  rw [State.configIn, if_neg (by simp [hmaster]; omega)]
  rfl

theorem State.configIn_of_refused {n : Nat} {m : Msg} (h : s.isMaster = true ∨ m.operand ≤ s.rein.gen) : s.configIn n m = s :=
  if_pos (by simpa using h)

theorem State.rd_retick {b : Nat} (h1 : b ≠ F.CAD_TICK_LO.addr) (h2 : b ≠ F.CAD_TICK_HI.addr) : s.retick.rd b = s.rd b := by
  unfold State.retick
  split
  · exact (State.rd_set_other _ _ _ _ h2).trans (State.rd_set_other _ _ _ _ h1)
  · rfl

theorem State.get_retick {g : Fld} (h1 : g.addr ≠ F.CAD_TICK_LO.addr) (h2 : g.addr ≠ F.CAD_TICK_HI.addr) : s.retick.get g = s.get g := by
  rw [State.get, State.get, State.rd_retick h1 h2]

theorem State.configRegs_enable (d : List Byte) : (s.configRegs d).get F.CAD_CTRL_EN = leAt d 0 1 % 2 := by
  rw [State.configRegs, State.get_set_apart (by decide) (by decide), State.get_set_apart (by decide) (by decide), State.get_set_apart (by decide) (by decide),
    State.get_set_apart (by decide) (by decide), State.get, State.set64, State.rd_wr_other _ _ _ _ (by decide), State.rd_wr_other _ _ _ _ (by decide), ← State.get,
    State.get_set_apart (by decide) (by decide), State.get_set_same _ _ _ (by unfold Fld.inWord; decide)]
  exact Nat.mod_mod _ _

theorem State.configRegs_epoch (d : List Byte) : (s.configRegs d).get64 F.CAD_EPOCH_LO = leAt d 1 8 := by
  have hrd : ∀ b, b = F.CAD_EPOCH_LO.addr ∨ b = F.CAD_EPOCH_LO.addr + 4 → (s.configRegs d).rd b =
      (((s.set F.CAD_CTRL_EN (leAt d 0 1 % 2)).set F.CAD_STATUS_SWITCH_PENDING (bitsOf (leAt d 0 1) 1 1)).set64 F.CAD_EPOCH_LO (leAt d 1 8)).rd b := by
    rintro b (rfl | rfl)
    all_goals rw [State.configRegs, State.rd_set_other _ _ _ _ (by decide), State.rd_set_other _ _ _ _ (by decide), State.rd_set_other _ _ _ _ (by decide),
      State.rd_set_other _ _ _ _ (by decide)]
  rw [State.get64, hrd _ (.inl rfl), hrd _ (.inr rfl), ← State.get64, State.get64_set64]
  exact Nat.mod_eq_of_lt (leAt_lt d 1 8)

theorem State.configRegs_period (d : List Byte) : (s.configRegs d).get F.CAD_PERIOD = leAt d 9 4 % 2 ^ 30 := by
  rw [State.configRegs, State.get_set_apart (by decide) (by decide), State.get_set_apart (by decide) (by decide), State.get_set_apart (by decide) (by decide),
    State.get_set_same _ _ _ (by unfold Fld.inWord; decide)]
  rfl

theorem State.configRegs_nextPeriod (d : List Byte) : (s.configRegs d).get F.CAD_NEXT_PERIOD = leAt d 13 4 % 2 ^ 30 := by
  rw [State.configRegs, State.get_set_apart (by decide) (by decide), State.get_set_apart (by decide) (by decide),
    State.get_set_same _ _ _ (by unfold Fld.inWord; decide)]
  rfl

end

/-- Settles O39. -/
theorem domainElectsAndAligns : Obligations.DomainElectsAndAligns := by
  unfold Obligations.DomainElectsAndAligns
  refine ⟨fun s p m n e w v => ⟨⟨s.masterForgotten, fun k d h => State.masterForgotten_dom h, rfl, fun hm hs => ?_, fun hm hs => ?_, fun hm => ?_⟩, exec_domainAnnounce,
      fun h => ?_, fun h => ?_, fun hid hvalid u hu => ⟨fun hlt => ?_, fun hlt => ?_⟩, fun k hk => ?_, fun hnone => ?_, fun hopen hok => ?_, fun hopen => ?_, fun hopen hok => ?_⟩,
    fun s p m t => ⟨fun h => ⟨s.setPort p.val { s.port p.val with t1 := s.cad.time, spoilt := false }, congrArg _ (if_pos h), rfl⟩,
      fun h => ⟨congrArg _ (if_neg (by simp [h])), congrArg _ (if_neg (by simp [h]))⟩, rfl, rfl, fun h => congrArg _ (if_pos h), fun h => ?_, fun h hsp => ?_,
      fun off hoff hup hsp => ⟨fun hfirst hhold => ?_, fun hfirst hhold => ?_, fun hfirst hlt => ?_, fun hfirst hgt => ?_, fun hfirst hge hle => ?_⟩,
      fun h => congrArg _ (State.configIn_of_refused h), fun hmaster hgen => ?_, fun h => congrArg _ (if_pos h), fun h => congrArg _ (if_neg (by simp [h]))⟩⟩
  · rw [exec_masterLoss, if_neg hm, if_pos hs]
  · rw [exec_masterLoss, if_neg hm, if_neg hs]
  · rw [exec_masterLoss, if_pos hm]
  · rw [exec_domain, if_neg fun hc => h hc.1]
    rfl
  · rw [exec_domain, if_neg fun hc => h.elim (fun heq => hc.2.1 heq.symm) fun hno => by simp [hno] at hc]
    rfl
  · rw [exec_domain, if_pos ⟨hid, Nat.ne_of_gt hlt, hvalid⟩, State.duplicated_of_higher hlt, hu]
    rfl
  · rw [exec_domain, if_pos ⟨hid, Nat.ne_of_lt hlt, hvalid⟩, State.duplicated_of_lower hlt, hu]
    rfl
  · exact congrArg _ (State.reselect_of_some hk)
  · exact congrArg _ (State.reselect_of_none hnone)
  · have hexec : exec (.routingEntryWrite n e w v) s = .next (if s.blockOpen then s.routeWrite n.val e.val w.val v.toNat else s) := rfl
    rw [hexec, if_pos hopen]
    exact congrArg _ (if_pos hok)
  · exact congrArg _ (if_neg (by simp [hopen]))
  · have hexec : exec (.routingEntryWrite n e w v) s = .next (if s.blockOpen then s.routeWrite n.val e.val w.val v.toNat else s) := rfl
    rw [hexec, if_pos hopen]
    exact congrArg _ (if_neg (by simp [hok]))
  · exact congrArg _ (if_pos (by simp [h]))
  · exact congrArg _ ((if_neg (by simp [h])).trans (if_pos hsp))
  · have hw : (s.exchanged p.val).timed (-((off + 10) / 20)) = (s.exchanged p.val).slewTo (-((off + 10) / 20)) := by
      rw [State.timed, State.exchanged_parts.1, if_neg (by simp [hfirst]), if_neg (by simp [hhold])]
    have hnear : ((s.exchanged p.val).slewTo (-((off + 10) / 20))).near off = decide (off.natAbs ≤ 300) := by
      rw [State.near, State.slewTo_cad, State.exchanged_parts.1]
      dsimp only
      rw [hhold, Bool.not_false, Bool.and_true]
    refine ⟨((s.exchanged p.val).slewTo (-((off + 10) / 20))).exchangeEnd off, ?_, ?_, ?_, ?_, ?_, ?_, ?_, ?_⟩
    · rw [exec_timeDresp, State.timeDresp_of_offset hup hsp, ← hoff, hw]
    · rw [State.exchangeEnd_cad, State.slewTo_cad]
    · rw [State.exchangeEnd_aligned, hnear, decide_eq_true_eq]
    · rw [State.exchangeEnd_cad, hnear, State.slewTo_cad, State.exchanged_parts.1]
    · rw [State.exchangeEnd_source, State.source_slewTo, State.exchanged, State.source_followMaster]
    · rw [State.exchangeEnd_port, State.slewTo_port, State.exchanged_port]
    · rw [State.exchangeEnd_cad, State.slewTo_cad, State.exchanged_parts.1]
    · rw [State.exchangeEnd_mem, State.slewTo_mem, State.exchanged_parts.2.1]
  · have hw : (s.exchanged p.val).timed (-((off + 10) / 20)) = s.exchanged p.val := by
      rw [State.timed, State.exchanged_parts.1, if_neg (by simp [hfirst]), if_pos hhold]
    refine ⟨(s.exchanged p.val).exchangeEnd off, ?_, ?_, ?_, ?_, ?_, ?_⟩
    · rw [exec_timeDresp, State.timeDresp_of_offset hup hsp, ← hoff, hw]
    · rw [State.exchangeEnd_cad, State.exchanged_parts.1]
    · rw [State.exchangeEnd_aligned, State.near, State.exchanged_parts.1, hhold, Bool.not_true, Bool.and_false]
    · rw [State.exchangeEnd_cad, State.exchanged_parts.1, hhold]
    · rw [State.exchangeEnd_cad, State.exchanged_parts.1]
    · rw [State.exchangeEnd_mem, State.exchanged_parts.2.1]
  · obtain ⟨w, hw, hcad, hmem⟩ : ∃ w, (s.exchanged p.val).timed (-((off + 10) / 20)) = w ∧
        w.cad = { s.cad with joinFirst := false, joinHold := true } ∧ w.mem = s.mem := by
      refine ⟨_, (State.timed_of_first (State.exchanged_first hfirst)).trans (if_pos hlt), ?_, ?_⟩
      · rw [State.joined, State.exchanged_parts.1]
      · exact State.exchanged_parts.2.1
    refine ⟨w.exchangeEnd off, ?_, ?_, ?_, ?_, ?_, ?_⟩
    · rw [exec_timeDresp, State.timeDresp_of_offset hup hsp, ← hoff, hw]
    · rw [State.exchangeEnd_cad, hcad]
    · rw [State.exchangeEnd_cad, hcad]
    · rw [State.exchangeEnd_cad, hcad]
    · rw [State.exchangeEnd_aligned, State.near, hcad, Bool.not_true, Bool.and_false]
    · rw [State.exchangeEnd_mem, hmem]
  · obtain ⟨w, hw, hcad, hmem⟩ : ∃ w, (s.exchanged p.val).timed (-((off + 10) / 20)) = w ∧ w.cad = { s.cad with
        joinFirst := false, time := (s.cad.time + -((off + 10) / 20) : Int).toNat, slew := 0, slewPart := 0, timeSet := true } ∧ w.mem = s.mem := by
      have hcad : (s.exchanged p.val).joined.cad = { s.cad with joinFirst := false } := by rw [State.joined, State.exchanged_parts.1]
      obtain ⟨hstep, hmem⟩ := State.stepTime_later (s := (s.exchanged p.val).joined) (t := (s.cad.time + -((off + 10) / 20) : Int).toNat) (by
        rw [hcad]
        dsimp only
        omega)
      refine ⟨(s.exchanged p.val).joined.stepTime (s.cad.time + -((off + 10) / 20) : Int).toNat, ?_, ?_, hmem.trans State.exchanged_parts.2.1⟩
      · rw [State.timed_of_first (State.exchanged_first hfirst), if_neg (by omega), if_pos hgt, hcad]
      · rw [hstep, hcad]
    refine ⟨w.exchangeEnd off, ?_, ?_, ?_, ?_, ?_⟩
    · rw [exec_timeDresp, State.timeDresp_of_offset hup hsp, ← hoff, hw]
    · rw [State.exchangeEnd_cad, hcad]
      dsimp only
      omega
    · rw [State.exchangeEnd_cad, hcad]
    · rw [State.exchangeEnd_cad, hcad]
    · rw [State.exchangeEnd_mem, hmem]
  · have hw : (s.exchanged p.val).timed (-((off + 10) / 20)) = (s.exchanged p.val).joined.slewTo (-((off + 10) / 20)) := by
      rw [State.timed_of_first (State.exchanged_first hfirst), if_neg (by omega), if_neg (by omega)]
    refine ⟨((s.exchanged p.val).joined.slewTo (-((off + 10) / 20))).exchangeEnd off, ?_, ?_, ?_, ?_, ?_⟩
    · rw [exec_timeDresp, State.timeDresp_of_offset hup hsp, ← hoff, hw]
    · rw [State.exchangeEnd_cad, State.slewTo_cad]
    · rw [State.exchangeEnd_cad, State.slewTo_cad, State.joined]
    · rw [State.exchangeEnd_cad, State.slewTo_cad, State.joined, State.exchanged_parts.1]
    · rw [State.exchangeEnd_mem, State.slewTo_mem, State.joined, State.exchanged_parts.2.1]
  · obtain ⟨hrein, hcad, hframe⟩ := State.configTaken_parts ((State.configRegs_regsOnly (s := s.configTaken m) m.data).trans State.retick_regsOnly)
    refine ⟨((s.configTaken m).configRegs m.data).retick, hrein, ?_, ?_, ?_, ?_, hcad, hframe, congrArg _ (State.configIn_of_newer hmaster hgen)⟩
    · rw [State.get_retick (by decide) (by decide), State.configRegs_enable]
    · rw [State.epoch, State.get64, State.rd_retick (by decide) (by decide), State.rd_retick (by decide) (by decide), ← State.get64, State.configRegs_epoch]
    · rw [State.get_retick (by decide) (by decide), State.configRegs_period]
    · rw [State.get_retick (by decide) (by decide), State.configRegs_nextPeriod]

end Sys2Proof.Machine
end


section

/-! PCIe functions: their configuration, their resets and their translations. -/

namespace Sys2Proof.Machine

section
variable {s : State}

/-! ### Functions cleared (R390, R391) -/

theorem State.cfgClear_regs_ne (f : Nat) : ∀ x ∈ (s.cfgClear f).pcie.cfgRegs, x.1 ≠ f := fun x hx => by
  simpa using (List.mem_filter.mp hx).2

theorem State.cfgClear_ats_ne (f : Nat) : ∀ x ∈ (s.cfgClear f).pcie.ats, x.1 ≠ f := fun x hx => by
  simpa using (List.mem_filter.mp hx).2

/-- The function that an FLR resets, cleared and noted. -/
def State.flrTaken (s : State) (f : Nat) : State := { s.cfgClear f with pcie := { (s.cfgClear f).pcie with flr := (s.cfgClear f).pcie.flr ++ [f] } }

theorem State.flr_of_present {f : Nat} (h : s.fnPresent f = true) :
    s.flr f = if f = 0 then ((s.flrTaken f).ctxReset f 1).vfClear 1 else (s.flrTaken f).ctxReset f 1 := by
  rw [State.flr, if_neg (by simp [h])]
  rfl

/-- The PCIe state of a host reset. -/
def Pcie.linkLost (x : Pcie) (cause : Nat) : Pcie :=
  { x with hpUp := false, hpWidth := 0, hpSpeed := 0, perst := (cause == 0 || x.perst), crs := true, vfEnable := false, numVfs := 0, ideHp := false,
           ideSel := x.ideSel.filter (fun (x : Nat × Nat) => x.1 != 0), pmeOff := false }

/-- The link is down as `u` found it, and of the first `n` functions no register is kept. -/
structure Pcie.Cleared (u x : Pcie) (n : Nat) : Prop where
  link : x.hpUp = u.hpUp ∧ x.hpWidth = u.hpWidth ∧ x.hpSpeed = u.hpSpeed
  fns : x.crs = u.crs ∧ x.vfEnable = u.vfEnable ∧ x.numVfs = u.numVfs
  pins : x.ideHp = u.ideHp ∧ x.perst = u.perst
  regs : ∀ y ∈ x.cfgRegs, n ≤ y.1

/-- The first `n` functions cleared. -/
def State.fnsCleared (s : State) (n : Nat) : State := (List.range n).foldl (fun (s : State) f => s.cfgClear f) s

theorem State.fnsCleared_succ (n : Nat) : s.fnsCleared (n + 1) = (s.fnsCleared n).cfgClear n := by
  rw [State.fnsCleared, List.range_succ, List.foldl_append]
  rfl

theorem State.fnsCleared_parts (n : Nat) : s.pcie.Cleared (s.fnsCleared n).pcie n ∧ s.fnsCleared n = { s with pcie := (s.fnsCleared n).pcie } := by
  induction n with
  | zero => exact ⟨⟨⟨rfl, rfl, rfl⟩, ⟨rfl, rfl, rfl⟩, ⟨rfl, rfl⟩, fun _ _ => Nat.zero_le _⟩, rfl⟩
  | succ n ih =>
    obtain ⟨⟨hlink, hfns, hpins, hregs⟩, hframe⟩ := ih
    rw [State.fnsCleared_succ]
    refine ⟨⟨hlink, hfns, hpins, fun y hy => ?_⟩, ?_⟩
    · have hle := hregs y (List.mem_filter.mp hy).1
      have hne := State.cfgClear_regs_ne n y hy
      omega
    · generalize s.fnsCleared n = u at hframe ⊢
      rw [hframe]
      rfl

theorem exec_hostReset {c : Fin 3} {u : State} (hu : u = State.fnsCleared { s with pcie := s.pcie.linkLost c.val } 16) :
    exec (.hostReset c) s = .next ((List.range 16).foldl (fun (s : State) k => s.ctxReset k 2)
      (((u.trace 0x07 0x40 0 0 (leBytes 1 3)).trace 0x08 0xE0 0 0 (leBytes 1 2 ++ leBytes 1 0 ++ leBytes 1 0)).fault 6 0x22 0xE0 0 0 0 0 0 [])) := by
  subst hu
  rfl

/-! ### Configuration requests (R388, R405) -/

theorem exec_configRequest {f : Tenant} {reg : Fin 1024} {w : Option Word} : exec (.configRequest f reg w) s = .next (s.cfgRequest f.val reg.val w) := rfl

section
variable {f reg : Nat} (hup : s.pcie.hpUp = true) (hcrs : s.pcie.crs = false) (hf : s.fnPresent f = true)
include hup hcrs hf

theorem State.cfgRequest_of_read : s.cfgRequest f reg none = s.out (.cfgAnswer f reg (s.cfgValue f reg) false) :=
  (if_neg (by simp [hup])).trans ((if_neg (by simp [hcrs])).trans (if_neg (by simp [hf])))

theorem State.cfgRequest_of_write {v : Word} : s.cfgRequest f reg (some v) = (s.cfgWrite f reg v.toNat).out (.cfgAnswer f reg 0 false) :=
  (if_neg (by simp [hup])).trans ((if_neg (by simp [hcrs])).trans (if_neg (by simp [hf])))

end

theorem State.cfgValue_device {f : Nat} : bitsOf (s.cfgValue f 0) 16 16 = if f = 0 then 0x4180 else 0x4181 := by
  rw [State.cfgValue, if_pos rfl, bitsOf_putBits_same]
  split <;> rfl

/-! ### Translations (R472) -/

/-- The translations refused after an invalidation of `page` of function `f` that grants reads with `r` and writes with `w`. -/
def refusedAfter (l : List (Nat × Nat × Bool)) (f page : Nat) (r w : Bool) : List (Nat × Nat × Bool) :=
  (l.filter fun (x : Nat × Nat × Bool) => !(x.1 == f && x.2.1 == page)) ++
    ((if r then [] else [(f, page, false)]) ++ (if w then [] else [(f, page, true)]))

theorem mem_refusedAfter_same {l : List (Nat × Nat × Bool)} {f page : Nat} {r w b : Bool} :
    (f, page, b) ∈ refusedAfter l f page r w ↔ (if b then w else r) = false := by
  cases b <;> cases r <;> cases w <;> simp [refusedAfter]

theorem mem_refusedAfter_other {l : List (Nat × Nat × Bool)} {f page : Nat} {r w : Bool} {x : Nat × Nat × Bool} (h : x.1 ≠ f ∨ x.2.1 ≠ page) :
    x ∈ refusedAfter l f page r w ↔ x ∈ l := by
  have hne : ∀ b, x ≠ (f, page, b) := by
    rintro b rfl
    simp at h
  have hkeep : x ∈ (l.filter fun (x : Nat × Nat × Bool) => !(x.1 == f && x.2.1 == page)) ↔ x ∈ l := by
    rw [List.mem_filter, and_iff_left (by obtain h | h := h <;> simp [h])]
  cases r <;> cases w <;> simp only [refusedAfter, List.mem_append, hkeep] <;> simp [hne]

/-- The page of a function that an invalidation takes out of its translations. -/
def State.invalidated (s : State) (f page : Nat) (r w : Bool) : State :=
  { s with pcie := { s.pcie with ats := s.pcie.ats.filter (· != (f, page)), atsRefused := refusedAfter s.pcie.atsRefused f page r w } }

theorem exec_atsInvalidate {f : Tenant} {page : BitVec 52} {r w : Bool} :
    exec (.atsInvalidate f page r w) s = .next ((s.invalidated f.val page.toNat r w).out (.atsDone f.val)) := rfl

/-! ### The host's link (R472, R537) -/

theorem exec_hpLinkUp {sp : Fin 7} {wd : Fin 17} : exec (.hpLinkUp sp wd) s = .next
    (if s.pcie.perst = true ∨ s.boot.porLow = true ∨ 4 ≤ s.get F.PWR_STATUS_STATE then s
    else State.crsSettle
      { (if s.pcie.hpUp then s else s.trace 0x08 0xE0 0 0 (leBytes 1 2 ++ leBytes 1 0 ++ leBytes 1 1)) with
        pcie := { (if s.pcie.hpUp then s else s.trace 0x08 0xE0 0 0 (leBytes 1 2 ++ leBytes 1 0 ++ leBytes 1 1)).pcie with
          hpUp := true, hpWidth := wd.val, hpSpeed := sp.val } }) := by
  refine congrArg _ (ite_of_iff ?_ rfl rfl)
  simp [or_assoc]

end

/-- Settles O45. -/
theorem functionsAnswerAndReset : Obligations.FunctionsAnswerAndReset := by
  unfold Obligations.FunctionsAnswerAndReset
  intro s f reg w c page g h sp wd
  refine ⟨fun hup => congrArg _ (if_pos (by simp [hup])), fun hup hcrs => ?_, fun hup hcrs hf => ?_, fun hup hcrs hf => ⟨?_, fun v => ?_, fun hreg => ?_⟩, fun hf => ?_, fun hf => ?_,
    rfl, ?_, rfl, ?_, rfl, fun u hu => ?_, fun hhold => ?_, fun u hperst hpor hstate hu => ?_⟩
  · exact congrArg Host.Outcome.next ((if_neg (by simp [hup])).trans (if_pos hcrs))
  · exact congrArg Host.Outcome.next ((if_neg (by simp [hup])).trans ((if_neg (by simp [hcrs])).trans (if_pos (by simp [hf]))))
  · rw [exec_configRequest, State.cfgRequest_of_read hup hcrs hf]
  · rw [exec_configRequest, State.cfgRequest_of_write hup hcrs hf]
  · rw [hreg]
    exact State.cfgValue_device
  · exact congrArg _ (if_pos (by simp [hf]))
  · refine ⟨s.flrTaken f.val, ?_, List.mem_append_right _ (List.mem_singleton_self _), State.cfgClear_regs_ne f.val, bit_putBit _ _ _, State.cfgClear_ats_ne f.val, rfl⟩
    refine congrArg Host.Outcome.next ((State.flr_of_present hf).trans ?_)
    split
    · next h0 => rw [h0]
    · rfl
  · obtain ⟨⟨⟨hup, hwidth, hspeed⟩, ⟨hcrs, hvf, hnum⟩, ⟨hide, hperst⟩, hregs⟩, hframe⟩ :=
      State.fnsCleared_parts (s := { s with pcie := s.pcie.linkLost c.val }) 16
    refine ⟨_, exec_hostReset rfl, hup, hwidth, hspeed, hcrs, hvf, hnum, hide, List.filter_eq_nil_iff.mpr fun x hx => ?_, hperst, ?_⟩
    · have hle := hregs x hx
      simp
      omega
    · rw [hframe]
  · refine ⟨_, exec_atsInvalidate, ?_, mem_refusedAfter_same, mem_refusedAfter_same, fun x hx => mem_refusedAfter_other hx, rfl, rfl⟩
    intro hmem
    simpa using (List.mem_filter.mp hmem).2
  · subst hu
    rfl
  · rw [exec_hpLinkUp, if_pos hhold]
  · rw [exec_hpLinkUp, if_neg (by simp [hperst, hpor]; omega), ← hu]

end Sys2Proof.Machine
end


section

/-! The accelerator port: its requests, its links and its configuration mailbox. -/

namespace Sys2Proof.Machine

section
variable {s : State} {l addr n i : Nat} {read poi sec : Bool} {data : List Byte}

/-! ### Requests of an accelerator (R393, R395, R396) -/

/-- The request lies within the BAR of its link, where it has one. -/
def State.apInBar (s : State) (addr n : Nat) : Bool := s.on F.TEN_AP_MODE || decide (addr + n ≤ 2 ^ s.get F.TEN_AP_BAR0_SIZE)

/-- The aperture of a request. -/
def State.apHit (s : State) (l addr n : Nat) : Option Nat := (List.range 64).find? fun i =>
  s.apInBar addr n && s.on (F.TEN_APIN_VALID i) && s.get (F.TEN_APIN_LINK i) == l && decide ((s.apinRange i).1 ≤ addr) &&
    decide (addr + n ≤ (s.apinRange i).1 + (s.apinRange i).2)

/-- A request of an aperture onto counters. -/
def State.apCounters (s : State) (l addr n : Nat) (read : Bool) (data : List Byte) (i : Nat) : State :=
  if (addr - (s.apinRange i).1) % 4 != 0 || n % 4 != 0 then
    if read then (s.stick F.GLB_ERR_ACCESS).out (.readCompletion (l + 1) addr (List.replicate n 0) false) else s.stick F.GLB_ERR_ACCESS
  else if read then s.out (.readCompletion (l + 1) addr ((List.range (n / 4)).flatMap fun k =>
    leBytes 4 (s.apCounterRead (s.get (F.TEN_APIN_TENANT i)) (0x10000 + (addr - (s.apinRange i).1) + 4 * k))) false)
  else s.apCounterWords (s.get (F.TEN_APIN_TENANT i)) (0x10000 + (addr - (s.apinRange i).1)) data

/-- A request at the memory of its aperture's window `w`, within `n` bytes at `da` of space `sp`. -/
def State.apMemory (s : State) (l addr n : Nat) (read : Bool) (data : List Byte) (i : Nat) (w : Window) (sp da : Nat) : State :=
  if !(s.insideWindow w sp da n) then s.apDeny l i 1 addr read
  else
    match s.bridleRange sp (s.get (F.TEN_APIN_TENANT i)) (0x31 + l) clsAPORT (!read) da n with
    | (false, s) => s.apDeny l i 3 addr read
    | (true, g) =>
      if read then
        match g.memRead sp da n (256 * s.get (F.TEN_APIN_TENANT i) + 0x31 + l) 0 0 with
        | (some b, s) => s.out (.readCompletion (l + 1) addr b false)
        | (none, s) => s.out (.readCompletion (l + 1) addr (s.mem.bytes sp da n) true)
      else g.memWrite sp (cellsAt da data)

theorem State.apRequest_of_insecure (h : bit (s.get F.TEN_AP_IDE_REQ) l = true) :
    s.apRequest l addr n read data poi false = s.stick F.TEN_IDEDROP_IDEDROP := if_pos (by simp [h])

theorem State.apRequest_of_poisoned (h : bit (s.get F.TEN_AP_IDE_REQ) l = false ∨ sec = true) :
    s.apRequest l addr n false data true sec = (s.stick F.TEN_POISON_POISON).out (.poisonedTlp (l + 1)) :=
  (if_neg (by obtain h | h := h <;> simp [h])).trans (if_pos rfl)

section
variable (hsec : bit (s.get F.TEN_AP_IDE_REQ) l = false ∨ sec = true) (hpoi : read = false → poi = false)
include hsec hpoi

theorem State.apRequest_of_unpoisoned : s.apRequest l addr n read data poi sec =
    if s.boot.phase = .restart then (if read then s.out (.completerAbort (l + 1) addr) else s)
    else match s.apHit l addr (if read then n else data.length) with
      | none => s.apDeny l 0 0 addr read
      | some i =>
        if s.on (F.TEN_APIN_KIND i) then s.apCounters l addr (if read then n else data.length) read data i
        else if !(if read then s.on (F.TEN_APIN_R i) else s.on (F.TEN_APIN_W i)) then s.apDeny l i 1 addr read
        else match s.window (s.get (F.TEN_APIN_TENANT i)) (s.get (F.TEN_APIN_WIN i)) (s.get (F.TEN_APIN_GEN i)) with
          | none => s.apDeny l i 2 addr read
          | some w => s.apMemory l addr (if read then n else data.length) read data i w (daSpace (s.get64 (F.TEN_APIN_TARGET i 0)))
              (daOff (s.get64 (F.TEN_APIN_TARGET i 0)) + (addr - (s.apinRange i).1)) := by
  have hdrop : ¬(bit (s.get F.TEN_AP_IDE_REQ) l && !sec) = true := by
    obtain h | h := hsec <;> simp [h]
  have hpass : ¬(poi && !read) = true := by
    cases read <;> simp_all
  rw [State.apRequest]
  dsimp only
  rw [if_neg hdrop, if_neg hpass]
  refine ite_of_iff (by simp) rfl ?_
  rfl

theorem State.apRequest_of_restart (h : s.boot.phase = .restart) :
    s.apRequest l addr n read data poi sec = if read then s.out (.completerAbort (l + 1) addr) else s := by
  rw [State.apRequest_of_unpoisoned hsec hpoi, if_pos h]

section
variable {m : Nat} (hm : m = if read then n else data.length) (hphase : s.boot.phase ≠ .restart)
include hm hphase

theorem State.apRequest_of_none (h : s.apHit l addr m = none) : s.apRequest l addr n read data poi sec = s.apDeny l 0 0 addr read := by
  rw [State.apRequest_of_unpoisoned hsec hpoi, if_neg hphase, ← hm, h]

variable (hhit : s.apHit l addr m = some i)
include hhit

theorem State.apRequest_of_counters (hkind : s.on (F.TEN_APIN_KIND i) = true) :
    s.apRequest l addr n read data poi sec = s.apCounters l addr m read data i := by
  rw [State.apRequest_of_unpoisoned hsec hpoi, if_neg hphase, ← hm, hhit]
  exact if_pos hkind

variable (hkind : s.on (F.TEN_APIN_KIND i) = false)
include hkind

theorem State.apRequest_of_unable (hright : (if read then s.on (F.TEN_APIN_R i) else s.on (F.TEN_APIN_W i)) = false) :
    s.apRequest l addr n read data poi sec = s.apDeny l i 1 addr read := by
  rw [State.apRequest_of_unpoisoned hsec hpoi, if_neg hphase, ← hm, hhit]
  exact (if_neg (ne_true_of_eq_false hkind)).trans (if_pos (by rw [hright]; rfl))

variable (hright : (if read then s.on (F.TEN_APIN_R i) else s.on (F.TEN_APIN_W i)) = true)
include hright

theorem State.apRequest_of_revoked (hw : s.window (s.get (F.TEN_APIN_TENANT i)) (s.get (F.TEN_APIN_WIN i)) (s.get (F.TEN_APIN_GEN i)) = none) :
    s.apRequest l addr n read data poi sec = s.apDeny l i 2 addr read := by
  rw [State.apRequest_of_unpoisoned hsec hpoi, if_neg hphase, ← hm, hhit]
  dsimp only
  rw [if_neg (ne_true_of_eq_false hkind), if_neg (by rw [hright]; decide), hw]

theorem State.apRequest_of_window {w : Window} (hw : s.window (s.get (F.TEN_APIN_TENANT i)) (s.get (F.TEN_APIN_WIN i)) (s.get (F.TEN_APIN_GEN i)) = some w) :
    s.apRequest l addr n read data poi sec = s.apMemory l addr m read data i w (daSpace (s.get64 (F.TEN_APIN_TARGET i 0)))
      (daOff (s.get64 (F.TEN_APIN_TARGET i 0)) + (addr - (s.apinRange i).1)) := by
  rw [State.apRequest_of_unpoisoned hsec hpoi, if_neg hphase, ← hm, hhit]
  dsimp only
  rw [if_neg (ne_true_of_eq_false hkind), if_neg (by rw [hright]; decide), hw]

end

end

theorem State.apHit_eq_none {m : Nat} (h : (s.on F.TEN_AP_MODE = false ∧ 2 ^ s.get F.TEN_AP_BAR0_SIZE < addr + m) ∨
    (∀ i, i < 64 → s.on (F.TEN_APIN_VALID i) = true → s.get (F.TEN_APIN_LINK i) = l →
      addr < (s.apinRange i).1 ∨ (s.apinRange i).1 + (s.apinRange i).2 < addr + m)) : s.apHit l addr m = none := by
  refine List.find?_eq_none.mpr fun i hi htakes => ?_
  simp only [State.apInBar, Bool.and_eq_true, Bool.or_eq_true, decide_eq_true_eq, beq_iff_eq] at htakes
  obtain ⟨⟨⟨⟨hbar, hvalid⟩, hlink⟩, hbase⟩, hend⟩ := htakes
  obtain ⟨hmode, hsize⟩ | h := h
  · rw [hmode] at hbar
    obtain hbar | hbar := hbar
    · cases hbar
    · omega
  · have hout := h i (List.mem_range.mp hi) hvalid hlink
    omega

theorem State.apHit_of_inBar {m : Nat} (h : s.on F.TEN_AP_MODE = true ∨ addr + m ≤ 2 ^ s.get F.TEN_AP_BAR0_SIZE) : s.apHit l addr m =
    (List.range 64).find? fun i => s.on (F.TEN_APIN_VALID i) && s.get (F.TEN_APIN_LINK i) == l && decide ((s.apinRange i).1 ≤ addr) &&
      decide (addr + m ≤ (s.apinRange i).1 + (s.apinRange i).2) := by
  have hbar : s.apInBar addr m = true := by simpa [State.apInBar] using h
  simp only [State.apHit, hbar, Bool.true_and]

theorem State.apCounters_of_narrow (h : (addr - (s.apinRange i).1) % 4 ≠ 0 ∨ n % 4 ≠ 0) : s.apCounters l addr n read data i =
    if read then (s.stick F.GLB_ERR_ACCESS).out (.readCompletion (l + 1) addr (List.replicate n 0) false) else s.stick F.GLB_ERR_ACCESS :=
  if_pos (by simpa using h)

theorem State.apCounters_of_words (h : (addr - (s.apinRange i).1) % 4 = 0) (hn : n % 4 = 0) : s.apCounters l addr n read data i =
    if read then s.out (.readCompletion (l + 1) addr ((List.range (n / 4)).flatMap fun k =>
      leBytes 4 (s.apCounterRead (s.get (F.TEN_APIN_TENANT i)) (0x10000 + (addr - (s.apinRange i).1) + 4 * k))) false)
    else s.apCounterWords (s.get (F.TEN_APIN_TENANT i)) (0x10000 + (addr - (s.apinRange i).1)) data := if_neg (by simp [h, hn])

section
variable {w : Window} {sp da : Nat} {g : State}

theorem State.apMemory_of_outside (h : s.insideWindow w sp da n = false) : s.apMemory l addr n read data i w sp da = s.apDeny l i 1 addr read :=
  if_pos (by simp [h])

variable (hin : s.insideWindow w sp da n = true)
include hin

theorem State.apMemory_of_denied (h : s.bridleRange sp (s.get (F.TEN_APIN_TENANT i)) (0x31 + l) clsAPORT (!read) da n = (false, g)) :
    s.apMemory l addr n read data i w sp da = g.apDeny l i 3 addr read := by
  rw [State.apMemory, if_neg (by simp [hin]), h]

theorem State.apMemory_of_write (h : s.bridleRange sp (s.get (F.TEN_APIN_TENANT i)) (0x31 + l) clsAPORT true da n = (true, g)) :
    s.apMemory l addr n false data i w sp da = g.memWrite sp (cellsAt da data) := by
  rw [State.apMemory, if_neg (by simp [hin]), Bool.not_false, h]
  rfl

theorem State.apMemory_of_read {b : List Byte} {v : State} (h : s.bridleRange sp (s.get (F.TEN_APIN_TENANT i)) (0x31 + l) clsAPORT false da n = (true, g))
    (hread : g.memRead sp da n (256 * s.get (F.TEN_APIN_TENANT i) + 0x31 + l) 0 0 = (some b, v)) :
    s.apMemory l addr n true data i w sp da = v.out (.readCompletion (l + 1) addr b false) := by
  rw [State.apMemory, if_neg (by simp [hin]), Bool.not_true, h]
  dsimp only
  rw [if_pos rfl, hread]

end

/-! ### Links (R396, R533) -/

/-- The state word of link `l`. -/
def State.aplSet (s : State) (l speed width up : Nat) : State := ((s.set (F.TEN_APL_SPEED l) speed).set (F.TEN_APL_WIDTH l) width).set (F.TEN_APL_UP l) up

theorem State.aplSet_regsOnly (speed width up : Nat) : s.RegsOnly (s.aplSet l speed width up) :=
  ((s.set_regsOnly _ _).trans (State.set_regsOnly _ _ _)).trans (State.set_regsOnly _ _ _)

theorem State.aplSet_speed {speed width up : Nat} (h : speed < 16) : (s.aplSet l speed width up).get (F.TEN_APL_SPEED l) = speed := by
  rw [State.aplSet, State.get_set_apart (f := F.TEN_APL_UP l) (Nat.le_of_ble_eq_true rfl) (.inr (.inl (Nat.le_of_ble_eq_true rfl))),
    State.get_set_apart (f := F.TEN_APL_WIDTH l) (Nat.le_of_ble_eq_true rfl) (.inr (.inl (Nat.le_of_ble_eq_true rfl))),
    State.get_set_same _ (F.TEN_APL_SPEED l) _ (Nat.le_of_ble_eq_true rfl)]
  exact Nat.mod_eq_of_lt h

theorem State.aplSet_width {speed width up : Nat} (h : width < 32) : (s.aplSet l speed width up).get (F.TEN_APL_WIDTH l) = width := by
  rw [State.aplSet, State.get_set_apart (f := F.TEN_APL_UP l) (Nat.le_of_ble_eq_true rfl) (.inr (.inl (Nat.le_of_ble_eq_true rfl))),
    State.get_set_same _ (F.TEN_APL_WIDTH l) _ (Nat.le_of_ble_eq_true rfl)]
  exact Nat.mod_eq_of_lt h

theorem State.aplSet_up (speed width : Nat) (up : Bool) : (s.aplSet l speed width (b2n up)).on (F.TEN_APL_UP l) = up := by
  cases up
  · exact State.on_set_zero (f := F.TEN_APL_UP l) (Nat.le_of_ble_eq_true rfl)
  · exact State.on_set_one (f := F.TEN_APL_UP l) (Nat.le_of_ble_eq_true rfl) rfl

/-- The IDE streams of link `l` closed. -/
def State.apClosed (s : State) (l : Nat) : State :=
  { s with pcie := { s.pcie with ideAp := putBit s.pcie.ideAp l false, ideSel := s.pcie.ideSel.filter fun (x : Nat × Nat) => x.1 != l + 1 } }

theorem State.apClosed_get (f : Fld) : (s.apClosed l).get f = s.get f := rfl

theorem State.apClosed_on (f : Fld) : (s.apClosed l).on f = s.on f := rfl

theorem State.apClosed_frame {u : State} (h : s.RegsOnly u) : u.apClosed l = { s with regs := (u.apClosed l).regs, pcie := (u.apClosed l).pcie } := by
  rw [h]
  rfl

/-- Link `l` may come up at this speed and width. -/
def State.apMayTrain (s : State) (l speed width : Nat) : Prop :=
  bit (s.get F.TEN_AP_EN) l = true ∧ l < s.apLinks ∧ s.get F.PWR_STATUS_STATE ≤ 2 ∧ 1 ≤ speed ∧ 1 ≤ width ∧ width ≤ apLanes (s.get F.TEN_AP_BIF)

theorem State.apLink_of_refused {speed width : Nat} (h : ¬s.apMayTrain l speed width) : s.apLink l speed width true = s := by
  rw [State.apLink]
  refine if_pos ?_
  rw [Bool.true_and, Bool.not_eq_true', ← Bool.not_eq_true]
  intro hok
  simp only [Bool.and_eq_true, decide_eq_true_eq] at hok
  obtain ⟨⟨⟨⟨⟨⟨hen, hl⟩, hstate⟩, hspeed⟩, -⟩, hwidth⟩, hlanes⟩ := hok
  exact h ⟨hen, hl, hstate, hspeed, hwidth, hlanes⟩

theorem State.apLink_of_up {speed width : Nat} (h : s.apMayTrain l speed width) (hspeed : speed ≤ 6) : s.apLink l speed width true =
    if s.on (F.TEN_APL_UP l) then s.aplSet l speed width 1
    else (s.aplSet l speed width 1).trace 0x08 (0xE0 + l) 0 0 (leBytes 1 3 ++ leBytes 1 l ++ leBytes 1 1) := by
  obtain ⟨hen, hl, hstate, hspeed1, hwidth, hlanes⟩ := h
  rw [State.apLink]
  dsimp only
  rw [if_neg (by simp [hen, hl, hstate, hspeed, hspeed1, hwidth, hlanes])]
  exact ite_of_iff beq_iff_eq rfl rfl

theorem State.apLink_of_down {speed width : Nat} : s.apLink l speed width false =
    if s.on (F.TEN_APL_UP l) then ((s.aplSet l 0 0 0).apClosed l).trace 0x08 (0xE0 + l) 0 0 (leBytes 1 3 ++ leBytes 1 l ++ leBytes 1 0)
    else (s.aplSet l 0 0 0).apClosed l := by
  rw [State.apLink]
  dsimp only
  rw [Bool.false_and, if_neg Bool.false_ne_true]
  cases s.on (F.TEN_APL_UP l)
  · rfl
  · rfl

/-! ### The mailbox (R554) -/

theorem exec_apcfgMailbox {w : Word} {answer : Option Word} (h : s.boot.phase ≠ .restart) :
    exec (.apcfgMailbox w answer) s = .next (s.apConfig w.toNat answer) := congrArg _ (if_pos (by simp [State.blockOpen, h]))

section
variable {w : Nat} {answer : Option Word}

/-- The mailbox's command taken. -/
def State.apCommand (s : State) (w : Nat) : State := s.set (F.TEN_APCFG 2) (putBit w 0 false)

theorem State.apCommand_get {g : Fld} (h : g.addr ≠ 0x300128) : (s.apCommand w).get g = s.get g :=
  State.get_set_apart (f := F.TEN_APCFG 2) (by decide) (.inl h)

/-- The mailbox's request sent on its link. -/
def State.apAsked (s : State) (w : Nat) : State := (s.apCommand w).out
  (.apConfig (bitsOf (s.get (F.TEN_APCFG 0)) 28 2) (bitsOf (s.get (F.TEN_APCFG 0)) 0 28) (bit w 1) (s.get (F.TEN_APCFG 1)))

theorem State.apConfig_of_go (hgo : bit w 0 = true) : s.apConfig w answer =
    if s.on F.TEN_AP_MODE && bit (s.get F.TEN_AP_EN) (bitsOf (s.get (F.TEN_APCFG 0)) 28 2) && decide (bitsOf (s.get (F.TEN_APCFG 0)) 28 2 < s.apLinks) then
      match answer with
      | some v => (if bit w 1 then s.apAsked w else (s.apAsked w).set (F.TEN_APCFG 1) v.toNat).set (F.TEN_APCFG 3) 1
      | none => (s.apAsked w).set (F.TEN_APCFG 3) 3
    else (s.apCommand w).set (F.TEN_APCFG 3) 3 := by
  have hmode : (s.apCommand w).on F.TEN_AP_MODE = s.on F.TEN_AP_MODE := by rw [State.on, State.on, State.apCommand_get (by decide)]
  have hlinks : (s.apCommand w).apLinks = s.apLinks := by rw [State.apLinks, State.apLinks, State.apCommand_get (by decide)]
  rw [State.apConfig, if_pos hgo]
  dsimp only
  rw [← State.apCommand, hmode, hlinks, State.apCommand_get (g := F.TEN_AP_EN) (by decide), State.apCommand_get (g := F.TEN_APCFG 1) (by decide), ← State.apAsked] <;> rfl

end

end

theorem exec_apInboundRequest {s : State} {l : ApLink} {addr : DWord} {n : Fin 4097} {read poi sec : Bool} {data : List Byte}
    (hup : s.on (F.TEN_APL_UP l.val) = true) (hstate : s.get F.PWR_STATUS_STATE ≤ 2) : exec (.apInboundRequest l addr n read data poi sec) s =
    .next ((s.wake 2).apRequest l.val addr.toNat n.val read data poi sec) := congrArg _ (if_pos (by simp [hup, hstate]))

/-- Settles O44. -/
theorem acceleratorPortIsGuarded : Obligations.AcceleratorPortIsGuarded := by
  unfold Obligations.AcceleratorPortIsGuarded
  intro s l addr n data read sec poi sp wd w2 answer
  refine ⟨fun a m hup hstate ha hm => ?_, fun h => congrArg _ (if_neg (by obtain h | h := h <;> simp [h]; omega)), fun ok hok => ⟨fun hno => ?_, fun hyes => ?_⟩, ?_,
    fun h => congrArg _ (if_pos h), fun h => congrArg _ (if_neg (ne_true_of_eq_false h)), fun h1 h2 => congrArg _ (if_pos (by simp [h1, h2])),
    fun h => congrArg _ (if_neg (by obtain h | h := h <;> simp [h])), fun h => congrArg _ (if_neg (by simp [State.blockOpen, h])), fun h => ⟨fun hgo => ?_, fun b k m hgo hb hk hm => ⟨fun hno => ?_, fun q hmode hen hlink hq => ?_⟩⟩⟩
  · subst ha
    simp only [exec_apInboundRequest hup hstate]
    refine ⟨fun h => ?_, fun hsec => ⟨?_, fun hpoi => ⟨fun hrst => ?_, fun hrun => ⟨fun hnone => ?_, fun i o t hbar hfind ho ht => ?_⟩⟩⟩⟩
    · rw [State.apRequest_of_insecure h]
    · rw [State.apRequest_of_poisoned hsec]
    · rw [State.apRequest_of_restart hsec hpoi hrst]
    · rw [State.apRequest_of_none hsec hpoi hm hrun (State.apHit_eq_none hnone)]
    · have hhit := (State.apHit_of_inBar hbar).trans hfind
      subst ho ht
      refine ⟨fun hkind hoff hlen => ?_, fun hkind hnarrow => ?_, fun hkind hright => ?_, fun hkind hright => ⟨fun hw => ?_, fun w g p d hw hp hd hin hbridle => ⟨fun hread => ?_, fun bs v hread hmem => ?_⟩,
        fun w p d hw hp hd hout => ?_, fun w g p d hw hp hd hin hbridle => ?_⟩⟩
      · rw [State.apRequest_of_counters hsec hpoi hm hrun hhit hkind, State.apCounters_of_words hoff hlen]
      · rw [State.apRequest_of_counters hsec hpoi hm hrun hhit hkind, State.apCounters_of_narrow hnarrow]
      · rw [State.apRequest_of_unable hsec hpoi hm hrun hhit hkind hright]
      · rw [State.apRequest_of_revoked hsec hpoi hm hrun hhit hkind hright hw]
      · subst hp hd hread
        rw [State.apRequest_of_window hsec hpoi hm hrun hhit hkind hright hw, State.apMemory_of_write hin hbridle]
      · subst hp hd hread
        rw [State.apRequest_of_window hsec hpoi hm hrun hhit hkind hright hw, State.apMemory_of_read hin hbridle hmem]
      · subst hp hd
        rw [State.apRequest_of_window hsec hpoi hm hrun hhit hkind hright hw, State.apMemory_of_outside hout]
      · subst hp hd
        rw [State.apRequest_of_window hsec hpoi hm hrun hhit hkind hright hw, State.apMemory_of_denied hin hbridle]
  · exact congrArg Host.Outcome.next (State.apLink_of_refused fun h => hno (hok.mpr h))
  · refine ⟨s.aplSet l.val sp.val wd.val 1, congrArg Host.Outcome.next (State.apLink_of_up (hok.mp hyes) (by omega)), State.aplSet_up _ _ true,
      State.aplSet_speed (by omega), State.aplSet_width (by omega), State.aplSet_regsOnly _ _ _⟩
  · refine ⟨(s.aplSet l.val 0 0 0).apClosed l.val, congrArg Host.Outcome.next State.apLink_of_down, ?_, ?_, ?_, bit_putBit _ _ _, fun x hx => ?_, ?_⟩
    · rw [State.apClosed_on]
      exact State.aplSet_up 0 0 false
    · rw [State.apClosed_get, State.aplSet_speed (by decide)]
    · rw [State.apClosed_get, State.aplSet_width (by decide)]
    · simpa using (List.mem_filter.mp hx).2
    · exact State.apClosed_frame (State.aplSet_regsOnly 0 0 0)
  · rw [exec_apcfgMailbox h]
    exact congrArg _ (if_neg (ne_true_of_eq_false hgo))
  · subst hb hk hm
    rw [exec_apcfgMailbox h, State.apConfig_of_go hgo]
    refine congrArg _ (if_neg ?_)
    obtain hno | hno | hno := hno
    · simp [hno]
    · simp [hno]
    · simp [Nat.not_lt.mpr hno]
  · subst hb hk hm hq
    rw [exec_apcfgMailbox h, State.apConfig_of_go hgo, if_pos (by simp [hmode, hen, hlink])]
    cases answer <;> rfl

end Sys2Proof.Machine
end


section

/-! Windows and descriptors: created, revoked, destroyed. -/

namespace Sys2Proof.Machine

/-! ### Windows (R100 to R102, R193, R194) -/

section
variable {s u : State} {id : Nat} {c : Cmd}

theorem State.freeWin_of_winCheck {p : Packet} (h : u.winCheck p = none) : ∃ i, u.freeWin = some i := by
  refine Option.isSome_iff_exists.mp ?_
  refine Classical.byContradiction fun hno => ?_
  unfold State.winCheck at h
  extract_lets at h
  split at h
  · cases h
  split at h
  · cases h
  split at h
  · cases h
  split at h
  · cases h
  · next hfree => exact hfree (by simpa using hno)

theorem State.winCreate_of_refused (hc : u.cmd? id = some c) {r : Nat × Nat} (h : u.winCheck c.pkt = some r) : u.winCreate id = u.reject id r := by
  rw [State.winCreate, hc]
  dsimp only
  rw [h]

/-- The window that packet `p` describes. -/
def winOf (p : Packet) : Window :=
  ⟨daSpace (leAt p 24 8), daOff (leAt p 24 8), leAt p 32 8, bitsOf (leAt p 40 1) 0 4, bit (leAt p 41 1) 0, bit (leAt p 41 1) 1⟩

theorem State.winCreate_of_passed (hc : u.cmd? id = some c) (h : u.winCheck c.pkt = none) {i : Nat} (hi : u.freeWin = some i) :
    u.winCreate id = (u.setWin i ⟨(u.winSlot i).gen, some (winOf c.pkt)⟩).finish id stDONE i := by
  rw [State.winCreate, hc]
  dsimp only
  rw [h]
  dsimp only
  rw [hi]
  rfl

/-- Slot `i` under its next generation, with the command that waits for what passed the old one. -/
def State.winMoved (u : State) (c : Cmd) (i : Nat) (w : Option Window) : State :=
  (u.setWin i ⟨min 0xFFFF ((u.winSlot i).gen + 1), w⟩).setCmd
    { c with phase := .running, drain := (u.cmds.filter fun x => x.id != c.id && u.cmdUses i (u.winSlot i).gen x).map (·.id)
             handles := [i], cursor := (u.winSlot i).gen }

theorem State.winMoved_slot (i : Nat) (w : Option Window) : (u.winMoved c i w).winSlot i = ⟨min 0xFFFF ((u.winSlot i).gen + 1), w⟩ := by
  have hwins : (u.winMoved c i w).wins = kvIns i ⟨min 0xFFFF ((u.winSlot i).gen + 1), w⟩ u.wins := rfl
  rw [State.winSlot, hwins, kvFind_kvIns_same]
  rfl

theorem State.winMoved_frame (i : Nat) (w : Option Window) :
    u.winMoved c i w = { u with wins := (u.winMoved c i w).wins, cmds := (u.winMoved c i w).cmds } := rfl

/-- The rights of window `w` after a revocation by packet `p`. -/
def Window.under (w : Window) (p : Packet) : Window :=
  { w with owner := bitsOf (leAt p 28 1) 0 4, r := bit (leAt p 29 1) 0, w := bit (leAt p 29 1) 1 }

theorem State.winRevoke_of_live (hc : u.cmd? id = some c) (hid : c.id = id) {w : Window} (hw : (u.winSlot (leAt c.pkt 24 2)).win = some w)
    (hgen : leAt c.pkt 26 2 = (u.winSlot (leAt c.pkt 24 2)).gen) {d : Bool} (hlast : d = true ∨ (u.winSlot (leAt c.pkt 24 2)).gen < 0xFFFF) :
    u.winRevoke id d = u.winMoved c (leAt c.pkt 24 2) (if d then none else some (w.under c.pkt)) := by
  subst hid
  rw [State.winRevoke, hc]
  dsimp only
  rw [hw]
  refine if_neg ?_
  obtain rfl | hlast := hlast
  · simp [hgen]
  · simp [hgen, Nat.ne_of_lt hlast]

theorem State.winDrained_of_running (hc : u.cmd? id = some c) (hop : c.op = 0x09 ∨ c.op = 0x0A) (hphase : c.phase = .running) :
    u.winDrained id = if u.drained c then u.fail id stDONE else u := by
  rw [State.winDrained, hc]
  refine ite_of_iff ?_ rfl rfl
  obtain hop | hop := hop <;> simp [hop, hphase]

theorem exec_windowDrainComplete : exec (.windowDrainComplete id) s = .next (s.winDrained id) := rfl

/-! ### Descriptors (R104, R113, R195, R196) -/

section
variable {fails : Bool} (hc : u.cmd? id = some c) {r₁ : Option Nat} {u₁ : State}
  (h₁ : u.areaCheck c.tenant (dcTable c.pkt) (leAt c.pkt 32 2) (leAt c.pkt 34 2) (128 * dcCount c.pkt) false = (r₁, u₁))
include hc h₁

theorem State.descCreate_of_table {st : Nat} (h : r₁ = some st) : u.descCreate id fails = u₁.finish id st 0 := by
  subst h
  rw [State.descCreate, hc]
  dsimp only
  rw [h₁]

variable (hr₁ : r₁ = none) {r₂ : Option Nat} {u₂ : State}
  (h₂ : (if dcBack c.pkt then u₁.areaCheck c.tenant (dcTable c.pkt) (leAt c.pkt 32 2) (leAt c.pkt 34 2) (128 * dcCount c.pkt) true else (none, u₁)) = (r₂, u₂))
include hr₁ h₂

theorem State.descCreate_of_back {st : Nat} (h : r₂ = some st) : u.descCreate id fails = u₂.finish id st 0 := by
  subst h hr₁
  rw [State.descCreate, hc]
  dsimp only
  rw [h₁]
  dsimp only
  rw [h₂]

variable (hr₂ : r₂ = none) {r₃ : Option Nat} {u₃ : State} (h₃ : (if dcEcho c.pkt = 0 then (none, u₂)
    else u₂.areaCheck c.tenant (dcEcho c.pkt) (leAt c.pkt 48 2) (leAt c.pkt 50 2) (4 * dcCount c.pkt) true) = (r₃, u₃))
include hr₂ h₃

theorem State.descCreate_of_echo {st : Nat} (h : r₃ = some st) : u.descCreate id fails = u₃.finish id st 0 := by
  subst hr₁ hr₂ h
  rw [State.descCreate, hc]
  dsimp only
  rw [h₁]
  dsimp only
  rw [h₂]
  dsimp only
  rw [h₃]

theorem State.descCreate_of_areas (h : r₃ = none) : u.descCreate id fails = (u₃.setCmd { c with phase := .running }).descRun id fails 65 := by
  subst hr₁ hr₂ h
  rw [State.descCreate, hc]
  dsimp only
  rw [h₁]
  dsimp only
  rw [h₂]
  dsimp only
  rw [h₃]

end

/-- The handles of a DESC_DESTROY. -/
def destroyed (p : Packet) : List Nat := (List.range (leAt p 24 1)).map fun i => leAt p (28 + 4 * i) 4

theorem State.descDestroy_of_unknown (hc : u.cmd? id = some c) (h : ∃ h ∈ destroyed c.pkt, u.handleAny c.tenant h = none) :
    u.descDestroy id = u.fail id stREJ_HANDLE := by
  obtain ⟨h, hmem, hnone⟩ := h
  rw [State.descDestroy, hc]
  refine if_pos ?_
  rw [Bool.or_eq_true]
  exact .inl (List.any_eq_true.mpr ⟨h, hmem, by rw [hnone]; rfl⟩)

theorem eraseDups_of_nodup {l : List Nat} (h : l.Nodup) : l.eraseDups = l := by
  induction l with
  | nil => rfl
  | cons a l ih =>
    obtain ⟨ha, hl⟩ := List.nodup_cons.mp h
    have hfilter : l.filter (fun b => !b == a) = l := List.filter_eq_self.mpr fun b hb => by
      have hne : b ≠ a := fun h => ha (h ▸ hb)
      simpa using hne
    rw [List.eraseDups_cons, hfilter, ih hl]

theorem State.descDestroy_of_known (hc : u.cmd? id = some c) (h : ∀ h ∈ destroyed c.pkt, (u.handleAny c.tenant h).isSome = true) (hnodup : (destroyed c.pkt).Nodup) :
    u.descDestroy id = ((destroyed c.pkt).foldl (fun s h => s.setDesc (h % 65536) ⟨min 0xFFFF ((s.descSlot (h % 65536)).gen + 1), none⟩) u).fail id stDONE := by
  rw [State.descDestroy, hc]
  refine if_neg ?_
  rw [Bool.or_eq_true, decide_eq_true_eq, not_or, List.any_eq_true]
  refine ⟨?_, Classical.not_not.mpr (congrArg List.length (eraseDups_of_nodup hnodup))⟩
  rintro ⟨x, hmem, hnone⟩
  have hsome := h x hmem
  rw [Option.isNone_iff_eq_none] at hnone
  rw [hnone] at hsome
  cases hsome

end

section
variable {s u : State} {id : Nat} {c : Cmd}

theorem State.winQueryTimeout_of_req {r : Req} (hr : s.rein.reqs.find? (fun (x : Req) => x.cmd == id && x.mop == 0x02) = some r)
    (hu : u = s.advance (r.at_ + 100000)) (hc : u.cmd? id = some c) : s.winQueryTimeout id =
    ({ u with rein := { u.rein with reqs := u.rein.reqs.filter (fun (x : Req) => x.tag != r.tag) } } : State).descEnd c stFAULT_LINK := by
  subst hu
  have hc' : State.cmd? { s.advance (r.at_ + 100000) with rein := { (s.advance (r.at_ + 100000)).rein with
      reqs := (s.advance (r.at_ + 100000)).rein.reqs.filter (fun (x : Req) => x.tag != r.tag) } } id = some c := hc
  rw [State.winQueryTimeout, hr]
  dsimp only
  rw [hc']

theorem exec_winQueryTimeout : exec (.winQueryTimeout id) s = .next (s.winQueryTimeout id) := rfl

end

/-- Settles O24. -/
theorem windowsAndDescriptorsAreCreatedAndRevoked : Obligations.WindowsAndDescriptorsAreCreatedAndRevoked := by
  unfold Obligations.WindowsAndDescriptorsAreCreatedAndRevoked
  refine ⟨fun s t q p => ⟨fun hrow u hu => ?_, fun hrow u i w hu hi hw hgen hlast => ?_, fun hrow u i w hu hi hw hgen => ?_, fun id c hc hop hphase => ⟨fun hd => ?_, fun hd => ?_⟩⟩,
    fun s t q p fails c => ⟨fun hrow hc r₁ u₁ r₂ u₂ r₃ u₃ h₁ h₂ h₃ => ?_, fun hrow hs u hu hhs => ?_, fun id r hr _ hc => ?_⟩⟩
  · obtain ⟨c, hc, -, -, -, hpkt, -, hexec⟩ := State.opcode_taken s _ _ _ _ _ (by decide) (by decide) hrow
    have hexec' : exec (.winCreate t q p) s = .next (u.winCreate s.nextId) := congrArg Host.Outcome.next (hu ▸ hexec)
    rw [← hu] at hc
    rw [hexec', ← hpkt]
    refine ⟨fun r hr => by rw [State.winCreate_of_refused hc hr], fun hpass => ?_⟩
    obtain ⟨i, hi⟩ := State.freeWin_of_winCheck hpass
    exact ⟨i, winOf c.pkt, hi, rfl, rfl, rfl, by rw [State.winCreate_of_passed hc hpass hi]⟩
  · obtain ⟨c, hc, hid, -, -, hpkt, -, hexec⟩ := State.opcode_taken s _ _ _ _ _ (by decide) (by decide) hrow
    have hexec' : exec (.winRevoke t q p) s = .next (u.winRevoke s.nextId false) := congrArg Host.Outcome.next (hu ▸ hexec)
    rw [← hu] at hc
    subst hi
    rw [← hpkt] at hw hgen hlast ⊢
    refine ⟨u.winMoved c (leAt c.pkt 24 2) (some (w.under c.pkt)), ?_, ?_, ?_, State.winMoved_frame _ _⟩
    · rw [hexec', State.winRevoke_of_live hc hid hw hgen (.inr hlast)]
      rfl
    · rw [State.winMoved_slot]
      exact Nat.min_eq_right hlast
    · rw [State.winMoved_slot]
      rfl
  · obtain ⟨c, hc, hid, -, -, hpkt, -, hexec⟩ := State.opcode_taken s _ _ _ _ _ (by decide) (by decide) hrow
    have hexec' : exec (.winDestroy t q p) s = .next (u.winRevoke s.nextId true) := congrArg Host.Outcome.next (hu ▸ hexec)
    rw [← hu] at hc
    subst hi
    rw [← hpkt] at hw hgen ⊢
    refine ⟨u.winMoved c (leAt c.pkt 24 2) none, ?_, ?_, ?_, State.winMoved_frame _ _⟩
    · rw [hexec', State.winRevoke_of_live hc hid hw hgen (.inl rfl)]
      rfl
    · rw [State.winMoved_slot]
    · rw [State.winMoved_slot]
  · rw [exec_windowDrainComplete, State.winDrained_of_running hc hop hphase, if_pos hd]
  · rw [exec_windowDrainComplete, State.winDrained_of_running hc hop hphase, if_neg (ne_true_of_eq_false hd)]
  · obtain ⟨d, hd, -, -, -, -, -, hexec⟩ := State.opcode_taken s _ _ _ _ _ (by decide) (by decide) hrow
    have hexec' : exec (.descCreate t q p fails) s = .next ((s.rowTaken t.val q.val 0x0C p).descCreate s.nextId fails) := congrArg Host.Outcome.next hexec
    rw [hexec']
    exact ⟨fun st h => by rw [State.descCreate_of_table hc h₁ h], fun st hr h => by rw [State.descCreate_of_back hc h₁ hr h₂ h],
      fun st hr hr' h => by rw [State.descCreate_of_echo hc h₁ hr h₂ hr' h₃ h], fun hr hr' h => by rw [State.descCreate_of_areas hc h₁ hr h₂ hr' h₃ h]⟩
  · obtain ⟨c, hc, -, ht, -, hpkt, -, hexec⟩ := State.opcode_taken s _ _ _ _ _ (by decide) (by decide) hrow
    have hexec' : exec (.descDestroy t q p) s = .next (u.descDestroy s.nextId) := congrArg Host.Outcome.next (hu ▸ hexec)
    rw [← hu] at hc
    have hlist : hs = destroyed c.pkt := by rw [hhs, hpkt, destroyed]
    rw [hexec', ← ht, hlist]
    exact ⟨fun h => by rw [State.descDestroy_of_unknown hc h], fun h hnodup => by rw [State.descDestroy_of_known hc h hnodup]⟩
  · rw [exec_winQueryTimeout, State.winQueryTimeout_of_req hr rfl hc]

end Sys2Proof.Machine
end


section

/-! Formats and graphs: HELLO, GRAPH_LOAD and GRAPH_UNLOAD. -/

namespace Sys2Proof.Machine

section
variable {s u : State} {id : Nat} {c : Cmd} (hc : u.cmd? id = some c)
include hc

/-! ### HELLO (R176) -/

/-- A HELLO that would change the format of a tenant with other commands or records on the way. -/
def State.helloBusy (u : State) (t m id : Nat) : Prop :=
  u.on (F.TP_FMT_SET t) = true ∧ u.get (F.TP_FMT_MAJOR t) ≠ m ∧
    (u.cmds.any (fun (x : Cmd) => x.tenant == t && x.id != id) || !(u.tenantSt t).pendingRecs.isEmpty) = true

/-- The graphs of a tenant that changes its format unloaded. -/
def State.helloUnloaded (u : State) (t m : Nat) : State :=
  if u.on (F.TP_FMT_SET t) && u.get (F.TP_FMT_MAJOR t) != m then { u with graphs := u.graphs.filter fun (g : Graph) => g.tenant != t } else u

/-- The result of a HELLO that sets format `m`. -/
def State.helloResult (u v : State) (m : Nat) : Nat :=
  m * 256 + v.get F.GLB_ID_STEPPING * 65536 + (if u.get F.FW_STATUS_PAIRING = 3 then 1 else u.get F.FW_STATUS_PAIRING) * 2 ^ 24

omit hc in
theorem State.helloResult_parts {v : State} {m : Nat} (h : m = 3 ∨ m = 2) : u.helloResult v m % 256 = 0 ∧ u.helloResult v m / 256 % 256 = m := by
  rw [State.helloResult]
  omega

theorem State.hello_of_other (h3 : leAt c.pkt 24 1 ≠ 3) (h2 : leAt c.pkt 24 1 ≠ 2) :
    u.hello id = u.finish id stREJ_COMPAT (3 * 256 + 2 * 65536) := by
  rw [State.hello, hc]
  exact if_pos (by simp [h3, h2])

variable (hm : leAt c.pkt 24 1 = 3 ∨ leAt c.pkt 24 1 = 2)
include hm

theorem State.hello_of_busy (h : u.helloBusy c.tenant (leAt c.pkt 24 1) id) : u.hello id = u.fail id stREJ_BUSY := by
  obtain ⟨hset, hmajor, hbusy⟩ := h
  rw [State.hello, hc]
  refine (if_neg ?_).trans (if_pos ?_)
  · obtain hm | hm := hm <;> simp [hm]
  · rw [hset, hbusy, bne_iff_ne.mpr hmajor]
    rfl

theorem State.hello_of_free (h : ¬u.helloBusy c.tenant (leAt c.pkt 24 1) id) : u.hello id =
    ((u.helloUnloaded c.tenant (leAt c.pkt 24 1)).formatSet c.tenant (leAt c.pkt 24 1)).finish id stDONE
      (u.helloResult (u.helloUnloaded c.tenant (leAt c.pkt 24 1)) (leAt c.pkt 24 1)) := by
  rw [State.hello, hc]
  refine (if_neg ?_).trans (if_neg ?_)
  · obtain hm | hm := hm <;> simp [hm]
  · intro hbusy
    obtain ⟨hboth, hbusy⟩ := Bool.and_eq_true_iff.mp hbusy
    obtain ⟨hset, hmajor⟩ := Bool.and_eq_true_iff.mp hboth
    exact h ⟨hset, bne_iff_ne.mp hmajor, hbusy⟩

end

/-! ### GRAPH_LOAD (R216, R314) -/

theorem findSome?_range_eq_none {α : Type} {f : Nat → Option α} {n : Nat} (h : ∀ i, i < n → f i = none) : (List.range n).findSome? f = none :=
  List.findSome?_eq_none_iff.mpr fun i hi => h i (List.mem_range.mp hi)

theorem findSome?_range_of_first {α : Type} {f : Nat → Option α} {n i : Nat} {a : α} (hi : i < n) (ha : f i = some a) (h : ∀ j, j < i → f j = none) :
    (List.range n).findSome? f = some a := by
  induction n with
  | zero => omega
  | succ n ih =>
    rw [List.range_succ, List.findSome?_append]
    by_cases hlt : i < n
    · rw [ih hlt]
      rfl
    · have heq : i = n := by omega
      subst heq
      rw [findSome?_range_eq_none h]
      simp [ha]

/-- The node entries of a list `l` of `n`. -/
def nodeList (l : List Byte) (n : Nat) : List (List Byte) := (List.range n).map fun i => slice l (320 * i) 320

theorem nodeList_getD {l : List Byte} {n i : Nat} (h : i < n) : (nodeList l n).getD i [] = slice l (320 * i) 320 := by
  simp [nodeList, List.getD_eq_getElem?_getD, h]

/-- The first node of `es` that fails at `w`, with its status and byte. -/
def State.badNode (w : State) (t n : Nat) (es : List (List Byte)) : Option (Nat × Nat × Nat) :=
  (List.range n).findSome? fun i => (w.nodeCheck t (es.getD i [])).map fun r => (i, r)

/-- The graph of the nodes `es`. -/
def graphOf (t g first : Nat) (es : List (List Byte)) : Graph :=
  ⟨t, g, first, es.map fun e => { entry := e, aff := (⟨e, none, .idle, 0⟩ : Node).affHint, st := .idle, readyAt := 0 }, 0, none⟩

theorem graphOf_entries (t g first : Nat) (es : List (List Byte)) : (graphOf t g first es).nodes.map (·.entry) = es := by
  rw [graphOf, List.map_map]
  exact List.map_id _

section
variable {u v w : State} {id : Nat} {c : Cmd} {fails : Bool} (hc : u.cmd? id = some c)
include hc

theorem State.graphLoad_of_refused {st : Nat} (h : u.loadCheck c.tenant c.pkt = some st) : u.graphLoad id fails = u.fail id st := by
  rw [State.graphLoad, hc]
  dsimp only
  rw [h]

variable (hcheck : u.loadCheck c.tenant c.pkt = none)
include hcheck

theorem State.graphLoad_of_area {st : Nat} (h : u.loadArea c.tenant c.pkt = (some st, v)) : u.graphLoad id fails = v.fail id st := by
  rw [State.graphLoad, hc]
  dsimp only
  rw [hcheck]
  dsimp only
  rw [h]

variable (harea : u.loadArea c.tenant c.pkt = (none, v))
include harea

theorem State.graphLoad_of_unread {st : Nat} (h : v.areaRead c.tenant (pSeq c.pkt) (leAt c.pkt 36 8) (320 * leAt c.pkt 32 2) fails = (.error st, w)) :
    u.graphLoad id fails = w.fail id st := by
  rw [State.graphLoad, hc]
  dsimp only
  rw [hcheck]
  dsimp only
  rw [harea]
  dsimp only
  rw [h]

variable {l : List Byte} (hread : v.areaRead c.tenant (pSeq c.pkt) (leAt c.pkt 36 8) (320 * leAt c.pkt 32 2) fails = (.ok l, w))
include hread

theorem State.graphLoad_of_bad {i st b : Nat} (h : w.badNode c.tenant (leAt c.pkt 32 2) (nodeList l (leAt c.pkt 32 2)) = some (i, st, b)) :
    u.graphLoad id fails = (w.gerr c.tenant i b).fail id st := by
  unfold State.badNode nodeList at h
  rw [State.graphLoad, hc]
  dsimp only
  rw [hcheck]
  dsimp only
  rw [harea]
  dsimp only
  rw [hread]
  dsimp only
  rw [h]

/-- The graph added to those of its device. -/
def State.withGraph (w : State) (t g first : Nat) (es : List (List Byte)) : State :=
  { w.dropGraph t g with graphs := (w.dropGraph t g).graphs ++ [graphOf t g first es] }

theorem State.graphLoad_of_good (h : w.badNode c.tenant (leAt c.pkt 32 2) (nodeList l (leAt c.pkt 32 2)) = none) : u.graphLoad id fails =
    (w.withGraph c.tenant (leAt c.pkt 24 1) (leAt c.pkt 28 4) (nodeList l (leAt c.pkt 32 2))).fail id stDONE := by
  unfold State.badNode nodeList at h
  rw [State.graphLoad, hc]
  dsimp only
  rw [hcheck]
  dsimp only
  rw [harea]
  dsimp only
  rw [hread]
  dsimp only
  rw [h]
  rfl

end

section
variable {w : State} {t n : Nat} {l : List Byte}

theorem State.badNode_of_first {i st b : Nat} (hi : i < n) (hbad : w.nodeCheck t (slice l (320 * i) 320) = some (st, b))
    (h : ∀ j, j < i → w.nodeCheck t (slice l (320 * j) 320) = none) : w.badNode t n (nodeList l n) = some (i, st, b) := by
  refine findSome?_range_of_first hi ?_ fun j hj => ?_
  · rw [nodeList_getD hi, hbad]
    rfl
  · rw [nodeList_getD (Nat.lt_trans hj hi), h j hj]
    rfl

theorem State.badNode_eq_none (h : ∀ i, i < n → w.nodeCheck t (slice l (320 * i) 320) = none) : w.badNode t n (nodeList l n) = none :=
  findSome?_range_eq_none fun i hi => by
    rw [nodeList_getD hi, h i hi]
    rfl

end

/-! ### GRAPH_UNLOAD (R218) -/

section
variable {u : State} {id : Nat} {c : Cmd} (hc : u.cmd? id = some c)
include hc

theorem State.graphUnload_of_none (h : u.graph? c.tenant (leAt c.pkt 24 1) = none) : u.graphUnload id = u.fail id stREJ_HANDLE := by
  rw [State.graphUnload, hc]
  dsimp only
  rw [h]

theorem State.graphUnload_of_graph {g : Graph} (h : u.graph? c.tenant (leAt c.pkt 24 1) = some g) :
    u.graphUnload id = if g.launch.isSome then u.fail id stREJ_BUSY else (u.dropGraph c.tenant g.id).fail id stDONE := by
  rw [State.graphUnload, hc]
  dsimp only
  rw [h]

end

/-- Settles O25. -/
theorem formatsAndGraphsAreLoaded : Obligations.FormatsAndGraphsAreLoaded := by
  unfold Obligations.FormatsAndGraphsAreLoaded
  intro s t q p fails
  refine ⟨fun hrow u m hu hm => ?_, fun hrow u k hu hk => ?_, fun hrow u hu hnone => ?_, fun hrow u g hu hg => ?_⟩
  · obtain ⟨c, hc, -, ht, -, hpkt, -, hexec⟩ := State.opcode_taken s _ _ _ _ _ (by decide) (by decide) hrow
    have hexec' : exec (.hello t q p) s = .next (u.hello s.nextId) := congrArg Host.Outcome.next (hu ▸ hexec)
    rw [← hu] at hc
    rw [← hpkt] at hm
    rw [hexec', ← ht]
    subst hm
    refine ⟨fun h3 h2 => by rw [State.hello_of_other hc h3 h2], fun hm hset => ?_, fun hm hset busy hbusy => ⟨fun hmajor hb => ?_, fun hfree v hv => ?_⟩⟩
    · refine ⟨u.helloResult u (leAt c.pkt 24 1), ?_, State.helloResult_parts hm⟩
      rw [State.hello_of_free hc hm fun h => by simp [State.helloBusy, hset] at h, State.helloUnloaded, if_neg (by simp [hset])]
      rfl
    · rw [State.hello_of_busy hc hm ⟨hset, hmajor, hbusy ▸ hb⟩]
    · refine ⟨u.helloResult v (leAt c.pkt 24 1), ?_, State.helloResult_parts hm⟩
      have hunl : u.helloUnloaded c.tenant (leAt c.pkt 24 1) = v := by
        rw [State.helloUnloaded, hv, hset, Bool.true_and]
        split <;> split <;> simp_all
      rw [State.hello_of_free hc hm fun h => ?_, hunl]
      · rfl
      · obtain ⟨-, hmajor, hb⟩ := h
        rw [← hbusy] at hb
        obtain hfree | hfree := hfree
        · exact hmajor hfree
        · exact Bool.false_ne_true (hfree.symm.trans hb)
  · obtain ⟨c, hc, -, ht, -, hpkt, -, hexec⟩ := State.opcode_taken s _ _ _ _ _ (by decide) (by decide) hrow
    have hexec' : exec (.graphLoad t q p fails) s = .next (u.graphLoad s.nextId fails) := congrArg Host.Outcome.next (hu ▸ hexec)
    rw [← hu] at hc
    rw [← hpkt] at hk
    rw [hexec', ← ht]
    subst hk
    refine ⟨fun st h => by rw [State.graphLoad_of_refused hc h], fun hcheck st v harea => by rw [State.graphLoad_of_area hc hcheck harea],
      fun hcheck v w st harea hread => by rw [State.graphLoad_of_unread hc hcheck harea hread], fun hcheck v w l i st b harea hread hi hbad hfirst => ?_,
      fun hcheck v w l harea hread hall => ?_⟩
    · rw [State.graphLoad_of_bad hc hcheck harea hread (State.badNode_of_first hi hbad hfirst)]
    · exact ⟨_, graphOf c.tenant (leAt c.pkt 24 1) (leAt c.pkt 28 4) (nodeList l (leAt c.pkt 32 2)),
        by rw [State.graphLoad_of_good hc hcheck harea hread (State.badNode_eq_none hall)], rfl, rfl, rfl, rfl, graphOf_entries _ _ _ _, rfl⟩
  · obtain ⟨c, hc, -, ht, -, hpkt, -, hexec⟩ := State.opcode_taken s _ _ _ _ _ (by decide) (by decide) hrow
    have hexec' : exec (.graphUnload t q p) s = .next (u.graphUnload s.nextId) := congrArg Host.Outcome.next (hu ▸ hexec)
    rw [← hu] at hc
    rw [← hpkt, ← ht] at hnone
    rw [hexec', State.graphUnload_of_none hc hnone]
  · obtain ⟨c, hc, -, ht, -, hpkt, -, hexec⟩ := State.opcode_taken s _ _ _ _ _ (by decide) (by decide) hrow
    have hexec' : exec (.graphUnload t q p) s = .next (u.graphUnload s.nextId) := congrArg Host.Outcome.next (hu ▸ hexec)
    rw [← hu] at hc
    rw [← hpkt, ← ht] at hg
    rw [hexec', State.graphUnload_of_graph hc hg, ← ht]
    exact ⟨fun h => by rw [h]; rfl, fun h => by rw [if_pos (Option.isSome_iff_ne_none.mpr h)]⟩

end Sys2Proof.Machine
end


section

/-! Services of CF: power states, quotes, the Loupe's tables and the plans. -/

namespace Sys2Proof.Machine

/-- The command of a row that CF takes is of no graph. -/
theorem State.rowTaken_node {s : State} {t q op : Nat} {p : List Byte} {fails : Bool} {c : Cmd} (h : s.rowAccepted t q op p fails = true)
    (hc : (s.rowTaken t q op p).cmd? s.nextId = some c) : c.node = none := by
  unfold State.rowAccepted at h
  simp only [Bool.and_eq_true, decide_eq_true_eq] at h
  obtain ⟨⟨⟨hpass, hlen⟩, -⟩, -⟩ := h
  have hnew : (s.cmd? s.nextId).isNone := by
    unfold State.rowPasses at hpass
    simp only [Bool.and_eq_true] at hpass
    exact hpass.1.1.2
  have hcf : ((s.rowDecoded t q op p).toCf s.nextId).cmd? s.nextId = some { s.freshCmd t q (rowPacket op p) none with phase := .atCF } := by
    rw [State.toCf, if_neg (Nat.not_le.mpr hlen)]
    refine (State.cmd?_modCmd _ _ _ (by intro; rfl)).trans ?_
    exact congrArg (Option.map fun x : Cmd => { x with phase := .atCF }) (s.cmd?_rowDecoded t q op p hnew)
  generalize hd : (s.rowDecoded t q op p).toCf s.nextId = d at hcf
  have hfence : (if isFence (rowPacket op p) then d.flushed t q else d).cmd? s.nextId = some { s.freshCmd t q (rowPacket op p) none with phase := .atCF } := by
    split
    · exact hcf
    · exact hcf
  unfold State.rowTaken at hc
  dsimp only at hc
  rw [hd, State.cmd?_modCmd _ _ _ (by intro; rfl)] at hc
  obtain ⟨x, hx, rfl⟩ := Option.map_eq_some_iff.mp hc
  have heq := Option.some.inj (hx.symm.trans hfence)
  rw [heq]
  rfl

theorem Cmd.seqNo_of_packet {c : Cmd} (h : c.node = none) : c.seqNo = pSeq c.pkt := by rw [Cmd.seqNo, h]

section
variable {u v w : State} {id : Nat} {c : Cmd} {fails : Bool} (hc : u.cmd? id = some c)
include hc

/-! ### PWR_REQUEST (R219, R470) -/

theorem State.pwrRequest_of_refused {st : Nat} (h : u.pwrRefusal (leAt c.pkt 24 1) = some st) : u.pwrRequest id =
    (if st = stREJ_PERM then u.debugTrace 5 (u.get F.SEC_DBG_LEVEL) (u.get F.SEC_DBG_LEVEL) else u).fail id st := by
  rw [State.pwrRequest, hc]
  dsimp only
  rw [h]

omit hc in
/-- The entry into state `n` that command `id` asked for, draining. -/
def State.entering (u : State) (id n : Nat) : State :=
  { u.modCmd id fun (c : Cmd) => { c with phase := .running } with pwr := { u.pwr with entry := some (n, some id), entryAt := u.cad.time } }

theorem State.pwrRequest_of_entry (h : u.pwrRefusal (leAt c.pkt 24 1) = none) : u.pwrRequest id = u.entering id (leAt c.pkt 24 1) := by
  rw [State.pwrRequest, hc]
  dsimp only
  rw [h]
  rfl

/-! ### ATTEST_QUOTE (R222) -/

theorem State.attest_of_dead (h : u.dead = true) : u.attest id fails = u.fail id stREJ_PERM := by
  rw [State.attest, hc]
  exact if_pos h

section
variable (hdead : u.dead = false)
include hdead

theorem State.attest_of_small (h : leAt c.pkt 68 2 < 4096) : u.attest id fails = u.fail id stREJ_BOUNDS := by
  rw [State.attest, hc]
  exact (if_neg (ne_true_of_eq_false hdead)).trans (if_pos h)

variable (hsize : 4096 ≤ leAt c.pkt 68 2)
include hsize

theorem State.attest_of_refused {st : Nat}
    (h : u.areaCheck c.tenant (leAt c.pkt 56 8) (leAt c.pkt 64 2) (leAt c.pkt 66 2) (leAt c.pkt 68 2) true = (some st, v)) :
    u.attest id fails = v.fail id st := by
  rw [State.attest, hc]
  dsimp only
  rw [if_neg (ne_true_of_eq_false hdead), if_neg (Nat.not_lt.mpr hsize), h]

variable (harea : u.areaCheck c.tenant (leAt c.pkt 56 8) (leAt c.pkt 64 2) (leAt c.pkt 66 2) (leAt c.pkt 68 2) true = (none, v))
include harea

theorem State.attest_of_written (hserve : (fails && daSpace (leAt c.pkt 56 8) == 4) = false)
    (h : v.areaWrite c.tenant (leAt c.pkt 56 8) (v.evidence c.tenant (slice c.pkt 24 32)) = some w) : u.attest id fails =
    (w.modCmd id fun (d : Cmd) => { d with bytes := (v.evidence c.tenant (slice c.pkt 24 32)).length }).finish id stDONE 0 := by
  rw [State.attest, hc]
  dsimp only
  rw [if_neg (ne_true_of_eq_false hdead), if_neg (Nat.not_lt.mpr hsize), harea]
  dsimp only
  rw [hserve, if_neg Bool.false_ne_true, h]

theorem State.attest_of_unwritten (h : (fails && daSpace (leAt c.pkt 56 8) == 4) = true ∨
    v.areaWrite c.tenant (leAt c.pkt 56 8) (v.evidence c.tenant (slice c.pkt 24 32)) = none) : u.attest id fails = v.fail id stFAULT_LINK := by
  have hnone : (if (fails && daSpace (leAt c.pkt 56 8) == 4) = true then none
      else v.areaWrite c.tenant (leAt c.pkt 56 8) (v.evidence c.tenant (slice c.pkt 24 32))) = none := by
    split
    · rfl
    · next hno => exact h.resolve_left hno
  rw [State.attest, hc]
  dsimp only
  rw [if_neg (ne_true_of_eq_false hdead), if_neg (Nat.not_lt.mpr hsize), harea]
  dsimp only
  rw [hnone]

end

/-! ### SAFE_CONFIG (R225) -/

theorem State.safeConfig_of_outside (h : entryRangeOk (leAt c.pkt 24 1) (leAt c.pkt 26 2) (leAt c.pkt 28 2) = false) :
    u.safeConfig id fails = u.fail id stREJ_BOUNDS := by
  rw [State.safeConfig, hc]
  exact if_pos (by simp [h])

variable (hrange : entryRangeOk (leAt c.pkt 24 1) (leAt c.pkt 26 2) (leAt c.pkt 28 2) = true)
include hrange

theorem State.safeConfig_of_none (h : leAt c.pkt 28 2 = 0) : u.safeConfig id fails = u.fail id stDONE := by
  rw [State.safeConfig, hc]
  exact (if_neg (by simp [hrange])).trans (if_pos h)

variable (hnode : c.node = none) (hcount : leAt c.pkt 28 2 ≠ 0)
include hcount

theorem State.safeConfig_of_refused {st : Nat} (h : u.areaCheck c.tenant (leAt c.pkt 32 8) (leAt c.pkt 40 2) (leAt c.pkt 42 2)
    (leAt c.pkt 28 2 * entrySize (leAt c.pkt 24 1)) false = (some st, v)) : u.safeConfig id fails = v.fail id stREJ_HANDLE := by
  rw [State.safeConfig, hc]
  dsimp only
  rw [if_neg (by simp [hrange]), if_neg hcount, h]

variable (harea : u.areaCheck c.tenant (leAt c.pkt 32 8) (leAt c.pkt 40 2) (leAt c.pkt 42 2) (leAt c.pkt 28 2 * entrySize (leAt c.pkt 24 1)) false = (none, v))
include hnode harea

theorem State.safeConfig_of_unread {st : Nat}
    (h : v.areaRead c.tenant (pSeq c.pkt) (leAt c.pkt 32 8) (leAt c.pkt 28 2 * entrySize (leAt c.pkt 24 1)) fails = (.error st, w)) :
    u.safeConfig id fails = w.internalFail id := by
  rw [State.safeConfig, hc]
  dsimp only
  rw [if_neg (by simp [hrange]), if_neg hcount, harea]
  dsimp only
  rw [Cmd.seqNo_of_packet hnode, h]

theorem State.safeConfig_of_read {b : List Byte}
    (h : v.areaRead c.tenant (pSeq c.pkt) (leAt c.pkt 32 8) (leAt c.pkt 28 2 * entrySize (leAt c.pkt 24 1)) fails = (.ok b, w)) :
    u.safeConfig id fails = w.safeApply id (leAt c.pkt 24 1) (leAt c.pkt 26 2) (leAt c.pkt 28 2) b := by
  rw [State.safeConfig, hc]
  dsimp only
  rw [if_neg (by simp [hrange]), if_neg hcount, harea]
  dsimp only
  rw [Cmd.seqNo_of_packet hnode, h]

end

/-! ### What CF takes up (R30) -/

section
variable {s : State} {fails : Bool}

theorem State.cfWork_of_busy (h : ∃ j ∈ s.planJobs, j.started = true) : s.cfWork fails = s :=
  if_pos (Bool.or_eq_true _ _ ▸ .inr (List.any_eq_true.mpr h))

section
variable (hphase : s.boot.phase = .run ∨ s.boot.phase = .recovery) (hfree : ∀ j ∈ s.planJobs, j.started = false)
include hphase hfree

theorem State.cf_takes_work : ¬((s.boot.phase != BootPhase.run && s.boot.phase != BootPhase.recovery) || s.planJobs.any (·.started)) = true := by
  rw [Bool.or_eq_true, not_or, List.any_eq_true]
  refine ⟨?_, ?_⟩
  · obtain h | h := hphase <;> simp [h]
  · rintro ⟨j, hj, hstarted⟩
    exact Bool.false_ne_true ((hfree j hj).symm.trans hstarted)

/-- The plan of job `j` being computed. -/
def State.planTaken (s : State) (j : PlanJob) : State :=
  { s with planJobs := s.planJobs.map fun (k : PlanJob) => if k = j then { k with started := true } else k }

theorem State.cfWork_of_plan {j : PlanJob} (h : (s.planJobs.find? (·.ticked)).or s.planJobs.head? = some j) : s.cfWork fails = s.planTaken j := by
  rw [State.cfWork, if_neg (State.cf_takes_work hphase hfree), h]
  rfl

section
variable (h : s.planJobs = [])
include h

theorem State.cfWork_of_none (hcf : s.cf.find? (s.acceptable ·) = none) : s.cfWork fails = s := by
  have hnone : (s.planJobs.find? (·.ticked)).or s.planJobs.head? = none := by rw [h]; rfl
  rw [State.cfWork, if_neg (State.cf_takes_work hphase hfree), hnone]
  dsimp only
  rw [hcf]

theorem State.cfWork_of_cmd {id : Nat} (hcf : s.cf.find? (s.acceptable ·) = some id) : s.cfWork fails = s.cfAccept id fails := by
  have hnone : (s.planJobs.find? (·.ticked)).or s.planJobs.head? = none := by rw [h]; rfl
  rw [State.cfWork, if_neg (State.cf_takes_work hphase hfree), hnone]
  dsimp only
  rw [hcf]

end

end

theorem exec_cfWorkStart : exec (.cfWorkStart fails) s = .next (s.cfWork fails) := rfl

end

/-- Settles O27. -/
theorem deviceServicesTakeEffect : Obligations.DeviceServicesTakeEffect := by
  unfold Obligations.DeviceServicesTakeEffect
  intro s t q p fails
  refine ⟨fun hrow u n hu hn => ?_, fun hrow u k hu hk => ?_, fun hrow u k hu hk => ?_, fun hphase hfree => ⟨fun j hj => ?_, fun j l hno hl => ?_, fun hl hcf => ?_, fun id hl hcf => ?_⟩,
    fun h => by rw [exec_cfWorkStart, State.cfWork_of_busy h]⟩
  · obtain ⟨c, hc, -, -, -, hpkt, -, hexec⟩ := State.opcode_taken s _ _ _ _ _ (by decide) (by decide) hrow
    have hexec' : exec (.pwrRequest t q p) s = .next (u.pwrRequest s.nextId) := congrArg Host.Outcome.next (hu ▸ hexec)
    rw [← hu] at hc
    rw [← hpkt] at hn
    rw [hexec']
    subst hn
    refine ⟨fun st l hst hl => by rw [State.pwrRequest_of_refused hc hst, hl], fun hst => ?_⟩
    exact ⟨u.entering s.nextId (leAt c.pkt 24 1), by rw [State.pwrRequest_of_entry hc hst], rfl, rfl, rfl⟩
  · obtain ⟨c, hc, -, ht, -, hpkt, -, hexec⟩ := State.opcode_taken s _ _ _ _ _ (by decide) (by decide) hrow
    have hexec' : exec (.attestQuote t q p fails) s = .next (u.attest s.nextId fails) := congrArg Host.Outcome.next (hu ▸ hexec)
    rw [← hu] at hc
    rw [← hpkt] at hk
    rw [hexec', ← ht]
    subst hk
    exact ⟨fun h => by rw [State.attest_of_dead hc h], fun hd h => by rw [State.attest_of_small hc hd h],
      fun hd hs hserve v w harea hw => by rw [State.attest_of_written hc hd hs harea hserve hw], fun hd hs v st harea => by rw [State.attest_of_refused hc hd hs harea],
      fun hd hs v harea h => by rw [State.attest_of_unwritten hc hd hs harea h]⟩
  · obtain ⟨c, hc, -, ht, -, hpkt, -, hexec⟩ := State.opcode_taken s _ _ _ _ _ (by decide) (by decide) hrow
    have hexec' : exec (.safeConfig t q p fails) s = .next (u.safeConfig s.nextId fails) := congrArg Host.Outcome.next (hu ▸ hexec)
    rw [← hu] at hc
    rw [← hpkt] at hk
    have hnode := State.rowTaken_node hrow (hu ▸ hc)
    rw [hexec', ← ht]
    subst hk
    exact ⟨fun h => by rw [State.safeConfig_of_outside hc h], fun hr h => by rw [State.safeConfig_of_none hc hr h],
      fun hr hn v st h => by rw [State.safeConfig_of_refused hc hr hn h], fun hr hn v w st harea h => by rw [State.safeConfig_of_unread hc hr hnode hn harea h],
      fun hr hn v w b harea h => by rw [State.safeConfig_of_read hc hr hnode hn harea h]⟩
  · rw [exec_cfWorkStart, State.cfWork_of_plan hphase hfree (by rw [hj]; rfl)]
    rfl
  · rw [exec_cfWorkStart, State.cfWork_of_plan hphase hfree (by rw [hno, hl]; rfl)]
    rfl
  · rw [exec_cfWorkStart, State.cfWork_of_none hphase hfree hl hcf]
  · rw [exec_cfWorkStart, State.cfWork_of_cmd hphase hfree hl hcf]

end Sys2Proof.Machine
end


section

/-! Synchronization commands: SIGNAL, WAIT and BARRIER_ARRIVE. -/

namespace Sys2Proof.Machine

section
variable {u : State} {c : Cmd}

/-! ### The effect of a front-end command by its opcode -/

theorem State.runFront_signal (h : c.op = 0x20) : u.runFront c = u.runSignal c := by
  unfold State.runFront
  rw [h]
  rfl

/-- A WAIT with its deadline. -/
def Cmd.waitUntil (c : Cmd) (time : Nat) : Cmd := { c with deadline := some (time + 1000 * leAt c.pkt 28 4) }

theorem State.runFront_wait (h : c.op = 0x21) : u.runFront c =
    if (u.setCmd (c.waitUntil u.cad.time)).waitHolds (c.waitUntil u.cad.time) then
      ((u.setCmd (c.waitUntil u.cad.time)).endWait (c.waitUntil u.cad.time)).evalWaits c.tenant else u.setCmd (c.waitUntil u.cad.time) := by
  unfold State.runFront
  rw [h]
  rfl

theorem State.runFront_arrive (h : c.op = 0x22) : u.runFront c = u.startArrive c := by
  unfold State.runFront
  rw [h]
  rfl

/-! ### SIGNAL (R188, R209, R287) -/

theorem State.runSignal_one (h : leAt c.pkt 24 1 = 1) : u.runSignal c =
    if ((u.setCmd { c with phase := .running }).sigIssue c (sigAt c.pkt 32) true).vc1Open c.id = [] then
      ((u.setCmd { c with phase := .running }).sigIssue c (sigAt c.pkt 32) true).fail c.id stDONE
    else (u.setCmd { c with phase := .running }).sigIssue c (sigAt c.pkt 32) true := by
  rw [State.runSignal, h]
  exact ite_of_iff List.isEmpty_iff rfl rfl

section
variable {g : Sig} {last : Bool}

theorem State.sigIssue_of_local (hop : g.op ≠ 0) (h : u.isLocal g.chip = true) : u.sigIssue c g last = u.sigLocal c.tenant g :=
  (if_neg hop).trans (if_pos h)

theorem State.sigIssue_of_remote (hop : g.op ≠ 0) (h : u.isLocal g.chip = false) :
    u.sigIssue c g last = u.vc1 g.chip (u.stamp c (sigMsg c.tenant c.id g last)) (some c.id) := (if_neg hop).trans (if_neg (ne_true_of_eq_false h))

theorem State.sigLocal_counter {t : Nat} (h1 : 1 ≤ g.op) (h3 : g.op ≤ 3) : u.sigLocal t g = u.counterOp t g.op g.index g.value :=
  (if_neg (by omega)).trans (if_pos h3)

theorem State.sigLocal_set {t : Nat} (h : g.op = 4) : u.sigLocal t g = u.flagUpdate t (g.index / 64) (2 ^ (g.index % 64)) 0 :=
  (if_neg (by omega)).trans ((if_neg (by omega)).trans (if_pos h))

theorem State.sigLocal_clear {t : Nat} (h : g.op = 5) : u.sigLocal t g = u.flagUpdate t (g.index / 64) 0 (2 ^ (g.index % 64)) :=
  (if_neg (by omega)).trans ((if_neg (by omega)).trans ((if_neg (by omega)).trans (if_pos h)))

theorem State.sigLocal_vector {t : Nat} (h : g.op = 6) : u.sigLocal t g = u.msix t g.index :=
  (if_neg (by omega)).trans ((if_neg (by omega)).trans ((if_neg (by omega)).trans (if_neg (by omega))))

end

/-! ### BARRIER_ARRIVE (R210, R298, R303) -/

/-- The state in which an arrival counts: its command has its deadline. -/
def State.arriving (u : State) (c : Cmd) : State :=
  u.modCmd c.id fun (x : Cmd) => { x with deadline := if baWait c.pkt then some (u.cad.time + 1000 * (baTimeout c.pkt + 1)) else none }

theorem State.startArrive_of_remote (h : u.isLocal (baChip c.pkt) = false) : u.startArrive c =
    (u.arriving c).vc1 (baChip c.pkt) ((u.arriving c).stamp c { msgZero with
      mop := 0x12, cmdLast := true, ackReq := true, rtag := c.id % 65536, operand := barOperand (baBarrier c.pkt) false false (baWait c.pkt) }) (some c.id) :=
  if_neg (ne_true_of_eq_false h)

section
variable (hlocal : u.isLocal (baChip c.pkt) = true)
include hlocal

theorem State.startArrive_of_passing (hwait : baWait c.pkt = false) {z : Bool} {w : State}
    (h : (u.arriving c).barArrive c.tenant (baBarrier c.pkt) none false = some (z, w)) : u.startArrive c = w.fail c.id stDONE := by
  have hlocal' : (u.arriving c).isLocal (baChip c.pkt) = true := hlocal
  rw [State.startArrive]
  dsimp only
  rw [← State.arriving, if_pos hlocal', hwait, if_neg Bool.false_ne_true, h]
  rfl

theorem State.startArrive_of_refused (hwait : baWait c.pkt = false) (h : (u.arriving c).barArrive c.tenant (baBarrier c.pkt) none false = none) :
    u.startArrive c = (u.arriving c).fail c.id stREJ_BOUNDS := by
  have hlocal' : (u.arriving c).isLocal (baChip c.pkt) = true := hlocal
  rw [State.startArrive]
  dsimp only
  rw [← State.arriving, if_pos hlocal', hwait, if_neg Bool.false_ne_true, h]

section
variable (hwait : baWait c.pkt = true) {n : Nat} (hn : (u.arriving c).poolBar c.tenant (baBarrier c.pkt) = some n) {v : State}
  (hv : v = (u.arriving c).modCmd c.id fun (x : Cmd) => { x with sense := some ((u.arriving c).bar n).sense })
include hwait hn hv

theorem State.startArrive_of_waiting {z : Bool} {w : State} (h : v.barArrive c.tenant (baBarrier c.pkt) none true = some (z, w)) : u.startArrive c = w := by
  have hlocal' : (u.arriving c).isLocal (baChip c.pkt) = true := hlocal
  rw [State.startArrive]
  dsimp only
  rw [← State.arriving, if_pos hlocal', hn, hwait, if_pos rfl]
  dsimp only
  rw [← hv, h]
  rfl

theorem State.startArrive_of_unenabled (h : v.barArrive c.tenant (baBarrier c.pkt) none true = none) : u.startArrive c = (u.arriving c).fail c.id stREJ_BOUNDS := by
  have hlocal' : (u.arriving c).isLocal (baChip c.pkt) = true := hlocal
  rw [State.startArrive]
  dsimp only
  rw [← State.arriving, if_pos hlocal', hn, hwait, if_pos rfl]
  dsimp only
  rw [← hv, h]

end

end

end

/-- Settles O22. -/
theorem synchronizationCommandsTakeEffect : Obligations.SynchronizationCommandsTakeEffect := by
  unfold Obligations.SynchronizationCommandsTakeEffect
  intro s t q p fails c
  refine ⟨fun hrow hc => ?_, fun u g last h1 h6 => ⟨fun hl h3 => ?_, fun hl h => ?_, fun hl h => ?_, fun hl h => ?_, fun hl => State.sigIssue_of_remote (by omega) hl⟩,
    fun hrow hc d u hd hu => ?_, fun hrow hc S u hS hu => ?_⟩
  · obtain ⟨d, hd, hid, -, -, -, hop, -, -, hexec⟩ := State.opcode_starts s _ _ _ _ _ (by decide) (by decide) (by decide) (by decide) hrow
    obtain rfl := Option.some.inj (hd.symm.trans hc)
    have hexec' : exec (.signal t q p fails) s = .next ((s.rowStarted t.val q.val 0x20 p).runSignal d) :=
      congrArg Host.Outcome.next (hexec.trans (State.runFront_signal hop))
    refine ⟨hexec', fun hone u hu => ?_⟩
    rw [hexec', State.runSignal_one hone, hu]
  · rw [State.sigIssue_of_local (by omega) hl, State.sigLocal_counter h1 h3]
  · rw [State.sigIssue_of_local (by omega) hl, State.sigLocal_set h]
  · rw [State.sigIssue_of_local (by omega) hl, State.sigLocal_clear h]
  · rw [State.sigIssue_of_local (by omega) hl, State.sigLocal_vector h]
  · obtain ⟨e, he, -, ht, -, -, hop, -, -, hexec⟩ := State.opcode_starts s _ _ _ _ _ (by decide) (by decide) (by decide) (by decide) hrow
    obtain rfl := Option.some.inj (he.symm.trans hc)
    subst hu hd
    have hwait := State.runFront_wait (u := s.rowStarted t.val q.val 0x21 p) hop
    rw [ht] at hwait
    exact congrArg Host.Outcome.next (hexec.trans hwait)
  · obtain ⟨d, hd, -, -, -, -, hop, -, -, hexec⟩ := State.opcode_starts s _ _ _ _ _ (by decide) (by decide) (by decide) (by decide) hrow
    obtain rfl := Option.some.inj (hd.symm.trans hc)
    have hexec' : exec (.barrierArrive t q p fails) s = .next (S.startArrive d) :=
      congrArg Host.Outcome.next (hS ▸ hexec.trans (State.runFront_arrive hop))
    have hu' : u = S.arriving d := hu
    subst hu'
    rw [hexec']
    refine ⟨fun hl hw => ⟨fun z w h => ?_, fun h => ?_⟩, fun hl hw n v hn hv => ⟨fun z w h => ?_, fun h => ?_⟩, fun hl => by rw [State.startArrive_of_remote hl]⟩
    · rw [State.startArrive_of_passing hl hw h]
    · rw [State.startArrive_of_refused hl hw h]
    · rw [State.startArrive_of_waiting hl hw hn hv h]
    · rw [State.startArrive_of_unenabled hl hw hn hv h]

end Sys2Proof.Machine
end


section

/-! Locks and launches: LOCK_ACQUIRE, LOCK_RELEASE and GRAPH_LAUNCH. -/

namespace Sys2Proof.Machine

section
variable {u : State} {c : Cmd}

/-! ### Locks (R212, R275, R305) -/

theorem State.runFront_acquire (h : c.op = 0x23) : u.runFront c = u.tryAcquire c := by
  unfold State.runFront
  rw [h]
  rfl

theorem State.runFront_release (h : c.op = 0x24) :
    u.runFront c = (u.releaseBoth c.tenant c.queue (lkLock c.pkt) (lkChip c.pkt) false).fail c.id stDONE := by
  unfold State.runFront
  rw [h]
  rfl

theorem State.runFront_launch (h : c.op = 0x29) : u.runFront c = u.launchGraph c.id := by
  unfold State.runFront
  rw [h]
  rfl

/-- Lock `n` held by command `c`. -/
def State.lockTaken (u : State) (c : Cmd) (n : Nat) : State :=
  u.setLock n { u.lock n with held := true, broken := false, holderQ := c.queue, holderChip := u.chip, holderTag := c.id, grantedAt := u.cad.time }

/-- Command `c` with what its lock tells it. -/
def Cmd.warned (c : Cmd) (broken : Bool) : Cmd := if broken then { c with warn := putBit c.warn wLOCK_BROKEN true } else c

/-- Command `d`, which has asked the home of its lock. -/
def Cmd.homeWaiting (d : Cmd) : Cmd := { d with lockTry := .homeWait }

theorem Cmd.warned_pkt (broken : Bool) : (c.warned broken).pkt = c.pkt ∧ (c.warned broken).tenant = c.tenant ∧ (c.warned broken).id = c.id ∧
    (c.warned broken).queue = c.queue := by
  cases broken <;> exact ⟨rfl, rfl, rfl, rfl⟩

section
variable {n : Nat} (hn : u.poolLock c.tenant (lkLock c.pkt) = some n)
include hn

theorem State.tryAcquire_of_held (h : (u.lock n).held = true) : u.tryAcquire c = u.setCmd { c with lockTry := .localWait } := by
  rw [State.tryAcquire, hn]
  exact if_pos h

theorem State.tryAcquire_of_free (h : (u.lock n).held = false) : u.tryAcquire c =
    if u.isLocal (lkChip c.pkt) then ((u.lockTaken c n).setCmd (c.warned (u.lock n).broken)).acquired (c.warned (u.lock n).broken)
    else ((u.lockTaken c n).setCmd (c.warned (u.lock n).broken).homeWaiting).vc0 (lkChip c.pkt) { msgZero with
      mop := 0x03, tenant := c.tenant, cmdTag := c.id % 65536, operand := lkLock c.pkt + 2 ^ 8 * c.queue } c.id 0 0 := by
  obtain ⟨hpkt, htenant, hid, hqueue⟩ := Cmd.warned_pkt (c := c) (u.lock n).broken
  have hlocal : (u.lockTaken c n).isLocal (lkChip (c.warned (u.lock n).broken).pkt) = u.isLocal (lkChip c.pkt) := by
    rw [hpkt]
    rfl
  have htaken : u.localTaken c n = if (u.lockTaken c n).isLocal (lkChip (c.warned (u.lock n).broken).pkt) then
        ((u.lockTaken c n).setCmd (c.warned (u.lock n).broken)).acquired (c.warned (u.lock n).broken)
      else ((u.lockTaken c n).setCmd (c.warned (u.lock n).broken).homeWaiting).vc0 (lkChip (c.warned (u.lock n).broken).pkt) { msgZero with
        mop := 0x03, tenant := (c.warned (u.lock n).broken).tenant, cmdTag := (c.warned (u.lock n).broken).id % 65536
        operand := lkLock (c.warned (u.lock n).broken).pkt + 2 ^ 8 * (c.warned (u.lock n).broken).queue } (c.warned (u.lock n).broken).id 0 0 := rfl
  rw [State.tryAcquire, hn]
  dsimp only
  rw [if_neg (ne_true_of_eq_false h), htaken, hlocal, hpkt, htenant, hid, hqueue]

end

end

/-! ### Launches (R217, R320, R321, R326) -/

/-- The launch of graph `g` by command `c` begun at `v`, its last tick being `fin`. -/
def State.launchBegun (v : State) (c : Cmd) (g : Graph) (id : Nat) (adm : Option Nat) (base fin : Nat) : State :=
  (v.modGraph c.tenant g.id fun (g : Graph) =>
    { g with launch := some ⟨c.queue, id, base, adm, fin, leAt c.pkt 28 1, leAt c.pkt 32 8, none⟩,
             nodes := g.nodes.map fun (n : Node) => { n with st := .idle } }).setCmd { c with phase := .running, admTick := adm, admEnd := fin, cursor := 1 }

/-- The launch of command `c` at or after its time. -/
def State.launchDue (w : State) (c : Cmd) (g : Graph) (id : Nat) : State :=
  if c.timed then
    (if w.cad.time < c.launch then w else if c.launch < w.cad.time then (w.launchLate id).releaseGraph c.tenant g.id else w.releaseGraph c.tenant g.id)
  else w.releaseGraph c.tenant g.id

theorem State.launchDue_eq {w : State} {c : Cmd} {g : Graph} {id time : Nat} (h : w.cad.time = time) : w.launchDue c g id =
    if c.timed && decide (time < c.launch) then
      (if c.timed && !(c.timed && decide (time < c.launch)) && decide (c.launch < time) then w.launchLate id else w)
    else (if c.timed && !(c.timed && decide (time < c.launch)) && decide (c.launch < time) then w.launchLate id else w).releaseGraph c.tenant g.id := by
  subst h
  unfold State.launchDue
  cases c.timed
  · rfl
  · by_cases hlt : w.cad.time < c.launch
    · simp [hlt]
    · by_cases hgt : c.launch < w.cad.time <;> simp [hlt, hgt]

section
variable {u : State} {c : Cmd} {id : Nat} (hc : u.cmd? id = some c)
include hc

theorem State.launchGraph_of_none (h : u.graph? c.tenant (leAt c.pkt 24 1) = none) : u.launchGraph id = u.fail id stREJ_HANDLE := by
  rw [State.launchGraph, hc]
  dsimp only
  rw [h]

section
variable {g : Graph} (hg : u.graph? c.tenant (leAt c.pkt 24 1) = some g)
include hg

theorem State.launchGraph_of_running (h : g.launch.isSome = true) : u.launchGraph id = u.fail id stREJ_BUSY := by
  rw [State.launchGraph, hc]
  dsimp only
  rw [hg]
  exact if_pos h

variable (hidle : g.launch = none)
include hidle

theorem State.launchGraph_of_full (h : u.cqFree c.tenant < g.nodes.length) : u.launchGraph id = u := by
  rw [State.launchGraph, hc]
  dsimp only
  rw [hg]
  exact (if_neg (by simp [hidle])).trans (if_pos h)

variable (hroom : g.nodes.length ≤ u.cqFree c.tenant)
include hroom

theorem State.launchGraph_of_timedFull (h : 4096 < u.timedUsed + g.timedNodes) : u.launchGraph id = u.fail id stREJ_BUSY := by
  rw [State.launchGraph, hc]
  dsimp only
  rw [hg]
  exact (if_neg (by simp [hidle])).trans ((if_neg (Nat.not_lt.mpr hroom)).trans (if_pos h))

variable (htimed : u.timedUsed + g.timedNodes ≤ 4096)
include htimed

theorem State.launchGraph_of_held (h : u.tenantHeld c.tenant = true) : u.launchGraph id = u.setCmd { c with phase := .held } := by
  rw [State.launchGraph, hc]
  dsimp only
  rw [hg]
  exact (if_neg (by simp [hidle])).trans ((if_neg (Nat.not_lt.mpr hroom)).trans ((if_neg (Nat.not_lt.mpr htimed)).trans (if_pos h)))

variable (hheld : u.tenantHeld c.tenant = false)
include hheld

theorem State.launchGraph_of_unfit (h : u.admitGraph c g true = none) :
    u.launchGraph id = (if (u.admitGraph c g false).isSome then u.stick F.PRI_PINFULL_PINFULL else u).fail id stREJ_FIT := by
  rw [State.launchGraph, hc]
  dsimp only
  rw [hg]
  dsimp only
  rw [if_neg (by simp [hidle]), if_neg (Nat.not_lt.mpr hroom), if_neg (Nat.not_lt.mpr htimed), if_neg (ne_true_of_eq_false hheld), h]

theorem State.launchGraph_of_admitted (hnode : c.node = none) {adm : Option Nat} {base fin : Nat} {v : State} (hfin : fin = match adm with | some n => v.edgeOf (n + 1) | none => 0)
    (h : u.admitGraph c g true = some (adm, base, v)) : u.launchGraph id = (v.launchBegun c g id adm base fin).launchDue c g id := by
  rw [State.launchGraph, hc]
  dsimp only
  rw [hg]
  dsimp only
  rw [if_neg (by simp [hidle]), if_neg (Nat.not_lt.mpr hroom), if_neg (Nat.not_lt.mpr htimed), if_neg (ne_true_of_eq_false hheld), h]
  dsimp only
  simp only [Option.isNone_iff_eq_none.mpr hnode, if_true]
  rw [State.launchDue_eq (w := v.launchBegun c g id adm base fin) (time := v.cad.time) rfl]
  subst hfin
  cases adm <;> rfl

end

end

/-- Settles O23. -/
theorem locksAndLaunchesTakeEffect : Obligations.LocksAndLaunchesTakeEffect := by
  unfold Obligations.LocksAndLaunchesTakeEffect
  intro s t q p fails c
  refine ⟨fun hrow hc S n hS hn => ?_, fun hrow => ?_, fun hrow hc u hu => ?_⟩
  · obtain ⟨d, hd, hid, ht, hq, -, hop, -, -, hexec⟩ := State.opcode_starts s _ _ _ _ _ (by decide) (by decide) (by decide) (by decide) hrow
    obtain rfl := Option.some.inj (hd.symm.trans hc)
    have hexec' : exec (.lockAcquire t q p fails) s = .next (S.tryAcquire d) := congrArg Host.Outcome.next (hS ▸ hexec.trans (State.runFront_acquire hop))
    rw [← ht] at hn
    rw [hexec']
    refine ⟨fun hheld => by rw [State.tryAcquire_of_held hn hheld], fun hfree e v hv he => ?_⟩
    have hv' : v = S.lockTaken d n := by rw [hv, State.lockTaken, hq, hid]
    have he' : e = d.warned (S.lock n).broken := he
    refine ⟨fun hl => ?_, fun hl => ?_⟩
    · rw [State.tryAcquire_of_free hn hfree, if_pos hl, hv', he']
    · rw [State.tryAcquire_of_free hn hfree, if_neg (ne_true_of_eq_false hl), hv', he', ht, hid, hq]
      rfl
  · obtain ⟨d, hd, hid, ht, hq, hpkt, hop, -, -, hexec⟩ := State.opcode_starts s _ _ _ _ _ (by decide) (by decide) (by decide) (by decide) hrow
    have hrelease := State.runFront_release (u := s.rowStarted t.val q.val 0x24 p) hop
    rw [ht, hq, hid, hpkt] at hrelease
    exact congrArg Host.Outcome.next (hexec.trans hrelease)
  · obtain ⟨d, hd, hid, ht, hq, -, hop, -, hnode, hexec⟩ := State.opcode_starts s _ _ _ _ _ (by decide) (by decide) (by decide) (by decide) hrow
    obtain rfl := Option.some.inj (hd.symm.trans hc)
    have hexec' : exec (.graphLaunch t q p fails) s = .next (u.launchGraph s.nextId) :=
      congrArg Host.Outcome.next (hu ▸ hexec.trans ((State.runFront_launch hop).trans (hid ▸ rfl)))
    rw [← hu] at hc
    rw [hexec', ← ht]
    refine ⟨fun h => by rw [State.launchGraph_of_none hc h], fun g hg => ⟨fun h => by rw [State.launchGraph_of_running hc hg h],
      fun hi h => by rw [State.launchGraph_of_full hc hg hi h], fun hi hr => ⟨fun h => by rw [State.launchGraph_of_timedFull hc hg hi hr h],
      fun hti => ⟨fun h => by rw [State.launchGraph_of_held hc hg hi hr hti h], fun hh => ⟨fun h => by rw [State.launchGraph_of_unfit hc hg hi hr hti hh h],
      fun adm base v h fin w hfin hw => ?_⟩⟩⟩⟩⟩
    rw [State.launchGraph_of_admitted hc hg hi hr hti hh hnode hfin h, hw]
    rfl

end Sys2Proof.Machine
end


section

/-! Rows of the engines and the Awls: decoded, joined to their sequence, started. -/

namespace Sys2Proof.Machine

section
variable {s : State} {t q op id : Nat} {p : List Byte} {fails : Bool}

/-- A row of the engine and Awl path whose packet passes is decoded by its opcode, and then joins and starts. -/
theorem State.opcode_of_fast (hop : op < 256) (hfast : isFirmware op = false) (h : s.rowPasses t q op p fails = true) :
    s.opcode t q op p fails = (s.rowDecoded t q op p).decodeFast s.nextId op fails := by
  rw [State.opcode_passes s t q op p fails hop h, hfast]
  exact if_neg Bool.false_ne_true

theorem State.opcode_of_held (h : s.decodeHeld t q = true ∨ s.marksOk t q (rowPacket op p) fails = false) : s.opcode t q op p fails = s :=
  if_pos (by obtain h | h := h <;> simp [h])

theorem State.opcode_of_badHeader (hheld : s.decodeHeld t q = false) (hmarks : s.marksOk t q (rowPacket op p) fails = true) {b : Nat}
    (h : s.headerCheck t q (rowPacket op p) = some b) : s.opcode t q op p fails = s.issueBad t q (rowPacket op p) (2 ^ 31 + b) := by
  rw [State.opcode]
  dsimp only
  rw [if_neg (by simp [hheld, hmarks]), h]

theorem State.decodeFast_chain : s.decodeFast id 0x14 fails = (s.decodeChain id).joinStart id fails := rfl

theorem State.decodeFast_move (hop : op ≠ 0x14) (heng : isEngineOp op = true) : s.decodeFast id op fails = (s.decodeMove id).joinStart id fails := by
  rw [State.decodeFast, if_neg hop, if_pos heng]

theorem State.decodeFast_awl (hop : op ≠ 0x14) (heng : isEngineOp op = false) (hawl : isAwlOp op = true) :
    s.decodeFast id op fails = (s.decodeAwl id).joinStart id fails := by
  rw [State.decodeFast, if_neg hop, if_neg (ne_true_of_eq_false heng), if_pos hawl]

theorem State.joinStart_of_unbroken {c e : Cmd} (hc : s.cmd? id = some c) (hphase : c.phase ≠ .ended) (hnode : c.node = none)
    (he : (s.seqJoin id).cmd? id = some e) (h : (s.seqJoin id).seqBroken e = none) :
    s.joinStart id fails = if (s.seqJoin id).mayStart e then (s.seqJoin id).startNow id fails else s.seqJoin id := by
  rw [State.joinStart, hc]
  dsimp only
  rw [if_neg (by simpa using hphase), if_pos (by simp [hnode]), he]
  dsimp only
  rw [h]

end

/-- Settles O28. -/
theorem engineRowsDecodeJoinAndStart : Obligations.EngineRowsDecodeJoinAndStart := by
  unfold Obligations.EngineRowsDecodeJoinAndStart
  intro s t q p fails
  have hmove : ∀ op, op < 256 → isFirmware op = false → op ≠ 0x14 → isEngineOp op = true → s.rowPasses t.val q.val op p fails = true →
      s.opcode t.val q.val op p fails = ((s.rowDecoded t.val q.val op p).decodeMove s.nextId).joinStart s.nextId fails := fun op hop hfast hchain heng h =>
    (State.opcode_of_fast hop hfast h).trans (State.decodeFast_move hchain heng)
  have hawl : ∀ op, op < 256 → isFirmware op = false → op ≠ 0x14 → isEngineOp op = false → isAwlOp op = true → s.rowPasses t.val q.val op p fails = true →
      s.opcode t.val q.val op p fails = ((s.rowDecoded t.val q.val op p).decodeAwl s.nextId).joinStart s.nextId fails := fun op hop hfast hchain heng hawl h =>
    (State.opcode_of_fast hop hfast h).trans (State.decodeFast_awl hchain heng hawl)
  refine ⟨fun h => congrArg Host.Outcome.next (hmove 0x10 (by decide) rfl (by decide) rfl h), fun h => congrArg Host.Outcome.next (hmove 0x11 (by decide) rfl (by decide) rfl h),
    fun h => congrArg Host.Outcome.next (hmove 0x12 (by decide) rfl (by decide) rfl h), fun h => congrArg Host.Outcome.next (hmove 0x13 (by decide) rfl (by decide) rfl h),
    fun h => congrArg Host.Outcome.next ((State.opcode_of_fast (by decide) rfl h).trans State.decodeFast_chain),
    fun h => congrArg Host.Outcome.next (hawl 0x18 (by decide) rfl (by decide) rfl rfl h), fun h => congrArg Host.Outcome.next (hawl 0x19 (by decide) rfl (by decide) rfl rfl h),
    fun i op hi => ?_, fun d id c hc => ⟨fun h => State.joinStart_of_ended fails fun e he => Option.some.inj (hc.symm.trans he) ▸ h, fun hphase hnode e he hbroken => State.joinStart_of_unbroken hc hphase hnode he hbroken⟩⟩
  have hexec : exec i s = .next (s.opcode t.val q.val op p fails) := by
    simp only [List.mem_cons, List.not_mem_nil, or_false, Prod.mk.injEq] at hi
    obtain ⟨rfl, rfl⟩ | ⟨rfl, rfl⟩ | ⟨rfl, rfl⟩ | ⟨rfl, rfl⟩ | ⟨rfl, rfl⟩ | ⟨rfl, rfl⟩ | ⟨rfl, rfl⟩ := hi
    all_goals rfl
  rw [hexec]
  exact ⟨fun h => by rw [State.opcode_of_held h], fun b hheld hmarks h => by rw [State.opcode_of_badHeader hheld hmarks h]⟩

end Sys2Proof.Machine
end


section

/-! Commands on their way to the engines: metadata, dispatch, start, launch, activation. -/

namespace Sys2Proof.Machine

/-! ### The operation of a command (R183) -/

section
variable {s u w : State} {id : Nat} {c d : Cmd}

/-- No step of `u` from `s` changes the operation of a command. -/
def State.SameOps (s u : State) : Prop := ∀ id d, u.cmd? id = some d → ∃ c, s.cmd? id = some c ∧ d.op = c.op

theorem State.SameOps.trans (h : s.SameOps u) (h' : u.SameOps w) : s.SameOps w := fun id d hd => by
  obtain ⟨e, he, hop⟩ := h' id d hd
  obtain ⟨c, hc, hop'⟩ := h id e he
  exact ⟨c, hc, hop.trans hop'⟩

theorem State.sameOps_of_cmds (h : u.cmds = s.cmds) : s.SameOps u := fun id d hd => by
  rw [State.cmd?, h] at hd
  exact ⟨d, hd, rfl⟩

theorem State.modCmd_sameOps (n : Nat) {f : Cmd → Cmd} (hid : ∀ x, (f x).id = x.id) (hop : ∀ x, (f x).op = x.op) : s.SameOps (s.modCmd n f) := fun id d hd => by
  have hkeep : ∀ x : Cmd, ((if x.id = n then f x else x).id = x.id) ∧ (if x.id = n then f x else x).op = x.op := fun x => by
    split
    · exact ⟨hid x, hop x⟩
    · exact ⟨rfl, rfl⟩
  have hfind : (s.modCmd n f).cmd? id = (s.cmd? id).map fun x => if x.id = n then f x else x := by
    rw [State.cmd?, State.modCmd, List.find?_map, State.cmd?]
    congr 2
    funext x
    simp only [Function.comp, (hkeep x).1]
  rw [hfind] at hd
  obtain ⟨x, hx, rfl⟩ := Option.map_eq_some_iff.mp hd
  exact ⟨x, hx, (hkeep x).2⟩

theorem State.setCmd_sameOps (hc : s.cmd? d.id = some c) (hop : d.op = c.op) : s.SameOps (s.setCmd d) := fun id e he => by
  have hfind : (s.setCmd d).cmd? id = (s.cmd? id).map fun x => if x.id = d.id then d else x := by
    rw [State.cmd?, State.setCmd, List.find?_map, State.cmd?]
    congr 2
    funext x
    by_cases h : x.id = d.id <;> simp [h]
  rw [hfind] at he
  obtain ⟨x, hx, rfl⟩ := Option.map_eq_some_iff.mp he
  refine ⟨x, hx, ?_⟩
  split
  · next heq =>
    have hid := State.cmd?_id s id x hx
    rw [← hid, heq, hc] at hx
    rw [hop, Option.some.inj hx]
  · rfl

theorem State.launchLate_sameOps : s.SameOps (s.launchLate id) := by
  unfold State.launchLate
  split
  · split
    · exact State.sameOps_of_cmds rfl
    · refine State.SameOps.trans (u := s.modCmd id fun c => { c with late := true, warn := putBit c.warn wLAUNCH_LATE true }) ?_ (State.sameOps_of_cmds rfl)
      exact State.modCmd_sameOps _ (by intro; rfl) (by intro; rfl)
  · exact State.sameOps_of_cmds rfl

theorem State.place_sameOps (e : Nat) : s.SameOps (s.place id e) := by
  unfold State.place
  split
  · exact State.sameOps_of_cmds rfl
  · next c hc =>
    have hset : ∀ ms wait, s.SameOps (s.setCmd { c with moves := ms, engine := e, placed := true, phase := wait }) := fun ms wait =>
      State.setCmd_sameOps (c := c) ((State.cmd?_id s id c hc).symm ▸ hc) rfl
    dsimp only
    generalize hv : s.setCmd _ = v
    have hsv : s.SameOps v := hv ▸ hset _ _
    have haff : s.SameOps (match c.node with
        | some n => v.modNode c.tenant n.slot fun x => { x with aff := some e }
        | none => v.setQueue { v.queueSt c.tenant c.queue with lastEngine := some e }) := by
      cases c.node
      · exact hsv.trans (State.sameOps_of_cmds rfl)
      · exact hsv.trans (State.sameOps_of_cmds rfl)
    split
    · exact haff.trans State.launchLate_sameOps
    · exact haff

/-! ### Dispatch (R202, R203, R229) -/

theorem not_awl_of_engine {op : Nat} (h : isEngineOp op = true) : isAwlOp op = false := by
  simp only [isEngineOp, isAwlOp, Bool.and_eq_true, decide_eq_true_eq, Bool.or_eq_false_iff, beq_eq_false_iff_ne] at h ⊢
  omega

theorem not_engine_of_awl {op : Nat} (h : isAwlOp op = true) : isEngineOp op = false := by
  rw [← Bool.not_eq_true]
  intro heng
  rw [not_awl_of_engine heng] at h
  cases h

theorem State.deferredAwl_of_engine (h : s.SameOps u) (hc : s.cmd? id = some c) (hop : isEngineOp c.op = true) : u.deferredAwl id = u := by
  rw [State.deferredAwl]
  split
  · next d hd =>
    obtain ⟨e, he, hde⟩ := h id d hd
    obtain rfl := Option.some.inj (hc.symm.trans he)
    exact if_neg (by simp [hde, not_awl_of_engine hop])
  · rfl

theorem State.deferredMove_of_engine (hc : s.cmd? id = some c) (hphase : c.phase = .deferred) (hop : isEngineOp c.op = true) : s.deferredMove id =
    if c.placed then s.joinRun id else match s.pick (s.maskOf c) (s.prefOf c) with
      | some e => s.place id e
      | none => s := by
  rw [State.deferredMove, hc]
  exact if_pos (by simp [hphase, hop])

/-- Command `c` in its engine's run list, or waiting for room in it. -/
def State.inRun (s : State) (c : Cmd) : Cmd := { c with phase := if (s.runList c.engine).length < 64 then .runList else .deferred }

theorem State.joinRun_of_cmd (hc : s.cmd? id = some c) : s.joinRun id = s.setCmd (s.inRun c) := by
  rw [State.joinRun, hc]
  rfl

theorem State.mayStart_of_deferred (h : c.phase = .deferred) : s.mayStart c = false := by simp [State.mayStart, h]

/-- The command of `v` starts where it may, once it has left the queue's front. -/
def State.dispatched (v : State) (id : Nat) : State :=
  match v.cmd? id with
  | some d => if v.mayStart d && d.phase != .front then v.startNow id false else v
  | none => v

theorem exec_deferredDispatch : exec (.deferredDispatch id) s = .next (((s.deferredMove id).deferredAwl id).dispatched id) := rfl

/-! ### Metadata (R229, R236) -/

/-- The command of `v` starts where it may, once it is in a run list. -/
def State.goOn (v : State) (id : Nat) : State :=
  match v.cmd? id with
  | some d => if v.mayStart d && d.phase == .runList then v.startNow id false else v
  | none => v

theorem exec_metadataReadComplete {fails : Bool} : exec (.metadataReadComplete id fails) s = .next ((s.metadataDone id fails).goOn id) := rfl

/-- The command `id` back at its queue's front. -/
def State.metadataTaken (s : State) (id : Nat) : State := s.modCmd id fun (x : Cmd) => { x with phase := .front }

section
variable {fails : Bool} (hc : s.cmd? id = some c)
include hc

theorem State.metadataDone_of_other (h : c.phase ≠ .metadata) : s.metadataDone id fails = s := by
  rw [State.metadataDone, hc]
  exact if_pos (bne_iff_ne.mpr h)

variable (hphase : c.phase = .metadata)
include hphase

theorem State.metadataDone_of_list (hop : c.op ≠ 0x14) {st : Nat} (h : (s.metadataTaken id).readList c.tenant c.pkt fails = (.error st, u)) :
    s.metadataDone id fails = u.fail id st := by
  unfold State.metadataTaken at h
  rw [State.metadataDone, hc]
  dsimp only
  rw [if_neg (by simp [hphase]), if_neg hop, h]

theorem State.metadataDone_of_pages (hop : c.op ≠ 0x14) {pages : List Nat} (h : (s.metadataTaken id).readList c.tenant c.pkt fails = (.ok pages, u)) :
    s.metadataDone id fails = (u.modCmd id fun (x : Cmd) => { x with moves := x.moves.map fun (m : Move) => { m with pages := pages } }).moveReady id := by
  unfold State.metadataTaken at h
  rw [State.metadataDone, hc]
  dsimp only
  rw [if_neg (by simp [hphase]), if_neg hop, h]

theorem State.metadataDone_of_chain (hop : c.op = 0x14) {st : Nat}
    (h : (s.metadataTaken id).areaRead c.tenant c.seqNo (leAt c.pkt 32 8) (256 * leAt c.pkt 24 1) fails = (.error st, u)) :
    s.metadataDone id fails = u.fail id st := by
  unfold State.metadataTaken at h
  rw [State.metadataDone, hc]
  dsimp only
  rw [if_neg (by simp [hphase]), if_pos hop, h]

theorem State.metadataDone_of_stages (hop : c.op = 0x14) {l : List Byte} {ms : List Move}
    (h : (s.metadataTaken id).areaRead c.tenant c.seqNo (leAt c.pkt 32 8) (256 * leAt c.pkt 24 1) fails = (.ok l, u))
    (hgood : ∀ i, i < leAt c.pkt 24 1 → stageFault ((recordsOf l (leAt c.pkt 24 1)).getD i []) i (leAt c.pkt 24 1) = none)
    (hst : u.stages c.tenant (recordsOf l (leAt c.pkt 24 1)) fails (u.streamOf c.tenant c.queue (pStream c.pkt)).isSome 0 none [] = (.ok ms, w)) :
    s.metadataDone id fails = (w.modCmd id fun (x : Cmd) => { x with moves := ms }).moveReady id := by
  have hnone : ((List.range (leAt c.pkt 24 1)).findSome? fun i =>
      (stageFault ((recordsOf l (leAt c.pkt 24 1)).getD i []) i (leAt c.pkt 24 1)).map fun b => (i, b)) = none :=
    findSome?_range_eq_none fun i hi => by
      rw [hgood i hi]
      rfl
  unfold State.metadataTaken at h
  rw [State.metadataDone, hc]
  dsimp only
  rw [if_neg (by simp [hphase]), if_pos hop, h]
  dsimp only
  rw [hnone]
  dsimp only
  rw [hst]

end

/-! ### Starts and launches (R63, R64, R189) -/

theorem exec_commandStart {fails : Bool} (hc : s.cmd? id = some c) : exec (.commandStart id fails) s = .next
    (if s.mayStart c then s.startNow id fails else if c.started = true ∧ c.op = 0x29 ∧ c.phase = .front then s.launchGraph id else s) := by
  have hexec : exec (.commandStart id fails) s = .next (s.commandStart id fails) := rfl
  rw [hexec, State.commandStart, hc]
  exact congrArg _ (ite_of_iff Iff.rfl rfl (ite_of_iff (by simp [and_assoc]) rfl rfl))

theorem State.cmd?_advance (t : Nat) : (s.advance t).cmd? id = s.cmd? id := by
  rw [State.cmd?, State.cmd?, s.advance_regsCadOnly t]

theorem exec_timedLaunch : exec (.timedLaunch id) s = .next (s.timedLaunch id) := rfl

theorem State.launchCmd_of_held (hc : s.cmd? id = some c) (h : c.phase ≠ .timed ∨ s.launchHeld c = true) : s.launchCmd id = s := by
  rw [State.launchCmd, hc]
  exact if_pos (by obtain h | h := h <;> simp [h])

theorem State.timedLaunch_of_engine (hc : s.cmd? id = some c) (hop : isEngineOp c.op = true) : s.timedLaunch id = s.launchCmd id := by
  rw [State.timedLaunch, hc]
  exact if_pos hop

section
variable (hc : s.cmd? id = some c) (hphase : c.phase = .timed) (hheld : s.launchHeld c = false)
include hc hphase hheld

theorem State.launchCmd_of_unticked (hadm : c.admTick = none) (hok : (s.advance c.launch).launchOk c = true) (hstart : (s.advance c.launch).startable c = true) :
    s.launchCmd id = ((s.advance c.launch).markStarted c).joinRun id := by
  have hgood : (if (s.advance c.launch).launchOk c && (s.advance c.launch).startable c then s.advance c.launch else (s.advance c.launch).launchLate id) =
      s.advance c.launch := if_pos (by simp [hok, hstart])
  rw [State.launchCmd, hc]
  dsimp only
  rw [if_neg (by simp [hphase, hheld]), hgood, if_neg (by simp [hstart]), State.cmd?_advance, hc, if_neg (by simp [hadm])]

/-- Rack time at the launch of `c`, which is late where its lead was too short or it may not start. -/
def State.launched (u : State) (c : Cmd) : State :=
  if c.decodedAt + 1000 * u.get F.CAD_LAUNCH_LEAD_US ≤ c.launch ∧ u.startable c = true then u else u.launchLate c.id

theorem State.timedLaunch_of_front (heng : isEngineOp c.op = false) (hawl : isAwlOp c.op = false)
    (hu : u = ((s.advance c.launch).launched c).modCmd id fun (x : Cmd) => { x with phase := .front }) (hd : u.cmd? id = some d) :
    s.timedLaunch id = if u.mayStart d then u.startNow id false else u := by
  have hlate : (if decide (c.decodedAt + 1000 * (s.advance c.launch).get F.CAD_LAUNCH_LEAD_US ≤ c.launch) && (s.advance c.launch).startable c &&
      (!(isAwlOp c.op) || ((s.advance c.launch).awlRoom c.tenant && (c.admTick.isSome || (s.advance c.launch).awlUsed none == 0))) then s.advance c.launch
      else (s.advance c.launch).launchLate id) = (s.advance c.launch).launched c := by
    rw [State.launched, State.cmd?_id s id c hc]
    exact ite_of_iff (by simp [hawl]) rfl rfl
  rw [State.timedLaunch, hc]
  dsimp only
  rw [if_neg (ne_true_of_eq_false heng), if_neg (by simp [hphase, hheld]), hlate, if_neg (ne_true_of_eq_false hawl), ← hu, hd]

end

theorem exec_commandActivate (hc : s.cmd? id = some c) : exec (.commandActivate id) s = .next
    (if s.mayEnter c then { s.setCmd { s.reserved c with phase := .active, activeOrder := s.nextOrder + 1 } with nextOrder := s.nextOrder + 2 } else s) := by
  have hexec : exec (.commandActivate id) s = .next (s.activate id) := rfl
  rw [hexec, State.activate, hc, State.enter, hc]

end

/-- Settles O29. -/
theorem commandsReachTheirEngines : Obligations.CommandsReachTheirEngines := by
  unfold Obligations.CommandsReachTheirEngines
  intro s id c fails hc goOn dispatched hgoOn hdispatched
  have hgo : ∀ v, goOn v = v.goOn id := hgoOn
  have hdisp : ∀ v, dispatched v = v.dispatched id := hdispatched
  have hid := State.cmd?_id s id c hc
  have hown : s.cmd? c.id = some c := hid.symm ▸ hc
  refine ⟨fun hphase hop => ⟨fun st u h => ?_, fun pages u h => ?_⟩, fun hphase hop => ⟨fun st u h => ?_, fun l u ms v h hgood hst => ?_⟩, fun hphase hno => ?_,
    fun hphase hop hplaced => ⟨fun e he => ?_, fun hnone => ?_⟩, fun hphase hop hplaced => ?_, fun hphase hop => ?_, fun h => ?_, fun h hs hop hphase => ?_, fun h hno => ?_, fun h => ?_,
    fun hop hphase hheld hadm hok hstart => ?_, fun heng hawl hphase hheld u v hu hv d hd => ?_, fun h => ?_, fun h => ?_, fun h => ?_⟩
  · rw [exec_metadataReadComplete, hgo, State.metadataDone_of_list hc hphase hop h]
  · rw [exec_metadataReadComplete, hgo, State.metadataDone_of_pages hc hphase hop h]
  · rw [exec_metadataReadComplete, hgo, State.metadataDone_of_chain hc hphase hop h]
  · rw [exec_metadataReadComplete, hgo, State.metadataDone_of_stages hc hphase hop h hgood hst]
  · rw [exec_metadataReadComplete, State.metadataDone_of_other hc hphase, State.goOn, hc]
    exact congrArg _ (if_neg (ne_true_of_eq_false hno))
  · rw [exec_deferredDispatch, hdisp, State.deferredMove_of_engine hc hphase hop, hplaced, if_neg Bool.false_ne_true, he]
    dsimp only
    rw [State.deferredAwl_of_engine (State.place_sameOps e) hc hop]
  · rw [exec_deferredDispatch, State.deferredMove_of_engine hc hphase hop, hplaced, if_neg Bool.false_ne_true, hnone]
    dsimp only
    rw [State.deferredAwl_of_engine (State.sameOps_of_cmds rfl) hc hop, State.dispatched, hc]
    exact congrArg _ (if_neg (by simp [State.mayStart_of_deferred hphase]))
  · have hmove : s.deferredMove id = s.setCmd (s.inRun c) := by
      rw [State.deferredMove_of_engine hc hphase hop, if_pos hplaced, State.joinRun_of_cmd hc]
    rw [exec_deferredDispatch, hdisp, hmove, State.deferredAwl_of_engine (State.setCmd_sameOps (c := c) (d := s.inRun c) hown rfl) hc hop]
    rfl
  · have hmove : s.deferredMove id = s := by
      rw [State.deferredMove, hc]
      exact if_neg (by simp [not_engine_of_awl hop])
    have hjoin : s.deferredAwl id = s.awlJoin id := by
      rw [State.deferredAwl, hc]
      exact if_pos (by simp [hphase, hop])
    rw [exec_deferredDispatch, hdisp, hmove, hjoin]
  · rw [exec_commandStart hc, if_pos h]
  · rw [exec_commandStart hc, if_neg (ne_true_of_eq_false h), if_pos ⟨hs, hop, hphase⟩]
  · rw [exec_commandStart hc, if_neg (ne_true_of_eq_false h), if_neg hno]
  · rw [exec_timedLaunch]
    by_cases hop : isEngineOp c.op = true
    · rw [State.timedLaunch_of_engine hc hop, State.launchCmd_of_held hc h]
    · rw [State.timedLaunch, hc]
      exact congrArg Host.Outcome.next ((if_neg hop).trans (if_pos (by obtain h | h := h <;> simp [h])))
  · rw [exec_timedLaunch, State.timedLaunch_of_engine hc hop, State.launchCmd_of_unticked hc hphase hheld hadm hok hstart]
  · subst hu
    rw [exec_timedLaunch, State.timedLaunch_of_front hc hphase hheld heng hawl (hv.trans (by rw [State.launched, hid])) hd]
  · rw [exec_commandActivate hc, if_pos h]
  · rw [exec_commandActivate hc, if_neg (ne_true_of_eq_false h)]
  · simp [State.mayEnter, Nat.not_lt.mpr h]

end Sys2Proof.Machine
end


section

/-! Data of the engines: chunks decided, operations of the Awls, announcements and ends. -/

namespace Sys2Proof.Machine

section
variable {s u w : State} {id e : Nat} {c : Cmd} {fails : Bool}

/-! ### A chunk decision (R241, R246, R254) -/

/-- `u` is `s` but for streams and registers. -/
def State.StreamsOnly (s u : State) : Prop := u = { s with streams := u.streams, regs := u.regs }

theorem State.StreamsOnly.trans (h : s.StreamsOnly u) (h' : u.StreamsOnly w) : s.StreamsOnly w := by
  unfold State.StreamsOnly at *
  rw [h] at h'
  exact h'

theorem State.streamReady_streamsOnly (n : Nat) : s.StreamsOnly (s.streamReady n) := by
  unfold State.streamReady
  split <;> rfl

theorem State.streamsReady_streamsOnly (now : List Nat) : s.StreamsOnly (s.streamsReady now) :=
  foldl_keeps (P := fun u => s.StreamsOnly u) (fun _ n _ h => h.trans (State.streamReady_streamsOnly n)) rfl

theorem State.dlMiss_streamsOnly (n : Nat) : s.StreamsOnly (s.dlMiss n) := by
  unfold State.dlMiss
  split <;> rfl

/-- The streams of `u` by which of their commands have a chunk, with their missed deadlines. -/
def State.streamsMet (u : State) : State :=
  (u.streamsReady u.readyStreams).readyStreams.foldl (fun s n => s.dlMiss n) (u.streamsReady u.readyStreams)

theorem State.streamsMet_streamsOnly : u.StreamsOnly u.streamsMet :=
  foldl_keeps (P := fun v => u.StreamsOnly v) (fun _ n _ h => h.trans (State.dlMiss_streamsOnly n)) (State.streamsReady_streamsOnly _)

/-- Engine `e` of `w` with the classes of its ready commands `l`. -/
def State.classed (w : State) (e : Nat) (l : List Cmd) : EngineSt :=
  { (w.classesOf (l.filter fun c => w.rankOf c != 1)).foldl (fun x k => w.raiseClass x (w.classesOf (l.filter fun c => w.rankOf c != 1)) k) (w.engineSt e) with
    readyClasses := w.classesOf (l.filter fun c => w.rankOf c != 1) }

/-- The state in which engine `e` picks among its ready commands of `u`. -/
def State.choosing (u : State) (e : Nat) : State :=
  u.streamsMet.setEngine e (u.streamsMet.classed e ((u.activeOn e).filter u.chunkReady))

theorem State.choosing_frame : u.choosing e = { u with streams := (u.choosing e).streams, engines := (u.choosing e).engines, regs := (u.choosing e).regs } := by
  have h := State.streamsMet_streamsOnly (u := u)
  unfold State.choosing
  generalize u.streamsMet = w at *
  rw [h]
  rfl

theorem State.choosing_engine : (u.choosing e).engineSt e = u.streamsMet.classed e ((u.activeOn e).filter u.chunkReady) := by
  rw [State.choosing, State.engineSt]
  simp only [State.setEngine]
  rw [kvFind_kvIns_same]
  rfl

/-- The reads of the active commands of engine `e`. -/
def State.readsIssued (u : State) (e : Nat) : State := (u.activeOn e).foldl (fun s c => s.issueReads c.id) u

theorem State.chunkDecision_eq {cut : Nat} (hu : u = (s.landed e).readsIssued e) : s.chunkDecision e fails cut =
    match (u.choosing e).pickChunk e ((u.choosing e).engineSt e) ((u.activeOn e).filter u.chunkReady) with
    | some c => (((u.choosing e).serveChunk c fails cut).readsIssued e).streamsReady (((u.choosing e).serveChunk c fails cut).readsIssued e).readyStreams
    | none => u.choosing e := by
  subst hu
  rw [State.choosing_engine]
  rfl

theorem exec_engineChunkDecision {e : Engine} {cut : Fin 17} :
    exec (.engineChunkDecision e fails cut) s = .next ((s.chunkDecision e.val fails cut.val).csrSettle) := rfl

/-! ### An operation of the Awls (R255) -/

theorem exec_awlOperation : exec (.awlOperation fails) s = .next ((s.awlOperation fails).csrSettle) := rfl

theorem State.awlOperation_of_cmd {m : Move}
    (h : s.awlOrder.find? (fun (x : Cmd) => match x.cur with | some m => s.awlReady x m || x.asked.isEmpty | none => false) = some c) (hm : c.cur = some m) :
    s.awlOperation fails = if s.awlReady c m then s.awlPerform c m fails else s.awlAsk c m := by
  have h' : s.awlOperation fails = match s.awlOrder.find? (fun (x : Cmd) => match x.cur with | some m => s.awlReady x m || x.asked.isEmpty | none => false) with
    | none => s
    | some c => match c.cur with
      | some m => if s.awlReady c m then s.awlPerform c m fails else s.awlAsk c m
      | none => s := rfl
  rw [h', h]
  dsimp only
  rw [hm]

/-! ### Announcements and ends (R165, R187) -/

section
variable (hc : s.cmd? id = some c)
include hc

theorem exec_sigAfterSend_of_sig {g : Sig} (hg : c.sigAfter = some g) : exec (.sigAfterSend id) s = .next
    (if c.announceable && !c.signalled && !(g.op == 4 && s.isLocal g.chip && s.tenantHeld c.tenant) then
      (s.setCmd { c with signalled := true }).sigIssue { c with signalled := true } g true else s) := by
  have hexec : exec (.sigAfterSend id) s = .next (s.sendSigAfter id) := rfl
  rw [hexec, State.sendSigAfter, hc]
  dsimp only
  rw [hg]

theorem exec_sigAfterSend_of_signalled (h : c.signalled = true) : exec (.sigAfterSend id) s = .next s := by
  cases hg : c.sigAfter with
  | some g =>
    rw [exec_sigAfterSend_of_sig hc hg]
    exact congrArg _ (if_neg (by simp [h]))
  | none =>
    have hexec : exec (.sigAfterSend id) s = .next (s.sendSigAfter id) := rfl
    rw [hexec, State.sendSigAfter, hc]
    dsimp only
    rw [hg]

theorem exec_commandComplete : exec (.commandComplete id) s = .next
    (if c.phase != .drained then s
    else if c.gate && c.verdict == some false then s.fail id stABORT_SAFETY
    else if c.announceable && (c.sigAfter.all (fun g => g.op == 0) || c.signalled) && (s.vc1Open id).isEmpty then s.fail id stDONE
    else s) := by
  have hexec : exec (.commandComplete id) s = .next (s.completeCmd id) := rfl
  rw [hexec, State.completeCmd, hc]

/-- The command of `id` noted as waiting for a chunk from now on. -/
def State.starved (s : State) (id t : Nat) : State := (s.advance t).modCmd id fun (c : Cmd) => { c with servedAt := (s.advance t).cad.time }

theorem exec_starveTimeout (h : c.phase = .active ∨ (c.phase = .runList ∧ c.started = true)) (hrank : s.rankOf c = 3) : exec (.starveTimeout id) s =
    .next ((s.starved id (c.servedAt + 1000 * s.get F.ENG_STARVE_US)).stick F.ENG_STARVE_STARVE) := by
  have hexec : exec (.starveTimeout id) s = .next (s.starve id) := rfl
  rw [hexec, State.starve, hc]
  dsimp only
  rw [if_pos (by simpa [hrank] using h)]
  rfl

end

theorem Cmd.announceable_iff : c.announceable = true ↔ c.phase = .drained ∧ (c.gate = false ∨ c.verdict = some true) := by
  simp [Cmd.announceable]

end

/-- Settles O30. -/
theorem dataIsServedThenAnnouncedThenRecorded : Obligations.DataIsServedThenAnnouncedThenRecorded := by
  unfold Obligations.DataIsServedThenAnnouncedThenRecorded
  intro s e c m fails cut
  refine ⟨fun u hu => ⟨u.choosing e.val, State.choosing_frame, fun d hd w hw => ?_, fun hnone => ?_⟩, fun h hm => ⟨fun hr => ?_, fun hr => ?_⟩,
    fun hc => ⟨fun g hg ha hs hno => ?_, fun g hg hop hl hh => ?_, fun hs => exec_sigAfterSend_of_signalled hc hs, fun hp => ?_, fun hp hg hv => ?_, fun ha hsig hopen => ?_, fun hp hrank => ?_⟩⟩
  · rw [exec_engineChunkDecision, State.chunkDecision_eq hu, hd, hw]
    rfl
  · rw [exec_engineChunkDecision, State.chunkDecision_eq hu, hnone]
  · rw [exec_awlOperation, State.awlOperation_of_cmd h hm, if_pos hr]
  · rw [exec_awlOperation, State.awlOperation_of_cmd h hm, if_neg (ne_true_of_eq_false hr)]
  · rw [exec_sigAfterSend_of_sig hc hg]
    have hfree : (g.op == 4 && s.isLocal g.chip && s.tenantHeld c.tenant) = false := by
      rw [← Bool.not_eq_true]
      simpa [and_assoc] using hno
    exact congrArg _ (if_pos (by simp [ha, hs, hfree]))
  · rw [exec_sigAfterSend_of_sig hc hg]
    exact congrArg _ (if_neg (by simp [hop, hl, hh]))
  · rw [exec_commandComplete hc]
    exact congrArg _ (if_pos (bne_iff_ne.mpr hp))
  · rw [exec_commandComplete hc]
    exact congrArg _ ((if_neg (by simp [hp])).trans (if_pos (by simp [hg, hv])))
  · obtain ⟨hp, hgate⟩ := Cmd.announceable_iff.mp ha
    have hall : (c.sigAfter.all (fun g => g.op == 0) || c.signalled) = true := by
      rw [Bool.or_eq_true]
      refine hsig.imp_left fun h => ?_
      cases hg : c.sigAfter with
      | none => rfl
      | some g => simpa using h g hg
    rw [exec_commandComplete hc]
    refine congrArg _ ((if_neg (by simp [hp])).trans ((if_neg ?_).trans (if_pos (by simp [ha, hall, hopen]))))
    obtain hgate | hgate := hgate <;> simp [hgate]
  · exact ⟨_, exec_starveTimeout hc hp hrank, rfl⟩

end Sys2Proof.Machine
end


section

/-! Boot and the host port's link through the end of a command and a wake event. -/

namespace Sys2Proof.Machine

/-- Between `s` and `u` neither the boot nor the link of the host port changes. -/
structure State.Calm (s u : State) : Prop where
  boot : u.boot = s.boot
  hpUp : u.pcie.hpUp = s.pcie.hpUp

theorem State.Calm.refl (s : State) : s.Calm s := ⟨rfl, rfl⟩

theorem State.Calm.trans {s u w : State} (h : s.Calm u) (h' : u.Calm w) : s.Calm w := ⟨h'.boot.trans h.boot, h'.hpUp.trans h.hpUp⟩

theorem State.RegsOnly.calm {s u : State} (h : s.RegsOnly u) : s.Calm u := by
  rw [h]
  exact ⟨rfl, rfl⟩

theorem State.Noted.calm {s u : State} (h : s.Noted u) : s.Calm u := ⟨h.boot_eq, by rw [h.pcie]⟩

theorem State.Calm.ite {s a b : State} {c : Prop} [Decidable c] (ha : s.Calm a) (hb : s.Calm b) : s.Calm (if c then a else b) := by
  split
  · exact ha
  · exact hb

/-- A fold of calm steps is calm. -/
theorem State.Calm.foldl {α : Type} {s u : State} {f : State → α → State} (l : List α) (h : s.Calm u) (hf : ∀ (w : State) x, w.Calm (f w x)) :
    s.Calm (l.foldl f u) :=
  foldl_keeps (P := fun w => s.Calm w) (fun w x _ hw => hw.trans (hf w x)) h

section
variable (s : State)

theorem State.lpe_calm (l : Loupe) : s.Calm { s with lpe := l } := ⟨rfl, rfl⟩

theorem State.graphs_calm (l : List Graph) : s.Calm { s with graphs := l } := ⟨rfl, rfl⟩

theorem State.cmds_calm (l : List Cmd) : s.Calm { s with cmds := l } := ⟨rfl, rfl⟩

theorem State.lockSeqs_calm (l : List LockSeq) : s.Calm { s with lockSeqs := l } := ⟨rfl, rfl⟩

theorem State.set_calm (f : Fld) (v : Nat) : s.Calm (s.set f v) := (s.set_regsOnly f v).calm

theorem State.stick_calm (f : Fld) : s.Calm (s.stick f) := (s.stick_regsOnly f).calm

theorem State.bump_calm (f : Fld) (k : Nat) : s.Calm (s.bump f k) := s.set_calm _ _

theorem State.irq_calm (vec : Nat) : s.Calm (s.irq vec) := (s.irq_noted vec).calm

theorem State.msix_calm (fn vec : Nat) : s.Calm (s.msix fn vec) := (s.msix_noted fn vec).calm

theorem State.stickIrq_calm (f : Fld) (vec : Nat) : s.Calm (s.stickIrq f vec) := (s.stick_calm f).trans (State.irq_calm _ _)

theorem State.trace_calm (type unit ten seq : Nat) (payload : List Byte) : s.Calm (s.trace type unit ten seq payload) :=
  (s.trace_noted _ _ _ _ _).calm

theorem State.event_calm (r : List Byte) : s.Calm (s.event r) := (s.event_noted r).calm

theorem State.powerTrace_calm (k n : Nat) : s.Calm (s.powerTrace k n) := s.trace_calm _ _ _ _ _

/-! ### Parts of the state that a command's end rewrites -/

theorem State.setCmd_calm (c : Cmd) : s.Calm (s.setCmd c) := ⟨rfl, rfl⟩

theorem State.modCmd_calm (id : Nat) (f : Cmd → Cmd) : s.Calm (s.modCmd id f) := ⟨rfl, rfl⟩

theorem State.setQueue_calm (x : QueueSt) : s.Calm (s.setQueue x) := ⟨rfl, rfl⟩

theorem State.setTenant_calm (x : TenantSt) : s.Calm (s.setTenant x) := ⟨rfl, rfl⟩

theorem State.setFlagWord_calm (t w v : Nat) : s.Calm (s.setFlagWord t w v) := ⟨rfl, rfl⟩

theorem State.modNode_calm (t k : Nat) (f : Node → Node) : s.Calm (s.modNode t k f) := ⟨rfl, rfl⟩

theorem State.makeReady_calm (t k : Nat) : s.Calm (s.makeReady t k) := s.modNode_calm _ _ _

theorem State.evalFlags_calm (t w : Nat) : s.Calm (s.evalFlags t w) := by
  have hready : s.Calm ((s.nodeSlots t fun n => n.st == .armed && n.waitWord == w && n.holds (s.flagWord t w)).foldl (fun s k => s.makeReady t k) s) :=
    State.Calm.foldl _ (.refl s) fun u k => u.makeReady_calm t k
  exact State.Calm.ite hready (hready.trans (State.setFlagWord_calm _ _ _ _))

theorem State.flagUpdate_calm (t w set clr : Nat) : s.Calm (s.flagUpdate t w set clr) :=
  (s.setFlagWord_calm _ _ _).trans (State.evalFlags_calm _ _ _)

theorem State.nodeFlags_calm (t slot st : Nat) : s.Calm (s.nodeFlags t slot st) := by
  unfold State.nodeFlags
  split
  · exact .ite (.ite (.refl s) (s.flagUpdate_calm _ _ _ _)) (.ite (.refl s) (s.flagUpdate_calm _ _ _ _))
  · exact .refl s

/-! ### Summaries of the Loupe (R415 to R421) -/

theorem State.patHold_calm (p : Nat) : s.Calm (s.patHold p) := .ite (.refl s) ⟨rfl, rfl⟩

theorem State.raise_calm (action : Nat) (by_ : Option Nat) : s.Calm (s.raise action by_) := by
  unfold State.raise
  extract_lets p l a b l' c l'' d
  have hb : s.Calm b := (s.lpe_calm _).trans (.ite (.refl a) (a.patHold_calm p))
  have hc : s.Calm c := .ite (.ite (hb.trans (b.lpe_calm _)) hb) (.refl s)
  exact .ite ((hc.trans (.ite (.refl c) (c.lpe_calm _))).trans (State.set_calm _ _ _)) hc

theorem State.pairFail_calm (i cause : Nat) (r : List Byte) : s.Calm (s.pairFail i cause r) :=
  ((s.raise_calm _ _).trans (State.stick_calm _ _)).trans (State.event_calm _ _)

theorem State.verdict_calm (id : Nat) (r : List Byte) (pass : Bool) : s.Calm (s.verdict id r pass) := .ite ⟨rfl, rfl⟩ (.refl s)

theorem State.missing_calm (u : Unpaired) : s.Calm (s.missing u) :=
  (((s.lpe_calm _).trans (State.pairFail_calm _ _ _ _)).trans (State.verdict_calm _ _ _ _)).trans (State.lpeUpdate_noted _).calm

theorem State.summaryLost_calm (r : List Byte) : s.Calm (s.summaryLost r) := by
  unfold State.summaryLost
  extract_lets a b
  have hb : s.Calm b := (s.stick_calm _).trans (State.event_calm _ _)
  refine hb.trans ?_
  split
  · split
    · exact .refl b
    split
    · exact b.missing_calm _
    · exact ⟨rfl, rfl⟩
  · exact .refl b

theorem State.sendSummary_calm (c : Cmd) (st : Nat) : s.Calm (s.sendSummary c st).2 := by
  unfold State.sendSummary
  dsimp only
  split
  · exact (s.lpe_calm _).trans (State.bump_calm _ _ _)
  · exact s.summaryLost_calm _

/-! ### Completion records (R170 to R173) -/

theorem State.atsUse_calm (t : Nat) (as : List Nat) : s.Calm (s.atsUse t as) := .ite ⟨rfl, rfl⟩ (.refl s)

theorem State.extWrite_calm (space a : Nat) (l : List Byte) : s.Calm (s.extWrite space a l) := ⟨rfl, rfl⟩

theorem State.areaWrite_calm {t da : Nat} {l : List Byte} {u : State} (h : s.areaWrite t da l = some u) : s.Calm u := by
  unfold State.areaWrite at h
  split at h
  · split at h
    · cases h
    · cases h
      refine State.Calm.foldl _ (s.atsUse_calm _ _) fun w k => ?_
      split
      · exact w.extWrite_calm _ _ _
      · exact .refl w
  · cases h
    exact (s.memWrite_noted _ _).calm

theorem State.irqRecord_calm (t : Nat) (irq : Bool) : s.Calm (s.irqRecord t irq) :=
  .ite ((s.setTenant_calm _).trans (State.msix_calm _ _ _)) (s.setTenant_calm _)

theorem State.cqPut_calm {t : Nat} {r : List Byte} {irq : Bool} {u : State} (h : s.cqPut t r irq = some u) : s.Calm u := by
  unfold State.cqPut at h
  extract_lets tail da stale at h
  split at h
  · next w hw =>
    cases h
    refine State.Calm.trans ?_ ((w.set_calm _ _).trans (State.irqRecord_calm _ _ _))
    split at hw
    · cases hw
    · exact s.areaWrite_calm hw
  · cases h

theorem State.haltNote_calm (t : Nat) (was : Bool) : s.Calm (s.haltNote t was) :=
  (s.stick_calm _).trans (State.haltNote_noted _ _ _).1.calm

theorem State.haltCq_calm (t : Nat) : s.Calm (s.haltCq t) := (s.set_calm _ _).trans (State.haltNote_calm _ _ _)

theorem State.record_calm (t : Nat) (r : List Byte) (irq : Bool) (q : Nat) : s.Calm (s.record t r irq q) := by
  unfold State.record
  extract_lets keep
  have hkeep : s.Calm (keep s) := s.setTenant_calm _
  split
  · exact hkeep
  split
  · next u hu => exact s.cqPut_calm hu
  · exact hkeep.trans (State.haltCq_calm _ _)

theorem State.nodeRecorded_calm (t slot : Nat) : s.Calm (s.nodeRecorded t slot) := (s.modNode_calm _ _ _).trans (State.graphs_calm _ _)

theorem State.noteLoose_calm (c : Cmd) : s.Calm (s.noteLoose c) := .ite (.refl s) (s.setQueue_calm _)

theorem State.seqUnopened_calm (c : Cmd) : s.Calm (s.seqUnopened c) :=
  (s.lockSeqs_calm _).trans (.ite (State.setQueue_calm _ _) (.refl _))

theorem State.traceDecode_calm (c : Cmd) : s.Calm (s.traceDecode c) := .ite (.refl s) (s.trace_calm _ _ _ _ _)

theorem State.writeRecord_calm (c : Cmd) : s.Calm (s.writeRecord c) := by
  unfold State.writeRecord
  extract_lets a b d e
  have hb : s.Calm b := (s.trace_calm _ _ _ _ _).trans (State.record_calm _ _ _ _ _)
  have he : s.Calm e := (hb.trans (.ite (b.noteLoose_calm c) (.refl b))).trans (State.cmds_calm _ _)
  split
  · exact he.trans (State.nodeRecorded_calm _ _ _)
  · exact he

theorem State.flush_calm (t q : Nat) : s.Calm (s.flush t q) := by
  unfold State.flush
  refine State.Calm.foldl _ (.refl s) fun u id => ?_
  split
  · exact .ite ((u.setQueue_calm _).trans (State.writeRecord_calm _ _)) (.refl u)
  · exact .refl u

theorem State.endNode_calm (c : Cmd) (slot : Nat) : s.Calm (s.endNode c slot) :=
  .ite (s.setCmd_calm _) (((s.setCmd_calm _).trans (State.nodeFlags_calm _ _ _ _)).trans (State.writeRecord_calm _ _))

theorem State.cf_calm (l : List Nat) : s.Calm { s with cf := l } := ⟨rfl, rfl⟩

theorem State.finish_calm (id st result : Nat) : s.Calm (s.finish id st result) := by
  unfold State.finish
  split
  · exact .refl s
  next c _ =>
  split
  · exact .refl s
  extract_lets u a
  refine (s.cf_calm _ : s.Calm u).trans ?_
  obtain ⟨st', res, w⟩ := u.outcome c st (c.resultOf result)
  dsimp -zeta only
  extract_lets b d e c' c'' f
  have ha : u.Calm a := .ite (u.traceDecode_calm c) (.refl u)
  have hb : u.Calm b := .ite (ha.trans (a.sendSummary_calm c st')) ha
  have hd : u.Calm d := .ite (hb.trans (b.stickIrq_calm _ _)) hb
  have he : u.Calm e := .ite (hd.trans (d.seqUnopened_calm c)) hd
  have hf : u.Calm f := by
    unfold f
    split
    · exact .ite (he.trans (e.lockSeqs_calm _)) he
    · exact he
  split
  · exact hf.trans (f.endNode_calm _ _)
  · exact hf.trans ((f.setCmd_calm _).trans (State.flush_calm _ _ _))

theorem State.fail_calm (id st : Nat) : s.Calm (s.fail id st) := s.finish_calm _ _ _

/-! ### Wake events (R473) -/

theorem State.pwr_calm (p : Pwr) : s.Calm { s with pwr := p } := ⟨rfl, rfl⟩

theorem State.abandon_calm (n : Nat) (id : Option Nat) : s.Calm (s.abandon n id) := by
  unfold State.abandon
  extract_lets p u w
  refine ((s.pwr_calm _ : s.Calm u).trans ?_).trans ((w.powerTrace_calm 2 n).trans (State.stick_calm _ _))
  unfold w
  split
  · exact u.finish_calm _ _ _
  · exact .refl u

theorem State.wake_calm (code : Nat) : s.Calm (s.wake code) := by
  unfold State.wake
  split
  · exact .ite (s.abandon_calm _ _) (.refl s)
  · refine .ite (.refl s) ?_
    have hleave : s.Calm { s.set F.PWR_WAKE_CAUSE code with pwr := { s.pwr with leaving := true } } := ⟨rfl, rfl⟩
    exact .ite ⟨rfl, rfl⟩ hleave

end

end Sys2Proof.Machine
end


section

/-! BAR2: reads and writes of SRAM by the host (R75 to R79). -/

namespace Sys2Proof.Machine

theorem State.RegsOnly.mem_eq {s u : State} (h : s.RegsOnly u) : u.mem = s.mem := by rw [h]

theorem State.RegsOnly.outbox_eq {s u : State} (h : s.RegsOnly u) : u.outbox = s.outbox := by rw [h]

/-! ### What a memory read keeps -/

/-- `u` is `s` after reads: the bytes stay, and so do the registers that say which bytes are internal; messages may have been sent. -/
structure State.ReadFrom (s u : State) : Prop where
  mem : s.mem.Corrected u.mem
  resize : u.mem.resize = s.mem.resize
  rd : ∀ b, 0x40000 ≤ b → b < 0xC0050 → u.rd b = s.rd b
  outbox : ∃ l, u.outbox = s.outbox ++ l

theorem State.ReadFrom.refl (s : State) : s.ReadFrom s := ⟨.refl _, rfl, fun _ _ _ => rfl, [], (List.append_nil _).symm⟩

theorem State.ReadFrom.trans {s u w : State} (h : s.ReadFrom u) (h' : u.ReadFrom w) : s.ReadFrom w := by
  obtain ⟨l, hl⟩ := h.outbox
  obtain ⟨l', hl'⟩ := h'.outbox
  exact ⟨h.mem.trans h'.mem, h'.resize.trans h.resize, fun b h₁ h₂ => (h'.rd b h₁ h₂).trans (h.rd b h₁ h₂), l ++ l',
    by rw [hl', hl, List.append_assoc]⟩

theorem State.ReadFrom.internal_eq {s u : State} (h : s.ReadFrom u) (a n : Nat) : u.internal a n = s.internal a n := by
  have hbase : u.get F.MEM_INGEST_BASE = s.get F.MEM_INGEST_BASE := by
    rw [State.get, State.get, h.rd _ (by decide) (by decide)]
  have hsize : u.get F.MEM_WC_SIZE = s.get F.MEM_WC_SIZE := by
    rw [State.get, State.get, h.rd _ (by decide) (by decide)]
  rw [State.internal, State.internal, State.ingestRange, State.ingestRange, hbase, hsize, h.resize]

theorem State.ReadFrom.internalByte_eq {s u : State} (h : s.ReadFrom u) : u.internalByte = s.internalByte :=
  funext fun a => h.internal_eq a 1

theorem State.ReadFrom.judged_eq {s u : State} (h : s.ReadFrom u) (off n : Nat) : u.judged off n = s.judged off n := by
  rw [State.judged, State.judged, h.internalByte_eq]

/-- Words outside the registers that say which bytes are internal. -/
def readNote (b : Nat) : Prop := b < 0x40000 ∨ 0xC0050 ≤ b

section
variable (s : State)

theorem State.wr_readFrom {a : Nat} (ha : readNote a) (v : Nat) : s.ReadFrom (s.wr a v) :=
  ⟨.refl _, rfl, fun b h₁ h₂ => s.rd_wr_other a b v (by unfold readNote at ha; omega), [], (List.append_nil _).symm⟩

theorem State.set_readFrom {f : Fld} (hf : readNote f.addr) (v : Nat) : s.ReadFrom (s.set f v) := s.wr_readFrom hf _

theorem State.stick_readFrom {f : Fld} (hf : readNote f.addr) : s.ReadFrom (s.stick f) :=
  (s.set_readFrom hf 1).trans ((s.set f 1).set_readFrom (f := f.cnt) hf (satAdd 255 (s.get f.cnt) 1))

theorem State.bump_readFrom {f : Fld} (hf : readNote f.addr) (k : Nat) : s.ReadFrom (s.bump f k) := s.set_readFrom hf _

theorem State.errs_readFrom (e : Errs) : s.ReadFrom { s with errs := e } := ⟨.refl _, rfl, fun _ _ _ => rfl, [], (List.append_nil _).symm⟩

theorem State.out_readFrom (o : Output) : s.ReadFrom (s.out o) := ⟨.refl _, rfl, fun _ _ _ => rfl, [o], rfl⟩

theorem State.msix_readFrom (fn vec : Nat) : s.ReadFrom (s.msix fn vec) := by
  unfold State.msix
  split
  · exact .refl s
  split
  · exact s.out_readFrom _
  split
  · exact .refl s
  · exact ⟨.refl _, rfl, fun _ _ _ => rfl, [], (List.append_nil _).symm⟩

theorem State.irq_readFrom (vec : Nat) : s.ReadFrom (s.irq vec) := by
  have hcases : s.irq vec = ({ s with errs := { s.errs with vecSent := kvIns vec s.cad.time s.errs.vecSent } } : State).msix 0 vec ∨
      s.irq vec = s := State.ite_eq_left_or_right _ _
  rcases hcases with hsent | hnone
  · rw [hsent]
    exact (s.errs_readFrom _).trans (State.msix_readFrom _ _ _)
  · rw [hnone]
    exact .refl s

theorem State.flogFull_readFrom : s.ReadFrom s.flogFull := by
  unfold State.flogFull
  split
  · exact s.stick_readFrom (.inl (by decide))
  · exact .refl s

theorem State.fault_readFrom (cls cause unit status iid da seq trigger : Nat) (detail : List Byte) :
    s.ReadFrom (s.fault cls cause unit status iid da seq trigger detail) := by
  by_cases h : s.faultFolds cause unit ((kvFind s.errs.flog ((s.get F.GLB_FLOG_TAIL + 1023) % 1024)).getD []) = true
  · rw [s.fault_of_folds h]
    exact s.errs_readFrom _
  · rw [s.fault_of_not_folds (Bool.eq_false_iff.mpr h)]
    exact ((s.flogFull_readFrom.trans (State.errs_readFrom _ _)).trans (State.set_readFrom _ (.inl (by decide)) _)).trans (State.irq_readFrom _ _)

theorem State.ueNoted_readFrom (da iid : Nat) (scrub : Bool) : s.ReadFrom (s.ueNoted da iid scrub) := by
  have hflag : s.ReadFrom (s.stickIrq F.MEM_UE_UE 11) := (s.stick_readFrom (.inr (by decide))).trans (State.irq_readFrom _ _)
  have haddr : s.ReadFrom ((s.stickIrq F.MEM_UE_UE 11).set64 F.MEM_UE_ADDR_LO da) :=
    (hflag.trans (State.wr_readFrom _ (.inr (by decide)) _)).trans (State.wr_readFrom _ (.inr (by decide)) _)
  exact (haddr.trans (State.set_readFrom _ (f := F.MEM_UE_INFO_IID) (.inr (by decide)) _)).trans
    (State.set_readFrom _ (f := F.MEM_UE_INFO_SCRUB) (.inr (by decide)) _)

theorem State.logUE_readFrom (sp word iid : Nat) (scrub : Bool) (st seq : Nat) : s.ReadFrom (s.logUE sp word iid scrub st seq) := by
  obtain ⟨da, cls, cause, unit, trigger, h⟩ := s.logUE_eq_fault sp word iid scrub st seq
  rw [h]
  exact (s.ueNoted_readFrom _ _ _).trans (State.fault_readFrom _ _ _ _ _ _ _ _ _ _)

theorem State.correct_readFrom (sp word : Nat) : s.ReadFrom (s.correct sp word) := by
  unfold State.correct
  split
  · refine State.ReadFrom.trans (u := { s with mem := { s.mem with ce := s.mem.ce.filter (· != (sp, word)) } })
      ⟨Mem.corrected_ce _ fun _ hx => (List.mem_filter.mp hx).1, rfl, fun _ _ _ => rfl, [], (List.append_nil _).symm⟩ ?_
    exact (State.bump_readFrom _ (.inr (by split <;> decide)) _).trans (State.stick_readFrom _ (.inr (by decide)))
  · exact .refl s

theorem State.readWords_readFrom (sp : Nat) (ws : List Nat) (iid st seq : Nat) : s.ReadFrom (s.readWords sp ws iid st seq) := by
  unfold State.readWords
  refine foldl_keeps (P := fun u => s.ReadFrom u) (fun u w _ h => h.trans ?_) (.refl s)
  split
  · exact u.logUE_readFrom _ _ _ _ _ _
  · exact u.correct_readFrom _ _

theorem State.correct_outbox (sp word : Nat) : (s.correct sp word).outbox = s.outbox := by
  rw [(s.correct_storeOnly sp word).frame]

/-- A read that meets no uncorrectable word sends nothing. -/
theorem State.readWords_outbox {sp : Nat} {ws : List Nat} {iid st seq : Nat} (h : s.mem.badWord sp ws = none) :
    (s.readWords sp ws iid st seq).outbox = s.outbox := by
  have hgood : ∀ w ∈ ws, ¬ (s.mem.ue.contains (sp, w) = true) := by simpa [Mem.badWord] using h
  refine (foldl_keeps (P := fun u : State => u.outbox = s.outbox ∧ u.mem.ue = s.mem.ue) (fun u w hw hu => ?_) ⟨rfl, rfl⟩ :
    (s.readWords sp ws iid st seq).outbox = s.outbox ∧ (s.readWords sp ws iid st seq).mem.ue = s.mem.ue).1
  obtain ⟨hout, hue⟩ := hu
  rw [if_neg (hue ▸ hgood w hw)]
  exact ⟨(u.correct_outbox _ _).trans hout, (u.correct_corrected _ _).ue.trans hue⟩

/-! ### Bridle in front of BAR2 -/

theorem State.rsvd_readFrom (off n : Nat) : s.ReadFrom (s.rsvd off n) := by
  unfold State.rsvd
  split
  · exact s.stick_readFrom (.inr (by decide))
  · exact .refl s

theorem State.rsvd_regsOnly (off n : Nat) : s.RegsOnly (s.rsvd off n) := .ite (s.stick_regsOnly _) rfl

theorem State.bridle_regsOnly (f t agent cls : Nat) (wr : Bool) (units : List Nat) : s.RegsOnly (s.bridle f t agent cls wr units).2 := by
  unfold State.bridle
  extract_lets multi a
  have ha : s.RegsOnly a := .ite (s.stick_regsOnly _) rfl
  split
  · exact ha
  · exact ha.trans ((((a.stick_regsOnly _).trans (State.set_regsOnly _ _ _)).trans (State.set_regsOnly _ _ _)).trans (State.set_regsOnly _ _ _))

theorem State.bridle_readFrom {f : Nat} (hf : f < 3) (t agent cls : Nat) (wr : Bool) (units : List Nat) :
    s.ReadFrom (s.bridle f t agent cls wr units).2 := by
  have hmulti : readNote (F.BRD_MULTI_MULTI f).addr := .inr (by show 0xC0050 ≤ 0x343080 + 0x4 * f; omega)
  unfold State.bridle
  extract_lets multi a
  have ha : s.ReadFrom a := by
    unfold a
    split
    · exact s.stick_readFrom hmulti
    · exact .refl s
  split
  · exact ha
  · exact ha.trans ((((a.stick_readFrom (.inr (by decide))).trans (State.set_readFrom _ (.inr (by decide)) _)).trans
      (State.set_readFrom _ (.inr (by decide)) _)).trans (State.set_readFrom _ (.inr (by decide)) _))

/-! ### What a memory write stores -/

theorem State.writeWord_of_uncorrectable {sp w : Nat} {cells : List Host.Cell} (hnot : ¬ wholeWord cells w) (hue : (sp, w) ∈ s.mem.ue) :
    s.writeWord sp w cells = s := by
  rw [State.writeWord, if_neg (by simpa [wholeWord] using hnot), if_pos (List.contains_iff_mem.mpr hue)]

theorem State.writeWord_of_good {sp w : Nat} {cells : List Host.Cell} (hnot : ¬ wholeWord cells w) (hue : (sp, w) ∉ s.mem.ue) :
    s.writeWord sp w cells = { s.correct sp w with mem := (s.correct sp w).mem.putCells sp cells } := by
  rw [State.writeWord, if_neg (by simpa [wholeWord] using hnot), if_neg (by simpa using hue)]

theorem Mem.ue_putCells (m : Mem) (sp : Nat) (cells : List Host.Cell) : (m.putCells sp cells).ue = m.ue :=
  foldl_keeps (P := fun u : Mem => u.ue = m.ue) (fun u c _ h => by
    rw [← h]
    unfold Mem.putByte Mem.setCells
    split <;> rfl) rfl

/-- A write of a word replaces it whole, finds it uncorrectable, or corrects it first. -/
theorem State.writeWord_mem (sp w : Nat) (cells : List Host.Cell) : ∃ m : Mem, (∀ sq x, m.byte sq x = s.mem.byte sq x) ∧
    m.ue ⊆ s.mem.ue ∧ (wholeWord cells w → (sp, w) ∉ m.ue) ∧
    ((s.writeWord sp w cells).mem = m.putCells sp cells ∨
      (s.writeWord sp w cells).mem = m ∧ ¬ wholeWord cells w ∧ (sp, w) ∈ s.mem.ue) := by
  by_cases hwhole : wholeWord cells w
  · refine ⟨{ s.mem with ce := s.mem.ce.filter (· != (sp, w)), ue := s.mem.ue.filter (· != (sp, w)) }, fun sq x => ?_,
      fun _ hx => (List.mem_filter.mp hx).1, fun _ => by simp, .inl (by rw [s.writeWord_of_wholeWord sp w hwhole])⟩
    unfold Mem.byte Mem.cells
    split <;> rfl
  by_cases hue : (sp, w) ∈ s.mem.ue
  · exact ⟨s.mem, fun _ _ => rfl, fun _ hx => hx, fun h => absurd h hwhole, .inr ⟨by rw [s.writeWord_of_uncorrectable hwhole hue], hwhole, hue⟩⟩
  · have hcorr := s.correct_corrected sp w
    exact ⟨(s.correct sp w).mem, hcorr.byte, fun _ hx => hcorr.ue ▸ hx, fun h => absurd h hwhole, .inl (by rw [s.writeWord_of_good hwhole hue])⟩

theorem State.writeWord_ue (sp w : Nat) (cells : List Host.Cell) : (s.writeWord sp w cells).mem.ue ⊆ s.mem.ue ∧
    (wholeWord cells w → (sp, w) ∉ (s.writeWord sp w cells).mem.ue) := by
  obtain ⟨m, -, hue, hwhole, hput | ⟨hkept, -, -⟩⟩ := s.writeWord_mem sp w cells
  · rw [hput, Mem.ue_putCells]
    exact ⟨hue, hwhole⟩
  · rw [hkept]
    exact ⟨hue, hwhole⟩

/-- A byte on which the cells agree keeps its value, whether they name it or not. -/
theorem State.byte_writeWord_kept {sp w x : Nat} {b : BitVec 8} {cells : List Host.Cell} (hagree : ∀ c ∈ cells, c.1 = x → c.2 = b)
    (h : s.mem.byte sp x = b) : (s.writeWord sp w cells).mem.byte sp x = b := by
  obtain ⟨m, hbyte, -, -, hput | ⟨hkept, -, -⟩⟩ := s.writeWord_mem sp w cells
  · rw [hput]
    exact Mem.byte_putCells_of_agree cells hagree (.inr ((hbyte sp x).trans h))
  · rw [hkept, hbyte, h]

theorem State.byte_writeWord_stored {sp w x : Nat} {b : BitVec 8} {cells : List Host.Cell} (hagree : ∀ c ∈ cells, c.1 = x → c.2 = b)
    (hx : x ∈ cells.map (·.1)) (h : wholeWord cells w ∨ (sp, w) ∉ s.mem.ue) : (s.writeWord sp w cells).mem.byte sp x = b := by
  obtain ⟨m, hbyte, -, -, hput | ⟨-, hnot, hue⟩⟩ := s.writeWord_mem sp w cells
  · rw [hput]
    exact Mem.byte_putCells_of_agree cells hagree (.inl hx)
  · exact absurd h (by simp [hnot, hue])

theorem State.byte_writeWord_space {sp sq w x : Nat} {cells : List Host.Cell} (hne : sp ≠ sq) (h1 : sp = 1 ∨ sp = 2 ∨ sp = 3)
    (h2 : sq = 1 ∨ sq = 2 ∨ sq = 3) : (s.writeWord sp w cells).mem.byte sq x = s.mem.byte sq x := by
  obtain ⟨m, hbyte, -, -, hput | ⟨hkept, -, -⟩⟩ := s.writeWord_mem sp w cells
  · rw [hput, Mem.byte_putCells_space _ _ _ _ _ hne h1 h2, hbyte]
  · rw [hkept, hbyte]

/-! ### Words of a write -/

theorem State.writeWords_ue (sp : Nat) (ws : List Nat) (cells : List Host.Cell) : (s.writeWords sp ws cells).mem.ue ⊆ s.mem.ue :=
  foldl_keeps (P := fun u : State => u.mem.ue ⊆ s.mem.ue) (fun u _ _ h _ hx => h ((u.writeWord_ue _ _ _).1 hx)) fun _ hx => hx

theorem State.writeWords_repaired {sp w : Nat} {ws : List Nat} {cells : List Host.Cell} (hw : w ∈ ws) (hwhole : wholeWord cells w) :
    (sp, w) ∉ (s.writeWords sp ws cells).mem.ue :=
  foldl_establishes (P := fun u : State => (sp, w) ∉ u.mem.ue) hw (fun u => (u.writeWord_ue _ _ _).2 (wholeWord_filter hwhole))
    (fun u _ _ h hx => h ((u.writeWord_ue _ _ _).1 hx)) s

theorem State.byte_writeWords_kept {sp x : Nat} {b : BitVec 8} {ws : List Nat} {cells : List Host.Cell}
    (hagree : ∀ c ∈ cells, c.1 = x → c.2 = b) (h : s.mem.byte sp x = b) : (s.writeWords sp ws cells).mem.byte sp x = b :=
  foldl_keeps (P := fun u : State => u.mem.byte sp x = b)
    (fun u _ _ hu => u.byte_writeWord_kept (fun c hc => hagree c (List.mem_filter.mp hc).1) hu) h

theorem State.byte_writeWords_stored {sp x : Nat} {b : BitVec 8} {ws : List Nat} {cells : List Host.Cell}
    (hagree : ∀ c ∈ cells, c.1 = x → c.2 = b) (hx : x ∈ cells.map (·.1)) (hw : x / 8 ∈ ws)
    (h : wholeWord cells (x / 8) ∨ (sp, x / 8) ∉ s.mem.ue) : (s.writeWords sp ws cells).mem.byte sp x = b := by
  have hsub : ∀ w, ∀ c ∈ cells.filter (fun c => c.1 / 8 == w), c.1 = x → c.2 = b := fun w c hc => hagree c (List.mem_filter.mp hc).1
  have hin : x ∈ (cells.filter fun c => c.1 / 8 == x / 8).map (·.1) := by
    obtain ⟨c, hc, hcx⟩ := List.mem_map.mp hx
    exact List.mem_map.mpr ⟨c, List.mem_filter.mpr ⟨hc, beq_iff_eq.mpr (by rw [hcx])⟩, hcx⟩
  refine foldl_establishes_under (I := fun u : State => u.mem.ue ⊆ s.mem.ue) (P := fun u : State => u.mem.byte sp x = b) hw
    (fun _ hx => hx) (fun u _ _ hu _ hx => hu ((u.writeWord_ue _ _ _).1 hx)) (fun u hu => ?_) (fun u w _ _ hb => u.byte_writeWord_kept (hsub w) hb)
  exact u.byte_writeWord_stored (hsub _) hin (h.imp wholeWord_filter fun hno hyes => hno (hu hyes))

theorem State.byte_writeWords_space {sp sq x : Nat} {ws : List Nat} {cells : List Host.Cell} (hne : sp ≠ sq) (h1 : sp = 1 ∨ sp = 2 ∨ sp = 3)
    (h2 : sq = 1 ∨ sq = 2 ∨ sq = 3) : (s.writeWords sp ws cells).mem.byte sq x = s.mem.byte sq x :=
  foldl_keeps (P := fun u : State => u.mem.byte sq x = s.mem.byte sq x) (fun u _ _ h => (u.byte_writeWord_space hne h1 h2).trans h) rfl

end

/-! ### A write of the host -/

/-- The cells of a write that BAR2 stores: in SRAM, and not device-internal. -/
def State.bar2Cells (s : State) (off : Nat) (data : List Byte) : List Host.Cell :=
  ((cellsAt off data).filter fun c => !(s.internalByte c.1)).filter fun c => c.1 < spaceSize 1

section
variable {s : State} {off : Nat} {data : List Byte}

theorem State.memWrite_bar2 (s : State) (off : Nat) (data : List Byte) : s.memWrite 1 ((cellsAt off data).filter fun c => !(s.internalByte c.1)) =
    s.writeWords 1 (wordsOf ((s.bar2Cells off data).map (·.1))) (s.bar2Cells off data) := rfl

theorem State.bar2Cells_agree {c : Host.Cell} (hc : c ∈ s.bar2Cells off data) : c.2 = data.getD (c.1 - off) 0 :=
  (mem_cellsAt (List.mem_filter.mp (List.mem_filter.mp hc).1).1).2.2

theorem State.mem_bar2Cells {x : Nat} : x ∈ (s.bar2Cells off data).map (·.1) ↔
    off ≤ x ∧ x < off + data.length ∧ x < 0x40000000 ∧ s.internalByte x = false := by
  constructor
  · rintro hx
    obtain ⟨c, hc, rfl⟩ := List.mem_map.mp hx
    obtain ⟨hc, hspace⟩ := List.mem_filter.mp hc
    obtain ⟨hc, hint⟩ := List.mem_filter.mp hc
    obtain ⟨hge, hlt, -⟩ := mem_cellsAt hc
    exact ⟨hge, hlt, of_decide_eq_true hspace, by simpa using hint⟩
  · rintro ⟨hge, hlt, hspace, hint⟩
    obtain ⟨c, hc, rfl⟩ := List.mem_map.mp (mem_addrs_cellsAt.mpr ⟨hge, hlt⟩)
    exact List.mem_map.mpr ⟨c, List.mem_filter.mpr ⟨List.mem_filter.mpr ⟨hc, by simp [hint]⟩, decide_eq_true hspace⟩, rfl⟩

/-- What a write that Bridle allows stores and what it leaves (R75, R79). -/
theorem State.bar2Stores (s : State) (off : Nat) (data : List Byte) {t : State}
    (ht : t = s.memWrite 1 ((cellsAt off data).filter fun c => !(s.internalByte c.1))) :
    (∀ k, k < data.length → off + k < 0x40000000 → s.internalByte (off + k) = false → (1, (off + k) / 8) ∉ s.mem.ue →
      t.mem.byte 1 (off + k) = data.getD k 0) ∧
    (∀ d, (∀ j, j < 8 → off ≤ 8 * d + j ∧ 8 * d + j < off + data.length ∧ 8 * d + j < 0x40000000 ∧ s.internalByte (8 * d + j) = false) →
      (1, d) ∉ t.mem.ue ∧ ∀ j, j < 8 → t.mem.byte 1 (8 * d + j) = data.getD (8 * d + j - off) 0) ∧
    (∀ a, (a < off ∨ off + data.length ≤ a ∨ s.internalByte a = true) → t.mem.byte 1 a = s.mem.byte 1 a) ∧
    (∀ sp a, sp = 2 ∨ sp = 3 → t.mem.byte sp a = s.mem.byte sp a) := by
  rw [ht, s.memWrite_bar2]
  have hagree : ∀ x, ∀ c ∈ s.bar2Cells off data, c.1 = x → c.2 = data.getD (x - off) 0 :=
    fun x c hc hx => hx ▸ State.bar2Cells_agree hc
  have hword {x : Nat} (hx : x ∈ (s.bar2Cells off data).map (·.1)) : x / 8 ∈ wordsOf ((s.bar2Cells off data).map (·.1)) :=
    mem_wordsOf.mpr ⟨x, hx, rfl⟩
  refine ⟨fun k hk hspace hint hue => ?_, fun d hd => ?_, fun a ha => ?_, fun sp a hsp => ?_⟩
  · have hx := State.mem_bar2Cells (data := data).mpr ⟨Nat.le_add_right off k, Nat.add_lt_add_left hk off, hspace, hint⟩
    rw [s.byte_writeWords_stored (hagree _) hx (hword hx) (.inr hue), Nat.add_sub_cancel_left]
  · have hwhole : wholeWord (s.bar2Cells off data) d := fun j hj => State.mem_bar2Cells.mpr (hd j hj)
    have hdiv {j : Nat} (hj : j < 8) : (8 * d + j) / 8 = d := by omega
    refine ⟨s.writeWords_repaired (hdiv (j := 0) (by decide) ▸ hword (hwhole 0 (by decide))) hwhole, fun j hj => ?_⟩
    exact s.byte_writeWords_stored (hagree _) (hwhole j hj) (hword (hwhole j hj)) (.inl ((hdiv hj).symm ▸ hwhole))
  · refine s.byte_writeWords_kept (fun c hc hca => ?_) rfl
    obtain ⟨hge, hlt, -, hint⟩ := State.mem_bar2Cells.mp (List.mem_map.mpr ⟨c, hc, hca⟩)
    rcases ha with h | h | h
    · omega
    · omega
    · rw [hint] at h
      cases h
  · exact s.byte_writeWords_space (by omega) (.inl rfl) (.inr hsp)

end

/-! ### Settling O16 -/

section
variable {s : State} {off : Nat} {n : Nat} {data : List Byte} {secure : Bool}

theorem State.bar2Wake_of_up (h : s.pcie.hpUp = true) : s.bar2Wake = s.wake 1 := if_pos h

theorem State.bar2Wake_of_down (h : s.pcie.hpUp = false) : s.bar2Wake = s := if_neg (by simp [h])

theorem State.bar2Read_of_down (h : s.pcie.hpUp = false) : s.bar2Read off n secure = s := if_pos (by simp [h])

theorem State.bar2Read_of_insecure (hup : s.pcie.hpUp = true) (hide : s.on F.TEN_HP_IDE_REQ = true) :
    s.bar2Read off n false = s.stick F.TEN_IDEDROP_IDEDROP := (if_neg (by simp [hup])).trans (if_pos (by simp [hide]))

theorem State.bar2Read_of_restart (hup : s.pcie.hpUp = true) (hide : s.on F.TEN_HP_IDE_REQ = false ∨ secure = true) (h : s.boot.phase = .restart) :
    s.bar2Read off n secure = s.out (.readCompletion 0 off (List.replicate n 0) false) :=
  (if_neg (by simp [hup])).trans ((if_neg (by rcases hide with h | h <;> simp [h])).trans (if_pos (by simp [h])))

/-- The read of what Bridle allowed, `u` being the state after its answer. -/
def State.bar2Answer (s u : State) (off n : Nat) : State :=
  let v := u.readWords 1 (wordsOf (s.judged off n)) 0x30 0 0
  v.out (.readCompletion 0 off ((List.range n).map fun k => if v.internalByte (off + k) then 0 else v.mem.byte 1 (off + k))
    (u.mem.badWord 1 (wordsOf (s.judged off n))).isSome)

theorem State.bar2Read_of_judged (hup : s.pcie.hpUp = true) (hide : s.on F.TEN_HP_IDE_REQ = false ∨ secure = true) (h : s.boot.phase ≠ .restart)
    {ok : Bool} {u : State}
    (hok : (s.rsvd off n).bridle 0 0 0x30 clsHOST false ((((s.rsvd off n).judged off n).map (· / 4096)).eraseDups) = (ok, u)) :
    s.bar2Read off n secure = if !ok then u.out (.completerAbort 0 off) else (s.rsvd off n).bar2Answer u off n := by
  rw [State.bar2Read, if_neg (by simp [hup]), if_neg (by rcases hide with h | h <;> simp [h]), if_neg (by simp [h])]
  dsimp only
  rw [hok]
  rfl

/-- An allowed read answers the bytes of SRAM, and changes none (R77, R79). -/
theorem State.bar2Answer_spec {u : State} (hsu : s.ReadFrom u) (hmem : u.mem = s.mem) (hout : u.outbox = s.outbox) (off n : Nat) : ∃ l,
    (s.bar2Answer u off n).outbox = s.outbox ++ l ++ [.readCompletion 0 off
      ((List.range n).map fun k => if s.internalByte (off + k) then 0 else s.mem.byte 1 (off + k))
      (s.mem.badWord 1 (wordsOf (s.judged off n))).isSome] ∧
    (s.mem.badWord 1 (wordsOf (s.judged off n)) = none → l = []) ∧ ∀ sp a, (s.bar2Answer u off n).mem.byte sp a = s.mem.byte sp a := by
  have huv := u.readWords_readFrom 1 (wordsOf (s.judged off n)) 0x30 0 0
  have hnone := u.readWords_outbox (sp := 1) (ws := wordsOf (s.judged off n)) (iid := 0x30) (st := 0) (seq := 0)
  unfold State.bar2Answer
  generalize u.readWords 1 (wordsOf (s.judged off n)) 0x30 0 0 = v at huv hnone ⊢
  obtain ⟨l, hl⟩ := huv.outbox
  have hbyte : ∀ sp a, v.mem.byte sp a = s.mem.byte sp a := fun sp a => hmem ▸ huv.mem.byte sp a
  refine ⟨l, ?_, fun h => ?_, hbyte⟩
  · show v.outbox ++ _ = _
    rw [hl, hout, (hsu.trans huv).internalByte_eq, hmem]
    simp only [hbyte]
  · exact List.append_cancel_left (hl.symm.trans ((hnone (hmem ▸ h)).trans (List.append_nil _).symm))

theorem State.bar2Write_of_insecure (hup : s.pcie.hpUp = true) (hide : s.on F.TEN_HP_IDE_REQ = true) (b : Bool) :
    s.bar2Write off data b false = s.stick F.TEN_IDEDROP_IDEDROP := (if_neg (by simp [hup])).trans (if_pos (by simp [hide]))

theorem State.bar2Write_of_poisoned (hup : s.pcie.hpUp = true) (hide : s.on F.TEN_HP_IDE_REQ = false ∨ secure = true) :
    s.bar2Write off data true secure = (s.stick F.TEN_POISON_POISON).out (.poisonedTlp 0) :=
  (if_neg (by simp [hup])).trans (if_neg (by rcases hide with h | h <;> simp [h]))

theorem State.bar2Write_of_restart (hup : s.pcie.hpUp = true) (hide : s.on F.TEN_HP_IDE_REQ = false ∨ secure = true) (h : s.boot.phase = .restart) :
    s.bar2Write off data false secure = s :=
  (if_neg (by simp [hup])).trans ((if_neg (by rcases hide with h | h <;> simp [h])).trans ((if_neg (by simp)).trans (if_pos (by simp [h]))))

theorem State.bar2Write_of_judged (hup : s.pcie.hpUp = true) (hide : s.on F.TEN_HP_IDE_REQ = false ∨ secure = true) (h : s.boot.phase ≠ .restart)
    {ok : Bool} {u : State} (hok : (s.rsvd off data.length).bridle 0 0 0x30 clsHOST true
      ((((s.rsvd off data.length).judged off data.length).map (· / 4096)).eraseDups) = (ok, u)) :
    s.bar2Write off data false secure = if !ok then u else u.memWrite 1 ((cellsAt off data).filter fun c => !(u.internalByte c.1)) := by
  rw [State.bar2Write, if_neg (by simp [hup]), if_neg (by rcases hide with h | h <;> simp [h]), if_neg (by simp), if_neg (by simp [h])]
  dsimp only
  rw [hok]

end

/-- Settles O16: a wake keeps the link and the boot phase, Bridle and the reads keep which bytes are internal. -/
theorem bar2ReadsAndStoresItsBytes : Obligations.Bar2ReadsAndStoresItsBytes := by
  unfold Obligations.Bar2ReadsAndStoresItsBytes
  refine ⟨?_, ?_⟩
  · intro s w off n secure hw
    have hexec (secure : Bool) : exec (.bar2Read off n secure) s = .next (s.bar2Wake.bar2Read off.toNat n.val secure) := rfl
    refine ⟨fun hdown => ?_, fun hup => ?_⟩
    · rw [hexec, State.bar2Wake_of_down hdown, State.bar2Read_of_down hdown]
    have hwup : w.pcie.hpUp = true := hw ▸ (s.wake_calm 1).hpUp.trans hup
    replace hexec (secure : Bool) : exec (.bar2Read off n secure) s = .next (w.bar2Read off.toNat n.val secure) := by
      rw [hexec, State.bar2Wake_of_up hup, hw]
    refine ⟨fun hide => ?_, fun hide => ⟨fun hphase => ?_, fun hphase ok u hok => ?_⟩⟩
    · rw [hexec, State.bar2Read_of_insecure hwup hide]
    · rw [hexec, State.bar2Read_of_restart hwup hide hphase]
    have hr := w.rsvd_readFrom off.toNat n.val
    have hro := w.rsvd_regsOnly off.toNat n.val
    rw [← hr.judged_eq] at hok
    have hread := State.bar2Read_of_judged hwup hide hphase hok
    refine ⟨fun hbad => ?_, fun hgood => ?_⟩
    · rw [hexec, hread, hbad, if_pos (c := (!false) = true) rfl]
    have hb := (w.rsvd off.toNat n.val).bridle_readFrom (f := 0) (by decide) 0 0x30 clsHOST false
      ((((w.rsvd off.toNat n.val).judged off.toNat n.val).map (· / 4096)).eraseDups)
    have hbo := (w.rsvd off.toNat n.val).bridle_regsOnly 0 0 0x30 clsHOST false
      ((((w.rsvd off.toNat n.val).judged off.toNat n.val).map (· / 4096)).eraseDups)
    rw [hok] at hb hbo
    obtain ⟨l, hout, hl, hbyte⟩ := State.bar2Answer_spec hb hbo.mem_eq hbo.outbox_eq off.toNat n.val
    rw [hro.mem_eq, hro.outbox_eq, hr.internalByte_eq, hr.judged_eq] at hout
    rw [hro.mem_eq, hr.judged_eq] at hl
    exact ⟨_, l, by rw [hexec, hread, hgood, if_neg (by decide)], hout, hl, fun sp a => by rw [hbyte, hro.mem_eq]⟩
  · intro s w off data secure hw hup
    have hwup : w.pcie.hpUp = true := hw ▸ (s.wake_calm 1).hpUp.trans hup
    have hexec (b secure : Bool) : exec (.bar2Write off data b secure) s = .next (w.bar2Write off.toNat data b secure) := by
      have h : exec (.bar2Write off data b secure) s = .next (s.bar2Wake.bar2Write off.toNat data b secure) := rfl
      rw [h, State.bar2Wake_of_up hup, hw]
    refine ⟨fun hide b => ?_, fun hide => ⟨?_, fun hphase => ?_, fun hphase ok u hok => ?_⟩⟩
    · rw [hexec, State.bar2Write_of_insecure hwup hide]
    · rw [hexec, State.bar2Write_of_poisoned hwup hide]
    · rw [hexec, State.bar2Write_of_restart hwup hide hphase]
    have hr := w.rsvd_readFrom off.toNat data.length
    rw [← hr.judged_eq] at hok
    have hwrite := State.bar2Write_of_judged hwup hide hphase hok
    refine ⟨fun hbad => ?_, fun hgood => ?_⟩
    · rw [hexec, hwrite, hbad, if_pos (c := (!false) = true) rfl]
    have hb := (w.rsvd off.toNat data.length).bridle_readFrom (f := 0) (by decide) 0 0x30 clsHOST true
      ((((w.rsvd off.toNat data.length).judged off.toNat data.length).map (· / 4096)).eraseDups)
    have hbo := (w.rsvd off.toNat data.length).bridle_regsOnly 0 0 0x30 clsHOST true
      ((((w.rsvd off.toNat data.length).judged off.toNat data.length).map (· / 4096)).eraseDups)
    rw [hok] at hb hbo
    have hmem : u.mem = w.mem := hbo.mem_eq.trans (w.rsvd_regsOnly _ _).mem_eq
    have hstores := u.bar2Stores off.toNat data rfl
    rw [(hr.trans hb).internalByte_eq, hmem] at hstores
    refine ⟨_, by rw [hexec, hwrite, hgood, if_neg (by decide)], ?_⟩
    rw [(hr.trans hb).internalByte_eq]
    exact hstores

end Sys2Proof.Machine
end


section

/-! Boot and the host port's link through the links, the synchronization pools and the end of a context reset. -/

namespace Sys2Proof.Machine

section
variable (s : State)

theorem State.rein_calm (r : Rein) : s.Calm { s with rein := r } := ⟨rfl, rfl⟩

theorem State.sync_calm (x : Sync) : s.Calm { s with sync := x } := ⟨rfl, rfl⟩

theorem State.out_calm (o : Output) : s.Calm (s.out o) := ⟨rfl, rfl⟩

theorem State.setPort_calm (n : Nat) (p : PortSt) : s.Calm (s.setPort n p) := s.rein_calm _

theorem State.setRx_calm (d : Nat) (p : RxPair) : s.Calm (s.setRx d p) := s.rein_calm _

theorem State.setTx_calm (d : Nat) (p : TxPair) : s.Calm (s.setTx d p) := (s.rein_calm _).trans (State.set_calm _ _ _)

/-! ### The links (R338 to R351) -/

theorem State.emitFlit_calm (n : Nat) (f : Flit) (lseq : Nat) (nak : Bool) : s.Calm (s.emitFlit n f lseq nak) :=
  (s.out_calm _).trans (State.setPort_calm _ _ _)

theorem State.sendFlit_calm (n : Nat) (f : Flit) : s.Calm (s.sendFlit n f) := (s.setPort_calm _ _).trans (State.emitFlit_calm _ _ _ _ _)

theorem State.pumpN_calm (k n : Nat) : s.Calm (State.pumpN k s n) := by
  induction k generalizing s with
  | zero => exact .refl s
  | succ k ih =>
    unfold State.pumpN
    dsimp only
    split
    · exact .refl s
    split
    · exact .refl s
    · exact ((s.setPort_calm _ _).trans (State.sendFlit_calm _ _ _)).trans (ih _)

theorem State.pump_calm (n : Nat) : s.Calm (s.pump n) := .ite (s.pumpN_calm _ _) (.refl s)

theorem State.enqueue_calm (n : Nat) (fs : List Flit) : s.Calm (s.enqueue n fs) := (s.setPort_calm _ _).trans (State.pump_calm _ _)

theorem State.routeMulti_calm (n dest : Nat) : s.Calm (s.routeMulti n dest) := by
  unfold State.routeMulti
  split
  · exact s.stick_calm _
  · exact .refl s

theorem State.originate_calm (m : Msg) : s.Calm (s.originate m) := by
  unfold State.originate
  split
  · exact .refl s
  extract_lets u m' w
  have hw : s.Calm w := (s.routeMulti_calm _ _).trans (u.out_calm _)
  split
  · exact hw.trans (w.enqueue_calm _ _)
  · exact hw

theorem State.answer_calm (m a : Msg) : s.Calm (s.answer m a) := s.originate_calm _

theorem State.refuse_calm (m : Msg) (st : Nat) : s.Calm (s.refuse m st) :=
  State.Calm.trans (.ite (s.setRx_calm _ _) (.refl s)) (State.answer_calm _ _ _)

theorem State.accept_calm (m : Msg) : s.Calm (s.accept m) := .ite (s.rein_calm _) (.ite (.refl s) (s.rein_calm _))

theorem State.txSend_calm (d : Nat) (x : TxMsg) : s.Calm (s.txSend d x) := (s.setTx_calm _ _).trans (State.originate_calm _ _)

theorem State.txDrain_calm (d : Nat) : s.Calm (s.txDrain d) :=
  .foldl _ (.refl s) fun u _ => .ite ((u.setTx_calm _ _).trans (State.txSend_calm _ _ _)) (.refl u)

theorem State.vc0_calm (d : Nat) (m : Msg) (cmd off len : Nat) : s.Calm (s.vc0 d m cmd off len) := (s.rein_calm _).trans (State.originate_calm _ _)

theorem State.vc1_calm (d : Nat) (m : Msg) (cmd : Option Nat) : s.Calm (s.vc1 d m cmd) := (s.setTx_calm _ _).trans (State.txDrain_calm _ _)

/-! ### Counters and waits (R281 to R292) -/

theorem State.setCntSt_calm (n v : Nat) : s.Calm (s.setCntSt n v) := s.sync_calm _

theorem State.setCntVal_calm (n v : Nat) : s.Calm (s.setCntVal n v) := s.sync_calm _

theorem State.setBar_calm (n : Nat) (x : Bar) : s.Calm (s.setBar n x) := s.sync_calm _

theorem State.setLock_calm (n : Nat) (x : Lock) : s.Calm (s.setLock n x) := s.sync_calm _

theorem State.cntFlag_calm (t n k : Nat) : s.Calm (s.cntFlag t n k) := (s.setCntSt_calm _ _).trans (State.stick_calm _ _)

theorem State.cntAdd_calm (t n v : Nat) : s.Calm (s.cntAdd t n v) :=
  .ite (s.setCntVal_calm _ _) ((s.setCntVal_calm _ _).trans (State.cntFlag_calm _ _ _ _))

theorem State.cntSub_calm (t n v : Nat) : s.Calm (s.cntSub t n v) :=
  .ite (s.setCntVal_calm _ _) ((s.setCntVal_calm _ _).trans (State.cntFlag_calm _ _ _ _))

theorem State.ridx_calm (i t src : Nat) : s.Calm (s.ridx i t src) :=
  (((s.stick_calm _).trans (State.set_calm _ _ _)).trans (State.set_calm _ _ _)).trans (State.set_calm _ _ _)

theorem State.consume_calm (t : Nat) (w : WaitCond) : s.Calm (s.consume t w) := by
  unfold State.consume
  split
  · exact .ite (s.cntSub_calm _ _ _) (.refl s)
  · exact .refl s

theorem State.endWait_calm (c : Cmd) : s.Calm (s.endWait c) := by
  unfold State.endWait
  extract_lets cs sat u w
  have hu : s.Calm u := .foldl _ (.refl s) fun v _ => v.consume_calm _ _
  exact (hu.trans (.ite (u.modCmd_calm _ _) (.refl u))).trans (State.fail_calm _ _ _)

theorem State.evalWaitsN_calm (n t : Nat) : s.Calm (State.evalWaitsN n s t) := by
  induction n generalizing s with
  | zero => exact .refl s
  | succ n ih =>
    unfold State.evalWaitsN
    split
    · exact (s.endWait_calm _).trans (ih _)
    · exact .refl s

theorem State.evalWaits_calm (t : Nat) : s.Calm (s.evalWaits t) := s.evalWaitsN_calm _ _

theorem State.counterOp_calm (t op i v : Nat) : s.Calm (s.counterOp t op i v) := by
  unfold State.counterOp
  split
  · exact .refl s
  · exact State.Calm.trans (.ite (s.cntAdd_calm _ _ _) (.ite (s.cntSub_calm _ _ _) (s.setCntVal_calm _ _))) (State.evalWaits_calm _ _)

theorem State.counterWrite_calm (t op i v : Nat) : s.Calm (s.counterWrite t op i v) := .ite (s.counterOp_calm _ _ _ _) (s.stick_calm _)

theorem State.sigLocal_calm (t : Nat) (g : Sig) : s.Calm (s.sigLocal t g) :=
  .ite (.refl s) (.ite (s.counterOp_calm _ _ _ _) (.ite (s.flagUpdate_calm _ _ _ _) (.ite (s.flagUpdate_calm _ _ _ _) (s.msix_calm _ _))))

theorem State.sigRemote_calm (t src : Nat) (g : Sig) : s.Calm (s.sigRemote t src g) :=
  .ite (s.ridx_calm _ _ _) (.ite (s.ridx_calm _ _ _) (.ite (.refl s) (s.sigLocal_calm _ _)))

theorem State.signalIn_calm (m : Msg) : s.Calm (s.signalIn m) := (s.sigRemote_calm _ _ _).trans (State.accept_calm _ _)

/-! ### Barriers (R296 to R299) -/

theorem State.releaseBar_calm (t b home : Nat) (z sat : Bool) : s.Calm (s.releaseBar t b home z sat) :=
  .foldl _ (.refl s) fun u _ => State.Calm.trans (.ite (u.modCmd_calm _ _) (.refl u)) (State.fail_calm _ _ _)

/-- A count of a barrier's counter is calm. -/
theorem State.poolCnt_calm {f : State → Nat → State} (hf : ∀ (u : State) n, u.Calm (f u n)) (o : Option Nat) :
    s.Calm (match o with | some n => f s n | none => s) := by
  split
  · exact hf s _
  · exact .refl s

theorem State.barComplete_calm (t b n : Nat) : s.Calm (s.barComplete t b n) := by
  unfold State.barComplete
  extract_lets x z u1 u2 sat u3 u4 u5 m u6
  have h1 : s.Calm u1 := s.poolCnt_calm (f := fun u a => u.cntSub t a x.parts) (fun u a => u.cntSub_calm _ _ _) _
  have h2 : u1.Calm u2 := u1.poolCnt_calm (f := fun u p => u.cntAdd t p 1) (fun u p => u.cntAdd_calm _ _ _) _
  have h4 : u2.Calm u4 := (u2.setBar_calm _ _).trans (State.releaseBar_calm _ _ _ _ _ _)
  have h5 : u4.Calm u5 := .foldl _ (.refl u4) fun u k => by
    split
    · exact .refl u
    split
    · split
      · exact u.cntAdd_calm _ _ _
      · exact u.ridx_calm _ _ _
    · exact u.vc1_calm _ _ _
  have h6 : u5.Calm u6 := .foldl _ (.refl u5) fun u k => u.vc1_calm _ _ _
  exact ((((h1.trans h2).trans h4).trans h5).trans h6).trans (u6.evalWaits_calm t)

theorem State.barArrive_calm {t b : Nat} {remote : Option Nat} {wait z : Bool} {u : State} (h : s.barArrive t b remote wait = some (z, u)) :
    s.Calm u := by
  unfold State.barArrive at h
  split at h
  · cases h
  next n _ =>
  extract_lets x v x' w full at h
  split at h
  · cases h
  cases h
  have hv : s.Calm v := s.poolCnt_calm (f := fun u a => u.cntAdd t a 1) (fun u a => u.cntAdd_calm _ _ _) _
  exact (hv.trans (v.setBar_calm _ _)).trans (.ite (State.barComplete_calm _ _ _ _) (State.evalWaits_calm _ _))

theorem State.barArriveIn_calm (m : Msg) : s.Calm (s.barArriveIn m) := by
  unfold State.barArriveIn
  split
  · next z u hu => exact (s.barArrive_calm hu).trans (u.answer_calm _ _)
  · exact s.refuse_calm _ _

/-! ### Locks (R273 to R279, R303 to R308) -/

theorem State.modSeq_calm (id : Nat) (f : LockSeq → LockSeq) : s.Calm (s.modSeq id f) := s.lockSeqs_calm _

theorem State.acquired_calm (c : Cmd) : s.Calm (s.acquired c) :=
  ((s.modSeq_calm _ _).trans (State.modCmd_calm _ _ _)).trans (State.fail_calm _ _ _)

theorem State.takeLock_calm (n q chip tag : Nat) : s.Calm (s.takeLock n q chip tag).2 := s.setLock_calm _ _

theorem State.localTaken_calm (c : Cmd) (n : Nat) : s.Calm (s.localTaken c n) := by
  refine (s.takeLock_calm n c.queue s.chip c.id).trans ?_
  unfold State.localTaken
  generalize s.takeLock n c.queue s.chip c.id = o
  obtain ⟨broken, u⟩ := o
  exact .ite ((u.setCmd_calm _).trans (State.acquired_calm _ _)) ((u.setCmd_calm _).trans (State.vc0_calm _ _ _ _ _ _))

theorem State.grantRemote_calm (t n l : Nat) (w : LockWaiter) : s.Calm (s.grantRemote t n l w) :=
  (s.takeLock_calm n w.queue w.chip w.tag).trans (State.originate_calm _ _)

theorem State.lockFreed_calm (t l n : Nat) : s.Calm (s.lockFreed t l n) := by
  unfold State.lockFreed
  extract_lets x
  have hremote (r : List LockWaiter) (w : LockWaiter) : s.Calm ((s.setLock n { x with queue := r }).grantRemote t n l w) :=
    (s.setLock_calm _ _).trans (State.grantRemote_calm _ _ _ _ _)
  split
  · exact .refl s
  · exact s.localTaken_calm _ _
  · exact hremote _ _
  · exact .ite (s.localTaken_calm _ _) (hremote _ _)

theorem State.releaseLock_calm (t l : Nat) (broken : Bool) : s.Calm (s.releaseLock t l broken) := by
  unfold State.releaseLock
  split
  · exact .refl s
  · exact (s.setLock_calm _ _).trans (State.lockFreed_calm _ _ _ _)

theorem State.lockReleaseIn_calm (m : Msg) : s.Calm (s.lockReleaseIn m) := by
  unfold State.lockReleaseIn
  extract_lets l
  split
  · exact .refl s
  · exact .ite (s.setLock_calm _ _) (.ite (s.releaseLock_calm _ _ _) (.refl s))

theorem State.unlessRestart_calm (m : Msg) {k : State} (h : s.Calm k) : s.Calm (s.unlessRestart m k) := .ite (s.refuse_calm _ _) h

theorem State.lockReq_calm (m : Msg) : s.Calm (s.lockReq m) := by
  unfold State.lockReq
  extract_lets l w
  refine s.unlessRestart_calm m ?_
  split
  · exact s.refuse_calm _ _
  · exact .ite (s.setLock_calm _ _) (s.grantRemote_calm _ _ _ _)

/-! ### Posted messages (R346 to R348) -/

theorem State.inboundCheck_calm (port : Nat) (m : Msg) (n : Nat) (wr : Bool) : s.Calm (s.inboundCheck port m n wr).2 := by
  have hbridle (sp t : Nat) : s.Calm (s.bridleRange sp t (0x40 + port) clsREIN wr (daOff m.da) n).2 := (s.bridleRange_noted _ _ _ _ _ _ _).calm
  unfold State.inboundCheck
  extract_lets sp off agent accepted w
  clear_value w
  split
  · split
    · exact .refl s
    · exact hbridle _ _
  split
  · exact .refl s
  split
  · exact .refl s
  split
  · split <;> exact .refl s
  next w' =>
  generalize (!accepted && !(if wr = true then w'.w else w'.r)) = denied
  split
  · exact .refl s
  split
  · exact .refl s
  · exact hbridle _ _

theorem State.csrWrite_calm (fn a v : Nat) : s.Calm (s.csrWrite fn a v) := ⟨rfl, rfl⟩

theorem State.writeIn_calm (port : Nat) (m : Msg) : s.Calm (s.writeIn port m) := by
  have hcheck := s.inboundCheck_calm port m m.data.length true
  unfold State.writeIn
  split
  · next st u hu =>
    rw [hu] at hcheck
    exact hcheck.trans (u.refuse_calm _ _)
  · next u hu =>
    rw [hu] at hcheck
    have haccept := hcheck.trans (u.accept_calm m)
    exact .ite (.foldl _ haccept fun v k => v.csrWrite_calm _ _ _) (haccept.trans (State.memWrite_noted _ _ _).calm)

theorem State.phaseDone_calm (m : Msg) : s.Calm (s.phaseDone m) := (s.cmds_calm _).trans (State.releaseBar_calm _ _ _ _ _ _)

theorem State.staleNotice_calm (m : Msg) : s.Calm (s.staleNotice m) := by
  unfold State.staleNotice
  extract_lets i i'
  split
  · exact s.cntFlag_calm _ _ _
  · exact s.ridx_calm _ _ _

theorem State.vc1Effect_calm (port : Nat) (m : Msg) : s.Calm (s.vc1Effect port m) := by
  refine s.unlessRestart_calm m ?_
  split
  · exact s.writeIn_calm _ _
  · exact s.signalIn_calm _
  · exact s.barArriveIn_calm _
  · exact s.phaseDone_calm _
  · exact s.lockReleaseIn_calm _
  · exact s.staleNotice_calm _
  · exact .refl s

/-! ### The end of a context reset (R405, R406) -/

theorem State.apCounterWrite_calm (t off v : Nat) : s.Calm (s.apCounterWrite t off v) := by
  unfold State.apCounterWrite
  extract_lets i
  refine .ite (s.counterWrite_calm _ _ _ _) (.ite (s.counterWrite_calm _ _ _ _) (.ite (s.counterWrite_calm _ _ _ _) ?_))
  split
  · exact s.setCntSt_calm _ _
  · exact s.stick_calm _

theorem State.ctxApplyHeld_calm (t : Nat) : s.Calm (s.ctxApplyHeld t) := by
  unfold State.ctxApplyHeld
  extract_lets ms r a b cs p d
  have ha : s.Calm a := s.rein_calm _
  have hb : a.Calm b := .foldl _ (.refl a) fun u m => .ite (u.lockReq_calm m) (u.vc1Effect_calm 0 m)
  have hd : b.Calm d := ⟨rfl, rfl⟩
  exact .foldl _ ((ha.trans hb).trans hd) fun u x => u.apCounterWrite_calm _ _ _

theorem State.clearSync_calm (t : Nat) : s.Calm (s.clearSync t) := .foldl _ (s.sync_calm _) fun u _ => u.setLock_calm _ _

theorem State.clearPlans_calm (t : Nat) : s.Calm (s.clearPlans t) := ⟨rfl, rfl⟩

theorem State.clearDescs_calm (t : Nat) : s.Calm (s.clearDescs t) := ⟨rfl, rfl⟩

theorem State.clearPage_calm (t : Nat) : s.Calm (s.clearPage t) := ⟨rfl, rfl⟩

theorem State.ctxClear_calm (t : Nat) : s.Calm (s.ctxClear t) :=
  (((s.clearSync_calm t).trans (State.clearPlans_calm _ t)).trans (State.clearDescs_calm _ t)).trans (State.clearPage_calm _ t)

theorem State.wipeTenant_calm (t : Nat) : s.Calm (s.wipeTenant t) := by
  unfold State.wipeTenant
  refine .foldl _ (.refl s) fun u x => ?_
  split
  · exact .ite (u.mem_noted _).calm (.refl u)
  · exact .refl u

theorem State.eraseKeys_calm : s.Calm s.eraseKeys := by
  unfold State.eraseKeys
  extract_lets x u
  have hu : s.Calm u := State.Calm.trans (u := { s with sec := { s.sec with slots := [], creds := [], lpKey := none, sessions := [] } }) ⟨rfl, rfl⟩
    (State.set_calm _ _ _)
  exact hu.trans ⟨rfl, rfl⟩

theorem State.wipeStart_calm : s.Calm s.wipeStart := .ite s.eraseKeys_calm (.refl s)

theorem State.crsSettle_calm : s.Calm s.crsSettle := .ite ⟨rfl, rfl⟩ (.refl s)

end

end Sys2Proof.Machine
end


section

/-! Context resets, and synchronizations of the firewalls. -/

namespace Sys2Proof.Machine

section
variable {s : State} {t : Nat}

/-! ### Context resets (R405, R406) -/

theorem Fld.tenCtxrst_apart (t : Nat) : F.TEN_CTXRST.Apart (F.TP_CTX_BUSY t) := .inl (by show 0x300004 ≠ 0x1090400 + 0x100000 * t; omega)

theorem tpCtxBusy_inWord (t : Nat) : (F.TP_CTX_BUSY t).inWord := Nat.le_of_ble_eq_true rfl

/-- The bit and the BUSY flag of a tenant's context reset, as `b` says. -/
def State.ctxShown (s : State) (t : Nat) (b : Bool) : State :=
  (s.set F.TEN_CTXRST (putBit (s.get F.TEN_CTXRST) t b)).set (F.TP_CTX_BUSY t) (b2n b)

theorem State.ctxShown_regsOnly (s : State) (t : Nat) (b : Bool) : s.RegsOnly (s.ctxShown t b) := (s.set_regsOnly _ _).trans (State.set_regsOnly _ _ _)

theorem State.bit_ctxShown (s : State) {t : Nat} (ht : t < 16) (b : Bool) : bit ((s.ctxShown t b).get F.TEN_CTXRST) t = b := by
  rw [State.ctxShown, State.get_set_apart (f := F.TP_CTX_BUSY t) (tpCtxBusy_inWord t) (Fld.tenCtxrst_apart t),
    State.get_set_same _ _ _ (by unfold Fld.inWord; decide)]
  exact (bit_mod_two_pow (show t < F.TEN_CTXRST.n from ht) _).trans (bit_putBit _ _ _)

theorem State.busy_ctxShown (s : State) (t : Nat) (b : Bool) : (s.ctxShown t b).on (F.TP_CTX_BUSY t) = b := by
  rw [State.ctxShown, State.on, State.get_set_same _ _ _ (tpCtxBusy_inWord t)]
  cases b <;> rfl

/-- A context reset begins: the tenant is marked. -/
def State.ctxBegun (s : State) (t : Nat) : State :=
  State.ctxShown { s with pcie := { s.pcie with ctxRst := s.pcie.ctxRst ++ [(t, bit (s.get F.TEN_CTXRST_OPT_WIPE) t)] } } t true

/-- The tenant's commands end, its session closed. -/
def State.ctxAborted (s : State) (t : Nat) : State :=
  ((s.closeSession).trace 0x07 0x40 t 0 (leBytes 1 2 ++ leBytes 1 t)).abortTenant t stABORT_CTX
    (((s.closeSession).trace 0x07 0x40 t 0 (leBytes 1 2 ++ leBytes 1 t)).cqTakes t)

theorem State.ctxReset_of_begun (hbusy : s.ctxBusy t = false) (hphase : s.boot.phase ≠ .restart) : s.ctxReset t 0 = (s.ctxBegun t).ctxAborted t := by
  rw [State.ctxReset, if_neg (by simp [hbusy]), if_neg (by simp [hphase])]
  extract_lets wipe p u v w
  have hv : v = s.ctxBegun t := rfl
  have hw : w = (s.ctxBegun t).closeSession.trace 0x07 0x40 t 0 (leBytes 1 2 ++ leBytes 1 t) := hv ▸ rfl
  clear_value w
  show w.abortTenant t stABORT_CTX (true && w.cqTakes t) = _
  rw [Bool.true_and, hw, State.ctxAborted]

theorem State.ctxReset_of_busy (h : s.ctxBusy t = true) : s.ctxReset t 0 = s := if_pos h

/-- The cleared tenant, before what was held for it applies. -/
def State.ctxEnded (s : State) (t : Nat) : State :=
  State.ctxShown { s with pcie := { s.pcie with
    ctxRst := s.pcie.ctxRst.filter (fun (y : Nat × Bool) => y.1 != t), flr := s.pcie.flr.filter (· != t) } } t false

theorem State.ctxFinish_of_busy (h : s.ctxBusy t = true) : ∃ u, (u = s.ctxClear t ∨ u = (s.ctxClear t).wipeTenant t) ∧
    s.ctxFinish t = (((u.ctxEnded t).ctxApplyHeld t).wipeStart).crsSettle := by
  obtain ⟨y, hy, hyt⟩ := List.any_eq_true.mp h
  have hsome : (s.pcie.ctxRst.find? (fun (x : Nat × Bool) => x.1 == t)).isSome := by
    rw [List.find?_isSome]
    exact ⟨y, hy, hyt⟩
  obtain ⟨x, hx⟩ := Option.isSome_iff_exists.mp hsome
  rw [State.ctxFinish, hx]
  dsimp only
  cases x.2
  · exact ⟨_, .inl rfl, rfl⟩
  · exact ⟨_, .inr rfl, rfl⟩

theorem State.ctxEnded_frame (s : State) (t : Nat) : s.ctxEnded t = { s with regs := (s.ctxEnded t).regs, pcie := (s.ctxEnded t).pcie } := by
  have h := State.ctxShown_regsOnly { s with pcie := { s.pcie with
    ctxRst := s.pcie.ctxRst.filter (fun (y : Nat × Bool) => y.1 != t), flr := s.pcie.flr.filter (· != t) } } t false
  rw [State.ctxEnded, h]

theorem State.ctxBusy_ctxEnded (s : State) (t : Nat) : (s.ctxEnded t).ctxBusy t = false := by
  have h := State.ctxShown_regsOnly { s with pcie := { s.pcie with
    ctxRst := s.pcie.ctxRst.filter (fun (y : Nat × Bool) => y.1 != t), flr := s.pcie.flr.filter (· != t) } } t false
  rw [State.ctxBusy, State.ctxEnded, h, List.any_eq_false]
  exact fun x hx => by simpa using (List.mem_filter.mp hx).2

theorem State.ctxBegun_parts (s : State) {t : Nat} (ht : t < 16) :
    (s.ctxBegun t).pcie.ctxRst = s.pcie.ctxRst ++ [(t, bit (s.get F.TEN_CTXRST_OPT_WIPE) t)] ∧
    bit ((s.ctxBegun t).get F.TEN_CTXRST) t = true ∧ (s.ctxBegun t).on (F.TP_CTX_BUSY t) = true ∧
    s.ctxBegun t = { s with regs := (s.ctxBegun t).regs, pcie := (s.ctxBegun t).pcie } := by
  have h := State.ctxShown_regsOnly { s with pcie := { s.pcie with ctxRst := s.pcie.ctxRst ++ [(t, bit (s.get F.TEN_CTXRST_OPT_WIPE) t)] } } t true
  refine ⟨?_, State.bit_ctxShown _ ht _, State.busy_ctxShown _ _ _, ?_⟩
  · rw [State.ctxBegun, h]
  · rw [State.ctxBegun, h]

theorem State.session_closeSession (s : State) : s.closeSession.boot.session = none := by rw [s.closeSession_parts.1]

theorem State.ctxEnded_calm (s : State) (t : Nat) : s.Calm (s.ctxEnded t) :=
  State.Calm.trans (u := { s with pcie := { s.pcie with
    ctxRst := s.pcie.ctxRst.filter (fun (y : Nat × Bool) => y.1 != t), flr := s.pcie.flr.filter (· != t) } }) ⟨rfl, rfl⟩
    (State.ctxShown_regsOnly _ _ _).calm

theorem State.ctxFinish_calm (h : s.ctxBusy t = true) : s.Calm (s.ctxFinish t) := by
  obtain ⟨u, hu, hfinish⟩ := State.ctxFinish_of_busy h
  have hclear : s.Calm u := by
    rcases hu with rfl | rfl
    · exact s.ctxClear_calm t
    · exact (s.ctxClear_calm t).trans (State.wipeTenant_calm _ t)
  rw [hfinish]
  exact (((hclear.trans (u.ctxEnded_calm t)).trans (State.ctxApplyHeld_calm _ t)).trans (State.wipeStart_calm _)).trans (State.crsSettle_calm _)

theorem State.ctxComplete_calm (s : State) (t : Nat) : s.Calm (s.ctxComplete t) := by
  unfold State.ctxComplete
  split
  · next h => exact State.ctxFinish_calm (Bool.and_eq_true_iff.mp h).1
  · exact .refl s

theorem State.Calm.blockOpen_eq {s u : State} (h : s.Calm u) : u.blockOpen = s.blockOpen := by
  rw [State.blockOpen, State.blockOpen, h.boot]

theorem State.blockOpen_of_phase (h : s.boot.phase ≠ .restart) : s.blockOpen = true := bne_iff_ne.mpr h

theorem State.blockOpen_of_restart (h : s.boot.phase = .restart) : s.blockOpen = false := by simp [State.blockOpen, h]

/-! ### Synchronizations of the firewalls (R403) -/

theorem State.brdSync_parts (s : State) : s.brdSync.get F.BRD_SYNC = 1 ∧
    s.brdSync.pcie.brdSync = some ((s.cmds.filter fun (c : Cmd) => !c.isEnded).map (·.id)) ∧
    s.brdSync = { s with regs := s.brdSync.regs, pcie := s.brdSync.pcie } := by
  have h : ({ s with pcie := { s.pcie with brdSync := some ((s.cmds.filter fun (c : Cmd) => !c.isEnded).map (·.id)) } } : State).RegsOnly
    s.brdSync := State.set_regsOnly _ _ _
  exact ⟨State.get_set_same _ _ _ (by unfold Fld.inWord; decide), by rw [h], by rw [h]⟩

theorem State.brdSyncEnd_of_done {ids : List Nat} (hids : s.pcie.brdSync = some ids)
    (hall : ∀ i ∈ ids, ∀ c, s.cmd? i = some c → c.isEnded = true) : s.brdSyncEnd.get F.BRD_SYNC = 0 ∧ s.brdSyncEnd.pcie.brdSync = none ∧
    s.brdSyncEnd = { s with regs := s.brdSyncEnd.regs, pcie := s.brdSyncEnd.pcie } := by
  have hended : (ids.all fun i => (s.cmd? i).all Cmd.isEnded) = true := by
    rw [List.all_eq_true]
    intro i hi
    cases hc : s.cmd? i with
    | none => rfl
    | some c => exact hall i hi c hc
  have heq : s.brdSyncEnd = State.set { s with pcie := { s.pcie with brdSync := none } } F.BRD_SYNC 0 := by
    unfold State.brdSyncEnd
    rw [hids]
    exact if_pos hended
  have h : ({ s with pcie := { s.pcie with brdSync := none } } : State).RegsOnly s.brdSyncEnd := heq ▸ State.set_regsOnly _ _ _
  exact ⟨heq ▸ State.get_set_same _ _ _ (by unfold Fld.inWord; decide), by rw [h], by rw [h]⟩

theorem State.brdSyncEnd_of_open {ids : List Nat} {i : Nat} {c : Cmd} (hids : s.pcie.brdSync = some ids) (hi : i ∈ ids)
    (hc : s.cmd? i = some c) (hopen : c.isEnded = false) : s.brdSyncEnd = s := by
  have hnot : ¬ (ids.all fun i => (s.cmd? i).all Cmd.isEnded) = true := fun hall => by
    have h := List.all_eq_true.mp hall i hi
    rw [hc] at h
    exact Bool.false_ne_true (hopen.symm.trans h)
  unfold State.brdSyncEnd
  rw [hids]
  exact if_neg hnot

theorem State.brdSyncEnd_of_none (h : s.pcie.brdSync = none) : s.brdSyncEnd = s := by rw [State.brdSyncEnd, h]

/-! ### The four rows -/

theorem exec_contextReset (t : Tenant) : exec (.contextReset t) s = .next (if s.blockOpen then s.ctxReset t.val 0 else s) := rfl

theorem exec_contextResetComplete (t : Tenant) (same : Bool) : exec (.contextResetComplete t same) s =
    .next (if same && s.blockOpen then (s.ctxComplete t.val).ctxReset t.val 0 else s.ctxComplete t.val) := rfl

theorem exec_brdSync : exec .brdSync s = .next (if s.blockOpen then s.brdSync else s) := rfl

theorem exec_brdSyncComplete (same : Bool) : exec (.brdSyncComplete same) s =
    .next (if same && s.blockOpen then s.brdSyncEnd.brdSync else s.brdSyncEnd) := rfl

end

/-- Settles O46: no part of a context reset's end moves the boot phase, so the block stays open through it. -/
theorem contextResetsAndSyncsComplete : Obligations.ContextResetsAndSyncsComplete := by
  unfold Obligations.ContextResetsAndSyncsComplete
  intro s t same
  refine ⟨fun hphase hbusy => ?_, fun h => ?_, fun u hu => ?_, fun hbusy hdr hsame => ?_, fun h => ?_, fun h => ?_,
    fun ids hids hall => ?_, fun ids i c hids hi hc hend => ?_, fun hnone => ?_⟩
  · obtain ⟨hrst, hbit, hon, hframe⟩ := s.ctxBegun_parts t.isLt
    refine ⟨s.ctxBegun t.val, ?_, hrst, hbit, hon, State.session_closeSession _, hframe⟩
    rw [exec_contextReset, if_pos (State.blockOpen_of_phase hphase), State.ctxReset_of_begun hbusy hphase, State.ctxAborted]
  · rw [exec_contextReset]
    rcases h with hbusy | hphase
    · rw [State.ctxReset_of_busy hbusy, ite_self]
    · rw [State.blockOpen_of_restart hphase, if_neg Bool.false_ne_true]
  · have hu' : u = s.ctxComplete t.val := hu
    rw [exec_contextResetComplete, hu', (s.ctxComplete_calm t.val).blockOpen_eq]
  · obtain ⟨u, hu, hfinish⟩ := State.ctxFinish_of_busy hbusy
    refine ⟨u, u.ctxEnded t.val, ?_, u.ctxBusy_ctxEnded t.val, State.bit_ctxShown _ t.isLt _, State.busy_ctxShown _ _ _, hu, u.ctxEnded_frame t.val⟩
    rw [exec_contextResetComplete, hsame, Bool.false_and, if_neg Bool.false_ne_true, State.ctxComplete, hbusy, hdr, Bool.and_true, if_pos rfl, hfinish]
  · exact ⟨s.brdSync, by rw [exec_brdSync, if_pos (State.blockOpen_of_phase h)], s.brdSync_parts⟩
  · rw [exec_brdSync, State.blockOpen_of_restart h, if_neg Bool.false_ne_true]
  · exact ⟨s.brdSyncEnd, exec_brdSyncComplete same, State.brdSyncEnd_of_done hids hall⟩
  · rw [exec_brdSyncComplete, State.brdSyncEnd_of_open hids hi hc hend]
  · rw [exec_brdSyncComplete, State.brdSyncEnd_of_none hnone]

end Sys2Proof.Machine
end
